-- ==== Sys2Proof/Word.lean ====
section
/-! DEFINITION. The machine's word types (02 R30, R31): plain names for bit vectors, nothing a repair could have to mend. -/

namespace Sys2Proof

/-- A byte. -/
abbrev W8 := BitVec 8
/-- A half-word. -/
abbrev W16 := BitVec 16
/-- A register word. -/
abbrev W32 := BitVec 32
/-- A 64-bit value: a register pair, an address, a counter (R31). -/
abbrev W64 := BitVec 64

end Sys2Proof
end

