-- ==== Sys2Proof/Machine/Bits.lean ====
section
/-! DEFINITION. Bit fields, pairs and byte order (00 R2, R3; 02 R31; 09 R176). -/

namespace Sys2Proof.Machine

/-- Bit `n` of `x` as a Boolean (R3). -/
def bit {w : Nat} (x : BitVec w) (n : Nat) : Bool := x.getLsbD n

/-- The field `x[hi:lo]` as a number (R3). -/
def field {w : Nat} (x : BitVec w) (hi lo : Nat) : Nat := x.toNat / 2 ^ lo % 2 ^ (hi + 1 - lo)

/-- One bit from a Boolean. -/
def ofBool (b : Bool) : BitVec 1 := if b then 1 else 0

/-- 1 or 0 in a number of any width. -/
def boolNat (b : Bool) : Nat := if b then 1 else 0

/-- The pair {hi, lo} (R31). -/
def pair (hi lo : W32) : W64 := hi ++ lo

/-- The low register of a pair (R31). -/
def lo32 (x : W64) : W32 := x.truncate 32

/-- The high register of a pair (R31). -/
def hi32 (x : W64) : W32 := (x >>> 32).truncate 32

/-- Element `k` of 16 bits of a register (R31). -/
def half (x : W32) (k : Nat) : W16 := (x >>> (16 * k)).truncate 16

/-- Two 16-bit elements, element 0 in the low half (R31). -/
def halves (e0 e1 : W16) : W32 := e1 ++ e0

/-- Element `k` of 8 bits of a register (R31). -/
def byteOf (x : W32) (k : Nat) : W8 := (x >>> (8 * k)).truncate 8

/-- Four bytes, element 0 lowest (R31). -/
def bytes4 (b0 b1 b2 b3 : W8) : W32 := b3 ++ b2 ++ b1 ++ b0

/-- The `n` little-endian bytes of a number (R2). -/
def leBytes : Nat → Nat → List W8
  | 0, _ => []
  | n + 1, x => BitVec.ofNat 8 x :: leBytes n (x / 256)

/-- The number whose little-endian bytes are the list (R2). -/
def leNat : List W8 → Nat
  | [] => 0
  | b :: bs => b.toNat + 256 * leNat bs

/-- The number in `n` bytes at offset `off` of a byte list; missing bytes read 0. -/
def leAt (bs : List W8) (off n : Nat) : Nat := leNat ((bs.drop off).take n)

/-- A byte list padded with zero bytes to a multiple of `m`. -/
def padTo (m : Nat) (bs : List W8) : List W8 :=
  bs ++ List.replicate ((m - bs.length % m) % m) 0

/-- SignExt of R176, from `w` bits to `n`. -/
def signExt {w : Nat} (n : Nat) (x : BitVec w) : BitVec n := x.signExtend n

/-- ZeroExt of R176. -/
def zeroExt {w : Nat} (n : Nat) (x : BitVec w) : BitVec n := x.zeroExtend n

/-- Sat of R176. -/
def sat (x lo hi : Int) : Int := if x < lo then lo else if x > hi then hi else x

/-- Numbers `0 .. n-1` ascending. -/
def upTo (n : Nat) : List Nat := List.range n

/-- The number of 1 bits among bits `0 .. n-1` of `x`. -/
def countBits {w : Nat} (x : BitVec w) : Nat → Nat
  | 0 => 0
  | n + 1 => boolNat (x.getLsbD n) + countBits x n

/-- The number of 0 bits above the highest 1 among bits `0 .. n-1`; `n` when there is none. -/
def leadingZeros {w : Nat} (x : BitVec w) : Nat → Nat
  | 0 => 0
  | n + 1 => if x.getLsbD n then 0 else 1 + leadingZeros x n

/-- Bit `j` of the result is bit `n-1-j` of `x`. -/
def reverseBits {w : Nat} (x : BitVec w) : BitVec w :=
  BitVec.ofNat w ((upTo w).foldl (fun acc j => 2 * acc + boolNat (x.getLsbD j)) 0)

/-- The position of the highest 1 bit of a number below `2 ^ (fuel)`; 0 for 0. -/
def log2Fuel : Nat → Nat → Nat
  | 0, _ => 0
  | f + 1, x => if x < 2 then 0 else 1 + log2Fuel f (x / 2)

end Sys2Proof.Machine
end

