-- ==== Sys2Proof/Syntax.lean ====
section
/-! DEFINITION. The abstract syntax: one constructor per row of the opcode table. 211 rows are instruction forms (03 R68); the others
are the steps the machine takes besides (95). A form carries one operand record. Register fields stay the 7-bit numbers of R57,
because R59 and R60 check them item by item when the instruction executes; every other field is turned into a name here. -/

namespace Sys2Proof

/-- The conditions of icmp (R69). -/
inductive Cond where
  | eq | ne | lt | le | gt | ge | lo | ls | hi | hs
  deriving DecidableEq, Repr

/-- The conditions of fcmp (R203). -/
inductive FloatCond where
  | eq | ne | lt | le | gt | ge | un | or
  deriving DecidableEq, Repr

/-- The RND field of R70: the item's own mode, or one of R40's four. -/
inductive Rnd where
  | dynamic | rne | rtz | rdn | rup
  deriving DecidableEq, Repr

/-- The PREC field of R70. -/
inductive Prec where
  | f32 | f64 | f16 | bf16
  deriving DecidableEq, Repr

/-- The ORD field of R71. -/
inductive Order where
  | relaxed | acquire | release | acqRel | sc
  deriving DecidableEq, Repr

/-- The SCOPE field of R71 and the scopes of R279. -/
inductive Scope where
  | grp | clu | die | dev | sys
  deriving DecidableEq, Repr

/-- The WIDTH field of R71. -/
inductive Width where
  | b8 | b16 | b32 | b64 | b128
  deriving DecidableEq, Repr

/-- The level of pf (R71, R273). -/
inductive PfLevel where
  | l1 | l2 | llc
  deriving DecidableEq, Repr

/-- The integer operations of wscan, wred and bar.red (R173, R310). -/
inductive IntFold where
  | add | and | or | xor | min | max
  deriving DecidableEq, Repr

/-- The floating operations of wfred and bar.red (R173, R310). -/
inductive FloatFold where
  | fadd | fmin | fmax
  deriving DecidableEq, Repr

/-- The counter classes of R292, R324. -/
inductive CounterClass where
  | copy | matrix | gather | collective
  deriving DecidableEq, Repr

/-- The fields every form has (R57, R58): registers D, A, B and C, the modifier M, lookahead LA and guard G.
A field that the form does not have holds 0; a format A form holds LA = 0 and G = 0b0111. -/
structure Form where
  d : BitVec 7
  a : BitVec 7
  b : BitVec 7
  c : BitVec 7
  m : BitVec 2
  la : BitVec 4
  g : BitVec 4
  deriving DecidableEq, Repr

/-- A form with a 16-bit immediate. -/
structure ImmForm extends Form where
  imm : W16
  deriving DecidableEq, Repr

/-- A format D form with a literal. -/
structure LitForm extends Form where
  lit : W32
  deriving DecidableEq, Repr

/-- icmp. -/
structure CmpForm extends Form where
  cond : Cond
  deriving DecidableEq, Repr

/-- bfe, bfes, bfi (R185). -/
structure BitsForm extends Form where
  pos : BitVec 5
  len : BitVec 6
  deriving DecidableEq, Repr

/-- A floating form (R70). -/
structure FloatForm extends Form where
  rnd : Rnd
  prec : Prec
  deriving DecidableEq, Repr

/-- fcmp (R203). -/
structure FloatCmpForm extends FloatForm where
  cond : FloatCond
  deriving DecidableEq, Repr

/-- The conversions of R210. -/
structure ConvertForm extends FloatForm where
  uns : Bool
  dprec : Prec
  deriving DecidableEq, Repr

/-- f8pack, f8unpack, f16pack (R211). -/
structure PackForm extends FloatForm where
  e5m2 : Bool
  sat : Bool
  deriving DecidableEq, Repr

/-- xe3m2, xe2m3 (R212). -/
structure ExpandForm extends FloatForm where
  grp : BitVec 2
  deriving DecidableEq, Repr

/-- xint4 (R212). -/
structure Xint4Form extends FloatForm where
  hi : Bool
  deriving DecidableEq, Repr

/-- faddl, fmull, fmal (R208). -/
structure FloatLitForm extends FloatForm where
  lit : W32
  deriving DecidableEq, Repr

/-- The shuffles (R171). -/
structure ShuffleForm extends Form where
  seg : BitVec 3
  rb : Bool
  k : BitVec 5
  deriving DecidableEq, Repr

/-- wscan, wred (R173). -/
structure ScanForm extends Form where
  seg : BitVec 3
  exc : Bool
  w64 : Bool
  op : IntFold
  uns : Bool
  deriving DecidableEq, Repr

/-- wfred (R173). -/
structure FloatScanForm extends Form where
  seg : BitVec 3
  op : FloatFold
  f64 : Bool
  deriving DecidableEq, Repr

/-- ld, st, ldu, ldfe, stfe (R71). -/
structure MemForm extends Form where
  width : Width
  sx : Bool
  scale : BitVec 2
  idx : Bool
  clr : Bool
  ord : Order
  scope : Scope
  off : BitVec 10
  deriving DecidableEq, Repr

/-- pf (R71, R273). -/
structure PrefetchForm extends Form where
  level : PfLevel
  scale : BitVec 2
  idx : Bool
  off : BitVec 10
  deriving DecidableEq, Repr

/-- The atomic forms (R71, R267). -/
structure AtomForm extends Form where
  uns : Bool
  w64 : Bool
  ord : Order
  scope : Scope
  off : BitVec 10
  deriving DecidableEq, Repr

/-- The fences (R295), wake1 and wakeall (R318). -/
structure ScopeForm extends Form where
  scope : Scope
  deriving DecidableEq, Repr

/-- The bar forms of R304. -/
structure BarForm extends Form where
  bar : BitVec 4
  deriving DecidableEq, Repr

/-- The kind of a bar.red, IMM16[8:0] (R310): an integer fold, or a floating one. -/
inductive RedKind where
  | int (w64 : Bool) (op : IntFold) (uns : Bool)
  | flt (op : FloatFold) (f64 : Bool)
  deriving DecidableEq, Repr

/-- bar.red (R310). -/
structure BarRedForm extends Form where
  bar : BitVec 4
  kind : RedKind
  deriving DecidableEq, Repr

/-- waitv (R318). -/
structure WaitvForm extends Form where
  ord : Order
  scope : Scope
  texp : BitVec 5
  deriving DecidableEq, Repr

/-- waitc (R324). -/
structure WaitcForm extends Form where
  cls : CounterClass
  thresh : BitVec 6
  deriving DecidableEq, Repr

/-- macq (R232): the tile's format. -/
structure MacqForm extends Form where
  int32 : Bool
  deriving DecidableEq, Repr

/-- mdrains (R238). NRB − 1 as encoded. -/
structure DrainForm extends Form where
  ofmt : BitVec 4
  rb0 : BitVec 3
  nrb1 : BitVec 3
  deriving DecidableEq, Repr

/-- mwlat (R236). -/
structure LatchForm extends Form where
  wfmt : BitVec 4
  sp : Bool
  deriving DecidableEq, Repr

/-- mfill, madd (R239). -/
structure RowsForm extends Form where
  rb0 : BitVec 3
  nrb1 : BitVec 3
  deriving DecidableEq, Repr

/-- The control-register forms (R74). -/
structure CsrForm extends Form where
  num : BitVec 12
  deriving DecidableEq, Repr

/-- hret (R416). -/
structure HretForm extends Form where
  tgt : Bool
  deriving DecidableEq, Repr

/-- ctxsave, ctxload (R98), tlbinv (R366): the 6-bit size. -/
structure SizeForm extends Form where
  sz : BitVec 6
  deriving DecidableEq, Repr

/-- hcread (R409). -/
structure SelForm extends Form where
  sel : BitVec 2
  deriving DecidableEq, Repr

/-- A decoding failure: ILLEGAL's REASON and FIELD (R67) and the ILEN of R413. -/
structure Illegal where
  reason : Nat
  field : Nat
  ilen : Nat
  deriving DecidableEq, Repr

/-- What firmware chooses when it writes bind entries (R111, R120): the seats (4 × core + seat) of one gang, or one seat,
with the kernel, stage, count and gang number. -/
structure BindChoice where
  seats : List Nat
  kh : Nat
  stage : Nat
  count : Nat
  gangId : Nat
  deriving DecidableEq, Repr

/-- A gang message (R130): the receiving context, the sender's rank in the peer set and the gang number N. -/
structure GangMsg where
  ctx : Nat
  rank : Nat
  n : Nat
  deriving DecidableEq, Repr

/-- RESERVE (R131): what the message carries, with the coordinator's peer entries that R132 compares. -/
structure ReserveMsg where
  ctx : Nat
  n : Nat
  toexp : Nat
  desc : W64
  prio : Nat
  tag : W32
  smask : W16
  sval : List W32
  peers : List (Nat × Nat)
  deriving DecidableEq, Repr

/-- Tokens of a line on their way from one slice to another (R284). -/
structure TokenMove where
  line : Nat
  src : Nat
  dst : Nat
  plain : Nat
  owner : Bool
  deriving DecidableEq, Repr

/-- Whose budgets a period boundary refills (R89, R347). -/
inductive Regulator where
  | copyEngine (die engine : Nat)
  | router (die : Nat)
  | recorder (kind index : Nat)
  | bucketCore (core : Nat)
  | bucketEngine (die engine : Nat)
  deriving DecidableEq, Repr

/-- What training of a fabric link found (R374, R375). -/
structure Training where
  txGood : Nat
  rxGood : Nat
  peer : Nat
  deriving DecidableEq, Repr

/-- What training of a CXL port found (R383, R387). -/
structure CxlTraining where
  narrow : Bool
  slow : Bool
  capacity : Nat
  deriving DecidableEq, Repr

/-- An inbound CXL response (R298, R384): data with its poison bit, and the state a GO grants (0 none, 1 S, 2 E). -/
structure CxlAnswer where
  data : List W8
  poison : Bool
  go : Nat
  deriving DecidableEq, Repr

/-- A request that reaches a port over CXL.io, or one that uses an absent part of CXL (R381). -/
inductive IoRequest where
  | configRead (offset : Nat)
  | configWrite (offset : Nat) (value : W32)
  | enumerate
  | errorReport
  | absentPart
  deriving DecidableEq, Repr

/-- Readings of the device's sensors (R466). -/
structure Sensors where
  power : List Nat
  package : Nat
  temp : List Nat
  deriving DecidableEq, Repr

/-- The instructions and steps of the machine: one constructor per row of the opcode table. -/
inductive Instr where
  /-- Adds two 32-bit operands modulo 2^32. (R179) -/
  | iadd (o : Form)
  /-- Subtracts two 32-bit operands modulo 2^32. (R179) -/
  | isub (o : Form)
  /-- Gives the low 32 bits of the product of two operands. (R179) -/
  | imul (o : Form)
  /-- Bitwise and of two operands. (R179) -/
  | and (o : Form)
  /-- Bitwise or of two operands. (R179) -/
  | or (o : Form)
  /-- Bitwise exclusive or of two operands. (R179) -/
  | xor (o : Form)
  /-- Logical left shift by the whole unmasked count. (R181) -/
  | shl (o : Form)
  /-- Logical right shift by the whole unmasked count. (R181) -/
  | shr (o : Form)
  /-- Arithmetic right shift with the count clamped to 31. (R181) -/
  | sar (o : Form)
  /-- Signed minimum of two operands. (R179) -/
  | imin (o : Form)
  /-- Signed maximum of two operands. (R179) -/
  | imax (o : Form)
  /-- Unsigned minimum of two operands. (R179) -/
  | umin (o : Form)
  /-- Unsigned maximum of two operands. (R179) -/
  | umax (o : Form)
  /-- Signed saturating addition, raising SAT when clamped. (R179) -/
  | iaddsat (o : Form)
  /-- Signed saturating subtraction, raising SAT when clamped. (R179) -/
  | isubsat (o : Form)
  /-- Adds a sign-extended 16-bit immediate. (R180) -/
  | iaddi (o : ImmForm)
  /-- Bitwise and with a zero-extended immediate. (R180) -/
  | andi (o : ImmForm)
  /-- Bitwise or with a zero-extended immediate. (R180) -/
  | ori (o : ImmForm)
  /-- Bitwise exclusive or with a zero-extended immediate. (R180) -/
  | xori (o : ImmForm)
  /-- Logical left shift by an immediate count. (R180) -/
  | shli (o : ImmForm)
  /-- Logical right shift by an immediate count. (R180) -/
  | shri (o : ImmForm)
  /-- Arithmetic right shift by an immediate count. (R180) -/
  | sari (o : ImmForm)
  /-- Compares two integers under a condition and writes a predicate. (R182) -/
  | icmp (o : CmpForm)
  /-- High word of the signed 64-bit product. (R183) -/
  | imulhi (o : Form)
  /-- High word of the unsigned 64-bit product. (R183) -/
  | umulhi (o : Form)
  /-- Signed division truncated toward zero with defined zero-divisor and overflow results. (R184) -/
  | idiv (o : Form)
  /-- Unsigned division with a defined zero-divisor result. (R184) -/
  | udiv (o : Form)
  /-- Signed remainder taking the dividend's sign. (R184) -/
  | irem (o : Form)
  /-- Unsigned remainder. (R184) -/
  | urem (o : Form)
  /-- Counts the 1 bits of an operand. (R186) -/
  | popc (o : Form)
  /-- Counts leading zero bits of an operand. (R186) -/
  | clz (o : Form)
  /-- Reverses the bit order of an operand. (R186) -/
  | brev (o : Form)
  /-- Extracts a bit field zero-extended. (R186) -/
  | bfe (o : BitsForm)
  /-- Extracts a bit field sign-extended. (R186) -/
  | bfes (o : BitsForm)
  /-- Inserts a bit field into an operand. (R186) -/
  | bfi (o : BitsForm)
  /-- Selects one of two operands by a predicate. (R187) -/
  | sel (o : Form)
  /-- Integer multiply-add modulo 2^32. (R187) -/
  | imad (o : Form)
  /-- Adds with carry in and out through a predicate. (R188) -/
  | addc (o : Form)
  /-- Subtracts with borrow in and out through a predicate. (R188) -/
  | subb (o : Form)
  /-- Adds 64-bit register pairs. (R189) -/
  | iadd64 (o : Form)
  /-- Subtracts 64-bit register pairs. (R189) -/
  | isub64 (o : Form)
  /-- Logical left shift of a 64-bit pair. (R189) -/
  | shl64 (o : Form)
  /-- Logical right shift of a 64-bit pair. (R189) -/
  | shr64 (o : Form)
  /-- Arithmetic right shift of a 64-bit pair. (R189) -/
  | sar64 (o : Form)
  /-- Forms a 64-bit address from base plus scaled index. (R190) -/
  | lea (o : ImmForm)
  /-- Copies a register, including between v and s files. (R191) -/
  | mov (o : Form)
  /-- Loads a sign-extended 16-bit immediate. (R191) -/
  | movi (o : ImmForm)
  /-- Loads a 32-bit literal. (R191) -/
  | movl (o : LitForm)
  /-- Floating-point addition with one rounding. (R202) -/
  | fadd (o : FloatForm)
  /-- Floating-point subtraction with one rounding. (R202) -/
  | fsub (o : FloatForm)
  /-- Floating-point multiplication with one rounding. (R202) -/
  | fmul (o : FloatForm)
  /-- Floating-point minimum with R38 NaN handling. (R205) -/
  | fmin (o : FloatForm)
  /-- Floating-point maximum with R38 NaN handling. (R205) -/
  | fmax (o : FloatForm)
  /-- Floating-point division with one rounding. (R202) -/
  | fdiv (o : FloatForm)
  /-- Floating-point square root with one rounding. (R202) -/
  | fsqrt (o : FloatForm)
  /-- Fused multiply-add a×b+c. (R202) -/
  | fma (o : FloatForm)
  /-- Fused multiply-subtract a×b−c. (R202) -/
  | fms (o : FloatForm)
  /-- Fused negated multiply-add −(a×b)+c. (R202) -/
  | fnma (o : FloatForm)
  /-- Fused negated multiply-subtract −(a×b)−c. (R202) -/
  | fnms (o : FloatForm)
  /-- Compares floating operands under a condition into a predicate. (R203) -/
  | fcmp (o : FloatCmpForm)
  /-- Writes a class mask of a floating operand. (R204) -/
  | fclass (o : FloatForm)
  /-- Negates the sign bit. (R206) -/
  | fneg (o : FloatForm)
  /-- Clears the sign bit. (R206) -/
  | fabs (o : FloatForm)
  /-- Copies the sign of the second operand. (R206) -/
  | fsgnj (o : FloatForm)
  /-- Copies the negated sign of the second operand. (R206) -/
  | fsgnjn (o : FloatForm)
  /-- Sets the sign to the xor of both signs. (R206) -/
  | fsgnjx (o : FloatForm)
  /-- Approximates 2^a within a fixed bound. (R209) -/
  | fexp2 (o : FloatForm)
  /-- Approximates log2(a) within a fixed bound. (R209) -/
  | flog2 (o : FloatForm)
  /-- Approximates sin(a). (R209) -/
  | fsin (o : FloatForm)
  /-- Approximates cos(a). (R209) -/
  | fcos (o : FloatForm)
  /-- Approximates 1/a. (R209) -/
  | frcp (o : FloatForm)
  /-- Approximates 1/sqrt(a). (R209) -/
  | frsq (o : FloatForm)
  /-- Converts between floating formats for the allowed pairs. (R210) -/
  | fcvt (o : ConvertForm)
  /-- Converts a float to a 32-bit integer. (R210) -/
  | fcvti (o : ConvertForm)
  /-- Converts a 32-bit integer to a float. (R210) -/
  | icvtf (o : ConvertForm)
  /-- Rounds a float to an integral value. (R210) -/
  | frint (o : ConvertForm)
  /-- Converts a float to a 64-bit integer. (R210) -/
  | fcvtil (o : ConvertForm)
  /-- Converts a 64-bit integer to a float. (R210) -/
  | icvtfl (o : ConvertForm)
  /-- Rounds four FP32 values into FP8 bytes. (R211) -/
  | f8pack (o : PackForm)
  /-- Widens four FP8 bytes to FP32. (R211) -/
  | f8unpack (o : PackForm)
  /-- Rounds two FP32 values into packed FP16 or BF16. (R211) -/
  | f16pack (o : PackForm)
  /-- Widens packed FP16 or BF16 to FP32. (R211) -/
  | f16unpack (o : FloatForm)
  /-- Expands E3M2 storage elements to E4M3. (R212) -/
  | xe3m2 (o : ExpandForm)
  /-- Expands E2M3 storage elements to E4M3. (R212) -/
  | xe2m3 (o : ExpandForm)
  /-- Expands INT4 elements to E4M3. (R212) -/
  | xint4 (o : Xint4Form)
  /-- Quantises eight FP32 values to E2M1 under a block scale. (R214) -/
  | mxq (o : FloatForm)
  /-- Dequantises four E2M1 codes to FP32. (R215) -/
  | mxdq (o : FloatForm)
  /-- Computes the E8M0 block scale from a magnitude. (R213) -/
  | mxscale (o : FloatForm)
  /-- Splits an FP64 value into base-128 digits or a class value. (R216) -/
  | fsplit (o : FloatForm)
  /-- Joins a 128-bit integer sum into FP64 with one rounding. (R217) -/
  | fjoin (o : FloatForm)
  /-- Two-element 16-bit dot product accumulated into FP32. (R208) -/
  | fdot2 (o : FloatForm)
  /-- Four-element FP8 dot product accumulated into FP32. (R208) -/
  | fdot4 (o : FloatForm)
  /-- Adds an FP32 literal. (R208) -/
  | faddl (o : FloatLitForm)
  /-- Multiplies by an FP32 literal. (R208) -/
  | fmull (o : FloatLitForm)
  /-- Fused multiply by a literal and add. (R208) -/
  | fmal (o : FloatLitForm)
  /-- Multiplies by a power of two given by an integer. (R207) -/
  | fscale (o : FloatForm)
  /-- Extracts the exponent of a float. (R207) -/
  | fgetexp (o : FloatForm)
  /-- Extracts the significand of a float. (R207) -/
  | fgetman (o : FloatForm)
  /-- Minimum preferring the non-NaN operand. (R205) -/
  | fminnm (o : FloatForm)
  /-- Maximum preferring the non-NaN operand. (R205) -/
  | fmaxnm (o : FloatForm)
  /-- PC-relative branch. (R162) -/
  | bra (o : ImmForm)
  /-- Indirect branch to a register pair. (R162) -/
  | brx (o : Form)
  /-- Branch by a 32-bit literal byte offset. (R162) -/
  | jmpl (o : LitForm)
  /-- PC-relative call pushing the caller's frame. (R166) -/
  | call (o : ImmForm)
  /-- Indirect call pushing the caller's frame. (R166) -/
  | callx (o : Form)
  /-- Call by a literal offset pushing the caller's frame. (R166) -/
  | calll (o : LitForm)
  /-- Returns from a procedure restoring the caller's frame. (R167) -/
  | ret (o : Form)
  /-- Ends the item and vacates its slot. (R146) -/
  | exit (o : Form)
  /-- Arrives at the group's refill phase. (R145) -/
  | rfpt (o : Form)
  /-- Sets the item aside to let other items issue. (R163) -/
  | yield (o : Form)
  /-- Advances the PC only. (R163) -/
  | nop (o : Form)
  /-- Traps BREAK with a code. (R163) -/
  | brk (o : ImmForm)
  /-- Moves the item to a landing group at an address's home base die. (R148) -/
  | migr (o : Form)
  /-- Indexed cross-lane shuffle. (R171) -/
  | shfli (o : ShuffleForm)
  /-- Shuffle from a lower lane. (R171) -/
  | shflu (o : ShuffleForm)
  /-- Shuffle from a higher lane. (R171) -/
  | shfld (o : ShuffleForm)
  /-- Butterfly xor shuffle. (R171) -/
  | shflx (o : ShuffleForm)
  /-- Predicate true if true in every participant. (R172) -/
  | vall (o : Form)
  /-- Predicate true if true in some participant. (R172) -/
  | vany (o : Form)
  /-- Gathers a predicate from every lane into a mask. (R172) -/
  | ballot (o : Form)
  /-- Mask of lanes holding an equal value. (R172) -/
  | matchLanes (o : Form)
  /-- Integer scan over a window segment. (R173) -/
  | wscan (o : ScanForm)
  /-- Integer reduction over a window segment. (R173) -/
  | wred (o : ScanForm)
  /-- Floating reduction over a window segment by PairTree. (R173) -/
  | wfred (o : FloatScanForm)
  /-- Loads from global memory or scratchpad. (R271) -/
  | ld (o : MemForm)
  /-- Stores to global memory or scratchpad. (R272) -/
  | st (o : MemForm)
  /-- Relaxed uniform load held in L1 state U. (R271) -/
  | ldu (o : MemForm)
  /-- Scratchpad load that waits for a full granule. (R271) -/
  | ldfe (o : MemForm)
  /-- Scratchpad store that waits for an empty granule and sets it full. (R272) -/
  | stfe (o : MemForm)
  /-- Prefetch hint into a cache level. (R273) -/
  | pf (o : PrefetchForm)
  /-- Global atomic add returning the old value. (R274) -/
  | atomAdd (o : AtomForm)
  /-- Global atomic and. (R274) -/
  | atomAnd (o : AtomForm)
  /-- Global atomic or. (R274) -/
  | atomOr (o : AtomForm)
  /-- Global atomic xor. (R274) -/
  | atomXor (o : AtomForm)
  /-- Global atomic minimum. (R274) -/
  | atomMin (o : AtomForm)
  /-- Global atomic maximum. (R274) -/
  | atomMax (o : AtomForm)
  /-- Global atomic exchange. (R274) -/
  | atomXchg (o : AtomForm)
  /-- Global atomic decrement if positive. (R274) -/
  | atomDecp (o : AtomForm)
  /-- Global atomic FP32 add by SeqAdd. (R274) -/
  | atomFadd (o : AtomForm)
  /-- Global atomic compare-and-swap. (R274) -/
  | acas (o : AtomForm)
  /-- Scratchpad atomic add. (R274) -/
  | satomAdd (o : AtomForm)
  /-- Scratchpad atomic and. (R274) -/
  | satomAnd (o : AtomForm)
  /-- Scratchpad atomic or. (R274) -/
  | satomOr (o : AtomForm)
  /-- Scratchpad atomic xor. (R274) -/
  | satomXor (o : AtomForm)
  /-- Scratchpad atomic minimum. (R274) -/
  | satomMin (o : AtomForm)
  /-- Scratchpad atomic maximum. (R274) -/
  | satomMax (o : AtomForm)
  /-- Scratchpad atomic exchange. (R274) -/
  | satomXchg (o : AtomForm)
  /-- Scratchpad atomic decrement if positive. (R274) -/
  | satomDecp (o : AtomForm)
  /-- Scratchpad atomic FP32 add. (R274) -/
  | satomFadd (o : AtomForm)
  /-- Scratchpad atomic compare-and-swap. (R274) -/
  | scas (o : AtomForm)
  /-- Acquire fence at a scope. (R296) -/
  | fenceAcq (o : ScopeForm)
  /-- Release fence at a scope. (R296) -/
  | fenceRel (o : ScopeForm)
  /-- Acquire-release fence at a scope. (R296) -/
  | fenceAr (o : ScopeForm)
  /-- Sequentially consistent fence at a scope. (R296) -/
  | fenceSc (o : ScopeForm)
  /-- Arrives at a group barrier without waiting. (R305) -/
  | barArrive (o : BarForm)
  /-- Waits for the closure of the arrived barrier phase. (R305) -/
  | barWait (o : BarForm)
  /-- Arrives at a group barrier and waits for its closure. (R305) -/
  | barSync (o : BarForm)
  /-- Drops the item from a group barrier. (R305) -/
  | barDrop (o : BarForm)
  /-- Tests whether the item has arrived at a barrier. (R305) -/
  | barTest (o : BarForm)
  /-- Arrives at a group barrier with a value and receives the reduction. (R311) -/
  | barRed (o : BarRedForm)
  /-- Initialises an arrival barrier word. (R315) -/
  | abarInit (o : Form)
  /-- Credits bytes to an arrival barrier. (R315) -/
  | abarArrive (o : Form)
  /-- Waits until an arrival barrier passes a phase. (R315) -/
  | abarWait (o : Form)
  /-- Sleeps on a global word while it equals an expected value. (R319) -/
  | waitv (o : WaitvForm)
  /-- Wakes the oldest waiter on a word. (R320) -/
  | wake1 (o : ScopeForm)
  /-- Wakes every waiter on a word. (R320) -/
  | wakeall (o : ScopeForm)
  /-- Waits until an engine counter falls to a threshold. (R324) -/
  | waitc (o : WaitcForm)
  /-- Acquires and zeroes an accumulator tile. (R233) -/
  | macq (o : MacqForm)
  /-- Releases an accumulator tile. (R233) -/
  | mrel (o : Form)
  /-- Zeroes every element of a tile. (R233) -/
  | mzero (o : Form)
  /-- Queues a loop of K-steps on a tile. (R234) -/
  | mloop (o : Form)
  /-- Queues a ragged grouped multiplication from a scratchpad table. (R235) -/
  | mloopg (o : Form)
  /-- Reads four tile elements into registers per item. (R237) -/
  | mdrain (o : Form)
  /-- Writes tile row blocks to scratchpad in an output format. (R238) -/
  | mdrains (o : DrainForm)
  /-- Queues a weight tile latch. (R236) -/
  | mwlat (o : LatchForm)
  /-- Queues one step with the latched weights. (R236) -/
  | mstep (o : Form)
  /-- Reads the state of a tile. (R240) -/
  | mmeta (o : Form)
  /-- Sets tile rows from scratchpad. (R239) -/
  | mfill (o : RowsForm)
  /-- Adds scratchpad rows into a tile. (R239) -/
  | madd (o : RowsForm)
  /-- Multiplies every tile element by a scalar. (R239) -/
  | mscale (o : Form)
  /-- Reads a row's checksum record. (R237) -/
  | mcsum (o : Form)
  /-- Hands a copy command to a copy engine. (R333) -/
  | xfer (o : Form)
  /-- Hands a gather command to a copy engine. (R333) -/
  | xgather (o : Form)
  /-- Closes a channel's staging slot. (R338) -/
  | chclose (o : Form)
  /-- Reads words available on a channel binding. (R338) -/
  | chavail (o : Form)
  /-- Pushes a word into a channel. (R338) -/
  | qpush (o : Form)
  /-- Pops a channel word or an engine completion record. (R338) -/
  | qpop (o : Form)
  /-- Pops without waiting, reporting success in a predicate. (R338) -/
  | qtrypop (o : Form)
  /-- Pushes without waiting, reporting success in a predicate. (R338) -/
  | qtrypush (o : Form)
  /-- Issues a reduce-to-root collective. (R346) -/
  | cred (o : Form)
  /-- Issues an all-reduce collective. (R346) -/
  | callred (o : Form)
  /-- Issues a reduce-scatter collective. (R346) -/
  | credsc (o : Form)
  /-- Issues an all-gather collective. (R346) -/
  | callg (o : Form)
  /-- Reads a control register. (R74) -/
  | csrr (o : CsrForm)
  /-- Writes a control register. (R74) -/
  | csrw (o : CsrForm)
  /-- Reads and sets bits of a control register. (R74) -/
  | csrs (o : CsrForm)
  /-- Reads and clears bits of a control register. (R74) -/
  | csrc (o : CsrForm)
  /-- Appends a launch record to a DEVICE queue. (R114) -/
  | launch (o : Form)
  /-- Returns from the trap handler to TRAPPC or a register target. (R417) -/
  | hret (o : HretForm)
  /-- Returns from the handler past the trapping instruction. (R417) -/
  | hskip (o : Form)
  /-- Raises Suspend on a child context into an image area. (R100) -/
  | ctxsave (o : SizeForm)
  /-- Raises Resume on a child context from an image area. (R100) -/
  | ctxload (o : SizeForm)
  /-- Raises Kill on a child context. (R100) -/
  | ctxkill (o : Form)
  /-- Raises Rekey on a suspended child context. (R101) -/
  | kretire (o : Form)
  /-- Invalidates translations of a span of a context. (R367) -/
  | tlbinv (o : SizeForm)
  /-- Invalidates every translation of a context. (R367) -/
  | tlbinvall (o : Form)
  /-- Walks a context's tables and returns the translation. (R367) -/
  | pgprobe (o : Form)
  /-- Logs or checks a marker value under Hindcast. (R410) -/
  | hcmark (o : ImmForm)
  /-- Closes the cluster's open chunk while recording. (R410) -/
  | hcflush (o : Form)
  /-- Stops recording and traps HCSTOP, or ends a replay. (R410) -/
  | hcstop (o : ImmForm)
  /-- Reads Hindcast chunk information. (R410) -/
  | hcread (o : SelForm)
  /-- An encoding that fails decoding traps ILLEGAL in every item of the wave. (R66) -/
  | illegalEncoding (bad : Illegal)
  /-- A follower conflicting with its lookahead leader traps after the leader completes. (R64) -/
  | lavio (gid slot : Nat)
  /-- A walker translates a missing address or posts a fault. (R356) -/
  | pageWalk (walk : Nat)
  /-- A global access is served at its place and its data or stamp returns. (R281) -/
  | memoryAccessServed (access : Nat)
  /-- Coherence tokens arrive at a requesting slice. (R284) -/
  | tokenTransfer (move : TokenMove)
  /-- A token request unmet for 1024 cycles files a persistent request. (R285) -/
  | persistentRequest (slice line : Nat) (write : Bool)
  /-- The spill or fill engine finishes and the call or ret proceeds. (R165) -/
  | spillFillDone (core : Nat)
  /-- The counter tree raises Done and the kernel ends Complete. (R128) -/
  | kernelDone (kh : Nat)
  /-- Adds to FAILS and COUNT once the kernel's stores are visible. (R107) -/
  | completionRecordUpdate (update : Nat)
  /-- A seat's loader loads a group when the seat is free and its entry valid. (R111) -/
  | loaderLoad (core seat : Nat)
  /-- A loaded group's items start and the seat becomes Occupied. (R127) -/
  | groupLoadFinished (core seat : Nat)
  /-- A landing unit creates a landing group from a migrated package. (R148) -/
  | landing (package core : Nat)
  /-- Writes the context image once groups and engine commands have stopped. (R93) -/
  | suspendImageWrite (ctx : Nat)
  /-- Loads a group image on a seat once there is room. (R152) -/
  | groupRestore (core seat image : Nat)
  /-- After the drain, retires the key id and sweeps its lines. (R96) -/
  | teardownDrained (ctx : Nat)
  /-- Teardown completes, freeing the key id and CTXID. (R96) -/
  | swept (ctx : Nat)
  /-- The sequencer latches weights and performs one K-step. (R234) -/
  | matrixStep (gid tile : Nat)
  /-- A copy or gather engine performs one chunk of a command. (R330) -/
  | engineChunk (command chunk : Nat)
  /-- A full staging slot lands in a receiver ring when one is free. (R336) -/
  | channelSlotDeliver (gid queue : Nat)
  /-- A collective is joined when all members' commands arrive. (R340) -/
  | collectiveJoin (join : Nat)
  /-- The collective engine forms and checks a result chunk. (R344) -/
  | collectiveChunk (join member chunk : Nat)
  /-- A recorder closes its open chunk by count, size or flush. (R397) -/
  | chunkClose (ctx recorder : Nat)
  /-- A closed chunk record is written to the ring when room exists. (R398) -/
  | chunkSpill (ctx : Nat)
  /-- Firmware writes a seat's bind entry. (R111) -/
  | bindSeat (bind : BindChoice)
  /-- A polling waiter rereads its word after 256 cycles. (R319) -/
  | waitvPoll (gid slot : Nat)
  /-- Window items waiting at cross-lane forms at different PCs trap BARRIER. (R170) -/
  | crossLaneDeadlock (gid window : Nat)
  /-- A station holding the halo token sends one request and passes it on. (R261) -/
  | haloTokenPass (slice : Nat)
  /-- An L1 V copy becomes I after 4096 cycles. (R283) -/
  | leaseExpiry (cluster line : Nat)
  /-- An item's age reaches 4096 and it is served first. (R159) -/
  | starvation (gid slot : Nat)
  /-- A yielded item becomes ready again after 64 cycles. (R163) -/
  | yieldExpiry (gid slot : Nat)
  /-- Reserves a CTXID. (R90) -/
  | alloc
  /-- Configures a context from a CCB, binding a key id and installing entries. (R83) -/
  | config
  /-- Makes a configured context Active and enables its queues. (R90) -/
  | start
  /-- Pre-empts a context's groups and writes its image. (R93) -/
  | suspend
  /-- Checks an image and restores a context to Active. (R95) -/
  | resume
  /-- Returns a Faulted context to Active. (R90) -/
  | clear
  /-- Begins the teardown of a context. (R96) -/
  | kill
  /-- Replaces a suspended context's key id. (R101) -/
  | rekey
  /-- A command with an unallocated OPC is refused with BADCMD. (R92) -/
  | unknownCommand
  /-- Assigns a free launch queue to a context. (R112) -/
  | assign
  /-- Frees an empty launch queue. (R112) -/
  | release
  /-- Sets the peer set of a context. (R129) -/
  | peers
  /-- Invalidates translations of a span or context. (R363) -/
  | invalidate
  /-- Ends a replayable fault with RETRY or FAIL. (R363) -/
  | resolve
  /-- LinkCtl Enable starts training of a link or port. (R375) -/
  | linkEnable
  /-- LinkCtl Disable takes a link or port Down. (R375) -/
  | linkDisable
  /-- LinkCtl Recover retrains an isolated link or port. (R375) -/
  | linkRecover
  /-- Sets a CXL port's role, host window and time-out. (R379) -/
  | portcfg
  /-- Puts a context in Hindcast record mode. (R389) -/
  | hcRecord
  /-- Closes open chunks, writes END and turns logging off. (R389) -/
  | hcStop
  /-- Puts a context in replay mode. (R389) -/
  | hcReplay
  /-- Puts a context in verify mode with rotated cores. (R408) -/
  | hcVerify
  /-- Advances the Hindcast ring HEAD. (R389) -/
  | hcRelease
  /-- Frees error records by advancing a queue's HEAD. (R421) -/
  | errack
  /-- Writes a signed attestation report. (R462) -/
  | attest
  /-- Performs a cold reset. (R457) -/
  | coldreset
  /-- Performs a warm reset with write-back and reboot. (R458) -/
  | warmreset
  /-- A host doorbell write advances a HOST queue's TAIL. (R113) -/
  | queueDoorbell (queue : Nat) (tail : W64)
  /-- Re-carves the near store of each changed die. (R464) -/
  | nearcfgWrite (value : W16)
  /-- Consumes fault ring records, freeing room. (R464) -/
  | frheadWrite (value : W64)
  /-- System software writes table-pool memory over the Zhevport. (R352) -/
  | zhevportPhysicalWrite (addr : Nat) (bytes : List W8)
  /-- Writes a management window field with no row of its own, or is discarded. (R463) -/
  | mgmtWindowWrite (offset : Nat) (bytes : List W8)
  /-- Power-on performs a cold reset. (R457) -/
  | powerOn
  /-- The boot ROM checks a written firmware image and starts it. (R459) -/
  | bootImage
  /-- Firmware takes ready head records by priority. (R109) -/
  | bindingPass
  /-- A member receives RESERVE and creates its instance or refuses. (R132) -/
  | gangReserve (msg : ReserveMsg)
  /-- The coordinator receives ACK, committing when all have answered. (R131) -/
  | gangAck (msg : GangMsg)
  /-- The coordinator receives REFUSE and aborts the gang. (R131) -/
  | gangRefuse (msg : GangMsg)
  /-- A member receives COMMIT and releases cross-device operations. (R132) -/
  | gangCommit (msg : GangMsg)
  /-- A member receives ABORT and aborts its instance. (R133) -/
  | gangAbort (msg : GangMsg)
  /-- The coordinator receives FAIL and aborts the gang. (R131) -/
  | gangFail (msg : GangMsg)
  /-- The coordinator receives a member's DONE. (R134) -/
  | gangDone (msg : GangMsg)
  /-- The coordinator's gang timer reaches 2^TOEXP and aborts. (R131) -/
  | gangTimeout (n : Nat)
  /-- A member with no COMMIT or ABORT self-aborts and sends FAIL. (R132) -/
  | gangMemberTimeout (kh : Nat)
  /-- The circulating grant activates a die's oldest persistent request. (R285) -/
  | arbiterGrantVisit
  /-- A waiter's time-out ends its wait. (R319) -/
  | waitvTimeout (gid slot : Nat)
  /-- A regulator period boundary refills budgets and buckets. (R347) -/
  | isobarPeriod (regulator : Regulator) (ctx : Nat)
  /-- A replayable fault is appended to the fault ring when room exists. (R361) -/
  | faultRecordAppend
  /-- A fabric flit is checked, acknowledged, forwarded or delivered. (R372) -/
  | flitReceive (link : Nat) (flit : List W8)
  /-- A NAK counting period ends and exceedance is judged. (R374) -/
  | retryPeriod (link : Nat)
  /-- Training ends and the link goes Up, Degraded or Isolated. (R375) -/
  | linkTrained (link : Nat) (found : Training)
  /-- No training within 2^22 cycles isolates the link. (R375) -/
  | linkTrainTimeout (link : Nat)
  /-- No valid flit for 2^16 cycles sends the link to Training. (R375) -/
  | linkSilence (link : Nat)
  /-- Flits unacknowledged 2^20 cycles after Disable are handled as dropped. (R375) -/
  | disableFlushTimeout (link : Nat)
  /-- The Zhevport finishes training, or isolates after 8 failures. (R380) -/
  | zhevportTrained (good : Bool)
  /-- The Zhevport leaves Isolated after 2^24 cycles and retrains. (R380) -/
  | zhevportIsolationExpiry
  /-- A CXL port finishes training and goes Up. (R386) -/
  | cxlTrained (port : Nat) (found : CxlTraining)
  /-- A CXL port not trained in 2^24 cycles isolates. (R386) -/
  | cxlTrainTimeout (port : Nat)
  /-- A CXL request unanswered in 2^TOEXP cycles isolates the port. (R385) -/
  | cxlRequestTimeout (port request : Nat)
  /-- A CXL link reported down isolates the port. (R386) -/
  | cxlLinkDown (port : Nat)
  /-- An inbound CXL data or GO response completes a request. (R384) -/
  | cxlResponse (port request : Nat) (answer : CxlAnswer)
  /-- A host SnpInv invalidates a half-line. (R298) -/
  | snpinv (port half : Nat)
  /-- A host SnpData downgrades a half-line to S. (R298) -/
  | snpdata (port half : Nat)
  /-- A host SnpCur reads a half-line without changing state. (R298) -/
  | snpcur (port half : Nat)
  /-- A host CXL.mem read of the host window. (R382) -/
  | hostMemRead (port offset bytes : Nat)
  /-- A host CXL.mem write of the host window. (R382) -/
  | hostMemWrite (port offset : Nat) (data : List W8) (poison : Bool)
  /-- A scrub marks an uncorrectable line poisoned and records it. (R424) -/
  | scrub (line : Nat) (array : Nat)
  /-- An uncorrectable management error stops binding and kills every group. (R435) -/
  | fatalError
  /-- A power regulator period ends and issue is withheld over PLIMIT. (R465) -/
  | powerPeriod (die power : Nat)
  /-- A core rail over its share gates issue within 64 cycles. (R465) -/
  | railOvercurrent (die current : Nat)
  /-- The telemetry block is refreshed. (R466) -/
  | telemetryRefresh (sensors : Sensors)
  /-- A die at 105 °C halves its issue rate until it cools. (R467) -/
  | thermalThrottle (die : Nat)
  /-- A die at 120 °C records an error and forces a warm reset. (R467) -/
  | thermalTrip (die : Nat)
  /-- A host CXL.io request (configuration, enumeration) or a request using an absent CXL part arrives at a port and is served or answered with unsupported-request. (R381) -/
  | cxlIoRequest (port : Nat) (request : IoRequest)
  /-- A read of PEAKAMPS returns the largest core-rail current since the last read and restarts that maximum. (R466) -/
  | peakampsRead
  /-- A throttled die cools below 100 °C and its issue rate returns to full. (R467) -/
  | thermalRecovery (die : Nat)
  /-- The coordinator receives a resuming member's query about gang GANGN and answers from its gang table whether the gang is live. (R136) -/
  | gangQuery (msg : GangMsg)
  /-- A resuming member receives the coordinator's answer and restores the kernel live or in Aborted. (R136) -/
  | gangQueryAnswer (msg : GangMsg) (live : Bool)  deriving DecidableEq, Repr

end Sys2Proof
end

