-- ==== Sys2Proof/WellFormed.lean ====
section
/-! DEFINITION. Well-formed instruction forms: what the encoding admits (03 R58, R61, R62, R66 checks 4 to 8, and each form's limits).
Register limits (R59, R60) are not part of it: the core checks them in each item when the instruction executes. An event is well-formed
only as an input of the machine, never as an encoding, so `Instr.wellFormed` is false of it. -/

namespace Sys2Proof

/-- The fields every form has: M is one of `ms`; a field that is not used is zero; LA is zero where the form requires it; G is not 0b1111. -/
def Form.ok (o : Form) (ms : List (BitVec 2)) (usesD usesA usesB usesC usesLa : Bool) : Bool :=
  ms.contains o.m && (usesD || o.d == 0) && (usesA || o.a == 0) && (usesB || o.b == 0) && (usesC || o.c == 0)
    && (usesLa || o.la == 0) && !(o.g == 15)

/-- The same of a format A form, which acts as LA = 0 and G = 0b0111 (R58). -/
def Form.okA (o : Form) (ms : List (BitVec 2)) (usesA : Bool) : Bool :=
  ms.contains o.m && (usesA || o.a == 0) && o.c == 0 && o.la == 0 && o.g == 7

/-- POS and LEN of a bit field (R185). -/
def bitsOk (pos : BitVec 5) (len : BitVec 6) : Bool :=
  decide (1 ≤ len.toNat) && decide (pos.toNat + len.toNat ≤ 32)

/-- The (PREC, DPREC) pairs of fcvt and the ones that take no RND (R210). -/
def convertOk (p q : Prec) (r : Rnd) : Bool :=
  match p, q with
  | .f32, .f64 => r == .dynamic
  | .f64, .f32 => true
  | .f16, .bf16 => true
  | .bf16, .f16 => true
  | .f16, .f64 => r == .dynamic
  | .f64, .f16 => true
  | _, _ => false

/-- The C field of fsplit: J in 0..8 or 15 (R216). PN is a register field, checked when the form executes. -/
def splitOk (c : BitVec 7) : Bool := decide (c.toNat % 16 ≤ 8) || decide (c.toNat % 16 = 15)

/-- The limits of the shuffles (R171). -/
def shuffleOk (o : ShuffleForm) : Bool :=
  decide (o.seg.toNat ≤ 5) && (if o.rb then o.k == 0 else o.b == 0 && decide (o.k.toNat < 2 ^ o.seg.toNat))

/-- The limits of wscan and wred (R173): EXC only in wscan, UNS only with min and max. -/
def scanOk (scan : Bool) (o : ScanForm) : Bool :=
  decide (o.seg.toNat ≤ 5) && (scan || !o.exc) && (!o.uns || o.op == .min || o.op == .max)

/-- Orders a load accepts (R71). -/
def loadOrder (o : Order) : Bool := o == .relaxed || o == .acquire || o == .sc

/-- Orders a store accepts (R71). -/
def storeOrder (o : Order) : Bool := o == .relaxed || o == .release || o == .sc

/-- The limits common to the memory forms (R71, R268): no index means no SCALE and no B; scratchpad forms have SCOPE 0. -/
def memOk (o : MemForm) : Bool :=
  (o.idx || (o.b == 0 && o.scale == 0)) && (!(o.m == 2 || o.m == 3) || o.scope == .grp)

/-- The limits of pf (R268). -/
def pfOk (o : PrefetchForm) : Bool := o.idx || (o.b == 0 && o.scale == 0)

/-- UNS of an integer bar.red (R310). -/
def redOk (k : RedKind) : Bool :=
  match k with
  | .int _ op uns => !uns || op == .min || op == .max
  | .flt _ _ => true

/-- TEXP of waitv (R318). -/
def texpOk (t : BitVec 5) : Bool := t == 0 || (decide (10 ≤ t.toNat) && decide (t.toNat ≤ 30))

/-- RB0 + NRB of mdrains, mfill and madd (R232). -/
def rowsOk (rb0 nrb1 : BitVec 3) : Bool := decide (rb0.toNat + nrb1.toNat + 1 ≤ 8)

/-- The forms the encoding admits. -/
def Instr.wellFormed : Instr → Bool
  | .iadd o => o.okA [0, 1, 2] true
  | .isub o => o.okA [0, 1, 2] true
  | .imul o => o.okA [0, 1, 2] true
  | .and o => o.okA [0, 1, 2] true
  | .or o => o.okA [0, 1, 2] true
  | .xor o => o.okA [0, 1, 2] true
  | .shl o => o.okA [0, 1, 2] true
  | .shr o => o.okA [0, 1, 2] true
  | .sar o => o.okA [0, 1, 2] true
  | .imin o => o.okA [0, 1, 2] true
  | .imax o => o.okA [0, 1, 2] true
  | .umin o => o.okA [0, 1, 2] true
  | .umax o => o.okA [0, 1, 2] true
  | .iaddsat o => o.okA [0, 1, 2] true
  | .isubsat o => o.okA [0, 1, 2] true
  | .iaddi o => o.toForm.ok [0, 2] true true false false true
  | .andi o => o.toForm.ok [0, 2] true true false false true
  | .ori o => o.toForm.ok [0, 2] true true false false true
  | .xori o => o.toForm.ok [0, 2] true true false false true
  | .shli o => o.toForm.ok [0, 2] true true false false true && decide (o.imm.toNat < 32)
  | .shri o => o.toForm.ok [0, 2] true true false false true && decide (o.imm.toNat < 32)
  | .sari o => o.toForm.ok [0, 2] true true false false true && decide (o.imm.toNat < 32)
  | .icmp o => o.toForm.ok [0, 1] true true true false true
  | .imulhi o => o.ok [0, 1] true true true false true
  | .umulhi o => o.ok [0, 1] true true true false true
  | .idiv o => o.ok [0, 1] true true true false true
  | .udiv o => o.ok [0, 1] true true true false true
  | .irem o => o.ok [0, 1] true true true false true
  | .urem o => o.ok [0, 1] true true true false true
  | .popc o => o.ok [0, 2] true true false false true
  | .clz o => o.ok [0, 2] true true false false true
  | .brev o => o.ok [0, 2] true true false false true
  | .bfe o => o.toForm.ok [0, 2] true true false false true && bitsOk o.pos o.len
  | .bfes o => o.toForm.ok [0, 2] true true false false true && bitsOk o.pos o.len
  | .bfi o => o.toForm.ok [0, 1, 2] true true true false true && bitsOk o.pos o.len
  | .sel o => o.ok [0, 1] true true true true true
  | .imad o => o.ok [0, 1] true true true true true
  | .addc o => o.ok [0, 1] true true true true true
  | .subb o => o.ok [0, 1] true true true true true
  | .iadd64 o => o.ok [0, 1, 2] true true true false true
  | .isub64 o => o.ok [0, 1, 2] true true true false true
  | .shl64 o => o.ok [0, 1, 2] true true true false true
  | .shr64 o => o.ok [0, 1, 2] true true true false true
  | .sar64 o => o.ok [0, 1, 2] true true true false true
  | .lea o => o.toForm.ok [0, 1, 2] true true true false true && decide (o.imm.toNat ≤ 4)
  | .mov o => o.okA [0, 1, 2, 3] false
  | .movi o => o.toForm.ok [0, 2] true false false false true
  | .movl o => o.toForm.ok [0, 2] true false false false true
  | .fadd o => o.toForm.ok [0, 1] true true true false true
  | .fsub o => o.toForm.ok [0, 1] true true true false true
  | .fmul o => o.toForm.ok [0, 1] true true true false true
  | .fmin o => o.toForm.ok [0, 1] true true true false true && o.rnd == .dynamic
  | .fmax o => o.toForm.ok [0, 1] true true true false true && o.rnd == .dynamic
  | .fdiv o => o.toForm.ok [0, 1] true true true false true
  | .fsqrt o => o.toForm.ok [0] true true false false true
  | .fma o => o.toForm.ok [0, 1] true true true true true
  | .fms o => o.toForm.ok [0, 1] true true true true true
  | .fnma o => o.toForm.ok [0, 1] true true true true true
  | .fnms o => o.toForm.ok [0, 1] true true true true true
  | .fcmp o => o.toForm.ok [0, 1] true true true false true && o.rnd == .dynamic && (o.prec == .f32 || o.prec == .f64)
  | .fclass o => o.toForm.ok [0] true true false false true && o.rnd == .dynamic
  | .fneg o => o.toForm.ok [0] true true false false true && o.rnd == .dynamic
  | .fabs o => o.toForm.ok [0] true true false false true && o.rnd == .dynamic
  | .fsgnj o => o.toForm.ok [0, 1] true true true false true && o.rnd == .dynamic
  | .fsgnjn o => o.toForm.ok [0, 1] true true true false true && o.rnd == .dynamic
  | .fsgnjx o => o.toForm.ok [0, 1] true true true false true && o.rnd == .dynamic
  | .fexp2 o => o.toForm.ok [0] true true false false true && o.rnd == .dynamic && (o.prec == .f32 || o.prec == .f16 || o.prec == .bf16)
  | .flog2 o => o.toForm.ok [0] true true false false true && o.rnd == .dynamic && (o.prec == .f32 || o.prec == .f16 || o.prec == .bf16)
  | .fsin o => o.toForm.ok [0] true true false false true && o.rnd == .dynamic && (o.prec == .f32 || o.prec == .f16 || o.prec == .bf16)
  | .fcos o => o.toForm.ok [0] true true false false true && o.rnd == .dynamic && (o.prec == .f32 || o.prec == .f16 || o.prec == .bf16)
  | .frcp o => o.toForm.ok [0] true true false false true && o.rnd == .dynamic
  | .frsq o => o.toForm.ok [0] true true false false true && o.rnd == .dynamic
  | .fcvt o => o.toForm.ok [0] true true false false true && !o.uns && convertOk o.prec o.dprec o.rnd
  | .fcvti o => o.toForm.ok [0] true true false false true && (o.prec == .f32 || o.prec == .f64) && o.dprec == .f32
  | .icvtf o => o.toForm.ok [0] true true false false true && (o.prec == .f32 || o.prec == .f64) && o.dprec == .f32
  | .frint o => o.toForm.ok [0] true true false false true && (o.prec == .f32 || o.prec == .f64) && o.dprec == .f32 && !o.uns
  | .fcvtil o => o.toForm.ok [0] true true false false true && (o.prec == .f32 || o.prec == .f64) && o.dprec == .f32
  | .icvtfl o => o.toForm.ok [0] true true false false true && (o.prec == .f32 || o.prec == .f64) && o.dprec == .f32
  | .f8pack o => o.toForm.ok [0, 1] true true true false true && (o.prec == .f32)
  | .f8unpack o => o.toForm.ok [0] true true false false true && o.rnd == .dynamic && (o.prec == .f32) && !o.sat
  | .f16pack o => o.toForm.ok [0, 1] true true true false true && (o.prec == .f16 || o.prec == .bf16) && !o.e5m2
  | .f16unpack o => o.toForm.ok [0] true true false false true && o.rnd == .dynamic && (o.prec == .f16 || o.prec == .bf16)
  | .xe3m2 o => o.toForm.ok [0, 1] true true true false true && o.rnd == .dynamic && (o.prec == .f32)
  | .xe2m3 o => o.toForm.ok [0, 1] true true true false true && o.rnd == .dynamic && (o.prec == .f32)
  | .xint4 o => o.toForm.ok [0] true true false false true && o.rnd == .dynamic && (o.prec == .f32)
  | .mxq o => o.toForm.ok [0, 1] true true true true true && (o.prec == .f32)
  | .mxdq o => o.toForm.ok [0, 1] true true true true true && (o.prec == .f32) && decide (o.c.toNat ≤ 1)
  | .mxscale o => o.toForm.ok [0] true true false false true && o.rnd == .dynamic && (o.prec == .f32)
  | .fsplit o => o.toForm.ok [0, 1] true true true true true && o.rnd == .dynamic && (o.prec == .f64) && splitOk o.c
  | .fjoin o => o.toForm.ok [0, 1] true true true true true && o.rnd == .dynamic && (o.prec == .f64)
  | .fdot2 o => o.toForm.ok [0, 1] true true true true true && (o.prec == .f16 || o.prec == .bf16)
  | .fdot4 o => o.toForm.ok [0, 1] true true true true true && (o.prec == .f32 || o.prec == .f64)
  | .faddl o => o.toForm.ok [0] true true false false true && (o.prec == .f32)
  | .fmull o => o.toForm.ok [0] true true false false true && (o.prec == .f32)
  | .fmal o => o.toForm.ok [0, 1] true true true false true && (o.prec == .f32)
  | .fscale o => o.toForm.ok [0, 1] true true true false true
  | .fgetexp o => o.toForm.ok [0] true true false false true && o.rnd == .dynamic
  | .fgetman o => o.toForm.ok [0] true true false false true && o.rnd == .dynamic
  | .fminnm o => o.toForm.ok [0, 1] true true true false true && o.rnd == .dynamic
  | .fmaxnm o => o.toForm.ok [0, 1] true true true false true && o.rnd == .dynamic
  | .bra o => o.toForm.ok [0] false false false false true
  | .brx o => o.ok [0] false true false false true
  | .call o => o.toForm.ok [0] true false false false false && decide (o.d.toNat ≤ 96)
  | .callx o => o.ok [0] true true false false false && decide (o.d.toNat ≤ 96)
  | .ret o => o.ok [0] false false false false false
  | .jmpl o => o.toForm.ok [0] false false false false true
  | .calll o => o.toForm.ok [0] true false false false false && decide (o.d.toNat ≤ 96)
  | .exit o => o.ok [0] false false false false false
  | .rfpt o => o.ok [0] false false false false false
  | .yield o => o.ok [0] false false false false false
  | .nop o => o.ok [0] false false false false true
  | .brk o => o.toForm.ok [0] false false false false false
  | .migr o => o.ok [0] false true false false false
  | .shfli o => o.toForm.ok [0] true true true false true && shuffleOk o
  | .shflu o => o.toForm.ok [0] true true true false true && shuffleOk o
  | .shfld o => o.toForm.ok [0] true true true false true && shuffleOk o
  | .shflx o => o.toForm.ok [0] true true true false true && shuffleOk o
  | .vall o => o.ok [0] true true false false true
  | .vany o => o.ok [0] true true false false true
  | .ballot o => o.ok [0] true true false false true
  | .matchLanes o => o.ok [0] true true false false true
  | .wscan o => o.toForm.ok [0] true true false false true && scanOk true o
  | .wred o => o.toForm.ok [0] true true false false true && scanOk false o
  | .wfred o => o.toForm.ok [0] true true false false true && decide (o.seg.toNat ≤ 5)
  | .ld o => o.toForm.ok [0, 1, 2, 3] true true true false true && memOk o && loadOrder o.ord && (!o.sx || o.width == .b8 || o.width == .b16) && !o.clr
  | .st o => o.toForm.ok [0, 1, 2, 3] true true true false true && memOk o && storeOrder o.ord && !o.sx && !o.clr
  | .ldu o => o.toForm.ok [0, 1] true true true false true && memOk o && o.ord == .relaxed && o.scope == .grp && !o.sx && !o.clr
  | .ldfe o => o.toForm.ok [2, 3] true true true false true && memOk o && loadOrder o.ord && !o.sx
  | .stfe o => o.toForm.ok [2, 3] true true true false true && memOk o && storeOrder o.ord && !o.sx && !o.clr
  | .pf o => o.toForm.ok [0, 1] false true true false true && pfOk o
  | .atomAdd o => o.toForm.ok [0, 1] true true true false true && !o.uns
  | .atomAnd o => o.toForm.ok [0, 1] true true true false true && !o.uns
  | .atomOr o => o.toForm.ok [0, 1] true true true false true && !o.uns
  | .atomXor o => o.toForm.ok [0, 1] true true true false true && !o.uns
  | .atomMin o => o.toForm.ok [0, 1] true true true false true
  | .atomMax o => o.toForm.ok [0, 1] true true true false true
  | .atomXchg o => o.toForm.ok [0, 1] true true true false true && !o.uns
  | .atomDecp o => o.toForm.ok [0, 1] true true false false true && !o.uns
  | .atomFadd o => o.toForm.ok [0, 1] true true true false true && !o.uns && !o.w64
  | .acas o => o.toForm.ok [0, 1] true true true true true && !o.uns && o.off == 0
  | .satomAdd o => o.toForm.ok [2, 3] true true true false true && !o.w64 && o.scope == .grp && !o.uns
  | .satomAnd o => o.toForm.ok [2, 3] true true true false true && !o.w64 && o.scope == .grp && !o.uns
  | .satomOr o => o.toForm.ok [2, 3] true true true false true && !o.w64 && o.scope == .grp && !o.uns
  | .satomXor o => o.toForm.ok [2, 3] true true true false true && !o.w64 && o.scope == .grp && !o.uns
  | .satomMin o => o.toForm.ok [2, 3] true true true false true && !o.w64 && o.scope == .grp
  | .satomMax o => o.toForm.ok [2, 3] true true true false true && !o.w64 && o.scope == .grp
  | .satomXchg o => o.toForm.ok [2, 3] true true true false true && !o.w64 && o.scope == .grp && !o.uns
  | .satomDecp o => o.toForm.ok [2, 3] true true false false true && !o.w64 && o.scope == .grp && !o.uns
  | .satomFadd o => o.toForm.ok [2, 3] true true true false true && !o.w64 && o.scope == .grp && !o.uns
  | .scas o => o.toForm.ok [2, 3] true true true true true && !o.uns && !o.w64 && o.scope == .grp && o.off == 0
  | .fenceAcq o => o.toForm.ok [0] false false false false false
  | .fenceRel o => o.toForm.ok [0] false false false false false
  | .fenceAr o => o.toForm.ok [0] false false false false false
  | .fenceSc o => o.toForm.ok [0] false false false false false
  | .barArrive o => o.toForm.ok [0] false false false false false
  | .barWait o => o.toForm.ok [0] false false false false false
  | .barSync o => o.toForm.ok [0] false false false false false
  | .barDrop o => o.toForm.ok [0] false false false false false
  | .barTest o => o.toForm.ok [0] true false false false false
  | .barRed o => o.toForm.ok [0] true true false false false && redOk o.kind
  | .abarInit o => o.ok [0] false true true false false
  | .abarArrive o => o.ok [0] false true true false false
  | .abarWait o => o.ok [0] false true true false false
  | .waitv o => o.toForm.ok [0] true true true false false && loadOrder o.ord && texpOk o.texp
  | .wake1 o => o.toForm.ok [0] false true false false false
  | .wakeall o => o.toForm.ok [0] false true false false false
  | .waitc o => o.toForm.ok [0] false false false false false
  | .macq o => o.toForm.ok [0] true false false false true
  | .mrel o => o.ok [0] true false false false true
  | .mzero o => o.ok [0] true false false false true
  | .mloop o => o.ok [0] true true true true true
  | .mloopg o => o.ok [0] true true true true true
  | .mdrain o => o.ok [0] true true true false true
  | .mdrains o => o.toForm.ok [0] false true true false true && decide (o.ofmt.toNat ≤ 6) && rowsOk o.rb0 o.nrb1
  | .mwlat o => o.toForm.ok [0] true true false false true && decide (o.wfmt.toNat ≤ 5)
  | .mstep o => o.ok [0] true true false false true
  | .mmeta o => o.ok [0] true true false false true
  | .mfill o => o.toForm.ok [0] true true true false true && rowsOk o.rb0 o.nrb1
  | .madd o => o.toForm.ok [0] true true true false true && rowsOk o.rb0 o.nrb1
  | .mscale o => o.ok [0] true true false false true
  | .mcsum o => o.ok [0] true true true false true
  | .xfer o => o.ok [0] true true false false true
  | .xgather o => o.ok [0] true true false false true
  | .chclose o => o.ok [0] true false false false true
  | .chavail o => o.ok [0] true true false false true
  | .qpush o => o.ok [0] true true false false true
  | .qpop o => o.ok [0] true true false false true
  | .qtrypop o => o.ok [0] true true false true true
  | .qtrypush o => o.ok [0] true true false true true
  | .cred o => o.ok [0] true true false false true
  | .callred o => o.ok [0] true true false false true
  | .credsc o => o.ok [0] true true false false true
  | .callg o => o.ok [0] true true false false true
  | .csrr o => o.toForm.ok [0] true false false false false
  | .csrw o => o.toForm.ok [0] false true false false false
  | .csrs o => o.toForm.ok [0] true true false false false
  | .csrc o => o.toForm.ok [0] true true false false false
  | .launch o => o.ok [0] true true true false false
  | .hret o => o.toForm.ok [0] false true false false false && (o.tgt || o.a == 0)
  | .hskip o => o.ok [0] false false false false false
  | .ctxsave o => o.toForm.ok [0] true true true false false && decide (20 ≤ o.sz.toNat) && decide (o.sz.toNat ≤ 40)
  | .ctxload o => o.toForm.ok [0] true true true false false && decide (20 ≤ o.sz.toNat) && decide (o.sz.toNat ≤ 40)
  | .ctxkill o => o.ok [0] true true false false false
  | .tlbinv o => o.toForm.ok [0] true true true false false && decide (12 ≤ o.sz.toNat) && decide (o.sz.toNat ≤ 57)
  | .tlbinvall o => o.ok [0] true true false false false
  | .pgprobe o => o.ok [0] true true true false false
  | .hcmark o => o.toForm.ok [0] false true false false false
  | .hcflush o => o.ok [0] false false false false false
  | .hcstop o => o.toForm.ok [0] false false false false false
  | .hcread o => o.toForm.ok [0] true false false false false
  | .kretire o => o.ok [0] true true false false false
  | .illegalEncoding _ => false
  | .lavio _ _ => false
  | .alloc => false
  | .config => false
  | .start => false
  | .suspend => false
  | .resume => false
  | .clear => false
  | .kill => false
  | .rekey => false
  | .unknownCommand => false
  | .assign => false
  | .release => false
  | .peers => false
  | .invalidate => false
  | .resolve => false
  | .linkEnable => false
  | .linkDisable => false
  | .linkRecover => false
  | .portcfg => false
  | .hcRecord => false
  | .hcStop => false
  | .hcReplay => false
  | .hcVerify => false
  | .hcRelease => false
  | .errack => false
  | .attest => false
  | .coldreset => false
  | .warmreset => false
  | .queueDoorbell _ _ => false
  | .nearcfgWrite _ => false
  | .frheadWrite _ => false
  | .zhevportPhysicalWrite _ _ => false
  | .mgmtWindowWrite _ _ => false
  | .powerOn => false
  | .bootImage => false
  | .bindingPass => false
  | .bindSeat _ => false
  | .loaderLoad _ _ => false
  | .groupLoadFinished _ _ => false
  | .kernelDone _ => false
  | .completionRecordUpdate _ => false
  | .gangReserve _ => false
  | .gangAck _ => false
  | .gangRefuse _ => false
  | .gangCommit _ => false
  | .gangAbort _ => false
  | .gangFail _ => false
  | .gangDone _ => false
  | .gangTimeout _ => false
  | .gangMemberTimeout _ => false
  | .landing _ _ => false
  | .suspendImageWrite _ => false
  | .groupRestore _ _ _ => false
  | .teardownDrained _ => false
  | .swept _ => false
  | .starvation _ _ => false
  | .yieldExpiry _ _ => false
  | .spillFillDone _ => false
  | .crossLaneDeadlock _ _ => false
  | .matrixStep _ _ => false
  | .memoryAccessServed _ => false
  | .tokenTransfer _ => false
  | .persistentRequest _ _ _ => false
  | .arbiterGrantVisit => false
  | .haloTokenPass _ => false
  | .leaseExpiry _ _ => false
  | .waitvTimeout _ _ => false
  | .waitvPoll _ _ => false
  | .engineChunk _ _ => false
  | .channelSlotDeliver _ _ => false
  | .collectiveJoin _ => false
  | .collectiveChunk _ _ _ => false
  | .isobarPeriod _ _ => false
  | .pageWalk _ => false
  | .faultRecordAppend => false
  | .flitReceive _ _ => false
  | .retryPeriod _ => false
  | .linkTrained _ _ => false
  | .linkTrainTimeout _ => false
  | .linkSilence _ => false
  | .disableFlushTimeout _ => false
  | .zhevportTrained _ => false
  | .zhevportIsolationExpiry => false
  | .cxlTrained _ _ => false
  | .cxlTrainTimeout _ => false
  | .cxlRequestTimeout _ _ => false
  | .cxlLinkDown _ => false
  | .cxlResponse _ _ _ => false
  | .snpinv _ _ => false
  | .snpdata _ _ => false
  | .snpcur _ _ => false
  | .hostMemRead _ _ _ => false
  | .hostMemWrite _ _ _ _ => false
  | .chunkClose _ _ => false
  | .chunkSpill _ => false
  | .scrub _ _ => false
  | .fatalError => false
  | .powerPeriod _ _ => false
  | .railOvercurrent _ _ => false
  | .telemetryRefresh _ => false
  | .thermalThrottle _ => false
  | .thermalTrip _ => false
  | .cxlIoRequest _ _ => false
  | .peakampsRead => false
  | .thermalRecovery _ => false
  | .gangQuery _ => false
  | .gangQueryAnswer _ _ => false

end Sys2Proof
end

