-- ==== Sys2Proof/Decode.lean ====
section
/-! DEFINITION. Decoding and encoding (03 R56 to R71 and the encoding tables of each form's chapter).
`Raw` holds the fields of R57 as numbers; `unpack` cuts the words into it and `pack` builds the words; `decodeRaw` makes
the checks of R66 in their order and `toRaw` is the encoder. -/

namespace Sys2Proof

open Machine

/-- The formats of R58. -/
inductive Format where
  | A | B | C | D
  deriving DecidableEq, Repr

/-- The LEN of a format (R58). -/
def Format.len : Format → BitVec 2
  | .A => 0
  | .B => 1
  | .C => 1
  | .D => 2

/-- The fields of R57 as they stand in the words. -/
structure Raw where
  len : BitVec 2
  op : BitVec 7
  d : BitVec 7
  a : BitVec 7
  b : BitVec 7
  m : BitVec 2
  la : BitVec 4
  g : BitVec 4
  sub : W8
  imm : W16
  lit : W32
  deriving DecidableEq, Repr

/-- The three words of a raw instruction (R57); later words than LEN gives are zero. -/
def pack (r : Raw) : W32 × W32 × W32 :=
  (r.len ++ r.op ++ r.d ++ r.a ++ r.b ++ r.m, r.la ++ r.g ++ r.sub ++ r.imm, r.lit)

/-- The fields of three words (R57). -/
def unpack (w0 w1 w2 : W32) : Raw where
  len := w0.extractLsb' 30 2
  op := w0.extractLsb' 23 7
  d := w0.extractLsb' 16 7
  a := w0.extractLsb' 9 7
  b := w0.extractLsb' 2 7
  m := w0.extractLsb' 0 2
  la := w1.extractLsb' 28 4
  g := w1.extractLsb' 24 4
  sub := w1.extractLsb' 16 8
  imm := w1.extractLsb' 0 16
  lit := w2

/-- How many words an instruction has, from its first word (R56); 1 where LEN is 0b11 (R413). -/
def wordsOf (w0 : W32) : Nat := if w0.extractLsb' 30 2 = 3 then 1 else (w0.extractLsb' 30 2).toNat + 1

/-- The format of a major opcode, or none where it is unallocated (R58, R68). -/
def formatOf (op : Nat) : Option Format :=
  if op = 0 then none
  else if op ≤ 0x0F then some .A
  else if op = 0x1A then some .A
  else if op = 0x16 || op = 0x17 || op = 0x21 || op = 0x28 || op = 0x29 || op = 0x2A || op = 0x57 || op = 0x59
      || op = 0x69 || op = 0x6A || op = 0x70 || op = 0x72 || op = 0x73 || op = 0x79 then some .C
  else if op = 0x1C || op = 0x2B || op = 0x41 then some .D
  else if op ≤ 0x1C || (0x20 ≤ op && op ≤ 0x2D) || (0x40 ≤ op && op ≤ 0x45) || (0x50 ≤ op && op ≤ 0x59)
      || (0x60 ≤ op && op ≤ 0x64) || (0x68 ≤ op && op ≤ 0x6E) || op = 0x71 || (0x78 ≤ op && op ≤ 0x7E) then some .B
  else none

/-- The form record of a raw instruction of format `f`: format A acts as LA = 0 and G = 0b0111, and only format C has a C field (R58). -/
def Raw.form (r : Raw) (f : Format) : Form where
  d := r.d
  a := r.a
  b := r.b
  c := if f = .C then r.imm.extractLsb' 0 7 else 0
  m := r.m
  la := if f = .A then 0 else r.la
  g := if f = .A then 7 else r.g

/-! ### Field codes -/

/-- SUB of icmp (R69). -/
def Cond.code : Cond → W8
  | .eq => 0 | .ne => 1 | .lt => 2 | .le => 3 | .gt => 4 | .ge => 5 | .lo => 6 | .ls => 7 | .hi => 8 | .hs => 9

/-- The condition of an icmp SUB (R69). -/
def condOf (x : W8) : Option Cond :=
  match x.toNat with
  | 0 => some .eq | 1 => some .ne | 2 => some .lt | 3 => some .le | 4 => some .gt | 5 => some .ge
  | 6 => some .lo | 7 => some .ls | 8 => some .hi | 9 => some .hs | _ => none

/-- COND of fcmp (R203). -/
def FloatCond.code : FloatCond → BitVec 3
  | .eq => 0 | .ne => 1 | .lt => 2 | .le => 3 | .gt => 4 | .ge => 5 | .un => 6 | .or => 7

/-- The condition of an fcmp COND (R203). -/
def floatCondOf (x : BitVec 3) : FloatCond :=
  match x.toNat with
  | 0 => .eq | 1 => .ne | 2 => .lt | 3 => .le | 4 => .gt | 5 => .ge | 6 => .un | _ => .or

/-- RND (R70). -/
def Rnd.code : Rnd → BitVec 3
  | .dynamic => 0 | .rne => 4 | .rtz => 5 | .rdn => 6 | .rup => 7

/-- The rounding of an RND; 0b001..0b011 are not allowed (R70). -/
def rndOf (x : BitVec 3) : Option Rnd :=
  match x.toNat with
  | 0 => some .dynamic | 4 => some .rne | 5 => some .rtz | 6 => some .rdn | 7 => some .rup | _ => none

/-- PREC (R70). -/
def Prec.code : Prec → BitVec 2
  | .f32 => 0 | .f64 => 1 | .f16 => 2 | .bf16 => 3

/-- The precision of a PREC (R70). -/
def precOf (x : BitVec 2) : Prec :=
  match x.toNat with
  | 0 => .f32 | 1 => .f64 | 2 => .f16 | _ => .bf16

/-- ORD (R71). -/
def Order.code : Order → BitVec 3
  | .relaxed => 0 | .acquire => 1 | .release => 2 | .acqRel => 3 | .sc => 4

/-- The order of an ORD; 5..7 are beyond the limit and read here as sc (R71). -/
def orderOf (x : BitVec 3) : Order :=
  match x.toNat with
  | 0 => .relaxed | 1 => .acquire | 2 => .release | 3 => .acqRel | _ => .sc

/-- SCOPE (R71). -/
def Scope.code : Scope → BitVec 3
  | .grp => 0 | .clu => 1 | .die => 2 | .dev => 3 | .sys => 4

/-- The scope of a SCOPE; 5..7 are beyond the limit and read here as sys (R71). -/
def scopeOf (x : BitVec 3) : Scope :=
  match x.toNat with
  | 0 => .grp | 1 => .clu | 2 => .die | 3 => .dev | _ => .sys

/-- WIDTH (R71). -/
def Width.code : Width → BitVec 3
  | .b8 => 0 | .b16 => 1 | .b32 => 2 | .b64 => 3 | .b128 => 4

/-- The width of a WIDTH (R71). -/
def widthOf (x : BitVec 3) : Option Width :=
  match x.toNat with
  | 0 => some .b8 | 1 => some .b16 | 2 => some .b32 | 3 => some .b64 | 4 => some .b128 | _ => none

/-- WIDTH of pf as its level (R71). -/
def PfLevel.code : PfLevel → BitVec 3
  | .l1 => 0 | .l2 => 1 | .llc => 2

/-- The level of a pf WIDTH (R71). -/
def pfLevelOf (x : BitVec 3) : Option PfLevel :=
  match x.toNat with
  | 0 => some .l1 | 1 => some .l2 | 2 => some .llc | _ => none

/-- OPS of wscan, wred and bar.red (R173, R310). -/
def IntFold.code : IntFold → BitVec 3
  | .add => 0 | .and => 1 | .or => 2 | .xor => 3 | .min => 4 | .max => 5

/-- The operation of an OPS (R173). -/
def intFoldOf (x : BitVec 3) : Option IntFold :=
  match x.toNat with
  | 0 => some .add | 1 => some .and | 2 => some .or | 3 => some .xor | 4 => some .min | 5 => some .max | _ => none

/-- OPS of wfred and a floating bar.red (R173, R310). -/
def FloatFold.code : FloatFold → BitVec 3
  | .fadd => 0 | .fmin => 1 | .fmax => 2

/-- The floating operation of an OPS (R173). -/
def floatFoldOf (x : BitVec 3) : Option FloatFold :=
  match x.toNat with
  | 0 => some .fadd | 1 => some .fmin | 2 => some .fmax | _ => none

/-- CLASS of waitc (R324). -/
def CounterClass.code : CounterClass → BitVec 2
  | .copy => 0 | .matrix => 1 | .gather => 2 | .collective => 3

/-- The class of a CLASS (R324). -/
def counterClassOf (x : BitVec 2) : CounterClass :=
  match x.toNat with
  | 0 => .copy | 1 => .matrix | 2 => .gather | _ => .collective

/-- One bit. -/
def bit1 (b : Bool) : BitVec 1 := if b then 1 else 0

/-! ### Immediate and SUB layouts -/

/-- SUB of a floating form (R70). -/
def floatSub (opx : BitVec 3) (o : FloatForm) : W8 := opx ++ o.rnd.code ++ o.prec.code

/-- An IMM16 whose bit 0 alone is used. -/
def bitImm (b : Bool) : W16 := (0 : BitVec 15) ++ bit1 b

/-- IMM16 of bfe, bfes and bfi (R185). -/
def BitsForm.immBits (o : BitsForm) : W16 := (0 : BitVec 5) ++ o.len ++ o.pos

/-- IMM16 of the conversions (R210). -/
def ConvertForm.immConvert (o : ConvertForm) : W16 := (0 : BitVec 13) ++ bit1 o.uns ++ o.dprec.code

/-- IMM16 of the packing forms (R211). -/
def PackForm.immPack (o : PackForm) : W16 := (0 : BitVec 14) ++ bit1 o.sat ++ bit1 o.e5m2

/-- IMM16 of the shuffles (R171). -/
def ShuffleForm.immShuffle (o : ShuffleForm) : W16 := (0 : BitVec 5) ++ o.seg ++ bit1 o.rb ++ (0 : BitVec 2) ++ o.k

/-- IMM16 of wscan and wred (R173). -/
def ScanForm.immScan (o : ScanForm) : W16 :=
  (0 : BitVec 4) ++ o.seg ++ bit1 o.exc ++ bit1 o.w64 ++ o.op.code ++ bit1 o.uns ++ (0 : BitVec 3)

/-- IMM16 of wfred (R173). -/
def FloatScanForm.immFloatScan (o : FloatScanForm) : W16 :=
  (0 : BitVec 4) ++ o.seg ++ (0 : BitVec 2) ++ o.op.code ++ (0 : BitVec 3) ++ bit1 o.f64

/-- SUB of ld, st, ldu, ldfe and stfe (R71). -/
def MemForm.memSub (o : MemForm) : W8 := o.width.code ++ bit1 o.sx ++ o.scale ++ bit1 o.idx ++ bit1 o.clr

/-- IMM16 of the memory forms (R71). -/
def MemForm.memImm (o : MemForm) : W16 := o.ord.code ++ o.scope.code ++ o.off

/-- SUB of pf (R71). -/
def PrefetchForm.pfSub (o : PrefetchForm) : W8 := o.level.code ++ (0 : BitVec 1) ++ o.scale ++ bit1 o.idx ++ (0 : BitVec 1)

/-- IMM16 of pf (R71). -/
def PrefetchForm.pfImm (o : PrefetchForm) : W16 := (0 : BitVec 6) ++ o.off

/-- SUB of the atomic forms (R71). -/
def atomSub (aop : BitVec 4) (o : AtomForm) : W8 := aop ++ bit1 o.uns ++ bit1 o.w64 ++ (0 : BitVec 2)

/-- IMM16 of atom and satom (R71). -/
def AtomForm.atomImm (o : AtomForm) : W16 := o.ord.code ++ o.scope.code ++ o.off

/-- IMM16 of acas and scas: ORD, SCOPE, three zero bits and C (R267). -/
def AtomForm.casImm (o : AtomForm) : W16 := o.ord.code ++ o.scope.code ++ (0 : BitVec 3) ++ o.c

/-- IMM16 of a fence or a wake (R295, R318). -/
def ScopeForm.immScope (o : ScopeForm) : W16 := (0 : BitVec 3) ++ o.scope.code ++ (0 : BitVec 10)

/-- IMM16[8:0] of bar.red, its kind (R310). -/
def RedKind.code : RedKind → BitVec 9
  | .int w64 op uns => (0 : BitVec 1) ++ bit1 w64 ++ op.code ++ bit1 uns ++ (0 : BitVec 3)
  | .flt op f64 => (1 : BitVec 1) ++ (0 : BitVec 1) ++ op.code ++ (0 : BitVec 3) ++ bit1 f64

/-- IMM16 of bar.red (R310). -/
def BarRedForm.immRed (o : BarRedForm) : W16 := o.bar ++ (0 : BitVec 3) ++ o.kind.code

/-- IMM16 of waitv (R318). -/
def WaitvForm.immWaitv (o : WaitvForm) : W16 := o.ord.code ++ o.scope.code ++ o.texp ++ (0 : BitVec 5)

/-- IMM16 of waitc (R324). -/
def WaitcForm.immWaitc (o : WaitcForm) : W16 := (0 : BitVec 8) ++ o.cls.code ++ o.thresh

/-- IMM16 of mdrains (R238). -/
def DrainForm.immDrain (o : DrainForm) : W16 := o.ofmt ++ o.rb0 ++ o.nrb1 ++ (0 : BitVec 6)

/-- IMM16 of mwlat (R232). -/
def LatchForm.immLatch (o : LatchForm) : W16 := (0 : BitVec 11) ++ bit1 o.sp ++ o.wfmt

/-- IMM16 of mfill and madd (R232). -/
def RowsForm.immRows (o : RowsForm) : W16 := (0 : BitVec 4) ++ o.rb0 ++ o.nrb1 ++ (0 : BitVec 6)

/-! ### The encoder -/

/-- A format A instruction (R57, R58). -/
def rawA (op : BitVec 7) (o : Form) : Raw :=
  { len := 0, op := op, d := o.d, a := o.a, b := o.b, m := o.m, la := 0, g := 0, sub := 0, imm := 0, lit := 0 }

/-- A format B instruction. -/
def rawB (op : BitVec 7) (sub : W8) (imm : W16) (o : Form) : Raw :=
  { len := 1, op := op, d := o.d, a := o.a, b := o.b, m := o.m, la := o.la, g := o.g, sub := sub, imm := imm, lit := 0 }

/-- A format C instruction: bits 47:39 are zero (R57). -/
def rawC (op : BitVec 7) (sub : W8) (o : Form) : Raw := rawB op sub ((0 : BitVec 9) ++ o.c) o

/-- A format D instruction: IMM16 is zero in every form. -/
def rawD (op : BitVec 7) (sub : W8) (lit : W32) (o : Form) : Raw :=
  { len := 2, op := op, d := o.d, a := o.a, b := o.b, m := o.m, la := o.la, g := o.g, sub := sub, imm := 0, lit := lit }

/-- The fields of a form in the encoding tables of the spec; an event has no encoding. -/
def toRaw : Instr → Option Raw
  | .iadd o => some (rawA 0x01 o)
  | .isub o => some (rawA 0x02 o)
  | .imul o => some (rawA 0x03 o)
  | .and o => some (rawA 0x04 o)
  | .or o => some (rawA 0x05 o)
  | .xor o => some (rawA 0x06 o)
  | .shl o => some (rawA 0x07 o)
  | .shr o => some (rawA 0x08 o)
  | .sar o => some (rawA 0x09 o)
  | .imin o => some (rawA 0x0A o)
  | .imax o => some (rawA 0x0B o)
  | .umin o => some (rawA 0x0C o)
  | .umax o => some (rawA 0x0D o)
  | .iaddsat o => some (rawA 0x0E o)
  | .isubsat o => some (rawA 0x0F o)
  | .iaddi o => some (rawB 0x10 0 o.imm o.toForm)
  | .andi o => some (rawB 0x11 0 o.imm o.toForm)
  | .ori o => some (rawB 0x11 1 o.imm o.toForm)
  | .xori o => some (rawB 0x11 2 o.imm o.toForm)
  | .shli o => some (rawB 0x12 0 o.imm o.toForm)
  | .shri o => some (rawB 0x12 1 o.imm o.toForm)
  | .sari o => some (rawB 0x12 2 o.imm o.toForm)
  | .icmp o => some (rawB 0x13 o.cond.code 0 o.toForm)
  | .imulhi o => some (rawB 0x14 0 0 o)
  | .umulhi o => some (rawB 0x14 1 0 o)
  | .idiv o => some (rawB 0x14 2 0 o)
  | .udiv o => some (rawB 0x14 3 0 o)
  | .irem o => some (rawB 0x14 4 0 o)
  | .urem o => some (rawB 0x14 5 0 o)
  | .popc o => some (rawB 0x15 0 0 o)
  | .clz o => some (rawB 0x15 1 0 o)
  | .brev o => some (rawB 0x15 2 0 o)
  | .bfe o => some (rawB 0x15 3 o.immBits o.toForm)
  | .bfes o => some (rawB 0x15 4 o.immBits o.toForm)
  | .bfi o => some (rawB 0x15 5 o.immBits o.toForm)
  | .sel o => some (rawC 0x16 0 o)
  | .imad o => some (rawC 0x16 1 o)
  | .addc o => some (rawC 0x17 0 o)
  | .subb o => some (rawC 0x17 1 o)
  | .iadd64 o => some (rawB 0x18 0 0 o)
  | .isub64 o => some (rawB 0x18 1 0 o)
  | .shl64 o => some (rawB 0x18 2 0 o)
  | .shr64 o => some (rawB 0x18 3 0 o)
  | .sar64 o => some (rawB 0x18 4 0 o)
  | .lea o => some (rawB 0x19 0 o.imm o.toForm)
  | .mov o => some (rawA 0x1A o)
  | .movi o => some (rawB 0x1B 0 o.imm o.toForm)
  | .movl o => some (rawD 0x1C 0 o.lit o.toForm)
  | .fadd o => some (rawB 0x20 (floatSub 0 o) 0 o.toForm)
  | .fsub o => some (rawB 0x20 (floatSub 1 o) 0 o.toForm)
  | .fmul o => some (rawB 0x20 (floatSub 2 o) 0 o.toForm)
  | .fmin o => some (rawB 0x20 (floatSub 3 o) 0 o.toForm)
  | .fmax o => some (rawB 0x20 (floatSub 4 o) 0 o.toForm)
  | .fdiv o => some (rawB 0x20 (floatSub 5 o) 0 o.toForm)
  | .fsqrt o => some (rawB 0x20 (floatSub 6 o) 0 o.toForm)
  | .fma o => some (rawC 0x21 (floatSub 0 o) o.toForm)
  | .fms o => some (rawC 0x21 (floatSub 1 o) o.toForm)
  | .fnma o => some (rawC 0x21 (floatSub 2 o) o.toForm)
  | .fnms o => some (rawC 0x21 (floatSub 3 o) o.toForm)
  | .fcmp o => some (rawB 0x22 (floatSub 0 o.toFloatForm) (o.cond.code.zeroExtend 16) o.toForm)
  | .fclass o => some (rawB 0x22 (floatSub 1 o) 0 o.toForm)
  | .fneg o => some (rawB 0x23 (floatSub 0 o) 0 o.toForm)
  | .fabs o => some (rawB 0x23 (floatSub 1 o) 0 o.toForm)
  | .fsgnj o => some (rawB 0x23 (floatSub 2 o) 0 o.toForm)
  | .fsgnjn o => some (rawB 0x23 (floatSub 3 o) 0 o.toForm)
  | .fsgnjx o => some (rawB 0x23 (floatSub 4 o) 0 o.toForm)
  | .fexp2 o => some (rawB 0x24 (floatSub 0 o) 0 o.toForm)
  | .flog2 o => some (rawB 0x24 (floatSub 1 o) 0 o.toForm)
  | .fsin o => some (rawB 0x24 (floatSub 2 o) 0 o.toForm)
  | .fcos o => some (rawB 0x24 (floatSub 3 o) 0 o.toForm)
  | .frcp o => some (rawB 0x24 (floatSub 4 o) 0 o.toForm)
  | .frsq o => some (rawB 0x24 (floatSub 5 o) 0 o.toForm)
  | .fcvt o => some (rawB 0x25 (floatSub 0 o.toFloatForm) o.immConvert o.toForm)
  | .fcvti o => some (rawB 0x25 (floatSub 1 o.toFloatForm) o.immConvert o.toForm)
  | .icvtf o => some (rawB 0x25 (floatSub 2 o.toFloatForm) o.immConvert o.toForm)
  | .frint o => some (rawB 0x25 (floatSub 3 o.toFloatForm) o.immConvert o.toForm)
  | .fcvtil o => some (rawB 0x25 (floatSub 4 o.toFloatForm) o.immConvert o.toForm)
  | .icvtfl o => some (rawB 0x25 (floatSub 5 o.toFloatForm) o.immConvert o.toForm)
  | .f8pack o => some (rawB 0x26 (floatSub 0 o.toFloatForm) o.immPack o.toForm)
  | .f8unpack o => some (rawB 0x26 (floatSub 1 o.toFloatForm) o.immPack o.toForm)
  | .f16pack o => some (rawB 0x26 (floatSub 2 o.toFloatForm) o.immPack o.toForm)
  | .f16unpack o => some (rawB 0x26 (floatSub 3 o) 0 o.toForm)
  | .xe3m2 o => some (rawB 0x27 (floatSub 0 o.toFloatForm) (o.grp.zeroExtend 16) o.toForm)
  | .xe2m3 o => some (rawB 0x27 (floatSub 1 o.toFloatForm) (o.grp.zeroExtend 16) o.toForm)
  | .xint4 o => some (rawB 0x27 (floatSub 2 o.toFloatForm) (bitImm o.hi) o.toForm)
  | .mxq o => some (rawC 0x28 (floatSub 0 o) o.toForm)
  | .mxdq o => some (rawC 0x28 (floatSub 1 o) o.toForm)
  | .mxscale o => some (rawC 0x28 (floatSub 2 o) o.toForm)
  | .fsplit o => some (rawC 0x29 (floatSub 0 o) o.toForm)
  | .fjoin o => some (rawC 0x29 (floatSub 1 o) o.toForm)
  | .fdot2 o => some (rawC 0x2A (floatSub 0 o) o.toForm)
  | .fdot4 o => some (rawC 0x2A (floatSub 1 o) o.toForm)
  | .faddl o => some (rawD 0x2B (floatSub 0 o.toFloatForm) o.lit o.toForm)
  | .fmull o => some (rawD 0x2B (floatSub 1 o.toFloatForm) o.lit o.toForm)
  | .fmal o => some (rawD 0x2B (floatSub 2 o.toFloatForm) o.lit o.toForm)
  | .fscale o => some (rawB 0x2C (floatSub 0 o) 0 o.toForm)
  | .fgetexp o => some (rawB 0x2C (floatSub 1 o) 0 o.toForm)
  | .fgetman o => some (rawB 0x2C (floatSub 2 o) 0 o.toForm)
  | .fminnm o => some (rawB 0x2D (floatSub 0 o) 0 o.toForm)
  | .fmaxnm o => some (rawB 0x2D (floatSub 1 o) 0 o.toForm)
  | .bra o => some (rawB 0x40 0 o.imm o.toForm)
  | .brx o => some (rawB 0x40 1 0 o)
  | .call o => some (rawB 0x40 2 o.imm o.toForm)
  | .callx o => some (rawB 0x40 3 0 o)
  | .ret o => some (rawB 0x40 4 0 o)
  | .jmpl o => some (rawD 0x41 0 o.lit o.toForm)
  | .calll o => some (rawD 0x41 1 o.lit o.toForm)
  | .exit o => some (rawB 0x42 0 0 o)
  | .rfpt o => some (rawB 0x42 1 0 o)
  | .yield o => some (rawB 0x42 2 0 o)
  | .nop o => some (rawB 0x42 3 0 o)
  | .brk o => some (rawB 0x42 4 o.imm o.toForm)
  | .migr o => some (rawB 0x42 5 0 o)
  | .shfli o => some (rawB 0x43 0 o.immShuffle o.toForm)
  | .shflu o => some (rawB 0x43 1 o.immShuffle o.toForm)
  | .shfld o => some (rawB 0x43 2 o.immShuffle o.toForm)
  | .shflx o => some (rawB 0x43 3 o.immShuffle o.toForm)
  | .vall o => some (rawB 0x44 0 0 o)
  | .vany o => some (rawB 0x44 1 0 o)
  | .ballot o => some (rawB 0x44 2 0 o)
  | .matchLanes o => some (rawB 0x44 3 0 o)
  | .wscan o => some (rawB 0x45 0 o.immScan o.toForm)
  | .wred o => some (rawB 0x45 1 o.immScan o.toForm)
  | .wfred o => some (rawB 0x45 2 o.immFloatScan o.toForm)
  | .ld o => some (rawB 0x50 o.memSub o.memImm o.toForm)
  | .st o => some (rawB 0x51 o.memSub o.memImm o.toForm)
  | .ldu o => some (rawB 0x52 o.memSub o.memImm o.toForm)
  | .ldfe o => some (rawB 0x53 o.memSub o.memImm o.toForm)
  | .stfe o => some (rawB 0x54 o.memSub o.memImm o.toForm)
  | .pf o => some (rawB 0x55 o.pfSub o.pfImm o.toForm)
  | .atomAdd o => some (rawB 0x56 (atomSub 0 o) o.atomImm o.toForm)
  | .atomAnd o => some (rawB 0x56 (atomSub 1 o) o.atomImm o.toForm)
  | .atomOr o => some (rawB 0x56 (atomSub 2 o) o.atomImm o.toForm)
  | .atomXor o => some (rawB 0x56 (atomSub 3 o) o.atomImm o.toForm)
  | .atomMin o => some (rawB 0x56 (atomSub 4 o) o.atomImm o.toForm)
  | .atomMax o => some (rawB 0x56 (atomSub 5 o) o.atomImm o.toForm)
  | .atomXchg o => some (rawB 0x56 (atomSub 6 o) o.atomImm o.toForm)
  | .atomDecp o => some (rawB 0x56 (atomSub 7 o) o.atomImm o.toForm)
  | .atomFadd o => some (rawB 0x56 (atomSub 8 o) o.atomImm o.toForm)
  | .acas o => some (rawB 0x57 (atomSub 0 o) o.casImm o.toForm)
  | .satomAdd o => some (rawB 0x58 (atomSub 0 o) o.atomImm o.toForm)
  | .satomAnd o => some (rawB 0x58 (atomSub 1 o) o.atomImm o.toForm)
  | .satomOr o => some (rawB 0x58 (atomSub 2 o) o.atomImm o.toForm)
  | .satomXor o => some (rawB 0x58 (atomSub 3 o) o.atomImm o.toForm)
  | .satomMin o => some (rawB 0x58 (atomSub 4 o) o.atomImm o.toForm)
  | .satomMax o => some (rawB 0x58 (atomSub 5 o) o.atomImm o.toForm)
  | .satomXchg o => some (rawB 0x58 (atomSub 6 o) o.atomImm o.toForm)
  | .satomDecp o => some (rawB 0x58 (atomSub 7 o) o.atomImm o.toForm)
  | .satomFadd o => some (rawB 0x58 (atomSub 8 o) o.atomImm o.toForm)
  | .scas o => some (rawB 0x59 (atomSub 0 o) o.casImm o.toForm)
  | .fenceAcq o => some (rawB 0x60 0 o.immScope o.toForm)
  | .fenceRel o => some (rawB 0x60 1 o.immScope o.toForm)
  | .fenceAr o => some (rawB 0x60 2 o.immScope o.toForm)
  | .fenceSc o => some (rawB 0x60 3 o.immScope o.toForm)
  | .barArrive o => some (rawB 0x61 0 (o.bar.zeroExtend 16) o.toForm)
  | .barWait o => some (rawB 0x61 1 (o.bar.zeroExtend 16) o.toForm)
  | .barSync o => some (rawB 0x61 2 (o.bar.zeroExtend 16) o.toForm)
  | .barDrop o => some (rawB 0x61 3 (o.bar.zeroExtend 16) o.toForm)
  | .barTest o => some (rawB 0x61 4 (o.bar.zeroExtend 16) o.toForm)
  | .barRed o => some (rawB 0x61 5 o.immRed o.toForm)
  | .abarInit o => some (rawB 0x62 0 0 o)
  | .abarArrive o => some (rawB 0x62 1 0 o)
  | .abarWait o => some (rawB 0x62 2 0 o)
  | .waitv o => some (rawB 0x63 0 o.immWaitv o.toForm)
  | .wake1 o => some (rawB 0x63 1 o.immScope o.toForm)
  | .wakeall o => some (rawB 0x63 2 o.immScope o.toForm)
  | .waitc o => some (rawB 0x64 0 o.immWaitc o.toForm)
  | .macq o => some (rawB 0x68 0 (bitImm o.int32) o.toForm)
  | .mrel o => some (rawB 0x68 1 0 o)
  | .mzero o => some (rawB 0x68 2 0 o)
  | .mloop o => some (rawC 0x69 0 o)
  | .mloopg o => some (rawC 0x6A 0 o)
  | .mdrain o => some (rawB 0x6B 0 0 o)
  | .mdrains o => some (rawB 0x6B 1 o.immDrain o.toForm)
  | .mwlat o => some (rawB 0x6C 0 o.immLatch o.toForm)
  | .mstep o => some (rawB 0x6C 1 0 o)
  | .mmeta o => some (rawB 0x6C 2 0 o)
  | .mfill o => some (rawB 0x6D 0 o.immRows o.toForm)
  | .madd o => some (rawB 0x6D 1 o.immRows o.toForm)
  | .mscale o => some (rawB 0x6D 2 0 o)
  | .mcsum o => some (rawB 0x6E 0 0 o)
  | .xfer o => some (rawC 0x70 0 o)
  | .xgather o => some (rawC 0x70 1 o)
  | .chclose o => some (rawB 0x71 0 0 o)
  | .chavail o => some (rawB 0x71 1 0 o)
  | .qpush o => some (rawC 0x72 0 o)
  | .qpop o => some (rawC 0x72 1 o)
  | .qtrypop o => some (rawC 0x72 2 o)
  | .qtrypush o => some (rawC 0x72 3 o)
  | .cred o => some (rawC 0x73 0 o)
  | .callred o => some (rawC 0x73 1 o)
  | .credsc o => some (rawC 0x73 2 o)
  | .callg o => some (rawC 0x73 3 o)
  | .csrr o => some (rawB 0x78 0 (o.num.zeroExtend 16) o.toForm)
  | .csrw o => some (rawB 0x78 1 (o.num.zeroExtend 16) o.toForm)
  | .csrs o => some (rawB 0x78 2 (o.num.zeroExtend 16) o.toForm)
  | .csrc o => some (rawB 0x78 3 (o.num.zeroExtend 16) o.toForm)
  | .launch o => some (rawC 0x79 0 o)
  | .hret o => some (rawB 0x7A 0 (bitImm o.tgt) o.toForm)
  | .hskip o => some (rawB 0x7A 1 0 o)
  | .ctxsave o => some (rawB 0x7B 0 (o.sz.zeroExtend 16) o.toForm)
  | .ctxload o => some (rawB 0x7B 1 (o.sz.zeroExtend 16) o.toForm)
  | .ctxkill o => some (rawB 0x7B 2 0 o)
  | .tlbinv o => some (rawB 0x7C 0 (o.sz.zeroExtend 16) o.toForm)
  | .tlbinvall o => some (rawB 0x7C 1 0 o)
  | .pgprobe o => some (rawB 0x7C 2 0 o)
  | .hcmark o => some (rawB 0x7D 0 o.imm o.toForm)
  | .hcflush o => some (rawB 0x7D 1 0 o)
  | .hcstop o => some (rawB 0x7D 2 o.imm o.toForm)
  | .hcread o => some (rawB 0x7D 3 (o.sel.zeroExtend 16) o.toForm)
  | .kretire o => some (rawB 0x7E 0 0 o)
  | .illegalEncoding _ => none
  | .lavio _ _ => none
  | .alloc => none
  | .config => none
  | .start => none
  | .suspend => none
  | .resume => none
  | .clear => none
  | .kill => none
  | .rekey => none
  | .unknownCommand => none
  | .assign => none
  | .release => none
  | .peers => none
  | .invalidate => none
  | .resolve => none
  | .linkEnable => none
  | .linkDisable => none
  | .linkRecover => none
  | .portcfg => none
  | .hcRecord => none
  | .hcStop => none
  | .hcReplay => none
  | .hcVerify => none
  | .hcRelease => none
  | .errack => none
  | .attest => none
  | .coldreset => none
  | .warmreset => none
  | .queueDoorbell _ _ => none
  | .nearcfgWrite _ => none
  | .frheadWrite _ => none
  | .zhevportPhysicalWrite _ _ => none
  | .mgmtWindowWrite _ _ => none
  | .powerOn => none
  | .bootImage => none
  | .bindingPass => none
  | .bindSeat _ => none
  | .loaderLoad _ _ => none
  | .groupLoadFinished _ _ => none
  | .kernelDone _ => none
  | .completionRecordUpdate _ => none
  | .gangReserve _ => none
  | .gangAck _ => none
  | .gangRefuse _ => none
  | .gangCommit _ => none
  | .gangAbort _ => none
  | .gangFail _ => none
  | .gangDone _ => none
  | .gangTimeout _ => none
  | .gangMemberTimeout _ => none
  | .landing _ _ => none
  | .suspendImageWrite _ => none
  | .groupRestore _ _ _ => none
  | .teardownDrained _ => none
  | .swept _ => none
  | .starvation _ _ => none
  | .yieldExpiry _ _ => none
  | .spillFillDone _ => none
  | .crossLaneDeadlock _ _ => none
  | .matrixStep _ _ => none
  | .memoryAccessServed _ => none
  | .tokenTransfer _ => none
  | .persistentRequest _ _ _ => none
  | .arbiterGrantVisit => none
  | .haloTokenPass _ => none
  | .leaseExpiry _ _ => none
  | .waitvTimeout _ _ => none
  | .waitvPoll _ _ => none
  | .engineChunk _ _ => none
  | .channelSlotDeliver _ _ => none
  | .collectiveJoin _ => none
  | .collectiveChunk _ _ _ => none
  | .isobarPeriod _ _ => none
  | .pageWalk _ => none
  | .faultRecordAppend => none
  | .flitReceive _ _ => none
  | .retryPeriod _ => none
  | .linkTrained _ _ => none
  | .linkTrainTimeout _ => none
  | .linkSilence _ => none
  | .disableFlushTimeout _ => none
  | .zhevportTrained _ => none
  | .zhevportIsolationExpiry => none
  | .cxlTrained _ _ => none
  | .cxlTrainTimeout _ => none
  | .cxlRequestTimeout _ _ => none
  | .cxlLinkDown _ => none
  | .cxlResponse _ _ _ => none
  | .snpinv _ _ => none
  | .snpdata _ _ => none
  | .snpcur _ _ => none
  | .hostMemRead _ _ _ => none
  | .hostMemWrite _ _ _ _ => none
  | .chunkClose _ _ => none
  | .chunkSpill _ => none
  | .scrub _ _ => none
  | .fatalError => none
  | .powerPeriod _ _ => none
  | .railOvercurrent _ _ => none
  | .telemetryRefresh _ => none
  | .thermalThrottle _ => none
  | .thermalTrip _ => none
  | .cxlIoRequest _ _ => none
  | .peakampsRead => none
  | .thermalRecovery _ => none
  | .gangQuery _ => none
  | .gangQueryAnswer _ _ => none

/-! ### The decoder -/

/-- The first field number of a list of conditions that holds: the lowest code where several fields fail (R66). -/
def firstField : List (Bool × Nat) → Option Nat
  | [] => none
  | (bad, f) :: rest => if bad then some f else firstField rest

/-- ILLEGAL with REASON and FIELD (R67) at a raw instruction; ILEN is LEN + 1, and 1 where LEN is 0b11 (R413). -/
def Raw.bad (r : Raw) (reason field : Nat) : Except Illegal Instr :=
  .error { reason := reason, field := field, ilen := if r.len = 3 then 1 else r.len.toNat + 1 }

/-- Checks 5 to 8 of R66: M, unused fields, G, limits. The lists give, in ascending FIELD, the fields that break check 6 and check 8. -/
def Raw.finish (r : Raw) (f : Format) (ms : List (BitVec 2)) (unused limits : List (Bool × Nat)) (i : Instr) : Except Illegal Instr :=
  if ms.contains r.m then
    match firstField unused with
    | some fd => r.bad 0x05 fd
    | none =>
      if f ≠ .A ∧ r.g = 15 then r.bad 0x07 7
      else match firstField limits with
        | some fd => r.bad 0x08 fd
        | none => .ok i
  else r.bad 0x06 7

/-- D is not used. -/
def Raw.noD (r : Raw) : Bool × Nat := (r.d != 0, 1)
/-- A is not used. -/
def Raw.noA (r : Raw) : Bool × Nat := (r.a != 0, 2)
/-- B is not used. -/
def Raw.noB (r : Raw) : Bool × Nat := (r.b != 0, 3)
/-- C is not used. -/
def Raw.noC (r : Raw) : Bool × Nat := (r.imm.extractLsb' 0 7 != 0, 4)
/-- The bits of IMM16 from `lo` up, `n` of them, are zero. -/
def Raw.zeroImm (r : Raw) (lo n : Nat) : Bool × Nat := ((r.imm.extractLsb' lo n) != 0, 6)
/-- Bits 47:39 of a format C form are zero. -/
def Raw.noHi (r : Raw) : Bool × Nat := r.zeroImm 7 9
/-- LA must be zero (FIELD 7, R67). -/
def Raw.noLa (r : Raw) : Bool × Nat := (r.la != 0, 7)
/-- Bit `n` of IMM16. -/
def Raw.immBit (r : Raw) (n : Nat) : Bool := r.imm.getLsbD n
/-- Bits 12:10 of IMM16 as a scope code. -/
def Raw.scopeCode (r : Raw) : BitVec 3 := r.imm.extractLsb' 10 3
/-- Bits 15:13 of IMM16 as an order code. -/
def Raw.ordCode (r : Raw) : BitVec 3 := r.imm.extractLsb' 13 3

/-- A SUB that is not allocated (check 4). -/
def Raw.badSub (r : Raw) : Except Illegal Instr := r.bad 0x04 5

/-- Two-source integer forms of format A (R178). -/
def Raw.intA (r : Raw) (mk : Form → Instr) : Except Illegal Instr := r.finish .A [0, 1, 2] [] [] (mk (r.form .A))

/-- Integer forms with an immediate (R178). -/
def Raw.intImm (r : Raw) (limits : List (Bool × Nat)) (mk : ImmForm → Instr) : Except Illegal Instr :=
  r.finish .B [0, 2] [r.noB] limits (mk { r.form .B with imm := r.imm })

/-- The fields of a floating form under check 4: PREC and RND (R196), then the rest. -/
def Raw.float (r : Raw) (f : Format) (precs : List Prec) (rounds : Bool) (next : FloatForm → Except Illegal Instr) :
    Except Illegal Instr :=
  match rndOf (r.sub.extractLsb' 2 3) with
  | none => r.badSub
  | some rnd =>
    if precs.contains (precOf (r.sub.extractLsb' 0 2)) && (rounds || rnd == .dynamic) then
      next { r.form f with rnd := rnd, prec := precOf (r.sub.extractLsb' 0 2) }
    else r.badSub

/-- Every precision. -/
def allPrec : List Prec := [.f32, .f64, .f16, .bf16]

/-- Three-operand floating forms: B names a register, so M may be 0b01 (R196). -/
def Raw.float3 (r : Raw) (rounds : Bool) (mk : FloatForm → Instr) : Except Illegal Instr :=
  r.float .B allPrec rounds fun o => r.finish .B [0, 1] [r.zeroImm 0 16] [] (mk o)

/-- Two-operand floating forms. -/
def Raw.float2 (r : Raw) (precs : List Prec) (rounds : Bool) (mk : FloatForm → Instr) : Except Illegal Instr :=
  r.float .B precs rounds fun o => r.finish .B [0] [r.noB, r.zeroImm 0 16] [] (mk o)

/-- Floating forms of format C with A, B and C used. -/
def Raw.floatC (r : Raw) (precs : List Prec) (rounds : Bool) (mk : FloatForm → Instr) : Except Illegal Instr :=
  r.float .C precs rounds fun o => r.finish .C [0, 1] [r.noHi] [] (mk o)

/-- Major 0x20. -/
def Raw.op20 (r : Raw) : Except Illegal Instr :=
  match (r.sub.extractLsb' 5 3).toNat with
  | 0 => r.float3 true .fadd
  | 1 => r.float3 true .fsub
  | 2 => r.float3 true .fmul
  | 3 => r.float3 false .fmin
  | 4 => r.float3 false .fmax
  | 5 => r.float3 true .fdiv
  | 6 => r.float2 allPrec true .fsqrt
  | _ => r.badSub

/-- Major 0x21. -/
def Raw.op21 (r : Raw) : Except Illegal Instr :=
  match (r.sub.extractLsb' 5 3).toNat with
  | 0 => r.floatC allPrec true .fma
  | 1 => r.floatC allPrec true .fms
  | 2 => r.floatC allPrec true .fnma
  | 3 => r.floatC allPrec true .fnms
  | _ => r.badSub

/-- Major 0x22. -/
def Raw.op22 (r : Raw) : Except Illegal Instr :=
  match (r.sub.extractLsb' 5 3).toNat with
  | 0 => r.float .B [.f32, .f64] false fun o =>
      r.finish .B [0, 1] [r.zeroImm 3 13] [] (.fcmp { o with cond := floatCondOf (r.imm.extractLsb' 0 3) })
  | 1 => r.float2 allPrec false .fclass
  | _ => r.badSub

/-- Major 0x23. -/
def Raw.op23 (r : Raw) : Except Illegal Instr :=
  match (r.sub.extractLsb' 5 3).toNat with
  | 0 => r.float2 allPrec false .fneg
  | 1 => r.float2 allPrec false .fabs
  | 2 => r.float3 false .fsgnj
  | 3 => r.float3 false .fsgnjn
  | 4 => r.float3 false .fsgnjx
  | _ => r.badSub

/-- Major 0x24. -/
def Raw.op24 (r : Raw) : Except Illegal Instr :=
  match (r.sub.extractLsb' 5 3).toNat with
  | 0 => r.float2 [.f32, .f16, .bf16] false .fexp2
  | 1 => r.float2 [.f32, .f16, .bf16] false .flog2
  | 2 => r.float2 [.f32, .f16, .bf16] false .fsin
  | 3 => r.float2 [.f32, .f16, .bf16] false .fcos
  | 4 => r.float2 allPrec false .frcp
  | 5 => r.float2 allPrec false .frsq
  | _ => r.badSub

/-- The fields of a conversion (R210). -/
def Raw.convert (r : Raw) (o : FloatForm) : ConvertForm :=
  { o with uns := r.immBit 2, dprec := precOf (r.imm.extractLsb' 0 2) }

/-- A conversion to or from an integer: DPREC is 0 (R210). -/
def Raw.intConvert (r : Raw) (mk : ConvertForm → Instr) : Except Illegal Instr :=
  r.float .B [.f32, .f64] true fun o => r.finish .B [0] [r.noB, r.zeroImm 3 13, r.zeroImm 0 2] [] (mk (r.convert o))

/-- Major 0x25. In fcvt the pairs that take no RND refuse one under check 4, and a pair that is not listed breaks check 8 (R210). -/
def Raw.op25 (r : Raw) : Except Illegal Instr :=
  match (r.sub.extractLsb' 5 3).toNat with
  | 0 => r.float .B allPrec true fun o =>
      let q := precOf (r.imm.extractLsb' 0 2)
      if o.rnd != .dynamic && convertOk o.prec q .dynamic && !convertOk o.prec q o.rnd then r.badSub
      else r.finish .B [0] [r.noB, r.zeroImm 2 14] [(!convertOk o.prec q o.rnd, 6)] (.fcvt (r.convert o))
  | 1 => r.intConvert .fcvti
  | 2 => r.intConvert .icvtf
  | 3 => r.float .B [.f32, .f64] true fun o => r.finish .B [0] [r.noB, r.zeroImm 0 16] [] (.frint (r.convert o))
  | 4 => r.intConvert .fcvtil
  | 5 => r.intConvert .icvtfl
  | _ => r.badSub

/-- The fields of a packing form (R211). -/
def Raw.packForm (r : Raw) (o : FloatForm) : PackForm := { o with e5m2 := r.immBit 0, sat := r.immBit 1 }

/-- Major 0x26. -/
def Raw.op26 (r : Raw) : Except Illegal Instr :=
  match (r.sub.extractLsb' 5 3).toNat with
  | 0 => r.float .B [.f32] true fun o => r.finish .B [0, 1] [r.zeroImm 2 14] [] (.f8pack (r.packForm o))
  | 1 => r.float .B [.f32] false fun o => r.finish .B [0] [r.noB, r.zeroImm 1 15] [] (.f8unpack (r.packForm o))
  | 2 => r.float .B [.f16, .bf16] true fun o => r.finish .B [0, 1] [r.zeroImm 2 14, r.zeroImm 0 1] [] (.f16pack (r.packForm o))
  | 3 => r.float2 [.f16, .bf16] false .f16unpack
  | _ => r.badSub

/-- Major 0x27. -/
def Raw.op27 (r : Raw) : Except Illegal Instr :=
  match (r.sub.extractLsb' 5 3).toNat with
  | 0 => r.float .B [.f32] false fun o => r.finish .B [0, 1] [r.zeroImm 2 14] [] (.xe3m2 { o with grp := r.imm.extractLsb' 0 2 })
  | 1 => r.float .B [.f32] false fun o => r.finish .B [0, 1] [r.zeroImm 2 14] [] (.xe2m3 { o with grp := r.imm.extractLsb' 0 2 })
  | 2 => r.float .B [.f32] false fun o => r.finish .B [0] [r.noB, r.zeroImm 1 15] [] (.xint4 { o with hi := r.immBit 0 })
  | _ => r.badSub

/-- Major 0x28. -/
def Raw.op28 (r : Raw) : Except Illegal Instr :=
  match (r.sub.extractLsb' 5 3).toNat with
  | 0 => r.floatC [.f32] true .mxq
  | 1 => r.float .C [.f32] true fun o => r.finish .C [0, 1] [r.noHi] [(decide (o.c.toNat > 1), 4)] (.mxdq o)
  | 2 => r.float .C [.f32] false fun o => r.finish .C [0] [r.noB, r.noC, r.noHi] [] (.mxscale o)
  | _ => r.badSub

/-- Major 0x29. -/
def Raw.op29 (r : Raw) : Except Illegal Instr :=
  match (r.sub.extractLsb' 5 3).toNat with
  | 0 => r.float .C [.f64] false fun o => r.finish .C [0, 1] [r.noHi] [(!splitOk o.c, 4)] (.fsplit o)
  | 1 => r.floatC [.f64] false .fjoin
  | _ => r.badSub

/-- Major 0x2A. -/
def Raw.op2A (r : Raw) : Except Illegal Instr :=
  match (r.sub.extractLsb' 5 3).toNat with
  | 0 => r.floatC [.f16, .bf16] true .fdot2
  | 1 => r.floatC [.f32, .f64] true .fdot4
  | _ => r.badSub

/-- Major 0x2B: format D, IMM16 zero. -/
def Raw.op2B (r : Raw) : Except Illegal Instr :=
  match (r.sub.extractLsb' 5 3).toNat with
  | 0 => r.float .D [.f32] true fun o => r.finish .D [0] [r.noB, r.zeroImm 0 16] [] (.faddl { o with lit := r.lit })
  | 1 => r.float .D [.f32] true fun o => r.finish .D [0] [r.noB, r.zeroImm 0 16] [] (.fmull { o with lit := r.lit })
  | 2 => r.float .D [.f32] true fun o => r.finish .D [0, 1] [r.zeroImm 0 16] [] (.fmal { o with lit := r.lit })
  | _ => r.badSub

/-- Major 0x2C. -/
def Raw.op2C (r : Raw) : Except Illegal Instr :=
  match (r.sub.extractLsb' 5 3).toNat with
  | 0 => r.float3 true .fscale
  | 1 => r.float2 allPrec false .fgetexp
  | 2 => r.float2 allPrec false .fgetman
  | _ => r.badSub

/-- Major 0x2D. -/
def Raw.op2D (r : Raw) : Except Illegal Instr :=
  match (r.sub.extractLsb' 5 3).toNat with
  | 0 => r.float3 false .fminnm
  | 1 => r.float3 false .fmaxnm
  | _ => r.badSub

/-- Major 0x14: division and high products. -/
def Raw.int3 (r : Raw) (ms : List (BitVec 2)) (mk : Form → Instr) : Except Illegal Instr :=
  r.finish .B ms [r.zeroImm 0 16] [] (mk (r.form .B))

/-- Major 0x15 without a field: B and IMM16 are zero. -/
def Raw.int2 (r : Raw) (mk : Form → Instr) : Except Illegal Instr :=
  r.finish .B [0, 2] [r.noB, r.zeroImm 0 16] [] (mk (r.form .B))

/-- The bit-field forms (R185). -/
def Raw.bitField (r : Raw) (ms : List (BitVec 2)) (usesB : Bool) (mk : BitsForm → Instr) : Except Illegal Instr :=
  let o : BitsForm := { r.form .B with pos := r.imm.extractLsb' 0 5, len := r.imm.extractLsb' 5 6 }
  r.finish .B ms [(!usesB && r.b != 0, 3), r.zeroImm 11 5] [(!bitsOk o.pos o.len, 6)] (mk o)

/-- Majors 0x01..0x1C (R177, R178). -/
def Raw.integer (r : Raw) : Except Illegal Instr :=
  match r.op.toNat with
  | 0x01 => r.intA .iadd
  | 0x02 => r.intA .isub
  | 0x03 => r.intA .imul
  | 0x04 => r.intA .and
  | 0x05 => r.intA .or
  | 0x06 => r.intA .xor
  | 0x07 => r.intA .shl
  | 0x08 => r.intA .shr
  | 0x09 => r.intA .sar
  | 0x0A => r.intA .imin
  | 0x0B => r.intA .imax
  | 0x0C => r.intA .umin
  | 0x0D => r.intA .umax
  | 0x0E => r.intA .iaddsat
  | 0x0F => r.intA .isubsat
  | 0x10 => if r.sub = 0 then r.intImm [] .iaddi else r.badSub
  | 0x11 =>
    match r.sub.toNat with
    | 0 => r.intImm [] .andi
    | 1 => r.intImm [] .ori
    | 2 => r.intImm [] .xori
    | _ => r.badSub
  | 0x12 =>
    match r.sub.toNat with
    | 0 => r.intImm [(decide (31 < r.imm.toNat), 6)] .shli
    | 1 => r.intImm [(decide (31 < r.imm.toNat), 6)] .shri
    | 2 => r.intImm [(decide (31 < r.imm.toNat), 6)] .sari
    | _ => r.badSub
  | 0x13 =>
    match condOf r.sub with
    | some c => r.finish .B [0, 1] [r.zeroImm 0 16] [] (.icmp { r.form .B with cond := c })
    | none => r.badSub
  | 0x14 =>
    match r.sub.toNat with
    | 0 => r.int3 [0, 1] .imulhi
    | 1 => r.int3 [0, 1] .umulhi
    | 2 => r.int3 [0, 1] .idiv
    | 3 => r.int3 [0, 1] .udiv
    | 4 => r.int3 [0, 1] .irem
    | 5 => r.int3 [0, 1] .urem
    | _ => r.badSub
  | 0x15 =>
    match r.sub.toNat with
    | 0 => r.int2 .popc
    | 1 => r.int2 .clz
    | 2 => r.int2 .brev
    | 3 => r.bitField [0, 2] false .bfe
    | 4 => r.bitField [0, 2] false .bfes
    | 5 => r.bitField [0, 1, 2] true .bfi
    | _ => r.badSub
  | 0x16 =>
    match r.sub.toNat with
    | 0 => r.finish .C [0, 1] [r.noHi] [] (.sel (r.form .C))
    | 1 => r.finish .C [0, 1] [r.noHi] [] (.imad (r.form .C))
    | _ => r.badSub
  | 0x17 =>
    match r.sub.toNat with
    | 0 => r.finish .C [0, 1] [r.noHi] [] (.addc (r.form .C))
    | 1 => r.finish .C [0, 1] [r.noHi] [] (.subb (r.form .C))
    | _ => r.badSub
  | 0x18 =>
    match r.sub.toNat with
    | 0 => r.int3 [0, 1, 2] .iadd64
    | 1 => r.int3 [0, 1, 2] .isub64
    | 2 => r.int3 [0, 1, 2] .shl64
    | 3 => r.int3 [0, 1, 2] .shr64
    | 4 => r.int3 [0, 1, 2] .sar64
    | _ => r.badSub
  | 0x19 =>
    if r.sub = 0 then
      r.finish .B [0, 1, 2] [] [(decide (4 < r.imm.toNat), 6)] (.lea { r.form .B with imm := r.imm })
    else r.badSub
  | 0x1A => r.finish .A [0, 1, 2, 3] [r.noA] [] (.mov (r.form .A))
  | 0x1B =>
    if r.sub = 0 then r.finish .B [0, 2] [r.noA, r.noB] [] (.movi { r.form .B with imm := r.imm }) else r.badSub
  | 0x1C =>
    if r.sub = 0 then r.finish .D [0, 2] [r.noA, r.noB, r.zeroImm 0 16] [] (.movl { r.form .D with lit := r.lit }) else r.badSub
  | _ => r.badSub

/-- A form of majors 0x40..0x42 and others in which M is 0b00 (R62). -/
def Raw.plain (r : Raw) (f : Format) (unused limits : List (Bool × Nat)) (i : Instr) : Except Illegal Instr :=
  r.finish f [0] unused limits i

/-- FRAME of the calls is at most 96 (R161). -/
def Raw.frameLimit (r : Raw) : Bool × Nat := (decide (96 < r.d.toNat), 1)

/-- The shuffles (R171). -/
def Raw.shuffle (r : Raw) (mk : ShuffleForm → Instr) : Except Illegal Instr :=
  let o : ShuffleForm := { r.form .B with seg := r.imm.extractLsb' 8 3, rb := r.immBit 7, k := r.imm.extractLsb' 0 5 }
  r.plain .B [(!o.rb && r.b != 0, 3), ((r.imm.extractLsb' 11 5) != 0 || (r.imm.extractLsb' 5 2) != 0 || (o.rb && o.k != 0), 6)]
    [(decide (5 < o.seg.toNat) || (!o.rb && decide (2 ^ o.seg.toNat ≤ o.k.toNat)), 6)] (mk o)

/-- wscan and wred (R173): check 4 for OPS, EXC, UNS and PREC, check 6 for reserved bits, check 8 for SEG. -/
def Raw.scan (r : Raw) (scan : Bool) (mk : ScanForm → Instr) : Except Illegal Instr :=
  match intFoldOf (r.imm.extractLsb' 4 3) with
  | none => r.bad 0x04 6
  | some op =>
    if (r.immBit 8 && !scan) || (r.immBit 3 && !(op == .min || op == .max)) || (r.imm.extractLsb' 0 2) != 0 then r.bad 0x04 6
    else r.plain .B [r.noB, ((r.imm.extractLsb' 12 4) != 0 || r.immBit 2, 6)] [(decide (5 < (r.imm.extractLsb' 9 3).toNat), 6)]
      (mk { r.form .B with seg := r.imm.extractLsb' 9 3, exc := r.immBit 8, w64 := r.immBit 7, op := op, uns := r.immBit 3 })

/-- wfred (R173). -/
def Raw.floatScan (r : Raw) : Except Illegal Instr :=
  match floatFoldOf (r.imm.extractLsb' 4 3) with
  | none => r.bad 0x04 6
  | some op =>
    if r.immBit 8 || r.immBit 7 || r.immBit 3 || r.immBit 1 then r.bad 0x04 6
    else r.plain .B [r.noB, ((r.imm.extractLsb' 12 4) != 0 || r.immBit 2, 6)] [(decide (5 < (r.imm.extractLsb' 9 3).toNat), 6)]
      (.wfred { r.form .B with seg := r.imm.extractLsb' 9 3, op := op, f64 := r.immBit 0 })

/-- Majors 0x40..0x45 (R144, R161, R171 to R173). -/
def Raw.control (r : Raw) : Except Illegal Instr :=
  match r.op.toNat with
  | 0x40 =>
    match r.sub.toNat with
    | 0 => r.plain .B [r.noD, r.noA, r.noB] [] (.bra { r.form .B with imm := r.imm })
    | 1 => r.plain .B [r.noD, r.noB, r.zeroImm 0 16] [] (.brx (r.form .B))
    | 2 => r.plain .B [r.noA, r.noB] [r.frameLimit, r.noLa] (.call { r.form .B with imm := r.imm })
    | 3 => r.plain .B [r.noB, r.zeroImm 0 16] [r.frameLimit, r.noLa] (.callx (r.form .B))
    | 4 => r.plain .B [r.noD, r.noA, r.noB, r.zeroImm 0 16] [r.noLa] (.ret (r.form .B))
    | _ => r.badSub
  | 0x41 =>
    match r.sub.toNat with
    | 0 => r.plain .D [r.noD, r.noA, r.noB, r.zeroImm 0 16] [] (.jmpl { r.form .D with lit := r.lit })
    | 1 => r.plain .D [r.noA, r.noB, r.zeroImm 0 16] [r.frameLimit, r.noLa] (.calll { r.form .D with lit := r.lit })
    | _ => r.badSub
  | 0x42 =>
    match r.sub.toNat with
    | 0 => r.plain .B [r.noD, r.noA, r.noB, r.zeroImm 0 16] [r.noLa] (.exit (r.form .B))
    | 1 => r.plain .B [r.noD, r.noA, r.noB, r.zeroImm 0 16] [r.noLa] (.rfpt (r.form .B))
    | 2 => r.plain .B [r.noD, r.noA, r.noB, r.zeroImm 0 16] [r.noLa] (.yield (r.form .B))
    | 3 => r.plain .B [r.noD, r.noA, r.noB, r.zeroImm 0 16] [] (.nop (r.form .B))
    | 4 => r.plain .B [r.noD, r.noA, r.noB] [r.noLa] (.brk { r.form .B with imm := r.imm })
    | 5 => r.plain .B [r.noD, r.noB, r.zeroImm 0 16] [r.noLa] (.migr (r.form .B))
    | _ => r.badSub
  | 0x43 =>
    match r.sub.toNat with
    | 0 => r.shuffle .shfli
    | 1 => r.shuffle .shflu
    | 2 => r.shuffle .shfld
    | 3 => r.shuffle .shflx
    | _ => r.badSub
  | 0x44 =>
    match r.sub.toNat with
    | 0 => r.plain .B [r.noB, r.zeroImm 0 16] [] (.vall (r.form .B))
    | 1 => r.plain .B [r.noB, r.zeroImm 0 16] [] (.vany (r.form .B))
    | 2 => r.plain .B [r.noB, r.zeroImm 0 16] [] (.ballot (r.form .B))
    | 3 => r.plain .B [r.noB, r.zeroImm 0 16] [] (.matchLanes (r.form .B))
    | _ => r.badSub
  | 0x45 =>
    match r.sub.toNat with
    | 0 => r.scan true .wscan
    | 1 => r.scan false .wred
    | 2 => r.floatScan
    | _ => r.badSub
  | _ => r.badSub

/-- The fields of ld, st, ldu, ldfe and stfe; `w` is the width already read. -/
def Raw.memForm (r : Raw) (w : Width) : MemForm :=
  { r.form .B with
    width := w, sx := r.sub.getLsbD 4, scale := r.sub.extractLsb' 2 2, idx := r.sub.getLsbD 1, clr := r.sub.getLsbD 0,
    ord := orderOf r.ordCode, scope := scopeOf r.scopeCode, off := r.imm.extractLsb' 0 10 }

/-- A memory form (R266, R268): `sxOk` and `clrOk` say whether SX and CLR may be set, `orders` what ORD accepts. -/
def Raw.mem (r : Raw) (ms : List (BitVec 2)) (sxOk clrOk uniform : Bool) (orders : List (BitVec 3)) (mk : MemForm → Instr) :
    Except Illegal Instr :=
  match widthOf (r.sub.extractLsb' 5 3) with
  | none => r.badSub
  | some w =>
    let o := r.memForm w
    if (o.sx && !(sxOk && (w == .b8 || w == .b16))) || (o.clr && !clrOk) || (!o.idx && o.scale != 0) then r.badSub
    else r.finish .B ms [(!o.idx && r.b != 0, 3)]
      [(!orders.contains r.ordCode || decide (4 < r.scopeCode.toNat) || ((uniform || r.m == 2 || r.m == 3) && r.scopeCode != 0), 6)]
      (mk o)

/-- pf (R266, R268). -/
def Raw.prefetch (r : Raw) : Except Illegal Instr :=
  match pfLevelOf (r.sub.extractLsb' 5 3) with
  | none => r.badSub
  | some l =>
    let o : PrefetchForm :=
      { r.form .B with level := l, scale := r.sub.extractLsb' 2 2, idx := r.sub.getLsbD 1, off := r.imm.extractLsb' 0 10 }
    if r.sub.getLsbD 4 || r.sub.getLsbD 0 || (!o.idx && o.scale != 0) then r.badSub
    else r.finish .B [0, 1] [r.noD, (!o.idx && r.b != 0, 3)] [(r.ordCode != 0 || r.scopeCode != 0, 6)] (.pf o)

/-- The fields of an atomic form (R71, R267). -/
def Raw.atomForm (r : Raw) (f : Format) : AtomForm :=
  { r.form f with
    uns := r.sub.getLsbD 3, w64 := r.sub.getLsbD 2, ord := orderOf r.ordCode, scope := scopeOf r.scopeCode,
    off := if f = .C then 0 else r.imm.extractLsb' 0 10 }

/-- An atomic form (R266 to R268): `unsOk` and `w64Ok` say whether UNS and W64 may be set, `bOk` whether B names an operand. -/
def Raw.atomic (r : Raw) (f : Format) (ms : List (BitVec 2)) (unsOk w64Ok bOk : Bool) (mk : AtomForm → Instr) : Except Illegal Instr :=
  let o := r.atomForm f
  if (o.uns && !unsOk) || (o.w64 && !w64Ok) then r.badSub
  else r.finish f ms
    [(!bOk && r.b != 0, 3), ((r.sub.extractLsb' 0 2) != 0, 5), (f == .C && (r.imm.extractLsb' 7 3) != 0, 6)]
    [(decide (4 < r.ordCode.toNat) || decide (4 < r.scopeCode.toNat) || ((r.m == 2 || r.m == 3) && r.scopeCode != 0), 6)]
    (mk o)

/-- Majors 0x50..0x59 (R266 to R268). -/
def Raw.memory (r : Raw) : Except Illegal Instr :=
  match r.op.toNat with
  | 0x50 => r.mem [0, 1, 2, 3] true false false [0, 1, 4] .ld
  | 0x51 => r.mem [0, 1, 2, 3] false false false [0, 2, 4] .st
  | 0x52 => r.mem [0, 1] false false true [0] .ldu
  | 0x53 => r.mem [2, 3] false true false [0, 1, 4] .ldfe
  | 0x54 => r.mem [2, 3] false false false [0, 2, 4] .stfe
  | 0x55 => r.prefetch
  | 0x56 =>
    match (r.sub.extractLsb' 4 4).toNat with
    | 0 => r.atomic .B [0, 1] false true true .atomAdd
    | 1 => r.atomic .B [0, 1] false true true .atomAnd
    | 2 => r.atomic .B [0, 1] false true true .atomOr
    | 3 => r.atomic .B [0, 1] false true true .atomXor
    | 4 => r.atomic .B [0, 1] true true true .atomMin
    | 5 => r.atomic .B [0, 1] true true true .atomMax
    | 6 => r.atomic .B [0, 1] false true true .atomXchg
    | 7 => r.atomic .B [0, 1] false true false .atomDecp
    | 8 => r.atomic .B [0, 1] false false true .atomFadd
    | _ => r.badSub
  | 0x57 => if (r.sub.extractLsb' 4 4) = 0 then r.atomic .C [0, 1] false true true .acas else r.badSub
  | 0x58 =>
    match (r.sub.extractLsb' 4 4).toNat with
    | 0 => r.atomic .B [2, 3] false false true .satomAdd
    | 1 => r.atomic .B [2, 3] false false true .satomAnd
    | 2 => r.atomic .B [2, 3] false false true .satomOr
    | 3 => r.atomic .B [2, 3] false false true .satomXor
    | 4 => r.atomic .B [2, 3] true false true .satomMin
    | 5 => r.atomic .B [2, 3] true false true .satomMax
    | 6 => r.atomic .B [2, 3] false false true .satomXchg
    | 7 => r.atomic .B [2, 3] false false false .satomDecp
    | 8 => r.atomic .B [2, 3] false false true .satomFadd
    | _ => r.badSub
  | 0x59 => if (r.sub.extractLsb' 4 4) = 0 then r.atomic .C [2, 3] false false true .scas else r.badSub
  | _ => r.badSub

/-- The fences (R295) and, with A used, the wakes (R318). -/
def Raw.scoped (r : Raw) (usesA : Bool) (mk : ScopeForm → Instr) : Except Illegal Instr :=
  r.plain .B [r.noD, (!usesA && r.a != 0, 2), r.noB, ((r.imm.extractLsb' 13 3) != 0 || (r.imm.extractLsb' 0 10) != 0, 6)]
    [(decide (4 < r.scopeCode.toNat), 6), r.noLa] (mk { r.form .B with scope := scopeOf r.scopeCode })

/-- The bar forms of R304. -/
def Raw.barForm (r : Raw) (usesD : Bool) (mk : BarForm → Instr) : Except Illegal Instr :=
  r.plain .B [(!usesD && r.d != 0, 1), r.noA, r.noB, r.zeroImm 4 12] [r.noLa] (mk { r.form .B with bar := r.imm.extractLsb' 0 4 })

/-- The kind of a bar.red, or none where check 4 refuses it (R310). -/
def Raw.redKind (r : Raw) : Option RedKind :=
  if r.immBit 8 then
    match floatFoldOf (r.imm.extractLsb' 4 3) with
    | some op => if r.immBit 7 || r.immBit 3 || r.immBit 1 then none else some (.flt op (r.immBit 0))
    | none => none
  else
    match intFoldOf (r.imm.extractLsb' 4 3) with
    | some op =>
      if (r.immBit 3 && !(op == .min || op == .max)) || (r.imm.extractLsb' 0 2) != 0 then none
      else some (.int (r.immBit 7) op (r.immBit 3))
    | none => none

/-- bar.red (R310). -/
def Raw.barRedForm (r : Raw) : Except Illegal Instr :=
  match r.redKind with
  | none => r.bad 0x04 6
  | some k =>
    r.plain .B [r.noB, ((r.imm.extractLsb' 9 3) != 0 || r.immBit 2, 6)] [r.noLa]
      (.barRed { r.form .B with bar := r.imm.extractLsb' 12 4, kind := k })

/-- Majors 0x60..0x64 (R295, R304, R310, R314, R318, R324). -/
def Raw.sync (r : Raw) : Except Illegal Instr :=
  match r.op.toNat with
  | 0x60 =>
    match r.sub.toNat with
    | 0 => r.scoped false .fenceAcq
    | 1 => r.scoped false .fenceRel
    | 2 => r.scoped false .fenceAr
    | 3 => r.scoped false .fenceSc
    | _ => r.badSub
  | 0x61 =>
    match r.sub.toNat with
    | 0 => r.barForm false .barArrive
    | 1 => r.barForm false .barWait
    | 2 => r.barForm false .barSync
    | 3 => r.barForm false .barDrop
    | 4 => r.barForm true .barTest
    | 5 => r.barRedForm
    | _ => r.badSub
  | 0x62 =>
    match r.sub.toNat with
    | 0 => r.plain .B [r.noD, r.zeroImm 0 16] [r.noLa] (.abarInit (r.form .B))
    | 1 => r.plain .B [r.noD, r.zeroImm 0 16] [r.noLa] (.abarArrive (r.form .B))
    | 2 => r.plain .B [r.noD, r.zeroImm 0 16] [r.noLa] (.abarWait (r.form .B))
    | _ => r.badSub
  | 0x63 =>
    match r.sub.toNat with
    | 0 =>
      r.plain .B [r.zeroImm 0 5]
        [(!([0, 1, 4] : List (BitVec 3)).contains r.ordCode || decide (4 < r.scopeCode.toNat) || !texpOk (r.imm.extractLsb' 5 5), 6), r.noLa]
        (.waitv { r.form .B with ord := orderOf r.ordCode, scope := scopeOf r.scopeCode, texp := r.imm.extractLsb' 5 5 })
    | 1 => r.scoped true .wake1
    | 2 => r.scoped true .wakeall
    | _ => r.badSub
  | 0x64 =>
    if r.sub = 0 then
      r.plain .B [r.noD, r.noA, r.noB, r.zeroImm 8 8] [r.noLa]
        (.waitc { r.form .B with cls := counterClassOf (r.imm.extractLsb' 6 2), thresh := r.imm.extractLsb' 0 6 })
    else r.badSub
  | _ => r.badSub

/-- mfill and madd (R232). -/
def Raw.rows (r : Raw) (mk : RowsForm → Instr) : Except Illegal Instr :=
  let o : RowsForm := { r.form .B with rb0 := r.imm.extractLsb' 9 3, nrb1 := r.imm.extractLsb' 6 3 }
  r.plain .B [((r.imm.extractLsb' 12 4) != 0 || (r.imm.extractLsb' 0 6) != 0, 6)] [(!rowsOk o.rb0 o.nrb1, 6)] (mk o)

/-- Majors 0x68..0x6E (R232). -/
def Raw.matrix (r : Raw) : Except Illegal Instr :=
  match r.op.toNat with
  | 0x68 =>
    match r.sub.toNat with
    | 0 => r.plain .B [r.noA, r.noB, r.zeroImm 1 15] [] (.macq { r.form .B with int32 := r.immBit 0 })
    | 1 => r.plain .B [r.noA, r.noB, r.zeroImm 0 16] [] (.mrel (r.form .B))
    | 2 => r.plain .B [r.noA, r.noB, r.zeroImm 0 16] [] (.mzero (r.form .B))
    | _ => r.badSub
  | 0x69 => if r.sub = 0 then r.plain .C [r.noHi] [] (.mloop (r.form .C)) else r.badSub
  | 0x6A => if r.sub = 0 then r.plain .C [r.noHi] [] (.mloopg (r.form .C)) else r.badSub
  | 0x6B =>
    match r.sub.toNat with
    | 0 => r.plain .B [r.zeroImm 0 16] [] (.mdrain (r.form .B))
    | 1 =>
      let o : DrainForm := { r.form .B with ofmt := r.imm.extractLsb' 12 4, rb0 := r.imm.extractLsb' 9 3, nrb1 := r.imm.extractLsb' 6 3 }
      r.plain .B [r.noD, r.zeroImm 0 6] [(decide (6 < o.ofmt.toNat) || !rowsOk o.rb0 o.nrb1, 6)] (.mdrains o)
    | _ => r.badSub
  | 0x6C =>
    match r.sub.toNat with
    | 0 =>
      r.plain .B [r.noB, r.zeroImm 5 11] [(decide (5 < (r.imm.extractLsb' 0 4).toNat), 6)]
        (.mwlat { r.form .B with wfmt := r.imm.extractLsb' 0 4, sp := r.immBit 4 })
    | 1 => r.plain .B [r.noB, r.zeroImm 0 16] [] (.mstep (r.form .B))
    | 2 => r.plain .B [r.noB, r.zeroImm 0 16] [] (.mmeta (r.form .B))
    | _ => r.badSub
  | 0x6D =>
    match r.sub.toNat with
    | 0 => r.rows .mfill
    | 1 => r.rows .madd
    | 2 => r.plain .B [r.noB, r.zeroImm 0 16] [] (.mscale (r.form .B))
    | _ => r.badSub
  | 0x6E => if r.sub = 0 then r.plain .B [r.zeroImm 0 16] [] (.mcsum (r.form .B)) else r.badSub
  | _ => r.badSub

/-- An engine command form (R333, R346): B and C are zero. -/
def Raw.engine (r : Raw) (mk : Form → Instr) : Except Illegal Instr := r.plain .C [r.noB, r.noC, r.noHi] [] (mk (r.form .C))

/-- Majors 0x70..0x73 (R333, R338, R346). -/
def Raw.transfer (r : Raw) : Except Illegal Instr :=
  match r.op.toNat with
  | 0x70 =>
    match r.sub.toNat with
    | 0 => r.engine .xfer
    | 1 => r.engine .xgather
    | _ => r.badSub
  | 0x71 =>
    match r.sub.toNat with
    | 0 => r.plain .B [r.noA, r.noB, r.zeroImm 0 16] [] (.chclose (r.form .B))
    | 1 => r.plain .B [r.noB, r.zeroImm 0 16] [] (.chavail (r.form .B))
    | _ => r.badSub
  | 0x72 =>
    match r.sub.toNat with
    | 0 => r.engine .qpush
    | 1 => r.engine .qpop
    | 2 => r.plain .C [r.noB, r.noHi] [] (.qtrypop (r.form .C))
    | 3 => r.plain .C [r.noB, r.noHi] [] (.qtrypush (r.form .C))
    | _ => r.badSub
  | 0x73 =>
    match r.sub.toNat with
    | 0 => r.engine .cred
    | 1 => r.engine .callred
    | 2 => r.engine .credsc
    | 3 => r.engine .callg
    | _ => r.badSub
  | _ => r.badSub

/-- A control-register form (R74). -/
def Raw.csr (r : Raw) (usesD usesA : Bool) (mk : CsrForm → Instr) : Except Illegal Instr :=
  r.plain .B [(!usesD && r.d != 0, 1), (!usesA && r.a != 0, 2), r.noB, r.zeroImm 12 4] [r.noLa]
    (mk { r.form .B with num := r.imm.extractLsb' 0 12 })

/-- A form with a 6-bit size in `lo..hi` (R98, R366). -/
def Raw.sized (r : Raw) (lo hi : Nat) (mk : SizeForm → Instr) : Except Illegal Instr :=
  let sz := r.imm.extractLsb' 0 6
  r.plain .B [r.zeroImm 6 10] [(decide (sz.toNat < lo) || decide (hi < sz.toNat), 6), r.noLa] (mk { r.form .B with sz := sz })

/-- Majors 0x78..0x7E (R74, R98, R114, R366, R409, R416). -/
def Raw.system (r : Raw) : Except Illegal Instr :=
  match r.op.toNat with
  | 0x78 =>
    match r.sub.toNat with
    | 0 => r.csr true false .csrr
    | 1 => r.csr false true .csrw
    | 2 => r.csr true true .csrs
    | 3 => r.csr true true .csrc
    | _ => r.badSub
  | 0x79 => if r.sub = 0 then r.plain .C [r.noC, r.noHi] [r.noLa] (.launch (r.form .C)) else r.badSub
  | 0x7A =>
    match r.sub.toNat with
    | 0 => r.plain .B [r.noD, (!r.immBit 0 && r.a != 0, 2), r.noB, r.zeroImm 1 15] [r.noLa] (.hret { r.form .B with tgt := r.immBit 0 })
    | 1 => r.plain .B [r.noD, r.noA, r.noB, r.zeroImm 0 16] [r.noLa] (.hskip (r.form .B))
    | _ => r.badSub
  | 0x7B =>
    match r.sub.toNat with
    | 0 => r.sized 20 40 .ctxsave
    | 1 => r.sized 20 40 .ctxload
    | 2 => r.plain .B [r.noB, r.zeroImm 0 16] [r.noLa] (.ctxkill (r.form .B))
    | _ => r.badSub
  | 0x7C =>
    match r.sub.toNat with
    | 0 => r.sized 12 57 .tlbinv
    | 1 => r.plain .B [r.noB, r.zeroImm 0 16] [r.noLa] (.tlbinvall (r.form .B))
    | 2 => r.plain .B [r.zeroImm 0 16] [r.noLa] (.pgprobe (r.form .B))
    | _ => r.badSub
  | 0x7D =>
    match r.sub.toNat with
    | 0 => r.plain .B [r.noD, r.noB] [r.noLa] (.hcmark { r.form .B with imm := r.imm })
    | 1 => r.plain .B [r.noD, r.noA, r.noB, r.zeroImm 0 16] [r.noLa] (.hcflush (r.form .B))
    | 2 => r.plain .B [r.noD, r.noA, r.noB] [r.noLa] (.hcstop { r.form .B with imm := r.imm })
    | 3 => r.plain .B [r.noA, r.noB, r.zeroImm 2 14] [r.noLa] (.hcread { r.form .B with sel := r.imm.extractLsb' 0 2 })
    | _ => r.badSub
  | 0x7E => if r.sub = 0 then r.plain .B [r.noB, r.zeroImm 0 16] [r.noLa] (.kretire (r.form .B)) else r.badSub
  | _ => r.badSub

/-- Checks 4 to 8 of R66, by the family of the major opcode. -/
def Raw.body (r : Raw) : Except Illegal Instr :=
  if r.op.toNat ≤ 0x1C then r.integer
  else match r.op.toNat with
    | 0x20 => r.op20
    | 0x21 => r.op21
    | 0x22 => r.op22
    | 0x23 => r.op23
    | 0x24 => r.op24
    | 0x25 => r.op25
    | 0x26 => r.op26
    | 0x27 => r.op27
    | 0x28 => r.op28
    | 0x29 => r.op29
    | 0x2A => r.op2A
    | 0x2B => r.op2B
    | 0x2C => r.op2C
    | 0x2D => r.op2D
    | _ =>
      if r.op.toNat ≤ 0x45 then r.control
      else if r.op.toNat ≤ 0x59 then r.memory
      else if r.op.toNat ≤ 0x64 then r.sync
      else if r.op.toNat ≤ 0x6E then r.matrix
      else if r.op.toNat ≤ 0x73 then r.transfer
      else r.system

/-- The checks of R66 in their order: LEN, OP, length, then the body's. -/
def decodeRaw (r : Raw) : Except Illegal Instr :=
  if r.len = 3 then r.bad 0x01 0
  else match formatOf r.op.toNat with
    | none => r.bad 0x02 0
    | some f => if r.len = f.len then r.body else r.bad 0x03 0

/-- Decoding of the words of an instruction (R56, R66); words after those that LEN names are not looked at. -/
def decode (w0 w1 w2 : W32) : Except Illegal Instr := decodeRaw (unpack w0 w1 w2)

/-- The words of a form, first word first (R56, R57). -/
def encode (i : Instr) : Option (W32 × W32 × W32) := (toRaw i).map pack

/-- The instruction the decoder reads from `nbits` bits numbered as the opcode table numbers them; every bit above is zero. -/
def decodeTableWord (nbits w : Nat) : Option Instr :=
  let v := w % 2 ^ nbits
  match decode (BitVec.ofNat 32 v) (BitVec.ofNat 32 (v / 2 ^ 32)) (BitVec.ofNat 32 (v / 2 ^ 64)) with
  | .ok i => some i
  | .error _ => none

end Sys2Proof
end

