-- ==== Sys2Proof/Config.lean ====
section
/-! DEFINITION. What a part fixes and the spec leaves free (00 R16): opaque constants, of which no proof can see a value.
Notes/assumptions 4, 7 and 8 name them. The first argument `t` of a free value is the model's tick, the number of the step that
draws it. -/

namespace Sys2Proof.Config

/-- A physical lane of a core that is fused off, if there is a `j`-th one (R23, R24): at most six are. LANEMAP clears their bits. -/
opaque fusedLane (core : Nat) (j : Fin 6) : Option (Fin 32)

/-- The row block of a core that is fused off, if one is (R23, R25). -/
opaque fusedBlock : Nat → Option (Fin 4)

/-- A byte read under a key that did not write it (R87, R253), by key generation and address. -/
opaque staleByte (key addr : Nat) : W8

/-- The advance of a core's cycle count from one read to the next (R393). -/
opaque cycleAdvance (t core : Nat) : Nat

/-- Where the spec allows the old or the new value, or a choice among parties: an arbitrary number (R16). -/
opaque choice (t n : Nat) : Nat

/-- The value of a special function where R209 gives only a bound, as an FP32 or FP64 pattern, by form and operand pattern. -/
opaque specialFunction (form wide : Nat) (operand : W64) : W64

/-- The bytes of a DEFLATE stream of a chunk body (R399): any stream that decodes to the body. -/
opaque deflate (body : List W8) : List W8

/-- Does an SLH-DSA-SHAKE-256s signature verify (R460)? -/
opaque verifies (key message signature : List W8) : Bool

/-- The signature bytes of the alias key (R462), and of the identity key (R461). -/
opaque sign (key message : List W8) : List W8

/-- The alias public key that the boot derives from the fused secret and M0 (R461). -/
opaque aliasKey (m0 : List W8) : List W8

/-- The hash of the fused firmware key (R460), 32 bytes. -/
opaque firmwareKeyHash : List W8

/-- The alias certificate and the identity certificate (R461). -/
opaque aliasCertificate (publicKey m0 : List W8) (version : Nat) : List W8

/-- The identity certificate in the window (R461, R463). -/
opaque identityCertificate : List W8

/-- What a fabric packet carries (R376). The spec names the contents and gives no layout. -/
inductive PacketContent where
  /-- Chunk `j` of engine command `id` of the device of rank `sender`, towards the member of global rank `rank` of a stage of gang `n`: scratchpad
  offset, bytes, the poisoned words, FE and BAR (R329, R330), its sum, and whether it comes a second time (R345); the outcome that the receiver
  answers (R331), or its wish to have the chunk once more; and the credit of a chunk that has failed before any byte moved. -/
  | chunk (id j n stage rank sender offset : Nat) (bytes : List W8) (bad : List Nat) (full : Bool) (bar : Nat) (sum : W64) (again : Bool)
  | outcome (n id j code : Nat)
  | resend (n id j rank : Nat)
  | credit (n stage rank bar bytes : Nat)
  /-- A slot of a channel in ring mode; the freeing of a slot of the ring, towards the predecessor; the end of the stream (R335 to R337). -/
  | slot (n stage rank channel : Nat) (words : List W32)
  | freed (n stage rank channel : Nat)
  | closed (n stage rank channel : Nat)
  /-- A member's command for collective `cn`; a piece of its contribution with its poisoned words, its sum, its arithmetic checksums and whether it
  comes a second time, and the wish of the device of rank `asker` to have it once more (R345); its retirement after `cn` commands (R340, R342). -/
  | coll (n stage cn rank sub : Nat) (words : List W32)
  | share (n stage cn rank offset : Nat) (bytes : List W8) (bad : List Nat) (sum : W64) (sigma : Int) (mu : Nat) (again : Bool)
  | shareAgain (n stage cn rank offset asker : Nat)
  | absent (n stage cn rank : Nat)
  /-- A gang message (R130 to R136): kind 1 ACK, 2 REFUSE, 3 COMMIT, 4 ABORT, 5 FAIL, 6 DONE, 7 query, 8 and 9 the
  answers that the gang is live and is not; with the sender's rank. -/
  | gang (kind n rank : Nat)
  /-- RESERVE (R131), with the peer entries that R132 compares. -/
  | reserve (n toexp : Nat) (desc : W64) (prio : Nat) (tag : W32) (smask : W16) (sval : List W32) (peers : List (Nat × Nat))
  /-- Anything else. -/
  | other
  deriving DecidableEq, Repr, Inhabited

/-- The content of a packet's payload (R372, R376). -/
opaque packetContent (payload : List W8) : PacketContent

/-- The payload bytes of a packet that carries a content (R370, R376): the spec gives no layout. -/
opaque packetPayload (content : PacketContent) : List W8

/-- What firmware's route table knows beyond the links of this device (R369): does device `peer` lead towards device `dst`? -/
opaque leadsTo (peer dst : Nat) : Bool

/-- A request that arrives over Zhevport (R380): a write or a read of the management window, a physical write. -/
inductive ZhevRequest where
  | windowWrite (offset : Nat) (bytes : List W8)
  | windowRead (offset bytes : Nat)
  | physicalWrite (addr : Nat) (bytes : List W8)
  | other
  deriving DecidableEq, Repr, Inhabited

/-- The request in a payload of Zhevport, and the payload of an answer (R380): the spec gives no layout. -/
opaque zhevRequest (payload : List W8) : ZhevRequest
opaque zhevAnswer (data : List W8) : List W8

/-- A sensor field of telemetry that the spec defines only as measured (R466). -/
opaque gatedCycles (t die : Nat) : Nat

end Sys2Proof.Config
end

