-- ==== Sys2Proof/Machine/Table.lean ====
section
/-! DEFINITION. Finite tables as sorted lists of key and value pairs: the one canonical form in which State holds
memories, register banks of sparse storage and every collection of numbered objects. -/

namespace Sys2Proof.Machine

/-- A table: pairs of a key and a value, keys strictly rising (`Table.sorted`). -/
abbrev Table (α : Type) := List (Nat × α)

/-- The value at key `k`, if the table lists one. -/
def Table.get? {α : Type} : Table α → Nat → Option α
  | [], _ => none
  | (j, a) :: t, k => if k = j then some a else Table.get? t k

/-- The table with `a` at key `k`, in the place that keeps the keys rising. -/
def Table.put {α : Type} : Table α → Nat → α → Table α
  | [], k, a => [(k, a)]
  | (j, b) :: t, k, a =>
    if k < j then (k, a) :: (j, b) :: t
    else if k = j then (k, a) :: t
    else (j, b) :: Table.put t k a

/-- The table without key `k`. -/
def Table.erase {α : Type} (t : Table α) (k : Nat) : Table α := t.filter (fun e => e.1 != k)

/-- The table with the value at `k`, where there is one, replaced. -/
def Table.modify {α : Type} : Table α → Nat → (α → α) → Table α
  | [], _, _ => []
  | (j, a) :: t, k, f => if k = j then (j, f a) :: t else (j, a) :: Table.modify t k f

/-- Every value replaced, keys kept. -/
def Table.mapAll {α β : Type} (t : Table α) (f : Nat → α → β) : Table β :=
  t.map (fun e => (e.1, f e.1 e.2))

/-- The keys whose value meets `q`, ascending. -/
def Table.keysOf {α : Type} (t : Table α) (q : Nat → α → Bool) : List Nat :=
  (t.filter (fun e => q e.1 e.2)).map Prod.fst

/-- The lowest number not used as a key, among `lo .. lo+n-1`. -/
def Table.freeKey? {α : Type} (t : Table α) : Nat → Nat → Option Nat
  | 0, _ => none
  | n + 1, lo => if (Table.get? t lo).isNone then some lo else Table.freeKey? t n (lo + 1)

/-- The value at `k` of a store in which an unlisted key reads as `d`. -/
def Table.read {α : Type} (d : α) (t : Table α) (k : Nat) : α := (Table.get? t k).getD d

/-- A write to a store in which an unlisted key reads as `d`: an entry equal to `d` is not listed. -/
def Table.write {α : Type} [DecidableEq α] (d : α) (t : Table α) (k : Nat) (a : α) : Table α :=
  if a = d then Table.erase t k else Table.put t k a

/-- Keys strictly rising. -/
def Table.sorted {α : Type} : Table α → Bool
  | [] => true
  | [_] => true
  | (j, _) :: (k, a) :: t => decide (j < k) && Table.sorted ((k, a) :: t)

/-- The canonical form of a store in which an unlisted key reads as `d`: keys strictly rising, no entry equal to `d`. -/
def Table.canonical {α : Type} [DecidableEq α] (d : α) (t : Table α) : Bool :=
  Table.sorted t && t.all (fun e => decide (e.2 ≠ d))

end Sys2Proof.Machine
end

