-- ==== Sys2Proof/Machine/State.lean ====
section
/-! DEFINITION. The state of the machine: every piece of state the spec gives it, as plain data, and the state after reset.
INVENTORY.md lists each piece with its rule. Tables are the sorted lists of Machine/Table.lean. -/

namespace Sys2Proof.Machine

/-- Why the machine stops. -/
inductive Fault where
  /-- `step` raises it when State.inputs names an instruction form where only an event can stand. Safe: the inputs are the model's own. -/
  | notAnEvent
  deriving DecidableEq, Repr

/-- What the model gives no meaning. -/
inductive Refusal where
  /-- Raised by an arm of `exec` whose instruction has no meaning yet. Safe. -/
  | notModelled (mnemonic : String)
  deriving DecidableEq, Repr

/-! ### Items -/

/-- A register name as lookahead compares them (R64). -/
inductive RegName where
  | v (n : Nat) | s (n : Nat) | p (n : Nat) | q (n : Nat) | acc (n : Nat)
  deriving DecidableEq, Repr

/-- An open lookahead window (R64): what the leader reads and writes, the followers still inside, the followers already seen,
and the leader's access while it has not completed. -/
structure Window where
  reads : List RegName
  writes : List RegName
  left : Nat
  seen : Nat
  access : Option Nat
  deriving DecidableEq, Repr

/-- A resident caller frame with its link record (R164, R165). -/
structure CallerFrame where
  words : List W32
  ret : W64
  deriving DecidableEq, Repr

/-- A blocked arrival at a group barrier (R301, R305, R311). -/
inductive Arrival where
  | arrive | sync | red (kind : RedKind) (value : W64)
  deriving DecidableEq, Repr

/-- What an item waits on. The item's PC stays at the instruction, which executes again when the wait ends. -/
inductive Wait where
  | none
  /-- its own load or atomic (R271, R274) -/
  | access (id : Nat)
  /-- open leaders, or every earlier instruction (R65, R74) -/
  | earlier
  /-- a leader's completion, to take LAVIO then (R64): TRAPINFO's fields, and the follower's words -/
  | lavio (dist field ilen : Nat)
  /-- a translation being walked (R358): the address, and 0 read, 1 write, 2 fetch, 3 the write of a stop (R149) -/
  | walk (ctx page : Nat) (va : W64) (kind : Nat)
  /-- a replayable fault (R361) -/
  | fault (ctx page : Nat) (va : W64) (kind : Nat)
  /-- the closure of the refill phase (R145) -/
  | refill
  /-- bar.wait, bar.sync or bar.red on barrier `k` (R305, R311) -/
  | barrier (k : Nat)
  /-- a blocked arrival at barrier `k` (R301) -/
  | blocked (k : Nat) (how : Arrival)
  /-- ldfe at `offset`, its granule Empty (R258), since when -/
  | granuleFull (offset : Nat) (since : Nat) (form : MemForm)
  /-- stfe at `offset`, its granule Full -/
  | granuleEmpty (offset : Nat) (since : Nat) (form : MemForm)
  /-- abar.wait (R315) -/
  | arrivalBarrier (offset : Nat) (phase : W32)
  /-- waitv, in the monitor table (R319), with the word's address; has it a time-out? -/
  | monitor (pa : Nat) (timed : Bool)
  /-- waitv, polling (R319) -/
  | poll (pa : Nat) (timed : Bool)
  /-- waitc (R324) -/
  | counter (cls : CounterClass) (thresh : Nat)
  /-- a counter at 63, or an engine that holds 256 commands (R292, R333) -/
  | engine (cls : CounterClass)
  /-- a push, a pop (R336, R338) -/
  | queue (q : Nat)
  /-- a tile: macq with none free, a synchronous form on a busy tile, a queue of 16 (R231, R232) -/
  | tile (name : Nat)
  /-- a command raised by the item (R100, R114, R367) -/
  | command (id : Nat)
  /-- a landing slot (R148) -/
  | landing (die : Nat)
  /-- COMMIT of the gang (R132) -/
  | commit
  /-- hcflush: until the record of chunk LOCAL of the cluster is Spilled (R410) -/
  | flush (chunk : Nat)
  /-- the spill and fill engine (R165): a call to a frame of so many words, or a ret; the words of the instruction; since when -/
  | spill (need : Option Nat) (ilen since : Nat)
  /-- the reading back of the current frame, before the item first issues (R148, R152) -/
  | frame
  /-- the item's own earlier stores (R296) -/
  | stores (scope : Scope)
  /-- an earlier write to a word (R320) -/
  | word (pa : Nat)
  /-- csrr of MSTAT: the operations issued before number `bound`, and the flags that they and earlier writes have left so far (R229) -/
  | mstat (bound : Nat) (flags : BitVec 5)
  /-- something that the form tests again at its next turn: an order of the log (R403), accesses that an invalidation waits for (R363) -/
  | again
  deriving DecidableEq, Repr

/-- The trap a failed access gives when it is taken (R412). -/
structure Trap where
  cause : Nat
  addr : W64
  info : W32
  deriving DecidableEq, Repr

/-- An engine queue register of one item: SEQ and the completion records, oldest first (R327). -/
structure QueuePort where
  seq : W32
  records : List W32
  deriving DecidableEq, Repr

/-- One item (R137, R141, R151). -/
structure Item where
  itemix : BitVec 48
  cohort : W32
  pc : W64
  v : Vector W32 128
  p : BitVec 7
  frame : BitVec 7
  stack : W64
  callers : List CallerFrame
  fpctl : W32
  fpstat : BitVec 5
  ictl : BitVec 2
  istat : BitVec 3
  trapCause : W32
  trapPc : W64
  trapAddr : W64
  trapInfo : W32
  copyCount : BitVec 6
  matrixCount : BitVec 6
  gatherCount : BitVec 6
  collCount : BitVec 6
  windows : List Window
  /-- stamps of R280 -/
  view : Nat
  seen : Nat
  rel : Nat
  /-- the largest CYCLE value read (R393) -/
  cycleFloor : W64
  /-- starved (R159), and the step in which it became so: the earliest is the greatest age -/
  starved : Bool
  aged : Nat
  /-- set aside by yield, with the yield's target (R163) -/
  aside : Option W64
  /-- when it joined the run of its PC (R154) -/
  joined : Nat
  home : BitVec 5
  wait : Wait
  /-- the instruction at the item's PC waits and counts as issued: a stop awaits its completion (R102, R115, R296, R367) -/
  issued : Bool
  /-- a wait has ended in a trap, to be taken at the item's PC (R242, R363) -/
  owed : Option Trap
  /-- the current frame stands in the register stack only, until it is read back (R148, R152) -/
  unread : Bool
  /-- addresses of words of the register stack that a stop could not write out, or that cannot be read back (R149, R152) -/
  lost : List W64
  /-- the value with which a wait ended, for the form when it executes again: a status, a word, or a reduction with its
  flags and, in bit 5, whether a signalling NaN stood in it -/
  got : Option (W64 × BitVec 6)
  /-- arrived in the open refill phase; held in a second rfpt (R145, R151) -/
  arrived : Bool
  held : Bool
  /-- group barriers: MEMBER, ARR, DROP, SYNC by barrier (R301, R309) -/
  member : W16
  arr : W16
  drop : W16
  sync : W16
  /-- the value a counted bar.red supplied: barrier and value (R309, R311) -/
  supply : Option (Nat × W64)
  /-- the bar.red that the item waits in (R311) -/
  red : Option BarRedForm
  /-- queue registers bound to engines (R327) -/
  ports : Table QueuePort
  /-- registers words that hold an uncorrectable error: v and predicates of the item; 135 stands for its control registers (R423) -/
  bad : List RegName
  badCsr : Bool
  /-- the shadow's v registers, predicates and flags in a duplex group (R432) -/
  shadowV : Vector W32 128
  shadowP : BitVec 7
  /-- entries the load-value queue holds for the item's shadow (R433) -/
  loadValues : Nat
  /-- a trap without a handler, or an error that a guarded group consumed: settled when the instruction ends (R418, R430) -/
  fatal : Option Trap
  consumed : Option Nat
  /-- the stores and atomic writes the item has sent and that have no stamp yet -/
  storesOut : List Nat
  /-- largest stamp of writes of retired engine operations, for waitc (R293) -/
  engineStamp : Nat
  /-- a collective with members on other devices has retired -/
  engineFar : Bool
  deriving DecidableEq, Repr

/-! ### Groups -/

/-- Group states (R147). Stopping is Running or Draining with `stopAsked`; Saved is an image; an ended group is in no table. -/
inductive GroupState where
  | loading | running | draining
  deriving DecidableEq, Repr

/-- Where a group stands (R127, R148). -/
inductive Place where
  | seat (core seat : Nat)
  | landing (core die order : Nat)
  deriving DecidableEq, Repr

/-- A group barrier (R300 to R303, R309, R311). -/
structure Barrier where
  closed : W32
  arrived : Nat
  event : Bool
  kind : Option RedKind
  deriving DecidableEq, Repr

/-- A queued matrix operation (R234 to R236, R246). -/
structure MatrixOp where
  kind : Nat
  window : Nat
  issuers : List Nat
  layout0 : W32
  layout1 : W32
  layout2 : W32
  ctl0 : W32
  ctl1 : W32
  done : Nat
  addr : W64
  issue : Nat
  /-- mloopg: (ROWS, BADDR) of each entry -/
  table : List (Nat × W64)
  deriving DecidableEq, Repr

/-- The error of a Failed tile with its pending issuers (R242, R246). -/
structure TileError where
  cause : Nat
  reason : Nat
  step : Nat
  addr : W64
  window : Nat
  pending : List Nat
  deriving DecidableEq, Repr

/-- A held tile (R230). Elements and checksum records are tables in which an unlisted entry is 0; element (r, n) is entry 64r + n. -/
structure Tile where
  phys : Nat
  int32 : Bool
  elems : Table W32
  /-- the latched weight image with WFMT and SP, if any -/
  weights : Option (List W8 × BitVec 4 × Bool)
  /-- (Y, C) of mcsum by row (R228, R237) -/
  csum : Table (W32 × W32)
  nsteps : W16
  ops : List MatrixOp
  failed : Option TileError
  /-- the address whose replayable fault the running operation waits on; has a Resolve failed it (R242, R361)? -/
  stalled : Option (W64 × Bool)
  /-- elements, checksum records and weight buffer that hold an uncorrectable error (R422) -/
  badElems : List Nat
  badRows : List Nat
  badWeights : Bool
  deriving DecidableEq, Repr

/-- A binding of a queue register (R325). -/
structure Binding where
  kind : Nat
  index : Nat
  deriving DecidableEq, Repr

/-- A staging slot of a send binding (R336): state 0 Filling, 1 Waiting, 2 Closed. -/
structure Staging where
  words : List W32
  state : Nat
  /-- the largest stamp of what happened before its pushes (R339) -/
  stamp : Nat
  /-- ring mode to another device: slots sent and not yet reported free -/
  away : Nat
  deriving DecidableEq, Repr

/-- A receive ring (R334, R336): words landed and words popped, counted from load. -/
structure Ring where
  landed : Nat
  popped : Nat
  /-- the largest stamp of what happened before the pushes of words that landed (R339) -/
  stamp : Nat
  /-- ring mode from another device: the predecessor's stream has ended -/
  ended : Bool
  /-- a word from another device has landed -/
  far : Bool
  deriving DecidableEq, Repr

/-- A store held by the release buffer of a guarded group (R429). -/
structure HeldStore where
  slot : Nat
  va : W64
  pa : Nat
  key : Nat
  data : List W8
  /-- words of a frame that the spill engine writes out (R165), which belong to no store stream (R400) -/
  spill : Bool
  deriving DecidableEq, Repr

/-- The rollback state of a guarded group (R427 to R431): the items, s registers, scratchpad bytes, full-empty bits and poison at the
checkpoint, the undo counts and the held stores. -/
structure Guarded where
  items : Table Item
  s : Vector W32 64
  scratch : Table W8
  full : Table Bool
  spadPoison : Table Bool
  barriers : Vector Barrier 16
  arrivals : Nat
  undoWords : List (Nat × RegName)
  undoGranules : List Nat
  release : List HeldStore
  retries : Nat
  unrec : Bool
  deriving DecidableEq, Repr

/-- A group (R137 to R152). -/
structure Group where
  kh : Nat
  ctx : Nat
  stage : Nat
  place : Place
  slots : Nat
  state : GroupState
  items : Table Item
  /-- closed refill phases -/
  closed : W32
  groupix : W32
  gangix : W32
  gangrank : BitVec 11
  s : Vector W32 64
  /-- s registers that hold an uncorrectable error (R423) -/
  badS : List Nat
  shadowS : Vector W32 64
  mstat : BitVec 5
  scratchBytes : Nat
  scratch : Table W8
  full : Table Bool
  spadPoison : Table Bool
  barriers : Vector Barrier 16
  tiles : Table Tile
  matrixIssue : Nat
  /-- matrix operations that have completed and not yet retired at an issuer: place in issue order, and slot (R231, R292) -/
  completed : List (Nat × Nat)
  binds : Vector Binding 16
  staging : Table Staging
  rings : Table Ring
  collectives : Nat
  /-- the largest stamp of writes credited at the group's arrival barriers (R316) -/
  barStamp : Nat
  throttled : Bool
  guarded : Option Guarded
  landVa : W64
  /-- items may start: every member of the gang on the device has loaded (R120) -/
  started : Bool
  /-- wave ordinal in the s-register order, while Hindcast records (R175) -/
  sOrder : Nat
  /-- party and ordinal of the last arrival or departure counted, while Hindcast is not off (R308) -/
  counted : W64 × Nat
  /-- the window's item set of the last wave (R158) -/
  lastWave : Table (List Nat)
  /-- a pre-emption has reached the group: it stops (R147, R149) -/
  stopAsked : Bool
  deriving DecidableEq, Repr

/-! ### Kernels and gangs -/

/-- A channel of a descriptor (R79). -/
structure Channel where
  src : Nat
  dst : Nat
  slots : Nat
  slotBytes : Nat
  deriving DecidableEq, Repr

/-- A kernel descriptor (R79). -/
structure Descriptor where
  guarded : Bool
  duplex : Bool
  ext0 : Nat
  ext1 : Nat
  ext2 : Nat
  handler : W64
  refillPc : W64
  scratch : Nat
  groupSlots : Nat
  gangGroups : Nat
  gangDevs : Nat
  entryFrame : Nat
  sconst : List W32
  /-- (ENTRY, ITEMS) by stage -/
  stages : List (W64 × Nat)
  channels : List Channel
  queues : List Binding
  deriving DecidableEq, Repr

/-- Kernel states (R123); an ended kernel waits for its end of R124 to finish. -/
inductive KernelState where
  | queued | loading | running | draining | complete | aborted | faulted
  deriving DecidableEq, Repr

/-- A kernel on the device (R117 to R136). -/
structure Kernel where
  ctx : Nat
  descAddr : W64
  desc : Descriptor
  state : KernelState
  prio : Nat
  tag : W32
  crec : W64
  smask : W16
  flags : W16
  sval : List W32
  /-- the launch queue it was taken from, if any, and the place in order of take -/
  queue : Option Nat
  order : Nat
  /-- Empty was recorded in Loading -/
  empty : Bool
  /-- the next index of each stage's queue, and one past its share -/
  next : List Nat
  limit : List Nat
  nextGang : List Nat
  nextGroup : List Nat
  ended : Nat
  gangN : Nat
  rank : Nat
  committed : Bool
  /-- a restored member that has asked its coordinator whether the gang is live (R136) -/
  asked : Bool
  /-- the GROUPIX that last received each channel's slot (R335) -/
  lastReceiver : Table W32
  /-- members on other devices that have retired: stage, global rank, collectives issued (R336, R342) -/
  gone : List (Nat × Nat × Nat)
  kseq : Nat
  /-- under replay: the handle that the log gives it (R403) -/
  logKh : Nat
  /-- the words that executable pages held before the kernel's items stored to them, by word address, oldest first (R56) -/
  oldWords : Table (List W32)
  deriving DecidableEq, Repr

/-- A gang that this device coordinates (R130, R131). -/
structure Gang where
  ctx : Nat
  kh : Nat
  devs : Nat
  acked : List Nat
  done : List Nat
  committed : Bool
  deriving DecidableEq, Repr

/-! ### Contexts and queues -/

/-- Context states (R90). -/
inductive ContextState where
  | tornDown | allocated | configured | active | suspended | faulted | tearing
  deriving DecidableEq, Repr

/-- A region of a CCB (R82): RIGHTS bits are cores read, cores write, engines read, engines write. -/
structure Region where
  base : Nat
  size : Nat
  rights : BitVec 4
  deriving DecidableEq, Repr

/-- An error queue (R419): records of 32 bytes by slot. -/
structure ErrorQueue where
  head : Nat
  tail : Nat
  lost : W32
  records : Table (List W8)
  deriving DecidableEq, Repr

/-- Hindcast modes (R389). -/
inductive HcMode where
  | off | record | replay | verify
  deriving DecidableEq, Repr

/-- An entry of a chunk body (R401), 32 bytes. -/
abbrev HcEntry := List W8

/-- An access that a recorder's conflict table holds (R395, R396): party, ordinal, tag. -/
structure Party where
  party : W64
  ordinal : Nat
  tag : W16
  deriving DecidableEq, Repr

/-- A granule of a conflict table (R396). -/
structure Conflict where
  lastWrite : Option Party
  reads : List Party
  deriving DecidableEq, Repr

/-- A recorder's open chunk, its conflict table and its charge (R396 to R402). -/
structure Recorder where
  entries : List HcEntry
  /-- item-instructions executed by core in the chunk -/
  ret : Vector Nat 8
  localNo : Nat
  store : List (List W8)
  table : Table Conflict
  ordinals : Table Nat
  used : Nat
  lost : Bool
  /-- item-instructions executed in the chunk by party -/
  cuts : Table Nat
  deriving DecidableEq, Repr

/-- A closed chunk record waiting for ring room (R398, R399). -/
structure ChunkRecord where
  /-- 0 until the record is written -/
  seq : Nat
  kind : Nat
  flags : Nat
  source : Nat
  localNo : Nat
  ret : List Nat
  sdig : List W8
  entries : List HcEntry
  deriving DecidableEq, Repr

/-- The Hindcast state of a context (R389 to R411). -/
structure Hindcast where
  mode : HcMode
  lossy : Bool
  /-- LOSSY as written, in force at a recorder's next chunk boundary (R392) -/
  lossyNext : Bool
  stopen : Bool
  gap : Bool
  gaps : Nat
  hcseq : W64
  head : Nat
  tail : Nat
  lastSeq : W64
  result : Nat
  stopSeq : Nat
  /-- replay: the RESULT with which it ends at its last chunks (R405) -/
  ending : Nat
  /-- lossy: the next record written carries GAP (R398) -/
  gapNext : Bool
  area : Nat
  areaSize : Nat
  rot : Nat
  crot : Nat
  kseq : Nat
  recorders : Table Recorder
  closing : List ChunkRecord
  /-- the records in the ring, by byte position, as replay reads them -/
  ring : Table ChunkRecord
  /-- replay: the entries not yet consumed, in log order, by recorder -/
  log : Table (List HcEntry)
  armed : Bool
  deriving DecidableEq, Repr

/-- What firmware keeps of a saved group beside its image: where it stood (R469), its rings and what they hold, the collectives it has issued
(log 14). -/
structure KeptGroup where
  krec : Nat
  stage : Nat
  groupix : W32
  seat : Nat
  rings : Table Ring
  staging : Table Staging
  collectives : Nat
  barStamp : Nat
  /-- matrix operations completed and not retired (R292), by their place among the operation records -/
  completed : List (Nat × Nat)
  /-- by slot, the words of the register stacks that could not be written out (R149) -/
  lost : Table (List W64)
  deriving DecidableEq, Repr

/-- A packet that has arrived on a link: the first 16 bytes of its first flit, and its payload. -/
structure HeldPacket where
  link : Nat
  header : List W8
  payload : List W8
  deriving DecidableEq, Repr

/-- A bind entry (R111). -/
structure BindEntry where
  valid : Bool
  stage : Nat
  count : Nat
  kh : Nat
  gangId : Nat
  rank : Nat
  seq : Nat
  /-- the gang's GANGIX, as firmware counts it (R121) -/
  gangix : Nat
  deriving DecidableEq, Repr

/-- A context (R81 to R102). -/
structure Context where
  state : ContextState
  everConfigured : Bool
  system : Bool
  hcAllow : Bool
  parent : Nat
  key : Nat
  ptroot : W64
  isoper : W32
  rate : List Nat
  depth : List Nat
  copyBud : Nat
  injBud : Nat
  hcBud : Nat
  ringBase : Nat
  ringLog : Nat
  regions : List Region
  /-- bytes of the CCB accepted at Config (R462) -/
  ccb : List W8
  peers : List (Nat × Nat)
  toexp : Nat
  errors : ErrorQueue
  hind : Hindcast
  /-- the largest F of the context across Suspend (R393) -/
  cycleFloor : W64
  /-- gangs most recently ended by abort, newest first, at most 1024 (R130) -/
  abortedGangs : List Nat
  /-- teardown has reached Retire (R96) -/
  retired : Bool
  /-- Suspended: what firmware keeps beside the image (log 14): of groups; of kernels by record number, the members gone on other devices and
  the handle of the log; the entries of gangs not yet loaded whole, with the record number for KH -/
  keptGroups : List KeptGroup
  keptGone : Table (List (Nat × Nat × Nat))
  keptKh : Table Nat
  keptBinds : List (Nat × BindEntry)
  /-- gang numbers of the kernels of the image (17 R372) -/
  keptGangs : List Nat
  /-- DIGEST of the image to which all of this belongs -/
  keptDigest : List W8
  /-- kernels whose end has been performed during the save in progress, for their records of STATE 4 (R91, R135) -/
  endedInSave : List Kernel
  /-- packets of the fabric that wait for the Resume (R93) or for room in the link's recorder (R402) -/
  heldPackets : List HeldPacket
  deriving DecidableEq, Repr

/-- Launch queue states (R104). -/
inductive QueueState where
  | free | idle | opened
  deriving DecidableEq, Repr

/-- A launch queue (R103, R104). -/
structure LaunchQueue where
  owner : Nat
  lq : Nat
  device : Bool
  logLen : Nat
  state : QueueState
  lastErr : Nat
  qbase : W64
  head : W64
  tail : W64
  refused : W32
  dbErr : W32
  deriving DecidableEq, Repr

/-- Who waits for a command: a ring slot, an item, or firmware itself at the end of a replay. -/
inductive Asker where
  | ring (slot : Nat)
  | item (gid slot : Nat)
  | firmware
  deriving DecidableEq, Repr

/-- A context command in progress (R91): 0 Suspend, 1 Resume, 2 Kill, 3 Rekey, 4 hcflush, 5 Disable of a CXL port. -/
structure Pending where
  kind : Nat
  ctx : Nat
  asker : Asker
  area : W64
  size : Nat
  /-- the image area is virtual, in the asker's context (R98) -/
  via : Nat
  deriving DecidableEq, Repr

/-- A migrated item on its way (R148). -/
structure Package where
  item : Item
  kh : Nat
  ctx : Nat
  stage : Nat
  groupix : W32
  gangix : W32
  gangrank : BitVec 11
  s : Vector W32 64
  /-- what a restored landing group brings along beside its item (R152): its state, closed refill phases, matrix flags and barriers -/
  state : GroupState
  closed : W32
  mstat : BitVec 5
  barriers : Vector Barrier 16
  die : Nat
  va : W64
  fresh : Bool
  deriving DecidableEq, Repr

/-- The adds of R107 waiting for the kernel's stores. `kh` is none for a refused record, and once a new kernel has taken the handle (R124);
the update then keeps the stores to wait for and the kernel's KSEQ. -/
structure CompletionUpdate where
  ctx : Nat
  crec : W64
  failed : Bool
  queue : Option Nat
  kh : Option Nat
  waits : List Nat
  kseq : Nat
  deriving DecidableEq, Repr

/-! ### Memory system -/

/-- The kind of a global access. -/
inductive AccessKind where
  | load | uniform | store | atomic (op : Nat) (uns : Bool) | cas
  deriving DecidableEq, Repr

/-- A global access issued and not yet served (R271 to R274). -/
structure Access where
  gid : Nat
  slot : Nat
  ctx : Nat
  core : Nat
  /-- the item as Hindcast names it, with its stage (R395, R400) -/
  party : W64
  kind : AccessKind
  va : W64
  pa : Nat
  key : Nat
  bytes : Nat
  data : List W8
  compare : List W8
  dest : BitVec 7
  signed : Bool
  ord : Order
  scope : Scope
  /-- lookahead and the registers of the form, for the window it opens (R64) -/
  la : Nat
  reads : List RegName
  writes : List RegName
  /-- VIEW when it issued (R281) -/
  view : Nat
  /-- the item as it stood when a leader issued (R65) -/
  before : Option Item
  deriving DecidableEq, Repr

/-- A line in a cluster L1 (R259, R280). -/
inductive L1State where
  | valid | uniform | owned
  deriving DecidableEq, Repr

structure L1Line where
  state : L1State
  key : Nat
  data : List W8
  wts : Nat
  lend : Nat
  kernel : Nat
  deriving DecidableEq, Repr

/-- A line at an L2 slice (R260, R280, R284, R298): plain tokens, owner token, stamps, dirty, pins, and for the two halves of a host
line the MESI state (0 I, 1 S, 2 E, 3 M); `data` for CXL lines. -/
structure L2Line where
  key : Nat
  plain : Nat
  owner : Bool
  wts : Nat
  lease : Nat
  dirty : Bool
  poison : Bool
  pins : Nat
  data : List W8
  half0 : Nat
  half1 : Nat
  deriving DecidableEq, Repr

/-- Physical memory: bytes whose contents are known under their line's key, the key (with its generation) of each line, and the
poisoned lines (R250 to R253, R425). -/
structure Memory where
  bytes : List Host.Cell
  tags : Table Nat
  poison : Table Bool
  deriving DecidableEq, Repr

/-- A TLB entry (R357); `unit` is a core, 1024 + a base die, whose TLB serves its cores, engines and matrix and spill units, or 2048 + a cluster. -/
structure TlbEntry where
  unit : Nat
  ctx : Nat
  base : Nat
  logSize : Nat
  addr : Nat
  r : Bool
  w : Bool
  x : Bool
  deriving DecidableEq, Repr

/-- A table entry that a walker of a base die holds (R357): the table of level `level` that addresses with these upper bits reach. -/
structure TablePath where
  die : Nat
  ctx : Nat
  level : Nat
  prefix_ : Nat
  table : Nat
  deriving DecidableEq, Repr

/-- A translation miss being walked for the core that met it first (R358): kind 0 read, 1 write, 2 fetch. -/
structure Walk where
  unit : Nat
  ctx : Nat
  page : Nat
  va : W64
  kind : Nat
  deriving DecidableEq, Repr

/-- A replayable fault (R361, R362). -/
structure PageFault where
  ctx : Nat
  page : Nat
  va : W64
  reason : Nat
  kind : Nat
  level : Nat
  engine : Bool
  fid : Option Nat
  deriving DecidableEq, Repr

/-- A monitor table entry (R317). -/
structure Monitor where
  pa : Nat
  key : Nat
  gid : Nat
  slot : Nat
  seq : Nat
  deriving DecidableEq, Repr

/-- What a chunk whose source has been read still has to write into scratchpads (R257, R330): the offset in each receiver, the bytes, the poisoned
words, FE, BAR and the bytes it credits, the party of its first access; what is left: receiver, granule (the count of granules stands for the
credit) and access number; the outcome, the flags and the stamp so far. -/
structure Landing where
  base : Nat
  bytes : List W8
  bad : List Nat
  full : Bool
  bar : Nat
  credit : Nat
  party : Party
  todo : List (Nat × Nat × Nat)
  code : Nat
  flags : BitVec 5
  stamp : Nat
  deriving DecidableEq, Repr

/-- A copy or gather command at its engine (R330). -/
structure Command where
  kh : Nat
  ctx : Nat
  gid : Nat
  slot : Nat
  itemix : Nat
  q : Nat
  die : Nat
  engine : Nat
  gather : Bool
  w0 : W32
  w1 : W32
  w2 : W32
  w3 : W32
  indices : List W32
  seq : W32
  order : Nat
  floor : Nat
  /-- the largest stamp of its writes (R293) -/
  stamp : Nat
  /-- chunks to perform, failed with their cause, waiting on a fault of a page, and waiting for another device's answer -/
  left : List Nat
  failed : List (Nat × Nat)
  faulted : List (Nat × Nat)
  away : List Nat
  /-- chunks whose source has been read: what they still write -/
  held : Table Landing
  deriving DecidableEq, Repr

/-- One member's command of a collective (R340, R341). -/
structure CollMember where
  gid : Nat
  slot : Nat
  itemix : Nat
  q : Nat
  sub : Nat
  words : List W32
  seq : W32
  order : Nat
  floor : Nat
  rank : Nat
  left : List Nat
  failed : List (Nat × Nat)
  flags : BitVec 5
  /-- chunks that have been formed: what they still write -/
  held : Table Landing
  deriving DecidableEq, Repr

/-- A piece of a contribution of another device, with its poisoned words, its arithmetic checksums, and whether its sum has failed twice (R345). -/
structure Piece where
  bytes : List W8
  bad : List Nat
  sigma : Int
  mu : Nat
  broken : Bool
  deriving DecidableEq, Repr

/-- The n-th collective of a gang (R340). -/
structure Join where
  kh : Nat
  stage : Nat
  gangix : W32
  n : Nat
  /-- the members of this device by rank, and the commands of members of other devices: rank, SUB and words -/
  members : Table CollMember
  remote : Table (Nat × List W32)
  joined : Bool
  /-- contributions of this device's members by rank with their poisoned words, read once the collective has joined; the pieces of the
  other members' contributions as they come, by rank and 4096-byte piece -/
  shares : Table (List W8 × List Nat)
  pieces : Table Piece
  /-- 0, or the cause with which it ends here: GONE, MISMATCH, or PROT where the context may not use the fabric -/
  outcome : Nat
  /-- the largest stamp of what happened before the members' commands (R344); do the members of this device stand on several base dies (R347)? -/
  floor : Nat
  wide : Bool
  /-- ranks whose contributions were dropped on the way, since no path to their device was left (R376) -/
  dropped : List Nat
  deriving DecidableEq, Repr

/-- A staging slot whose group has retired, with words still to deliver (R336). -/
structure Orphan where
  kh : Nat
  stage : Nat
  gangix : W32
  gangrank : BitVec 11
  channel : Nat
  words : List W32
  stamp : Nat
  away : Nat
  /-- GROUPIX and core of the group that has retired, as its deliveries are logged -/
  groupix : W32
  core : Nat
  deriving DecidableEq, Repr

/-! ### Links, ports, power -/

/-- States of a fabric link (R375). -/
inductive LinkState where
  | down | training | up | degraded | isolated
  deriving DecidableEq, Repr

/-- A packet being assembled from flits, or waiting for an acknowledgement (R370, R373). -/
structure Flit where
  seq : Nat
  bytes : List W8
  deriving DecidableEq, Repr

/-- A fabric link (R369 to R378). -/
structure Link where
  state : LinkState
  peer : Nat
  txGood : Nat
  rxGood : Nat
  corr : W64
  hdrop : W64
  crcerr : W64
  misroute : W64
  retrain : W32
  isol : W32
  dropped : W64
  retryMax : Nat
  rpexp : Nat
  naks : Nat
  /-- periods since an exceedance that caused training; none before one -/
  sinceExceed : Option Nat
  /-- wavelengths of each direction that no test has disabled since the last Enable or Recover (R374) -/
  txLive : Nat
  rxLive : Nat
  rxNext : Nat
  txNext : Nat
  /-- the replay buffer, how many of its flits are on the line since the last NAK, and what waits for room in it (R373) -/
  replay : List Flit
  sent : Nat
  backlog : List Flit
  /-- flits that an ACK covers of a packet that is not wholly acknowledged (R376) -/
  kept : List Flit
  /-- the flit last put on the line (R370) -/
  line : List W8
  partialFlits : List Flit
  /-- Disable's 2^20 cycles are running (R375) -/
  flushing : Bool
  deriving DecidableEq, Repr

/-- States of a CXL port, and of the Zhevport (R380, R386). -/
inductive PortState where
  | down | training | up | isolated
  deriving DecidableEq, Repr

/-- A request the port has sent (R298, R385): kind 0 a read, 1 a write, 2 RdOwn, 3 RdOwnNoData, 4 DirtyEvict, 5 CleanEvictNoData; the half-line, and
the context for which it was sent. -/
structure PortRequest where
  kind : Nat
  half : Nat
  ctx : Option Nat
  deriving DecidableEq, Repr

/-- A host access of the host window that waits for its line (R382). -/
structure HostAccess where
  offset : Nat
  bytes : Nat
  write : Bool
  data : List W8
  poison : Bool
  deriving DecidableEq, Repr

/-- A CXL port (R379 to R387). -/
structure Port where
  state : PortState
  role : Nat
  toexp : Nat
  narrow : Bool
  slow : Bool
  /-- the HDM decoders of a downstream port: base in the window and bytes (R381, R383) -/
  hdm : List (Nat × Nat)
  ctx : Nat
  winBase : Nat
  winSize : Nat
  capacity : Nat
  timeouts : W64
  poisonIn : W64
  poisonOut : W64
  dropWr : W64
  discard : W64
  requests : Table PortRequest
  /-- the configuration space of the port's CXL.io function (R381), by word -/
  config : Table W32
  /-- host accesses that wait for their line, oldest first (R382) -/
  hosts : List HostAccess
  disabling : Bool
  deriving DecidableEq, Repr

/-- Telemetry (R466). -/
structure Telemetry where
  power : List Nat
  package : Nat
  peak : Nat
  temp : List Nat
  gated : List Nat
  throttled : Nat
  corr : Table W64
  uncorr : Table W64
  deriving DecidableEq, Repr

/-- The device block (R464). -/
structure DeviceBlock where
  resetCause : Nat
  bootStat : Nat
  devid : Nat
  nearcfg : W16
  poolBase : Nat
  poolSize : Nat
  frBase : Nat
  frLog : Nat
  frHead : Nat
  frTail : Nat
  rejwr : W64
  kdrop : W64
  mgmtBud : W32
  scrubBud : W32
  mpexp : Nat
  plimit : Nat
  fwver : W32
  rollback : W32
  m0 : List W8
  deriving DecidableEq, Repr

/-! ### The machine -/

/-- The wave being issued (R154, R156): its group, PC, members in run order, and the words of its instruction. -/
structure Wave where
  gid : Nat
  pc : W64
  slots : List Nat
  ilen : Nat
  deriving DecidableEq, Repr

/-- Where an error that cannot be corrected arises, beside the lines that SCRUB finds and the memories of FATAL_ERROR (19 R422, R424). -/
inductive Upset where
  | register (gid slot : Nat) (r : RegName)
  | control (gid slot : Nat)
  | spad (gid word : Nat)
  | element (gid name index : Nat)
  | checkRow (gid name row : Nat)
  | weights (gid name : Nat)
  /-- the n-th entry of the TLBs, or of what the walkers hold -/
  | tlb (n : Nat)
  | path (n : Nat)
  /-- an undo buffer, release buffer or load-value queue of a guarded group -/
  | undo (gid : Nat)
  /-- the n-th entry that a recorder holds -/
  | recorder (ctx r n : Nat)
  | command (id : Nat)
  | staging (gid q : Nat)
  | partialSum (join : Nat)
  deriving DecidableEq, Repr

/-- What the device does of itself, beside the steps of the opcode table: at a moment that the spec leaves open (log 1). -/
inductive Act where
  /-- firmware clears the bind entry of a seat, if its SEQ is still `seq` (R111) -/
  | revoke (seat seq : Nat)
  /-- the granule with number `n` of those that a chunk still has to land, or its credit, lands by itself (R257) -/
  | landGranule (command chunk n : Nat)
  /-- a cluster L1 evicts a line, or finds a parity error in it (R259) -/
  | dropCopy (cluster line : Nat) (parity : Bool)
  /-- a slice writes a line back, and evicts it or keeps it (R260, R298) -/
  | writeBack (slice line : Nat) (evict : Bool)
  /-- an error of an array is corrected (R422) -/
  | corrected (array : Nat)
  /-- an error arises that cannot be corrected -/
  | upset (u : Upset)
  /-- a fabric link puts a flit on its line (R370, R373) -/
  | transmit (link : Nat)
  /-- Zhevport reads the management window (R463) -/
  | readWindow (offset bytes : Nat)
  /-- a flit arrives over Zhevport (R380) -/
  | zhevFlit (flit : List W8)
  deriving DecidableEq, Repr

/-- What moves next, when the machine does not choose it itself (log 1). -/
inductive Move where
  | event (i : Instr)
  | issue (core : Nat)
  | own (a : Act)
  deriving DecidableEq, Repr

/-- The answer to a request from outside (R298, R380 to R382): of Zhevport, or of port `source - 1`; 0 its data, 1 poison, 2 unsupported; to a snoop
3 RspIFwdM, 4 RspIHitSE, 5 RspIHitI, 6 RspSFwdM, 7 RspSHitSE, 8 RspVFwdV, 9 RspVHitV. -/
structure Reply where
  source : Nat
  status : Nat
  data : List W8
  deriving DecidableEq, Repr

/-- The state of the machine. -/
structure State where
  /-- the model's own: what moves next, the wave being issued, the step counter and the numbering counters (logs 1, 2) -/
  inputs : List Move
  wave : Wave
  tick : Nat
  nextId : Nat
  /-- groups by a number of the model's own, kernels by KH, contexts by CTXID, launch queues by number -/
  groups : Table Group
  /-- groups that have been killed while an engine command of theirs was under way, with their kernels: their seat and storage are free once
  it ends (R124, R351) -/
  killed : Table (Group × Kernel)
  kernels : Table Kernel
  contexts : Table Context
  queues : Table LaunchQueue
  lastQueue : Nat
  takes : Nat
  /-- a binding pass is due or goes on (R109) -/
  passDue : Bool
  /-- key id: generation (bit 0 of the value) × 4 + state: 0 free, 1 bound, 2 retiring (R87) -/
  keys : Table Nat
  bindTable : Table BindEntry
  bindSeq : Nat
  /-- the gang counter N, the gangs coordinated here by N (R130) -/
  gangCount : Nat
  gangs : Table Gang
  packages : Table Package
  landings : Nat
  /-- groups of a resumed image waiting for a seat: kernel, context, bytes (R152) -/
  restores : Table (Nat × Nat × List W8)
  pending : Table Pending
  updates : Table CompletionUpdate
  /-- per core -/
  lastSeat : Table Nat
  cycles : Table W64
  /-- per cluster, per slice: caches and stamps -/
  l1 : Table (Table L1Line)
  l2 : Table (Table L2Line)
  floors : Table Nat
  nearWts : Table Nat
  halo : Table Nat
  scStamps : Table Nat
  tlbs : Table TlbEntry
  /-- what the walkers hold of recent walks -/
  paths : Table TablePath
  walks : Table Walk
  faults : Table PageFault
  nextFid : Nat
  monitors : Table Monitor
  monitorSeq : Nat
  accesses : Table Access
  commands : Table Command
  joins : Table Join
  orphans : Table Orphan
  /-- token traffic (R284, R285): tokens in flight, transient and persistent requests, the die the grant visits -/
  persistent : List (Nat × Nat × Bool)
  active : List (Nat × Nat × Bool)
  grantAt : Nat
  /-- budgets: units left, by regulator and context -/
  copyLeft : Table Int
  injLeft : Table Int
  buckets : Table Int
  memory : Memory
  links : Table Link
  /-- end-to-end numbers sent, and accepted by source (R376) -/
  e2eSent : Table Nat
  e2eSeen : Table (List Nat)
  routes : Table (List Nat)
  /-- the link that last took a packet towards a device (R376) -/
  lastRoute : Table Nat
  ports : Table Port
  zhevport : PortState
  zhevFails : Nat
  /-- Zhevport's flits (R380): of the fields of a link, those of its numbers, its replay buffer, its line and its packets -/
  zhevLine : Link
  /-- the last answer to a request from outside -/
  reply : Option Reply
  /-- the command ring (R463) -/
  ringHead : Nat
  ringTail : Nat
  ringSlots : Table (List W8)
  dev : DeviceBlock
  devErrors : ErrorQueue
  telemetry : Telemetry
  imageArea : Table W8
  aliasCert : List W8
  deviceMap : List (W32 × W32)
  /-- power (R465, R467): dies withheld, gated, throttled; PLIMIT in force -/
  withheld : List Nat
  gated : List Nat
  hot : List Nat
  plimitNow : Nat
  /-- binding has stopped after a fatal error (R435) -/
  stopped : Bool
  deriving DecidableEq, Repr

/-! ### Values at reset and at entry -/

/-- An item as it enters a group (R137, R141): everything zero; the caller sets its index, PC, frame, stack and cohort. -/
def Item.blank : Item :=
  { itemix := 0, cohort := 0, pc := 0, v := Vector.replicate 128 0, p := 0, frame := 0, stack := 0, callers := []
    fpctl := 0, fpstat := 0, ictl := 0, istat := 0, trapCause := 0, trapPc := 0, trapAddr := 0, trapInfo := 0
    copyCount := 0, matrixCount := 0, gatherCount := 0, collCount := 0, windows := []
    view := 0, seen := 0, rel := 0, cycleFloor := 0, starved := false, aged := 0, aside := none, joined := 0, home := 0
    wait := .none, issued := false, owed := none, unread := false, lost := [], got := none, arrived := false, held := false
    member := 0, arr := 0, drop := 0, sync := 0, supply := none, red := none, ports := [], bad := [], badCsr := false
    shadowV := Vector.replicate 128 0, shadowP := 0, loadValues := 0, fatal := none, consumed := none
    storesOut := [], engineStamp := 0, engineFar := false }

/-- A barrier whose first phase is open (R300). -/
def Barrier.open : Barrier := { closed := 0, arrived := 0, event := false, kind := none }

/-- An error queue after reset (R419). -/
def ErrorQueue.empty : ErrorQueue := { head := 0, tail := 0, lost := 0, records := [] }

/-- Hindcast off (R389). -/
def Hindcast.off : Hindcast :=
  { mode := .off, lossy := false, lossyNext := false, stopen := false, gap := false, gaps := 0, hcseq := 0, head := 0, tail := 0
    lastSeq := 0, result := 0, stopSeq := 0, ending := 0, gapNext := false, area := 0, areaSize := 0, rot := 0, crot := 0, kseq := 0, recorders := []
    closing := [], ring := [], log := [], armed := false }

/-- A context that is torn down and was never configured (R90). -/
def Context.torn : Context :=
  { state := .tornDown, everConfigured := false, system := false, hcAllow := false, parent := 0, key := 0, ptroot := 0, isoper := 0
    rate := [0, 0, 0, 0], depth := [0, 0, 0, 0], copyBud := 0, injBud := 0, hcBud := 0, ringBase := 0, ringLog := 0
    regions := [], ccb := [], peers := [], toexp := 0, errors := ErrorQueue.empty, hind := Hindcast.off, cycleFloor := 0
    abortedGangs := [], retired := false, keptGroups := [], keptGone := [], keptKh := [], keptBinds := [], keptGangs := [], keptDigest := [], endedInSave := [], heldPackets := [] }

/-- A free launch queue (R104, R105). -/
def LaunchQueue.empty : LaunchQueue :=
  { owner := 0, lq := 0, device := false, logLen := 0, state := .free, lastErr := 0, qbase := 0, head := 0, tail := 0
    refused := 0, dbErr := 0 }

/-- A bind entry with VALID 0 (R111). -/
def BindEntry.clear : BindEntry := { valid := false, stage := 0, count := 0, kh := 0, gangId := 0, rank := 0, seq := 0, gangix := 0 }

/-- A fabric link after a cold reset (R375, R378, R379). -/
def Link.cold : Link :=
  { state := .down, peer := 0, txGood := 0, rxGood := 0, corr := 0, hdrop := 0, crcerr := 0, misroute := 0, retrain := 0, isol := 0
    dropped := 0, retryMax := 64, rpexp := 20, naks := 0, sinceExceed := none, txLive := 256, rxLive := 256, rxNext := 0
    txNext := 0, replay := [], sent := 0, backlog := [], kept := [], line := [], partialFlits := [], flushing := false }

/-- A CXL port after a cold reset (R379, R386, R387). -/
def Port.cold : Port :=
  { state := .down, role := 0, toexp := 16, narrow := false, slow := false, hdm := [], ctx := 0, winBase := 0, winSize := 0, capacity := 0
    timeouts := 0, poisonIn := 0, poisonOut := 0, dropWr := 0, discard := 0, requests := [], config := [], hosts := []
    disabling := false }

/-- The device block after a cold reset (R464). FWVER, ROLLBACK and M0 before a boot are the model's (log 6). -/
def DeviceBlock.cold : DeviceBlock :=
  { resetCause := 0, bootStat := 0, devid := 0, nearcfg := 0, poolBase := 0, poolSize := 0, frBase := 0, frLog := 10, frHead := 0
    frTail := 0, rejwr := 0, kdrop := 0, mgmtBud := 4096, scrubBud := 1024, mpexp := 16, plimit := 4500, fwver := 0, rollback := 0
    m0 := [] }

/-- Telemetry after a cold reset (R466). -/
def Telemetry.cold : Telemetry :=
  { power := [0, 0, 0, 0], package := 0, peak := 0, temp := [], gated := [0, 0, 0, 0, 0, 0, 0, 0], throttled := 0, corr := []
    uncorr := [] }

/-- No wave. -/
def Wave.none : Wave := { gid := 0, pc := 0, slots := [], ilen := 0 }

/-- Memory after a cold reset: every line zero under key id 0, no poison (R457). -/
def Memory.zero : Memory := { bytes := [], tags := [], poison := [] }

/-- The machine right after power-on, a cold reset (R457): the Zhevport trains (R380), everything else stands at its reset value.
No kernel exists, so no program runs until one has been booted, launched and loaded (log 9). -/
def State.reset : State :=
  { inputs := [], wave := Wave.none, tick := 0, nextId := 1, groups := [], killed := [], kernels := [], contexts := [], queues := []
    lastQueue := 255, takes := 0, passDue := false, keys := [], bindTable := [], bindSeq := 0, gangCount := 0, gangs := [], packages := []
    landings := 0, restores := [], pending := [], updates := [], lastSeat := [], cycles := [], l1 := [], l2 := []
    floors := [], nearWts := [], halo := [], scStamps := [], tlbs := [], paths := [], walks := [], faults := [], nextFid := 1, monitors := []
    monitorSeq := 0, accesses := [], commands := [], joins := [], orphans := [], persistent := [], active := [], grantAt := 0, copyLeft := []
    injLeft := [], buckets := [], memory := Memory.zero, links := [], e2eSent := []
    e2eSeen := [], routes := [], lastRoute := [], ports := [], zhevport := .training, zhevFails := 0, zhevLine := Link.cold, reply := none, ringHead := 0, ringTail := 0, ringSlots := []
    dev := DeviceBlock.cold, devErrors := ErrorQueue.empty, telemetry := Telemetry.cold, imageArea := [], aliasCert := []
    deviceMap := [], withheld := [], gated := [], hot := [], plimitNow := 4500, stopped := false }

end Sys2Proof.Machine
end

