-- ==== Sys2Proof/Machine/Ops.lean ====
section
/-! DEFINITION. The named operations every meaning is written with: reading and updating items and groups, registers, addresses,
taking a trap (19 R412) and returning from one (R417). -/

namespace Sys2Proof.Machine

/-! ### Finding and updating -/

/-- The group of number `gid`. -/
def State.group? (s : State) (gid : Nat) : Option Group := Table.get? s.groups gid

/-- The kernel of handle `kh`. -/
def State.kernel? (s : State) (kh : Nat) : Option Kernel := Table.get? s.kernels kh

/-- The context of a CTXID; one that was never named is Torn down (R90). -/
def State.context (s : State) (c : Nat) : Context := Table.read Context.torn s.contexts c

/-- The item in a slot of a group. -/
def State.item? (s : State) (gid slot : Nat) : Option Item := (s.group? gid).bind (fun g => Table.get? g.items slot)

def State.modGroup (s : State) (gid : Nat) (f : Group → Group) : State := { s with groups := Table.modify s.groups gid f }

def State.modKernel (s : State) (kh : Nat) (f : Kernel → Kernel) : State := { s with kernels := Table.modify s.kernels kh f }

def State.modContext (s : State) (c : Nat) (f : Context → Context) : State :=
  { s with contexts := Table.put s.contexts c (f (s.context c)) }

def Group.modItem (g : Group) (slot : Nat) (f : Item → Item) : Group := { g with items := Table.modify g.items slot f }

def State.modItem (s : State) (gid slot : Nat) (f : Item → Item) : State := s.modGroup gid (fun g => g.modItem slot f)

def State.setItem (s : State) (gid slot : Nat) (it : Item) : State := s.modItem gid slot (fun _ => it)

/-- The launch queues of a context open or stop binding (R105). -/
def State.setQueues (s : State) (ctx : Nat) (was_ now_ : QueueState) : State :=
  { s with queues := s.queues.mapAll (fun _ q => if q.owner = ctx ∧ q.state = was_ then { q with state := now_ } else q) }

/-- A fresh number of the model's own. -/
def State.fresh (s : State) : State := { s with nextId := s.nextId + 1 }

/-- The core a group runs on (R127, R148). -/
def Group.core (g : Group) : Nat :=
  match g.place with
  | .seat c _ => c
  | .landing c _ _ => c

/-- Is it a landing group (R148)? -/
def Group.isLanding (g : Group) : Bool :=
  match g.place with
  | .seat _ _ => false
  | .landing _ _ _ => true

/-- The cluster of a core (R19): eight cores each. -/
def clusterOf (core : Nat) : Nat := core / 8

/-- The base die of a core: 256 cores each (R19, R26). -/
def dieOfCore (core : Nat) : Nat := core / 256

/-- Is a physical lane of a core good (R23, R24)? -/
def goodLane (core n : Nat) : Bool := !([0, 1, 2, 3, 4, 5].any (fun j => (Config.fusedLane core j).map Fin.val == some n))

/-! ### Registers -/

/-- v register `n` (R59). -/
def Item.readV (it : Item) (n : BitVec 7) : W32 := it.v[n.toNat]

/-- Pair vN:vN+1 (R31). -/
def Item.readV2 (it : Item) (n : BitVec 7) : W64 := pair (it.readV (n + 1)) (it.readV n)

/-- Quad vN..vN+3, register N lowest. -/
def Item.readV4 (it : Item) (n : BitVec 7) : BitVec 128 := it.readV2 (n + 2) ++ it.readV2 n

/-- A write of a whole v register also ends an error in it (R423). -/
def Item.writeV (it : Item) (n : BitVec 7) (x : W32) : Item :=
  { it with
    v := it.v.set n.toNat x
    bad := it.bad.erase (.v n.toNat) }

def Item.writeV2 (it : Item) (n : BitVec 7) (x : W64) : Item := (it.writeV n (lo32 x)).writeV (n + 1) (hi32 x)

def Item.writeV4 (it : Item) (n : BitVec 7) (x : BitVec 128) : Item :=
  (it.writeV2 n (x.truncate 64)).writeV2 (n + 2) ((x >>> 64).truncate 64)

/-- Predicate `n`; p7 always reads 1 (R63). -/
def Item.readP (it : Item) (n : BitVec 7) : Bool := if n.toNat = 7 then true else it.p.getLsbD n.toNat

/-- A write of p7 is refused before any form executes (R59). -/
def Item.writeP (it : Item) (n : BitVec 7) (b : Bool) : Item :=
  { it with
    p := if b then it.p ||| (1#7 <<< n.toNat) else it.p &&& ~~~(1#7 <<< n.toNat)
    bad := it.bad.erase (.p n.toNat) }

/-- s register `n` of the group. -/
def readS (s : Vector W32 64) (n : BitVec 7) : W32 := s[(n.truncate 6).toNat]

def readS2 (s : Vector W32 64) (n : BitVec 7) : W64 := pair (readS s (n + 1)) (readS s n)

/-- A write of an s register, ending an error in it (R423). -/
def Group.writeS (g : Group) (n : BitVec 7) (x : W32) : Group :=
  { g with
    s := g.s.set (n.truncate 6).toNat x
    badS := g.badS.erase n.toNat }

/-- The guard value of R63. -/
def Item.guard (it : Item) (g : BitVec 4) : Bool := it.readP ((g.truncate 3).zeroExtend 7) ^^ g.getLsbD 3

/-- The number of window words, and the v registers a frame has (R60). -/
def Item.hasV (it : Item) (n : Nat) : Bool := decide (n < 32 + it.frame.toNat)

/-! ### The item's environment in a wave -/

/-- What a meaning sees of the item it works on. -/
structure Env where
  it : Item
  s : Vector W32 64
  gid : Nat
  slot : Nat
  ilen : Nat
  handler : Option W64
  now : Nat
  was : Wait
  /-- the item's stack area AS (R164) -/
  area : W64

/-- The items of the stages before stage `k` (R164). -/
def Descriptor.stageBase (d : Descriptor) (k : Nat) : Nat := ((d.stages.take k).map Prod.snd).sum

/-- The stack area of an item (R164): {s15, s14} + 2^14 × (STAGEBASE + ITEMIX). -/
def stackArea (sregs : Vector W32 64) (d : Descriptor) (stage ix : Nat) : W64 :=
  pair sregs[15] sregs[14] + BitVec.ofNat 64 (16384 * (d.stageBase stage + ix))

def State.stackAreaOf (s : State) (g : Group) (it : Item) : W64 :=
  match s.kernel? g.kh with
  | some k => stackArea g.s k.desc g.stage it.itemix.toNat
  | none => it.stack

/-- The handler's address of a kernel: the descriptor's address plus HANDLER, if it has one (R412). -/
def Kernel.handler (k : Kernel) : Option W64 :=
  if k.desc.handler = 0 then none else some (k.descAddr + k.desc.handler)

def State.handlerOf (s : State) (kh : Nat) : Option W64 := (s.kernel? kh).bind Kernel.handler

/-- The environment of an item; the instruction starts with no wait standing. -/
def Env.of (s : State) (g : Group) (gid slot : Nat) (it : Item) : Env :=
  { it := { it with wait := .none }, s := g.s, gid := gid, slot := slot, ilen := s.wave.ilen, handler := s.handlerOf g.kh
    now := s.tick, was := it.wait, area := s.stackAreaOf g it }

def State.env? (s : State) (slot : Nat) : Option Env :=
  match s.group? s.wave.gid with
  | none => none
  | some g => (Table.get? g.items slot).map (fun it => Env.of s g s.wave.gid slot it)

/-- The address of the next instruction in sequence (R56). -/
def Env.nextPc (e : Env) : W64 := e.it.pc + BitVec.ofNat 64 (4 * e.ilen)

/-! ### Traps -/

/-- The cause codes of R414. -/
abbrev causeIllegal : Nat := 0x01
abbrev causePriv : Nat := 0x02
abbrev causeLavio : Nat := 0x03
abbrev causeMisalign : Nat := 0x04
abbrev causePageFault : Nat := 0x05
abbrev causeProt : Nat := 0x06
abbrev causePoison : Nat := 0x07
abbrev causeIdiv : Nat := 0x08
abbrev causeStackOvf : Nat := 0x0F
abbrev causeChannel : Nat := 0x10
abbrev causeBarrier : Nat := 0x11
abbrev causeAccum : Nat := 0x12
abbrev causeGangAbort : Nat := 0x13
abbrev causeDuplex : Nat := 0x14
abbrev causeQueue : Nat := 0x15
abbrev causeBreak : Nat := 0x16
abbrev causeHcStop : Nat := 0x17

/-- ILLEGAL with REASON and FIELD (R67). -/
def illegal (reason fld : Nat) : Trap := { cause := causeIllegal, addr := 0, info := BitVec.ofNat 32 (256 * fld + reason) }

/-- MISALIGN of a control transfer (R162, R166, R167, R417). -/
def misalignTransfer (t : W64) : Trap := { cause := causeMisalign, addr := t, info := 0x100 }

/-- PRIV of a form, and of an access to control register `num` (R414). -/
def privForm : Trap := { cause := causePriv, addr := 0, info := 0 }
def privCsr (num : Nat) : Trap := { cause := causePriv, addr := 0, info := BitVec.ofNat 32 (4096 + num) }

/-- TRAPCAUSE at handler entry: HND, ILEN, CAUSE (R413). -/
def trapCauseWord (ilen cause : Nat) : W32 := 0x80000000#32 ||| BitVec.ofNat 32 (256 * ilen) ||| BitVec.ofNat 32 cause

/-- TRAPCAUSE.HND. -/
def Item.inHandler (it : Item) : Bool := it.trapCause.getLsbD 31

/-- TRAPCAUSE.ILEN. -/
def Item.trapIlen (it : Item) : Nat := field it.trapCause 9 8

/-- The item reaches an address, and joins the back of its run (R154). -/
def Item.reach (it : Item) (now : Nat) (t : W64) : Item := { it with pc := t, joined := 4096 * now }

/-- TakeTrap (R412) at the item's PC. With no handler, or in the handler, the trap stays with the item as fatal, and the kernel takes
Fault when the instruction ends (R418). -/
def Item.takeTrap (it : Item) (handler : Option W64) (now ilen : Nat) (t : Trap) : Item :=
  match handler with
  | none => { it with fatal := some t, windows := [], wait := .none, issued := false, owed := none, got := none }
  | some h =>
    if it.inHandler then { it with fatal := some t, windows := [], wait := .none, issued := false, owed := none, got := none }
    else
      { it with
        trapCause := trapCauseWord ilen t.cause
        trapPc := it.pc
        trapAddr := t.addr
        trapInfo := t.info
        pc := h
        joined := 4096 * now
        windows := []
        wait := .none
        issued := false
        owed := none
        got := none }

/-- The return of hret and hskip (R417): HND clears, the item goes on at `t`. -/
def Item.leaveHandler (it : Item) (now : Nat) (t : W64) : Item :=
  { it with
    trapCause := it.trapCause &&& 0x7FFFFFFF#32
    pc := t
    joined := 4096 * now }

/-! ### Ends of an instruction for one item -/

/-- How an instruction ends for one item: it completes, it transfers control, it traps (the item carries the writes that precede the
trap), it waits and executes again, or its operand holds an uncorrectable error (R423). -/
inductive Ending where
  | done (it : Item)
  | jump (it : Item) (t : W64)
  | trap (it : Item) (t : Trap)
  | wait (it : Item) (w : Wait)
  | consume (t : Trap)

/-- Does the item hold an open leader whose access has not completed (R65)? -/
def Item.leading (it : Item) : Bool := it.windows.any (fun w => w.access.isSome)

/-- One executed instruction passes through every window (R64). -/
def Item.passWindows (it : Item) : List Window :=
  (it.windows.map (fun w => { w with left := w.left - 1, seen := w.seen + 1 })).filter (fun w => w.left != 0 || w.access.isSome)

/-- The item ends an instruction at `t`, a leader opening its window over the `la` next ones (R64). -/
def Item.complete (it : Item) (now : Nat) (la : Nat) (reads writes : List RegName) (access : Option Nat) (t : W64) : Item :=
  let opened : List Window := if la = 0 && access.isNone then [] else [{ reads := reads, writes := writes, left := la, seen := 0, access := access }]
  { it with
    pc := t
    joined := 4096 * now
    wait := .none
    issued := false
    owed := none
    got := none
    windows := it.passWindows ++ opened }

/-! ### Addresses of the device (R19, R251) -/

/-- A value in 2^k bytes is naturally aligned. -/
def aligned (a : W64) (bytes : Nat) : Bool := a.toNat % bytes == 0

/-- The line of a physical address (R250). -/
def lineOf (pa : Nat) : Nat := pa / 128

end Sys2Proof.Machine
end

