-- ==== Sys2Proof/Machine/Operands.lean ====
section
/-! DEFINITION. Operand forms (03 R59 to R65): the kinds of the register fields and their checks, what each form reads and writes,
the guard, lookahead, and the operands of the arithmetic majors under M (R61). -/

namespace Sys2Proof.Machine

/-! ### Operand kinds -/

/-- The operand kinds of R59 that name registers, the triple sA:sA+2 of mloop (11 R234), and the operand of a control-register
form, which R73 checks on its own. -/
inductive OpKind where
  | v | v2 | v4 | s | s2 | s3 | p | q | acc | csr (words : Nat)
  deriving DecidableEq, Repr

/-- The V kind that M puts in field D or A of an arithmetic form (R61). -/
def dKind (m : BitVec 2) (k : OpKind) : OpKind :=
  if m = 2 then (match k with | .v2 => .s2 | .v => .s | k => k) else k

/-- The same of field B. -/
def bKind (m : BitVec 2) (k : OpKind) : OpKind :=
  if m = 0 then k else (match k with | .v2 => .s2 | .v => .s | k => k)

/-- mov with M = 0b11 has D in the s file and B in the v file (R61). -/
def movD (m : BitVec 2) : OpKind := if m = 0 || m = 1 then .v else .s
def movB (m : BitVec 2) : OpKind := if m = 0 || m = 3 then .v else .s

/-- Operand kind F (R70). -/
def fKind (p : Prec) : OpKind := if p = .f64 then .v2 else .v

/-- V or V2 by an operand's width. -/
def wKind (wide : Bool) : OpKind := if wide then .v2 else .v

/-- The data of a memory form (R71). -/
def widthKind : Width → OpKind
  | .b64 => .v2
  | .b128 => .v4
  | _ => .v

/-- The base of a memory form (R71). -/
def baseKind (m : BitVec 2) : OpKind := if m = 0 then .v2 else if m = 1 then .s2 else if m = 2 then .v else .s

/-- Is the value of a bar.red a pair (14 R310)? -/
def redWide : RedKind → Bool
  | .int w _ _ => w
  | .flt _ d => d

/-- A register field of a form: its number (1 D, 2 A, 3 B, 4 C), kind and value, and whether it is read and written. -/
structure Use where
  fld : Nat
  kind : OpKind
  n : BitVec 7
  reads : Bool
  writes : Bool
  deriving DecidableEq, Repr

/-- What issue needs to know of a form: the fields all forms have, and its register fields. -/
structure Shape where
  form : Form
  uses : List Use

/-- The registers a field names, one by one (R64). -/
def Use.names (u : Use) : List RegName :=
  match u.kind with
  | .v => [.v u.n.toNat]
  | .v2 => [.v u.n.toNat, .v (u.n.toNat + 1)]
  | .v4 => [.v u.n.toNat, .v (u.n.toNat + 1), .v (u.n.toNat + 2), .v (u.n.toNat + 3)]
  | .s => [.s u.n.toNat]
  | .s2 => [.s u.n.toNat, .s (u.n.toNat + 1)]
  | .s3 => [.s u.n.toNat, .s (u.n.toNat + 1), .s (u.n.toNat + 2)]
  | .p => [.p u.n.toNat]
  | .q => [.q u.n.toNat]
  | .acc => [.acc u.n.toNat]
  | .csr k => (upTo k).map (fun j => .v (u.n.toNat + j))

/-- The number of registers a field names. -/
def Use.width (u : Use) : Nat := u.names.length

/-- R59 and R60 for one field: the REASON it fails with, if it does. A misaligned pair or quad is reported before its frame. -/
def Use.fails (it : Item) (u : Use) : Option Nat :=
  let n := u.n.toNat
  match u.kind with
  | .v => if it.hasV n then none else some 0x0A
  | .v2 => if n % 2 ≠ 0 then some 0x0B else if it.hasV (n + 1) then none else some 0x0A
  | .v4 => if n % 4 ≠ 0 then some 0x0B else if it.hasV (n + 3) then none else some 0x0A
  | .s => if 64 ≤ n then some 0x09 else if u.writes && decide (n < 16) then some 0x0C else none
  | .s2 =>
    if 64 ≤ n then some 0x09 else if n % 2 ≠ 0 then some 0x0B else if u.writes && decide (n < 16) then some 0x0C else none
  | .s3 => if 62 ≤ n then some 0x09 else none
  | .p => if 8 ≤ n then some 0x09 else if u.writes && n == 7 then some 0x0C else none
  | .q => if 16 ≤ n then some 0x09 else none
  | .acc => if 8 ≤ n then some 0x09 else none
  | .csr _ => none

/-- The item's check of a form's register fields (R66): the failing field of lowest code. -/
def checkUses (it : Item) : List Use → Option Trap
  | [] => none
  | u :: us =>
    match u.fails it with
    | some r => some (illegal r u.fld)
    | none => checkUses it us

def Shape.reads (sh : Shape) : List RegName :=
  (sh.uses.filter Use.reads).flatMap Use.names ++ [.p (sh.form.g.toNat % 8)]

def Shape.writes (sh : Shape) : List RegName := (sh.uses.filter Use.writes).flatMap Use.names

/-- A field that is read, one that is written, one that is both. -/
def rd (f : Nat) (k : OpKind) (n : BitVec 7) : Use := ⟨f, k, n, true, false⟩
def wr (f : Nat) (k : OpKind) (n : BitVec 7) : Use := ⟨f, k, n, false, true⟩
def rw' (f : Nat) (k : OpKind) (n : BitVec 7) : Use := ⟨f, k, n, true, true⟩

/-- The 64-bit control registers take pairs (R72, R73). -/
def csrWords (num : BitVec 12) : Nat :=
  if [0x000, 0x001, 0x020, 0x111, 0x112, 0x302, 0x401].contains num.toNat then 2 else 1

/-- A form's fields and register operands, by the tables of R68 to R74 and each form's chapter. An event has none. -/
def shapeOf : Instr → Shape
  | .iadd o => ⟨o, [wr 1 (dKind o.m .v) o.d, rd 2 (dKind o.m .v) o.a, rd 3 (bKind o.m .v) o.b]⟩
  | .isub o => ⟨o, [wr 1 (dKind o.m .v) o.d, rd 2 (dKind o.m .v) o.a, rd 3 (bKind o.m .v) o.b]⟩
  | .imul o => ⟨o, [wr 1 (dKind o.m .v) o.d, rd 2 (dKind o.m .v) o.a, rd 3 (bKind o.m .v) o.b]⟩
  | .and o => ⟨o, [wr 1 (dKind o.m .v) o.d, rd 2 (dKind o.m .v) o.a, rd 3 (bKind o.m .v) o.b]⟩
  | .or o => ⟨o, [wr 1 (dKind o.m .v) o.d, rd 2 (dKind o.m .v) o.a, rd 3 (bKind o.m .v) o.b]⟩
  | .xor o => ⟨o, [wr 1 (dKind o.m .v) o.d, rd 2 (dKind o.m .v) o.a, rd 3 (bKind o.m .v) o.b]⟩
  | .shl o => ⟨o, [wr 1 (dKind o.m .v) o.d, rd 2 (dKind o.m .v) o.a, rd 3 (bKind o.m .v) o.b]⟩
  | .shr o => ⟨o, [wr 1 (dKind o.m .v) o.d, rd 2 (dKind o.m .v) o.a, rd 3 (bKind o.m .v) o.b]⟩
  | .sar o => ⟨o, [wr 1 (dKind o.m .v) o.d, rd 2 (dKind o.m .v) o.a, rd 3 (bKind o.m .v) o.b]⟩
  | .imin o => ⟨o, [wr 1 (dKind o.m .v) o.d, rd 2 (dKind o.m .v) o.a, rd 3 (bKind o.m .v) o.b]⟩
  | .imax o => ⟨o, [wr 1 (dKind o.m .v) o.d, rd 2 (dKind o.m .v) o.a, rd 3 (bKind o.m .v) o.b]⟩
  | .umin o => ⟨o, [wr 1 (dKind o.m .v) o.d, rd 2 (dKind o.m .v) o.a, rd 3 (bKind o.m .v) o.b]⟩
  | .umax o => ⟨o, [wr 1 (dKind o.m .v) o.d, rd 2 (dKind o.m .v) o.a, rd 3 (bKind o.m .v) o.b]⟩
  | .iaddsat o => ⟨o, [wr 1 (dKind o.m .v) o.d, rd 2 (dKind o.m .v) o.a, rd 3 (bKind o.m .v) o.b]⟩
  | .isubsat o => ⟨o, [wr 1 (dKind o.m .v) o.d, rd 2 (dKind o.m .v) o.a, rd 3 (bKind o.m .v) o.b]⟩
  | .iaddi o => ⟨o.toForm, [wr 1 (dKind o.m .v) o.d, rd 2 (dKind o.m .v) o.a]⟩
  | .andi o => ⟨o.toForm, [wr 1 (dKind o.m .v) o.d, rd 2 (dKind o.m .v) o.a]⟩
  | .ori o => ⟨o.toForm, [wr 1 (dKind o.m .v) o.d, rd 2 (dKind o.m .v) o.a]⟩
  | .xori o => ⟨o.toForm, [wr 1 (dKind o.m .v) o.d, rd 2 (dKind o.m .v) o.a]⟩
  | .shli o => ⟨o.toForm, [wr 1 (dKind o.m .v) o.d, rd 2 (dKind o.m .v) o.a]⟩
  | .shri o => ⟨o.toForm, [wr 1 (dKind o.m .v) o.d, rd 2 (dKind o.m .v) o.a]⟩
  | .sari o => ⟨o.toForm, [wr 1 (dKind o.m .v) o.d, rd 2 (dKind o.m .v) o.a]⟩
  | .icmp o => ⟨o.toForm, [wr 1 .p o.d, rd 2 .v o.a, rd 3 (bKind o.m .v) o.b]⟩
  | .imulhi o => ⟨o, [wr 1 .v o.d, rd 2 .v o.a, rd 3 (bKind o.m .v) o.b]⟩
  | .umulhi o => ⟨o, [wr 1 .v o.d, rd 2 .v o.a, rd 3 (bKind o.m .v) o.b]⟩
  | .idiv o => ⟨o, [wr 1 .v o.d, rd 2 .v o.a, rd 3 (bKind o.m .v) o.b]⟩
  | .udiv o => ⟨o, [wr 1 .v o.d, rd 2 .v o.a, rd 3 (bKind o.m .v) o.b]⟩
  | .irem o => ⟨o, [wr 1 .v o.d, rd 2 .v o.a, rd 3 (bKind o.m .v) o.b]⟩
  | .urem o => ⟨o, [wr 1 .v o.d, rd 2 .v o.a, rd 3 (bKind o.m .v) o.b]⟩
  | .popc o => ⟨o, [wr 1 (dKind o.m .v) o.d, rd 2 (dKind o.m .v) o.a]⟩
  | .clz o => ⟨o, [wr 1 (dKind o.m .v) o.d, rd 2 (dKind o.m .v) o.a]⟩
  | .brev o => ⟨o, [wr 1 (dKind o.m .v) o.d, rd 2 (dKind o.m .v) o.a]⟩
  | .bfe o => ⟨o.toForm, [wr 1 (dKind o.m .v) o.d, rd 2 (dKind o.m .v) o.a]⟩
  | .bfes o => ⟨o.toForm, [wr 1 (dKind o.m .v) o.d, rd 2 (dKind o.m .v) o.a]⟩
  | .bfi o => ⟨o.toForm, [wr 1 (dKind o.m .v) o.d, rd 2 (dKind o.m .v) o.a, rd 3 (bKind o.m .v) o.b]⟩
  | .sel o => ⟨o, [wr 1 .v o.d, rd 2 .v o.a, rd 3 (bKind o.m .v) o.b, rd 4 .p o.c]⟩
  | .imad o => ⟨o, [wr 1 .v o.d, rd 2 .v o.a, rd 3 (bKind o.m .v) o.b, rd 4 .v o.c]⟩
  | .addc o => ⟨o, [wr 1 .v o.d, rd 2 .v o.a, rd 3 (bKind o.m .v) o.b, rw' 4 .p o.c]⟩
  | .subb o => ⟨o, [wr 1 .v o.d, rd 2 .v o.a, rd 3 (bKind o.m .v) o.b, rw' 4 .p o.c]⟩
  | .iadd64 o => ⟨o, [wr 1 (dKind o.m .v2) o.d, rd 2 (dKind o.m .v2) o.a, rd 3 (bKind o.m .v2) o.b]⟩
  | .isub64 o => ⟨o, [wr 1 (dKind o.m .v2) o.d, rd 2 (dKind o.m .v2) o.a, rd 3 (bKind o.m .v2) o.b]⟩
  | .shl64 o => ⟨o, [wr 1 (dKind o.m .v2) o.d, rd 2 (dKind o.m .v2) o.a, rd 3 (bKind o.m .v) o.b]⟩
  | .shr64 o => ⟨o, [wr 1 (dKind o.m .v2) o.d, rd 2 (dKind o.m .v2) o.a, rd 3 (bKind o.m .v) o.b]⟩
  | .sar64 o => ⟨o, [wr 1 (dKind o.m .v2) o.d, rd 2 (dKind o.m .v2) o.a, rd 3 (bKind o.m .v) o.b]⟩
  | .lea o => ⟨o.toForm, [wr 1 (dKind o.m .v2) o.d, rd 2 (dKind o.m .v2) o.a, rd 3 (bKind o.m .v) o.b]⟩
  | .mov o => ⟨o, [wr 1 (movD o.m) o.d, rd 3 (movB o.m) o.b]⟩
  | .movi o => ⟨o.toForm, [wr 1 (dKind o.m .v) o.d]⟩
  | .movl o => ⟨o.toForm, [wr 1 (dKind o.m .v) o.d]⟩
  | .fadd o => ⟨o.toForm, [wr 1 (fKind o.prec) o.d, rd 2 (fKind o.prec) o.a, rd 3 (bKind o.m (fKind o.prec)) o.b]⟩
  | .fsub o => ⟨o.toForm, [wr 1 (fKind o.prec) o.d, rd 2 (fKind o.prec) o.a, rd 3 (bKind o.m (fKind o.prec)) o.b]⟩
  | .fmul o => ⟨o.toForm, [wr 1 (fKind o.prec) o.d, rd 2 (fKind o.prec) o.a, rd 3 (bKind o.m (fKind o.prec)) o.b]⟩
  | .fmin o => ⟨o.toForm, [wr 1 (fKind o.prec) o.d, rd 2 (fKind o.prec) o.a, rd 3 (bKind o.m (fKind o.prec)) o.b]⟩
  | .fmax o => ⟨o.toForm, [wr 1 (fKind o.prec) o.d, rd 2 (fKind o.prec) o.a, rd 3 (bKind o.m (fKind o.prec)) o.b]⟩
  | .fdiv o => ⟨o.toForm, [wr 1 (fKind o.prec) o.d, rd 2 (fKind o.prec) o.a, rd 3 (bKind o.m (fKind o.prec)) o.b]⟩
  | .fsqrt o => ⟨o.toForm, [wr 1 (fKind o.prec) o.d, rd 2 (fKind o.prec) o.a]⟩
  | .fma o => ⟨o.toForm, [wr 1 (fKind o.prec) o.d, rd 2 (fKind o.prec) o.a, rd 3 (bKind o.m (fKind o.prec)) o.b, rd 4 (fKind o.prec) o.c]⟩
  | .fms o => ⟨o.toForm, [wr 1 (fKind o.prec) o.d, rd 2 (fKind o.prec) o.a, rd 3 (bKind o.m (fKind o.prec)) o.b, rd 4 (fKind o.prec) o.c]⟩
  | .fnma o => ⟨o.toForm, [wr 1 (fKind o.prec) o.d, rd 2 (fKind o.prec) o.a, rd 3 (bKind o.m (fKind o.prec)) o.b, rd 4 (fKind o.prec) o.c]⟩
  | .fnms o => ⟨o.toForm, [wr 1 (fKind o.prec) o.d, rd 2 (fKind o.prec) o.a, rd 3 (bKind o.m (fKind o.prec)) o.b, rd 4 (fKind o.prec) o.c]⟩
  | .fcmp o => ⟨o.toForm, [wr 1 .p o.d, rd 2 (fKind o.prec) o.a, rd 3 (bKind o.m (fKind o.prec)) o.b]⟩
  | .fclass o => ⟨o.toForm, [wr 1 .v o.d, rd 2 (fKind o.prec) o.a]⟩
  | .fneg o => ⟨o.toForm, [wr 1 (fKind o.prec) o.d, rd 2 (fKind o.prec) o.a]⟩
  | .fabs o => ⟨o.toForm, [wr 1 (fKind o.prec) o.d, rd 2 (fKind o.prec) o.a]⟩
  | .fsgnj o => ⟨o.toForm, [wr 1 (fKind o.prec) o.d, rd 2 (fKind o.prec) o.a, rd 3 (bKind o.m (fKind o.prec)) o.b]⟩
  | .fsgnjn o => ⟨o.toForm, [wr 1 (fKind o.prec) o.d, rd 2 (fKind o.prec) o.a, rd 3 (bKind o.m (fKind o.prec)) o.b]⟩
  | .fsgnjx o => ⟨o.toForm, [wr 1 (fKind o.prec) o.d, rd 2 (fKind o.prec) o.a, rd 3 (bKind o.m (fKind o.prec)) o.b]⟩
  | .fexp2 o => ⟨o.toForm, [wr 1 (fKind o.prec) o.d, rd 2 (fKind o.prec) o.a]⟩
  | .flog2 o => ⟨o.toForm, [wr 1 (fKind o.prec) o.d, rd 2 (fKind o.prec) o.a]⟩
  | .fsin o => ⟨o.toForm, [wr 1 (fKind o.prec) o.d, rd 2 (fKind o.prec) o.a]⟩
  | .fcos o => ⟨o.toForm, [wr 1 (fKind o.prec) o.d, rd 2 (fKind o.prec) o.a]⟩
  | .frcp o => ⟨o.toForm, [wr 1 (fKind o.prec) o.d, rd 2 (fKind o.prec) o.a]⟩
  | .frsq o => ⟨o.toForm, [wr 1 (fKind o.prec) o.d, rd 2 (fKind o.prec) o.a]⟩
  | .fcvt o => ⟨o.toForm, [wr 1 (fKind o.dprec) o.d, rd 2 (fKind o.prec) o.a]⟩
  | .fcvti o => ⟨o.toForm, [wr 1 .v o.d, rd 2 (fKind o.prec) o.a]⟩
  | .icvtf o => ⟨o.toForm, [wr 1 (fKind o.prec) o.d, rd 2 .v o.a]⟩
  | .frint o => ⟨o.toForm, [wr 1 (fKind o.prec) o.d, rd 2 (fKind o.prec) o.a]⟩
  | .fcvtil o => ⟨o.toForm, [wr 1 .v2 o.d, rd 2 (fKind o.prec) o.a]⟩
  | .icvtfl o => ⟨o.toForm, [wr 1 (fKind o.prec) o.d, rd 2 .v2 o.a]⟩
  | .f8pack o => ⟨o.toForm, [wr 1 .v o.d, rd 2 .v2 o.a, rd 3 (bKind o.m .v2) o.b]⟩
  | .f8unpack o => ⟨o.toForm, [wr 1 .v4 o.d, rd 2 .v o.a]⟩
  | .f16pack o => ⟨o.toForm, [wr 1 .v o.d, rd 2 .v o.a, rd 3 (bKind o.m .v) o.b]⟩
  | .f16unpack o => ⟨o.toForm, [wr 1 .v2 o.d, rd 2 .v o.a]⟩
  | .xe3m2 o => ⟨o.toForm, [wr 1 .v o.d, rd 2 .v2 o.a, rd 3 (bKind o.m .v) o.b]⟩
  | .xe2m3 o => ⟨o.toForm, [wr 1 .v o.d, rd 2 .v2 o.a, rd 3 (bKind o.m .v) o.b]⟩
  | .xint4 o => ⟨o.toForm, [wr 1 .v o.d, rd 2 .v o.a]⟩
  | .mxq o => ⟨o.toForm, [wr 1 .v o.d, rd 2 .v4 o.a, rd 3 (bKind o.m .v) o.b, rd 4 .v4 o.c]⟩
  | .mxdq o => ⟨o.toForm, [wr 1 .v4 o.d, rd 2 .v o.a, rd 3 (bKind o.m .v) o.b]⟩
  | .mxscale o => ⟨o.toForm, [wr 1 .v o.d, rd 2 .v o.a]⟩
  | .fsplit o => ⟨o.toForm, [wr 1 .v o.d, rd 2 .v2 o.a, rd 3 (bKind o.m .v) o.b, wr 4 .p (o.c >>> 4)]⟩
  | .fjoin o => ⟨o.toForm, [wr 1 .v2 o.d, rd 2 .v4 o.a, rd 3 (bKind o.m .v) o.b, rd 4 .v o.c]⟩
  | .fdot2 o => ⟨o.toForm, [wr 1 .v o.d, rd 2 .v o.a, rd 3 (bKind o.m .v) o.b, rd 4 .v o.c]⟩
  | .fdot4 o => ⟨o.toForm, [wr 1 .v o.d, rd 2 .v o.a, rd 3 (bKind o.m .v) o.b, rd 4 .v o.c]⟩
  | .faddl o => ⟨o.toForm, [wr 1 .v o.d, rd 2 .v o.a]⟩
  | .fmull o => ⟨o.toForm, [wr 1 .v o.d, rd 2 .v o.a]⟩
  | .fmal o => ⟨o.toForm, [wr 1 .v o.d, rd 2 .v o.a, rd 3 (bKind o.m .v) o.b]⟩
  | .fscale o => ⟨o.toForm, [wr 1 (fKind o.prec) o.d, rd 2 (fKind o.prec) o.a, rd 3 (bKind o.m .v) o.b]⟩
  | .fgetexp o => ⟨o.toForm, [wr 1 (fKind o.prec) o.d, rd 2 (fKind o.prec) o.a]⟩
  | .fgetman o => ⟨o.toForm, [wr 1 (fKind o.prec) o.d, rd 2 (fKind o.prec) o.a]⟩
  | .fminnm o => ⟨o.toForm, [wr 1 (fKind o.prec) o.d, rd 2 (fKind o.prec) o.a, rd 3 (bKind o.m (fKind o.prec)) o.b]⟩
  | .fmaxnm o => ⟨o.toForm, [wr 1 (fKind o.prec) o.d, rd 2 (fKind o.prec) o.a, rd 3 (bKind o.m (fKind o.prec)) o.b]⟩
  | .bra o => ⟨o.toForm, []⟩
  | .brx o => ⟨o, [rd 2 .v2 o.a]⟩
  | .jmpl o => ⟨o.toForm, []⟩
  | .call o => ⟨o.toForm, []⟩
  | .callx o => ⟨o, [rd 2 .v2 o.a]⟩
  | .calll o => ⟨o.toForm, []⟩
  | .ret o => ⟨o, []⟩
  | .exit o => ⟨o, []⟩
  | .rfpt o => ⟨o, []⟩
  | .yield o => ⟨o, []⟩
  | .nop o => ⟨o, []⟩
  | .brk o => ⟨o.toForm, []⟩
  | .migr o => ⟨o, [rd 2 .v2 o.a]⟩
  | .shfli o => ⟨o.toForm, [wr 1 .v o.d, rd 2 .v o.a] ++ (if o.rb then [rd 3 .v o.b] else [])⟩
  | .shflu o => ⟨o.toForm, [wr 1 .v o.d, rd 2 .v o.a] ++ (if o.rb then [rd 3 .v o.b] else [])⟩
  | .shfld o => ⟨o.toForm, [wr 1 .v o.d, rd 2 .v o.a] ++ (if o.rb then [rd 3 .v o.b] else [])⟩
  | .shflx o => ⟨o.toForm, [wr 1 .v o.d, rd 2 .v o.a] ++ (if o.rb then [rd 3 .v o.b] else [])⟩
  | .vall o => ⟨o, [wr 1 .p o.d, rd 2 .p o.a]⟩
  | .vany o => ⟨o, [wr 1 .p o.d, rd 2 .p o.a]⟩
  | .ballot o => ⟨o, [wr 1 .v o.d, rd 2 .p o.a]⟩
  | .matchLanes o => ⟨o, [wr 1 .v o.d, rd 2 .v o.a]⟩
  | .wscan o => ⟨o.toForm, [wr 1 (wKind o.w64) o.d, rd 2 (wKind o.w64) o.a]⟩
  | .wred o => ⟨o.toForm, [wr 1 (wKind o.w64) o.d, rd 2 (wKind o.w64) o.a]⟩
  | .wfred o => ⟨o.toForm, [wr 1 (wKind o.f64) o.d, rd 2 (wKind o.f64) o.a]⟩
  | .ld o => ⟨o.toForm, [wr 1 (widthKind o.width) o.d, rd 2 (baseKind o.m) o.a] ++ (if o.idx then [rd 3 .v o.b] else [])⟩
  | .st o => ⟨o.toForm, [rd 1 (widthKind o.width) o.d, rd 2 (baseKind o.m) o.a] ++ (if o.idx then [rd 3 .v o.b] else [])⟩
  | .ldu o => ⟨o.toForm, [wr 1 (widthKind o.width) o.d, rd 2 (baseKind o.m) o.a] ++ (if o.idx then [rd 3 .v o.b] else [])⟩
  | .ldfe o => ⟨o.toForm, [wr 1 (widthKind o.width) o.d, rd 2 (baseKind o.m) o.a] ++ (if o.idx then [rd 3 .v o.b] else [])⟩
  | .stfe o => ⟨o.toForm, [rd 1 (widthKind o.width) o.d, rd 2 (baseKind o.m) o.a] ++ (if o.idx then [rd 3 .v o.b] else [])⟩
  | .pf o => ⟨o.toForm, [rd 2 (baseKind o.m) o.a] ++ (if o.idx then [rd 3 .v o.b] else [])⟩
  | .atomAdd o => ⟨o.toForm, [wr 1 (wKind o.w64) o.d, rd 2 (baseKind o.m) o.a, rd 3 (wKind o.w64) o.b]⟩
  | .atomAnd o => ⟨o.toForm, [wr 1 (wKind o.w64) o.d, rd 2 (baseKind o.m) o.a, rd 3 (wKind o.w64) o.b]⟩
  | .atomOr o => ⟨o.toForm, [wr 1 (wKind o.w64) o.d, rd 2 (baseKind o.m) o.a, rd 3 (wKind o.w64) o.b]⟩
  | .atomXor o => ⟨o.toForm, [wr 1 (wKind o.w64) o.d, rd 2 (baseKind o.m) o.a, rd 3 (wKind o.w64) o.b]⟩
  | .atomMin o => ⟨o.toForm, [wr 1 (wKind o.w64) o.d, rd 2 (baseKind o.m) o.a, rd 3 (wKind o.w64) o.b]⟩
  | .atomMax o => ⟨o.toForm, [wr 1 (wKind o.w64) o.d, rd 2 (baseKind o.m) o.a, rd 3 (wKind o.w64) o.b]⟩
  | .atomXchg o => ⟨o.toForm, [wr 1 (wKind o.w64) o.d, rd 2 (baseKind o.m) o.a, rd 3 (wKind o.w64) o.b]⟩
  | .atomDecp o => ⟨o.toForm, [wr 1 (wKind o.w64) o.d, rd 2 (baseKind o.m) o.a]⟩
  | .atomFadd o => ⟨o.toForm, [wr 1 (wKind o.w64) o.d, rd 2 (baseKind o.m) o.a, rd 3 (wKind o.w64) o.b]⟩
  | .acas o => ⟨o.toForm, [wr 1 (wKind o.w64) o.d, rd 2 (baseKind o.m) o.a, rd 3 (wKind o.w64) o.b, rd 4 (wKind o.w64) o.c]⟩
  | .satomAdd o => ⟨o.toForm, [wr 1 .v o.d, rd 2 (baseKind o.m) o.a, rd 3 .v o.b]⟩
  | .satomAnd o => ⟨o.toForm, [wr 1 .v o.d, rd 2 (baseKind o.m) o.a, rd 3 .v o.b]⟩
  | .satomOr o => ⟨o.toForm, [wr 1 .v o.d, rd 2 (baseKind o.m) o.a, rd 3 .v o.b]⟩
  | .satomXor o => ⟨o.toForm, [wr 1 .v o.d, rd 2 (baseKind o.m) o.a, rd 3 .v o.b]⟩
  | .satomMin o => ⟨o.toForm, [wr 1 .v o.d, rd 2 (baseKind o.m) o.a, rd 3 .v o.b]⟩
  | .satomMax o => ⟨o.toForm, [wr 1 .v o.d, rd 2 (baseKind o.m) o.a, rd 3 .v o.b]⟩
  | .satomXchg o => ⟨o.toForm, [wr 1 .v o.d, rd 2 (baseKind o.m) o.a, rd 3 .v o.b]⟩
  | .satomDecp o => ⟨o.toForm, [wr 1 .v o.d, rd 2 (baseKind o.m) o.a]⟩
  | .satomFadd o => ⟨o.toForm, [wr 1 .v o.d, rd 2 (baseKind o.m) o.a, rd 3 .v o.b]⟩
  | .scas o => ⟨o.toForm, [wr 1 .v o.d, rd 2 (baseKind o.m) o.a, rd 3 .v o.b, rd 4 .v o.c]⟩
  | .fenceAcq o => ⟨o.toForm, []⟩
  | .fenceRel o => ⟨o.toForm, []⟩
  | .fenceAr o => ⟨o.toForm, []⟩
  | .fenceSc o => ⟨o.toForm, []⟩
  | .barArrive o => ⟨o.toForm, []⟩
  | .barWait o => ⟨o.toForm, []⟩
  | .barSync o => ⟨o.toForm, []⟩
  | .barDrop o => ⟨o.toForm, []⟩
  | .barTest o => ⟨o.toForm, [wr 1 .p o.d]⟩
  | .barRed o => ⟨o.toForm, [wr 1 (wKind (redWide o.kind)) o.d, rd 2 (wKind (redWide o.kind)) o.a]⟩
  | .abarInit o => ⟨o, [rd 2 .v o.a, rd 3 .v o.b]⟩
  | .abarArrive o => ⟨o, [rd 2 .v o.a, rd 3 .v o.b]⟩
  | .abarWait o => ⟨o, [rd 2 .v o.a, rd 3 .v o.b]⟩
  | .waitv o => ⟨o.toForm, [wr 1 .p o.d, rd 2 .v2 o.a, rd 3 .v o.b]⟩
  | .wake1 o => ⟨o.toForm, [rd 2 .v2 o.a]⟩
  | .wakeall o => ⟨o.toForm, [rd 2 .v2 o.a]⟩
  | .waitc o => ⟨o.toForm, []⟩
  | .macq o => ⟨o.toForm, [wr 1 .acc o.d]⟩
  | .mrel o => ⟨o, [wr 1 .acc o.d]⟩
  | .mzero o => ⟨o, [wr 1 .acc o.d]⟩
  | .mloop o => ⟨o, [rw' 1 .acc o.d, rd 2 .s3 o.a, rd 3 .v2 o.b, rd 4 .v2 o.c]⟩
  | .mloopg o => ⟨o, [rw' 1 .acc o.d, rd 2 .s3 o.a, rd 3 .v o.b, rd 4 .v2 o.c]⟩
  | .mdrain o => ⟨o, [wr 1 .v4 o.d, rd 2 .acc o.a, rd 3 .v o.b]⟩
  | .mdrains o => ⟨o.toForm, [rd 2 .acc o.a, rd 3 .v2 o.b]⟩
  | .mwlat o => ⟨o.toForm, [rw' 1 .acc o.d, rd 2 .v2 o.a]⟩
  | .mstep o => ⟨o, [rw' 1 .acc o.d, rd 2 .s3 o.a]⟩
  | .mmeta o => ⟨o, [wr 1 .v o.d, rd 2 .acc o.a]⟩
  | .mfill o => ⟨o.toForm, [rw' 1 .acc o.d, rd 2 .v o.a, rd 3 .v o.b]⟩
  | .madd o => ⟨o.toForm, [rw' 1 .acc o.d, rd 2 .v o.a, rd 3 .v o.b]⟩
  | .mscale o => ⟨o, [rw' 1 .acc o.d, rd 2 .v o.a]⟩
  | .mcsum o => ⟨o, [wr 1 .v2 o.d, rd 2 .acc o.a, rd 3 .v o.b]⟩
  | .xfer o => ⟨o, [rw' 1 .q o.d, rd 2 .v4 o.a]⟩
  | .xgather o => ⟨o, [rw' 1 .q o.d, rd 2 .v4 o.a]⟩
  | .chclose o => ⟨o, [rw' 1 .q o.d]⟩
  | .chavail o => ⟨o, [wr 1 .v o.d, rd 2 .q o.a]⟩
  | .qpush o => ⟨o, [rw' 1 .q o.d, rd 2 .v o.a]⟩
  | .qpop o => ⟨o, [wr 1 .v o.d, rw' 2 .q o.a]⟩
  | .qtrypop o => ⟨o, [wr 1 .v o.d, rw' 2 .q o.a, wr 4 .p o.c]⟩
  | .qtrypush o => ⟨o, [rw' 1 .q o.d, rd 2 .v o.a, wr 4 .p o.c]⟩
  | .cred o => ⟨o, [rw' 1 .q o.d, rd 2 .v4 o.a]⟩
  | .callred o => ⟨o, [rw' 1 .q o.d, rd 2 .v4 o.a]⟩
  | .credsc o => ⟨o, [rw' 1 .q o.d, rd 2 .v4 o.a]⟩
  | .callg o => ⟨o, [rw' 1 .q o.d, rd 2 .v4 o.a]⟩
  | .csrr o => ⟨o.toForm, [wr 1 (.csr (csrWords o.num)) o.d]⟩
  | .csrw o => ⟨o.toForm, [rd 2 (.csr (csrWords o.num)) o.a]⟩
  | .csrs o => ⟨o.toForm, [wr 1 (.csr (csrWords o.num)) o.d, rd 2 (.csr (csrWords o.num)) o.a]⟩
  | .csrc o => ⟨o.toForm, [wr 1 (.csr (csrWords o.num)) o.d, rd 2 (.csr (csrWords o.num)) o.a]⟩
  | .launch o => ⟨o, [wr 1 .v o.d, rd 2 .v2 o.a, rd 3 .v o.b]⟩
  | .hret o => ⟨o.toForm, (if o.tgt then [rd 2 .v2 o.a] else [])⟩
  | .hskip o => ⟨o, []⟩
  | .ctxsave o => ⟨o.toForm, [wr 1 .v o.d, rd 2 .v o.a, rd 3 .v2 o.b]⟩
  | .ctxload o => ⟨o.toForm, [wr 1 .v o.d, rd 2 .v o.a, rd 3 .v2 o.b]⟩
  | .ctxkill o => ⟨o, [wr 1 .v o.d, rd 2 .v o.a]⟩
  | .kretire o => ⟨o, [wr 1 .v o.d, rd 2 .v o.a]⟩
  | .tlbinv o => ⟨o.toForm, [wr 1 .v o.d, rd 2 .v o.a, rd 3 .v2 o.b]⟩
  | .tlbinvall o => ⟨o, [wr 1 .v o.d, rd 2 .v o.a]⟩
  | .pgprobe o => ⟨o, [wr 1 .v2 o.d, rd 2 .v o.a, rd 3 .v2 o.b]⟩
  | .hcmark o => ⟨o.toForm, [rd 2 .v o.a]⟩
  | .hcflush o => ⟨o, []⟩
  | .hcstop o => ⟨o.toForm, []⟩
  | .hcread o => ⟨o.toForm, [wr 1 .v2 o.d]⟩
  | .illegalEncoding _ | .lavio _ _ | .alloc | .config | .start | .suspend
  | .resume | .clear | .kill | .rekey | .unknownCommand | .assign
  | .release | .peers | .invalidate | .resolve | .linkEnable | .linkDisable
  | .linkRecover | .portcfg | .hcRecord | .hcStop | .hcReplay | .hcVerify
  | .hcRelease | .errack | .attest | .coldreset | .warmreset | .queueDoorbell _ _
  | .nearcfgWrite _ | .frheadWrite _ | .zhevportPhysicalWrite _ _ | .mgmtWindowWrite _ _ | .powerOn | .bootImage
  | .bindingPass | .bindSeat _ | .loaderLoad _ _ | .groupLoadFinished _ _ | .kernelDone _ | .completionRecordUpdate _
  | .gangReserve _ | .gangAck _ | .gangRefuse _ | .gangCommit _ | .gangAbort _ | .gangFail _
  | .gangDone _ | .gangTimeout _ | .gangMemberTimeout _ | .landing _ _ | .suspendImageWrite _ | .groupRestore _ _ _
  | .teardownDrained _ | .swept _ | .starvation _ _ | .yieldExpiry _ _ | .spillFillDone _ | .crossLaneDeadlock _ _
  | .matrixStep _ _ | .memoryAccessServed _ | .tokenTransfer _ | .persistentRequest _ _ _ | .arbiterGrantVisit | .haloTokenPass _
  | .leaseExpiry _ _ | .waitvTimeout _ _ | .waitvPoll _ _ | .engineChunk _ _ | .channelSlotDeliver _ _ | .collectiveJoin _
  | .collectiveChunk _ _ _ | .isobarPeriod _ _ | .pageWalk _ | .faultRecordAppend | .flitReceive _ _ | .retryPeriod _
  | .linkTrained _ _ | .linkTrainTimeout _ | .linkSilence _ | .disableFlushTimeout _ | .zhevportTrained _ | .zhevportIsolationExpiry
  | .cxlTrained _ _ | .cxlTrainTimeout _ | .cxlRequestTimeout _ _ | .cxlLinkDown _ | .cxlResponse _ _ _ | .snpinv _ _
  | .snpdata _ _ | .snpcur _ _ | .hostMemRead _ _ _ | .hostMemWrite _ _ _ _ | .chunkClose _ _ | .chunkSpill _
  | .scrub _ _ | .fatalError | .powerPeriod _ _ | .railOvercurrent _ _ | .telemetryRefresh _ | .thermalThrottle _
  | .thermalTrip _ | .cxlIoRequest _ _ | .peakampsRead | .thermalRecovery _ | .gangQuery _ | .gangQueryAnswer _ _ => ⟨⟨0, 0, 0, 0, 0, 0, 0⟩, []⟩

/-- The forms that may issue while a leader has not completed (R65): majors 0x01 to 0x2D on vectors, relaxed ld, ldu, pf, bra, brx,
jmpl and nop. -/
def admitted : Instr → Bool
  | .iadd o | .isub o | .imul o | .and o | .or o | .xor o | .shl o | .shr o | .sar o | .imin o
  | .imax o | .umin o | .umax o | .iaddsat o | .isubsat o | .iaddi o | .andi o | .ori o | .xori o | .shli o
  | .shri o | .sari o | .popc o | .clz o | .brev o | .bfe o | .bfes o | .bfi o | .iadd64 o | .isub64 o
  | .shl64 o | .shr64 o | .sar64 o | .lea o | .mov o | .movi o | .movl o => o.m == 0 || o.m == 1
  | .icmp _ | .imulhi _ | .umulhi _ | .idiv _ | .udiv _ | .irem _ | .urem _ | .sel _ | .imad _ | .addc _
  | .subb _ | .fadd _ | .fsub _ | .fmul _ | .fmin _ | .fmax _ | .fdiv _ | .fsqrt _ | .fma _ | .fms _
  | .fnma _ | .fnms _ | .fcmp _ | .fclass _ | .fneg _ | .fabs _ | .fsgnj _ | .fsgnjn _ | .fsgnjx _ | .fexp2 _
  | .flog2 _ | .fsin _ | .fcos _ | .frcp _ | .frsq _ | .fcvt _ | .fcvti _ | .icvtf _ | .frint _ | .fcvtil _
  | .icvtfl _ | .f8pack _ | .f8unpack _ | .f16pack _ | .f16unpack _ | .xe3m2 _ | .xe2m3 _ | .xint4 _ | .mxq _ | .mxdq _
  | .mxscale _ | .fsplit _ | .fjoin _ | .fdot2 _ | .fdot4 _ | .faddl _ | .fmull _ | .fmal _ | .fscale _ | .fgetexp _
  | .fgetman _ | .fminnm _ | .fmaxnm _ | .ldu _ | .pf _ | .bra _ | .brx _ | .jmpl _ | .nop _ => true
  | .ld o => o.ord == .relaxed
  | _ => false

/-! ### Lookahead -/

/-- Do a field's registers conflict with a leader (R64)? -/
def Use.conflicts (w : Window) (u : Use) : Bool :=
  u.names.any (fun r => (u.reads && w.writes.contains r) || (u.writes && (w.reads.contains r || w.writes.contains r)))

/-- The lowest field of a follower that conflicts with a leader; 5 is the guard. -/
def Shape.conflictField (sh : Shape) (w : Window) : Option Nat :=
  match sh.uses.find? (fun u => u.conflicts w) with
  | some u => some u.fld
  | none => if w.writes.contains (.p (sh.form.g.toNat % 8)) then some 5 else none

/-- The conflict of a follower with the nearest leader it matches: distance and field (R64). -/
def Shape.lavio (sh : Shape) : List Window → Option (Nat × Nat)
  | [] => none
  | w :: ws =>
    let rest := sh.lavio ws
    if w.left = 0 then rest
    else
      match sh.conflictField w, rest with
      | none, r => r
      | some f, none => some (w.seen + 1, f)
      | some f, some (d, g) => if w.seen + 1 < d then some (w.seen + 1, f) else some (d, g)

/-- The LAVIO trap of R64. -/
def lavioTrap (d fld : Nat) : Trap :=
  { cause := causeLavio, addr := 0, info := BitVec.ofNat 32 (d % 16 + 16 * fld) }

/-- Does the form use a register that an open leader past its window still writes: ordinary dependence (R155)? -/
def Shape.depends (sh : Shape) (ws : List Window) : Bool :=
  ws.any (fun w => w.left == 0 && w.access.isSome &&
    (sh.uses.any (fun u => u.conflicts w) || w.writes.contains (.p (sh.form.g.toNat % 8))))

/-! ### Errors in register words -/

/-- TRAPINFO of a register word that holds an uncorrectable error (R423). -/
def poisonRegister : RegName → Trap
  | .v n => { cause := causePoison, addr := 0, info := BitVec.ofNat 32 (1024 + n) }
  | .s n => { cause := causePoison, addr := 0, info := BitVec.ofNat 32 (2048 + n) }
  | .p n => { cause := causePoison, addr := 0, info := BitVec.ofNat 32 (3072 + n) }
  | .q n => { cause := causePoison, addr := 0, info := BitVec.ofNat 32 n }
  | .acc n => { cause := causePoison, addr := 0, info := BitVec.ofNat 32 n }

/-! ### The gate: the checks that stand before a form's own effect -/

/-- What the checks before a form's own effect give for one item. -/
inductive Gate where
  | go
  | skip
  | trap (t : Trap)
  | wait (w : Wait)
  deriving DecidableEq, Repr

/-- A trap that a wait has ended in (R242, R363, R301), R65's admission, R66's per-item register check, LAVIO and the guard, in this
order. `admitted` says that the form may issue while a leader is open. -/
def Env.gate (e : Env) (sh : Shape) (admitted : Bool) : Gate :=
  match e.it.owed with
  | some t => .trap t
  | none =>
    if e.it.leading && (!admitted || sh.depends e.it.windows) then .wait .earlier
    else
      match checkUses e.it sh.uses with
      | some t => .trap t
      | none =>
        match sh.lavio e.it.windows with
        | some (d, f) => if e.it.leading then .wait (.lavio d f e.ilen) else .trap (lavioTrap d f)
        | none => if e.it.guard sh.form.g then .go else .skip

/-- The first of some registers whose word holds an uncorrectable error (R423). -/
def poisonedName (it : Item) (badS : List Nat) (names : List RegName) : Option Trap :=
  (names.find? (fun r => match r with | .s n => badS.contains n | r => it.bad.contains r)).map poisonRegister

/-- The fields of control-register forms, which R73 checks, are read only after those checks. -/
def Use.isCsr (u : Use) : Bool :=
  match u.kind with
  | .csr _ => true
  | _ => false

/-- The first register a form reads whose word holds an uncorrectable error (R423). -/
def Shape.poisoned (sh : Shape) (it : Item) (badS : List Nat) : Option Trap :=
  poisonedName it badS ((sh.uses.filter (fun u => u.reads && !u.isCsr)).flatMap Use.names ++ [.p (sh.form.g.toNat % 8)])

/-- The item after its ending. A trap waits for open leaders, whose own trap would discard it (R65). -/
def Env.close (e : Env) (sh : Shape) : Ending → Item
  | .done it => it.complete e.now sh.form.la.toNat sh.reads sh.writes none e.nextPc
  | .jump it t => it.complete e.now sh.form.la.toNat sh.reads sh.writes none t
  | .trap it t => if e.it.leading then { e.it with wait := .earlier } else it.takeTrap e.handler e.now e.ilen t
  | .wait it w => { it with wait := w }
  | .consume t => if e.it.leading then { e.it with wait := .earlier } else { e.it with consumed := some t.cause, fatal := some t }

/-- The item after a form whose effect is confined to it: the gate, then errors in the registers it reads, then its own ending. In a
guarded group an error is consumed by rollback (R430), else the item traps POISON (R423). -/
def Env.runForm (e : Env) (sh : Shape) (admitted guarded : Bool) (badS : List Nat) (body : Env → Ending) : Item :=
  match e.gate sh admitted with
  | .skip => e.close sh (.done e.it)
  | .trap t => e.close sh (.trap e.it t)
  | .wait w => { e.it with wait := w }
  | .go =>
    match sh.poisoned e.it badS with
    | some t => e.close sh (if guarded then .consume t else .trap e.it t)
    | none => e.close sh (body e)

/-! ### Operands of the arithmetic majors -/

/-- Field A of 32 bits under M (R61). -/
def Env.opA (e : Env) (o : Form) : W32 := if o.m = 2 then readS e.s o.a else e.it.readV o.a

/-- Field B of 32 bits under M (R61). -/
def Env.opB (e : Env) (o : Form) : W32 := if o.m = 0 || o.m = 3 then e.it.readV o.b else readS e.s o.b

/-- Field C of 32 bits. -/
def Env.opC (e : Env) (o : Form) : W32 := e.it.readV o.c

/-- Pairs in fields A, B and C under M. -/
def Env.opA2 (e : Env) (o : Form) : W64 := if o.m = 2 then readS2 e.s o.a else e.it.readV2 o.a
def Env.opB2 (e : Env) (o : Form) : W64 := if o.m = 0 || o.m = 3 then e.it.readV2 o.b else readS2 e.s o.b
def Env.opC2 (e : Env) (o : Form) : W64 := e.it.readV2 o.c

/-- A V or V2 operand in field A, B or C as one 64-bit value (the V operand in its low half). -/
def Env.wideA (e : Env) (o : Form) (wide : Bool) : W64 := if wide then e.it.readV2 o.a else (e.it.readV o.a).zeroExtend 64
def Env.wideB (e : Env) (o : Form) (wide : Bool) : W64 := if wide then e.it.readV2 o.b else (e.it.readV o.b).zeroExtend 64
def Env.wideC (e : Env) (o : Form) (wide : Bool) : W64 := if wide then e.it.readV2 o.c else (e.it.readV o.c).zeroExtend 64

/-- The immediate as a signed word offset (R68), and LIT32 as a signed byte offset. -/
def wordOffset (imm : W16) : W64 := imm.signExtend 64 <<< 2
def byteOffset (lit : W32) : W64 := lit.signExtend 64

end Sys2Proof.Machine
end

