-- ==== Sys2Proof/Machine/Order.lean ====
section
/-! DEFINITION. Scopes, stamps and the parts of fences (13 R279 to R289, R296): when a release may go on, what it does to VIEW, the
acquire action, the sequencers of fence.sc. -/

namespace Sys2Proof.Machine

/-- die, dev and sys: the scopes at which stamps act (R282). -/
def scopeWide : Scope → Bool
  | .grp => false
  | .clu => false
  | _ => true

/-- Must a release at a scope still wait for the item's own earlier writes (R282, R296)? At grp and clu a write is performed once sent. -/
def Item.releaseWaits (it : Item) (sc : Scope) : Bool := scopeWide sc && !it.storesOut.isEmpty

/-- The end of a release at a scope: VIEW rises to REL at die, dev and sys (R282). -/
def Item.release (it : Item) (sc : Scope) : Item := if scopeWide sc then { it with view := max it.view it.rel } else it

/-- The generation and state of a key id (04 R87): 0 free, 1 bound, 2 retiring. Key id 0 is always firmware's. -/
def State.keyGeneration (s : State) (key : Nat) : Nat := Table.read 0 s.keys key / 4
def State.keyState (s : State) (key : Nat) : Nat := if key = 0 then 1 else Table.read 0 s.keys key % 4

/-- A key id with the generation of its key pair, as cluster L1s hold it with a line (04 R87). -/
def State.keyTag (s : State) (key : Nat) : Nat := key + 4096 * s.keyGeneration key

/-- The cluster L1 of a cluster. -/
def State.l1Of (s : State) (cluster : Nat) : Table L1Line := Table.read [] s.l1 cluster

def State.modL1 (s : State) (cluster : Nat) (f : Table L1Line → Table L1Line) : State :=
  { s with l1 := Table.write [] s.l1 cluster (f (s.l1Of cluster)) }

/-- Every V and U line of a cluster under a key becomes I (R282 sys, R294, R297). -/
def State.dropKeyLines (s : State) (cluster key : Nat) : State :=
  s.modL1 cluster (fun t => t.filter (fun p => p.2.key % 4096 != key || p.2.state == .owned))

/-- The take of a kernel is the acquire action at sys for every item that the kernel starts, on whichever cluster (R294): the V and U lines under the
context's key become I in every cluster (log 53). -/
def State.dropKeyEverywhere (s : State) (key : Nat) : State :=
  { s with l1 := s.l1.mapAll (fun _ t => t.filter (fun p => p.2.key % 4096 != key || p.2.state == .owned)) }

/-- Every V copy of a cluster whose LEND is below a VIEW becomes I (R282). -/
def State.dropLeases (s : State) (cluster view : Nat) : State :=
  s.modL1 cluster (fun t => t.filter (fun p => p.2.state != .valid || decide (view ≤ p.2.lend)))

/-- The acquire action at a scope for an item of a group (R282). -/
def State.acquireAt (s : State) (gid slot : Nat) (sc : Scope) : State :=
  if scopeWide sc then
    match s.group? gid, s.item? gid slot with
    | some g, some it =>
      let view := max it.view it.seen
      let s := (s.modItem gid slot (fun it => { it with view := view })).dropLeases (clusterOf g.core) view
      if sc = .sys then s.dropKeyLines (clusterOf g.core) (s.context g.ctx).key else s
    | _, _ => s
  else s

/-- The sequencers a fence.sc visits, from its own cluster up to its scope (R288): clusters 0..127, dies 128..131, device 132, system 133. -/
def sequencers (core : Nat) : Scope → List Nat
  | .grp => []
  | .clu => [clusterOf core]
  | .die => [clusterOf core, 128 + dieOfCore core]
  | .dev => [clusterOf core, 128 + dieOfCore core, 132]
  | .sys => [clusterOf core, 128 + dieOfCore core, 132, 133]

/-- The item takes its place in SC (R288). -/
def State.sequence (s : State) (gid slot : Nat) (sc : Scope) : State :=
  match s.group? gid, s.item? gid slot with
  | some g, some it =>
    let (view, stamps) := (sequencers g.core sc).foldl
      (fun (v : Nat × Table Nat) q =>
        let x := max (Table.read 0 v.2 q) v.1
        (x, Table.write 0 v.2 q x)) (it.view, s.scStamps)
    { (s.modItem gid slot (fun it => { it with view := view })) with scStamps := stamps }
  | _, _ => s

/-- The effect of a fence at a scope once its waits are over (R296). -/
def State.fence (s : State) (gid slot : Nat) (acq rel sc : Bool) (scope : Scope) : State :=
  let s := if rel || sc then s.modItem gid slot (fun it => it.release scope) else s
  let s := if sc then s.sequence gid slot scope else s
  if acq || sc then s.acquireAt gid slot scope else s

end Sys2Proof.Machine
end

