-- ==== Sys2Proof/Machine/Fabric.lean ====
section
/-! DEFINITION. Fabric flits and packets (17 R369 to R376): the header with its check bits, the payload's CRC, the route table, sending
and handling what an isolated link held. -/

namespace Sys2Proof.Machine

/-! ### The flit (R370, R371) -/

/-- The header of a flit (R370). -/
structure Header where
  seq : Nat
  ack : Nat
  typ : Nat
  dst : Nat
  src : Nat
  ctx : Nat
  e2e : Nat
  vc : Nat
  nflit : Nat
  rsv : Nat
  deriving DecidableEq, Repr

/-- One step of the CRC-64 of R370 over a bit. -/
def crcBit (crc : W64) (b : Bool) : W64 :=
  if bit crc 63 ^^ b then (crc <<< 1) ^^^ 0x42F0E1EBA9EA3693#64 else crc <<< 1

/-- The CRC of a byte list, most significant bit of each byte first, initial value 0. -/
def crc64 (bs : List W8) : W64 :=
  bs.foldl (fun crc b => [7, 6, 5, 4, 3, 2, 1, 0].foldl (fun c j => crcBit c (b.getLsbD j)) crc) 0

/-- Is `p` a power of two, below 2^8? -/
def isPow2 (p : Nat) : Bool := [1, 2, 4, 8, 16, 32, 64, 128].contains p

/-- The positions of the 120 data bits: every integer from 3 upward that is no power of two, bit 0 lowest (R371). -/
def hammingPositions : List Nat := ((List.range 128).filter (fun p => decide (3 ≤ p) && !isPow2 p)).take 120

/-- HCHK of the data bits 119:0 (R371), as a number: the exclusive or of the positions of the bits that are 1. -/
def hammingCheck (data : BitVec 128) : Nat :=
  (hammingPositions.zip (List.range 120)).foldl (fun acc p => if data.getLsbD p.2 then acc ^^^ p.1 else acc) 0

/-- Bits 119:0 of a header. -/
def Header.data (h : Header) : Nat :=
  h.rsv % 2 ^ 34 + h.nflit % 32 * 2 ^ 34 + h.vc % 8 * 2 ^ 39 + h.e2e % 2 ^ 16 * 2 ^ 42 + h.ctx % 1024 * 2 ^ 58
    + h.src % 4096 * 2 ^ 68 + h.dst % 4096 * 2 ^ 80 + h.typ % 16 * 2 ^ 92 + h.ack % 4096 * 2 ^ 96 + h.seq % 4096 * 2 ^ 108

/-- Even parity over bits 126:0. -/
def parityOf (x : Nat) : Nat := countBits (BitVec.ofNat 127 x) 127 % 2

/-- The 128 bits of a header with HCHK and HPAR (R370, R371). -/
def Header.encode (h : Header) : Nat :=
  let low := h.data + hammingCheck (BitVec.ofNat 128 h.data) * 2 ^ 120
  low + parityOf low * 2 ^ 127

/-- The fields of 120 data bits. -/
def Header.fields (x : Nat) : Header :=
  { seq := x / 2 ^ 108 % 4096, ack := x / 2 ^ 96 % 4096, typ := x / 2 ^ 92 % 16, dst := x / 2 ^ 80 % 4096, src := x / 2 ^ 68 % 4096
    ctx := x / 2 ^ 58 % 1024, e2e := x / 2 ^ 42 % 2 ^ 16, vc := x / 2 ^ 39 % 8, nflit := x / 2 ^ 34 % 32, rsv := x % 2 ^ 34 }

/-- What the check of a received header gives (R371): good, corrected, or uncorrectable. -/
inductive HeaderCheck where
  | good (h : Header) | corrected (h : Header) | bad
  deriving DecidableEq, Repr

/-- The receiver's check of 16 header bytes (R371). A corrected check bit or parity bit leaves the data as it is. -/
def checkHeader (x : Nat) : HeaderCheck :=
  let data := x % 2 ^ 120
  let syndrome := hammingCheck (BitVec.ofNat 128 data) ^^^ (x / 2 ^ 120 % 128)
  let odd := (parityOf (x % 2 ^ 127) + x / 2 ^ 127) % 2 = 1
  if syndrome = 0 then (if odd then .corrected (Header.fields data) else .good (Header.fields data))
  else if odd then
    match (hammingPositions.zip (List.range 120)).find? (fun p => p.1 == syndrome) with
    | some p => .corrected (Header.fields (data ^^^ 2 ^ p.2))
    | none => .corrected (Header.fields data)
  else .bad

/-- What tells a fabric link's flits from Zhevport's: the bytes of payload, and the flits of the replay buffer (R370, R373, R380). -/
structure Wire where
  pay : Nat
  room : Nat
  deriving DecidableEq, Repr

def fibre : Wire := { pay := 232, room := 2048 }
def zhevWire : Wire := { pay := 104, room := 512 }

/-- The bytes of a flit: a header of 16, the payload and its CRC (R370, R380). -/
def Wire.flit (w : Wire) (h : Header) (payload : List W8) : List W8 :=
  let pay := (payload ++ List.replicate w.pay 0).take w.pay
  leBytes 16 h.encode ++ pay ++ leBytes 8 (crc64 pay).toNat

/-- The 256 bytes of a flit of a fabric link (R370). -/
def flitBytes (h : Header) (payload : List W8) : List W8 := fibre.flit h payload

/-- The header and the payload of a flit as it stands in a buffer. -/
def Flit.head (f : Flit) : Header := Header.fields (leNat (f.bytes.take 16) % 2 ^ 120)
def Flit.payload (f : Flit) : List W8 := (f.bytes.drop 16).take (f.bytes.length - 24)

/-! ### Sending (R369, R373, R376) -/

/-- A link that carries traffic (R375). -/
def Link.carries (l : Link) : Bool := l.state == .up || l.state == .degraded

def State.link (s : State) (l : Nat) : Link := Table.read Link.cold s.links l
def State.modLink (s : State) (l : Nat) (f : Link → Link) : State := { s with links := Table.put s.links l (f (s.link l)) }

/-- The links whose peer firmware knows to lead towards a device that is not their peer, among those in use (R369). -/
def State.detours (s : State) (dst : Nat) (used : Link → Bool) : List Nat :=
  (upTo 16).filter (fun l => used (s.link l) && (s.link l).peer != dst && (Table.read [] s.routes (s.link l).peer).contains l &&
    Config.leadsTo (s.link l).peer dst)

/-- A route towards a device: the first link of its route list that carries traffic, or one whose peer leads there; where none does, one that
trains and holds its flits until it is Up again (R369, R375). -/
def State.routeTo (s : State) (dst : Nat) : Option Nat :=
  let trains (l : Link) : Bool := l.state == .training
  let ls := Table.read [] s.routes dst
  ((ls.find? (fun l => (s.link l).carries)).or (s.detours dst Link.carries).head?).or
    ((ls.find? (fun l => trains (s.link l))).or (s.detours dst trains).head?)

/-- Is there any path to a device left (R131)? -/
def State.reachable (s : State) (dst : Nat) : Bool := decide (dst = s.dev.devid) || (s.routeTo dst).isSome

/-- A list cut into pieces of `n` elements; `fuel` bounds the number of pieces. -/
def piecesOf {α : Type} (n : Nat) : Nat → List α → List (List α)
  | 0, _ => []
  | f + 1, xs => if xs.isEmpty then [] else xs.take n :: piecesOf n f (xs.drop n)

/-- The flits of a packet: every flit carries the header, NFLIT counting down (R370). -/
def packetFlits (h : Header) (payload : List W8) : List (Header × List W8) :=
  let ps := piecesOf 232 32 (if payload.isEmpty then [0] else payload)
  (ps.zip (List.range ps.length)).map (fun p => ({ h with nflit := ps.length - 1 - p.2 }, p.1))

/-- A header with a link's numbers: SEQ, and in ACK the last flit received in order (R370, R373). -/
def Link.stamp (l : Link) (h : Header) (seq : Nat) : Header := { h with seq := seq, ack := (l.rxNext + 4095) % 4096 }

/-- One flit takes its number and stands in the replay buffer until an ACK covers it (R373). -/
def Link.number (w : Wire) (l : Link) (h : Header) (payload : List W8) : Link :=
  { l with
    replay := l.replay ++ [{ seq := l.txNext, bytes := w.flit (l.stamp h l.txNext) payload }]
    txNext := (l.txNext + 1) % 4096 }

/-- One flit is to be sent; while the replay buffer is full it waits (R373). -/
def Link.sendOn (w : Wire) (l : Link) (h : Header) (payload : List W8) : Link :=
  if l.backlog.isEmpty && decide (l.replay.length < w.room) then l.number w h payload
  else { l with backlog := l.backlog ++ [{ seq := 0, bytes := w.flit h payload }] }

def Link.sendFlit (l : Link) (h : Header) (payload : List W8) : Link := l.sendOn fibre h payload

/-- Flits that have waited enter the replay buffer while it has room (R373). -/
def Link.letIn (w : Wire) (l : Link) : List Flit → Link
  | [] => { l with backlog := [] }
  | f :: fs => if l.replay.length < w.room then (l.number w f.head f.payload).letIn w fs else { l with backlog := f :: fs }

/-- A flit of a TYPE that carries no packet. -/
def plainHeader (typ dst src : Nat) : Header :=
  { seq := 0, ack := 0, typ := typ, dst := dst, src := src, ctx := 0, e2e := 0, vc := 0, nflit := 0, rsv := 0 }

/-- The next flit that a transmitter puts on its line: the first of the replay buffer that is not on it yet, or an idle flit; each carries ACK.
A buffer that is full sends no new flit (R370, R373). -/
def Link.transmit (w : Wire) (l : Link) (dev : Nat) : Link :=
  let l := if l.replay.length ≤ l.sent ∧ l.replay.length < w.room then l.number w (plainHeader 0 l.peer dev) [] else l
  match l.replay[l.sent]? with
  | some f => { l with
      sent := l.sent + 1
      line := w.flit (l.stamp f.head f.seq) f.payload }
  | none => l

/-- TRANSMIT: a fabric link moves a flit; one in Training carries TRAIN flits only (R370, R375). -/
def State.transmit (s : State) (l : Nat) : State :=
  s.modLink l (fun k =>
    if k.carries || k.flushing then k.transmit fibre s.dev.devid
    else if k.state = .training then { k with line := flitBytes (k.stamp (plainHeader 8 k.peer s.dev.devid) k.txNext) [] }
    else k)

/-! ### What an acknowledgement covers (R373, R376) -/

/-- Flits that an acknowledgement covers leave the replay buffer; those of a packet that is not wholly acknowledged are kept, since R376 may have
to resend it whole. -/
def Link.acknowledge (w : Wire) (l : Link) (ack : Nat) : Link :=
  let n := (l.replay.findIdx (fun f => f.seq == ack)) + 1
  if l.replay.length < n then l
  else
    let covered := l.kept ++ l.replay.take n
    let opened := ((covered.reverse).takeWhile (fun f => f.head.nflit != 0)).length
    { l with
      replay := l.replay.drop n
      sent := l.sent - n
      kept := covered.drop (covered.length - opened) }.letIn w l.backlog

/-- A NAK is received: every flit after the one it names is resent, in order (R373). -/
def Link.resendAll (l : Link) : Link := { l with sent := 0 }

def Link.sendPacket (l : Link) (h : Header) (payload : List W8) : Link :=
  (packetFlits h payload).foldl (fun l p => l.sendFlit p.1 p.2) l

/-- Sends a packet of a TYPE to a context of another device; false when no route stands and it is dropped, which counts at the link that last led
there (R376). -/
def State.sendPacket (s : State) (typ dst ctx : Nat) (c : Config.PacketContent) : State × Bool :=
  let n := Table.read 0 s.e2eSent dst
  let h : Header := { seq := 0, ack := 0, typ := typ, dst := dst, src := s.dev.devid, ctx := ctx, e2e := n, vc := 0, nflit := 0, rsv := 0 }
  match s.routeTo dst with
  | none =>
    ((match Table.get? s.lastRoute dst with
      | some l => s.modLink l (fun k => { k with dropped := k.dropped + 1 })
      | none => s), false)
  | some l =>
    ({ (s.modLink l (fun k => k.sendPacket h (Config.packetPayload c))) with
       e2eSent := Table.put s.e2eSent dst ((n + 1) % 65536)
       lastRoute := Table.put s.lastRoute dst l }, true)

/-- A gang message (R130): kind as in `Config.PacketContent.gang`. One that finds no route is lost (R376). -/
def State.sendGang (s : State) (kind n rank dst ctx : Nat) : State := (s.sendPacket 6 dst ctx (.gang kind n rank)).1

end Sys2Proof.Machine
end

