-- ==== Sys2Proof/Machine/Shake.lean ====
section
/-! DEFINITION. SHAKE256 of FIPS 202, which SDIG (18 R399), the image checks (04 R95) and the measurements (22 R460 to R462) use. -/

namespace Sys2Proof.Machine

/-- The round constants of Keccak-f[1600]. -/
def keccakRounds : List W64 :=
  [0x0000000000000001, 0x0000000000008082, 0x800000000000808A, 0x8000000080008000, 0x000000000000808B, 0x0000000080000001,
   0x8000000080008081, 0x8000000000008009, 0x000000000000008A, 0x0000000000000088, 0x0000000080008009, 0x000000008000000A] ++
  [0x000000008000808B, 0x800000000000008B, 0x8000000000008089, 0x8000000000008003, 0x8000000000008002, 0x8000000000000080,
   0x000000000000800A, 0x800000008000000A, 0x8000000080008081, 0x8000000000008080, 0x0000000080000001, 0x8000000080008008]

/-- The rotation of lane x + 5y. -/
def keccakRot : List Nat :=
  [0, 1, 62, 28, 27, 36, 44, 6, 55, 20, 3, 10, 43, 25, 39, 41, 45, 15, 21, 8, 18, 2, 61, 56, 14]

/-- Lane `i` of a state of 25 lanes. -/
def lane (a : List W64) (i : Nat) : W64 := a.getD i 0

/-- One round. -/
def keccakRound (a : List W64) (rc : W64) : List W64 :=
  let c := (upTo 5).map (fun x => lane a x ^^^ lane a (x + 5) ^^^ lane a (x + 10) ^^^ lane a (x + 15) ^^^ lane a (x + 20))
  let d := (upTo 5).map (fun x => lane c ((x + 4) % 5) ^^^ (lane c ((x + 1) % 5)).rotateLeft 1)
  let t := (upTo 25).map (fun i => lane a i ^^^ lane d (i % 5))
  -- lane (x, y) of the result of rho and pi comes from lane (x + 3y, x)
  let b := (upTo 25).map (fun i =>
    let x := i % 5
    let y := i / 5
    let j := (x + 3 * y) % 5 + 5 * x
    (lane t j).rotateLeft (keccakRot.getD j 0))
  let e := (upTo 25).map (fun i =>
    let x := i % 5
    let y := i / 5
    lane b i ^^^ (~~~(lane b ((x + 1) % 5 + 5 * y)) &&& lane b ((x + 2) % 5 + 5 * y)))
  e.set 0 (lane e 0 ^^^ rc)

/-- The permutation. -/
def keccak (a : List W64) : List W64 := keccakRounds.foldl keccakRound a

/-- The lanes of a block of bytes, little-endian. -/
def lanesOf : Nat → List W8 → List W64
  | 0, _ => []
  | n + 1, bs => BitVec.ofNat 64 (leNat (bs.take 8)) :: lanesOf n (bs.drop 8)

/-- Absorbs blocks of 136 bytes. -/
def absorb : Nat → List W64 → List W8 → List W64
  | 0, a, _ => a
  | n + 1, a, bs =>
    let w := lanesOf 17 (bs.take 136)
    absorb n (keccak ((upTo 25).map (fun i => lane a i ^^^ lane w i))) (bs.drop 136)

/-- Squeezes `n` bytes, at most one block's worth (136). -/
def squeeze (n : Nat) (a : List W64) : List W8 := (a.flatMap (fun w => leBytes 8 w.toNat)).take n

/-- The padding of SHAKE256: 0x1F, zeros, and the last bit of the block. -/
def shakePad (bs : List W8) : List W8 :=
  let k := 136 - bs.length % 136
  if k = 1 then bs ++ [0x9F] else bs ++ [0x1F] ++ List.replicate (k - 2) 0 ++ [0x80]

/-- The first `n` bytes (at most 136) of SHAKE256 over a byte list. -/
def shake256 (n : Nat) (bs : List W8) : List W8 :=
  let p := shakePad bs
  squeeze n (absorb (p.length / 136) (List.replicate 25 0) p)

end Sys2Proof.Machine
end

