-- ==== Sys2Proof/Machine/Hind.lean ====
section
/-! DEFINITION. Hindcast recorders (18 R392 to R403): entries, parties and ordinals, the conflict table, logged values, chunks. -/

namespace Sys2Proof.Machine

/-! ### Recorders and entries -/

/-- The recorders of R394 by number: clusters 0..127, slice groups 128..159, fabric links 160..175, CXL ports 176..179, firmware 180. -/
def recSlice (group : Nat) : Nat := 128 + group
def recLink (l : Nat) : Nat := 160 + l
def recPort (p : Nat) : Nat := 176 + p
def recFirmware : Nat := 180

/-- KIND and SOURCE of a recorder's chunk (R399). -/
def recKind (r : Nat) : Nat := if r < 128 then 0 else if r < 160 then 1 else if r < 176 then 2 else if r < 180 then 3 else 4
def recSource (r : Nat) : Nat :=
  if r < 128 then r else if r < 160 then r - 128 else if r < 176 then r - 160 else if r < 180 then r - 176 else 0

/-- A recorder with an open chunk and nothing logged. -/
def Recorder.fresh : Recorder :=
  { entries := [], ret := Vector.replicate 8 0, localNo := 0, store := [], table := [], ordinals := [], used := 0, lost := false, cuts := [] }

/-- A byte list with `data` in place of its bytes from `off` on. -/
def overlay (bs : List W8) (off : Nat) (data : List W8) : List W8 := bs.take off ++ data ++ bs.drop (off + data.length)

/-- A record of `size` zero bytes with little-endian fields: offset, bytes, value. -/
def recordOf (size : Nat) (fields : List (Nat × Nat × Nat)) : List W8 :=
  fields.foldl (fun bs f => overlay bs f.1 (leBytes f.2.1 f.2.2)) (List.replicate size 0)

/-- A 32-byte entry (R401). -/
def entryOf (typ : Nat) (fields : List (Nat × Nat × Nat)) : HcEntry := recordOf 32 ((0, 1, typ) :: fields)

/-- A party (R395). -/
def partyOf (pkind kseq stage ix : Nat) : W64 :=
  BitVec.ofNat 64 (pkind * 2 ^ 60 + kseq % 512 * 2 ^ 51 + stage % 8 * 2 ^ 48 + ix % 2 ^ 48)

/-- The party of an item. -/
def itemParty (k : Kernel) (g : Group) (it : Item) : W64 := partyOf 0 k.kseq g.stage it.itemix.toNat

/-! ### The Hindcast state of a context -/

def State.hind (s : State) (ctx : Nat) : Hindcast := (s.context ctx).hind

def State.modHind (s : State) (ctx : Nat) (f : Hindcast → Hindcast) : State := s.modContext ctx (fun c => { c with hind := f c.hind })

def Hindcast.recorder (h : Hindcast) (r : Nat) : Recorder := Table.read Recorder.fresh h.recorders r

def Hindcast.modRecorder (h : Hindcast) (r : Nat) (f : Recorder → Recorder) : Hindcast :=
  { h with recorders := Table.put h.recorders r (f (h.recorder r)) }

/-- Is the context being replayed (R403, R408)? -/
def Hindcast.replaying (h : Hindcast) : Bool := h.mode == .replay || h.mode == .verify

/-- Units of HCBUD a recorder has charged in the period: one per two entries, rounded up (R402). -/
def Recorder.units (r : Recorder) : Nat := (r.used + 1) / 2

/-- STAGE, then ITEMIX, of a store record (R400). -/
def storeKey (b : List W8) : Nat := (b.headD 0).toNat * 2 ^ 48 + leNat ((b.drop 1).take 6)

/-- A store record takes its place in the stream, after those of the same item (R400). -/
def insertStore (x : List W8) : List (List W8) → List (List W8)
  | [] => [x]
  | y :: ys => if storeKey y ≤ storeKey x then y :: insertStore x ys else x :: y :: ys

/-- A chunk closes: its record is built, with the cut of a cluster chunk over the items `present`, and a new chunk opens (R397 to R400).
`flags` as R399. -/
def Hindcast.close (h : Hindcast) (present : List W64) (r flags : Nat) : Hindcast :=
  let k := h.recorder r
  let cluster := decide (r < 128)
  let cut := if cluster then present.map (fun p => entryOf 0x0C [(4, 4, Table.read 0 k.cuts p.toNat), (8, 8, p.toNat)]) else []
  let stream := (k.store.foldl (fun acc x => insertStore x acc) []).flatten
  let record : ChunkRecord :=
    { seq := 0, kind := recKind r, flags := flags + (if k.lost ∧ flags / 32 % 2 = 0 then 32 else 0), source := recSource r
      localNo := k.localNo, ret := if cluster then k.ret.toList else List.replicate 8 0
      sdig := if cluster then shake256 32 stream else List.replicate 32 0, entries := k.entries ++ cut }
  { h.modRecorder r (fun k => { k with
      entries := []
      ret := Vector.replicate 8 0
      localNo := k.localNo + 1
      store := []
      lost := false
      cuts := [] }) with
    closing := h.closing ++ [record]
    lossy := h.lossyNext }

/-- One entry is logged and charged (R402). In lossy mode a recorder past its budget closes its chunk with GAP and logs nothing. -/
def Hindcast.append (h : Hindcast) (present : List W64) (budget r : Nat) (e : HcEntry) : Hindcast :=
  let k := h.recorder r
  if h.lossy && decide (2 * budget ≤ k.used) then
    if k.entries.isEmpty && k.lost then h
    else
      let h := (h.modRecorder r (fun k => { k with entries := k.entries ++ [entryOf 0x0D []] })).close present r 32
      { (h.modRecorder r (fun k => { k with lost := true })) with gap := true, gaps := h.gaps + 1 }
  else
    h.modRecorder r (fun k => { k with
      entries := k.entries ++ [e]
      used := k.used + 1 })

/-- The parties of the items of a context that are present on a cluster (R400). -/
def State.presentOn (s : State) (ctx cluster : Nat) : List W64 :=
  s.groups.flatMap (fun p =>
    if p.2.ctx = ctx ∧ clusterOf p.2.core = cluster then
      match s.kernel? p.2.kh with
      | some k => p.2.items.map (fun q => itemParty k p.2 q.2)
      | none => []
    else [])

/-- A recorder's chunk closes. -/
def State.closeChunk (s : State) (ctx r flags : Nat) : State := s.modHind ctx (fun h => h.close (s.presentOn ctx r) r flags)

/-- Logs an entry at a recorder while the context records: from the first Start or Resume after Record on (R389). -/
def State.logEntry (s : State) (ctx r : Nat) (e : HcEntry) : State :=
  if (s.hind ctx).mode = .record ∧ (s.hind ctx).armed = false then s.modHind ctx (fun h => h.append (s.presentOn ctx r) (s.context ctx).hcBud r e) else s

/-! ### The log under replay -/

/-- Among the entries of the log stand marks of the model's own: TYPE 0xFF ends a cluster chunk and holds its header, TYPE 0xFE ends a
segment (R395, R407). -/
def markOf (c : ChunkRecord) : HcEntry :=
  leBytes 1 0xFF ++ leBytes 1 c.flags ++ leBytes 2 c.source ++ leBytes 4 c.localNo ++ leBytes 8 c.seq ++ c.ret.flatMap (leBytes 8) ++ c.sdig
def isMark (e : HcEntry) : Bool := leAt e 0 1 == 0xFF
def isSegmentEnd (e : HcEntry) : Bool := leAt e 0 1 == 0xFE

/-- What a recorder's log holds of the present segment, and of the present chunk. -/
def Hindcast.segment (h : Hindcast) (r : Nat) : List HcEntry := (Table.read [] h.log r).takeWhile (fun e => !isSegmentEnd e)
def Hindcast.chunk (h : Hindcast) (r : Nat) : List HcEntry := (h.segment r).takeWhile (fun e => !isMark e)

/-- A logged entry has been used. -/
def State.useLogged (s : State) (ctx r : Nat) (q : HcEntry → Bool) : State :=
  s.modHind ctx (fun h =>
    let log := Table.read [] h.log r
    match log.find? q with
    | some e => { h with log := Table.put h.log r (log.erase e) }
    | none => h)

/-- Is an item of a replayed context at the end of its cluster's chunk, where it waits for the chunk to close (R403, R405)? -/
def State.atCut (s : State) (ctx core : Nat) (party : W64) : Bool :=
  let h := s.hind ctx
  h.replaying &&
    (let r := clusterOf core
     !(h.segment r).any isMark ||
      (h.chunk r).any (fun e => leAt e 0 1 == 0x0C && leAt e 8 8 == party.toNat &&
        decide (leAt e 4 4 ≤ Table.read 0 (h.recorder r).cuts party.toNat)))

/-- The replay ends with a RESULT; the groups stop, and firmware suspends the context into the command's area (R405), unless a Suspend of
it is under way already. -/
def State.endReplay (s : State) (ctx result : Nat) : State :=
  if (s.hind ctx).replaying then
    let h := s.hind ctx
    let s := s.modHind ctx (fun h => { h with
      mode := .off
      result := result
      log := [] })
    if s.pending.any (fun p => p.2.kind == 0 && p.2.ctx == ctx) then s
    else { s.setQueues ctx .opened .idle with
      pending := Table.put s.pending s.nextId
        { kind := 0, ctx := ctx, asker := .firmware, area := BitVec.ofNat 64 h.area, size := h.areaSize, via := 0 }
      groups := s.groups.mapAll (fun _ g => if g.ctx = ctx then { g with stopAsked := true } else g)
      nextId := s.nextId + 1 }
  else s

/-! ### Accesses -/

/-- Is a party a command, whose accesses are named by tag and ordinal (R395)? -/
def isCommandParty (party : Nat) : Bool := party / 2 ^ 60 == 1 || party / 2 ^ 60 == 2

/-- The number under which a recorder notes a served access of a command. -/
def commandKey (party tag ordinal : Nat) : Nat := party + 2 ^ 64 * tag + 2 ^ 80 * (ordinal + 1)

/-- A party's next ordinal at a recorder (R395). -/
def Recorder.ordinal (r : Recorder) (party : W64) : Nat := (Table.read 0 r.ordinals party.toNat + 1) % 2 ^ 32

/-- An access has been served. -/
def Recorder.step (r : Recorder) (me : Party) : Recorder :=
  if isCommandParty me.party.toNat then
    { r with ordinals := Table.put r.ordinals (commandKey me.party.toNat me.tag.toNat me.ordinal) 1 }
  else { r with ordinals := Table.put r.ordinals me.party.toNat me.ordinal }

/-- ORDER of two accesses, and ORDER with FOLLOW (R396, R401). -/
def orderEntry (later earlier : Party) : HcEntry :=
  entryOf 0x01 [(4, 4, later.ordinal), (8, 8, later.party.toNat), (16, 8, earlier.party.toNat), (24, 4, earlier.ordinal),
    (28, 2, later.tag.toNat), (30, 2, earlier.tag.toNat)]
def followEntry (p : Party) : HcEntry :=
  entryOf 0x01 [(1, 1, 1), (4, 4, p.ordinal), (8, 8, p.party.toNat), (28, 2, p.tag.toNat)]
def evictEntry (granule : Nat) (p : Party) : HcEntry :=
  entryOf 0x02 [(4, 4, p.ordinal), (8, 8, p.party.toNat), (16, 8, 16 * granule), (28, 2, p.tag.toNat)]

/-- The entries an access adds, and the granule's new record (R396). -/
def Conflict.access (c : Conflict) (granule : Nat) (me : Party) (write : Bool) : List HcEntry × Conflict :=
  let earlier := (match c.lastWrite with | some w => [w] | none => []) ++ (if write then c.reads else [])
  let orders := (earlier.filter (fun p => p.party != me.party)).map (orderEntry me)
  if write then (orders, { lastWrite := some me, reads := [] })
  else if 8 ≤ c.reads.length then
    (orders ++ (c.reads.take 1).map (evictEntry granule), { c with reads := c.reads.drop 1 ++ [me] })
  else (orders, { c with reads := c.reads ++ [me] })

/-- An access to a granule is served at a recorder: it is counted, and while the context records the conflict table and the log take it
(R395, R396). -/
def State.recordAs (s : State) (ctx r granule : Nat) (me : Party) (write : Bool) : State :=
  let h := s.hind ctx
  if h.mode = .off then s
  else
    let k := h.recorder r
    let s := s.modHind ctx (fun h => h.modRecorder r (fun k => k.step me))
    if h.mode = .record then
      let (logged, table) :=
        match Table.get? k.table granule with
        | none =>
          let t := Table.put k.table granule (if write then { lastWrite := some me, reads := [] } else { lastWrite := none, reads := [me] })
          match t with
          | (g0, c0) :: rest =>
            if 16384 < t.length then
              ([followEntry me] ++ ((match c0.lastWrite with | some w => [w] | none => []) ++ c0.reads).map (evictEntry g0), rest)
            else ([followEntry me], t)
          | [] => ([followEntry me], t)
        | some c => let (es, c) := c.access granule me write; (es, Table.put k.table granule c)
      let s := logged.foldl (fun s e => s.logEntry ctx r e) s
      s.modHind ctx (fun h => h.modRecorder r (fun k => { k with table := table }))
    else s

/-- An access of a party that counts its accesses. -/
def State.recordAccess (s : State) (ctx r granule : Nat) (party : W64) (tag : W16) (write : Bool) : State :=
  s.recordAs ctx r granule { party := party, ordinal := ((s.hind ctx).recorder r).ordinal party, tag := tag } write

/-- Has an access been served in the replay (R403)? -/
def Recorder.served (r : Recorder) (party tag ordinal : Nat) : Bool :=
  if isCommandParty party then (Table.get? r.ordinals (commandKey party tag ordinal)).isSome
  else decide (ordinal ≤ Table.read 0 r.ordinals party)

/-- May an access be served at a recorder now? Under replay it waits for its logged predecessors; an access with FOLLOW waits for every
access that an EVICT entry before it names (R396, R403). -/
def State.mayServeAs (s : State) (ctx r : Nat) (me : Party) : Bool :=
  let h := s.hind ctx
  if h.replaying then
    let k := h.recorder r
    let log := h.segment r
    let mine (e : HcEntry) : Bool :=
      leAt e 0 1 == 1 && leAt e 4 4 == me.ordinal && leAt e 8 8 == me.party.toNat && leAt e 28 2 == me.tag.toNat
    let ordered := (log.filter mine).all (fun e => leAt e 1 1 == 1 || k.served (leAt e 16 8) (leAt e 30 2) (leAt e 24 4))
    let before := log.takeWhile (fun e => !mine e)
    let follows := (log.filter mine).any (fun e => leAt e 1 1 == 1)
    ordered && (!follows || (before.filter (fun e => leAt e 0 1 == 2)).all (fun e => k.served (leAt e 8 8) (leAt e 28 2) (leAt e 4 4)))
  else true

/-- May a party's next access at a recorder be served now? -/
def State.mayServe (s : State) (ctx r : Nat) (party : W64) : Bool :=
  s.mayServeAs ctx r { party := party, ordinal := ((s.hind ctx).recorder r).ordinal party, tag := 0 }

/-- May the next `n` accesses of a party at a recorder be served now? -/
def State.mayServeSpan (s : State) (ctx r : Nat) (party : W64) (n : Nat) : Bool :=
  let first := ((s.hind ctx).recorder r).ordinal party
  !(s.hind ctx).replaying || (upTo n).all (fun j => s.mayServeAs ctx r { party := party, ordinal := (first + j) % 2 ^ 32, tag := 0 })

/-! ### Values -/

/-- A VALUE entry (R401). -/
def valueEntry (src ordinal : Nat) (party value detail : W64) : HcEntry :=
  entryOf 0x03 [(1, 1, src), (4, 4, ordinal), (8, 8, party.toNat), (16, 8, value.toNat), (24, 8, detail.toNat)]

/-- Under replay, the party's next VALUE entry at a recorder. -/
def State.nextValue (s : State) (ctx r : Nat) (party : W64) : Option HcEntry :=
  let h := s.hind ctx
  if h.replaying then (Table.read [] h.log r).find? (fun e => leAt e 0 1 == 3 && leAt e 8 8 == party.toNat) else none

/-- A value that Hindcast logs: recorded as it is; under replay the logged value of the party's next VALUE entry takes its place, and a
party or source that does not match is a divergence (R403, R405). Log 10 says how a missing entry is treated. -/
def State.loggedValue (s : State) (ctx r src : Nat) (party value detail : W64) : W64 × State :=
  let h := s.hind ctx
  match h.mode with
  | .off => (value, s)
  | .record => (value, s.logEntry ctx r (valueEntry src ((h.recorder r).ordinal party) party value detail))
  | _ =>
    let log := Table.read [] h.log r
    let mine (e : HcEntry) : Bool := leAt e 0 1 == 3 && leAt e 8 8 == party.toNat
    match log.find? mine with
    | some e =>
      if leAt e 1 1 = src then
        (BitVec.ofNat 64 (leAt e 16 8), s.modHind ctx (fun h => { h with log := Table.put h.log r (log.erase e) }))
      else (value, s.endReplay ctx 4)
    | none => (value, s.endReplay ctx 4)

/-- The value an item reads is logged at its cluster's recorder (R394). -/
def State.loggedItemValue (s : State) (gid slot src : Nat) (value detail : W64) : W64 × State :=
  match s.group? gid with
  | none => (value, s)
  | some g =>
    match Table.get? g.items slot, s.kernel? g.kh with
    | some it, some k => s.loggedValue g.ctx (clusterOf g.core) src (itemParty k g it) value detail
    | _, _ => (value, s)

/-- One item-instruction is counted in its cluster's open chunk and in the item's cut (R397, R400). -/
def State.countInstruction (s : State) (ctx core : Nat) (party : W64) : State :=
  if (s.hind ctx).mode = .off then s
  else
    s.modHind ctx (fun h => h.modRecorder (clusterOf core) (fun k => { k with
      ret := k.ret.set (core % 8) (k.ret[core % 8] + 1)
      cuts := Table.put k.cuts party.toNat (Table.read 0 k.cuts party.toNat + 1) }))

/-- A store record joins the store stream of the item's cluster (R400). -/
def State.logStore (s : State) (ctx core stage ix va : Nat) (data : List W8) : State :=
  if (s.hind ctx).mode = .off then s
  else
    s.modHind ctx (fun h => h.modRecorder (clusterOf core) (fun k => { k with
      store := k.store ++ [leBytes 1 stage ++ leBytes 6 ix ++ leBytes 1 data.length ++ leBytes 8 va ++ data] }))

/-- The item-instructions a party has executed in its cluster's open chunk. -/
def State.chunkCount (s : State) (ctx core : Nat) (party : W64) : Nat :=
  Table.read 0 ((s.hind ctx).recorder (clusterOf core)).cuts party.toNat

/-- The log's trap point of a cause for a party at the instruction it stands at (R403). -/
def State.loggedTrap (s : State) (ctx core cause : Nat) (party : W64) : Option HcEntry :=
  let h := s.hind ctx
  if h.replaying then
    (h.chunk (clusterOf core)).find? (fun e => leAt e 0 1 == 7 && leAt e 1 1 == cause && leAt e 8 8 == party.toNat &&
      leAt e 4 4 == s.chunkCount ctx core party)
  else none

def State.trapLogged (s : State) (ctx core cause : Nat) (party : W64) : Bool := (s.loggedTrap ctx core cause party).isSome

/-- A trap point of an item (R394, R415): TRAP with the item's instruction count in the chunk, and beyond the entry's 32 bytes `detail`, the
model's own, TRAPADDR and TRAPINFO (log 44). Under replay the log's entry is used, and a POISON that it does not hold is a divergence (R405). -/
def State.logTrap (s : State) (ctx core cause : Nat) (party : W64) (detail : List W8) : State :=
  if (s.hind ctx).replaying then
    if s.trapLogged ctx core cause party then
      s.useLogged ctx (clusterOf core) (fun e => leAt e 0 1 == 7 && leAt e 1 1 == cause && leAt e 8 8 == party.toNat)
    else if cause = 7 then s.endReplay ctx 4
    else s
  else s.logEntry ctx (clusterOf core) (entryOf 0x07 [(1, 1, cause), (4, 4, s.chunkCount ctx core party), (8, 8, party.toNat)] ++ detail)

/-- Does a recorder's exhausted budget stall what it would log (R402, complete mode), or the ring (R398, R406)? -/
def State.recorderStalls (s : State) (ctx r : Nat) : Bool :=
  let h := s.hind ctx
  h.mode == .record && !h.lossy && (decide ((s.context ctx).hcBud ≤ (h.recorder r).units) || !h.closing.isEmpty)

end Sys2Proof.Machine
end

