-- ==== Sys2Proof/Machine/Ends.lean ====
section
/-! DEFINITION. How things end: error records (19 R419), the ends of groups, kernels and gangs (06 R123 to R134), a context's Fault
(04 R90), and the checkpoint, rollback and kill of guarded groups (19 R427 to R431). -/

namespace Sys2Proof.Machine

/-! ### Error records -/

/-- A record is appended, or dropped and counted in LOST when its queue is full (R419). -/
def ErrorQueue.append (q : ErrorQueue) (slots : Nat) (record : List W8) : ErrorQueue :=
  if slots ≤ q.tail - q.head then { q with lost := q.lost + 1 }
  else
    { q with
      tail := q.tail + 1
      records := Table.put q.records (q.tail % slots) record }

/-- The fields of an error record (R419). -/
structure ErrorRecord where
  cls : Nat
  cause : Nat
  ctx : Nat
  tag : W32
  who : Nat
  loc : Nat
  info : Nat
  source : Nat

def ErrorRecord.bytes (r : ErrorRecord) : List W8 :=
  recordOf 32 [(0, 1, r.cls), (1, 1, r.cause), (2, 2, r.ctx), (4, 4, r.tag.toNat), (8, 8, r.who), (16, 8, r.loc), (24, 4, r.info),
    (28, 2, r.source)]

def State.contextError (s : State) (r : ErrorRecord) : State :=
  s.modContext r.ctx (fun c => { c with errors := c.errors.append 64 r.bytes })

/-- A device record of CLASS 5 (R419, R420): array or error code, address, INFO, base die and unit code. -/
def State.deviceError (s : State) (cause loc info die unit : Nat) : State :=
  let r : ErrorRecord :=
    { cls := 5, cause := cause, ctx := 0, tag := 0, who := 0, loc := loc, info := info, source := die % 4 + 4 * unit }
  { s with devErrors := s.devErrors.append 256 r.bytes }

/-- WHO of a record: ITEMIX and STAGE. -/
def whoOf (it : Item) (stage : Nat) : Nat := it.itemix.toNat + stage * 2 ^ 48

/-! ### Groups and kernels -/

/-- The chunks of a command (R330, R332). -/
def Command.chunks (c : Command) : Nat :=
  if c.gather then (c.indices.length + 31) / 32 else (16 * (field c.w1 31 21 + 1) + 4095) / 4096

/-- Is a command under way: has a chunk of it been performed, or does one wait on a fault or on another device? -/
def Command.begun (c : Command) : Bool :=
  decide (c.left.length < c.chunks) || !c.faulted.isEmpty || !c.away.isEmpty || !c.held.isEmpty

/-- A group is gone: its waiting items leave the monitor tables, its loads and its queued engine commands are dropped; commands that are under
way go on (R124, R127, 15 R351). Its seat, slots and tiles are free, with such commands once these have ended. -/
def State.dropGroup (s : State) (gid : Nat) : State :=
  let goOn := s.commands.any (fun p => p.2.gid == gid && p.2.begun)
  { s with
    groups := Table.erase s.groups gid
    killed := match goOn, s.group? gid with
      | true, some g => (match s.kernel? g.kh with | some k => Table.put s.killed gid ({ g with items := [] }, k) | none => s.killed)
      | _, _ => s.killed
    monitors := s.monitors.filter (fun p => p.2.gid != gid)
    commands := s.commands.filter (fun p => p.2.gid != gid || p.2.begun)
    accesses := s.accesses.filter (fun p => p.2.gid != gid ||
      (match p.2.kind with | .load => false | .uniform => false | _ => true)) }

def State.killGroups (s : State) (q : Group → Bool) : State :=
  (s.groups.keysOf (fun _ g => q g)).foldl (fun s gid => s.dropGroup gid) s

/-- A save of the context is in progress (R91). -/
def State.saving (s : State) (ctx : Nat) : Bool := s.pending.any (fun p => p.2.kind == 0 && p.2.ctx == ctx)

/-- A Suspend or a Resume of the context is in progress; other commands of the context, but Kill, wait for it (R91). -/
def State.commandOpen (s : State) (ctx : Nat) : Bool := s.pending.any (fun p => (p.2.kind == 0 || p.2.kind == 1) && p.2.ctx == ctx)

/-- Fault of a context (R90, R91): Active becomes Faulted and its queues stop binding; a save in progress completes first. -/
def State.contextFault (s : State) (ctx : Nat) : State :=
  if (s.context ctx).state = .active ∧ s.saving ctx = false then
    (s.modContext ctx (fun c => { c with state := .faulted })).setQueues ctx .opened .idle
  else s

/-- The peer of a rank in a context's peer set (R129). -/
def State.peer? (s : State) (ctx rank : Nat) : Option (Nat × Nat) := (s.context ctx).peers[rank]?

/-- The rank of this device in a context's peer set (R129). -/
def State.myRank (s : State) (ctx : Nat) : Option Nat :=
  let i := (s.context ctx).peers.findIdx (fun p => p == (s.dev.devid, ctx))
  if i < (s.context ctx).peers.length then some i else none

/-- A gang message to the peer of a rank (R130). Under replay it is discarded (18 R403). -/
def State.tellRank (s : State) (ctx rank kind n : Nat) : State :=
  if (s.hind ctx).replaying then s
  else
  match s.peer? ctx rank with
  | some p => s.sendGang kind n ((s.myRank ctx).getD 0) p.1 p.2
  | none => s

/-- Is a kernel ended, its end still being performed (R124)? -/
def KernelState.ended : KernelState → Bool
  | .complete => true
  | .aborted => true
  | .faulted => true
  | _ => false

/-- An entry of a kernel that ends: not valid, and its gang lives no more. -/
def BindEntry.dead (b : BindEntry) : BindEntry :=
  { b with
    valid := false
    gangix := 2 ^ 32 }

/-- Firmware keeps the numbers of the 1024 gangs of a context that it has most recently ended by abort (R130). -/
def State.keepAborted (s : State) (ctx n : Nat) : State :=
  s.modContext ctx (fun c => { c with abortedGangs := (n :: c.abortedGangs.erase n).take 1024 })

/-- The end of R124, up to the wait for the kernel's engine commands: groups are killed, landings, restores and bind entries of the
kernel are gone, collectives that no longer can join are dropped, and the update of R107 waits (the KH becomes free with it). -/
def State.performEnd (s : State) (kh : Nat) (st : KernelState) : State :=
  match s.kernel? kh with
  | none => s
  | some k =>
    if k.state.ended then s
    else
      let s := (s.killGroups (fun g => g.kh == kh)).modKernel kh (fun k => { k with state := st })
      { s with
        packages := s.packages.filter (fun p => p.2.kh != kh)
        l1 := s.l1.mapAll (fun _ t => t.filter (fun p => p.2.state != .uniform || p.2.kernel != kh))
        restores := s.restores.filter (fun p => p.2.1 != kh)
        joins := s.joins.filter (fun p => p.2.kh != kh)
        orphans := s.orphans.filter (fun p => p.2.kh != kh)
        bindTable := s.bindTable.mapAll (fun _ b => if b.kh = kh then b.dead else b)
        updates := Table.put s.updates s.nextId
          { ctx := k.ctx, crec := if k.gangN ≠ 0 ∧ k.rank ≠ 0 then 0 else k.crec, failed := decide (st ≠ .complete), queue := k.queue
            kh := some kh, waits := [], kseq := k.kseq }
        nextId := s.nextId + 1 }

/-- R133: the kernel is aborted, and its context's error queue takes a GANGABORT record; firmware keeps the gang's number (R130). -/
def State.gangAborted (s : State) (kh : Nat) : State :=
  match s.kernel? kh with
  | none => s
  | some k =>
    if k.state.ended then s
    else
      let s := (s.performEnd kh .aborted).contextError
        { cls := 1, cause := causeGangAbort, ctx := k.ctx, tag := k.tag, who := 0, loc := 0, info := 0, source := 0 }
      let s := s.keepAborted k.ctx k.gangN
      if k.gangN ≠ 0 ∧ k.rank ≠ 0 then s.tellRank k.ctx 0 5 k.gangN else s

/-- The coordinator aborts gang `n`: ABORT to every member, and R133 for its own instance (R131). -/
def State.abortGang (s : State) (n : Nat) : State :=
  match Table.get? s.gangs n with
  | none => s
  | some g =>
    let s := (upTo g.devs).foldl (fun s r => if r = 0 then s else s.tellRank g.ctx r 4 n) s
    let s := { s with gangs := Table.erase s.gangs n }
    (s.keepAborted g.ctx n).gangAborted g.kh

/-- A kernel is Faulted: the end of R124, Fault to the context, and what its gang does (R123, R131, R133). -/
def State.kernelFaulted (s : State) (kh : Nat) : State :=
  match s.kernel? kh with
  | none => s
  | some k =>
    if k.state.ended then s
    else
      let s := (s.performEnd kh .faulted).contextFault k.ctx
      if k.gangN = 0 then s
      else if k.rank = 0 then s.abortGang k.gangN
      else s.tellRank k.ctx 0 5 k.gangN

/-- The kernel's Fault by a trap that finds no handler (R418): the record of CLASS 0, then the end. -/
def State.trapFault (s : State) (g : Group) (it : Item) (t : Trap) : State :=
  match s.kernel? g.kh with
  | none => s
  | some k =>
    (s.contextError { cls := 0, cause := t.cause + (if it.inHandler then 128 else 0), ctx := g.ctx, tag := k.tag, who := whoOf it g.stage
                      loc := it.pc.toNat, info := t.info.toNat, source := 0 }).kernelFaulted g.kh

/-- A kernel charged with an uncontained error (R424): a record of CLASS 3, then Fault. -/
def State.chargeError (s : State) (kh : Nat) (who : Nat) (cause : Nat) : State :=
  match s.kernel? kh with
  | none => s
  | some k =>
    (s.contextError { cls := 3, cause := cause, ctx := k.ctx, tag := k.tag, who := who, loc := 0, info := 0, source := 0 }).kernelFaulted kh

/-! ### Guarded groups -/

/-- The checkpoint state of a group as it stands (R427). -/
def Guarded.take (g : Group) : Guarded :=
  { items := g.items, s := g.s, scratch := g.scratch, full := g.full, spadPoison := g.spadPoison, barriers := g.barriers
    arrivals := 0, undoWords := [], undoGranules := [], release := [], retries := 0, unrec := false }

/-- A store from a cluster updates the bytes of its copy at once (R259, R281); a copy under another key is evicted (R253). -/
def State.updateCopy (s : State) (cluster pa key : Nat) (bs : List W8) : State :=
  s.modL1 cluster (fun t =>
    let held : Table L1Line := t.filter (fun p => p.1 != lineOf pa || p.2.key == key)
    Table.modify held (lineOf pa) (fun l => { l with data := overlay l.data (pa % 128) bs }))

/-- A held store is sent (R427, R429): from here on it is an access like any other relaxed store. -/
def State.sendHeld (s : State) (gid : Nat) (g : Group) (h : HeldStore) : State :=
  let party := match s.kernel? g.kh, Table.get? g.items h.slot with
    | some k, some it => itemParty k g it
    | _, _ => 0
  let a : Access :=
    { gid := gid, slot := h.slot, ctx := g.ctx, core := g.core, party := party, kind := .store, va := h.va, pa := h.pa, key := h.key
      bytes := h.data.length, data := h.data, compare := [], dest := 0, signed := false, ord := .relaxed, scope := .grp, la := 0, reads := [], writes := []
      view := ((Table.get? g.items h.slot).map Item.view).getD 0, before := none }
  let s := if h.spill then s else s.logStore a.ctx a.core (field a.party 50 48) (field a.party 47 0) a.va.toNat a.data
  let s := { (s.updateCopy (clusterOf g.core) a.pa (s.keyTag a.key) a.data) with accesses := Table.put s.accesses s.nextId a }
  (s.modItem gid h.slot (fun it => { it with storesOut := it.storesOut ++ [s.nextId] })).fresh

/-- Bytes that a group's release buffer holds take the place of memory's, the newest last (19 R429). -/
def heldBytes (held : List HeldStore) (pa : Nat) (bs : List W8) : List W8 :=
  held.foldl (fun bs h => (bs.zip (upTo bs.length)).map (fun p =>
    if h.pa ≤ pa + p.2 ∧ pa + p.2 < h.pa + h.data.length then h.data.getD (pa + p.2 - h.pa) 0 else p.1)) bs

def Group.withHeld (g : Group) (pa : Nat) (bs : List W8) : List W8 :=
  match g.guarded with
  | some u => heldBytes u.release pa bs
  | none => bs

/-- Does the shadow agree with the leading items (R433)? -/
def Group.shadowAgrees (g : Group) : Bool :=
  g.items.all (fun p => decide (p.2.shadowV = p.2.v) && p.2.shadowP == p.2.p)

/-- The leading items' registers become the shadow's (R432). -/
def Group.copyShadow (g : Group) : Group :=
  { g with
    items := g.items.mapAll (fun _ it => { it with
      shadowV := it.v
      shadowP := it.p
      loadValues := 0 })
    shadowS := g.s }

/-- Kill of a guarded group (R431): the kernel takes Fault with a record of CLASS 2. -/
def State.killGuarded (s : State) (gid : Nat) (cause slot : Nat) : State :=
  match s.group? gid with
  | none => s
  | some g =>
    match s.kernel? g.kh with
    | none => s
    | some k =>
      let it := (Table.get? g.items slot).getD Item.blank
      (s.contextError { cls := 2, cause := cause, ctx := g.ctx, tag := k.tag, who := whoOf it g.stage, loc := it.pc.toNat, info := 0
                        source := 0 }).kernelFaulted g.kh

/-- The item that a rollback gives back: its state at the checkpoint, but the outstanding-operation counters, the completion queues and
the stamps, which are outside the undo state (R429). A register word that the undo buffer does not hold keeps its error (R423, R430). -/
def Item.rolledBack (undone : RegName → Bool) (now old : Item) : Item :=
  { old with
    copyCount := now.copyCount
    matrixCount := now.matrixCount
    gatherCount := now.gatherCount
    collCount := now.collCount
    ports := now.ports
    view := now.view
    seen := now.seen
    rel := now.rel
    cycleFloor := now.cycleFloor
    storesOut := now.storesOut
    engineStamp := now.engineStamp
    engineFar := now.engineFar
    bad := now.bad.filter (fun r => !undone r) ++ old.bad.filter undone
    badCsr := now.badCsr
    windows := []
    wait := .none
    issued := false
    owed := none
    loadValues := 0
    fatal := none
    consumed := none }

/-- Rollback (R430). The recorder logs it as a trap entry of the consuming item. -/
def State.rollback (s : State) (gid cause slot : Nat) : State :=
  match s.group? gid with
  | none => s
  | some g =>
    match g.guarded with
    | none => s
    | some u =>
      if u.unrec || u.retries == 2 then s.killGuarded gid cause slot
      else
        let s := match s.kernel? g.kh with
          | some k => s.logTrap g.ctx g.core cause (itemParty k g ((Table.get? g.items slot).getD Item.blank)) []
          | none => s
        let items := u.items.map (fun p =>
          (p.1, Item.rolledBack (fun r => u.undoWords.contains (p.1, r)) ((Table.get? g.items p.1).getD p.2) { p.2 with joined := 4096 * s.tick }))
        let g := { g with
          items := items
          s := u.s
          badS := g.badS.filter (fun n => !u.undoWords.any (fun w => w.2 == .s n))
          scratch := u.scratch
          full := u.full
          spadPoison := u.spadPoison
          barriers := u.barriers
          guarded := some { u with
            undoWords := []
            undoGranules := []
            release := []
            retries := u.retries + 1 } }
        { s with
          groups := Table.put s.groups gid g
          monitors := s.monitors.filter (fun p => p.2.gid != gid)
          accesses := s.accesses.filter (fun p => p.2.gid != gid || p.2.kind == .store) }

/-- A checkpoint (R427): the held stores are sent in buffer order, and the group's state becomes the rollback point. A shadow that
differs is a DUPLEX event and rolls the group back instead (R433). `slot` names the item whose step takes it. -/
def State.checkpoint (s : State) (gid slot : Nat) : State :=
  match s.group? gid with
  | none => s
  | some g =>
    match g.guarded with
    | none => s
    | some u =>
      let duplex := ((s.kernel? g.kh).map (fun k => k.desc.duplex)).getD false
      if duplex && !g.shadowAgrees then s.rollback gid causeDuplex slot
      else
        let s := u.release.foldl (fun s h => s.sendHeld gid g h) s
        s.modGroup gid (fun g =>
          let g := if duplex then g.copyShadow else g
          { g with guarded := some (Guarded.take g) })

/-- An overflow of a buffer of R429, or an error in one: UNREC, and the held stores are sent (R431). -/
def State.unrecoverable (s : State) (gid : Nat) : State :=
  match s.group? gid with
  | none => s
  | some g =>
    match g.guarded with
    | none => s
    | some u =>
      if u.unrec then s
      else
        let s := u.release.foldl (fun s h => s.sendHeld gid g h) s
        s.modGroup gid (fun g => { g with guarded := some { u with
          unrec := true
          release := [] } })

/-- The registers an instruction writes first in the interval take room in the register undo buffer (R429). -/
def State.undoRegisters (s : State) (gid : Nat) (ws : List (Nat × RegName)) : State :=
  match s.group? gid with
  | none => s
  | some g =>
    match g.guarded with
    | none => s
    | some u =>
      if u.unrec then s
      else
        let n := ws.foldl (fun n w => if n.contains w then n else n ++ [w]) u.undoWords
        if 4096 < n.length then s.unrecoverable gid
        else s.modGroup gid (fun g => { g with guarded := some { u with undoWords := n } })

/-- The granules a store to scratchpad touches first in the interval (R429). -/
def State.undoScratch (s : State) (gid : Nat) (granules : List Nat) : State :=
  match s.group? gid with
  | none => s
  | some g =>
    match g.guarded with
    | none => s
    | some u =>
      if u.unrec then s
      else
        let n := granules.foldl (fun n w => if n.contains w then n else n ++ [w]) u.undoGranules
        if 1024 < n.length then s.unrecoverable gid
        else s.modGroup gid (fun g => { g with guarded := some { u with undoGranules := n } })

/-! ### The end of a step of a group -/

/-- What must follow an instruction of a group: an error that a guarded group consumed rolls it back (R430, before a trap: R434); a trap
without a handler faults the kernel (R418). With neither, nothing changes. -/
def State.settle (s : State) (gid : Nat) : State :=
  match s.group? gid with
  | none => s
  | some g =>
    match g.items.find? (fun p => p.2.consumed.isSome) with
    | some (slot, it) => s.rollback gid (it.consumed.getD causePoison) slot
    | none =>
      match g.items.find? (fun p => p.2.fatal.isSome) with
      | some (_, it) => s.trapFault g it (it.fatal.getD (illegal 0 0))
      | none => s

end Sys2Proof.Machine
end

