-- ==== Sys2Proof/Machine/Rings.lean ====
section
/-! DEFINITION. Where a gang's members stand, the receive rings of channels (15 R334, R335), and what a retiring group leaves (R336, R342). -/

namespace Sys2Proof.Machine

/-! ### Members of gangs (R120, R335) -/

/-- N of a gang. -/
def Descriptor.gangSize (d : Descriptor) : Nat := d.gangGroups * d.gangDevs

/-- The global rank that a GANGRANK gives, and the GANGRANK of a global rank. -/
def Descriptor.globalRank (d : Descriptor) (r : BitVec 11) : Nat := r.toNat / 32 * d.gangGroups + r.toNat % 32
def Descriptor.memberCode (d : Descriptor) (g : Nat) : Nat := 32 * (g / d.gangGroups) + g % d.gangGroups

/-- The group of a GANGRANK in a gang of this device. A kernel without gangs has one member per gang. -/
def State.member? (s : State) (kh stage : Nat) (gangix : W32) (code : Nat) : Option Nat :=
  (s.groups.find? (fun p => p.2.kh == kh && p.2.stage == stage && p.2.gangix == gangix && p.2.gangrank.toNat == code && !p.2.isLanding)).map
    Prod.fst

/-- A packet for the device of a rank in the gang's peer set; false when it is dropped. Under replay it is discarded (18 R403). -/
def State.sendRank (s : State) (typ ctx dev : Nat) (c : Config.PacketContent) : State × Bool :=
  if (s.hind ctx).replaying then (s, true)
  else
  match s.peer? ctx dev with
  | some p => s.sendPacket typ p.1 p.2 c
  | none => (s, false)

/-- A packet for every other device of a kernel's gang. -/
def State.sendGangPeers (s : State) (typ : Nat) (k : Kernel) (c : Config.PacketContent) : State :=
  (upTo k.desc.gangDevs).foldl (fun s d => if d = k.rank then s else (s.sendRank typ k.ctx d c).1) s

/-! ### Rings (R334) -/

/-- Words of a slot. -/
def Channel.slotWords (c : Channel) : Nat := c.slotBytes / 4

/-- Is a channel in ring mode (R335)? -/
def Descriptor.ringMode (d : Descriptor) (c : Channel) : Bool := c.src == c.dst && decide (2 ≤ d.gangSize)

def Descriptor.channel (d : Descriptor) (ch : Nat) : Channel := d.channels.getD ch { src := 0, dst := 0, slots := 1, slotBytes := 16 }

/-- The offset of a channel's ring: the rings of its stage's channels stand at the top, in ascending channel number, downward. -/
def Descriptor.ringBase (d : Descriptor) (ch : Nat) : Nat :=
  d.scratch - ((d.channels.take (ch + 1)).filter (fun c => c.dst == (d.channel ch).dst)).foldl (fun n c => n + c.slots * c.slotBytes) 0

/-- The global rank after a member's, to which its slots go in ring mode, and the one before it. -/
def Descriptor.successor (d : Descriptor) (g : Nat) : Nat := (g + 1) % d.gangSize
def Descriptor.predecessor (d : Descriptor) (g : Nat) : Nat := (g + d.gangSize - 1) % d.gangSize

/-- The device rank of the member to whose ring a member's slots go, where it is another device. -/
def Descriptor.successorAway (d : Descriptor) (r : BitVec 11) : Option Nat :=
  let dev := d.successor (d.globalRank r) / d.gangGroups
  if dev = r.toNat / 32 then none else some dev

/-! ### A group retires -/

/-- One staging slot of a retiring group: words left in it are padded and wait for delivery. -/
def State.closeStaging (s : State) (g : Group) (k : Kernel) (q : Nat) (st : Staging) : State :=
  let ch := (g.binds.toList.getD q { kind := 0, index := 0 }).index
  let c := k.desc.channel ch
  if st.words.isEmpty && st.away = 0 then s
  else
    { s with
      orphans := Table.put s.orphans s.nextId
        { kh := g.kh, stage := g.stage, gangix := g.gangix, gangrank := g.gangrank, channel := ch
          words := if st.words.isEmpty then [] else st.words ++ List.replicate (c.slotWords - st.words.length) 0, stamp := st.stamp, away := st.away
          groupix := g.groupix, core := g.core }
      nextId := s.nextId + 1 }

/-- Does a retired group still hold words of a channel to deliver? -/
def State.orphanWords (s : State) (kh stage : Nat) (gangix : W32) (gangrank : BitVec 11) (ch : Nat) : Bool :=
  s.orphans.any (fun p => p.2.kh == kh && p.2.stage == stage && p.2.gangix == gangix && p.2.gangrank == gangrank && p.2.channel == ch &&
    !p.2.words.isEmpty)

/-- The receiver on another device learns that a member's stream has ended, once nothing of it is left undelivered (R337). -/
def State.tellClosed (s : State) (kh stage : Nat) (gangix : W32) (gangrank : BitVec 11) (ch : Nat) : State :=
  match s.kernel? kh with
  | none => s
  | some k =>
    if k.desc.ringMode (k.desc.channel ch) && !s.orphanWords kh stage gangix gangrank ch then
      match k.desc.successorAway gangrank with
      | some dev => (s.sendRank 3 k.ctx dev (.closed k.gangN stage (k.desc.successor (k.desc.globalRank gangrank)) ch)).1
      | none => s
    else s

/-- What the gang and the channels see of a group that retires. -/
def State.leaveGang (s : State) (g : Group) : State :=
  match s.kernel? g.kh with
  | none => s
  | some k =>
    let s := g.staging.foldl (fun s p => s.closeStaging g k p.1 p.2) s
    let chs := (g.staging.map (fun p => (g.binds.toList.getD p.1 { kind := 0, index := 0 }).index)).eraseDups
    let s := chs.foldl (fun s ch => s.tellClosed g.kh g.stage g.gangix g.gangrank ch) s
    if k.desc.gangDevs = 1 then s
    else s.sendGangPeers 4 k (.absent k.gangN g.stage g.collectives (k.desc.globalRank g.gangrank))

end Sys2Proof.Machine
end

