-- ==== Sys2Proof/Machine/Group.lean ====
section
/-! DEFINITION. Groups (07 R137 to R147): items entering, the refill phase and its closure, and the phases of the group barriers
(14 R300 to R302, R310, R311). -/

namespace Sys2Proof.Machine

/-! ### Entering items -/

/-- Present items of a group (R137). -/
def Group.present (g : Group) : Nat := g.items.length

/-- Arrivals in the open refill phase (R139). -/
def Group.arrivedCount (g : Group) : Nat := (g.items.filter (fun p => p.2.arrived)).length

/-- The register bank with the fewest homes on a core, ties to the lowest number (R153). -/
def State.homeBank (s : State) (core : Nat) : BitVec 5 :=
  let homes := s.groups.flatMap (fun g => if g.2.core = core then g.2.items.map (fun p => p.2.home.toNat) else [])
  let best := (upTo 32).foldl (fun b n => if homes.count n < homes.count b then n else b) 0
  BitVec.ofNat 5 best

/-- A stage's ENTRY (R79, R117). -/
def Kernel.entry (k : Kernel) (stage : Nat) : W64 :=
  k.descAddr + ((k.desc.stages[stage]?).map Prod.fst).getD 0

/-- The queue registers of an item bound to engines (R327): SEQ 0 and no record for each binding of kinds 1 to 3. -/
def enginePorts (binds : Vector Binding 16) : Table QueuePort :=
  ((upTo 16).zip binds.toList).filterMap (fun p =>
    if p.2.kind = 1 ∨ p.2.kind = 2 ∨ p.2.kind = 3 then some (p.1, { seq := 0, records := [] }) else none)

/-- An item as it enters a group at a load or a closure (R137, R141). Members of the first load are Waiting at every barrier, items of
a closure are Late (R301). -/
def enterItem (k : Kernel) (g : Group) (ix : Nat) (home : BitVec 5) (now : Nat) (first : Bool) : Item :=
  { Item.blank with
    itemix := BitVec.ofNat 48 ix
    cohort := if first then 0 else g.closed
    pc := k.entry g.stage
    joined := 4096 * now
    frame := BitVec.ofNat 7 k.desc.entryFrame
    stack := stackArea g.s k.desc g.stage ix
    home := home
    member := if first then 0xFFFF#16 else 0
    ports := enginePorts g.binds }

/-- Items enter the given slots with the given indices, each choosing its home bank after the ones before it (R153). -/
def State.enterItems (s : State) (gid : Nat) (k : Kernel) (first : Bool) : List (Nat × Nat) → State
  | [] => s
  | (slot, ix) :: rest =>
    match s.group? gid with
    | none => s
    | some g =>
      let it := enterItem k g ix (s.homeBank g.core) s.tick first
      (s.modGroup gid (fun g => { g with items := Table.put g.items slot it })).enterItems gid k first rest

/-! ### The refill phase -/

/-- Draws up to `n` indices from the head of a stage's queue (R117, R141). -/
def Kernel.draw (k : Kernel) (stage n : Nat) : List Nat × Kernel :=
  let lo := k.next.getD stage 0
  let hi := k.limit.getD stage 0
  let m := min n (hi - lo)
  ((upTo m).map (fun j => lo + j), { k with next := k.next.set stage (lo + m) })

/-- Does every stage queue of the kernel hold no index (R123 Empty)? -/
def Kernel.isEmpty (k : Kernel) : Bool := (k.next.zip k.limit).all (fun p => decide (p.2 ≤ p.1))

/-- The Empty event of R123, after a draw. -/
def Kernel.noteEmpty (k : Kernel) : Kernel :=
  if k.isEmpty then
    match k.state with
    | .running => { k with state := .draining, empty := true }
    | _ => { k with empty := true }
  else k

/-- DRAW (R401). -/
def drawEntry (g : Group) (closed first count : Nat) : HcEntry :=
  entryOf 0x04 [(4, 4, closed), (8, 4, g.groupix.toNat), (12, 4, g.stage), (16, 8, first), (24, 8, count)]

/-- CLOSURE (R401): a barrier, or 0xFF for the refill phase, with the party of the last counted event. -/
def closureEntry (g : Group) (bar closed : Nat) (party : W64) (ordinal : Nat) : HcEntry :=
  entryOf 0x06 [(1, 1, bar), (4, 4, closed), (8, 4, g.groupix.toNat), (12, 4, g.stage), (16, 8, party.toNat), (24, 4, ordinal)]

/-- An arrival or a departure of an item is counted, or an arrival blocks: the closure that follows is logged with it (R308). -/
def State.noteEvent (s : State) (gid slot : Nat) : State :=
  match s.group? gid with
  | none => s
  | some g =>
    if (s.hind g.ctx).mode = .off then s
    else
      match s.kernel? g.kh, Table.get? g.items slot with
      | some k, some it =>
        let party := itemParty k g it
        s.modGroup gid (fun g => { g with counted := (party, Table.read 0 ((s.hind g.ctx).recorder (clusterOf g.core)).ordinals party.toNat) })
      | _, _ => s

/-- Is an entry the closure of a group's barrier, or 0xFF of its refill phase, that ends its open phase? -/
def closureOf (g : Group) (bar closed : Nat) (e : HcEntry) : Bool :=
  leAt e 0 1 == 6 && leAt e 1 1 == bar && leAt e 4 4 == (closed + 1) % 2 ^ 32 && leAt e 8 4 == g.groupix.toNat && leAt e 12 4 == g.stage

/-- A closure is logged with the last event it counted; under replay its entry is used (R308, R403). -/
def State.logClosure (s : State) (gid bar closed : Nat) : State :=
  match s.group? gid with
  | none => s
  | some g =>
    (s.useLogged g.ctx (clusterOf g.core) (closureOf g bar closed)).logEntry g.ctx (clusterOf g.core)
      (closureEntry g bar ((closed + 1) % 2 ^ 32) g.counted.1 g.counted.2)

/-- Is an entry the draw of a group at its present phase? -/
def drawOf (g : Group) (e : HcEntry) : Bool :=
  leAt e 0 1 == 4 && leAt e 4 4 == g.closed.toNat && leAt e 8 4 == g.groupix.toNat && leAt e 12 4 == g.stage

/-- Under replay a draw takes exactly the logged indices (R141, R403), whatever other groups have drawn by then. -/
def Kernel.drawLogged (k : Kernel) (stage n : Nat) (e : HcEntry) : List Nat × Kernel :=
  let first := leAt e 16 8
  let m := min n (leAt e 24 8)
  ((upTo m).map (fun j => first + j), { k with next := k.next.set stage (max (k.next.getD stage 0) (first + m)) })

/-- A stage's draw for a group, logged (R141, R394). -/
def State.drawFor (s : State) (gid n : Nat) : List Nat × State :=
  match s.group? gid with
  | none => ([], s)
  | some g =>
    match s.kernel? g.kh with
    | none => ([], s)
    | some k =>
      if g.isLanding then ([], s)
      else
        let h := s.hind g.ctx
        let r := clusterOf g.core
        match if h.replaying then (Table.read [] h.log r).find? (drawOf g) else none with
        | some e =>
          let (l, k') := k.drawLogged g.stage n e
          (l, (s.useLogged g.ctx r (drawOf g)).modKernel g.kh (fun _ => k'.noteEmpty))
        | none =>
          let (l, k') := k.draw g.stage n
          let s := s.modKernel g.kh (fun _ => k'.noteEmpty)
          (l, s.logEntry g.ctx r (drawEntry g g.closed.toNat (l.headD 0) l.length))

/-- Is every present item arrived in the open refill phase (R140)? -/
def Group.refillDue (g : Group) : Bool :=
  g.items.all (fun p => p.2.arrived) && g.state != .loading

/-- What a closure does to a present item: a second rfpt that was blocked counts as arrived in the new phase and completes (R141, R145). -/
def Item.refillClosed (now : Nat) (it : Item) : Item :=
  if it.held then
    { it with
      held := false
      arrived := true
      wait := .none
      windows := it.passWindows
      pc := it.pc + 8
      joined := 4096 * now }
  else { it with arrived := false }

/-- A retired group is gone (R147): its seat is free, its staging slots close (15 R336), other devices of its gang learn of it (R342). -/
def State.retireGroup (s : State) (gid : Nat) : State :=
  match s.group? gid with
  | none => s
  | some g => (s.leaveGang g).dropGroup gid

/-- Close (R141), one closure. -/
def State.closeRefill (s : State) (gid : Nat) : State :=
  match s.group? gid with
  | none => s
  | some g =>
    let s := s.modGroup gid (fun g => { g with closed := g.closed + 1 })
    let vacant := (upTo g.slots).filter (fun k => (Table.get? g.items k).isNone)
    let (l, s) := s.drawFor gid vacant.length
    let s := s.modGroup gid (fun g => { g with items := g.items.mapAll (fun _ it => it.refillClosed s.tick) })
    let s := match s.kernel? g.kh with
      | some k => s.enterItems gid k false (vacant.zip l)
      | none => s
    let s := s.logClosure gid 0xFF g.closed.toNat
    match s.group? gid with
    | none => s
    | some g' =>
      if g'.items.isEmpty then s.retireGroup gid
      else if l.length < vacant.length && g'.state == .running then s.modGroup gid (fun g => { g with state := .draining })
      else s

/-- The closure test of R142, made once events have been counted; a closure that releases held rfpts may find the new phase due at once. -/
def State.refillTest (s : State) (gid : Nat) : Nat → State
  | 0 => s
  | n + 1 =>
    match s.group? gid with
    | none => s
    | some g => if g.refillDue then (s.closeRefill gid).refillTest gid n else s

/-- A guarded group closes its refill phase only at a checkpoint (R142, R427). -/
def State.refillUnguarded (s : State) (gid : Nat) : State :=
  match s.group? gid with
  | none => s
  | some g => if g.guarded.isSome then s else s.refillTest gid 3

/-- The checkpoint of a committing form or closure, with a due refill closure (R142, R427, R428). -/
def State.commit (s : State) (gid slot : Nat) : State :=
  match s.group? gid with
  | none => s
  | some g =>
    if g.guarded.isSome then
      let s := (s.checkpoint gid slot).refillTest gid 3
      s.modGroup gid (fun g => match g.guarded with
        | some u => { g with guarded := some { u with items := g.items } }
        | none => g)
    else s

/-! ### Group barriers -/

/-- Bit `k` of a barrier mask, and the mask with it set or cleared. -/
def hasBit (m : W16) (k : Nat) : Bool := m.getLsbD k
def setBit (m : W16) (k : Nat) (b : Bool) : W16 := if b then m ||| (1#16 <<< k) else m &&& ~~~(1#16 <<< k)

/-- The states of an item at a barrier (R301). -/
inductive Standing where
  | waiting | arrived | late | dropped
  deriving DecidableEq, Repr

/-- MEMBER is Waiting or Arrived, ARR is Arrived, DROP without ARR is Dropped (R309). -/
def Item.standing (it : Item) (k : Nat) : Standing :=
  if hasBit it.arr k then .arrived
  else if hasBit it.drop k then .dropped
  else if hasBit it.member k then .waiting
  else .late

/-- Has an item a blocked arrival at barrier `k`? -/
def Item.blockedAt (it : Item) (k : Nat) : Bool :=
  match it.wait with
  | .blocked j _ => j == k
  | _ => false

def Group.barrier (g : Group) (k : Nat) : Barrier := g.barriers.toList.getD k Barrier.open

def Group.modBarrier (g : Group) (k : Nat) (f : Barrier → Barrier) : Group :=
  if h : k < 16 then { g with barriers := g.barriers.set k (f g.barriers[k]) } else g

/-- The closure condition of R302. -/
def Group.barrierDue (g : Group) (k : Nat) : Bool :=
  g.items.all (fun p => p.2.standing k != .waiting) &&
    ((g.barrier k).event || g.items.any (fun p => p.2.blockedAt k))

/-- An arrival counts: the item is Arrived, ARRIVED and EVENT rise (R301). -/
def Group.countArrival (g : Group) (k slot : Nat) : Group :=
  (g.modItem slot (fun it => { it with
    arr := setBit it.arr k true
    member := setBit it.member k true })).modBarrier k (fun b => { b with
      arrived := b.arrived + 1
      event := true })

/-- A departure counts as an event of the phase (R301, R302). -/
def Group.departure (g : Group) (k : Nat) : Group := g.modBarrier k (fun b => { b with event := true })

/-- BARRIER with its KIND (R307). -/
def barrierTrap (kind bar : Nat) (addr : W64) : Trap :=
  { cause := causeBarrier, addr := addr, info := BitVec.ofNat 32 (kind + 256 * bar) }

/-- What a closure does to the standing of a present item (R301): a mark made by bar.drop takes effect; otherwise it is Waiting in the
new phase, until a blocked arrival is counted. -/
def Item.phaseClosed (k : Nat) (it : Item) : Item :=
  { it with
    arr := setBit it.arr k false
    member := setBit it.member k (!hasBit it.drop k) }

/-- A wait on the closed phase ends: bar.wait and bar.sync complete; a bar.red executes again and takes its result (R302, R305, R311), and
keeps SYNC until it has. A bar.sync that a save has unwound and that has not executed again leaves SYNC too, which implies ARR (R309), and
is told by `got` that its arrival has counted. -/
def Item.released (now k : Nat) (result : Option (W64 × BitVec 6)) (it : Item) : Item :=
  let supplied := match it.supply with | some (j, _) => j == k | none => false
  let it := { it with
    got := if supplied then result else it.got
    supply := if supplied then none else it.supply }
  if it.wait = .barrier k then
    if supplied then { it with wait := .none }
    else { it with
      wait := .none
      sync := setBit it.sync k false
      windows := it.passWindows
      pc := it.pc + 8
      joined := 4096 * now }
  else if hasBit it.sync k && !supplied then
    { it with
      sync := setBit it.sync k false
      got := some (0, 0) }
  else it

/-- A blocked arrival at a closed barrier: counted in the new phase, or, for a marked item, left to trap when it executes again. -/
def Group.countBlocked (now k : Nat) (g : Group) (slot : Nat) : Group :=
  match Table.get? g.items slot with
  | none => g
  | some it =>
    match it.wait with
    | .blocked j how =>
      if j ≠ k then g
      else if hasBit it.drop k then g.modItem slot (fun it => { it with wait := .none })
      else
        match how with
        | .arrive => (g.countArrival k slot).modItem slot (fun it => { it with
            wait := .none
            windows := it.passWindows
            pc := it.pc + 8
            joined := 4096 * now })
        | .sync => (g.countArrival k slot).modItem slot (fun it => { it with
            wait := .barrier k
            sync := setBit it.sync k true })
        | .red kind value =>
          let fits := match (g.barrier k).kind with | none => true | some c => c == kind
          if fits then
            ((g.countArrival k slot).modBarrier k (fun b => { b with kind := some kind })).modItem slot (fun it => { it with
              wait := .barrier k
              sync := setBit it.sync k true
              supply := some (k, value) })
          else g.modItem slot (fun it => { it with
            wait := .none
            owed := some (barrierTrap 0x03 k 0) })
    | _ => g

/-- The values supplied in the open phase, by LSLOT ascending (R311). -/
def Group.supplied (g : Group) (k : Nat) : List W64 :=
  g.items.filterMap (fun p => match p.2.supply with | some (j, v) => if j = k then some v else none | none => none)

/-- One closure of a barrier (R302), with the reduction of its phase in `reduce`. -/
def Group.closeBarrier (reduce : RedKind → List W64 → W64 × BitVec 6) (now : Nat) (g : Group) (k : Nat) : Group :=
  let b := g.barrier k
  let result := b.kind.map (fun kind => reduce kind (g.supplied k))
  let g := g.modBarrier k (fun b => { closed := b.closed + 1, arrived := 0, event := false, kind := none })
  let g := { g with items := g.items.mapAll (fun _ it => (it.phaseClosed k).released now k result) }
  (g.items.map Prod.fst).foldl (Group.countBlocked now k) g

/-- Under replay, has the item not arrived yet with which the log ends the open phase of a barrier (R308, R403)? -/
def State.closureHeld (s : State) (g : Group) (k : Nat) : Bool :=
  let h := s.hind g.ctx
  h.replaying &&
    (match (h.segment (clusterOf g.core)).find? (closureOf g k (g.barrier k).closed.toNat), s.kernel? g.kh with
     | some e, some kn => g.items.any (fun p => (itemParty kn g p.2).toNat == leAt e 16 8 && !hasBit p.2.arr k && !hasBit p.2.drop k && !p.2.blockedAt k)
     | _, _ => false)

/-- What a closure does for the suppliers of a guarded group: the checkpoint writes their results (R311). -/
abbrev Giver : Type := State → Nat → Nat → State

/-- The test of one barrier, with its closures, each a guarded group's checkpoint and logged (R302, R308, R427); `give` hands the suppliers of a
guarded group their results before it. -/
def State.barrierTest (reduce : RedKind → List W64 → W64 × BitVec 6) (give : Giver) (gid slot k : Nat) : Nat → State → State
  | 0, s => s
  | n + 1, s =>
    match s.group? gid with
    | none => s
    | some g =>
      if g.barrierDue k && !s.closureHeld g k then
        let s := (s.modGroup gid (fun g => g.closeBarrier reduce s.tick k)).logClosure gid k (g.barrier k).closed.toNat
        let s := if g.guarded.isSome then give s gid k else s
        barrierTest reduce give gid slot k n (s.commit gid slot)
      else s

/-- The tests of all 16 barriers (R302). -/
def State.barrierTests (s : State) (reduce : RedKind → List W64 → W64 × BitVec 6) (give : Giver) (gid slot : Nat) : State :=
  (upTo 16).foldl (fun s k => State.barrierTest reduce give gid slot k 3 s) s

/-- An item leaves its group by exit or migr (R143, R301): a departure where it was Waiting, one arrival less where it was Arrived. -/
def Group.leave (g : Group) (slot : Nat) : Group :=
  match Table.get? g.items slot with
  | none => g
  | some it =>
    let g := (upTo 16).foldl (fun g k =>
      match it.standing k with
      | .waiting => g.departure k
      | .arrived => g.modBarrier k (fun b => { b with arrived := b.arrived - 1 })
      | _ => g) g
    { g with items := Table.erase g.items slot }

end Sys2Proof.Machine
end

