-- ==== Sys2Proof/Machine/Wave.lean ====
section
/-! DEFINITION. How a form runs over its wave (08 R154 to R158, 03 R61 to R67): item by item behind the gate of Operands.lean, as one map
where its effect stays within the item, as a fold in ascending LSLOT where it reaches further, once for the wave in the scalar unit. -/

namespace Sys2Proof.Machine

/-- Numbers in ascending order. -/
def ascending : List Nat → List Nat
  | [] => []
  | n :: ns => insertNat n (ascending ns)
where
  insertNat (n : Nat) : List Nat → List Nat
    | [] => [n]
    | m :: ms => if n ≤ m then n :: m :: ms else m :: insertNat n ms

/-- Does a group run a shadow (19 R432)? -/
def State.duplex (s : State) (g : Group) : Bool := ((s.kernel? g.kh).map (fun k => k.desc.duplex)).getD false

/-- Is an item of the group privileged (04 R84)? -/
def State.privileged (s : State) (g : Group) : Bool := (s.context g.ctx).system

/-- The item with its shadow's registers in place of its own (R432). -/
def Item.shadow (it : Item) : Item :=
  { it with
    v := it.shadowV
    p := it.shadowP }

/-- The shadow takes the registers that a form has written with values from outside the item (R433). -/
def Item.copyWrites (names : List RegName) (it : Item) : Item :=
  names.foldl (fun it n => match n with
    | .v k => if h : k < 128 then { it with shadowV := it.shadowV.set k it.v[k] } else it
    | .p k => { it with shadowP := (it.shadowP &&& ~~~(1#7 <<< k)) ||| (it.p &&& (1#7 <<< k)) }
    | _ => it) it

/-- The registers a wave's form writes enter the register undo buffer of a guarded group (R429). -/
def State.undoWave (s : State) (gid : Nat) (sh : Shape) : State :=
  s.undoRegisters gid (s.wave.slots.flatMap (fun k => sh.writes.map (fun r => (k, r))))

/-- Every member of the wave that stands at the instruction becomes what `run` makes of it; so does its shadow (R432). -/
def State.mapRun (s : State) (i : Instr) (run : Group → Env → Item) : State :=
  match s.group? s.wave.gid with
  | none => s
  | some g =>
    let one (k : Nat) (it : Item) : Item :=
      let e := Env.of s g s.wave.gid k it
      if s.duplex g then
        let lead := run g e
        let follow := run g { e with it := e.it.shadow, s := g.shadowS }
        { lead with
          shadowV := follow.v
          shadowP := follow.p }
      else run g e
    let s' := s.modGroup s.wave.gid (fun g =>
      { g with items := g.items.mapAll (fun k it => if s.wave.slots.contains k then one k it else it) })
    ((if g.guarded.isSome then s'.undoWave s.wave.gid (shapeOf i) else s')).settle s.wave.gid

/-- A form whose effect stays within each item: every member of the wave that stands at the instruction takes its ending. -/
def State.mapWave (s : State) (i : Instr) (body : Env → Ending) : State :=
  s.mapRun i (fun g e => e.runForm (shapeOf i) (admitted i) g.guarded.isSome g.badS body)

/-- The end of a form for one item, in the state. -/
def Env.finish (e : Env) (i : Instr) (end_ : Ending) (s : State) : State := s.setItem e.gid e.slot (e.close (shapeOf i) end_)

/-- The item waits in a form that counts as issued: a stop of its group awaits the form's completion (R102, R115, R296, R367). -/
def Env.await (e : Env) (i : Instr) (w : Wait) (s : State) : State := e.finish i (.wait { e.it with issued := true } w) s

/-- Does an item of lower LSLOT still wait in the instruction at the same PC? Items take it one after another in ascending LSLOT (R114). -/
def Group.turnTaken (g : Group) (e : Env) : Bool :=
  g.items.any (fun p => decide (p.1 < e.slot) && p.2.issued && p.2.pc == e.it.pc)

/-- The committing forms (19 R428). -/
def committing : Instr → Bool
  | .st o => decide (o.m.toNat < 2) && o.ord != .relaxed
  | .stfe o => o.ord != .relaxed
  | .ldfe o => o.ord == .sc
  | .atomAdd _ | .atomAnd _ | .atomOr _ | .atomXor _ | .atomMin _ | .atomMax _ | .atomXchg _ | .atomDecp _ | .atomFadd _ | .acas _
  | .fenceRel _ | .fenceAr _ | .fenceSc _ | .waitv _ | .wake1 _ | .wakeall _ | .waitc _ | .macq _ | .mrel _ | .mzero _ | .mloop _
  | .mloopg _ | .mwlat _ | .mstep _ | .mfill _ | .madd _ | .mscale _ | .xfer _ | .xgather _ | .chclose _ | .chavail _ | .qpush _
  | .qpop _ | .qtrypop _ | .qtrypush _ | .cred _ | .callred _ | .credsc _ | .callg _ | .exit _ | .launch _ | .hcflush _ | .hcstop _
  | .ctxsave _ | .ctxload _ | .ctxkill _ | .kretire _ | .tlbinv _ | .tlbinvall _ | .pgprobe _ => true
  | _ => false

/-- The forms before which a duplex group's core compares its leading items with their shadow (R433). -/
def compared : Instr → Bool
  | .st _ | .stfe _ => true
  | i => committing i

/-- Does a register that a form reads differ in the shadow? -/
def Item.differs (it : Item) (reads : List RegName) : Bool :=
  reads.any (fun r => match r with
    | .v n => it.v.toList.getD n 0 != it.shadowV.toList.getD n 0
    | .p n => it.p.getLsbD n != it.shadowP.getLsbD n
    | _ => false)

/-- One member of the wave: the gate, PRIV for a privileged form, errors in its registers, then the form's own effect. -/
def State.stepItem (i : Instr) (priv : Bool) (body : Env → State → State) (s : State) (slot : Nat) : State :=
  match s.env? slot, s.group? s.wave.gid with
  | some e, some g =>
    let sh := shapeOf i
    match e.gate sh (admitted i) with
    | .skip => e.finish i (.done e.it) s
    | .trap t => e.finish i (.trap e.it t) s
    | .wait w => e.finish i (.wait e.it w) s
    | .go =>
      if priv && !s.privileged g then e.finish i (.trap e.it privForm) s
      else
        match sh.poisoned e.it g.badS with
        | some t => e.finish i (if g.guarded.isSome then .consume t else .trap e.it t) s
        | none =>
          if s.duplex g && compared i && e.it.differs sh.reads then s.rollback e.gid causeDuplex slot
          else
          let s := body e s
          if s.duplex g then s.modItem e.gid slot (fun it => it.copyWrites sh.writes) else s
  | _, _ => s

/-- A form whose effect reaches beyond its items: its members in ascending LSLOT, one after another. -/
def State.foldWave (s : State) (i : Instr) (priv : Bool) (body : Env → State → State) : State :=
  let gid := s.wave.gid
  let s := (ascending s.wave.slots).foldl (State.stepItem i priv body) s
  (s.undoWave gid (shapeOf i)).settle gid

/-- Has some member of the wave completed its instruction, or left? -/
def State.waveMoved (s : State) : Bool :=
  s.wave.slots.any (fun k => match s.item? s.wave.gid k with | some it => it.wait == .none | none => true)

/-- The effect `f` of a form on its wave; of a committing form in a guarded group the held stores go before it, and a checkpoint follows
(19 R428). -/
def State.around (s : State) (i : Instr) (f : State → State) : State :=
  match s.group? s.wave.gid with
  | none => s
  | some g =>
    match g.guarded with
    | none => f s
    | some u =>
      if !committing i then f s
      else
      let slot := s.wave.slots.headD 0
      let s := if u.release.isEmpty then s else s.checkpoint s.wave.gid slot
      let s := f s
      if s.waveMoved then s.commit s.wave.gid slot else s

/-- A form that may commit, its members one after another. -/
def State.commitWave (s : State) (i : Instr) (priv : Bool) (body : Env → State → State) : State :=
  s.around i (fun s => s.foldWave i priv body)

/-- Does the item take its place in a wave-wide effect: its guard is true, R65 lets it issue, and it owes no trap (R61, R63, R169, R232)? -/
def Env.takesPart (e : Env) (i : Instr) : Bool :=
  e.it.guard (shapeOf i).form.g && e.it.owed.isNone && !(e.it.leading && (!admitted i || (shapeOf i).depends e.it.windows))

/-- The members of the wave that take part, ascending. -/
def State.takers (s : State) (i : Instr) : List Env :=
  (ascending s.wave.slots).filterMap (fun k => (s.env? k).bind (fun e => if e.takesPart i then some e else none))

/-- Does the item's instruction get past its gate, with no error in a register it reads? -/
def Env.passes (e : Env) (i : Instr) (badS : List Nat) : Bool :=
  e.gate (shapeOf i) (admitted i) == .go && ((shapeOf i).poisoned e.it badS).isNone

/-- The check that the item's instruction fails before its own effect, if one does. -/
def Env.fails (e : Env) (i : Instr) (badS : List Nat) : Option Trap :=
  match e.gate (shapeOf i) (admitted i) with
  | .trap t => some t
  | .go => (shapeOf i).poisoned e.it badS
  | _ => none

/-- The members of the wave that execute its instruction, ascending. -/
def State.participants (s : State) (i : Instr) : List Env :=
  match s.group? s.wave.gid with
  | none => []
  | some g => (ascending s.wave.slots).filterMap (fun k => (s.env? k).bind (fun e => if e.passes i g.badS then some e else none))

/-- An encoding that fails decoding: ILLEGAL in every item of the wave, whatever their guards (R66, R67). -/
def State.illegalWave (s : State) (bad : Illegal) : State :=
  match s.group? s.wave.gid with
  | none => s
  | some _ =>
    (s.modGroup s.wave.gid (fun g => { g with items := g.items.mapAll (fun k it =>
      if s.wave.slots.contains k then
        let e := Env.of s g s.wave.gid k it
        if e.it.leading then { it with wait := .earlier }
        else e.it.takeTrap e.handler e.now bad.ilen (illegal bad.reason bad.field)
      else it) })).settle s.wave.gid

end Sys2Proof.Machine
end

