-- ==== Sys2Proof/Machine/Flags.lean ====
section
/-! DEFINITION. Flags and trap enables (02 R45, R46; 09 R192 to R194; 10 R198 to R200), and what an arithmetic form gives an item:
destination, flags and the trap that the item's own enables choose. -/

namespace Sys2Proof.Machine

/-! ### Flag words -/

/-- FPSTAT (R199): INV, DZ, OVF, UNF, INX in bits 0 to 4. -/
abbrev fINV : BitVec 5 := 1
abbrev fDZ : BitVec 5 := 2
abbrev fOVF : BitVec 5 := 4
abbrev fUNF : BitVec 5 := 8
abbrev fINX : BitVec 5 := 16

/-- ISTAT (R192): DZ, DOVF, SAT. -/
abbrev iDZ : BitVec 3 := 1
abbrev iDOVF : BitVec 3 := 2
abbrev iSAT : BitVec 3 := 4

/-- FPCTL (R198). -/
def Item.roundMode (it : Item) : Nat := field it.fpctl 1 0
def Item.ftz (it : Item) : Bool := it.fpctl.getLsbD 2
def Item.daz (it : Item) : Bool := it.fpctl.getLsbD 3

/-- The flags of one element, and whether the case is a signalling-NaN case (R45). -/
structure ElemFlags where
  flags : BitVec 5
  snan : Bool
  deriving DecidableEq, Repr

/-- The lowest element for which `q` holds. -/
def lowestElem (es : List ElemFlags) (q : ElemFlags → Bool) : Nat := es.findIdx q

/-- The trap of R46: the first enabled cause in the order FPSNAN, FPINV, FPDIV0, FPOVF, FPUNF, FPINX, with the TRAPINFO of R200. -/
def fpTrap (fpctl : W32) (es : List ElemFlags) : Option Trap :=
  let raised := es.foldl (fun a e => a ||| e.flags) 0
  let mk (cause : Nat) (q : ElemFlags → Bool) : Trap :=
    { cause := cause, addr := 0, info := BitVec.ofNat 32 (raised.toNat + 32 * lowestElem es q) }
  let has (n : Nat) (e : ElemFlags) : Bool := e.flags.getLsbD n
  if fpctl.getLsbD 13 && es.any (fun e => e.snan) then some (mk 0x0E (fun e => e.snan))
  else if fpctl.getLsbD 8 && es.any (has 0) then some (mk 0x09 (has 0))
  else if fpctl.getLsbD 9 && es.any (has 1) then some (mk 0x0A (has 1))
  else if fpctl.getLsbD 10 && es.any (has 2) then some (mk 0x0B (has 2))
  else if fpctl.getLsbD 11 && es.any (has 3) then some (mk 0x0C (has 3))
  else if fpctl.getLsbD 12 && es.any (has 4) then some (mk 0x0D (has 4))
  else none

/-- The division trap (R184, R193): KIND 0 for a zero divisor, 1 for −2^31 by −1, each with its enable in ICTL. -/
def idivTrap (ictl : BitVec 2) : Option Nat → Option Trap
  | none => none
  | some kind => if ictl.getLsbD kind then some { cause := causeIdiv, addr := 0, info := BitVec.ofNat 32 kind } else none

/-! ### Results -/

/-- What a form writes to its destination D. -/
inductive Dest where
  | w (x : W32)
  | w2 (x : W64)
  | w4 (x : BitVec 128)
  | p (b : Bool)
  deriving DecidableEq, Repr

/-- The result of an arithmetic form for one item: the destination, the predicate that some forms write in their C field, the flags. -/
structure Out where
  dest : Dest
  pred : Option (BitVec 7 × Bool)
  ist : BitVec 3
  idiv : Option Nat
  elems : List ElemFlags

/-- A result with no flag. -/
def Out.of (d : Dest) : Out := { dest := d, pred := none, ist := 0, idiv := none, elems := [] }
def Out.w (x : W32) : Out := Out.of (.w x)
def Out.w2 (x : W64) : Out := Out.of (.w2 x)

/-- The destination's write to v registers or a predicate. -/
def Item.writeDest (it : Item) (d : BitVec 7) : Dest → Item
  | .w x => it.writeV d x
  | .w2 x => it.writeV2 d x
  | .w4 x => it.writeV4 d x
  | .p b => it.writeP d b

/-- The sticky flags of an instruction are ORed in first (R46, R194). -/
def Item.raise (it : Item) (out : Out) : Item :=
  { it with
    fpstat := it.fpstat ||| out.elems.foldl (fun a e => a ||| e.flags) 0
    istat := it.istat ||| out.ist }

/-- The trap that the item's enables choose. -/
def Item.chosenTrap (it : Item) (out : Out) : Option Trap :=
  match idivTrap it.ictl out.idiv with
  | some t => some t
  | none => fpTrap it.fpctl out.elems

/-- Flags, then at most one trap, then the destination (R46, R194, R200; R13: a trap leaves it unwritten). -/
def Env.applyOut (e : Env) (o : Form) (out : Out) : Ending :=
  let it := e.it.raise out
  match e.it.chosenTrap out with
  | some t => .trap it t
  | none =>
    let it := it.writeDest o.d out.dest
    .done (match out.pred with | some (n, b) => it.writeP n b | none => it)

/-- The scalar unit's result goes to the s file (R61). -/
def Group.writeScalar (g : Group) (d : BitVec 7) : Dest → Group
  | .w x => g.writeS d x
  | .w2 x => (g.writeS d (lo32 x)).writeS (d + 1) (hi32 x)
  | _ => g

/-- Writes s registers of the wave's group, and their shadow's (R432). -/
def State.writeScalar (s : State) (d : BitVec 7) (x : Dest) : State :=
  s.modGroup s.wave.gid (fun g =>
    let g' := g.writeScalar d x
    { g' with shadowS := if g.guarded.isSome then g'.s else g'.shadowS })

/-- The scalar frame (R61, R174): once for the wave, from its lowest-LSLOT item with a true guard; nothing is written where no guard is
true; the flags go to every item with a true guard. -/
def State.scalarWave (s : State) (i : Instr) (o : Form) (f : Env → Out) : State :=
  match s.participants i with
  | [] => s.mapWave i (fun e => .done e.it)
  | e :: _ =>
    let out := f e
    (s.writeScalar o.d out.dest).mapWave i (fun e => .done (e.it.raise out))

/-- A form of the arithmetic majors in the frame that M selects (R61, R174). -/
def State.arith (s : State) (i : Instr) (o : Form) (f : Env → Out) : State :=
  if o.m = 2 || o.m = 3 then s.scalarWave i o f
  else s.mapWave i (fun e => e.applyOut o (f e))

end Sys2Proof.Machine
end

