-- ==== Sys2Proof/Machine/Float.lean ====
section
/-! DEFINITION. Floating-point formats, rounding and sums (02 R32 to R55): exact dyadic values, Pick and Round, NaN choice, SeqAdd,
PairTree and the arithmetic that the vector forms, reductions, atomics and the matrix engine share. -/

namespace Sys2Proof.Machine

/-! ### Formats (R32, R36) -/

/-- A format: exponent and fraction widths, bias, whether it has infinities, its largest finite magnitude as a significand over
2^(emax − P + 1), its canonical NaN (none where every encoding is a number). -/
structure Fmt where
  w : Nat
  f : Nat
  bias : Nat
  inf : Bool
  maxSig : Nat
  emax : Int
  nan : Option Nat
  deriving DecidableEq, Repr

def fp64 : Fmt := ⟨11, 52, 1023, true, 2 ^ 53 - 1, 1023, some 0x7FF8000000000000⟩
def fp32 : Fmt := ⟨8, 23, 127, true, 2 ^ 24 - 1, 127, some 0x7FC00000⟩
def fp16 : Fmt := ⟨5, 10, 15, true, 2 ^ 11 - 1, 15, some 0x7E00⟩
def bf16 : Fmt := ⟨8, 7, 127, true, 2 ^ 8 - 1, 127, some 0x7FC0⟩
def e5m2 : Fmt := ⟨5, 2, 15, true, 7, 15, some 0x7E⟩
def e4m3 : Fmt := ⟨4, 3, 7, false, 14, 8, some 0x7F⟩
def e3m2 : Fmt := ⟨3, 2, 3, false, 7, 4, none⟩
def e2m3 : Fmt := ⟨2, 3, 1, false, 15, 2, none⟩
def e2m1 : Fmt := ⟨2, 1, 1, false, 3, 2, none⟩

/-- The precision P, emin, and the position of the sign bit. -/
def Fmt.p (F : Fmt) : Nat := F.f + 1
def Fmt.emin (F : Fmt) : Int := 1 - (F.bias : Int)
def Fmt.signBit (F : Fmt) : Nat := F.w + F.f

/-- The format of a PREC (R70). -/
def fmtOf : Prec → Fmt
  | .f32 => fp32
  | .f64 => fp64
  | .f16 => fp16
  | .bf16 => bf16

/-- An exact dyadic value m × 2^e. -/
structure Dy where
  m : Int
  e : Int
  deriving DecidableEq, Repr

/-- What an encoding stands for: a NaN with its sign, fraction and quiet bit, an infinity, or a finite value of which the sign of zero
counts. -/
inductive Flt where
  | nan (s : Bool) (frac : Nat) (quiet : Bool)
  | inf (s : Bool)
  | fin (s : Bool) (m : Nat) (e : Int)
  deriving DecidableEq, Repr

/-- The value of an encoding (R32, R36, R37). -/
def Fmt.decode (F : Fmt) (x : Nat) : Flt :=
  let frac := x % 2 ^ F.f
  let ex := x / 2 ^ F.f % 2 ^ F.w
  let s := decide (x / 2 ^ F.signBit % 2 = 1)
  let top := 2 ^ F.w - 1
  if ex = top ∧ F.inf = true then
    if frac = 0 then .inf s else .nan s frac (decide (2 ^ (F.f - 1) ≤ frac))
  else if F.nan = some (x % 2 ^ F.signBit) ∧ F.inf = false then .nan s frac true
  else if ex = 0 then .fin s frac (F.emin - F.f)
  else .fin s (2 ^ F.f + frac) ((ex : Int) - F.bias - F.f)

/-- The number of zero significand: a zero. -/
def Flt.isZero : Flt → Bool
  | .fin _ m _ => m == 0
  | _ => false

def Flt.isNan : Flt → Bool
  | .nan _ _ _ => true
  | _ => false

/-- A signalling NaN (R37). -/
def Flt.isSnan : Flt → Bool
  | .nan _ _ q => !q
  | _ => false

def Flt.isInf : Flt → Bool
  | .inf _ => true
  | _ => false

def Flt.sign : Flt → Bool
  | .nan s _ _ => s
  | .inf s => s
  | .fin s _ _ => s

/-- DAZ (R44): a subnormal operand reads as a zero of its sign. -/
def Fmt.read (F : Fmt) (daz : Bool) (x : Nat) : Flt :=
  match F.decode x with
  | .fin s m e => if daz && decide (m < 2 ^ F.f) then .fin s 0 e else .fin s m e
  | v => v

/-- The exact value of a finite number. -/
def Flt.dy : Flt → Dy
  | .fin s m e => ⟨if s then -(m : Int) else m, e⟩
  | _ => ⟨0, 0⟩

def Flt.neg : Flt → Flt
  | .nan s f q => .nan s f q
  | .inf s => .inf !s
  | .fin s m e => .fin (!s) m e

/-! ### Exact arithmetic -/

/-- 2^n as an integer. -/
def pow2 (n : Nat) : Int := ((2 ^ n : Nat) : Int)

/-- The significand of `x` over 2^e, for e at most its own exponent. -/
def Dy.at (x : Dy) (e : Int) : Int := x.m * pow2 (x.e - e).toNat

def Dy.add (x y : Dy) : Dy :=
  let e := min x.e y.e
  ⟨x.at e + y.at e, e⟩

def Dy.mul (x y : Dy) : Dy := ⟨x.m * y.m, x.e + y.e⟩

def Dy.neg (x : Dy) : Dy := ⟨-x.m, x.e⟩

/-- |x|. -/
def Dy.abs (x : Dy) : Dy := ⟨x.m.natAbs, x.e⟩

/-- The sum of a list, exact. -/
def Dy.sum (xs : List Dy) : Dy := xs.foldl Dy.add ⟨0, 0⟩

/-- x compared with y. -/
def Dy.lt (x y : Dy) : Bool :=
  let e := min x.e y.e
  decide (x.at e < y.at e)
def Dy.le (x y : Dy) : Bool := !(y.lt x)

/-- Floor(Log2(Abs(x))) of a non-zero value. -/
def Dy.log2 (x : Dy) : Int := (Nat.log2 x.m.natAbs : Int) + x.e

/-! ### Rounding (R40 to R43) -/

/-- Floor(x / 2^g), and whether a remainder is left and how it compares with one half: 0 none, 1 below, 2 tie, 3 above. -/
def Dy.floorAt (x : Dy) (g : Int) : Int × Nat :=
  if g ≤ x.e then (x.at g, 0)
  else
    let d := (g - x.e).toNat
    let lo := x.m / pow2 d
    let r := x.m % pow2 d
    (lo, if r = 0 then 0 else if 2 * r < pow2 d then 1 else if 2 * r = pow2 d then 2 else 3)

/-- Pick (R41) in units of 2^g, and whether it changed the value. Modes as R40 codes them. -/
def pick (x : Dy) (g : Int) (rm : Nat) : Int × Bool :=
  let (lo, r) := x.floorAt g
  if r = 0 then (lo, false)
  else
    let up : Bool :=
      match rm with
      | 0 => r == 3 || (r == 2 && lo % 2 != 0)
      | 1 => decide (lo < 0)
      | 2 => false
      | _ => true
    (if up then lo + 1 else lo, true)

/-- The encoding of ±n × 2^g, a value of the format's grid with n at most 2^P (R32). -/
def Fmt.encode (F : Fmt) (s : Bool) (n : Nat) (g : Int) : Nat :=
  let sign := if s then 2 ^ F.signBit else 0
  if n < 2 ^ F.f then sign + n
  else
    let (n, g) := if n = 2 ^ F.p then (2 ^ F.f, g + 1) else (n, g)
    sign + (g + F.f + F.bias).toNat * 2 ^ F.f + (n - 2 ^ F.f)

/-- Zero, infinity, the largest finite magnitude, the canonical NaN. -/
def Fmt.zero (F : Fmt) (s : Bool) : Nat := if s then 2 ^ F.signBit else 0
def Fmt.infinity (F : Fmt) (s : Bool) : Nat := F.zero s + (2 ^ F.w - 1) * 2 ^ F.f
def Fmt.maximum (F : Fmt) (s : Bool) : Nat := F.encode s F.maxSig (F.emax - F.f)
def Fmt.canonical (F : Fmt) : Nat := F.nan.getD 0

/-- An encoded result with its flags (R45). -/
structure FRes where
  bits : Nat
  flags : BitVec 5
  snan : Bool
  deriving DecidableEq, Repr

def FRes.of (bits : Nat) : FRes := ⟨bits, 0, false⟩

/-- OverflowValue (R42). -/
def Fmt.overflow (F : Fmt) (s : Bool) (rm : Nat) (sat : Bool) : Nat :=
  let toInf : Bool := match rm with | 0 => true | 1 => false | 2 => s | _ => !s
  if !toInf || sat then F.maximum s
  else if F.inf then F.infinity s
  else if F.nan.isSome then F.canonical
  else F.maximum s

/-- Round (R41) of an exact value. -/
def Fmt.round (F : Fmt) (x : Dy) (rm : Nat) (zs ftz sat : Bool) : FRes :=
  if x.m = 0 then .of (F.zero zs)
  else
    let s := decide (x.m < 0)
    let gu := x.log2 - F.f
    let yu : Dy := ⟨(pick x gu rm).1, gu⟩
    let mag (y : Dy) : Dy := ⟨y.m.natAbs, y.e⟩
    if Dy.lt ⟨F.maxSig, F.emax - F.f⟩ (mag yu) then ⟨F.overflow s rm sat, fOVF ||| fINX, false⟩
    else
      let g := max x.log2 F.emin - F.f
      let (n, inexact) := pick x g rm
      let tiny := Dy.lt (mag yu) ⟨1, F.emin⟩
      if tiny && ftz then ⟨F.zero s, fUNF ||| fINX, false⟩
      else
        let flags := (if inexact then fINX else 0) ||| (if tiny && inexact then fUNF else 0)
        ⟨if n = 0 then F.zero s else F.encode s n.natAbs g, flags, false⟩

/-- Round of an infinite value (R42). -/
def Fmt.roundInf (F : Fmt) (s : Bool) (rm : Nat) (sat : Bool) : FRes :=
  if F.inf then .of (F.infinity s) else ⟨F.overflow s rm sat, fOVF ||| fINX, false⟩

/-! ### NaNs (R38) -/

/-- A quiet NaN of format G carried into format F: its fraction aligned at the top (R38). The NaNs of E4M3 carry nothing. -/
def Fmt.carryNan (F G : Fmt) (s : Bool) (frac : Nat) : Nat :=
  if !G.inf || !F.inf || F.f < 7 then F.canonical
  else F.infinity s + (if G.f ≤ F.f then frac * 2 ^ (F.f - G.f) else frac / 2 ^ (G.f - F.f))

/-- R38 over operands in order, each with its format; `invalid` says rule 2 applies. None: the result is no NaN. -/
def chooseNan (F : Fmt) (ops : List (Fmt × Flt)) (invalid : Bool) : Option FRes :=
  if ops.any (fun p => p.2.isSnan) then some ⟨F.canonical, fINV, true⟩
  else if invalid then some ⟨F.canonical, fINV, false⟩
  else
    match ops.find? (fun p => p.2.isNan) with
    | some (G, .nan s frac _) => some (.of (F.carryNan G s frac))
    | _ => none

/-! ### Sums of terms -/

/-- A term of a sum: absent where a NaN stands in it, invalid for 0 × ∞. -/
inductive Term where
  | nan
  | invalid
  | val (x : Flt)
  deriving DecidableEq, Repr

def Flt.term (x : Flt) : Term := if x.isNan then .nan else .val x

/-- The exact product of two operands (R202). -/
def mulTerm (a b : Flt) : Term :=
  let s := a.sign ^^ b.sign
  match a, b with
  | .nan _ _ _, _ => .nan
  | _, .nan _ _ _ => .nan
  | .inf _, y => if y.isZero then .invalid else .val (.inf s)
  | x, .inf _ => if x.isZero then .invalid else .val (.inf s)
  | .fin _ m e, .fin _ n f => .val (.fin s (m * n) (e + f))

def Term.negate : Term → Term
  | .val x => .val x.neg
  | t => t

/-- ZeroSign (R201): the common sign of the terms, else + but under RDN. -/
def zeroSign (ts : List Flt) (rm : Nat) : Bool :=
  if ts.all (fun t => t.isZero && t.sign) then true
  else if ts.all (fun t => t.isZero && !t.sign) then false
  else rm == 2

/-- The sum of terms rounded once (R202, R208): R38 over the operands, infinities, then Round. -/
def sumTerms (F : Fmt) (ops : List (Fmt × Flt)) (ts : List Term) (rm : Nat) (ftz : Bool) : FRes :=
  let vals := ts.filterMap (fun t => match t with | .val x => some x | _ => none)
  let plus := vals.any (fun x => x.isInf && !x.sign)
  let minus := vals.any (fun x => x.isInf && x.sign)
  let invalid := ts.contains .invalid || (plus && minus)
  match chooseNan F ops invalid with
  | some r => r
  | none =>
    if plus then .of (F.infinity false)
    else if minus then .of (F.infinity true)
    else F.round (Dy.sum (vals.map Flt.dy)) rm (zeroSign vals rm) ftz false

/-- a + b, as fadd (R202). -/
def Fmt.addF (F : Fmt) (a b : Flt) (rm : Nat) (ftz : Bool) : FRes := sumTerms F [(F, a), (F, b)] [a.term, b.term] rm ftz

/-- The bits of 2^k; an integer square root by bits. -/
def isqrt (x : Nat) : Nat → Nat → Nat
  | 0, r => r
  | n + 1, r => isqrt x n (if (r + 2 ^ n) * (r + 2 ^ n) ≤ x then r + 2 ^ n else r)

/-- a / b of finite non-zero numbers, with a sticky bit far below the last place that any rounding sees. -/
def quotient (P : Nat) (a b : Flt) : Dy :=
  match a, b with
  | .fin s m e, .fin t n f =>
    let k := P + 4 + Nat.log2 n
    let q := m * 2 ^ k / n
    let sticky := boolNat (decide (m * 2 ^ k % n ≠ 0))
    let r : Int := ((2 * q + sticky : Nat) : Int)
    ⟨if s ^^ t then -r else r, e - f - k - 1⟩
  | _, _ => ⟨0, 0⟩

/-- √a of a positive finite number, with a sticky bit. -/
def squareRoot (P : Nat) (m : Nat) (e : Int) : Dy :=
  let k := 2 * (P + 3) + boolNat (decide ((e - 2 * (P + 3 : Nat)) % 2 ≠ 0))
  let x := m * 2 ^ k
  let r := isqrt x (Nat.log2 x / 2 + 1) 0
  ⟨((2 * r + boolNat (decide (r * r ≠ x)) : Nat) : Int), (e - k) / 2 - 1⟩

/-- a × b, a / b, √a (R202). -/
def Fmt.mulF (F : Fmt) (a b : Flt) (rm : Nat) (ftz : Bool) : FRes :=
  match mulTerm a b with
  | .val (.fin s m e) => F.round (Flt.fin s m e).dy rm s ftz false
  | t => sumTerms F [(F, a), (F, b)] [t] rm ftz

def Fmt.divF (F : Fmt) (a b : Flt) (rm : Nat) (ftz : Bool) : FRes :=
  let s := a.sign ^^ b.sign
  let invalid := (a.isZero && b.isZero) || (a.isInf && b.isInf)
  match chooseNan F [(F, a), (F, b)] invalid with
  | some r => r
  | none =>
    if a.isInf then .of (F.infinity s)
    else if b.isInf then .of (F.zero s)
    else if b.isZero then ⟨F.infinity s, fDZ, false⟩
    else if a.isZero then .of (F.zero s)
    else F.round (quotient F.p a b) rm s ftz false

def Fmt.sqrtF (F : Fmt) (a : Flt) (rm : Nat) (ftz : Bool) : FRes :=
  match chooseNan F [(F, a)] (a.sign && !a.isZero && !a.isNan) with
  | some r => r
  | none =>
    match a with
    | .fin s m e => if m = 0 then .of (F.zero s) else F.round (squareRoot F.p m e) rm false ftz false
    | _ => .of (F.infinity false)

/-! ### Order and choice (R203, R205) -/

/-- a < b for operands that are no NaN; zeros of either sign are equal. -/
def Flt.lt (a b : Flt) : Bool :=
  match a, b with
  | .inf s, y => s && y != .inf true
  | _, .inf t => !t
  | x, y => x.dy.lt y.dy

/-- The lesser or greater of two operands, −0 below +0 (R205): which operand it is. -/
def firstIsLess (a b : Flt) : Bool :=
  if a.isZero && b.isZero then a.sign || !b.sign else !(b.lt a)

/-- fmin and fmax (R205) over encodings. -/
def Fmt.minmax (F : Fmt) (isMax : Bool) (daz : Bool) (x y : Nat) : FRes :=
  let a := F.read daz x
  let b := F.read daz y
  let out (v : Flt) (bits : Nat) : FRes := .of (if v.isZero then F.zero v.sign else bits)
  match chooseNan F [(F, a), (F, b)] false with
  | some r => r
  | none => if firstIsLess a b ^^ isMax then out a x else out b y

/-- fminnm and fmaxnm (R205): the operand that is no NaN. -/
def Fmt.minmaxNum (F : Fmt) (isMax : Bool) (daz : Bool) (x y : Nat) : FRes :=
  let a := F.read daz x
  let b := F.read daz y
  let out (v : Flt) (bits : Nat) (n : Flt) : FRes :=
    ⟨if v.isZero then F.zero v.sign else bits, if n.isSnan then fINV else 0, n.isSnan⟩
  if a.isNan && !b.isNan then out b y a
  else if b.isNan && !a.isNan then out a x b
  else F.minmax isMax daz x y

/-! ### Fixed orders of sums (R48, R53) -/

/-- SeqAdd (R48): canonical NaNs, with INV for any NaN and for ∞ − ∞. -/
def seqAdd (acc t : Flt) : FRes :=
  if acc.isNan || t.isNan then ⟨fp32.canonical, fINV, false⟩ else fp32.addF acc t 0 false

/-- PairTree (R53) by levels; `fuel` bounds the levels. -/
def pairLevel {α : Type} (add : α → α → α) : List α → List α
  | x :: y :: rest => add x y :: pairLevel add rest
  | xs => xs
def pairTree {α : Type} (add : α → α → α) : Nat → List α → List α
  | 0, xs => xs
  | n + 1, xs => if xs.length ≤ 1 then xs else pairTree add n (pairLevel add xs)

/-- One node of a cross-lane or group floating reduction (R173): RNE, full subnormals. -/
def foldNode (F : Fmt) (op : FloatFold) (x y : FRes) : FRes :=
  let r := match op with
    | .fadd => F.addF (F.decode x.bits) (F.decode y.bits) 0 false
    | .fmin => F.minmax false false x.bits y.bits
    | .fmax => F.minmax true false x.bits y.bits
  ⟨r.bits, x.flags ||| y.flags ||| r.flags, x.snan || y.snan || r.snan⟩

/-- The floating reduction of a list of encodings, with every flag raised in the tree (R54, R173, R311). -/
def floatReduce (F : Fmt) (op : FloatFold) (xs : List Nat) : FRes :=
  (pairTree (foldNode F op) 12 (xs.map FRes.of)).headD (.of 0)

/-- Fold of integers in lane order (R173), with its identity, at 32 or 64 bits. -/
def foldIdentity (wide : Bool) (op : IntFold) (uns : Bool) : W64 :=
  match op with
  | .add => 0
  | .and => BitVec.allOnes 64
  | .or => 0
  | .xor => 0
  | .min => if uns then BitVec.allOnes 64 else if wide then 0x7FFFFFFFFFFFFFFF else 0x7FFFFFFF
  | .max => if uns then 0 else if wide then 0x8000000000000000 else 0x80000000
def foldStep (wide : Bool) (op : IntFold) (uns : Bool) (x y : W64) : W64 :=
  let le (a b : W64) : Bool := if uns then a.ule b else if wide then a.sle b else (lo32 a).sle (lo32 b)
  match op with
  | .add => x + y
  | .and => x &&& y
  | .or => x ||| y
  | .xor => x ^^^ y
  | .min => if le x y then x else y
  | .max => if le y x then x else y
def intReduce (wide : Bool) (op : IntFold) (uns : Bool) (xs : List W64) : W64 :=
  xs.foldl (foldStep wide op uns) (foldIdentity wide op uns)

/-- The reduction of a bar.red (14 R311): its value, its flags, and in bit 5 whether a signalling NaN stood in it. -/
def groupReduce (kind : RedKind) (xs : List W64) : W64 × BitVec 6 :=
  match kind with
  | .int w op uns => (intReduce w op uns xs, 0)
  | .flt op d =>
    let r := floatReduce (if d then fp64 else fp32) op (xs.map BitVec.toNat)
    (BitVec.ofNat 64 r.bits, ofBool r.snan ++ r.flags)

end Sys2Proof.Machine
end

