-- ==== Sys2Proof/Machine/Control.lean ====
section
/-! DEFINITION. Control flow (08 R161 to R168), the refill point and exit (07 R144 to R146), and the return from the trap handler
(19 R416, R417). -/

namespace Sys2Proof.Machine

/-! ### Transfers -/

/-- A transfer to `t`: MISALIGN where its low bits are not zero (R56, R162). -/
def transfer (it : Item) (t : W64) : Ending :=
  if aligned t 4 then .jump it t else .trap it (misalignTransfer t)

/-- PC-relative branch (R162). -/
def execBra (o : ImmForm) (s : State) : Host.Outcome State Fault Refusal :=
  .next (s.mapWave (.bra o) (fun e => transfer e.it (e.it.pc + wordOffset o.imm)))

/-- Branch to a register pair (R162). -/
def execBrx (o : Form) (s : State) : Host.Outcome State Fault Refusal :=
  .next (s.mapWave (.brx o) (fun e => transfer e.it (e.it.readV2 o.a)))

/-- Branch by a literal offset (R162). -/
def execJmpl (o : LitForm) (s : State) : Host.Outcome State Fault Refusal :=
  .next (s.mapWave (.jmpl o) (fun e => transfer e.it (e.it.pc + byteOffset o.lit)))

/-! ### Calls and returns (R164 to R168) -/

/-- STACKOVF (R168): KIND in TRAPINFO. -/
def stackTrap (kind : Nat) (addr : W64) : Trap := { cause := causeStackOvf, addr := addr, info := BitVec.ofNat 32 kind }

/-- The window words v32.. of the current frame. -/
def Item.windowWords (it : Item) : List W32 := (it.v.toList.drop 32).take it.frame.toNat

/-- Words placed in v32 and up. -/
def setWindow (v : Vector W32 128) (ws : List W32) : Vector W32 128 :=
  (ws.zip (List.range ws.length)).foldl (fun v p => if h : 32 + p.2 < 128 then v.set (32 + p.2) p.1 else v) v

/-- The caller frames that stay resident beside a new frame of `need` words: the newest ones, at most four, in 96 words (R165). -/
def residentFrames (need : Nat) : List CallerFrame → List CallerFrame
  | [] => []
  | f :: fs =>
    if (f :: fs).length ≤ 4 ∧ need + ((f :: fs).map (fun c => c.words.length)).sum ≤ 96 then f :: fs else residentFrames need fs

/-- The caller frames of a call, oldest first, with the current frame and its link record pushed (R164, R166). -/
def Env.pushed (e : Env) : List CallerFrame := e.it.callers ++ [{ words := e.it.windowWords, ret := e.nextPc }]

/-- call, callx, calll (R166). A call that must spill waits for the engine, which marks the item once the frames are written (R165). -/
def enterProcedure (e : Env) (frame : BitVec 7) (t : W64) : Ending :=
  let top := e.it.stack + BitVec.ofNat 64 (4 * e.it.frame.toNat + 16)
  if !aligned t 4 then .trap e.it (misalignTransfer t)
  else if e.area.toNat + 16384 < top.toNat + 4 * frame.toNat then .trap e.it (stackTrap 0 e.area)
  else
    let kept := residentFrames frame.toNat e.pushed
    if kept.length < e.pushed.length ∧ e.it.got.isNone then .wait e.it (.spill (some frame.toNat) e.ilen e.now)
    else
      .jump { e.it with
        callers := kept
        stack := top
        frame := frame
        v := setWindow e.it.v (List.replicate frame.toNat 0)
        got := none } t

/-- PC-relative call (R166). -/
def execCall (o : ImmForm) (s : State) : Host.Outcome State Fault Refusal :=
  .next (s.mapWave (.call o) (fun e => enterProcedure e o.d (e.it.pc + wordOffset o.imm)))

/-- Call of a register pair's address (R166). -/
def execCallx (o : Form) (s : State) : Host.Outcome State Fault Refusal :=
  .next (s.mapWave (.callx o) (fun e => enterProcedure e o.d (e.it.readV2 o.a)))

/-- Call by a literal offset (R166). -/
def execCalll (o : LitForm) (s : State) : Host.Outcome State Fault Refusal :=
  .next (s.mapWave (.calll o) (fun e => enterProcedure e o.d (e.it.pc + byteOffset o.lit)))

/-- ret (R167). Where the caller's frame is not resident the fill engine brings it (R165), or marks the item with an invalid link. -/
def leaveProcedure (e : Env) : Ending :=
  if e.it.stack = e.area then .trap e.it (stackTrap 1 e.area)
  else
    match e.it.got, e.it.callers.getLast? with
    | some _, none => .trap { e.it with got := none } (stackTrap 2 (e.it.stack - 16))
    | none, none => .wait e.it (.spill none e.ilen e.now)
    | _, some f =>
      if !aligned f.ret 4 then .trap { e.it with got := none } (misalignTransfer f.ret)
      else
        .jump { e.it with
          callers := e.it.callers.dropLast
          stack := e.it.stack - BitVec.ofNat 64 (16 + 4 * f.words.length)
          frame := BitVec.ofNat 7 f.words.length
          v := setWindow e.it.v f.words
          got := none } f.ret

def execRet (o : Form) (s : State) : Host.Outcome State Fault Refusal :=
  .next (s.mapWave (.ret o) leaveProcedure)

/-! ### yield, nop, brk (R163) -/

/-- yield: the item goes behind every item that reaches its new PC in the same cycle, and is set aside. -/
def execYield (o : Form) (s : State) : Host.Outcome State Fault Refusal :=
  .next ((s.mapWave (.yield o) (fun e => .done { e.it with
    aside := some e.nextPc
    starved := false })).modGroup s.wave.gid (fun g => { g with items := g.items.mapAll (fun k it =>
      if s.wave.slots.contains k && it.aside.isSome then { it with joined := 4096 * s.tick + 1 } else it) }))

/-- nop changes nothing but the PC. -/
def execNop (o : Form) (s : State) : Host.Outcome State Fault Refusal :=
  .next (s.mapWave (.nop o) (fun e => .done e.it))

/-- brk traps BREAK with its code. -/
def execBrk (o : ImmForm) (s : State) : Host.Outcome State Fault Refusal :=
  .next (s.mapWave (.brk o) (fun e => .trap e.it { cause := causeBreak, addr := 0, info := o.imm.zeroExtend 32 }))

/-! ### exit and rfpt -/

/-- Does an outstanding-operation counter stand above zero (R146, R292)? -/
def Item.busy (it : Item) : Bool :=
  it.copyCount != 0 || it.matrixCount != 0 || it.gatherCount != 0 || it.collCount != 0

/-- The class an item still waits for. -/
def Item.busyClass (it : Item) : CounterClass :=
  if it.copyCount != 0 then .copy else if it.matrixCount != 0 then .matrix else if it.gatherCount != 0 then .gather else .collective

/-- The result of a bar.red for one of its suppliers (R311): flags, a trap by the item's own enables, the destination. -/
def Env.takeReduction (e : Env) (o : BarRedForm) (v : W64) (r : BitVec 6) : Ending :=
  let it := { e.it with
    sync := setBit e.it.sync o.bar.toNat false
    supply := none
    red := none
    got := none }
  let elem : ElemFlags := { flags := r.truncate 5, snan := r.getLsbD 5 }
  let dest : Dest := if redWide o.kind then .w2 v else .w (lo32 v)
  let out : Out := { dest := dest, pred := none, ist := 0, idiv := none, elems := [elem] }
  { e with it := it }.applyOut o.toForm out

/-- Every supplier of a closed barrier takes its result at once, and goes on after its bar.red (R311, guarded groups). -/
def State.giveResults (s : State) (gid k : Nat) : State :=
  match s.group? gid with
  | none => s
  | some g =>
    g.items.foldl (fun s p => match p.2.red, p.2.got with
      | some o, some (v, r) =>
        if o.bar.toNat = k then
          let e := { Env.of s g gid p.1 p.2 with ilen := 2 }
          let it := e.close (shapeOf (.barRed o)) (e.takeReduction o v r)
          s.setItem gid p.1 (if s.duplex g then it.copyWrites (shapeOf (.barRed o)).writes else it)
        else s
      | _, _ => s) s

/-- What follows departures and arrivals of a group's items: the barriers' tests, then the refill phase's (R142, R302). -/
def State.groupTests (s : State) (gid slot : Nat) : State :=
  (s.barrierTests groupReduce (fun s gid k => s.giveResults gid k) gid slot).refillUnguarded gid

/-- The item ends (R146): it leaves the group's operations and its slot, and the kernel's count of ended items rises (R128). -/
def State.endItem (s : State) (gid slot : Nat) : State :=
  match s.group? gid with
  | none => s
  | some g =>
    let s := (s.noteEvent gid slot).modGroup gid (fun g => g.leave slot)
    { (s.modKernel g.kh (fun k => { k with ended := k.ended + 1 })) with
      monitors := s.monitors.filter (fun p => p.2.gid != gid || p.2.slot != slot) }

/-- TRAPINFO of ACCUM and of a deferred trap (11 R241). -/
def accumInfo (step : Nat) (deferred : Bool) (name reason : Nat) : W32 :=
  BitVec.ofNat 32 (step % 65536 * 65536 + 32768 * boolNat deferred + 256 * (name % 8) + reason)

/-- The failed tile of which an item is a pending issuer, lowest name first (11 R231, R242). -/
def Group.deferred? (g : Group) (slot : Nat) : Option (Nat × TileError) :=
  g.tiles.findSome? (fun p => match p.2.failed with
    | some f => if f.pending.contains slot then some (p.1, f) else none
    | none => none)

/-- An issuer has taken its deferred trap; with none pending the tile is Idle (11 R231). -/
def Tile.takeDeferred (t : Tile) (slot : Nat) : Tile :=
  { t with
    failed := match t.failed with
      | some f => if (f.pending.erase slot).isEmpty then none else some { f with pending := f.pending.erase slot }
      | none => none }

/-- The deferred trap of R242. A guarded group is killed instead (19 R430, R431). -/
def State.deliverDeferred (s : State) (i : Instr) (e : Env) (name : Nat) (f : TileError) : State :=
  let s := s.modGroup e.gid (fun g => { g with tiles := Table.modify g.tiles name (fun t => t.takeDeferred e.slot) })
  match s.group? e.gid with
  | none => s
  | some g =>
    if g.guarded.isSome then s.killGuarded e.gid f.cause e.slot
    else e.finish i (.trap e.it { cause := f.cause, addr := f.addr, info := accumInfo f.step true name f.reason }) s

/-- exit (R146): a committing form (19 R428). A deferred trap is taken first (11 R242). -/
def execExit (o : Form) (s : State) : Host.Outcome State Fault Refusal :=
  .next (((s.commitWave (.exit o) false (fun e s =>
    match (s.group? e.gid).bind (fun g => g.deferred? e.slot) with
    | some (name, f) => s.deliverDeferred (.exit o) e name f
    | none =>
    if e.it.busy then e.finish (.exit o) (.wait e.it (.counter e.it.busyClass 0)) s
    else s.endItem e.gid e.slot)).groupTests s.wave.gid (s.wave.slots.headD 0)))

/-- rfpt (R145): an arrival at the refill phase; a second one blocks until the phase closes. -/
def execRfpt (o : Form) (s : State) : Host.Outcome State Fault Refusal :=
  .next ((s.foldWave (.rfpt o) false (fun e s =>
    let here := match (s.group? e.gid).bind (fun g => s.kernel? g.kh) with
      | some k => e.it.pc == k.descAddr + k.desc.refillPc
      | none => false
    if !here then e.finish (.rfpt o) (.trap e.it (illegal 0x0E 0)) s
    else if e.it.arrived then e.finish (.rfpt o) (.wait { e.it with held := true } .refill) s
    else e.finish (.rfpt o) (.done { e.it with arrived := true }) (s.noteEvent e.gid e.slot))).groupTests s.wave.gid (s.wave.slots.headD 0))

/-! ### hret and hskip (19 R417) -/

/-- The return from the handler to `t`: ILLEGAL outside a handler, MISALIGN for a target that is not aligned. -/
def handlerReturn (e : Env) (t : W64) : Ending :=
  if !e.it.inHandler then .trap e.it (illegal 0x0E 0)
  else if !aligned t 4 then .trap e.it (misalignTransfer t)
  else .jump (e.it.leaveHandler e.now t) t

def execHret (o : HretForm) (s : State) : Host.Outcome State Fault Refusal :=
  .next (s.mapWave (.hret o) (fun e => handlerReturn e (if o.tgt then e.it.readV2 o.a else e.it.trapPc)))

def execHskip (o : Form) (s : State) : Host.Outcome State Fault Refusal :=
  .next (s.mapWave (.hskip o) (fun e => handlerReturn e (e.it.trapPc + BitVec.ofNat 64 (4 * e.it.trapIlen))))

/-! ### Events of issue -/

/-- An encoding that fails decoding traps ILLEGAL in every item of the wave (03 R66, R67). -/
def execIllegalEncoding (bad : Illegal) (s : State) : Host.Outcome State Fault Refusal := .next (s.illegalWave bad)

/-- LAVIO is taken once the leaders the follower matches have completed (03 R64). -/
def execLavio (gid slot : Nat) (s : State) : Host.Outcome State Fault Refusal :=
  .next (match s.group? gid, s.item? gid slot with
    | some g, some it =>
      match it.wait with
      | .lavio d f ilen =>
        if it.leading then s
        else (s.setItem gid slot (it.takeTrap (s.handlerOf g.kh) s.tick ilen (lavioTrap d f))).settle gid
      | _ => s
    | _, _ => s)

/-- 64 cycles after a yield its item is ready again (08 R163). -/
def execYieldExpiry (gid slot : Nat) (s : State) : Host.Outcome State Fault Refusal :=
  .next (s.modItem gid slot (fun it => { it with aside := none }))

end Sys2Proof.Machine
end

