-- ==== Sys2Proof/Machine/Memory.lean ====
section
/-! DEFINITION. Physical memory and translation: the address map and homes (12 R250 to R253), bytes under key tags (04 R87), access
tables (04 R88), page tables and their walk (16 R352 to R356), TLBs (16 R357 to R359). -/

namespace Sys2Proof.Machine

/-! ### The address map -/

/-- The targets of R251. -/
inductive Target where
  | hbm | near (die : Nat) | cxl (die : Nat)
  deriving DecidableEq, Repr

/-- NEAR_b in bytes (R251, R464). -/
def nearBytes (cfg : W16) (die : Nat) : Nat := 0x4000000 * field cfg (3 * die + 2) (3 * die)

def State.port (s : State) (p : Nat) : Port := Table.read Port.cold s.ports p
def State.modPort (s : State) (p : Nat) (f : Port → Port) : State := { s with ports := Table.put s.ports p (f (s.port p)) }

abbrev nearBase : Nat := 0x10000000000
abbrev cxlBase : Nat := 0x8000000000000

/-- The target of a physical address, if it has one (R251; R383: an expander's window beyond its capacity is unbacked). -/
def State.target? (s : State) (pa : Nat) : Option Target :=
  if pa < 0xC000000000 then some .hbm
  else if nearBase ≤ pa ∧ pa < nearBase + 4 * 0x10000000 then
    let x := pa - nearBase
    if x % 0x10000000 < nearBytes s.dev.nearcfg (x / 0x10000000) then some (.near (x / 0x10000000)) else none
  else if cxlBase ≤ pa ∧ pa < cxlBase + 4 * 0x1000000000000 then
    let x := pa - cxlBase
    let p := s.port (x / 0x1000000000000)
    if p.role = 1 ∨ (p.role = 2 ∧ x % 0x1000000000000 < p.capacity / 0x10000000 * 0x10000000) then some (.cxl (x / 0x1000000000000))
    else none
  else none

/-- H of R252. -/
def homeHash (pa : Nat) : Nat := (pa / 2 ^ 7 % 256) ^^^ (pa / 2 ^ 15 % 256) ^^^ (pa / 2 ^ 23 % 256) ^^^ (pa / 2 ^ 31 % 256)

/-- The home slice of an HBM4 or CXL line (R252). -/
def homeSlice (pa : Nat) : Nat :=
  if cxlBase ≤ pa then 64 * ((pa - cxlBase) / 0x1000000000000 % 4) + homeHash pa % 64 else homeHash pa

/-- The home base die of an address (R252). -/
def State.homeDie (s : State) (pa : Nat) : Nat :=
  match s.target? pa with
  | some (.near b) => b
  | _ => homeSlice pa / 64

/-- The slice that serves a die's accesses to a line (R260). -/
def servingSlice (die pa : Nat) : Nat := 64 * die + homeSlice pa % 64

/-- Is the address in a CXL window? -/
def State.isCxl (s : State) (pa : Nat) : Bool :=
  match s.target? pa with
  | some (.cxl _) => true
  | _ => false

/-- Is it host memory behind an upstream port (R264)? -/
def State.isHost (s : State) (pa : Nat) : Bool :=
  match s.target? pa with
  | some (.cxl b) => (s.port b).role == 1
  | _ => false

/-! ### Bytes -/

/-- The tag under which a line is held: key id and generation of its key pair (R87). The near store is not encrypted, and its bytes stand
under tag 0. -/
def State.tagAt (s : State) (pa key : Nat) : Nat :=
  match s.target? pa with
  | some (.near _) => 0
  | _ => s.keyTag key

def Memory.tag (m : Memory) (line : Nat) : Nat := Table.read 0 m.tags line

/-- A byte read under a tag (R253, R457): what was written under it, zero under key id 0, otherwise an unpredictable byte. -/
def Memory.byte (m : Memory) (tag a : Nat) : W8 :=
  if m.tag (lineOf a) = tag then
    match Table.get? m.bytes a with
    | some b => b
    | none => if tag = 0 then 0 else Config.staleByte tag a
  else Config.staleByte tag a

/-- A line filled under another tag: none of its bytes is known under it (R253). -/
def Memory.retag (m : Memory) (line tag : Nat) : Memory :=
  { m with
    bytes := m.bytes.filter (fun c => lineOf c.1 != line)
    tags := Table.write 0 m.tags line tag }

/-- A byte written under a tag. Writing a zero under tag 0 removes the entry. -/
def Memory.writeByte (m : Memory) (tag a : Nat) (b : W8) : Memory :=
  let m := if m.tag (lineOf a) = tag then m else m.retag (lineOf a) tag
  { m with bytes := if tag = 0 then Table.write 0 m.bytes a b else Table.put m.bytes a b }

def Memory.read (m : Memory) (tag a n : Nat) : List W8 := (upTo n).map (fun j => m.byte tag (a + j))

def Memory.write (m : Memory) (tag a : Nat) (bs : List W8) : Memory :=
  (bs.zip (upTo bs.length)).foldl (fun m p => m.writeByte tag (a + p.2) p.1) m

/-- Is a line poisoned (R425)? -/
def Memory.poisoned (m : Memory) (line : Nat) : Bool := Table.read false m.poison line

def Memory.setPoison (m : Memory) (line : Nat) (b : Bool) : Memory := { m with poison := Table.write false m.poison line b }

/-- A write and what it does to poison (R276, R426): only one that covers a whole line clears it. -/
def Memory.store (m : Memory) (tag a : Nat) (bs : List W8) : Memory :=
  let m := m.write tag a bs
  if bs.length = 128 ∧ a % 128 = 0 then m.setPoison (lineOf a) false else m

/-- Bytes of physical memory under key id 0, as firmware and the walkers read them (R352). -/
def State.physRead (s : State) (a n : Nat) : List W8 := s.memory.read 0 a n

def State.physWrite (s : State) (a : Nat) (bs : List W8) : State := { s with memory := s.memory.write 0 a bs }

/-- The canonical form of memory: cells, tags and poison marks in rising order; no zero byte in a line under tag 0; no listed tag 0; no
listed mark that is clear. -/
def Memory.wf (m : Memory) : Bool :=
  Table.sorted m.bytes && m.bytes.all (fun c => m.tag (lineOf c.1) != 0 || c.2 != 0) && Table.canonical 0 m.tags &&
    Table.canonical false m.poison

/-! ### Access tables (R88) -/

/-- Does a region grant an access of `n` bytes (R82, R88)? -/
def Region.grants (r : Region) (pa n : Nat) (engine write : Bool) : Bool :=
  decide (r.base ≤ pa) && decide (pa + n ≤ r.base + r.size * 0x200000) && r.rights.getLsbD (2 * boolNat engine + boolNat write)

/-- Is an access of a context granted at its target (R88, R89, R251)? -/
def State.granted (s : State) (ctx pa n : Nat) (engine write : Bool) : Bool :=
  let c := s.context ctx
  match s.target? pa with
  | none => false
  | some (.cxl _) => c.regions.any (fun r => r.grants pa n engine write) && c.rate.getD 3 0 != 0
  | some _ => c.regions.any (fun r => r.grants pa n engine write)

/-! ### Page tables (R352 to R356) -/

/-- REASON of R364. -/
abbrev reasonNonCanon : Nat := 1
abbrev reasonPool : Nat := 2
abbrev reasonMalformed : Nat := 3
abbrev reasonNotPresent : Nat := 4
abbrev reasonRights : Nat := 5

/-- A leaf that a walk has reached. -/
structure Leaf where
  addr : Nat
  logSize : Nat
  code : Nat
  r : Bool
  w : Bool
  x : Bool
  level : Nat
  deriving DecidableEq, Repr

/-- What a walk gives: a leaf, or a fault with REASON and LEVEL, and the address of the entry where that is poisoned (R424). -/
inductive Walked where
  | leaf (l : Leaf)
  | fault (reason level : Nat) (bad : Option Nat)
  deriving DecidableEq, Repr

/-- The page of a leaf: log2 of its bytes and its SIZE code, by level and SZ (R355). -/
def pageSize (level sz : Nat) : Option (Nat × Nat) :=
  match level, sz with
  | 0, 0 => some (12, 0)
  | 0, 1 => some (14, 1)
  | 0, 2 => some (16, 2)
  | 0, 3 => some (18, 3)
  | 1, 0 => some (21, 4)
  | 1, 1 => some (25, 5)
  | 1, 2 => some (28, 6)
  | 2, 0 => some (30, 7)
  | _, _ => none

/-- Is a 4 KiB table inside the pool (R352)? -/
def State.inPool (s : State) (a : Nat) : Bool :=
  decide (s.dev.poolBase ≤ a) && decide (a + 4096 ≤ s.dev.poolBase + s.dev.poolSize)

/-- A poisoned entry is taken as malformed (R424). -/
def State.tableEntry (s : State) (a : Nat) : Option W64 :=
  if s.memory.poisoned (lineOf a) then none else some (BitVec.ofNat 64 (leNat (s.physRead a 8)))

/-- ADDR of an entry (R354). -/
def entryAddr (e : W64) : Nat := 4096 * field e 51 12

/-- The reserved fields of an entry (R354). -/
def entryReserved (e : W64) : Bool := field e 63 60 != 0 || field e 55 52 != 0 || field e 11 8 != 0 || e.getLsbD 2

/-- Is the entry at an address a leaf whose page spans `n` entries of a table of a level (R355)? V, LEAF and SZ stand in its first byte (R354). -/
def State.leafAt (s : State) (level n a : Nat) : Bool :=
  !s.memory.poisoned (lineOf a) && (s.physRead a 1).any (fun b => b.getLsbD 0 && b.getLsbD 1 &&
    (match pageSize level (b.toNat / 64) with
     | some (log, _) => log == 12 + 9 * level + Nat.log2 n
     | none => false))

/-- The pages of several entries, by level (R355). -/
def pageSpans (level : Nat) : List Nat :=
  match level with
  | 0 => [4, 16, 64]
  | 1 => [16, 128]
  | _ => []

/-- The entry that a translation takes at an index of a table: its own, or, in the block of a page of several entries, any of the block's (R355). -/
def State.blockEntry (s : State) (table index level : Nat) : Option W64 :=
  let own := s.tableEntry (table + 8 * index)
  let place (n j : Nat) : Nat := table + 8 * (index / n * n + j)
  let others := (pageSpans level).flatMap (fun n =>
    if (upTo n).any (fun j => s.leafAt level n (place n j)) then
      ((upTo n).map (fun j => s.tableEntry (place n j))).filter (fun e => e != own)
    else [])
  match others with
  | [] => own
  | _ => (own :: others).getD (Config.choice s.tick index % (others.length + 1)) own

/-- The walk from the table at `t` of level `level` (R356); `level + 1` levels remain. -/
def State.walkFrom (s : State) (ea : W64) : Nat → Nat → Walked
  | level, t =>
    if !s.inPool t then .fault reasonPool level none
    else
      let index := field ea (20 + 9 * level) (12 + 9 * level)
      match s.blockEntry t index level with
      | none => .fault reasonMalformed level (some (t + 8 * index))
      | some e =>
        if !e.getLsbD 0 then .fault reasonNotPresent level none
        else if entryReserved e then .fault reasonMalformed level none
        else if !e.getLsbD 1 then
          match level with
          | 0 => .fault reasonMalformed 0 none
          | l + 1 => if field e 7 3 != 0 then .fault reasonMalformed (l + 1) none else s.walkFrom ea l (entryAddr e)
        else
          match pageSize level (field e 7 6) with
          | none => .fault reasonMalformed level none
          | some (log, code) =>
            if (e.getLsbD 4 && !e.getLsbD 3) || entryAddr e % 2 ^ log != 0 then .fault reasonMalformed level none
            else .leaf { addr := entryAddr e, logSize := log, code := code, r := e.getLsbD 3, w := e.getLsbD 4, x := e.getLsbD 5, level := level }

/-- Bits 63:57 are copies of bit 56 (R356). -/
def canonicalVa (ea : W64) : Bool := ea.toNat / 2 ^ 56 == 0 || ea.toNat / 2 ^ 56 == 255

/-- The root table of a context (R353). -/
def State.rootOf (s : State) (ctx : Nat) : Nat := 4096 * field (s.context ctx).ptroot 51 12

/-- The walk of an address in a context, for no access kind (R356, R367). -/
def State.probe (s : State) (ctx : Nat) (ea : W64) : Walked :=
  if canonicalVa ea then s.walkFrom ea 4 (s.rootOf ctx) else .fault reasonNonCanon 0 none

/-- Does a page grant an access kind: 0 read, 1 write, 2 fetch? -/
def kindGranted (r w x : Bool) (kind : Nat) : Bool := if kind = 0 then r else if kind = 1 then w else x

/-- A walk's result for an access kind. -/
def Walked.forKind (w : Walked) (kind : Nat) : Walked :=
  match w with
  | .leaf l => if kindGranted l.r l.w l.x kind then .leaf l else .fault reasonRights l.level none
  | f => f

/-- Translate (R356) by a walk of the tables as they stand. -/
def State.walkKind (s : State) (ctx : Nat) (ea : W64) (kind : Nat) : Walked := (s.probe ctx ea).forKind kind

/-- The physical address that a leaf gives. -/
def Leaf.pa (l : Leaf) (ea : W64) : Nat := l.addr + ea.toNat % 2 ^ l.logSize

/-- TRAPINFO of PAGEFAULT (R364). -/
def pageFaultInfo (replay : Bool) (kind level reason : Nat) : W32 :=
  BitVec.ofNat 32 (1024 * boolNat replay + 256 * kind + 16 * level + reason)

def pageFaultTrap (va : W64) (replay : Bool) (kind level reason : Nat) : Trap :=
  { cause := causePageFault, addr := va, info := pageFaultInfo replay kind level reason }

/-- NOTPRESENT and RIGHTS are replayable (R361). -/
def replayable (reason : Nat) : Bool := reason == reasonNotPresent || reason == reasonRights

/-! ### TLBs -/

/-- The page number that names misses and faults, ea[56:12] (R358, R361). -/
def pageOf (ea : W64) : Nat := field ea 56 12

def TlbEntry.covers (t : TlbEntry) (ctx : Nat) (ea : W64) : Bool :=
  t.ctx == ctx && ea.toNat % 2 ^ 57 / 2 ^ t.logSize == t.base / 2 ^ t.logSize

/-- The upper bits of an address that lead to its table of a level (R356). -/
def pathPrefix (ea : W64) (level : Nat) : Nat := ea.toNat % 2 ^ 57 / 2 ^ (21 + 9 * level)

/-- The places from which a walker of a die may begin a walk: the root, and the tables that it holds on the address's path (R357). -/
def State.walkStarts (s : State) (die ctx : Nat) (ea : W64) : List (Nat × Nat) :=
  (4, s.rootOf ctx) :: (s.paths.filter (fun p => p.2.die == die && p.2.ctx == ctx && p.2.prefix_ == pathPrefix ea p.2.level)).map (fun p =>
    (p.2.level, p.2.table))

/-- The tables that a walk from a place visits below it. -/
def State.pathFrom (s : State) (ea : W64) : Nat → Nat → List (Nat × Nat)
  | 0, _ => []
  | level + 1, t =>
    match s.blockEntry t (field ea (20 + 9 * (level + 1)) (12 + 9 * (level + 1))) (level + 1) with
    | some e => if e.getLsbD 0 && !e.getLsbD 1 && s.inPool (entryAddr e) then (level, entryAddr e) :: s.pathFrom ea level (entryAddr e) else []
    | none => []

/-- The walk of a die's walker (R356, R357): from the root, or, where the tables have changed since the walker has read them, from any place it
holds. The place comes with the result. -/
def State.walkOf (s : State) (die ctx : Nat) (ea : W64) (kind : Nat) : (Nat × Nat) × Walked :=
  let full := ((4, s.rootOf ctx), s.walkKind ctx ea kind)
  if !canonicalVa ea then full
  else
    let all := (s.walkStarts die ctx ea).map (fun p => (p, (s.walkFrom ea p.1 p.2).forKind kind))
    if all.all (fun p => p.2 == full.2) then full else all.getD (Config.choice s.tick (pageOf ea) % all.length) full

/-- The walker keeps what a walk has read of tables: at most 128 entries a die. -/
def State.keepPath (s : State) (die ctx : Nat) (ea : W64) (start : Nat × Nat) : State :=
  (s.pathFrom ea start.1 start.2).foldl (fun s p =>
    let same (x : TablePath) : Bool := x.die == die && x.ctx == ctx && x.level == p.1 && x.prefix_ == pathPrefix ea p.1
    let kept : Table TablePath := s.paths.filter (fun x => !same x.2)
    let mine := kept.keysOf (fun _ x => x.die == die)
    { s with
      paths := Table.put (if mine.length < 128 then kept else Table.erase kept (mine.headD 0)) s.nextId
        { die := die, ctx := ctx, level := p.1, prefix_ := pathPrefix ea p.1, table := p.2 }
      nextId := s.nextId + 1 }) s

/-- The entry of a unit that covers an address (R357). -/
def State.tlb? (s : State) (unit ctx : Nat) (ea : W64) : Option TlbEntry :=
  (s.tlbs.find? (fun p => p.2.unit == unit && p.2.covers ctx ea)).map Prod.snd

/-- The entries of a unit that cover an address are discarded (R359). -/
def State.dropTlb (s : State) (unit ctx : Nat) (ea : W64) : State :=
  { s with tlbs := s.tlbs.filter (fun p => p.2.unit != unit || !p.2.covers ctx ea) }

/-- The units of the base-die TLB and of the cluster TLB of a core (R357), and the entries that a unit holds. -/
def dieTlb (die : Nat) : Nat := 1024 + die
def clusterTlb (core : Nat) : Nat := 2048 + clusterOf core
def unitEntries (unit : Nat) : Nat := if unit < 1024 then 32 else if unit < 2048 then 4096 else 512

/-- The entry that serves a core: of its own TLB, of its cluster's, of its base die's (R358). -/
def State.tlbFor (s : State) (core ctx : Nat) (ea : W64) : Option TlbEntry :=
  ((s.tlb? core ctx ea).or (s.tlb? (clusterTlb core) ctx ea)).or (s.tlb? (dieTlb (dieOfCore core)) ctx ea)

/-- An entry enters a unit's TLB; of a full one the oldest goes (R357). -/
def State.fillTlb (s : State) (unit ctx : Nat) (ea : W64) (l : Leaf) : State :=
  let s := s.dropTlb unit ctx ea
  let mine := s.tlbs.keysOf (fun _ t => t.unit == unit)
  let t := if mine.length < unitEntries unit then s.tlbs else Table.erase s.tlbs (mine.headD 0)
  { s with
    tlbs := Table.put t s.nextId
      { unit := unit, ctx := ctx, base := ea.toNat % 2 ^ 57 / 2 ^ l.logSize * 2 ^ l.logSize, logSize := l.logSize, addr := l.addr
        r := l.r, w := l.w, x := l.x }
    nextId := s.nextId + 1 }

/-- A walk has granted an access of a core: the entries on the request path are filled (R365). -/
def State.fillPath (s : State) (core ctx : Nat) (ea : W64) (l : Leaf) : State :=
  ((s.fillTlb (dieTlb (dieOfCore core)) ctx ea l).fillTlb (clusterTlb core) ctx ea l).fillTlb core ctx ea l

/-- Does a walk that is under way serve a miss: of the same base die, context and page (R358)? -/
def Walk.serves (w : Walk) (core ctx page : Nat) : Bool := dieOfCore w.unit == dieOfCore core && w.ctx == ctx && w.page == page

/-- A miss of a core joins the pending request of its page, or starts a walk (R358). -/
def State.startWalk (s : State) (core ctx : Nat) (ea : W64) (kind : Nat) : State :=
  if s.walks.any (fun p => p.2.serves core ctx (pageOf ea)) then s
  else
    { s with
      walks := Table.put s.walks s.nextId { unit := core, ctx := ctx, page := pageOf ea, va := ea, kind := kind }
      nextId := s.nextId + 1 }

/-- What translation gives at once: a physical address, a trap, or a miss, whose walk has begun. -/
inductive Translated where
  | ok (pa : Nat)
  | trap (t : Trap)
  | miss (s : State)

/-- Translation of a core's access through the TLBs (R357 to R360). -/
def State.translate (s : State) (core ctx : Nat) (ea : W64) (kind : Nat) : Translated :=
  if !canonicalVa ea then .trap (pageFaultTrap ea false kind 0 reasonNonCanon)
  else
    match s.tlbFor core ctx ea with
    | some t =>
      if kindGranted t.r t.w t.x kind then .ok (t.addr + ea.toNat % 2 ^ t.logSize)
      else .miss ((s.dropTlb t.unit ctx ea).startWalk core ctx ea kind)
    | none => .miss (s.startWalk core ctx ea kind)

/-! ### Faults (R361, R362) -/

/-- A replayable fault is posted on its key; a fault outstanding there takes it in (R361). -/
def State.postFault (s : State) (ctx : Nat) (ea : W64) (reason level kind : Nat) (engine : Bool) : State :=
  if s.faults.any (fun p => p.2.ctx == ctx && p.2.page == pageOf ea) then s
  else
    { s with
      faults := Table.put s.faults s.nextId
        { ctx := ctx, page := pageOf ea, va := ea, reason := reason, kind := kind, level := level, engine := engine, fid := none }
      nextId := s.nextId + 1 }

/-- An engine's, a matrix unit's or the spill engine's access: it looks up its die's TLB and walks within the step that makes it. The
result is an address, a fault that is not replayable, or a fault key to wait on, which the state has posted. -/
inductive EngineTranslated where
  | ok (pa : Nat) (s : State)
  | fail (reason level : Nat) (s : State)
  | wait (s : State)

/-- A poisoned page-table entry writes a device record (R424). -/
def State.notePoisonedEntry (s : State) (bad : Option Nat) : State :=
  match bad with
  | none => s
  | some a => s.deviceError 7 a 0 (homeSlice a / 64) (0x42 + homeSlice a % 4)

def State.engineTranslate (s : State) (die ctx : Nat) (ea : W64) (kind : Nat) (engine : Bool) : EngineTranslated :=
  if !canonicalVa ea then .fail reasonNonCanon 0 s
  else
    match s.tlb? (dieTlb die) ctx ea with
    | some t =>
      if kindGranted t.r t.w t.x kind then .ok (t.addr + ea.toNat % 2 ^ t.logSize) s
      else walkNow (s.dropTlb (dieTlb die) ctx ea)
    | none => walkNow s
where
  walkNow (s : State) : EngineTranslated :=
    let (start, w) := s.walkOf die ctx ea kind
    match w with
    | .leaf l => .ok (l.pa ea) ((s.keepPath die ctx ea start).fillTlb (dieTlb die) ctx ea l)
    | .fault reason level bad =>
      if replayable reason then .wait (s.postFault ctx ea reason level kind engine)
      else .fail reason level (s.notePoisonedEntry bad)

end Sys2Proof.Machine
end

