-- ==== Sys2Proof/Machine/Lines.lean ====
section
/-! DEFINITION. How global accesses are served (12 R259 to R265, R275, R276; 13 R280 to R285): token buckets, L2 lines and their tokens,
cluster L1 copies, CXL half-lines, and the reading and writing of a line at a slice. -/

namespace Sys2Proof.Machine

/-! ### Buckets (04 R89, 15 R347, R348) -/

/-- Classes of R347: 0 die, 1 device, 2 fabric, 3 CXL. -/
def State.coreClass (s : State) (core pa : Nat) : Nat :=
  if s.isCxl pa then 3 else if s.homeDie pa = dieOfCore core then 0 else 1

/-- A bucket's number: sources are cores 0..1023 and engines 1024 + 17 × die + engine. -/
def bucketKey (source ctx cls : Nat) : Nat := (source * 1024 + ctx) * 4 + cls

def State.bucket (s : State) (source ctx cls : Nat) : Int :=
  Table.read ((s.context ctx).depth.getD cls 0 : Int) s.buckets (bucketKey source ctx cls)

/-- Is a bucket never empty (R89)? -/
def State.boundless (s : State) (ctx cls : Nat) : Bool := (s.context ctx).rate.getD cls 0 == 0xFFFFFFFF

/-- May a charge be taken (R347)? -/
def State.mayCharge (s : State) (source ctx cls : Nat) : Bool := s.boundless ctx cls || decide (0 < s.bucket source ctx cls)

/-- The charge of an access (R347). -/
def State.charge (s : State) (source ctx cls bytes : Nat) : State :=
  if s.boundless ctx cls then s
  else { s with buckets := Table.put s.buckets (bucketKey source ctx cls) (s.bucket source ctx cls - max 1 ((bytes + 63) / 64 : Nat)) }

/-- A group whose item finds its bucket empty is throttled (R348). -/
def State.throttle (s : State) (gid : Nat) : State := s.modGroup gid (fun g => { g with throttled := true })

/-! ### L2 lines (12 R260, 13 R284) -/

def State.l2Of (s : State) (slice : Nat) : Table L2Line := Table.read [] s.l2 slice
def State.setL2 (s : State) (slice line : Nat) (l : L2Line) : State :=
  { s with l2 := Table.put s.l2 slice (Table.put (s.l2Of slice) line l) }
def State.floorOf (s : State) (slice : Nat) : Nat := Table.read 0 s.floors slice

def L2Line.tokens (l : L2Line) : Nat := l.plain + boolNat l.owner

/-- The slices that can hold a line: one on each base die (R260). -/
def slicesOf (pa : Nat) : List Nat := (upTo 4).map (fun b => servingSlice b pa)

/-- A line at a slice. Absent from its home, it holds there every token that no other slice holds, with WTS = LEASE = FLOOR (R281, R284). -/
def State.l2At (s : State) (slice pa : Nat) : L2Line :=
  let line := lineOf pa
  match Table.get? (s.l2Of slice) line with
  | some l => l
  | none =>
    let blank : L2Line := { key := 0, plain := 0, owner := false, wts := s.floorOf slice, lease := s.floorOf slice, dirty := false
                            poison := false, pins := 0, data := [], half0 := 0, half1 := 0 }
    if slice = homeSlice pa then
      let others := (slicesOf pa).filterMap (fun q => if q = slice then none else Table.get? (s.l2Of q) line)
      { blank with
        plain := 4 - (others.map L2Line.plain).sum
        owner := !others.any L2Line.owner }
    else blank

/-- A slice drops a line: FLOOR takes its LEASE (R281). -/
def State.dropL2 (s : State) (slice line : Nat) : State :=
  match Table.get? (s.l2Of slice) line with
  | none => s
  | some l =>
    { s with
      floors := Table.put s.floors slice (max (s.floorOf slice) l.lease)
      l2 := Table.put s.l2 slice (Table.erase (s.l2Of slice) line) }

/-! ### CXL lines (13 R298, 17 R382 to R386) -/

/-- The port of a CXL address. -/
def cxlPort (pa : Nat) : Nat := (pa - cxlBase) / 0x1000000000000 % 4

/-- The MESI state of a half-line: 0 I, 1 S, 2 E, 3 M (R298). -/
def L2Line.half (l : L2Line) (h : Nat) : Nat := if h = 0 then l.half0 else l.half1
def L2Line.setHalf (l : L2Line) (h st : Nat) : L2Line :=
  if h = 0 then { l with half0 := st } else { l with half1 := st }

/-- The 64 bytes of half `h` of a line. -/
def L2Line.halfData (l : L2Line) (h : Nat) : List W8 := (l.data.drop (64 * h)).take 64

/-- The context that holds the key id of a tag. -/
def State.keyContext (s : State) (tag : Nat) : Option Nat :=
  if tag % 4096 = 0 then none
  else (s.contexts.find? (fun p => p.2.key == tag % 4096 && p.2.state != .tornDown)).map Prod.fst

/-- The context of a line's key that is being replayed, if it is: its port sends nothing and supplies the logged responses (18 R403). -/
def State.replayedLine (s : State) (l : L2Line) : Option Nat := (s.keyContext l.key).filter (fun ctx => (s.hind ctx).replaying)

/-- Is an entry of a port's log the response for a half-line (18 R401; log 10: ARRIVE holds the half-line's number as the port's tag)? -/
def isResponse (half : Nat) (e : HcEntry) : Bool := leAt e 0 1 == 8 && leAt e 4 4 == half % 2 ^ 32

/-- A port sends a request for a half-line (R298, R385). -/
def State.portSends (s : State) (kind half : Nat) (ctx : Option Nat) : State :=
  { (s.modPort (cxlPort (64 * half)) (fun p => { p with
      requests := Table.put p.requests s.nextId { kind := kind, half := half, ctx := ctx } })) with
    nextId := s.nextId + 1 }

/-- A write of a modified half-line towards the expander or the host, with its poison (R260, R298, R384), which is timed (R385). The expander's
memory takes it as it is sent, and what goes to the host is the host's (log 43); a port that is not Up drops it and counts it. -/
def State.writeBackHalf (s : State) (pa : Nat) (l : L2Line) (h : Nat) : State :=
  if l.half h = 3 ∧ (s.replayedLine l).isNone then
    let a := lineOf pa * 128 + 64 * h
    if (s.port (cxlPort pa)).state ≠ .up then s.modPort (cxlPort pa) (fun p => { p with dropWr := p.dropWr + 1 })
    else
      let s := if s.isHost pa then s else { s with memory := (s.memory.write l.key a (l.halfData h)).setPoison (lineOf pa) l.poison }
      let s := if l.poison then s.modPort (cxlPort pa) (fun p => { p with poisonOut := p.poisonOut + 1 }) else s
      s.portSends (if s.isHost pa then 4 else 1) (a / 64) (s.keyContext l.key)
  else s

/-- Write-back of a dirty CXL line. -/
def State.writeBackCxl (s : State) (pa : Nat) (l : L2Line) : State := (s.writeBackHalf pa l 0).writeBackHalf pa l 1

/-- A line at a slice under a key tag: one held under another is written back and filled again (R253). -/
def State.underKey (s : State) (slice pa tag : Nat) : State × L2Line :=
  let l := s.l2At slice pa
  if l.key = tag then (s, l)
  else
    let s := if s.isCxl pa then s.writeBackCxl pa l else s
    let s := s.dropL2 slice (lineOf pa)
    let f := s.floorOf slice
    let l := { l with
      key := tag
      wts := f
      lease := f
      dirty := false
      poison := false
      data := []
      half0 := 0
      half1 := 0 }
    (s.setL2 slice (lineOf pa) l, l)

/-- Does a request bring a half-line: a read or an ownership request? -/
def PortRequest.fills (r : PortRequest) : Bool := r.kind == 0 || r.kind == 2 || r.kind == 3

/-- A request of a port for a half-line, unless one is out already (R298, R385). A port that is being disabled sends no new one (R386). -/
def State.cxlRequest (s : State) (pa kind : Nat) : State :=
  let p := s.port (cxlPort pa)
  if p.requests.any (fun r => r.2.half == pa / 64 && r.2.fills) || p.disabling then s
  else s.portSends kind (pa / 64) (s.keyContext (s.l2At (homeSlice pa) pa).key)

/-- Whether the halves an access touches are held as it needs them. -/
inductive Held where
  | yes | no (s : State) | dead
  deriving DecidableEq

/-- R298's first column of states, for a read or a write of `n` bytes, or of the whole line for a fill: what is missing is asked for, and a port that
is not Up answers with poison at once (R385, R386). A write to host memory asks for ownership, without the data where the half-line is held in S.
Under replay the port answers as the log does, with poison where it holds no response. -/
def State.cxlHeld (s : State) (pa n : Nat) (write fill : Bool) (l : L2Line) : Held :=
  let h0 := pa / 64 % 2
  let h1 := (pa + n - 1) / 64 % 2
  let own := write && s.isHost pa
  let need := if own then 2 else 1
  let missing := ((if fill then [0, 1] else [h0, h1]).filter (fun h => decide (l.half h < need))).eraseDups
  let kind (h : Nat) : Nat := if !own then 0 else if l.half h = 0 then 2 else 3
  let answered : Bool := match s.replayedLine l with
    | some ctx => missing.all (fun h => ((s.hind ctx).segment (recPort (cxlPort pa))).any (isResponse (2 * lineOf pa + h)))
    | none => (s.port (cxlPort pa)).state == .up
  if missing.isEmpty then .yes
  else if answered then .no (missing.foldl (fun s h => s.cxlRequest (lineOf pa * 128 + 64 * h) (kind h)) s)
  else .dead

/-! ### The L1s -/

/-- Ownership of a line held in O by other clusters than `keep` is recalled (R259, R265). -/
def State.recall (s : State) (line : Nat) (keep : Option Nat) : State :=
  { s with l1 := s.l1.mapAll (fun c t =>
      if some c = keep then t else t.mapAll (fun k l => if k = line ∧ l.state = .owned then { l with state := .valid } else l)) }

/-- The copy's WTS becomes the store's stamp when the stamp returns (R281). -/
def State.stampCopy (s : State) (cluster pa key wts : Nat) : State :=
  s.modL1 cluster (fun t => t.mapAll (fun k l => if k = lineOf pa ∧ l.key = key then { l with wts := max l.wts wts } else l))

/-! ### Reading and writing at the place of service -/

/-- What a try to serve gives: not yet (requests may have gone out), the bytes with their WTS and the lease end, or poison. -/
inductive Service where
  | notYet (s : State)
  | served (s : State) (data : List W8) (wts lend : Nat)
  | poisoned (s : State)

/-- The recorder of a place of service: the slice's group, or for the near store that of slices 0..7 of its die (R394). -/
def State.placeRecorder (s : State) (slice pa : Nat) : Nat :=
  match s.target? pa with
  | some (.near b) => recSlice (8 * b)
  | _ => recSlice (slice / 8)

/-- Bytes of a line as they stand at its place of service. -/
def State.placeBytes (s : State) (l : L2Line) (pa n key : Nat) : List W8 :=
  if s.isCxl pa then (l.data.drop (pa % 128)).take n else s.memory.read (s.tagAt pa key) pa n

/-- A read of `n` bytes at a slice or at the near store, granting a lease for VIEW `view` where one is asked for (R281). -/
def State.readAt (s : State) (slice pa n key : Nat) (view : Option Nat) : Service :=
  match s.target? pa with
  | none => .poisoned s
  | some (.near _) =>
    if s.memory.poisoned (lineOf pa) then .poisoned s
    else .served s (s.memory.read 0 pa n) (Table.read 0 s.nearWts (lineOf pa)) 0
  | some t =>
    let place := if s.isCxl pa then homeSlice pa else slice
    if (s.l2At slice pa).tokens = 0 then .notYet s
    else
      let (s, l) := s.underKey place pa (s.tagAt pa key)
      let lease := match view with | some v => max l.lease (v + 1024) | none => l.lease
      let l := { l with lease := lease }
      match t with
      | .cxl _ =>
        match s.cxlHeld pa n false view.isSome l with
        | .dead => .poisoned s
        | .no s => .notYet s
        | .yes => if l.poison then .poisoned s else .served (s.setL2 place (lineOf pa) l) (s.placeBytes l pa n key) l.wts lease
      | _ =>
        if s.memory.poisoned (lineOf pa) then .poisoned s
        else .served (s.setL2 place (lineOf pa) l) (s.placeBytes l pa n key) l.wts lease

/-- A write at the slice holding all five tokens, or at the near store: its stamp (R281). Writes under a key id that is not bound are
dropped and counted (R87). Pinned lines wait (R260). -/
def State.writeAt (s : State) (slice pa key : Nat) (bs : List W8) (view : Nat) : Service :=
  if s.keyState key ≠ 1 then .served { s with dev := { s.dev with kdrop := s.dev.kdrop + 1 } } [] 0 0
  else
    match s.target? pa with
    | none => .served s [] 0 0
    | some (.near _) =>
      let w := max (Table.read 0 s.nearWts (lineOf pa) + 1) view
      .served { s with nearWts := Table.put s.nearWts (lineOf pa) w, memory := s.memory.store 0 pa bs } [] w 0
    | some t =>
      let place := if s.isCxl pa then homeSlice pa else slice
      if (s.l2At slice pa).tokens < 5 ∨ (s.l2At slice pa).pins ≠ 0 then .notYet s
      else
        let (s, l) := s.underKey place pa (s.tagAt pa key)
        let w := max (l.lease + 1) view
        let l := { l with wts := w, lease := w, dirty := true }
        match t with
        | .cxl b =>
          match s.cxlHeld pa bs.length true false l with
          | .dead => .served (s.modPort b (fun p => { p with dropWr := p.dropWr + 1 })) [] 0 0
          | .no s => .notYet s
          | .yes =>
            let l := ([pa / 64 % 2, (pa + bs.length - 1) / 64 % 2].foldl (fun l h => l.setHalf h 3) l)
            let l := { l with
              data := overlay l.data (pa % 128) bs
              poison := l.poison && bs.length != 128 }
            .served (s.setL2 place (lineOf pa) l) [] w 0
        | _ =>
          let s := { s with memory := s.memory.store (s.tagAt pa key) pa bs }
          .served (s.setL2 place (lineOf pa) l) [] w 0

/-- The kernel of an item that has stored to an executable page keeps the words that stood there before the store (R56). -/
def State.noteCodeStore (s before : State) (gid : Nat) (va : W64) (pa n key : Nat) : State :=
  match s.group? gid with
  | none => s
  | some g =>
    match s.probe g.ctx va with
    | .leaf l =>
      if !l.x then s
      else
        let line := before.l2At (homeSlice pa) pa
        let words := (upTo ((pa + n - 1) / 4 + 1 - pa / 4)).map (fun j => pa / 4 + j)
        s.modKernel g.kh (fun k => { k with oldWords := words.foldl (fun t w =>
          let x := BitVec.ofNat 32 (leNat (before.placeBytes line (4 * w) 4 key))
          let old := Table.read [] t w
          if old.contains x then t else Table.put t w (old ++ [x])) k.oldWords })
    | .fault _ _ _ => s

/-- The requester is done with its persistent request (R285). -/
def State.deactivate (s : State) (slice line : Nat) : State :=
  { s with
    active := s.active.filter (fun p => !(p.1 == slice && p.2.1 == line))
    persistent := s.persistent.filter (fun p => !(p.1 == slice && p.2.1 == line)) }

/-- Is an access that a slice serves still waiting for tokens of a line? -/
def State.wantsLine (s : State) (slice line : Nat) : Bool :=
  s.accesses.any (fun p => lineOf p.2.pa == line && (servingSlice (dieOfCore p.2.core) p.2.pa == slice || homeSlice p.2.pa == slice))

/-! ### Tokens on the move (13 R284, R285) -/

/-- May the tokens of a move be sent: the source holds them, both ends serve the line, and the first active persistent request for the line, if there
is one, names the destination (R284, R285)? -/
def State.mayMove (s : State) (m : TokenMove) : Bool :=
  let pa := 128 * m.line
  let l := s.l2At m.src pa
  (slicesOf pa).contains m.src && (slicesOf pa).contains m.dst && m.src != m.dst && decide (0 < m.plain + boolNat m.owner) &&
    decide (m.plain ≤ l.plain) && (!m.owner || l.owner) && l.pins == 0 &&
    ((s.active.find? (fun p => p.2.1 == m.line && s.wantsLine p.1 m.line)).map (fun p => p.1 == m.dst)).getD true

/-- TOKEN_TRANSFER: tokens arrive with the largest lease end granted; the owner token, and tokens that make a copy valid, bring the data with its
stamp (R284). -/
def State.moveTokens (s : State) (m : TokenMove) : State :=
  if s.mayMove m then
    let pa := 128 * m.line
    let a := s.l2At m.src pa
    let b := s.l2At m.dst pa
    let s := s.recall m.line none
    let left := { a with
      plain := a.plain - m.plain
      owner := a.owner && !m.owner
      dirty := a.dirty && !m.owner }
    let came := { b with
      key := if b.tokens = 0 then a.key else b.key
      plain := b.plain + m.plain
      owner := b.owner || m.owner
      dirty := b.dirty || (m.owner && a.dirty)
      wts := if b.tokens = 0 ∨ m.owner then a.wts else b.wts
      lease := if b.tokens = 0 then a.lease else max b.lease a.lease }
    let s := s.setL2 m.dst m.line came
    if left.tokens = 0 && !s.isCxl pa then (s.setL2 m.src m.line left).dropL2 m.src m.line else s.setL2 m.src m.line left
  else s

/-- The next move that brings a requester what it lacks: one token for a read, all for a write. -/
def State.neededMove (s : State) (slice pa : Nat) (write : Bool) : Option TokenMove :=
  let want := if write then 5 else 1
  if want ≤ (s.l2At slice pa).tokens then none
  else
    ((slicesOf pa).filter (fun q => q != slice && decide (0 < (s.l2At q pa).tokens))).head?.map (fun q =>
      let l := s.l2At q pa
      if write then { line := lineOf pa, src := q, dst := slice, plain := l.plain, owner := l.owner }
      else if 0 < l.plain then { line := lineOf pa, src := q, dst := slice, plain := 1, owner := false }
      else { line := lineOf pa, src := q, dst := slice, plain := 0, owner := true })

/-- The tokens that a read or a write at a slice lacks arrive, as far as they may move (13 R284). -/
def State.bringTokens (slice pa : Nat) (write : Bool) : Nat → State → State
  | 0, s => s
  | n + 1, s =>
    match s.neededMove slice pa write with
    | none => s
    | some m => if s.mayMove m then State.bringTokens slice pa write n (s.moveTokens m) else s

end Sys2Proof.Machine
end

