-- ==== Sys2Proof/Machine/Scratch.lean ====
section
/-! DEFINITION. The scratchpad (12 R254, R257, R258, R269, R276): reads and writes of a group's allocation, poisoned words, full-empty
granules and the items that wait on them, and the addresses of the memory forms. -/

namespace Sys2Proof.Machine

/-! ### Addresses (R269, R270) -/

/-- TRAPINFO of R270. -/
def memInfo (spad : Bool) (bytes : Nat) (write : Bool) : W32 :=
  BitVec.ofNat 32 (512 * boolNat spad + 32 * log2Fuel 8 bytes + boolNat write)

def memTrap (cause : Nat) (ea : W64) (spad : Bool) (bytes : Nat) (write : Bool) : Trap :=
  { cause := cause, addr := ea, info := memInfo spad bytes write }

/-- The address that a memory form's base, index, scale and offset give: 64 bits globally, 32 in the scratchpad (R269). -/
def Env.address (e : Env) (m : BitVec 2) (a b : BitVec 7) (idx : Bool) (scale : BitVec 2) (off : BitVec 10) : W64 :=
  let x : W32 := if idx then e.it.readV b else 0
  if m.toNat < 2 then
    let base := if m = 0 then e.it.readV2 a else readS2 e.s a
    base + ((x.signExtend 64) <<< scale.toNat) + off.signExtend 64
  else
    let base := if m = 2 then e.it.readV a else readS e.s a
    (base + (x <<< scale.toNat) + off.signExtend 32).zeroExtend 64

/-- The bytes of an access (R71). -/
def widthBytes : Width → Nat
  | .b8 => 1
  | .b16 => 2
  | .b32 => 4
  | .b64 => 8
  | .b128 => 16

/-- The checks of a scratchpad access (R269). -/
def Group.spadTrap (g : Group) (ea : W64) (n : Nat) (write : Bool) : Option Trap :=
  if !aligned ea n then some (memTrap causeMisalign ea true n write)
  else if g.isLanding || decide (g.scratchBytes < ea.toNat + n) then some (memTrap causeProt ea true n write)
  else none

/-! ### Bytes and words (R254) -/

def Group.spadRead (g : Group) (x n : Nat) : List W8 := (upTo n).map (fun j => Table.read 0 g.scratch (x + j))

/-- Writes bytes; a word that they cover whole loses its poison (R426). -/
def Group.spadWrite (g : Group) (x : Nat) (bs : List W8) : Group :=
  let words := (upTo (bs.length / 4 + 2)).map (fun j => x / 4 + j)
  let covered := words.filter (fun w => decide (x ≤ 4 * w) && decide (4 * w + 4 ≤ x + bs.length))
  { g with
    scratch := (bs.zip (upTo bs.length)).foldl (fun t p => Table.write 0 t (x + p.2) p.1) g.scratch
    spadPoison := covered.foldl (fun t w => Table.write false t w false) g.spadPoison }

/-- Does a word that the bytes touch hold an error (R276)? -/
def Group.spadPoisoned (g : Group) (x n : Nat) : Bool :=
  (upTo (n / 4 + 2)).any (fun j => decide (4 * (x / 4 + j) < x + n) && Table.read false g.spadPoison (x / 4 + j))

/-- Marks the words of bytes that an engine writes from a poisoned source (R331). -/
def Group.poisonWords (g : Group) (x n : Nat) : Group :=
  { g with spadPoison := (upTo (n / 4)).foldl (fun t j => Table.write false t (x / 4 + j) true) g.spadPoison }

/-- The full-empty bit of a granule. -/
def Group.isFull (g : Group) (x : Nat) : Bool := Table.read false g.full (x / 16)
def Group.setFull (g : Group) (x : Nat) (b : Bool) : Group := { g with full := Table.write false g.full (x / 16) b }

/-- The number by which a recorder knows a scratchpad granule of a group (log 10). -/
def spadGranule (gid x : Nat) : Nat := 2 ^ 56 + gid * 2 ^ 15 + x / 16

/-- A scratchpad access of an item, as the cluster's recorder sees it (R257, R394). -/
def State.recordSpad (s : State) (gid slot x : Nat) (write : Bool) : State :=
  match s.group? gid, s.item? gid slot with
  | some g, some it =>
    match s.kernel? g.kh with
    | some k => s.recordAccess g.ctx (clusterOf g.core) (spadGranule gid x) (itemParty k g it) 0 write
    | none => s
  | _, _ => s

/-- May an item's scratchpad access be served now (R403)? -/
def State.mayServeSpad (s : State) (g : Group) (it : Item) : Bool :=
  match s.kernel? g.kh with
  | some k => s.mayServe g.ctx (clusterOf g.core) (itemParty k g it)
  | none => true

/-- A write of an item into its group's scratchpad, with its undo granule (19 R429). -/
def State.spadStore (s : State) (gid slot x : Nat) (bs : List W8) : State :=
  ((s.undoScratch gid [x / 16]).modGroup gid (fun g => g.spadWrite x bs)).recordSpad gid slot x true

/-! ### Registers of a load and a store (R271, R272) -/

/-- The value of 1 or 2 bytes, extended. -/
def extended (signed : Bool) (d : List W8) : W32 :=
  let x := leNat d
  if signed && decide (2 ^ (8 * d.length - 1) ≤ x) then BitVec.ofInt 32 ((x : Int) - 2 ^ (8 * d.length)) else BitVec.ofNat 32 x

/-- What a load writes. -/
def Item.putLoad (it : Item) (d : BitVec 7) (signed : Bool) (bs : List W8) : Item :=
  if bs.length ≤ 4 then it.writeV d (extended (signed && decide (bs.length ≤ 2)) bs)
  else if bs.length ≤ 8 then it.writeV2 d (BitVec.ofNat 64 (leNat bs))
  else it.writeV4 d (BitVec.ofNat 128 (leNat bs))

/-- What a store sends. -/
def Item.takeStore (it : Item) (d : BitVec 7) (n : Nat) : List W8 :=
  if n ≤ 4 then leBytes n (it.readV d).toNat
  else if n ≤ 8 then leBytes 8 (it.readV2 d).toNat
  else leBytes 16 (it.readV4 d).toNat

/-! ### Full-empty waits (R258) -/

/-- An ldfe served: its granule is Full. -/
def State.serveLdfe (s : State) (e : Env) (g : Group) (o : MemForm) (ea : W64) : State :=
  let n := widthBytes o.width
  let i : Instr := .ldfe o
  if g.spadPoisoned ea.toNat n then
    let t := memTrap causePoison ea true n false
    e.finish i (if g.guarded.isSome then .consume t else .trap e.it t) s
  else
    let s := e.finish i (.done (e.it.putLoad o.d o.sx (g.spadRead ea.toNat n))) s
    let s := s.recordSpad e.gid e.slot ea.toNat o.clr
    if o.clr then (s.undoScratch e.gid [ea.toNat / 16]).modGroup e.gid (fun g => g.setFull ea.toNat false) else s

/-- A stfe served: its granule is Empty. -/
def State.serveStfe (s : State) (e : Env) (o : MemForm) (ea : W64) : State :=
  let s := s.spadStore e.gid e.slot ea.toNat (e.it.takeStore o.d (widthBytes o.width))
  let s := s.modGroup e.gid (fun g => g.setFull ea.toNat true)
  e.finish (.stfe o) (.done e.it) s

/-- A waiter on a granule: since when, its slot, its form, its address. -/
structure GranuleWaiter where
  since : Nat
  slot : Nat
  form : MemForm
  offset : Nat

/-- The waiters on a granule for Full, or for Empty, oldest first, ascending LSLOT among waits begun together. -/
def Group.granuleWaiters (g : Group) (x : Nat) (full : Bool) : List GranuleWaiter :=
  let ws := g.items.filterMap (fun p => match p.2.wait with
    | .granuleFull off since o => if full && off / 16 == x / 16 then some ⟨since, p.1, o, off⟩ else none
    | .granuleEmpty off since o => if !full && off / 16 == x / 16 then some ⟨since, p.1, o, off⟩ else none
    | _ => none)
  ws.foldl insertWaiter []
where
  insertWaiter (l : List GranuleWaiter) (w : GranuleWaiter) : List GranuleWaiter :=
    match l with
    | [] => [w]
    | y :: ys => if y.since ≤ w.since then y :: insertWaiter ys w else w :: y :: ys

/-- Waits on a granule are served one per transition (R258); a served form of a guarded group that commits takes its checkpoint (R428). -/
def State.serveGranule (s : State) (gid x : Nat) : Nat → State
  | 0 => s
  | fuel + 1 =>
    match s.group? gid with
    | none => s
    | some g =>
      match (g.granuleWaiters x (g.isFull x)).head? with
      | none => s
      | some w =>
        match Table.get? g.items w.slot with
        | none => s
        | some it =>
          let e := { Env.of s g gid w.slot it with ilen := 2 }
          let i : Instr := if g.isFull x then .ldfe w.form else .stfe w.form
          let ea := BitVec.ofNat 64 w.offset
          let s := if g.isFull x then s.serveLdfe e g w.form ea else s.serveStfe e w.form ea
          let s := if s.duplex g then s.modItem gid w.slot (fun it => it.copyWrites (shapeOf i).writes) else s
          let s := if committing i then s.commit gid w.slot else s
          s.serveGranule gid x fuel

/-- After a granule's bit may have changed. -/
def State.granuleChanged (s : State) (gid x : Nat) : State :=
  match s.group? gid with
  | none => s
  | some g => s.serveGranule gid x (g.items.length + 1)

end Sys2Proof.Machine
end

