-- ==== Sys2Proof/Machine/Loads.lean ====
section
/-! DEFINITION. Loads, stores and prefetch (12 R269 to R273, R276; 13 R289, R290): how each issues, and what a global access does when it
is served (MEMORY_ACCESS_SERVED). -/

namespace Sys2Proof.Machine

/-! ### Issue of a global access -/

/-- The checks of a global access of an item (R269, R88): a physical address, a trap, or a wait for a translation, in the state that
has begun its walk. -/
inductive Reached where
  | ok (pa : Nat)
  | trap (t : Trap)
  | wait (w : Wait) (s : State)

def State.reachGlobal (s : State) (g : Group) (ea : W64) (n : Nat) (write : Bool) : Reached :=
  if !aligned ea n then .trap (memTrap causeMisalign ea false n write)
  else
    match s.translate g.core g.ctx ea (boolNat write) with
    | .trap t => .trap t
    | .miss s => .wait (.walk g.ctx (pageOf ea) ea (boolNat write)) s
    | .ok pa => if s.granted g.ctx pa n false write then .ok pa else .trap (memTrap causeProt ea false n write)

/-- The party of an item of a group. -/
def State.partyOfItem (s : State) (g : Group) (it : Item) : W64 :=
  match s.kernel? g.kh with
  | some k => itemParty k g it
  | none => 0

/-- An access of an item, to be put among those not yet served. -/
def State.newAccess (s : State) (e : Env) (g : Group) (i : Instr) (kind : AccessKind) (va : W64) (pa n : Nat) : Access :=
  let sh := shapeOf i
  { gid := e.gid, slot := e.slot, ctx := g.ctx, core := g.core, party := s.partyOfItem g e.it, kind := kind, va := va, pa := pa
    key := (s.context g.ctx).key, bytes := n, data := [], compare := [], dest := sh.form.d, signed := false, ord := .relaxed, scope := .grp
    la := sh.form.la.toNat, reads := sh.reads, writes := sh.writes, view := e.it.view, before := none }

def State.addAccess (s : State) (a : Access) : State := { s with accesses := Table.put s.accesses s.nextId a }.fresh

/-- The item blocks until its access is served; or, a relaxed leader, goes on with its window open and what it was kept for a trap (R65). -/
def State.issueAccess (s : State) (e : Env) (i : Instr) (a : Access) : State :=
  let id := s.nextId
  if a.la = 0 ∨ a.ord ≠ .relaxed then (e.finish i (.wait e.it (.access id)) s).addAccess a
  else
    let it := e.it.complete e.now a.la a.reads a.writes (some id) e.nextPc
    (s.setItem e.gid e.slot it).addAccess { a with before := some { e.it with wait := .none } }

/-- Must the fence that an order begins with still wait for the item's own writes (R289, R296)? -/
def Env.orderWaits (e : Env) (ord : Order) (sc : Scope) : Bool :=
  match ord with
  | .release => e.it.releaseWaits sc
  | .acqRel => e.it.releaseWaits sc
  | .sc => e.it.releaseWaits sc
  | _ => false

/-- The fence that an order begins with: fence.rel, or for a load or an atomic of order sc, and a store of order sc, fence.sc (R289). -/
def State.orderBefore (s : State) (e : Env) (ord : Order) (sc : Scope) : State :=
  match ord with
  | .release => s.fence e.gid e.slot false true false sc
  | .acqRel => s.fence e.gid e.slot false true false sc
  | .sc => s.fence e.gid e.slot true true true sc
  | _ => s

/-- The fence that an order ends with (R289). -/
def State.orderAfter (s : State) (gid slot : Nat) (ord : Order) (sc : Scope) : State :=
  match ord with
  | .acquire => s.acquireAt gid slot sc
  | .acqRel => s.acquireAt gid slot sc
  | .sc => s.acquireAt gid slot sc
  | _ => s

/-- The item as it stands in the state, with the environment's register values. -/
def Env.refresh (e : Env) (s : State) : Env :=
  match s.item? e.gid e.slot with
  | some it => { e with it := { e.it with view := it.view, seen := it.seen, rel := it.rel } }
  | none => e

/-! ### ld, ldu, ldfe -/

/-- A global load (R271). -/
def State.globalLoad (s : State) (e : Env) (g : Group) (i : Instr) (o : MemForm) (kind : AccessKind) : State :=
  let n := widthBytes o.width
  let ea := e.address o.m o.a o.b o.idx o.scale o.off
  match s.reachGlobal g ea n false with
  | .trap t => e.finish i (.trap e.it t) s
  | .wait w s => e.finish i (.wait e.it w) s
  | .ok pa =>
    if e.orderWaits o.ord o.scope then e.finish i (.wait e.it (.stores o.scope)) s
    else
      let s := s.orderBefore e o.ord o.scope
      let e := e.refresh s
      s.issueAccess e i { s.newAccess e g i kind ea pa n with
        signed := o.sx
        ord := o.ord
        scope := o.scope }

/-- A scratchpad load (R271, R276). -/
def State.spadLoad (s : State) (e : Env) (g : Group) (i : Instr) (o : MemForm) : State :=
  let n := widthBytes o.width
  let ea := e.address o.m o.a o.b o.idx o.scale o.off
  match g.spadTrap ea n false with
  | some t => e.finish i (.trap e.it t) s
  | none =>
    if !s.mayServeSpad g e.it then e.finish i (.wait e.it .again) s
    else if g.spadPoisoned ea.toNat n then
      let t := memTrap causePoison ea true n false
      e.finish i (if g.guarded.isSome then .consume t else .trap e.it t) s
    else
      (e.finish i (.done (e.it.putLoad o.d o.sx (g.spadRead ea.toNat n))) s).recordSpad e.gid e.slot ea.toNat false

/-- The group of the wave, for a body that has run the gate. -/
def State.withGroup (s : State) (gid : Nat) (f : Group → State) : State :=
  match s.group? gid with
  | some g => f g
  | none => s

/-- ld (R271). -/
def execLd (o : MemForm) (s : State) : Host.Outcome State Fault Refusal :=
  .next (s.foldWave (.ld o) false (fun e s => s.withGroup e.gid (fun g =>
    if o.m.toNat < 2 then s.globalLoad e g (.ld o) o .load else s.spadLoad e g (.ld o) o)))

/-- ldu (R271): a relaxed load whose line the L1 holds in state U. -/
def execLdu (o : MemForm) (s : State) : Host.Outcome State Fault Refusal :=
  .next (s.foldWave (.ldu o) false (fun e s => s.withGroup e.gid (fun g => s.globalLoad e g (.ldu o) o .uniform)))

/-- ldfe (R258, R271): it waits until its granule is Full. -/
def execLdfe (o : MemForm) (s : State) : Host.Outcome State Fault Refusal :=
  .next (s.commitWave (.ldfe o) false (fun e s => s.withGroup e.gid (fun g =>
    let ea := e.address o.m o.a o.b o.idx o.scale o.off
    match g.spadTrap ea (widthBytes o.width) false with
    | some t => e.finish (.ldfe o) (.trap e.it t) s
    | none =>
      if !s.mayServeSpad g e.it then e.finish (.ldfe o) (.wait e.it .again) s
      else if g.isFull ea.toNat then (s.serveLdfe e g o ea).granuleChanged e.gid ea.toNat
      else e.finish (.ldfe o) (.wait e.it (.granuleFull ea.toNat s.tick o)) s)))

/-! ### st, stfe -/

/-- A store of an item joins its cluster's store stream as it leaves the item (18 R400). -/
def State.logItemStore (s : State) (a : Access) : State :=
  s.logStore a.ctx a.core (field a.party 50 48) (field a.party 47 0) a.va.toNat a.data

/-- The release buffer takes a relaxed store, or, when full, stops holding (19 R429, R431). -/
def State.holdOrSend (s : State) (e : Env) (g : Group) (a : Access) : State :=
  let send (s : State) : State :=
    let id := s.nextId
    (((s.logItemStore a).updateCopy (clusterOf g.core) a.pa (s.keyTag a.key) a.data).addAccess a).modItem e.gid e.slot (fun it => { it with
      storesOut := it.storesOut ++ [id] })
  match g.guarded with
  | some u =>
    if u.unrec || a.ord != .relaxed then send s
    else if 512 ≤ u.release.length then send (s.unrecoverable e.gid)
    else
      s.modGroup e.gid (fun g => { g with guarded := some { u with
        release := u.release ++ [{ slot := e.slot, va := a.va, pa := a.pa, key := a.key, data := a.data, spill := false }] } })
  | none => send s

/-- A global store (R272): translated and checked when it issues; it is performed when its slice takes it. -/
def State.globalStore (s : State) (e : Env) (g : Group) (i : Instr) (o : MemForm) : State :=
  let n := widthBytes o.width
  let ea := e.address o.m o.a o.b o.idx o.scale o.off
  match s.reachGlobal g ea n true with
  | .trap t => e.finish i (.trap e.it t) s
  | .wait w s => e.finish i (.wait e.it w) s
  | .ok pa =>
    if e.orderWaits o.ord o.scope then e.finish i (.wait e.it (.stores o.scope)) s
    else
      let cls := s.coreClass g.core pa
      if !s.mayCharge g.core g.ctx cls then e.finish i (.wait e.it .none) (s.throttle e.gid)
      else
        let s := (s.orderBefore e o.ord o.scope).charge g.core g.ctx cls n
        let e := e.refresh s
        let a : Access := { s.newAccess e g i .store ea pa n with
          data := e.it.takeStore o.d n
          ord := o.ord }
        (e.finish i (.done e.it) s).holdOrSend e g a

/-- A scratchpad store (R272). -/
def State.spadStoreForm (s : State) (e : Env) (g : Group) (i : Instr) (o : MemForm) : State :=
  let n := widthBytes o.width
  let ea := e.address o.m o.a o.b o.idx o.scale o.off
  match g.spadTrap ea n true with
  | some t => e.finish i (.trap e.it t) s
  | none =>
    if !s.mayServeSpad g e.it then e.finish i (.wait e.it .again) s
    else e.finish i (.done e.it) (s.spadStore e.gid e.slot ea.toNat (e.it.takeStore o.d n))

/-- st (R272). -/
def execSt (o : MemForm) (s : State) : Host.Outcome State Fault Refusal :=
  .next (s.commitWave (.st o) false (fun e s => s.withGroup e.gid (fun g =>
    if o.m.toNat < 2 then s.globalStore e g (.st o) o else s.spadStoreForm e g (.st o) o)))

/-- stfe (R258, R272): it waits until its granule is Empty. -/
def execStfe (o : MemForm) (s : State) : Host.Outcome State Fault Refusal :=
  .next (s.commitWave (.stfe o) false (fun e s => s.withGroup e.gid (fun g =>
    let ea := e.address o.m o.a o.b o.idx o.scale o.off
    match g.spadTrap ea (widthBytes o.width) true with
    | some t => e.finish (.stfe o) (.trap e.it t) s
    | none =>
      if !s.mayServeSpad g e.it then e.finish (.stfe o) (.wait e.it .again) s
      else if g.isFull ea.toNat then e.finish (.stfe o) (.wait e.it (.granuleEmpty ea.toNat s.tick o)) s
      else (s.serveStfe e o ea).granuleChanged e.gid ea.toNat)))

/-- pf (R273): no architectural effect, no trap after decoding, not of an error in a register it reads either, no parking. -/
def execPf (o : PrefetchForm) (s : State) : Host.Outcome State Fault Refusal :=
  .next (s.mapRun (.pf o) (fun _ e =>
    { { e with it := { e.it with bad := [] } }.runForm (shapeOf (.pf o)) (admitted (.pf o)) false [] (fun e => .done e.it) with bad := e.it.bad }))

/-! ### Completion of an access -/

/-- Is the access still awaited by its item? -/
def Item.awaits (it : Item) (id : Nat) : Bool := it.wait == .access id || it.windows.any (fun w => w.access == some id)

/-- The leader's access completes: its window stays only while it still holds followers (R64). -/
def Item.closeWindow (it : Item) (id : Nat) : Item :=
  let ws := it.windows.map (fun w => if w.access = some id then { w with access := none } else w)
  { it with windows := ws.filter (fun w => w.left != 0 || w.access.isSome) }

/-- What an access that returns gives its item: the destination, SEEN and REL, and flags. -/
structure Returned where
  data : List W8
  wts : Nat
  stamp : Nat
  flags : BitVec 5

def Item.receive (it : Item) (a : Access) (r : Returned) : Item :=
  let it := it.putLoad a.dest a.signed r.data
  { it with
    seen := max it.seen (max r.wts r.stamp)
    rel := max it.rel r.stamp
    fpstat := it.fpstat ||| r.flags }

/-- A load or an atomic returns to its item (R271, R274), which completes or closes the leader's window; accesses issued after a leader
keep what the item was with the leader's result in it. The acquire of the order follows (R289). -/
def State.deliver (s : State) (id : Nat) (a : Access) (r : Returned) : State :=
  let s := { s with accesses := Table.erase s.accesses id }
  match s.group? a.gid, s.item? a.gid a.slot with
  | some g, some it =>
    if !it.awaits id then s
    else
      let r := { r with data := g.withHeld a.pa r.data }
      let give (x : Item) : Item :=
        let x := (x.receive a r).closeWindow id
        if s.duplex g then x.copyWrites a.writes else x
      let s :=
        if it.wait = .access id then
          (s.setItem a.gid a.slot ((give it).complete s.tick a.la a.reads a.writes none (it.pc + 8))).orderAfter a.gid a.slot a.ord a.scope
        else s.modItem a.gid a.slot give
      let s := { s with accesses := s.accesses.mapAll (fun _ b =>
        if b.gid = a.gid ∧ b.slot = a.slot then { b with before := b.before.map give } else b) }
      match a.kind with
      | .atomic _ _ => s.commit a.gid a.slot
      | .cas => s.commit a.gid a.slot
      | _ => s
  | _, _ => s

/-- The item without what it has done since it was `b` at a leader: the instructions that may follow an open leader write v registers,
predicates, flags and the windows, and move the PC; what earlier instructions bring it meanwhile stays (R65). -/
def Item.discarded (it b : Item) : Item :=
  { it with
    pc := b.pc
    v := b.v
    p := b.p
    fpstat := b.fpstat
    istat := b.istat
    windows := b.windows
    bad := b.bad
    shadowV := b.shadowV
    shadowP := b.shadowP
    loadValues := b.loadValues
    wait := .none
    issued := false
    owed := none
    got := none }

/-- A load or an atomic traps POISON (R276); what its item issued after a leader is discarded (R65). -/
def State.accessTraps (s : State) (id : Nat) (a : Access) : State :=
  let write := match a.kind with | .load => false | .uniform => false | _ => true
  let t := memTrap causePoison a.va false a.bytes write
  match s.group? a.gid, s.item? a.gid a.slot with
  | some g, some it =>
    if !it.awaits id then { s with accesses := Table.erase s.accesses id }
    else
      let s := { s with accesses := s.accesses.filter (fun p => p.1 < id || p.2.gid != a.gid || p.2.slot != a.slot || p.2.kind == AccessKind.store) }
      let base := match a.before with
        | some b => it.discarded b
        | none => { it with wait := .none }
      let it' := if g.guarded.isSome then { base with consumed := some causePoison } else base.takeTrap (s.handlerOf g.kh) s.tick 2 t
      (s.setItem a.gid a.slot it').settle a.gid
  | _, _ => { s with accesses := Table.erase s.accesses id }

/-- A store's stamp has returned to its item (R281). -/
def State.stampStore (s : State) (id : Nat) (a : Access) (wts : Nat) : State :=
  let s := { s with accesses := Table.erase s.accesses id }
  s.modItem a.gid a.slot (fun it =>
    if it.storesOut.contains id then { it with
      storesOut := it.storesOut.erase id
      rel := max it.rel wts
      seen := max it.seen wts }
    else it)

/-! ### Service -/

/-- The requests of one cluster for one line are served in the order in which it sent them (R281); under replay the cluster sends a request
when the logged order lets it (18 R403), so only the item's own earlier ones stand before it. A trap waits for the item's earlier accesses. -/
def State.firstInLine (s : State) (id : Nat) (a : Access) : Bool :=
  s.accesses.all (fun p => decide (id ≤ p.1) || clusterOf p.2.core != clusterOf a.core || lineOf p.2.pa != lineOf a.pa ||
    ((s.hind a.ctx).replaying && (p.2.gid != a.gid || p.2.slot != a.slot)))

def State.firstOfItem (s : State) (id : Nat) (a : Access) : Bool :=
  s.accesses.all (fun p => decide (id ≤ p.1) || p.2.gid != a.gid || p.2.slot != a.slot || p.2.kind == AccessKind.store)

/-- The party of a cluster's fills (18 R395). -/
def fillParty (cluster : Nat) : W64 := partyOf 3 0 0 cluster

/-- Does the cluster's copy serve a load (R259, R281)? -/
def L1Line.serves (l : L1Line) (a : Access) (tag : Nat) : Bool :=
  l.key == tag &&
    (match a.kind, l.state with
     | .uniform, _ => true
     | _, .valid => decide (a.view ≤ l.lend)
     | _, .owned => true
     | _, .uniform => false)

/-- Bytes of a line with what the cluster has stored to it and the slice has not taken yet, in the order in which it was sent (R272, R281). -/
def State.withSent (s : State) (cluster line key : Nat) (bs : List W8) : List W8 :=
  s.accesses.foldl (fun bs p =>
    if p.2.kind = .store ∧ clusterOf p.2.core = cluster ∧ lineOf p.2.pa = line ∧ p.2.key = key then overlay bs (p.2.pa % 128) p.2.data else bs) bs

/-- The fill of a cluster's copy (R259, R281), where both halves of a CXL line are at hand. -/
def State.fillCopy (s : State) (slice : Nat) (a : Access) (st : L1State) (wts lend : Nat) : State :=
  let line := lineOf a.pa
  let place := if s.isCxl a.pa then homeSlice a.pa else slice
  let l := s.l2At place a.pa
  if s.isCxl a.pa && (l.half0 == 0 || l.half1 == 0) then s
  else
    let kernel := match s.group? a.gid with | some g => g.kh | none => 0
    let data := s.withSent (clusterOf a.core) line a.key (s.placeBytes l (128 * line) 128 a.key)
    s.modL1 (clusterOf a.core) (fun t => Table.put t line
      { state := st, key := s.keyTag a.key, data := data, wts := wts, lend := lend, kernel := kernel })

/-- Under replay: was a load served with a fill of its own in the recorded run, which has not been made yet? The fill then is the one access
that the load's ORDER entry names (18 R396, R403). -/
def State.loggedFill (s : State) (a : Access) : Bool :=
  let h := s.hind a.ctx
  let r := clusterOf a.core
  let k := h.recorder r
  let fill := (fillParty r).toNat
  h.replaying && (h.segment r).any (fun e => leAt e 0 1 == 1 && leAt e 1 1 == 0 && leAt e 8 8 == a.party.toNat &&
    leAt e 4 4 == k.ordinal a.party && leAt e 16 8 == fill && !k.served fill 0 (leAt e 24 4))

/-- A load is served (R259, R263, R271, R281). Under replay the log says which loads fill the cluster's copy: a logged fill is made though a
copy stands there, and a fill that the log does not hold is not counted, since stamps and L1 contents may differ (13 R297). -/
def State.serveLoad (s : State) (id : Nat) (a : Access) : State :=
  let cluster := clusterOf a.core
  let tag := s.keyTag a.key
  let near := match s.target? a.pa with | some (.near _) => true | _ => false
  let refill := !near && s.loggedFill a
  let hit := match Table.get? (s.l1Of cluster) (lineOf a.pa) with
    | some l => if !near && !refill && l.serves a tag then some l else none
    | none => none
  match hit with
  | some l =>
    if !s.mayServe a.ctx cluster a.party then s
    else
      let s := s.recordAccess a.ctx cluster (a.pa / 16) a.party 0 false
      s.deliver id a { data := (l.data.drop (a.pa % 128)).take a.bytes, wts := l.wts, stamp := 0, flags := 0 }
  | none =>
    let cls := s.coreClass a.core a.pa
    let slice := servingSlice (dieOfCore a.core) a.pa
    let rec_ := s.placeRecorder slice a.pa
    let party := if near then a.party else fillParty cluster
    let counted := near || refill || !(s.hind a.ctx).replaying
    if !s.mayCharge a.core a.ctx cls then s.throttle a.gid
    else if s.recorderStalls a.ctx rec_ || (counted && !s.mayServe a.ctx rec_ party) ||
        (!near && !s.mayServe a.ctx cluster (if refill then fillParty cluster else a.party)) then s
    else
      match s.readAt slice a.pa a.bytes a.key (if a.kind = .uniform then none else some a.view) with
      | .notYet s => s
      | .poisoned s => if s.firstOfItem id a then s.accessTraps id a else s
      | .served s data wts lend =>
        let s := (s.charge a.core a.ctx cls a.bytes).deactivate slice (lineOf a.pa)
        let s := if counted then s.recordAccess a.ctx rec_ (a.pa / 16) party 0 false else s
        let s :=
          if near then s
          else
            let s := s.fillCopy slice a (if a.kind = .uniform then .uniform else .valid) wts lend
            let s := if counted then s.recordAccess a.ctx cluster (a.pa / 16) (fillParty cluster) 0 true else s
            let s := s.recordAccess a.ctx cluster (a.pa / 16) a.party 0 false
            if a.kind = .uniform && counted then (s.loggedValue a.ctx cluster 8 (fillParty cluster) (BitVec.ofNat 64 a.pa) (BitVec.ofNat 64 wts)).2 else s
        s.deliver id a { data := data, wts := wts, stamp := 0, flags := 0 }

/-- A store is served (R272, R275, R281). -/
def State.serveStore (s : State) (id : Nat) (a : Access) : State :=
  let slice := servingSlice (dieOfCore a.core) a.pa
  let rec_ := s.placeRecorder slice a.pa
  if s.recorderStalls a.ctx rec_ || !s.mayServe a.ctx rec_ a.party then s
  else
    let before := s
    match s.writeAt slice a.pa a.key a.data a.view with
    | .notYet s => s
    | .poisoned s => s
    | .served s _ wts _ =>
      let s := s.noteCodeStore before a.gid a.va a.pa a.data.length a.key
      let s := (s.recall (lineOf a.pa) (some (clusterOf a.core))).deactivate slice (lineOf a.pa)
      let s := s.stampCopy (clusterOf a.core) a.pa (s.keyTag a.key) wts
      let s := s.recordAccess a.ctx rec_ (a.pa / 16) a.party 0 true
      s.stampStore id a wts

end Sys2Proof.Machine
end

