-- ==== Sys2Proof/Machine/Fences.lean ====
section
/-! DEFINITION. The fences (13 R295, R296) and the forms of group barriers (14 R304, R305, R310, R311). -/

namespace Sys2Proof.Machine

/-! ### Fences -/

/-- A fence for one item: earlier reads have returned, since no fence issues under an open leader; earlier writes of a release are waited
for; then its parts take effect. -/
def fenceForm (i : Instr) (acq rel sc : Bool) (scope : Scope) (e : Env) (s : State) : State :=
  if (rel || sc) && e.it.releaseWaits scope then e.await i (.stores scope) s
  else
    let s := s.fence e.gid e.slot acq rel sc scope
    (e.refresh s).finish i (.done (e.refresh s).it) s

/-- fence.acq -/
def execFenceAcq (o : ScopeForm) (s : State) : Host.Outcome State Fault Refusal :=
  .next (s.commitWave (.fenceAcq o) false (fenceForm (.fenceAcq o) true false false o.scope))

/-- fence.rel -/
def execFenceRel (o : ScopeForm) (s : State) : Host.Outcome State Fault Refusal :=
  .next (s.commitWave (.fenceRel o) false (fenceForm (.fenceRel o) false true false o.scope))

/-- fence.ar -/
def execFenceAr (o : ScopeForm) (s : State) : Host.Outcome State Fault Refusal :=
  .next (s.commitWave (.fenceAr o) false (fenceForm (.fenceAr o) true true false o.scope))

/-- fence.sc -/
def execFenceSc (o : ScopeForm) (s : State) : Host.Outcome State Fault Refusal :=
  .next (s.commitWave (.fenceSc o) false (fenceForm (.fenceSc o) true true true o.scope))

end Sys2Proof.Machine
end

