-- ==== Sys2Proof/Machine/Barriers.lean ====
section
/-! DEFINITION. The bar forms (14 R304 to R311), arrival barriers (R312 to R316), and waiting on a global word (R317 to R323). -/

namespace Sys2Proof.Machine

/-! ### Group barriers -/

/-- An arrival of the item counts in the open phase (R301). -/
def Env.arrives (e : Env) (k : Nat) (s : State) : Env × State :=
  ({ e with it := { e.it with
      arr := setBit e.it.arr k true
      member := setBit e.it.member k true } }, (s.noteEvent e.gid e.slot).modGroup e.gid (fun g => g.countArrival k e.slot))

/-- The wave's barrier tests follow (R302). -/
def State.barrierWave (s : State) (i : Instr) (body : Env → State → State) : State :=
  (s.foldWave i false body).groupTests s.wave.gid (s.wave.slots.headD 0)

/-- bar.arrive and bar.sync for one item (R305). A bar.sync executed again after it was unwound does not arrive a second time. -/
def barArrival (i : Instr) (k : Nat) (sync : Bool) (e : Env) (s : State) : State :=
  let waits (e : Env) (s : State) : State :=
    e.finish i (.wait { e.it with sync := setBit e.it.sync k true } (.barrier k)) s
  if sync && e.it.got.isSome then e.finish i (.done { e.it with got := none }) s
  else if sync && hasBit e.it.sync k then
    if e.it.standing k = .arrived then waits e s
    else e.finish i (.done { e.it with sync := setBit e.it.sync k false }) s
  else
    match e.it.standing k with
    | .dropped => e.finish i (.trap e.it (barrierTrap 0x01 k 0)) s
    | .waiting =>
      let (e, s) := e.arrives k s
      if sync then waits e s else e.finish i (.done e.it) s
    | _ => e.finish i (.wait e.it (.blocked k (if sync then .sync else .arrive))) (s.noteEvent e.gid e.slot)

/-- bar.arrive (R305). -/
def execBarArrive (o : BarForm) (s : State) : Host.Outcome State Fault Refusal :=
  .next (s.barrierWave (.barArrive o) (barArrival (.barArrive o) o.bar.toNat false))

/-- bar.sync (R305). -/
def execBarSync (o : BarForm) (s : State) : Host.Outcome State Fault Refusal :=
  .next (s.barrierWave (.barSync o) (barArrival (.barSync o) o.bar.toNat true))

/-- bar.wait (R305). -/
def execBarWait (o : BarForm) (s : State) : Host.Outcome State Fault Refusal :=
  .next (s.barrierWave (.barWait o) (fun e s =>
    if e.it.standing o.bar.toNat = .arrived then e.finish (.barWait o) (.wait e.it (.barrier o.bar.toNat)) s
    else e.finish (.barWait o) (.done e.it) s))

/-- bar.drop (R301, R305): a Waiting item departs, an Arrived one is marked. -/
def execBarDrop (o : BarForm) (s : State) : Host.Outcome State Fault Refusal :=
  .next (s.barrierWave (.barDrop o) (fun e s =>
    let k := o.bar.toNat
    let dropped := { e.it with drop := setBit e.it.drop k true }
    match e.it.standing k with
    | .waiting =>
      let s := (s.noteEvent e.gid e.slot).modGroup e.gid (fun g => g.departure k)
      e.finish (.barDrop o) (.done { dropped with member := setBit e.it.member k false }) s
    | _ => e.finish (.barDrop o) (.done dropped) s))

/-- bar.test (R305). -/
def execBarTest (o : BarForm) (s : State) : Host.Outcome State Fault Refusal :=
  .next (s.mapWave (.barTest o) (fun e => .done (e.it.writeP o.d (e.it.standing o.bar.toNat != .arrived))))

/-- bar.red (R311). -/
def execBarRed (o : BarRedForm) (s : State) : Host.Outcome State Fault Refusal :=
  .next (s.barrierWave (.barRed o) (fun e s =>
    let k := o.bar.toNat
    let i : Instr := .barRed o
    let waits (e : Env) (s : State) : State := e.finish i (.wait { e.it with sync := setBit e.it.sync k true } (.barrier k)) s
    if hasBit e.it.sync k then
      match e.it.got with
      | some (v, r) => e.finish i (e.takeReduction o v r) s
      | none => if e.it.standing k = .arrived then waits e s else e.finish i (.done { e.it with sync := setBit e.it.sync k false }) s
    else
      let value := if redWide o.kind then e.it.readV2 o.a else (e.it.readV o.a).zeroExtend 64
      match e.it.standing k with
      | .dropped => e.finish i (.trap e.it (barrierTrap 0x01 k 0)) s
      | .waiting =>
        let kind := ((s.group? e.gid).map (fun g => (g.barrier k).kind)).getD none
        if kind.isSome && kind != some o.kind then e.finish i (.trap e.it (barrierTrap 0x03 k 0)) s
        else
          let (e, s) := e.arrives k s
          let s := s.modGroup e.gid (fun g => g.modBarrier k (fun b => { b with kind := some o.kind }))
          let it := { e.it with
            supply := some (k, value)
            red := some o }
          waits { e with it := it } s
      | _ => e.finish i (.wait { e.it with red := some o } (.blocked k (.red o.kind value))) (s.noteEvent e.gid e.slot)))

/-! ### Arrival barriers (R312 to R316) -/

/-- The words of an arrival barrier: EXPECT, COUNT, PHASE, reserved. -/
def Group.arrivalWords (g : Group) (x : Nat) : Nat × Nat × Nat × Nat :=
  let bs := g.spadRead x 16
  (leAt bs 0 4, leAt bs 4 4, leAt bs 8 4, leAt bs 12 4)

/-- The bytes of an arrival barrier. -/
def arrivalBytes (expect count phase : Nat) : List W8 := leBytes 4 expect ++ leBytes 4 count ++ leBytes 4 phase ++ leBytes 4 0

/-- A credit of `b` bytes (R313): the word's new bytes, or nothing where it is refused. -/
def Group.credited (g : Group) (x b : Nat) : Option (List W8) :=
  let (expect, count, phase, rest) := g.arrivalWords x
  if expect = 0 ∨ rest ≠ 0 then none
  else some (arrivalBytes expect ((count + b) % expect) (phase + (count + b) / expect))

/-- The shared checks of the abar forms (R315). -/
def abarForm (i : Instr) (o : Form) (write reads : Bool) (body : Env → Group → W64 → State → State) (e : Env) (s : State) : State :=
  s.withGroup e.gid (fun g =>
    let x : W64 := (e.it.readV o.a).zeroExtend 64
    match g.spadTrap x 16 write with
    | some t => e.finish i (.trap e.it t) s
    | none =>
      if !s.mayServeSpad g e.it then e.finish i (.wait e.it .again) s
      else if reads && g.spadPoisoned x.toNat 16 then
        let t := memTrap causePoison x true 16 write
        e.finish i (if g.guarded.isSome then .consume t else .trap e.it t) s
      else body e g x s)

/-- abar.init (R315). -/
def execAbarInit (o : Form) (s : State) : Host.Outcome State Fault Refusal :=
  .next (s.foldWave (.abarInit o) false (abarForm (.abarInit o) o true true (fun e _ x s =>
    let b := e.it.readV o.b
    if b = 0 then e.finish (.abarInit o) (.trap e.it (illegal 0x0E 3)) s
    else e.finish (.abarInit o) (.done e.it) (s.spadStore e.gid e.slot x.toNat (arrivalBytes b.toNat 0 0)))))

/-- abar.arrive (R313, R315). -/
def execAbarArrive (o : Form) (s : State) : Host.Outcome State Fault Refusal :=
  .next (s.foldWave (.abarArrive o) false (abarForm (.abarArrive o) o true true (fun e g x s =>
    match g.credited x.toNat (e.it.readV o.b).toNat with
    | none => e.finish (.abarArrive o) (.trap e.it (barrierTrap 0x02 0 x)) s
    | some bs => e.finish (.abarArrive o) (.done e.it) (s.spadStore e.gid e.slot x.toNat bs))))

/-- abar.wait (R315): it blocks while PHASE is the phase given, then acquires at dev. -/
def execAbarWait (o : Form) (s : State) : Host.Outcome State Fault Refusal :=
  .next (s.foldWave (.abarWait o) false (abarForm (.abarWait o) o false true (fun e g x s =>
    let b := e.it.readV o.b
    let (_, _, phase, _) := g.arrivalWords x.toNat
    if phase = b.toNat then e.finish (.abarWait o) (.wait e.it (.arrivalBarrier x.toNat b)) s
    else
      let s := (s.recordSpad e.gid e.slot x.toNat false).modItem e.gid e.slot (fun it => { it with seen := max it.seen g.barStamp })
      let s := s.acquireAt e.gid e.slot .dev
      (e.refresh s).finish (.abarWait o) (.done (e.refresh s).it) s)))

/-! ### Waiting on a global word (R317 to R322) -/

/-- The word at its place of service for die scope (R317). -/
def State.wordAt (s : State) (pa key : Nat) : Service :=
  match s.target? pa with
  | some (.cxl _) =>
    let (s, l) := s.underKey (homeSlice pa) pa (s.tagAt pa key)
    match s.cxlHeld pa 4 false false l with
    | .dead => .poisoned s
    | .no s => .notYet s
    | .yes => if l.poison then .poisoned s else .served s (s.placeBytes l pa 4 key) l.wts 0
  | some .hbm =>
    if s.memory.poisoned (lineOf pa) then .poisoned s
    else .served s (s.memory.read (s.tagAt pa key) pa 4) (((slicesOf pa).map (fun q => (s.l2At q pa).wts)).foldl max 0) 0
  | some (.near _) =>
    if s.memory.poisoned (lineOf pa) then .poisoned s else .served s (s.memory.read 0 pa 4) (Table.read 0 s.nearWts (lineOf pa)) 0
  | none => .poisoned s

/-- The recorder of a word's ordering point (R322). -/
def State.wordRecorder (s : State) (pa : Nat) : Nat := s.placeRecorder (homeSlice pa) pa

/-- A waitv ends (R319): p[D], then the acquire of its order. -/
def State.endWaitv (s : State) (e : Env) (o : WaitvForm) (v : Bool) : State :=
  let s := s.orderAfter e.gid e.slot o.ord o.scope
  let e := e.refresh s
  e.finish (.waitv o) (.done (e.it.writeP o.d v)) s

/-- The entry of the read that ends a party's waitv (R322). -/
def endsWaitv (party : W64) (x : HcEntry) : Bool := leAt x 0 1 == 3 && leAt x 1 1 == 5 && leAt x 8 8 == party.toNat

/-- Has the log, as far as it says, a further read `n` of a party's waitv: one that ends it later, or one that an order entry names? -/
def waitvReads (log : List HcEntry) (party : W64) (n : Nat) : Bool :=
  log.any (fun x => endsWaitv party x ||
    (leAt x 0 1 == 1 && ((leAt x 8 8 == party.toNat && leAt x 4 4 == n) || (leAt x 16 8 == party.toNat && leAt x 24 4 == n))) ||
    (leAt x 0 1 == 2 && leAt x 8 8 == party.toNat && leAt x 4 4 == n))

/-- One read of a waitv at its word's place (R319); `last` is the read after a wake or a time-out, `again` any but the first. Under replay
the log says which reads are made and which of them ends it (R322): the item then sleeps as a polling one does, and it reads again as soon
as the log's order lets it. -/
def State.waitvRead (s : State) (e : Env) (g : Group) (o : WaitvForm) (ea : W64) (pa : Nat) (again last : Bool) : State :=
  let i : Instr := .waitv o
  let key := (s.context g.ctx).key
  let cls := s.coreClass g.core pa
  let h := s.hind g.ctx
  let r := s.wordRecorder pa
  let party := s.partyOfItem g e.it
  let n := (h.recorder r).ordinal party
  let logged := (h.segment r).find? (fun x => endsWaitv party x && leAt x 4 4 == n)
  let sleep : Wait := .poll pa false
  if h.replaying && ((again && !waitvReads (h.segment r) party n) || (logged.isSome && s.atCut g.ctx g.core party)) then
    e.finish i (.wait e.it sleep) s
  else if !s.mayCharge g.core g.ctx cls then e.finish i (.wait e.it (if h.replaying && again then sleep else .none)) (s.throttle e.gid)
  else if !s.mayServe g.ctx r party then e.finish i (.wait e.it (if h.replaying && again then sleep else .again)) s
  else
    match s.wordAt pa key with
    | .notYet s => e.finish i (.wait e.it (if h.replaying && again then sleep else .again)) s
    | .poisoned s =>
      let t := memTrap causePoison ea false 4 false
      e.finish i (if g.guarded.isSome then .consume t else .trap e.it t) s
    | .served s bs wts _ =>
      let s := (s.charge g.core g.ctx cls 4).recordAccess g.ctx r (pa / 16) party 0 false
      let s := s.modItem e.gid e.slot (fun it => { it with seen := max it.seen wts })
      let e := e.refresh s
      let differs := BitVec.ofNat 32 (leNat bs) != e.it.readV o.b
      if h.replaying then
        match logged with
        | some x => (s.useLogged g.ctx r (· == x)).endWaitv e o (leAt x 16 8 == 1)
        | none => e.finish i (.wait e.it sleep) s
      else if differs || last then
        (s.logEntry g.ctx r (valueEntry 5 n party (BitVec.ofNat 64 (boolNat differs)) 0)).endWaitv e o differs
      else
        let die := s.homeDie pa
        let timed := o.texp != 0
        if (s.monitors.filter (fun p => s.homeDie p.2.pa == die)).length < 2048 then
          e.finish i (.wait e.it (.monitor pa timed)) { s with
            monitors := Table.put s.monitors s.nextId { pa := pa, key := key, gid := e.gid, slot := e.slot, seq := s.monitorSeq }
            nextId := s.nextId + 1
            monitorSeq := s.monitorSeq + 1 }
        else e.finish i (.wait e.it (.poll pa timed)) s

/-- waitv (R319). `got` marks an item that executes it again: 0 to go on with its loop, 1 to read the word once more. -/
def execWaitv (o : WaitvForm) (s : State) : Host.Outcome State Fault Refusal :=
  .next (s.commitWave (.waitv o) false (fun e s => s.withGroup e.gid (fun g =>
    let ea := e.it.readV2 o.a
    match s.reachGlobal g ea 4 false with
    | .trap t => e.finish (.waitv o) (.trap e.it t) s
    | .wait w s => e.finish (.waitv o) (.wait e.it w) s
    | .ok pa =>
      match e.it.got, e.was with
      | some (v, _), _ => s.waitvRead e g o ea pa true (v == 1)
      | none, .poll _ _ => s.waitvRead e g o ea pa true false
      | none, _ =>
        if e.orderWaits o.ord o.scope then e.finish (.waitv o) (.wait e.it (.stores o.scope)) s
        else
          let s := s.orderBefore e o.ord o.scope
          s.waitvRead (e.refresh s) g o ea pa false false)))

/-- A waiter leaves the monitor table and reads its word once more (R319, R320). -/
def State.wakeItem (s : State) (gid slot : Nat) : State :=
  { (s.modItem gid slot (fun it => { it with
      wait := .none
      got := some (1, 0) })) with
    monitors := s.monitors.filter (fun p => p.2.gid != gid || p.2.slot != slot) }

/-- Has an item a write to a word that has not been served (R320)? -/
def State.wordPending (s : State) (gid slot pa : Nat) : Bool :=
  s.accesses.any (fun p => p.2.gid == gid && p.2.slot == slot && p.2.kind == AccessKind.store &&
    decide (p.2.pa < pa + 4) && decide (pa < p.2.pa + p.2.bytes))

/-- wake1 and wakeall for one item (R320). -/
def wakeForm (i : Instr) (o : ScopeForm) (all : Bool) (e : Env) (s : State) : State :=
  s.withGroup e.gid (fun g =>
    match s.reachGlobal g (e.it.readV2 o.a) 4 false with
    | .trap t => e.finish i (.trap e.it t) s
    | .wait w s => e.finish i (.wait e.it w) s
    | .ok pa =>
      if e.it.releaseWaits o.scope then e.finish i (.wait e.it (.stores o.scope)) s
      else if s.wordPending e.gid e.slot pa then e.finish i (.wait e.it (.word pa)) s
      else if !s.mayServe g.ctx (s.wordRecorder pa) (s.partyOfItem g e.it) then e.finish i (.wait e.it .again) s
      else
        let s := s.fence e.gid e.slot false true false o.scope
        let e := e.refresh s
        let s := s.recordAccess g.ctx (s.wordRecorder pa) (pa / 16) (s.partyOfItem g e.it) 0 true
        let key := (s.context g.ctx).key
        let hits := (s.monitors.filter (fun p => p.2.pa == pa && p.2.key == key)).map Prod.snd
        let chosen := if all then hits else
          (hits.foldl (fun (b : Option Monitor) m => match b with
            | none => some m
            | some x => if m.seq < x.seq then some m else b) none).toList
        e.finish i (.done e.it) (chosen.foldl (fun s m => s.wakeItem m.gid m.slot) s))

/-- wake1 (R320). -/
def execWake1 (o : ScopeForm) (s : State) : Host.Outcome State Fault Refusal :=
  .next (s.commitWave (.wake1 o) false (wakeForm (.wake1 o) o false))

/-- wakeall (R320). -/
def execWakeall (o : ScopeForm) (s : State) : Host.Outcome State Fault Refusal :=
  .next (s.commitWave (.wakeall o) false (wakeForm (.wakeall o) o true))

/-- WAITV_TIMEOUT (R319): a time-out ends sleep and polling alike. -/
def execWaitvTimeout (gid slot : Nat) (s : State) : Host.Outcome State Fault Refusal :=
  .next (match s.item? gid slot with
    | some it =>
      match it.wait with
      | .monitor _ true => s.wakeItem gid slot
      | .poll _ true => s.wakeItem gid slot
      | _ => s
    | none => s)

/-- WAITV_POLL (R319): a polling item goes on with its loop after 256 cycles. -/
def execWaitvPoll (gid slot : Nat) (s : State) : Host.Outcome State Fault Refusal :=
  .next (s.modItem gid slot (fun it =>
    match it.wait with
    | .poll _ _ => { it with
        wait := .none
        got := some (0, 0) }
    | _ => it))

end Sys2Proof.Machine
end

