-- ==== Sys2Proof/Machine/Atomics.lean ====
section
/-! DEFINITION. Atomics (12 R265, R267, R274, R276): the operations, the place where each is performed, the forms of both spaces, and
MEMORY_ACCESS_SERVED. -/

namespace Sys2Proof.Machine

/-- Op of R274 on `w` bits: the new value and the flags of fadd. Operations by AOP; 9 stands for compare and swap, `c` the new value. -/
def atomicOp {w : Nat} (op : Nat) (uns : Bool) (old b c : BitVec w) : BitVec w × BitVec 5 :=
  let less (x y : BitVec w) : Bool := if uns then x.ult y else x.slt y
  match op with
  | 0 => (old + b, 0)
  | 1 => (old &&& b, 0)
  | 2 => (old ||| b, 0)
  | 3 => (old ^^^ b, 0)
  | 4 => (if less old b then old else b, 0)
  | 5 => (if less old b then b else old, 0)
  | 6 => (b, 0)
  | 7 => (if (0 : BitVec w).slt old then old - 1 else old, 0)
  | 8 =>
    let r := seqAdd (fp32.decode old.toNat) (fp32.decode b.toNat)
    (BitVec.ofNat w r.bits, r.flags)
  | _ => (if old = b then c else old, 0)

/-- The new bytes of an atomic on the old ones, with its flags. -/
def atomicBytes (kind : AccessKind) (old data compare : List W8) : List W8 × BitVec 5 :=
  let n := old.length
  let f (op : Nat) (uns : Bool) (b c : List W8) : List W8 × BitVec 5 :=
    if n = 8 then
      let r := atomicOp op uns (BitVec.ofNat 64 (leNat old)) (BitVec.ofNat 64 (leNat b)) (BitVec.ofNat 64 (leNat c))
      (leBytes 8 r.1.toNat, r.2)
    else
      let r := atomicOp op uns (BitVec.ofNat 32 (leNat old)) (BitVec.ofNat 32 (leNat b)) (BitVec.ofNat 32 (leNat c))
      (leBytes 4 r.1.toNat, r.2)
  match kind with
  | .atomic op uns => f op uns data []
  | .cas => f 9 false compare data
  | _ => (old, 0)

/-- An operand of 4 or 8 bytes. -/
def Item.operandBytes (it : Item) (w64 : Bool) (n : BitVec 7) : List W8 :=
  if w64 then leBytes 8 (it.readV2 n).toNat else leBytes 4 (it.readV n).toNat

/-- A global atomic issues (R274): checked as a write, charged, and performed when it is served. -/
def globalAtomic (i : Instr) (o : AtomForm) (kind : AccessKind) (e : Env) (s : State) : State :=
  s.withGroup e.gid (fun g =>
    let n := if o.w64 then 8 else 4
    let ea := e.address o.m o.a 0 false 0 o.off
    match s.reachGlobal g ea n true with
    | .trap t => e.finish i (.trap e.it t) s
    | .wait w s => e.finish i (.wait e.it w) s
    | .ok pa =>
      if e.orderWaits o.ord o.scope then e.finish i (.wait e.it (.stores o.scope)) s
      else
        let cls := s.coreClass g.core pa
        if !s.mayCharge g.core g.ctx cls then e.finish i (.wait e.it .none) (s.throttle e.gid)
        else
          let s := (s.orderBefore e o.ord o.scope).charge g.core g.ctx cls n
          let e := e.refresh s
          s.issueAccess e i { s.newAccess e g i kind ea pa n with
            data := e.it.operandBytes o.w64 (if kind = .cas then o.c else o.b)
            compare := e.it.operandBytes o.w64 o.b
            ord := o.ord
            scope := o.scope })

/-- A scratchpad atomic, at the ALU of its word's bank (R265, R274). -/
def spadAtomic (i : Instr) (o : AtomForm) (kind : AccessKind) (e : Env) (s : State) : State :=
  s.withGroup e.gid (fun g =>
    let ea := e.address o.m o.a 0 false 0 o.off
    match g.spadTrap ea 4 true with
    | some t => e.finish i (.trap e.it t) s
    | none =>
      if !s.mayServeSpad g e.it then e.finish i (.wait e.it .again) s
      else if g.spadPoisoned ea.toNat 4 then
        let t := memTrap causePoison ea true 4 true
        e.finish i (if g.guarded.isSome then .consume t else .trap e.it t) s
      else
        let old := g.spadRead ea.toNat 4
        let r := atomicBytes kind old (e.it.operandBytes false (if kind = .cas then o.c else o.b)) (e.it.operandBytes false o.b)
        let it := e.it.putLoad o.d false old
        e.finish i (.done { it with fpstat := it.fpstat ||| r.2 }) (s.spadStore e.gid e.slot ea.toNat r.1))

/-! ### Service -/

/-- The place of a global atomic: its slice, and whether the cluster L1 takes ownership there (R265). -/
def State.atomicPlace (s : State) (a : Access) : Nat × Bool :=
  let narrow := !scopeWide a.scope
  let near := match s.target? a.pa with | some (.near _) => true | _ => false
  if narrow && !near && !s.isHost a.pa then (servingSlice (dieOfCore a.core) a.pa, true) else (homeSlice a.pa, false)

/-- A global atomic is served: indivisibly at its place (R265, R274). -/
def State.serveAtomic (s : State) (id : Nat) (a : Access) : State :=
  let (slice, inL1) := s.atomicPlace a
  let cluster := clusterOf a.core
  let rec_ := if inL1 then cluster else s.placeRecorder slice a.pa
  if s.recorderStalls a.ctx rec_ || !s.mayServe a.ctx rec_ a.party then s
  else
    let place := if s.isCxl a.pa then homeSlice a.pa else slice
    let ready : Held := if s.isCxl a.pa then s.cxlHeld a.pa a.bytes true false (s.underKey place a.pa (s.tagAt a.pa a.key)).2 else .yes
    match ready with
    | .no s => s
    | .dead => if s.firstOfItem id a then s.accessTraps id a else s
    | .yes =>
      match s.readAt slice a.pa a.bytes a.key none with
      | .notYet s => s
      | .poisoned s => if s.firstOfItem id a then s.accessTraps id a else s
      | .served s old wts _ =>
        let before := s
        let r := atomicBytes a.kind old a.data a.compare
        match s.writeAt slice a.pa a.key r.1 a.view with
        | .notYet s => s
        | .poisoned s => s
        | .served s _ stamp _ =>
          let s := s.noteCodeStore before a.gid a.va a.pa r.1.length a.key
          let s := (s.recall (lineOf a.pa) (if inL1 then some cluster else none)).deactivate slice (lineOf a.pa)
          let s := (s.updateCopy cluster a.pa (s.keyTag a.key) r.1).stampCopy cluster a.pa (s.keyTag a.key) stamp
          let s := if inL1 then s.fillCopy slice a .owned stamp stamp else s
          let s := s.recordAccess a.ctx rec_ (a.pa / 16) a.party 0 true
          let s := s.logStore a.ctx a.core (field a.party 50 48) (field a.party 47 0) a.va.toNat r.1
          s.deliver id a { data := old, wts := wts, stamp := stamp, flags := r.2 }

/-- MEMORY_ACCESS_SERVED (R281): an access is served at its place, and its data or stamp returns. One that is not the first of its
cluster's requests for the line, or whose slice lacks tokens or data, is not served yet. Under replay a load or an atomic that met poison in
the recorded run meets it at the logged instruction (18 R403). -/
def execMemoryAccessServed (id : Nat) (s : State) : Host.Outcome State Fault Refusal :=
  .next (match Table.get? s.accesses id with
    | none => s
    | some a =>
      if !s.firstInLine id a then s
      else if s.trapLogged a.ctx a.core causePoison a.party && a.kind != AccessKind.store then
        if s.firstOfItem id a then s.accessTraps id a else s
      else
        match a.kind with
        | .load => s.serveLoad id a
        | .uniform => s.serveLoad id a
        | .store => s.serveStore id a
        | .atomic _ _ => s.serveAtomic id a
        | .cas => s.serveAtomic id a)

/-! ### atom and acas -/

/-- atom.add (R274). -/
def execAtomAdd (o : AtomForm) (s : State) : Host.Outcome State Fault Refusal :=
  .next (s.commitWave (.atomAdd o) false (globalAtomic (.atomAdd o) o (.atomic 0 o.uns)))

/-- atom.and (R274). -/
def execAtomAnd (o : AtomForm) (s : State) : Host.Outcome State Fault Refusal :=
  .next (s.commitWave (.atomAnd o) false (globalAtomic (.atomAnd o) o (.atomic 1 o.uns)))

/-- atom.or (R274). -/
def execAtomOr (o : AtomForm) (s : State) : Host.Outcome State Fault Refusal :=
  .next (s.commitWave (.atomOr o) false (globalAtomic (.atomOr o) o (.atomic 2 o.uns)))

/-- atom.xor (R274). -/
def execAtomXor (o : AtomForm) (s : State) : Host.Outcome State Fault Refusal :=
  .next (s.commitWave (.atomXor o) false (globalAtomic (.atomXor o) o (.atomic 3 o.uns)))

/-- atom.min (R274). -/
def execAtomMin (o : AtomForm) (s : State) : Host.Outcome State Fault Refusal :=
  .next (s.commitWave (.atomMin o) false (globalAtomic (.atomMin o) o (.atomic 4 o.uns)))

/-- atom.max (R274). -/
def execAtomMax (o : AtomForm) (s : State) : Host.Outcome State Fault Refusal :=
  .next (s.commitWave (.atomMax o) false (globalAtomic (.atomMax o) o (.atomic 5 o.uns)))

/-- atom.xchg (R274). -/
def execAtomXchg (o : AtomForm) (s : State) : Host.Outcome State Fault Refusal :=
  .next (s.commitWave (.atomXchg o) false (globalAtomic (.atomXchg o) o (.atomic 6 o.uns)))

/-- atom.decp (R274). -/
def execAtomDecp (o : AtomForm) (s : State) : Host.Outcome State Fault Refusal :=
  .next (s.commitWave (.atomDecp o) false (globalAtomic (.atomDecp o) o (.atomic 7 o.uns)))

/-- atom.fadd (R274). -/
def execAtomFadd (o : AtomForm) (s : State) : Host.Outcome State Fault Refusal :=
  .next (s.commitWave (.atomFadd o) false (globalAtomic (.atomFadd o) o (.atomic 8 o.uns)))

/-- acas (R274): the compare value stands in B, the new value in C. -/
def execAcas (o : AtomForm) (s : State) : Host.Outcome State Fault Refusal :=
  .next (s.commitWave (.acas o) false (globalAtomic (.acas o) o .cas))

/-! ### satom and scas -/

/-- satom.add (R274). -/
def execSatomAdd (o : AtomForm) (s : State) : Host.Outcome State Fault Refusal :=
  .next (s.foldWave (.satomAdd o) false (spadAtomic (.satomAdd o) o (.atomic 0 o.uns)))

/-- satom.and (R274). -/
def execSatomAnd (o : AtomForm) (s : State) : Host.Outcome State Fault Refusal :=
  .next (s.foldWave (.satomAnd o) false (spadAtomic (.satomAnd o) o (.atomic 1 o.uns)))

/-- satom.or (R274). -/
def execSatomOr (o : AtomForm) (s : State) : Host.Outcome State Fault Refusal :=
  .next (s.foldWave (.satomOr o) false (spadAtomic (.satomOr o) o (.atomic 2 o.uns)))

/-- satom.xor (R274). -/
def execSatomXor (o : AtomForm) (s : State) : Host.Outcome State Fault Refusal :=
  .next (s.foldWave (.satomXor o) false (spadAtomic (.satomXor o) o (.atomic 3 o.uns)))

/-- satom.min (R274). -/
def execSatomMin (o : AtomForm) (s : State) : Host.Outcome State Fault Refusal :=
  .next (s.foldWave (.satomMin o) false (spadAtomic (.satomMin o) o (.atomic 4 o.uns)))

/-- satom.max (R274). -/
def execSatomMax (o : AtomForm) (s : State) : Host.Outcome State Fault Refusal :=
  .next (s.foldWave (.satomMax o) false (spadAtomic (.satomMax o) o (.atomic 5 o.uns)))

/-- satom.xchg (R274). -/
def execSatomXchg (o : AtomForm) (s : State) : Host.Outcome State Fault Refusal :=
  .next (s.foldWave (.satomXchg o) false (spadAtomic (.satomXchg o) o (.atomic 6 o.uns)))

/-- satom.decp (R274). -/
def execSatomDecp (o : AtomForm) (s : State) : Host.Outcome State Fault Refusal :=
  .next (s.foldWave (.satomDecp o) false (spadAtomic (.satomDecp o) o (.atomic 7 o.uns)))

/-- satom.fadd (R274). -/
def execSatomFadd (o : AtomForm) (s : State) : Host.Outcome State Fault Refusal :=
  .next (s.foldWave (.satomFadd o) false (spadAtomic (.satomFadd o) o (.atomic 8 o.uns)))

/-- scas (R274). -/
def execScas (o : AtomForm) (s : State) : Host.Outcome State Fault Refusal :=
  .next (s.foldWave (.scas o) false (spadAtomic (.scas o) o .cas))


end Sys2Proof.Machine
end

