-- ==== Sys2Proof/Machine/Pages.lean ====
section
/-! DEFINITION. Translation at work (16 R356 to R367): page walks, fault records and their resolution, invalidation, the page forms,
and the spill and fill engine (08 R165). -/

namespace Sys2Proof.Machine

/-! ### Walks and faults -/

/-- Items of the context whose wait meets `q`, changed by `f`. -/
def State.mapWaiting (s : State) (ctx : Nat) (f : Group → Item → Item) : State :=
  { s with groups := s.groups.mapAll (fun _ g => if g.ctx = ctx then { g with items := g.items.mapAll (fun _ it => f g it) } else g) }

/-- Has a walk one of its die's 32 walkers, in arrival order (R358)? -/
def State.hasWalker (s : State) (id : Nat) (w : Walk) : Bool :=
  decide ((s.walks.filter (fun p => decide (p.1 < id) && dieOfCore p.2.unit == dieOfCore w.unit)).length < 32)

/-- PAGE_WALK (R356, R358 to R361): the walk of a miss ends. Every request of the die that the page answers goes on; so does one that has joined the
walk with another access kind where the walk has faulted. -/
def execPageWalk (id : Nat) (s : State) : Host.Outcome State Fault Refusal :=
  .next (match Table.get? s.walks id with
    | none => s
    | some w =>
      if !s.hasWalker id w then s
      else
      let here (core : Nat) : Bool := dieOfCore core == dieOfCore w.unit
      let (start, result) := s.walkOf (dieOfCore w.unit) w.ctx w.va w.kind
      match result with
      | .leaf l =>
        let same (va : W64) : Bool := va.toNat % 2 ^ 57 / 2 ^ l.logSize == w.va.toNat % 2 ^ 57 / 2 ^ l.logSize
        let s := { s with walks := s.walks.filter (fun p => p.1 != id && !(here p.2.unit && p.2.ctx == w.ctx && same p.2.va)) }
        ((s.keepPath (dieOfCore w.unit) w.ctx w.va start).fillPath w.unit w.ctx w.va l).mapWaiting w.ctx (fun g it =>
          match it.wait with
          | .walk _ _ va _ => if here g.core && same va then { it with wait := .none } else it
          | _ => it)
      | .fault reason level bad =>
        let s := ({ s with walks := Table.erase s.walks id }).notePoisonedEntry bad
        let s := if replayable reason then s.postFault w.ctx w.va reason level w.kind false else s
        s.mapWaiting w.ctx (fun g it =>
          match it.wait with
          | .walk c page va kind =>
            if !here g.core || page != w.page then it
            else if kind != w.kind then { it with wait := .none }
            else if replayable reason then { it with wait := .fault c page va kind }
            else { it with
              wait := .none
              owed := some (pageFaultTrap va false kind level reason) }
          | _ => it))

/-- A fault record (R362). -/
def faultRecord (f : PageFault) (fid : Nat) : List W8 :=
  recordOf 32 [(0, 8, f.page), (8, 2, f.ctx), (0x0A, 1, f.reason), (0x0B, 1, 2 ^ f.kind + 8 * boolNat f.engine), (0x0C, 1, f.level),
    (0x10, 8, fid)]

/-- FAULT_RECORD_APPEND (R361): the oldest fault without a record is appended while the ring has room. -/
def execFaultRecordAppend (s : State) : Host.Outcome State Fault Refusal :=
  .next (match s.faults.find? (fun p => p.2.fid.isNone) with
    | none => s
    | some (id, f) =>
      if s.dev.poolSize = 0 ∨ 2 ^ s.dev.frLog ≤ s.dev.frTail - s.dev.frHead then s
      else
        let s := s.physWrite (s.dev.frBase + 32 * (s.dev.frTail % 2 ^ s.dev.frLog)) (faultRecord f s.nextFid)
        { s with
          faults := Table.put s.faults id { f with fid := some s.nextFid }
          nextFid := s.nextFid + 1
          dev := { s.dev with frTail := s.dev.frTail + 1 } })

/-- The words of frames, the last of which ends below `top`, with their link records (R164). -/
def frameWords (top : W64) : List CallerFrame → List (W64 × W32)
  | [] => []
  | f :: fs =>
    let above := (fs.map (fun c => 4 * c.words.length + 16)).sum
    let base := top - BitVec.ofNat 64 (above + 4 * f.words.length + 16)
    let link : List W32 := [lo32 f.ret, hi32 f.ret, BitVec.ofNat 32 f.words.length, 0]
    let ws := f.words ++ link
    (ws.zip (upTo ws.length)).map (fun p => (base + BitVec.ofNat 64 (4 * p.2), p.1)) ++ frameWords top fs

/-- The words of an item's register stack as a save leaves them (R149): caller frames below STACK, the current frame from STACK upward. -/
def Item.stackImage (it : Item) : List (W64 × W32) :=
  let ws := it.windowWords
  frameWords it.stack it.callers ++ (ws.zip (upTo ws.length)).map (fun p => (it.stack + BitVec.ofNat 64 (4 * p.2), p.1))

/-- The addresses of those words that stand on a page. -/
def Item.stackWordsOn (it : Item) (page : Nat) : List W64 := (it.stackImage.map Prod.fst).filter (fun va => pageOf va == page)

/-- Does a FAIL give an item its trap? Under replay only where the log holds the trap point (R368, 18 R403). -/
def State.failTraps (s : State) (g : Group) (it : Item) : Bool :=
  !(s.hind g.ctx).replaying || s.trapLogged g.ctx g.core causePageFault (s.partyOfItem g it)

/-- A fault ends (R363): RETRY makes its parties ready, FAIL gives items their trap. Chunks go on; Engines.lean ends them at FAIL. -/
def State.resolveFault (s : State) (id : Nat) (f : PageFault) (fail : Bool) : State :=
  let s := { s with faults := Table.erase s.faults id }
  let s := s.mapWaiting f.ctx (fun g it =>
    match it.wait with
    | .fault _ page va kind =>
      if page = f.page then { it with
        wait := if it.unread then .frame else .none
        lost := if fail && s.failTraps g it && (it.unread || kind == 3) then it.lost ++ it.stackWordsOn page else it.lost
        held := it.held && !(fail && s.failTraps g it && (it.unread || kind == 3))
        owed := if fail && s.failTraps g it then some (pageFaultTrap va true (if kind = 3 then 1 else kind) f.level f.reason) else it.owed }
      else it
    | _ => it)
  { s with
    commands := s.commands.mapAll (fun _ c =>
      if c.ctx = f.ctx then
        let hit := (c.faulted.filter (fun p => p.2 == f.page)).map Prod.fst
        { c with
          faulted := c.faulted.filter (fun p => p.2 != f.page)
          left := c.left ++ hit }
      else c)
    groups := s.groups.mapAll (fun _ g =>
      if g.ctx = f.ctx then
        { g with tiles := g.tiles.mapAll (fun _ t => { t with
            stalled := match t.stalled with
              | some (va, r) => if pageOf va = f.page then (if fail then some (va, true) else none) else some (va, r)
              | none => none }) }
      else g) }

/-! ### Invalidation (R363) -/

/-- A span of a context: log2 of its bytes and an address in it; none is the whole context. -/
abbrev Span := Option (Nat × W64)

def inSpan (sp : Span) (ea : W64) : Bool :=
  match sp with
  | none => true
  | some (log, a) => ea.toNat % 2 ^ 57 / 2 ^ log == a.toNat % 2 ^ 57 / 2 ^ log

def TlbEntry.meets (t : TlbEntry) (sp : Span) : Bool :=
  match sp with
  | none => true
  | some (log, a) =>
    let m := max log t.logSize
    t.base / 2 ^ m == a.toNat % 2 ^ 57 / 2 ^ m

/-- Does an address stand in a span, or in the page of an entry that covers a byte of it? -/
def State.touchesSpan (s : State) (ctx : Nat) (sp : Span) (va : W64) : Bool :=
  inSpan sp va || s.tlbs.any (fun p => p.2.covers ctx va && p.2.meets sp)

/-- Have all accesses of a context been served that an entry has translated which an invalidation of a span removes, those of release buffers among
them? -/
def State.spanQuiet (s : State) (ctx : Nat) (sp : Span) : Bool :=
  s.accesses.all (fun p => p.2.ctx != ctx || !s.touchesSpan ctx sp p.2.va) &&
    s.groups.all (fun p => p.2.ctx != ctx || ((p.2.guarded.map Guarded.release).getD []).all (fun h => !s.touchesSpan ctx sp h.va))

/-- Does a table that a walker holds stand on the path of an address of a span? -/
def TablePath.meets (p : TablePath) (sp : Span) : Bool :=
  match sp with
  | none => true
  | some (log, a) =>
    let m := max log (21 + 9 * p.level)
    p.prefix_ * 2 ^ (21 + 9 * p.level) / 2 ^ m == a.toNat % 2 ^ 57 / 2 ^ m

/-- The invalidation's effect, taken when every access translated before it has been served: walks begun before start afresh when their
turn comes. -/
def State.invalidate (s : State) (ctx : Nat) (sp : Span) : State :=
  { s with
    tlbs := s.tlbs.filter (fun p => p.2.ctx != ctx || !p.2.meets sp)
    paths := s.paths.filter (fun p => p.2.ctx != ctx || !p.2.meets sp) }

/-! ### tlbinv, tlbinvall, pgprobe (R366, R367) -/

/-- Status codes of R99 and R363. -/
abbrev stDone : Nat := 0x00
abbrev stNoCtx : Nat := 0x01
abbrev stNotChild : Nat := 0x02
abbrev stSelf : Nat := 0x03
abbrev stState : Nat := 0x04
abbrev stNoSpace : Nat := 0x05
abbrev stRevision : Nat := 0x06
abbrev stImage : Nat := 0x07
abbrev stNoKey : Nat := 0x08
abbrev stKilled : Nat := 0x09
abbrev stNoMap : Nat := 0x0A
abbrev stBadCcb : Nat := 0x0B
abbrev stBadCmd : Nat := 0x0C
abbrev stStale : Nat := 0x0E
abbrev stNoRing : Nat := 0x0F

/-- A target CTXID in a register (R100, R367): bits 9:0, not 0, nothing above. -/
def targetOk (t : W32) : Bool := decide (t.toNat < 1024) && t != 0

/-- The status of a page form's target. -/
def State.pageTarget (s : State) (ctx : Nat) (t : Nat) : Nat :=
  if (s.context t).state = .tornDown then stNoCtx
  else if t ≠ ctx ∧ (s.context t).parent ≠ ctx then stNotChild
  else stDone

/-- The end of a form that writes a logged status to D (R102, R367). -/
def Env.giveStatus (e : Env) (i : Instr) (d : BitVec 7) (st : Nat) (s : State) : State :=
  let (v, s) := s.loggedItemValue e.gid e.slot 3 (BitVec.ofNat 64 st) 0
  e.finish i (.done (e.it.writeV d (lo32 v))) s

/-- tlbinv and tlbinvall for one item. -/
def invalidateForm (i : Instr) (o : Form) (sp : Env → Span) (e : Env) (s : State) : State :=
  s.withGroup e.gid (fun g =>
    let t := e.it.readV o.a
    if !targetOk t then e.finish i (.trap e.it (illegal 0x0E 2)) s
    else
      let st := s.pageTarget g.ctx t.toNat
      if g.turnTaken e then e.await i .again s
      else if st ≠ stDone then e.giveStatus i o.d st s
      else if !s.spanQuiet t.toNat (sp e) then e.await i .again s
      else e.giveStatus i o.d st (s.invalidate t.toNat (sp e)))

/-- tlbinv (R367). -/
def execTlbinv (o : SizeForm) (s : State) : Host.Outcome State Fault Refusal :=
  .next (s.commitWave (.tlbinv o) true (invalidateForm (.tlbinv o) o.toForm (fun e => some (o.sz.toNat, e.it.readV2 o.b))))

/-- tlbinvall (R367). -/
def execTlbinvall (o : Form) (s : State) : Host.Outcome State Fault Refusal :=
  .next (s.commitWave (.tlbinvall o) true (invalidateForm (.tlbinvall o) o (fun _ => none)))

/-- The result of Probe (R367). -/
def State.probeResult (s : State) (t : Nat) (ea : W64) (st : Nat) : W64 :=
  if st = stNoCtx then BitVec.ofNat 64 (15 * 2 ^ 59)
  else if st = stNotChild then BitVec.ofNat 64 (14 * 2 ^ 59)
  else
    match s.probe t ea with
    | .fault reason level _ => BitVec.ofNat 64 (reason * 2 ^ 59 + level)
    | .leaf l =>
      BitVec.ofNat 64 (2 ^ 63 + boolNat l.x * 2 ^ 58 + boolNat l.w * 2 ^ 57 + boolNat l.r * 2 ^ 56 + l.code * 2 ^ 52 + l.pa ea)

/-- pgprobe (R367). -/
def execPgprobe (o : Form) (s : State) : Host.Outcome State Fault Refusal :=
  .next (s.commitWave (.pgprobe o) true (fun e s => s.withGroup e.gid (fun g =>
    let t := e.it.readV o.a
    if !targetOk t then e.finish (.pgprobe o) (.trap e.it (illegal 0x0E 2)) s
    else
      let (v, s) := s.loggedItemValue e.gid e.slot 3 (s.probeResult t.toNat (e.it.readV2 o.b) (s.pageTarget g.ctx t.toNat)) 0
      e.finish (.pgprobe o) (.done (e.it.writeV2 o.d v)) s)))

/-! ### The spill and fill engine (08 R164, R165) -/

/-- How the engine's work on one item ends: done, not yet, a trap at the call or ret, or a fault key to park on. -/
inductive StackWork (α : Type) where
  | ok (x : α) (s : State)
  | notYet (s : State)
  | trap (t : Trap) (s : State)
  | park (va : W64) (kind : Nat) (s : State)

/-- One word of the stack area is reached (R165): translated and checked as ld and st are. -/
def State.stackReach (s : State) (g : Group) (va : W64) (kind : Nat) : StackWork Nat :=
  match s.engineTranslate (dieOfCore g.core) g.ctx va kind false with
  | .fail reason level s => .trap (pageFaultTrap va false kind level reason) s
  | .wait s => .park va kind s
  | .ok pa s => if s.granted g.ctx pa 4 false (kind == 1) then .ok pa s else .trap (memTrap causeProt va false 4 (kind == 1)) s

/-- Has a line stores of the item on their way to it? The engine's accesses come after them. -/
def State.stackBusy (s : State) (g : Group) (it : Item) (pa : Nat) : Bool :=
  let party := s.partyOfItem g it
  s.accesses.any (fun p => p.2.ctx == g.ctx && p.2.party == party && p.2.kind == AccessKind.store && lineOf p.2.pa == lineOf pa)

/-- The engine writes words of an item's stack; the accesses of a save and a restore are not among those that Hindcast counts (log 10). -/
def State.stackWrite (s : State) (g : Group) (it : Item) (counted : Bool) : List (W64 × W32) → StackWork Unit
  | [] => .ok () s
  | (va, x) :: rest =>
    match s.stackReach g va 1 with
    | .trap t s => .trap t s
    | .park va k s => .park va k s
    | .notYet s => .notYet s
    | .ok pa s =>
      let key := (s.context g.ctx).key
      let slice := servingSlice (dieOfCore g.core) pa
      if s.stackBusy g it pa then .notYet s
      else match (State.bringTokens slice pa true 4 s).writeAt slice pa key (leBytes 4 x.toNat) it.view with
      | .notYet s => .notYet s
      | .poisoned s => .notYet s
      | .served s _ _ _ =>
        let s := ((s.recall (lineOf pa) (some (clusterOf g.core))).updateCopy (clusterOf g.core) pa (s.keyTag key) (leBytes 4 x.toNat))
        let s := s.charge g.core g.ctx (s.coreClass g.core pa) 4
        let s := if counted then s.recordAccess g.ctx (s.placeRecorder slice pa) (pa / 16) (s.partyOfItem g it) 0 true else s
        s.stackWrite g it counted rest

/-- The engine reads words of an item's stack. -/
def State.stackRead (s : State) (g : Group) (it : Item) (counted : Bool) : List W64 → StackWork (List W32)
  | [] => .ok [] s
  | va :: rest =>
    match s.stackReach g va 0 with
    | .trap t s => .trap t s
    | .park va k s => .park va k s
    | .notYet s => .notYet s
    | .ok pa s =>
      let slice := servingSlice (dieOfCore g.core) pa
      if s.stackBusy g it pa then .notYet s
      else match (State.bringTokens slice pa false 4 s).readAt slice pa 4 (s.context g.ctx).key none with
      | .notYet s => .notYet s
      | .poisoned s => .trap (memTrap causePoison va false 4 false) s
      | .served s bs _ _ =>
        let s := s.charge g.core g.ctx (s.coreClass g.core pa) 4
        let s := if counted then s.recordAccess g.ctx (s.placeRecorder slice pa) (pa / 16) (s.partyOfItem g it) 0 false else s
        match s.stackRead g it counted rest with
        | .ok xs s => .ok (BitVec.ofNat 32 (leNat (g.withHeld pa bs)) :: xs) s
        | r => r

/-- A spilled word joins the release buffer of a guarded group (R165, R429): words of one granule that follow one another share an entry. -/
def holdSpill (held : List HeldStore) (h : HeldStore) : List HeldStore :=
  match held.getLast? with
  | some l =>
    if l.spill && l.slot == h.slot && l.pa + l.data.length == h.pa && l.key == h.key && h.pa % 16 != 0 then
      held.dropLast ++ [{ l with data := l.data ++ h.data }]
    else held ++ [h]
  | none => [h]

/-- A guarded group holds a spilled word as it holds a relaxed store, and sends it once it holds no more (R429, R431). -/
def State.holdWord (s : State) (gid : Nat) (h : HeldStore) : State :=
  match s.group? gid with
  | none => s
  | some g =>
    match g.guarded with
    | none => s.sendHeld gid g h
    | some u =>
      if u.unrec then s.sendHeld gid g h
      else if 512 ≤ u.release.length then (s.unrecoverable gid).sendHeld gid g h
      else s.modGroup gid (fun g => { g with guarded := some { u with release := holdSpill u.release h } })

/-- The physical addresses of words of the stack area that are written. -/
def State.reachEach (s : State) (g : Group) : List W64 → StackWork (List Nat)
  | [] => .ok [] s
  | va :: rest =>
    match s.stackReach g va 1 with
    | .trap t s => .trap t s
    | .park va k s => .park va k s
    | .notYet s => .notYet s
    | .ok pa s =>
      match s.reachEach g rest with
      | .ok pas s => .ok (pa :: pas) s
      | r => r

/-- The engine spills words of an item's stack (R165): those of a guarded group go through its release buffer (R429). -/
def State.spillWords (s : State) (g : Group) (e : Env) (ws : List (W64 × W32)) : StackWork Unit :=
  match g.guarded with
  | none => s.stackWrite g e.it true ws
  | some _ =>
    match s.reachEach g (ws.map Prod.fst) with
    | .ok pas s =>
      let key := (s.context g.ctx).key
      .ok () ((ws.zip pas).foldl (fun s w => s.holdWord e.gid
        { slot := e.slot, va := w.1.1, pa := w.2, key := key, data := leBytes 4 w.1.2.toNat, spill := true }) s)
    | .trap t s => .trap t s
    | .park va k s => .park va k s
    | .notYet s => .notYet s

/-- The engine's work for a call: the oldest of the caller frames, with the current frame as the call pushes it, go to memory until the new
frame fits (R165). -/
def State.spillFor (s : State) (g : Group) (e : Env) (need : Nat) : StackWork Unit :=
  let frames := e.pushed
  let gone := frames.take (frames.length - (residentFrames need frames).length)
  s.spillWords g e ((frameWords (e.it.stack + BitVec.ofNat 64 (4 * e.it.frame.toNat + 16)) frames).take ((gone.map (fun c => c.words.length + 4)).sum))

/-- The engine's work for a ret: the link record, and, where it is valid, the caller's words. -/
def State.fillFor (s : State) (g : Group) (e : Env) : StackWork (Option CallerFrame) :=
  let link := e.it.stack - 16
  match s.stackRead g e.it true ((upTo 4).map (fun j => link + BitVec.ofNat 64 (4 * j))) with
  | .ok ws s =>
    let n := (ws.getD 2 0).toNat
    if 96 < n ∨ ws.getD 3 0 ≠ 0 then .ok none s
    else
      match s.stackRead g e.it true ((upTo n).map (fun j => link - BitVec.ofNat 64 (4 * n) + BitVec.ofNat 64 (4 * j))) with
      | .ok xs s => .ok (some { words := xs, ret := pair (ws.getD 1 0) (ws.getD 0 0) }) s
      | .notYet s => .notYet s
      | .trap t s => .trap t s
      | .park va k s => .park va k s
  | .notYet s => .notYet s
  | .trap t s => .trap t s
  | .park va k s => .park va k s

/-- The item the engine of a core serves next, in order of request: group and slot. -/
def State.nextSpill (s : State) (core : Nat) : Option (Nat × Nat) :=
  let ws := s.groups.flatMap (fun p => if p.2.core = core then p.2.items.filterMap (fun q => match q.2.wait with
    | .spill _ _ since => some (since, p.1, q.1)
    | .frame => some (q.2.joined / 4096, p.1, q.1)
    | _ => none) else [])
  (ws.foldl (fun (b : Option (Nat × Nat × Nat)) w => match b with
    | none => some w
    | some x => if w.1 < x.1 then some w else b) none).map Prod.snd

/-- Words of the stack read back each by itself: zero for one that is lost or cannot be read, with the trap of the first of these (R152). -/
def State.readEach (s : State) (g : Group) (it : Item) : List W64 → StackWork (List W32 × Option Trap)
  | [] => .ok ([], none) s
  | va :: rest =>
    let go (x : W32) (t : Option Trap) (s : State) : StackWork (List W32 × Option Trap) :=
      match s.readEach g it rest with
      | .ok (xs, u) s => .ok (x :: xs, t.or u) s
      | r => r
    if it.lost.contains va then go 0 none s
    else
      match s.stackRead g it false [va] with
      | .ok xs s => go (xs.headD 0) none s
      | .trap t s => go 0 (some t) s
      | .notYet s => .notYet s
      | .park va k s => .park va k s

/-- The current frame of a restored or landed item is read back (07 R148, R152): the item then goes on as it was saved, held in its second
rfpt or free to issue. Words that cannot be read leave zeros and a trap for the item's PC. -/
def State.fillFrame (s : State) (gid slot : Nat) (g : Group) (it : Item) : State :=
  match s.readEach g it ((upTo it.frame.toNat).map (fun j => it.stack + BitVec.ofNat 64 (4 * j))) with
  | .ok (xs, t) s => s.modItem gid slot (fun it => { it with
      v := setWindow it.v xs
      unread := false
      lost := []
      wait := if it.held && t.isNone then .refill else .none
      held := it.held && t.isNone
      owed := it.owed.or t })
  | .park va k s => s.modItem gid slot (fun it => { it with wait := .fault g.ctx (pageOf va) va k })
  | .notYet s => s
  | .trap _ s => s

/-- SPILL_FILL_DONE (R165): the engine has finished for the item it serves, and the call or ret goes on. TRAPINFO of an
unaligned stack area is the model's (R164, log 49). -/
def execSpillFillDone (core : Nat) (s : State) : Host.Outcome State Fault Refusal :=
  .next (match s.nextSpill core with
    | none => s
    | some (gid, slot) =>
      match s.group? gid, s.item? gid slot with
      | some g, some it =>
        let e := { Env.of s g gid slot it with ilen := match it.wait with | .spill _ n _ => n | _ => 1 }
        let wake (s : State) (f : Item → Item) : State := s.modItem gid slot (fun it => { f it with wait := .none })
        if !aligned e.area 16 then wake s (fun it => { it with owed := some (memTrap causeMisalign e.area false 16 true) })
        else
          match it.wait with
          | .spill (some need) _ _ =>
            match s.spillFor g e need with
            | .ok _ s => wake s (fun it => { it with got := some (0, 0) })
            | .notYet s => s
            | .trap t s => wake s (fun it => { it with owed := some t })
            | .park va k s => s.modItem gid slot (fun it => { it with wait := .fault g.ctx (pageOf va) va k })
          | .spill none _ _ =>
            match s.fillFor g e with
            | .ok f s => wake s (fun it => { it with
                got := some (0, 0)
                callers := match f with | some f => [f] | none => [] })
            | .notYet s => s
            | .trap t s => wake s (fun it => { it with owed := some t })
            | .park va k s => s.modItem gid slot (fun it => { it with wait := .fault g.ctx (pageOf va) va k })
          | .frame => s.fillFrame gid slot g it
          | _ => s
      | _, _ => s)

end Sys2Proof.Machine
end

