-- ==== Sys2Proof/Machine/Issue.lean ====
section
/-! DEFINITION. Issue (08 R154 to R159, R170; 16 R356; 03 R56): which items are ready, fetching an instruction, forming the wave, what the
scheduler does with it, and what follows a step. -/

namespace Sys2Proof.Machine

/-! ### Readiness (R155) -/

/-- The counter of a class (R292). -/
def Item.counter (it : Item) : CounterClass → Nat
  | .copy => it.copyCount.toNat
  | .matrix => it.matrixCount.toNat
  | .gather => it.gatherCount.toNat
  | .collective => it.collCount.toNat

/-- How ready an item is: 2 ready; 1 its form tests its own condition when it executes again; 0 something else must end its wait. -/
def State.readiness (s : State) (gid : Nat) (g : Group) (slot : Nat) (it : Item) : Nat :=
  match it.wait with
  | .none => 2
  | .access _ => 0
  | .earlier => if it.leading then 0 else 2
  | .lavio _ _ _ => 0
  | .walk _ _ _ _ => 0
  | .fault _ _ _ _ => 0
  | .refill => 0
  | .barrier _ => 0
  | .blocked _ _ => 0
  | .granuleFull _ _ _ => 0
  | .granuleEmpty _ _ _ => 0
  | .arrivalBarrier x phase => if (g.arrivalWords x).2.2.1 = phase.toNat then 0 else 2
  | .monitor _ _ => 0
  | .poll _ _ => if (s.hind g.ctx).replaying then 1 else 0
  | .counter cls n => if it.counter cls ≤ n then 2 else 0
  | .engine _ => 1
  | .queue _ => 1
  | .tile _ => 1
  | .command id => if (Table.get? s.pending id).isSome then 0 else 2
  | .landing _ => 1
  | .commit => if ((s.kernel? g.kh).map (fun k => k.committed)).getD false then 2 else 0
  | .flush n => if (s.hind g.ctx).closing.any (fun c => c.kind == 0 && c.source == clusterOf g.core && c.localNo == n) then 0 else 2
  | .spill _ _ _ => 0
  | .frame => 0
  | .stores _ => if it.storesOut.isEmpty then 2 else 0
  | .word pa => if s.wordPending gid slot pa then 0 else 2
  | .mstat bound _ => if g.tiles.any (fun t => t.2.ops.any (fun o => decide (o.issue < bound))) then 0 else 2
  | .again => 1

/-- May the items of a group issue at all (R155, R402)? -/
def State.groupReady (s : State) (g : Group) : Bool :=
  (g.state == .running || g.state == .draining) && g.started && !g.throttled && !s.recorderStalls g.ctx (clusterOf g.core)

/-- What a stop lets an item still do (R149): take a trap that a wait has ended in, complete a form whose wait has ended with a value, complete
a command or a form that counts as issued. -/
def Item.mustComplete (it : Item) : Bool :=
  it.issued || it.owed.isSome || it.got.isSome || (match it.wait with | .command _ => true | _ => false)

/-- The ready items of a group, of a readiness, by slot. Under replay an item at the end of its cluster's chunk is not among them. -/
def State.readyItems (s : State) (gid : Nat) (g : Group) (level : Nat) : List (Nat × Item) :=
  if s.groupReady g then
    g.items.filter (fun p => p.2.aside.isNone && (!g.stopAsked || p.2.mustComplete) && s.readiness gid g p.1 p.2 == level && !s.atCut g.ctx g.core (s.partyOfItem g p.2))
  else []

/-- An item takes its place in a run: by the time it joined, then by LSLOT (R154). -/
def insertRun (x : Nat × Item) : List (Nat × Item) → List (Nat × Item)
  | [] => [x]
  | y :: ys => if x.2.joined < y.2.joined ∨ (x.2.joined = y.2.joined ∧ x.1 < y.1) then x :: y :: ys else y :: insertRun x ys

/-- The run of a PC among some items, in run order (R154). -/
def runOf (items : List (Nat × Item)) (pc : W64) : List (Nat × Item) :=
  (items.filter (fun p => p.2.pc == pc)).foldr insertRun []

/-! ### Fetch (R56, R88, R356) -/

/-- A fetched word, a trap, or a miss whose walk has begun. -/
inductive FetchedWord where
  | word (x : W32)
  | trap (t : Trap)
  | miss (va : W64) (s : State)

/-- The bytes of an instruction word at a physical address: an expander's line may stand at its home slice. -/
def State.codeBytes (s : State) (ctx pa : Nat) : Option (List W8) :=
  if s.isCxl pa then
    let l := s.l2At (homeSlice pa) pa
    if l.key = s.tagAt pa (s.context ctx).key ∧ l.half (pa / 64 % 2) ≠ 0 then some ((l.data.drop (pa % 128)).take 4)
    else if s.isHost pa then none
    else some (s.memory.read (s.tagAt pa (s.context ctx).key) pa 4)
  else some (s.memory.read (s.tagAt pa (s.context ctx).key) pa 4)

/-- One instruction word, translated and checked by itself (R356). A word that the kernel's items have stored to is any of the words that
stood there (R56); while Hindcast records or replays the core takes the oldest of them, so that the choice repeats (R16, log 8). -/
def State.fetchWord (s : State) (g : Group) (va : W64) : FetchedWord :=
  match s.translate g.core g.ctx va 2 with
  | .trap t => .trap t
  | .miss s => .miss va s
  | .ok pa =>
    if !s.granted g.ctx pa 4 false false then .trap (memTrap causeProt va false 4 false)
    else if s.memory.poisoned (lineOf pa) then .trap (memTrap causePoison va false 4 false)
    else
      match s.codeBytes g.ctx pa with
      | none => .miss va (s.cxlRequest (pa / 64 * 64) 0)
      | some bs =>
        let new := BitVec.ofNat 32 (leNat bs)
        match (s.kernel? g.kh).bind (fun k => Table.get? k.oldWords (pa / 4)) with
        | none => .word new
        | some old =>
          if (s.hind g.ctx).mode = .off then .word (old.getD (Config.choice s.tick pa % (old.length + 1)) new) else .word (old.headD new)

/-- A fetched instruction with its words, a trap with its ILEN (R413), or a miss. -/
inductive Fetched where
  | words (i : Except Illegal Instr) (n : Nat)
  | trap (t : Trap) (ilen : Nat)
  | miss (va : W64) (s : State)

def State.fetch (s : State) (g : Group) (pc : W64) : Fetched :=
  match s.fetchWord g pc with
  | .trap t => .trap t 1
  | .miss va s => .miss va s
  | .word w0 =>
    let n := wordsOf w0
    if n = 1 then .words (decode w0 0 0) 1
    else
      match s.fetchWord g (pc + 4) with
      | .trap t => .trap t n
      | .miss va s => .miss va s
      | .word w1 =>
        if n = 2 then .words (decode w0 w1 0) 2
        else
          match s.fetchWord g (pc + 8) with
          | .trap t => .trap t n
          | .miss va s => .miss va s
          | .word w2 => .words (decode w0 w1 w2) 3

/-- ILEN where a fetch fault is taken: the first word's length where it can be read, else 1. -/
def State.fetchIlen (s : State) (g : Group) (pc : W64) : Nat :=
  match s.fetchWord g pc with
  | .word w0 => wordsOf w0
  | _ => 1

/-- Is the trap a wait has ended in one of fetch (R364: KIND 2)? -/
def Item.owesFetch (it : Item) : Bool :=
  match it.owed with
  | some t => t.cause == causePageFault && field t.info 9 8 == 2
  | none => false

/-- Under replay, the PAGEFAULT that the log gives an item at the instruction it stands at, whatever the walk of its access finds (R368). The
deferred traps of R242 are not among them. -/
def State.loggedFault (s : State) (g : Group) (it : Item) : Option Trap :=
  (s.loggedTrap g.ctx g.core causePageFault (s.partyOfItem g it)).bind (fun e =>
    let t : Trap := { cause := causePageFault, addr := BitVec.ofNat 64 (leAt e 32 8), info := BitVec.ofNat 32 (leAt e 40 4) }
    if t.info.getLsbD 15 then none else some t)

/-- The fetch at a PC has trapped: the items take it there, once their leaders are done (R65). -/
def State.fetchTraps (s : State) (gid : Nat) (slots : List Nat) (t : Item → Trap) (ilen : Nat) : State :=
  match s.group? gid with
  | none => s
  | some g =>
    (s.modGroup gid (fun g' => { g' with items := g'.items.mapAll (fun k it =>
      if slots.contains k then
        if it.leading then { it with wait := .earlier } else it.takeTrap (s.handlerOf g.kh) s.tick ilen (t it)
      else it) })).settle gid

/-! ### The order of s16..s63 (R175) -/

/-- Does a form name one of s16..s63? -/
def Shape.namesShared (sh : Shape) : Bool := (sh.reads ++ sh.writes).any (fun r => match r with | .s n => decide (16 ≤ n) | _ => false)

/-- SWRITE of a wave (R401), followed by the model's own bytes beyond the entry's 32: ITEMIX of the wave's members (log 44). -/
def swriteEntry (g : Group) (members : List Nat) : HcEntry :=
  entryOf 0x05 [(4, 4, g.sOrder), (8, 4, g.groupix.toNat), (12, 4, g.stage)] ++ members.flatMap (leBytes 6)

def swriteMembers (e : HcEntry) : List Nat := (upTo ((e.length - 32) / 6)).map (fun j => leAt e (32 + 6 * j) 6)

/-- Is an entry an SWRITE of the group? -/
def swriteOf (g : Group) (e : HcEntry) : Bool := leAt e 0 1 == 5 && leAt e 8 4 == g.groupix.toNat && leAt e 12 4 == g.stage

/-- Under replay, the group's next logged wave of the order. -/
def State.nextShared (s : State) (g : Group) : Option HcEntry :=
  if (s.hind g.ctx).replaying then ((s.hind g.ctx).segment (clusterOf g.core)).find? (swriteOf g) else none

/-- The items of a run with which a wave of an instruction may be formed: under replay one that names s16..s63 holds exactly the items of the next
logged one, once they are all there. -/
def State.inOrder (s : State) (g : Group) (i : Except Illegal Instr) (run : List (Nat × Item)) : List (Nat × Item) :=
  match i with
  | .error _ => run
  | .ok i =>
    if !(shapeOf i).namesShared then run
    else
      match s.nextShared g with
      | none => run
      | some e =>
        let mine := run.filter (fun p => (swriteMembers e).contains p.2.itemix.toNat)
        if mine.length = (swriteMembers e).length then mine else []

/-- Has the item executed the instruction, as far as its s registers go, between two states of it? -/
def Item.hasRead (before after : Item) : Bool :=
  before.joined != after.joined ||
    (match after.wait with
     | .access _ => true
     | .granuleFull _ _ _ => true
     | .granuleEmpty _ _ _ => true
     | _ => false)

/-- A wave that names s16..s63 has executed in some members: it takes its place in the order of its group, which is logged, or whose entry is used. -/
def State.logShared (before s : State) (w : Wave) (i : Instr) : State :=
  match before.group? w.gid with
  | none => s
  | some g =>
    if (s.hind g.ctx).mode = .off || !(shapeOf i).namesShared then s
    else
      let done := w.slots.filterMap (fun k => match Table.get? g.items k, s.item? w.gid k with
        | some b, some a => if b.hasRead a then some b.itemix.toNat else none
        | some b, none => some b.itemix.toNat
        | _, _ => none)
      if done.isEmpty then s
      else
        let r := clusterOf g.core
        let s' := s.modGroup w.gid (fun g => { g with sOrder := (g.sOrder + 1) % 2 ^ 32 })
        match s.nextShared g with
        | none => s'.logEntry g.ctx r (swriteEntry g done)
        | some e =>
          let left := (swriteMembers e).filter (fun x => !done.contains x)
          s'.modHind g.ctx (fun h =>
            let log := Table.read [] h.log r
            { h with log := Table.put h.log r (if left.isEmpty then log.erase e else log.map (fun x => if x = e then e.take 32 ++ left.flatMap (leBytes 6) else x)) })

/-! ### The wave (R156) -/

/-- The major of a form. -/
def majorOf (i : Instr) : Nat := ((toRaw i).map (fun r => r.op.toNat)).getD 0

/-- The cross-lane forms, majors 0x43 to 0x45, and the matrix forms, 0x68 to 0x6E. -/
def isCrossLane (i : Instr) : Bool := decide (0x43 ≤ majorOf i) && decide (majorOf i ≤ 0x45)
def isMatrix (i : Instr) : Bool := decide (0x68 ≤ majorOf i) && decide (majorOf i ≤ 0x6E)

/-- The slot window of a slot: 32 slots (R169). -/
def windowOf (slot : Nat) : Nat := slot / 32

/-- Has a window converged at a PC (R170)? Every present item of it is ready there, outside its handler, with no leader open. -/
def State.converged (s : State) (gid : Nat) (g : Group) (pc : W64) (window : Nat) : Bool :=
  (g.items.filter (fun p => windowOf p.1 == window)).all (fun p =>
    p.2.pc == pc && !p.2.inHandler && !p.2.leading && p.2.aside.isNone && s.readiness gid g p.1 p.2 == 2)

/-- Good lanes of a core (R23, R24). -/
def goodLanes (core : Nat) : Nat := ((upTo 32).filter (goodLane core)).length

/-- The items of one pass, the starved one first (R157). -/
def onePass (lanes : Nat) : List (Nat × Item) → List (Nat × Item) → List (Nat × Item)
  | took, [] => took
  | took, x :: xs =>
    if took.length < lanes && took.all (fun y => y.2.home != x.2.home) then onePass lanes (took ++ [x]) xs else onePass lanes took xs

/-- The members of the wave that the ready run of a PC forms for an instruction, in run order (R156). -/
def State.members (s : State) (gid : Nat) (g : Group) (pc : W64) (i : Except Illegal Instr) (run : List (Nat × Item))
    (starved : Option Nat) : List (Nat × Item) :=
  match i with
  | .error _ => run.take 32
  | .ok i =>
    if isCrossLane i then
      match run.find? (fun p => s.converged gid g pc (windowOf p.1)) with
      | some f => runOf (g.items.filter (fun p => windowOf p.1 == windowOf f.1)) pc
      | none => []
    else
      match starved.bind (fun k => run.find? (fun p => p.1 == k)) with
      | some f =>
        let rest := run.filter (fun p => p.1 != f.1 && (!isMatrix i || windowOf p.1 == windowOf f.1))
        onePass (goodLanes g.core) [f] rest
      | none =>
        if isMatrix i then
          (run.filter (fun p => windowOf p.1 == windowOf ((run.map Prod.fst).headD 0))).take 32
        else run.take 32

/-- May the instruction fetched at an item's PC issue there (R155): R65 admits it, and its sources do not wait for an open leader? -/
def Item.mayIssue (it : Item) (i : Except Illegal Instr) : Bool :=
  match i with
  | .ok i => !(it.leading && (!admitted i || (shapeOf i).depends it.windows))
  | .error _ => !it.leading

/-- What the issue port does: nothing, a step that issues no instruction (a trap or a miss of fetch), or a wave with its instruction. -/
inductive Issue where
  | none
  | moved (s : State)
  | run (w : Wave) (i : Except Illegal Instr)

/-- Issue at one PC of a group, from the ready items given. -/
def State.tryPc (s : State) (gid : Nat) (g : Group) (items : List (Nat × Item)) (starved : Option Nat) (pc : W64) : Issue :=
  let run := runOf items pc
  let trapOf (it : Item) : Option Trap := if it.owesFetch then it.owed else s.loggedFault g it
  let owing := (run.filter (fun p => (trapOf p.2).isSome)).map Prod.fst
  if !owing.isEmpty then .moved (s.fetchTraps gid owing (fun it => (trapOf it).getD (illegal 0 0)) (s.fetchIlen g pc))
  else
    match s.fetch g pc with
    | .trap t n => .moved (s.fetchTraps gid ((run.take 32).map Prod.fst) (fun _ => t) n)
    | .miss va s =>
      let slots := (run.take 32).map Prod.fst
      if s.walks.any (fun p => p.2.serves g.core g.ctx (pageOf va)) then
        .moved (s.modGroup gid (fun g => { g with items := g.items.mapAll (fun k it =>
          if slots.contains k then { it with wait := .walk g.ctx (pageOf va) va 2 } else it) }))
      else .moved s
    | .words i n =>
      match s.members gid g pc i (s.inOrder g i (run.filter (fun p => p.2.mayIssue i))) starved with
      | [] => .none
      | ms => .run { gid := gid, pc := pc, slots := ms.map Prod.fst, ilen := n } i

/-- The first PC, ascending, at which something issues. -/
def State.tryPcs (s : State) (gid : Nat) (g : Group) (items : List (Nat × Item)) : List W64 → Issue
  | [] => .none
  | pc :: pcs =>
    match s.tryPc gid g items none pc with
    | .none => s.tryPcs gid g items pcs
    | r => r

/-- The PCs of some items, ascending, once each. -/
def pcsOf (items : List (Nat × Item)) : List W64 :=
  ((ascending (items.map (fun p => p.2.pc.toNat))).eraseDups).map (BitVec.ofNat 64)

/-- Issue of a group's ready items, with one more item whose form tests its own condition: their lowest PC (R156). -/
def State.tryGroup (s : State) (again : Option (Nat × Nat × Item)) (gid : Nat) (g : Group) : Issue :=
  let items := s.readyItems gid g 2 ++ (match again with | some (n, p) => if n = gid then [p] else [] | none => [])
  s.tryPcs gid g items (pcsOf items)

/-- A group's place in its core's rotation: seats 0 to 3, then landing groups in the order of their creation (R156). -/
def Group.turn (g : Group) : Nat :=
  match g.place with
  | .seat _ n => n
  | .landing _ _ order => 4 + order

/-- The groups of a core in the order of rotation after the seat that issued last. -/
def State.rotation (s : State) (core : Nat) : List (Nat × Group) :=
  let mine := s.groups.filter (fun p => p.2.core == core)
  let byTurn (p : List (Nat × Group)) : List (Nat × Group) :=
    (ascending (p.map (fun x => x.2.turn))).eraseDups.flatMap (fun t => p.filter (fun x => x.2.turn == t))
  match Table.get? s.lastSeat core with
  | none => byTurn mine
  | some last => byTurn (mine.filter (fun p => decide (last < p.2.turn))) ++ byTurn (mine.filter (fun p => decide (p.2.turn ≤ last)))

/-- The first group of a list that issues something. -/
def State.tryGroups (s : State) (again : Option (Nat × Nat × Item)) : List (Nat × Group) → Issue
  | [] => .none
  | (gid, g) :: rest =>
    match s.tryGroup again gid g with
    | .none => s.tryGroups again rest
    | r => r

/-- The item of some groups whose turn it is to have its form test its own condition again. -/
def State.againItem (s : State) (order : List (Nat × Group)) : Option (Nat × Nat × Item) :=
  let waiting := order.flatMap (fun p => (s.readyItems p.1 p.2 1).map (fun q => (p.1, q)))
  waiting[s.tick / 8 % max 1 waiting.length]?

/-- Issue of that item by itself, with those of its group that stand at its PC as it does. -/
def State.tryAgain (s : State) (again : Option (Nat × Nat × Item)) : Issue :=
  match again with
  | none => .none
  | some (gid, p) =>
    match s.group? gid with
    | some g => s.tryPc gid g (s.readyItems gid g 1) none p.2.pc
    | none => .none

/-- Issue of a waitv by an item of a replayed context at the end of its cluster's chunk: its reads before the one that ends it belong to
the chunk, though the instruction does not (R322, R400). The items take turns. -/
def State.tryAtCut (s : State) (order : List (Nat × Group)) : Issue :=
  let waiting := order.flatMap (fun q =>
    if (s.hind q.2.ctx).replaying && s.groupReady q.2 && !q.2.stopAsked then
      (q.2.items.filter (fun p => p.2.aside.isNone && s.readiness q.1 q.2 p.1 p.2 != 0 && s.atCut q.2.ctx q.2.core (s.partyOfItem q.2 p.2))).map
        (fun p => (q.1, q.2, p))
    else [])
  match waiting[s.tick / 8 % max 1 waiting.length]? with
  | some (gid, g, p) =>
    (match s.fetch g p.2.pc with
     | .words (.ok (.waitv _)) _ => s.tryPc gid g [p] none p.2.pc
     | _ => .none)
  | none => .none

/-- A starved item: its group's number and turn, and itself. -/
structure Starved where
  gid : Nat
  group : Group
  slot : Nat
  item : Item

/-- Does a starved item go before another: the greatest age, then the lower seat, then the lower LSLOT (R156)? -/
def Starved.before (a b : Starved) : Bool :=
  decide (a.item.aged < b.item.aged ∨
    (a.item.aged = b.item.aged ∧ (a.group.turn < b.group.turn ∨ (a.group.turn = b.group.turn ∧ a.slot < b.slot))))

/-- The starved item that a core serves next. -/
def State.mostStarved (s : State) (order : List (Nat × Group)) : Option Starved :=
  let all := order.flatMap (fun p => ((s.readyItems p.1 p.2 2 ++ s.readyItems p.1 p.2 1).filter (fun q => q.2.starved)).map (fun q =>
    { gid := p.1, group := p.2, slot := q.1, item := q.2 : Starved }))
  all.foldl (fun b x => match b with | none => some x | some y => if x.before y then some x else b) none

/-- Issue of a core (R156): a starved item first, then the rotation over the ready items. An item whose form tests its own condition counts as
ready at every fourth turn; where nothing else issues, it is tried by itself (log 3). -/
def State.tryCore (s : State) (core : Nat) : Issue :=
  let order := s.rotation core
  let again := s.againItem order
  let rest (_ : Unit) : Issue :=
    match s.tryGroups (if s.tick / 2 % 4 = 3 then again else none) order with
    | .none =>
      (match s.tryAgain again with
       | .none => s.tryAtCut order
       | r => r)
    | r => r
  match s.mostStarved order with
  | some x =>
    (match s.tryPc x.gid x.group (s.readyItems x.gid x.group 2 ++ s.readyItems x.gid x.group 1) (some x.slot) x.item.pc with
     | .none => rest ()
     | r => r)
  | none => rest ()

/-- The first core of a list that issues something. -/
def State.tryCores (s : State) : List Nat → Issue
  | [] => .none
  | c :: cs =>
    match s.tryCore c with
    | .none => s.tryCores cs
    | r => r

/-- The cores that hold groups, each first in its turn. -/
def State.busyCores (s : State) : List Nat :=
  let cores := (ascending (s.groups.map (fun p => p.2.core))).eraseDups
  let n := s.tick / 2 % max 1 cores.length
  cores.drop n ++ cores.take n

/-- Does a wave issue an instruction for the first time in some member, which is not one that tests again what it waits for? -/
def Group.freshWave (g : Group) (w : Wave) : Bool :=
  w.slots.any (fun k => match Table.get? g.items k with
    | some it => it.wait == .none || it.wait == .earlier
    | none => false)

/-- A wave begins (R156, R158, R159, R163): it becomes the wave in issue, and its members' ages return to 0. Where it is a new one, items of the group
that yield has set aside at another PC are ready again, and the entry of the window of its first item holds its items. -/
def State.beginWave (s : State) (w : Wave) : State :=
  match s.group? w.gid with
  | none => { s with wave := w }
  | some g =>
    let fresh := g.freshWave w
    let clear (k : Nat) (it : Item) : Item :=
      { it with
        starved := it.starved && !w.slots.contains k
        aside := if !fresh || it.aside = some w.pc then it.aside else none }
    let window := windowOf (w.slots.headD 0)
    { (s.modGroup w.gid (fun g => { g with
        items := g.items.mapAll clear
        lastWave := if fresh then Table.put g.lastWave window (ascending w.slots) else g.lastWave })) with
      wave := w
      lastSeat := if fresh then Table.put s.lastSeat g.core g.turn else s.lastSeat }

/-! ### Starvation (R159) -/

/-- Is an item ready with all that R155 asks, as far as its form does not test a condition of its own? -/
def State.fullyReady (s : State) (gid : Nat) (g : Group) (slot : Nat) (it : Item) : Bool :=
  s.groupReady g && !g.stopAsked && it.aside.isNone && s.readiness gid g slot it != 0 && !s.atCut g.ctx g.core (s.partyOfItem g it) &&
    (match s.fetch g it.pc with
     | .trap _ _ => !it.leading
     | .miss _ _ => false
     | .words i _ => it.mayIssue i && (match i with | .ok i => !isCrossLane i || s.converged gid g it.pc (windowOf slot) | .error _ => true))

/-- An item's age reaches 4096: it is starved. -/
def execStarvation (gid slot : Nat) (s : State) : Host.Outcome State Fault Refusal :=
  .next (match s.group? gid, s.item? gid slot with
    | some g, some it =>
      if it.starved || !s.fullyReady gid g slot it then s
      else s.setItem gid slot { it with
        starved := true
        aged := s.tick }
    | _, _ => s)

/-- The age of a starved item that is no longer ready returns to 0. -/
def State.dropStarved (s : State) : State :=
  let gone := s.groups.flatMap (fun p => (p.2.items.filter (fun q => q.2.starved && !s.fullyReady p.1 p.2 q.1 q.2)).map (fun q => (p.1, q.1)))
  gone.foldl (fun s p => s.modItem p.1 p.2 (fun it => { it with starved := false })) s

/-- Items that have stood ready at their PC for 4096 steps, where each step takes a cycle at least (log 3). -/
def State.dueStarved (s : State) : List (Nat × Nat) :=
  s.groups.flatMap (fun p => (p.2.items.filter (fun q => !q.2.starved && decide (q.2.joined / 4096 + 4096 ≤ s.tick) &&
    s.fullyReady p.1 p.2 q.1 q.2)).map (fun q => (p.1, q.1)))

/-! ### What follows a step -/

/-- An item-instruction that has executed is counted, and a trap that has been taken is logged (18 R394, R397, R415). The change of the time
at which the item joined its run says that it has moved. -/
def State.accountItem (s : State) (g : Group) (before after : Item) : State :=
  if before.joined = after.joined then s
  else if after.inHandler && !before.inHandler then s.logTrap g.ctx g.core (field after.trapCause 7 0) (s.partyOfItem g after) (leBytes 8 after.trapAddr.toNat ++ leBytes 4 after.trapInfo.toNat)
  else s.countInstruction g.ctx g.core (s.partyOfItem g after)

/-- The rollbacks a group has made in its interval. -/
def Group.retries (g : Group) : Nat := (g.guarded.map Guarded.retries).getD 0

/-- The accounting of one group, present before the step and after. -/
def State.accountGroup (s : State) (before after : Group) : State :=
  if (s.hind before.ctx).mode = .off ∨ before.retries < after.retries then s
  else before.items.foldl (fun s p => match Table.get? after.items p.1 with
    | some it => s.accountItem after p.2 it
    | none => s) s

/-- The accounting of a step from `before` to `s`. -/
def State.account (before s : State) : State :=
  before.groups.foldl (fun s' p => match s.group? p.1 with
    | some g => s'.accountGroup p.2 g
    | none => s') s

/-- The members of a wave whose exit or migr has taken them from their group have executed it (R397). -/
def State.accountGone (before s : State) (w : Wave) (i : Except Illegal Instr) : State :=
  let leaves := match i with
    | .ok (.exit _) => true
    | .ok (.migr _) => true
    | _ => false
  match before.group? w.gid with
  | some g =>
    if leaves && (s.hind g.ctx).mode != .off then
      w.slots.foldl (fun s' k => match Table.get? g.items k, (s.group? w.gid).bind (fun g => Table.get? g.items k) with
        | some it, none => s'.countInstruction g.ctx g.core (before.partyOfItem g it)
        | _, _ => s') s
    else s
  | none => s

/-- The end of a step: the accounting, the ages that return to 0, and the count of steps. -/
def State.endStep (before s : State) : State := { (before.account s).dropStarved with tick := before.tick + 1 }

/-! ### CROSS_LANE_DEADLOCK (R170) -/

/-- Does an item wait at a cross-lane instruction? -/
def State.atCrossLane (s : State) (gid : Nat) (g : Group) (slot : Nat) (it : Item) : Bool :=
  s.readiness gid g slot it == 2 && !it.leading && it.aside.isNone &&
    (match s.fetch g it.pc with
     | .words (.ok i) _ => isCrossLane i
     | _ => false)

/-- Is a window deadlocked: every present item waits at a cross-lane instruction, at more than one PC? -/
def State.deadlocked (s : State) (gid window : Nat) : Bool :=
  match s.group? gid with
  | none => false
  | some g =>
    let mine := g.items.filter (fun p => windowOf p.1 == window)
    s.groupReady g && !g.stopAsked && decide (1 < (pcsOf mine).length) && mine.all (fun p => s.atCrossLane gid g p.1 p.2)

def execCrossLaneDeadlock (gid window : Nat) (s : State) : Host.Outcome State Fault Refusal :=
  .next (if s.deadlocked gid window then
      s.fetchTraps gid (upTo 2048 |>.filter (fun k => windowOf k == window)) (fun _ => barrierTrap 0x40 0 0) 2
    else s)

end Sys2Proof.Machine
end

