-- ==== Sys2Proof/Machine/Csr.lean ====
section
/-! DEFINITION. Control registers (03 R72 to R74): what each reads (01 R24 to R27, 04 R85, R86, 06 R118, R121, 07 R139, 09 R192, R193,
10 R198, R199, 11 R229, 14 R303, 16 R353, 18 R392, R393, 19 R413), what a write does, and csrr, csrw, csrs, csrc. -/

namespace Sys2Proof.Machine

/-! ### What the registers read -/

/-- The number of bits of EXT − 1 (R118). -/
def extBits (ext : Nat) : Nat := if ext ≤ 1 then 0 else log2Fuel 64 (ext - 1) + 1

/-- ITEMXYZ of an index (R118). -/
def Descriptor.xyz (d : Descriptor) (ix : Nat) : Nat :=
  let w0 := extBits d.ext0
  let w1 := extBits d.ext1
  ix % d.ext0 + ix / d.ext0 % d.ext1 * 2 ^ w0 + ix / (d.ext0 * d.ext1) * 2 ^ (w0 + w1)

/-- LANEMAP.GOOD and MATMAP of a core (R24, R25). -/
def laneMap (core : Nat) : W32 := BitVec.ofNat 32 (((upTo 32).map (fun n => 2 ^ n * boolNat (goodLane core n))).sum)
def matMap (core : Nat) : Nat :=
  match Config.fusedBlock core with
  | some b => 3 * 256 + (15 - 2 ^ b.val)
  | none => 4 * 256 + 15

/-- COREID is the core number; DIEID holds the base die above the compute die (R26). -/
def dieId (core : Nat) : Nat := core / 128 + 8 * dieOfCore core

/-- BARSTAT (R303). -/
def Group.barStat (g : Group) : Nat :=
  ((upTo 16).map (fun k => 2 ^ k * ((g.barrier k).closed.toNat % 2) + 2 ^ (16 + k) * boolNat (decide (0 < (g.barrier k).arrived)))).sum

/-- HCCTL (R392). -/
def Hindcast.ctl (h : Hindcast) : Nat :=
  256 * boolNat h.gap + 128 * boolNat h.stopen + 64 * boolNat h.lossyNext +
    (match h.mode with | .off => 0 | .record => 1 | .replay => 2 | .verify => 3)

/-- CsrRead (R74), before what Hindcast puts in its place. MSTAT's flags are those of `mstat`. -/
def State.csrValue (s : State) (g : Group) (slot : Nat) (it : Item) (mstat : BitVec 5) (num : Nat) : W64 :=
  let n (x : Nat) : W64 := BitVec.ofNat 64 x
  let c := s.context g.ctx
  match num with
  | 0x000 => it.itemix.zeroExtend 64
  | 0x001 => n (((s.kernel? g.kh).map (fun k => k.desc.xyz it.itemix.toNat)).getD 0)
  | 0x002 => it.cohort.zeroExtend 64
  | 0x003 => n g.stage
  | 0x004 => g.groupix.zeroExtend 64
  | 0x005 => g.gangix.zeroExtend 64
  | 0x006 => g.gangrank.zeroExtend 64
  | 0x007 => n slot
  | 0x008 => it.frame.zeroExtend 64
  | 0x010 => (laneMap g.core).zeroExtend 64
  | 0x011 => n (matMap g.core)
  | 0x012 => n g.core
  | 0x013 => n (dieId g.core)
  | 0x014 => n s.dev.devid
  | 0x020 => let count := Table.read 0 s.cycles g.core; if it.cycleFloor ≤ count then count else it.cycleFloor
  | 0x100 => it.fpctl.zeroExtend 64
  | 0x101 => it.fpstat.zeroExtend 64
  | 0x102 => it.istat.zeroExtend 64
  | 0x103 => it.ictl.zeroExtend 64
  | 0x104 => mstat.zeroExtend 64
  | 0x110 => it.trapCause.zeroExtend 64
  | 0x111 => it.trapPc
  | 0x112 => it.trapAddr
  | 0x113 => it.trapInfo.zeroExtend 64
  | 0x200 => n (65536 * g.slots + g.present)
  | 0x201 => n (g.closed.toNat % 2 ^ 21 * 2048 + g.arrivedCount)
  | 0x202 => n g.barStat
  | 0x300 => n g.ctx
  | 0x301 => n c.key
  | 0x302 => c.ptroot
  | 0x303 => c.isoper.zeroExtend 64
  | 0x400 => n c.hind.ctl
  | 0x401 => c.hind.hcseq
  | _ => 0

/-- The source under which a read of a register is logged (R27, R229, R392, R401). -/
def csrSource (num : Nat) : Option Nat :=
  if num = 0x020 ∨ num = 0x104 then some 1
  else if 0x010 ≤ num ∧ num ≤ 0x014 then some 2
  else if num = 0x400 ∨ num = 0x401 then some 6
  else none

/-! ### The checks (R73) -/

/-- The numbers of R72, and those whose write is refused, and the W1C ones. -/
def csrAllocated (num : Nat) : Bool :=
  [0x000, 0x001, 0x002, 0x003, 0x004, 0x005, 0x006, 0x007, 0x008, 0x010, 0x011, 0x012, 0x013, 0x014, 0x020, 0x100, 0x101, 0x102, 0x103,
    0x104, 0x110, 0x111, 0x112, 0x113, 0x200, 0x201, 0x202, 0x300, 0x301, 0x302, 0x303, 0x400, 0x401].contains num
def csrWritable (num : Nat) : Bool := [0x100, 0x101, 0x102, 0x103, 0x104, 0x302, 0x303, 0x400].contains num
def csrClears (num : Nat) : Bool := [0x101, 0x102, 0x104].contains num

/-- The reserved bits of a register that can be written. -/
def csrReserved (num : Nat) : W64 :=
  match num with
  | 0x100 => 0xFFFFC0F0
  | 0x101 => 0xFFFFFFE0
  | 0x102 => 0xFFFFFFF8
  | 0x103 => 0xFFFFFFFC
  | 0x104 => 0xFFFFFFE0
  | 0x302 => 0xFFF0000000000FFF
  | 0x303 => 0xFFFFFFE0
  | 0x400 => 0xFFFFFE38
  | _ => 0

/-- The four forms. -/
inductive CsrOp where
  | r | w | s | c
  deriving DecidableEq, Repr

def CsrOp.writes (op : CsrOp) : Bool := op != .r
def CsrOp.hasD (op : CsrOp) : Bool := op != .w

/-- Steps 1 to 3 of R73. -/
def csrRefused (op : CsrOp) (num : Nat) (privileged : Bool) : Option Trap :=
  if !privileged && (decide (0x300 ≤ num) && decide (num ≤ 0x3FF) || (op.writes && num == 0x400)) then some (privCsr num)
  else if !csrAllocated num then some (illegal 0x0D 0)
  else if op.writes && !csrWritable num then some (illegal 0x0D 0)
  else if (op == .s || op == .c) && csrClears num then some (illegal 0x0D 0)
  else none

/-- Step 4 of R73: fields D and A as the register's width asks. -/
def csrFields (it : Item) (op : CsrOp) (o : CsrForm) : Option Trap :=
  let k : OpKind := if csrWords o.num = 2 then .v2 else .v
  checkUses it ((if op.hasD then [wr 1 k o.d] else []) ++ (if op.writes then [rd 2 k o.a] else []))

/-- The value that a write would leave, as far as its reserved bits go, and what it sends. -/
def CsrOp.value (op : CsrOp) (old a : W64) : W64 :=
  match op with
  | .r => old
  | .w => a
  | .s => old ||| a
  | .c => old &&& ~~~a

/-- Step 5 of R73, and ISOPER's own limit (R86). -/
def csrValueRefused (num : Nat) (x : W64) : Option Trap :=
  if x &&& csrReserved num ≠ 0 then some (illegal 0x0D 2)
  else if num = 0x303 ∧ (x.toNat < 12 ∨ 20 < x.toNat) then some (illegal 0x0E 2)
  else none

/-! ### Writes -/

/-- Registers of the item. -/
def Item.csrWrite (it : Item) (num : Nat) (x : W64) : Item :=
  match num with
  | 0x100 => { it with fpctl := lo32 x, badCsr := false }
  | 0x101 => { it with fpstat := it.fpstat &&& ~~~(x.truncate 5), badCsr := false }
  | 0x102 => { it with istat := it.istat &&& ~~~(x.truncate 3), badCsr := false }
  | 0x103 => { it with ictl := x.truncate 2, badCsr := false }
  | _ => it

/-- Registers of the group and of the context. PTROOT's invalidation follows its write (R353). -/
def State.csrWrite (s : State) (gid ctx num : Nat) (x : W64) : State :=
  match num with
  | 0x104 => s.modGroup gid (fun g => { g with mstat := g.mstat &&& ~~~(x.truncate 5) })
  | 0x302 => (s.modContext ctx (fun c => { c with ptroot := x })).invalidate ctx none
  | 0x303 => s.modContext ctx (fun c => { c with isoper := lo32 x })
  | 0x400 => s.modHind ctx (fun h => { h with
      stopen := x.getLsbD 7
      lossyNext := x.getLsbD 6 })
  | _ => s

/-! ### The forms -/

/-- A register's value lands in D. -/
def Item.putCsr (it : Item) (o : CsrForm) (x : W64) : Item := if csrWords o.num = 2 then it.writeV2 o.d x else it.writeV o.d (lo32 x)

/-- Field A as an operand of the register's width. -/
def Item.takeCsr (it : Item) (o : CsrForm) : W64 := if csrWords o.num = 2 then it.readV2 o.a else (it.readV o.a).zeroExtend 64

/-- Is a register one of the item's own words, which can hold an error (R423)? -/
def csrOfItem (num : Nat) : Bool := [0x100, 0x101, 0x102, 0x103, 0x110, 0x111, 0x112, 0x113].contains num

/-- A word that the form reads holds an uncorrectable error (R423). -/
def csrPoisoned (e : Env) (op : CsrOp) (o : CsrForm) (badS : List Nat) : Option Trap :=
  match (if op.writes then poisonedName e.it badS (rd 2 (.csr (csrWords o.num)) o.a).names else none) with
  | some t => some t
  | none =>
    if op.hasD && csrOfItem o.num.toNat && e.it.badCsr then some { cause := causePoison, addr := 0, info := 0xC7F } else none

/-- Which operations a csrr of MSTAT must wait for, and the flags it will return (R229). -/
def Group.mstatWait (g : Group) (was : Wait) : Nat × BitVec 5 :=
  match was with
  | .mstat bound flags => (bound, flags)
  | _ => (g.matrixIssue, g.mstat)

/-- One of the forms for one item (R74): every item of a wave sees a register's value in `was`, the state in which the wave executes. -/
def csrForm (i : Instr) (op : CsrOp) (o : CsrForm) (was : State) (e : Env) (s : State) : State :=
  s.withGroup e.gid (fun g =>
    let num := o.num.toNat
    let stop (t : Trap) : State := e.finish i (if t.cause = causePoison && g.guarded.isSome then .consume t else .trap e.it t) s
    match csrRefused op num (s.privileged g) with
    | some t => stop t
    | none =>
      match csrFields e.it op o with
      | some t => stop t
      | none =>
        match csrPoisoned e op o g.badS with
        | some t => stop t
        | none =>
          let (bound, flags) := g.mstatWait e.was
          if op = .r ∧ num = 0x104 ∧ g.tiles.any (fun t => t.2.ops.any (fun q => decide (q.issue < bound))) then
            e.finish i (.wait e.it (.mstat bound flags)) s
          else
            let old := was.csrValue ((was.group? e.gid).getD g) e.slot e.it flags num
            let x := op.value old (e.it.takeCsr o)
            match (if op.writes then csrValueRefused num x else none) with
            | some t => stop t
            | none =>
              if op.writes && num == 0x302 && !s.spanQuiet g.ctx none then e.finish i (.wait e.it .again) s
              else
                let (read, s) := match (if op.hasD then csrSource num else none) with
                  | some src => s.loggedItemValue e.gid e.slot src old 0
                  | none => (old, s)
                let it := if op.writes then e.it.csrWrite num x else e.it
                let it := if num = 0x020 then { it with cycleFloor := read } else it
                let it := if op.hasD then it.putCsr o read else it
                let s := if op.writes then s.csrWrite e.gid g.ctx num x else s
                e.finish i (.done it) s)

/-- A core's count goes on between one read of CYCLE and the next (R393). -/
def State.advanceCycle (s : State) (num : Nat) : State :=
  match s.group? s.wave.gid with
  | none => s
  | some g =>
    if num = 0x020 then
      { s with cycles := Table.put s.cycles g.core (Table.read 0 s.cycles g.core + BitVec.ofNat 64 (Config.cycleAdvance s.tick g.core)) }
    else s

/-- csrr (R74) -/
def execCsrr (o : CsrForm) (s : State) : Host.Outcome State Fault Refusal :=
  .next ((s.advanceCycle o.num.toNat).foldWave (.csrr o) false (csrForm (.csrr o) .r o (s.advanceCycle o.num.toNat)))

/-- csrw (R74) -/
def execCsrw (o : CsrForm) (s : State) : Host.Outcome State Fault Refusal :=
  .next (s.foldWave (.csrw o) false (csrForm (.csrw o) .w o s))

/-- csrs (R74) -/
def execCsrs (o : CsrForm) (s : State) : Host.Outcome State Fault Refusal :=
  .next (s.foldWave (.csrs o) false (csrForm (.csrs o) .s o s))

/-- csrc (R74) -/
def execCsrc (o : CsrForm) (s : State) : Host.Outcome State Fault Refusal :=
  .next (s.foldWave (.csrc o) false (csrForm (.csrc o) .c o s))

end Sys2Proof.Machine
end

