-- ==== Sys2Proof/Machine/Migrate.lean ====
section
/-! DEFINITION. Migration (07 R148; 13 R297): migr, and the landing of its package on a core under the base die that homes the address. -/

namespace Sys2Proof.Machine

/-- Writes an item's register stack out (R149, R165). -/
def State.saveStack (s : State) (g : Group) (it : Item) (counted : Bool) : StackWork Unit :=
  let area := s.stackAreaOf g it
  if it.unread then .ok () s
  else if !it.stackImage.isEmpty && !aligned area 16 then .trap (memTrap causeMisalign area false 16 true) s
  else s.stackWrite g it counted it.stackImage

/-- Landing slots of a base die in use: landing groups, and packages that have taken one (R148). -/
def State.landingsOn (s : State) (die : Nat) : Nat :=
  (s.groups.filter (fun p => match p.2.place with | .landing _ d _ => d == die | _ => false)).length +
    (s.packages.filter (fun p => p.2.die == die && p.2.fresh)).length

/-- The package of an item (R148): what it does not hold takes the value of an entering item. -/
def packageOf (g : Group) (it : Item) (die : Nat) (va : W64) (now : Nat) : Package :=
  let kept : Item :=
    { Item.blank with
      itemix := it.itemix
      cohort := it.cohort
      pc := it.pc + 8
      joined := 4096 * now
      v := Vector.ofFn (fun n => if n.val < 32 then it.v[n] else 0)
      p := it.p
      frame := it.frame
      stack := it.stack
      wait := if it.frame = 0 then .none else .frame
      unread := it.frame != 0
      fpctl := it.fpctl
      fpstat := it.fpstat
      ictl := it.ictl
      istat := it.istat
      trapCause := it.trapCause
      trapPc := it.trapPc
      trapAddr := it.trapAddr
      trapInfo := it.trapInfo
      view := it.view
      seen := it.seen
      cycleFloor := it.cycleFloor
      member := 0xFFFF }
  { item := kept, kh := g.kh, ctx := g.ctx, stage := g.stage, groupix := g.groupix, gangix := g.gangix, gangrank := g.gangrank, s := g.s
    state := .running, closed := 0, mstat := 0, barriers := Vector.replicate 16 Barrier.open, die := die, va := va, fresh := true }

/-- migr for one item, once its address has an answer. -/
def State.migrate (s : State) (e : Env) (g : Group) (o : Form) (va : W64) (pa : Nat) : State :=
  let die := s.homeDie pa
  if 256 ≤ s.landingsOn die then e.finish (.migr o) (.wait e.it (.landing die)) s
  else
    match s.saveStack g e.it true with
    | .trap t s => e.finish (.migr o) (.trap e.it t) s
    | .park a k s => e.finish (.migr o) (.wait e.it (.fault g.ctx (pageOf a) a k)) s
    | .notYet s => e.finish (.migr o) (.wait e.it .again) s
    | .ok _ s =>
      let s := s.fence e.gid e.slot true true false .dev
      let it := ((s.item? e.gid e.slot).getD e.it)
      let s := { s with packages := Table.put s.packages s.nextId (packageOf g { it with wait := .none } die va s.tick) }.fresh
      (s.noteEvent e.gid e.slot).modGroup e.gid (fun g => g.leave e.slot)

/-- migr (R148). -/
def execMigr (o : Form) (s : State) : Host.Outcome State Fault Refusal :=
  .next ((s.foldWave (.migr o) false (fun e s => s.withGroup e.gid (fun g =>
    let guarded := ((s.kernel? g.kh).map (fun k => k.desc.guarded)).getD false
    let va := e.it.readV2 o.a
    if e.it.busy then e.finish (.migr o) (.wait e.it (.counter e.it.busyClass 0)) s
    else if guarded then e.finish (.migr o) (.trap e.it (illegal 0x0E 0)) s
    else if e.it.releaseWaits .dev then e.finish (.migr o) (.wait e.it (.stores .dev)) s
    else
      match s.reachGlobal g va 1 false with
      | .trap t => e.finish (.migr o) (.trap e.it t) s
      | .wait w s => e.finish (.migr o) (.wait e.it w) s
      | .ok pa => s.migrate e g o va pa))).groupTests s.wave.gid (s.wave.slots.headD 0))

/-! ### Landing -/

/-- Resident slots of a core's groups as R127 counts them: twice for a duplex kernel, one for a landing group. -/
def State.residentSlots (s : State) (core : Nat) : Nat :=
  (s.groups.map (fun p =>
    if p.2.core ≠ core then 0
    else if p.2.isLanding then 1
    else if s.duplex p.2 then 2 * p.2.slots else p.2.slots)).sum +
    (s.killed.map (fun p =>
      if p.2.1.core ≠ core then 0
      else if p.2.1.isLanding then 1
      else if p.2.2.desc.duplex then 2 * p.2.1.slots else p.2.1.slots)).sum

/-- The s registers of a landing group: s0 to s15 as the kernel's groups hold them, the rest from the package (R148). -/
def landingS (sregs : Vector W32 64) (own : Vector W32 64) : Vector W32 64 := Vector.ofFn (fun n => if n.val < 16 then own[n] else sregs[n])

/-- s0 to s15 of a kernel's groups: SCONST, with SVAL where SMASK says so (05 R106, R111); s16 to s63 zero. -/
def Kernel.sRegisters (k : Kernel) : Vector W32 64 :=
  Vector.ofFn (fun n =>
    if n.val < 16 then (if k.smask.getLsbD n.val then k.sval.getD n.val 0 else k.desc.sconst.getD n.val 0) else 0)

/-- A landing group (R148). -/
def landingGroup (k : Kernel) (p : Package) (core order : Nat) (home : BitVec 5) : Group :=
  { kh := p.kh, ctx := p.ctx, stage := p.stage, place := .landing core p.die order, slots := 1, state := p.state
    items := [(0, { p.item with home := home })]
    closed := p.closed, groupix := p.groupix, gangix := p.gangix, gangrank := p.gangrank, s := landingS p.s k.sRegisters, badS := []
    shadowS := landingS p.s k.sRegisters, mstat := p.mstat, scratchBytes := 0, scratch := [], full := [], spadPoison := []
    barriers := p.barriers, tiles := [], matrixIssue := 0, binds := Vector.replicate 16 { kind := 0, index := 0 }
    staging := [], rings := [], collectives := 0, barStamp := 0, throttled := false, guarded := none, landVa := p.va, started := true, sOrder := 0, counted := (0, 0), completed := []
    lastWave := [], stopAsked := false }

/-- LAND (18 R401). -/
def landEntry (core : Nat) (party : W64) : HcEntry := entryOf 0x0B [(2, 2, core), (8, 8, party.toNat)]

/-- A core under Verify's rotations (18 R408). -/
def Hindcast.moved (h : Hindcast) (core : Nat) : Nat :=
  let c := core / 8
  8 * (16 * (c / 16) + (c % 16 + h.rot) % 16) + (core % 8 + h.crot) % 8

/-- Is a landing on a core what the log says, where the context is being replayed (R403)? -/
def State.landingLogged (s : State) (p : Package) (core : Nat) : Bool :=
  let h := s.hind p.ctx
  if h.replaying then
    let party := match s.kernel? p.kh with | some k => partyOf 0 k.kseq p.stage p.item.itemix.toNat | none => 0
    match (Table.read [] h.log recFirmware).find? (fun e => leAt e 0 1 == 0x0B && leAt e 8 8 == party.toNat) with
    | some e => h.moved (leAt e 2 2) == core
    | none => false
  else true

/-- LANDING (R148, R297): a package lands on a core of its die that has a slot free. A landing group that a resume brings back lands the
same way. -/
def execLanding (package core : Nat) (s : State) : Host.Outcome State Fault Refusal :=
  .next (match Table.get? s.packages package with
    | none => s
    | some p =>
      match s.kernel? p.kh with
      | none => s
      | some k =>
        if dieOfCore core ≠ p.die ∨ 1024 ≤ core ∨ 2048 ≤ s.residentSlots core ∨ k.state.ended ∨ k.asked ∨ s.saving p.ctx ∨ !s.landingLogged p core ∨
            (!p.fresh && decide (256 ≤ s.landingsOn p.die))
        then s
        else
          let party := partyOf 0 k.kseq p.stage p.item.itemix.toNat
          let s := { s with
            packages := Table.erase s.packages package
            groups := Table.put s.groups s.nextId (landingGroup k p core s.landings (s.homeBank core))
            landings := s.landings + 1
            nextId := s.nextId + 1 }
          let s := s.logEntry p.ctx recFirmware (landEntry core party)
          let s := if (s.hind p.ctx).replaying then
              s.useLogged p.ctx recFirmware (fun e => leAt e 0 1 == 0x0B && leAt e 8 8 == party.toNat)
            else s
          if p.fresh then s.acquireAt (s.nextId - 1) 0 .dev else s.dropKeyLines (clusterOf core) (s.context p.ctx).key)

end Sys2Proof.Machine
end

