-- ==== Sys2Proof/Machine/Firmware.lean ====
section
/-! DEFINITION. What firmware reads and writes in a context's memory, launch records (05 R106 to R108, R110), descriptors (03 R79, R80,
06 R117, 15 R334), the creation of kernels (06 R122, R123) and COMPLETION_RECORD_UPDATE (05 R107). -/

namespace Sys2Proof.Machine

/-! ### Accesses of firmware -/

/-- A span of addresses cut at the ends of lines; `fuel` bounds the pieces. -/
def linePieces : Nat → Nat → Nat → List (Nat × Nat)
  | 0, _, _ => []
  | f + 1, a, n => if n = 0 then [] else
    let m := min n (128 - a % 128)
    (a, m) :: linePieces f (a + m) (n - m)

/-- The pieces of `n` bytes at a virtual address. -/
def piecesAt (va : W64) (n : Nat) : List (W64 × Nat) :=
  (linePieces (n / 128 + 2) va.toNat n).map (fun p => (BitVec.ofNat 64 p.1, p.2))

/-- The physical address of an access of firmware, mapped and granted as the owner's engines' are (R110). -/
def State.firmPa (s : State) (ctx : Nat) (va : W64) (n : Nat) (write : Bool) : Option Nat :=
  match s.walkKind ctx va (boolNat write) with
  | .leaf l => if s.granted ctx (l.pa va) n true write then some (l.pa va) else none
  | .fault _ _ _ => none

def State.firmMapped (s : State) (ctx : Nat) (va : W64) (n : Nat) (write : Bool) : Bool :=
  (piecesAt va n).all (fun p => (s.firmPa ctx p.1 p.2 write).isSome)

/-- What a read of firmware gives. -/
inductive FirmRead where
  | bytes (bs : List W8) (s : State)
  | nomap
  | poisoned
  | notYet (s : State)

def State.firmPieces (s : State) (ctx : Nat) : List (W64 × Nat) → FirmRead
  | [] => .bytes [] s
  | (va, n) :: rest =>
    match s.firmPa ctx va n false with
    | none => .nomap
    | some pa =>
      match (State.bringTokens (homeSlice pa) pa false 4 s).readAt (homeSlice pa) pa n (s.context ctx).key none with
      | .notYet s => .notYet s
      | .poisoned _ => .poisoned
      | .served s bs _ _ =>
        match s.firmPieces ctx rest with
        | .bytes more s => .bytes (bs ++ more) s
        | r => r

def State.firmRead (s : State) (ctx : Nat) (va : W64) (n : Nat) : FirmRead :=
  if s.firmMapped ctx va n false then s.firmPieces ctx (piecesAt va n) else .nomap

/-- What a write or an atomic of firmware gives. -/
inductive FirmWrite where
  | done (s : State)
  | denied
  | poisoned
  | notYet (s : State)

/-- Bytes of one line written at the line's place. -/
def State.firmStore (s : State) (ctx : Nat) (va : W64) (bs : List W8) : FirmWrite :=
  match s.firmPa ctx va bs.length true with
  | none => .denied
  | some pa =>
    let s := State.bringTokens (homeSlice pa) pa true 4 s
    match s.writeAt (homeSlice pa) pa (s.context ctx).key bs 0 with
    | .notYet s => .notYet s
    | .poisoned _ => .poisoned
    | .served s _ _ _ => .done (s.recall (lineOf pa) none)

def State.firmWritePieces (s : State) (ctx : Nat) : List (W64 × List W8) → FirmWrite
  | [] => .done s
  | (va, bs) :: rest =>
    match s.firmStore ctx va bs with
    | .done s => s.firmWritePieces ctx rest
    | r => r

/-- Bytes cut as `piecesAt` cuts their addresses. -/
def cutPieces : List (W64 × Nat) → List W8 → List (W64 × List W8)
  | [], _ => []
  | (va, n) :: rest, bs => (va, bs.take n) :: cutPieces rest (bs.drop n)

def State.firmWrite (s : State) (ctx : Nat) (va : W64) (bs : List W8) : FirmWrite :=
  if s.firmMapped ctx va bs.length true then s.firmWritePieces ctx (cutPieces (piecesAt va bs.length) bs) else .denied

/-- The party of firmware (18 R395). -/
def firmParty (kseq : Nat) : W64 := partyOf 4 kseq 0 0

/-- An atomic add of 1 to the 8 bytes at an address (R107). -/
def State.firmAdd (s : State) (ctx : Nat) (party va : W64) : FirmWrite :=
  match s.firmPa ctx va 8 true with
  | none => .denied
  | some pa =>
    let r := s.placeRecorder (homeSlice pa) pa
    if !s.mayServe ctx r party then .notYet s
    else
      match s.firmRead ctx va 8 with
      | .nomap => .denied
      | .poisoned => .poisoned
      | .notYet s => .notYet s
      | .bytes bs s =>
        match s.firmStore ctx va (leBytes 8 (leNat bs + 1)) with
        | .done s => .done (s.recordAccess ctx r (pa / 16) party 0 true)
        | w => w

/-! ### Launch records (R106) -/

structure LaunchRecord where
  desc : W64
  prio : Nat
  flags : W16
  tag : W32
  crec : W64
  smask : W16
  deps : List (W64 × Nat)
  sval : List W32
  deriving DecidableEq, Repr

def word32 (bs : List W8) (off : Nat) : W32 := BitVec.ofNat 32 (leAt bs off 4)
def word64 (bs : List W8) (off : Nat) : W64 := BitVec.ofNat 64 (leAt bs off 8)

/-- Are the `n` bytes at `off` zero? -/
def zeroAt (bs : List W8) (off n : Nat) : Bool := ((bs.drop off).take n).all (fun b => b == 0)

def parseRecord (bs : List W8) : LaunchRecord :=
  { desc := word64 bs 0, prio := leAt bs 8 1, flags := BitVec.ofNat 16 (leAt bs 0x0A 2), tag := word32 bs 0x0C, crec := word64 bs 0x10
    smask := BitVec.ofNat 16 (leAt bs 0x18 2)
    deps := (upTo (leAt bs 9 1)).map (fun k => (word64 bs (0x20 + 16 * k), leAt bs (0x28 + 16 * k) 8))
    sval := (upTo 16).map (fun k => word32 bs (0x60 + 4 * k)) }

/-- The limits and reserved fields of R106. -/
def recordOk (bs : List W8) : Bool :=
  let r := parseRecord bs
  let ndep := leAt bs 9 1
  r.desc != 0 && aligned r.desc 64 && decide (r.prio ≤ 7) && decide (ndep ≤ 4) && decide (r.flags.toNat < 2) && aligned r.crec 16 &&
    zeroAt bs 0x1A 6 && r.deps.all (fun d => aligned d.1 16) && zeroAt bs (0x20 + 16 * ndep) (64 - 16 * ndep) &&
    (upTo 16).all (fun k => r.smask.getLsbD k || r.sval.getD k 0 == 0) && zeroAt bs 0xA0 96

/-! ### Descriptors (R79, R80, R117, R334) -/

def parseDescriptor (bs : List W8) : Descriptor :=
  { guarded := bit (word32 bs 4) 0, duplex := bit (word32 bs 4) 1, ext0 := leAt bs 0x08 8, ext1 := leAt bs 0x10 8, ext2 := leAt bs 0x18 8
    handler := word64 bs 0x20, refillPc := word64 bs 0x28, scratch := leAt bs 0x30 4, groupSlots := leAt bs 0x34 2
    gangGroups := leAt bs 0x38 1, gangDevs := leAt bs 0x39 1, entryFrame := leAt bs 0x3A 1
    sconst := (upTo 16).map (fun k => word32 bs (0x40 + 4 * k))
    stages := (upTo (leAt bs 0x36 1)).map (fun k => (word64 bs (0x80 + 16 * k), leAt bs (0x88 + 16 * k) 8))
    channels := (upTo (leAt bs 0x37 1)).map (fun k =>
      { src := leAt bs (0x100 + 8 * k) 1, dst := leAt bs (0x101 + 8 * k) 1, slots := leAt bs (0x102 + 8 * k) 2
        slotBytes := leAt bs (0x104 + 8 * k) 2 })
    queues := (upTo (leAt bs 0x3B 1)).map (fun k => { kind := leAt bs (0x180 + 4 * k) 1, index := leAt bs (0x181 + 4 * k) 1 }) }

/-- Bytes of a channel's receive ring. -/
def Channel.bytes (c : Channel) : Nat := c.slots * c.slotBytes

/-- The ring bytes of a stage's groups (R334). -/
def Descriptor.ringTotal (d : Descriptor) (stage : Nat) : Nat := ((d.channels.filter (fun c => c.dst == stage)).map Channel.bytes).sum

/-- The QUEUE limits of R117. -/
def Binding.ok (d : Descriptor) (b : Binding) : Bool :=
  match b.kind with
  | 0 => true
  | 1 => decide (b.index ≤ 15)
  | 2 => decide (b.index ≤ 15)
  | 3 => b.index == 0
  | 4 => decide (b.index < d.channels.length)
  | 5 => decide (b.index < d.channels.length)
  | _ => false

/-- The limits of R79 and the checks of R80, R117 and R334, but for the words at REFILLPC. -/
def descriptorOk (bs : List W8) : Bool :=
  let d := parseDescriptor bs
  let nst := leAt bs 0x36 1
  let nch := leAt bs 0x37 1
  let nq := leAt bs 0x3B 1
  let ext := d.ext0 * d.ext1 * d.ext2
  leAt bs 0 4 == 1 && decide (leAt bs 4 4 < 4) && (!d.duplex || d.guarded) && decide (1 ≤ ext) && decide (ext ≤ 2 ^ 48) &&
    aligned d.handler 4 && d.refillPc != 0 && aligned d.refillPc 4 && d.scratch % 16 == 0 && decide (d.scratch ≤ 524288) &&
    decide (32 ≤ d.groupSlots) && decide (d.groupSlots ≤ 1024) && d.groupSlots % 32 == 0 && decide (1 ≤ nst) && decide (nst ≤ 8) &&
    decide (nch ≤ 16) && decide (1 ≤ d.gangGroups) && decide (d.gangGroups ≤ 32) && decide (1 ≤ d.gangDevs) && decide (d.gangDevs ≤ 64) &&
    decide (d.entryFrame ≤ 96) && decide (nq ≤ 16) && zeroAt bs 0x3C 4 &&
    d.stages.all (fun p => aligned p.1 4 && decide (1 ≤ p.2) && decide (p.2 ≤ ext) && (d.gangDevs == 1 || decide (d.gangDevs ≤ p.2))) &&
    zeroAt bs (0x80 + 16 * nst) (128 - 16 * nst) &&
    d.channels.all (fun c => decide (c.src < nst) && decide (c.dst < nst) && decide (1 ≤ c.slots) && decide (c.slots ≤ 256) &&
      decide (16 ≤ c.slotBytes) && decide (c.slotBytes ≤ 256) && c.slotBytes % 16 == 0) &&
    (upTo nch).all (fun k => zeroAt bs (0x106 + 8 * k) 2) && zeroAt bs (0x100 + 8 * nch) (128 - 8 * nch) &&
    d.queues.all (fun b => b.ok d) && (upTo nq).all (fun k => zeroAt bs (0x182 + 4 * k) 2) && zeroAt bs (0x180 + 4 * nq) (64 - 4 * nq) &&
    zeroAt bs 0x1C0 64 && (upTo nst).all (fun k => decide (d.ringTotal k ≤ d.scratch))

/-- Are two words an rfpt (R80)? -/
def isRfpt (w0 w1 : W32) : Bool := w0 == 0x61000000 && field w1 31 28 == 0 && field w1 27 24 != 15 && field w1 23 0 == 0x010000

/-- What reading a descriptor gives: accepted, refused with a code of R110, or not yet. -/
inductive DescRead where
  | ok (d : Descriptor) (s : State)
  | refused (code : Nat)
  | notYet (s : State)

/-- Reads and checks the descriptor at an address of a context (R80, R110, R117). -/
def State.readDescriptor (s : State) (ctx : Nat) (va : W64) : DescRead :=
  match s.firmRead ctx va 512 with
  | .nomap => .refused 3
  | .poisoned => .refused 5
  | .notYet s => .notYet s
  | .bytes bs s =>
    if !descriptorOk bs then .refused 2
    else
      match s.firmRead ctx (va + word64 bs 0x28) 8 with
      | .nomap => .refused 3
      | .poisoned => .refused 5
      | .notYet s => .notYet s
      | .bytes ws s => if isRfpt (word32 ws 0) (word32 ws 4) then .ok (parseDescriptor bs) s else .refused 2

/-! ### Kernels -/

/-- Is a handle free (R124, R126): no kernel has it, or one that has ended and whose engine commands have all ended? -/
def State.handleFree (s : State) (kh : Nat) : Bool :=
  ((s.kernel? kh).map (fun k => k.state.ended)).getD true && s.commands.all (fun p => p.2.kh != kh)

/-- The lowest free handle (R126). -/
def State.freeHandle (s : State) : Option Nat := (upTo 4096).find? s.handleFree

/-- The stores of a kernel that are on their way. Those of groups that are gone count as the context's. -/
def State.kernelStores (s : State) (ctx kh : Nat) : List Nat :=
  s.accesses.keysOf (fun _ a => a.ctx == ctx && (match s.group? a.gid with | some g => g.kh == kh | none => true))

/-- A kernel leaves its handle; one whose end is performed during a save of its context stays noted for the image (R91, R135). -/
def State.eraseKernel (s : State) (kh : Nat) : State :=
  match s.kernel? kh with
  | none => s
  | some k =>
    let s := { s with kernels := Table.erase s.kernels kh }
    if s.saving k.ctx then s.modContext k.ctx (fun c => { c with endedInSave := c.endedInSave ++ [k] }) else s

/-- A new kernel takes a handle that an ended one still had: the ended one's update keeps the stores that it waits for (R124). -/
def State.releaseHandle (s : State) (kh : Nat) : State :=
  match s.kernel? kh with
  | none => s
  | some k =>
    { s with updates := s.updates.mapAll (fun _ u => if u.kh = some kh then { u with
        kh := none
        waits := s.kernelStores k.ctx kh } else u) }.eraseKernel kh

/-- A take by firmware, as log 10 has it logged: the party is firmware with the kernel's KSEQ, the value the LQ, the detail the handle. -/
def takeEntry (kseq lq kh : Nat) : HcEntry := valueEntry 3 0 (partyOf 4 kseq 0 0) (BitVec.ofNat 64 lq) (BitVec.ofNat 64 kh)

/-- Is an entry the take of a KSEQ? -/
def isTake (kseq : Nat) (e : HcEntry) : Bool := leAt e 0 1 == 3 && leAt e 1 1 == 3 && leAt e 8 8 == (partyOf 4 kseq 0 0).toNat

/-- A kernel takes a KSEQ while Hindcast records or replays: its creation is logged, or its handle read from the log (R395, R403). -/
def State.nameKernel (s : State) (ctx kh kseq lq : Nat) : State :=
  let h := s.hind ctx
  if h.mode = .off then s
  else
    let logged := (Table.read [] h.log recFirmware).find? (isTake kseq)
    let s := s.modKernel kh (fun k => { k with
      kseq := kseq
      logKh := (logged.map (fun e => leAt e 24 8)).getD kh })
    if h.replaying then s.useLogged ctx recFirmware (isTake kseq) else s.logEntry ctx recFirmware (takeEntry kseq lq kh)

/-- A new kernel's KSEQ is the context's count (R395). -/
def State.numberKernel (s : State) (ctx kh lq : Nat) : State :=
  let n := (s.hind ctx).kseq
  if (s.hind ctx).mode = .off then s else (s.nameKernel ctx kh n lq).modHind ctx (fun h => { h with kseq := n + 1 })

/-- A kernel as a take creates it (R117, R122, R123), of rank `rank` in gang `n`. -/
def newKernel (ctx : Nat) (r : LaunchRecord) (d : Descriptor) (queue : Option Nat) (order n rank : Nat) : Kernel :=
  let share (items k : Nat) : Nat := if d.gangDevs = 1 then (if k = 0 then 0 else items) else items * (rank + k) / d.gangDevs
  { ctx := ctx, descAddr := r.desc, desc := d, state := .queued, prio := r.prio, tag := r.tag, crec := r.crec, smask := r.smask
    flags := r.flags, sval := r.sval, queue := queue, order := order, empty := false
    next := d.stages.map (fun p => share p.2 0), limit := d.stages.map (fun p => share p.2 1)
    nextGang := d.stages.map (fun _ => 0), nextGroup := d.stages.map (fun _ => 0), ended := 0, gangN := n, rank := rank
    committed := decide (d.gangDevs = 1), asked := false, lastReceiver := [], gone := [], kseq := 0, logKh := 0, oldWords := [] }

/-- A kernel takes its handle. -/
def State.addKernel (s : State) (kh : Nat) (k : Kernel) (lq : Nat) : State :=
  let s := (s.releaseHandle kh).dropKeyEverywhere (s.context k.ctx).key
  ({ s with
    kernels := Table.put s.kernels kh k
    takes := s.takes + 1 }).numberKernel k.ctx kh lq

/-- The items of a kernel's shares on this device (R122, R128). -/
def Kernel.total (k : Kernel) : Nat :=
  (k.desc.stages.map (fun p =>
    if k.desc.gangDevs = 1 then p.2 else p.2 * (k.rank + 1) / k.desc.gangDevs - p.2 * k.rank / k.desc.gangDevs)).sum

/-! ### COMPLETION_RECORD_UPDATE (R107, R124) -/

/-- Are every store of a kernel's items and every command of it done? -/
def State.kernelQuiet (s : State) (ctx kh : Nat) : Bool :=
  (s.kernelStores ctx kh).isEmpty && s.commands.all (fun p => p.2.kh != kh)

/-- Is what an update waits for done (R107)? -/
def State.updateReady (s : State) (u : CompletionUpdate) : Bool :=
  match u.kh with
  | some kh => s.kernelQuiet u.ctx kh
  | none => u.waits.all (fun id => (Table.get? s.accesses id).isNone)

/-- The end of an update: the handle becomes free, and a binding pass follows (R109, R124). -/
def State.endUpdate (s : State) (id : Nat) (u : CompletionUpdate) : State :=
  let s := match u.kh with | some kh => s.eraseKernel kh | none => s
  { s with
    updates := Table.erase s.updates id
    passDue := true }

/-- LASTERR of the queue the record stood in, by its number; a kernel from an image stood in none (log 41). -/
def State.setLastErr (s : State) (queue : Option Nat) (code : Nat) : State :=
  match queue with
  | some q => { s with queues := Table.modify s.queues q (fun e => { e with lastErr := code }) }
  | none => s

/-- COMPLETION_RECORD_UPDATE: FAILS, then COUNT, once the kernel's stores are visible at system scope. -/
def execCompletionRecordUpdate (update : Nat) (s : State) : Host.Outcome State Fault Refusal :=
  .next (match Table.get? s.updates update with
    | none => s
    | some u =>
      if !s.updateReady u then s
      else if u.crec = 0 then s.endUpdate update u
      else
        let party := firmParty u.kseq
        let first : FirmWrite := if u.failed then s.firmAdd u.ctx party (u.crec + 8) else .done s
        match first with
        | .denied => (s.setLastErr u.queue 3).endUpdate update u
        | .poisoned => (s.setLastErr u.queue 5).endUpdate update u
        | .notYet s => s
        | .done s' =>
          match s'.firmAdd u.ctx party u.crec with
          | .denied => (s'.setLastErr u.queue 3).endUpdate update u
          | .poisoned => (s'.setLastErr u.queue 5).endUpdate update u
          | .notYet _ => s
          | .done s => s.endUpdate update u)

end Sys2Proof.Machine
end

