-- ==== Sys2Proof/Machine/Segments.lean ====
section
/-! DEFINITION. The ring of a recording (18 R398, R399, R406), and the start of a segment and of a replay (R395, R403 to R408): the recorders'
logs as replay reads them from the ring. -/

namespace Sys2Proof.Machine

/-- The recorder whose log a record's entries form; Verify moves the clusters (R408). -/
def Hindcast.recorderOf (h : Hindcast) (c : ChunkRecord) : Nat :=
  match c.kind with
  | 0 => h.moved (8 * c.source) / 8
  | 1 => recSlice c.source
  | 2 => recLink c.source
  | 3 => recPort c.source
  | _ => recFirmware

/-- A party of an entry, with the cluster of a fill moved as Verify moves it. -/
def Hindcast.movedParty (h : Hindcast) (p : Nat) : Nat :=
  if p / 2 ^ 60 = 3 then p / 2 ^ 48 * 2 ^ 48 + h.moved (8 * (p % 2 ^ 48)) / 8 else p

def Hindcast.movedEntry (h : Hindcast) (e : HcEntry) : HcEntry :=
  let at_ (e : HcEntry) (off : Nat) : HcEntry := overlay e off (leBytes 8 (h.movedParty (leAt e off 8)))
  match leAt e 0 1 with
  | 1 => at_ (at_ e 8) 16
  | 2 => at_ e 8
  | 3 => at_ e 8
  | _ => e

/-- A record's header as Verify's core rotation moves it. -/
def Hindcast.movedRet (h : Hindcast) (c : ChunkRecord) : ChunkRecord :=
  { c with ret := (upTo 8).map (fun m => c.ret.getD ((m + 8 - h.crot % 8) % 8) 0) }

/-- Where a replay ends (R405): the last SEQ replayed and the RESULT, by the END record, the first gap or the breakpoint, whichever stops
first. A log that holds none of them ends at its last record as at a breakpoint. -/
def replayLimit (cs : List ChunkRecord) (stopSeq : Nat) : Nat × Nat :=
  let last := (cs.map ChunkRecord.seq).foldl max 0
  let ends := (cs.filter (fun c => c.flags / 16 % 2 == 1)).map (fun c => (c.seq, 3))
  let gaps := ((cs.filter (fun c => c.flags / 32 % 2 == 1)).map (fun c => (c.seq - 1, 5))).take 1
  let stop := if stopSeq = 0 then [] else [(stopSeq, 2)]
  let byEnd := ((ends.reverse.take 1) ++ gaps ++ stop).foldl (fun (b : Option (Nat × Nat)) x =>
    match b with
    | none => some x
    | some y => if x.1 < y.1 then some x else some y) none
  byEnd.getD (last, 2)

/-- The logs of the recorders, from the ring's first record: cluster chunks up to the limit, everything else whole, with the marks of
chunk and segment ends. A segment ends, for every recorder, with the firmware's chunk that a Suspend closes, the last of those that it
closes. -/
def Hindcast.loadLog (h : Hindcast) : Hindcast :=
  let cs := (h.ring.filter (fun p => decide (h.head ≤ p.1))).map Prod.snd
  let (limit, ending) := replayLimit cs h.stopSeq
  let recorders := (cs.map h.recorderOf).eraseDups
  let push (t : Table (List HcEntry)) (r : Nat) (es : List HcEntry) := Table.put t r (Table.read [] t r ++ es)
  let piece (c : ChunkRecord) : List HcEntry :=
    if c.kind = 0 ∧ limit < c.seq then []
    else c.entries.map h.movedEntry ++ (if c.kind = 0 then [markOf (h.movedRet c)] else [])
  { h with
    ending := ending
    result := 1
    recorders := []
    kseq := 0
    log := cs.foldl (fun t c =>
      let t := push t (h.recorderOf c) (piece c)
      if c.kind = 4 ∧ c.flags / 8 % 2 = 1 then recorders.foldl (fun t r => push t r [leBytes 1 0xFE]) t else t) [] }

/-- A segment begins at Start and at Resume (R395): ordinals and conflict tables are new. Under replay the segments are those of the log. -/
def Hindcast.beginSegment (h : Hindcast) : Hindcast :=
  if h.mode = .record then
    { h with
      armed := false
      recorders := h.recorders.mapAll (fun _ k => { k with
        table := []
        ordinals := [] }) }
  else if h.replaying && h.armed then { h.loadLog with armed := false }
  else h

/-! ### The ring (R398, R399, R406) -/

/-- The bytes of a chunk record: its header, the compressed body, zeros to a multiple of 64. -/
def ChunkRecord.bytes (c : ChunkRecord) : List W8 :=
  let body := Config.deflate (c.entries.map (fun e => e.take 32)).flatten
  let size := 128 + (body.length + 63) / 64 * 64
  let header := recordOf 128 ([(0, 8, c.seq), (8, 1, c.kind), (9, 1, c.flags), (0x0A, 2, c.source), (0x0C, 4, size),
    (0x10, 8, c.entries.length), (0x18, 4, c.localNo)] ++ (c.ret.zip (upTo 8)).map (fun p => (0x20 + 8 * p.2, 8, p.1)))
  overlay header 0x60 c.sdig ++ body ++ List.replicate (size - 128 - body.length) 0

/-- A pad record of `n` bytes: 64 bytes of it where no more remain (R399). -/
def padRecord (n : Nat) : List W8 := (recordOf 128 [(8, 1, 5), (0x0C, 4, n)]).take (min n 128)

/-- Where the next record stands: the pad before it, and TAIL after both. -/
def Hindcast.place (h : Hindcast) (ringBytes n : Nat) : Nat × Nat :=
  let off := h.tail % ringBytes
  let pad := if ringBytes < off + n then ringBytes - off else 0
  (pad, h.tail + pad + n)

/-- A record is written at TAIL, after a pad record where it would pass the ring's end. -/
def State.writeChunk (s : State) (ctx : Nat) (c : ChunkRecord) : State :=
  let x := s.context ctx
  let h := x.hind
  let size := 2 ^ x.ringLog
  let c := { c with
    seq := h.hcseq.toNat + 1
    flags := if h.gapNext ∧ c.flags / 32 % 2 = 0 then c.flags + 32 else c.flags }
  let bs := c.bytes
  let (pad, tail) := h.place size bs.length
  let s := if pad = 0 then s else s.physWrite (x.ringBase + h.tail % size) (padRecord pad)
  (s.physWrite (x.ringBase + (h.tail + pad) % size) bs).modHind ctx (fun h => { h with
    closing := h.closing.drop 1
    gapNext := false
    tail := tail
    hcseq := BitVec.ofNat 64 c.seq
    lastSeq := BitVec.ofNat 64 c.seq
    ring := Table.put h.ring (h.tail + pad) c })

/-- The oldest Closing chunk goes to the ring, or, with the ring full, is discarded in lossy mode and waits otherwise (R398). -/
def State.spill (ctx : Nat) (s : State) : State :=
  let x := s.context ctx
  match x.hind.closing with
  | [] => s
  | c :: rest =>
    let (_, tail) := x.hind.place (2 ^ x.ringLog) c.bytes.length
    if tail - x.hind.head ≤ 2 ^ x.ringLog then s.writeChunk ctx c
    else if x.hind.lossy then s.modHind ctx (fun h => { h with
      closing := rest
      gapNext := true })
    else s

/-- A segment begins (R395). A replay reads the ring when the chunks that were closing have been written. -/
def State.beginSegment (s : State) (ctx : Nat) : State :=
  (if (s.hind ctx).replaying then (s.hind ctx).closing.foldl (fun s _ => s.spill ctx) s else s).modHind ctx Hindcast.beginSegment

end Sys2Proof.Machine
end

