-- ==== Sys2Proof/Machine/Commands.lean ====
section
/-! DEFINITION. The command ring (22 R463, 04 R92), the status codes (R99), and the context commands that end at once: Alloc, Config, Start,
Clear (04 R82 to R90), with the refusal of unallocated commands. -/

namespace Sys2Proof.Machine

/-! ### The ring -/

/-- The command at HEAD, which firmware accepts next: its slot and its 32 bytes. Firmware runs once BOOTSTAT is 2 (R459), and commands wait in
the ring while the Zhevport is not Up (17 R380). -/
def State.headCommand (s : State) : Option (Nat × List W8) :=
  if s.dev.bootStat = 2 ∧ s.zhevport = .up ∧ s.ringHead < s.ringTail then
    some (s.ringHead % 256, Table.read (List.replicate 32 0) s.ringSlots (s.ringHead % 256))
  else none

/-- Firmware accepts the command at HEAD. -/
def State.acceptCommand (s : State) : State := { s with ringHead := s.ringHead + 1 }

/-- STATUS of a slot, with bit 31 (R463). -/
def State.answerSlot (s : State) (slot code : Nat) : State :=
  let old := Table.read (List.replicate 32 0) s.ringSlots slot
  { s with ringSlots := Table.put s.ringSlots slot (overlay old 0x18 (leBytes 4 (0x80000000 + code))) }

/-- The answer to a command (R99): STATUS of a ring slot, or the value with which an item's wait ends. -/
def State.answer (s : State) (a : Asker) (st : Nat) : State :=
  match a with
  | .ring slot => s.answerSlot slot st
  | .item gid slot => s.modItem gid slot (fun it => match it.wait with
      | .command _ => { it with got := some (BitVec.ofNat 64 st, 0) }
      | _ => it)
  | .firmware => s

/-- The command at HEAD, where it is one of OPC and `q`, is accepted and completes with the status that `f` gives. -/
def State.runCommand (s : State) (opc : Nat) (q : List W8 → Bool) (f : List W8 → State → State × Nat) : State :=
  match s.headCommand with
  | some (slot, c) =>
    if leAt c 0 1 = opc && q c then
      let (s, st) := f c s.acceptCommand
      s.answerSlot slot st
    else s
  | none => s

/-- CTXID of a command. -/
def commandCtx (c : List W8) : Nat := leAt c 2 2

/-- The layout of a context command (R92). -/
def contextCommandOk (c : List W8) (area : Bool) (addr : Bool) : Bool :=
  zeroAt c 1 1 && decide (1 ≤ commandCtx c) && decide (commandCtx c ≤ 1023) && zeroAt c 4 4 && (addr || zeroAt c 8 8) &&
    (area || zeroAt c 0x10 8) && zeroAt c 0x1C 4

/-- A context command of R90 with its check, its state, and what it does. While a Suspend or Resume of the context is in progress only
Kill is accepted (R91, log 14). -/
def State.contextCommand (s : State) (opc : Nat) (area addr : Bool) (f : Nat → List W8 → State → State × Nat) : State :=
  s.runCommand opc (fun c => opc == 7 || !s.commandOpen (commandCtx c)) (fun c s =>
    if contextCommandOk c area addr then f (commandCtx c) c s else (s, stBadCmd))

/-- Refusals of R90 in states where an event has no effect. -/
def State.refusedIn (s : State) (ctx : Nat) (ok : ContextState → Bool) : Option Nat :=
  if (s.context ctx).state = .tornDown then some stNoCtx
  else if ok (s.context ctx).state then none
  else some stState

/-- Every OPC of R92, and the ACTION limits of LinkCtl and HcCmd. -/
def commandKnown (c : List W8) : Bool :=
  let o := leAt c 0 1
  let a := leAt c 1 1
  (decide (1 ≤ o) && decide (o ≤ 8)) || [0x10, 0x11, 0x20, 0x30, 0x31, 0x41, 0x60, 0x70, 0x80, 0x81].contains o ||
    (o == 0x40 && decide (a ≤ 2)) || (o == 0x50 && decide (a ≤ 4))

/-- A command with an unallocated OPC is refused with BADCMD. -/
def execUnknownCommand (s : State) : Host.Outcome State Fault Refusal :=
  .next (match s.headCommand with
    | some (slot, c) => if commandKnown c then s else s.acceptCommand.answerSlot slot stBadCmd
    | none => s)

/-! ### Alloc, Start, Clear -/

/-- Enable (05 R105): the owner's idle queues open, and a binding pass follows. -/
def State.enableQueues (s : State) (ctx : Nat) : State := { s.setQueues ctx .idle .opened with passDue := true }

/-- Alloc (R90). -/
def execAlloc (s : State) : Host.Outcome State Fault Refusal :=
  .next (s.contextCommand 1 false false (fun ctx _ s =>
    if (s.context ctx).state = .tornDown then (s.modContext ctx (fun c => { c with state := .allocated }), stDone)
    else (s, stState)))

/-- Start (R90). -/
def execStart (s : State) : Host.Outcome State Fault Refusal :=
  .next (s.contextCommand 3 false false (fun ctx _ s =>
    match s.refusedIn ctx (fun st => st == .configured) with
    | some st => (s, st)
    | none => (((s.modContext ctx (fun c => { c with state := .active })).beginSegment ctx).enableQueues ctx, stDone)))

/-- Clear (R90). -/
def execClear (s : State) : Host.Outcome State Fault Refusal :=
  .next (s.contextCommand 6 false false (fun ctx _ s =>
    match s.refusedIn ctx (fun st => st == .faulted) with
    | some st => (s, st)
    | none => ((s.modContext ctx (fun c => { c with state := .active })).enableQueues ctx, stDone)))

/-! ### Config (R82, R83, R87 to R89) -/

/-- Bytes of a region (R82). -/
def Region.bytes (r : Region) : Nat := r.size * 0x200000

/-- REGION[k] of a CCB. -/
def ccbRegions (b : List W8) : List Region :=
  (upTo (leAt b 0x60 4)).map (fun k =>
    { base := leAt b (0x80 + 16 * k) 8, size := leAt b (0x88 + 16 * k) 4, rights := BitVec.ofNat 4 (leAt b (0x8C + 16 * k) 1) })

/-- Do two spans of bytes meet? -/
def overlaps (a m b n : Nat) : Bool := decide (a < b + n) && decide (b < a + m) && decide (0 < m) && decide (0 < n)

def Region.overlaps (r q : Region) : Bool := Sys2Proof.Machine.overlaps r.base r.bytes q.base q.bytes

/-- Do `n` bytes at an address lie wholly inside HBM4, the near store or a CXL range (R83, R251)? -/
def State.spanPlaced (s : State) (a n : Nat) : Bool :=
  decide (a + n ≤ 0xC000000000) ||
    (upTo 4).any (fun b =>
      (decide (nearBase + b * 0x10000000 ≤ a) && decide (a + n ≤ nearBase + b * 0x10000000 + nearBytes s.dev.nearcfg b)) ||
      (decide (cxlBase + b * 0x1000000000000 ≤ a) && decide (a + n ≤ cxlBase + (b + 1) * 0x1000000000000)))

def State.regionPlaced (s : State) (r : Region) : Bool := s.spanPlaced r.base r.bytes

/-- The image area of a Zhevport command (R92): 4 KiB aligned physical memory. The spec gives no status of its own for another area: the
command answers BADCMD, before NOCTX and STATE (log 14). -/
def State.areaOk (s : State) (c : List W8) : Bool := leAt c 8 8 % 4096 == 0 && s.spanPlaced (leAt c 8 8) (leAt c 0x10 8)

/-- HCRING of a CCB: RBASE and RLOG (18 R391). -/
def ccbRing (b : List W8) : Nat × Nat := (leAt b 0x50 8, leAt b 0x58 1)

/-- The Hindcast rings of contexts that are not torn down. -/
def State.rings (s : State) : List (Nat × Nat) :=
  s.contexts.filterMap (fun p =>
    if p.2.state ≠ .tornDown ∧ p.2.everConfigured ∧ p.2.hcAllow then some (p.2.ringBase, 2 ^ p.2.ringLog) else none)

/-- The limits of R82 and R391 that a CCB keeps by itself. -/
def ccbLimits (b : List W8) : Bool :=
  let flags := leAt b 4 4
  let nreg := leAt b 0x60 4
  let (rbase, rlog) := ccbRing b
  leAt b 0 4 == 1 && decide (flags < 4) && decide (leAt b 8 2 ≤ 1023) && zeroAt b 0x0A 2 &&
    decide (12 ≤ leAt b 0x0C 4) && decide (leAt b 0x0C 4 ≤ 20) && zeroAt b 0x18 8 &&
    (upTo 4).all (fun k => decide (leAt b (0x20 + 8 * k) 4 ≤ leAt b (0x24 + 8 * k) 4)) &&
    leAt b 0x20 4 != 0 && leAt b 0x28 4 != 0 && leAt b 0x40 4 != 0 && leAt b 0x44 4 != 0 && zeroAt b 0x4C 4 && zeroAt b 0x59 7 &&
    decide (1 ≤ nreg) && decide (nreg ≤ 16) && zeroAt b 0x64 28 &&
    (ccbRegions b).all (fun r => r.base % 0x200000 == 0 && decide (r.base < 2 ^ 52) && decide (1 ≤ r.size)) &&
    (upTo nreg).all (fun k => decide (leAt b (0x8C + 16 * k) 1 < 16) && zeroAt b (0x8D + 16 * k) 3) &&
    zeroAt b (0x80 + 16 * nreg) (256 - 16 * nreg) && zeroAt b 0x180 128 &&
    (if flags / 2 % 2 = 1 then
      rbase % 0x40000000 == 0 && decide (30 ≤ rlog) && decide (rlog ≤ 36) && decide (rbase + 2 ^ rlog ≤ 0xC000000000) && leAt b 0x48 4 != 0
    else zeroAt b 0x48 4 && zeroAt b 0x50 16) &&
    !(flags % 2 == 1 && leAt b 8 2 != 0)

/-- May two contexts share bytes (R83)? -/
def mayShare (a : Context) (actx : Nat) (parent ctx : Nat) : Bool :=
  (parent != 0 && a.parent == parent) || a.parent == ctx || parent == actx

/-- R83 for a CCB of a CTXID. -/
def State.ccbOk (s : State) (ctx : Nat) (b : List W8) : Bool :=
  let regions := ccbRegions b
  let parent := leAt b 8 2
  let (rbase, rlog) := ccbRing b
  let hc := leAt b 4 4 / 2 % 2 == 1
  let rings := s.rings ++ (if hc then [(rbase, 2 ^ rlog)] else [])
  ccbLimits b &&
    (parent == 0 || ((s.context parent).state != .tornDown && (s.context parent).everConfigured && (s.context parent).system)) &&
    regions.all s.regionPlaced &&
    (upTo regions.length).all (fun j => (regions.drop (j + 1)).all (fun q => !((regions.getD j { base := 0, size := 0, rights := 0 }).overlaps q))) &&
    regions.all (fun r => !overlaps r.base r.bytes s.dev.poolBase s.dev.poolSize && rings.all (fun q => !overlaps r.base r.bytes q.1 q.2)) &&
    s.contexts.all (fun p => p.1 == ctx || p.2.state == .tornDown || mayShare p.2 p.1 parent ctx ||
      p.2.regions.all (fun q => regions.all (fun r => !r.overlaps q))) &&
    (!hc || (s.contexts.all (fun p => p.1 == ctx || p.2.state == .tornDown ||
        p.2.regions.all (fun q => !overlaps rbase (2 ^ rlog) q.base q.bytes)) &&
      s.rings.all (fun q => !overlaps rbase (2 ^ rlog) q.1 q.2) && !overlaps rbase (2 ^ rlog) s.dev.poolBase s.dev.poolSize)) &&
    leAt b 0x10 8 / 2 ^ 52 == 0 && leAt b 0x10 8 % 4096 == 0 && s.inPool (leAt b 0x10 8)

/-- The lowest free key id (R87). -/
def State.freeKeyId (s : State) : Option Nat := ((upTo 4096).drop 1).find? (fun k => s.keyState k == 0)

/-- A key id is bound under a fresh key pair (R87). -/
def State.bindKey (s : State) (k : Nat) : State := { s with keys := Table.put s.keys k (4 * (s.keyGeneration k + 1) + 1) }

/-- Keys of the budget tables: copy engines by die and engine, routers by die. -/
def copyKey (die engine ctx : Nat) : Nat := (die * 16 + engine) * 1024 + ctx
def injKey (die ctx : Nat) : Nat := die * 1024 + ctx

/-- Every bucket and budget of a context is full (R89). -/
def State.fillBudgets (s : State) (ctx : Nat) : State :=
  { s with
    buckets := s.buckets.filter (fun p => p.1 / 4 % 1024 != ctx)
    copyLeft := s.copyLeft.filter (fun p => p.1 % 1024 != ctx)
    injLeft := s.injLeft.filter (fun p => p.1 % 1024 != ctx) }

/-- A context as its CCB configures it; the ring block of its Hindcast ring, and the records of one that stays where it was, outlast the
teardown before (18 R389, log 10). -/
def configured (b : List W8) (key : Nat) (old : Context) : Context :=
  let flags := leAt b 4 4
  let hc := flags / 2 % 2 == 1
  let h := old.hind
  { Context.torn with
    state := .configured
    everConfigured := true
    system := flags % 2 == 1
    hcAllow := hc
    parent := leAt b 8 2
    key := key
    ptroot := word64 b 0x10
    isoper := word32 b 0x0C
    rate := (upTo 4).map (fun k => leAt b (0x20 + 8 * k) 4)
    depth := (upTo 4).map (fun k => leAt b (0x24 + 8 * k) 4)
    copyBud := leAt b 0x40 4
    injBud := leAt b 0x44 4
    hcBud := leAt b 0x48 4
    ringBase := (ccbRing b).1
    ringLog := (ccbRing b).2
    regions := ccbRegions b
    ccb := b
    hind := { Hindcast.off with
      head := h.head
      tail := h.tail
      lastSeq := h.lastSeq
      result := h.result
      ring := if ccbRing b = (old.ringBase, old.ringLog) then h.ring else [] } }

/-- Do `n` bytes of physical memory exist and hold no error? -/
def State.firmReads (s : State) (a n : Nat) : Bool :=
  (linePieces (n / 128 + 2) a n).all (fun p => (s.target? p.1).isSome && !s.memory.poisoned (lineOf p.1))

/-- Config (R83, R87, R90): the CTXID's error queue starts afresh (R419). -/
def execConfig (s : State) : Host.Outcome State Fault Refusal :=
  .next (s.contextCommand 2 false true (fun ctx c s =>
    match s.refusedIn ctx (fun st => st == .allocated) with
    | some st => (s, st)
    | none =>
      let a := leAt c 8 8
      let b := s.physRead a 512
      if a % 64 ≠ 0 ∨ !s.firmReads a 512 ∨ !s.ccbOk ctx b then (s, stBadCcb)
      else
        match s.freeKeyId with
        | none => (s, stNoKey)
        | some k => (((s.bindKey k).modContext ctx (fun x => configured b k x)).fillBudgets ctx, stDone)))

end Sys2Proof.Machine
end

