-- ==== Sys2Proof/Machine/Queues.lean ====
section
/-! DEFINITION. Launch queues (05): Assign and Release (R105, R112), the doorbell (R113), launch (R114, R115) and the binding pass (R108 to
R110). -/

namespace Sys2Proof.Machine

/-! ### Assign and Release -/

/-- NOQUEUE (R112). -/
abbrev stNoQueue : Nat := 0x0D

/-- The number of a context's queue at LQ. -/
def State.queueAt (s : State) (ctx lq : Nat) : Option Nat :=
  (s.queues.find? (fun p => p.2.owner == ctx && p.2.lq == lq && p.2.state != .free)).map Prod.fst

/-- The lowest-numbered free queue (log 12 says lowest). -/
def State.freeQueue (s : State) : Option Nat :=
  (upTo 256).find? (fun n => (Table.read LaunchQueue.empty s.queues n).state == .free)

/-- The layout of a queue command (R112). -/
def queueCommandOk (c : List W8) (assign : Bool) : Bool :=
  decide (leAt c 1 1 ≤ 15) && decide (1 ≤ commandCtx c) && decide (commandCtx c ≤ 1023) && zeroAt c 6 2 && zeroAt c 0x10 8 &&
    zeroAt c 0x1C 4 &&
    (if assign then decide (leAt c 4 1 ≤ 1) && decide (4 ≤ leAt c 5 1) && decide (leAt c 5 1 ≤ 16) && leAt c 8 8 % 4096 == 0
     else zeroAt c 4 2 && zeroAt c 8 8)

/-- Assign (R105, R112). That REFUSED, DBERR and LASTERR begin at 0 is the model's choice (log 41). -/
def execAssign (s : State) : Host.Outcome State Fault Refusal :=
  .next (s.runCommand 0x10 (fun _ => true) (fun c s =>
    let ctx := commandCtx c
    let st := (s.context ctx).state
    if !queueCommandOk c true then (s, stBadCmd)
    else if st = .tornDown then (s, stNoCtx)
    else if (st ≠ .configured ∧ st ≠ .active ∧ st ≠ .suspended ∧ st ≠ .faulted) ∨ (s.queueAt ctx (leAt c 1 1)).isSome then (s, stState)
    else
      match s.freeQueue with
      | none => (s, stNoQueue)
      | some n =>
        ({ s with
          queues := Table.put s.queues n
            { LaunchQueue.empty with
              owner := ctx
              lq := leAt c 1 1
              device := leAt c 4 1 == 1
              logLen := leAt c 5 1
              state := if st = .active then .opened else .idle
              qbase := word64 c 8 } }, stDone)))

/-- Release (R105, R112). -/
def execRelease (s : State) : Host.Outcome State Fault Refusal :=
  .next (s.runCommand 0x11 (fun _ => true) (fun c s =>
    let ctx := commandCtx c
    if !queueCommandOk c false then (s, stBadCmd)
    else if (s.context ctx).state = .tornDown then (s, stNoCtx)
    else
      match s.queueAt ctx (leAt c 1 1) with
      | none => (s, stNoQueue)
      | some n =>
        let q := Table.read LaunchQueue.empty s.queues n
        if q.head = q.tail then ({ s with queues := Table.erase s.queues n }, stDone) else (s, stState)))

/-! ### The doorbell -/

/-- QLEN (R103). -/
def LaunchQueue.length (q : LaunchQueue) : Nat := 2 ^ q.logLen

/-- The records a queue holds: TAIL − HEAD, in 64 bits (R103). -/
def LaunchQueue.held (q : LaunchQueue) : Nat := (q.tail - q.head).toNat

/-- STATE of a queue entry (R104). -/
def QueueState.code : QueueState → Nat
  | .free => 0
  | .idle => 1
  | .opened => 2

/-- The 64-byte queue entry of the management window (R104). -/
def LaunchQueue.entry (q : LaunchQueue) : List W8 :=
  recordOf 64 [(0x00, 2, q.owner), (0x02, 1, q.lq), (0x03, 1, boolNat q.device), (0x04, 1, q.logLen), (0x05, 1, q.state.code),
    (0x06, 1, q.lastErr), (0x08, 8, q.qbase.toNat), (0x10, 8, q.head.toNat), (0x18, 8, q.tail.toNat), (0x20, 4, q.refused.toNat),
    (0x24, 4, q.dbErr.toNat)]

/-- QUEUE_DOORBELL (R113): the host writes TAIL, over a Zhevport that is Up (17 R380). -/
def execQueueDoorbell (queue : Nat) (tail : W64) (s : State) : Host.Outcome State Fault Refusal :=
  .next (if 256 ≤ queue ∨ s.zhevport ≠ .up then s
    else
      let q := Table.read LaunchQueue.empty s.queues queue
      if q.state = .free ∨ q.device ∨ tail.toNat < q.tail.toNat ∨ q.length < (tail - q.head).toNat then
        { s with queues := Table.put s.queues queue { q with dbErr := q.dbErr + 1 } }
      else
        { s with
          queues := Table.put s.queues queue { q with tail := tail }
          passDue := true })

/-! ### launch (R114) -/

/-- The slot of record `n` (R103). -/
def LaunchQueue.slotVa (q : LaunchQueue) (n : W64) : W64 := q.qbase + BitVec.ofNat 64 (256 * (n.toNat % q.length))

/-- 256 bytes of the item's memory, line by line, as loads of 128 bytes reach them. -/
inductive ItemRead where
  | bytes (bs : List W8) (s : State)
  | trap (t : Trap) (s : State)
  | wait (w : Wait) (s : State)

/-- A relaxed read of an item at device scope, by lines (R114). -/
def State.itemRead (s : State) (g : Group) (it : Item) : List (W64 × Nat) → ItemRead
  | [] => .bytes [] s
  | (va, n) :: rest =>
    match s.translate g.core g.ctx va 0 with
    | .trap t => .trap t s
    | .miss s => .wait (.walk g.ctx (pageOf va) va 0) s
    | .ok pa =>
      if !s.granted g.ctx pa n false false then .trap (memTrap causeProt va false 4 false) s
      else
        let slice := servingSlice (dieOfCore g.core) pa
        let r := s.placeRecorder slice pa
        if !s.mayServe g.ctx r (s.partyOfItem g it) then .wait .again s
        else
          match (State.bringTokens slice pa false 4 s).readAt slice pa n (s.context g.ctx).key none with
          | .notYet s => .wait .again s
          | .poisoned s => .trap (memTrap causePoison va false 4 false) s
          | .served s bs _ _ =>
            let s := (s.charge g.core g.ctx (s.coreClass g.core pa) n).recordAccess g.ctx r (pa / 16) (s.partyOfItem g it) 0 false
            match s.itemRead g it rest with
            | .bytes more s => .bytes (bs ++ more) s
            | r => r

/-- The status of a launch and, where it appends, its queue (R114). -/
def State.launchStatus (s : State) (ctx lq : Nat) (rec_ : List W8) : Nat × Option (Nat × LaunchQueue) :=
  match s.queueAt ctx lq with
  | none => (1, none)
  | some n =>
    let q := Table.read LaunchQueue.empty s.queues n
    if !q.device then (2, some (n, q))
    else if !recordOk rec_ then (3, some (n, q))
    else if q.held = q.length then (4, some (n, q))
    else if !s.firmMapped ctx (q.slotVa q.tail) 256 true then (5, some (n, q))
    else (0, some (n, q))

/-- The append of a launch: the slot is written, then TAIL rises. -/
def State.launchAppend (s : State) (ctx n : Nat) (q : LaunchQueue) (rec_ : List W8) : FirmWrite :=
  match s.firmWrite ctx (q.slotVa q.tail) rec_ with
  | .done s => .done { s with
      queues := Table.put s.queues n { q with tail := q.tail + 1 }
      passDue := true }
  | w => w

/-- Under replay an item appends where its log has it: with TAIL at the logged count (R115, log 10). -/
def State.appendsNext (s : State) (g : Group) (e : Env) (q : LaunchQueue) : Bool :=
  match s.nextValue g.ctx (clusterOf g.core) (s.partyOfItem g e.it) with
  | some x => leAt x 24 8 == q.tail.toNat
  | none => true

/-- launch for one item. Under replay the logged status decides whether it appends (R115). -/
def launchForm (o : Form) (e : Env) (s : State) : State :=
  let i : Instr := .launch o
  s.withGroup e.gid (fun g =>
    if g.turnTaken e then e.await i .again s
    else if e.it.releaseWaits .dev then e.await i (.stores .dev) s
    else
      let s := s.fence e.gid e.slot false true false .dev
      let e := e.refresh s
      let lq := e.it.readV o.b
      let ea := e.it.readV2 o.a
      if 15 < lq.toNat then e.finish i (.trap e.it (illegal 0x0E 3)) s
      else if !aligned ea 256 then e.finish i (.trap e.it (memTrap causeMisalign ea false 4 false)) s
      else
        match s.itemRead g e.it (piecesAt ea 256) with
        | .trap t s => e.finish i (if t.cause = causePoison && g.guarded.isSome then .consume t else .trap e.it t) s
        | .wait w s => e.await i w s
        | .bytes rec_ s =>
          let (st, place) := s.launchStatus g.ctx lq.toNat rec_
          let at_ : W64 := match place with | some (_, q) => q.tail | none => 0
          let (v, s') := s.loggedItemValue e.gid e.slot 3 (BitVec.ofNat 64 st) at_
          match place with
          | some (n, q) =>
            if v = 0 then
              if !s.appendsNext g e q then e.await i .again s
              else
                match s'.launchAppend g.ctx n q rec_ with
                | .done s => e.finish i (.done (e.it.writeV o.d 0)) s
                | .notYet _ => e.await i .again s
                | _ =>
                  let (v, s) := s.loggedItemValue e.gid e.slot 3 5 at_
                  e.finish i (.done (e.it.writeV o.d (lo32 v))) s
            else e.finish i (.done (e.it.writeV o.d (lo32 v))) s'
          | none => e.finish i (.done (e.it.writeV o.d (lo32 v))) s')

def execLaunch (o : Form) (s : State) : Host.Outcome State Fault Refusal :=
  .next (s.commitWave (.launch o) false (launchForm o))

/-! ### The binding pass (R108 to R110) -/

/-- What firmware finds at the head of a queue. -/
inductive Head where
  | refused (code : Nat) (crec : W64) (s : State)
  | waiting (s : State)
  | ready (r : LaunchRecord) (d : Descriptor) (s : State)
  | notYet (s : State)

/-- The COUNT and FAILS words of a record's dependences, or the refusal that reading them gives. -/
inductive DepRead where
  | words (cs : List (Nat × Nat)) (s : State)
  | refused (code : Nat)
  | notYet (s : State)

def State.readDeps (s : State) (ctx : Nat) : List (W64 × Nat) → DepRead
  | [] => .words [] s
  | (a, _) :: rest =>
    match s.firmRead ctx a 16 with
    | .nomap => .refused 3
    | .poisoned =>
      match s.readDeps ctx rest with
      | .refused 3 => .refused 3
      | .notYet s => .notYet s
      | _ => .refused 5
    | .notYet s => .notYet s
    | .bytes bs s =>
      match s.readDeps ctx rest with
      | .words cs s => .words ((leAt bs 0 8, leAt bs 8 8) :: cs) s
      | r => r

/-- The dependences of a record whose descriptor is accepted. -/
def State.headDeps (s : State) (ctx : Nat) (r : LaunchRecord) (d : Descriptor) : Head :=
  match s.readDeps ctx r.deps with
  | .refused code => .refused code r.crec s
  | .notYet s => .notYet s
  | .words cs s =>
    if (cs.zip r.deps).any (fun p => decide (p.1.1 < p.2.2)) then .waiting s
    else if r.flags.getLsbD 0 && cs.any (fun c => c.2 != 0) then .refused 4 r.crec s
    else .ready r d s

/-- R110 on the head record of a queue. -/
def State.readHead (s : State) (q : LaunchQueue) : Head :=
  match s.firmRead q.owner (q.slotVa q.head) 256 with
  | .nomap => .refused 3 0 s
  | .poisoned => .refused 5 0 s
  | .notYet s => .notYet s
  | .bytes bs s =>
    let r := parseRecord bs
    if !recordOk bs then .refused 1 (if aligned r.crec 16 then r.crec else 0) s
    else
      match s.readDescriptor q.owner r.desc with
      | .refused code => .refused code r.crec s
      | .notYet s => .notYet s
      | .ok d s => s.headDeps q.owner r d

/-- A head record is refused: it is skipped, and R107 runs for it as for an end that is not complete. -/
def State.refuseHead (s : State) (n : Nat) (q : LaunchQueue) (code : Nat) (crec : W64) : State :=
  let s := { s with queues := Table.put s.queues n { q with
      head := q.head + 1
      refused := q.refused + 1
      lastErr := code } }
  if crec = 0 then s
  else
    { s with
      updates := Table.put s.updates s.nextId { ctx := q.owner, crec := crec, failed := true, queue := some n, kh := none, waits := [], kseq := 0 }
      nextId := s.nextId + 1 }

/-- The queues in the order in which ties go: from the one after the queue taken last (R109). -/
def State.queueOrder (s : State) : List Nat := (upTo 256).map (fun j => (s.lastQueue + 1 + j) % 256)

/-- Is a take from a queue the one that the log has next, where the owner is being replayed (18 R403)? -/
def State.takeLogged (s : State) (q : LaunchQueue) : Bool :=
  let h := s.hind q.owner
  if h.replaying then
    match (Table.read [] h.log recFirmware).find? (isTake h.kseq) with
    | some e => leAt e 16 8 == q.lq
    | none => false
  else true

/-- A take of a multi-device gang's record (R130, R131): RESERVE goes to every other member, or the kernel is aborted at once. -/
def State.openGang (s : State) (kh : Nat) (r : LaunchRecord) (d : Descriptor) (ctx n : Nat) : State :=
  let peers := (s.context ctx).peers
  if s.myRank ctx ≠ some 0 ∨ peers.length < d.gangDevs then s.gangAborted kh
  else
    let s := { s with gangs := Table.put s.gangs n { ctx := ctx, kh := kh, devs := d.gangDevs, acked := [], done := [], committed := false } }
    (upTo d.gangDevs).foldl (fun s rank =>
      match s.peer? ctx rank with
      | some p =>
        if rank = 0 || (s.hind ctx).replaying then s
        else (s.sendPacket 6 p.1 p.2 (.reserve n (s.context ctx).toexp r.desc r.prio r.tag r.smask r.sval (peers.take d.gangDevs))).1
      | none => s) s

/-- The take of a ready record (R109, R123, R130). -/
def State.takeHead (s : State) (n : Nat) (q : LaunchQueue) (r : LaunchRecord) (d : Descriptor) (kh : Nat) : State :=
  let gang := decide (1 < d.gangDevs)
  let number := if gang then s.gangCount + 1 else 0
  let s := { s with
    queues := Table.put s.queues n { q with head := q.head + 1 }
    lastQueue := n
    gangCount := if gang then number else s.gangCount }
  let s := s.addKernel kh (newKernel q.owner r d (some n) s.takes number 0) q.lq
  if gang then s.openGang kh r d q.owner number else s

/-- What a round of the pass finds: the ready records, whether a head is still on its way, and whether a head has been refused. -/
structure Round where
  ready : List (Nat × LaunchQueue × LaunchRecord × Descriptor)
  notYet : Bool
  changed : Bool

/-- The heads of the queues given, each examined once (R109, R110): the refused ones are skipped, the ready ones are gathered in order. -/
def State.examine (s : State) : List Nat → State × Round
  | [] => (s, { ready := [], notYet := false, changed := false })
  | n :: rest =>
    let q := Table.read LaunchQueue.empty s.queues n
    if q.state ≠ .opened ∨ q.tail = q.head then s.examine rest
    else
      match s.readHead q with
      | .refused code crec s => let (s, r) := (s.refuseHead n q code crec).examine rest; (s, { r with changed := true })
      | .waiting s => s.examine rest
      | .notYet s => let (s, r) := s.examine rest; (s, { r with notYet := true })
      | .ready r d s =>
        let (s, l) := s.examine rest
        (s, if s.takeLogged q then { l with ready := (n, q, r, d) :: l.ready } else l)

/-- The ready record of highest PRIO, the earliest in the order among equals. -/
def bestRecord : List (Nat × LaunchQueue × LaunchRecord × Descriptor) → Option (Nat × LaunchQueue × LaunchRecord × Descriptor)
  | [] => none
  | x :: rest =>
    match bestRecord rest with
    | none => some x
    | some y => if y.2.2.1.prio ≤ x.2.2.1.prio then some x else some y

/-- Is the update of a refused record still to be performed? It is part of the examination of its head (R110). -/
def State.refusalOpen (s : State) : Bool := s.updates.any (fun p => p.2.kh.isNone && p.2.waits.isEmpty && p.2.queue.isSome)

/-- BINDING_PASS (R109): one round of the pass that is due. Every head is examined, then the best of the ready ones is taken. The pass goes on
while a round changes a queue; while every handle is in use it refuses heads and takes nothing (R110, R126), and while binding has stopped it does not run
(19 R435). -/
def execBindingPass (s : State) : Host.Outcome State Fault Refusal :=
  .next (if !s.passDue ∨ s.stopped ∨ s.refusalOpen then s
    else
      let (s, r) := s.examine s.queueOrder
      if r.notYet || s.refusalOpen then s
      else
        match bestRecord r.ready, s.freeHandle with
        | some (n, q, rec_, d), some kh => s.takeHead n q rec_ d kh
        | _, _ => { s with passDue := r.changed })

end Sys2Proof.Machine
end

