-- ==== Sys2Proof/Machine/Loader.lean ====
section
/-! DEFINITION. Seats (05 R111, 06 R119 to R122, R127, R128): bind entries, the loaders of the seats, the start of a loaded group's items,
and KERNEL_DONE. -/

namespace Sys2Proof.Machine

/-! ### Bind entries (R111) -/

def State.bindEntry (s : State) (seat : Nat) : BindEntry := Table.read BindEntry.clear s.bindTable seat

/-- Bytes 0x00 to 0x0F of an entry. -/
def BindEntry.bytes (b : BindEntry) : List W8 :=
  leBytes 4 (2147483648 * boolNat b.valid + b.stage % 8 * 2 ^ 28 + b.count % 65536 * 4096 + b.kh % 4096) ++
    leBytes 4 (b.gangId % 65536 * 65536 + b.rank % 32) ++ leBytes 8 b.seq

/-- BIND (18 R401). -/
def bindEntryLog (seat : Nat) (b : BindEntry) : HcEntry := overlay (entryOf 0x0A [(2, 2, seat)]) 8 b.bytes

/-- Does a group hold a seat? -/
def Group.holdsSeat (g : Group) (core seat : Nat) : Bool :=
  match g.place with
  | .seat c k => c == core && k == seat
  | .landing _ _ _ => false

/-- The group that holds a seat; a killed one holds it until its commands under way have ended (R124). -/
def State.seatGroup (s : State) (core seat : Nat) : Option Nat :=
  match s.groups.find? (fun p => p.2.holdsSeat core seat) with
  | some p => some p.1
  | none => (s.killed.find? (fun p => p.2.1.holdsSeat core seat)).map Prod.fst

/-- Scratchpad bytes allocated on a core. -/
def State.scratchUsed (s : State) (core : Nat) : Nat :=
  (s.groups.map (fun p => if p.2.core = core then p.2.scratchBytes else 0)).sum +
    (s.killed.map (fun p => if p.2.1.core = core then p.2.1.scratchBytes else 0)).sum

/-- Slots that a kernel's group counts for (R127). -/
def Kernel.weight (k : Kernel) : Nat := if k.desc.duplex then 2 * k.desc.groupSlots else k.desc.groupSlots

/-- Is there room on a core for `n` groups of a kernel (R127)? -/
def State.room (s : State) (core n : Nat) (k : Kernel) : Bool :=
  decide (s.residentSlots core + n * k.weight ≤ 2048) && decide (s.scratchUsed core + n * k.desc.scratch ≤ 524288)

/-- Does a kernel belong to gangs (R120)? -/
def Kernel.hasGangs (k : Kernel) : Bool := k.desc.gangGroups != 1 || k.desc.gangDevs != 1

/-- Does a stage's queue hold an index? -/
def Kernel.holds (k : Kernel) (stage : Nat) : Bool := decide (k.next.getD stage 0 < k.limit.getD stage 0)

/-- May kernels of a context take seats: it runs, and no save or teardown is in progress (R90, R93)? -/
def State.binds (s : State) (ctx : Nat) : Bool :=
  ((s.context ctx).state == .active || (s.context ctx).state == .faulted) && !s.saving ctx && !s.stopped

/-- What the valid entries of a core's seats will take beyond what the seats hold now: slots and scratchpad. -/
def State.boundExtra (s : State) (core : Nat) : Nat × Nat :=
  let extra (seat : Nat) : Nat × Nat :=
    let b := s.bindEntry (4 * core + seat)
    match b.valid, s.kernel? b.kh with
    | true, some k =>
      let held := (s.seatGroup core seat).bind s.group?
      (k.weight - (held.map (fun g => if s.duplex g then 2 * g.slots else g.slots)).getD 0,
        k.desc.scratch - (held.map Group.scratchBytes).getD 0)
    | _, _ => (0, 0)
  (((upTo 4).map (fun n => (extra n).1)).sum, ((upTo 4).map (fun n => (extra n).2)).sum)

/-- Is there room on a core for `n` groups of a kernel beside everything that is bound there (R120)? -/
def State.roomBeside (s : State) (core n : Nat) (k : Kernel) : Bool :=
  decide (s.residentSlots core + (s.boundExtra core).1 + n * k.weight ≤ 2048) &&
    decide (s.scratchUsed core + (s.boundExtra core).2 + n * k.desc.scratch ≤ 524288)

/-- Does a gang member bound to a seat of a core wait to load? -/
def State.gangWaits (s : State) (core : Nat) : Bool :=
  (upTo 4).any (fun n => (s.bindEntry (4 * core + n)).valid && (s.bindEntry (4 * core + n)).gangId != 0 && (s.seatGroup core n).isNone)

/-- Does a stage hold indices that its valid entries will not draw? A multi-device gang's stage forms one gang only (R121). -/
def State.wantsSeat (s : State) (kh : Nat) (k : Kernel) (stage : Nat) : Bool :=
  let entries := (s.bindTable.filter (fun p => p.2.valid && p.2.kh == kh && p.2.stage == stage)).map (fun p => p.2.count)
  k.holds stage && (k.desc.gangDevs == 1 || k.nextGang.getD stage 0 == 0) && entries.all (fun c => c != 0) &&
    decide (entries.sum * k.desc.groupSlots < k.limit.getD stage 0 - k.next.getD stage 0)

/-- The free seats with room for a group of a kernel. -/
def State.seatsFor (s : State) (k : Kernel) : List Nat :=
  (upTo 4096).filter (fun x => !(s.bindEntry x).valid && (s.seatGroup (x / 4) (x % 4)).isNone && s.roomBeside (x / 4) 1 k)

/-- Firmware gives seats in descending PRIO, and in order of take among equals (R111): could a kernel that comes first take a seat of this
core, or its gang all its seats? -/
def State.overtakes (s : State) (core : Nat) (k : Kernel) : Bool :=
  s.kernels.any (fun p =>
    (decide (k.prio < p.2.prio) || (p.2.prio == k.prio && decide (p.2.order < k.order))) && !p.2.state.ended && !p.2.asked &&
      s.binds p.2.ctx && !(s.hind p.2.ctx).replaying && (upTo p.2.desc.stages.length).any (s.wantsSeat p.1 p.2) && s.room core 1 p.2 &&
      (!p.2.hasGangs || decide (p.2.desc.gangGroups ≤ (s.seatsFor p.2).length)))

/-- The entries that a choice of firmware writes, with their seats. -/
def bindEntries (b : BindChoice) (seq gangix : Nat) : List (Nat × BindEntry) :=
  (b.seats.zip (upTo b.seats.length)).map (fun p =>
    (p.1, { valid := true, stage := b.stage, count := b.count, kh := b.kh, gangId := b.gangId, rank := p.2, seq := seq + p.2
            gangix := gangix }))

/-- Does a logged BIND entry stand for an entry of a replayed kernel (18 R403, R408)? -/
def Hindcast.bindMatches (h : Hindcast) (k : Kernel) (p : Nat × BindEntry) (e : HcEntry) : Bool :=
  let seat := leAt e 2 2
  let w := leAt e 8 4
  4 * h.moved (seat / 4) + seat % 4 == p.1 && w / 2 ^ 28 % 8 == p.2.stage && w / 4096 % 65536 == p.2.count && w % 4096 == k.logKh &&
    leAt e 0x0C 4 % 32 == p.2.rank && decide (leAt e 0x0E 2 = 0) == decide (p.2.gangId = 0)

/-- A BIND entry that firmware wrote for a seat; with VALID 0 it is the mark of a restored group (log 10). -/
def isBind (e : HcEntry) : Bool := leAt e 0 1 == 0x0A && leAt e 8 4 / 2 ^ 31 == 1

/-- Are the entries the next ones of the log? -/
def State.bindsLogged (s : State) (k : Kernel) (entries : List (Nat × BindEntry)) : Bool :=
  let h := s.hind k.ctx
  let log := ((Table.read [] h.log recFirmware).filter isBind).take entries.length
  log.length == entries.length && (entries.zip log).all (fun p => h.bindMatches k p.1 p.2)

/-- Does a live gang carry a number in its entries (R111)? A gang lives from its entries on until its last member retires. -/
def State.gangNumbered (s : State) (n : Nat) : Bool :=
  s.bindTable.any (fun p => p.2.gangId == n &&
    (p.2.valid || s.groups.any (fun q => q.2.kh == p.2.kh && q.2.stage == p.2.stage && q.2.gangix.toNat == p.2.gangix)))

/-- May firmware write these entries: the seats' entries are not valid, the gang's seats are free and have room, and no gang waits for the room
that the entry will take (R111, R120, R121)? Entries of a kernel without gangs may name a stage whose queue is empty (R123). -/
def State.mayBind (s : State) (b : BindChoice) (k : Kernel) : Bool :=
  let seats := b.seats
  let cores := (seats.map (fun x => x / 4)).eraseDups
  !k.state.ended && !k.asked && s.binds k.ctx && decide (b.stage < k.desc.stages.length) &&
    seats.all (fun x => decide (x < 4096) && !(s.bindEntry x).valid) && seats.eraseDups.length == seats.length &&
    (if k.hasGangs then
      seats.length == k.desc.gangGroups && b.count == 1 && b.gangId != 0 && decide (b.gangId < 65536) &&
        !s.gangNumbered b.gangId && k.holds b.stage && (k.desc.gangDevs == 1 || k.nextGang.getD b.stage 0 == 0) &&
        seats.all (fun x => (s.seatGroup (x / 4) (x % 4)).isNone) &&
        cores.all (fun c => s.roomBeside c (seats.filter (fun x => x / 4 == c)).length k)
    else seats.length == 1 && b.gangId == 0 && decide (b.count < 65536) && cores.all (fun c => !s.gangWaits c || s.roomBeside c 1 k)) &&
    (if (s.hind k.ctx).replaying then s.bindsLogged k (bindEntries b 0 0) else !s.overtakes (seats.headD 0 / 4) k)

/-- BIND_SEAT (R111, R123): firmware writes the bind entry of one seat, or those of one gang. -/
def execBindSeat (bind : BindChoice) (s : State) : Host.Outcome State Fault Refusal :=
  .next (match s.kernel? bind.kh with
    | none => s
    | some k =>
      if !s.mayBind bind k then s
      else
        let entries := bindEntries bind s.bindSeq (k.nextGang.getD bind.stage 0)
        let s := entries.foldl (fun (s : State) p =>
          let s := { s with
            bindTable := Table.put s.bindTable p.1 p.2
            bindSeq := s.bindSeq + 1 }
          if (s.hind k.ctx).replaying then s.useLogged k.ctx recFirmware isBind
          else s.logEntry k.ctx recFirmware (bindEntryLog p.1 p.2)) s
        s.modKernel bind.kh (fun k => { k with
          state := if k.state = .queued then .loading else k.state
          nextGang := if k.hasGangs then k.nextGang.set bind.stage ((k.nextGang.getD bind.stage 0 + 1) % 2 ^ 32) else k.nextGang }))

/-- A revoke (R111): firmware clears VALID of a seat's entry by compare on SEQ, where it carries no gang. Firmware revokes nothing of a context
that Hindcast logs (log 10). -/
def State.revoke (s : State) (seat seq : Nat) : State :=
  let b := s.bindEntry seat
  if b.valid ∧ b.seq = seq ∧ b.gangId = 0 ∧ ((s.kernel? b.kh).map (fun k => (s.hind k.ctx).mode)).getD .off = .off then
    { s with bindTable := Table.put s.bindTable seat { b with valid := false } }
  else s

/-! ### Loading (R111, R119, R127, 07 R137) -/

/-- The queue registers of a group of a stage (R119). -/
def Descriptor.bindsOf (d : Descriptor) (stage : Nat) : Vector Binding 16 :=
  Vector.ofFn (fun n =>
    let b := d.queues.getD n.val { kind := 0, index := 0 }
    let live : Bool := match b.kind with
      | 4 => (d.channels[b.index]?).any (fun c => c.src == stage)
      | 5 => (d.channels[b.index]?).any (fun c => c.dst == stage)
      | _ => true
    if live then b else { kind := 0, index := 0 })

/-- A staging slot with nothing in it (15 R336). -/
def Staging.empty : Staging := { words := [], state := 0, stamp := 0, away := 0 }

/-- The staging slots of a group's send bindings, and the rings of its stage's channels (R334, R336). -/
def stagingOf (binds : Vector Binding 16) : Table Staging :=
  ((upTo 16).zip binds.toList).filterMap (fun p => if p.2.kind = 4 then some (p.1, Staging.empty) else none)
def Descriptor.ringsOf (d : Descriptor) (stage : Nat) : Table Ring :=
  ((upTo d.channels.length).zip d.channels).filterMap (fun p => if p.2.dst = stage then some (p.1, { landed := 0, popped := 0, stamp := 0, ended := false, far := false }) else none)

/-- A group as its load begins, without its items: scratchpad zero, granules Empty, tiles none (07 R137, 12 R254, R258). -/
def loadedGroup (kh : Nat) (k : Kernel) (b : BindEntry) (core seat : Nat) : Group :=
  let groupix := k.nextGroup.getD b.stage 0
  let binds := k.desc.bindsOf b.stage
  { kh := kh, ctx := k.ctx, stage := b.stage, place := .seat core seat, slots := k.desc.groupSlots, state := .loading, items := []
    closed := 0, groupix := BitVec.ofNat 32 groupix, gangix := BitVec.ofNat 32 (if k.hasGangs then b.gangix else groupix)
    gangrank := if k.hasGangs then BitVec.ofNat 11 (32 * k.rank + b.rank) else 0, s := k.sRegisters, badS := [], shadowS := k.sRegisters
    mstat := 0, scratchBytes := k.desc.scratch, scratch := [], full := [], spadPoison := [], barriers := Vector.replicate 16 Barrier.open
    tiles := [], matrixIssue := 0, binds := binds, staging := stagingOf binds, rings := k.desc.ringsOf b.stage, collectives := 0, barStamp := 0
    throttled := false, guarded := none, landVa := 0, started := false, sOrder := 0, counted := (0, 0), completed := [], lastWave := [], stopAsked := false }

/-- The seats whose entries carry a gang of a kernel's stage, and the groups of it that are still loading: is the gang complete on this
device (R120)? -/
def State.gangLoaded (s : State) (g : Group) : Bool :=
  match s.kernel? g.kh with
  | none => true
  | some k =>
    !k.hasGangs ||
      (!s.bindTable.any (fun p => p.2.valid && p.2.kh == g.kh && p.2.stage == g.stage && p.2.gangix == g.gangix.toNat) &&
        s.groups.all (fun p => p.2.kh != g.kh || p.2.stage != g.stage || p.2.gangix != g.gangix || p.2.state != .loading))

/-- Start (R123): an item of a kernel starts at an entry. -/
def Kernel.start (k : Kernel) : Kernel :=
  if k.state = .loading then { k with state := if k.empty then .draining else .running } else k

/-- The members of a gang that has loaded start. -/
def State.startGang (s : State) (g : Group) : State :=
  if s.gangLoaded g then
    { (s.modKernel g.kh Kernel.start) with
      groups := s.groups.mapAll (fun _ q =>
        if q.kh = g.kh ∧ q.stage = g.stage ∧ (q.gangix = g.gangix) ∧ q.state ≠ .loading then { q with started := true } else q) }
  else s

/-- A loader clears its entry: the stage is exhausted. Members of the gang that have loaded may start. -/
def State.exhausted (s : State) (x : Nat) (b : BindEntry) : State :=
  let s := { s with bindTable := Table.put s.bindTable x { b with valid := false } }
  match s.groups.find? (fun p => p.2.kh == b.kh && p.2.stage == b.stage && p.2.gangix.toNat == b.gangix && !p.2.started) with
  | some (_, g) => s.startGang g
  | none => s

/-- The entry after one load (R111). -/
def BindEntry.loaded (b : BindEntry) : BindEntry :=
  if b.count = 0 then b else { b with
    count := b.count - 1
    valid := decide (b.count ≠ 1) }

/-- Is an entry the draw of a group's load? -/
def isLoadDraw (stage : Nat) (e : HcEntry) : Bool := leAt e 0 1 == 4 && leAt e 4 4 == 0 && leAt e 12 4 == stage

/-- The GROUPIX of the next group of a stage that loads on a core (07 R138). Under replay it is the one that the core's cluster has logged next;
with none the loader waits (18 R403). -/
def State.nextGroupix (s : State) (core : Nat) (k : Kernel) (stage : Nat) : Option Nat :=
  let h := s.hind k.ctx
  if h.replaying then ((Table.read [] h.log (clusterOf core)).find? (isLoadDraw stage)).map (fun e => leAt e 8 4)
  else some (k.nextGroup.getD stage 0)

/-- A kernel numbers a group. -/
def Kernel.numbered (k : Kernel) (stage groupix : Nat) : Kernel :=
  { k with nextGroup := k.nextGroup.set stage (max (k.nextGroup.getD stage 0) (groupix + 1) % 2 ^ 32) }

/-- LOADER_LOAD (R111): the seat's loader acts when the seat is free, its entry valid and room stands. -/
def execLoaderLoad (core seat : Nat) (s : State) : Host.Outcome State Fault Refusal :=
  .next (
    let x := 4 * core + seat
    let b := s.bindEntry x
    match s.kernel? b.kh with
    | none => s
    | some k =>
      if 1024 ≤ core ∨ 4 ≤ seat ∨ !b.valid ∨ (s.seatGroup core seat).isSome ∨ k.state.ended ∨ s.saving k.ctx then s
      else
      match s.nextGroupix core k b.stage with
      | none => if k.holds b.stage then s else s.exhausted x b
      | some groupix =>
      if !k.holds b.stage && !(s.hind k.ctx).replaying then s.exhausted x b
      else if !s.room core 1 k then s
      else
        let gid := s.nextId
        let s := { s with
          groups := Table.put s.groups gid (loadedGroup b.kh { k with nextGroup := k.nextGroup.set b.stage groupix } b core seat)
          bindTable := Table.put s.bindTable x b.loaded
          nextId := gid + 1 }
        let s := s.modKernel b.kh (fun k => k.numbered b.stage groupix)
        let (l, s) := s.drawFor gid k.desc.groupSlots
        s.enterItems gid k true ((upTo l.length).zip l))

/-- GROUP_LOAD_FINISHED (R127, R147): the group runs, or drains where the load drew fewer items than its slots. -/
def execGroupLoadFinished (core seat : Nat) (s : State) : Host.Outcome State Fault Refusal :=
  .next (match s.seatGroup core seat with
    | none => s
    | some gid =>
      match s.group? gid with
      | none => s
      | some g =>
        if g.state ≠ .loading then s
        else
          let guarded := ((s.kernel? g.kh).map (fun k => k.desc.guarded)).getD false
          let s := s.modGroup gid (fun g =>
            let g := { g with state := if g.items.length < g.slots then .draining else .running }
            if guarded then { g with guarded := some (Guarded.take g) } else g)
          s.startGang g)

/-! ### The end (R124, R128, R134) -/

/-- Has the kernel's counter tree reported every item ended, and, at a coordinator, every member DONE? -/
def State.kernelFinished (s : State) (k : Kernel) : Bool :=
  k.state == .draining && k.ended == k.total &&
    (k.desc.gangDevs == 1 || k.rank != 0 ||
      (match Table.get? s.gangs k.gangN with
       | some g => (upTo g.devs).all (fun r => r == 0 || g.done.contains r)
       | none => false))

/-- KERNEL_DONE (R123, R124, R128, R134): Complete, and at a member of a gang DONE to its coordinator. -/
def execKernelDone (kh : Nat) (s : State) : Host.Outcome State Fault Refusal :=
  .next (match s.kernel? kh with
    | none => s
    | some k =>
      if !s.kernelFinished k then s
      else
        let s := s.performEnd kh .complete
        if k.gangN = 0 then s
        else if k.rank = 0 then { s with gangs := Table.erase s.gangs k.gangN }
        else s.tellRank k.ctx 0 6 k.gangN)

end Sys2Proof.Machine
end

