-- ==== Sys2Proof/Machine/Chunks.lean ====
section
/-! DEFINITION. Hindcast at work (18): the commands of R389, chunks closing and going to the ring (R397 to R399, R406), a replay's start,
its chunk ends and its end (R403 to R408, R469), and the four forms (R409, R410). -/

namespace Sys2Proof.Machine

/-! ### Chunks of a recording -/

/-- Why a recorder's open chunk must close, as FLAGS shows it: COUNT, FULL (R397). -/
def Recorder.closeFlags (k : Recorder) (r : Nat) : Nat :=
  boolNat (decide (r < 128) && decide (65536 ≤ k.ret.toList.sum)) + 2 * boolNat (decide (1024 ≤ k.entries.length))

/-- Every open chunk of a context closes (Suspend and Stop). Recorders that have logged and counted nothing write no chunk. -/
def State.closeAll (s : State) (ctx flags : Nat) : State :=
  ((s.hind ctx).recorders.map Prod.fst).foldl (fun s r => s.closeChunk ctx r flags) s

/-! ### The ring (R398) -/

/-- CHUNK_SPILL (R398). -/
def execChunkSpill (ctx : Nat) (s : State) : Host.Outcome State Fault Refusal := .next (s.spill ctx)

/-- Stop of a recording, and hcstop: every open chunk closes, then an END record follows, and the mode is off (R389, R410). The records
go to the ring as R398 gives, in steps of their own. -/
def State.stopRecording (s : State) (ctx : Nat) : State :=
  ((s.closeAll ctx 16).closeChunk ctx recFirmware 16).modHind ctx (fun h => { h with mode := .off })

/-! ### Chunk ends under replay -/

/-- Has no cluster of the context a logged chunk left? -/
def Hindcast.exhausted (h : Hindcast) : Bool := (upTo 128).all (fun c => !(Table.read [] h.log c).any isMark)

/-- The replay of a context passes the end of a segment: every recorder goes on with what the log holds after it, and ordinals restart
(R395, R407). -/
def Hindcast.passSegment (h : Hindcast) : Hindcast :=
  { h with
    log := h.log.mapAll (fun _ es => (es.dropWhile (fun e => !isSegmentEnd e)).drop 1)
    recorders := h.recorders.mapAll (fun _ k => { k with ordinals := [] }) }

/-- May the segment's end be passed: every cluster stands at it, and every access of the context has been served? -/
def State.segmentDone (s : State) (ctx : Nat) : Bool :=
  let h := s.hind ctx
  (upTo 128).all (fun c => !(h.segment c).any isMark) && h.log.any (fun p => p.2.any isSegmentEnd) &&
    s.accesses.all (fun p => p.2.ctx != ctx)

/-- The mark of a restored group in the log of the firmware: a BIND entry with VALID 0 and the GROUPIX in SEQ, as GROUP_RESTORE logs it
(R407, log 10). -/
def isRestore (e : HcEntry) : Bool := leAt e 0 1 == 0x0A && leAt e 8 4 / 2 ^ 31 == 0

/-- The mark of a restored kernel: its KSEQ with its new handle, logged with an LQ of 16. -/
def isRetake (e : HcEntry) : Bool := leAt e 0 1 == 3 && leAt e 1 1 == 3 && leAt e 16 8 == 16

/-- The handles that the log gives the context's kernels after a Resume that it holds. -/
def State.followHandles (s : State) (ctx : Nat) : State :=
  let log := (s.hind ctx).segment recFirmware
  { s with kernels := s.kernels.mapAll (fun _ k =>
      match if k.ctx = ctx then log.find? (fun e => isRetake e && leAt e 8 8 == (partyOf 4 k.kseq 0 0).toNat) else none with
      | some e => { k with logKh := leAt e 24 8 }
      | none => k) }

/-- The place that the log gives a group after a Resume that it holds (R407). -/
def State.followPlace (s : State) (ctx : Nat) (g : Group) : Place :=
  let h := s.hind ctx
  let log := h.segment recFirmware
  match s.kernel? g.kh with
  | none => g.place
  | some k =>
    match g.place with
    | .seat _ _ =>
      (match log.find? (fun e => isRestore e && leAt e 8 4 % 4096 == k.logKh && leAt e 8 4 / 2 ^ 28 % 8 == g.stage &&
          leAt e 16 8 == g.groupix.toNat) with
       | some e => .seat (h.moved (leAt e 2 2 / 4)) (leAt e 2 2 % 4)
       | none => g.place)
    | .landing _ die order =>
      (match log.find? (fun e => leAt e 0 1 == 0x0B && g.items.any (fun p => leAt e 8 8 == (itemParty k g p.2).toNat)) with
       | some e => .landing (h.moved (leAt e 2 2)) die order
       | none => g.place)

/-- The entries of a segment of the firmware's log that `followPlace` and `followHandles` have used. -/
def State.followed (s : State) (ctx : Nat) (e : HcEntry) : Bool :=
  isRestore e || isRetake e ||
    (leAt e 0 1 == 0x0B && s.groups.any (fun p => p.2.ctx == ctx && p.2.isLanding && (match s.kernel? p.2.kh with
      | some k => p.2.items.any (fun q => leAt e 8 8 == (itemParty k p.2 q.2).toNat)
      | none => false)))

/-- A segment's end is passed (R395, R407): groups and kernels go on where the log has them. -/
def State.nextSegment (s : State) (ctx : Nat) : State :=
  let s := (s.modHind ctx Hindcast.passSegment).followHandles ctx
  let s' := { s with groups := s.groups.mapAll (fun _ g => if g.ctx = ctx then { g with place := s.followPlace ctx g } else g) }
  s'.modHind ctx (fun h =>
    let log := Table.read [] h.log recFirmware
    let n := (h.segment recFirmware).length
    { h with log := Table.put h.log recFirmware ((log.take n).filter (fun e => !s.followed ctx e) ++ log.drop n) })

/-- A cluster chunk has been executed under replay: its RET counts, its cut and its store stream are compared with the log's (R405, R408). -/
def State.endReplayChunk (s : State) (ctx r : Nat) (mark : HcEntry) : State :=
  let h := s.hind ctx
  let k := h.recorder r
  let stream := (k.store.foldl (fun acc x => insertStore x acc) []).flatten
  let cuts := (h.chunk r).filter (fun e => leAt e 0 1 == 0x0C)
  let present := s.presentOn ctx r
  let same := (upTo 8).all (fun j => k.ret.toList.getD j 0 == leAt mark (16 + 8 * j) 8) &&
    cuts.all (fun e => Table.read 0 k.cuts (leAt e 8 8) == leAt e 4 4 && present.contains (BitVec.ofNat 64 (leAt e 8 8))) &&
    present.all (fun p => cuts.any (fun e => leAt e 8 8 == p.toNat))
  if !same then s.endReplay ctx 4
  else if shake256 32 stream ≠ mark.drop 80 then
    if h.mode = .verify then
      (s.contextError { cls := 4, cause := 0, ctx := ctx, tag := 0, who := 0, loc := leAt mark 4 4, info := 0
                        source := leAt mark 2 2 }).endReplay ctx 7
    else s.endReplay ctx 4
  else
    let s := s.modHind ctx (fun h => { (h.modRecorder r (fun k => { k with
        ret := Vector.replicate 8 0
        localNo := k.localNo + 1
        store := []
        cuts := [] })) with
      log := Table.put h.log r ((h.chunk r).filter (fun e => leAt e 0 1 != 0x0C) ++ (Table.read [] h.log r).drop ((h.chunk r).length + 1)) })
    if (s.hind ctx).exhausted then s.endReplay ctx (s.hind ctx).ending else s

/-- The first chunk mark of a cluster's present segment, with all of whose item-instructions executed. -/
def State.chunkDone (s : State) (ctx r : Nat) : Option HcEntry :=
  let h := s.hind ctx
  match (h.segment r).find? isMark with
  | some m => if ((upTo 8).map (fun j => leAt m (16 + 8 * j) 8)).sum ≤ (h.recorder r).ret.toList.sum then some m else none
  | none => none

/-- CHUNK_CLOSE (R397, R405): the open chunk of a recorder closes where it must; under replay a cluster's chunk ends where the log's does. -/
def execChunkClose (ctx recorder : Nat) (s : State) : Host.Outcome State Fault Refusal :=
  .next (
    let h := s.hind ctx
    match h.mode with
    | .off => s
    | .record =>
      let flags := (h.recorder recorder).closeFlags recorder
      if flags = 0 then s else s.closeChunk ctx recorder flags
    | _ =>
      if 128 ≤ recorder then s
      else
        match s.chunkDone ctx recorder with
        | some m => s.endReplayChunk ctx recorder m
        | none =>
          if s.segmentDone ctx then s.nextSegment ctx
          else if h.exhausted && !h.armed && (s.context ctx).state == .active then s.endReplay ctx h.ending
          else s)

/-! ### The commands (R389) -/

/-- The layout of an HcCmd (R389). -/
def hcCommandOk (c : List W8) : Bool :=
  let a := leAt c 1 1
  let play := a == 2 || a == 3
  decide (1 ≤ commandCtx c) && decide (commandCtx c ≤ 1023) && (play || zeroAt c 4 4) && (play || a == 4 || zeroAt c 8 8) &&
    (play || zeroAt c 0x10 8) && decide (leAt c 0x1C 1 < 4) && zeroAt c 0x1F 1 &&
    (if a = 3 then decide (leAt c 0x1D 1 ≤ 15) && decide (leAt c 0x1E 1 ≤ 7) && (leAt c 0x1D 1 != 0 || leAt c 0x1E 1 != 0)
     else zeroAt c 0x1D 2)

/-- An action of HcCmd, on a context that exists and has a ring. -/
def State.hcCommand (s : State) (action : Nat) (f : Nat → List W8 → State → State × Nat) : State :=
  s.runCommand 0x50 (fun c => leAt c 1 1 == action) (fun c s =>
    let ctx := commandCtx c
    if !hcCommandOk c || ((action == 2 || action == 3) && !s.areaOk c) then (s, stBadCmd)
    else if (s.context ctx).state = .tornDown then (s, stNoCtx)
    else if !(s.context ctx).hcAllow then (s, stNoRing)
    else f ctx c s)

/-- May the mode be changed to record or replay? -/
def State.hcIdle (s : State) (ctx : Nat) : Bool :=
  ((s.context ctx).state == .configured || (s.context ctx).state == .suspended) && (s.hind ctx).mode == .off

/-- Record (R389, R392). -/
def execHcRecord (s : State) : Host.Outcome State Fault Refusal :=
  .next (s.hcCommand 0 (fun ctx c s =>
    if !s.hcIdle ctx then (s, stState)
    else
      (s.modHind ctx (fun h => { h with
        mode := .record
        head := 0
        tail := 0
        hcseq := 0
        lossy := (word32 c 0x1C).getLsbD 0
        lossyNext := (word32 c 0x1C).getLsbD 0
        stopen := (word32 c 0x1C).getLsbD 1
        gap := false
        gaps := 0
        gapNext := false
        kseq := 0
        recorders := []
        closing := []
        ring := []
        log := []
        armed := true }), stDone)))

/-- The groups of a context go on after a stop that left them in place (R90), and its queues bind again. -/
def State.resumeInPlace (s : State) (ctx : Nat) : State :=
  let s := { s with groups := s.groups.mapAll (fun _ g =>
      if g.ctx = ctx then { g with
        stopAsked := false
        items := g.items.mapAll (fun _ it => { it with lost := [] }) }
      else g) }
  let s := if (s.context ctx).state = .active then s.enableQueues ctx else s
  if s.kernels.any (fun p => p.2.ctx == ctx && p.2.state == .faulted) then s.contextFault ctx else s

/-- Stop (R389, R405, R411). Groups that a breakpoint without room for its image has left stopped go on. -/
def execHcStop (s : State) : Host.Outcome State Fault Refusal :=
  .next (s.hcCommand 1 (fun ctx _ s =>
    match (s.hind ctx).mode with
    | .off =>
      if !s.saving ctx && s.groups.any (fun p => p.2.ctx == ctx && p.2.stopAsked) then (s.resumeInPlace ctx, stDone) else (s, stState)
    | .record => (s.stopRecording ctx, stDone)
    | _ => (s.modHind ctx (fun h => { h with
        mode := .off
        result := 6
        log := [] }), stDone)))

/-- Replay and Verify (R389, R408). -/
def State.startReplay (s : State) (mode : HcMode) (ctx : Nat) (c : List W8) : State × Nat :=
  if !s.hcIdle ctx || (s.hind ctx).ring.all (fun p => decide (p.1 < (s.hind ctx).head)) then (s, stState)
  else
    (s.modHind ctx (fun h => { h with
      mode := mode
      lossy := (word32 c 0x1C).getLsbD 0
      lossyNext := (word32 c 0x1C).getLsbD 0
      stopen := (word32 c 0x1C).getLsbD 1
      stopSeq := leAt c 4 4
      area := leAt c 8 8
      areaSize := leAt c 0x10 8
      rot := leAt c 0x1D 1
      crot := leAt c 0x1E 1
      kseq := 0
      armed := true }), stDone)

/-- Replay. -/
def execHcReplay (s : State) : Host.Outcome State Fault Refusal := .next (s.hcCommand 2 (fun ctx c s => s.startReplay .replay ctx c))

/-- Verify. -/
def execHcVerify (s : State) : Host.Outcome State Fault Refusal := .next (s.hcCommand 3 (fun ctx c s => s.startReplay .verify ctx c))

/-- Release (R389). -/
def execHcRelease (s : State) : Host.Outcome State Fault Refusal :=
  .next (s.hcCommand 4 (fun ctx c s =>
    let h := s.hind ctx
    let a := leAt c 8 8
    if a < h.head ∨ h.tail < a then (s, stBadCmd)
    else
      (s.modHind ctx (fun h => { h with
        head := a
        ring := h.ring.filter (fun p => decide (a ≤ p.1)) }), stDone)))

/-! ### The forms (R410) -/

/-- hcmark for one item. -/
def hcmarkItem (o : ImmForm) (e : Env) (s : State) : State :=
  s.withGroup e.gid (fun g =>
    let i : Instr := .hcmark o
    let value : W64 := (e.it.readV o.a).zeroExtend 64
    let detail : W64 := o.imm.zeroExtend 64
    let party := s.partyOfItem g e.it
    let r := clusterOf g.core
    let h := s.hind g.ctx
    if h.replaying then
      let mine (x : HcEntry) : Bool := leAt x 0 1 == 3 && leAt x 8 8 == party.toNat
      match (h.segment r).find? mine with
      | some x =>
        if leAt x 1 1 = 7 ∧ leAt x 16 8 = value.toNat ∧ leAt x 24 8 = detail.toNat then e.finish i (.done e.it) (s.useLogged g.ctx r mine)
        else e.finish i (.done e.it) (s.endReplay g.ctx 4)
      | none => e.finish i (.done e.it) (s.endReplay g.ctx 4)
    else e.finish i (.done e.it) (s.logEntry g.ctx r (valueEntry 7 ((h.recorder r).ordinal party) party value detail)))

/-- hcmark -/
def execHcmark (o : ImmForm) (s : State) : Host.Outcome State Fault Refusal := .next (s.foldWave (.hcmark o) false (hcmarkItem o))

/-- The number of the chunk that an hcflush closes, where the wave has an item that has not closed it yet: once for the wave. -/
def State.flushWave (s : State) (i : Instr) : State × Nat :=
  match s.group? s.wave.gid with
  | none => (s, 0)
  | some g =>
    let r := clusterOf g.core
    let n := ((s.hind g.ctx).recorder r).localNo
    let starts := (s.participants i).any (fun e => match e.was with | .flush _ => false | _ => true)
    if (s.hind g.ctx).mode = .record ∧ starts then (s.closeChunk g.ctx r 4, n) else (s, n)

/-- hcflush: the chunk closes, and each item waits until its record is Spilled. -/
def execHcflush (o : Form) (s : State) : Host.Outcome State Fault Refusal :=
  let i : Instr := .hcflush o
  let (s, n) := s.flushWave i
  .next (s.commitWave i false (fun e s => s.withGroup e.gid (fun g =>
    match e.was with
    | .flush _ => e.finish i (.done e.it) s
    | _ => if (s.hind g.ctx).mode = .record then e.finish i (.wait e.it (.flush n)) s else e.finish i (.done e.it) s)))

/-- The trap of hcstop. -/
def hcStopTrap (code : W16) : Trap := { cause := causeHcStop, addr := 0, info := code.zeroExtend 32 }

/-- hcstop -/
def execHcstop (o : ImmForm) (s : State) : Host.Outcome State Fault Refusal :=
  let i : Instr := .hcstop o
  .next (match s.group? s.wave.gid with
    | none => s
    | some g =>
      let h := s.hind g.ctx
      if h.replaying && h.stopen && !(s.participants i).isEmpty then
        (s.modGroup s.wave.gid (fun g => { g with items := g.items.mapAll (fun k it =>
          if s.wave.slots.contains k then { it with wait := .again } else it) })).endReplay g.ctx 3
      else
        s.commitWave i false (fun e s => s.withGroup e.gid (fun g =>
          if (s.hind g.ctx).mode = .record ∧ (s.hind g.ctx).stopen then
            e.finish i (.trap e.it (hcStopTrap o.imm)) (s.stopRecording g.ctx)
          else e.finish i (.done e.it) s)))

/-- What hcread reads. -/
def State.hcreadValue (s : State) (g : Group) (sel : Nat) : Nat :=
  let h := s.hind g.ctx
  let k := h.recorder (clusterOf g.core)
  match sel with
  | 0 => k.localNo
  | 1 => k.ret[g.core % 8]
  | 2 => h.gaps
  | _ => (s.context g.ctx).hcBud - k.units

/-- hcread -/
def execHcread (o : SelForm) (s : State) : Host.Outcome State Fault Refusal :=
  .next (s.foldWave (.hcread o) false (fun e s => s.withGroup e.gid (fun g =>
    let (v, s) := s.loggedItemValue e.gid e.slot 6 (BitVec.ofNat 64 (s.hcreadValue g o.sel.toNat)) 0
    e.finish (.hcread o) (.done (e.it.writeV2 o.d v)) s)))

end Sys2Proof.Machine
end

