-- ==== Sys2Proof/Machine/Channels.lean ====
section
/-! DEFINITION. Queue registers and channels (15 R325 to R327, R334 to R339, R351): pushes, pops, the delivery of slots, the six channel forms
and the completion queues they read. -/

namespace Sys2Proof.Machine

/-! ### Bindings and traps (R325, R326) -/

def Group.binding (g : Group) (q : Nat) : Binding := g.binds.toList.getD q { kind := 0, index := 0 }

/-- QUEUE and CHANNEL with their TRAPINFO. -/
def queueTrap (b : Binding) (q : Nat) : Trap :=
  { cause := causeQueue, addr := 0, info := BitVec.ofNat 32 (256 * b.kind + 16 * q) }
def channelTrap (b : Binding) (q kind : Nat) : Trap :=
  { cause := causeChannel, addr := 0, info := BitVec.ofNat 32 (256 * b.kind + 16 * q + kind) }

/-! ### Writes of engines into scratchpad -/

/-- A write from outside the group's own forms: in a guarded group the saved copy takes it too (19 R429). -/
def Group.engineWrite (g : Group) (x : Nat) (bs : List W8) : Group :=
  let w := g.spadWrite x bs
  match g.guarded with
  | none => w
  | some u =>
    let old := { g with
      scratch := u.scratch
      spadPoison := u.spadPoison }.spadWrite x bs
    { w with guarded := some { u with
      scratch := old.scratch
      spadPoison := old.spadPoison } }

/-- The words, counted from an offset, that an engine writes poisoned (R331). -/
def Group.enginePoison (g : Group) (x : Nat) (bad : List Nat) : Group :=
  let mark (t : Table Bool) : Table Bool := bad.foldl (fun t w => Table.write false t (x / 4 + w) true) t
  { g with
    spadPoison := mark g.spadPoison
    guarded := g.guarded.map (fun u => { u with spadPoison := mark u.spadPoison }) }

/-- Granules that an engine write makes Full. -/
def Group.engineFull (g : Group) (granules : List Nat) : Group :=
  let mark (t : Table Bool) : Table Bool := granules.foldl (fun t n => Table.write false t n true) t
  { g with
    full := mark g.full
    guarded := g.guarded.map (fun u => { u with full := mark u.full }) }

/-! ### Delivery of slots (R335, R336) -/

def Group.ring (g : Group) (ch : Nat) : Ring := Table.read { landed := 0, popped := 0, stamp := 0, ended := false, far := false } g.rings ch

/-- Has a ring a free slot? -/
def Ring.hasRoom (r : Ring) (c : Channel) : Bool := decide (r.landed / c.slotWords - r.popped / c.slotWords < c.slots)

/-- The party of the granule writes with which slots land in a group's ring: its stage, channel and GROUPIX (log 10). -/
def ringParty (k : Kernel) (g : Group) (ch : Nat) : W64 := partyOf 5 k.kseq g.stage ((ch + 1) * 2 ^ 32 + g.groupix.toNat)

/-- The granule writes of a slot that lands in a group's ring, with the recorder that sees them (R351). -/
def Group.slotAccesses (g : Group) (k : Kernel) (gid ch : Nat) : List (Nat × Party) :=
  let c := k.desc.channel ch
  let r := g.ring ch
  let x := k.desc.ringBase ch + r.landed / c.slotWords % c.slots * c.slotBytes
  (upTo (c.slotBytes / 16)).map (fun j =>
    (spadGranule gid (x + 16 * j), { party := ringParty k g ch, ordinal := (r.landed / 4 + j) % 2 ^ 32, tag := 0 }))

/-- May a slot land now (18 R403)? -/
def State.slotServed (s : State) (k : Kernel) (gid : Nat) (g : Group) (ch : Nat) : Bool :=
  (g.slotAccesses k gid ch).all (fun a => s.mayServeAs g.ctx (clusterOf g.core) a.2)

/-- The party under which the receiver of a slot is logged: the sender's stage, channel and GROUPIX (log 10). -/
def senderParty (k : Kernel) (stage ch : Nat) (groupix : W32) : W64 := partyOf 4 k.kseq stage (ch * 2 ^ 32 + groupix.toNat)

/-- A slot lands in a group's ring (R336), granule by granule in the recorder's order (R351). -/
def State.landSlot (s : State) (gid : Nat) (k : Kernel) (ch : Nat) (words : List W32) (stamp : Nat) (far : Bool) : State :=
  match s.group? gid with
  | none => s
  | some g =>
    let c := k.desc.channel ch
    let r := g.ring ch
    let x := k.desc.ringBase ch + r.landed / c.slotWords % c.slots * c.slotBytes
    let s := s.modGroup gid (fun g =>
      let g := g.engineWrite x (words.flatMap (fun w => leBytes 4 w.toNat))
      { g with rings := Table.put g.rings ch { r with
        landed := r.landed + c.slotWords
        stamp := max r.stamp stamp
        far := r.far || far } })
    (g.slotAccesses k gid ch).foldl (fun s a => s.recordAs g.ctx (clusterOf g.core) a.1 a.2 true) s

/-! ### Members that are still to come -/

/-- A group image of a kernel's stage that waits for a seat (07 R152). -/
def State.restoring (s : State) (kh stage : Nat) (q : List W8 → Bool) : Bool :=
  s.restores.any (fun p => p.2.1 == kh && leAt p.2.2.2 0x0C 1 == stage && q p.2.2.2)

/-- Is a member of a gang on this device still to load, or to be restored? Its entries stand, or its gang has not been opened. -/
def State.memberComing (s : State) (kh stage : Nat) (gangix : W32) (code : Nat) : Bool :=
  s.restoring kh stage (fun b => word32 b 0x14 == gangix && leAt b 0x18 4 == code) ||
    s.bindTable.any (fun p => p.2.valid && p.2.kh == kh && p.2.stage == stage && p.2.gangix == gangix.toNat && p.2.rank == code % 32) ||
    (match s.kernel? kh with
     | some k => k.hasGangs && !k.state.ended && k.holds stage && decide (k.nextGang.getD stage 0 ≤ gangix.toNat)
     | none => false)

/-- The groups of the receiving stage on this device, in GROUPIX order. -/
def State.stageGroups (s : State) (kh stage : Nat) : List (Nat × Group) :=
  (ascending ((s.groups.filter (fun p => p.2.kh == kh && p.2.stage == stage && !p.2.isLanding)).map (fun p => p.2.groupix.toNat))).flatMap
    (fun n => s.groups.filter (fun p => p.2.kh == kh && p.2.stage == stage && !p.2.isLanding && p.2.groupix.toNat == n))

/-- The receiver outside ring mode: the first group with a free slot after the one that received last, with wrap-around; under replay the
logged one, when it has a free slot (R335, R351). -/
def State.slotReceiver (s : State) (k : Kernel) (kh : Nat) (ch : Nat) (logged : Option Nat) : Option (Nat × Group) :=
  let c := k.desc.channel ch
  let free := (s.stageGroups kh c.dst).filter (fun p => (p.2.ring ch).hasRoom c && s.slotServed k p.1 p.2 ch)
  match logged with
  | some gx => free.find? (fun p => p.2.groupix.toNat == gx)
  | none =>
    match Table.get? k.lastReceiver ch with
    | none => free.head?
    | some last =>
      match free.find? (fun p => decide (last.toNat < p.2.groupix.toNat)) with
      | some p => some p
      | none => free.head?

/-- What delivers a slot: the sender as its words leave it. -/
structure Sender where
  kh : Nat
  stage : Nat
  gangix : W32
  gangrank : BitVec 11
  channel : Nat
  words : List W32
  stamp : Nat
  away : Nat
  groupix : W32
  core : Nat
  deriving DecidableEq, Repr

/-- Does a base die's router hold units of a context's INJBUD, and what an injection takes of them (04 R89)? -/
def State.mayInject (s : State) (die ctx : Nat) : Bool := decide (0 < Table.read ((s.context ctx).injBud : Int) s.injLeft (injKey die ctx))

def State.chargeInject (s : State) (die ctx bytes : Nat) : State :=
  let left : Int := Table.read ((s.context ctx).injBud : Int) s.injLeft (injKey die ctx) - (max 1 ((bytes + 63) / 64) : Nat)
  { s with injLeft := Table.put s.injLeft (injKey die ctx) left }

/-- Slots of a sender's channel that its receiver on another device has not reported free: of its live bindings and of what it has left. -/
def State.slotsAway (s : State) (kh stage : Nat) (gangix : W32) (gangrank : BitVec 11) (ch : Nat) : Nat :=
  ((s.orphans.filter (fun p => p.2.kh == kh && p.2.stage == stage && p.2.gangix == gangix && p.2.gangrank == gangrank && p.2.channel == ch)).map
      (fun p => p.2.away)).sum +
    (((s.member? kh stage gangix gangrank.toNat).bind s.group?).map (fun g =>
      ((g.staging.filter (fun p => (g.binding p.1).index == ch)).map (fun p => p.2.away)).sum)).getD 0

/-- A sender's slot is delivered, if a slot is free at its receiver: on this device at once, towards another device by a packet. -/
def State.deliverSlot (s : State) (x : Sender) : Option State :=
  match s.kernel? x.kh with
  | none => none
  | some k =>
    let d := k.desc
    let c := d.channel x.channel
    if d.ringMode c then
      let to_ := d.successor (d.globalRank x.gangrank)
      match d.successorAway x.gangrank with
      | some dev =>
        if k.committed && decide (x.away < c.slots) && (s.context k.ctx).rate.getD 2 0 != 0 && s.mayInject (dieOfCore x.core) k.ctx then
          some ((s.chargeInject (dieOfCore x.core) k.ctx c.slotBytes).sendRank 3 k.ctx dev (.slot k.gangN x.stage to_ x.channel x.words)).1
        else none
      | none =>
        match s.member? x.kh x.stage x.gangix (d.memberCode to_) with
        | none => none
        | some gid =>
          match s.group? gid with
          | some g => if (g.ring x.channel).hasRoom c && s.slotServed k gid g x.channel then some (s.landSlot gid k x.channel x.words x.stamp false) else none
          | none => none
    else
      let h := s.hind k.ctx
      let r := clusterOf x.core
      let party := senderParty k x.stage x.channel x.groupix
      let mine (e : HcEntry) : Bool := leAt e 0 1 == 3 && leAt e 1 1 == 4 && leAt e 8 8 == party.toNat
      let logged := if h.replaying then (h.segment r).find? mine else none
      if h.replaying && logged.isNone then none
      else
        match s.slotReceiver k x.kh x.channel (logged.map (fun e => leAt e 16 8)) with
        | none => none
        | some (gid, g) =>
          if h.replaying && (logged.map (fun e => leAt e 24 8)) != some (g.ring x.channel).landed then none
          else
            let s := s.landSlot gid k x.channel x.words x.stamp false
            let s := s.modKernel x.kh (fun k => { k with lastReceiver := Table.put k.lastReceiver x.channel g.groupix })
            some (if h.replaying then s.useLogged k.ctx r mine
              else s.logEntry k.ctx r (valueEntry 4 0 party (g.groupix.zeroExtend 64) (BitVec.ofNat 64 (g.ring x.channel).landed)))

/-- The staging slot of a live send binding after its delivery. -/
def Staging.delivered (st : Staging) (awaySent : Bool) : Staging :=
  { st with
    words := []
    state := if st.state = 1 then 0 else st.state
    away := if awaySent then st.away + 1 else st.away }

/-- Are all staging slots of a group for a channel Closed with nothing undelivered (R337)? -/
def Group.sendsDone (g : Group) (ch : Nat) : Bool :=
  g.staging.all (fun p => (g.binding p.1).index != ch || (p.2.state == 2 && p.2.words.isEmpty))

/-- A member whose bindings of a channel are all Closed and empty tells the receiver on another device. -/
def State.tellDone (s : State) (gid ch : Nat) : State :=
  match s.group? gid with
  | none => s
  | some g => if g.sendsDone ch then s.tellClosed g.kh g.stage g.gangix g.gangrank ch else s

/-- CHANNEL_SLOT_DELIVER (R336): the full or closed slot of a group's queue register, or of a retired group by the number it stands under,
lands in its receiver's ring. -/
def execChannelSlotDeliver (gid queue : Nat) (s : State) : Host.Outcome State Fault Refusal :=
  .next (match s.group? gid with
    | some g =>
      (match Table.get? g.staging queue with
       | none => s
       | some st =>
         if st.state = 0 ∨ st.words.isEmpty then s
         else
           let ch := (g.binding queue).index
           let away := ((s.kernel? g.kh).map (fun k => k.desc.ringMode (k.desc.channel ch) && (k.desc.successorAway g.gangrank).isSome)).getD false
           match s.deliverSlot { kh := g.kh, stage := g.stage, gangix := g.gangix, gangrank := g.gangrank, channel := ch, words := st.words
                                 stamp := st.stamp, away := s.slotsAway g.kh g.stage g.gangix g.gangrank ch, groupix := g.groupix, core := g.core } with
           | none => s
           | some s => (s.modGroup gid (fun g => { g with staging := Table.put g.staging queue (st.delivered away) })).tellDone gid ch)
    | none =>
      match Table.get? s.orphans gid with
      | none => s
      | some o =>
        if o.words.isEmpty then s
        else
          let away := ((s.kernel? o.kh).map (fun k => k.desc.ringMode (k.desc.channel o.channel) && (k.desc.successorAway o.gangrank).isSome)).getD false
          match s.deliverSlot { kh := o.kh, stage := o.stage, gangix := o.gangix, gangrank := o.gangrank, channel := o.channel, words := o.words
                                stamp := o.stamp, away := s.slotsAway o.kh o.stage o.gangix o.gangrank o.channel, groupix := o.groupix
                                core := o.core } with
          | none => s
          | some s =>
            let n := if away then o.away + 1 else o.away
            let s := { s with orphans := if n = 0 then Table.erase s.orphans gid else Table.put s.orphans gid { o with
              words := []
              away := n } }
            s.tellClosed o.kh o.stage o.gangix o.gangrank o.channel)

/-! ### Pushes (R336) -/

/-- Is the member of a rank gone: retired here, or reported gone by its device? -/
def State.memberGone (s : State) (k : Kernel) (kh stage : Nat) (gangix : W32) (rank : Nat) : Bool :=
  if rank / k.desc.gangGroups = k.rank then
    (s.member? kh stage gangix (k.desc.memberCode rank)).isNone && !s.memberComing kh stage gangix (k.desc.memberCode rank)
  else k.gone.any (fun p => p.1 == stage && p.2.1 == rank)

/-- Can no receiver exist (R336)? -/
def State.noReceiver (s : State) (g : Group) (k : Kernel) (ch : Nat) : Bool :=
  let c := k.desc.channel ch
  if k.desc.ringMode c then s.memberGone k g.kh g.stage g.gangix (k.desc.successor (k.desc.globalRank g.gangrank))
  else !k.holds c.dst && (s.stageGroups g.kh c.dst).isEmpty && !s.restoring g.kh c.dst (fun _ => true)

/-- What a push meets. -/
inductive Push where
  | stored (st : Staging)
  | trap (kind : Nat)
  | waits
  deriving DecidableEq, Repr

/-- A push of a word. -/
def Staging.push (st : Staging) (c : Channel) (noReceiver : Bool) (x : W32) (stamp : Nat) : Push :=
  if st.state = 2 then .trap 1
  else if st.state = 1 then (if noReceiver then .trap 3 else .waits)
  else
    let words := st.words ++ [x]
    .stored { st with
      words := words
      state := if words.length = c.slotWords then 1 else 0
      stamp := max st.stamp stamp }

/-! ### The end of a stream (R337) -/

/-- Can no word arrive any more? -/
def State.streamEnded (s : State) (g : Group) (k : Kernel) (ch : Nat) : Bool :=
  let d := k.desc
  let c := d.channel ch
  if d.ringMode c then
    let from_ := d.predecessor (d.globalRank g.gangrank)
    if from_ / d.gangGroups ≠ g.gangrank.toNat / 32 then (g.ring ch).ended
    else
      !s.orphanWords g.kh g.stage g.gangix (BitVec.ofNat 11 (d.memberCode from_)) ch &&
        (match (s.member? g.kh g.stage g.gangix (d.memberCode from_)).bind s.group? with
         | some p => p.sendsDone ch
         | none => !s.memberComing g.kh g.stage g.gangix (d.memberCode from_))
  else
    !k.holds c.src && (s.stageGroups g.kh c.src).all (fun p => p.2.sendsDone ch) && !s.restoring g.kh c.src (fun _ => true) &&
      !s.orphans.any (fun p => p.2.kh == g.kh && p.2.channel == ch && !p.2.words.isEmpty)

/-! ### The forms (R338) -/

/-- The outcome of a try form or a chavail, logged (R351): under replay the logged outcome, or none while a logged success is not yet
possible. -/
def State.tryOutcome (s : State) (e : Env) (g : Group) (now : Bool) : Option (Bool × State) :=
  let h := s.hind g.ctx
  if h.replaying then
    let party := s.partyOfItem g e.it
    let r := clusterOf g.core
    match (h.segment r).find? (fun x => leAt x 0 1 == 3 && leAt x 8 8 == party.toNat) with
    | some x =>
      if leAt x 1 1 = 4 ∧ leAt x 16 8 = 1 ∧ !now then none
      else
        let (v, s) := s.loggedItemValue e.gid e.slot 4 0 0
        some (v == 1, s)
    | none => some (now, s.endReplay g.ctx 4)
  else
    let (_, s) := s.loggedItemValue e.gid e.slot 4 (BitVec.ofNat 64 (boolNat now)) 0
    some (now, s)

/-- A form on a queue register whose binding it may name. -/
def queueForm (i : Instr) (q : BitVec 7) (kinds : List Nat) (body : Env → Group → Kernel → Binding → State → State) (e : Env) (s : State) :
    State :=
  s.withGroup e.gid (fun g =>
    let b := g.binding q.toNat
    match s.kernel? g.kh with
    | none => s
    | some k => if kinds.contains b.kind then body e g k b s else e.finish i (.trap e.it (queueTrap b q.toNat)) s)

/-- A push waits for the item's own stores, and in ring mode to another device for COMMIT (R132, R339). -/
def pushWaits (e : Env) (g : Group) (k : Kernel) (b : Binding) : Option Wait :=
  if e.it.releaseWaits .dev then some (.stores .dev)
  else if k.desc.ringMode (k.desc.channel b.index) && (k.desc.successorAway g.gangrank).isSome && !k.committed then some .commit
  else none

def Group.staged (g : Group) (q : Nat) : Staging := Table.read Staging.empty g.staging q

/-- A push for one item, on a binding that has been checked. -/
def State.pushOf (s : State) (e : Env) (g : Group) (k : Kernel) (b : Binding) (q : Nat) (x : W32) : Push :=
  (g.staged q).push (k.desc.channel b.index) (s.noReceiver g k b.index) x
    (max e.it.view e.it.rel)

def State.storePush (s : State) (gid q : Nat) (st : Staging) : State :=
  s.modGroup gid (fun g => { g with staging := Table.put g.staging q st })

/-- qpush (R338). -/
def execQpush (o : Form) (s : State) : Host.Outcome State Fault Refusal :=
  let i : Instr := .qpush o
  let q := o.d.toNat
  .next (s.commitWave i false (queueForm i o.d [4] (fun e g k b s =>
    match pushWaits e g k b with
    | some w => e.finish i (.wait e.it w) s
    | none =>
      match s.pushOf e g k b q (e.it.readV o.a) with
      | .trap n => e.finish i (.trap e.it (channelTrap b q n)) s
      | .waits => e.finish i (.wait e.it (.queue q)) s
      | .stored st => e.finish i (.done e.it) (s.storePush e.gid q st))))

/-- Does a try form trap CHANNEL now? Under replay where the log holds the trap point, and not where it holds an outcome (R351, R403). -/
def State.tryTraps (s : State) (e : Env) (g : Group) : Bool :=
  !(s.hind g.ctx).replaying || s.trapLogged g.ctx g.core causeChannel (s.partyOfItem g e.it)

/-- qtrypush (R338): a push that would wait, for its receiver or for COMMIT, gives p[C] 0. The release of the item's own stores comes first,
as for a qpush (R339). -/
def execQtrypush (o : Form) (s : State) : Host.Outcome State Fault Refusal :=
  let i : Instr := .qtrypush o
  let q := o.d.toNat
  .next (s.commitWave i false (queueForm i o.d [4] (fun e g k b s =>
    if e.it.releaseWaits .dev then e.finish i (.wait e.it (.stores .dev)) s
    else
      let push := if (pushWaits e g k b).isSome then .waits else s.pushOf e g k b q (e.it.readV o.a)
      match push, s.tryTraps e g with
      | .trap n, true => e.finish i (.trap e.it (channelTrap b q n)) s
      | p, _ =>
        match s.tryOutcome e g (match p with | .stored _ => true | _ => false), p with
        | none, _ => e.finish i (.wait e.it .again) s
        | some (true, s), .stored st => e.finish i (.done (e.it.writeP o.c true)) (s.storePush e.gid q st)
        | some (_, s), _ => e.finish i (.done (e.it.writeP o.c false)) s)))

/-- The slot of a ring that a pop has emptied is free; a predecessor on another device learns of it. -/
def State.freeSlot (s : State) (g : Group) (k : Kernel) (ch : Nat) : State :=
  let d := k.desc
  let from_ := d.predecessor (d.globalRank g.gangrank)
  if d.ringMode (d.channel ch) && from_ / d.gangGroups != g.gangrank.toNat / 32 then
    (s.sendRank 5 k.ctx (from_ / d.gangGroups) (.freed k.gangN g.stage from_ ch)).1
  else s

/-- The word at the head of a ring, as a scratchpad read, is popped into D (R338, R339). -/
def State.popRing (s : State) (i : Instr) (e : Env) (g : Group) (k : Kernel) (ch : Nat) (it : Item → Item) (d : BitVec 7) : State :=
  let c := k.desc.channel ch
  let r := g.ring ch
  let x := k.desc.ringBase ch + 4 * (r.popped % (c.slots * c.slotWords))
  if !s.mayServeSpad g e.it then e.finish i (.wait e.it .again) s
  else if g.spadPoisoned x 4 then
    let t := memTrap causePoison (BitVec.ofNat 64 x) true 4 false
    e.finish i (if g.guarded.isSome then .consume t else .trap e.it t) s
  else
    let word := BitVec.ofNat 32 (leNat (g.spadRead x 4))
    let s := (s.recordSpad e.gid e.slot x false).modGroup e.gid (fun g => { g with rings := Table.put g.rings ch { r with popped := r.popped + 1 } })
    let s := if (r.popped + 1) % c.slotWords = 0 then s.freeSlot g k ch else s
    let s := (s.modItem e.gid e.slot (fun it => { it with seen := max it.seen r.stamp })).acquireAt e.gid e.slot (if r.far then .sys else .dev)
    let e := e.refresh s
    e.finish i (.done ((it e.it).writeV d word)) s

/-- The oldest completion record of an engine port is popped into D. -/
def popPort (i : Instr) (e : Env) (q : Nat) (it : Item → Item) (d : BitVec 7) (s : State) : State :=
  match Table.get? e.it.ports q with
  | some p =>
    match p.records with
    | r :: rest => e.finish i (.done ((it { e.it with ports := Table.put e.it.ports q { p with records := rest } }).writeV d r)) s
    | [] => e.finish i (.wait e.it (.queue q)) s
  | none => e.finish i (.wait e.it (.queue q)) s

/-- Records that an item's port holds. -/
def Item.records (it : Item) (q : Nat) : Nat := ((Table.get? it.ports q).map (fun p => p.records.length)).getD 0

/-- qpop (R338). -/
def execQpop (o : Form) (s : State) : Host.Outcome State Fault Refusal :=
  let i : Instr := .qpop o
  let q := o.a.toNat
  .next (s.commitWave i false (queueForm i o.a [1, 2, 3, 5] (fun e g k b s =>
    if b.kind = 5 then
      let r := g.ring b.index
      if r.popped < r.landed then s.popRing i e g k b.index id o.d
      else if s.streamEnded g k b.index then e.finish i (.trap e.it (channelTrap b q 2)) s
      else e.finish i (.wait e.it (.queue q)) s
    else popPort i e q id o.d s)))

/-- qtrypop (R338). -/
def execQtrypop (o : Form) (s : State) : Host.Outcome State Fault Refusal :=
  let i : Instr := .qtrypop o
  let q := o.a.toNat
  .next (s.commitWave i false (queueForm i o.a [1, 2, 3, 5] (fun e g k b s =>
    let now :=
      if b.kind = 5 then decide ((g.ring b.index).popped < (g.ring b.index).landed) && s.mayServeSpad g e.it else decide (0 < e.it.records q)
    match s.tryOutcome e g now with
    | none => e.finish i (.wait e.it .again) s
    | some (ok, s) =>
      let took (it : Item) : Item := it.writeP o.c true
      if ok && now then (if b.kind = 5 then s.popRing i e g k b.index took o.d else popPort i e q took o.d s)
      else e.finish i (.done (e.it.writeP o.c false)) s)))

/-- chclose (R336, R338). -/
def execChclose (o : Form) (s : State) : Host.Outcome State Fault Refusal :=
  let i : Instr := .chclose o
  let q := o.d.toNat
  .next (s.commitWave i false (queueForm i o.d [4] (fun e g k b s =>
    match pushWaits e g k b with
    | some w => e.finish i (.wait e.it w) s
    | none =>
      let st := g.staged q
      if st.state = 2 then e.finish i (.done e.it) s
      else
        let c := k.desc.channel b.index
        let words := if st.words.isEmpty then [] else st.words ++ List.replicate (c.slotWords - st.words.length) 0
        let s := s.storePush e.gid q { st with
          words := words
          state := 2
          stamp := max st.stamp (max e.it.view e.it.rel) }
        e.finish i (.done e.it) (s.tellDone e.gid b.index))))

/-- What chavail reads (R338). -/
def State.availability (s : State) (g : Group) (k : Kernel) (b : Binding) (q : Nat) : Nat :=
  if b.kind = 5 then
    let r := g.ring b.index
    (r.landed - r.popped) % 65536 + 2 ^ 31 * boolNat (decide (r.popped = r.landed) && s.streamEnded g k b.index)
  else
    let st := g.staged q
    (if st.state = 0 then (k.desc.channel b.index).slotWords - st.words.length else 0) + 2 ^ 31 * boolNat (decide (st.state = 2))

/-- chavail (R338). -/
def execChavail (o : Form) (s : State) : Host.Outcome State Fault Refusal :=
  let i : Instr := .chavail o
  .next (s.commitWave i false (queueForm i o.a [4, 5] (fun e g k b s =>
    let (v, s) := s.loggedItemValue e.gid e.slot 4 (BitVec.ofNat 64 (s.availability g k b o.a.toNat)) 0
    e.finish i (.done (e.it.writeV o.d (lo32 v))) s)))

end Sys2Proof.Machine
end

