-- ==== Sys2Proof/Machine/Engines.lean ====
section
/-! DEFINITION. Copy and gather commands (15 R327 to R333, R347, R348): their layout, xfer and xgather, and the chunks that the copy engines
perform (ENGINE_CHUNK). -/

namespace Sys2Proof.Machine

/-! ### Commands (R328, R332) -/

/-- An address of 53 bits above bit 4, sign-extended from bit 56 (R328). -/
def commandAddress (hi lo : Nat) : W64 := (BitVec.ofNat 57 (16 * (hi * 2 ^ 32 + lo))).signExtend 64

/-- A copy command's fields: KIND 0 LOAD, 1 STORE, 2 GCOPY. -/
structure Copy where
  kind : Nat
  ga : W64
  gb : W64
  bytes : Nat
  mask : Nat
  full : Bool
  bar : Nat
  dev : Nat
  spad : Nat
  deriving DecidableEq, Repr

def parseCopy (w : List W32) : Copy :=
  let w0 := w.getD 0 0
  let w1 := w.getD 1 0
  let w2 := w.getD 2 0
  let w3 := w.getD 3 0
  { kind := field w3 31 30, ga := commandAddress (field w1 20 0) w0.toNat
    gb := commandAddress (field w3 20 16 * 2 ^ 16 + field w3 15 0) w2.toNat, bytes := 16 * (field w1 31 21 + 1), mask := w2.toNat
    full := bit w3 28, bar := field w3 27 22, dev := field w3 21 16, spad := 16 * field w3 14 0 }

/-- The reserved fields of R328 and the limits of R328 and R329, for a member of device rank `dev`. -/
def copyOk (w : List W32) (d : Descriptor) (dev : Nat) : Bool :=
  let c := parseCopy w
  let w3 := w.getD 3 0
  match c.kind with
  | 0 => !bit w3 15 && (if c.mask = 0 then c.dev == dev else decide (c.mask < 2 ^ d.gangGroups) && decide (c.dev < d.gangDevs))
  | 1 => c.mask == 0 && !c.full && c.dev == 0 && !bit w3 15
  | 2 => !c.full && c.bar == 0 && !bit w3 21
  | _ => false

/-- A gather command's fields. -/
structure Gather where
  tb : W64
  stride : Nat
  rowBytes : Nat
  count : Nat
  idx : Nat
  full : Bool
  bar : Nat
  dst : Nat
  deriving DecidableEq, Repr

def parseGather (w : List W32) : Gather :=
  let w1 := w.getD 1 0
  let w2 := w.getD 2 0
  let w3 := w.getD 3 0
  { tb := commandAddress (field w1 20 0) (w.getD 0 0).toNat, stride := 16 * field w1 31 21, rowBytes := 16 * (field w2 31 24 + 1)
    count := field w2 23 15 + 1, idx := 16 * field w2 14 0, full := bit w3 28, bar := field w3 27 22, dst := 16 * field w3 14 0 }

/-- The reserved fields of R332. -/
def gatherOk (w : List W32) : Bool := field (w.getD 3 0) 31 30 == 0 && field (w.getD 3 0) 21 15 == 0

/-- PROT of a form whose scratchpad ranges (offset, bytes) reach beyond SCRATCH: the lowest offending offset. -/
def rangesTrap (limit : Nat) (ranges : List (Nat × Nat)) (write : Bool) : Option Trap :=
  match ascending ((ranges.filter (fun r => decide (0 < r.2) && decide (limit < r.1 + r.2))).map (fun r => max r.1 limit)) with
  | [] => none
  | x :: _ => some { cause := causeProt, addr := BitVec.ofNat 64 x, info := BitVec.ofNat 32 (512 + boolNat write) }

/-- The word of a BAR field. -/
def barRange (bar : Nat) : Nat × Nat := (16 * bar, if bar = 0 then 0 else 16)

/-! ### xfer and xgather (R333) -/

/-- Commands that an engine holds. -/
def State.engineLoad (s : State) (die engine : Nat) : Nat := (s.commands.filter (fun p => p.2.die == die && p.2.engine == engine)).length

/-- The counter of a class rises, and SEQ of the queue register. -/
def Item.issueEngine (it : Item) (cls : CounterClass) (q : Nat) : Item :=
  let it := { it with ports := Table.modify it.ports q (fun p => { p with seq := p.seq + 1 }) }
  match cls with
  | .copy => { it with copyCount := it.copyCount + 1 }
  | .gather => { it with gatherCount := it.gatherCount + 1 }
  | .matrix => { it with matrixCount := it.matrixCount + 1 }
  | .collective => { it with collCount := it.collCount + 1 }

def Item.portSeq (it : Item) (q : Nat) : W32 := ((Table.get? it.ports q).map QueuePort.seq).getD 0

/-- The four words of a command. -/
def Env.commandWords (e : Env) (a : BitVec 7) : List W32 := (upTo 4).map (fun j => e.it.readV (a + BitVec.ofNat 7 j))

/-- What an engine form still waits for: its counter, its engine, COMMIT for a command towards another device, the item's own stores. -/
def engineWaits (e : Env) (k : Kernel) (cls : CounterClass) (count : Nat) (fullEngine away : Bool) : Option Wait :=
  if count = 63 ∨ fullEngine then some (.engine cls)
  else if away && !k.committed then some .commit
  else if e.it.releaseWaits .dev then some (.stores .dev)
  else none

/-- A command is handed to its engine; issue acts as fence.rel.dev (13 R293). -/
def State.handCommand (s : State) (i : Instr) (e : Env) (g : Group) (b : Binding) (q : Nat) (w indices : List W32) (chunks : Nat) : State :=
  let gather := decide (b.kind = 2)
  let s := s.fence e.gid e.slot false true false .dev
  let e := e.refresh s
  let it := e.it.issueEngine (if gather then .gather else .copy) q
  let c : Command :=
    { kh := g.kh, ctx := g.ctx, gid := e.gid, slot := e.slot, itemix := it.itemix.toNat, q := q, die := dieOfCore g.core, engine := b.index
      gather := gather, w0 := w.getD 0 0, w1 := w.getD 1 0, w2 := w.getD 2 0, w3 := w.getD 3 0, indices := indices, seq := it.portSeq q
      order := s.nextId, floor := it.view, stamp := 0, left := upTo chunks, failed := [], faulted := [], away := [], held := [] }
  { e.finish i (.done it) s with
    commands := Table.put s.commands s.nextId c
    nextId := s.nextId + 1 }

/-- xfer for one item. -/
def xferItem (o : Form) (e : Env) (g : Group) (k : Kernel) (b : Binding) (s : State) : State :=
  let i : Instr := .xfer o
  let w := e.commandWords o.a
  let c := parseCopy w
  let dev := g.gangrank.toNat / 32
  if !copyOk w k.desc dev then e.finish i (.trap e.it (illegal 0x0E 2)) s
  else
    match rangesTrap g.scratchBytes ((if c.kind = 2 then [] else [(c.spad, c.bytes)]) ++ [barRange c.bar]) (c.kind == 0) with
    | some t => e.finish i (.trap e.it t) s
    | none =>
      match engineWaits e k .copy e.it.copyCount.toNat (decide (256 ≤ s.engineLoad (dieOfCore g.core) b.index)) (c.kind == 0 && c.dev != dev) with
      | some w => e.finish i (.wait e.it w) s
      | none => s.handCommand i e g b o.d.toNat w [] ((c.bytes + 4095) / 4096)

/-- xfer (R333). -/
def execXfer (o : Form) (s : State) : Host.Outcome State Fault Refusal :=
  .next (s.commitWave (.xfer o) false (queueForm (.xfer o) o.d [1] (xferItem o)))

/-- xgather for one item. -/
def xgatherItem (o : Form) (e : Env) (g : Group) (k : Kernel) (b : Binding) (s : State) : State :=
  let i : Instr := .xgather o
  let w := e.commandWords o.a
  let c := parseGather w
  if !gatherOk w then e.finish i (.trap e.it (illegal 0x0E 2)) s
  else
    match rangesTrap g.scratchBytes [(c.dst, c.rowBytes * c.count), (c.idx, 4 * c.count), barRange c.bar] true with
    | some t => e.finish i (.trap e.it t) s
    | none =>
      if !s.mayServeSpad g e.it then e.finish i (.wait e.it .again) s
      else if g.spadPoisoned c.idx (4 * c.count) then
        let t : Trap := { cause := causePoison, addr := BitVec.ofNat 64 c.idx, info := 512 }
        e.finish i (if g.guarded.isSome then .consume t else .trap e.it t) s
      else
        match engineWaits e k .gather e.it.gatherCount.toNat (decide (256 ≤ s.engineLoad (dieOfCore g.core) b.index)) false with
        | some w => e.finish i (.wait e.it w) s
        | none =>
          let bs := g.spadRead c.idx (4 * c.count)
          let s := (upTo ((c.count + 3) / 4)).foldl (fun s j => s.recordSpad e.gid e.slot (c.idx + 16 * j) false) s
          s.handCommand i e g b o.d.toNat w ((upTo c.count).map (fun j => BitVec.ofNat 32 (leAt bs (4 * j) 4))) ((c.count + 31) / 32)

/-- xgather (R333). -/
def execXgather (o : Form) (s : State) : Host.Outcome State Fault Refusal :=
  .next (s.commitWave (.xgather o) false (queueForm (.xgather o) o.d [2] (xgatherItem o)))

/-! ### Retirement (R292, R327) -/

/-- A completion record. -/
def completionRecord (seq : W32) (failed : List (Nat × Nat)) : W32 :=
  let low := failed.foldl (fun (b : Nat × Nat) f => if f.1 < b.1 ∨ (f.1 = b.1 ∧ f.2 < b.2) then f else b) (failed.headD (0, 0))
  BitVec.ofNat 32 (low.2 % 16 * 2 ^ 28 + (seq.toNat + 2047) % 2048 * 2 ^ 16 + (failed.map (fun f => 2 ^ (f.1 % 16))).eraseDups.sum)

/-- A record is appended, or merged into the newest of four (R327). -/
def QueuePort.append (p : QueuePort) (r : W32) : QueuePort :=
  if p.records.length < 4 then { p with records := p.records ++ [r] }
  else
    let last := p.records.getD 3 0
    let merged := (r &&& 0xFFFF0000#32) ||| 0x08000000#32 ||| ((last ||| r) &&& 0xFFFF#32)
    { p with records := p.records.take 3 ++ [merged] }

/-- An operation of an item retires: its counter falls, a failed one's record is appended, its writes' stamp is kept for waitc (R293). -/
def Item.retireEngine (it : Item) (cls : CounterClass) (q : Nat) (seq : W32) (failed : List (Nat × Nat)) (stamp : Nat) : Item :=
  let it := match cls with
    | .copy => { it with copyCount := it.copyCount - 1 }
    | .gather => { it with gatherCount := it.gatherCount - 1 }
    | .matrix => { it with matrixCount := it.matrixCount - 1 }
    | .collective => { it with collCount := it.collCount - 1 }
  { it with
    engineStamp := max it.engineStamp stamp
    ports := if failed.isEmpty then it.ports else Table.modify it.ports q (fun p => p.append (completionRecord seq failed)) }

/-- Has a command no chunk left? -/
def Command.complete (c : Command) : Bool := c.left.isEmpty && c.faulted.isEmpty && c.away.isEmpty

/-- The oldest command of a class of an item, if it has completed. -/
def State.nextRetired (s : State) (gid slot : Nat) (gather : Bool) : Option (Nat × Command) :=
  let mine := s.commands.filter (fun p => p.2.gid == gid && p.2.slot == slot && p.2.gather == gather)
  match mine.foldl (fun (b : Option (Nat × Command)) p => match b with
    | none => some p
    | some q => if p.2.order < q.2.order then some p else b) none with
  | some p => if p.2.complete then some p else none
  | none => none

/-- Operations of a class of an item retire in issue order (R292). -/
def State.retireCommands (gid slot : Nat) (gather : Bool) : Nat → State → State
  | 0, s => s
  | n + 1, s =>
    match s.nextRetired gid slot gather with
    | none => s
    | some (id, c) =>
      let s := { s with commands := Table.erase s.commands id }
      let s := if s.commands.any (fun p => p.2.gid == gid) then s else { s with killed := Table.erase s.killed gid }
      State.retireCommands gid slot gather n
        (s.modItem gid slot (fun it => it.retireEngine (if gather then .gather else .copy) c.q c.seq c.failed (max c.stamp c.floor)))

/-- A chunk of a command ends with an outcome; the command retires with its last chunk. -/
def State.endChunk (s : State) (id j code : Nat) : State :=
  match Table.get? s.commands id with
  | none => s
  | some c =>
    let c := { c with
      left := c.left.erase j
      away := c.away.erase j
      failed := if code = 0 then c.failed else c.failed ++ [(j, code)]
      held := if (c.away.erase j).contains j then c.held else Table.erase c.held j }
    State.retireCommands c.gid c.slot c.gather 64 { s with commands := Table.put s.commands id c }

/-! ### The accesses of a chunk (R330) -/

/-- The party of a command's access, its access number counted on (18 R395). -/
def commandParty (k : Kernel) (stage itemix pkind q : Nat) (seq : W32) (chunk access : Nat) : Party :=
  { party := partyOf pkind k.kseq stage itemix, ordinal := chunk * 2 ^ 20 + access
    tag := BitVec.ofNat 16 (q + 16 * (seq.toNat % 64)) }

/-- An access of a chunk to global memory: a virtual address, its bytes within one line, is it a write. -/
structure ChunkAccess where
  va : W64
  bytes : Nat
  write : Bool
  deriving DecidableEq, Repr

/-- The checks of a chunk's accesses: every physical address, or the outcome that stands for the chunk, or the page whose fault it waits on. -/
inductive ChunkReach where
  | ok (pas : List Nat) (s : State)
  | fail (code : Nat) (s : State)
  | wait (page : Nat) (s : State)

/-- The lower of two outcomes of a chunk, as far as they are failures. -/
def lowerCode (a b : Nat) : Nat := if a = 0 then b else if b = 0 then a else min a b

/-- Translates and checks the accesses of a chunk as the issuer's engines' (R269, R88). -/
def State.reachChunk (s : State) (die ctx : Nat) : List ChunkAccess → ChunkReach
  | [] => .ok [] s
  | a :: rest =>
    match s.engineTranslate die ctx a.va (boolNat a.write) true with
    | .wait s => .wait (pageOf a.va) s
    | .fail _ _ s =>
      match s.reachChunk die ctx rest with
      | .fail code s => .fail (lowerCode code 2) s
      | .wait p s => .wait p s
      | .ok _ s => .fail 2 s
    | .ok pa s =>
      let denied := !s.granted ctx pa a.bytes true a.write
      match s.reachChunk die ctx rest with
      | .fail code s => .fail (if denied then 1 else code) s
      | .wait p s => .wait p s
      | .ok pas s => if denied then .fail 1 s else .ok (pa :: pas) s

/-- Is an access ready to be served at its slice: tokens at hand, no pin, and the halves of a CXL line (R284, R298)? Requests go out where
it is not. -/
def State.lineReady (s : State) (die ctx pa n : Nat) (write : Bool) : State × Bool :=
  match s.target? pa with
  | some (.near _) => (s, true)
  | none => (s, true)
  | some t =>
    let slice := servingSlice die pa
    let s := State.bringTokens slice pa write 4 s
    let l := s.l2At slice pa
    if (if write then decide (l.tokens < 5) || l.pins != 0 else decide (l.tokens = 0)) then (s, false)
    else
      match t with
      | .cxl _ =>
        let place := homeSlice pa
        let (s, l) := s.underKey place pa (s.tagAt pa (s.context ctx).key)
        match s.cxlHeld pa n write false l with
        | .yes => (s, true)
        | .dead => (s, true)
        | .no s => (s, false)
      | _ => (s, true)

def State.linesReady (s : State) (die ctx : Nat) (as : List (ChunkAccess × Nat)) : State × Bool :=
  as.foldl (fun (r : State × Bool) a =>
    let (s, b) := r.1.lineReady die ctx a.2 a.1.bytes a.1.write
    (s, r.2 && b)) (s, true)

/-- May every access of a chunk be served now (18 R403)? -/
def State.chunkServed (s : State) (die ctx : Nat) (party : Nat → Party) (as : List (ChunkAccess × Nat)) : Bool :=
  (as.zip (upTo as.length)).all (fun p => s.mayServeAs ctx (s.placeRecorder (servingSlice die p.1.2) p.1.2) (party p.2))

/-- What a chunk has read: its bytes, the words that are poisoned, and its outcome so far. -/
structure ChunkData where
  bytes : List W8
  bad : List Nat
  code : Nat

/-- A line answered by an isolated port (R331 TIMEOUT), or poisoned. -/
def State.readCode (s : State) (pa n key : Nat) : Nat :=
  if s.isCxl pa then
    match s.cxlHeld pa n false false (s.underKey (homeSlice pa) pa (s.tagAt pa key)).2 with
    | .dead => 4
    | _ => 3
  else 3

/-- The source lines of a chunk are read, one after another. -/
def State.readChunk (s : State) (die ctx : Nat) (party : Nat → Party) : Nat → List (ChunkAccess × Nat) → State × ChunkData
  | _, [] => (s, { bytes := [], bad := [], code := 0 })
  | n, (a, pa) :: rest =>
    let slice := servingSlice die pa
    let key := (s.context ctx).key
    let code := s.readCode pa a.bytes key
    let (s, bs, bad) := match s.readAt slice pa a.bytes key none with
      | .served s bs _ _ => (s, bs, false)
      | .poisoned s => (s, List.replicate a.bytes 0, true)
      | .notYet s => (s, List.replicate a.bytes 0, true)
    let s := s.recordAs ctx (s.placeRecorder slice pa) (pa / 16) (party n) false
    let (s, d) := s.readChunk die ctx party (n + 1) rest
    let words := a.bytes / 4
    (s, { bytes := bs ++ d.bytes, bad := (if bad then upTo words else []) ++ d.bad.map (fun j => j + words)
          code := lowerCode (if bad then code else 0) d.code })

/-- A line that an engine writes from a poisoned source is poisoned (R276, R331). -/
def State.poisonLine (s : State) (pa : Nat) : State :=
  if s.isCxl pa then
    let l := s.l2At (homeSlice pa) pa
    s.setL2 (homeSlice pa) (lineOf pa) { l with poison := true }
  else { s with memory := s.memory.setPoison (lineOf pa) true }

/-- The destination lines of a chunk are written; the largest stamp of the writes, and is a port's write dropped (R385)? -/
def State.writeChunkLines (s : State) (die ctx floor : Nat) (party : Nat → Party) : Nat → List (ChunkAccess × Nat) → List W8 → List Nat →
    State × Nat × Bool
  | _, [], _, _ => (s, 0, false)
  | n, (a, pa) :: rest, bs, bad =>
    let slice := servingSlice die pa
    let words := a.bytes / 4
    let dead := s.isCxl pa && (match s.cxlHeld pa a.bytes true false (s.l2At (homeSlice pa) pa) with | .dead => true | _ => false)
    let (s, stamp) := match s.writeAt slice pa (s.context ctx).key (bs.take a.bytes) floor with
      | .served s _ w _ => (s, w)
      | .notYet s => (s, 0)
      | .poisoned s => (s, 0)
    let s := if bad.any (fun j => decide (j < words)) && !dead then s.poisonLine pa else s
    let s := (s.recall (lineOf pa) none).recordAs ctx (s.placeRecorder slice pa) (pa / 16) (party n) true
    let (s, w, d) := s.writeChunkLines die ctx floor party (n + 1) rest (bs.drop a.bytes)
      ((bad.filter (fun j => decide (words ≤ j))).map (fun j => j - words))
    (s, max stamp w, d || dead)

/-! ### Receivers and credits -/

/-- A credit of an engine at a group's word (R313, R316): the new state, or nothing where it is refused. -/
def State.engineCredit (s : State) (gid bar bytes stamp : Nat) : Option State :=
  match s.group? gid with
  | none => none
  | some g =>
    match g.credited (16 * bar) bytes with
    | none => none
    | some bs =>
      let saved := g.guarded.bind (fun u => ({ g with scratch := u.scratch }).credited (16 * bar) bytes)
      some (s.modGroup gid (fun g =>
        let w := g.spadWrite (16 * bar) bs
        { w with
          barStamp := max g.barStamp stamp
          guarded := match w.guarded, saved with
            | some u, some old => some { u with scratch := (({ g with scratch := u.scratch }).spadWrite (16 * bar) old).scratch }
            | u, _ => u }))

/-- The number of granules of a landing, and its accesses by number. -/
def Landing.granules (l : Landing) : Nat := l.bytes.length / 16
def Landing.access (l : Landing) (n : Nat) : Party := { l.party with ordinal := (l.party.ordinal + n) % 2 ^ 32 }

/-- What a landing writes at a receiver: each granule, then the credit; `first` is the number of its first access. -/
def landingAt (gid granules bar first : Nat) : List (Nat × Nat × Nat) :=
  (upTo granules).map (fun j => (gid, j, first + j)) ++ (if bar = 0 then [] else [(gid, granules, first + granules)])

/-- One piece of a landing takes effect (R257, R258, R313, R316): bytes, poison and full-empty bit of a granule, then the waiters on it; or the
credit. A receiver that is gone takes nothing (R331 GONE). -/
def State.landPiece (s : State) (l : Landing) (x : Nat × Nat × Nat) : State × Landing :=
  match s.group? x.1 with
  | none => (s, { l with code := lowerCode l.code 6 })
  | some g =>
    let r := clusterOf g.core
    if x.2.1 < l.granules then
      let at_ := l.base + 16 * x.2.1
      let s := s.modGroup x.1 (fun g =>
        let bad := (upTo 4).filter (fun k => l.bad.contains (4 * x.2.1 + k))
        let g := (g.engineWrite at_ ((l.bytes.drop (16 * x.2.1)).take 16)).enginePoison at_ bad
        if l.full then g.engineFull [at_ / 16] else g)
      let s := s.recordAs g.ctx r (spadGranule x.1 at_) (l.access x.2.2) true
      (if l.full then s.granuleChanged x.1 (16 * (at_ / 16)) else s, l)
    else
      match s.engineCredit x.1 l.bar l.credit l.stamp with
      | some s => (s.recordAs g.ctx r (spadGranule x.1 (16 * l.bar)) (l.access x.2.2) true, l)
      | none => (s, { l with code := lowerCode l.code 7 })

/-- May a piece take effect now: its logged predecessors have been served (18 R403), and a credit comes after its receiver's granules (R316)? -/
def State.pieceServed (s : State) (l : Landing) (kept : List (Nat × Nat × Nat)) (x : Nat × Nat × Nat) : Bool :=
  match s.group? x.1 with
  | none => true
  | some g => s.mayServeAs g.ctx (clusterOf g.core) (l.access x.2.2) && (decide (x.2.1 < l.granules) || kept.all (fun y => y.1 != x.1))

/-- Every piece that may take effect does. -/
def State.landRest (s : State) (l : Landing) : State × Landing :=
  l.todo.foldl (fun (r : State × Landing) x =>
    if r.1.pieceServed r.2 r.2.todo x then r.1.landPiece r.2 x else (r.1, { r.2 with todo := r.2.todo ++ [x] })) (s, { l with todo := [] })

/-- Piece `n` of what is left takes effect alone, if it may. -/
def State.landOne (s : State) (l : Landing) (n : Nat) : State × Landing :=
  match l.todo[n]? with
  | none => (s, l)
  | some x =>
    let rest := l.todo.eraseIdx n
    if s.pieceServed l rest x then s.landPiece { l with todo := rest } x else (s, l)

/-- The 64-bit wrapping sum of 32-bit words that a chunk carries (R345). -/
def chunkSum (bs : List W8) : W64 := (upTo (bs.length / 4)).foldl (fun n j => n + BitVec.ofNat 64 (leAt bs (4 * j) 4)) 0

/-! ### Budgets (R347, R348) -/

/-- The bucket source of an engine: copy engines 0..15, the collective engine 16. -/
def engineSource (die engine : Nat) : Nat := 1024 + 17 * die + engine

/-- Does the context hold units of a copy engine's COPYBUD, and, for a chunk to another device, of the router's INJBUD (R89)? -/
def State.mayCopy (s : State) (die engine ctx : Nat) (away : Bool) : Bool :=
  decide (0 < Table.read ((s.context ctx).copyBud : Int) s.copyLeft (copyKey die engine ctx)) && (!away || s.mayInject die ctx)

def State.chargeCopy (s : State) (die engine ctx bytes : Nat) (away : Bool) : State :=
  let units : Int := max 1 ((bytes + 63) / 64 : Nat)
  let left := Table.read ((s.context ctx).copyBud : Int) s.copyLeft (copyKey die engine ctx) - units
  let s := { s with copyLeft := Table.put s.copyLeft (copyKey die engine ctx) left }
  if away then s.chargeInject die ctx bytes else s

/-- The class of a chunk (R347). -/
def State.chunkClass (s : State) (die : Nat) (pas : List Nat) (dies : List Nat) (away : Bool) : Nat :=
  if pas.any s.isCxl then 3
  else if away then 2
  else if (pas.map s.homeDie ++ dies).any (fun b => b != die) then 1
  else 0

/-! ### ENGINE_CHUNK -/

/-- Chunk `j` of `n` bytes: its offset and length. -/
def chunkSpan (n j : Nat) : Nat × Nat := (4096 * j, min 4096 (n - 4096 * j))

/-- The line accesses of a span of global memory. -/
def spanAccesses (va : W64) (n : Nat) (write : Bool) : List ChunkAccess := (piecesAt va n).map (fun p => { va := p.1, bytes := p.2, write := write })

/-- A chunk as its command asks: what it reads and writes in global memory, where it reads and writes in scratchpad, its bytes. -/
structure Chunk where
  reads : List ChunkAccess
  writes : List ChunkAccess
  spadSource : Option Nat
  spadOffset : Nat
  bytes : Nat
  full : Bool
  bar : Nat
  mask : Nat
  dev : Nat
  load : Bool

def Command.words (c : Command) : List W32 := [c.w0, c.w1, c.w2, c.w3]

/-- The chunk of a copy command. -/
def Copy.chunk (c : Copy) (j : Nat) : Chunk :=
  let (off, n) := chunkSpan c.bytes j
  let src := c.ga + BitVec.ofNat 64 off
  match c.kind with
  | 0 => { reads := spanAccesses src n false, writes := [], spadSource := none, spadOffset := c.spad + off, bytes := n, full := c.full
           bar := c.bar, mask := c.mask, dev := c.dev, load := true }
  | 1 => { reads := [], writes := spanAccesses src n true, spadSource := some (c.spad + off), spadOffset := 0, bytes := n, full := false
           bar := c.bar, mask := 0, dev := 0, load := false }
  | _ => { reads := spanAccesses src n false, writes := spanAccesses (c.gb + BitVec.ofNat 64 off) n true, spadSource := none, spadOffset := 0
           bytes := n, full := false, bar := 0, mask := 0, dev := 0, load := false }

/-- The chunk of a gather command: rows 32j to 32j + 31. -/
def Gather.chunk (c : Gather) (indices : List W32) (dev j : Nat) : Chunk :=
  let rows := (indices.drop (32 * j)).take 32
  { reads := rows.flatMap (fun ix => spanAccesses (c.tb + BitVec.ofNat 64 (c.stride * ix.toNat)) c.rowBytes false), writes := []
    spadSource := none, spadOffset := c.dst + 32 * j * c.rowBytes, bytes := rows.length * c.rowBytes, full := c.full, bar := c.bar, mask := 0
    dev := dev, load := true }

/-- The ranks within its device that a LOAD names. -/
def Chunk.ranks (ch : Chunk) (k : Kernel) : List Nat := (upTo k.desc.gangGroups).filter (fun r => ch.mask / 2 ^ r % 2 == 1)

/-- The receivers on this device of a LOAD (R329): a group, or none where it is gone. -/
def State.receivers (s : State) (c : Command) (g : Group) (k : Kernel) (ch : Chunk) : List (Option Nat) :=
  if ch.mask = 0 then [some c.gid]
  else (ch.ranks k).map (fun r => s.member? c.kh g.stage g.gangix (32 * (g.gangrank.toNat / 32) + r))

/-- Is a named receiver on this device still to be restored or loaded? -/
def State.receiverComing (s : State) (c : Command) (g : Group) (k : Kernel) (ch : Chunk) : Bool :=
  (ch.ranks k).any (fun r =>
    let code := 32 * (g.gangrank.toNat / 32) + r
    (s.member? c.kh g.stage g.gangix code).isNone && s.memberComing c.kh g.stage g.gangix code)

/-- The packet of a chunk towards a member of another device. -/
def chunkPacket (id j : Nat) (g : Group) (k : Kernel) (ch : Chunk) (l : Landing) (rank : Nat) (again : Bool) : Config.PacketContent :=
  .chunk id j k.gangN g.stage rank k.rank l.base l.bytes l.bad l.full ch.bar (chunkSum l.bytes) again

/-- A LOAD towards another device: one packet for each member named, whose answers end the chunk; how many have been sent, and is one dropped? -/
def State.sendChunk (s : State) (id j : Nat) (g : Group) (k : Kernel) (ch : Chunk) (l : Landing) : State × Nat × Bool :=
  (ch.ranks k).foldl (fun (r : State × Nat × Bool) m =>
    let (s, ok) := r.1.sendRank 3 g.ctx ch.dev (chunkPacket id j g k ch l (ch.dev * k.desc.gangGroups + m) false)
    (s, r.2.1 + boolNat ok, r.2.2 || !ok)) (s, 0, false)

/-- The group and kernel of a command; those of a killed group stand until its commands have ended (R124, R351). -/
def State.issuer (s : State) (c : Command) : Option (Group × Kernel) :=
  match s.group? c.gid, s.kernel? c.kh with
  | some g, some k => some (g, k)
  | _, _ => Table.get? s.killed c.gid

/-- A chunk of a command on this device, with what it asks, and whether its receivers stand on another device. -/
def State.chunkOf (c : Command) (g : Group) (chunk : Nat) : Chunk × Bool :=
  let dev := g.gangrank.toNat / 32
  let ch := if c.gather then (parseGather c.words).chunk c.indices dev chunk else (parseCopy c.words).chunk chunk
  (ch, ch.load && ch.dev != dev)

/-- A landing goes as far as it may; the chunk ends when nothing of it is left. -/
def State.goOnLanding (s : State) (id j : Nat) (r : State × Landing) : State :=
  if r.2.todo.isEmpty then r.1.endChunk id j r.2.code
  else { r.1 with commands := Table.modify r.1.commands id (fun c => { c with held := Table.put c.held j r.2 }) }

/-- What a chunk credits, and where. -/
def Chunk.landing (ch : Chunk) (party : Party) (d : ChunkData) (stamp : Nat) : Landing :=
  { base := ch.spadOffset, bytes := if ch.load then d.bytes else [], bad := d.bad, full := ch.full, bar := ch.bar, credit := ch.bytes
    party := party, todo := [], code := d.code, flags := 0, stamp := stamp }

/-- The pieces of a landing at each receiver in turn; one that is gone gives GONE. -/
def Landing.towards (l : Landing) (receivers : List (Option Nat)) (first : Nat) : Landing :=
  let n := l.granules
  { l with
    code := if receivers.any Option.isNone then lowerCode l.code 6 else l.code
    todo := ((receivers.filterMap id).zip (upTo receivers.length)).flatMap (fun r => landingAt r.1 n l.bar (first + r.2 * (n + 1))) }

/-- The source of a chunk whose accesses are all ready is read, and its lines of global memory are written; what it lands in scratchpads is held,
or sent to another device. -/
def State.performChunk (s : State) (id j : Nat) (c : Command) (g : Group) (k : Kernel) (ch : Chunk) (away : Bool) (pas : List Nat) : State :=
  let party := commandParty k g.stage c.itemix 1 c.q c.seq j
  let die := c.die
  let (s, d) : State × ChunkData := match ch.spadSource with
    | some x =>
      let bad := (upTo (ch.bytes / 4)).filter (fun p => g.spadPoisoned (x + 4 * p) 4)
      ((upTo (ch.bytes / 16)).foldl (fun s p =>
        s.recordAs g.ctx (clusterOf g.core) (spadGranule c.gid (x + 16 * p)) (party p) false) s,
        { bytes := g.spadRead x ch.bytes, bad := bad, code := if bad.isEmpty then 0 else 3 })
    | none => s.readChunk die c.ctx party 0 (ch.reads.zip pas)
  let nr := if ch.spadSource.isSome then ch.bytes / 16 else ch.reads.length
  let (s, stamp, dropped) := s.writeChunkLines die c.ctx c.floor party nr (ch.writes.zip (pas.drop ch.reads.length)) d.bytes d.bad
  let s := { s with commands := Table.modify s.commands id (fun c => { c with stamp := max c.stamp stamp }) }
  let l := ch.landing (party 0) { d with code := if dropped then lowerCode d.code 5 else d.code } (max stamp c.floor)
  if away then
    let (s, sent, lost) := s.sendChunk id j g k ch l
    let code := if lost then lowerCode l.code 5 else l.code
    if sent = 0 then s.endChunk id j code
    else
      { s with commands := Table.modify s.commands id (fun c => { c with
          left := c.left.erase j
          away := c.away ++ List.replicate sent j
          held := Table.put c.held j l
          failed := if code = 0 then c.failed else c.failed ++ [(j, code)] }) }
  else
    let rs := if ch.load then s.receivers c g k ch else [some c.gid]
    { s with commands := Table.modify s.commands id (fun c => { c with
        held := Table.put c.held j (l.towards rs (nr + ch.writes.length)) }) }

/-- A chunk fails before any byte has moved. It still credits its receivers, on this device or another (R330). -/
def State.failChunk (s : State) (id chunk code : Nat) : State :=
  match Table.get? s.commands id with
  | none => s
  | some c =>
    match s.issuer c with
    | some (g, k) =>
      let (ch, away) := State.chunkOf c g chunk
      if away then
        ((ch.ranks k).foldl (fun s m => if ch.bar = 0 then s else
            (s.sendRank 3 g.ctx ch.dev (.credit k.gangN g.stage (ch.dev * k.desc.gangGroups + m) ch.bar ch.bytes)).1) s).endChunk id chunk code
      else
        let rs := if ch.load then s.receivers c g k ch else [some c.gid]
        let l := ch.landing (commandParty k g.stage c.itemix 1 c.q c.seq chunk 0) { bytes := [], bad := [], code := code } c.floor
        s.goOnLanding id chunk (s.landRest (l.towards rs 0))
    | none => s.endChunk id chunk code

/-- A chunk begins, once its budgets allow it and its lines are at hand (R348): it fails, waits on a fault, goes to another device, or is held with
what it lands. A context that is torn down resolves no faults (04 R96). -/
def State.beginChunk (s : State) (command chunk : Nat) (c : Command) (g : Group) (k : Kernel) : State :=
  let (ch, away) := State.chunkOf c g chunk
  let accesses := ch.reads ++ ch.writes
  if away && (s.context c.ctx).rate.getD 2 0 == 0 then s.endChunk command chunk 1
  else if ch.load && !away && s.receiverComing c g k ch then s
  else
    match s.reachChunk c.die c.ctx accesses with
    | .wait page s =>
      if (s.context c.ctx).state = .tearing then s.failChunk command chunk 2
      else
        { s with commands := Table.put s.commands command { c with
            left := c.left.erase chunk
            faulted := c.faulted ++ [(chunk, page)] } }
    | .fail code s => s.failChunk command chunk code
    | .ok pas s =>
      let dies := if ch.load && !away then (s.receivers c g k ch).filterMap (fun r => (r.bind s.group?).map (fun g => dieOfCore g.core)) else [dieOfCore g.core]
      let cls := s.chunkClass c.die pas dies away
      let party := commandParty k g.stage c.itemix 1 c.q c.seq chunk
      if !s.mayCharge (engineSource c.die c.engine) c.ctx cls || !s.mayCopy c.die c.engine c.ctx away ||
          !s.chunkServed c.die c.ctx party (accesses.zip pas) then s
      else
        let (s, ready) := s.linesReady c.die c.ctx (accesses.zip pas)
        if !ready then s
        else
          let s := (s.charge (engineSource c.die c.engine) c.ctx cls ch.bytes).chargeCopy c.die c.engine c.ctx ch.bytes away
          s.performChunk command chunk c g k ch away pas

/-- What a chunk of a command lands, if it has begun. -/
def State.heldChunk (s : State) (command chunk : Nat) : Option Landing :=
  (Table.get? s.commands command).bind (fun c => if c.left.contains chunk then Table.get? c.held chunk else none)

/-- A chunk that is still to be performed begins, unless it has. -/
def State.chunkBegun (s : State) (command chunk : Nat) : State :=
  match Table.get? s.commands command with
  | none => s
  | some c =>
    if !c.left.contains chunk || (Table.get? c.held chunk).isSome then s
    else
      match s.issuer c with
      | some (g, k) => s.beginChunk command chunk c g k
      | none => s

/-- ENGINE_CHUNK (R330, R331, R348): a chunk of a command is performed whole; under replay, as far as the log lets its granules land (18 R403). -/
def execEngineChunk (command chunk : Nat) (s : State) : Host.Outcome State Fault Refusal :=
  .next (
    let s := s.chunkBegun command chunk
    match s.heldChunk command chunk with
    | some l => s.goOnLanding command chunk (s.landRest l)
    | none => s)

/-- One granule of a chunk, or a credit, lands by itself, before or between the accesses of its receiver's items (R257, R291). -/
def State.landGranule (s : State) (command chunk n : Nat) : State :=
  let s := s.chunkBegun command chunk
  match s.heldChunk command chunk with
  | some l => s.goOnLanding command chunk (s.landOne l n)
  | none => s

/-- A fault ends with an outcome (16 R363): with FAIL the chunks that waited on it end in PAGEFAULT. -/
def State.resolve (s : State) (id : Nat) (f : PageFault) (fail : Bool) : State :=
  let hits := s.commands.flatMap (fun p =>
    if p.2.ctx = f.ctx then (p.2.faulted.filter (fun x => x.2 == f.page)).map (fun x => (p.1, x.1)) else [])
  let s := s.resolveFault id f fail
  if fail then hits.foldl (fun s h => s.failChunk h.1 h.2 2) s else s

end Sys2Proof.Machine
end

