-- ==== Sys2Proof/Machine/Collect.lean ====
section
/-! DEFINITION. Collectives (15 R340 to R346): the commands, the four forms, the joining of a collective and its chunks. -/

namespace Sys2Proof.Machine

/-! ### Commands (R341) -/

/-- A collective command's fields; SUB 0 cred, 1 callred, 2 credsc, 3 callg. -/
structure Coll where
  sub : Nat
  dst : Nat
  src : Nat
  bytes : Nat
  dtype : Nat
  op : Nat
  root : Nat
  full : Bool
  bar : Nat
  deriving DecidableEq, Repr

def parseColl (sub : Nat) (w : List W32) : Coll :=
  let w0 := w.getD 0 0
  let w1 := w.getD 1 0
  let w3 := w.getD 3 0
  { sub := sub, dst := 16 * field w0 30 16, src := 16 * field w0 14 0, bytes := 16 * (field w1 31 20 + 1), dtype := field w1 19 18
    op := field w1 17 16, root := field (w.getD 2 0) 10 0, full := bit w3 28, bar := field w3 27 22 }

/-- The reserved fields and limits of R341, for a gang of `n` members. -/
def collOk (sub : Nat) (w : List W32) (n : Nat) : Bool :=
  let c := parseColl sub w
  !bit (w.getD 0 0) 31 && !bit (w.getD 0 0) 15 && field (w.getD 1 0) 15 0 == 0 && field (w.getD 2 0) 31 11 == 0 &&
    field (w.getD 3 0) 31 29 == 0 && field (w.getD 3 0) 21 0 == 0 && c.op != 3 && (sub != 3 || c.op == 0) &&
    (if sub = 0 then decide (c.root < n) else c.root == 0) && (sub != 2 || c.bytes % (16 * n) == 0)

/-- The bytes that the member of a rank receives. -/
def Coll.received (c : Coll) (rank n : Nat) : Nat :=
  match c.sub with
  | 0 => if rank = c.root then c.bytes else 0
  | 1 => c.bytes
  | 2 => c.bytes / n
  | _ => c.bytes * n

/-- Q of R344, and the number of chunks. -/
def pieceBytes (n : Nat) : Nat := 4096 * ((n + 65535) / 65536)
def pieceCount (n : Nat) : Nat := if n = 0 then 1 else (n + pieceBytes n - 1) / pieceBytes n

/-! ### The forms (R346) -/

/-- The collective of a gang with a number, as it stands. -/
def State.joinOf (s : State) (kh stage : Nat) (gangix : W32) (n : Nat) : Option (Nat × Join) :=
  s.joins.find? (fun p => p.2.kh == kh && p.2.stage == stage && p.2.gangix == gangix && p.2.n == n)

def newJoin (kh stage : Nat) (gangix : W32) (n : Nat) : Join :=
  { kh := kh, stage := stage, gangix := gangix, n := n, members := [], remote := [], joined := false, shares := [], pieces := [], outcome := 0
    floor := 0, wide := false, dropped := [] }

/-- Changes a collective, which begins with its first command. -/
def State.modJoin (s : State) (kh stage : Nat) (gangix : W32) (n : Nat) (f : Join → Join) : State :=
  match s.joinOf kh stage gangix n with
  | some (id, j) => { s with joins := Table.put s.joins id (f j) }
  | none => { s with
      joins := Table.put s.joins s.nextId (f (newJoin kh stage gangix n))
      nextId := s.nextId + 1 }

/-- One of the forms for one item. -/
def collItem (i : Instr) (sub : Nat) (o : Form) (e : Env) (g : Group) (k : Kernel) (b : Binding) (s : State) : State :=
  let n := k.desc.gangSize
  let w := e.commandWords o.a
  let c := parseColl sub w
  let rank := k.desc.globalRank g.gangrank
  if b.kind = 3 && !collOk sub w n then e.finish i (.trap e.it (illegal 0x0E 2)) s
  else
    match rangesTrap g.scratchBytes [(c.src, c.bytes), (c.dst, c.received rank n), barRange c.bar] true with
    | some t => e.finish i (.trap e.it t) s
    | none =>
      match engineWaits e k .collective e.it.collCount.toNat false (k.desc.gangDevs != 1) with
      | some w => e.finish i (.wait e.it w) s
      | none =>
        let s := s.fence e.gid e.slot false true false .dev
        let e := e.refresh s
        let q := o.d.toNat
        let it := e.it.issueEngine .collective q
        let m : CollMember :=
          { gid := e.gid, slot := e.slot, itemix := it.itemix.toNat, q := q, sub := sub, words := w, seq := it.portSeq q, order := s.nextId
            floor := it.view, rank := rank, left := upTo (pieceCount (c.received rank n)), failed := [], flags := 0, held := [] }
        let s := (e.finish i (.done it) s).fresh
        let s := s.modJoin g.kh g.stage g.gangix g.collectives (fun j => { j with members := Table.put j.members rank m })
        let s := s.modGroup e.gid (fun g => { g with collectives := g.collectives + 1 })
        if k.desc.gangDevs = 1 then s else s.sendGangPeers 4 k (.coll k.gangN g.stage g.collectives rank sub w)

/-- cred -/
def execCred (o : Form) (s : State) : Host.Outcome State Fault Refusal :=
  .next (s.commitWave (.cred o) false (queueForm (.cred o) o.d [3] (collItem (.cred o) 0 o)))

/-- callred -/
def execCallred (o : Form) (s : State) : Host.Outcome State Fault Refusal :=
  .next (s.commitWave (.callred o) false (queueForm (.callred o) o.d [3] (collItem (.callred o) 1 o)))

/-- credsc -/
def execCredsc (o : Form) (s : State) : Host.Outcome State Fault Refusal :=
  .next (s.commitWave (.credsc o) false (queueForm (.credsc o) o.d [3] (collItem (.credsc o) 2 o)))

/-- callg -/
def execCallg (o : Form) (s : State) : Host.Outcome State Fault Refusal :=
  .next (s.commitWave (.callg o) false (queueForm (.callg o) o.d [3] (collItem (.callg o) 3 o)))

/-! ### COLLECTIVE_JOIN (R340, R342) -/

/-- The commands that have reached the engines, by rank: SUB and words. -/
def Join.commands (j : Join) : List (Nat × Nat × List W32) :=
  j.members.map (fun p => (p.1, p.2.sub, p.2.words)) ++ j.remote

/-- Do the commands agree in form, SIZE, DTYPE, OP and ROOT? -/
def Join.agrees (j : Join) : Bool :=
  let key (x : Nat × Nat × List W32) : Nat × Nat × Nat × Nat × Nat :=
    let c := parseColl x.2.1 x.2.2
    (c.sub, c.bytes, c.dtype, c.op, c.root)
  match j.commands with
  | [] => true
  | x :: rest => rest.all (fun y => decide (key y = key x))

/-- A member that is gone before its command: of this device, or reported by its own. -/
def State.joinGone (s : State) (j : Join) (k : Kernel) : Bool :=
  (upTo k.desc.gangSize).any (fun r =>
    !(j.commands.any (fun x => x.1 == r)) &&
      (if r / k.desc.gangGroups = k.rank then
          (s.member? j.kh j.stage j.gangix (k.desc.memberCode r)).isNone && !s.memberComing j.kh j.stage j.gangix (k.desc.memberCode r)
       else k.gone.any (fun p => p.1 == j.stage && p.2.1 == r && decide (p.2.2 ≤ j.n))))

/-- A member's contribution, read from its scratchpad: bytes and poisoned words. -/
def State.contribution (s : State) (m : CollMember) : List W8 × List Nat :=
  let c := parseColl m.sub m.words
  match s.group? m.gid with
  | some g => (g.spadRead c.src c.bytes, (upTo (c.bytes / 4)).filter (fun p => g.spadPoisoned (c.src + 4 * p) 4))
  | none => (List.replicate c.bytes 0, [])

/-- The reads of a contribution, at the recorder of its group's cluster. -/
def State.recordContribution (s : State) (k : Kernel) (j : Join) (m : CollMember) : State :=
  let c := parseColl m.sub m.words
  match s.group? m.gid with
  | some g => (upTo (c.bytes / 16)).foldl (fun s p =>
      s.recordAs g.ctx (clusterOf g.core) (spadGranule m.gid (c.src + 16 * p)) (commandParty k j.stage m.itemix 2 m.q m.seq 4095 p) false) s
  | none => s

/-! ### Checksums (R345) -/

/-- Bytes of an element. -/
def elementBytes (dtype : Nat) : Nat := if dtype = 2 then 2 else if dtype = 3 then 8 else 4

/-- The signed value of 32 bits. -/
def signed32 (x : Nat) : Int := (BitVec.ofNat 32 x).toInt

/-- The fraction and exponent bits of a floating DTYPE. -/
def fieldBits (dtype : Nat) : Nat × Nat := if dtype = 1 then (23, 8) else if dtype = 2 then (7, 8) else (52, 11)

/-- A floating element as a multiple of the format's least subnormal; none for an infinity or a NaN. -/
def exactUnits (dtype x : Nat) : Option Int :=
  let (f, e) := fieldBits dtype
  let ex := x / 2 ^ f % 2 ^ e
  let fr := x % 2 ^ f
  let m : Nat := if ex = 0 then fr else (2 ^ f + fr) * 2 ^ (ex - 1)
  if ex = 2 ^ e - 1 then none else some (if x / 2 ^ (f + e) % 2 = 1 then -(m : Int) else (m : Int))

/-- The elements of a span of bytes. -/
def elementsOf (dtype : Nat) (bs : List W8) : List Nat :=
  let w := elementBytes dtype
  (upTo (bs.length / w)).map (fun e => leAt bs (w * e) w)

/-- σ and μ of a piece of a contribution; an infinity or a NaN adds nothing to them. -/
def pieceSums (dtype : Nat) (bs : List W8) : Int × Nat :=
  let xs := elementsOf dtype bs
  if dtype = 0 then (xs.foldl (fun n x => n + signed32 x) 0, 0)
  else xs.foldl (fun (n : Int × Nat) x => let u := (exactUnits dtype x).getD 0; (n.1 + u, n.2 + u.natAbs)) (0, 0)

/-- The packet of a 4096-byte piece of a contribution. -/
def sharePacket (k : Kernel) (stage cn rank dtype : Nat) (x : List W8 × List Nat) (p : Nat) (again : Bool) : Config.PacketContent :=
  let bs := (x.1.drop (4096 * p)).take 4096
  let sums := pieceSums dtype bs
  .share k.gangN stage cn rank (4096 * p) bs ((x.2.filter (fun b => b / 1024 == p)).map (fun b => b % 1024)) (chunkSum bs) sums.1 sums.2 again

/-- A contribution goes to the other devices of the gang, in pieces. -/
def State.shareContribution (s : State) (k : Kernel) (j : Join) (m : CollMember) (x : List W8 × List Nat) : State :=
  let die := ((s.group? m.gid).map (fun g => dieOfCore g.core)).getD 0
  let s := s.chargeInject die k.ctx (x.1.length * (k.desc.gangDevs - 1))
  (upTo ((x.1.length + 4095) / 4096)).foldl (fun s p =>
    s.sendGangPeers 3 k (sharePacket k j.stage j.n m.rank (parseColl m.sub m.words).dtype x p false)) s

/-- COLLECTIVE_JOIN: every command has come, and the contributions are read; or the collective ends with GONE, with
MISMATCH, or with PROT where RATE forbids fabric (log 50). -/
def execCollectiveJoin (join : Nat) (s : State) : Host.Outcome State Fault Refusal :=
  .next (match Table.get? s.joins join with
    | none => s
    | some j =>
      match s.kernel? j.kh with
      | none => s
      | some k =>
        let away := k.desc.gangDevs != 1
        let floor := (j.members.map (fun p => p.2.floor)).foldl max j.floor
        let dies := j.members.map (fun p => ((s.group? p.2.gid).map (fun g => dieOfCore g.core)).getD 0)
        if j.joined then s
        else if j.commands.length < k.desc.gangSize then
          if s.joinGone j k then { s with joins := Table.put s.joins join { j with
            joined := true
            outcome := 6
            floor := floor } } else s
        else if !j.agrees then { s with joins := Table.put s.joins join { j with
            joined := true
            outcome := 9
            floor := floor } }
        else if away && (s.context k.ctx).rate.getD 2 0 == 0 then { s with joins := Table.put s.joins join { j with
            joined := true
            outcome := 1
            floor := floor } }
        else if away && dies.any (fun d => !s.mayInject d k.ctx) then s
        else
          let own := j.members.map (fun p => (p.1, p.2, s.contribution p.2))
          let s := { s with joins := Table.put s.joins join { j with
            joined := true
            floor := floor
            wide := decide (1 < dies.eraseDups.length)
            shares := own.foldl (fun t x => Table.put t x.1 x.2.2) j.shares } }
          own.foldl (fun s x =>
            let s := s.recordContribution k j x.2.1
            if away then s.shareContribution k j x.2.1 x.2.2 else s) s)

/-! ### COLLECTIVE_CHUNK (R343, R344) -/

/-- One element of a reduction over the contributions by rank: its bits and its flags (R343). -/
def reduceElement (dtype op : Nat) (xs : List Nat) : Nat × BitVec 5 :=
  let floating (F : Fmt) : Nat × BitVec 5 :=
    let r := floatReduce F (if op = 0 then .fadd else if op = 1 then .fmin else .fmax) xs
    (r.bits, r.flags)
  match dtype with
  | 0 =>
    let f (x y : Nat) : Nat :=
      if op = 0 then (x + y) % 2 ^ 32
      else if op = 1 then (if signed32 y < signed32 x then y else x)
      else (if signed32 x < signed32 y then y else x)
    ((pairTree f 12 xs).headD 0, 0)
  | 1 => floating fp32
  | 2 => floating bf16
  | _ => floating fp64

/-- A span of the reduction of the contributions: bytes, flags and poisoned words; an element is poisoned whole. -/
def reduceSpan (c : Coll) (shares : List (List W8 × List Nat)) (off n : Nat) : List W8 × BitVec 5 × List Nat :=
  let w := elementBytes c.dtype
  let rs := (upTo (n / w)).map (fun e => reduceElement c.dtype c.op (shares.map (fun x => leAt x.1 (off + w * e) w)))
  let hit (p : Nat) : Bool := shares.any (fun x => x.2.contains p || (c.dtype == 3 && x.2.contains (if p % 2 = 0 then p + 1 else p - 1)))
  (rs.flatMap (fun r => leBytes w r.1), rs.foldl (fun f r => f ||| r.2) 0, (upTo (n / 4)).filter (fun p => hit (off / 4 + p)))

/-- The bytes that the member of a rank receives in a chunk: offset, bytes, flags, poisoned words. -/
def Coll.result (c : Coll) (shares : List (List W8 × List Nat)) (rank n chunk : Nat) : Nat × List W8 × BitVec 5 × List Nat :=
  let total := c.received rank n
  let q := pieceBytes total
  let off := q * chunk
  let len := min q (total - off)
  match c.sub with
  | 3 =>
    let bytes := shares.flatMap Prod.fst
    let bad := (shares.zip (upTo shares.length)).flatMap (fun p => p.1.2.map (fun b => b + p.2 * (c.bytes / 4)))
    (off, (bytes.drop off).take len, 0, (bad.filter (fun b => decide (off / 4 ≤ b) && decide (b < (off + len) / 4))).map (fun b => b - off / 4))
  | 2 => let r := reduceSpan c shares (rank * (c.bytes / n) + off) len; (off, r)
  | _ => let r := reduceSpan c shares off len; (off, r)

/-- The number under which a piece of a contribution of another device stands. -/
def pieceKey (rank piece : Nat) : Nat := rank * 65536 + piece

/-- The contribution of a rank, of so many bytes, where it has come whole. -/
def Join.shareOf (j : Join) (bytes rank : Nat) : Option (List W8 × List Nat) :=
  match Table.get? j.shares rank with
  | some x => some x
  | none =>
    let n := (bytes + 4095) / 4096
    let ps := (upTo n).filterMap (fun p => (Table.get? j.pieces (pieceKey rank p)).map (fun x => (p, x)))
    if ps.length = n then some (ps.flatMap (fun p => p.2.bytes), ps.flatMap (fun p => p.2.bad.map (fun b => b + 1024 * p.1))) else none

/-- The contributions by rank, where all have come. -/
def Join.allShares (j : Join) (n bytes : Nat) : Option (List (List W8 × List Nat)) :=
  let xs := (upTo n).filterMap (fun r => j.shareOf bytes r)
  if xs.length = n && xs.all (fun x => x.1.length == bytes) then some xs else none

/-- The checksums of a piece of a rank's contribution: as its device has sent them, or formed here. -/
def Join.sumsOf (j : Join) (dtype rank p : Nat) : Int × Nat :=
  match Table.get? j.shares rank with
  | some x => pieceSums dtype ((x.1.drop (4096 * p)).take 4096)
  | none => ((Table.get? j.pieces (pieceKey rank p)).map (fun x => (x.sigma, x.mu))).getD (0, 0)

/-- The arithmetic check of one piece of a sum (R345): does it fail? For INT32 the 64-bit sums of the elements, before they are wrapped to 32 bits,
are compared; for a floating format the delivered elements. -/
def Join.checkFails (j : Join) (c : Coll) (shares : List (List W8 × List Nat)) (p : Nat) : Bool :=
  let n := shares.length
  let len := min 4096 (c.bytes - 4096 * p)
  let spans := shares.map (fun x => (x.1.drop (4096 * p)).take len)
  let sums := (upTo n).map (fun r => j.sumsOf c.dtype r p)
  let sigma := (sums.map Prod.fst).foldl (· + ·) 0
  let mu := (sums.map Prod.snd).sum
  if c.dtype = 0 then
    decide ((((spans.flatMap (elementsOf 0)).foldl (fun n x => n + signed32 x) 0) - sigma) % 2 ^ 64 ≠ 0)
  else
    let rs := (elementsOf c.dtype (reduceSpan c shares (4096 * p) len).1).map (exactUnits c.dtype)
    let plain := rs.all Option.isSome && spans.all (fun b => (elementsOf c.dtype b).all (fun x => (exactUnits c.dtype x).isSome))
    let u := 2 ^ (if c.dtype = 1 then 24 else if c.dtype = 2 then 8 else 53)
    let off := ((rs.foldl (fun n x => n + x.getD 0) 0) - sigma).natAbs
    plain && decide (n * mu + n * rs.length * u < off * u)

/-- Does a chunk of a member's result fail with CHECKSUM: a piece of a contribution whose sum has failed twice, or the arithmetic check of a sum, which
reforming the chunk from the same contributions does not mend? -/
def Join.checksumBad (j : Join) (c : Coll) (shares : List (List W8 × List Nat)) (rank chunk : Nat) : Bool :=
  let n := shares.length
  let total := c.received rank n
  let first := pieceBytes total * chunk + (if c.sub = 2 then rank * (c.bytes / n) else 0)
  let len := min (pieceBytes total) (total - pieceBytes total * chunk)
  let span (first len : Nat) : List Nat := if len = 0 then [] else (upTo ((first + len + 4095) / 4096 - first / 4096)).map (fun p => first / 4096 + p)
  let broken (r p : Nat) : Bool := ((Table.get? j.pieces (pieceKey r p)).map Piece.broken).getD false
  if c.sub = 3 then
    (span first len).any (fun q => (upTo n).any (fun r =>
      decide (r * c.bytes < 4096 * (q + 1)) && decide (4096 * q < (r + 1) * c.bytes) && (upTo ((c.bytes + 4095) / 4096)).any (broken r)))
  else (span first len).any (fun p => (upTo n).any (fun r => broken r p) || (c.op == 0 && j.checkFails c shares p))

/-- The oldest collective operation of an item, if it has completed: its collective and rank. -/
def State.nextCollective (s : State) (gid slot : Nat) : Option (Nat × CollMember) :=
  let mine := s.joins.flatMap (fun p => (p.2.members.filter (fun m => m.2.gid == gid && m.2.slot == slot)).map (fun m => (p.1, m.2)))
  match mine.foldl (fun (b : Option (Nat × CollMember)) p => match b with
    | none => some p
    | some q => if p.2.order < q.2.order then some p else b) none with
  | some p => if p.2.left.isEmpty then some p else none
  | none => none

/-- Collective operations of an item retire in issue order; the flags of the member's elements enter FPSTAT (R343). -/
def State.retireCollectives (gid slot : Nat) : Nat → State → State
  | 0, s => s
  | fuel + 1, s =>
    match s.nextCollective gid slot with
    | none => s
    | some (id, m) =>
      let floor := ((Table.get? s.joins id).map Join.floor).getD 0
      let far := (((Table.get? s.joins id).bind (fun j => s.kernel? j.kh)).map (fun k => k.desc.gangDevs != 1)).getD false
      let s := { s with
        joins := (Table.modify s.joins id (fun j => { j with members := Table.erase j.members m.rank })).filter
          (fun p => p.1 != id || far || !p.2.members.isEmpty) }
      State.retireCollectives gid slot fuel (s.modItem gid slot (fun it =>
        let it := it.retireEngine .collective m.q m.seq m.failed floor
        { it with
          fpstat := it.fpstat ||| m.flags
          engineFar := it.engineFar || far }))

/-- A chunk of a member ends. -/
def State.endCollChunk (s : State) (id rank chunk code : Nat) (flags : BitVec 5) : State :=
  match Table.get? s.joins id with
  | none => s
  | some j =>
    match Table.get? j.members rank with
    | none => s
    | some m =>
      let m := { m with
        left := m.left.erase chunk
        failed := if code = 0 then m.failed else m.failed ++ [(chunk, code)]
        flags := m.flags ||| flags
        held := Table.erase m.held chunk }
      State.retireCollectives m.gid m.slot 64 { s with joins := Table.put s.joins id { j with members := Table.put j.members rank m } }

/-- Is every path to the device of a member gone (17 R376)? -/
def State.memberCut (s : State) (k : Kernel) (rank : Nat) : Bool :=
  match s.peer? k.ctx (rank / k.desc.gangGroups) with
  | some p => !s.reachable p.1
  | none => true

/-- Can some contribution no longer come: it has been dropped on its way, or would be (17 R376)? -/
def State.shareLost (s : State) (j : Join) (k : Kernel) (bytes : Nat) : Bool :=
  (upTo k.desc.gangSize).any (fun r => (j.shareOf bytes r).isNone && (j.dropped.contains r || s.memberCut k r))

/-- The contributions that have not come whole from devices to which no path is left are dropped (17 R376). -/
def State.dropShares (s : State) : State :=
  { s with joins := s.joins.mapAll (fun _ j => match s.kernel? j.kh, j.commands with
    | some k, (_, sub, w) :: _ => { j with
        dropped := (upTo k.desc.gangSize).filter (fun r =>
          (j.shareOf (parseColl sub w).bytes r).isNone && (j.dropped.contains r || (r / k.desc.gangGroups != k.rank && s.memberCut k r))) }
    | _, _ => j) }

/-- The class of a collective's chunks (R347). -/
def Join.class_ (j : Join) (k : Kernel) : Nat := if k.desc.gangDevs ≠ 1 then 2 else if j.wide then 1 else 0

/-- A landing of a collective's chunk goes as far as it may; the chunk ends when nothing of it is left. -/
def State.goOnCollective (s : State) (join member chunk : Nat) (r : State × Landing) : State :=
  if r.2.todo.isEmpty then r.1.endCollChunk join member chunk r.2.code r.2.flags
  else { r.1 with joins := Table.modify r.1.joins join (fun j => { j with
    members := Table.modify j.members member (fun m => { m with held := Table.put m.held chunk r.2 }) }) }

/-- What a chunk of a member's result lands, once it can be formed: every contribution has come, or the collective has ended otherwise. -/
def State.formCollective (s : State) (j : Join) (m : CollMember) (k : Kernel) (chunk : Nat) : Option (State × Landing) :=
  let c := parseColl m.sub m.words
  let n := k.desc.gangSize
  let total := c.received m.rank n
  let len := min (pieceBytes total) (total - pieceBytes total * chunk)
  let die := ((s.group? m.gid).map (fun g => dieOfCore g.core)).getD 0
  let landing (at_ : Nat) (bs : List W8) (bad : List Nat) (flags : BitVec 5) (code : Nat) : Landing :=
    ({ base := at_, bytes := bs, bad := bad, full := c.full, bar := if len = 0 then 0 else c.bar, credit := len
       party := commandParty k j.stage m.itemix 2 m.q m.seq chunk 0, todo := [], code := code, flags := flags, stamp := m.floor } : Landing).towards [some m.gid] 0
  if j.outcome ≠ 0 then some (s, landing c.dst [] [] 0 j.outcome)
  else if !s.mayCharge (engineSource die 16) k.ctx (j.class_ k) then none
  else
    match j.allShares n c.bytes with
    | none => if s.shareLost j k c.bytes then some (s, landing c.dst [] [] 0 5) else none
    | some shares =>
      let (off, bs, flags, bad) := c.result shares m.rank n chunk
      let code := if bad.isEmpty then 0 else 3
      some (s.charge (engineSource die 16) k.ctx (j.class_ k) len,
        landing (c.dst + off) bs bad flags (if j.checksumBad c shares m.rank chunk then lowerCode code 8 else code))

/-- COLLECTIVE_CHUNK: a chunk of a member's result is formed and written; chunks of a collective that ended otherwise fail. -/
def execCollectiveChunk (join member chunk : Nat) (s : State) : Host.Outcome State Fault Refusal :=
  .next (match Table.get? s.joins join with
    | none => s
    | some j =>
      match Table.get? j.members member, s.kernel? j.kh with
      | some m, some k =>
        if !j.joined || !m.left.contains chunk then s
        else
          match Table.get? m.held chunk with
          | some l => s.goOnCollective join member chunk (s.landRest l)
          | none =>
            match s.formCollective j m k chunk with
            | some (s, l) => s.goOnCollective join member chunk (s.landRest l)
            | none => s
      | _, _ => s)

/-! ### ISOBAR_PERIOD (R347, 04 R89, 18 R402) -/

/-- A source's buckets of a context take their RATE, up to DEPTH. -/
def State.refillBuckets (s : State) (source ctx : Nat) : State :=
  { s with buckets := (upTo 4).foldl (fun t cls =>
      Table.put t (bucketKey source ctx cls)
        (min (s.bucket source ctx cls + (((s.context ctx).rate.getD cls 0 : Nat) : Int)) (((s.context ctx).depth.getD cls 0 : Nat) : Int))) s.buckets }

/-- A period boundary of a regulator refills a context's budgets there; groups that a core's buckets throttled may issue again (R348). -/
def execIsobarPeriod (regulator : Regulator) (ctx : Nat) (s : State) : Host.Outcome State Fault Refusal :=
  .next (match regulator with
    | .copyEngine die engine => { s with copyLeft := Table.erase s.copyLeft (copyKey die engine ctx) }
    | .router die => { s with injLeft := Table.erase s.injLeft (injKey die ctx) }
    | .recorder kind index =>
      let r := match kind with
        | 0 => index
        | 1 => recSlice index
        | 2 => recLink index
        | 3 => recPort index
        | _ => recFirmware
      s.modHind ctx (fun h => h.modRecorder r (fun k => { k with used := 0 }))
    | .bucketCore core =>
      { (s.refillBuckets core ctx) with
        groups := s.groups.mapAll (fun _ g => if g.core = core ∧ g.ctx = ctx then { g with throttled := false } else g) }
    | .bucketEngine die engine => s.refillBuckets (engineSource die engine) ctx)

end Sys2Proof.Machine
end

