-- ==== Sys2Proof/Machine/Gangs.lean ====
section
/-! DEFINITION. Gangs that span devices (06 R129 to R134, R136): Peers, and the messages and time-outs of coordinator and members. -/

namespace Sys2Proof.Machine

/-! ### Peers (R129) -/

/-- The entries of a peer table. -/
def peerEntries (b : List W8) (n : Nat) : List (Nat × Nat) := (upTo n).map (fun j => (leAt b (8 * j) 2, leAt b (8 * j + 2) 2))

/-- The limits of R129 on the command and its table. -/
def State.peersOk (s : State) (c b : List W8) : Bool :=
  let n := leAt c 4 1
  let ps := peerEntries b n
  ps.all (fun p => decide (p.1 ≤ 4095)) && (upTo n).all (fun j => zeroAt b (8 * j + 4) 4) &&
    (ps.filter (fun p => p == (s.dev.devid, commandCtx c))).length == 1 && ps.eraseDups.length == n

/-- The layout of the Peers command. -/
def peersCommandOk (c : List W8) : Bool :=
  decide (16 ≤ leAt c 1 1) && decide (leAt c 1 1 ≤ 34) && decide (1 ≤ commandCtx c) && decide (commandCtx c ≤ 1023) &&
    decide (1 ≤ leAt c 4 1) && decide (leAt c 4 1 ≤ 64) && zeroAt c 5 3 && leAt c 8 8 % 64 == 0 && zeroAt c 0x10 8 && zeroAt c 0x1C 4

/-- Is a kernel of the context with GANGDEVS > 1 live? -/
def State.gangLive (s : State) (ctx : Nat) : Bool := s.kernels.any (fun p => p.2.ctx == ctx && !p.2.state.ended && p.2.desc.gangDevs != 1)

/-- Peers: the set replaces any earlier one. -/
def execPeers (s : State) : Host.Outcome State Fault Refusal :=
  .next (s.runCommand 0x20 (fun _ => true) (fun c s =>
    let ctx := commandCtx c
    let st := (s.context ctx).state
    let n := leAt c 4 1
    let b := s.physRead (leAt c 8 8) (8 * n)
    if !peersCommandOk c || !s.firmReads (leAt c 8 8) (8 * n) || !s.peersOk c b then (s, stBadCmd)
    else if (st ≠ .configured ∧ st ≠ .active ∧ st ≠ .suspended ∧ st ≠ .faulted) ∨ s.gangLive ctx then (s, stState)
    else
      (s.modContext ctx (fun x => { x with
        peers := peerEntries b n
        toexp := leAt c 1 1 }), stDone)))

/-! ### Members (R132, R133) -/

/-- The live kernel of gang `n` in a context. -/
def State.gangKernel (s : State) (ctx n : Nat) : Option Nat :=
  (s.kernels.find? (fun p => p.2.ctx == ctx && p.2.gangN == n && !p.2.state.ended)).map Prod.fst

/-- GANG_RESERVE (R132): the member creates its instance and answers ACK, or answers REFUSE. A descriptor whose bytes are still on their
way leaves the message unanswered until it is seen again. -/
def State.onReserve (s : State) (m : ReserveMsg) : State :=
  let c := s.context m.ctx
  let answer (s : State) (kind : Nat) : State :=
    if (s.hind m.ctx).replaying then s
    else
    match m.peers with
    | p :: _ => s.sendGang kind m.n (m.peers.findIdx (fun p => p == (s.dev.devid, m.ctx))) p.1 p.2
    | [] => s
  if c.state ≠ .active ∨ c.peers.take m.peers.length ≠ m.peers then answer s 2
  else
    match s.readDescriptor m.ctx m.desc, s.freeHandle, s.myRank m.ctx with
    | .ok d s, some kh, some rank =>
      let r : LaunchRecord := { desc := m.desc, prio := m.prio, flags := 0, tag := m.tag, crec := 0, smask := m.smask, deps := [], sval := m.sval }
      answer (s.addKernel kh (newKernel m.ctx r d none s.takes m.n rank) 0xFF) 1
    | .notYet s, _, _ => s
    | _, _, _ => answer s 2

def execGangReserve (msg : ReserveMsg) (s : State) : Host.Outcome State Fault Refusal := .next (s.onReserve msg)

/-- GANG_COMMIT (R130, R132): cross-device operations may go on; a gang that this member has ended by abort is answered with FAIL. -/
def State.onCommit (s : State) (m : GangMsg) : State :=
  match s.gangKernel m.ctx m.n with
  | some kh => s.modKernel kh (fun k => { k with committed := true })
  | none => if (s.context m.ctx).abortedGangs.contains m.n then s.tellRank m.ctx 0 5 m.n else s

def execGangCommit (msg : GangMsg) (s : State) : Host.Outcome State Fault Refusal := .next (s.onCommit msg)

/-- GANG_ABORT (R133). -/
def State.onAbort (s : State) (m : GangMsg) : State :=
  match s.gangKernel m.ctx m.n with
  | some kh => s.gangAborted kh
  | none => s

def execGangAbort (msg : GangMsg) (s : State) : Host.Outcome State Fault Refusal := .next (s.onAbort msg)

/-- GANG_MEMBER_TIMEOUT (R132, R136): neither COMMIT nor ABORT has come, or no answer to a query. -/
def execGangMemberTimeout (kh : Nat) (s : State) : Host.Outcome State Fault Refusal :=
  .next (match s.kernel? kh with
    | some k => if k.gangN ≠ 0 ∧ k.rank ≠ 0 ∧ (!k.committed ∨ k.asked) then s.gangAborted kh else s
    | none => s)

/-! ### The coordinator (R130, R131, R134) -/

/-- The gang `n` that this device coordinates for a context. -/
def State.coordinated (s : State) (ctx n : Nat) : Option Gang := (Table.get? s.gangs n).filter (fun g => g.ctx == ctx)

/-- Have all members answered ACK? -/
def Gang.allAcked (g : Gang) : Bool := (upTo g.devs).all (fun r => r == 0 || g.acked.contains r)

/-- GANG_ACK: when every member has answered, COMMIT goes to all; an ACK for a gang ended by abort is answered with ABORT. -/
def State.onAck (s : State) (m : GangMsg) : State :=
  match s.coordinated m.ctx m.n with
  | some g =>
    let g := { g with acked := m.rank :: g.acked.erase m.rank }
    let s := { s with gangs := Table.put s.gangs m.n g }
    if g.committed || !g.allAcked then s
    else
      let s := (upTo g.devs).foldl (fun s r => if r = 0 then s else s.tellRank g.ctx r 3 m.n) s
      let s := { s with gangs := Table.put s.gangs m.n { g with committed := true } }
      s.modKernel g.kh (fun k => { k with committed := true })
  | none => if (s.context m.ctx).abortedGangs.contains m.n then s.tellRank m.ctx m.rank 4 m.n else s

def execGangAck (msg : GangMsg) (s : State) : Host.Outcome State Fault Refusal := .next (s.onAck msg)

/-- GANG_REFUSE and GANG_FAIL: the coordinator aborts the gang, also on a FAIL before COMMIT (log 18). -/
def State.onFail (s : State) (m : GangMsg) : State := if (s.coordinated m.ctx m.n).isSome then s.abortGang m.n else s

def execGangRefuse (msg : GangMsg) (s : State) : Host.Outcome State Fault Refusal := .next (s.onFail msg)

def execGangFail (msg : GangMsg) (s : State) : Host.Outcome State Fault Refusal := .next (s.onFail msg)

/-- GANG_DONE (R134). -/
def State.onDone (s : State) (m : GangMsg) : State :=
  match s.coordinated m.ctx m.n with
  | some g => { s with gangs := Table.put s.gangs m.n { g with done := m.rank :: g.done.erase m.rank } }
  | none => s

def execGangDone (msg : GangMsg) (s : State) : Host.Outcome State Fault Refusal := .next (s.onDone msg)

/-- GANG_TIMEOUT: the coordinator's timer reaches 2^TOEXP before every ACK. -/
def execGangTimeout (n : Nat) (s : State) : Host.Outcome State Fault Refusal :=
  .next (match Table.get? s.gangs n with
    | some g => if g.committed then s else s.abortGang n
    | none => s)

/-- After COMMIT, a member to which no path is left makes the coordinator abort (R131). -/
def State.checkPaths (s : State) : State :=
  (s.gangs.keysOf (fun _ g => g.committed && (upTo g.devs).any (fun r => r != 0 &&
    (match s.peer? g.ctx r with
     | some p => !s.reachable p.1
     | none => false)))).foldl State.abortGang s

/-! ### A resuming member (R136) -/

/-- The instance of gang `n` that this device restores as its coordinator takes the gang's place in the table. -/
def State.adoptGang (s : State) (ctx kh n : Nat) : State :=
  match s.coordinated ctx n with
  | some g => { s with gangs := Table.put s.gangs n { g with kh := kh } }
  | none => s

/-- A restored instance of a gang ends Aborted: at the coordinator of a gang that is in its table every member is told (R131, R136). -/
def State.gangRefused (s : State) (ctx kh : Nat) (k : Kernel) : State :=
  if k.rank = 0 ∧ (s.coordinated ctx k.gangN).isSome then s.abortGang k.gangN else s.gangAborted kh

/-- What a gang's instance whose descriptor is refused at Resume owes the gang, beside its record of CLASS 3 (R131, R133, R136). -/
def State.leaveRefusedGang (s : State) (ctx : Nat) (k : Kernel) : State :=
  let s := s.keepAborted ctx k.gangN
  if k.rank = 0 then s.abortGang k.gangN else s.tellRank ctx 0 5 k.gangN

/-- GANG_QUERY: the coordinator answers from its gang table. -/
def State.onQuery (s : State) (m : GangMsg) : State :=
  s.tellRank m.ctx m.rank (if (s.coordinated m.ctx m.n).isSome then 8 else 9) m.n

def execGangQuery (msg : GangMsg) (s : State) : Host.Outcome State Fault Refusal := .next (s.onQuery msg)

/-- GANG_QUERY_ANSWER: the kernel is restored live, or in Aborted with what follows of R133. -/
def State.onAnswer (s : State) (m : GangMsg) (live : Bool) : State :=
  match s.gangKernel m.ctx m.n with
  | some kh =>
    if ((s.kernel? kh).map (fun k => k.asked)).getD false then
      if live then s.modKernel kh (fun k => { k with asked := false }) else s.gangAborted kh
    else s
  | none => s

def execGangQueryAnswer (msg : GangMsg) (live : Bool) (s : State) : Host.Outcome State Fault Refusal := .next (s.onAnswer msg live)

end Sys2Proof.Machine
end

