-- ==== Sys2Proof/Machine/Deliver.lean ====
section
/-! DEFINITION. What packets of the fabric do when they arrive (06 R130 to R136; 15 R329, R335, R342; 17 R372, R376), their logging and their
delivery under replay (18 R401, R403). Config.lean's `PacketContent` names the contents. -/

namespace Sys2Proof.Machine

/-! ### Contents -/

/-- The gang that a content names, for the contents of TYPE DATA, REQ and RSP (17 R372). -/
def gangOf : Config.PacketContent → Option Nat
  | .chunk _ _ n _ _ _ _ _ _ _ _ _ _ => some n
  | .outcome n _ _ _ => some n
  | .resend n _ _ _ => some n
  | .credit n _ _ _ _ => some n
  | .slot n _ _ _ _ => some n
  | .freed n _ _ _ => some n
  | .closed n _ _ _ => some n
  | .coll n _ _ _ _ _ => some n
  | .share n _ _ _ _ _ _ _ _ _ _ => some n
  | .shareAgain n _ _ _ _ _ => some n
  | .absent n _ _ _ => some n
  | _ => none

/-- The kernel of a content's gang, and its group of a stage and rank on this device. -/
def State.gangMember (s : State) (ctx n stage rank : Nat) : Option (Nat × Kernel × Option Nat) :=
  match s.gangKernel ctx n with
  | none => none
  | some kh => (s.kernel? kh).map (fun k => (kh, k, s.member? kh stage 0 (k.desc.memberCode rank)))

/-- The party of an access of a packet that has arrived (18 R395). -/
def arrivalParty (k : Kernel) (stage : Nat) : W64 := partyOf 5 k.kseq stage 0

/-- One fewer slot away: of the first staging slot of a channel that has one. -/
def Group.slotBack (g : Group) (ch : Nat) : Group :=
  match g.staging.find? (fun p => (g.binding p.1).index == ch && decide (0 < p.2.away)) with
  | some (q, st) => { g with staging := Table.put g.staging q { st with away := st.away - 1 } }
  | none => g

/-- A slot of a member's ring that a successor on another device has freed: of its staging slots, or of what its retired group left. -/
def State.slotFreed (s : State) (kh stage rank : Nat) (k : Kernel) (gid : Option Nat) (ch : Nat) : State :=
  match gid with
  | some gid => s.modGroup gid (fun g => g.slotBack ch)
  | none =>
    match s.orphans.find? (fun p => p.2.kh == kh && p.2.stage == stage && k.desc.globalRank p.2.gangrank == rank && p.2.channel == ch &&
        decide (0 < p.2.away)) with
    | some (id, o) =>
      let o := { o with away := o.away - 1 }
      { s with orphans := if o.words.isEmpty && o.away = 0 then Table.erase s.orphans id else Table.put s.orphans id o }
    | none => s

/-- What a chunk of another device's command lands at a member here (15 R329 to R331). -/
def State.arrivalLanding (s : State) (k : Kernel) (stage gid x : Nat) (bytes : List W8) (bad : List Nat) (full : Bool) (bar credit : Nat) : Landing :=
  let party := arrivalParty k stage
  let r := ((s.group? gid).map (fun g => clusterOf g.core)).getD 0
  ({ base := x, bytes := bytes, bad := bad, full := full, bar := bar, credit := credit
     party := { party := party, ordinal := ((s.hind k.ctx).recorder r).ordinal party, tag := 0 }, todo := [], code := 0, flags := 0
     stamp := 0 } : Landing).towards [some gid] 0

/-- A chunk arrives with a sum (R345): one that does not match is asked for once more, and stands, with CHECKSUM, when it fails again. PROT
and the like come from the sender alone (log 51). -/
def State.takeChunk (s : State) (ctx n id j stage rank sender x : Nat) (bytes : List W8) (bad : List Nat) (full : Bool) (bar : Nat) (sum : W64)
    (again : Bool) : State :=
  let bad_ := chunkSum bytes != sum
  match s.gangMember ctx n stage rank with
  | some (_, _, none) => (s.sendRank 5 ctx sender (.outcome n id j 6)).1
  | some (_, k, some gid) =>
    if bad_ && !again then (s.sendRank 5 ctx sender (.resend n id j rank)).1
    else
      let (s, l) := (s.arrivalLanding k stage gid x bytes bad full bar bytes.length).todo.foldl (fun (r : State × Landing) p => r.1.landPiece r.2 p)
        (s, s.arrivalLanding k stage gid x bytes bad full bar bytes.length)
      (s.sendRank 5 ctx sender (.outcome n id j (if bad_ then lowerCode l.code 8 else l.code))).1
  | none => s

/-- A receiver asks for a chunk once more: it is sent as it was read. -/
def State.resendChunk (s : State) (ctx id j rank : Nat) : State :=
  match Table.get? s.commands id with
  | none => s
  | some c =>
    match s.issuer c, Table.get? c.held j with
    | some (g, k), some l =>
      if c.ctx = ctx ∧ c.away.contains j then
        let (ch, _) := State.chunkOf c g j
        let (s, ok) := s.sendRank 3 ctx ch.dev (chunkPacket id j g k ch l rank true)
        if ok then s else s.endChunk id j 5
      else s
    | _, _ => s

/-- A piece of a contribution arrives with its sum (R345): one that does not match is asked for once more. -/
def State.takeShare (s : State) (ctx n stage cn rank offset : Nat) (piece : Piece) (sum : W64) (again : Bool) : State :=
  match (s.gangKernel ctx n).bind (fun kh => (s.kernel? kh).map (fun k => (kh, k))) with
  | none => s
  | some (kh, k) =>
    let broken := chunkSum piece.bytes != sum
    if broken && !again then (s.sendRank 5 ctx (rank / k.desc.gangGroups) (.shareAgain n stage cn rank offset k.rank)).1
    else
      s.modJoin kh stage 0 cn (fun j => { j with pieces := Table.put j.pieces (pieceKey rank (offset / 4096)) { piece with broken := broken } })

/-- Another device asks for a piece of a contribution once more. -/
def State.shareOnceMore (s : State) (ctx n stage cn rank offset asker : Nat) : State :=
  match (s.gangKernel ctx n).bind (fun kh => (s.kernel? kh).map (fun k => (kh, k))) with
  | none => s
  | some (kh, k) =>
    match (s.joinOf kh stage 0 cn).bind (fun j => (Table.get? j.2.shares rank).map (fun x => (j.2, x))) with
    | none => s
    | some (j, x) =>
      match (j.commands.find? (fun c => c.1 == rank)) with
      | some (_, sub, words) => (s.sendRank 3 ctx asker (sharePacket k j.stage j.n rank (parseColl sub words).dtype x (offset / 4096) true)).1
      | none => s

/-- A packet's content acts in the context it names. -/
def State.takeContent (s : State) (ctx : Nat) (c : Config.PacketContent) : State :=
  match c with
  | .chunk id j n stage rank sender x bytes bad full bar sum again => s.takeChunk ctx n id j stage rank sender x bytes bad full bar sum again
  | .outcome _ id j code =>
    (match Table.get? s.commands id with
     | some c => if c.ctx = ctx ∧ c.away.contains j then s.endChunk id j code else s
     | none => s)
  | .resend _ id j rank => s.resendChunk ctx id j rank
  | .credit n stage rank bar bytes =>
    (match s.gangMember ctx n stage rank with
     | some (_, k, some gid) =>
       let l := s.arrivalLanding k stage gid 0 [] [] false bar bytes
       (l.todo.foldl (fun (r : State × Landing) p => r.1.landPiece r.2 p) (s, l)).1
     | _ => s)
  | .slot n stage rank ch words =>
    (match s.gangMember ctx n stage rank with
     | some (_, k, some gid) => s.landSlot gid k ch words 0 true
     | _ => s)
  | .freed n stage rank ch =>
    (match s.gangMember ctx n stage rank with
     | some (kh, k, gid) => s.slotFreed kh stage rank k gid ch
     | none => s)
  | .closed n stage rank ch =>
    (match s.gangMember ctx n stage rank with
     | some (_, _, some gid) => s.modGroup gid (fun g => { g with rings := Table.put g.rings ch { (g.ring ch) with ended := true } })
     | _ => s)
  | .coll n stage cn rank sub words =>
    (match s.gangKernel ctx n with
     | some kh => s.modJoin kh stage 0 cn (fun j => { j with remote := Table.put j.remote rank (sub, words) })
     | none => s)
  | .share n stage cn rank offset bytes bad sum sigma mu again =>
    s.takeShare ctx n stage cn rank offset { bytes := bytes, bad := bad, sigma := sigma, mu := mu, broken := false } sum again
  | .shareAgain n stage cn rank offset asker => s.shareOnceMore ctx n stage cn rank offset asker
  | .absent n stage cn rank =>
    (match s.gangKernel ctx n with
     | some kh => s.modKernel kh (fun k => { k with gone := k.gone ++ [(stage, rank, cn)] })
     | none => s)
  | .gang kind n rank =>
    let m : GangMsg := { ctx := ctx, rank := rank, n := n }
    (match kind with
     | 1 => s.onAck m
     | 2 => s.onFail m
     | 3 => s.onCommit m
     | 4 => s.onAbort m
     | 5 => s.onFail m
     | 6 => s.onDone m
     | 7 => s.onQuery m
     | 8 => s.onAnswer m true
     | 9 => s.onAnswer m false
     | _ => s)
  | .reserve n toexp desc prio tag smask sval peers =>
    s.onReserve { ctx := ctx, n := n, toexp := toexp, desc := desc, prio := prio, tag := tag, smask := smask, sval := sval, peers := peers }
  | .other => s

/-! ### Arrival -/

/-- The header of a packet that has arrived. -/
def HeldPacket.head (p : HeldPacket) : Header := Header.fields (leNat p.header % 2 ^ 120)

/-- Its content: TYPE GANG carries the messages of a gang, the other types what TYPE GANG does not (17 R370, R372). -/
def HeldPacket.content (p : HeldPacket) : Config.PacketContent :=
  let c := Config.packetContent p.payload
  let gangs : Bool := match c with
    | .gang _ _ _ => true
    | .reserve _ _ _ _ _ _ _ _ => true
    | _ => false
  if gangs = (p.head.typ == 6) then c else .other

/-- ARRIVE with its DATA entries (18 R401). -/
def HeldPacket.entries (p : HeldPacket) : List HcEntry :=
  let ds := piecesOf 31 256 p.payload
  recordOf 32 [(0, 1, 8), (2, 2, ds.length), (4, 4, p.head.e2e), (8, 8, p.head.src + 65536 * p.head.ctx), (16, 16, leNat p.header)] ::
    ds.map (fun d => leBytes 1 9 ++ d ++ List.replicate (31 - d.length) 0)

/-- The messages of R130 that a coordinator acts on from its gang table, also while its context is Suspended. -/
def forCoordinator : Config.PacketContent → Bool
  | .gang kind _ _ => [1, 2, 5, 6, 7].contains kind
  | .reserve _ _ _ _ _ _ _ _ => true
  | _ => false

/-- A packet acts, and is logged while its context records. -/
def State.admitPacket (s : State) (p : HeldPacket) : State :=
  let ctx := p.head.ctx
  (p.entries.foldl (fun s e => s.logEntry ctx (recLink p.link) e) s).takeContent ctx p.content

/-- Is a packet for a member of a gang that has still to be loaded or restored here (15 R329, R336)? -/
def State.memberAwaited (s : State) (ctx : Nat) (c : Config.PacketContent) : Bool :=
  let awaited (n stage rank : Nat) : Bool := match s.gangMember ctx n stage rank with
    | some (kh, k, none) => s.memberComing kh stage 0 (k.desc.memberCode rank)
    | _ => false
  match c with
  | .chunk _ _ n stage rank _ _ _ _ _ _ _ _ => awaited n stage rank
  | .credit n stage rank _ _ => awaited n stage rank
  | .slot n stage rank _ _ => awaited n stage rank
  | .freed n stage rank _ => awaited n stage rank
  | .closed n stage rank _ => awaited n stage rank
  | _ => false

/-- Must a packet wait at its link: for the Resume of its context (04 R93), for the recorder (18 R402), or for its receiver? -/
def State.packetWaits (s : State) (p : HeldPacket) : Bool :=
  ((s.context p.head.ctx).state == .suspended && !forCoordinator p.content) || s.recorderStalls p.head.ctx (recLink p.link) ||
    s.memberAwaited p.head.ctx p.content

/-- A packet that has passed the checks of 17 R372 reaches its context. Under replay real arrivals are discarded (18 R403). -/
def State.packetArrives (s : State) (p : HeldPacket) : State :=
  let ctx := p.head.ctx
  if (s.hind ctx).replaying then s
  else if s.packetWaits p || (s.context ctx).heldPackets.any (fun q => q.link == p.link && !forCoordinator p.content) then
    s.modContext ctx (fun c => { c with heldPackets := c.heldPackets ++ [p] })
  else s.admitPacket p

/-- The oldest packet that waits at a link and may act now. -/
def State.nextHeld (s : State) (l : Nat) : Option (Nat × HeldPacket) :=
  (s.contexts.filterMap (fun x =>
    (x.2.heldPackets.find? (fun p => p.link == l && !s.packetWaits p)).map (fun p => (x.1, p)))).head?

/-! ### Replay (18 R403) -/

/-- The next packet that the log of a context gives a link, and what stays of the log without it. -/
def Hindcast.nextArrival (h : Hindcast) (l : Nat) : Option (HeldPacket × List HcEntry) :=
  let es := h.segment (recLink l)
  match es with
  | e :: rest =>
    if leAt e 0 1 = 8 then
      let n := leAt e 2 2
      let bytes := (rest.take n).flatMap (fun d => (d.drop 1).take 31)
      some ({ link := l, header := (e.drop 16).take 16, payload := bytes.take (bytes.length / 232 * 232) },
        (Table.read [] h.log (recLink l)).drop (n + 1))
    else none
  | [] => none

/-- May the accesses of a logged packet be performed now: every logged predecessor has been served, and its place is there? -/
def State.arrivalReady (s : State) (ctx : Nat) (c : Config.PacketContent) : Bool :=
  let pieces (n stage rank x : Nat) (bytes : List W8) (bar : Nat) : Bool := match s.gangMember ctx n stage rank with
    | some (_, k, some gid) =>
      let l := s.arrivalLanding k stage gid x bytes [] false bar 0
      l.todo.all (fun p => s.pieceServed l [] p)
    | some (kh, k, none) => !s.memberComing kh stage 0 (k.desc.memberCode rank)
    | none => false
  match c with
  | .chunk _ _ n stage rank _ x bytes _ _ bar _ _ => pieces n stage rank x bytes bar
  | .credit n stage rank bar _ => pieces n stage rank 0 [] bar
  | .slot n stage rank ch _ =>
    (match s.gangMember ctx n stage rank with
     | some (_, k, some gid) => ((s.group? gid).map (fun g => s.slotServed k gid g ch)).getD false
     | some (kh, k, none) => !s.memberComing kh stage 0 (k.desc.memberCode rank)
     | none => false)
  | c => (match gangOf c with | some n => (s.gangKernel ctx n).isSome | none => true) && !s.memberAwaited ctx c

/-- The next logged packet of a link, in a context that is being replayed. -/
def State.replayArrival (s : State) (l : Nat) : State :=
  match s.contexts.filterMap (fun x =>
      if x.2.hind.replaying && x.2.state == .active then
        (match x.2.hind.nextArrival l with
         | some (p, log) => if s.arrivalReady x.1 p.content then some (x.1, p, log) else none
         | none => none)
      else none) with
  | (ctx, p, log) :: _ => (s.modHind ctx (fun h => { h with log := Table.put h.log (recLink l) log })).takeContent ctx p.content
  | [] => s

/-- What stands at a link and can act now does: a packet that has waited, or the next one of a log. -/
def State.linkDelivers (s : State) (l : Nat) : State :=
  match s.nextHeld l with
  | some (ctx, p) => (s.modContext ctx (fun c => { c with heldPackets := c.heldPackets.erase p })).admitPacket p
  | none => s.replayArrival l

end Sys2Proof.Machine
end

