-- ==== Sys2Proof/Machine/Links.lean ====
section
/-! DEFINITION. Fabric links and the Zhevport (17 R369 to R380): the receiver's checks, retry, isolation and rerouting, the link states and
their commands. -/

namespace Sys2Proof.Machine

/-! ### What a link that isolates has held (R376) -/

/-- The packets that a run of flits ends: each header with its whole payload. -/
def packetsOf : List Flit → List W8 → List (Header × List W8)
  | [], _ => []
  | f :: fs, acc =>
    if f.head.nflit = 0 then (f.head, acc ++ f.payload) :: packetsOf fs [] else packetsOf fs (acc ++ f.payload)

/-- The effect of a packet's drop: an engine chunk fails with DROPPED. -/
def State.packetDropped (s : State) (h : Header) (payload : List W8) : State :=
  if h.src ≠ s.dev.devid then s
  else
    match Config.packetContent payload with
    | .chunk id j _ _ _ _ _ _ _ _ _ _ _ => if ((Table.get? s.commands id).map (fun c => c.away.contains j)).getD false then s.endChunk id j 5 else s
    | _ => s

/-- A packet goes out whole over a route that stands, or is dropped and counted at link `l`. -/
def State.resend (s : State) (l : Nat) (h : Header) (payload : List W8) : State :=
  match s.routeTo h.dst with
  | some r => s.modLink r (fun k => k.sendPacket h payload)
  | none => (s.modLink l (fun k => { k with dropped := k.dropped + 1 })).packetDropped h payload

/-- A link leaves the route table (R375). -/
def State.dropRoutes (s : State) (l : Nat) : State := { s with routes := s.routes.mapAll (fun _ ls => ls.filter (fun k => k != l)) }

/-- The device on which the receivers of a command's chunks stand. -/
def State.chunkDevice (s : State) (c : Command) : Option Nat :=
  if c.gather then none else ((s.context c.ctx).peers[(parseCopy c.words).dev]?).map Prod.fst

/-- Chunks on their way to a device to which no path is left fail with DROPPED (15 R331). -/
def State.dropAway (s : State) : State :=
  (s.commands.flatMap (fun p => if ((s.chunkDevice p.2).map (fun d => !s.reachable d)).getD false then p.2.away.map (fun j => (p.1, j)) else [])).foldl
    (fun s x => s.endChunk x.1 x.2 5) s

/-- Everything a link holds unacknowledged is resent over other routes or dropped; then gangs that have lost a path abort (06 R131). -/
def State.rerouteHeld (s : State) (l : Nat) : State :=
  let k := s.link l
  let ps := packetsOf ((k.kept ++ k.replay ++ k.backlog).filter (fun f => decide (3 ≤ f.head.typ))) []
  let s := s.modLink l (fun k => { k with
    replay := []
    sent := 0
    backlog := []
    kept := []
    partialFlits := []
    flushing := false })
  ((ps.foldl (fun s p => s.resend l p.1 p.2) s).dropAway).dropShares.checkPaths

/-- A link isolates (R375, R376). -/
def State.isolateLink (s : State) (l : Nat) : State :=
  ((s.modLink l (fun k => { k with
    state := .isolated
    isol := k.isol + 1 })).dropRoutes l).rerouteHeld l

/-- A link that carried traffic trains again; its unacknowledged flits are held. -/
def State.retrainLink (s : State) (l : Nat) (since : Option Nat) : State :=
  s.modLink l (fun k => { k with
    state := .training
    retrain := k.retrain + 1
    naks := 0
    sinceExceed := since })

/-- An exceedance (R374, R375): within 4 periods of one that caused training the link isolates, otherwise it trains. -/
def State.exceed (s : State) (l : Nat) : State :=
  if (s.link l).carries then
    match (s.link l).sinceExceed with
    | some n => if n ≤ 4 then s.isolateLink l else s.retrainLink l (some 0)
    | none => s.retrainLink l (some 0)
  else s

/-! ### FLIT_RECEIVE (R372, R373) -/

/-- A NAK is sent: its ACK is the last flit received in order. -/
def Link.sendNak (l : Link) (dev : Nat) : Link := l.sendFlit (plainHeader 2 l.peer dev) []

/-- Do two flits belong to one packet? -/
def samePacket (a b : Header) : Bool := a.src == b.src && a.dst == b.dst && a.e2e == b.e2e && a.typ == b.typ && a.ctx == b.ctx

/-- A flit of a packet joins those that came before it; the first flit and the payload of a packet that is whole. -/
def Link.assemble (k : Link) (f : Flit) (h : Header) : Link × Option (Flit × List W8) :=
  let fs := (k.partialFlits ++ [f]).filter (fun g => samePacket g.head h)
  if h.nflit ≠ 0 then ({ k with partialFlits := k.partialFlits ++ [f] }, none)
  else
    ({ k with partialFlits := k.partialFlits.filter (fun g => !samePacket g.head h) },
      match fs with
      | first :: _ => if first.head.nflit + 1 = fs.length then some (first, fs.flatMap Flit.payload) else none
      | [] => none)

/-- Steps 5 to 8 of R372 on a whole packet. -/
def State.packetReceived (s : State) (l : Nat) (h : Header) (p : HeldPacket) : State :=
  let c := s.context h.ctx
  let seen := Table.read [] s.e2eSeen h.src
  if h.dst ≠ s.dev.devid then s.resend l h p.payload
  else if h.typ = 7 then s
  else if c.state = .tornDown ∨ c.state = .tearing then { s with dev := { s.dev with kdrop := s.dev.kdrop + 1 } }
  else if h.typ ≠ 6 && !(c.peers.any (fun q => q.1 == h.src) && (match gangOf p.content with
      | some n => (s.gangKernel h.ctx n).isSome || (c.state == .suspended && c.keptGangs.contains n)
      | none => false)) then s.modLink l (fun k => { k with misroute := k.misroute + 1 })
  else if seen.contains h.e2e then s
  else ({ s with e2eSeen := Table.put s.e2eSeen h.src ((h.e2e :: seen).take 32768) }).packetArrives p

/-- A flit that has passed the checks of the link, with its header as corrected: from step 4 of R372 on. -/
def State.flitAccepted (s : State) (l : Nat) (h : Header) (bytes : List W8) : State :=
  let s := s.modLink l (fun k => (({ k with rxNext := (k.rxNext + 1) % 4096 }).acknowledge fibre h.ack))
  if 9 ≤ h.typ ∨ h.rsv ≠ 0 then s.modLink l (fun k => { k with misroute := k.misroute + 1 })
  else if h.typ = 2 then
    let s := s.modLink l (fun k => { k.resendAll with naks := k.naks + 1 })
    if (s.link l).naks = (s.link l).retryMax + 1 then s.exceed l else s
  else if h.typ < 3 ∨ h.typ = 8 then s
  else
    let f : Flit := { seq := h.seq, bytes := leBytes 16 h.encode ++ bytes.drop 16 }
    let (k, packet) := (s.link l).assemble f h
    let s := s.modLink l (fun _ => k)
    match packet with
    | some (first, payload) => s.packetReceived l h { link := l, header := first.bytes.take 16, payload := payload }
    | none => s

/-- FLIT_RECEIVE: the checks of R372 in order. A link that is Down while Disable's flush runs takes acknowledgements only. With no bytes, what
waits at the link, or the next packet of a log, is delivered. -/
def execFlitReceive (link : Nat) (flit : List W8) (s : State) : Host.Outcome State Fault Refusal :=
  .next (
    let l := s.link link
    if 16 ≤ link then s
    else if flit.isEmpty then s.linkDelivers link
    else if !l.carries && !l.flushing then s
    else
      let bytes := (flit ++ List.replicate 256 0).take 256
      match checkHeader (leNat (bytes.take 16)) with
      | .bad => if l.flushing then s else s.modLink link (fun k => ({ k with hdrop := k.hdrop + 1 }).sendNak s.dev.devid)
      | .good h => go s link h bytes
      | .corrected h => go (s.modLink link (fun k => { k with corr := k.corr + 1 })) link h bytes)
where
  go (s : State) (l : Nat) (h : Header) (bytes : List W8) : State :=
    if crc64 ((bytes.drop 16).take 232) ≠ BitVec.ofNat 64 (leAt bytes 248 8) then
      if (s.link l).flushing then s else s.modLink l (fun k => ({ k with crcerr := k.crcerr + 1 }).sendNak s.dev.devid)
    else if h.seq ≠ (s.link l).rxNext then s
    else if (s.link l).flushing then s.modLink l (fun k => (({ k with rxNext := (k.rxNext + 1) % 4096 }).acknowledge fibre h.ack))
    else s.flitAccepted l h bytes

/-- RETRY_PERIOD (R374). -/
def execRetryPeriod (link : Nat) (s : State) : Host.Outcome State Fault Refusal :=
  .next (if 16 ≤ link then s
    else
      let s := if (s.link link).retryMax < (s.link link).naks then s.exceed link else s
      s.modLink link (fun k => { k with
        naks := 0
        sinceExceed := k.sinceExceed.map (fun n => n + 1) }))

/-! ### Training (R374, R375) -/

/-- LINK_TRAINED: the wavelengths that its test finds good, among those not disabled yet; the rest stays disabled until Enable or Recover (R374). -/
def execLinkTrained (link : Nat) (found : Training) (s : State) : Host.Outcome State Fault Refusal :=
  .next (if 16 ≤ link ∨ (s.link link).state ≠ .training then s
    else
      let tx := min found.txGood (s.link link).txLive
      let rx := min found.rxGood (s.link link).rxLive
      let s := s.modLink link (fun k => { k with
        txGood := tx
        rxGood := rx
        txLive := tx
        rxLive := rx })
      if tx < 64 ∨ rx < 64 ∨ found.peer % 4096 = s.dev.devid then s.isolateLink link
      else
        let peer := found.peer % 4096
        let s := s.modLink link (fun k => { k with
          state := if tx = 256 ∧ rx = 256 then .up else .degraded
          peer := peer })
        let ls := (Table.read [] (s.dropRoutes link).routes peer) ++ [link]
        { s with routes := Table.put (s.dropRoutes link).routes peer ls })

/-- LINK_TRAIN_TIMEOUT: no training within 2^22 cycles. -/
def execLinkTrainTimeout (link : Nat) (s : State) : Host.Outcome State Fault Refusal :=
  .next (if 16 ≤ link ∨ (s.link link).state ≠ .training then s else s.isolateLink link)

/-- LINK_SILENCE: no valid flit for 2^16 cycles. -/
def execLinkSilence (link : Nat) (s : State) : Host.Outcome State Fault Refusal :=
  .next (if 16 ≤ link ∨ !(s.link link).carries then s else s.retrainLink link (s.link link).sinceExceed)

/-- DISABLE_FLUSH_TIMEOUT. -/
def execDisableFlushTimeout (link : Nat) (s : State) : Host.Outcome State Fault Refusal :=
  .next (if 16 ≤ link ∨ !(s.link link).flushing then s else s.rerouteHeld link)

/-! ### LinkCtl on a fabric link (R375, R379) -/

/-- The limits of LinkCtl. -/
def linkCtlOk (c : List W8) : Bool :=
  let rp := leAt c 6 1
  decide (leAt c 2 2 < 20) && (rp == 0 || (decide (16 ≤ rp) && decide (rp ≤ 28))) && zeroAt c 7 1 && zeroAt c 8 16 && zeroAt c 0x1C 4 &&
    (decide (leAt c 2 2 < 16) || (leAt c 4 2 == 0 && rp == 0))

/-- RETRYMAX and RPEXP of an accepted LinkCtl. -/
def Link.tuned (l : Link) (c : List W8) : Link :=
  { l with
    retryMax := if leAt c 4 2 = 0 then l.retryMax else leAt c 4 2
    rpexp := if leAt c 6 1 = 0 then l.rpexp else leAt c 6 1 }

/-- Nothing of a link waits for an acknowledgement. -/
def Link.quiet (l : Link) : Bool := l.replay.isEmpty && l.kept.isEmpty && l.backlog.isEmpty

/-- A link begins to train afresh: what it still held is handled as R376, and sequence numbers restart (log 16). -/
def State.startLink (s : State) (l : Nat) : State :=
  let s := if (s.link l).quiet then s else s.rerouteHeld l
  s.modLink l (fun k => { k with
    state := .training
    peer := 0
    txGood := 0
    rxGood := 0
    txLive := 256
    rxLive := 256
    rxNext := 0
    txNext := 0
    naks := 0
    sinceExceed := none
    replay := []
    sent := 0
    backlog := []
    kept := []
    partialFlits := []
    flushing := false })

/-- Enable, on a fabric link. -/
def State.enableLink (s : State) (l : Nat) (c : List W8) : State × Nat :=
  if (s.link l).state = .down then ((s.startLink l).modLink l (fun k => k.tuned c), stDone) else (s, stState)

/-- Recover, on a fabric link. -/
def State.recoverLink (s : State) (l : Nat) (c : List W8) : State × Nat :=
  if (s.link l).state = .isolated then ((s.startLink l).modLink l (fun k => k.tuned c), stDone) else (s, stState)

/-- Disable, on a fabric link: traffic takes other routes, and what is not acknowledged waits for DISABLE_FLUSH_TIMEOUT. -/
def State.disableLink (s : State) (l : Nat) (c : List W8) : State × Nat :=
  if (s.link l).state = .down then (s, stState)
  else
    let s := (s.dropRoutes l).modLink l (fun k => { (k.tuned c) with
      state := .down
      peer := 0
      txGood := 0
      rxGood := 0
      partialFlits := []
      flushing := !k.quiet })
    (if (s.link l).flushing then s else s.dropAway.dropShares.checkPaths, stDone)

/-! ### The Zhevport (R380) -/

/-- ZHEVPORT_TRAINED. -/
def execZhevportTrained (good : Bool) (s : State) : Host.Outcome State Fault Refusal :=
  .next (if s.zhevport ≠ .training then s
    else if good then { s with
      zhevport := .up
      zhevFails := 0 }
    else if s.zhevFails = 7 then { s with
      zhevport := .isolated
      zhevFails := 0 }
    else { s with zhevFails := s.zhevFails + 1 })

/-- ZHEVPORT_ISOLATION_EXPIRY. -/
def execZhevportIsolationExpiry (s : State) : Host.Outcome State Fault Refusal :=
  .next (if s.zhevport = .isolated then { s with zhevport := .training } else s)

end Sys2Proof.Machine
end

