-- ==== Sys2Proof/Machine/Ports.lean ====
section
/-! DEFINITION. CXL ports (17 R381 to R388; 13 R298, R299): PortCfg and LinkCtl, training and isolation, responses, the host's snoops and its
accesses to the host window. -/

namespace Sys2Proof.Machine

/-! ### Isolation (R385) -/

/-- Is a line in the window of port `b`? -/
def inWindow (b line : Nat) : Bool :=
  decide (cxlBase + b * 0x1000000000000 ≤ 128 * line) && decide (128 * line < cxlBase + (b + 1) * 0x1000000000000)

/-- The lines of a port's window that slices hold. -/
def State.windowLines (s : State) (b : Nat) : List Nat := (s.l2.flatMap (fun p => (p.2.filter (fun q => inWindow b q.1)).map Prod.fst)).eraseDups

/-- The 64-byte units of a dirty line that DISCARD counts, by the port's role. -/
def L2Line.discarded (l : L2Line) (host : Bool) : Nat :=
  if host then boolNat (l.half0 == 3) + boolNat (l.half1 == 3) else if l.half0 = 3 ∨ l.half1 = 3 then 2 else 0

/-- Steps 1 to 3 of R385: every outstanding request completes, and every line of the window is invalidated. -/
def State.closeWindow (s : State) (b : Nat) : State :=
  let host : Bool := (s.port b).role == 1
  (s.windowLines b).foldl (fun s line =>
      let n := (((slicesOf (128 * line)).filterMap (fun q => Table.get? (s.l2Of q) line)).map (fun l => l.discarded host)).sum
      let s := s.modPort b (fun p => { p with discard := p.discard + BitVec.ofNat 64 n })
      (slicesOf (128 * line)).foldl (fun s q => s.dropL2 q line) s)
    (s.modPort b (fun p => { p with requests := [] }))

/-- Step 4 of R385: a record with the reason 1 a time-out, 2 the link reported down, 3 no training. -/
def State.portError (s : State) (b reason : Nat) : State := s.deviceError 0x0D 0 (2 * reason) b 0x46

/-- A Disable in progress ends: the port is Down and its command completes (R386). -/
def State.endDisable (s : State) (b : Nat) : State :=
  let s := (s.closeWindow b).modPort b (fun p => { p with
    state := .down
    disabling := false })
  (s.pending.filter (fun p => p.2.kind == 5 && p.2.ctx == b)).foldl (fun s p =>
    ({ s with pending := Table.erase s.pending p.1 }).answer p.2.asker stDone) s

/-- A port isolates (R385), with `timeouts` time-outs counted. -/
def State.isolatePort (s : State) (b reason timeouts : Nat) : State :=
  let s := (s.modPort b (fun p => { p with timeouts := p.timeouts + BitVec.ofNat 64 timeouts })).portError b reason
  if (s.port b).disabling then s.endDisable b
  else (s.closeWindow b).modPort b (fun p => { p with state := .isolated })

/-- CXL_TRAINED: firmware programs the first of the 8 HDM decoders over the expander's capacity, rounded down to 256 MiB (R381, R383, R386). -/
def execCxlTrained (port : Nat) (found : CxlTraining) (s : State) : Host.Outcome State Fault Refusal :=
  .next (if 4 ≤ port ∨ (s.port port).state ≠ .training then s
    else s.modPort port (fun p => { p with
      state := .up
      narrow := found.narrow
      slow := found.slow
      capacity := if p.role = 2 then found.capacity else p.capacity
      hdm := if p.role = 2 then (0, found.capacity / 0x10000000 * 0x10000000) :: List.replicate 7 (0, 0) else p.hdm }))

/-- CXL_TRAIN_TIMEOUT. -/
def execCxlTrainTimeout (port : Nat) (s : State) : Host.Outcome State Fault Refusal :=
  .next (if 4 ≤ port ∨ (s.port port).state ≠ .training then s else s.isolatePort port 3 0)

/-- CXL_REQUEST_TIMEOUT (R385). -/
def execCxlRequestTimeout (port request : Nat) (s : State) : Host.Outcome State Fault Refusal :=
  .next (if 4 ≤ port ∨ (s.port port).state ≠ .up ∨ (Table.get? (s.port port).requests request).isNone then s else s.isolatePort port 1 1)

/-- CXL_LINK_DOWN (R386): as if every outstanding request timed out. -/
def execCxlLinkDown (port : Nat) (s : State) : Host.Outcome State Fault Refusal :=
  .next (if 4 ≤ port ∨ (s.port port).state ≠ .up then s else s.isolatePort port 2 (s.port port).requests.length)

/-! ### Commands (R379, R386) -/

/-- Enable, on a port. -/
def State.enablePort (s : State) (b : Nat) : State × Nat :=
  if (s.port b).state = .down ∧ (s.port b).role ≠ 0 then (s.modPort b (fun p => { p with state := .training }), stDone) else (s, stState)

/-- Recover, on a port. -/
def State.recoverPort (s : State) (b : Nat) : State × Nat :=
  if (s.port b).state = .isolated then (s.modPort b (fun p => { p with state := .training }), stDone) else (s, stState)

/-- LINK_ENABLE (R375, R379, R386). -/
def execLinkEnable (s : State) : Host.Outcome State Fault Refusal :=
  .next (s.runCommand 0x40 (fun c => leAt c 1 1 == 0) (fun c s =>
    if !linkCtlOk c then (s, stBadCmd)
    else if leAt c 2 2 < 16 then s.enableLink (leAt c 2 2) c
    else s.enablePort (leAt c 2 2 - 16)))

/-- LINK_RECOVER. -/
def execLinkRecover (s : State) : Host.Outcome State Fault Refusal :=
  .next (s.runCommand 0x40 (fun c => leAt c 1 1 == 2) (fun c s =>
    if !linkCtlOk c then (s, stBadCmd)
    else if leAt c 2 2 < 16 then s.recoverLink (leAt c 2 2) c
    else s.recoverPort (leAt c 2 2 - 16)))

/-- The dirty lines of a port's window are written back (R386), with their poison. -/
def State.writeBackWindow (s : State) (b : Nat) : State :=
  (s.windowLines b).foldl (fun s line => (slicesOf (128 * line)).foldl (fun s q =>
    match Table.get? (s.l2Of q) line with
    | some l => (s.writeBackCxl (128 * line) l).setL2 q line { l with
        dirty := false
        half0 := min l.half0 1
        half1 := min l.half1 1 }
    | none => s) s) s

/-- LINK_DISABLE: a port that is Up writes its dirty lines back and waits for what is outstanding; the command completes when it is Down. -/
def execLinkDisable (s : State) : Host.Outcome State Fault Refusal :=
  .next (match s.headCommand with
    | none => s
    | some (slot, c) =>
      if leAt c 0 1 ≠ 0x40 ∨ leAt c 1 1 ≠ 1 then s
      else
        let s := s.acceptCommand
        if !linkCtlOk c then s.answerSlot slot stBadCmd
        else if leAt c 2 2 < 16 then
          let (s, st) := s.disableLink (leAt c 2 2) c
          s.answerSlot slot st
        else
          let b := leAt c 2 2 - 16
          let p := s.port b
          if p.state = .down ∨ p.disabling then s.answerSlot slot stState
          else
            let s := { s with
              pending := Table.put s.pending s.nextId { kind := 5, ctx := b, asker := .ring slot, area := 0, size := 0, via := 0 }
              nextId := s.nextId + 1 }
            let s := if p.state = .up then s.writeBackWindow b else s
            if p.state = .up ∧ !(s.port b).requests.isEmpty then s.modPort b (fun p => { p with disabling := true })
            else s.endDisable b)

/-- The limits of PortCfg. -/
def portCfgOk (c : List W8) : Bool :=
  let role := leAt c 1 1
  let base := leAt c 8 8
  let size := leAt c 0x10 8
  (role == 1 || role == 2) && decide (leAt c 4 1 < 4) && decide (10 ≤ leAt c 5 1) && decide (leAt c 5 1 ≤ 24) && zeroAt c 6 2 && zeroAt c 0x1C 4 &&
    (if role = 1 then
      decide (leAt c 2 2 ≤ 1023) && base % 0x40000000 == 0 && size % 0x40000000 == 0 && decide (base + size ≤ 0xC000000000)
    else leAt c 2 2 == 0 && base == 0 && size == 0)

/-- PORTCFG (R379). -/
def execPortcfg (s : State) : Host.Outcome State Fault Refusal :=
  .next (s.runCommand 0x41 (fun _ => true) (fun c s =>
    let b := leAt c 4 1
    let ctx := leAt c 2 2
    let st := (s.context ctx).state
    if !portCfgOk c then (s, stBadCmd)
    else if (s.port b).state ≠ .down then (s, stState)
    else if leAt c 1 1 = 1 ∧ ctx ≠ 0 ∧ st ≠ .configured ∧ st ≠ .active ∧ st ≠ .suspended ∧ st ≠ .faulted then (s, stNoCtx)
    else
      (s.modPort b (fun p => { p with
        role := leAt c 1 1
        toexp := leAt c 5 1
        ctx := ctx
        winBase := leAt c 8 8
        winSize := leAt c 0x10 8
        capacity := 0 }), stDone)))

/-! ### CXL_RESPONSE (R298, R384, R388) -/

/-- The response of a log as it stands there: the half-line's number as the port's tag, GO and the poison bit in the header, the data in DATA
entries (18 R401, log 10). -/
def responseEntries (b half : Nat) (a : CxlAnswer) : List HcEntry :=
  let ds := piecesOf 31 4 ((a.data ++ List.replicate 64 0).take 64)
  recordOf 32 [(0, 1, 8), (2, 2, ds.length), (4, 4, half), (8, 8, b), (16, 1, a.go), (17, 1, boolNat a.poison)] ::
    ds.map (fun d => leBytes 1 9 ++ d ++ List.replicate (31 - d.length) 0)

/-- The logged response for a half-line, and the port's log without it. -/
def Hindcast.loggedResponse (h : Hindcast) (b half : Nat) : Option (CxlAnswer × List HcEntry) :=
  let es := Table.read [] h.log (recPort b)
  let before := es.takeWhile (fun e => !isResponse half e)
  match es.drop before.length with
  | e :: rest =>
    let n := leAt e 2 2
    some ({ data := ((rest.take n).flatMap (fun d => (d.drop 1).take 31)).take 64, poison := leAt e 17 1 == 1, go := leAt e 16 1 },
      before ++ rest.drop n)
  | [] => none

/-- The half-line as a response leaves it: the state that GO grants, or the expander's data as its memory holds them. RdOwnNoData brings no data, so
a half-line that a snoop has taken in the meantime stays I. -/
def State.fillHalf (s : State) (l : L2Line) (kind half : Nat) (host : Bool) (a : CxlAnswer) : L2Line :=
  let h := half % 2
  let old := l.half h
  let bytes := if host then (a.data ++ List.replicate 64 0).take 64 else s.memory.read l.key (64 * half) 64
  let base := if l.data.length = 128 then l.data else List.replicate 128 0
  let filled := decide (kind ≠ 3)
  if kind = 3 ∧ old = 0 then l
  else
    { (l.setHalf h (if host then a.go else 1)) with
      data := if filled then overlay base (64 * h) bytes else base
      poison := l.poison || (filled && (a.poison || (!host && s.memory.poisoned (half / 2)))) }

/-- A response completes a request: one without the GO that a read or an ownership request of host memory needs is none (R298). -/
def State.takeResponse (s : State) (b request : Nat) (r : PortRequest) (a : CxlAnswer) : State :=
  let pa := 64 * r.half
  let host := s.isHost pa
  let place := homeSlice pa
  if r.fills && host && (if r.kind = 0 then a.go != 1 && a.go != 2 else a.go != 2) then s
  else
    let s := if r.fills then s.setL2 place (lineOf pa) (s.fillHalf (s.l2At place pa) r.kind r.half host a) else s
    let s := s.modPort b (fun p => { p with
      requests := Table.erase p.requests request
      poisonIn := if a.poison then p.poisonIn + 1 else p.poisonIn })
    if (s.port b).disabling && (s.port b).requests.isEmpty then s.endDisable b else s

/-- CXL_RESPONSE: for a context that records, the response is logged; for one that is replayed, the log's stands in its place. -/
def execCxlResponse (port request : Nat) (answer : CxlAnswer) (s : State) : Host.Outcome State Fault Refusal :=
  .next (match (if port < 4 then Table.get? (s.port port).requests request else none) with
    | none => s
    | some r =>
      let l := s.l2At (homeSlice (64 * r.half)) (64 * r.half)
      match s.replayedLine l with
      | some ctx =>
        (match (s.hind ctx).loggedResponse port r.half with
         | some (a, log) => (s.modHind ctx (fun h => { h with log := Table.put h.log (recPort port) log })).takeResponse port request r a
         | none => s)
      | none =>
        if (s.port port).state ≠ .up then s
        else
          match s.keyContext l.key with
          | some ctx =>
            if s.recorderStalls ctx (recPort port) then s
            else ((responseEntries port r.half answer).foldl (fun s e => s.logEntry ctx (recPort port) e) s).takeResponse port request r answer
          | none => s.takeResponse port request r answer)

/-! ### Snoops (R298) -/

/-- What goes back to the requester at a port (R298, R381, R382). -/
def State.answerPort (s : State) (port status : Nat) (data : List W8) : State :=
  { s with reply := some { source := port + 1, status := status, data := data } }

/-- A snoop of a half-line of host memory at an upstream port that is Up: the state it leaves, and the answers for M, for E or S and for I; data goes
with the first. A pinned line is answered after its pins are released. -/
def State.snoop (s : State) (port half : Nat) (f : Nat → Nat) (dirty clean gone : Nat) : State :=
  let pa := 64 * half
  let place := homeSlice pa
  if 4 ≤ port ∨ (s.port port).state ≠ .up ∨ !inWindow port (lineOf pa) ∨ !s.isHost pa then s
  else
    match Table.get? (s.l2Of place) (lineOf pa) with
    | some l =>
      let st := l.half (half % 2)
      if l.pins ≠ 0 then s
      else
        (s.setL2 place (lineOf pa) (l.setHalf (half % 2) (f st))).answerPort port (if st = 3 then dirty else if st = 0 then gone else clean)
          (if st = 3 then l.halfData (half % 2) else [])
    | none => s.answerPort port gone []

/-- SNPINV: a half-line in M is forwarded to the host with its data; every half-line becomes I. -/
def execSnpinv (port half : Nat) (s : State) : Host.Outcome State Fault Refusal := .next (s.snoop port half (fun _ => 0) 3 4 5)

/-- SNPDATA: M, E and S become S; of a half-line in I the spec gives no answer, and the model takes RspIHitI (log 43). -/
def execSnpdata (port half : Nat) (s : State) : Host.Outcome State Fault Refusal := .next (s.snoop port half (fun st => min st 1) 6 7 5)

/-- SNPCUR: the state is unchanged. -/
def execSnpcur (port half : Nat) (s : State) : Host.Outcome State Fault Refusal := .next (s.snoop port half id 8 9 5)

/-! ### The host window (R382, R299) -/

/-- A host access of `n` bytes at an offset of the window, as an access of the port's context's engines: its address, where it is granted. -/
def State.hostAccess (s : State) (port offset n : Nat) (write : Bool) : Option Nat :=
  let p := s.port port
  let pa := p.winBase + offset
  if port < 4 ∧ p.state = .up ∧ p.role = 1 ∧ p.ctx ≠ 0 ∧ 0 < n ∧ offset % 64 + n ≤ 64 ∧ offset + n ≤ p.winSize ∧
      s.granted p.ctx pa n true write then some pa else none

/-- One host access: served at the home slice under the context's key, a write with VIEW 0 (R299), poisoned if its data is (R384); or denied and
answered with poison; or its line is not ready. The flag says whether it is done. -/
def State.serveHost (s : State) (port : Nat) (a : HostAccess) : State × Bool :=
  match s.hostAccess port a.offset a.bytes a.write with
  | none => (s.answerPort port 1 [], true)
  | some pa =>
    let key := (s.context (s.port port).ctx).key
    let s := State.bringTokens (homeSlice pa) pa a.write 4 s
    match (if a.write then s.writeAt (homeSlice pa) pa key a.data 0 else s.readAt (homeSlice pa) pa a.bytes key none) with
    | .served s data _ _ =>
      let s := if a.write then s.recall (lineOf pa) none else s
      ((if a.write && a.poison then s.poisonLine pa else s).answerPort port 0 data, true)
    | .poisoned s => (s.answerPort port 1 [], true)
    | .notYet s => (s, false)

/-- The host accesses of a port are performed in order of arrival: the oldest, if its line is ready. -/
def State.hostGoesOn (s : State) (port : Nat) : State :=
  match (s.port port).hosts with
  | [] => s
  | a :: rest =>
    let (s, done) := s.serveHost port a
    if done then s.modPort port (fun p => { p with hosts := rest }) else s

/-- A host access arrives at a port that is Up, or Isolated, which answers with poison (R382). One whose line is not ready waits, as do those that
come after it. -/
def State.hostArrives (s : State) (port : Nat) (a : HostAccess) : State :=
  let p := s.port port
  if 4 ≤ port ∨ p.role ≠ 1 ∨ (p.state ≠ .up ∧ p.state ≠ .isolated) then s
  else if p.hosts.isEmpty then
    let (s, done) := s.serveHost port a
    if done then s else s.modPort port (fun p => { p with hosts := [a] })
  else s.modPort port (fun p => { p with hosts := p.hosts ++ [a] })

/-- HOST_MEM_READ. -/
def execHostMemRead (port offset bytes : Nat) (s : State) : Host.Outcome State Fault Refusal :=
  .next (s.hostArrives port { offset := offset, bytes := bytes, write := false, data := [], poison := false })

/-- HOST_MEM_WRITE. -/
def execHostMemWrite (port offset : Nat) (data : List W8) (poison : Bool) (s : State) : Host.Outcome State Fault Refusal :=
  .next (s.hostArrives port { offset := offset, bytes := data.length, write := true, data := data, poison := poison })

/-- A host access that has waited goes on. -/
def execHostGoesOn (port : Nat) (s : State) : Host.Outcome State Fault Refusal := .next (s.hostGoesOn port)

/-! ### CXL.io (R381) -/

/-- A word of the configuration space; words that nothing has written are 0 (log 19). -/
def Port.configBytes (p : Port) (word n : Nat) : List W8 := (upTo n).flatMap (fun j => leBytes 4 (Table.read 0 p.config (word + j)).toNat)

/-- CXL_IO_REQUEST: the configuration space of the port's one function. Enumeration reads its header, and error reporting its first extended
capability (log 19). A request that uses an absent part is answered with the unsupported-request completion and changes nothing else. -/
def execCxlIoRequest (port : Nat) (request : IoRequest) (s : State) : Host.Outcome State Fault Refusal :=
  .next (if 4 ≤ port ∨ (s.port port).state ≠ .up then s
    else
      match request with
      | .configWrite offset value =>
        if offset % 4 = 0 ∧ offset < 4096 then
          (s.modPort port (fun p => { p with config := Table.write 0 p.config (offset / 4) value })).answerPort port 0 []
        else s.answerPort port 2 []
      | .configRead offset =>
        if offset % 4 = 0 ∧ offset < 4096 then s.answerPort port 0 ((s.port port).configBytes (offset / 4) 1) else s.answerPort port 2 []
      | .enumerate => s.answerPort port 0 ((s.port port).configBytes 0 16)
      | .errorReport => s.answerPort port 0 ((s.port port).configBytes 64 18)
      | .absentPart => s.answerPort port 2 [])

end Sys2Proof.Machine
end

