-- ==== Sys2Proof/Machine/Device.lean ====
section
/-! DEFINITION. The device block and the management window (22 R463, R464), the fault and error commands (16 R363, 19 R421), attestation (22
R462), power and telemetry (22 R465 to R467), scrubbing and fatal errors (19 R424, R435). -/

namespace Sys2Proof.Machine

/-! ### Invalidate and Resolve (16 R363) -/

/-- INVALIDATE: the command is accepted once every access translated before it has been served. -/
def execInvalidate (s : State) : Host.Outcome State Fault Refusal :=
  .next (match s.headCommand with
    | none => s
    | some (slot, c) =>
      let ctx := commandCtx c
      let log := leAt c 1 1
      let span : Span := if log = 0 then none else some (log, word64 c 8)
      if leAt c 0 1 ≠ 0x30 then s
      else if (log != 0 && (decide (log < 12) || decide (57 < log))) || ctx = 0 || decide (1023 < ctx) || !zeroAt c 4 4 || !zeroAt c 0x10 8 ||
          !zeroAt c 0x1C 4 then s.acceptCommand.answerSlot slot stBadCmd
      else if (s.context ctx).state = .tornDown then s.acceptCommand.answerSlot slot stNoCtx
      else if !s.spanQuiet ctx span then s
      else (s.acceptCommand.invalidate ctx span).answerSlot slot stDone)

/-- RESOLVE. -/
def execResolve (s : State) : Host.Outcome State Fault Refusal :=
  .next (s.runCommand 0x31 (fun _ => true) (fun c s =>
    let ctx := commandCtx c
    if decide (1 < leAt c 1 1) || ctx = 0 || decide (1023 < ctx) || !zeroAt c 4 4 || !zeroAt c 0x10 8 || !zeroAt c 0x1C 4 then (s, stBadCmd)
    else if (s.context ctx).state = .tornDown then (s, stNoCtx)
    else
      match s.faults.find? (fun p => p.2.ctx == ctx && p.2.fid == some (leAt c 8 8)) with
      | some (id, f) => (s.resolve id f (leAt c 1 1 == 1), stDone)
      | none => (s, stStale)))

/-! ### Error queues (19 R421) -/

/-- Records up to a new HEAD are free. -/
def ErrorQueue.free (q : ErrorQueue) (head : Nat) : Option ErrorQueue :=
  if q.head ≤ head ∧ head ≤ q.tail then some { q with head := head } else none

/-- ERRACK. -/
def execErrack (s : State) : Host.Outcome State Fault Refusal :=
  .next (s.runCommand 0x60 (fun _ => true) (fun c s =>
    let ctx := commandCtx c
    if !zeroAt c 1 1 || decide (1023 < ctx) || !zeroAt c 4 4 || !zeroAt c 0x10 8 || !zeroAt c 0x1C 4 then (s, stBadCmd)
    else if ctx = 0 then
      match s.devErrors.free (leAt c 8 8) with
      | some q => ({ s with devErrors := q }, stDone)
      | none => (s, stBadCmd)
    else if !(s.context ctx).everConfigured then (s, stNoCtx)
    else
      match (s.context ctx).errors.free (leAt c 8 8) with
      | some q => (s.modContext ctx (fun x => { x with errors := q }), stDone)
      | none => (s, stBadCmd)))

/-! ### Attestation (22 R461, R462) -/

/-- A context's state as the report and the model number it: the order of R90 (log 6). -/
def ContextState.code : ContextState → Nat
  | .tornDown => 0
  | .allocated => 1
  | .configured => 2
  | .active => 3
  | .suspended => 4
  | .faulted => 5
  | .tearing => 6

/-- The device map's bytes (R463). -/
def State.mapBytes (s : State) : List W8 := s.deviceMap.flatMap (fun p => leBytes 4 p.1.toNat ++ leBytes 4 p.2.toNat)

/-- Bytes 0x000..0x13F of a report. -/
def State.reportBody (s : State) (ctx : Nat) (nonce : List W8) : List W8 :=
  let c := s.context ctx
  let device : Bool := ctx == 0
  let body := recordOf 0x140 [(0, 8, 0x545052545341594B), (8, 4, 1), (0x0C, 2, s.dev.devid), (0x0E, 2, ctx), (0x70, 4, s.dev.fwver.toNat),
    (0x74, 4, s.dev.rollback.toNat), (0x78, 4, if device then 0 else leAt c.ccb 4 4), (0x7C, 4, if device then 0 else c.state.code)]
  let body := overlay (overlay body 0x10 nonce) 0x30 ((s.dev.m0 ++ List.replicate 64 0).take 64)
  let body := if device || c.ccb.isEmpty then body else overlay body 0x80 (shake256 64 c.ccb)
  let body := overlay body 0xC0 (shake256 64 s.mapBytes)
  overlay body 0x100 ((Config.aliasKey s.dev.m0 ++ List.replicate 64 0).take 64)

/-- The report with its signature. -/
def State.report (s : State) (ctx : Nat) (nonce : List W8) : List W8 :=
  let body := s.reportBody ctx nonce
  body ++ ((Config.sign (Config.aliasKey s.dev.m0) body ++ List.replicate 49856 0).take 49856)

/-- ATTEST. -/
def execAttest (s : State) : Host.Outcome State Fault Refusal :=
  .next (s.runCommand 0x70 (fun _ => true) (fun c s =>
    let ctx := commandCtx c
    let a := leAt c 8 8
    if !zeroAt c 1 1 || decide (1023 < ctx) || !zeroAt c 4 4 || !zeroAt c 0x1C 4 || a % 64 ≠ 0 then (s, stBadCmd)
    else if leAt c 0x10 8 < 50176 then (s, stNoSpace)
    else if !s.spanPlaced a 50176 || !s.firmReads a 32 then (s, stBadCmd)
    else if ctx ≠ 0 ∧ (s.context ctx).state = .tornDown then (s, stNoCtx)
    else if ctx ≠ 0 ∧ (s.context ctx).state = .tearing then (s, stState)
    else (s.physWrite a (s.report ctx (s.physRead a 32)), stDone)))

/-! ### Window writes (22 R463, R464) -/

/-- A write that is discarded whole. -/
def State.rejectWrite (s : State) : State := { s with dev := { s.dev with rejwr := s.dev.rejwr + 1 } }

/-- Is every context Torn down? -/
def State.allTorn (s : State) : Bool := s.contexts.all (fun p => p.2.state == .tornDown)

/-- May the pool and the fault ring stand as a device block has them? -/
def DeviceBlock.poolOk (d : DeviceBlock) : Bool :=
  d.poolSize == 0 || (decide (d.poolBase + d.poolSize ≤ 0xC000000000) && decide (d.poolBase ≤ d.frBase) &&
    decide (d.frBase + 32 * 2 ^ d.frLog ≤ d.poolBase + d.poolSize))

/-- A write of a field that is RW*. -/
def State.writeStarred (s : State) (ok : Bool) (d : DeviceBlock) : State :=
  if ok && s.allTorn && d.poolOk then { s with dev := d } else s.rejectWrite

/-- A write of a field that is RW. -/
def State.writeField (s : State) (ok : Bool) (d : DeviceBlock) : State := if ok then { s with dev := d } else s.rejectWrite

/-- NEARCFG (R464): each die whose near store changes has it zeroed. -/
def State.writeNearCfg (s : State) (x : W16) : State :=
  if s.allTorn && !bit x 15 && (upTo 4).all (fun b => decide (field x (3 * b + 2) (3 * b) ≤ 4)) && field x 14 12 == 0 then
    let changed (a : Nat) : Bool :=
      decide (nearBase ≤ a) && decide (a < nearBase + 4 * 0x10000000) &&
        nearBytes x ((a - nearBase) / 0x10000000) != nearBytes s.dev.nearcfg ((a - nearBase) / 0x10000000)
    { s with
      dev := { s.dev with nearcfg := x }
      nearWts := s.nearWts.filter (fun p => !changed (128 * p.1))
      memory := { s.memory with
        bytes := s.memory.bytes.filter (fun c => !changed c.1)
        poison := s.memory.poison.filter (fun p => !changed (128 * p.1)) } }
  else s.rejectWrite

/-- FRHEAD (R464). -/
def State.writeFrHead (s : State) (x : Nat) : State := s.writeField (decide (s.dev.frHead ≤ x) && decide (x ≤ s.dev.frTail)) { s.dev with frHead := x }

/-- NEARCFG_WRITE. -/
def execNearcfgWrite (value : W16) (s : State) : Host.Outcome State Fault Refusal :=
  .next (if s.zhevport = .up then s.writeNearCfg value else s)

/-- FRHEAD_WRITE. -/
def execFrheadWrite (value : W64) (s : State) : Host.Outcome State Fault Refusal :=
  .next (if s.zhevport = .up then s.writeFrHead value.toNat else s)

/-- ZHEVPORT_PHYSICAL_WRITE (16 R352): only the table pool takes physical writes (17 R380). -/
def execZhevportPhysicalWrite (addr : Nat) (bytes : List W8) (s : State) : Host.Outcome State Fault Refusal :=
  .next (if s.zhevport = .up ∧ s.dev.poolBase ≤ addr ∧ addr + bytes.length ≤ s.dev.poolBase + s.dev.poolSize then s.physWrite addr bytes else s)

/-- A write of a field of the device block. -/
def State.writeBlock (s : State) (offset n x : Nat) : State :=
  let d := s.dev
  match offset, n with
  | 0x00C, 2 => s.writeStarred (decide (x < 4096)) { d with devid := x }
  | 0x00E, 2 => s.writeNearCfg (BitVec.ofNat 16 x)
  | 0x010, 8 => s.writeStarred (x % 0x40000000 == 0) { d with poolBase := x }
  | 0x018, 8 => s.writeStarred (x % 0x40000000 == 0) { d with poolSize := x }
  | 0x020, 8 => s.writeStarred (x % 4096 == 0) { d with frBase := x }
  | 0x028, 1 => s.writeStarred (decide (10 ≤ x) && decide (x ≤ 20)) { d with frLog := x }
  | 0x030, 8 => s.writeFrHead x
  | 0x050, 4 => s.writeField true { d with mgmtBud := BitVec.ofNat 32 x }
  | 0x054, 4 => s.writeField true { d with scrubBud := BitVec.ofNat 32 x }
  | 0x058, 1 => s.writeField (decide (12 ≤ x) && decide (x ≤ 20)) { d with mpexp := x }
  | 0x05A, 2 => s.writeField (decide (1500 ≤ x) && decide (x ≤ 4500)) { d with plimit := x }
  | _, _ => s.rejectWrite

/-- A write of TAIL of the command ring. -/
def State.writeTail (s : State) (x : Nat) : State :=
  if s.ringTail ≤ x ∧ x ≤ s.ringHead + 256 then { s with ringTail := x } else s.rejectWrite

/-- MGMT_WINDOW_WRITE (R463): a field of the device block, TAIL, bytes of a command slot, bytes of the image area; anything else is discarded
whole. Doorbells have a step of their own. -/
def execMgmtWindowWrite (offset : Nat) (bytes : List W8) (s : State) : Host.Outcome State Fault Refusal :=
  .next (
    let n := bytes.length
    let x := leNat bytes
    if s.zhevport ≠ .up ∨ n = 0 then s
    else if offset < 0x1000 then s.writeBlock offset n x
    else if offset = 0x1008 ∧ n = 8 then s.writeTail x
    else if 0x2000 ≤ offset ∧ offset + n ≤ 0x4000 then
      (bytes.zip (upTo n)).foldl (fun s p =>
        let a := offset - 0x2000 + p.2
        let old := Table.read (List.replicate 32 0) s.ringSlots (a / 32)
        { s with ringSlots := Table.put s.ringSlots (a / 32) (overlay old (a % 32) [p.1]) }) s
    else if 0x440000 ≤ offset ∧ offset + n ≤ 0x4440000 then
      { s with imageArea := (bytes.zip (upTo n)).foldl (fun t p => Table.write 0 t (offset - 0x440000 + p.2) p.1) s.imageArea }
    else s.rejectWrite)

/-! ### Reads of the management window (22 R463) -/

/-- The device block (R464). -/
def DeviceBlock.bytes (d : DeviceBlock) : List W8 :=
  overlay (recordOf 0xC0 [(0x000, 4, 0x00010001), (0x004, 4, d.resetCause), (0x008, 4, d.bootStat), (0x00C, 2, d.devid), (0x00E, 2, d.nearcfg.toNat),
    (0x010, 8, d.poolBase), (0x018, 8, d.poolSize), (0x020, 8, d.frBase), (0x028, 1, d.frLog), (0x030, 8, d.frHead), (0x038, 8, d.frTail),
    (0x040, 8, d.rejwr.toNat), (0x048, 8, d.kdrop.toNat), (0x050, 4, d.mgmtBud.toNat), (0x054, 4, d.scrubBud.toNat), (0x058, 1, d.mpexp),
    (0x05A, 2, d.plimit), (0x060, 4, d.fwver.toNat), (0x064, 4, d.rollback.toNat)]) 0x80 ((d.m0 ++ List.replicate 64 0).take 64)

/-- STATE of FLSTAT and of CXSTAT (17 R378, R387). -/
def LinkState.code : LinkState → Nat
  | .down => 0
  | .training => 1
  | .up => 2
  | .degraded => 3
  | .isolated => 4

def PortState.code : PortState → Nat
  | .down => 0
  | .training => 1
  | .up => 2
  | .isolated => 3

/-- FLSTAT, and a fabric link's block (17 R378). -/
def Link.stat (l : Link) : Nat := l.state.code * 2 ^ 25 + l.txGood * 2 ^ 16 + l.rxGood * 2 ^ 7

def Link.block (l : Link) : List W8 :=
  recordOf 64 [(0x00, 4, l.stat), (0x04, 4, l.peer), (0x08, 8, l.corr.toNat), (0x10, 8, l.hdrop.toNat), (0x18, 8, l.crcerr.toNat),
    (0x20, 8, l.misroute.toNat), (0x28, 4, l.retrain.toNat), (0x2C, 4, l.isol.toNat), (0x30, 8, l.dropped.toNat)]

/-- CXSTAT, and a CXL port's block (17 R387). -/
def Port.stat (p : Port) : Nat :=
  p.role * 2 ^ 26 + p.state.code * 2 ^ 23 + p.toexp * 2 ^ 18 + boolNat p.narrow * 2 ^ 17 + boolNat p.slow * 2 ^ 16

def Port.block (p : Port) : List W8 :=
  recordOf 64 [(0x00, 4, p.stat), (0x08, 8, p.timeouts.toNat), (0x10, 8, p.poisonIn.toNat), (0x18, 8, p.poisonOut.toNat), (0x20, 8, p.dropWr.toNat),
    (0x28, 8, p.discard.toNat)]

/-- The telemetry block (R466). -/
def Telemetry.bytes (t : Telemetry) : List W8 :=
  recordOf 0x180 ((upTo 4).map (fun b => (4 * b, 4, t.power.getD b 0)) ++ [(0x010, 4, t.package), (0x014, 4, t.peak)] ++
    (upTo 32).map (fun d => (0x018 + 2 * d, 2, t.temp.getD d 0)) ++ (upTo 8).map (fun b => (0x058 + 4 * b, 4, t.gated.getD b 0)) ++
    [(0x078, 4, t.throttled)] ++ (upTo 16).map (fun k => (0x080 + 8 * k, 8, (Table.read 0 t.corr k).toNat)) ++
    (upTo 16).map (fun k => (0x100 + 8 * k, 8, (Table.read 0 t.uncorr k).toNat)))

/-- A context's ring block (18 R406). -/
def Hindcast.block (h : Hindcast) : List W8 := recordOf 32 [(0x00, 8, h.head), (0x08, 8, h.tail), (0x10, 8, h.lastSeq.toNat), (0x18, 1, h.result)]

/-- A byte of an error queue of so many slots (19 R419): the control block, then the records. -/
def ErrorQueue.byte (q : ErrorQueue) (slots a : Nat) : W8 :=
  if a < 32 then (recordOf 32 [(0x00, 8, q.head), (0x08, 8, q.tail), (0x10, 4, q.lost.toNat)]).getD a 0
  else if a < 32 + 32 * slots then (Table.read [] q.records ((a - 32) / 32)).getD (a % 32) 0
  else 0

/-- A byte of the management window (R463); every offset that the map does not give, and a doorbell, reads zero. -/
def State.windowByte (s : State) (a : Nat) : W8 :=
  if a < 0x1000 then s.dev.bytes.getD a 0
  else if a < 0x1010 then (leBytes 8 s.ringHead ++ leBytes 8 s.ringTail).getD (a - 0x1000) 0
  else if 0x2000 ≤ a ∧ a < 0x4000 then (Table.read [] s.ringSlots ((a - 0x2000) / 32)).getD (a % 32) 0
  else if 0x4000 ≤ a ∧ a < 0x8000 then (Table.read LaunchQueue.empty s.queues ((a - 0x4000) / 64)).entry.getD (a % 64) 0
  else if 0x8800 ≤ a ∧ a < 0x8C00 then (s.link ((a - 0x8800) / 64)).block.getD (a % 64) 0
  else if 0x8C00 ≤ a ∧ a < 0x8D00 then (s.port ((a - 0x8C00) / 64)).block.getD (a % 64) 0
  else if 0x9000 ≤ a ∧ a < 0xB000 then
    ((s.deviceMap[(a - 0x9000) / 8]?).map (fun p => (leBytes 4 p.1.toNat ++ leBytes 4 p.2.toNat).getD (a % 8) 0)).getD 0
  else if 0xB000 ≤ a ∧ a < 0xC000 then s.telemetry.bytes.getD (a - 0xB000) 0
  else if 0xC000 ≤ a ∧ a < 0x14000 then (s.hind ((a - 0xC000) / 32)).block.getD (a % 32) 0
  else if 0x14000 ≤ a ∧ a < 0x16020 then s.devErrors.byte 256 (a - 0x14000)
  else if 0x18000 ≤ a ∧ a < 0x20000 then s.aliasCert.getD (a - 0x18000) 0
  else if 0x20000 ≤ a ∧ a < 0x28000 then Config.identityCertificate.getD (a - 0x20000) 0
  else if 0x40000 ≤ a ∧ a < 0x440000 then (s.context ((a - 0x40000) / 4096)).errors.byte 64 (a % 4096)
  else if 0x440000 ≤ a ∧ a < 0x4440000 then Table.read 0 s.imageArea (a - 0x440000)
  else 0

/-- Zhevport reads the window: the answer goes back over its link, and the maximum of PEAKAMPS restarts once it has been read (R466). -/
def State.readWindow (s : State) (offset n : Nat) : State :=
  if s.zhevport ≠ .up then s
  else
    let data := (upTo n).map (fun j => s.windowByte (offset + j))
    let seen := decide (offset < 0xB018) && decide (0xB014 < offset + n)
    let answer := piecesOf zhevWire.pay (n + 16) (Config.zhevAnswer data)
    let flits := (answer.zip (upTo answer.length)).map (fun p =>
      ({ plainHeader 5 0 s.dev.devid with nflit := answer.length - 1 - p.2 }, p.1))
    { s with
      reply := some { source := 0, status := 0, data := data }
      zhevLine := flits.foldl (fun l p => l.sendOn zhevWire p.1 p.2) s.zhevLine
      telemetry := if seen then { s.telemetry with peak := 0 } else s.telemetry }

/-! ### Flits of Zhevport (17 R380) -/

/-- A request that has arrived over Zhevport is performed; those before it have been. -/
def State.zhevPerforms (s : State) (r : Config.ZhevRequest) : Host.Outcome State Fault Refusal :=
  match r with
  | .windowWrite offset bytes =>
    if 0x8000 ≤ offset ∧ offset < 0x8800 ∧ offset % 8 = 0 ∧ bytes.length = 8 then
      execQueueDoorbell ((offset - 0x8000) / 8) (BitVec.ofNat 64 (leNat bytes)) s
    else execMgmtWindowWrite offset bytes s
  | .windowRead offset n => .next (s.readWindow offset n)
  | .physicalWrite addr bytes => execZhevportPhysicalWrite addr bytes s
  | .other => .next s

/-- A flit of 128 bytes arrives over Zhevport: its header and CRC are checked as R372's first three steps, with R373's retry, and a request that is
whole is performed (log 52). -/
def State.zhevFlit (s : State) (flit : List W8) : Host.Outcome State Fault Refusal :=
  let bytes := (flit ++ List.replicate 128 0).take 128
  let nak : State := { s with zhevLine := s.zhevLine.sendOn zhevWire (plainHeader 2 0 s.dev.devid) [] }
  let go (h : Header) : Host.Outcome State Fault Refusal :=
    if crc64 ((bytes.drop 16).take 104) ≠ BitVec.ofNat 64 (leAt bytes 120 8) then .next nak
    else if h.seq ≠ s.zhevLine.rxNext then .next s
    else
      let k := { s.zhevLine with rxNext := (s.zhevLine.rxNext + 1) % 4096 }.acknowledge zhevWire h.ack
      if 9 ≤ h.typ ∨ h.rsv ≠ 0 ∨ h.typ < 2 ∨ h.typ = 8 then .next { s with zhevLine := k }
      else if h.typ = 2 then .next { s with zhevLine := k.resendAll }
      else
        match k.assemble { seq := h.seq, bytes := leBytes 16 h.encode ++ bytes.drop 16 } h with
        | (k, some (_, payload)) => ({ s with zhevLine := k }).zhevPerforms (Config.zhevRequest payload)
        | (k, none) => .next { s with zhevLine := k }
  if s.zhevport ≠ .up then .next s
  else
    match checkHeader (leNat (bytes.take 16)) with
    | .bad => .next nak
    | .good h => go h
    | .corrected h => go h

/-! ### Scrubbing and fatal errors (19 R424, R435) -/

/-- The unit of an array's record for a line: L2 slice, near store or LLC, HBM4 stack (R420). -/
def State.scrubUnit (s : State) (line array : Nat) : Nat × Nat :=
  let pa := 128 * line
  let die := s.homeDie pa
  if array = 5 then (die, 1 + homeSlice pa % 64) else if array = 6 then (die, 0x41) else (die, 0x42 + homeSlice pa % 4)

/-- An error of an array that cannot be corrected is counted (19 R422). -/
def State.countUncorrected (s : State) (array : Nat) : State :=
  { s with telemetry := { s.telemetry with uncorr := Table.put s.telemetry.uncorr array (Table.read 0 s.telemetry.uncorr array + 1) } }

/-- SCRUB (R424): a line with an uncorrectable error is marked poisoned, and a device record is written. -/
def execScrub (line : Nat) (array : Nat) (s : State) : Host.Outcome State Fault Refusal :=
  .next (if array < 5 ∨ 7 < array ∨ (s.target? (128 * line)).isNone then s
    else
      let (die, unit) := s.scrubUnit line array
      ((s.poisonLine (128 * line)).deviceError array (128 * line) 0 die unit).countUncorrected array)

/-- Every group of the device is killed, and no completion record is written. -/
def State.killEverything (s : State) : State :=
  { s.killGroups (fun _ => true) with
    updates := []
    packages := []
    restores := []
    passDue := false }

/-- FATAL_ERROR (R435). -/
def execFatalError (s : State) : Host.Outcome State Fault Refusal :=
  .next ({ (s.deviceError 11 0 1 0 0).killEverything with stopped := true })

/-! ### Power and telemetry (22 R465 to R467) -/

/-- POWER_PERIOD (R465): a regulator's period ends with its die's power; a new PLIMIT is in force from it on. -/
def execPowerPeriod (die power : Nat) (s : State) : Host.Outcome State Fault Refusal :=
  .next (if 4 ≤ die then s
    else
      let ps := (upTo 4).map (fun b => if b = die then power else s.telemetry.power.getD b 0)
      { s with
        telemetry := { s.telemetry with power := ps }
        plimitNow := s.dev.plimit
        gated := s.gated.erase die
        withheld := if 1000 * s.dev.plimit < ps.sum then die :: s.withheld.erase die else s.withheld.erase die })

/-- RAIL_OVERCURRENT (R465). -/
def execRailOvercurrent (die current : Nat) (s : State) : Host.Outcome State Fault Refusal :=
  .next (if 4 ≤ die then s
    else { s with
      gated := die :: s.gated.erase die
      telemetry := { s.telemetry with peak := max s.telemetry.peak current } })

/-- TELEMETRY_REFRESH (R466). -/
def execTelemetryRefresh (sensors : Sensors) (s : State) : Host.Outcome State Fault Refusal :=
  .next ({ s with telemetry := { s.telemetry with
    power := (upTo 4).map (fun b => sensors.power.getD b 0)
    package := sensors.package
    temp := (upTo 32).map (fun d => sensors.temp.getD d 0)
    gated := (upTo 8).map (fun b => Config.gatedCycles s.tick b)
    throttled := (s.groups.filter (fun p => p.2.throttled)).length } })

/-- PEAKAMPS_READ (R466): the maximum restarts. -/
def execPeakampsRead (s : State) : Host.Outcome State Fault Refusal := .next ({ s with telemetry := { s.telemetry with peak := 0 } })

/-- THERMAL_THROTTLE and THERMAL_RECOVERY (R467), by the dies of TEMP. -/
def execThermalThrottle (die : Nat) (s : State) : Host.Outcome State Fault Refusal :=
  .next (if 32 ≤ die then s else { s with hot := die :: s.hot.erase die })

def execThermalRecovery (die : Nat) (s : State) : Host.Outcome State Fault Refusal := .next ({ s with hot := s.hot.erase die })

end Sys2Proof.Machine
end

