-- ==== Sys2Proof/Machine/Matrix.lean ====
section
/-! DEFINITION. The matrix array's arithmetic (11 R220 to R228; 02 R48 to R52): formats, weight images, activation rows, one step on the
rows of a tile, its flags and its checksum records. -/

namespace Sys2Proof.Machine

/-! ### Formats (R221) -/

/-- MSTAT (R229): INV, OVF_F, SAT_N, IWRAP, CKF in bits 0 to 4. -/
abbrev mINV : BitVec 5 := 1
abbrev mOVF : BitVec 5 := 2
abbrev mSAT : BitVec 5 := 4
abbrev mIWRAP : BitVec 5 := 8
abbrev mCKF : BitVec 5 := 16

/-- The four orders in which a step sums. -/
inductive StepOrder where
  | exact | integer | blockPair | window48
  deriving DecidableEq, Repr

/-- The order of a pairing of WFMT, AFMT and SP, with the tile format it needs (true for INT32); none where R221 refuses the pairing. -/
def stepOrder (wfmt afmt : Nat) (sp : Bool) : Option (StepOrder × Bool) :=
  if wfmt ≤ 1 ∧ afmt ≤ 1 then some (.exact, false)
  else if wfmt = 3 ∧ afmt = 3 then some (.integer, true)
  else if wfmt ≤ 2 ∧ afmt ≤ 2 then some (.blockPair, false)
  else if (wfmt = 4 ∧ afmt = 4 ∨ wfmt = 5 ∧ afmt = 5) ∧ sp = false then some (.window48, false)
  else none

/-- The value of an element of a format by its 4-bit code. -/
def elementValue (fmt x : Nat) : Flt :=
  match fmt with
  | 0 => e4m3.decode x
  | 1 => e5m2.decode x
  | 2 => e2m1.decode x
  | 3 => if x < 128 then .fin false x 0 else .fin true (256 - x) 0
  | 4 => bf16.decode x
  | _ => fp16.decode x

/-- A value times an E8M0 scale, whose 0xFF is a NaN (R36). -/
def scaledBy (v : Flt) (scale : Nat) : Flt :=
  if scale = 255 then .nan false 0 true
  else match v with
    | .fin s m e => .fin s m (e + scale - 127)
    | v => v

/-- Element `i` of a row of bytes that starts at `off`: bytes, pairs of bytes, or nibbles (R222). -/
def elementAt (fmt : Nat) (b : Array W8) (off i : Nat) : Flt :=
  let at_ (j : Nat) : Nat := (b.getD j 0).toNat
  elementValue fmt (
    if fmt = 2 then at_ (off + i / 2) / 16 ^ (i % 2) % 16
    else if fmt = 4 ∨ fmt = 5 then at_ (off + 2 * i) + 256 * at_ (off + 2 * i + 1)
    else at_ (off + i))

/-! ### Weight tiles (R222, R227) -/

/-- The bytes of a weight image. -/
def imageBytes (fmt : Nat) (sp : Bool) : Nat :=
  match fmt with
  | 2 => if sp then 3200 else 2176
  | 4 => 8192
  | 5 => 8192
  | _ => if sp then 5120 else 4096

/-- A weight tile read: for each column the 64 values with their K positions. -/
structure Weights where
  fmt : Nat
  sp : Bool
  cols : Array (Array (Flt × Nat))

/-- The metadata code of group `g` of column `n`. -/
def metaCode (fmt : Nat) (b : Array W8) (n g : Nat) : Nat :=
  let off := if fmt = 2 then 2176 else 4096
  (b.getD (off + 16 * n + g / 2) 0).toNat / 16 ^ (g % 2) % 16

/-- The position pair of a code 0 to 5. -/
def metaPair (code : Nat) : Nat × Nat :=
  match code with
  | 0 => (0, 1)
  | 1 => (0, 2)
  | 2 => (0, 3)
  | 3 => (1, 2)
  | 4 => (1, 3)
  | _ => (2, 3)

/-- Is every metadata code of the image valid? -/
def metaValid (fmt : Nat) (b : Array W8) : Bool :=
  (upTo 64).all (fun n => (upTo 32).all (fun g => decide (metaCode fmt b n g ≤ 5)))

/-- The tile that an image holds. -/
def readWeights (fmt : Nat) (sp : Bool) (image : List W8) : Weights :=
  let b := image.toArray
  let value (i n : Nat) : Flt :=
    match fmt with
    | 2 => scaledBy (elementAt 2 b (32 * i) n) (b.getD (2048 + 64 * (i / 32) + n) 0).toNat
    | 4 => elementAt 4 b (128 * i) n
    | 5 => elementAt 5 b (128 * i) n
    | f => elementAt f b (64 * i) n
  let position (i n : Nat) : Nat :=
    if sp then
      let p := metaPair (metaCode fmt b n (i / 2))
      4 * (i / 2) + (if i % 2 = 0 then p.1 else p.2)
    else i
  { fmt := fmt, sp := sp
    cols := ((upTo 64).map (fun n => ((upTo 64).map (fun i => (value i n, position i n))).toArray)).toArray }

/-- ω_k of R228 for each K position, exact; none where a weight is not finite or a rounding gives an infinity. -/
def Weights.sums (w : Weights) : Option (Array Dy) :=
  if w.cols.any (fun c => c.any (fun p => match p.1 with | .fin _ _ _ => false | _ => true)) then none
  else
    let start : Array Dy := ((upTo (if w.sp then 128 else 64)).map (fun _ => ({ m := 0, e := 0 } : Dy))).toArray
    let exact := w.cols.foldl (fun acc c => c.foldl (fun acc p => acc.modify p.2 (fun x => x.add p.1.dy)) acc) start
    if w.fmt = 3 then some exact
    else
      let rounded := exact.map (fun x => fp32.decode (fp32.round x 0 false false false).bits)
      if rounded.any Flt.isInf then none else some (rounded.map Flt.dy)

/-! ### Activation rows (R224) -/

/-- The number of 16-byte chunks of a row's step segment. -/
def segmentChunks (afmt : Nat) (sp : Bool) : Nat :=
  match afmt with
  | 2 => if sp then 5 else 3
  | 4 => 8
  | 5 => 8
  | _ => if sp then 8 else 4

/-- The activations of one row, from the bytes of its segment. -/
def readRow (afmt : Nat) (sp : Bool) (segment : List W8) : Array Flt :=
  let b := segment.toArray
  let k := if sp then 128 else 64
  ((upTo k).map (fun j =>
    if afmt = 2 then scaledBy (elementAt 2 b 0 j) (b.getD (k / 2 + j / 32) 0).toNat else elementAt afmt b 0 j)).toArray

/-! ### One element (R49 to R52, R225) -/

/-- An exact value as a finite number. -/
def Dy.flt (x : Dy) : Flt := .fin (decide (x.m < 0)) x.m.natAbs x.e

/-- The flags of a rounding, in MSTAT's places. -/
def matrixFlags (f : BitVec 5) : BitVec 5 :=
  (if f.getLsbD 0 then mINV else 0) ||| (if f.getLsbD 2 then mOVF else 0)

/-- What a step has done to one element: its new bits and flags. -/
structure Added where
  acc : Nat
  flags : BitVec 5

/-- R52: NaN and infinite operands settle the element before any sum is formed. -/
def settled (acc : Nat) (ts : List Term) (skipped : Bool) : Option (Nat × BitVec 5) :=
  let a := fp32.decode acc
  let plus := ts.contains (.val (.inf false))
  let minus := ts.contains (.val (.inf true))
  if skipped || a.isNan || ts.contains .nan || ts.contains .invalid || (plus && minus) || (plus && a == .inf true) ||
      (minus && a == .inf false) then some (fp32.canonical, mINV)
  else if plus then some (fp32.infinity false, 0)
  else if minus then some (fp32.infinity true, 0)
  else none

/-- The exact products of terms that no NaN or infinity stands in. -/
def finiteTerms (ts : List Term) : List Dy := ts.filterMap (fun t => match t with | .val x => some x.dy | _ => none)

/-- acc := SeqAdd(acc, t). -/
def addAlways (a : Added) (t : Dy) : Added :=
  let r := seqAdd (fp32.decode a.acc) t.flt
  { acc := r.bits, flags := a.flags ||| matrixFlags r.flags }

/-- acc := SeqAdd(acc, t), unless t is zero (R49). -/
def addInto (a : Added) (t : Dy) : Added := if t.m = 0 then a else addAlways a t

/-- One block of BlockPair (R50): T_k rounded to FP32, then added. -/
def addBlock (a : Added) (ts : List Dy) : Added :=
  let t := Dy.sum ts
  if t.m = 0 then a
  else
    let r := fp32.round t 0 false false false
    let s := seqAdd (fp32.decode a.acc) (fp32.decode r.bits)
    { acc := s.bits, flags := a.flags ||| matrixFlags r.flags ||| matrixFlags s.flags }

/-- V of one sub-step of Window48 on finite products, where some product is not zero (R51). -/
def windowValue (ts : List Dy) : Option Dy :=
  let live := ts.filter (fun t => decide (t.m ≠ 0))
  match live with
  | [] => none
  | t :: rest =>
    let emax := rest.foldl (fun e x => max e x.log2) t.log2
    let cut := live.map (fun x => pick x (emax - 42) 1)
    let total := (cut.map Prod.fst).foldl (· + ·) 0
    let sticky : Int := if cut.any Prod.snd then (if total < 0 then -1 else 1) else 0
    some ⟨4 * total + sticky, emax - 44⟩

/-- One sub-step of Window48 (R51) on finite products. A V of 0 from products that cancel counts as +0, so an accumulator of −0 becomes +0: the
spec gives that V no sign (log 46, DESIGN CHOICE). -/
def addWindow (a : Added) (ts : List Dy) : Added :=
  match windowValue ts with
  | none => a
  | some v => addAlways a v

/-- A sub-step with R52 before it. -/
def subStep (a : Added) (ts : List Term) : Added :=
  match settled a.acc ts false with
  | some (x, f) => { a with acc := x, flags := a.flags ||| f }
  | none => addWindow a (finiteTerms ts)

/-- One step on one element: the terms of its 64 products in order; `skipped` says that a position its column skips holds an infinity or
a NaN (R227). -/
def stepElement (order : StepOrder) (acc : Nat) (ts : List Term) (skipped : Bool) : Added :=
  let start : Added := { acc := acc, flags := 0 }
  match order with
  | .integer =>
    let sum := (Dy.sum (finiteTerms ts)).m
    let exact := (BitVec.ofNat 32 acc).toInt + sum
    let r := BitVec.ofInt 32 exact
    { acc := r.toNat, flags := if r.toInt = exact then 0 else mIWRAP }
  | .exact =>
    match settled acc ts skipped with
    | some (x, f) => { start with acc := x, flags := f }
    | none => addInto start (Dy.sum (finiteTerms ts))
  | .blockPair =>
    match settled acc ts skipped with
    | some (x, f) => { start with acc := x, flags := f }
    | none => addBlock (addBlock start (finiteTerms (ts.take 32))) (finiteTerms (ts.drop 32))
  | .window48 =>
    (upTo 4).foldl (fun a j => subStep a ((ts.drop (16 * j)).take 16)) start

/-- V of R228: the exact value that a step adds into an element, whatever stands in it. -/
def stepValue (order : StepOrder) (ts : List Term) : Dy :=
  match order with
  | .window48 => Dy.sum ((upTo 4).filterMap (fun j => windowValue (finiteTerms ((ts.drop (16 * j)).take 16))))
  | _ => Dy.sum (finiteTerms ts)

/-! ### One step on rows (R220, R228) -/

/-- The terms of a row and a column. -/
def termsOf (row : Array Flt) (col : Array (Flt × Nat)) : List Term :=
  col.toList.map (fun p => mulTerm (row.getD p.2 (.fin false 0 0)) p.1)

def Flt.finite : Flt → Bool
  | .fin _ _ _ => true
  | _ => false

/-- Does a position that a column skips hold an infinity or a NaN in a row? -/
def skippedBad (w : Weights) (row : Array Flt) (col : Array (Flt × Nat)) : Bool :=
  w.sp && (upTo 128).any (fun k => !(row.getD k (.fin false 0 0)).finite && !col.any (fun p => p.2 == k))

/-- Elements of a tile as a step works on them, the records of the rows it covered, its flags, and whether a row's check has failed. -/
structure Stepped where
  elems : Array W32
  csum : List (Nat × (W32 × W32))
  flags : BitVec 5
  mismatch : Bool

/-- Y_r and C_r of a row, exact, where the row is checked (R228). -/
def rowCheck (sums : Option (Array Dy)) (row : Array Flt) (values : List Dy) : Option (Dy × Dy) :=
  match sums with
  | none => none
  | some om =>
    if !row.all Flt.finite then none
    else some (Dy.sum values, Dy.sum ((row.toList.zip om.toList).map (fun p => p.1.dy.mul p.2)))

/-- The record of R228 as mcsum returns it (R237). -/
def checksumRecord (order : StepOrder) (check : Option (Dy × Dy)) : W32 × W32 :=
  match check with
  | none => (0x7FC00000, 0x7FC00000)
  | some (y, c) =>
    if order = .integer then (BitVec.ofInt 32 y.m, BitVec.ofInt 32 c.m)
    else
      let r (x : Dy) : W32 := BitVec.ofNat 32 (fp32.round x 0 false false false).bits
      (r y, r c)

/-- The record of a row after mscale has made its tile FP32: the integers Y_r and C_r, which 32 bits hold, rounded (R237, R239). -/
def floatRecord (r : W32 × W32) : W32 × W32 :=
  let f (x : W32) : W32 := BitVec.ofNat 32 (fp32.round ⟨x.toInt, 0⟩ 0 false false false).bits
  (f r.1, f r.2)

/-- Σ_n Abs(w[k][n]) for each K position. -/
def Weights.absSums (w : Weights) : Array Dy :=
  w.cols.foldl (fun acc c => c.foldl (fun acc p => acc.modify p.2 (fun x => x.add p.1.dy.abs)) acc)
    ((upTo (if w.sp then 128 else 64)).map (fun _ => ({ m := 0, e := 0 } : Dy))).toArray

/-- The table of R228: does a row's check fail? -/
def mismatched (order : StepOrder) (absSums : Array Dy) (row : Array Flt) (y c : Dy) : Bool :=
  let diff := y.add ⟨-c.m, c.e⟩
  if order = .integer then diff.m != 0
  else
    let weighted := Dy.sum ((row.toList.zip absSums.toList).map (fun p => p.1.dy.abs.mul p.2))
    let plain := Dy.sum (row.toList.map (fun a => a.dy.abs))
    let bound := (weighted.mul ⟨1, -20⟩).add (plain.mul ⟨1, -149⟩)
    decide (0 < (diff.abs.add ⟨-bound.m, bound.e⟩).m)

/-- A step on some rows, each with its activations. -/
def stepRows (order : StepOrder) (w : Weights) (sums : Option (Array Dy)) (rows : List (Nat × Array Flt)) (t : Stepped) : Stepped :=
  let absSums := w.absSums
  rows.foldl (fun t p =>
    let (elems, flags, values) := (upTo 64).foldl (fun (x : Array W32 × BitVec 5 × List Dy) n =>
      let col := w.cols.getD n #[]
      let terms := termsOf p.2 col
      let a := stepElement order (x.1.getD (64 * p.1 + n) 0).toNat terms (skippedBad w p.2 col)
      (x.1.setIfInBounds (64 * p.1 + n) (BitVec.ofNat 32 a.acc), x.2.1 ||| a.flags, stepValue order terms :: x.2.2)) (t.elems, t.flags, [])
    let check := rowCheck sums p.2 values
    let bad : Bool := match check with | some (y, c) => mismatched order absSums p.2 y c | none => false
    { elems := elems, csum := t.csum ++ [(p.1, checksumRecord order check)]
      flags := if bad then flags ||| mCKF else flags
      mismatch := t.mismatch || bad }) t

/-- The 8192 elements of a tile as an array, and back. -/
def denseElems (t : Table W32) : Array W32 := t.foldl (fun a p => a.setIfInBounds p.1 p.2) (Array.replicate 8192 0)

def sparseElems (a : Array W32) : Table W32 := ((upTo 8192).zip a.toList).filter (fun p => p.2 != 0)

/-! ### The element operations of the synchronous forms (R238, R239) -/

/-- Floating forms of mdrains: Round to a narrow format with saturation; ±∞ is kept, or saturates in E4M3; a NaN becomes canonical. -/
def drainFloat (F : Fmt) (x : W32) : Nat × BitVec 5 :=
  match fp32.decode x.toNat with
  | .nan _ _ _ => (F.canonical, mINV)
  | .inf s => if F.inf then (F.infinity s, 0) else (F.maximum s, mSAT)
  | .fin s m e =>
    let r := F.round (Flt.fin s m e).dy 0 s false true
    (r.bits, if r.flags.getLsbD 2 then mSAT else 0)

/-- The integer forms: Sat to `w` bits. -/
def drainInt (w : Nat) (x : W32) : Nat × BitVec 5 :=
  let v := sat x.toInt (-pow2 (w - 1)) (pow2 (w - 1) - 1)
  ((BitVec.ofInt w v).toNat, if v = x.toInt then 0 else mSAT)

/-- One element of mdrains by OFMT: its bytes and flags. -/
def drainElement (ofmt : Nat) (x : W32) : List W8 × BitVec 5 :=
  let out (n : Nat) (r : Nat × BitVec 5) : List W8 × BitVec 5 := (leBytes n r.1, r.2)
  match ofmt with
  | 0 => (leBytes 4 x.toNat, 0)
  | 1 => out 2 (drainFloat bf16 x)
  | 2 => out 2 (drainFloat fp16 x)
  | 3 => out 1 (drainFloat e4m3 x)
  | 4 => out 1 (drainFloat e5m2 x)
  | 5 => out 2 (drainInt 16 x)
  | _ => out 1 (drainInt 8 x)

/-- Does an OFMT fit a tile's format (R238)? -/
def drainFits (ofmt : Nat) (int32 : Bool) : Bool := ofmt == 0 || (if int32 then decide (5 ≤ ofmt) else decide (ofmt ≤ 4))

/-- The bytes of an element of an OFMT. -/
def drainBytes (ofmt : Nat) : Nat := if ofmt = 0 then 4 else if ofmt = 1 ∨ ofmt = 2 ∨ ofmt = 5 then 2 else 1

/-- madd on one element. -/
def addElement (int32 : Bool) (t x : W32) : W32 × BitVec 5 :=
  if int32 then
    let r := t + x
    (r, if r.toInt = t.toInt + x.toInt then 0 else mIWRAP)
  else
    let r := seqAdd (fp32.decode t.toNat) (fp32.decode x.toNat)
    (BitVec.ofNat 32 r.bits, matrixFlags r.flags)

/-- mscale on one element: its product with `c`, one rounding to FP32. -/
def scaleElement (int32 : Bool) (x c : W32) : W32 × BitVec 5 :=
  let a : Flt := if int32 then (Dy.mk x.toInt 0).flt else fp32.decode x.toNat
  let s := a.sign ^^ (fp32.decode c.toNat).sign
  match mulTerm a (fp32.decode c.toNat) with
  | .nan => (0x7FC00000, mINV)
  | .invalid => (0x7FC00000, mINV)
  | .val (.fin t m e) =>
    let r := fp32.round (Flt.fin t m e).dy 0 s false false
    (BitVec.ofNat 32 r.bits, matrixFlags r.flags)
  | .val _ => (BitVec.ofNat 32 (fp32.infinity s), 0)

end Sys2Proof.Machine
end

