-- ==== Sys2Proof/Machine/MatrixForms.lean ====
section
/-! DEFINITION. The matrix engine (11 R223, R224, R229 to R247): the fourteen forms, the tiles' states, and MATRIX_STEP, the next K-step of
a tile's oldest operation. -/

namespace Sys2Proof.Machine

/-! ### Tiles (R230, R231) -/

/-- ACCUM (R241). -/
def accumTrap (name reason : Nat) : Trap := { cause := causeAccum, addr := 0, info := accumInfo 0 false name reason }

/-- A tile as macq binds it (R230). -/
def Tile.fresh (phys : Nat) (int32 : Bool) : Tile :=
  { phys := phys, int32 := int32, elems := [], weights := none, csum := [], nsteps := 0, ops := [], failed := none, stalled := none
    badElems := [], badRows := [], badWeights := false }

/-- The physical tiles of a core that groups hold. -/
def State.tilesInUse (s : State) (core : Nat) : List Nat :=
  s.groups.flatMap (fun p => if p.2.core = core then p.2.tiles.map (fun t => t.2.phys) else []) ++
    s.killed.flatMap (fun p => if p.2.1.core = core then p.2.1.tiles.map (fun t => t.2.phys) else [])

/-- The lowest-numbered free physical tile of a core. -/
def State.freeTile (s : State) (core : Nat) : Option Nat := (upTo 8).find? (fun k => !(s.tilesInUse core).contains k)

def State.modTile (s : State) (gid name : Nat) (f : Tile → Tile) : State :=
  s.modGroup gid (fun g => { g with tiles := Table.modify g.tiles name f })

/-- Flags enter MSTAT from the operation of issue number `n`; a csrr that waits for earlier operations takes none of a later one (R229). -/
def Group.raiseMstat (g : Group) (n : Nat) (f : BitVec 5) : Group :=
  { g with
    mstat := g.mstat ||| f
    items := g.items.mapAll (fun _ it => match it.wait with
      | .mstat bound acc => if n < bound then { it with wait := .mstat bound (acc ||| f) } else it
      | _ => it) }

/-- The flags of a form performed at issue: later than every operation issued so far. -/
def State.raiseNow (s : State) (gid : Nat) (f : BitVec 5) : State := s.modGroup gid (fun g => g.raiseMstat g.matrixIssue f)

/-! ### Waves of matrix forms (R232) -/

/-- What a tile-wide form does to its wave. -/
inductive TileEffect where
  | done (s : State)
  | trap (t : Trap)
  | wait (w : Wait)

/-- A form meets a Failed tile: pending issuers take the deferred trap, the others ACCUM, 0x08, or 0x02 of macq (R231, R233, R242). -/
def State.meetFailed (s : State) (i : Instr) (name reason : Nat) (f : TileError) : State :=
  s.foldWave i false (fun e s =>
    if f.pending.contains e.slot then s.deliverDeferred i e name f else e.finish i (.trap e.it (accumTrap name reason)) s)

/-- The operand item of a tile-wide form, the lowest-LSLOT one with a true guard, with every member that executes the form; or the trap of a
check that its registers fail, which every item with a true guard takes (R232). -/
def State.tileOperand (s : State) (i : Instr) (badS : List Nat) : Except Trap (List Env) :=
  match s.takers i with
  | [] => .ok []
  | e :: _ =>
    match e.fails i badS with
    | some t => .error t
    | none => .ok (s.participants i)

/-- A trap of a tile-wide form in every item with a true guard. -/
def State.tileTrap (s : State) (i : Instr) (guarded : Bool) (t : Trap) : State :=
  s.mapWave i (fun e => if guarded && t.cause == causePoison then .consume t else .trap e.it t)

/-- A tile-wide form on a held tile (R231, R232): `sync` waits until the tile is Idle. -/
def State.tileWave (s : State) (i : Instr) (name : Nat) (sync : Bool) (body : Env → Group → List Env → Tile → TileEffect) : State :=
  s.around i (fun s =>
    match s.group? s.wave.gid with
    | none => s
    | some g =>
    match s.tileOperand i g.badS with
    | .error t => s.tileTrap i g.guarded.isSome t
    | .ok [] => s.mapWave i (fun e => .done e.it)
    | .ok (e :: es) =>
      let all (x : Env → Ending) : State := s.mapWave i x
      if s.duplex g && (e :: es).any (fun e => e.it.differs (shapeOf i).reads) then s.rollback s.wave.gid causeDuplex e.slot
      else if g.isLanding then all (fun e => .trap e.it (accumTrap name 0x07))
      else
        match Table.get? g.tiles name with
        | none => all (fun e => .trap e.it (accumTrap name 0x01))
        | some t =>
          match t.failed with
          | some f => s.meetFailed i name 0x08 f
          | none =>
            if sync && !t.ops.isEmpty then all (fun e => .wait e.it (.tile name))
            else
              match body e g (e :: es) t with
              | .done s' => s'.mapWave i (fun e => .done e.it)
              | .trap t => s.tileTrap i g.guarded.isSome t
              | .wait w => all (fun e => .wait e.it w))

/-- A form that acts item by item on a held tile, Idle (R237). -/
def State.tileItems (s : State) (i : Instr) (name : Nat) (body : Env → Tile → Ending) : State :=
  s.foldWave i false (fun e s => s.withGroup e.gid (fun g =>
    if g.isLanding then e.finish i (.trap e.it (accumTrap name 0x07)) s
    else
      match Table.get? g.tiles name with
      | none => e.finish i (.trap e.it (accumTrap name 0x01)) s
      | some t =>
        match t.failed with
        | some f =>
          if f.pending.contains e.slot then s.deliverDeferred i e name f else e.finish i (.trap e.it (accumTrap name 0x08)) s
        | none =>
          if !t.ops.isEmpty then e.finish i (.wait e.it (.tile name)) s
          else
            match body e t with
            | .trap it t => e.finish i (if g.guarded.isSome && t.cause == causePoison then .consume t else .trap it t) s
            | r => e.finish i r s))

/-! ### macq, mrel, mzero (R233) -/

def execMacq (o : MacqForm) (s : State) : Host.Outcome State Fault Refusal :=
  .next (s.around (.macq o) (fun s =>
    match s.group? s.wave.gid with
    | none => s
    | some g =>
    match s.tileOperand (.macq o) g.badS with
    | .error t => s.tileTrap (.macq o) g.guarded.isSome t
    | .ok [] => s.mapWave (.macq o) (fun e => .done e.it)
    | .ok (e :: es) =>
      let name := o.d.toNat
      if s.duplex g && (e :: es).any (fun e => e.it.differs (shapeOf (.macq o)).reads) then s.rollback s.wave.gid causeDuplex e.slot
      else if g.isLanding then s.mapWave (.macq o) (fun e => .trap e.it (accumTrap name 0x07))
      else
        match (Table.get? g.tiles name).bind Tile.failed with
        | some f => s.meetFailed (.macq o) name 0x02 f
        | none =>
          if (Table.get? g.tiles name).isSome then s.mapWave (.macq o) (fun e => .trap e.it (accumTrap name 0x02))
          else
            match s.freeTile g.core with
            | none => s.mapWave (.macq o) (fun e => .wait e.it (.tile name))
            | some k =>
              (s.modGroup s.wave.gid (fun g => { g with tiles := Table.put g.tiles name (Tile.fresh k o.int32) })).mapWave (.macq o)
                (fun e => .done e.it)))

def execMrel (o : Form) (s : State) : Host.Outcome State Fault Refusal :=
  .next (s.tileWave (.mrel o) o.d.toNat true (fun e _ _ _ =>
    .done (s.modGroup e.gid (fun g => { g with tiles := Table.erase g.tiles o.d.toNat }))))

def execMzero (o : Form) (s : State) : Host.Outcome State Fault Refusal :=
  .next (s.tileWave (.mzero o) o.d.toNat true (fun e _ _ _ =>
    .done (s.modTile e.gid o.d.toNat (fun t => { t with
      elems := []
      badElems := [] }))))

/-! ### Layout words and chunks (R223, R224) -/

/-- The layout word of three s registers. -/
structure Layout where
  l0 : W32
  l1 : W32
  l2 : W32

def Layout.read (s : Vector W32 64) (a : BitVec 7) : Layout := ⟨readS s a, readS s (a + 1), readS s (a + 2)⟩

def Layout.base (l : Layout) : Nat := field l.l0 18 0
def Layout.grps (l : Layout) : Nat := field l.l1 31 16
def Layout.rows (l : Layout) : Nat := field l.l1 15 0
def Layout.nr (l : Layout) : Nat := field l.l2 26 20
def Layout.afmt (l : Layout) : Nat := field l.l2 19 16
def Layout.ks (l : Layout) : Nat := field l.l2 15 0

/-- The checks of R223. -/
def Layout.ok (l : Layout) : Bool :=
  field l.l0 27 19 == 0 && field l.l2 31 27 == 0 && decide (l.afmt ≤ 5) && l.base % 16 == 0 && l.grps % 16 == 0 && l.rows % 16 == 0 &&
    l.ks % 16 == 0

/-- The offset of a chunk within step 0 (R224). -/
def Layout.chunk (l : Layout) (r c : Nat) : Nat := l.base + r / 16 * l.grps + r % 16 * l.rows + c * l.ks

/-- AINC in bytes and KSTEPS of a control word (R234). -/
def ainc (c0 : W32) : Int := 16 * ((c0.extractLsb' 16 16).toInt)
def ksteps (c0 : W32) : Nat := field c0 15 0
/-- SP, WFMT, and BINC in bytes. -/
def ctlSp (c1 : W32) : Bool := c1.getLsbD 28
def ctlWfmt (c1 : W32) : Nat := field c1 27 24
def binc (c1 : W32) : Int := 128 * ((c1.extractLsb' 0 24).toInt)

/-- The lowest byte outside the scratchpad that 16 bytes at `x + j·inc` reach, over the steps j below `n`. -/
def lowestBreach (limit : Nat) (x : Nat) (inc : Int) (n : Nat) : Option Int :=
  let last := (x : Int) + inc * ((n : Int) - 1)
  let low := min (x : Int) last
  if low < 0 then some low
  else if max (x : Int) last + 16 ≤ limit then none
  else
    -- the lowest step whose chunk ends past the limit
    let past : Int := (limit : Int) - 15
    let first : Int :=
      if inc = 0 ∨ low ≥ past then low
      else if inc > 0 then x + inc * ((past - x + inc - 1) / inc)
      else x + inc * ((x - past) / (-inc))
    some (max first limit)

/-- The check of every chunk of some rows over the steps of a form (R224). -/
def Layout.breach (l : Layout) (limit rows chunks : Nat) (inc : Int) (n : Nat) : Option Int :=
  ((upTo rows).flatMap (fun r => (upTo chunks).filterMap (fun c => lowestBreach limit (l.chunk r c) inc n))).foldl
    (fun b x => match b with | none => some x | some y => some (min x y)) none

/-- PROT of a scratchpad byte offset that a matrix form reaches (R224, R238). -/
def matrixProt (x : Int) (write : Bool) : Trap := { cause := causeProt, addr := BitVec.ofInt 64 x, info := BitVec.ofNat 32 (512 + boolNat write) }

def matrixMisalign (x : W64) (spad write : Bool) : Trap :=
  { cause := causeMisalign, addr := x, info := BitVec.ofNat 32 (512 * boolNat spad + boolNat write) }

/-- POISON of a scratchpad word that a matrix form reads, in the layout of R270 (R276, R414). -/
def matrixPoison (x : Nat) : Trap := { cause := causePoison, addr := BitVec.ofNat 64 x, info := 512 }

/-- The lowest poisoned word among bytes of the scratchpad. -/
def Group.poisonAt (g : Group) (x n : Nat) : Option Nat :=
  ((upTo ((x + n + 3) / 4 - x / 4)).map (fun j => 4 * (x / 4 + j))).find? (fun w => Table.read false g.spadPoison (w / 4))

/-! ### Queueing (R231, R232, R242, R293) -/

/-- Must the wave of an asynchronous form wait: a counter of 63, a queue of 16, or earlier stores of an issuer (R293)? -/
def queueWaits (ps : List Env) (t : Tile) : Bool :=
  decide (16 ≤ t.ops.length) || ps.any (fun e => e.it.matrixCount == 63 || e.it.releaseWaits .dev)

/-- The operation joins its tile's queue, and its issuers' matrix counters rise. -/
def State.queueOp (s : State) (gid name : Nat) (ps : List Env) (op : MatrixOp) : State :=
  let s := s.modGroup gid (fun g => { g with matrixIssue := g.matrixIssue + 1 })
  let s := s.modTile gid name (fun t => { t with ops := t.ops ++ [op] })
  ps.foldl (fun s e => s.modItem gid e.slot (fun it => { it with matrixCount := it.matrixCount + 1, view := max it.view it.rel })) s

/-- The operation of a form; its kind as in the record of R246. -/
def newOp (g : Group) (ps : List Env) (kind : Nat) (l : Layout) (c0 c1 : W32) (addr : W64) (table : List (Nat × W64)) : MatrixOp :=
  { kind := kind, window := ((ps.map Env.slot).headD 0) / 32, issuers := ps.map Env.slot, layout0 := l.l0, layout1 := l.l1, layout2 := l.l2
    ctl0 := c0, ctl1 := c1, done := 0, addr := addr, issue := g.matrixIssue, table := table }

/-- The weight format that a tile's queued operations leave latched (R236). -/
def Tile.latched (t : Tile) : Option (Nat × Bool) :=
  t.ops.foldl (fun w op =>
    if op.kind = 0 then some (ctlWfmt op.ctl1, ctlSp op.ctl1)
    else if op.kind = 1 then (if op.table.all (fun p => p.1 == 0) then w else some (ctlWfmt op.ctl1, ctlSp op.ctl1))
    else if op.kind = 3 then some (field op.ctl0 3 0, op.ctl0.getLsbD 4)
    else w) (t.weights.map (fun w => (w.2.1.toNat, w.2.2)))

/-- The first checks of mloop and mloopg, up to the pairing (R234, R235). -/
def loopTrap (name : Nat) (t : Tile) (l : Layout) (c0 c1 : W32) : Option Trap :=
  if !l.ok then some (illegal 0x0E 2)
  else if field c1 31 29 != 0 || ksteps c0 == 0 || decide (5 < ctlWfmt c1) then some (illegal 0x0E 4)
  else
    match stepOrder (ctlWfmt c1) l.afmt (ctlSp c1) with
    | none => some (accumTrap name 0x03)
    | some (_, int32) => if int32 = t.int32 then none else some (accumTrap name 0x03)

def execMloop (o : Form) (s : State) : Host.Outcome State Fault Refusal :=
  .next (s.tileWave (.mloop o) o.d.toNat false (fun e g ps t =>
    let l := Layout.read g.s o.a
    let b := e.it.readV2 o.b
    let c0 := e.it.readV o.c
    let c1 := e.it.readV (o.c + 1)
    if queueWaits ps t then .wait (.tile o.d.toNat)
    else
      match loopTrap o.d.toNat t l c0 c1 with
      | some x => .trap x
      | none =>
        if b.toNat % 128 ≠ 0 then .trap (matrixMisalign b false false)
        else
          match l.breach g.scratchBytes (l.nr + 1) (segmentChunks l.afmt (ctlSp c1)) (ainc c0) (ksteps c0) with
          | some x => .trap (matrixProt x false)
          | none => .done (s.queueOp e.gid o.d.toNat ps (newOp g ps 0 l c0 c1 b []))))

/-- The table of mloopg, checked in R235's order. -/
def Group.loopTable (g : Group) (name : Nat) (x : Nat) : Except Trap (List (Nat × W64)) :=
  if x % 16 ≠ 0 then .error (matrixMisalign (BitVec.ofNat 64 x) true false)
  else if g.scratchBytes < x + 16 then .error (matrixProt (max x g.scratchBytes) false)
  else
    match g.poisonAt x 16 with
    | some w => .error (matrixPoison w)
    | none =>
      let head := g.spadRead x 16
      let n := leAt head 0 2
      if n = 0 ∨ 128 < n ∨ leAt head 2 14 ≠ 0 then .error (accumTrap name 0x04)
      else if g.scratchBytes < x + 16 + 16 * n then .error (matrixProt (max (x + 16) g.scratchBytes) false)
      else
        match g.poisonAt (x + 16) (16 * n) with
        | some w => .error (matrixPoison w)
        | none =>
          let entries := (upTo n).map (fun j => g.spadRead (x + 16 + 16 * j) 16)
          let rows := entries.map (fun b => leAt b 0 2)
          if rows.any (fun r => decide (128 < r)) || entries.any (fun b => leAt b 2 6 != 0) || decide (128 < rows.sum) then
            .error (accumTrap name 0x04)
          else
            match entries.find? (fun b => leAt b 8 8 % 128 != 0) with
            | some b => .error (matrixMisalign (BitVec.ofNat 64 (leAt b 8 8)) false false)
            | none => .ok (entries.map (fun b => (leAt b 0 2, BitVec.ofNat 64 (leAt b 8 8))))

/-- Scratchpad granules that a tile-wide form reads or writes for its operand item, as the recorder sees them. -/
def State.recordSpan (s : State) (e : Env) (x n : Nat) (write : Bool) : State :=
  (upTo ((x + n + 15) / 16 - x / 16)).foldl (fun s j => s.recordSpad e.gid e.slot (16 * (x / 16 + j)) write) s

def execMloopg (o : Form) (s : State) : Host.Outcome State Fault Refusal :=
  .next (s.tileWave (.mloopg o) o.d.toNat false (fun e g ps t =>
    let l := Layout.read g.s o.a
    let x := (e.it.readV o.b).toNat
    let c0 := e.it.readV o.c
    let c1 := e.it.readV (o.c + 1)
    if queueWaits ps t then .wait (.tile o.d.toNat)
    else if !s.mayServeSpad g e.it then .wait .again
    else
      match loopTrap o.d.toNat t l c0 c1 with
      | some x => .trap x
      | none =>
        match g.loopTable o.d.toNat x with
        | .error x => .trap x
        | .ok table =>
          match l.breach g.scratchBytes ((table.map Prod.fst).sum) (segmentChunks l.afmt (ctlSp c1)) (ainc c0) (ksteps c0) with
          | some x => .trap (matrixProt x false)
          | none =>
            .done ((s.recordSpan e x (16 + 16 * table.length) false).queueOp e.gid o.d.toNat ps
              (newOp g ps 1 l c0 c1 (BitVec.ofNat 64 x) table))))

def execMwlat (o : LatchForm) (s : State) : Host.Outcome State Fault Refusal :=
  .next (s.tileWave (.mwlat o) o.d.toNat false (fun e g ps t =>
    let b := e.it.readV2 o.a
    if queueWaits ps t then .wait (.tile o.d.toNat)
    else if o.sp && decide (4 ≤ o.wfmt.toNat) then .trap (accumTrap o.d.toNat 0x03)
    else if b.toNat % 128 ≠ 0 then .trap (matrixMisalign b false false)
    else .done (s.queueOp e.gid o.d.toNat ps (newOp g ps 3 ⟨0, 0, 0⟩ (BitVec.ofNat 32 (o.wfmt.toNat + 16 * boolNat o.sp)) 0 b []))))

def execMstep (o : Form) (s : State) : Host.Outcome State Fault Refusal :=
  .next (s.tileWave (.mstep o) o.d.toNat false (fun e g ps t =>
    let l := Layout.read g.s o.a
    if queueWaits ps t then .wait (.tile o.d.toNat)
    else if !l.ok then .trap (illegal 0x0E 2)
    else
      match t.latched with
      | none => .trap (accumTrap o.d.toNat 0x06)
      | some (wfmt, sp) =>
        if (stepOrder wfmt l.afmt sp).map Prod.snd ≠ some t.int32 then .trap (accumTrap o.d.toNat 0x03)
        else
          match l.breach g.scratchBytes (l.nr + 1) (segmentChunks l.afmt sp) 0 1 with
          | some x => .trap (matrixProt x false)
          | none => .done (s.queueOp e.gid o.d.toNat ps (newOp g ps 2 l 0 0 0 []))))

/-! ### Synchronous forms on one tile (R237 to R240) -/

def execMdrain (o : Form) (s : State) : Host.Outcome State Fault Refusal :=
  .next (s.tileItems (.mdrain o) o.a.toNat (fun e t =>
    let b := e.it.readV o.b
    if field b 31 12 ≠ 0 ∨ b.getLsbD 7 then .trap e.it (illegal 0x0E 3)
    else
      let at_ := 64 * field b 6 0 + 4 * field b 11 8
      if (upTo 4).any (fun k => t.badElems.contains (at_ + k)) then .trap e.it { cause := causePoison, addr := 0, info := 0 }
      else
        let x (k : Nat) : W32 := Table.read 0 t.elems (at_ + k)
        .done (e.it.writeV4 o.d (pair (x 3) (x 2) ++ pair (x 1) (x 0)))))

def execMcsum (o : Form) (s : State) : Host.Outcome State Fault Refusal :=
  .next (s.tileItems (.mcsum o) o.a.toNat (fun e t =>
    let b := e.it.readV o.b
    if field b 31 7 ≠ 0 then .trap e.it (illegal 0x0E 3)
    else if t.badRows.contains b.toNat then .trap e.it { cause := causePoison, addr := 0, info := 0 }
    else
      let r := Table.read (0, 0) t.csum b.toNat
      .done (e.it.writeV2 o.d (pair r.2 r.1))))

def execMmeta (o : Form) (s : State) : Host.Outcome State Fault Refusal :=
  .next (s.tileItems (.mmeta o) o.a.toNat (fun e t =>
    let (wvalid, wsp, wfmt) := match t.weights with | some (_, f, sp) => (true, sp, f.toNat) | none => (false, false, 0)
    .done (e.it.writeV o.d (BitVec.ofNat 32 (boolNat t.failed.isSome * 2 ^ 23 + boolNat wvalid * 2 ^ 22 + boolNat wsp * 2 ^ 21 +
      wfmt * 2 ^ 17 + boolNat t.int32 * 2 ^ 16 + t.nsteps.toNat)))))

/-- The rows of a form with RB0 and NRB. -/
def rowSpan (rb0 nrb1 : BitVec 3) : List Nat := (upTo (16 * (nrb1.toNat + 1))).map (fun j => 16 * rb0.toNat + j)

/-- The checks of R238 on an offset, a stride and the bytes of a row. -/
def rowsTrap (limit x stride rows rowBytes : Nat) (write : Bool) : Option Trap :=
  if x % 16 ≠ 0 then some (matrixMisalign (BitVec.ofNat 64 x) true write)
  else if stride % 16 ≠ 0 then some (matrixMisalign (BitVec.ofNat 64 stride) true write)
  else
    ((upTo rows).find? (fun r => decide (limit < x + r * stride + rowBytes))).map (fun r => matrixProt (max (x + r * stride) limit) write)

/-- Bytes written to scratchpad with their full-empty bits set (R238, R258). -/
def State.spadFill (s : State) (e : Env) (x : Nat) (bs : List W8) : State :=
  (piecesOf 16 (bs.length / 16 + 1) bs).zip (upTo (bs.length / 16 + 1)) |>.foldl (fun s p =>
    let a := x + 16 * p.2
    ((s.spadStore e.gid e.slot a p.1).modGroup e.gid (fun g => g.setFull a true)).granuleChanged e.gid a) s

def execMdrains (o : DrainForm) (s : State) : Host.Outcome State Fault Refusal :=
  .next (s.tileWave (.mdrains o) o.a.toNat true (fun e g _ t =>
    let x := (e.it.readV o.b).toNat
    let stride := (e.it.readV (o.b + 1)).toNat
    let rows := rowSpan o.rb0 o.nrb1
    let ofmt := o.ofmt.toNat
    match rowsTrap g.scratchBytes x stride rows.length (64 * drainBytes ofmt) true with
    | some tr => .trap tr
    | none =>
        if !drainFits ofmt t.int32 then .trap (accumTrap o.a.toNat 0x03)
        else if t.badElems.any (fun k => rows.contains (k / 64)) then .trap { cause := causePoison, addr := 0, info := 0 }
        else if !s.mayServeSpad g e.it then .wait .again
        else
          let elems := denseElems t.elems
          .done (rows.foldl (fun s r =>
            let es := (upTo 64).map (fun n => drainElement ofmt (elems.getD (64 * r + n) 0))
            let s := s.raiseNow e.gid (es.foldl (fun f p => f ||| p.2) 0)
            s.spadFill e (x + (r - 16 * o.rb0.toNat) * stride) (es.flatMap Prod.fst)) s)))

/-- mfill and madd: each element of the rows is changed by the element read for it (R239). -/
def fillRows (i : Instr) (o : RowsForm) (f : Bool → W32 → W32 → W32 × BitVec 5) (reads : Bool) (s : State) : State :=
  s.tileWave i o.d.toNat true (fun e g _ t =>
    let x := (e.it.readV o.a).toNat
    let stride := (e.it.readV o.b).toNat
    let rows := rowSpan o.rb0 o.nrb1
    match rowsTrap g.scratchBytes x stride rows.length 256 false with
    | some tr => .trap tr
    | none =>
      let place (r : Nat) : Nat := x + (r - 16 * o.rb0.toNat) * stride
      match rows.findSome? (fun r => g.poisonAt (place r) 256) with
      | some w => .trap (matrixPoison w)
      | none =>
        if reads && t.badElems.any (fun k => rows.contains (k / 64)) then .trap { cause := causePoison, addr := 0, info := 0 }
        else if !s.mayServeSpad g e.it then .wait .again
        else
          let (elems, flags) := rows.foldl (fun (acc : Array W32 × BitVec 5) r =>
            let bs := (g.spadRead (place r) 256).toArray
            (upTo 64).foldl (fun acc n =>
              let y := BitVec.ofNat 32 (leNat ((upTo 4).map (fun j => bs.getD (4 * n + j) 0)))
              let z := f t.int32 (acc.1.getD (64 * r + n) 0) y
              (acc.1.setIfInBounds (64 * r + n) z.1, acc.2 ||| z.2)) acc) (denseElems t.elems, 0)
          let s := rows.foldl (fun s r => s.recordSpan e (place r) 256 false) s
          .done ((s.modTile e.gid o.d.toNat (fun t => { t with
            elems := sparseElems elems
            badElems := t.badElems.filter (fun k => !rows.contains (k / 64)) })).raiseNow e.gid flags))

def execMfill (o : RowsForm) (s : State) : Host.Outcome State Fault Refusal :=
  .next (fillRows (.mfill o) o (fun _ _ y => (y, 0)) false s)

def execMadd (o : RowsForm) (s : State) : Host.Outcome State Fault Refusal :=
  .next (fillRows (.madd o) o addElement true s)

def execMscale (o : Form) (s : State) : Host.Outcome State Fault Refusal :=
  .next (s.tileWave (.mscale o) o.d.toNat true (fun e _ _ t =>
    if !t.badElems.isEmpty then .trap { cause := causePoison, addr := 0, info := 0 }
    else
      let c := e.it.readV o.a
      let r := (denseElems t.elems).map (fun x => scaleElement t.int32 x c)
      .done ((s.modTile e.gid o.d.toNat (fun t => { t with
        elems := sparseElems (r.map Prod.fst)
        csum := if t.int32 then t.csum.mapAll (fun _ x => floatRecord x) else t.csum
        int32 := false })).raiseNow e.gid (r.foldl (fun f p => f ||| p.2) 0))))

/-! ### waitc (14 R324, 13 R293) -/

def execWaitc (o : WaitcForm) (s : State) : Host.Outcome State Fault Refusal :=
  .next (s.commitWave (.waitc o) false (fun e s => s.withGroup e.gid (fun g =>
    let count := match o.cls with
      | .copy => e.it.copyCount
      | .matrix => e.it.matrixCount
      | .gather => e.it.gatherCount
      | .collective => e.it.collCount
    if o.thresh < count then e.finish (.waitc o) (.wait e.it (.counter o.cls o.thresh.toNat)) s
    else
      match (if o.cls = .matrix then g.deferred? e.slot else none) with
      | some (name, f) => s.deliverDeferred (.waitc o) e name f
      | none =>
        let s := (s.modItem e.gid e.slot (fun it => { it with seen := max it.seen it.engineStamp })).acquireAt e.gid e.slot (if e.it.engineFar then .sys else .dev)
        (e.refresh s).finish (.waitc o) (.done (e.refresh s).it) s)))

/-! ### The sequencer (R234 to R236, R242, R243) -/

/-- A weight image on its way: its bytes, not yet, an error with its address, or a replayable fault to wait for. -/
inductive Fetching where
  | ok (bytes : List W8) (s : State)
  | notYet (s : State)
  | fail (cause : Nat) (addr : W64) (s : State)
  | stall (va : W64) (s : State)

/-- The item whose accesses an operation's are: its lowest-LSLOT issuer (R243). -/
def State.opParty (s : State) (g : Group) (op : MatrixOp) : W64 :=
  match Table.get? g.items (op.issuers.headD 0) with
  | some it => s.partyOfItem g it
  | none => 0

/-- The lines of a weight image are read at their home slices, one after another (R243). -/
def State.fetchLines (s : State) (g : Group) (party : W64) (va : W64) : Nat → Fetching
  | 0 => .ok [] s
  | n + 1 =>
    match s.engineTranslate (dieOfCore g.core) g.ctx va 0 false with
    | .fail _ _ s => .fail causePageFault va s
    | .wait s => .stall va s
    | .ok pa s =>
      if !s.granted g.ctx pa 128 false false then .fail causeProt va s
      else
        let cls := s.coreClass g.core pa
        let slice := homeSlice pa
        let rec_ := s.placeRecorder slice pa
        if s.recorderStalls g.ctx rec_ || !s.mayServeSpan g.ctx rec_ party 8 then .notYet s
        else
          match (State.bringTokens slice pa false 4 s).readAt slice pa 128 (s.context g.ctx).key none with
          | .notYet s => .notYet s
          | .poisoned s => .fail causePoison va s
          | .served s bs _ _ =>
            let s := (s.charge g.core g.ctx cls 128).deactivate slice (lineOf pa)
            let s := (upTo 8).foldl (fun s j => s.recordAccess g.ctx rec_ (pa / 16 + j) party 0 false) s
            match s.fetchLines g party (va + 128) n with
            | .ok rest s => .ok (bs ++ rest) s
            | r => r

/-- A whole image: its lines, then the metadata check (R242). -/
def State.fetchImage (s : State) (gid : Nat) (g : Group) (op : MatrixOp) (fmt : Nat) (sp : Bool) (va : W64) : Fetching :=
  match s.engineTranslate (dieOfCore g.core) g.ctx va 0 false with
  | .ok pa t =>
    if !t.mayCharge g.core g.ctx (t.coreClass g.core pa) then .notYet (t.throttle gid)
    else
      match t.fetchLines g (t.opParty g op) va (imageBytes fmt sp / 128) with
      | .ok bs s => if sp && !metaValid fmt bs.toArray then .fail causeAccum va s else .ok bs s
      | r => r
  | .fail _ _ s => .fail causePageFault va s
  | .wait s => .stall va s

/-- The parts of one K-step: the rows, and the image's address, or none for weights already latched. -/
structure Part where
  rows : List Nat
  addr : Option W64

/-- The parts of an operation's next K-step. -/
def opParts (op : MatrixOp) : List Part :=
  let l : Layout := ⟨op.layout0, op.layout1, op.layout2⟩
  let there (b : W64) : W64 := b + BitVec.ofInt 64 (binc op.ctl1 * op.done)
  if op.kind = 0 then [{ rows := upTo (l.nr + 1), addr := some (there op.addr) }]
  else if op.kind = 1 then
    (op.table.foldl (fun (x : List Part × Nat) p =>
      if p.1 = 0 then x else (x.1 ++ [{ rows := (upTo p.1).map (fun j => x.2 + j), addr := some (there p.2) }], x.2 + p.1)) ([], 0)).1
  else if op.kind = 2 then [{ rows := upTo (l.nr + 1), addr := none }]
  else [{ rows := [], addr := some op.addr }]

/-- WFMT and SP of an operation's images. -/
def opFormat (op : MatrixOp) : Nat × Bool :=
  if op.kind = 3 then (field op.ctl0 3 0, op.ctl0.getLsbD 4) else (ctlWfmt op.ctl1, ctlSp op.ctl1)

/-- How many K-steps an operation has. -/
def opSteps (op : MatrixOp) : Nat := if op.kind ≤ 1 then ksteps op.ctl0 else 1

/-- One part on a tile: the latch, then its step; an error that arises before the step, or the mismatch of its check after it, comes back with it
(R228, R242). -/
def applyPart (g : Group) (op : MatrixOp) (p : Part) (image : Option (List W8)) (t : Tile) (flags : BitVec 5) :
    Tile × BitVec 5 × Option (Nat × Nat × W64) :=
  let l : Layout := ⟨op.layout0, op.layout1, op.layout2⟩
  let (fmt, sp) := opFormat op
  let t := match image with
    | some b => { t with
        weights := some (b, BitVec.ofNat 4 fmt, sp)
        badWeights := false }
    | none => t
  if op.kind = 3 then (t, flags, none)
  else
    match t.weights with
    | none => (t, flags, none)
    | some (b, f, sp) =>
      match stepOrder f.toNat l.afmt sp with
      | none => (t, flags, none)
      | some (order, _) =>
        let inc := if op.kind = 2 then 0 else ainc op.ctl0
        let at_ (r c : Nat) : Nat := ((l.chunk r c : Int) + inc * op.done).toNat
        let chunks := segmentChunks l.afmt sp
        let bad := p.rows.findSome? (fun r => (upTo chunks).findSome? (fun c => g.poisonAt (at_ r c) 16))
        match bad with
        | some w => (t, flags, some (causePoison, 0, BitVec.ofNat 64 w))
        | none =>
          if t.badWeights || t.badElems.any (fun k => p.rows.contains (k / 64)) then (t, flags, some (causePoison, 0, 0))
          else
            let rows := p.rows.map (fun r => (r, readRow l.afmt sp ((upTo chunks).flatMap (fun c => g.spadRead (at_ r c) 16))))
            let w := readWeights f.toNat sp b
            let r := stepRows order w w.sums rows { elems := denseElems t.elems, csum := [], flags := flags, mismatch := false }
            ({ t with
                elems := sparseElems r.elems
                csum := r.csum.foldl (fun c x => Table.write (0, 0) c x.1 x.2) t.csum
                badRows := t.badRows.filter (fun k => !p.rows.contains k)
                nsteps := t.nsteps + 1 }, r.flags, if r.mismatch then some (causeDuplex, 0, 0) else none)

/-- The images of a K-step, all fetched before any part is applied. -/
def State.fetchParts (s : State) (gid : Nat) (g : Group) (op : MatrixOp) :
    List Part → State × List (Option (List W8)) × Option (Except (Option W64) (Nat × W64))
  | [] => (s, [], none)
  | p :: ps =>
    match p.addr with
    | none =>
      let (s, l, e) := s.fetchParts gid g op ps
      (s, none :: l, e)
    | some va =>
      match s.fetchImage gid g op (opFormat op).1 (opFormat op).2 va with
      | .notYet s => (s, [], some (.error none))
      | .stall a s => (s, [], some (.error (some a)))
      | .fail cause a s => (s, [], some (.ok (cause, a)))
      | .ok b s =>
        let (s, l, e) := s.fetchParts gid g op ps
        (s, some b :: l, e)

/-- Does an issuer still have an operation that it issued before place `n`? -/
def Group.olderOp (g : Group) (n slot : Nat) : Bool :=
  g.tiles.any (fun p => p.2.ops.any (fun o => decide (o.issue < n) && o.issuers.contains slot))

/-- Completed operations retire at each issuer in its issue order: its matrix counter falls (R232, R292). -/
def State.retireMatrix (s : State) (gid : Nat) (ops : List MatrixOp) : State :=
  match s.group? gid with
  | none => s
  | some g =>
    let due := g.completed ++ ops.flatMap (fun o => o.issuers.map (fun k => (o.issue, k)))
    let waits (p : Nat × Nat) : Bool := g.olderOp p.1 p.2
    (due.filter (fun p => !waits p)).foldl (fun s p => s.modItem gid p.2 (fun it => { it with matrixCount := it.matrixCount - 1 }))
      (s.modGroup gid (fun g => { g with completed := due.filter waits }))

/-- The operation ends with an error: the tile is Failed, and what stands behind it is discarded (R231, R242). -/
def State.failTile (s : State) (gid name : Nat) (op : MatrixOp) (rest : List MatrixOp) (cause reason : Nat) (addr : W64) : State :=
  let s := s.modTile gid name (fun t => { t with
    ops := []
    stalled := none
    failed := some { cause := cause, reason := reason, step := op.done, addr := addr, window := op.window, pending := op.issuers } })
  s.retireMatrix gid (op :: rest)

/-- The scratchpad offsets of the activation chunks that an operation's next K-step reads, while the context records or replays (R243, R244). -/
def State.stepReads (s : State) (ctx : Nat) (op : MatrixOp) (sp : Bool) : List Nat :=
  let l : Layout := ⟨op.layout0, op.layout1, op.layout2⟩
  let inc := if op.kind ≤ 1 then ainc op.ctl0 else 0
  if op.kind = 3 ∨ (s.hind ctx).mode = .off then []
  else (opParts op).flatMap (fun p => p.rows.flatMap (fun r => (upTo (segmentChunks l.afmt sp)).map (fun c =>
    ((l.chunk r c : Int) + inc * op.done).toNat)))

/-- SP of the weights with which an operation's next K-step runs. -/
def Tile.stepSp (t : Tile) (op : MatrixOp) : Bool :=
  if op.kind = 2 then (t.weights.map (fun w => w.2.2)).getD false else (opFormat op).2

/-- The K-step, its images at hand: all of it at one moment (log 45). -/
def State.runStep (s : State) (gid : Nat) (g : Group) (name : Nat) (t : Tile) (op : MatrixOp) (rest : List MatrixOp)
    (images : List (Option (List W8))) (stop : Option (Nat × W64)) : State :=
  let (t', flags, err) := ((opParts op).zip images).foldl (fun (x : Tile × BitVec 5 × Option (Nat × Nat × W64)) p =>
    match x.2.2 with
    | some _ => x
    | none => applyPart g op p.1 p.2 x.1 x.2.1) (t, 0, none)
  let s := (s.modTile gid name (fun _ => t')).modGroup gid (fun g => g.raiseMstat op.issue flags)
  let s := (s.stepReads g.ctx op (t.stepSp op)).foldl (fun s x =>
    s.recordAccess g.ctx (clusterOf g.core) (spadGranule gid x) (s.opParty g op) 0 false) s
  match err, stop with
  | some (cause, reason, a), _ => s.failTile gid name op rest cause reason a
  | none, some (cause, a) => s.failTile gid name op rest cause (if cause = causeAccum then 0x05 else 0) a
  | none, none =>
    if op.done + 1 = opSteps op then (s.modTile gid name (fun t => { t with ops := rest })).retireMatrix gid [op]
    else s.modTile gid name (fun t => { t with ops := { op with done := op.done + 1 } :: rest })

/-- The next K-step of a tile's oldest operation. Under replay it waits until the logged order lets its activation reads go (R244). -/
def State.performStep (s : State) (gid : Nat) (g : Group) (name : Nat) (t : Tile) (op : MatrixOp) (rest : List MatrixOp) : State :=
  if !s.mayServeSpan g.ctx (clusterOf g.core) (s.opParty g op) (s.stepReads g.ctx op (t.stepSp op)).length then s
  else
    let (s, images, stop) := s.fetchParts gid g op (opParts op)
    match stop with
    | some (.error none) => s
    | some (.error (some a)) => s.modTile gid name (fun t => { t with stalled := some (a, false) })
    | some (.ok x) => s.runStep gid g name t op rest images (some x)
    | none => s.runStep gid g name t op rest images none

/-- An operation waits for older ones of its issuers on other tiles, so that each item's operations retire in issue order (R232). -/
def Group.opWaits (g : Group) (name : Nat) (op : MatrixOp) : Bool :=
  g.tiles.any (fun p => p.1 != name && p.2.ops.any (fun o => decide (o.issue < op.issue) && o.issuers.any op.issuers.contains))

/-- MATRIX_STEP (R234 to R236): nothing while the operation waits for a page, or the group stops at its K-step boundary (R245). -/
def execMatrixStep (gid name : Nat) (s : State) : Host.Outcome State Fault Refusal :=
  .next (match s.group? gid with
    | none => s
    | some g =>
      match Table.get? g.tiles name with
      | none => s
      | some t =>
        match t.ops, t.stalled with
        | [], _ => s
        | op :: rest, some (a, true) => s.failTile gid name op rest causePageFault 0 a
        | _ :: _, some (_, false) => s
        | op :: rest, none => if g.stopAsked || g.opWaits name op then s else s.performStep gid g name t op rest)

end Sys2Proof.Machine
end

