-- ==== Sys2Proof/Machine/Acts.lean ====
section
/-! DEFINITION. What the device does of itself at a moment that the spec leaves open, beside the steps of the opcode table: State.lean's `Act`
(log 1). -/

namespace Sys2Proof.Machine

/-- An error of an array has been corrected: it is counted, and nothing else changes (12 R276, 19 R422). -/
def State.countCorrected (s : State) (array : Nat) : State :=
  { s with telemetry := { s.telemetry with corr := Table.put s.telemetry.corr array (Table.read 0 s.telemetry.corr array + 1) } }

/-- A copy leaves a cluster L1 by eviction, or by a parity error on a read, which is counted; ownership returns with it, and the next access fetches
the line again (12 R259). -/
def State.dropCopy (s : State) (cluster line : Nat) (parity : Bool) : State :=
  if (Table.get? (s.l1Of cluster) line).isNone then s
  else
    let s := s.modL1 cluster (fun t => Table.erase t line)
    if parity then s.countCorrected 4 else s

/-- The exchanges of an eviction with the host for half-lines that are not modified (13 R298). -/
def State.cleanEvict (s : State) (line : Nat) (l : L2Line) : State :=
  [0, 1].foldl (fun s h => if s.isHost (128 * line) && (l.half h == 1 || l.half h == 2) then s.portSends 5 (2 * line + h) (s.keyContext l.key) else s) s

/-- A slice writes a dirty line back, and evicts it if asked; a pinned line stays. A copy on a die that is not the line's home gives its tokens back
with the data (12 R260, 13 R284); a line of a CXL home goes through its port, a host's only as it is evicted (13 R298).
Under replay the port sends nothing (18 R403). -/
def State.writeBackLine (s : State) (slice line : Nat) (evict : Bool) : State :=
  let pa := 128 * line
  match Table.get? (s.l2Of slice) line with
  | none => s
  | some l =>
    if l.pins ≠ 0 then s
    else if s.isCxl pa then
      if slice ≠ homeSlice pa ∨ (s.replayedLine l).isSome ∨ (!evict ∧ s.isHost pa) then s
      else
        let s := s.writeBackCxl pa l
        if evict then (s.cleanEvict line l).dropL2 slice line
        else s.setL2 slice line { l with
          dirty := false
          half0 := min l.half0 1
          half1 := min l.half1 1 }
    else if slice = homeSlice pa then
      if evict then s.dropL2 slice line else s.setL2 slice line { l with dirty := false }
    else if evict then s.moveTokens { line := line, src := slice, dst := homeSlice pa, plain := l.plain, owner := l.owner }
    else s

/-- A word of a group's scratchpad holds an error (12 R276); so does the saved copy, unless the undo buffer holds the granule (19 R429). -/
def Group.upsetWord (g : Group) (word : Nat) : Group :=
  { g with
    spadPoison := Table.write false g.spadPoison word true
    guarded := g.guarded.map (fun u =>
      if u.undoGranules.contains (word / 4) then u else { u with spadPoison := Table.write false u.spadPoison word true }) }

/-- An entry that a recorder holds is lost, and a GAP entry stands in its place (18 R401, 19 R422). -/
def Hindcast.loseEntry (h : Hindcast) (r n : Nat) : Hindcast :=
  if (h.recorder r).entries.length ≤ n then h
  else
    { (h.modRecorder r (fun k => { k with
        entries := k.entries.set n (entryOf 0x0D [(8, 8, 1)])
        lost := true })) with
      gap := true
      gaps := h.gaps + 1 }

/-- Is a name that of a v register or a predicate of an item? -/
def RegName.inItem : RegName → Bool
  | .v n => decide (n < 128)
  | .p n => decide (n < 7)
  | _ => false

/-- An error arises that cannot be corrected (19 R422 to R424): a register word, a scratchpad word or a part of a tile is marked, and who reads it
consumes it; a dropped translation is walked again; an undo buffer sets UNREC (R431); a recorder's entry becomes a GAP. In a state that no item
consumes, the owning kernel takes Fault with a record of CLASS 3; such state belongs to no counted array. -/
def State.upset (s : State) : Upset → State
  | .register gid slot (.s n) =>
    if n < 64 then (s.countUncorrected 1).modGroup gid (fun g => { g with badS := g.badS.erase n ++ [n] }) else s
  | .register gid slot r =>
    if r.inItem then (s.countUncorrected 1).modItem gid slot (fun it => { it with bad := it.bad.erase r ++ [r] }) else s
  | .control gid slot => (s.countUncorrected 1).modItem gid slot (fun it => { it with badCsr := true })
  | .spad gid word => (s.countUncorrected 2).modGroup gid (fun g => if 4 * word < g.scratchBytes then g.upsetWord word else g)
  | .element gid name index =>
    if index < 8192 then (s.countUncorrected 3).modTile gid name (fun t => { t with badElems := t.badElems.erase index ++ [index] }) else s
  | .checkRow gid name row =>
    if row < 128 then (s.countUncorrected 3).modTile gid name (fun t => { t with badRows := t.badRows.erase row ++ [row] }) else s
  | .weights gid name => (s.countUncorrected 3).modTile gid name (fun t => { t with badWeights := t.weights.isSome })
  | .tlb n => { s.countUncorrected 8 with tlbs := s.tlbs.eraseIdx n }
  | .path n => { s.countUncorrected 8 with paths := s.paths.eraseIdx n }
  | .undo gid => (s.countUncorrected 9).unrecoverable gid
  | .recorder ctx r n => (s.countUncorrected 10).modHind ctx (fun h => h.loseEntry r n)
  | .command id =>
    match Table.get? s.commands id with
    | some c => s.chargeError c.kh (c.itemix + 2 ^ 48 * ((s.issuer c).map (fun x => x.1.stage)).getD 0) causePoison
    | none => s
  | .staging gid q =>
    match s.group? gid with
    | some g => if (Table.get? g.staging q).isSome then s.chargeError g.kh 0 causePoison else s
    | none => s
  | .partialSum join =>
    match Table.get? s.joins join with
    | some j => if j.joined then s.chargeError j.kh 0 causePoison else s
    | none => s

/-- What the device does of itself. -/
def State.act (s : State) : Act → Host.Outcome State Fault Refusal
  | .revoke seat seq => .next (s.revoke seat seq)
  | .landGranule command chunk n => .next (s.landGranule command chunk n)
  | .dropCopy cluster line parity => .next (s.dropCopy cluster line parity)
  | .writeBack slice line evict => .next (s.writeBackLine slice line evict)
  | .corrected array => .next (s.countCorrected array)
  | .upset u => .next (s.upset u)
  | .transmit link => .next (if link < 16 then s.transmit link else s)
  | .readWindow offset bytes => .next (s.readWindow offset bytes)
  | .zhevFlit flit => s.zhevFlit flit

end Sys2Proof.Machine
end

