-- ==== Sys2Proof/Machine/Coherence.lean ====
section
/-! DEFINITION. Token traffic between base dies (13 R284, R285), the halo token of an optical channel (12 R261) and the expiry of leases (13
R283). -/

namespace Sys2Proof.Machine

/-- TOKEN_TRANSFER (R284). -/
def execTokenTransfer (move : TokenMove) (s : State) : Host.Outcome State Fault Refusal := .next (s.moveTokens move)

/-- PERSISTENT_REQUEST (R285): a slice whose request has not been met within 1024 cycles files one. -/
def execPersistentRequest (slice line : Nat) (write : Bool) (s : State) : Host.Outcome State Fault Refusal :=
  .next (if !s.wantsLine slice line || (s.neededMove slice (128 * line) write).isNone || s.persistent.contains (slice, line, write) ||
      s.active.contains (slice, line, write) then s
    else { s with persistent := s.persistent ++ [(slice, line, write)] })

/-- ARBITER_GRANT_VISIT (R285): the die that holds the grant activates its oldest request, and the grant goes on. -/
def execArbiterGrantVisit (s : State) : Host.Outcome State Fault Refusal :=
  let next : Nat := (s.grantAt + 1) % 4
  .next (match s.persistent.find? (fun p => p.1 / 64 == s.grantAt) with
    | some r => { s with
        persistent := s.persistent.erase r
        active := s.active ++ [r]
        grantAt := next }
    | none => { s with grantAt := next })

/-- HALO_TOKEN_PASS (R261): the token of a slice's channel goes to the next of its 33 stations. -/
def execHaloTokenPass (slice : Nat) (s : State) : Host.Outcome State Fault Refusal :=
  .next (if 256 ≤ slice then s else { s with halo := Table.write 0 s.halo slice ((Table.read 0 s.halo slice + 1) % 33) })

/-- LEASE_EXPIRY (R283): a V copy becomes I. -/
def execLeaseExpiry (cluster line : Nat) (s : State) : Host.Outcome State Fault Refusal :=
  .next (s.modL1 cluster (fun t => t.filter (fun p => p.1 != line || p.2.state != .valid)))

end Sys2Proof.Machine
end

