-- ==== Sys2Proof/Machine/Image.lean ====
section
/-! DEFINITION. The image of a suspended context, byte for byte (04 R94, 05 R116, 06 R135, 07 R149 to R151, 11 R246, 14 R309, R323,
15 R349, R350). -/

namespace Sys2Proof.Machine

/-- Bits as bytes, the first bit lowest. -/
def bitsNat : List Bool → Nat
  | [] => 0
  | b :: bs => boolNat b + 2 * bitsNat bs
def packBits (bs : List Bool) : List W8 := (piecesOf 8 (bs.length / 8 + 1) bs).map (fun c => BitVec.ofNat 8 (bitsNat c))

/-- Bit `n` of a byte list. -/
def bitAt (bs : List W8) (n : Nat) : Bool := (bs.getD (n / 8) 0).getLsbD (n % 8)

/-! ### Kernel records (R135) -/

/-- STATE of a kernel record. -/
def KernelState.code : KernelState → Nat
  | .queued => 0
  | .loading => 1
  | .running => 2
  | .draining => 3
  | _ => 4

/-- A list of numbers, `n` bytes each, over the eight stages; entries of absent stages are 0. -/
def eight (n : Nat) (xs : List Nat) : List W8 := (upTo 8).flatMap (fun j => leBytes n (xs.getD j 0))

/-- NEXT[k]: ITEMS_k where the queue holds no index. -/
def Kernel.nextImage (k : Kernel) : List Nat :=
  (upTo k.desc.stages.length).map (fun j =>
    if k.holds j then k.next.getD j 0 else ((k.desc.stages[j]?).map Prod.snd).getD 0)

def Kernel.image (k : Kernel) (hc : Bool) : List W8 :=
  (recordOf 64 [(0x00, 8, k.descAddr.toNat), (0x08, 4, k.tag.toNat), (0x0C, 1, k.prio), (0x0D, 1, k.state.code),
    (0x0E, 1, if k.desc.gangDevs = 1 then 0 else if k.committed then 2 else 1), (0x0F, 1, k.rank),
    (0x10, 8, if k.rank = 0 then k.crec.toNat else 0), (0x18, 2, k.smask.toNat), (0x1A, 2, k.flags.toNat), (0x20, 8, k.ended),
    (0x30, 8, k.gangN), (0x38, 2, if hc then k.kseq else 0)]) ++
    (upTo 16).flatMap (fun j => leBytes 4 (k.sval.getD j 0).toNat) ++
    eight 8 k.nextImage ++ eight 4 k.nextGang ++ eight 4 k.nextGroup

/-! ### Launch queues (R116) -/

/-- The queues of a context, in ascending LQ. -/
def State.queuesOf (s : State) (ctx : Nat) : List (Nat × LaunchQueue) :=
  (upTo 16).filterMap (fun lq => (s.queueAt ctx lq).map (fun n => (n, Table.read LaunchQueue.empty s.queues n)))

def LaunchQueue.image (q : LaunchQueue) : List W8 :=
  recordOf 32 [(0, 1, q.lq), (1, 1, q.logLen), (2, 1, boolNat q.device), (8, 8, q.head.toNat), (0x10, 8, q.tail.toNat)]

def State.queueSection (s : State) (ctx : Nat) : List W8 :=
  let qs := s.queuesOf ctx
  recordOf 64 [(0, 4, qs.length)] ++ qs.flatMap (fun p => p.2.image)

/-! ### Accumulator records (R246) -/

/-- The slots of a list as a mask of logical lanes. -/
def imageLanes (slots : List Nat) : Nat := bitsNat ((upTo 32).map (fun l => slots.any (fun k => k % 32 == l)))

/-- The place of an operation in the group's matrix issue order. -/
def Group.issueRank (g : Group) (n : Nat) : Nat := (g.tiles.map (fun p => (p.2.ops.filter (fun o => decide (o.issue < n))).length)).sum

def MatrixOp.image (o : MatrixOp) (rank : Nat) : List W8 :=
  recordOf 64 [(0, 1, o.kind), (2, 2, o.window), (4, 4, imageLanes o.issuers), (8, 4, o.layout0.toNat), (12, 4, o.layout1.toNat),
    (16, 4, o.layout2.toNat), (20, 4, o.ctl0.toNat), (24, 4, o.ctl1.toNat), (28, 4, o.done), (32, 8, o.addr.toNat), (40, 4, rank)]

/-- The copy of an mloopg table (R235). -/
def MatrixOp.tableImage (o : MatrixOp) : List W8 :=
  if o.kind = 1 then
    recordOf 16 [(0, 2, o.table.length)] ++ o.table.flatMap (fun e => recordOf 16 [(0, 2, e.1), (8, 8, e.2.toNat)])
  else []

def Tile.image (t : Tile) (name : Nat) (g : Group) : List W8 :=
  let ops := t.ops.flatMap (fun o => o.image (g.issueRank o.issue)) ++ t.ops.flatMap MatrixOp.tableImage
  let body :=
    (upTo 8192).flatMap (fun j => leBytes 4 (Table.read 0 t.elems j).toNat) ++
      (((t.weights.map Prod.fst).getD []) ++ List.replicate 8192 0).take 8192 ++
      (upTo 128).flatMap (fun r => leBytes 4 (Table.read (0, 0) t.csum r).1.toNat ++ leBytes 4 (Table.read (0, 0) t.csum r).2.toNat) ++ ops
  let size := 64 + (body.length + 63) / 64 * 64
  let err (f : TileError → Nat) : Nat := (t.failed.map f).getD 0
  padTo 64 (recordOf 64 [(0, 8, size), (8, 1, name), (9, 1, boolNat t.int32 + 2 * boolNat t.failed.isSome + 4 * boolNat t.weights.isSome),
    (0x0A, 1, (t.weights.map (fun w => w.2.1.toNat + 16 * boolNat w.2.2)).getD 0), (0x0B, 1, t.ops.length), (0x0C, 4, t.nsteps.toNat),
    (0x10, 4, err (fun f => f.cause + 256 * f.reason + 65536 * f.step)), (0x14, 2, err TileError.window),
    (0x18, 4, err (fun f => imageLanes f.pending)), (0x20, 8, err (fun f => f.addr.toNat))] ++ body)

/-! ### Group images (R150, R151, R309, R349) -/

/-- RUNRANK: the position among the items of equal PC, in issue order. -/
def Group.runRank (g : Group) (slot : Nat) (it : Item) : Nat := ((runOf g.items it.pc).map Prod.fst).findIdx (fun k => k == slot)

/-- An item record (R151). -/
def Item.image (it : Item) (slot rank : Nat) : List W8 :=
  recordOf 128 [(0x00, 8, it.pc.toNat), (0x08, 2, slot), (0x0A, 2, boolNat it.arrived + 2 * boolNat it.held), (0x0C, 2, rank),
    (0x0E, 1, it.frame.toNat), (0x0F, 1, it.p.toNat), (0x10, 8, it.itemix.toNat), (0x18, 4, it.cohort.toNat), (0x1C, 4, it.fpctl.toNat),
    (0x20, 4, it.fpstat.toNat), (0x24, 4, it.istat.toNat), (0x28, 4, it.ictl.toNat), (0x2C, 4, it.trapCause.toNat),
    (0x30, 8, it.trapPc.toNat), (0x38, 8, it.trapAddr.toNat), (0x40, 4, it.trapInfo.toNat),
    (0x44, 4, it.copyCount.toNat + 2 ^ 6 * it.matrixCount.toNat + 2 ^ 12 * it.gatherCount.toNat + 2 ^ 18 * it.collCount.toNat),
    (0x48, 8, it.stack.toNat)] ++
    (upTo 32).flatMap (fun n => leBytes 4 (it.v.toList.getD n 0).toNat)

/-- A barrier record (R309). -/
def Barrier.image (b : Barrier) : List W8 :=
  recordOf 16 [(0, 4, b.closed.toNat), (4, 2, b.arrived),
    (6, 2, (b.kind.map (fun k => 32768 + k.code.toNat)).getD 0 + 16384 * boolNat b.event)]

/-- The barrier state of an item (R309). -/
def Item.barrierImage (it : Item) : List W8 :=
  recordOf 24 [(0, 2, it.member.toNat), (2, 2, it.arr.toNat), (4, 2, it.drop.toNat), (6, 2, it.sync.toNat),
    (8, 2, (it.supply.map (fun x => 2 ^ x.1)).getD 0), (16, 8, (it.supply.map (fun x => x.2.toNat)).getD 0)]

/-- The live send bindings of a group, with the bytes of their slots, in register order. -/
def Group.sendBinds (g : Group) (d : Descriptor) : List (Nat × Staging × Nat) :=
  g.staging.map (fun p => (p.1, p.2, (d.channel (g.binds.toList.getD p.1 { kind := 0, index := 0 }).index).slotBytes))

/-- The queue-register section (R349). -/
def Group.queueImage (g : Group) (d : Descriptor) : List W8 :=
  (g.sendBinds d).flatMap (fun p =>
    recordOf 16 [(0, 2, p.2.1.words.length), (2, 1, p.2.1.state)] ++
      ((p.2.1.words.flatMap (fun w => leBytes 4 w.toNat)) ++ List.replicate p.2.2 0).take p.2.2) ++
    g.items.flatMap (fun p => p.2.ports.flatMap (fun x =>
      recordOf 16 [(0, 4, x.2.seq.toNat), (4, 1, x.2.records.length)] ++ (upTo 4).flatMap (fun j => leBytes 4 (x.2.records.getD j 0).toNat)))

/-- A group image (R150). -/
def Group.image (g : Group) (d : Descriptor) (krec : Nat) : List W8 :=
  let map := padTo 64 (packBits ((upTo g.slots).map (fun k => (Table.get? g.items k).isSome)))
  let items := g.items.flatMap (fun p => p.2.image p.1 (g.runRank p.1 p.2))
  let granules := g.scratchBytes / 16
  let pad := padTo 64 ((upTo g.scratchBytes).map (fun x => Table.read 0 g.scratch x) ++
    packBits ((upTo granules).map (fun x => Table.read false g.full x)) ++
    packBits ((upTo (4 * granules)).map (fun x => Table.read false g.spadPoison x)))
  let bars := padTo 64 (g.barriers.toList.flatMap Barrier.image ++ g.items.flatMap (fun p => p.2.barrierImage))
  let queues := padTo 64 (g.queueImage d)
  let tiles := g.tiles.flatMap (fun p => p.2.image p.1 g)
  let body := map ++ items ++ pad ++ bars ++ queues ++ tiles
  recordOf 64 [(0x00, 8, 256 + body.length), (0x08, 4, krec), (0x0C, 1, g.stage), (0x0D, 1, if g.state = .draining then 2 else 1),
    (0x0E, 2, g.slots), (0x10, 4, g.groupix.toNat), (0x14, 4, g.gangix.toNat), (0x18, 4, g.gangrank.toNat), (0x1C, 4, boolNat g.isLanding),
    (0x20, 4, g.closed.toNat), (0x24, 2, g.items.length), (0x26, 2, g.arrivedCount), (0x28, 4, g.scratchBytes), (0x2C, 4, g.mstat.toNat),
    (0x30, 8, g.landVa.toNat), (0x38, 4, g.tiles.length)] ++
    (upTo 48).flatMap (fun n => leBytes 4 (g.s.toList.getD (16 + n) 0).toNat) ++ body

/-! ### Channels and collectives (R350) -/

/-- The unjoined collectives of a context: the number, and each member's command with its group. -/
def State.unjoined (s : State) (ctx : Nat) : List (Join × CollMember × Group) :=
  s.joins.flatMap (fun p => if p.2.joined then [] else p.2.members.filterMap (fun m =>
    (s.group? m.2.gid).bind (fun g => if g.ctx = ctx then some (p.2, m.2, g) else none)))

/-- The channel and collective section, with the record numbers of the kernels. -/
def State.channelSection (s : State) (ctx : Nat) (krecs : List (Nat × Nat)) : List W8 :=
  let krec (kh : Nat) : Nat := ((krecs.find? (fun p => p.1 == kh)).map Prod.snd).getD 0
  let chans := krecs.flatMap (fun p => ((s.kernel? p.1).map Kernel.lastReceiver).getD [] |>.map (fun c => (p.2, c.1, c.2)))
  let colls := s.unjoined ctx
  let waiting := (s.restores.filter (fun p => p.2.2.1 == ctx)).flatMap (fun p =>
    let cs := p.2.2.2.drop (leAt p.2.2.2 0 8)
    (piecesOf 32 (cs.length / 32) cs).map (fun c => overlay c 0 (leBytes 4 (krec p.2.1))))
  recordOf 64 [(0, 4, chans.length), (4, 4, colls.length + waiting.length)] ++
    chans.flatMap (fun c => recordOf 16 [(0, 4, c.1), (4, 1, c.2.1), (8, 4, c.2.2.toNat)]) ++
    colls.flatMap (fun c => recordOf 16 [(0, 4, krec c.2.2.kh), (4, 4, c.2.2.groupix.toNat), (8, 4, c.1.n), (12, 1, c.2.1.sub),
      (13, 2, c.2.1.slot)] ++ (upTo 4).flatMap (fun j => leBytes 4 (c.2.1.words.getD j 0).toNat)) ++ waiting.flatten

/-! ### The image (R94) -/

/-- The kernels of a context with their record numbers, in ascending handle (log 14). -/
def State.kernelRecords (s : State) (ctx : Nat) : List (Nat × Nat) :=
  let khs := s.kernels.keysOf (fun _ k => k.ctx == ctx)
  khs.zip (upTo khs.length)

/-- A package as the landing group that it becomes (R148). -/
def State.packageGroup (s : State) (p : Package) : Option Group := (s.kernel? p.kh).map (fun k => landingGroup k p 0 0 0)

/-- The groups of a context, packages on their way among them. -/
def State.groupsOf (s : State) (ctx : Nat) : List Group :=
  (s.groups.filter (fun p => p.2.ctx == ctx)).map Prod.snd ++ (s.packages.filter (fun p => p.2.ctx == ctx)).filterMap (fun p => s.packageGroup p.2)

/-- The group images of a context: those of its groups of live kernels, and those that still wait for a seat. -/
def State.groupSection (s : State) (ctx : Nat) : List (List W8) :=
  let krecs := s.kernelRecords ctx
  let krec (kh : Nat) : Nat := ((krecs.find? (fun p => p.1 == kh)).map Prod.snd).getD 0
  (s.groupsOf ctx).filterMap (fun g => (s.kernel? g.kh).bind (fun k =>
    if k.state.ended then none else some (g.image k.desc (krec g.kh)))) ++
    (s.restores.filter (fun p => p.2.2.1 == ctx)).map (fun p =>
      overlay (p.2.2.2.take (leAt p.2.2.2 0 8)) 0x08 (leBytes 4 (krec p.2.1)))

/-- The whole image of a context. Kernels that have left their handles during the save follow the others. -/
def State.contextImage (s : State) (ctx : Nat) : List W8 :=
  let h := s.hind ctx
  let krecs := s.kernelRecords ctx
  let ended := (s.context ctx).endedInSave
  let kernels := krecs.flatMap (fun p => ((s.kernel? p.1).map (fun k => k.image (h.mode != .off))).getD []) ++
    ended.flatMap (fun k => k.image (h.mode != .off))
  let groups := s.groupSection ctx
  let body := kernels ++ s.queueSection ctx ++ groups.flatten ++ s.channelSection ctx krecs ++ List.replicate 64 0
  let total := (128 + body.length + 4095) / 4096 * 4096
  let body := body ++ List.replicate (total - 128 - body.length) 0
  recordOf 64 [(0x00, 8, 0x4B41534953435458), (0x08, 4, 1), (0x0C, 4, krecs.length + ended.length), (0x10, 8, total), (0x18, 4, groups.length),
    (0x20, 8, h.hcseq.toNat)] ++ shake256 64 body ++ body

end Sys2Proof.Machine
end

