-- ==== Sys2Proof/Machine/Suspend.lean ====
section
/-! DEFINITION. Suspend (04 R90 to R93, 07 R149): the stop of a context's groups, and SUSPEND_IMAGE_WRITE, the end of the save. -/

namespace Sys2Proof.Machine

/-- The key under which firmware keeps what belongs to kernel record `krec` of a suspended context, in place of a handle (log 14). -/
def parkedKh (ctx krec : Nat) : Nat := 4096 * (ctx + 1) + krec

/-! ### The command -/

/-- A save begins (R93): the queues stop binding and the groups stop; a guarded group takes a checkpoint (19 R427). -/
def State.beginSave (s : State) (ctx : Nat) (a : Asker) (area : W64) (size via : Nat) : State :=
  let s := { (s.modContext ctx (fun c => { c with endedInSave := [] })).setQueues ctx .opened .idle with
    pending := Table.put s.pending s.nextId { kind := 0, ctx := ctx, asker := a, area := area, size := size, via := via }
    groups := s.groups.mapAll (fun _ g => if g.ctx = ctx then { g with stopAsked := true } else g)
    nextId := s.nextId + 1 }
  s.groups.foldl (fun s p => if p.2.ctx = ctx ∧ p.2.guarded.isSome then s.commit p.1 (((p.2.items.map Prod.fst).head?).getD 0) else s) s

/-- Suspend (R90, R93). The command completes when the image has been written. -/
def execSuspend (s : State) : Host.Outcome State Fault Refusal :=
  .next (match s.headCommand with
    | none => s
    | some (slot, c) =>
      let ctx := commandCtx c
      if leAt c 0 1 ≠ 4 ∨ s.commandOpen ctx then s
      else
        let s := s.acceptCommand
        if !contextCommandOk c true true || !s.areaOk c then s.answerSlot slot stBadCmd
        else
          match s.refusedIn ctx (fun st => st == .active) with
          | some st => s.answerSlot slot st
          | none => s.beginSave ctx (.ring slot) (word64 c 8) (leAt c 0x10 8) 0)

/-! ### The stop (R149) -/

/-- Has an item nothing left to do before it is saved? -/
def Item.stopped (it : Item) : Bool :=
  !it.mustComplete && !it.leading && it.storesOut.isEmpty &&
    (match it.wait with
     | .access _ => false
     | .walk _ _ _ _ => false
     | .fault _ _ _ _ => false
     | .lavio _ _ _ => false
     | .spill _ _ _ => false
     | _ => true)

/-- Has everything of a context that a save waits for come to its end (R93, R149)? -/
def State.stopDone (s : State) (ctx : Nat) : Bool :=
  s.groups.all (fun p => p.2.ctx != ctx || (p.2.state != .loading && p.2.items.all (fun q => q.2.stopped) &&
    p.2.tiles.all (fun t => match t.2.stalled with | some (_, r) => !r | none => true))) &&
    s.accesses.all (fun p => p.2.ctx != ctx) && s.commands.all (fun p => p.2.ctx != ctx) && s.faults.all (fun p => p.2.ctx != ctx) &&
    s.walks.all (fun p => p.2.ctx != ctx) &&
    s.joins.all (fun p => !p.2.joined || p.2.members.isEmpty || ((s.kernel? p.2.kh).map Kernel.ctx).getD 0 != ctx)

/-- Does a group hold an error in state that no image can mark (19 R424)? -/
def Group.marred (g : Group) : Bool :=
  !g.badS.isEmpty || g.items.any (fun p => !p.2.bad.isEmpty || p.2.badCsr) ||
    g.tiles.any (fun p => !p.2.badElems.isEmpty || !p.2.badRows.isEmpty || p.2.badWeights)

/-- The kernels of such groups are charged. -/
def State.chargeMarred (s : State) (ctx : Nat) : State :=
  ((s.groups.filter (fun p => p.2.ctx == ctx && p.2.marred)).map (fun p => p.2.kh)).eraseDups.foldl (fun s kh => s.chargeError kh 0 causePoison) s

/-- Words of an item's stack written out each by itself: the addresses of those that cannot be, and the trap of the first (R149). -/
def State.writeEach (s : State) (g : Group) (it : Item) : List (W64 × W32) → StackWork (List W64 × Option Trap)
  | [] => .ok ([], none) s
  | (va, x) :: rest =>
    let go (s : State) (bad : Option Trap) : StackWork (List W64 × Option Trap) :=
      match s.writeEach g it rest with
      | .ok (l, t) s => .ok (if bad.isSome then va :: l else l, bad.or t) s
      | r => r
    match s.stackWrite g it false [(va, x)] with
    | .ok _ s => go s none
    | .trap t s => go s (some t)
    | .notYet s => .notYet s
    | .park va k s => .park va k s

/-- One item's register stack is written out; false where the save must wait. Where words cannot be written the item takes a trap at its PC
before the image is written, and its waits are unwound for it; those words are not tried again. -/
def State.saveItem (s : State) (gid slot : Nat) : State × Bool :=
  match s.group? gid, s.item? gid slot with
  | some g, some it =>
    let words := if it.unread then [] else it.stackImage.filter (fun p => !it.lost.contains p.1)
    let unwind (s : State) : State := { s with monitors := s.monitors.filter (fun p => p.2.gid != gid || p.2.slot != slot) }
    let fails (s : State) (l : List W64) (t : Trap) : State × Bool := ((unwind s).modItem gid slot (fun it => { it with
      wait := .none
      lost := it.lost ++ l
      held := false
      owed := some t }), false)
    let area := s.stackAreaOf g it
    if words.isEmpty then (s, true)
    else if !aligned area 16 then fails s (words.map Prod.fst) (memTrap causeMisalign area false 16 true)
    else
      match s.writeEach g it words with
      | .ok (l, some t) s => fails s l t
      | .ok _ s => (s, true)
      | .notYet s => (s, false)
      | .trap _ s => (s, false)
      | .park va _ s => ((unwind s).modItem gid slot (fun it => { it with wait := .fault g.ctx (pageOf va) va 3 }), false)
  | _, _ => (s, true)

/-- Every item of the context is written out. -/
def State.saveStacks (s : State) (ctx : Nat) : State × Bool :=
  (s.groups.flatMap (fun p => if p.2.ctx = ctx then p.2.items.map (fun q => (p.1, q.1)) else [])).foldl
    (fun (x : State × Bool) q => if x.2 then x.1.saveItem q.1 q.2 else x) (s, true)

/-! ### The end of the save -/

/-- The image goes to its area: under key id 0, or in the space of the issuer of ctxsave (R92, R100). -/
def State.putImage (s : State) (p : Pending) (bs : List W8) : FirmWrite :=
  match p.asker with
  | .item _ _ => s.firmWrite p.via p.area bs
  | _ => .done (s.physWrite p.area.toNat bs)

/-- What firmware keeps of the groups and kernels beside the image (log 14). -/
def State.keep (s : State) (ctx : Nat) : State :=
  let krecs := s.kernelRecords ctx
  let krec (kh : Nat) : Nat := ((krecs.find? (fun p => p.1 == kh)).map Prod.snd).getD 0
  let live (kh : Nat) : Bool := krecs.any (fun p => p.1 == kh) && ((s.kernel? kh).map (fun k => !k.state.ended)).getD false
  let mine := s.groups.filter (fun p => p.2.ctx == ctx)
  let partial_ (b : BindEntry) : Bool := b.valid && live b.kh && ((s.kernel? b.kh).map Kernel.hasGangs).getD false &&
    mine.any (fun p => p.2.kh == b.kh && p.2.stage == b.stage && p.2.gangix.toNat == b.gangix)
  let park (kh : Nat) : Nat := if live kh then parkedKh ctx (krec kh) else kh
  let s := s.modContext ctx (fun c => { c with
    cycleFloor := (mine.flatMap (fun p => p.2.items.map (fun q => q.2.cycleFloor))).foldl (fun a b => if a.toNat < b.toNat then b else a) c.cycleFloor
    keptGroups := mine.map (fun p =>
      { krec := krec p.2.kh, stage := p.2.stage, groupix := p.2.groupix, seat := 4 * p.2.core + p.2.turn, rings := p.2.rings
        staging := p.2.staging, collectives := p.2.collectives, barStamp := p.2.barStamp
        completed := p.2.completed.map (fun x => (p.2.issueRank x.1, x.2))
        lost := p.2.items.filterMap (fun q => if q.2.lost.isEmpty then none else some (q.1, q.2.lost)) })
    keptGone := krecs.map (fun p => (p.2, ((s.kernel? p.1).map Kernel.gone).getD []))
    keptKh := krecs.map (fun p => (p.2, ((s.kernel? p.1).map Kernel.logKh).getD 0))
    keptGangs := krecs.filterMap (fun p => (s.kernel? p.1).bind (fun k => if k.state.ended || k.gangN = 0 then none else some k.gangN))
    keptBinds := (s.bindTable.filter (fun p => partial_ p.2)).map (fun p => (p.1, { p.2 with kh := krec p.2.kh })) })
  { s with
    joins := s.joins.mapAll (fun _ j => if live j.kh then { j with
      kh := park j.kh
      members := [] } else j)
    orphans := s.orphans.mapAll (fun _ o => { o with kh := park o.kh })
    gangs := s.gangs.mapAll (fun _ g => { g with kh := park g.kh })
    bindTable := s.bindTable.mapAll (fun _ b => if live b.kh then { b with valid := false } else b) }

/-- The groups and live kernels of a saved context leave the device (R93, R123). -/
def State.clearSaved (s : State) (ctx : Nat) : State :=
  let gids := s.groups.keysOf (fun _ g => g.ctx == ctx)
  let khs := s.kernels.keysOf (fun _ k => k.ctx == ctx && !k.state.ended)
  { s with
    groups := s.groups.filter (fun p => p.2.ctx != ctx)
    monitors := s.monitors.filter (fun p => !gids.contains p.2.gid)
    l1 := s.l1.mapAll (fun _ t => t.filter (fun p => p.2.state != .uniform || !khs.contains p.2.kernel))
    kernels := s.kernels.filter (fun p => !khs.contains p.1)
    packages := s.packages.filter (fun p => p.2.ctx != ctx)
    restores := s.restores.filter (fun p => p.2.2.1 != ctx) }

/-- Hindcast at a save: while it records, each present item's pre-emption point is logged and every open chunk closes, the firmware's
last and always, so that it marks the segment's end in the log (18 R394, R395, R397). -/
def State.recordSave (s : State) (ctx : Nat) : State :=
  if (s.hind ctx).mode = .record then
    let items := s.groups.flatMap (fun p => if p.2.ctx = ctx then p.2.items.map (fun q => (p.2, q.2)) else [])
    let s := (items.foldl (fun s x => s.logTrap ctx x.1.core 0 (s.partyOfItem x.1 x.2) []) s).closeAll ctx 8
    if ((s.hind ctx).recorders.map Prod.fst).contains recFirmware then s else s.closeChunk ctx recFirmware 8
  else s

/-- The save is given up: the image does not fit (R90). After a breakpoint the groups stay stopped until a Stop (18 R405). -/
def State.abandonSave (s : State) (id : Nat) (p : Pending) : State :=
  let s := ({ s with pending := Table.erase s.pending id }).modContext p.ctx (fun c => { c with endedInSave := [] })
  if p.asker = .firmware then s else (s.resumeInPlace p.ctx).answer p.asker stNoSpace

/-- The image is written and the context is Suspended. -/
def State.finishSave (s : State) (id : Nat) (p : Pending) (image : List W8) : State :=
  let s := (((s.recordSave p.ctx).keep p.ctx).clearSaved p.ctx).modContext p.ctx (fun c => { c with
    state := .suspended
    keptDigest := (image.drop 64).take 64
    endedInSave := [] })
  ({ s.setQueues p.ctx .opened .idle with pending := Table.erase s.pending id }).answer p.asker stDone

/-- SUSPEND_IMAGE_WRITE (R93, R149): the step in which the save of a context ends, or comes nearer to its end. -/
def execSuspendImageWrite (ctx : Nat) (s : State) : Host.Outcome State Fault Refusal :=
  .next (match s.pending.find? (fun p => p.2.kind == 0 && p.2.ctx == ctx) with
    | none => s
    | some (id, p) =>
      if !s.stopDone ctx then s
      else
        let (s, saved) := s.saveStacks ctx
        if !saved then s
        else
          let s := s.chargeMarred ctx
          let image := s.contextImage ctx
          if p.size < image.length then s.abandonSave id p
          else
            match s.putImage p image with
            | .done s => s.finishSave id p image
            | .notYet s => s
            | _ => ({ s with pending := Table.erase s.pending id }.resumeInPlace ctx).answer p.asker stNoMap)

end Sys2Proof.Machine
end

