-- ==== Sys2Proof/Machine/Restore.lean ====
section
/-! DEFINITION. Resume (04 R90, R95, 05 R116, 06 R136, 07 R152, 11 R247, 13 R297, 14 R309, 15 R350): the checks of an image, the kernels it
holds, and GROUP_RESTORE. -/

namespace Sys2Proof.Machine

/-! ### Sections -/

/-- Bytes rounded up to a multiple of 64. -/
def up64 (n : Nat) : Nat := (n + 63) / 64 * 64

def sliceOf (bs : List W8) (off n : Nat) : List W8 := (bs.drop off).take n

/-- Records of `n` bytes. -/
def recordsOf (bs : List W8) (n count : Nat) : List (List W8) := (upTo count).map (fun j => sliceOf bs (j * n) n)

/-- The sections of an image. -/
structure ParsedImage where
  kernels : List (List W8)
  queues : List (List W8)
  groups : List (List W8)
  chans : List (List W8)
  colls : List (List W8)

/-- Group images cut by GBYTES, and what follows them. -/
def cutGroups : Nat → List W8 → Option (List (List W8) × List W8)
  | 0, bs => some ([], bs)
  | n + 1, bs =>
    let size := leAt bs 0 8
    if size < 256 ∨ size % 64 ≠ 0 ∨ bs.length < size then none
    else (cutGroups n (bs.drop size)).map (fun r => (bs.take size :: r.1, r.2))

/-- The sections of an image of `total` bytes; none where they do not fill it as R94 lays them out. -/
def parseImage (b : List W8) : Option ParsedImage :=
  let nk := leAt b 0x0C 4
  let rest := b.drop (128 + 256 * nk)
  let nq := leAt rest 0 4
  let afterQueues := rest.drop (64 + 32 * nq)
  if rest.length < 64 + 32 * nq ∨ 16 < nq ∨ !zeroAt rest 4 60 then none
  else
    match cutGroups (leAt b 0x18 4) afterQueues with
    | none => none
    | some (groups, tail) =>
      let nc := leAt tail 0 4
      let nl := leAt tail 4 4
      let size := 64 + 16 * nc + 32 * nl
      if tail.length < size + 64 ∨ !zeroAt tail 8 56 ∨ !(tail.drop size).all (fun x => x == 0) then none
      else some
        { kernels := recordsOf (b.drop 128) 256 nk
          queues := recordsOf (rest.drop 64) 32 nq
          groups := groups
          chans := recordsOf (tail.drop 64) 16 nc
          colls := recordsOf (tail.drop (64 + 16 * nc)) 32 nl }

/-! ### Checks of records -/

/-- A kernel record (R135). -/
def kernelRecordOk (b : List W8) : Bool :=
  decide (leAt b 0x0C 1 ≤ 7) && decide (leAt b 0x0D 1 ≤ 4) && decide (leAt b 0x0E 1 ≤ 2) && decide (leAt b 0x0F 1 ≤ 63) && zeroAt b 0x1C 4 &&
    zeroAt b 0x28 8 && zeroAt b 0x3A 6

/-- The queue records against the context's queues (R116). -/
def State.queueRecordsOk (s : State) (ctx : Nat) (qs : List (List W8)) : Bool :=
  qs.all (fun b => decide (leAt b 0 1 ≤ 15) && decide (4 ≤ leAt b 1 1) && decide (leAt b 1 1 ≤ 16) && decide (leAt b 2 1 ≤ 1) && zeroAt b 3 5 &&
    zeroAt b 0x18 8 && decide ((word64 b 0x10 - word64 b 8).toNat ≤ 2 ^ leAt b 1 1) &&
    (match s.queueAt ctx (leAt b 0 1) with
     | some n =>
       let q := Table.read LaunchQueue.empty s.queues n
       q.logLen == leAt b 1 1 && boolNat q.device == leAt b 2 1
     | none => false)) &&
    (qs.zip (qs.drop 1)).all (fun p => decide (leAt p.1 0 1 < leAt p.2 0 1))

/-- Where the sections of a group image stand, for a group of a descriptor: item records, scratchpad, barriers, queue registers, accumulators. -/
structure GroupLayout where
  slots : List Nat
  items : Nat
  scratch : Nat
  barriers : Nat
  queues : Nat
  tiles : Nat

/-- The queue registers of a group image: landing groups have none (R148). -/
def imageBinds (d : Descriptor) (b : List W8) : Vector Binding 16 :=
  if leAt b 0x1C 4 % 2 = 1 then Vector.replicate 16 { kind := 0, index := 0 } else d.bindsOf (leAt b 0x0C 1)

def groupLayout (d : Descriptor) (b : List W8) : GroupLayout :=
  let n := leAt b 0x0E 2
  let slots := (upTo n).filter (fun k => bitAt (b.drop 256) k)
  let bytes := leAt b 0x28 4
  let binds := (imageBinds d b).toList
  let sends := (binds.map (fun x => if x.kind = 4 then 16 + (d.channel x.index).slotBytes else 0)).sum
  let engines := (binds.filter (fun x => decide (1 ≤ x.kind) && decide (x.kind ≤ 3))).length
  let items := 256 + up64 ((n + 7) / 8)
  let scratch := items + 256 * slots.length
  let barriers := scratch + up64 (bytes + (bytes / 16 + 7) / 8 + (bytes / 4 + 7) / 8)
  let queues := barriers + up64 (256 + 24 * slots.length)
  { slots := slots, items := items, scratch := scratch, barriers := barriers, queues := queues
    tiles := queues + up64 (sends + 32 * engines * slots.length) }

/-- An item record (R151). -/
def itemRecordOk (b : List W8) (slot : Nat) : Bool :=
  leAt b 8 2 == slot && decide (leAt b 0x0A 2 < 4) && decide (leAt b 0x0E 1 ≤ 96) && decide (leAt b 0x0F 1 < 128) &&
    decide (leAt b 0x10 8 < 2 ^ 48) && decide (leAt b 0x44 4 < 2 ^ 24) && zeroAt b 0x50 48

/-- The barrier section (R309). -/
def barriersOk (b : List W8) (n : Nat) : Bool :=
  let items := recordsOf (b.drop 256) 24 n
  let count (k : Nat) : Nat := (items.filter (fun x => (leAt x 2 2).testBit k)).length
  (upTo 16).all (fun k =>
    let r := sliceOf b (16 * k) 16
    let kind := leAt r 6 2
    leAt r 4 2 == count k && decide (kind / 512 % 32 = 0) && zeroAt r 8 8 && (kind.testBit 14 || leAt r 4 2 == 0) &&
      items.all (fun x => !(leAt x 8 2).testBit k || kind.testBit 15)) &&
    items.all (fun x =>
      (upTo 16).all (fun k =>
        (!(leAt x 2 2).testBit k || (leAt x 0 2).testBit k) && (!(leAt x 6 2).testBit k || (leAt x 2 2).testBit k) &&
          (!(leAt x 8 2).testBit k || (leAt x 6 2).testBit k)) &&
      decide (((upTo 16).filter (fun k => (leAt x 8 2).testBit k)).length ≤ 1) && zeroAt x 10 6)

/-- The bytes of an accumulator record's operations: tables of mloopg follow them (R246). -/
def tileOps (b : List W8) : List (List W8) := recordsOf (b.drop 0xA440) 64 (leAt b 0x0B 1)

def tableBytes : List (List W8) → List W8 → Nat
  | [], _ => 0
  | o :: os, tables =>
    if leAt o 0 1 = 1 then
      let n := 16 + 16 * leAt tables 0 2
      n + tableBytes os (tables.drop n)
    else tableBytes os tables

/-- Are the reserved bytes of the copies of mloopg tables zero (R235, R247)? -/
def tablesOk : List (List W8) → List W8 → Bool
  | [], _ => true
  | o :: os, tables =>
    if leAt o 0 1 = 1 then
      let n := leAt tables 0 2
      zeroAt tables 2 14 && (upTo n).all (fun e => zeroAt tables (18 + 16 * e) 6) && tablesOk os (tables.drop (16 + 16 * n))
    else tablesOk os tables

/-- An accumulator record (R246, R247). -/
def tileRecordOk (b : List W8) : Bool :=
  let ops := tileOps b
  let tables := b.drop (0xA440 + 64 * leAt b 0x0B 1)
  decide (leAt b 8 1 < 8) && decide (leAt b 9 1 < 8) && decide (leAt b 0x0A 1 < 32) && decide (leAt b 0x0B 1 ≤ 16) && zeroAt b 0x16 2 &&
    zeroAt b 0x1C 4 && zeroAt b 0x28 24 &&
    ops.all (fun o => decide (leAt o 0 1 ≤ 3) && zeroAt o 1 1 && zeroAt o 0x2C 20) && tablesOk ops tables &&
    leAt b 0 8 == up64 (0xA440 + 64 * leAt b 0x0B 1 + tableBytes ops tables)

/-- Accumulator records cut by ABYTES. -/
def cutTiles : Nat → List W8 → Option (List (List W8) × List W8)
  | 0, bs => some ([], bs)
  | n + 1, bs =>
    let size := leAt bs 0 8
    if size < 0xA440 ∨ bs.length < size then none else (cutTiles n (bs.drop size)).map (fun r => (bs.take size :: r.1, r.2))

/-- The queue-register section (R349). -/
def queueSectionOk (d : Descriptor) (binds : List Binding) (b : List W8) (n : Nat) : Bool :=
  let sends := binds.filter (fun x => x.kind == 4)
  let engines := (binds.filter (fun x => decide (1 ≤ x.kind) && decide (x.kind ≤ 3))).length
  let walk := sends.foldl (fun (x : Bool × List W8) q =>
    let words := (d.channel q.index).slotWords
    (x.1 && decide (leAt x.2 0 2 ≤ words) && decide (leAt x.2 2 1 ≤ 2) && zeroAt x.2 3 13, x.2.drop (16 + 4 * words))) (true, b)
  walk.1 && (recordsOf walk.2 32 (n * engines)).all (fun r => decide (leAt r 4 1 ≤ 4) && zeroAt r 5 11)

/-- A group image against its kernel's descriptor (R152, R247, R309). -/
def groupImageOk (d : Descriptor) (b : List W8) : Bool :=
  let landing := leAt b 0x1C 4 == 1
  let l := groupLayout d b
  let n := l.slots.length
  let items := recordsOf (b.drop l.items) 256 n
  decide (leAt b 0x0C 1 < d.stages.length) && (leAt b 0x0D 1 == 1 || leAt b 0x0D 1 == 2) && decide (leAt b 0x1C 4 ≤ 1) &&
    (leAt b 0x0E 2 == if landing then 1 else d.groupSlots) && (leAt b 0x28 4 == if landing then 0 else d.scratch) && zeroAt b 0x3C 4 &&
    leAt b 0x24 2 == n && decide (n ≠ 0) && ((b.drop (256 + (leAt b 0x0E 2 + 7) / 8)).take (l.items - 256 - (leAt b 0x0E 2 + 7) / 8)).all (fun x => x == 0) &&
    (items.zip l.slots).all (fun p => itemRecordOk p.1 p.2) && leAt b 0x26 2 == (items.filter (fun x => leAt x 0x0A 2 % 2 == 1)).length &&
    barriersOk (b.drop l.barriers) n && queueSectionOk d (imageBinds d b).toList (b.drop l.queues) n && decide (leAt b 0x38 4 ≤ 8) &&
    (match cutTiles (leAt b 0x38 4) (b.drop l.tiles) with
     | some (ts, rest) =>
       rest.isEmpty && ts.all tileRecordOk && (ts.zip (ts.drop 1)).all (fun p => decide (leAt p.1 8 1 < leAt p.2 8 1)) &&
         (let issues := ts.flatMap (fun t => (tileOps t).map (fun o => leAt o 0x28 4))
          issues.eraseDups.length == issues.length)
     | none => false)

/-! ### Reading a group image -/

/-- The kind of a reduction from its nine bits (R310), where they are one. -/
def redKindOf (x : Nat) : Option RedKind :=
  ({ op := 0x61, d := 0, a := 0, b := 0, m := 0, la := 0, g := 0, sub := 5, imm := BitVec.ofNat 16 x, len := 2, lit := 0 } : Raw).redKind

/-- The logical lanes of a mask, as slots of a window. -/
def maskSlots (window mask : Nat) : List Nat := ((upTo 32).filter (fun l => mask.testBit l)).map (fun l => 32 * window + l)

/-- The queued operations of an accumulator record, with the tables of mloopg. -/
def readOps : List (List W8) → List W8 → List MatrixOp
  | [], _ => []
  | o :: os, tables =>
    let loop := leAt o 0 1 == 1
    let n := leAt tables 0 2
    let op : MatrixOp :=
      { kind := leAt o 0 1, window := leAt o 2 2, issuers := maskSlots (leAt o 2 2) (leAt o 4 4), layout0 := word32 o 8, layout1 := word32 o 12
        layout2 := word32 o 16, ctl0 := word32 o 20, ctl1 := word32 o 24, done := leAt o 28 4, addr := word64 o 32, issue := leAt o 40 4
        table := if loop then (upTo n).map (fun e => (leAt tables (16 + 16 * e) 2, word64 tables (24 + 16 * e))) else [] }
    op :: readOps os (if loop then tables.drop (16 + 16 * n) else tables)

/-- A tile from its record, bound to a physical tile (R247). -/
def readTile (b : List W8) (phys : Nat) : Tile :=
  let flags := leAt b 9 1
  let wfmt := leAt b 0x0A 1 % 16
  let sp := leAt b 0x0A 1 / 16 % 2 == 1
  { phys := phys, int32 := flags.testBit 0
    elems := (upTo 8192).foldl (fun t j => Table.write 0 t j (word32 b (0x40 + 4 * j))) []
    weights := if flags.testBit 2 then some (sliceOf b 0x8040 (imageBytes wfmt sp), BitVec.ofNat 4 wfmt, sp) else none
    csum := (upTo 128).foldl (fun t r => Table.write (0, 0) t r (word32 b (0xA040 + 8 * r), word32 b (0xA044 + 8 * r))) []
    nsteps := BitVec.ofNat 16 (leAt b 0x0C 4)
    ops := readOps (tileOps b) (b.drop (0xA440 + 64 * leAt b 0x0B 1))
    failed := if flags.testBit 1 then
        some { cause := leAt b 0x10 1, reason := leAt b 0x11 1, step := leAt b 0x12 2, addr := word64 b 0x20, window := leAt b 0x14 2
               pending := maskSlots (leAt b 0x14 2) (leAt b 0x18 4) }
      else none
    stalled := none, badElems := [], badRows := [], badWeights := false }

/-- The engine ports of the item of position `i` of a group image. -/
def readPorts (engines : List Nat) (b : List W8) (i : Nat) : Table QueuePort :=
  (engines.zip (upTo engines.length)).map (fun p =>
    let r := b.drop (32 * (i * engines.length + p.2))
    (p.1, { seq := word32 r 0, records := (upTo (leAt r 4 1)).map (fun j => word32 r (16 + 4 * j)) }))

/-- An item from its records (R151, R152, R309). -/
def readItem (b bar : List W8) (ports : Table QueuePort) (home : BitVec 5) (now : Nat) (floor : W64) : Item :=
  let v := Vector.ofFn (fun (n : Fin 128) => if n.val < 32 then word32 b (0x80 + 4 * n.val) else 0)
  let frame := leAt b 0x0E 1
  let held := (leAt b 0x0A 2).testBit 1
  let supply := (upTo 16).find? (fun k => (leAt bar 8 2).testBit k)
  { Item.blank with
    itemix := BitVec.ofNat 48 (leAt b 0x10 8)
    cohort := word32 b 0x18
    pc := word64 b 0
    v := v
    p := BitVec.ofNat 7 (leAt b 0x0F 1)
    frame := BitVec.ofNat 7 frame
    stack := word64 b 0x48
    fpctl := word32 b 0x1C &&& 0x3F0F#32
    fpstat := BitVec.ofNat 5 (leAt b 0x20 4)
    ictl := BitVec.ofNat 2 (leAt b 0x28 4)
    istat := BitVec.ofNat 3 (leAt b 0x24 4)
    trapCause := word32 b 0x2C
    trapPc := word64 b 0x30
    trapAddr := word64 b 0x38
    trapInfo := word32 b 0x40
    copyCount := BitVec.ofNat 6 (leAt b 0x44 4)
    matrixCount := BitVec.ofNat 6 (leAt b 0x44 4 / 2 ^ 6)
    gatherCount := BitVec.ofNat 6 (leAt b 0x44 4 / 2 ^ 12)
    collCount := BitVec.ofNat 6 (leAt b 0x44 4 / 2 ^ 18)
    cycleFloor := floor
    joined := 4096 * now + 2 + leAt b 0x0C 2
    home := home
    wait := if frame ≠ 0 then .frame else if held then .refill else .none
    unread := decide (frame ≠ 0)
    arrived := (leAt b 0x0A 2).testBit 0
    held := held
    member := BitVec.ofNat 16 (leAt bar 0 2)
    arr := BitVec.ofNat 16 (leAt bar 2 2)
    drop := BitVec.ofNat 16 (leAt bar 4 2)
    sync := BitVec.ofNat 16 (leAt bar 6 2)
    supply := supply.map (fun k => (k, word64 bar 16))
    ports := ports
    shadowV := v
    shadowP := BitVec.ofNat 7 (leAt b 0x0F 1) }

/-- A barrier from its record (R309). -/
def readBarrier (b : List W8) : Barrier :=
  let kind := leAt b 6 2
  { closed := word32 b 0, arrived := leAt b 4 2, event := kind.testBit 14, kind := if kind.testBit 15 then redKindOf (kind % 512) else none }

/-- The staging slots of a group image: SLOTBYTES from the channel of each live send binding. -/
def readStaging (d : Descriptor) : List (Nat × Binding) → List W8 → Table Staging
  | [], _ => []
  | (q, x) :: rest, b =>
    let words := (upTo (leAt b 0 2)).map (fun j => word32 b (16 + 4 * j))
    (q, { words := words, state := leAt b 2 1, stamp := 0, away := 0 }) ::
      readStaging d rest (b.drop (16 + (d.channel x.index).slotBytes))

/-- A group from its image, at a place, with its tiles bound to free physical tiles; its items have no home bank yet. -/
def readGroup (kh : Nat) (k : Kernel) (b : List W8) (place : Place) (phys : List Nat) (now : Nat) (floor : W64) : Group :=
  let l := groupLayout k.desc b
  let binds := imageBinds k.desc b
  let numbered := (upTo 16).zip binds.toList
  let sends := numbered.filter (fun p => p.2.kind == 4)
  let engines := (numbered.filter (fun p => decide (1 ≤ p.2.kind) && decide (p.2.kind ≤ 3))).map Prod.fst
  let afterSends := (b.drop l.queues).drop ((sends.map (fun p => 16 + (k.desc.channel p.2.index).slotBytes)).sum)
  let bytes := leAt b 0x28 4
  let fullAt := l.scratch + bytes
  let poisonAt := fullAt + (bytes / 16 + 7) / 8
  let items := (l.slots.zip (upTo l.slots.length)).map (fun p =>
    (p.1, readItem (sliceOf b (l.items + 256 * p.2) 256) (sliceOf b (l.barriers + 256 + 24 * p.2) 24) (readPorts engines afterSends p.2) 0 now floor))
  let tiles := ((cutTiles (leAt b 0x38 4) (b.drop l.tiles)).map Prod.fst).getD []
  let own := k.sRegisters
  let s := Vector.ofFn (fun (n : Fin 64) => if n.val < 16 then own[n] else word32 b (0x40 + 4 * (n.val - 16)))
  let landing := leAt b 0x1C 4 % 2 == 1
  { kh := kh, ctx := k.ctx, stage := leAt b 0x0C 1, place := place, slots := leAt b 0x0E 2
    state := if leAt b 0x0D 1 = 2 then .draining else .running, items := items, closed := word32 b 0x20, groupix := word32 b 0x10
    gangix := word32 b 0x14, gangrank := BitVec.ofNat 11 (leAt b 0x18 4), s := s, badS := [], shadowS := s
    mstat := BitVec.ofNat 5 (leAt b 0x2C 4), scratchBytes := bytes
    scratch := (upTo bytes).foldl (fun t j => Table.write 0 t j (b.getD (l.scratch + j) 0)) []
    full := (upTo (bytes / 16)).foldl (fun t j => Table.write false t j (bitAt (b.drop fullAt) j)) []
    spadPoison := (upTo (bytes / 4)).foldl (fun t j => Table.write false t j (bitAt (b.drop poisonAt) j)) []
    barriers := Vector.ofFn (fun (n : Fin 16) => readBarrier (sliceOf b (l.barriers + 16 * n.val) 16))
    tiles := (tiles.zip phys).map (fun p => (leAt p.1 8 1, readTile p.1 p.2))
    matrixIssue := (tiles.flatMap (fun t => (tileOps t).map (fun o => leAt o 0x28 4 + 1))).foldl max 0
    binds := binds, staging := readStaging k.desc sends (b.drop l.queues), rings := if landing then [] else k.desc.ringsOf (leAt b 0x0C 1)
    collectives := 0, barStamp := 0, throttled := false, guarded := none, landVa := word64 b 0x30, started := true, sOrder := 0, counted := (0, 0), completed := []
    lastWave := [], stopAsked := false }

/-! ### Resume (R95, R136) -/

/-- What a try to resume gives: bytes are still on their way, or a status with the state that follows. -/
inductive Resumed where
  | notYet (s : State)
  | done (s : State) (st : Nat)

/-- The descriptors of the live kernels of an image: each accepted, or refused with a code of R110. -/
inductive Descriptors where
  | notYet (s : State)
  | read (ds : List (Except Nat Descriptor)) (s : State)

def State.readDescriptors (s : State) (ctx : Nat) : List (List W8) → Descriptors
  | [] => .read [] s
  | b :: bs =>
    match s.readDescriptor ctx (word64 b 0) with
    | .notYet s => .notYet s
    | .refused code =>
      (match s.readDescriptors ctx bs with
       | .read ds s => .read (.error code :: ds) s
       | r => r)
    | .ok d s =>
      (match s.readDescriptors ctx bs with
       | .read ds s => .read (.ok d :: ds) s
       | r => r)

/-- The descriptor with which record `n` is restored live. -/
def liveDescriptor (p : ParsedImage) (ds : List (Except Nat Descriptor)) (n : Nat) : Option Descriptor :=
  match p.kernels[n]?, ds[n]? with
  | some b, some (.ok d) => if leAt b 0x0D 1 = 4 then none else some d
  | _, _ => none

/-- May a group image have issued a collective record (R350): the kernel, the GROUPIX, a register bound to the collective engine, and as many commands
outstanding at the item of the record's LSLOT as it has records? -/
def issuedBy (d : Descriptor) (colls : List (List W8)) (c g : List W8) : Bool :=
  let l := groupLayout d g
  let mine (x : List W8) : Bool := leAt x 0 4 == leAt c 0 4 && leAt x 4 4 == leAt c 4 4 && leAt x 13 2 == leAt c 13 2
  leAt g 8 4 == leAt c 0 4 && leAt g 0x10 4 == leAt c 4 4 && leAt g 0x1C 4 % 2 == 0 && (imageBinds d g).toList.any (fun b => b.kind == 3) &&
    (match l.slots.idxOf? (leAt c 13 2) with
     | some i => decide ((colls.filter mine).length ≤ leAt (g.drop (l.items + 256 * i)) 0x44 4 / 2 ^ 18 % 64)
     | none => false)

/-- The group image of a collective record: the first that may have issued it. -/
def ParsedImage.issuerOf (p : ParsedImage) (ds : List (Except Nat Descriptor)) (c : List W8) : Option Nat :=
  match liveDescriptor p ds (leAt c 0 4) with
  | some d => p.groups.findIdx? (fun g => issuedBy d p.colls c g)
  | none => none

/-- The checks of groups, channels and collectives against the kernels (R152, R350). -/
def sectionsOk (p : ParsedImage) (ds : List (Except Nat Descriptor)) : Bool :=
  let nk := p.kernels.length
  p.groups.all (fun b => decide (leAt b 8 4 < nk) && (match liveDescriptor p ds (leAt b 8 4) with
    | some d => groupImageOk d b
    | none => true)) &&
    p.chans.all (fun b => decide (leAt b 0 4 < nk) && zeroAt b 5 3 && zeroAt b 12 4 && (match liveDescriptor p ds (leAt b 0 4) with
      | some d => decide (leAt b 4 1 < d.channels.length)
      | none => true)) &&
    p.colls.all (fun b => decide (leAt b 0 4 < nk) && decide (leAt b 12 1 ≤ 3) && zeroAt b 15 1 &&
      (if (liveDescriptor p ds (leAt b 0 4)).isSome then (p.issuerOf ds b).isSome
       else p.groups.any (fun g => leAt g 8 4 == leAt b 0 4 && leAt g 0x10 4 == leAt b 4 4)))

/-- A kernel from its record. -/
def readKernel (ctx : Nat) (b : List W8) (d : Descriptor) (order : Nat) : Kernel :=
  let r : LaunchRecord :=
    { desc := word64 b 0, prio := leAt b 0x0C 1, flags := BitVec.ofNat 16 (leAt b 0x1A 2), tag := word32 b 8, crec := word64 b 0x10
      smask := BitVec.ofNat 16 (leAt b 0x18 2), deps := [], sval := (upTo 16).map (fun j => word32 b (0x40 + 4 * j)) }
  let k := newKernel ctx r d none order (leAt b 0x30 8) (leAt b 0x0F 1)
  let n := d.stages.length
  let k := { k with
    next := (upTo n).map (fun j => min (leAt b (0x80 + 8 * j) 8) (k.limit.getD j 0))
    nextGang := (upTo n).map (fun j => leAt b (0xC0 + 4 * j) 4)
    nextGroup := (upTo n).map (fun j => leAt b (0xE0 + 4 * j) 4)
    ended := leAt b 0x20 8
    committed := leAt b 0x0E 1 != 1
    kseq := leAt b 0x38 2
    state := match leAt b 0x0D 1 with | 0 => .queued | 1 => .loading | 2 => .running | _ => .draining }
  { k with empty := k.isEmpty }

/-- The descriptor that stands for one that is refused. -/
def refusedDescriptor (b : List W8) : Descriptor :=
  { guarded := false, duplex := false, ext0 := 1, ext1 := 1, ext2 := 1, handler := 0, refillPc := 0, scratch := 0, groupSlots := 32
    gangGroups := 1, gangDevs := if leAt b 0x0E 1 = 0 then 1 else 2, entryFrame := 0, sconst := [], stages := [], channels := [], queues := [] }

/-- CAUSE of the record for a descriptor that is refused (R136). -/
def refusedCause (code : Nat) : Nat := if code = 3 then causeProt else if code = 5 then causePoison else causeIllegal

/-- A restored member of a gang of several devices: live at its rank while its coordinator has the gang (R136). -/
def State.rejoinGang (s : State) (ctx kh : Nat) (k : Kernel) : State :=
  let s := if k.rank = 0 then s.adoptGang ctx kh k.gangN else s
  if s.myRank ctx ≠ some k.rank then s.gangRefused ctx kh k
  else if k.rank = 0 then
    match s.coordinated ctx k.gangN with
    | some g => s.modKernel kh (fun k => { k with committed := k.committed || g.committed })
    | none => s.gangAborted kh
  else (s.modKernel kh (fun k => { k with asked := true })).tellRank ctx 0 7 k.gangN

/-- Are there handles for the live kernels of an image? Resume goes on once there are (log 42). -/
def State.handlesFor (s : State) (ks : List (List W8)) : Bool :=
  decide ((ks.filter (fun b => leAt b 0x0D 1 != 4)).length ≤ ((upTo 4096).filter s.handleFree).length)

/-- One kernel record is restored: live, or in Aborted with its record of CLASS 3 (R136). `first`: it is the first Resume of a recording or
replay, which numbers the kernels afresh (18 R395). Answers the handle of a live kernel. -/
def State.restoreKernel (s : State) (ctx krec : Nat) (first : Bool) (b : List W8) (d : Except Nat Descriptor) : State × Option Nat :=
  match s.freeHandle with
  | none => (s, none)
  | some kh =>
    let desc := match d with | .ok d => d | .error _ => refusedDescriptor b
    let k := readKernel ctx b desc s.takes
    let s := s.releaseHandle kh
    let s := { s with
      kernels := Table.put s.kernels kh k
      takes := s.takes + 1 }
    let s := if first then s.numberKernel ctx kh 16
      else if (s.hind ctx).replaying then s.modKernel kh (fun k => { k with logKh := Table.read kh (s.context ctx).keptKh krec })
      else s.nameKernel ctx kh k.kseq 16
    match d with
    | .error code =>
      let s := s.performEnd kh .aborted
      let s := if leAt b 0x0E 1 = 0 then s else (if k.rank = 0 then s.adoptGang ctx kh k.gangN else s).leaveRefusedGang ctx k
      (s.contextError { cls := 3, cause := refusedCause code, ctx := ctx, tag := k.tag, who := 0, loc := 0, info := 0, source := 0 }, none)
    | .ok _ =>
      let s := s.modKernel kh (fun k => { k with gone := Table.read [] (s.context ctx).keptGone krec })
      let s := if leAt b 0x0E 1 = 0 then s else s.rejoinGang ctx kh k
      (s, if ((s.kernel? kh).map (fun k => k.state.ended)).getD true then none else some kh)

/-- Every kernel record in order, with the handles of the live ones. -/
def State.restoreKernels (s : State) (ctx : Nat) (first : Bool) : List (Nat × List W8 × Except Nat Descriptor) → State × List (Nat × Nat)
  | [] => (s, [])
  | (n, b, d) :: rest =>
    if leAt b 0x0D 1 = 4 then s.restoreKernels ctx first rest
    else
      let (s, kh) := s.restoreKernel ctx n first b d
      let (s, l) := s.restoreKernels ctx first rest
      (s, (match kh with | some kh => [(n, kh)] | none => []) ++ l)

/-- A landing group's image becomes a package that lands again, under the base die that homes LANDVA's translation (R152), or die 0
where it has none (log 48). -/
def State.restoreLanding (s : State) (kh : Nat) (k : Kernel) (b : List W8) : State :=
  let g := readGroup kh k b (.landing 0 0 0) [] s.tick (s.context k.ctx).cycleFloor
  match g.items with
  | [] => s
  | (_, it) :: _ =>
    let die := match s.walkKind k.ctx g.landVa 0 with | .leaf l => s.homeDie (l.pa g.landVa) | .fault _ _ _ => 0
    { s with
      packages := Table.put s.packages s.nextId
        { item := it, kh := kh, ctx := k.ctx, stage := g.stage, groupix := g.groupix, gangix := g.gangix, gangrank := g.gangrank, s := g.s
          state := g.state, closed := g.closed, mstat := g.mstat, barriers := g.barriers, die := die, va := g.landVa, fresh := false }
      nextId := s.nextId + 1 }

/-- The group images of the live kernels wait for seats, each followed by its collectives' records. -/
def State.restoreGroups (s : State) (ctx : Nat) (p : ParsedImage) (ds : List (Except Nat Descriptor)) (khs : List (Nat × Nat)) : State :=
  (p.groups.zip (upTo p.groups.length)).foldl (fun s x =>
    let b := x.1
    match khs.find? (fun x => x.1 == leAt b 8 4) with
    | none => s
    | some (_, kh) =>
      match s.kernel? kh with
      | none => s
      | some k =>
        if leAt b 0x1C 4 % 2 = 1 then s.restoreLanding kh k b
        else
          let colls := p.colls.filter (fun c => p.issuerOf ds c == some x.2)
          { s with
            restores := Table.put s.restores s.nextId (kh, ctx, b ++ colls.flatten)
            nextId := s.nextId + 1 }) s

/-- What firmware has kept comes back where the image is the one it belongs to, and is forgotten otherwise (log 14). -/
def State.unpark (s : State) (ctx : Nat) (digest : List W8) (khs : List (Nat × Nat)) : State :=
  let same : Bool := (s.context ctx).keptDigest == digest
  let back (kh : Nat) : Option Nat :=
    if kh / 4096 = ctx + 1 then (if same then (khs.find? (fun x => x.1 == kh % 4096)).map Prod.snd else none) else some kh
  let handle (n : Nat) : Option Nat := (khs.find? (fun x => x.1 == n)).map Prod.snd
  let c := s.context ctx
  let binds : List (Nat × BindEntry) :=
    if same then c.keptBinds.filterMap (fun p => (handle p.2.kh).map (fun kh => (p.1, { p.2 with kh := kh }))) else []
  let groups : List KeptGroup :=
    if same then c.keptGroups.filterMap (fun (g : KeptGroup) => (handle g.krec).map (fun kh => { g with krec := kh })) else []
  let joins : Table Join := s.joins.filterMap (fun (p : Nat × Join) => (back p.2.kh).map (fun kh => (p.1, { p.2 with kh := kh })))
  let orphans : Table Orphan := s.orphans.filterMap (fun (p : Nat × Orphan) => (back p.2.kh).map (fun kh => (p.1, { p.2 with kh := kh })))
  let place (t : Table BindEntry) (p : Nat × BindEntry) : Table BindEntry :=
    match (p.1 :: upTo 4096).find? (fun x => !(Table.read BindEntry.clear t x).valid) with
    | some x => Table.put t x p.2
    | none => t
  let s := { s with
    joins := joins
    orphans := orphans
    bindTable := binds.foldl place s.bindTable }
  s.modContext ctx (fun c => { c with
    keptGroups := groups
    keptGone := []
    keptKh := []
    keptBinds := []
    keptGangs := []
    keptDigest := [] })

/-- Resume from a whole image (R95): the checks, then the kernels, queues, channels and groups. -/
def State.resumeImage (s : State) (ctx : Nat) (b : List W8) : Resumed :=
  match parseImage b with
  | none => .done s stImage
  | some p =>
    if !p.kernels.all kernelRecordOk || !s.queueRecordsOk ctx p.queues then .done s stImage
    else
      match s.readDescriptors ctx p.kernels with
      | .notYet s => .notYet s
      | .read ds s =>
        if !sectionsOk p ds then .done s stImage
        else if !p.kernels.isEmpty && !s.handlesFor p.kernels then .notYet s
        else
          let first := (s.hind ctx).armed
          let s := s.modContext ctx (fun c => { c with state := .active })
          let s := s.beginSegment ctx
          let s := p.queues.foldl (fun s q => match s.queueAt ctx (leAt q 0 1) with
            | some n => { s with queues := Table.modify s.queues n (fun e => { e with
                head := word64 q 8
                tail := word64 q 0x10 }) }
            | none => s) s
          let (s, khs) := s.restoreKernels ctx first ((upTo p.kernels.length).zip (p.kernels.zip ds))
          let s := p.chans.foldl (fun s c => match khs.find? (fun x => x.1 == leAt c 0 4) with
            | some (_, kh) => s.modKernel kh (fun k => { k with lastReceiver := Table.put k.lastReceiver (leAt c 4 1) (word32 c 8) })
            | none => s) s
          .done (((s.unpark ctx (sliceOf b 0x40 64) khs).restoreGroups ctx p ds khs).enableQueues ctx) stDone

/-- The area from which an image is read: under key id 0, or in the space of the issuer of ctxload. -/
def State.readArea (s : State) (a : Asker) (via : Nat) (area : W64) (n : Nat) : FirmRead :=
  match a with
  | .item _ _ => s.firmRead via area n
  | _ => if s.firmReads area.toNat n then .bytes (s.physRead area.toNat n) s else .poisoned

/-- Resume from an area of `size` bytes (R95): MAGIC and REVISION first, then sizes, reserved fields and DIGEST. An area that does not hold a
whole image, or holds an error in it, is refused with IMAGE. -/
def State.resume (s : State) (ctx : Nat) (a : Asker) (via : Nat) (area : W64) (size : Nat) : Resumed :=
  if size < 128 then .done s stImage
  else
    match s.readArea a via area 128 with
    | .notYet s => .notYet s
    | .nomap => .done s stNoMap
    | .poisoned => .done s stImage
    | .bytes h s =>
      let total := leAt h 0x10 8
      if leAt h 0 8 ≠ 0x4B41534953435458 ∨ leAt h 8 4 ≠ 1 then .done s stRevision
      else if !zeroAt h 0x1C 4 || !zeroAt h 0x28 24 || decide (size < total) || decide (total < 4096) || total % 4096 != 0 then .done s stImage
      else
        match s.readArea a via area total with
        | .notYet s => .notYet s
        | .nomap => .done s stNoMap
        | .poisoned => .done s stImage
        | .bytes b s => if shake256 64 (b.drop 0x80) ≠ sliceOf b 0x40 64 then .done s stImage else s.resumeImage ctx b

/-! ### GROUP_RESTORE (R127, R152) -/

/-- The mark of a restored group in the log (log 10). -/
def restoreEntry (seat kh : Nat) (g : Group) : HcEntry :=
  bindEntryLog seat { valid := false, stage := g.stage, count := 0, kh := kh, gangId := 0, rank := g.gangrank.toNat % 32, seq := g.groupix.toNat
                      gangix := 0 }

/-- The items of a restored group take their slots, each with a home bank chosen as at entry (R152, R153). -/
def State.seatItems (s : State) (gid core : Nat) (items : Table Item) : State :=
  items.foldl (fun s p => s.modGroup gid (fun g => { g with items := Table.put g.items p.1 { p.2 with home := s.homeBank core } })) s

/-- A collective that had not joined is requeued with its SEQ (R350): the commands of one item at one register, oldest first, are the last
ones that its SEQ has counted. -/
def State.requeue (s : State) (gid : Nat) (k : Kernel) (cs : List (List W8)) (c : List W8) : State :=
  match s.group? gid with
  | none => s
  | some g =>
    let slot := leAt c 13 2
    let n := leAt c 8 4
    match Table.get? g.items slot with
    | none => s
    | some it =>
      let q := ((upTo 16).find? (fun j => (g.binds.toList.getD j { kind := 0, index := 0 }).kind == 3)).getD 0
      let words := (upTo 4).map (fun j => word32 c (16 + 4 * j))
      let later := (cs.filter (fun x => leAt x 13 2 == slot && decide (n < leAt x 8 4))).length
      let rank := k.desc.globalRank g.gangrank
      let m : CollMember :=
        { gid := gid, slot := slot, itemix := it.itemix.toNat, q := q, sub := leAt c 12 1, words := words
          seq := it.portSeq q - BitVec.ofNat 32 (later + 1), order := s.nextId, floor := 0, rank := rank
          left := upTo (pieceCount ((parseColl (leAt c 12 1) words).received rank k.desc.gangSize)), failed := [], flags := 0, held := [] }
      (s.fresh.modJoin g.kh g.stage g.gangix n (fun j => { j with members := Table.put j.members rank m })).modGroup gid (fun g =>
        { g with collectives := max g.collectives (n + 1) })

/-- May a waiting group image take a seat (R127, R469)? -/
def State.mayRestore (s : State) (core seat : Nat) (k : Kernel) (kh : Nat) (b : List W8) : Bool :=
  let kept := (s.context k.ctx).keptGroups.find? (fun x => x.krec == kh && x.stage == leAt b 0x0C 1 && x.groupix == word32 b 0x10)
  decide (core < 1024) && decide (seat < 4) && !k.state.ended && !k.asked && s.binds k.ctx && (s.seatGroup core seat).isNone &&
    s.room core 1 k && decide (leAt b 0x38 4 + (s.tilesInUse core).eraseDups.length ≤ 8) &&
    (match kept with
     | some x => !(s.hind k.ctx).replaying || x.seat == 4 * core + seat
     | none => true)

/-- The group at its seat, with what firmware kept of it. -/
def State.seatRestored (s : State) (kh : Nat) (k : Kernel) (b : List W8) (core seat : Nat) : Group :=
  let phys := (upTo 8).filter (fun t => !(s.tilesInUse core).contains t)
  let g := readGroup kh k b (.seat core seat) phys s.tick (s.context k.ctx).cycleFloor
  let g := { g with started := !s.bindTable.any (fun p => p.2.valid && p.2.kh == kh && p.2.stage == g.stage && p.2.gangix == g.gangix.toNat && k.hasGangs) }
  match (s.context k.ctx).keptGroups.find? (fun x => x.krec == kh && x.stage == g.stage && x.groupix == g.groupix) with
  | some x => { g with
      items := g.items.mapAll (fun n it => { it with lost := Table.read [] x.lost n })
      rings := x.rings
      staging := g.staging.mapAll (fun q st => match Table.get? x.staging q with
        | some o => { st with
            stamp := o.stamp
            away := o.away }
        | none => st)
      collectives := x.collectives
      barStamp := x.barStamp
      completed := x.completed }
  | none => g

/-- GROUP_RESTORE (R152). -/
def execGroupRestore (core seat image : Nat) (s : State) : Host.Outcome State Fault Refusal :=
  .next (match Table.get? s.restores image with
    | none => s
    | some (kh, ctx, bs) =>
      match s.kernel? kh with
      | none => s
      | some k =>
        let b := bs.take (leAt bs 0 8)
        if !s.mayRestore core seat k kh b then s
        else
          let gid := s.nextId
          let g := s.seatRestored kh k b core seat
          let cs := recordsOf (bs.drop b.length) 32 ((bs.length - b.length) / 32)
          let s := { s with
            restores := Table.erase s.restores image
            groups := Table.put s.groups gid { g with items := [] }
            nextId := gid + 1 }
          let s := s.modContext ctx (fun c => { c with
            keptGroups := c.keptGroups.filter (fun x => !(x.krec == kh && x.stage == g.stage && x.groupix == g.groupix)) })
          let s := (s.seatItems gid core g.items).dropKeyLines (clusterOf core) (s.context ctx).key
          let s := s.logEntry ctx recFirmware (restoreEntry (4 * core + seat) kh g)
          let s := cs.foldl (fun s c => s.requeue gid k cs c) s
          let s := if k.desc.guarded then s.modGroup gid (fun g => { g with guarded := some (Guarded.take g) }) else s
          if g.started then s.modKernel kh Kernel.start else s)

end Sys2Proof.Machine
end

