-- ==== Sys2Proof/Machine/Contexts.lean ====
section
/-! DEFINITION. Resume, teardown and rekey (04 R90, R91, R95 to R97, R101), and the four context instructions (04 R98 to R102). -/

namespace Sys2Proof.Machine

/-! ### Resume -/

/-- A Resume that cannot end yet stays in progress: bytes of its image are on their way, or handles are missing (log 42). -/
def State.awaitResume (s : State) (ctx : Nat) (a : Asker) (area : W64) (size via : Nat) : State :=
  { s with
    pending := Table.put s.pending s.nextId { kind := 1, ctx := ctx, asker := a, area := area, size := size, via := via }
    nextId := s.nextId + 1 }

/-- A Resume in progress is tried again. -/
def State.continueResume (s : State) : State :=
  match s.pending.find? (fun p => p.2.kind == 1) with
  | none => s
  | some (id, p) =>
    match s.resume p.ctx p.asker p.via p.area p.size with
    | .notYet s => s
    | .done s st => ({ s with pending := Table.erase s.pending id }).answer p.asker st

/-- Resume (R90, R95). The command completes with the checks of the image and the recreation of its kernels; its groups are restored as
seats take them (GROUP_RESTORE). With no such command to accept, one in progress goes on. -/
def execResume (s : State) : Host.Outcome State Fault Refusal :=
  .next (match s.headCommand with
    | none => s.continueResume
    | some (slot, c) =>
      let ctx := commandCtx c
      if leAt c 0 1 ≠ 5 ∨ s.commandOpen ctx then s.continueResume
      else if !contextCommandOk c true true || !s.areaOk c then s.acceptCommand.answerSlot slot stBadCmd
      else
        match s.refusedIn ctx (fun st => st == .configured || st == .suspended) with
        | some st => s.acceptCommand.answerSlot slot st
        | none =>
          match s.resume ctx (.ring slot) 0 (word64 c 8) (leAt c 0x10 8) with
          | .notYet s => s.acceptCommand.awaitResume ctx (.ring slot) (word64 c 8) (leAt c 0x10 8) 0
          | .done s st => s.acceptCommand.answerSlot slot st)

/-! ### Teardown (R96) -/

/-- Hindcast at Kill's Stop step (18 R389, R398, R411): the mode ends, open and closing chunks are discarded, the ring and RESULT stay. -/
def Hindcast.stopForKill (h : Hindcast) : Hindcast :=
  { h with
    mode := .off
    recorders := []
    closing := []
    log := []
    armed := false }

/-- The held stores of a context's guarded groups are sent: the drain awaits them (R96). -/
def State.sendAllHeld (s : State) (ctx : Nat) : State :=
  s.groups.foldl (fun s p =>
    if p.2.ctx = ctx then ((p.2.guarded.map Guarded.release).getD []).foldl (fun s h => s.sendHeld p.1 p.2 h) s else s) s

/-- The engine commands of a context at Stop: those under way go on, those whose chunks all wait on replayable faults are dropped with them, as
no one resolves these any more (R96). -/
def State.commandsAtStop (s : State) (ctx : Nat) : Table Command :=
  (s.commands.mapAll (fun _ c =>
    if c.ctx = ctx then { c with
      left := c.left ++ (c.faulted.filter (fun x => s.walks.any (fun w => w.2.ctx == ctx && w.2.page == x.2))).map Prod.fst
      faulted := [] }
    else c)).filter (fun p => p.2.ctx != ctx || !p.2.left.isEmpty || !p.2.away.isEmpty)

/-- Stop (R96): the launch queues are free, every group is killed, and nothing is left of the context's kernels but what the drain awaits. No
completion record is written (05 R105, 06 R123). Packets that waited for a Resume are dropped and counted (R97). -/
def State.stopContext (s : State) (ctx : Nat) : State :=
  let gids := s.groups.keysOf (fun _ g => g.ctx == ctx)
  let khs := s.kernels.keysOf (fun _ k => k.ctx == ctx)
  let mine (kh : Nat) : Bool := khs.contains kh || kh / 4096 == ctx + 1
  let s := (s.sendAllHeld ctx).killGroups (fun g => g.ctx == ctx)
  let s := { s with
    queues := s.queues.filter (fun p => p.2.owner != ctx)
    kernels := s.kernels.filter (fun p => p.2.ctx != ctx)
    commands := s.commandsAtStop ctx
    accesses := s.accesses.filter (fun p => p.2.ctx != ctx || !gids.contains p.2.gid ||
      (match p.2.kind with | .load => false | .uniform => false | _ => true))
    packages := s.packages.filter (fun p => p.2.ctx != ctx)
    restores := s.restores.filter (fun p => p.2.2.1 != ctx)
    updates := s.updates.filter (fun p => p.2.ctx != ctx)
    joins := s.joins.filter (fun p => !mine p.2.kh)
    orphans := s.orphans.filter (fun p => !mine p.2.kh)
    gangs := s.gangs.filter (fun p => p.2.ctx != ctx)
    faults := s.faults.filter (fun p => p.2.ctx != ctx)
    walks := s.walks.filter (fun p => p.2.ctx != ctx)
    tlbs := s.tlbs.filter (fun p => p.2.ctx != ctx)
    paths := s.paths.filter (fun p => p.2.ctx != ctx)
    bindTable := s.bindTable.mapAll (fun _ b => if khs.contains b.kh then b.dead else b)
    l1 := s.l1.mapAll (fun _ t => t.filter (fun p => p.2.state != L1State.uniform || !khs.contains p.2.kernel))
    dev := { s.dev with kdrop := s.dev.kdrop + BitVec.ofNat 64 (s.context ctx).heldPackets.length } }
  let s := { s with killed := s.killed.filter (fun p => s.commands.any (fun c => c.2.gid == p.1)) }
  s.modContext ctx (fun c => { c with
    state := .tearing
    hind := c.hind.stopForKill
    keptGroups := []
    keptGone := []
    keptKh := []
    keptBinds := []
    keptGangs := []
    keptDigest := []
    endedInSave := []
    heldPackets := [] })

/-- A Suspend or a Resume in progress for a context that is killed ends with KILLED (R91). -/
def State.endSaves (s : State) (ctx : Nat) : State :=
  (s.pending.filter (fun p => (p.2.kind == 0 || p.2.kind == 1) && p.2.ctx == ctx)).foldl (fun s p =>
    ({ s with pending := Table.erase s.pending p.1 }).answer p.2.asker stKilled) s

/-- Kill is accepted (R90, R91): teardown begins, unless it runs already; whoever asks waits for its end. -/
def State.beginKill (s : State) (ctx : Nat) (a : Asker) : State :=
  let s := if (s.context ctx).state = .tearing then s else (s.endSaves ctx).stopContext ctx
  { s with
    pending := Table.put s.pending s.nextId { kind := 2, ctx := ctx, asker := a, area := 0, size := 0, via := 0 }
    nextId := s.nextId + 1 }

/-- Kill (R90). -/
def execKill (s : State) : Host.Outcome State Fault Refusal :=
  .next (match s.headCommand with
    | none => s
    | some (slot, c) =>
      let ctx := commandCtx c
      if leAt c 0 1 ≠ 7 then s
      else if !contextCommandOk c false false then s.acceptCommand.answerSlot slot stBadCmd
      else if (s.context ctx).state = .tornDown then s.acceptCommand.answerSlot slot stNoCtx
      else s.acceptCommand.beginKill ctx (.ring slot))

/-- Is every fabric write towards the context's peers acknowledged, or dropped at an isolated link? -/
def State.fabricDrained (s : State) (ctx : Nat) : Bool :=
  s.links.all (fun l => (l.2.replay ++ l.2.backlog).all (fun f =>
    f.head.typ < 3 || 5 < f.head.typ || f.head.src != s.dev.devid || !(s.context ctx).peers.contains (f.head.dst, f.head.ctx)))

/-- Is every write of the context towards an expander or the host answered, or its port isolated (R96, 17 R385)? -/
def State.portsDrained (s : State) (ctx : Nat) : Bool :=
  s.ports.all (fun p => p.2.requests.all (fun r => (r.2.kind != 1 && r.2.kind != 4) || r.2.ctx != some ctx))

/-- TEARDOWN_DRAINED (R96): with everything that the context issued acknowledged or dropped, its key id is retired. -/
def execTeardownDrained (ctx : Nat) (s : State) : Host.Outcome State Fault Refusal :=
  .next (
    let c := s.context ctx
    if c.state ≠ .tearing ∨ c.retired ∨ s.accesses.any (fun p => p.2.ctx == ctx) ∨ s.commands.any (fun p => p.2.ctx == ctx) ∨
        !s.fabricDrained ctx ∨ !s.portsDrained ctx then s
    else
      let s := s.modContext ctx (fun c => { c with retired := true })
      if c.key = 0 then s else { s with keys := Table.put s.keys c.key (4 * s.keyGeneration c.key + 2) })

/-- Sweep (R96): no cluster L1 and no slice holds a line under the key id; dirty data is discarded. -/
def State.sweepKey (s : State) (key : Nat) : State :=
  let lines := (s.l2.flatMap (fun p => (p.2.filter (fun q => q.2.key % 4096 == key)).map Prod.fst)).eraseDups
  let s := { s with
    l1 := s.l1.mapAll (fun _ t => t.filter (fun p => p.2.key % 4096 != key))
    monitors := s.monitors.filter (fun p => p.2.key % 4096 != key) }
  lines.foldl (fun s line => (slicesOf (128 * line)).foldl (fun s q => s.dropL2 q line) s) s

/-- Does an address lie in the near store and in one of the regions? -/
def nearIn (regions : List Region) (a : Nat) : Bool :=
  decide (nearBase ≤ a) && decide (a < nearBase + 4 * 0x10000000) &&
    regions.any (fun r => decide (r.base ≤ a) && decide (a < r.base + r.bytes))

/-- The near-store parts of a context's regions are zeroed (R96, R101). -/
def State.zeroNear (s : State) (regions : List Region) : State :=
  { s with memory := { s.memory with
      bytes := s.memory.bytes.filter (fun c => !nearIn regions c.1)
      poison := s.memory.poison.filter (fun p => !nearIn regions (128 * p.1)) } }

/-- A context torn down: its error queue and its Hindcast ring stay readable (19 R419, 18 R389). -/
def Context.swept (c : Context) : Context :=
  { Context.torn with
    everConfigured := c.everConfigured
    errors := c.errors
    hind := { Hindcast.off with
      head := c.hind.head
      tail := c.hind.tail
      lastSeq := c.hind.lastSeq
      result := c.hind.result
      ring := c.hind.ring }
    ringBase := c.ringBase
    ringLog := c.ringLog }

/-- SWEPT (R96, R90): the sweep is done, the key id and the CTXID are free, and every waiting Kill completes. -/
def execSwept (ctx : Nat) (s : State) : Host.Outcome State Fault Refusal :=
  .next (
    let c := s.context ctx
    if c.state ≠ .tearing ∨ !c.retired then s
    else
      let s := if c.key = 0 then s else s.sweepKey c.key
      let s := (s.zeroNear c.regions).fillBudgets ctx
      let s := { s with
        keys := if c.key = 0 then s.keys else Table.put s.keys c.key (4 * s.keyGeneration c.key)
        tlbs := s.tlbs.filter (fun p => p.2.ctx != ctx)
        paths := s.paths.filter (fun p => p.2.ctx != ctx) }
      let s := s.modContext ctx Context.swept
      (s.pending.filter (fun p => p.2.kind == 2 && p.2.ctx == ctx)).foldl (fun s p =>
        ({ s with pending := Table.erase s.pending p.1 }).answer p.2.asker stDone) s)

/-! ### Rekey (R101) -/

/-- A Suspended context takes a fresh key id, and its old one is swept and free. -/
def State.rekeyContext (s : State) (ctx : Nat) : State × Nat :=
  let c := s.context ctx
  if c.state ≠ .suspended then (s, stState)
  else
    match s.freeKeyId with
    | none => (s, stNoKey)
    | some k =>
      let s := ((s.sweepKey c.key).bindKey k).zeroNear c.regions
      let s := { s with keys := Table.put s.keys c.key (4 * s.keyGeneration c.key) }
      (s.modContext ctx (fun c => { c with key := k }), stDone)

/-- Rekey (R90). -/
def execRekey (s : State) : Host.Outcome State Fault Refusal :=
  .next (s.contextCommand 8 false false (fun ctx _ s =>
    if (s.context ctx).state = .tornDown then (s, stNoCtx) else s.rekeyContext ctx))

/-! ### The instructions (R98 to R102) -/

/-- Is a whole area mapped, and granted to the issuer's engines? By pages, or by the 2 MiB of a region's grain. -/
def State.areaMapped (s : State) (ctx : Nat) (write : Bool) : Nat → W64 → Nat → Bool
  | 0, _, left => left == 0
  | f + 1, va, left =>
    if left = 0 then true
    else
      match s.walkKind ctx va (boolNat write) with
      | .leaf l =>
        let page := 2 ^ min l.logSize 21
        let n := min left (page - va.toNat % page)
        s.granted ctx (l.pa va) n true write && s.areaMapped ctx write f (va + BitVec.ofNat 64 n) (left - n)
      | .fault _ _ _ => false

/-- What an event raised by an item comes to at once: a status, a wait, or nothing yet. -/
inductive Raised where
  | ended (st : Nat) (s : State)
  | waits (w : Wait) (s : State)

/-- The first of NOCTX, SELF and NOTCHILD that applies to a target (R100). -/
def State.childStatus (s : State) (ctx t : Nat) : Nat :=
  if (s.context t).state = .tornDown then stNoCtx
  else if t = ctx then stSelf
  else if (s.context t).parent ≠ ctx then stNotChild
  else stDone

/-- Suspend raised by ctxsave. -/
def State.raiseSave (s : State) (e : Env) (ctx t : Nat) (area : W64) (size : Nat) : Raised :=
  if s.commandOpen t then .waits .again s
  else if (s.context t).state ≠ .active then .ended stState s
  else if !s.areaMapped ctx true (size / 4096 + 1) area size then .ended stNoMap s
  else .waits (.command s.nextId) (s.beginSave t (.item e.gid e.slot) area size ctx)

/-- Resume raised by ctxload. -/
def State.raiseLoad (s : State) (e : Env) (ctx t : Nat) (area : W64) (size : Nat) : Raised :=
  if s.commandOpen t then .waits .again s
  else if (s.context t).state ≠ .configured ∧ (s.context t).state ≠ .suspended then .ended stState s
  else if !s.areaMapped ctx false (size / 4096 + 1) area size then .ended stNoMap s
  else
    match s.resume t (.item e.gid e.slot) ctx area size with
    | .notYet s => .waits (.command s.nextId) (s.awaitResume t (.item e.gid e.slot) area size ctx)
    | .done s st => .ended st s

/-- Kill raised by ctxkill. -/
def State.raiseKill (s : State) (e : Env) (t : Nat) : Raised := .waits (.command s.nextId) (s.beginKill t (.item e.gid e.slot))

/-- Rekey raised by kretire. -/
def State.raiseRekey (s : State) (t : Nat) : Raised :=
  if s.commandOpen t then .waits .again s
  else
    let (s, st) := s.rekeyContext t
    .ended st s

/-- One of the four forms for one item (R100); `area`, where the form has one, is its log size. Under replay no event is raised (R102). -/
def contextForm (i : Instr) (o : Form) (area : Option Nat) (raise : Env → Nat → Nat → W64 → Nat → State → Raised) (e : Env) (s : State) :
    State :=
  s.withGroup e.gid (fun g =>
    match e.it.got with
    | some (st, _) => { e with it := { e.it with got := none } }.giveStatus i o.d st.toNat s
    | none =>
      if g.turnTaken e then e.await i .again s
      else if !e.it.storesOut.isEmpty then e.await i (.stores .sys) s
      else
      let t := e.it.readV o.a
      let ea := if area.isSome then e.it.readV2 o.b else 0
      if !targetOk t then e.finish i (.trap e.it (illegal 0x0E 2)) s
      else if !aligned ea 4096 then e.finish i (.trap e.it (memTrap causeMisalign ea false 1 false)) s
      else if (s.hind g.ctx).replaying then e.giveStatus i o.d stDone s
      else
        let st := s.childStatus g.ctx t.toNat
        if st ≠ stDone then e.giveStatus i o.d st s
        else
          match raise e g.ctx t.toNat ea (2 ^ area.getD 0) s with
          | .ended st s => e.giveStatus i o.d st s
          | .waits w s => e.await i w s)

/-- ctxsave -/
def execCtxsave (o : SizeForm) (s : State) : Host.Outcome State Fault Refusal :=
  .next (s.commitWave (.ctxsave o) true (contextForm (.ctxsave o) o.toForm (some o.sz.toNat) (fun e ctx t a n s => s.raiseSave e ctx t a n)))

/-- ctxload -/
def execCtxload (o : SizeForm) (s : State) : Host.Outcome State Fault Refusal :=
  .next (s.commitWave (.ctxload o) true (contextForm (.ctxload o) o.toForm (some o.sz.toNat) (fun e ctx t a n s => s.raiseLoad e ctx t a n)))

/-- ctxkill -/
def execCtxkill (o : Form) (s : State) : Host.Outcome State Fault Refusal :=
  .next (s.commitWave (.ctxkill o) true (contextForm (.ctxkill o) o none (fun e _ t _ _ s => s.raiseKill e t)))

/-- kretire -/
def execKretire (o : Form) (s : State) : Host.Outcome State Fault Refusal :=
  .next (s.commitWave (.kretire o) true (contextForm (.kretire o) o none (fun _ _ t _ _ s => s.raiseRekey t)))

end Sys2Proof.Machine
end

