-- ==== Sys2Proof/Machine/CrossLane.lean ====
section
/-! DEFINITION. Cross-lane instructions (08 R169 to R173): the participants are the items of the wave whose guard is true. -/

namespace Sys2Proof.Machine

/-- The logical lane of an item (R169). -/
def Env.lane (e : Env) : Nat := e.slot % 32

/-- The participant at a lane. -/
def atLane (ps : List Env) (l : Nat) : Option Env := ps.find? (fun e => e.lane == l)

/-- The four shuffles. -/
inductive Shuffle where
  | index | up | down | xor
  deriving DecidableEq, Repr

/-- The lane a shuffle reads, if any (R171). -/
def shuffleSource (kind : Shuffle) (l n k : Nat) : Option Nat :=
  let o := l % n
  let sb := l - o
  match kind with
  | .index => some (sb + k % n)
  | .xor => some (sb + (o ^^^ k % n))
  | .up => if k ≤ o then some (l - k) else none
  | .down => if o + k < n then some (l + k) else none

/-- A shuffle (R171): the source participant's value, or the item's own. -/
def State.shuffle (s : State) (i : Instr) (o : ShuffleForm) (kind : Shuffle) : State :=
  let ps := s.takers i
  s.mapWave i (fun e =>
    let k := if o.rb then (e.it.readV o.b).toNat else o.k.toNat
    let x := match shuffleSource kind e.lane (2 ^ o.seg.toNat) k with
      | some j => match atLane ps j with
        | some q => q.it.readV o.a
        | none => e.it.readV o.a
      | none => e.it.readV o.a
    .done (e.it.writeV o.d x))

def execShfli (o : ShuffleForm) (s : State) : Host.Outcome State Fault Refusal := .next (s.shuffle (.shfli o) o .index)
def execShflu (o : ShuffleForm) (s : State) : Host.Outcome State Fault Refusal := .next (s.shuffle (.shflu o) o .up)
def execShfld (o : ShuffleForm) (s : State) : Host.Outcome State Fault Refusal := .next (s.shuffle (.shfld o) o .down)
def execShflx (o : ShuffleForm) (s : State) : Host.Outcome State Fault Refusal := .next (s.shuffle (.shflx o) o .xor)

/-- A predicate true in every participant (R172). -/
def execVall (o : Form) (s : State) : Host.Outcome State Fault Refusal :=
  let x := (s.takers (.vall o)).all (fun e => e.it.readP o.a)
  .next (s.mapWave (.vall o) (fun e => .done (e.it.writeP o.d x)))

/-- A predicate true in some participant (R172). -/
def execVany (o : Form) (s : State) : Host.Outcome State Fault Refusal :=
  let x := (s.takers (.vany o)).any (fun e => e.it.readP o.a)
  .next (s.mapWave (.vany o) (fun e => .done (e.it.writeP o.d x)))

/-- The mask of the lanes of the participants that meet a condition. -/
def laneMask (ps : List Env) (q : Env → Bool) : W32 :=
  ps.foldl (fun m e => if q e then m ||| (1#32 <<< e.lane) else m) 0

/-- The mask of participants whose predicate is 1 (R172). -/
def execBallot (o : Form) (s : State) : Host.Outcome State Fault Refusal :=
  let x := laneMask (s.takers (.ballot o)) (fun e => e.it.readP o.a)
  .next (s.mapWave (.ballot o) (fun e => .done (e.it.writeV o.d x)))

/-- The mask of participants with the same value (R172). -/
def execMatchLanes (o : Form) (s : State) : Host.Outcome State Fault Refusal :=
  let ps := s.takers (.matchLanes o)
  .next (s.mapWave (.matchLanes o) (fun e =>
    .done (e.it.writeV o.d (laneMask ps (fun q => q.it.readV o.a == e.it.readV o.a)))))

/-- The participants of an item's segment, by lane ascending (R169, R173). -/
def segmentOf (ps : List Env) (e : Env) (seg : BitVec 3) : List Env :=
  ps.filter (fun q => q.lane / 2 ^ seg.toNat == e.lane / 2 ^ seg.toNat)

/-- V or V2 as W64 says. -/
def wideDest (wide : Bool) (x : W64) : Dest := if wide then .w2 x else .w (lo32 x)

/-- wscan (R173): the fold of the lanes below, its own included unless EXC. -/
def execWscan (o : ScanForm) (s : State) : Host.Outcome State Fault Refusal :=
  let ps := s.takers (.wscan o)
  .next (s.mapWave (.wscan o) (fun e =>
    let t := (segmentOf ps e o.seg).filter (fun q => if o.exc then decide (q.lane < e.lane) else decide (q.lane ≤ e.lane))
    .done (e.it.writeDest o.d (wideDest o.w64 (intReduce o.w64 o.op o.uns (t.map (fun q => q.wideA o.toForm o.w64)))))))

/-- wred (R173): the fold of the segment. -/
def execWred (o : ScanForm) (s : State) : Host.Outcome State Fault Refusal :=
  let ps := s.takers (.wred o)
  .next (s.mapWave (.wred o) (fun e =>
    .done (e.it.writeDest o.d
      (wideDest o.w64 (intReduce o.w64 o.op o.uns ((segmentOf ps e o.seg).map (fun q => q.wideA o.toForm o.w64)))))))

/-- wfred (R173): PairTree over the segment, with every flag raised in the tree and the item's own enables. -/
def execWfred (o : FloatScanForm) (s : State) : Host.Outcome State Fault Refusal :=
  let ps := s.takers (.wfred o)
  .next (s.mapWave (.wfred o) (fun e =>
    let r := floatReduce (if o.f64 then fp64 else fp32) o.op
      ((segmentOf ps e o.seg).map (fun q => (q.wideA o.toForm o.f64).toNat))
    e.applyOut o.toForm { Out.of (wideDest o.f64 (BitVec.ofNat 64 r.bits)) with elems := [⟨r.flags, r.snan⟩] }))

end Sys2Proof.Machine
end

