-- ==== Sys2Proof/Machine/FloatForms.lean ====
section
/-! DEFINITION. Floating-point, special-function and conversion instructions (10): majors 0x20 to 0x2D. -/

namespace Sys2Proof.Machine

/-! ### The common frame (R200) -/

/-- The rounding mode of a form: FPCTL.RM, or the form's own (R70, R200). -/
def Env.rm (e : Env) : Rnd → Nat
  | .dynamic => e.it.roundMode
  | .rne => 0
  | .rtz => 1
  | .rdn => 2
  | .rup => 3

/-- Field A, B or C of kind F as a 64-bit value. -/
def Env.floatA (e : Env) (o : Form) (p : Prec) : W64 := if p = .f64 then e.opA2 o else (e.opA o).zeroExtend 64
def Env.floatB (e : Env) (o : Form) (p : Prec) : W64 := if p = .f64 then e.opB2 o else (e.opB o).zeroExtend 64
def Env.floatC (e : Env) (o : Form) (p : Prec) : W64 := if p = .f64 then e.opC2 o else (e.opC o).zeroExtend 64

/-- The elements of an operand: two packed ones of 16 bits, else one (R31, R200). -/
def elements (p : Prec) (x : W64) : List Nat :=
  match p with
  | .f64 => [x.toNat]
  | .f32 => [(lo32 x).toNat]
  | _ => [(half (lo32 x) 0).toNat, (half (lo32 x) 1).toNat]

/-- Element results as the destination with their flags (R200). -/
def packResults (p : Prec) (rs : List FRes) : Out :=
  let n (k : Nat) : Nat := (rs.getD k (.of 0)).bits
  let d : Dest := match p with
    | .f64 => .w2 (BitVec.ofNat 64 (n 0))
    | .f32 => .w (BitVec.ofNat 32 (n 0))
    | _ => .w (halves (BitVec.ofNat 16 (n 0)) (BitVec.ofNat 16 (n 1)))
  { Out.of d with elems := rs.map (fun r => ⟨r.flags, r.snan⟩) }

/-- A form of one, two or three operands of kind F, element by element. -/
def Env.float1 (e : Env) (o : FloatForm) (f : Fmt → Nat → FRes) : Out :=
  packResults o.prec ((elements o.prec (e.floatA o.toForm o.prec)).map (f (fmtOf o.prec)))
def Env.float2 (e : Env) (o : FloatForm) (f : Fmt → Nat → Nat → FRes) : Out :=
  packResults o.prec (List.zipWith (f (fmtOf o.prec)) (elements o.prec (e.floatA o.toForm o.prec))
    (elements o.prec (e.floatB o.toForm o.prec)))
def Env.float3 (e : Env) (o : FloatForm) (f : Fmt → Nat → Nat → Nat → FRes) : Out :=
  packResults o.prec (List.zipWith (fun (g : Nat → FRes) c => g c)
    (List.zipWith (f (fmtOf o.prec)) (elements o.prec (e.floatA o.toForm o.prec)) (elements o.prec (e.floatB o.toForm o.prec)))
    (elements o.prec (e.floatC o.toForm o.prec)))

/-- One 32-bit or wider result with flags. -/
def Out.float (d : Dest) (flags : BitVec 5) (snan : Bool) : Out := { Out.of d with elems := [⟨flags, snan⟩] }

/-! ### Operations -/

/-- The fused forms (R202): ±(a × b) ± c. -/
def fused (negP negC : Bool) (F : Fmt) (daz ftz : Bool) (rm : Nat) (x y z : Nat) : FRes :=
  let a := F.read daz x
  let b := F.read daz y
  let c := F.read daz z
  let p := mulTerm a b
  let t := c.term
  sumTerms F [(F, a), (F, b), (F, c)] [if negP then p.negate else p, if negC then t.negate else t] rm ftz

/-- The relations of R203: the truth of the condition, and the case that raises INV. -/
def floatCompare (F : Fmt) (daz : Bool) (c : FloatCond) (x y : Nat) : Bool × ElemFlags :=
  let a := F.read daz x
  let b := F.read daz y
  let un := a.isNan || b.isNan
  let sn := a.isSnan || b.isSnan
  let lt := !un && a.lt b
  let gt := !un && b.lt a
  let quiet : ElemFlags := ⟨if sn then fINV else 0, sn⟩
  let any : ElemFlags := ⟨if un then fINV else 0, sn⟩
  match c with
  | .eq => (!un && !lt && !gt, quiet)
  | .ne => (un || lt || gt, quiet)
  | .lt => (lt, any)
  | .le => (!un && !gt, any)
  | .gt => (gt, any)
  | .ge => (!un && !lt, any)
  | .un => (un, quiet)
  | .or => (!un, quiet)

/-- The class mask of R204. -/
def classMask (F : Fmt) (daz : Bool) (x : Nat) : Nat :=
  match F.read daz x with
  | .nan _ _ q => if q then 512 else 256
  | .inf s => if s then 1 else 128
  | .fin s m _ =>
    if m = 0 then (if s then 8 else 16) else if m < 2 ^ F.f then (if s then 4 else 32) else (if s then 2 else 64)

/-- A sign bit replaced (R206). -/
def withSign (F : Fmt) (x : Nat) (s : Bool) : Nat := x % 2 ^ F.signBit + (if s then 2 ^ F.signBit else 0)
def signOf (F : Fmt) (x : Nat) : Bool := decide (x / 2 ^ F.signBit % 2 = 1)

/-- A power of two far beyond every exponent range gives what a larger one gives. -/
def clampExp (k : Int) : Int := sat k (-10000) 10000

/-- fscale (R207). -/
def scaleBy (F : Fmt) (daz ftz : Bool) (rm : Nat) (x : Nat) (k : Int) : FRes :=
  match F.read daz x with
  | .fin s m e => if m = 0 then .of (F.zero s) else F.round (Flt.fin s m (e + clampExp k)).dy rm s ftz false
  | .inf s => .of (F.infinity s)
  | v => (chooseNan F [(F, v)] false).getD (.of 0)

/-- fgetexp (R207): exact in F. -/
def getExp (F : Fmt) (daz : Bool) (x : Nat) : FRes :=
  match F.read daz x with
  | .fin s m e =>
    if m = 0 then ⟨F.infinity true, fDZ, false⟩ else F.round ⟨(Flt.fin s m e).dy.log2, 0⟩ 0 false false false
  | .inf _ => .of (F.infinity false)
  | v => (chooseNan F [(F, v)] false).getD (.of 0)

/-- fgetman (R207). -/
def getMan (F : Fmt) (daz : Bool) (x : Nat) : FRes :=
  match F.read daz x with
  | .fin s m _ => if m = 0 then .of (F.zero s) else F.round (Flt.fin s m (-(Nat.log2 m : Int))).dy 0 s false false
  | v => (chooseNan F [(F, v)] v.isInf).getD (.of 0)

/-- A NaN or infinity of format G widened or narrowed into F, else Round (R38, R210, R211). -/
def convert (F G : Fmt) (v : Flt) (rm : Nat) (ftz sat : Bool) : FRes :=
  match chooseNan F [(G, v)] false with
  | some r => r
  | none =>
    match v with
    | .inf s => F.roundInf s rm sat
    | v => F.round v.dy rm v.sign ftz sat

/-- fcvti and fcvtil (R210): an integer of `n` bits. -/
def toInteger (F : Fmt) (daz : Bool) (rm n : Nat) (uns : Bool) (x : Nat) : Int × ElemFlags :=
  let lo : Int := if uns then 0 else -(2 ^ (n - 1))
  let hi : Int := if uns then 2 ^ n - 1 else 2 ^ (n - 1) - 1
  match F.read daz x with
  | .nan _ _ q => (0, ⟨fINV, !q⟩)
  | .inf s => (if s then lo else hi, ⟨fINV, false⟩)
  | v =>
    let (k, inexact) := pick v.dy 0 rm
    if k < lo then (lo, ⟨fINV, false⟩)
    else if hi < k then (hi, ⟨fINV, false⟩)
    else (k, ⟨if inexact then fINX else 0, false⟩)

/-- frint (R210). -/
def roundIntegral (F : Fmt) (daz : Bool) (rm : Nat) (x : Nat) : FRes :=
  match F.read daz x with
  | .fin s m e =>
    let (k, inexact) := pick (Flt.fin s m e).dy 0 rm
    ⟨if k = 0 then F.zero s else (F.round ⟨k, 0⟩ 0 s false false).bits, if inexact then fINX else 0, false⟩
  | .inf s => .of (F.infinity s)
  | v => (chooseNan F [(F, v)] false).getD (.of 0)

/-! ### Special functions (R209) -/

/-- The six forms. -/
inductive Special where
  | exp2 | log2 | sin | cos | rcp | rsq
  deriving DecidableEq, Repr

/-- The number by which Config.specialFunction knows a form. -/
def Special.index : Special → Nat
  | .exp2 => 0 | .log2 => 1 | .sin => 2 | .cos => 3 | .rcp => 4 | .rsq => 5

/-- Is m × 2^e a power of two: its exponent. -/
def powerOfTwo (m : Nat) (e : Int) : Option Int := if m = 2 ^ Nat.log2 m then some (Nat.log2 m + e) else none

/-! The exact results, worked in units of 2^−256 far beyond the bounds of R209. -/

def fixedUnit : Int := pow2 256

/-- A value in these units. -/
def Dy.fixed (x : Dy) : Int := (x.floorAt (-256)).1

/-- The natural logarithm of 2, and the full circle, in these units. -/
def ln2Fixed : Int := 80260960185991308862233904206310070533990667611589946606122867505419956976171
def circleFixed : Int := 727543153783532648560469885555459725306786754656784859917544302235877788932370

/-- The sum of c_k t^k / k!. -/
def powerSeries (c : Nat → Int) (t : Int) : Int :=
  ((upTo 64).foldl (fun a k => (a.1 + c k * a.2, a.2 * t / (fixedUnit * ((k : Int) + 1)))) ((0 : Int), fixedUnit)).1

/-- Twice the sum of z^(2k+1) / (2k+1): the natural logarithm of (1 + z) / (1 − z). -/
def logSeries (z : Int) : Int :=
  2 * ((upTo 64).foldl (fun a (k : Nat) => (a.1 + a.2 / (2 * (k : Int) + 1), a.2 * z / fixedUnit * z / fixedUnit)) ((0 : Int), z)).1

/-- The exact result of a form on ±m × 2^e, to at least 60 places of its own size. -/
def Special.near (fn : Special) (s : Bool) (m : Nat) (e : Int) : Dy :=
  let a := (Flt.fin s m e).dy
  match fn with
  | .exp2 =>
    let n := (a.floorAt 0).1
    ⟨powerSeries (fun _ => 1) ((a.fixed - n * fixedUnit) * ln2Fixed / fixedUnit), clampExp n - 256⟩
  | .log2 =>
    let top : Int := pow2 (Nat.log2 m)
    ⟨(Nat.log2 m + e) * fixedUnit + logSeries (fixedUnit * (m - top) / (m + top)) * fixedUnit / ln2Fixed, -256⟩
  | .sin => if a.log2 < -40 then a else ⟨powerSeries (fun k => ([0, 1, 0, -1] : List Int).getD (k % 4) 0) (a.fixed % circleFixed), -256⟩
  | .cos => ⟨powerSeries (fun k => ([1, 0, -1, 0] : List Int).getD (k % 4) 0) (a.fixed % circleFixed), -256⟩
  | .rcp => quotient 80 (.fin s 1 0) (.fin false m e)
  | .rsq =>
    let r := squareRoot 80 m e
    quotient 80 (.fin false 1 0) (.fin false r.m.natAbs r.e)

/-- The bound of R209 on the error of a form whose exact result is `y`: so many ulp, a relative or an absolute error. -/
def Special.bound (fn : Special) (F : Fmt) (wide : Bool) (a y : Dy) : Dy :=
  let ulps (n : Nat) : Dy := ⟨n, max y.log2 F.emin - F.f⟩
  let relative : Dy := ⟨y.m.natAbs, y.e - 23⟩
  match fn with
  | .exp2 => ulps 2
  | .log2 => if (a.add ⟨-1, 0⟩).abs.lt ⟨1, -4⟩ then ⟨1, -22⟩ else ulps 2
  | .rcp => if wide then relative else ulps 1
  | .rsq => if wide then relative else ulps 2
  | _ => ⟨1, -21⟩

/-- May the approximation be `v`, with the exact result near `y`? The place of the computed bound is 2^−30 of it too wide, never too narrow;
a zero has the sign of the result. -/
def Special.admits (fn : Special) (F : Fmt) (wide : Bool) (a y : Dy) (v : Flt) : Bool :=
  match v with
  | .fin s m e =>
    let x := (Flt.fin s m e).dy
    let circular := match fn with | .sin => true | .cos => true | _ => false
    (m != 0 || s == decide (y.m < 0)) &&
      (if circular && Dy.lt ⟨1, 15⟩ a.abs then x.abs.le ⟨1, 0⟩
       else (x.add y.neg).abs.le ((fn.bound F wide a y).mul ⟨pow2 30 + 1, -30⟩))
  | _ => false

/-- The delivered approximation of a form on ±m × 2^e (R209): any value within the bound, as the free value has it (log 7), with INX; a
result that is tiny obeys R43. -/
def deliver (fn : Special) (F : Fmt) (wide ftz : Bool) (x : Nat) (s : Bool) (m : Nat) (e : Int) : FRes :=
  let y := fn.near s m e
  let free := (Config.specialFunction fn.index (boolNat wide) (BitVec.ofNat 64 x)).toNat % 2 ^ (F.signBit + 1)
  let negative := decide (y.m < 0)
  let v := if fn.admits F wide (Flt.fin s m e).dy y (F.decode free) then free else (F.round y 0 negative false true).bits
  let tiny := Dy.lt (Dy.abs ⟨(pick y (y.log2 - F.f) 0).1, y.log2 - F.f⟩) ⟨1, F.emin⟩
  if tiny && ftz then ⟨F.zero negative, fUNF ||| fINX, false⟩
  else ⟨v, if tiny then fUNF ||| fINX else fINX, false⟩

/-- A special function at FP32 or FP64 (R209): the table of special operands, the exact cases, overflow, else the approximation. -/
def special (fn : Special) (F : Fmt) (wide daz ftz : Bool) (x : Nat) : FRes :=
  let v := F.read daz x
  let one := F.encode false (2 ^ F.f) (-(F.f : Int))
  let negative := v.sign && !v.isZero && !v.isNan
  let invalid : Bool := match fn with
    | .log2 => negative
    | .rsq => negative
    | .sin => v.isInf
    | .cos => v.isInf
    | _ => false
  let overflowed (s : Bool) : FRes := ⟨F.infinity s, fOVF ||| fINX, false⟩
  match chooseNan F [(F, v)] invalid with
  | some r => r
  | none =>
    match fn, v with
    | .exp2, .inf s => .of (if s then F.zero false else F.infinity false)
    | .exp2, .fin s m e =>
      if m = 0 then .of one
      else
        let a := (Flt.fin s m e).dy
        let (k, inexact) := pick a 0 1
        if !a.lt ⟨F.emax + 1, 0⟩ then overflowed false
        else if !inexact && decide (F.emin - F.f ≤ k) then F.round ⟨1, clampExp k⟩ 0 false ftz false
        else deliver fn F wide ftz x s m e
    | .log2, .inf _ => .of (F.infinity false)
    | .log2, .fin s m e =>
      if m = 0 then ⟨F.infinity true, fDZ, false⟩
      else
        match powerOfTwo m e with
        | some k => F.round ⟨k, 0⟩ 0 false ftz false
        | none => deliver fn F wide ftz x s m e
    | .sin, .fin s m e => if m = 0 then .of (F.zero s) else deliver fn F wide ftz x s m e
    | .cos, .fin s m e => if m = 0 then .of one else deliver fn F wide ftz x s m e
    | .rcp, .inf s => .of (F.zero s)
    | .rcp, .fin s m e =>
      if m = 0 then ⟨F.infinity s, fDZ, false⟩
      else
        match powerOfTwo m e with
        | some k => F.round ⟨if s then -1 else 1, -k⟩ 0 s ftz false
        | none =>
          if Dy.lt ⟨F.maxSig, F.emax - F.f⟩ (quotient F.p (.fin false 1 0) (.fin false m e)) then overflowed s
          else deliver fn F wide ftz x s m e
    | .rsq, .inf _ => .of (F.zero false)
    | .rsq, .fin s m e =>
      if m = 0 then ⟨F.infinity s, fDZ, false⟩
      else
        match powerOfTwo m e with
        | some k => if k % 2 = 0 then F.round ⟨1, -(k / 2)⟩ 0 false ftz false else deliver fn F wide ftz x s m e
        | none => deliver fn F wide ftz x s m e
    | _, _ => .of 0

/-- A special function element: the 16-bit formats widen to FP32 and narrow under RNE (R209). -/
def specialElem (fn : Special) (p : Prec) (F : Fmt) (daz ftz : Bool) (x : Nat) : FRes :=
  match p with
  | .f32 => special fn fp32 false daz ftz x
  | .f64 => special fn fp64 true daz ftz x
  | _ =>
    let v := F.read daz x
    let wide := convert fp32 F v 0 false false
    if v.isSnan then ⟨F.canonical, fINV, true⟩
    else
      let r := special fn fp32 false false ftz wide.bits
      let n := convert F fp32 (fp32.decode r.bits) 0 ftz false
      ⟨n.bits, r.flags ||| n.flags, r.snan || n.snan⟩

/-! ### Dot products, packing, storage formats -/

/-- fdot2 and fdot4 (R208). Which element counts as the first quiet NaN inside one packed operand is the model's choice (log 47). -/
def dotProduct (G : Fmt) (daz ftz : Bool) (rm : Nat) (as bs : List Nat) (c : Nat) : FRes :=
  let a := as.map (G.read daz)
  let b := bs.map (G.read daz)
  let z := fp32.read daz c
  sumTerms fp32 (a.map (fun x => (G, x)) ++ b.map (fun x => (G, x)) ++ [(fp32, z)]) (List.zipWith mulTerm a b ++ [z.term]) rm ftz

/-- The four bytes of a word, element 0 first. -/
def bytesOf (x : W32) : List Nat := (upTo 4).map (fun k => (byteOf x k).toNat)

/-- A word of four bytes. -/
def wordOf (bs : List Nat) : W32 := BitVec.ofNat 32 (leNat (bs.map (BitVec.ofNat 8)))

/-- The results of several words with their flags; ELEM stays 0 (R200: these forms are not packed). -/
def unpacked (d : Dest) (rs : List FRes) : Out :=
  Out.float d (rs.foldl (fun a r => a ||| r.flags) 0) (rs.any FRes.snan)

/-- Four FP32 results in v[D]..v[D+3]. -/
def quad (rs : List FRes) : Out :=
  unpacked (.w4 (BitVec.ofNat 128 ((rs.map FRes.bits).foldr (fun x a => x + 2 ^ 32 * a) 0))) rs

/-- A storage format's element in E4M3 (R35, R212): exact. -/
def toE4M3 (G : Fmt) (x : Nat) : Nat := (e4m3.round (G.decode x).dy 0 (G.decode x).sign false false).bits

/-- INT4 in E4M3. -/
def int4ToE4M3 (x : Nat) : Nat := (e4m3.round ⟨if x < 8 then x else (x : Int) - 16, 0⟩ 0 false false false).bits

/-- The least integer e with m ≤ 6 × 2^e (R213). -/
def mxExponent (m : Dy) : Int :=
  let e := m.log2 - 2
  if m.le ⟨6, e⟩ then (if m.le ⟨6, e - 1⟩ then e - 1 else e) else e + 1

/-- mxscale (R213). -/
def mxScale (x : Nat) : Out :=
  match fp32.decode x with
  | .nan _ _ q => Out.float (.w 0xFF) (if q then 0 else fINV) (!q)
  | .inf _ => Out.w 0xFF
  | v => if v.isZero then Out.w 0 else Out.w (BitVec.ofInt 32 (sat (mxExponent ⟨v.dy.m.natAbs, v.dy.e⟩) (-127) 127 + 127))

/-- mxq (R214). -/
def mxQuantise (rm : Nat) (qs : List Nat) (X : Nat) : Out :=
  let vs := qs.map fp32.decode
  if vs.any Flt.isNan then Out.float (.w 0) fINV (vs.any Flt.isSnan)
  else if vs.any Flt.isInf then Out.float (.w 0) fOVF false
  else if X = 0xFF then Out.w 0
  else
    let rs := vs.map (fun v => e2m1.round ⟨v.dy.m, v.dy.e + 127 - X⟩ rm v.sign false true)
    let flags := rs.foldl (fun a r => a ||| (r.flags &&& (fOVF ||| fINX))) 0
    Out.float (.w (BitVec.ofNat 32 ((rs.map FRes.bits).foldr (fun x a => x + 16 * a) 0))) flags false

/-- mxdq (R215). -/
def mxDequantise (rm : Nat) (a X n : Nat) : Out :=
  if X = 0xFF then quad (List.replicate 4 (.of fp32.canonical))
  else
    quad ((upTo 4).map (fun k =>
      let v := e2m1.decode (a / 2 ^ (4 * (4 * n + k)) % 16)
      fp32.round ⟨v.dy.m, v.dy.e + X - 127⟩ rm v.sign false false))

/-- fsplit (R216): digits J..J+3, or the class value. -/
def splitDigits (x : Nat) (E : Int) (j : Nat) : W32 × ElemFlags × Bool :=
  let v := fp64.decode x
  let special := v.isNan || v.isInf
  let nanFlags : ElemFlags := if v.isNan then ⟨fINV, v.isSnan⟩ else ⟨0, false⟩
  if j = 15 then
    let w := if v.isNan then fp32.canonical else if v.isInf then fp32.infinity v.sign
      else if v.isZero then 0 else if v.sign then 0xBF800000 else 0x3F800000
    (BitVec.ofNat 32 w, nanFlags, special)
  else if special then (0, nanFlags, true)
  else
    let y : Dy := ⟨v.dy.m.natAbs, v.dy.e - clampExp E⟩
    let big := !y.lt ⟨1, 0⟩
    let digit (k : Nat) : Nat := if big then 127 else ((Dy.floorAt ⟨y.m, y.e + 7 * (j + k + 1 : Nat)⟩ 0).1 % 128).toNat
    let byte (k : Nat) : Nat := if v.sign then (256 - digit k) % 256 else digit k
    (wordOf ((upTo 4).map byte), if big then ⟨fINV, false⟩ else ⟨0, false⟩, false)

/-- fjoin (R217). -/
def joinDigits (n : Int) (k : Int) (z : Nat) : FRes :=
  match fp32.decode z with
  | .nan _ _ _ => .of fp64.canonical
  | .inf s => .of (fp64.infinity s)
  | _ => if n = 0 then .of 0 else fp64.round ⟨n, clampExp k⟩ 0 false false false

/-! ### Meanings -/

/-- a + b. (10 R202) -/
def execFadd (o : FloatForm) (s : State) : Host.Outcome State Fault Refusal :=
  .next (s.arith (.fadd o) o.toForm (fun e => e.float2 o (fun F x y => F.addF (F.read e.it.daz x) (F.read e.it.daz y) (e.rm o.rnd) e.it.ftz)))

/-- a − b. (10 R202) -/
def execFsub (o : FloatForm) (s : State) : Host.Outcome State Fault Refusal :=
  .next (s.arith (.fsub o) o.toForm (fun e => e.float2 o (fun F x y => sumTerms F [(F, F.read e.it.daz x), (F, F.read e.it.daz y)]
    [(F.read e.it.daz x).term, (F.read e.it.daz y).term.negate] (e.rm o.rnd) e.it.ftz)))

/-- a × b. (10 R202) -/
def execFmul (o : FloatForm) (s : State) : Host.Outcome State Fault Refusal :=
  .next (s.arith (.fmul o) o.toForm (fun e => e.float2 o (fun F x y => F.mulF (F.read e.it.daz x) (F.read e.it.daz y) (e.rm o.rnd) e.it.ftz)))

/-- The lesser operand. (10 R205) -/
def execFmin (o : FloatForm) (s : State) : Host.Outcome State Fault Refusal :=
  .next (s.arith (.fmin o) o.toForm (fun e => e.float2 o (fun F => F.minmax false e.it.daz)))

/-- The greater operand. (10 R205) -/
def execFmax (o : FloatForm) (s : State) : Host.Outcome State Fault Refusal :=
  .next (s.arith (.fmax o) o.toForm (fun e => e.float2 o (fun F => F.minmax true e.it.daz)))

/-- a / b. (10 R202) -/
def execFdiv (o : FloatForm) (s : State) : Host.Outcome State Fault Refusal :=
  .next (s.arith (.fdiv o) o.toForm (fun e => e.float2 o (fun F x y => F.divF (F.read e.it.daz x) (F.read e.it.daz y) (e.rm o.rnd) e.it.ftz)))

/-- √a. (10 R202) -/
def execFsqrt (o : FloatForm) (s : State) : Host.Outcome State Fault Refusal :=
  .next (s.arith (.fsqrt o) o.toForm (fun e => e.float1 o (fun F x => F.sqrtF (F.read e.it.daz x) (e.rm o.rnd) e.it.ftz)))

/-- a × b + c. One rounding. (10 R202) -/
def execFma (o : FloatForm) (s : State) : Host.Outcome State Fault Refusal :=
  .next (s.arith (.fma o) o.toForm (fun e => e.float3 o (fun F => fused false false F e.it.daz e.it.ftz (e.rm o.rnd))))

/-- a × b − c. One rounding. (10 R202) -/
def execFms (o : FloatForm) (s : State) : Host.Outcome State Fault Refusal :=
  .next (s.arith (.fms o) o.toForm (fun e => e.float3 o (fun F => fused false true F e.it.daz e.it.ftz (e.rm o.rnd))))

/-- −(a × b) + c. One rounding. (10 R202) -/
def execFnma (o : FloatForm) (s : State) : Host.Outcome State Fault Refusal :=
  .next (s.arith (.fnma o) o.toForm (fun e => e.float3 o (fun F => fused true false F e.it.daz e.it.ftz (e.rm o.rnd))))

/-- −(a × b) − c. One rounding. (10 R202) -/
def execFnms (o : FloatForm) (s : State) : Host.Outcome State Fault Refusal :=
  .next (s.arith (.fnms o) o.toForm (fun e => e.float3 o (fun F => fused true true F e.it.daz e.it.ftz (e.rm o.rnd))))

/-- A predicate: does the relation hold? (10 R203) -/
def execFcmp (o : FloatCmpForm) (s : State) : Host.Outcome State Fault Refusal :=
  .next (s.arith (.fcmp o) o.toForm (fun e => 
    let r := floatCompare (fmtOf o.prec) e.it.daz o.cond (e.floatA o.toForm o.prec).toNat (e.floatB o.toForm o.prec).toNat
    { Out.of (.p r.1) with elems := [r.2] }))

/-- The class mask. (10 R204) -/
def execFclass (o : FloatForm) (s : State) : Host.Outcome State Fault Refusal :=
  .next (s.arith (.fclass o) o.toForm (fun e => 
    let ms := (elements o.prec (e.floatA o.toForm o.prec)).map (classMask (fmtOf o.prec) e.it.daz)
    Out.w (BitVec.ofNat 32 (ms.getD 0 0 + 65536 * ms.getD 1 0))))

/-- The sign inverted. (10 R206) -/
def execFneg (o : FloatForm) (s : State) : Host.Outcome State Fault Refusal :=
  .next (s.arith (.fneg o) o.toForm (fun e => e.float1 o (fun F x => .of (withSign F x (!signOf F x)))))

/-- The sign cleared. (10 R206) -/
def execFabs (o : FloatForm) (s : State) : Host.Outcome State Fault Refusal :=
  .next (s.arith (.fabs o) o.toForm (fun e => e.float1 o (fun F x => .of (withSign F x false))))

/-- The sign of b. (10 R206) -/
def execFsgnj (o : FloatForm) (s : State) : Host.Outcome State Fault Refusal :=
  .next (s.arith (.fsgnj o) o.toForm (fun e => e.float2 o (fun F x y => .of (withSign F x (signOf F y)))))

/-- The sign of b inverted. (10 R206) -/
def execFsgnjn (o : FloatForm) (s : State) : Host.Outcome State Fault Refusal :=
  .next (s.arith (.fsgnjn o) o.toForm (fun e => e.float2 o (fun F x y => .of (withSign F x (!signOf F y)))))

/-- The exclusive or of the signs. (10 R206) -/
def execFsgnjx (o : FloatForm) (s : State) : Host.Outcome State Fault Refusal :=
  .next (s.arith (.fsgnjx o) o.toForm (fun e => e.float2 o (fun F x y => .of (withSign F x (signOf F x ^^ signOf F y)))))

/-- 2^a. (10 R209) -/
def execFexp2 (o : FloatForm) (s : State) : Host.Outcome State Fault Refusal :=
  .next (s.arith (.fexp2 o) o.toForm (fun e => e.float1 o (fun F => specialElem .exp2 o.prec F e.it.daz e.it.ftz)))

/-- Log2(a). (10 R209) -/
def execFlog2 (o : FloatForm) (s : State) : Host.Outcome State Fault Refusal :=
  .next (s.arith (.flog2 o) o.toForm (fun e => e.float1 o (fun F => specialElem .log2 o.prec F e.it.daz e.it.ftz)))

/-- Sin(a). (10 R209) -/
def execFsin (o : FloatForm) (s : State) : Host.Outcome State Fault Refusal :=
  .next (s.arith (.fsin o) o.toForm (fun e => e.float1 o (fun F => specialElem .sin o.prec F e.it.daz e.it.ftz)))

/-- Cos(a). (10 R209) -/
def execFcos (o : FloatForm) (s : State) : Host.Outcome State Fault Refusal :=
  .next (s.arith (.fcos o) o.toForm (fun e => e.float1 o (fun F => specialElem .cos o.prec F e.it.daz e.it.ftz)))

/-- 1 / a. (10 R209) -/
def execFrcp (o : FloatForm) (s : State) : Host.Outcome State Fault Refusal :=
  .next (s.arith (.frcp o) o.toForm (fun e => e.float1 o (fun F => specialElem .rcp o.prec F e.it.daz e.it.ftz)))

/-- 1 / √a. (10 R209) -/
def execFrsq (o : FloatForm) (s : State) : Host.Outcome State Fault Refusal :=
  .next (s.arith (.frsq o) o.toForm (fun e => e.float1 o (fun F => specialElem .rsq o.prec F e.it.daz e.it.ftz)))

/-- Conversion between floating formats. (10 R210) -/
def execFcvt (o : ConvertForm) (s : State) : Host.Outcome State Fault Refusal :=
  .next (s.arith (.fcvt o) o.toForm (fun e => 
    let F := fmtOf o.dprec
    let G := fmtOf o.prec
    let xs := elements o.prec (e.floatA o.toForm o.prec)
    let xs := if o.prec = .f16 ∧ o.dprec = .f64 then xs.take 1 else xs
    packResults o.dprec (xs.map (fun x => convert F G (G.read e.it.daz x) (e.rm o.rnd) e.it.ftz false))))

/-- A 32-bit integer. (10 R210) -/
def execFcvti (o : ConvertForm) (s : State) : Host.Outcome State Fault Refusal :=
  .next (s.arith (.fcvti o) o.toForm (fun e => 
    let r := toInteger (fmtOf o.prec) e.it.daz (e.rm o.rnd) 32 o.uns (e.floatA o.toForm o.prec).toNat
    { Out.w (BitVec.ofInt 32 r.1) with elems := [r.2] }))

/-- The float of a 32-bit integer. (10 R210) -/
def execIcvtf (o : ConvertForm) (s : State) : Host.Outcome State Fault Refusal :=
  .next (s.arith (.icvtf o) o.toForm (fun e => 
    let a := e.opA o.toForm
    packResults o.prec [(fmtOf o.prec).round ⟨if o.uns then (a.toNat : Int) else a.toInt, 0⟩ (e.rm o.rnd) false e.it.ftz false]))

/-- The nearest integral value. (10 R210) -/
def execFrint (o : ConvertForm) (s : State) : Host.Outcome State Fault Refusal :=
  .next (s.arith (.frint o) o.toForm (fun e => e.float1 o.toFloatForm (fun F x => roundIntegral F e.it.daz (e.rm o.rnd) x)))

/-- A 64-bit integer. (10 R210) -/
def execFcvtil (o : ConvertForm) (s : State) : Host.Outcome State Fault Refusal :=
  .next (s.arith (.fcvtil o) o.toForm (fun e => 
    let r := toInteger (fmtOf o.prec) e.it.daz (e.rm o.rnd) 64 o.uns (e.floatA o.toForm o.prec).toNat
    { Out.w2 (BitVec.ofInt 64 r.1) with elems := [r.2] }))

/-- The float of a 64-bit integer. (10 R210) -/
def execIcvtfl (o : ConvertForm) (s : State) : Host.Outcome State Fault Refusal :=
  .next (s.arith (.icvtfl o) o.toForm (fun e => 
    let a := e.opA2 o.toForm
    packResults o.prec [(fmtOf o.prec).round ⟨if o.uns then (a.toNat : Int) else a.toInt, 0⟩ (e.rm o.rnd) false e.it.ftz false]))

/-- Four FP32 values as FP8 bytes. (10 R211) -/
def execF8pack (o : PackForm) (s : State) : Host.Outcome State Fault Refusal :=
  .next (s.arith (.f8pack o) o.toForm (fun e => 
    let F := if o.e5m2 then Machine.e5m2 else e4m3
    let src := [lo32 (e.opA2 o.toForm), hi32 (e.opA2 o.toForm), lo32 (e.opB2 o.toForm), hi32 (e.opB2 o.toForm)]
    let rs := src.map (fun x => convert F fp32 (fp32.read e.it.daz x.toNat) (e.rm o.rnd) e.it.ftz o.sat)
    unpacked (.w (wordOf (rs.map FRes.bits))) rs))

/-- Four FP8 bytes as FP32. (10 R211) -/
def execF8unpack (o : PackForm) (s : State) : Host.Outcome State Fault Refusal :=
  .next (s.arith (.f8unpack o) o.toForm (fun e => 
    let F := if o.e5m2 then Machine.e5m2 else e4m3
    quad ((bytesOf (e.opA o.toForm)).map (fun x => convert fp32 F (F.read e.it.daz x) 0 false false))))

/-- Two FP32 values packed in 16 bits each. (10 R211) -/
def execF16pack (o : PackForm) (s : State) : Host.Outcome State Fault Refusal :=
  .next (s.arith (.f16pack o) o.toForm (fun e => 
    packResults o.prec ([e.opA o.toForm, e.opB o.toForm].map (fun x =>
      convert (fmtOf o.prec) fp32 (fp32.read e.it.daz x.toNat) (e.rm o.rnd) e.it.ftz o.sat))))

/-- Two packed values widened to FP32. (10 R211) -/
def execF16unpack (o : FloatForm) (s : State) : Host.Outcome State Fault Refusal :=
  .next (s.arith (.f16unpack o) o.toForm (fun e => 
    let F := fmtOf o.prec
    let rs := (elements o.prec (e.floatA o.toForm o.prec)).map (fun x => convert fp32 F (F.read e.it.daz x) 0 false false)
    { packResults .f64 [] with
      dest := .w2 (pair (BitVec.ofNat 32 (rs.getD 1 (.of 0)).bits) (BitVec.ofNat 32 (rs.getD 0 (.of 0)).bits))
      elems := rs.map (fun r => ⟨r.flags, r.snan⟩) }))

/-- Four six-bit elements in E4M3. (10 R212) -/
def execXe3m2 (o : ExpandForm) (s : State) : Host.Outcome State Fault Refusal :=
  .next (s.arith (.xe3m2 o) o.toForm (fun e => 
    let x := (e.opA2 o.toForm).toNat + 2 ^ 64 * (e.opB o.toForm).toNat
    Out.w (wordOf ((upTo 4).map (fun k => toE4M3 e3m2 (x / 2 ^ (6 * (4 * o.grp.toNat + k)) % 64))))))

/-- Four six-bit elements in E4M3. (10 R212) -/
def execXe2m3 (o : ExpandForm) (s : State) : Host.Outcome State Fault Refusal :=
  .next (s.arith (.xe2m3 o) o.toForm (fun e => 
    let x := (e.opA2 o.toForm).toNat + 2 ^ 64 * (e.opB o.toForm).toNat
    Out.w (wordOf ((upTo 4).map (fun k => toE4M3 e2m3 (x / 2 ^ (6 * (4 * o.grp.toNat + k)) % 64))))))

/-- Four INT4 elements in E4M3. (10 R212) -/
def execXint4 (o : Xint4Form) (s : State) : Host.Outcome State Fault Refusal :=
  .next (s.arith (.xint4 o) o.toForm (fun e => 
    Out.w (wordOf ((upTo 4).map (fun k => int4ToE4M3 ((e.opA o.toForm).toNat / 2 ^ (4 * (4 * boolNat o.hi + k)) % 16))))))

/-- Eight FP32 values as E2M1 codes under a scale. (10 R214) -/
def execMxq (o : FloatForm) (s : State) : Host.Outcome State Fault Refusal :=
  .next (s.arith (.mxq o) o.toForm (fun e => 
    let word (n : BitVec 7) : Nat := (e.it.readV n).toNat
    mxQuantise (e.rm o.rnd) [word o.a, word (o.a + 1), word (o.a + 2), word (o.a + 3), word o.c, word (o.c + 1), word (o.c + 2), word (o.c + 3)]
      ((e.opB o.toForm).toNat % 256)))

/-- Four E2M1 codes as FP32. (10 R215) -/
def execMxdq (o : FloatForm) (s : State) : Host.Outcome State Fault Refusal :=
  .next (s.arith (.mxdq o) o.toForm (fun e => mxDequantise (e.rm o.rnd) (e.opA o.toForm).toNat ((e.opB o.toForm).toNat % 256) o.c.toNat))

/-- The E8M0 scale of a block. (10 R213) -/
def execMxscale (o : FloatForm) (s : State) : Host.Outcome State Fault Refusal :=
  .next (s.arith (.mxscale o) o.toForm (fun e => mxScale (withSign fp32 (e.opA o.toForm).toNat false)))

/-- Four digits of an FP64 value, or its class. (10 R216) -/
def execFsplit (o : FloatForm) (s : State) : Host.Outcome State Fault Refusal :=
  .next (s.arith (.fsplit o) o.toForm (fun e => 
    let r := splitDigits (e.opA2 o.toForm).toNat (e.opB o.toForm).toInt (o.c.toNat % 16)
    { Out.w r.1 with
      pred := some (o.c >>> 4, r.2.2)
      elems := [r.2.1] }))

/-- A 128-bit sum as FP64. (10 R217) -/
def execFjoin (o : FloatForm) (s : State) : Host.Outcome State Fault Refusal :=
  .next (s.arith (.fjoin o) o.toForm (fun e => 
    let n := (e.it.readV4 o.a).toInt
    packResults .f64 [joinDigits n (e.opB o.toForm).toInt (e.opC o.toForm).toNat]))

/-- A dot product of two 16-bit pairs with an FP32 addend. (10 R208) -/
def execFdot2 (o : FloatForm) (s : State) : Host.Outcome State Fault Refusal :=
  .next (s.arith (.fdot2 o) o.toForm (fun e => 
    packResults .f32 [dotProduct (fmtOf o.prec) e.it.daz e.it.ftz (e.rm o.rnd) (elements .f16 ((e.opA o.toForm).zeroExtend 64))
      (elements .f16 ((e.opB o.toForm).zeroExtend 64)) (e.opC o.toForm).toNat]))

/-- A dot product of four FP8 pairs with an FP32 addend. (10 R208) -/
def execFdot4 (o : FloatForm) (s : State) : Host.Outcome State Fault Refusal :=
  .next (s.arith (.fdot4 o) o.toForm (fun e => 
    packResults .f32 [dotProduct (if o.prec = .f32 then e4m3 else e5m2) e.it.daz e.it.ftz (e.rm o.rnd) (bytesOf (e.opA o.toForm))
      (bytesOf (e.opB o.toForm)) (e.opC o.toForm).toNat]))

/-- a + a literal. (10 R208) -/
def execFaddl (o : FloatLitForm) (s : State) : Host.Outcome State Fault Refusal :=
  .next (s.arith (.faddl o) o.toForm (fun e => 
    packResults .f32 [fp32.addF (fp32.read e.it.daz (e.opA o.toForm).toNat) (fp32.read e.it.daz o.lit.toNat) (e.rm o.rnd) e.it.ftz]))

/-- a × a literal. (10 R208) -/
def execFmull (o : FloatLitForm) (s : State) : Host.Outcome State Fault Refusal :=
  .next (s.arith (.fmull o) o.toForm (fun e => 
    packResults .f32 [fp32.mulF (fp32.read e.it.daz (e.opA o.toForm).toNat) (fp32.read e.it.daz o.lit.toNat) (e.rm o.rnd) e.it.ftz]))

/-- a × a literal + b. (10 R208) -/
def execFmal (o : FloatLitForm) (s : State) : Host.Outcome State Fault Refusal :=
  .next (s.arith (.fmal o) o.toForm (fun e => 
    let a := fp32.read e.it.daz (e.opA o.toForm).toNat
    let b := fp32.read e.it.daz (e.opB o.toForm).toNat
    let l := fp32.read e.it.daz o.lit.toNat
    packResults .f32 [sumTerms fp32 [(fp32, a), (fp32, b), (fp32, l)] [mulTerm a l, b.term] (e.rm o.rnd) e.it.ftz]))

/-- a × 2^b. (10 R207) -/
def execFscale (o : FloatForm) (s : State) : Host.Outcome State Fault Refusal :=
  .next (s.arith (.fscale o) o.toForm (fun e => 
    let ks : List Int := match o.prec with
      | .f32 => [(e.opB o.toForm).toInt]
      | .f64 => [(e.opB o.toForm).toInt]
      | _ => [(half (e.opB o.toForm) 0).toInt, (half (e.opB o.toForm) 1).toInt]
    packResults o.prec (List.zipWith (scaleBy (fmtOf o.prec) e.it.daz e.it.ftz (e.rm o.rnd))
      (elements o.prec (e.floatA o.toForm o.prec)) ks)))

/-- The exponent of a. (10 R207) -/
def execFgetexp (o : FloatForm) (s : State) : Host.Outcome State Fault Refusal :=
  .next (s.arith (.fgetexp o) o.toForm (fun e => e.float1 o (fun F => getExp F e.it.daz)))

/-- The significand of a. (10 R207) -/
def execFgetman (o : FloatForm) (s : State) : Host.Outcome State Fault Refusal :=
  .next (s.arith (.fgetman o) o.toForm (fun e => e.float1 o (fun F => getMan F e.it.daz)))

/-- The lesser operand, a number where one is. (10 R205) -/
def execFminnm (o : FloatForm) (s : State) : Host.Outcome State Fault Refusal :=
  .next (s.arith (.fminnm o) o.toForm (fun e => e.float2 o (fun F => F.minmaxNum false e.it.daz)))

/-- The greater operand, a number where one is. (10 R205) -/
def execFmaxnm (o : FloatForm) (s : State) : Host.Outcome State Fault Refusal :=
  .next (s.arith (.fmaxnm o) o.toForm (fun e => e.float2 o (fun F => F.minmaxNum true e.it.daz)))

end Sys2Proof.Machine
end

