-- ==== Sys2Proof/Machine/Integer.lean ====
section
/-! DEFINITION. Integer, logic and address instructions (09): majors 0x01 to 0x1C. -/

namespace Sys2Proof.Machine

/-! ### Operations -/

/-- Shift of R181: the whole count, no masking. -/
def shiftLeft (a b : W32) : W32 := if b.toNat < 32 then a <<< b.toNat else 0
def shiftRight (a b : W32) : W32 := if b.toNat < 32 then a >>> b.toNat else 0
def shiftArith (a b : W32) : W32 := a.sshiftRight (min b.toNat 31)

/-- The relations of R69. -/
def condHolds (c : Cond) (a b : W32) : Bool :=
  match c with
  | .eq => a == b
  | .ne => a != b
  | .lt => a.slt b
  | .le => a.sle b
  | .gt => b.slt a
  | .ge => b.sle a
  | .lo => a.ult b
  | .ls => a.ule b
  | .hi => b.ult a
  | .hs => b.ule a

/-- Sat to 32 signed bits, raising SAT when it changed the value (R179). -/
def saturate (x : Int) : Out :=
  let y := sat x (-(2 ^ 31)) (2 ^ 31 - 1)
  { Out.w (BitVec.ofInt 32 y) with ist := if y = x then 0 else iSAT }

/-- Division (R184): quotient or remainder, with the flag and the trap kind of its two special cases. -/
def divide (isSigned quot : Bool) (a b : W32) : Out :=
  if b = 0 then
    { Out.w (if quot then 0xFFFFFFFF else a) with
      ist := iDZ
      idiv := some 0 }
  else if isSigned && a == 0x80000000 && b == 0xFFFFFFFF then
    { Out.w (if quot then 0x80000000 else 0) with
      ist := iDOVF
      idiv := some 1 }
  else if isSigned then Out.w (BitVec.ofInt 32 (if quot then a.toInt.tdiv b.toInt else a.toInt.tmod b.toInt))
  else Out.w (BitVec.ofNat 32 (if quot then a.toNat / b.toNat else a.toNat % b.toNat))

/-- The field of LEN bits at POS (R185, R186). -/
def bitField (a : W32) (pos len : Nat) : W32 := BitVec.ofNat 32 (a.toNat / 2 ^ pos % 2 ^ len)
def bitFieldSigned (a : W32) (pos len : Nat) : W32 := ((a <<< (32 - pos - len)).sshiftRight (32 - len))
def bitInsert (a b : W32) (pos len : Nat) : W32 :=
  let mask := BitVec.ofNat 32 ((2 ^ len - 1) * 2 ^ pos)
  (a &&& ~~~mask) ||| ((b <<< pos) &&& mask)

/-- Carry chains (R188). -/
def carryAdd (a b : W32) (c : BitVec 7) (cin : Bool) : Out :=
  let t := a.toNat + b.toNat + boolNat cin
  { Out.w (BitVec.ofNat 32 t) with pred := some (c, decide (2 ^ 32 ≤ t)) }
def borrowSub (a b : W32) (c : BitVec 7) (cin : Bool) : Out :=
  let t : Int := (a.toNat : Int) - b.toNat - boolNat cin
  { Out.w (BitVec.ofInt 32 t) with pred := some (c, decide (t < 0)) }

/-! ### Meanings -/

/-- a + b modulo 2^32. (09 R179) -/
def execIadd (o : Form) (s : State) : Host.Outcome State Fault Refusal :=
  .next (s.arith (.iadd o) o (fun e => Out.w (e.opA o + e.opB o)))

/-- a − b modulo 2^32. (09 R179) -/
def execIsub (o : Form) (s : State) : Host.Outcome State Fault Refusal :=
  .next (s.arith (.isub o) o (fun e => Out.w (e.opA o - e.opB o)))

/-- The low word of a × b. (09 R179) -/
def execImul (o : Form) (s : State) : Host.Outcome State Fault Refusal :=
  .next (s.arith (.imul o) o (fun e => Out.w (e.opA o * e.opB o)))

/-- a and b. (09 R179) -/
def execAnd (o : Form) (s : State) : Host.Outcome State Fault Refusal :=
  .next (s.arith (.and o) o (fun e => Out.w (e.opA o &&& e.opB o)))

/-- a or b. (09 R179) -/
def execOr (o : Form) (s : State) : Host.Outcome State Fault Refusal :=
  .next (s.arith (.or o) o (fun e => Out.w (e.opA o ||| e.opB o)))

/-- a xor b. (09 R179) -/
def execXor (o : Form) (s : State) : Host.Outcome State Fault Refusal :=
  .next (s.arith (.xor o) o (fun e => Out.w (e.opA o ^^^ e.opB o)))

/-- Shift left by the whole count. (09 R179, R181) -/
def execShl (o : Form) (s : State) : Host.Outcome State Fault Refusal :=
  .next (s.arith (.shl o) o (fun e => Out.w (shiftLeft (e.opA o) (e.opB o))))

/-- Logical shift right by the whole count. (09 R179, R181) -/
def execShr (o : Form) (s : State) : Host.Outcome State Fault Refusal :=
  .next (s.arith (.shr o) o (fun e => Out.w (shiftRight (e.opA o) (e.opB o))))

/-- Arithmetic shift right, the count clamped to 31. (09 R179, R181) -/
def execSar (o : Form) (s : State) : Host.Outcome State Fault Refusal :=
  .next (s.arith (.sar o) o (fun e => Out.w (shiftArith (e.opA o) (e.opB o))))

/-- The signed minimum. (09 R179) -/
def execImin (o : Form) (s : State) : Host.Outcome State Fault Refusal :=
  .next (s.arith (.imin o) o (fun e => Out.w (if (e.opA o).sle (e.opB o) then e.opA o else e.opB o)))

/-- The signed maximum. (09 R179) -/
def execImax (o : Form) (s : State) : Host.Outcome State Fault Refusal :=
  .next (s.arith (.imax o) o (fun e => Out.w (if (e.opB o).sle (e.opA o) then e.opA o else e.opB o)))

/-- The unsigned minimum. (09 R179) -/
def execUmin (o : Form) (s : State) : Host.Outcome State Fault Refusal :=
  .next (s.arith (.umin o) o (fun e => Out.w (if (e.opA o).ule (e.opB o) then e.opA o else e.opB o)))

/-- The unsigned maximum. (09 R179) -/
def execUmax (o : Form) (s : State) : Host.Outcome State Fault Refusal :=
  .next (s.arith (.umax o) o (fun e => Out.w (if (e.opB o).ule (e.opA o) then e.opA o else e.opB o)))

/-- The signed sum, saturated; SAT when it was clamped. (09 R179) -/
def execIaddsat (o : Form) (s : State) : Host.Outcome State Fault Refusal :=
  .next (s.arith (.iaddsat o) o (fun e => saturate ((e.opA o).toInt + (e.opB o).toInt)))

/-- The signed difference, saturated; SAT when it was clamped. (09 R179) -/
def execIsubsat (o : Form) (s : State) : Host.Outcome State Fault Refusal :=
  .next (s.arith (.isubsat o) o (fun e => saturate ((e.opA o).toInt - (e.opB o).toInt)))

/-- a + the sign-extended immediate. (09 R180) -/
def execIaddi (o : ImmForm) (s : State) : Host.Outcome State Fault Refusal :=
  .next (s.arith (.iaddi o) o.toForm (fun e => Out.w (e.opA o.toForm + o.imm.signExtend 32)))

/-- a with the zero-extended immediate. (09 R180) -/
def execAndi (o : ImmForm) (s : State) : Host.Outcome State Fault Refusal :=
  .next (s.arith (.andi o) o.toForm (fun e => Out.w (e.opA o.toForm &&& o.imm.zeroExtend 32)))

/-- a with the zero-extended immediate. (09 R180) -/
def execOri (o : ImmForm) (s : State) : Host.Outcome State Fault Refusal :=
  .next (s.arith (.ori o) o.toForm (fun e => Out.w (e.opA o.toForm ||| o.imm.zeroExtend 32)))

/-- a with the zero-extended immediate. (09 R180) -/
def execXori (o : ImmForm) (s : State) : Host.Outcome State Fault Refusal :=
  .next (s.arith (.xori o) o.toForm (fun e => Out.w (e.opA o.toForm ^^^ o.imm.zeroExtend 32)))

/-- Shift by the immediate. (09 R180) -/
def execShli (o : ImmForm) (s : State) : Host.Outcome State Fault Refusal :=
  .next (s.arith (.shli o) o.toForm (fun e => Out.w (shiftLeft (e.opA o.toForm) (o.imm.zeroExtend 32))))

/-- Shift by the immediate. (09 R180) -/
def execShri (o : ImmForm) (s : State) : Host.Outcome State Fault Refusal :=
  .next (s.arith (.shri o) o.toForm (fun e => Out.w (shiftRight (e.opA o.toForm) (o.imm.zeroExtend 32))))

/-- Shift by the immediate. (09 R180) -/
def execSari (o : ImmForm) (s : State) : Host.Outcome State Fault Refusal :=
  .next (s.arith (.sari o) o.toForm (fun e => Out.w (shiftArith (e.opA o.toForm) (o.imm.zeroExtend 32))))

/-- A predicate: does the relation of the condition hold? (09 R182) -/
def execIcmp (o : CmpForm) (s : State) : Host.Outcome State Fault Refusal :=
  .next (s.arith (.icmp o) o.toForm (fun e => Out.of (.p (condHolds o.cond (e.opA o.toForm) (e.opB o.toForm)))))

/-- Bits 63:32 of the signed product. (09 R183) -/
def execImulhi (o : Form) (s : State) : Host.Outcome State Fault Refusal :=
  .next (s.arith (.imulhi o) o (fun e => Out.w (hi32 (BitVec.ofInt 64 ((e.opA o).toInt * (e.opB o).toInt)))))

/-- Bits 63:32 of the unsigned product. (09 R183) -/
def execUmulhi (o : Form) (s : State) : Host.Outcome State Fault Refusal :=
  .next (s.arith (.umulhi o) o (fun e => Out.w (hi32 (BitVec.ofNat 64 ((e.opA o).toNat * (e.opB o).toNat)))))

/-- The signed quotient. (09 R184) -/
def execIdiv (o : Form) (s : State) : Host.Outcome State Fault Refusal :=
  .next (s.arith (.idiv o) o (fun e => divide true true (e.opA o) (e.opB o)))

/-- The unsigned quotient. (09 R184) -/
def execUdiv (o : Form) (s : State) : Host.Outcome State Fault Refusal :=
  .next (s.arith (.udiv o) o (fun e => divide false true (e.opA o) (e.opB o)))

/-- The signed remainder. (09 R184) -/
def execIrem (o : Form) (s : State) : Host.Outcome State Fault Refusal :=
  .next (s.arith (.irem o) o (fun e => divide true false (e.opA o) (e.opB o)))

/-- The unsigned remainder. (09 R184) -/
def execUrem (o : Form) (s : State) : Host.Outcome State Fault Refusal :=
  .next (s.arith (.urem o) o (fun e => divide false false (e.opA o) (e.opB o)))

/-- The number of 1 bits. (09 R186) -/
def execPopc (o : Form) (s : State) : Host.Outcome State Fault Refusal :=
  .next (s.arith (.popc o) o (fun e => Out.w (BitVec.ofNat 32 (countBits (e.opA o) 32))))

/-- The number of 0 bits above the highest 1. (09 R186) -/
def execClz (o : Form) (s : State) : Host.Outcome State Fault Refusal :=
  .next (s.arith (.clz o) o (fun e => Out.w (BitVec.ofNat 32 (leadingZeros (e.opA o) 32))))

/-- The bits in reverse order. (09 R186) -/
def execBrev (o : Form) (s : State) : Host.Outcome State Fault Refusal :=
  .next (s.arith (.brev o) o (fun e => Out.w (reverseBits (e.opA o))))

/-- A bit field, zero-extended. (09 R186) -/
def execBfe (o : BitsForm) (s : State) : Host.Outcome State Fault Refusal :=
  .next (s.arith (.bfe o) o.toForm (fun e => Out.w (bitField (e.opA o.toForm) o.pos.toNat o.len.toNat)))

/-- A bit field, sign-extended. (09 R186) -/
def execBfes (o : BitsForm) (s : State) : Host.Outcome State Fault Refusal :=
  .next (s.arith (.bfes o) o.toForm (fun e => Out.w (bitFieldSigned (e.opA o.toForm) o.pos.toNat o.len.toNat)))

/-- a with a bit field replaced by the low bits of b. (09 R186) -/
def execBfi (o : BitsForm) (s : State) : Host.Outcome State Fault Refusal :=
  .next (s.arith (.bfi o) o.toForm (fun e => Out.w (bitInsert (e.opA o.toForm) (e.opB o.toForm) o.pos.toNat o.len.toNat)))

/-- a where p[C] is 1, else b. (09 R187) -/
def execSel (o : Form) (s : State) : Host.Outcome State Fault Refusal :=
  .next (s.arith (.sel o) o (fun e => Out.w (if e.it.readP o.c then e.opA o else e.opB o)))

/-- a × b + c modulo 2^32. (09 R187) -/
def execImad (o : Form) (s : State) : Host.Outcome State Fault Refusal :=
  .next (s.arith (.imad o) o (fun e => Out.w (e.opA o * e.opB o + e.opC o)))

/-- a + b + carry, the carry in p[C]. (09 R188) -/
def execAddc (o : Form) (s : State) : Host.Outcome State Fault Refusal :=
  .next (s.arith (.addc o) o (fun e => carryAdd (e.opA o) (e.opB o) o.c (e.it.readP o.c)))

/-- a − b − borrow, the borrow in p[C]. (09 R188) -/
def execSubb (o : Form) (s : State) : Host.Outcome State Fault Refusal :=
  .next (s.arith (.subb o) o (fun e => borrowSub (e.opA o) (e.opB o) o.c (e.it.readP o.c)))

/-- The 64-bit sum of pairs. (09 R189) -/
def execIadd64 (o : Form) (s : State) : Host.Outcome State Fault Refusal :=
  .next (s.arith (.iadd64 o) o (fun e => Out.w2 (e.opA2 o + e.opB2 o)))

/-- The 64-bit difference of pairs. (09 R189) -/
def execIsub64 (o : Form) (s : State) : Host.Outcome State Fault Refusal :=
  .next (s.arith (.isub64 o) o (fun e => Out.w2 (e.opA2 o - e.opB2 o)))

/-- A pair shifted left. (09 R189) -/
def execShl64 (o : Form) (s : State) : Host.Outcome State Fault Refusal :=
  .next (s.arith (.shl64 o) o (fun e => Out.w2 (if (e.opB o).toNat < 64 then e.opA2 o <<< (e.opB o).toNat else 0)))

/-- A pair shifted right. (09 R189) -/
def execShr64 (o : Form) (s : State) : Host.Outcome State Fault Refusal :=
  .next (s.arith (.shr64 o) o (fun e => Out.w2 (if (e.opB o).toNat < 64 then e.opA2 o >>> (e.opB o).toNat else 0)))

/-- A pair shifted right with sign fill, the count clamped to 63. (09 R189) -/
def execSar64 (o : Form) (s : State) : Host.Outcome State Fault Refusal :=
  .next (s.arith (.sar64 o) o (fun e => Out.w2 ((e.opA2 o).sshiftRight (min (e.opB o).toNat 63))))

/-- A base plus a scaled index. (09 R190) -/
def execLea (o : ImmForm) (s : State) : Host.Outcome State Fault Refusal :=
  .next (s.arith (.lea o) o.toForm (fun e => Out.w2 (e.opA2 o.toForm + ((e.opB o.toForm).signExtend 64 <<< o.imm.toNat))))

/-- A copy within or between the v and s files. (09 R191) -/
def execMov (o : Form) (s : State) : Host.Outcome State Fault Refusal :=
  .next (s.arith (.mov o) o (fun e => Out.w (e.opB o)))

/-- The sign-extended immediate. (09 R191) -/
def execMovi (o : ImmForm) (s : State) : Host.Outcome State Fault Refusal :=
  .next (s.arith (.movi o) o.toForm (fun _ => Out.w (o.imm.signExtend 32)))

/-- The literal. (09 R191) -/
def execMovl (o : LitForm) (s : State) : Host.Outcome State Fault Refusal :=
  .next (s.arith (.movl o) o.toForm (fun _ => Out.w o.lit))

end Sys2Proof.Machine
end

