-- ==== Sys2Proof/Machine/Reset.lean ====
section
/-! DEFINITION. Resets (22 R457, R458, 19 R435), the boot ROM (22 R459, R460), the thermal trip (22 R467). -/

namespace Sys2Proof.Machine

/-! ### What a warm reset does with writes on their way (R458) -/

/-- Is an unfinished write performed before the write-back? Not predictable. -/
def State.landsAtReset (s : State) (n : Nat) : Bool := Config.choice s.tick n % 2 == 1

/-- A store or an atomic of an item on its way: performed whole, or lost. -/
def State.finishAccess (s : State) (id : Nat) (a : Access) : State :=
  if !s.landsAtReset id || s.keyState a.key != 1 || (s.target? a.pa).isNone || s.isHost a.pa then s
  else
    let tag := s.tagAt a.pa a.key
    let old := s.memory.read tag a.pa a.bytes
    match a.kind with
    | .load => s
    | .uniform => s
    | .store => { s with memory := s.memory.store tag a.pa a.data }
    | _ => { s with memory := s.memory.store tag a.pa (atomicBytes a.kind old a.data a.compare).1 }

/-- A chunk that writes global memory and has not been performed: granule by granule, written or lost. -/
def State.finishChunk (s : State) (id j : Nat) (c : Command) : State :=
  match s.issuer c, Table.get? c.held j with
  | some (g, _), none =>
    let (ch, _) := State.chunkOf c g j
    match s.reachChunk c.die c.ctx (ch.reads ++ ch.writes) with
    | .ok pas s =>
      let key := (s.context c.ctx).key
      let bytes := match ch.spadSource with
        | some x => g.spadRead x ch.bytes
        | none => ((ch.reads.zip pas).map (fun (a : ChunkAccess × Nat) => s.memory.read (s.tagAt a.2 key) a.2 a.1.bytes)).flatten
      let places := ((ch.writes.zip (pas.drop ch.reads.length)).map (fun (a : ChunkAccess × Nat) => (upTo (a.1.bytes / 16)).map (fun n => a.2 + 16 * n))).flatten
      (places.zip (upTo places.length)).foldl (fun s p =>
        if s.landsAtReset (1024 * id + 256 * j + p.2) && !s.isHost p.1 then
          { s with memory := s.memory.store (s.tagAt p.1 key) p.1 ((bytes.drop (16 * p.2)).take 16) }
        else s) s
    | _ => s
  | _, _ => s

/-- Dirty lines of expander memory: written at their port, or lost. Those of HBM4 stand in memory already, under their tags. -/
def State.finishLines (s : State) : State :=
  s.l2.foldl (fun s p => p.2.foldl (fun s q => if s.landsAtReset q.1 then s.writeBackCxl (128 * q.1) q.2 else s) s) s

/-- Steps 1 and 2 of R458. -/
def State.settleWrites (s : State) : State :=
  let s := s.accesses.foldl (fun s p => s.finishAccess p.1 p.2) s
  let s := s.commands.foldl (fun s p => p.2.left.foldl (fun s j => s.finishChunk p.1 j p.2) s) s
  s.finishLines

/-! ### The resets (R457) -/

/-- Key ids 1 to 4095 are free; a key pair bound later is a new one (R87). -/
def freedKeys (t : Table Nat) : Table Nat := t.mapAll (fun _ v => v / 4 * 4)

/-- The state that either reset leaves, with the model's own inputs and counters. The fused ROLLBACK stays. -/
def State.afterReset (s : State) (cause : Nat) : State :=
  { State.reset with
    inputs := s.inputs
    tick := s.tick
    nextId := s.nextId
    keys := freedKeys s.keys
    dev := { DeviceBlock.cold with
      resetCause := cause
      rollback := s.dev.rollback } }

/-- A cold reset: also HBM4 and the near store are zero under key id 0. -/
def State.coldReset (s : State) (cause : Nat) : State := s.afterReset cause

/-- The counters that a warm reset keeps in a link and in a port (R378, R387, R457). -/
def Link.warm (l : Link) : Link :=
  { Link.cold with
    corr := l.corr
    hdrop := l.hdrop
    crcerr := l.crcerr
    misroute := l.misroute
    retrain := l.retrain
    isol := l.isol
    dropped := l.dropped }

def Port.warm (p : Port) : Port :=
  { Port.cold with
    timeouts := p.timeouts
    poisonIn := p.poisonIn
    poisonOut := p.poisonOut
    dropWr := p.dropWr
    discard := p.discard }

/-- A warm reset (R458): memory, poison, NEARCFG and the counters are kept. -/
def State.warmReset (s : State) (cause : Nat) : State :=
  let s := s.settleWrites
  let t := s.afterReset cause
  { t with
    memory := s.memory
    links := s.links.mapAll (fun _ l => l.warm)
    ports := s.ports.mapAll (fun _ p => p.warm)
    dev := { t.dev with
      nearcfg := s.dev.nearcfg
      rejwr := s.dev.rejwr
      kdrop := s.dev.kdrop }
    telemetry := { t.telemetry with
      corr := s.telemetry.corr
      uncorr := s.telemetry.uncorr } }

/-- POWER_ON. -/
def execPowerOn (s : State) : Host.Outcome State Fault Refusal := .next (s.coldReset 0)

/-- The layout of ColdReset and WarmReset. -/
def resetCommandOk (c : List W8) : Bool := zeroAt c 1 23 && zeroAt c 0x1C 4

/-- A reset command acts at the head of the ring once every command before it has completed (R457). -/
def State.resetCommand (s : State) (opc : Nat) (f : State → State) : State :=
  match s.headCommand with
  | none => s
  | some (slot, c) =>
    if leAt c 0 1 ≠ opc then s
    else if !resetCommandOk c then s.acceptCommand.answerSlot slot stBadCmd
    else if s.pending.any (fun p => match p.2.asker with | .ring _ => true | _ => false) then s
    else f s

/-- COLDRESET. -/
def execColdreset (s : State) : Host.Outcome State Fault Refusal := .next (s.resetCommand 0x80 (fun s => s.coldReset 1))

/-- WARMRESET: by command, or after a fatal error (19 R435). -/
def execWarmreset (s : State) : Host.Outcome State Fault Refusal :=
  .next (if s.stopped then s.warmReset 3 else s.resetCommand 0x81 (fun s => s.warmReset 2))

/-- The base die and the unit code of a die of TEMP (R420, R466): base dies, compute dies, SRAM dies, HBM4 stacks. -/
def dieUnit (d : Nat) : Nat × Nat :=
  if d < 4 then (d, 0x220) else if d < 12 then ((d - 4) / 2, 0x200 + (d - 4) % 2) else if d < 16 then (d - 12, 0x210)
  else ((d - 16) / 4, 0x42 + (d - 16) % 4)

/-- THERMAL_TRIP (R467): the record, then a warm reset. -/
def execThermalTrip (die : Nat) (s : State) : Host.Outcome State Fault Refusal :=
  .next (if 32 ≤ die then s else (s.deviceError 0x0C 0 1 (dieUnit die).1 (dieUnit die).2).warmReset 4)

/-! ### Boot (R459, R460) -/

/-- Bytes of the image area. -/
def State.imageBytes (s : State) (off n : Nat) : List W8 := (upTo n).map (fun j => Table.read 0 s.imageArea (off + j))

/-- The first check of R460 that a firmware image fails, as BOOTSTAT; 2 where it passes. -/
def State.checkImage (s : State) (head : List W8) : Nat :=
  let version := leAt head 8 4
  let body := leAt head 0x10 8
  let pk := (head.drop 0x18).take 64
  if leAt head 0 8 ≠ 0x57524D465341594B then 5
  else if version < s.dev.rollback.toNat then 4
  else if version < leAt head 0x0C 4 ∨ body < 4096 ∨ 0x1000000 < body ∨ body % 64 ≠ 0 then 5
  else if shake256 32 pk ≠ Config.firmwareKeyHash then 3
  else if !zeroAt head 0x58 40 then 5
  else if !Config.verifies pk (s.imageBytes 0 (128 + body)) (s.imageBytes (128 + body) 29792) then 3
  else 2

/-- BOOT_IMAGE (R459): with the Zhevport Up and a part that awaits an image, the ROM checks the one that has been written and starts it. -/
def execBootImage (s : State) : Host.Outcome State Fault Refusal :=
  .next (if s.zhevport ≠ .up ∨ s.dev.bootStat = 2 then s
    else
      let head := s.imageBytes 0 128
      let code := s.checkImage head
      if code ≠ 2 then { s with dev := { s.dev with bootStat := code } }
      else
        let m0 := shake256 64 (s.imageBytes 0 (128 + leAt head 0x10 8 + 29792))
        let version := word32 head 8
        let minver := word32 head 0x0C
        { s with
          dev := { s.dev with
            bootStat := 2
            fwver := version
            rollback := if s.dev.rollback.toNat < minver.toNat then minver else s.dev.rollback
            m0 := m0 }
          aliasCert := Config.aliasCertificate (Config.aliasKey m0) m0 version.toNat
          deviceMap := (upTo 1024).map (fun c => (laneMap c, BitVec.ofNat 32 (matMap c))) })

end Sys2Proof.Machine
end

