-- ==== Sys2Proof/Machine/Dispatch.lean ====
section
/-! DEFINITION. One arm per instruction and per step of the machine, each one call of its meaning. -/

namespace Sys2Proof.Machine

/-- The meaning of every row of the opcode table. -/
def exec (i : Instr) (s : State) : Host.Outcome State Fault Refusal :=
  match i with
  | .iadd o => Sys2Proof.Machine.execIadd o s
  | .isub o => Sys2Proof.Machine.execIsub o s
  | .imul o => Sys2Proof.Machine.execImul o s
  | .and o => Sys2Proof.Machine.execAnd o s
  | .or o => Sys2Proof.Machine.execOr o s
  | .xor o => Sys2Proof.Machine.execXor o s
  | .shl o => Sys2Proof.Machine.execShl o s
  | .shr o => Sys2Proof.Machine.execShr o s
  | .sar o => Sys2Proof.Machine.execSar o s
  | .imin o => Sys2Proof.Machine.execImin o s
  | .imax o => Sys2Proof.Machine.execImax o s
  | .umin o => Sys2Proof.Machine.execUmin o s
  | .umax o => Sys2Proof.Machine.execUmax o s
  | .iaddsat o => Sys2Proof.Machine.execIaddsat o s
  | .isubsat o => Sys2Proof.Machine.execIsubsat o s
  | .iaddi o => Sys2Proof.Machine.execIaddi o s
  | .andi o => Sys2Proof.Machine.execAndi o s
  | .ori o => Sys2Proof.Machine.execOri o s
  | .xori o => Sys2Proof.Machine.execXori o s
  | .shli o => Sys2Proof.Machine.execShli o s
  | .shri o => Sys2Proof.Machine.execShri o s
  | .sari o => Sys2Proof.Machine.execSari o s
  | .icmp o => Sys2Proof.Machine.execIcmp o s
  | .imulhi o => Sys2Proof.Machine.execImulhi o s
  | .umulhi o => Sys2Proof.Machine.execUmulhi o s
  | .idiv o => Sys2Proof.Machine.execIdiv o s
  | .udiv o => Sys2Proof.Machine.execUdiv o s
  | .irem o => Sys2Proof.Machine.execIrem o s
  | .urem o => Sys2Proof.Machine.execUrem o s
  | .popc o => Sys2Proof.Machine.execPopc o s
  | .clz o => Sys2Proof.Machine.execClz o s
  | .brev o => Sys2Proof.Machine.execBrev o s
  | .bfe o => Sys2Proof.Machine.execBfe o s
  | .bfes o => Sys2Proof.Machine.execBfes o s
  | .bfi o => Sys2Proof.Machine.execBfi o s
  | .sel o => Sys2Proof.Machine.execSel o s
  | .imad o => Sys2Proof.Machine.execImad o s
  | .addc o => Sys2Proof.Machine.execAddc o s
  | .subb o => Sys2Proof.Machine.execSubb o s
  | .iadd64 o => Sys2Proof.Machine.execIadd64 o s
  | .isub64 o => Sys2Proof.Machine.execIsub64 o s
  | .shl64 o => Sys2Proof.Machine.execShl64 o s
  | .shr64 o => Sys2Proof.Machine.execShr64 o s
  | .sar64 o => Sys2Proof.Machine.execSar64 o s
  | .lea o => Sys2Proof.Machine.execLea o s
  | .mov o => Sys2Proof.Machine.execMov o s
  | .movi o => Sys2Proof.Machine.execMovi o s
  | .movl o => Sys2Proof.Machine.execMovl o s
  | .fadd o => Sys2Proof.Machine.execFadd o s
  | .fsub o => Sys2Proof.Machine.execFsub o s
  | .fmul o => Sys2Proof.Machine.execFmul o s
  | .fmin o => Sys2Proof.Machine.execFmin o s
  | .fmax o => Sys2Proof.Machine.execFmax o s
  | .fdiv o => Sys2Proof.Machine.execFdiv o s
  | .fsqrt o => Sys2Proof.Machine.execFsqrt o s
  | .fma o => Sys2Proof.Machine.execFma o s
  | .fms o => Sys2Proof.Machine.execFms o s
  | .fnma o => Sys2Proof.Machine.execFnma o s
  | .fnms o => Sys2Proof.Machine.execFnms o s
  | .fcmp o => Sys2Proof.Machine.execFcmp o s
  | .fclass o => Sys2Proof.Machine.execFclass o s
  | .fneg o => Sys2Proof.Machine.execFneg o s
  | .fabs o => Sys2Proof.Machine.execFabs o s
  | .fsgnj o => Sys2Proof.Machine.execFsgnj o s
  | .fsgnjn o => Sys2Proof.Machine.execFsgnjn o s
  | .fsgnjx o => Sys2Proof.Machine.execFsgnjx o s
  | .fexp2 o => Sys2Proof.Machine.execFexp2 o s
  | .flog2 o => Sys2Proof.Machine.execFlog2 o s
  | .fsin o => Sys2Proof.Machine.execFsin o s
  | .fcos o => Sys2Proof.Machine.execFcos o s
  | .frcp o => Sys2Proof.Machine.execFrcp o s
  | .frsq o => Sys2Proof.Machine.execFrsq o s
  | .fcvt o => Sys2Proof.Machine.execFcvt o s
  | .fcvti o => Sys2Proof.Machine.execFcvti o s
  | .icvtf o => Sys2Proof.Machine.execIcvtf o s
  | .frint o => Sys2Proof.Machine.execFrint o s
  | .fcvtil o => Sys2Proof.Machine.execFcvtil o s
  | .icvtfl o => Sys2Proof.Machine.execIcvtfl o s
  | .f8pack o => Sys2Proof.Machine.execF8pack o s
  | .f8unpack o => Sys2Proof.Machine.execF8unpack o s
  | .f16pack o => Sys2Proof.Machine.execF16pack o s
  | .f16unpack o => Sys2Proof.Machine.execF16unpack o s
  | .xe3m2 o => Sys2Proof.Machine.execXe3m2 o s
  | .xe2m3 o => Sys2Proof.Machine.execXe2m3 o s
  | .xint4 o => Sys2Proof.Machine.execXint4 o s
  | .mxq o => Sys2Proof.Machine.execMxq o s
  | .mxdq o => Sys2Proof.Machine.execMxdq o s
  | .mxscale o => Sys2Proof.Machine.execMxscale o s
  | .fsplit o => Sys2Proof.Machine.execFsplit o s
  | .fjoin o => Sys2Proof.Machine.execFjoin o s
  | .fdot2 o => Sys2Proof.Machine.execFdot2 o s
  | .fdot4 o => Sys2Proof.Machine.execFdot4 o s
  | .faddl o => Sys2Proof.Machine.execFaddl o s
  | .fmull o => Sys2Proof.Machine.execFmull o s
  | .fmal o => Sys2Proof.Machine.execFmal o s
  | .fscale o => Sys2Proof.Machine.execFscale o s
  | .fgetexp o => Sys2Proof.Machine.execFgetexp o s
  | .fgetman o => Sys2Proof.Machine.execFgetman o s
  | .fminnm o => Sys2Proof.Machine.execFminnm o s
  | .fmaxnm o => Sys2Proof.Machine.execFmaxnm o s
  | .bra o => Sys2Proof.Machine.execBra o s
  | .brx o => Sys2Proof.Machine.execBrx o s
  | .jmpl o => Sys2Proof.Machine.execJmpl o s
  | .call o => Sys2Proof.Machine.execCall o s
  | .callx o => Sys2Proof.Machine.execCallx o s
  | .calll o => Sys2Proof.Machine.execCalll o s
  | .ret o => Sys2Proof.Machine.execRet o s
  | .exit o => Sys2Proof.Machine.execExit o s
  | .rfpt o => Sys2Proof.Machine.execRfpt o s
  | .yield o => Sys2Proof.Machine.execYield o s
  | .nop o => Sys2Proof.Machine.execNop o s
  | .brk o => Sys2Proof.Machine.execBrk o s
  | .migr o => Sys2Proof.Machine.execMigr o s
  | .shfli o => Sys2Proof.Machine.execShfli o s
  | .shflu o => Sys2Proof.Machine.execShflu o s
  | .shfld o => Sys2Proof.Machine.execShfld o s
  | .shflx o => Sys2Proof.Machine.execShflx o s
  | .vall o => Sys2Proof.Machine.execVall o s
  | .vany o => Sys2Proof.Machine.execVany o s
  | .ballot o => Sys2Proof.Machine.execBallot o s
  | .matchLanes o => Sys2Proof.Machine.execMatchLanes o s
  | .wscan o => Sys2Proof.Machine.execWscan o s
  | .wred o => Sys2Proof.Machine.execWred o s
  | .wfred o => Sys2Proof.Machine.execWfred o s
  | .ld o => Sys2Proof.Machine.execLd o s
  | .st o => Sys2Proof.Machine.execSt o s
  | .ldu o => Sys2Proof.Machine.execLdu o s
  | .ldfe o => Sys2Proof.Machine.execLdfe o s
  | .stfe o => Sys2Proof.Machine.execStfe o s
  | .pf o => Sys2Proof.Machine.execPf o s
  | .atomAdd o => Sys2Proof.Machine.execAtomAdd o s
  | .atomAnd o => Sys2Proof.Machine.execAtomAnd o s
  | .atomOr o => Sys2Proof.Machine.execAtomOr o s
  | .atomXor o => Sys2Proof.Machine.execAtomXor o s
  | .atomMin o => Sys2Proof.Machine.execAtomMin o s
  | .atomMax o => Sys2Proof.Machine.execAtomMax o s
  | .atomXchg o => Sys2Proof.Machine.execAtomXchg o s
  | .atomDecp o => Sys2Proof.Machine.execAtomDecp o s
  | .atomFadd o => Sys2Proof.Machine.execAtomFadd o s
  | .acas o => Sys2Proof.Machine.execAcas o s
  | .satomAdd o => Sys2Proof.Machine.execSatomAdd o s
  | .satomAnd o => Sys2Proof.Machine.execSatomAnd o s
  | .satomOr o => Sys2Proof.Machine.execSatomOr o s
  | .satomXor o => Sys2Proof.Machine.execSatomXor o s
  | .satomMin o => Sys2Proof.Machine.execSatomMin o s
  | .satomMax o => Sys2Proof.Machine.execSatomMax o s
  | .satomXchg o => Sys2Proof.Machine.execSatomXchg o s
  | .satomDecp o => Sys2Proof.Machine.execSatomDecp o s
  | .satomFadd o => Sys2Proof.Machine.execSatomFadd o s
  | .scas o => Sys2Proof.Machine.execScas o s
  | .fenceAcq o => Sys2Proof.Machine.execFenceAcq o s
  | .fenceRel o => Sys2Proof.Machine.execFenceRel o s
  | .fenceAr o => Sys2Proof.Machine.execFenceAr o s
  | .fenceSc o => Sys2Proof.Machine.execFenceSc o s
  | .barArrive o => Sys2Proof.Machine.execBarArrive o s
  | .barWait o => Sys2Proof.Machine.execBarWait o s
  | .barSync o => Sys2Proof.Machine.execBarSync o s
  | .barDrop o => Sys2Proof.Machine.execBarDrop o s
  | .barTest o => Sys2Proof.Machine.execBarTest o s
  | .barRed o => Sys2Proof.Machine.execBarRed o s
  | .abarInit o => Sys2Proof.Machine.execAbarInit o s
  | .abarArrive o => Sys2Proof.Machine.execAbarArrive o s
  | .abarWait o => Sys2Proof.Machine.execAbarWait o s
  | .waitv o => Sys2Proof.Machine.execWaitv o s
  | .wake1 o => Sys2Proof.Machine.execWake1 o s
  | .wakeall o => Sys2Proof.Machine.execWakeall o s
  | .waitc o => Sys2Proof.Machine.execWaitc o s
  | .macq o => Sys2Proof.Machine.execMacq o s
  | .mrel o => Sys2Proof.Machine.execMrel o s
  | .mzero o => Sys2Proof.Machine.execMzero o s
  | .mloop o => Sys2Proof.Machine.execMloop o s
  | .mloopg o => Sys2Proof.Machine.execMloopg o s
  | .mdrain o => Sys2Proof.Machine.execMdrain o s
  | .mdrains o => Sys2Proof.Machine.execMdrains o s
  | .mwlat o => Sys2Proof.Machine.execMwlat o s
  | .mstep o => Sys2Proof.Machine.execMstep o s
  | .mmeta o => Sys2Proof.Machine.execMmeta o s
  | .mfill o => Sys2Proof.Machine.execMfill o s
  | .madd o => Sys2Proof.Machine.execMadd o s
  | .mscale o => Sys2Proof.Machine.execMscale o s
  | .mcsum o => Sys2Proof.Machine.execMcsum o s
  | .xfer o => Sys2Proof.Machine.execXfer o s
  | .xgather o => Sys2Proof.Machine.execXgather o s
  | .chclose o => Sys2Proof.Machine.execChclose o s
  | .chavail o => Sys2Proof.Machine.execChavail o s
  | .qpush o => Sys2Proof.Machine.execQpush o s
  | .qpop o => Sys2Proof.Machine.execQpop o s
  | .qtrypop o => Sys2Proof.Machine.execQtrypop o s
  | .qtrypush o => Sys2Proof.Machine.execQtrypush o s
  | .cred o => Sys2Proof.Machine.execCred o s
  | .callred o => Sys2Proof.Machine.execCallred o s
  | .credsc o => Sys2Proof.Machine.execCredsc o s
  | .callg o => Sys2Proof.Machine.execCallg o s
  | .csrr o => Sys2Proof.Machine.execCsrr o s
  | .csrw o => Sys2Proof.Machine.execCsrw o s
  | .csrs o => Sys2Proof.Machine.execCsrs o s
  | .csrc o => Sys2Proof.Machine.execCsrc o s
  | .launch o => Sys2Proof.Machine.execLaunch o s
  | .hret o => Sys2Proof.Machine.execHret o s
  | .hskip o => Sys2Proof.Machine.execHskip o s
  | .ctxsave o => Sys2Proof.Machine.execCtxsave o s
  | .ctxload o => Sys2Proof.Machine.execCtxload o s
  | .ctxkill o => Sys2Proof.Machine.execCtxkill o s
  | .kretire o => Sys2Proof.Machine.execKretire o s
  | .tlbinv o => Sys2Proof.Machine.execTlbinv o s
  | .tlbinvall o => Sys2Proof.Machine.execTlbinvall o s
  | .pgprobe o => Sys2Proof.Machine.execPgprobe o s
  | .hcmark o => Sys2Proof.Machine.execHcmark o s
  | .hcflush o => Sys2Proof.Machine.execHcflush o s
  | .hcstop o => Sys2Proof.Machine.execHcstop o s
  | .hcread o => Sys2Proof.Machine.execHcread o s
  | .illegalEncoding bad => Sys2Proof.Machine.execIllegalEncoding bad s
  | .lavio gid slot => Sys2Proof.Machine.execLavio gid slot s
  | .alloc => Sys2Proof.Machine.execAlloc s
  | .config => Sys2Proof.Machine.execConfig s
  | .start => Sys2Proof.Machine.execStart s
  | .suspend => Sys2Proof.Machine.execSuspend s
  | .resume => Sys2Proof.Machine.execResume s
  | .clear => Sys2Proof.Machine.execClear s
  | .kill => Sys2Proof.Machine.execKill s
  | .rekey => Sys2Proof.Machine.execRekey s
  | .unknownCommand => Sys2Proof.Machine.execUnknownCommand s
  | .assign => Sys2Proof.Machine.execAssign s
  | .release => Sys2Proof.Machine.execRelease s
  | .peers => Sys2Proof.Machine.execPeers s
  | .invalidate => Sys2Proof.Machine.execInvalidate s
  | .resolve => Sys2Proof.Machine.execResolve s
  | .linkEnable => Sys2Proof.Machine.execLinkEnable s
  | .linkDisable => Sys2Proof.Machine.execLinkDisable s
  | .linkRecover => Sys2Proof.Machine.execLinkRecover s
  | .portcfg => Sys2Proof.Machine.execPortcfg s
  | .hcRecord => Sys2Proof.Machine.execHcRecord s
  | .hcStop => Sys2Proof.Machine.execHcStop s
  | .hcReplay => Sys2Proof.Machine.execHcReplay s
  | .hcVerify => Sys2Proof.Machine.execHcVerify s
  | .hcRelease => Sys2Proof.Machine.execHcRelease s
  | .errack => Sys2Proof.Machine.execErrack s
  | .attest => Sys2Proof.Machine.execAttest s
  | .coldreset => Sys2Proof.Machine.execColdreset s
  | .warmreset => Sys2Proof.Machine.execWarmreset s
  | .queueDoorbell queue tail => Sys2Proof.Machine.execQueueDoorbell queue tail s
  | .nearcfgWrite value => Sys2Proof.Machine.execNearcfgWrite value s
  | .frheadWrite value => Sys2Proof.Machine.execFrheadWrite value s
  | .zhevportPhysicalWrite addr bytes => Sys2Proof.Machine.execZhevportPhysicalWrite addr bytes s
  | .mgmtWindowWrite offset bytes => Sys2Proof.Machine.execMgmtWindowWrite offset bytes s
  | .powerOn => Sys2Proof.Machine.execPowerOn s
  | .bootImage => Sys2Proof.Machine.execBootImage s
  | .bindingPass => Sys2Proof.Machine.execBindingPass s
  | .bindSeat bind => Sys2Proof.Machine.execBindSeat bind s
  | .loaderLoad core seat => Sys2Proof.Machine.execLoaderLoad core seat s
  | .groupLoadFinished core seat => Sys2Proof.Machine.execGroupLoadFinished core seat s
  | .kernelDone kh => Sys2Proof.Machine.execKernelDone kh s
  | .completionRecordUpdate update => Sys2Proof.Machine.execCompletionRecordUpdate update s
  | .gangReserve msg => Sys2Proof.Machine.execGangReserve msg s
  | .gangAck msg => Sys2Proof.Machine.execGangAck msg s
  | .gangRefuse msg => Sys2Proof.Machine.execGangRefuse msg s
  | .gangCommit msg => Sys2Proof.Machine.execGangCommit msg s
  | .gangAbort msg => Sys2Proof.Machine.execGangAbort msg s
  | .gangFail msg => Sys2Proof.Machine.execGangFail msg s
  | .gangDone msg => Sys2Proof.Machine.execGangDone msg s
  | .gangTimeout n => Sys2Proof.Machine.execGangTimeout n s
  | .gangMemberTimeout kh => Sys2Proof.Machine.execGangMemberTimeout kh s
  | .landing package core => Sys2Proof.Machine.execLanding package core s
  | .suspendImageWrite ctx => Sys2Proof.Machine.execSuspendImageWrite ctx s
  | .groupRestore core seat image => Sys2Proof.Machine.execGroupRestore core seat image s
  | .teardownDrained ctx => Sys2Proof.Machine.execTeardownDrained ctx s
  | .swept ctx => Sys2Proof.Machine.execSwept ctx s
  | .starvation gid slot => Sys2Proof.Machine.execStarvation gid slot s
  | .yieldExpiry gid slot => Sys2Proof.Machine.execYieldExpiry gid slot s
  | .spillFillDone core => Sys2Proof.Machine.execSpillFillDone core s
  | .crossLaneDeadlock gid window => Sys2Proof.Machine.execCrossLaneDeadlock gid window s
  | .matrixStep gid tile => Sys2Proof.Machine.execMatrixStep gid tile s
  | .memoryAccessServed access => Sys2Proof.Machine.execMemoryAccessServed access s
  | .tokenTransfer move => Sys2Proof.Machine.execTokenTransfer move s
  | .persistentRequest slice line write => Sys2Proof.Machine.execPersistentRequest slice line write s
  | .arbiterGrantVisit => Sys2Proof.Machine.execArbiterGrantVisit s
  | .haloTokenPass slice => Sys2Proof.Machine.execHaloTokenPass slice s
  | .leaseExpiry cluster line => Sys2Proof.Machine.execLeaseExpiry cluster line s
  | .waitvTimeout gid slot => Sys2Proof.Machine.execWaitvTimeout gid slot s
  | .waitvPoll gid slot => Sys2Proof.Machine.execWaitvPoll gid slot s
  | .engineChunk command chunk => Sys2Proof.Machine.execEngineChunk command chunk s
  | .channelSlotDeliver gid queue => Sys2Proof.Machine.execChannelSlotDeliver gid queue s
  | .collectiveJoin join => Sys2Proof.Machine.execCollectiveJoin join s
  | .collectiveChunk join member chunk => Sys2Proof.Machine.execCollectiveChunk join member chunk s
  | .isobarPeriod regulator ctx => Sys2Proof.Machine.execIsobarPeriod regulator ctx s
  | .pageWalk walk => Sys2Proof.Machine.execPageWalk walk s
  | .faultRecordAppend => Sys2Proof.Machine.execFaultRecordAppend s
  | .flitReceive link flit => Sys2Proof.Machine.execFlitReceive link flit s
  | .retryPeriod link => Sys2Proof.Machine.execRetryPeriod link s
  | .linkTrained link found => Sys2Proof.Machine.execLinkTrained link found s
  | .linkTrainTimeout link => Sys2Proof.Machine.execLinkTrainTimeout link s
  | .linkSilence link => Sys2Proof.Machine.execLinkSilence link s
  | .disableFlushTimeout link => Sys2Proof.Machine.execDisableFlushTimeout link s
  | .zhevportTrained good => Sys2Proof.Machine.execZhevportTrained good s
  | .zhevportIsolationExpiry => Sys2Proof.Machine.execZhevportIsolationExpiry s
  | .cxlTrained port found => Sys2Proof.Machine.execCxlTrained port found s
  | .cxlTrainTimeout port => Sys2Proof.Machine.execCxlTrainTimeout port s
  | .cxlRequestTimeout port request => Sys2Proof.Machine.execCxlRequestTimeout port request s
  | .cxlLinkDown port => Sys2Proof.Machine.execCxlLinkDown port s
  | .cxlResponse port request answer => Sys2Proof.Machine.execCxlResponse port request answer s
  | .snpinv port half => Sys2Proof.Machine.execSnpinv port half s
  | .snpdata port half => Sys2Proof.Machine.execSnpdata port half s
  | .snpcur port half => Sys2Proof.Machine.execSnpcur port half s
  | .hostMemRead port offset bytes => Sys2Proof.Machine.execHostMemRead port offset bytes s
  | .hostMemWrite port offset data poison => Sys2Proof.Machine.execHostMemWrite port offset data poison s
  | .chunkClose ctx recorder => Sys2Proof.Machine.execChunkClose ctx recorder s
  | .chunkSpill ctx => Sys2Proof.Machine.execChunkSpill ctx s
  | .scrub line array => Sys2Proof.Machine.execScrub line array s
  | .fatalError => Sys2Proof.Machine.execFatalError s
  | .powerPeriod die power => Sys2Proof.Machine.execPowerPeriod die power s
  | .railOvercurrent die current => Sys2Proof.Machine.execRailOvercurrent die current s
  | .telemetryRefresh sensors => Sys2Proof.Machine.execTelemetryRefresh sensors s
  | .thermalThrottle die => Sys2Proof.Machine.execThermalThrottle die s
  | .thermalTrip die => Sys2Proof.Machine.execThermalTrip die s
  | .cxlIoRequest port request => Sys2Proof.Machine.execCxlIoRequest port request s
  | .peakampsRead => Sys2Proof.Machine.execPeakampsRead s
  | .thermalRecovery die => Sys2Proof.Machine.execThermalRecovery die s
  | .gangQuery msg => Sys2Proof.Machine.execGangQuery msg s
  | .gangQueryAnswer msg live => Sys2Proof.Machine.execGangQueryAnswer msg live s

end Sys2Proof.Machine
end

