-- ==== Sys2Proof/Machine/Due.lean ====
section
/-! DEFINITION. The steps that the machine itself has due (95): those that follow from its state, without a clock or the outside world.
Where several are due they take turns (log 1). Each is the meaning of one event. -/

namespace Sys2Proof.Machine

/-- A step that is due: the meaning of an event, with its operands. -/
abbrev DueStep : Type := State → Host.Outcome State Fault Refusal

/-- Accesses to be served, and the token moves they need (R272, R284). -/
def State.dueAccesses (s : State) : List DueStep :=
  s.accesses.flatMap (fun p =>
    let slice := match p.2.kind with
      | .atomic _ _ => (s.atomicPlace p.2).1
      | .cas => (s.atomicPlace p.2).1
      | _ => servingSlice (dieOfCore p.2.core) p.2.pa
    let write := match p.2.kind with | .load => false | .uniform => false | _ => true
    (match s.neededMove slice p.2.pa write with | some m => [execTokenTransfer m] | none => []) ++ [execMemoryAccessServed p.1]) ++
    (if s.persistent.isEmpty then [] else [execArbiterGrantVisit])

/-- Does an item wait for the spill and fill engine (R165)? -/
def Item.atSpill (it : Item) : Bool := match it.wait with | .spill _ _ _ => true | .frame => true | _ => false

/-- Walks, fault records, spills and fills. -/
def State.dueTranslation (s : State) : List DueStep :=
  s.walks.map (fun p => execPageWalk p.1) ++
    (if s.faults.any (fun p => p.2.fid.isNone) then [execFaultRecordAppend] else []) ++
    (s.groups.filter (fun p => p.2.items.any (fun q => q.2.atSpill))).map (fun p => execSpillFillDone p.2.core)

/-- LAVIO traps to be taken (R64), windows that can reconverge no more (R170), and items that have starved (R159). -/
def State.dueTraps (s : State) : List DueStep :=
  s.groups.flatMap (fun p =>
    p.2.items.filterMap (fun q => match q.2.wait with
      | .lavio _ _ _ => if q.2.leading then none else some (execLavio p.1 q.1)
      | _ => none) ++
    (((upTo 64).filter (fun w => s.deadlocked p.1 w)).map (execCrossLaneDeadlock p.1))) ++
    s.dueStarved.map (fun p => execStarvation p.1 p.2)

/-- Matrix operations, engine chunks, slots of channels, and collectives. -/
def State.dueEngines (s : State) : List DueStep :=
  s.groups.flatMap (fun p =>
    (p.2.tiles.filter (fun t => !t.2.ops.isEmpty)).map (fun t => execMatrixStep p.1 t.1) ++
    (p.2.staging.filter (fun x => x.2.state != 0)).map (fun x => execChannelSlotDeliver p.1 x.1)) ++
    (s.orphans.filter (fun p => !p.2.words.isEmpty)).map (fun p => execChannelSlotDeliver p.1 0) ++
    s.commands.flatMap (fun p => p.2.left.map (execEngineChunk p.1)) ++
    s.joins.flatMap (fun p =>
      if p.2.joined then p.2.members.flatMap (fun m => m.2.left.map (execCollectiveChunk p.1 m.1)) else [execCollectiveJoin p.1])

/-- The first seat that may take a waiting group image (R152). -/
def State.restoreSeat (s : State) (kh : Nat) (b : List W8) : Option Nat :=
  match s.kernel? kh with
  | some k => (upTo 4096).find? (fun x => s.mayRestore (x / 4) (x % 4) k kh b)
  | none => none

/-- The first core of a die with a slot free. -/
def State.landingCore (s : State) (die : Nat) : Option Nat :=
  (upTo 1024).find? (fun c => dieOfCore c == die && decide (s.residentSlots c < 2048))

/-- A bind of firmware's own (R111): the kernel's first stage that wants a seat, at the first seats that may take it. A gang takes seats of
its own cores, one each, with a GANGID that no live gang carries. -/
def State.firmwareBind (s : State) (kh : Nat) (k : Kernel) : Option BindChoice :=
  match (upTo k.desc.stages.length).find? (s.wantsSeat kh k) with
  | none => none
  | some st =>
    let free := s.seatsFor k
    let id := ((upTo 65536).drop 1).find? (fun n => !s.gangNumbered n)
    let choice (seats : List Nat) (n : Nat) : BindChoice := { seats := seats, kh := kh, stage := st, count := 1, gangId := n }
    if k.hasGangs then
      let b := choice ((free.filter (fun x => x % 4 == 0)).take k.desc.gangGroups) (id.getD 0)
      if s.mayBind b k then some b else none
    else (free.map (fun x => choice [x] 0)).find? (fun b => s.mayBind b k)

/-- Binding, loading, landing and the ends of kernels. -/
def State.dueLoading (s : State) : List DueStep :=
  (if s.passDue && !s.stopped then [execBindingPass] else []) ++
    s.kernels.filterMap (fun p => (s.firmwareBind p.1 p.2).map execBindSeat) ++
    (s.bindTable.filter (fun p => p.2.valid && (s.seatGroup (p.1 / 4) (p.1 % 4)).isNone)).map (fun p => execLoaderLoad (p.1 / 4) (p.1 % 4)) ++
    s.groups.filterMap (fun p => match p.2.place with
      | .seat c k => if p.2.state == .loading then some (execGroupLoadFinished c k) else none
      | _ => none) ++
    s.packages.filterMap (fun p => (s.landingCore p.2.die).map (execLanding p.1)) ++
    s.restores.filterMap (fun p => (s.restoreSeat p.2.1 (p.2.2.2.take (leAt p.2.2.2 0 8))).map (fun x => execGroupRestore (x / 4) (x % 4) p.1)) ++
    (s.kernels.filter (fun p => s.kernelFinished p.2)).map (fun p => execKernelDone p.1) ++
    s.updates.map (fun p => execCompletionRecordUpdate p.1)

/-- Context commands that go on, the recorders, and what waits at the links. -/
def State.dueContexts (s : State) : List DueStep :=
  (s.pending.filter (fun p => p.2.kind == 0)).map (fun p => execSuspendImageWrite p.2.ctx) ++
    (s.pending.filter (fun p => p.2.kind == 1)).map (fun _ => execResume) ++
    s.contexts.flatMap (fun p =>
      (if p.2.state == .tearing then [if p.2.retired then execSwept p.1 else execTeardownDrained p.1] else []) ++
      (if p.2.hind.closing.isEmpty then [] else [execChunkSpill p.1]) ++
      (match p.2.hind.mode with
       | .off => []
       | .record => (p.2.hind.recorders.filter (fun r => r.2.closeFlags r.1 != 0)).map (fun r => execChunkClose p.1 r.1)
       | _ => execChunkClose p.1 0 :: (upTo 128).filterMap (fun r => (s.chunkDone p.1 r).map (fun _ => execChunkClose p.1 r)))) ++
    (if s.contexts.any (fun p => !p.2.heldPackets.isEmpty || p.2.hind.replaying) then (upTo 16).map (fun l => execFlitReceive l []) else [])

/-- Host accesses that have waited for their line (17 R382). -/
def State.dueHosts (s : State) : List DueStep := (s.ports.filter (fun p => !p.2.hosts.isEmpty)).map (fun p => execHostGoesOn p.1)

/-- The command that firmware accepts next (22 R463), by OPC and ACTION. -/
def commandStep (c : List W8) : DueStep :=
  match leAt c 0 1, leAt c 1 1 with
  | 0x01, _ => execAlloc
  | 0x02, _ => execConfig
  | 0x03, _ => execStart
  | 0x04, _ => execSuspend
  | 0x05, _ => execResume
  | 0x06, _ => execClear
  | 0x07, _ => execKill
  | 0x08, _ => execRekey
  | 0x10, _ => execAssign
  | 0x11, _ => execRelease
  | 0x20, _ => execPeers
  | 0x30, _ => execInvalidate
  | 0x31, _ => execResolve
  | 0x40, 0 => execLinkEnable
  | 0x40, 1 => execLinkDisable
  | 0x40, 2 => execLinkRecover
  | 0x41, _ => execPortcfg
  | 0x50, 0 => execHcRecord
  | 0x50, 1 => execHcStop
  | 0x50, 2 => execHcReplay
  | 0x50, 3 => execHcVerify
  | 0x50, 4 => execHcRelease
  | 0x60, _ => execErrack
  | 0x70, _ => execAttest
  | 0x80, _ => execColdreset
  | 0x81, _ => execWarmreset
  | _, _ => execUnknownCommand

/-- Commands of the ring, and the warm reset that follows a fatal error (R435). -/
def State.dueCommands (s : State) : List DueStep :=
  (match s.headCommand with | some (_, c) => [commandStep c] | none => []) ++ (if s.stopped then [execWarmreset] else [])

/-- Every step that is due. -/
def State.due (s : State) : List DueStep :=
  s.dueAccesses ++ s.dueTranslation ++ s.dueTraps ++ s.dueEngines ++ s.dueLoading ++ s.dueContexts ++ s.dueHosts ++ s.dueCommands

/-- The step whose turn it is. -/
def State.dueStep (s : State) : Option DueStep := s.due[s.tick / 2 % max 1 s.due.length]?

end Sys2Proof.Machine
end

