-- ==== Sys2Proof/Machine/Step.lean ====
section
/-! DEFINITION. One step of the machine. An input of State.inputs moves first (log 1). Otherwise the issue ports and the steps that the
machine has due alternate; where one has nothing to do, the other moves. -/

namespace Sys2Proof.Machine

/-- The end of a step in every outcome. -/
def conclude (before : State) : Host.Outcome State Fault Refusal → Host.Outcome State Fault Refusal
  | .next s => .next (before.endStep s)
  | .fault f => .fault f
  | .refused r => .refused r

/-- A wave runs its instruction: the decoded form, or ILLEGAL of its encoding (R66). -/
def runWave (s : State) (w : Wave) (i : Except Illegal Instr) : Host.Outcome State Fault Refusal :=
  match i with
  | .ok i =>
    match exec i (s.beginWave w) with
    | .next t => conclude s (.next ((s.beginWave w).logShared ((s.beginWave w).accountGone t w (.ok i)) w i))
    | r => r
  | .error bad => conclude s (exec (.illegalEncoding bad) (s.beginWave w))

/-- What the issue port has found is done. -/
def runIssue (s : State) : Issue → Host.Outcome State Fault Refusal
  | .none => conclude s (.next s)
  | .moved t => conclude s (.next t)
  | .run w i => runWave s w i

/-- An event takes place. -/
def runEvent (s : State) (i : Instr) : Host.Outcome State Fault Refusal :=
  if (toRaw i).isSome then .fault .notAnEvent else conclude s (exec i s)

/-- One step. -/
def step (s : State) : Host.Outcome State Fault Refusal :=
  match s.inputs with
  | .event i :: rest => runEvent { s with inputs := rest } i
  | .issue core :: rest => runIssue { s with inputs := rest } (({ s with inputs := rest }).tryCore core)
  | .own a :: rest => conclude { s with inputs := rest } (({ s with inputs := rest }).act a)
  | [] =>
    if s.tick % 2 = 0 then
      match s.tryCores s.busyCores, s.dueStep with
      | .none, some f => conclude s (f s)
      | r, _ => runIssue s r
    else
      match s.dueStep with
      | some f => conclude s (f s)
      | none => runIssue s (s.tryCores s.busyCores)

/-! ### The host's word -/

/-- The address at which the host's word stands. -/
def wordAddress : Nat := 0x1000

/-- The context, kernel and group in which the host's word runs: one item in slot 0 of seat 0 of core 0, in key id 0. -/
def wordContext : Context :=
  { Context.torn with
    state := .active
    everConfigured := true
    rate := [0xFFFFFFFF, 0xFFFFFFFF, 0xFFFFFFFF, 0xFFFFFFFF]
    regions := [{ base := 0, size := 512, rights := 0xF }] }

def wordKernel : Kernel :=
  { ctx := 1, descAddr := 0
    desc := { guarded := false, duplex := false, ext0 := 1, ext1 := 1, ext2 := 1, handler := 0, refillPc := 0, scratch := 0, groupSlots := 32
              gangGroups := 1, gangDevs := 1, entryFrame := 96, sconst := [], stages := [(BitVec.ofNat 64 wordAddress, 1)], channels := []
              queues := [] }
    state := .running, prio := 0, tag := 0, crec := 0, smask := 0, flags := 0, sval := [], queue := none, order := 0, empty := true
    next := [1], limit := [1], nextGang := [1], nextGroup := [1], ended := 0, gangN := 0, rank := 0, committed := true, asked := false
    lastReceiver := [], gone := [], kseq := 0, logKh := 0, oldWords := [] }

def wordItem : Item :=
  { Item.blank with
    pc := BitVec.ofNat 64 wordAddress
    frame := 96
    member := 0xFFFF }

def wordGroup : Group :=
  { kh := 0, ctx := 1, stage := 0, place := .seat 0 0, slots := 32, state := .running, items := [(0, wordItem)], closed := 0, groupix := 0
    gangix := 0, gangrank := 0, s := Vector.replicate 64 0, badS := [], shadowS := Vector.replicate 64 0, mstat := 0, scratchBytes := 0
    scratch := [], full := [], spadPoison := [], barriers := Vector.replicate 16 Barrier.open, tiles := [], matrixIssue := 0
    binds := Vector.replicate 16 { kind := 0, index := 0 }, staging := [], rings := [], collectives := 0, barStamp := 0, throttled := false, guarded := none
    landVa := 0, started := true, sOrder := 0, counted := (0, 0), completed := [], lastWave := [], stopAsked := false }

/-- The state in which the next step fetches and runs the instruction whose bits are `w` (log 9): the machine runs no program from reset, so
this stands for a boot, a launch and a group load. The item is alone on core 0. -/
def State.withFetchWord (s : State) (nbits w : Nat) : State :=
  { s with
    inputs := [.issue 0]
    groups := Table.put (s.groups.filter (fun p => p.2.core != 0)) 0 wordGroup
    kernels := Table.put s.kernels 0 wordKernel
    contexts := Table.put s.contexts 1 wordContext
    tlbs := Table.put [] 0 { unit := 0, ctx := 1, base := 0, logSize := 21, addr := 0, r := true, w := true, x := true }
    memory := s.memory.write 0 wordAddress (leBytes 12 (w % 2 ^ nbits)) }

end Sys2Proof.Machine
end

