-- ==== Sys2Proof/Safety.lean ====
section
/-! DEFINITION. The terms in which claims are made: what a safe step is, when a wave runs a form without a trap or a wait, and the state that a
form leaves whose effect stays within its items. -/

namespace Sys2Proof.Machine

/-! ### Safe states and steps -/

/-- What every step keeps: physical memory is in its one canonical form, so that equal memories are equal data. -/
def State.Inv (s : State) : Prop := s.memory.wf = true

/-- A step is safe when the machine goes on: it takes no fault and no refusal. -/
def State.Safe (s : State) : Prop := ∃ t, step s = .next t

/-! ### Plain waves -/

/-- No item of a group has a trap or an error that ends the instruction for the kernel (R418, R430). -/
def Group.Clear (g : Group) : Prop := ∀ p ∈ g.items, p.2.fatal = none ∧ p.2.consumed = none

/-- The wave belongs to a group that is neither guarded nor duplex, and no end of a kernel is pending in it. -/
structure Plain (s : State) (g : Group) : Prop where
  group : s.group? s.wave.gid = some g
  single : s.duplex g = false
  unguarded : g.guarded = none
  clear : g.Clear

/-- The environment of the item in a slot. -/
abbrev State.envOf (s : State) (g : Group) (k : Nat) (it : Item) : Env := Env.of s g s.wave.gid k it

/-- An item passes the checks of a form: no trap is owed, its register fields are good, no lookahead window stands against the form, and no
register it reads holds an error. Its guard may be true or false. -/
def Env.Passes (e : Env) (i : Instr) (badS : List Nat) : Prop :=
  (e.gate (shapeOf i) (admitted i) = .go ∧ (shapeOf i).poisoned e.it badS = none) ∨ e.gate (shapeOf i) (admitted i) = .skip

/-- Every member of the wave passes the checks of a form. -/
def Admits (s : State) (g : Group) (i : Instr) : Prop :=
  ∀ p ∈ g.items, s.wave.slots.contains p.1 = true → (s.envOf g p.1 p.2).Passes i g.badS

/-- Some member of the wave has a true guard. -/
def SomeGuard (s : State) (g : Group) (i : Instr) : Prop :=
  ∃ k ∈ s.wave.slots, ∃ it, Table.get? g.items k = some it ∧ it.guard (shapeOf i).form.g = true

/-- The member of lowest LSLOT among those with a true guard, in whose name the scalar unit works (R61). -/
def Lead (s : State) (g : Group) (i : Instr) (k : Nat) (it : Item) : Prop :=
  k ∈ s.wave.slots ∧ Table.get? g.items k = some it ∧ it.guard (shapeOf i).form.g = true ∧
    ∀ j ∈ s.wave.slots, ∀ jt, Table.get? g.items j = some jt → jt.guard (shapeOf i).form.g = true → k ≤ j

/-! ### What a form leaves -/

/-- The item `it` goes on at `t` after the form. -/
def Env.on (e : Env) (i : Instr) (t : W64) (it : Item) : Item :=
  it.complete e.now (shapeOf i).form.la.toNat (shapeOf i).reads (shapeOf i).writes none t

/-- With a true guard the item becomes `f e` and goes on at `t e`; with a false one it only goes on (R63). -/
def Env.under (e : Env) (i : Instr) (t : Env → W64) (f : Env → Item) : Item :=
  if e.it.guard (shapeOf i).form.g then e.on i (t e) (f e) else e.on i e.nextPc e.it

/-- The state in which every member of the wave has become `f` of its environment; nothing else has changed. -/
def State.after (s : State) (g : Group) (f : Env → Item) : State :=
  s.modGroup s.wave.gid (fun h => { h with items := h.items.mapAll (fun k it =>
    if s.wave.slots.contains k then f (s.envOf g k it) else it) })

end Sys2Proof.Machine
end

