-- ==== Sys2Proof/Certificates/Slice0/Obligations.lean ====
section
/-! DEFINITION. The statements for the provers, each a rule of spec/ or a property of the whole machine. Where a statement names a state after a
form it gives all of it, so it is the form's frame as well: everything it does not mention is as before. -/

open Sys2Proof Sys2Proof.Machine

/-! ### Encoding -/

/-- The fields of a form with M, LA and the guard at 0, 0 and p7. -/
def Sys2Proof.formOf (d a b c : BitVec 7) : Form := { d := d, a := a, b := b, c := c, m := 0, la := 0, g := 7 }

/-- For every well-formed instruction, with every operand at every value the encoding admits, the encoder gives words and the decoder reads the instruction from them. (03 R56, 03 R57, 03 R58, 03 R66) -/
def Obligations.DecodeEncode : Prop :=
  ∀ i : Instr, i.wellFormed = true → ∃ w0 w1 w2, encode i = some (w0, w1, w2) ∧ decode w0 w1 w2 = .ok i

/-- If any three words decode to an instruction, that instruction is well-formed, so every limit of the encoding has been checked, and it is a form, not an event. The instruction length is read from the first word, and words beyond it have no effect on what is decoded. LEN 0b11 is reason 1, an unallocated major opcode reason 2, and a LEN that is not the opcode's length reason 3; each is reported before any later check, whatever the rest of the words holds. (03 R58, 03 R61, 03 R66, 03 R56, 03 R67) -/
def Obligations.DecoderChecks : Prop :=
  (
    ∀ (w0 w1 w2 : W32) (i : Instr), decode w0 w1 w2 = .ok i → i.wellFormed = true ∧ (toRaw i).isSome = true) ∧
  (
    ∀ (w0 w1 w2 x1 x2 : W32), (wordsOf w0 = 1 → decode w0 w1 w2 = decode w0 x1 x2) ∧ (wordsOf w0 = 2 → decode w0 w1 w2 = decode w0 w1 x2)) ∧
  (
    ∀ r : Raw,
      (r.len = 3 → decodeRaw r = r.bad 0x01 0) ∧
      (r.len ≠ 3 → formatOf r.op.toNat = none → decodeRaw r = r.bad 0x02 0) ∧
      (∀ f, r.len ≠ 3 → formatOf r.op.toNat = some f → r.len ≠ f.len → decodeRaw r = r.bad 0x03 0))

/-- A word of each of several families, written bit by bit from the tables of the spec, decodes to the instruction that it stands for. (03 R57, 08 R162, 11 R234, 18 R410) -/
def Obligations.SpecWords : Prop :=
  decode 0x00840A18 0 0 = .ok (.iadd (formOf 4 5 6 0)) ∧
  decode 0x61000000 0x07030000 0 = .ok (.nop (formOf 0 0 0 0)) ∧
  decode 0x61000000 0x07010000 0 = .ok (.rfpt (formOf 0 0 0 0)) ∧
  decode 0x61000000 0x07000000 0 = .ok (.exit (formOf 0 0 0 0)) ∧
  decode 0x7C0C0000 0x07000010 0 = .ok (.csrr { formOf 12 0 0 0 with num := 0x010 }) ∧
  decode 0x70800000 0x07020002 0 = .ok (.barSync { formOf 0 0 0 0 with bar := 2 }) ∧
  decode 0x74832010 0x07000006 0 = .ok (.mloop (formOf 3 16 4 6)) ∧
  decode 0x78011000 0x07000000 0 = .ok (.xfer (formOf 1 8 0 0)) ∧
  decode 0x7C830808 0x07000000 0 = .ok (.launch (formOf 3 4 2 0)) ∧
  decode 0x72000000 0x07000001 0 = .ok (.waitc { formOf 0 0 0 0 with cls := .copy, thresh := 1 }) ∧
  decode 0x7E840000 0x07030001 0 = .ok (.hcread { formOf 4 0 0 0 with sel := 1 }) ∧
  decode 0x7D830410 0x07000018 0 = .ok (.ctxsave { formOf 3 2 4 0 with sz := 24 })

/-! ### Integer and address forms (09) -/

/-- An exact sum clamped to -2^31 .. 2^31 - 1, with SAT where the clamp changed it (R179, R192). -/
def Sys2Proof.Machine.saturated (x : Int) : Dest × BitVec 3 :=
  let y := max (-2147483648) (min x 2147483647)
  (.w (BitVec.ofInt 32 y), if y = x then 0 else 4)

/-- The forms of chapter 9 but for divisions and carry chains: what each writes to D, a word, a pair or a predicate, and the flags of ISTAT it
raises. The operands are those of R61. -/
def Sys2Proof.Machine.integerResults (o : Form) (k : W16) (lit : W32) (pos : BitVec 5) (len : BitVec 6) (c : Cond) :
    List (Instr × (Env → Dest × BitVec 3)) :=
  [(.iadd o, fun e => (.w (e.opA o + e.opB o), 0)),
   (.isub o, fun e => (.w (e.opA o - e.opB o), 0)),
   (.imul o, fun e => (.w (BitVec.ofNat 32 ((e.opA o).toNat * (e.opB o).toNat)), 0)),
   (.and o, fun e => (.w (e.opA o &&& e.opB o), 0)),
   (.or o, fun e => (.w (e.opA o ||| e.opB o), 0)),
   (.xor o, fun e => (.w (e.opA o ^^^ e.opB o), 0)),
   (.shl o, fun e => (.w (if (e.opB o).toNat < 32 then (e.opA o).shiftLeft (e.opB o).toNat else 0), 0)),
   (.shr o, fun e => (.w (if (e.opB o).toNat < 32 then (e.opA o).ushiftRight (e.opB o).toNat else 0), 0)),
   (.sar o, fun e => (.w ((e.opA o).sshiftRight (min (e.opB o).toNat 31)), 0)),
   (.imin o, fun e => (.w (if (e.opA o).toInt ≤ (e.opB o).toInt then e.opA o else e.opB o), 0)),
   (.imax o, fun e => (.w (if (e.opB o).toInt ≤ (e.opA o).toInt then e.opA o else e.opB o), 0)),
   (.umin o, fun e => (.w (if (e.opA o).toNat ≤ (e.opB o).toNat then e.opA o else e.opB o), 0)),
   (.umax o, fun e => (.w (if (e.opB o).toNat ≤ (e.opA o).toNat then e.opA o else e.opB o), 0)),
   (.iaddi { o with imm := k }, fun e => (.w (e.opA o + k.signExtend 32), 0)),
   (.andi { o with imm := k }, fun e => (.w (e.opA o &&& k.zeroExtend 32), 0)),
   (.ori { o with imm := k }, fun e => (.w (e.opA o ||| k.zeroExtend 32), 0)),
   (.xori { o with imm := k }, fun e => (.w (e.opA o ^^^ k.zeroExtend 32), 0)),
   (.shli { o with imm := k }, fun e => (.w (if k.toNat < 32 then (e.opA o).shiftLeft k.toNat else 0), 0)),
   (.shri { o with imm := k }, fun e => (.w (if k.toNat < 32 then (e.opA o).ushiftRight k.toNat else 0), 0)),
   (.sari { o with imm := k }, fun e => (.w ((e.opA o).sshiftRight (min k.toNat 31)), 0)),
   (.popc o, fun e => (.w (BitVec.ofNat 32 (((List.range 32).filter (fun n => (e.opA o).getLsbD n)).length)), 0)),
   (.clz o, fun e => (.w (BitVec.ofNat 32 (if e.opA o = 0 then 32 else 31 - Nat.log2 (e.opA o).toNat)), 0)),
   (.brev o, fun e => (.w ((e.opA o).reverse), 0)),
   (.bfe { o with pos := pos, len := len }, fun e => (.w (bitField (e.opA o) pos.toNat len.toNat), 0)),
   (.bfes { o with pos := pos, len := len }, fun e => (.w (bitFieldSigned (e.opA o) pos.toNat len.toNat), 0)),
   (.bfi { o with pos := pos, len := len }, fun e => (.w (bitInsert (e.opA o) (e.opB o) pos.toNat len.toNat), 0)),
   (.mov o, fun e => (.w (e.opB o), 0)),
   (.movi { o with imm := k }, fun _ => (.w (k.signExtend 32), 0)),
   (.movl { o with lit := lit }, fun _ => (.w (lit), 0)),
   (.icmp { o with cond := c }, fun e => (.p (condHolds c (e.opA o) (e.opB o)), 0)),
   (.imulhi o, fun e => (.w (BitVec.ofInt 32 ((e.opA o).toInt * (e.opB o).toInt / 2 ^ 32)), 0)),
   (.umulhi o, fun e => (.w (BitVec.ofNat 32 ((e.opA o).toNat * (e.opB o).toNat / 2 ^ 32)), 0)),
   (.sel o, fun e => (.w (if e.it.readP o.c then e.opA o else e.opB o), 0)),
   (.imad o, fun e => (.w (e.opA o * e.opB o + e.it.readV o.c), 0)),
   (.iadd64 o, fun e => (.w2 (e.opA2 o + e.opB2 o), 0)),
   (.isub64 o, fun e => (.w2 (e.opA2 o - e.opB2 o), 0)),
   (.shl64 o, fun e => (.w2 (if (e.opB o).toNat < 64 then (e.opA2 o).shiftLeft (e.opB o).toNat else 0), 0)),
   (.shr64 o, fun e => (.w2 (if (e.opB o).toNat < 64 then (e.opA2 o).ushiftRight (e.opB o).toNat else 0), 0)),
   (.sar64 o, fun e => (.w2 ((e.opA2 o).sshiftRight (min (e.opB o).toNat 63)), 0)),
   (.lea { o with imm := k }, fun e => (.w2 (e.opA2 o + ((e.opB o).signExtend 64).shiftLeft k.toNat), 0)),
   (.iaddsat o, fun e => saturated ((e.opA o).toInt + (e.opB o).toInt)),
   (.isubsat o, fun e => saturated ((e.opA o).toInt - (e.opB o).toInt))]

/-- Under M 0b00 and 0b01 each of the 42 integer forms other than divisions and carry chains completes: every member of the wave with a true guard has the rule's value in D, a word, a pair or a predicate, with SAT raised in ISTAT where iaddsat or isubsat clamped it, and goes on; those with a false guard only go on; no other flag, no other register, no memory and no other item changes. (09 R179, 09 R180, 09 R181, 09 R182, 09 R183, 09 R186, 09 R187, 09 R189, 09 R190, 09 R191, 03 R61) -/
def Obligations.IntegerResults : Prop :=
  ∀ (s : State) (g : Group) (o : Form) (k : W16) (lit : W32) (pos : BitVec 5) (len : BitVec 6) (c : Cond),
    Plain s g → (o.m = 0 ∨ o.m = 1) → ∀ p ∈ integerResults o k lit pos len c, Admits s g p.1 →
      exec p.1 s = .next (s.after g (fun e => e.under p.1 Env.nextPc (fun e =>
        ({ e.it with istat := e.it.istat ||| (p.2 e).2 } : Item).writeDest o.d (p.2 e).1)))

/-- Under M 0b10 (and 0b11 of mov) the value of the member of lowest LSLOT with a true guard is written once, to the s register or pair that D names; a flag goes to every member with a true guard; every member goes on, its own registers unchanged; where no guard is true nothing is written. (03 R61, 08 R174, 09 R179, 09 R187, 09 R191) -/
def Obligations.IntegerScalarResults : Prop :=
  ∀ (s : State) (g : Group) (o : Form) (k : W16) (lit : W32) (pos : BitVec 5) (len : BitVec 6) (c : Cond),
    Plain s g → (o.m = 2 ∨ o.m = 3) → ∀ p ∈ integerResults o k lit pos len c, Admits s g p.1 →
      (∀ j it, Lead s g p.1 j it →
        let r := p.2 (s.envOf g j it)
        let write (h : Group) : Group := match r.1 with
          | .w x => h.writeS o.d x
          | .w2 x => (h.writeS o.d (lo32 x)).writeS (o.d + 1) (hi32 x)
          | _ => h
        exec p.1 s = .next ((s.modGroup s.wave.gid write).after (write g) (fun e => e.under p.1 Env.nextPc (fun e =>
          { e.it with istat := e.it.istat ||| r.2 })))) ∧
      (¬ SomeGuard s g p.1 → exec p.1 s = .next (s.after g (fun e => e.on p.1 e.nextPc e.it)))

/-- For 1 <= LEN and POS + LEN <= 32: bit n of a bfe is bit POS + n of the operand below LEN and 0 above; of a bfes it is the field's top bit above; bfi takes bits POS to POS + LEN - 1 from the second operand's low bits and every other bit from the first. (09 R185, 09 R186) -/
def Obligations.BitFieldMeaning : Prop :=
  ∀ (a b : W32) (pos len n : Nat), 1 ≤ len → pos + len ≤ 32 → n < 32 →
    (bitField a pos len).getLsbD n = (decide (n < len) && a.getLsbD (pos + n)) ∧
    (bitFieldSigned a pos len).getLsbD n = (if n < len then a.getLsbD (pos + n) else a.getLsbD (pos + len - 1)) ∧
    (bitInsert a b pos len).getLsbD n = (if pos ≤ n ∧ n < pos + len then b.getLsbD (n - pos) else a.getLsbD n)

/-- addc and subb take the carry or borrow from p[C], write the 32-bit sum or difference to D and the carry or borrow out to p[C], and change nothing else. (09 R188) -/
def Obligations.CarryChain : Prop :=
  ∀ (s : State) (g : Group) (o : Form), Plain s g → (o.m = 0 ∨ o.m = 1) →
    (Admits s g (.addc o) → exec (.addc o) s = .next (s.after g (fun e => e.under (.addc o) Env.nextPc (fun e =>
      let t := (e.opA o).toNat + (e.opB o).toNat + (if e.it.readP o.c then 1 else 0)
      (e.it.writeV o.d (BitVec.ofNat 32 t)).writeP o.c (decide (2 ^ 32 ≤ t)))))) ∧
    (Admits s g (.subb o) → exec (.subb o) s = .next (s.after g (fun e => e.under (.subb o) Env.nextPc (fun e =>
      let t : Int := (e.opA o).toNat - (e.opB o).toNat - (if e.it.readP o.c then 1 else 0)
      (e.it.writeV o.d (BitVec.ofInt 32 t)).writeP o.c (decide (t < 0))))))

/-- The division forms: is the form signed, and does it give the quotient (R184)? -/
def Sys2Proof.Machine.divisions (o : Form) : List (Instr × Bool × Bool) :=
  [(.idiv o, true, true), (.udiv o, false, true), (.irem o, true, false), (.urem o, false, false)]

/-- The quotient or remainder of two words (R10, R184): truncated toward zero, all ones and the dividend for a zero divisor, -2^31 and 0 for
-2^31 by -1. -/
def Sys2Proof.Machine.quotient32 (signed quot : Bool) (a b : W32) : W32 :=
  if b = 0 then (if quot then 0xFFFFFFFF else a)
  else if signed && a == 0x80000000 && b == 0xFFFFFFFF then (if quot then 0x80000000 else 0)
  else if signed then BitVec.ofInt 32 (if quot then a.toInt.tdiv b.toInt else a.toInt.tmod b.toInt)
  else BitVec.ofNat 32 (if quot then a.toNat / b.toNat else a.toNat % b.toNat)

/-- The flag of a division: DZ, or DOVF of the signed forms. -/
def Sys2Proof.Machine.divisionFlag (signed : Bool) (a b : W32) : BitVec 3 :=
  if b = 0 then 1 else if signed && a == 0x80000000 && b == 0xFFFFFFFF then 2 else 0

/-- Does the item's ICTL enable the trap of its division? -/
def Sys2Proof.Machine.divisionTraps (e : Env) (signed : Bool) (a b : W32) : Bool :=
  (b == 0 && e.it.ictl.getLsbD 0) || (b != 0 && signed && a == 0x80000000 && b == 0xFFFFFFFF && e.it.ictl.getLsbD 1)

/-- Where no member's ICTL enables the trap of its own division, idiv, udiv, irem and urem complete in every member: the quotient or remainder in D, DZ or DOVF set where the rule says, nothing else changed. A member whose own ICTL enables the trap of its division keeps D, has its flag set, and takes IDIV with TRAPINFO.KIND and TRAPADDR 0 at its handler's address, TRAPPC holding the dividing instruction's PC; the other members complete. (09 R184) -/
def Obligations.Divisions : Prop :=
  (
    ∀ (s : State) (g : Group) (o : Form), Plain s g → (o.m = 0 ∨ o.m = 1) → ∀ p ∈ divisions o, Admits s g p.1 →
      (∀ q ∈ g.items, s.wave.slots.contains q.1 = true →
        divisionTraps (s.envOf g q.1 q.2) p.2.1 ((s.envOf g q.1 q.2).opA o) ((s.envOf g q.1 q.2).opB o) = false) →
      exec p.1 s = .next (s.after g (fun e => e.under p.1 Env.nextPc (fun e =>
        ({ e.it with istat := e.it.istat ||| divisionFlag p.2.1 (e.opA o) (e.opB o) } : Item).writeV o.d
          (quotient32 p.2.1 p.2.2 (e.opA o) (e.opB o)))))) ∧
  (
    ∀ (s : State) (g : Group) (o : Form) (h : W64), Plain s g → (o.m = 0 ∨ o.m = 1) → s.handlerOf g.kh = some h →
      ∀ p ∈ divisions o, Admits s g p.1 → (∀ q ∈ g.items, q.2.inHandler = false ∧ q.2.windows = []) →
      exec p.1 s = .next (s.after g (fun e =>
        if e.it.guard o.g && divisionTraps e p.2.1 (e.opA o) (e.opB o) then
          { e.it with
            istat := e.it.istat ||| divisionFlag p.2.1 (e.opA o) (e.opB o)
            trapCause := 0x80000000#32 ||| BitVec.ofNat 32 (256 * s.wave.ilen) ||| 0x08#32
            trapPc := e.it.pc
            trapAddr := 0
            trapInfo := if e.opB o = 0 then 0 else 1
            pc := h
            joined := 4096 * s.tick
            issued := false
            got := none }
        else e.under p.1 Env.nextPc (fun e =>
          ({ e.it with istat := e.it.istat ||| divisionFlag p.2.1 (e.opA o) (e.opB o) } : Item).writeV o.d
            (quotient32 p.2.1 p.2.2 (e.opA o) (e.opB o))))))

/-! ### Floating-point forms (02, 10) -/

/-- Registers that an operand of a precision takes (R70). -/
def Sys2Proof.Machine.precWords (p : Prec) : Nat := if p = .f64 then 2 else 1

/-- The forms of chapter 10 with the number of v registers each writes from v[D] on, 0 for a predicate. -/
def Sys2Proof.Machine.floatWords : Instr → Option Nat
  | .fadd o | .fsub o | .fmul o | .fmin o | .fmax o | .fdiv o | .fsqrt o | .fma o | .fms o | .fnma o | .fnms o | .fneg o | .fabs o
  | .fsgnj o | .fsgnjn o | .fsgnjx o | .fexp2 o | .flog2 o | .fsin o | .fcos o | .frcp o | .frsq o | .fscale o | .fgetexp o | .fgetman o
  | .fminnm o | .fmaxnm o => some (precWords o.prec)
  | .icvtf o | .frint o | .icvtfl o => some (precWords o.prec)
  | .fcvt o => some (precWords o.dprec)
  | .f16unpack _ | .fcvtil _ | .fjoin _ => some 2
  | .f8unpack _ | .mxdq _ => some 4
  | .fclass _ | .fcvti _ | .f8pack _ | .f16pack _ | .xe3m2 _ | .xe2m3 _ | .xint4 _ | .mxq _ | .mxscale _ | .fsplit _ | .fdot2 _ | .fdot4 _
  | .faddl _ | .fmull _ | .fmal _ => some 1
  | .fcmp _ => some 0
  | _ => none

/-- The registers that a destination takes, 0 for a predicate. -/
def Sys2Proof.Machine.Dest.words : Dest → Nat
  | .p _ => 0
  | .w _ => 1
  | .w2 _ => 2
  | .w4 _ => 4

/-- The predicate that fsplit writes beside its destination (R216). -/
def Sys2Proof.Machine.sidePredicate : Instr → Option (BitVec 7)
  | .fsplit o => some (o.c >>> 4)
  | _ => none

/-- The flags that an instruction raises for an item: those of all its elements (R46). -/
def Sys2Proof.Machine.raisedFlags (es : List ElemFlags) : BitVec 5 := es.foldl (fun a e => a ||| e.flags) 0

/-- The item with flags, a destination and perhaps a predicate written, and nothing else. -/
def Sys2Proof.Machine.Env.floated (e : Env) (o : Form) (out : Out) : Item :=
  let it := ({ e.it with fpstat := e.it.fpstat ||| raisedFlags out.elems } : Item).writeDest o.d out.dest
  match out.pred with
  | some (n, b) => it.writeP n b
  | none => it

/-- The item after TakeTrap (R412, R413): the trap registers hold the cause, the instruction's PC and what the cause records, the item goes on
at its handler's address, and lookahead windows and waits are discarded. -/
def Sys2Proof.Machine.Env.entered (e : Env) (it : Item) (h : W64) (t : Trap) : Item :=
  { it with
    trapCause := 0x80000000#32 ||| BitVec.ofNat 32 (256 * e.ilen) ||| BitVec.ofNat 32 t.cause
    trapPc := e.it.pc
    trapAddr := t.addr
    trapInfo := t.info
    pc := h
    joined := 4096 * e.now
    windows := []
    wait := .none
    issued := false
    owed := none
    got := none }

/-- The results that a form of chapter 10 may have: of its own width, with its own predicate, and no integer flag. -/
def Sys2Proof.Machine.FloatResult (i : Instr) (n : Nat) (out : Env → Out) : Prop :=
  ∀ e, (out e).dest.words = n ∧ (out e).pred.map Prod.fst = sidePredicate i ∧ (out e).ist = 0 ∧ (out e).idiv = none

/-- Where the FPCTL enables of every member are clear, each of the 52 forms of chapter 10 completes: members with a true guard get a destination of the form's width from v[D] on (a predicate for fcmp; fsplit also writes p[C]), the flags are ORed into FPSTAT, and nothing else changes. With any enables, a member with a true guard whose own enables choose a trap has the flags ORed in, its destination unwritten, and is at its handler's address with TRAPCAUSE, TRAPPC, TRAPADDR and TRAPINFO set; every other member completes as if alone. (10 R200, 02 R46, 19 R412, 19 R413) -/
def Obligations.FloatResults : Prop :=
  (
    ∀ (s : State) (g : Group) (i : Instr) (n : Nat), Plain s g → floatWords i = some n → ((shapeOf i).form.m = 0 ∨ (shapeOf i).form.m = 1) →
      Admits s g i → (∀ q ∈ g.items, s.wave.slots.contains q.1 = true → field q.2.fpctl 13 8 = 0) →
      ∃ out, FloatResult i n out ∧
        exec i s = .next (s.after g (fun e => e.under i Env.nextPc (fun e => e.floated (shapeOf i).form (out e))))) ∧
  (
    ∀ (s : State) (g : Group) (i : Instr) (n : Nat) (h : W64), Plain s g → floatWords i = some n →
      ((shapeOf i).form.m = 0 ∨ (shapeOf i).form.m = 1) → Admits s g i → s.handlerOf g.kh = some h →
      (∀ q ∈ g.items, q.2.inHandler = false ∧ q.2.windows = []) →
      ∃ out, FloatResult i n out ∧
        exec i s = .next (s.after g (fun e =>
          match e.it.guard (shapeOf i).form.g, fpTrap e.it.fpctl (out e).elems with
          | true, some t => e.entered { e.it with fpstat := e.it.fpstat ||| raisedFlags (out e).elems } h t
          | _, _ => e.under i Env.nextPc (fun e => e.floated (shapeOf i).form (out e)))))

/-- The causes in the order of R46, each with its enable bit of FPCTL and the case that raises it. -/
def Sys2Proof.Machine.trapOrder : List (Nat × Nat × (ElemFlags → Bool)) :=
  [(0x0E, 13, ElemFlags.snan), (0x09, 8, fun e => e.flags.getLsbD 0), (0x0A, 9, fun e => e.flags.getLsbD 1),
   (0x0B, 10, fun e => e.flags.getLsbD 2), (0x0C, 11, fun e => e.flags.getLsbD 3), (0x0D, 12, fun e => e.flags.getLsbD 4)]

/-- The floating trap of an item is the first of FPSNAN, FPINV, FPDIV0, FPOVF, FPUNF, FPINX whose enable is set and whose case some element raised; its TRAPADDR is 0 and its TRAPINFO the raised flags with, in bit 5, the lowest such element; with none of them there is no trap. (02 R46, 10 R200) -/
def Obligations.FloatTrapChoice : Prop :=
  ∀ (fpctl : W32) (es : List ElemFlags), es.length ≤ 2 →
    (∀ c b q, trapOrder.find? (fun p => fpctl.getLsbD p.2.1 && es.any p.2.2) = some (c, b, q) →
      ∃ t, fpTrap fpctl es = some t ∧ t.cause = c ∧ t.addr = 0 ∧ t.info.toNat = (raisedFlags es).toNat + 32 * es.findIdx q) ∧
    (trapOrder.find? (fun p => fpctl.getLsbD p.2.1 && es.any p.2.2) = none → fpTrap fpctl es = none)

/-- The sign bits of an operand of a precision: of both elements where it is packed (R31, R206). -/
def Sys2Proof.Machine.signBits : Prec → W64
  | .f64 => 0x8000000000000000
  | .f32 => 0x80000000
  | _ => 0x80008000

/-- The sign forms of R206 as bit operations. -/
def Sys2Proof.Machine.signForms (o : FloatForm) : List (Instr × (W64 → W64 → W64)) :=
  [(.fneg o, fun a _ => a ^^^ signBits o.prec),
   (.fabs o, fun a _ => a &&& ~~~signBits o.prec),
   (.fsgnj o, fun a b => (a &&& ~~~signBits o.prec) ||| (b &&& signBits o.prec)),
   (.fsgnjn o, fun a b => (a &&& ~~~signBits o.prec) ||| (~~~b &&& signBits o.prec)),
   (.fsgnjx o, fun a b => a ^^^ (b &&& signBits o.prec))]

/-- fneg, fabs, fsgnj, fsgnjn and fsgnjx copy the operand with the sign bit of each element inverted, cleared, taken from B, taken inverted from B, or exclusive-ored with that of B, whatever the bits stand for, raise no flag and change nothing else. (10 R206) -/
def Obligations.SignForms : Prop :=
  ∀ (s : State) (g : Group) (o : FloatForm), Plain s g → (o.m = 0 ∨ o.m = 1) → ∀ p ∈ signForms o, Admits s g p.1 →
    exec p.1 s = .next (s.after g (fun e => e.under p.1 Env.nextPc (fun e =>
      let x := p.2 (e.floatA o.toForm o.prec) (e.floatB o.toForm o.prec)
      e.it.writeDest o.d (if o.prec = .f64 then .w2 x else .w (lo32 x)))))

/-- The exact value of a dyadic number. -/
def Sys2Proof.Machine.Dy.val (x : Dy) : ℚ := (x.m : ℚ) * (2 : ℚ) ^ x.e

/-- The value of a finite number. -/
def Sys2Proof.Machine.Flt.val (x : Flt) : ℚ := x.dy.val

def Sys2Proof.Machine.Flt.Finite : Flt → Prop
  | .fin _ _ _ => True
  | _ => False

/-- The nine formats of R32 and R36. -/
def Sys2Proof.Machine.allFormats : List Fmt := [fp64, fp32, fp16, bf16, e5m2, e4m3, e3m2, e2m3, e2m1]

/-- The four fused forms: is the product negated, is the addend (R202)? -/
def Sys2Proof.Machine.fusedForms (o : FloatForm) : List (Instr × Bool × Bool) :=
  [(.fma o, false, false), (.fms o, false, true), (.fnma o, true, false), (.fnms o, true, true)]

/-- ±1. -/
def Sys2Proof.Machine.unit (neg : Bool) : ℚ := if neg then -1 else 1

/-- For each of the nine formats, every encoding that stands for a finite number is the encoding of the sign, significand and exponent that it decodes to. Pick of a value on the grid of spacing 2^g gives the value; otherwise it gives the nearer neighbour and on a tie the even one under RNE, the one of smaller magnitude under RTZ, the lower one under RDN and the higher one under RUP; and it says whether the value changed. (02 R32, 02 R36, 02 R40, 02 R41) -/
def Obligations.PickAndEncode : Prop :=
  (
    ∀ F ∈ allFormats, ∀ x < 2 ^ (F.signBit + 1), ∀ s m e, F.decode x = .fin s m e → F.encode s m e = x) ∧
  (
    ∀ (x : Dy) (g : Int) (rm : Nat), rm < 4 →
      let n : ℚ := (pick x g rm).1
      let q : ℚ := x.val / (2 : ℚ) ^ g
      ((pick x g rm).2 = true ↔ n ≠ q) ∧ |n - q| < 1 ∧
      (rm = 0 → |n - q| ≤ 1 / 2 ∧ (|n - q| = 1 / 2 → (pick x g rm).1 % 2 = 0)) ∧
      (rm = 1 → |n| ≤ |q| ∧ 0 ≤ n * q) ∧ (rm = 2 → n ≤ q) ∧ (rm = 3 → q ≤ n))

/-- For each of the nine formats and each mode, where Round of an exact value overflows not, its result is finite and no finite number of the format is nearer under RNE, between it and the value under RDN and RUP, or of a magnitude between theirs under RTZ; INX is raised exactly where the result differs from the value. (02 R40, 02 R41, 02 R43) -/
def Obligations.RoundIsCorrect : Prop :=
  ∀ F ∈ allFormats, ∀ (x : Dy) (rm : Nat) (zs : Bool), rm < 4 → (F.round x rm zs false false).flags &&& fOVF = 0 →
    let r := F.round x rm zs false false
    let v := (F.decode r.bits).val
    (F.decode r.bits).Finite ∧
    (r.flags &&& fINX ≠ 0 ↔ v ≠ x.val) ∧
    (∀ y, (F.decode y).Finite →
      (rm = 0 → |v - x.val| ≤ |(F.decode y).val - x.val|) ∧
      (rm = 1 → |v| ≤ |x.val| ∧ 0 ≤ v * x.val ∧ (|(F.decode y).val| ≤ |x.val| → |(F.decode y).val| ≤ |v|)) ∧
      (rm = 2 → v ≤ x.val ∧ ((F.decode y).val ≤ x.val → (F.decode y).val ≤ v)) ∧
      (rm = 3 → x.val ≤ v ∧ (x.val ≤ (F.decode y).val → v ≤ (F.decode y).val)))

/-- fma, fms, fnma and fnms of finite numbers give Round of the exact value of plus or minus a times b plus or minus c; an exact zero has the common sign of the two terms where they are zeros of one sign, and otherwise is negative under RDN only. Where no trap is enabled each fused form gives every member with a true guard, element by element of its precision, the fused value of the elements of A, B and C under the member's own DAZ, FTZ and rounding mode, with the elements' flags in FPSTAT; nothing else changes. For operands read under DAZ: of finite numbers eq, ne, lt, le, gt, ge are the relations of their exact values, un is false, or is true, and no flag is raised; where one is a NaN only ne and un hold, and INV is raised by a signalling one, and by any NaN under lt, le, gt and ge. (10 R202, 10 R201, 10 R200, 10 R196, 10 R203, 02 R44) -/
def Obligations.FloatFormsAndComparison : Prop :=
  (
    (
      ∀ F ∈ [fp64, fp32, fp16, bf16], ∀ (np nc daz ftz : Bool) (rm x y z : Nat), rm < 4 →
        (F.read daz x).Finite → (F.read daz y).Finite → (F.read daz z).Finite →
        let p := unit np * (F.read daz x).val * (F.read daz y).val
        let c := unit nc * (F.read daz z).val
        let sp := (F.read daz x).sign ^^ (F.read daz y).sign ^^ np
        let sc := (F.read daz z).sign ^^ nc
        (p + c ≠ 0 → ∃ d : Dy, d.val = p + c ∧ fused np nc F daz ftz rm x y z = F.round d rm false ftz false) ∧
        (p + c = 0 → fused np nc F daz ftz rm x y z = .of (F.zero (if p = 0 ∧ sp = sc then sp else rm == 2)))) ∧
    (
      ∀ (s : State) (g : Group) (o : FloatForm), Plain s g → (o.m = 0 ∨ o.m = 1) →
        (∀ q ∈ g.items, s.wave.slots.contains q.1 = true → field q.2.fpctl 13 8 = 0) → ∀ p ∈ fusedForms o, Admits s g p.1 →
        exec p.1 s = .next (s.after g (fun e => e.under p.1 Env.nextPc (fun e =>
          let rm := match o.rnd with
            | .dynamic => (e.it.fpctl.truncate 2).toNat
            | .rne => 0
            | .rtz => 1
            | .rdn => 2
            | .rup => 3
          let r (k : Nat) : FRes := fused p.2.1 p.2.2 (fmtOf o.prec) (e.it.fpctl.getLsbD 3) (e.it.fpctl.getLsbD 2) rm
            ((elements o.prec (e.floatA o.toForm o.prec)).getD k 0) ((elements o.prec (e.floatB o.toForm o.prec)).getD k 0)
            ((elements o.prec (e.floatC o.toForm o.prec)).getD k 0)
          match o.prec with
          | .f64 => ({ e.it with fpstat := e.it.fpstat ||| (r 0).flags } : Item).writeV2 o.d (BitVec.ofNat 64 (r 0).bits)
          | .f32 => ({ e.it with fpstat := e.it.fpstat ||| (r 0).flags } : Item).writeV o.d (BitVec.ofNat 32 (r 0).bits)
          | _ => ({ e.it with fpstat := e.it.fpstat ||| (r 0).flags ||| (r 1).flags } : Item).writeV o.d
              (BitVec.ofNat 16 (r 1).bits ++ BitVec.ofNat 16 (r 0).bits)))))) ∧
  (
    ∀ F ∈ [fp64, fp32, fp16, bf16], ∀ (daz : Bool) (x y : Nat) (c : FloatCond),
      let a := F.read daz x
      let b := F.read daz y
      let r := floatCompare F daz c x y
      (a.Finite → b.Finite → r.2.flags = 0 ∧ r.2.snan = false ∧
        (r.1 = true ↔ match c with
          | .eq => a.val = b.val
          | .ne => a.val ≠ b.val
          | .lt => a.val < b.val
          | .le => a.val ≤ b.val
          | .gt => b.val < a.val
          | .ge => b.val ≤ a.val
          | .un => False
          | .or => True)) ∧
      (a.isNan = true ∨ b.isNan = true →
        (r.1 = true ↔ c = .ne ∨ c = .un) ∧ r.2.snan = (a.isSnan || b.isSnan) ∧
        r.2.flags = (if r.2.snan = true ∨ c = .lt ∨ c = .le ∨ c = .gt ∨ c = .ge then 1 else 0)))

/-! ### Control flow (08, 19) -/

/-- The branches, with the address that each transfers to (R162). -/
def Sys2Proof.Machine.branches (o : Form) (k : W16) (lit : W32) : List (Instr × (Env → W64)) :=
  [(.bra { o with imm := k }, fun e => e.it.pc + (k.signExtend 64) * 4),
   (.brx o, fun e => e.it.readV2 o.a),
   (.jmpl { o with lit := lit }, fun e => e.it.pc + lit.signExtend 64)]

/-- Where the target of every member is a multiple of 4, each branch completes: members with a true guard are at their target, those with a false one at the next instruction; no register, flag or memory changes. A member with a true guard whose branch target is not a multiple of 4 takes MISALIGN, with the target in TRAPADDR, TRAPINFO 0x100 and TRAPPC the branch's own address; the other members go to their targets. (08 R162, 03 R56, 19 R412) -/
def Obligations.Branches : Prop :=
  (
    ∀ (s : State) (g : Group) (o : Form) (k : W16) (lit : W32), Plain s g → ∀ p ∈ branches o k lit, Admits s g p.1 →
      (∀ q ∈ g.items, s.wave.slots.contains q.1 = true → (p.2 (s.envOf g q.1 q.2)).toNat % 4 = 0) →
      exec p.1 s = .next (s.after g (fun e => e.under p.1 p.2 (fun e => e.it)))) ∧
  (
    ∀ (s : State) (g : Group) (o : Form) (k : W16) (lit : W32) (h : W64), Plain s g → s.handlerOf g.kh = some h →
      (∀ q ∈ g.items, q.2.inHandler = false ∧ q.2.windows = []) → ∀ p ∈ branches o k lit, Admits s g p.1 →
      exec p.1 s = .next (s.after g (fun e =>
        if e.it.guard o.g ∧ (p.2 e).toNat % 4 ≠ 0 then e.entered e.it h { cause := 0x04, addr := p.2 e, info := 0x100 }
        else e.under p.1 p.2 (fun e => e.it))))

/-- The calls, with the target of each (R166); the new frame's size is field D. -/
def Sys2Proof.Machine.calls (o : Form) (k : W16) (lit : W32) : List (Instr × (Env → W64)) :=
  [(.call { o with imm := k }, fun e => e.it.pc + (k.signExtend 64) * 4),
   (.callx o, fun e => e.it.readV2 o.a),
   (.calll { o with lit := lit }, fun e => e.it.pc + lit.signExtend 64)]

/-- The words of the current frame, v32 and up (R164). -/
def Sys2Proof.Machine.frameOf (it : Item) : List W32 := (it.v.toList.drop 32).take it.frame.toNat

/-- Registers v32 and up replaced by words, as far as these go. -/
def Sys2Proof.Machine.withFrame (v : Vector W32 128) (ws : List W32) : Vector W32 128 :=
  Vector.ofFn (fun n => if 32 ≤ n.val ∧ n.val < 32 + ws.length then ws.getD (n.val - 32) 0 else v[n])

/-- A call of the item can be made without a spill: its target is aligned, the stack area has room, and with the new frame of `need` words all
caller frames stay resident, at most four, in 96 words (R165, R166). -/
def Sys2Proof.Machine.Env.CallFits (e : Env) (need : Nat) (t : W64) : Prop :=
  t.toNat % 4 = 0 ∧ e.area.toNat ≤ e.it.stack.toNat ∧ e.it.stack.toNat + 4 * e.it.frame.toNat + 16 + 4 * need ≤ e.area.toNat + 16384 ∧
    e.area.toNat + 16384 < 2 ^ 64 ∧ e.it.frame.toNat ≤ 96 ∧ e.it.callers.length ≤ 3 ∧
    need + ((e.it.callers.map (fun c => c.words.length)).sum + e.it.frame.toNat) ≤ 96

/-- Where the call of every member fits without a spill, call, callx and calll complete: the caller's frame is kept with the address of the next instruction as the newest resident frame, STACK rises by its bytes and the 16 bytes of the link record, FRAME is the new size, the new frame's words are 0, and the item is at the target; no other state changes. Where every member is inside a call and its caller's frame is resident with an aligned return address, ret completes: the frame's words, FRAME and STACK are the caller's again, its record leaves the resident frames, and the item is at the address kept in it; no other state changes. (08 R164, 08 R165, 08 R166, 08 R167) -/
def Obligations.CallsAndReturns : Prop :=
  (
    ∀ (s : State) (g : Group) (o : Form) (k : W16) (lit : W32), Plain s g → ∀ p ∈ calls o k lit, Admits s g p.1 →
      (∀ q ∈ g.items, s.wave.slots.contains q.1 = true → (s.envOf g q.1 q.2).CallFits o.d.toNat (p.2 (s.envOf g q.1 q.2))) →
      exec p.1 s = .next (s.after g (fun e => e.under p.1 p.2 (fun e =>
        { e.it with
          callers := e.it.callers ++ [{ words := frameOf e.it, ret := e.nextPc }]
          stack := e.it.stack + 16 + BitVec.ofNat 64 (4 * e.it.frame.toNat)
          frame := o.d
          v := withFrame e.it.v (List.replicate o.d.toNat 0) })))) ∧
  (
    ∀ (s : State) (g : Group) (o : Form), Plain s g → Admits s g (.ret o) → ∀ (newest : Env → CallerFrame) (older : Env → List CallerFrame),
      (∀ q ∈ g.items, s.wave.slots.contains q.1 = true → let e := s.envOf g q.1 q.2
        e.it.stack ≠ e.area ∧ e.it.callers = older e ++ [newest e] ∧ (newest e).ret.toNat % 4 = 0) →
      exec (.ret o) s = .next (s.after g (fun e => e.under (.ret o) (fun e => (newest e).ret) (fun e =>
        { e.it with
          callers := older e
          stack := e.it.stack - BitVec.ofNat 64 (16 + 4 * (newest e).words.length)
          frame := BitVec.ofNat 7 (newest e).words.length
          v := withFrame e.it.v (newest e).words }))))

/-- Where a call of an item fits and the item has changed none of FRAME, STACK and its resident frames since, a ret brings back the callers, STACK and FRAME of before the call, every register of the caller's window, and the address after the call; v0 to v31 are as the callee left them. (08 R164, 08 R166, 08 R167) -/
def Obligations.ReturnUndoesCall : Prop :=
  ∀ (e : Env) (need : BitVec 7) (t : W64) (v : Vector W32 128), e.CallFits need.toNat t → e.it.pc.toNat % 4 = 0 →
    ∃ it, enterProcedure e need t = .jump it t ∧
      ∃ back, leaveProcedure { e with it := { it with v := v } } = .jump back e.nextPc ∧
        back.callers = e.it.callers ∧ back.stack = e.it.stack ∧ back.frame = e.it.frame ∧
        ∀ n : Fin 128, back.v[n] = if 32 ≤ n.val ∧ n.val < 32 + e.it.frame.toNat then e.it.v[n] else v[n]

/-- nop leaves every member as it was but for its PC. yield moves each member with a true guard to the next instruction, set aside and no longer starved, behind every item that reaches that address in the same cycle. Nothing else changes. brk puts every member with a true guard at its handler's address with TRAPCAUSE.HND set, its ILEN and cause 0x16, TRAPPC at the brk, TRAPADDR 0 and TRAPINFO the 16-bit code; members with a false guard go on; registers, flags and memory are unchanged. (08 R163, 03 R63, 19 R412, 19 R413) -/
def Obligations.PlainControl : Prop :=
  (
    ∀ (s : State) (g : Group) (o : Form), Plain s g →
      (Admits s g (.nop o) → exec (.nop o) s = .next (s.after g (fun e => e.under (.nop o) Env.nextPc (fun e => e.it)))) ∧
      (Admits s g (.yield o) → (∀ q ∈ g.items, s.wave.slots.contains q.1 = true → q.2.aside = none) →
        exec (.yield o) s = .next (s.after g (fun e =>
          if e.it.guard o.g then
            { e.on (.yield o) e.nextPc { e.it with aside := some e.nextPc, starved := false } with joined := 4096 * s.tick + 1 }
          else e.on (.yield o) e.nextPc e.it)))) ∧
  (
    ∀ (s : State) (g : Group) (o : ImmForm) (h : W64), Plain s g → Admits s g (.brk o) → s.handlerOf g.kh = some h →
      (∀ q ∈ g.items, q.2.inHandler = false ∧ q.2.windows = []) →
      exec (.brk o) s = .next (s.after g (fun e =>
        if e.it.guard o.g then e.entered e.it h { cause := 0x16, addr := 0, info := o.imm.zeroExtend 32 }
        else e.on (.brk o) e.nextPc e.it)))

/-- An item outside a handler whose kernel has one gets HND, ILEN and CAUSE in TRAPCAUSE with the other bits 0, its PC in TRAPPC, the trap's TRAPADDR and TRAPINFO, goes on at the handler and has no open window and no wait; its registers, flags and everything else are unchanged. With no handler, or in the handler, no trap register changes and the trap is kept for the kernel's Fault. (19 R412, 19 R413, 19 R418) -/
def Obligations.TrapEntry : Prop :=
  ∀ (it : Item) (h : W64) (now ilen : Nat) (t : Trap), ilen < 4 → t.cause < 256 →
    (it.inHandler = false →
      let x := it.takeTrap (some h) now ilen t
      x.trapCause.toNat = 2 ^ 31 + 256 * ilen + t.cause ∧ x.inHandler = true ∧
      x = { it with
        trapCause := x.trapCause
        trapPc := it.pc
        trapAddr := t.addr
        trapInfo := t.info
        pc := h
        joined := 4096 * now
        windows := []
        wait := .none
        issued := false
        owed := none
        got := none }) ∧
    (it.inHandler = true → it.takeTrap (some h) now ilen t = it.takeTrap none now ilen t) ∧
    (it.takeTrap none now ilen t).trapCause = it.trapCause ∧ (it.takeTrap none now ilen t).trapPc = it.trapPc ∧
    (it.takeTrap none now ilen t).trapAddr = it.trapAddr ∧ (it.takeTrap none now ilen t).trapInfo = it.trapInfo ∧
    (it.takeTrap none now ilen t).fatal = some t

/-- The returns from a handler with the address at which each goes on (R417). -/
def Sys2Proof.Machine.handlerReturns (o : Form) : List (Instr × (Env → W64)) :=
  [(.hret { o with tgt := false }, fun e => e.it.trapPc),
   (.hret { o with tgt := true }, fun e => e.it.readV2 o.a),
   (.hskip o, fun e => e.it.trapPc + BitVec.ofNat 64 (4 * field e.it.trapCause 9 8))]

/-- Where every member is in its handler and its target is a multiple of 4, hret and hskip complete: HND clears and the item goes on at TRAPPC, at the address in a register pair, or past the trapped instruction; every other bit of the trap registers and all other state is unchanged. A member with a true guard that is not in a handler takes ILLEGAL with reason 0x0E at its handler's address. (19 R417, 19 R416, 03 R67) -/
def Obligations.HandlerReturns : Prop :=
  (
    ∀ (s : State) (g : Group) (o : Form), Plain s g → ∀ p ∈ handlerReturns o, Admits s g p.1 →
      (∀ q ∈ g.items, s.wave.slots.contains q.1 = true → q.2.trapCause.getLsbD 31 = true ∧ (p.2 (s.envOf g q.1 q.2)).toNat % 4 = 0) →
      exec p.1 s = .next (s.after g (fun e => e.under p.1 p.2 (fun e => { e.it with trapCause := e.it.trapCause &&& 0x7FFFFFFF })))) ∧
  (
    ∀ (s : State) (g : Group) (o : Form) (h : W64), Plain s g → s.handlerOf g.kh = some h → ∀ p ∈ handlerReturns o, Admits s g p.1 →
      (∀ q ∈ g.items, q.2.inHandler = false ∧ q.2.windows = []) →
      exec p.1 s = .next (s.after g (fun e =>
        if e.it.guard o.g then e.entered e.it h { cause := 0x01, addr := 0, info := 0x0E } else e.on p.1 e.nextPc e.it)))

/-- The wave is one item with a true guard that passes the checks of a form, in a plain group: the case in which a form that reaches beyond its
items acts once. -/
structure Sys2Proof.Machine.Alone (s : State) (g : Group) (i : Instr) (k : Nat) (it : Item) : Prop where
  plain : Plain s g
  only : s.wave.slots = [k]
  here : Table.get? g.items k = some it
  passes : (s.envOf g k it).gate (shapeOf i) (admitted i) = .go
  whole : (shapeOf i).poisoned (s.envOf g k it).it g.badS = none

/-- The item in slot `k` becomes `f` of itself and goes on at the next instruction. -/
def Sys2Proof.Machine.State.goesOn (s : State) (i : Instr) (g : Group) (k : Nat) (it : Item) (f : Item → Item) : State :=
  s.setItem s.wave.gid k ((s.envOf g k it).on i (s.envOf g k it).nextPc (f (s.envOf g k it).it))

/-- No outstanding-operation counter of the item stands above zero (R292). -/
def Sys2Proof.Machine.Item.Idle (it : Item) : Prop := it.copyCount = 0 ∧ it.matrixCount = 0 ∧ it.gatherCount = 0 ∧ it.collCount = 0

/-- For a lone item with idle counters and no deferred trap, exit completes: the item leaves its slot and its group's barriers, its kernel's count of ended items rises by 1, its monitor entries go, and then the barriers and the refill phase are tested. A lone item at its kernel's refill point that has not arrived is counted and goes on; one that has arrived stays at the rfpt, held, until the phase closes; one anywhere else takes ILLEGAL with reason 0x0E. The barriers and the refill phase are then tested. (07 R146, 07 R143, 06 R128, 07 R145, 07 R139) -/
def Obligations.ExitAndRefill : Prop :=
  (
    ∀ (s : State) (g : Group) (o : Form) (k : Nat) (it : Item), Alone s g (.exit o) k it → it.Idle → g.deferred? k = none →
      exec (.exit o) s = .next (State.groupTests
        { ((s.noteEvent s.wave.gid k).modGroup s.wave.gid (fun g => g.leave k)) with
          kernels := Table.modify s.kernels g.kh (fun x => { x with ended := x.ended + 1 })
          monitors := s.monitors.filter (fun p => p.2.gid != s.wave.gid || p.2.slot != k) } s.wave.gid k)) ∧
  (
    ∀ (s : State) (g : Group) (o : Form) (k : Nat) (it : Item) (n : Kernel) (h : W64), Alone s g (.rfpt o) k it → s.kernel? g.kh = some n →
      (it.pc = n.descAddr + n.desc.refillPc → it.arrived = false →
        exec (.rfpt o) s = .next (((s.noteEvent s.wave.gid k).goesOn (.rfpt o) g k it (fun it => { it with arrived := true })).groupTests s.wave.gid k)) ∧
      (it.pc = n.descAddr + n.desc.refillPc → it.arrived = true →
        exec (.rfpt o) s = .next ((s.setItem s.wave.gid k { it with held := true, wait := .refill }).groupTests s.wave.gid k)) ∧
      (it.pc ≠ n.descAddr + n.desc.refillPc → s.handlerOf g.kh = some h → it.inHandler = false → it.windows = [] →
        exec (.rfpt o) s = .next ((s.setItem s.wave.gid k ((s.envOf g k it).entered (s.envOf g k it).it h
          { cause := 0x01, addr := 0, info := 0x0E })).groupTests s.wave.gid k)))

/-! ### Cross-lane forms (08 R169 to R173) -/

/-- The participant at a logical lane: a member of the wave there whose guard is true (R169). -/
def Sys2Proof.Machine.State.atLane? (s : State) (g : Group) (i : Instr) (l : Nat) : Option Item :=
  (s.wave.slots.filterMap (fun j => (Table.get? g.items j).bind (fun it =>
    if j % 32 = l ∧ it.guard (shapeOf i).form.g = true then some it else none))).head?

/-- The wave lies in one slot window, an item once (R156, R169). -/
def Sys2Proof.Machine.OneWindow (s : State) : Prop := s.wave.slots.Nodup ∧ ∃ n, ∀ j ∈ s.wave.slots, j / 32 = n

/-- A mask of lanes. -/
def Sys2Proof.Machine.lanesWhere (f : Nat → Bool) : W32 := BitVec.ofNat 32 (((List.range 32).filter f).map (fun l => 2 ^ l)).sum

/-- The lane from which a shuffle takes a value, in segments of n lanes (R171). -/
def Sys2Proof.Machine.shuffles (o : ShuffleForm) : List (Instr × (Nat → Nat → Nat → Option Nat)) :=
  [(.shfli o, fun l n k => some (l - l % n + k % n)),
   (.shflx o, fun l n k => some (l - l % n + ((l % n) ^^^ (k % n)))),
   (.shflu o, fun l n k => if k ≤ l % n then some (l - k) else none),
   (.shfld o, fun l n k => if l % n + k < n then some (l + k) else none)]

/-- Each member with a true guard gets in D the A of the participant at the lane that the shuffle names within its segment, and its own A where there is none; nothing else changes. vall and vany write 1 to p[D] of each participant where p[A] is 1 in every, in some participant; ballot writes the mask of the lanes whose participant has p[A] 1, match the mask of those whose v[A] equals the item's own; nothing else changes. (08 R169, 08 R171, 08 R172) -/
def Obligations.ShufflesAndVotes : Prop :=
  (
    ∀ (s : State) (g : Group) (o : ShuffleForm), Plain s g → OneWindow s → o.seg.toNat ≤ 5 → ∀ p ∈ shuffles o, Admits s g p.1 →
      exec p.1 s = .next (s.after g (fun e => e.under p.1 Env.nextPc (fun e =>
        let k := if o.rb then (e.it.readV o.b).toNat else o.k.toNat
        let source := ((p.2 (e.slot % 32) (2 ^ o.seg.toNat) k).bind (s.atLane? g p.1)).getD e.it
        e.it.writeV o.d (source.readV o.a))))) ∧
  (
    ∀ (s : State) (g : Group) (o : Form), Plain s g → OneWindow s →
      (Admits s g (.vall o) → exec (.vall o) s = .next (s.after g (fun e => e.under (.vall o) Env.nextPc (fun e =>
        e.it.writeP o.d ((List.range 32).all (fun l => ((s.atLane? g (.vall o) l).map (fun q => q.readP o.a)).getD true)))))) ∧
      (Admits s g (.vany o) → exec (.vany o) s = .next (s.after g (fun e => e.under (.vany o) Env.nextPc (fun e =>
        e.it.writeP o.d ((List.range 32).any (fun l => ((s.atLane? g (.vany o) l).map (fun q => q.readP o.a)).getD false)))))) ∧
      (Admits s g (.ballot o) → exec (.ballot o) s = .next (s.after g (fun e => e.under (.ballot o) Env.nextPc (fun e =>
        e.it.writeV o.d (lanesWhere (fun l => ((s.atLane? g (.ballot o) l).map (fun q => q.readP o.a)).getD false)))))) ∧
      (Admits s g (.matchLanes o) → exec (.matchLanes o) s = .next (s.after g (fun e => e.under (.matchLanes o) Env.nextPc (fun e =>
        e.it.writeV o.d (lanesWhere (fun l => ((s.atLane? g (.matchLanes o) l).map (fun q => q.readV o.a == e.it.readV o.a)).getD false)))))))

/-- An integer operation of a scan on 32-bit or 64-bit values (R173). -/
def Sys2Proof.Machine.foldInt {w : Nat} (op : IntFold) (uns : Bool) (x y : BitVec w) : BitVec w :=
  match op with
  | .add => x + y
  | .and => x &&& y
  | .or => x ||| y
  | .xor => x ^^^ y
  | .min => if uns then (if x.toNat ≤ y.toNat then x else y) else (if x.toInt ≤ y.toInt then x else y)
  | .max => if uns then (if y.toNat ≤ x.toNat then x else y) else (if y.toInt ≤ x.toInt then x else y)

/-- The values of the participants of a lane's segment that meet a condition on their lanes, by lane ascending. -/
def Sys2Proof.Machine.State.segment {α : Type} (s : State) (g : Group) (i : Instr) (n l : Nat) (q : Nat → Bool) (f : Item → α) : List α :=
  (List.range 32).filterMap (fun j => if j / n = l / n ∧ q j = true then (s.atLane? g i j).map f else none)

/-- A fold of a list that is not empty. -/
def Sys2Proof.Machine.foldList {α : Type} (f : α → α → α) : List α → Option α
  | [] => none
  | x :: xs => some (xs.foldl f x)

/-- The identity of an operation (R173). -/
def Sys2Proof.Machine.identityOf (w : Nat) (op : IntFold) (uns : Bool) : BitVec w :=
  match op with
  | .and => BitVec.allOnes w
  | .min => if uns then BitVec.allOnes w else BitVec.ofNat w (2 ^ (w - 1) - 1)
  | .max => if uns then 0 else BitVec.ofNat w (2 ^ (w - 1))
  | _ => 0

/-- wscan writes to D of each participant the fold of A over the participants of its segment at lanes not above its own, or below it when exclusive; wred the fold over the whole segment; of 32-bit or 64-bit values, an empty list giving the operation's identity; nothing else changes. Where no trap is enabled wfred writes to D of each participant the floating reduction of A over the participants of its segment in lane order, by the tree of R53, and ORs the flags raised in it into FPSTAT; all participants of a segment get the same; nothing else changes. (08 R173, 02 R53, 02 R46) -/
def Obligations.ScansAndReductions : Prop :=
  (
    ∀ (s : State) (g : Group) (o : ScanForm), Plain s g → OneWindow s → o.seg.toNat ≤ 5 →
      ∀ p ∈ ([(.wscan o, fun l j => if o.exc then decide (j < l) else decide (j ≤ l)), (.wred o, fun _ _ => true)] :
          List (Instr × (Nat → Nat → Bool))), Admits s g p.1 →
      exec p.1 s = .next (s.after g (fun e => e.under p.1 Env.nextPc (fun e =>
        if o.w64 then
          e.it.writeV2 o.d ((foldList (foldInt o.op o.uns) (s.segment g p.1 (2 ^ o.seg.toNat) (e.slot % 32) (p.2 (e.slot % 32))
            (fun q => q.readV2 o.a))).getD (identityOf 64 o.op o.uns))
        else
          e.it.writeV o.d ((foldList (foldInt o.op o.uns) (s.segment g p.1 (2 ^ o.seg.toNat) (e.slot % 32) (p.2 (e.slot % 32))
            (fun q => q.readV o.a))).getD (identityOf 32 o.op o.uns)))))) ∧
  (
    ∀ (s : State) (g : Group) (o : FloatScanForm), Plain s g → OneWindow s → o.seg.toNat ≤ 5 → Admits s g (.wfred o) →
      (∀ q ∈ g.items, s.wave.slots.contains q.1 = true → field q.2.fpctl 13 8 = 0) →
      exec (.wfred o) s = .next (s.after g (fun e => e.under (.wfred o) Env.nextPc (fun e =>
        let r := floatReduce (if o.f64 then fp64 else fp32) o.op (s.segment g (.wfred o) (2 ^ o.seg.toNat) (e.slot % 32) (fun _ => true)
          (fun q => if o.f64 then (q.readV2 o.a).toNat else (q.readV o.a).toNat))
        ({ e.it with fpstat := e.it.fpstat ||| r.flags } : Item).writeDest o.d
          (if o.f64 then .w2 (BitVec.ofNat 64 r.bits) else .w (BitVec.ofNat 32 r.bits))))))

/-! ### Scratchpad (12 R254, R257, R258, R269 to R276) -/

/-- A load's destination (R271): 1 and 2 bytes extended, 4 bytes as they are, pairs and quads with the lowest address in the first register. -/
def Sys2Proof.Machine.Item.loaded (it : Item) (d : BitVec 7) (w : Width) (sx : Bool) (bs : List W8) : Item :=
  let x := leNat bs
  match w with
  | .b8 => it.writeV d (if sx then (BitVec.ofNat 8 x).signExtend 32 else BitVec.ofNat 32 x)
  | .b16 => it.writeV d (if sx then (BitVec.ofNat 16 x).signExtend 32 else BitVec.ofNat 32 x)
  | .b32 => it.writeV d (BitVec.ofNat 32 x)
  | .b64 => it.writeV2 d (BitVec.ofNat 64 x)
  | .b128 => it.writeV4 d (BitVec.ofNat 128 x)

/-- The bytes that a store sends (R272), lowest word first. -/
def Sys2Proof.Machine.Item.stored (it : Item) (d : BitVec 7) (w : Width) : List W8 :=
  match w with
  | .b8 => leBytes 1 (it.readV d).toNat
  | .b16 => leBytes 2 (it.readV d).toNat
  | .b32 => leBytes 4 (it.readV d).toNat
  | .b64 => leBytes 8 (it.readV2 d).toNat
  | .b128 => leBytes 16 (it.readV4 d).toNat

/-- Bytes of an access of a width. -/
def Sys2Proof.Machine.bytesOfWidth : Width → Nat
  | .b8 => 1
  | .b16 => 2
  | .b32 => 4
  | .b64 => 8
  | .b128 => 16

/-- The effective address of a memory form (R269). -/
def Sys2Proof.Machine.Env.effective (e : Env) (o : MemForm) : W64 := e.address o.m o.a o.b o.idx o.scale o.off

/-- An access of `n` bytes lies in the group's allocation, is aligned, and meets no error; and the context keeps no log. -/
structure Sys2Proof.Machine.SpadReady (s : State) (g : Group) (ea : W64) (n : Nat) : Prop where
  seated : g.isLanding = false
  inside : ea.toNat + n ≤ g.scratchBytes
  aligned : ea.toNat % n = 0
  whole : g.spadPoisoned ea.toNat n = false
  unlogged : (s.hind g.ctx).mode = .off

/-- Does no item wait for a granule's bit? -/
def Sys2Proof.Machine.Group.NoWaiter (g : Group) (x : Nat) : Prop :=
  ∀ p ∈ g.items, match p.2.wait with
    | .granuleFull off _ _ => off / 16 ≠ x / 16
    | .granuleEmpty off _ _ => off / 16 ≠ x / 16
    | _ => True

/-- For a lone item and an access inside its group's allocation: ld writes the bytes, extended, to D; st writes the bytes of D; ldfe on a Full granule does as ld and with .clr empties it, on an Empty one waits; stfe on an Empty granule does as st and fills it, on a Full one waits. Other registers, bytes and bits are unchanged. (12 R269, 12 R271, 12 R272, 12 R258) -/
def Obligations.ScratchForms : Prop :=
  ∀ (s : State) (g : Group) (o : MemForm) (k : Nat) (it : Item),
    let e := s.envOf g k it
    let ea := e.effective o
    let n := bytesOfWidth o.width
    2 ≤ o.m.toNat → SpadReady s g ea n →
    (Alone s g (.ld o) k it →
      exec (.ld o) s = .next (s.goesOn (.ld o) g k it (fun it => it.loaded o.d o.width o.sx (g.spadRead ea.toNat n)))) ∧
    (Alone s g (.st o) k it →
      exec (.st o) s = .next ((s.modGroup s.wave.gid (fun g => g.spadWrite ea.toNat (it.stored o.d o.width))).goesOn (.st o) g k it id)) ∧
    (Alone s g (.ldfe o) k it → g.isFull ea.toNat = true → g.NoWaiter ea.toNat →
      exec (.ldfe o) s = .next ((s.goesOn (.ldfe o) g k it (fun it => it.loaded o.d o.width o.sx (g.spadRead ea.toNat n))).modGroup s.wave.gid
        (fun g => if o.clr then g.setFull ea.toNat false else g))) ∧
    (Alone s g (.ldfe o) k it → g.isFull ea.toNat = false →
      exec (.ldfe o) s = .next (s.setItem s.wave.gid k { it with wait := .granuleFull ea.toNat s.tick o })) ∧
    (Alone s g (.stfe o) k it → g.isFull ea.toNat = false → g.NoWaiter ea.toNat →
      exec (.stfe o) s = .next ((s.modGroup s.wave.gid (fun g => (g.spadWrite ea.toNat (it.stored o.d o.width)).setFull ea.toNat true)).goesOn
        (.stfe o) g k it id)) ∧
    (Alone s g (.stfe o) k it → g.isFull ea.toNat = true →
      exec (.stfe o) s = .next (s.setItem s.wave.gid k { it with wait := .granuleEmpty ea.toNat s.tick o }))

/-- The new word of an atomic operation on 32 or 64 bits (R274); `c` stands for compare and swap. -/
def Sys2Proof.Machine.newWord {w : Nat} (op : Nat) (uns : Bool) (old b c : BitVec w) : BitVec w :=
  match op with
  | 0 => old + b
  | 1 => old &&& b
  | 2 => old ||| b
  | 3 => old ^^^ b
  | 4 => if uns then (if old.toNat ≤ b.toNat then old else b) else (if old.toInt ≤ b.toInt then old else b)
  | 5 => if uns then (if b.toNat ≤ old.toNat then old else b) else (if b.toInt ≤ old.toInt then old else b)
  | 6 => b
  | 7 => if 0 < old.toInt then old - 1 else old
  | 8 => BitVec.ofNat w (seqAdd (fp32.decode old.toNat) (fp32.decode b.toNat)).bits
  | _ => if old = b then c else old

/-- The flags that an atomic raises: those of fadd. -/
def Sys2Proof.Machine.atomicFlags {w : Nat} (op : Nat) (old b : BitVec w) : BitVec 5 :=
  if op = 8 then (seqAdd (fp32.decode old.toNat) (fp32.decode b.toNat)).flags else 0

/-- The scratchpad atomics by operation; 9 is compare and swap. -/
def Sys2Proof.Machine.spadAtomics (o : AtomForm) : List (Instr × Nat) :=
  [(.satomAdd o, 0), (.satomAnd o, 1), (.satomOr o, 2), (.satomXor o, 3), (.satomMin o, 4), (.satomMax o, 5), (.satomXchg o, 6),
   (.satomDecp o, 7), (.satomFadd o, 8), (.scas o, 9)]

/-- For a lone item each of the ten forms on an aligned word of its allocation writes the operation's result over the word, gives the old word in D, ORs the flags of fadd into FPSTAT, and changes nothing else. (12 R265, 12 R274, 12 R269) -/
def Obligations.ScratchAtomics : Prop :=
  ∀ (s : State) (g : Group) (o : AtomForm) (k : Nat) (it : Item),
    let e := s.envOf g k it
    let ea := e.address o.m o.a 0 false 0 o.off
    2 ≤ o.m.toNat → SpadReady s g ea 4 → ∀ p ∈ spadAtomics o, Alone s g p.1 k it →
      let old : W32 := BitVec.ofNat 32 (leNat (g.spadRead ea.toNat 4))
      let b := it.readV o.b
      exec p.1 s = .next ((s.modGroup s.wave.gid (fun g =>
        g.spadWrite ea.toNat (leBytes 4 (newWord p.2 o.uns old b (it.readV o.c)).toNat))).goesOn p.1 g k it (fun it =>
          { it.writeV o.d old with fpstat := it.fpstat ||| atomicFlags p.2 old b }))

/-! ### Global memory (12, 13) -/

/-- An access of a group's item to HBM4 that can be served at once: it is aligned, its address is in the core's TLB with the right it needs, the
context's access table grants it, no budget is empty, no access is in flight, the place of service holds every token of the line, the line holds
no error and was last written under the context's key, no cluster copy stands in the way, and the context keeps no log. -/
structure Sys2Proof.Machine.Reachable (s : State) (g : Group) (ea : W64) (n pa slice : Nat) (write : Bool) : Prop where
  aligned : ea.toNat % n = 0
  canonical : canonicalVa ea = true
  mapped : ∃ t, s.tlb? g.core g.ctx ea = some t ∧ (if write then t.w else t.r) = true ∧ pa = t.addr + ea.toNat % 2 ^ t.logSize
  granted : s.granted g.ctx pa n false write = true
  hbm : s.target? pa = some .hbm
  budget : ∀ c < 4, s.mayCharge g.core g.ctx c = true
  quiet : s.accesses = []
  tokens : (s.l2At slice pa).tokens = 5
  unpinned : (s.l2At slice pa).pins = 0
  clean : s.memory.poisoned (lineOf pa) = false
  bound : s.keyState (s.context g.ctx).key = 1
  held : s.memory.tag (lineOf pa) = s.keyTag (s.context g.ctx).key
  uncached : Table.get? (s.l1Of (clusterOf g.core)) (lineOf pa) = none
  unlogged : (s.hind g.ctx).mode = .off

/-- Registers of an item other than v, FPSTAT and the PC are unchanged. -/
def Sys2Proof.Machine.Item.Rest (a b : Item) : Prop :=
  a.p = b.p ∧ a.frame = b.frame ∧ a.stack = b.stack ∧ a.callers = b.callers ∧ a.fpctl = b.fpctl ∧ a.ictl = b.ictl ∧ a.istat = b.istat ∧
    a.trapCause = b.trapCause ∧ a.trapPc = b.trapPc ∧ a.trapAddr = b.trapAddr ∧ a.trapInfo = b.trapInfo ∧ a.copyCount = b.copyCount ∧
    a.matrixCount = b.matrixCount ∧ a.gatherCount = b.gatherCount ∧ a.collCount = b.collCount ∧ a.member = b.member ∧ a.arr = b.arr ∧
    a.drop = b.drop ∧ a.sync = b.sync ∧ a.ports = b.ports ∧ a.itemix = b.itemix ∧ a.cohort = b.cohort ∧ a.arrived = b.arrived

/-- Only item `k` of a group has changed, of all groups, their registers and scratchpads, and of all contexts. -/
def Sys2Proof.Machine.OnlyItem (s t : State) (gid k : Nat) : Prop :=
  (∀ m, m ≠ gid → t.group? m = s.group? m) ∧
  (∃ g h, s.group? gid = some g ∧ t.group? gid = some h ∧ { h with items := [] } = { g with items := [] } ∧
    ∀ j, j ≠ k → Table.get? h.items j = Table.get? g.items j) ∧
  t.contexts = s.contexts

/-- The slice that serves a wave's access to a line, and the one at which an atomic is done: the home slice for the wide scopes (R260, R265). -/
def Sys2Proof.Machine.sliceFor (g : Group) (pa : Nat) : Nat := servingSlice (dieOfCore g.core) pa
def Sys2Proof.Machine.atomicSlice (g : Group) (pa : Nat) (sc : Scope) : Nat :=
  if sc = .grp ∨ sc = .clu then servingSlice (dieOfCore g.core) pa else homeSlice pa

/-- The global atomics by operation; 9 is compare and swap. -/
def Sys2Proof.Machine.globalAtomics (o : AtomForm) : List (Instr × Nat) :=
  [(.atomAdd o, 0), (.atomAnd o, 1), (.atomOr o, 2), (.atomXor o, 3), (.atomMin o, 4), (.atomMax o, 5), (.atomXchg o, 6), (.atomDecp o, 7),
   (.atomFadd o, 8), (.acas o, 9)]

/-- For a lone item, ld and ldu of a reachable address of HBM4 send an access, and once it is served the item has the bytes, extended, in D, is past the load and waits for nothing; memory, every other register, item, group and context is unchanged. (12 R269, 12 R271, 13 R281, 16 R357) -/
def Obligations.GlobalLoads : Prop :=
  ∀ (s : State) (g : Group) (o : MemForm) (k : Nat) (it : Item) (pa : Nat),
    let ea := (s.envOf g k it).effective o
    let n := bytesOfWidth o.width
    o.m.toNat < 2 → s.wave.ilen = 2 → it.storesOut = [] → it.windows = [] → Reachable s g ea n pa (sliceFor g pa) false →
    ∀ i ∈ ([.ld o, .ldu o] : List Instr), Alone s g i k it →
    ∃ t u, exec i s = .next t ∧ exec (.memoryAccessServed s.nextId) t = .next u ∧ u.memory = s.memory ∧ OnlyItem s u s.wave.gid k ∧
      ∃ it', u.item? s.wave.gid k = some it' ∧ it'.pc = it.pc + 8 ∧ it'.wait = .none ∧ it'.fpstat = it.fpstat ∧ it'.Rest it ∧
        it'.v = (it.loaded o.d o.width o.sx (s.memory.read (s.keyTag (s.context g.ctx).key) pa n)).v

/-- For a lone item a st to a reachable address of HBM4 completes with no register changed and memory as it was; once the access is served its bytes stand at the address, every other byte of memory reads as before, and every register is still unchanged. (12 R269, 12 R272, 13 R281, 16 R357) -/
def Obligations.GlobalStores : Prop :=
  ∀ (s : State) (g : Group) (o : MemForm) (k : Nat) (it : Item) (pa : Nat),
    let ea := (s.envOf g k it).effective o
    let n := bytesOfWidth o.width
    let tag := s.keyTag (s.context g.ctx).key
    o.m.toNat < 2 → s.wave.ilen = 2 → it.storesOut = [] → it.windows = [] → Reachable s g ea n pa (sliceFor g pa) true →
    Alone s g (.st o) k it →
    ∃ t u, exec (.st o) s = .next t ∧ exec (.memoryAccessServed s.nextId) t = .next u ∧ t.memory = s.memory ∧ OnlyItem s u s.wave.gid k ∧
      (∃ it', t.item? s.wave.gid k = some it' ∧ it'.pc = it.pc + 8 ∧ it'.wait = .none ∧ it'.v = it.v ∧ it'.fpstat = it.fpstat ∧ it'.Rest it) ∧
      (∃ it', u.item? s.wave.gid k = some it' ∧ it'.pc = it.pc + 8 ∧ it'.wait = .none ∧ it'.v = it.v ∧ it'.fpstat = it.fpstat ∧ it'.Rest it) ∧
      u.memory.read tag pa n = it.stored o.d o.width ∧
      ∀ x, (x < pa ∨ pa + n ≤ x) → ∀ k', u.memory.byte k' x = s.memory.byte k' x

/-- For a lone item each of the ten forms on a reachable word or pair of HBM4 sends an access, and once it is served the operation's result stands in memory, the old value in D, the flags of fadd in FPSTAT, and the item is past the form; every other byte, register, item, group and context is unchanged. (12 R265, 12 R269, 12 R274, 13 R281) -/
def Obligations.GlobalAtomics : Prop :=
  ∀ (s : State) (g : Group) (o : AtomForm) (k : Nat) (it : Item) (pa : Nat),
    let ea := (s.envOf g k it).address o.m o.a 0 false 0 o.off
    let n := if o.w64 then 8 else 4
    let tag := s.keyTag (s.context g.ctx).key
    o.m.toNat < 2 → s.wave.ilen = 2 → it.storesOut = [] → it.windows = [] → Reachable s g ea n pa (atomicSlice g pa o.scope) true →
    ∀ p ∈ globalAtomics o, Alone s g p.1 k it → (p.2 = 8 → o.w64 = false) →
    ∃ t u, exec p.1 s = .next t ∧ exec (.memoryAccessServed s.nextId) t = .next u ∧ OnlyItem s u s.wave.gid k ∧
      (∀ x, (x < pa ∨ pa + n ≤ x) → ∀ k', u.memory.byte k' x = s.memory.byte k' x) ∧
      ∃ it', u.item? s.wave.gid k = some it' ∧ it'.pc = it.pc + 8 ∧ it'.wait = .none ∧ it'.Rest it ∧
        (let x := leNat (s.memory.read tag pa n)
         if o.w64 then
          it'.v = (it.writeV2 o.d (BitVec.ofNat 64 x)).v ∧ it'.fpstat = it.fpstat ∧
            leNat (u.memory.read tag pa n) = (newWord p.2 o.uns (BitVec.ofNat 64 x) (it.readV2 o.b) (it.readV2 o.c)).toNat
         else
          it'.v = (it.writeV o.d (BitVec.ofNat 32 x)).v ∧ it'.fpstat = it.fpstat ||| atomicFlags p.2 (BitVec.ofNat 32 x) (it.readV o.b) ∧
            leNat (u.memory.read tag pa n) = (newWord p.2 o.uns (BitVec.ofNat 32 x) (it.readV o.b) (it.readV o.c)).toNat)

/-- For a lone item, ld and st whose address is no multiple of their bytes trap MISALIGN, and an aligned one that reaches beyond the group's bytes, or any in a landing group, traps PROT; TRAPADDR is the offset and TRAPINFO names the scratchpad, the width and the direction; memory and the scratchpad are unchanged. For a lone item, ld and st of a mapped, aligned address that the access table of the item's context does not grant trap PROT with the virtual address in TRAPADDR; no access is sent and nothing else changes. (12 R269, 12 R270, 19 R412, 04 R88) -/
def Obligations.AccessTraps : Prop :=
  (
    ∀ (s : State) (g : Group) (o : MemForm) (k : Nat) (it : Item) (h : W64),
      let e := s.envOf g k it
      let ea := e.effective o
      let n := bytesOfWidth o.width
      let info (w : Nat) : W32 := BitVec.ofNat 32 (512 + 32 * Nat.log2 n + w)
      2 ≤ o.m.toNat → s.handlerOf g.kh = some h → it.inHandler = false → it.windows = [] →
      ∀ p ∈ ([(.ld o, 0), (.st o, 1)] : List (Instr × Nat)), Alone s g p.1 k it →
        (ea.toNat % n ≠ 0 → exec p.1 s = .next (s.setItem s.wave.gid k (e.entered e.it h { cause := 0x04, addr := ea, info := info p.2 }))) ∧
        (ea.toNat % n = 0 → g.isLanding = true ∨ g.scratchBytes < ea.toNat + n →
          exec p.1 s = .next (s.setItem s.wave.gid k (e.entered e.it h { cause := 0x06, addr := ea, info := info p.2 })))) ∧
  (
    ∀ (s : State) (g : Group) (o : MemForm) (k : Nat) (it : Item) (h : W64) (pa : Nat),
      let e := s.envOf g k it
      let ea := e.effective o
      let n := bytesOfWidth o.width
      o.m.toNat < 2 → s.handlerOf g.kh = some h → it.inHandler = false → it.windows = [] → ea.toNat % n = 0 → canonicalVa ea = true →
      ∀ p ∈ ([(.ld o, false), (.st o, true)] : List (Instr × Bool)), Alone s g p.1 k it →
      (∃ t, s.tlb? g.core g.ctx ea = some t ∧ (if p.2 then t.w else t.r) = true ∧ pa = t.addr + ea.toNat % 2 ^ t.logSize) →
      (∀ r ∈ (s.context g.ctx).regions, r.grants pa n false p.2 = false) →
      exec p.1 s = .next (s.setItem s.wave.gid k (e.entered e.it h
        { cause := 0x06, addr := ea, info := BitVec.ofNat 32 (32 * Nat.log2 n + boolNat p.2) })))

/-- pf completes in every member whatever its address, and nothing but the PC changes. (12 R273) -/
def Obligations.PrefetchDoesNothing : Prop :=
  ∀ (s : State) (g : Group) (o : PrefetchForm), Plain s g → Admits s g (.pf o) →
    exec (.pf o) s = .next (s.after g (fun e => e.under (.pf o) Env.nextPc (fun e => e.it)))

/-- After a write of bytes to the scratchpad those addresses read the bytes, every other address and every full-empty bit is as before, and nothing else of the group changes but the error marks of words written whole. After a write under a key tag the written addresses read the bytes under that tag, every address of a line the write does not touch reads as before under every tag, and an address of a written line reads as before where the line was already held under that tag. (12 R254, 12 R271, 12 R272, 12 R253, 04 R87) -/
def Obligations.ReadAfterWrite : Prop :=
  (
    ∀ (g : Group) (x : Nat) (bs : List W8) (a : Nat),
      (g.spadWrite x bs).spadRead a 1 = [if x ≤ a ∧ a < x + bs.length then bs.getD (a - x) 0 else Table.read 0 g.scratch a] ∧
      { g.spadWrite x bs with scratch := g.scratch, spadPoison := g.spadPoison } = g) ∧
  (
    ∀ (m : Memory) (tag a : Nat) (bs : List W8) (x : Nat),
      (a ≤ x → x < a + bs.length → (m.write tag a bs).byte tag x = bs.getD (x - a) 0) ∧
      ((∀ j < bs.length, lineOf (a + j) ≠ lineOf x) → ∀ k, (m.write tag a bs).byte k x = m.byte k x) ∧
      ((x < a ∨ a + bs.length ≤ x) → m.tag (lineOf x) = tag → ∀ k, (m.write tag a bs).byte k x = m.byte k x))

/-- The fences: are reads acquired, writes released, is SC visited (R295, R296)? -/
def Sys2Proof.Machine.fences (o : ScopeForm) : List (Instr × Bool × Bool × Bool) :=
  [(.fenceAcq o, true, false, false), (.fenceRel o, false, true, false), (.fenceAr o, true, true, false), (.fenceSc o, true, true, true)]

/-- VIEW after a fence (R282, R288): at die, dev and sys a release raises it to REL and an acquire to SEEN; fence.sc raises it to the largest
stamp of the sequencers it visits. -/
def Sys2Proof.Machine.viewAfter (s : State) (g : Group) (it : Item) (sc : Scope) (acq rel seq : Bool) : Nat :=
  let wide : Bool := sc == .die || sc == .dev || sc == .sys
  let v := if rel && wide then max it.view it.rel else it.view
  let v := if seq then ((sequencers g.core sc).map (fun q => Table.read 0 s.scStamps q)).foldl max v else v
  if acq && wide then max v it.seen else v

/-- For a lone item with no store of its own on the way, each fence completes: VIEW becomes what its release, its place in SC and its acquire make it; an acquire at die or wider leaves its cluster no V copy whose lease ends before VIEW, and none of the context's key at sys; memory and every architectural register, group and context are unchanged. (13 R282, 13 R288, 13 R295, 13 R296) -/
def Obligations.Fences : Prop :=
  ∀ (s : State) (g : Group) (o : ScopeForm) (k : Nat) (it : Item), it.storesOut = [] → ∀ p ∈ fences o, Alone s g p.1 k it →
    ∃ t, exec p.1 s = .next t ∧ t.memory = s.memory ∧ OnlyItem s t s.wave.gid k ∧
      t.item? s.wave.gid k = some ((s.envOf g k it).on p.1 (s.envOf g k it).nextPc
        { it with wait := .none, view := viewAfter s g it o.scope p.2.1 p.2.2.1 p.2.2.2 }) ∧
      (p.2.1 = true → o.scope ≠ .grp → o.scope ≠ .clu → ∀ l ∈ t.l1Of (clusterOf g.core), l.2.state = .valid →
        viewAfter s g it o.scope p.2.1 p.2.2.1 p.2.2.2 ≤ l.2.lend ∧ (o.scope = .sys → l.2.key % 4096 ≠ (s.context g.ctx).key))

/-! ### Barriers and waits (14) -/

/-- The arrival of an item of its group at barrier `k` is counted: MEMBER and ARR of the item, ARRIVED and EVENT of the barrier (R301); a
recording or a replay notes it as the event last counted (R308). -/
def Sys2Proof.Machine.State.arrivalAt (s : State) (k slot : Nat) : State :=
  (s.noteEvent s.wave.gid slot).modGroup s.wave.gid (fun g => g.countArrival k slot)

/-- MEMBER, ARR and DROP of an item at a barrier: Waiting, Arrived, Dropped, Late (R301, R309). -/
def Sys2Proof.Machine.Item.Waits (it : Item) (k : Nat) : Prop := it.member.getLsbD k = true ∧ it.arr.getLsbD k = false ∧ it.drop.getLsbD k = false
def Sys2Proof.Machine.Item.HasArrived (it : Item) (k : Nat) : Prop := it.arr.getLsbD k = true
def Sys2Proof.Machine.Item.HasDropped (it : Item) (k : Nat) : Prop := it.arr.getLsbD k = false ∧ it.drop.getLsbD k = true

/-- For a lone item Waiting at a barrier: bar.arrive counts it and it goes on; bar.sync counts it and it waits for the closure; bar.wait lets it go on, and waits where it has arrived; bar.drop takes it out of the barrier; after each the barriers' and the refill phase's closures are tested. bar.test writes 1 where the item has not arrived in the open phase, else 0. (14 R301, 14 R302, 14 R305) -/
def Obligations.BarrierForms : Prop :=
  ∀ (s : State) (g : Group) (o : BarForm) (k : Nat) (it : Item),
    let b := o.bar.toNat
    let gid := s.wave.gid
    (it.Waits b → Alone s g (.barArrive o) k it →
      exec (.barArrive o) s = .next (((s.arrivalAt b k).modItem gid k (fun x => (s.envOf g k it).on (.barArrive o) (s.envOf g k it).nextPc
        { x with wait := .none })).groupTests gid k)) ∧
    (it.Waits b → it.sync.getLsbD b = false → it.got = none → Alone s g (.barSync o) k it →
      exec (.barSync o) s = .next (((s.arrivalAt b k).modItem gid k (fun x => { x with wait := .barrier b, sync := x.sync ||| (1#16 <<< b) })).groupTests
        gid k)) ∧
    (Alone s g (.barWait o) k it → ¬ it.HasArrived b → exec (.barWait o) s = .next ((s.goesOn (.barWait o) g k it id).groupTests gid k)) ∧
    (Alone s g (.barWait o) k it → it.HasArrived b →
      exec (.barWait o) s = .next ((s.setItem gid k { it with wait := .barrier b }).groupTests gid k)) ∧
    (it.Waits b → Alone s g (.barDrop o) k it →
      exec (.barDrop o) s = .next ((((s.noteEvent gid k).modGroup gid (fun g => g.modBarrier b (fun x => { x with event := true }))).goesOn (.barDrop o) g k it
        (fun it => { it with
          drop := it.drop ||| (1#16 <<< b)
          member := it.member &&& ~~~(1#16 <<< b) })).groupTests gid k)) ∧
    (Plain s g → Admits s g (.barTest o) → exec (.barTest o) s = .next (s.after g (fun e => e.under (.barTest o) Env.nextPc (fun e =>
      e.it.writeP o.d (!e.it.arr.getLsbD b)))))

/-- Where no other present item of the group is Waiting at a barrier or blocked there, and no refill closure is due, the bar.sync of the last Waiting item closes the phase: CLOSED rises by 1, ARRIVED is 0, the item is past its bar.sync and waits for nothing. A lone item that has dropped out of a barrier takes BARRIER at bar.arrive and bar.sync, with KIND 1 and the barrier's number in TRAPINFO; it is not counted; closures are then tested. (14 R302, 14 R305, 14 R307) -/
def Obligations.BarrierPhases : Prop :=
  (
    ∀ (s : State) (g : Group) (o : BarForm) (k : Nat) (it : Item),
      let b := o.bar.toNat
      it.Waits b → it.sync.getLsbD b = false → it.got = none → it.supply = none → it.arrived = false → Alone s g (.barSync o) k it →
      Table.sorted g.items = true → (s.hind g.ctx).mode = .off →
      (∀ p ∈ g.items, p.1 ≠ k → ¬ p.2.Waits b ∧ p.2.blockedAt b = false) →
      ∃ t h it', exec (.barSync o) s = .next t ∧ t.group? s.wave.gid = some h ∧ (h.barrier b).closed = (g.barrier b).closed + 1 ∧
        (h.barrier b).arrived = 0 ∧ Table.get? h.items k = some it' ∧ it'.pc = it.pc + 8 ∧ it'.wait = .none ∧ it'.v = it.v) ∧
  (
    ∀ (s : State) (g : Group) (o : BarForm) (k : Nat) (it : Item) (h : W64),
      it.HasDropped o.bar.toNat → it.sync.getLsbD o.bar.toNat = false → it.got = none → s.handlerOf g.kh = some h → it.inHandler = false → it.windows = [] →
      ∀ i ∈ ([.barArrive o, .barSync o] : List Instr), Alone s g i k it →
        exec i s = .next ((s.setItem s.wave.gid k ((s.envOf g k it).entered (s.envOf g k it).it h
          { cause := 0x11, addr := 0, info := BitVec.ofNat 32 (256 * o.bar.toNat + 1) })).groupTests s.wave.gid k))

/-- A lone Waiting item whose bar.red meets no other kind in the open phase is counted with its value and waits; executed again after the closure it writes the reduction to D, ORs the flags raised into FPSTAT where no trap is enabled, and goes on. The reduction of a phase folds the supplied values by LSLOT ascending under its operation, on 32-bit or 64-bit values, and raises no flag where it is an integer one. (14 R310, 14 R311, 08 R173) -/
def Obligations.BarrierReductions : Prop :=
  (
    ∀ (s : State) (g : Group) (o : BarRedForm) (k : Nat) (it : Item), Alone s g (.barRed o) k it →
      let b := o.bar.toNat
      let gid := s.wave.gid
      let value := if redWide o.kind then it.readV2 o.a else (it.readV o.a).zeroExtend 64
      (it.Waits b → it.sync.getLsbD b = false → ((g.barrier b).kind = none ∨ (g.barrier b).kind = some o.kind) →
        exec (.barRed o) s = .next ((((s.arrivalAt b k).modGroup gid (fun g => g.modBarrier b (fun x => { x with kind := some o.kind }))).modItem gid k
          (fun x => { x with
            wait := .barrier b
            sync := x.sync ||| (1#16 <<< b)
            supply := some (b, value)
            red := some o })).groupTests gid k)) ∧
      (∀ v r, it.sync.getLsbD b = true → it.got = some (v, r) → field it.fpctl 13 8 = 0 →
        exec (.barRed o) s = .next ((s.goesOn (.barRed o) g k it (fun it =>
          ({ it with
            sync := it.sync &&& ~~~(1#16 <<< b)
            supply := none
            red := none
            fpstat := it.fpstat ||| r.truncate 5 } : Item).writeDest o.d (if redWide o.kind then .w2 v else .w (lo32 v)))).groupTests gid k))) ∧
  (
    ∀ (op : IntFold) (uns : Bool) (xs : List W64) (ys : List W32),
      groupReduce (.int true op uns) xs = ((foldList (foldInt op uns) xs).getD (identityOf 64 op uns), 0) ∧
      lo32 (groupReduce (.int false op uns) (ys.map (fun y => y.zeroExtend 64))).1 = (foldList (foldInt op uns) ys).getD (identityOf 32 op uns) ∧
      (groupReduce (.int false op uns) xs).2 = 0)

/-- EXPECT, COUNT and PHASE of an arrival barrier, three words from a scratchpad offset; the fourth word is reserved (R312). -/
def Sys2Proof.Machine.Group.word (g : Group) (x : Nat) : Nat := leNat (g.spadRead x 4)

/-- For a lone item and a barrier at an offset of its allocation: abar.init writes EXPECT with COUNT and PHASE 0; abar.arrive adds its bytes to COUNT and, each time COUNT reaches EXPECT, raises PHASE by 1; abar.wait goes on where PHASE is not the phase given, and waits where it is; registers are unchanged. (14 R312, 14 R313, 14 R315) -/
def Obligations.ArrivalBarriers : Prop :=
  ∀ (s : State) (g : Group) (o : Form) (k : Nat) (it : Item),
    let x := (it.readV o.a).toNat
    let b := it.readV o.b
    SpadReady s g ((it.readV o.a).zeroExtend 64) 16 →
    (Alone s g (.abarInit o) k it → b ≠ 0 →
      exec (.abarInit o) s = .next ((s.modGroup s.wave.gid (fun g =>
        g.spadWrite x (leBytes 4 b.toNat ++ leBytes 12 0))).goesOn (.abarInit o) g k it id)) ∧
    (Alone s g (.abarArrive o) k it → g.word x ≠ 0 → g.word (x + 12) = 0 →
      let sum := g.word (x + 4) + b.toNat
      exec (.abarArrive o) s = .next ((s.modGroup s.wave.gid (fun g => g.spadWrite x (leBytes 4 (g.word x) ++ leBytes 4 (sum % g.word x) ++
        leBytes 4 (g.word (x + 8) + sum / g.word x) ++ leBytes 4 0))).goesOn (.abarArrive o) g k it id)) ∧
    (Alone s g (.abarWait o) k it → g.word (x + 8) = b.toNat →
      exec (.abarWait o) s = .next (s.setItem s.wave.gid k { it with wait := .arrivalBarrier x b })) ∧
    (Alone s g (.abarWait o) k it → g.word (x + 8) ≠ b.toNat →
      ∃ t it', exec (.abarWait o) s = .next t ∧ t.memory = s.memory ∧ OnlyItem s t s.wave.gid k ∧ t.item? s.wave.gid k = some it' ∧
        it'.pc = (s.envOf g k it).nextPc ∧ it'.wait = .none ∧ it'.v = it.v ∧ it'.fpstat = it.fpstat ∧ it'.Rest it)

/-- For a lone item and a reachable word of HBM4: where the word differs from B, waitv writes 1 to p[D] and the item is past it; where it equals B and the home die's table has room, the item waits in the table. Memory, other registers, items, groups and contexts are unchanged. For a lone item with no store on the way and a reachable word: the item goes on with its registers unchanged; wakeall takes every waiter of the word under the context's key out of the monitor table and lets it read its word once more; wake1 leaves all of them but one, the one that entered first. Memory is unchanged. WAITV_TIMEOUT takes an item that sleeps or polls with a time-out out of its wait and the monitor table, to read its word once more; WAITV_POLL lets a polling item go on with its loop; nothing else changes, and an item in no such wait is untouched. (14 R317, 14 R319, 14 R320, 13 R296) -/
def Obligations.WaitvAndWakes : Prop :=
  (
    ∀ (s : State) (g : Group) (o : WaitvForm) (k : Nat) (it : Item) (pa : Nat), Alone s g (.waitv o) k it →
      let tag := s.keyTag (s.context g.ctx).key
      let x := leNat (s.memory.read tag pa 4)
      it.storesOut = [] → it.got = none → Reachable s g (it.readV2 o.a) 4 pa (homeSlice pa) false →
      (x ≠ (it.readV o.b).toNat → ∃ t it', exec (.waitv o) s = .next t ∧ t.memory = s.memory ∧ OnlyItem s t s.wave.gid k ∧
        t.item? s.wave.gid k = some it' ∧ it'.pc = (s.envOf g k it).nextPc ∧ it'.wait = .none ∧ it'.v = it.v ∧ it'.fpstat = it.fpstat ∧
        it'.p = (it.writeP o.d true).p ∧ t.monitors = s.monitors) ∧
      (x = (it.readV o.b).toNat → s.monitors.length < 2048 → ∃ t it', exec (.waitv o) s = .next t ∧ t.memory = s.memory ∧
        OnlyItem s t s.wave.gid k ∧ t.item? s.wave.gid k = some it' ∧ it'.pc = it.pc ∧ it'.wait = .monitor pa (o.texp != 0) ∧ it'.v = it.v ∧
        it'.p = it.p ∧ Table.get? t.monitors s.nextId =
          some { pa := pa, key := (s.context g.ctx).key, gid := s.wave.gid, slot := k, seq := s.monitorSeq })) ∧
  (
    ∀ (s : State) (g : Group) (o : ScopeForm) (k : Nat) (it : Item) (pa : Nat),
      let mine (m : Monitor) : Bool := m.pa == pa && m.key == (s.context g.ctx).key
      it.storesOut = [] → Reachable s g (it.readV2 o.a) 4 pa (homeSlice pa) false →
      (∀ p ∈ s.monitors, p.2.gid = s.wave.gid → p.2.slot ≠ k) →
      (∀ p ∈ s.monitors, ∀ q ∈ s.monitors, p.2.gid = q.2.gid → p.2.slot = q.2.slot → p = q) →
      (Alone s g (.wakeall o) k it → ∃ t it', exec (.wakeall o) s = .next t ∧ t.memory = s.memory ∧ t.item? s.wave.gid k = some it' ∧
        it'.pc = (s.envOf g k it).nextPc ∧ it'.wait = .none ∧ it'.v = it.v ∧ it'.fpstat = it.fpstat ∧ it'.Rest it ∧
        t.monitors = s.monitors.filter (fun p => !mine p.2) ∧
        ∀ p ∈ s.monitors, mine p.2 = true → ∀ w, s.item? p.2.gid p.2.slot = some w →
          t.item? p.2.gid p.2.slot = some { w with wait := .none, got := some (1, 0) }) ∧
      (Alone s g (.wake1 o) k it → ∀ p ∈ s.monitors, mine p.2 = true → (∀ q ∈ s.monitors, mine q.2 = true → q ≠ p → p.2.seq < q.2.seq) →
        ∃ t, exec (.wake1 o) s = .next t ∧ t.memory = s.memory ∧ t.monitors = s.monitors.filter (fun q => decide (q ≠ p)) ∧
          (∃ it', t.item? s.wave.gid k = some it' ∧ it'.pc = (s.envOf g k it).nextPc ∧ it'.wait = .none ∧ it'.v = it.v ∧ it'.Rest it) ∧
          ∀ w, s.item? p.2.gid p.2.slot = some w → t.item? p.2.gid p.2.slot = some { w with wait := .none, got := some (1, 0) })) ∧
  (
    ∀ (s : State) (gid slot : Nat) (g : Group) (it : Item), s.group? gid = some g → Table.get? g.items slot = some it →
      ((∃ pa, it.wait = .monitor pa true ∨ it.wait = .poll pa true) →
        exec (.waitvTimeout gid slot) s = .next { s.setItem gid slot { it with wait := .none, got := some (1, 0) } with
          monitors := s.monitors.filter (fun p => p.2.gid != gid || p.2.slot != slot) }) ∧
      ((∃ pa timed, it.wait = .poll pa timed) →
        exec (.waitvPoll gid slot) s = .next (s.setItem gid slot { it with wait := .none, got := some (0, 0) })) ∧
      (it.wait = .none → exec (.waitvTimeout gid slot) s = .next s ∧ exec (.waitvPoll gid slot) s = .next s))

/-- For a lone item with no deferred trap, waitc whose class's outstanding-operation counter is at most the threshold goes on, having acquired the writes of the operations that ended; where the counter is above the threshold it waits. No register or memory changes. (14 R324, 13 R293) -/
def Obligations.WaitForCounters : Prop :=
  ∀ (s : State) (g : Group) (o : WaitcForm) (k : Nat) (it : Item), Alone s g (.waitc o) k it → g.deferred? k = none →
    let count := match o.cls with
      | .copy => it.copyCount
      | .matrix => it.matrixCount
      | .gather => it.gatherCount
      | .collective => it.collCount
    (count.toNat ≤ o.thresh.toNat → ∃ t it', exec (.waitc o) s = .next t ∧ t.memory = s.memory ∧ OnlyItem s t s.wave.gid k ∧
      t.item? s.wave.gid k = some it' ∧ it'.pc = (s.envOf g k it).nextPc ∧ it'.wait = .none ∧ it'.v = it.v ∧ it'.fpstat = it.fpstat ∧ it'.Rest it ∧
      it.engineStamp ≤ it'.view) ∧
    (o.thresh.toNat < count.toNat → exec (.waitc o) s = .next (s.setItem s.wave.gid k { it with wait := .counter o.cls o.thresh.toNat }))

/-! ### Control registers (03 R72 to R74) -/

/-- Registers that csrr reads, with their values: number, a pair or not, value (01 R24, R26, 04 R85, R86, 06 R118, 07 R139, 09 R192, 10 R198,
19 R413). -/
def Sys2Proof.Machine.csrRows (s : State) (g : Group) (k : Nat) (it : Item) : List (Nat × Bool × W64) :=
  let n (x : Nat) : W64 := BitVec.ofNat 64 x
  let c := s.context g.ctx
  [(0x000, true, n it.itemix.toNat), (0x002, false, n it.cohort.toNat), (0x003, false, n g.stage), (0x004, false, n g.groupix.toNat),
   (0x005, false, n g.gangix.toNat), (0x006, false, n g.gangrank.toNat), (0x007, false, n k), (0x008, false, n it.frame.toNat),
   (0x012, false, n g.core), (0x014, false, n s.dev.devid), (0x100, false, n it.fpctl.toNat), (0x101, false, n it.fpstat.toNat),
   (0x102, false, n it.istat.toNat), (0x103, false, n it.ictl.toNat), (0x110, false, n it.trapCause.toNat), (0x111, true, it.trapPc),
   (0x112, true, it.trapAddr), (0x113, false, n it.trapInfo.toNat), (0x200, false, n (65536 * g.slots + g.items.length)),
   (0x300, false, n g.ctx), (0x301, false, n c.key), (0x302, true, c.ptroot), (0x303, false, n c.isoper.toNat)]

/-- A register field of one word or of a pair is in the item's window. -/
def Sys2Proof.Machine.Item.fits (it : Item) (r : BitVec 7) (wide : Bool) : Prop :=
  r.toNat + (if wide then 1 else 0) < 32 + it.frame.toNat ∧ (wide = true → r.toNat % 2 = 0)

/-- A lone item can work on a control register: it keeps no log, no register of it holds an error, and a register of the privileged range
belongs to a system context. -/
structure Sys2Proof.Machine.CsrReady (s : State) (g : Group) (it : Item) (num : Nat) : Prop where
  unlogged : (s.hind g.ctx).mode = .off
  whole : it.bad = [] ∧ it.badCsr = false
  allowed : 0x300 ≤ num → (s.context g.ctx).system = true

/-- For a lone item csrr of each named register writes its value to D, to a pair where the register has 64 bits, and changes nothing else; of MSTAT it does so once no matrix operation of the group is left. For a lone item csrw replaces FPCTL, ICTL and ISOPER and clears in FPSTAT, ISTAT and MSTAT the bits given as 1; csrs and csrc set and clear bits of FPCTL and ICTL and give the old value in D; nothing else changes. The values have no reserved bit set. In a context that is not a system context each of the four forms on a register of 0x300 to 0x3FF takes PRIV with 0x1000 + the number in TRAPINFO, and no register changes. (03 R72, 03 R73, 03 R74, 07 R139, 10 R198, 19 R413, 04 R86, 19 R414, 04 R84) -/
def Obligations.ControlRegisters : Prop :=
  (
    ∀ (s : State) (g : Group) (o : CsrForm) (k : Nat) (it : Item), Alone s g (.csrr o) k it → CsrReady s g it o.num.toNat →
      (∀ row ∈ csrRows s g k it, o.num.toNat = row.1 → it.fits o.d row.2.1 →
        exec (.csrr o) s = .next (s.goesOn (.csrr o) g k it (fun it =>
          if row.2.1 then it.writeV2 o.d row.2.2 else it.writeV o.d (row.2.2.truncate 32)))) ∧
      (o.num.toNat = 0x104 → it.fits o.d false → it.wait = .none → (∀ p ∈ g.tiles, p.2.ops = []) →
        exec (.csrr o) s = .next (s.goesOn (.csrr o) g k it (fun it => it.writeV o.d (g.mstat.zeroExtend 32))))) ∧
  (
    ∀ (s : State) (g : Group) (o : CsrForm) (k : Nat) (it : Item), CsrReady s g it o.num.toNat → it.fits o.a false →
      let x := it.readV o.a
      let at_ (n : Nat) (i : Instr) : Prop := Alone s g i k it ∧ o.num.toNat = n
      (at_ 0x100 (.csrw o) → x &&& 0xFFFFC0F0 = 0 →
        exec (.csrw o) s = .next (s.goesOn (.csrw o) g k it (fun it => { it with fpctl := x }))) ∧
      (at_ 0x101 (.csrw o) → x &&& 0xFFFFFFE0 = 0 →
        exec (.csrw o) s = .next (s.goesOn (.csrw o) g k it (fun it => { it with fpstat := it.fpstat &&& ~~~(x.truncate 5) }))) ∧
      (at_ 0x102 (.csrw o) → x &&& 0xFFFFFFF8 = 0 →
        exec (.csrw o) s = .next (s.goesOn (.csrw o) g k it (fun it => { it with istat := it.istat &&& ~~~(x.truncate 3) }))) ∧
      (at_ 0x103 (.csrw o) → x &&& 0xFFFFFFFC = 0 →
        exec (.csrw o) s = .next (s.goesOn (.csrw o) g k it (fun it => { it with ictl := x.truncate 2 }))) ∧
      (at_ 0x104 (.csrw o) → x &&& 0xFFFFFFE0 = 0 →
        exec (.csrw o) s = .next ((s.modGroup s.wave.gid (fun g => { g with mstat := g.mstat &&& ~~~(x.truncate 5) })).goesOn (.csrw o) g k it id)) ∧
      (at_ 0x303 (.csrw o) → 12 ≤ x.toNat → x.toNat ≤ 20 →
        exec (.csrw o) s = .next ((s.modContext g.ctx (fun c => { c with isoper := x })).goesOn (.csrw o) g k it id)) ∧
      (it.fits o.d false →
        (at_ 0x100 (.csrs o) → (it.fpctl ||| x) &&& 0xFFFFC0F0 = 0 →
          exec (.csrs o) s = .next (s.goesOn (.csrs o) g k it (fun it => ({ it with fpctl := it.fpctl ||| x } : Item).writeV o.d it.fpctl))) ∧
        (at_ 0x103 (.csrs o) → x &&& 0xFFFFFFFC = 0 →
          exec (.csrs o) s = .next (s.goesOn (.csrs o) g k it (fun it =>
            ({ it with ictl := it.ictl ||| x.truncate 2 } : Item).writeV o.d (it.ictl.zeroExtend 32)))) ∧
        (at_ 0x100 (.csrc o) → it.fpctl &&& 0xFFFFC0F0 = 0 →
          exec (.csrc o) s = .next (s.goesOn (.csrc o) g k it (fun it => ({ it with fpctl := it.fpctl &&& ~~~x } : Item).writeV o.d it.fpctl))) ∧
        (at_ 0x103 (.csrc o) →
          exec (.csrc o) s = .next (s.goesOn (.csrc o) g k it (fun it =>
            ({ it with ictl := it.ictl &&& ~~~(x.truncate 2) } : Item).writeV o.d (it.ictl.zeroExtend 32)))))) ∧
  (
    ∀ (s : State) (g : Group) (o : CsrForm) (k : Nat) (it : Item) (h : W64),
      (s.context g.ctx).system = false → 0x300 ≤ o.num.toNat → o.num.toNat ≤ 0x3FF → s.handlerOf g.kh = some h → it.inHandler = false →
      it.windows = [] → ∀ i ∈ ([.csrr o, .csrw o, .csrs o, .csrc o] : List Instr), Alone s g i k it →
        exec i s = .next (s.setItem s.wave.gid k ((s.envOf g k it).entered (s.envOf g k it).it h
          { cause := 0x02, addr := 0, info := BitVec.ofNat 32 (0x1000 + o.num.toNat) })))

/-! ### The matrix engine (11) -/

/-- A group that can use its tiles: it is no landing group and holds tile `name`, which has not failed. -/
structure Sys2Proof.Machine.Holds (g : Group) (name : Nat) (t : Tile) : Prop where
  seated : g.isLanding = false
  held : Table.get? g.tiles name = some t
  sound : t.failed = none

/-- A tile of a group changed. -/
def Sys2Proof.Machine.State.tileTo (s : State) (name : Nat) (f : Tile → Tile) : State :=
  s.modGroup s.wave.gid (fun g => { g with tiles := Table.modify g.tiles name f })

/-- Every member of the wave goes on at the next instruction. -/
def Sys2Proof.Machine.State.past (s : State) (g : Group) (i : Instr) : State := s.after g (fun e => e.under i Env.nextPc (fun e => e.it))

/-- macq binds the lowest-numbered free physical tile of the core, all zero, and waits where none is free; mrel gives an Idle tile back and mzero zeroes its elements. For a lone item mdrain writes four elements of a row to D, mmeta the tile's condition, mcsum a row's checksum pair. Nothing else changes. (11 R230, 11 R233, 11 R237) -/
def Obligations.TileForms : Prop :=
  ∀ (s : State) (g : Group) (o : Form) (q : MacqForm), Plain s g →
    (Admits s g (.macq q) → SomeGuard s g (.macq q) → g.isLanding = false → Table.get? g.tiles q.d.toNat = none →
      (∀ x, s.freeTile g.core = some x → exec (.macq q) s = .next ((s.modGroup s.wave.gid (fun g => { g with
        tiles := Table.put g.tiles q.d.toNat { phys := x, int32 := q.int32, elems := [], weights := none, csum := [], nsteps := 0, ops := []
                                               failed := none, stalled := none, badElems := [], badRows := [], badWeights := false } })).past g (.macq q))) ∧
      (s.freeTile g.core = none → exec (.macq q) s = .next (s.after g (fun e =>
        if e.it.guard q.g then { e.it with wait := .tile q.d.toNat } else e.on (.macq q) e.nextPc e.it)))) ∧
    (∀ t, Holds g o.d.toNat t → t.ops = [] →
      (Admits s g (.mrel o) → SomeGuard s g (.mrel o) →
        exec (.mrel o) s = .next ((s.modGroup s.wave.gid (fun g => { g with tiles := Table.erase g.tiles o.d.toNat })).past g (.mrel o))) ∧
      (Admits s g (.mzero o) → SomeGuard s g (.mzero o) →
        exec (.mzero o) s = .next ((s.tileTo o.d.toNat (fun t => { t with elems := [], badElems := [] })).past g (.mzero o)))) ∧
    (∀ k it t, Holds g o.a.toNat t → t.ops = [] →
      (Alone s g (.mdrain o) k it → t.badElems = [] → ∀ r c : Nat, r < 128 → c < 16 → it.readV o.b = BitVec.ofNat 32 (256 * c + r) →
        let x (j : Nat) : W32 := Table.read 0 t.elems (64 * r + 4 * c + j)
        exec (.mdrain o) s = .next (s.goesOn (.mdrain o) g k it (fun it =>
          (((it.writeV o.d (x 0)).writeV (o.d + 1) (x 1)).writeV (o.d + 2) (x 2)).writeV (o.d + 3) (x 3)))) ∧
      (Alone s g (.mmeta o) k it →
        exec (.mmeta o) s = .next (s.goesOn (.mmeta o) g k it (fun it => it.writeV o.d (BitVec.ofNat 32 (t.nsteps.toNat +
          (if t.int32 then 2 ^ 16 else 0) + (match t.weights with
            | some (_, fmt, sp) => 2 ^ 22 + 2 ^ 17 * fmt.toNat + (if sp then 2 ^ 21 else 0)
            | none => 0)))))) ∧
      (Alone s g (.mcsum o) k it → (it.readV o.b).toNat < 128 → t.badRows = [] →
        let r := Table.read (0, 0) t.csum (it.readV o.b).toNat
        exec (.mcsum o) s = .next (s.goesOn (.mcsum o) g k it (fun it => (it.writeV o.d r.1).writeV (o.d + 1) r.2))))

/-- The scratchpad rows that a form with RB0 and NRB names lie in the group's allocation: `rows` rows of `bytes` bytes from `x`, each `stride`
bytes after the one before. -/
structure Sys2Proof.Machine.RowsFit (g : Group) (x stride rows bytes : Nat) : Prop where
  aligned : x % 16 = 0 ∧ stride % 16 = 0
  inside : x + (rows - 1) * stride + bytes ≤ g.scratchBytes
  whole : g.spadPoison = []

/-- Element `n` of row `r`. -/
def Sys2Proof.Machine.Tile.element (t : Tile) (r n : Nat) : W32 := Table.read 0 t.elems (64 * r + n)

/-- A tile in its canonical form: elements listed by rising place below 8192, none zero, none in error, nor its weight buffer. -/
def Sys2Proof.Machine.Tile.Tidy (t : Tile) : Prop :=
  Table.canonical 0 t.elems = true ∧ (∀ p ∈ t.elems, p.1 < 8192) ∧ t.badElems = [] ∧ t.badWeights = false

/-- For a lone item and an Idle tile in canonical form, with rows that lie in the scratchpad: mfill replaces each element of the named rows by the word read for it, madd of an INT32 tile adds the word modulo 2^32, and every other element is as before; mscale of an INT32 tile multiplies each element by the FP32 number in A with one rounding and makes the tile FP32. The item goes on with its registers unchanged and memory is unchanged. For a lone item and an Idle tile, mdrains with OFMT 0 writes the 32-bit elements of the named rows to the scratchpad, each row a stride after the one before, and sets the full-empty bit of each granule it writes, where no item waits for one; every byte and bit outside the rows is as before. The tile and memory are unchanged. (11 R238, 11 R239, 11 R240, 12 R258) -/
def Obligations.TileRows : Prop :=
  (
    ∀ (s : State) (g : Group) (o : RowsForm) (f : Form) (k : Nat) (it : Item) (t : Tile), (s.hind g.ctx).mode = .off → t.ops = [] → t.Tidy →
      let x := (it.readV o.a).toNat
      let stride := (it.readV o.b).toNat
      let rb := 16 * o.rb0.toNat
      let rows := 16 * (o.nrb1.toNat + 1)
      let word (r n : Nat) : W32 := BitVec.ofNat 32 (leNat (g.spadRead (x + (r - rb) * stride + 4 * n) 4))
      let done (i : Instr) (name : Nat) (new : Tile → Nat → Nat → W32) (int32 : Bool) : Prop :=
        ∃ u h t', exec i s = .next u ∧ u.memory = s.memory ∧ u.group? s.wave.gid = some h ∧ Table.get? h.tiles name = some t' ∧ t'.int32 = int32 ∧
          (∀ r n, r < 128 → n < 64 → t'.element r n = new t r n) ∧ h.scratch = g.scratch ∧
          Table.get? h.items k = some ((s.envOf g k it).on i (s.envOf g k it).nextPc { it with wait := .none })
      (rb + rows ≤ 128 → Holds g o.d.toNat t → RowsFit g x stride rows 256 →
        (Alone s g (.mfill o) k it → done (.mfill o) o.d.toNat (fun t r n => if rb ≤ r ∧ r < rb + rows then word r n else t.element r n) t.int32) ∧
        (Alone s g (.madd o) k it → t.int32 = true →
          done (.madd o) o.d.toNat (fun t r n => if rb ≤ r ∧ r < rb + rows then t.element r n + word r n else t.element r n) true)) ∧
      (Holds g f.d.toNat t → Alone s g (.mscale f) k it → t.int32 = true →
        done (.mscale f) f.d.toNat (fun t r n => (scaleElement true (t.element r n) (it.readV f.a)).1) false)) ∧
  (
    ∀ (s : State) (g : Group) (o : DrainForm) (k : Nat) (it : Item) (t : Tile), (s.hind g.ctx).mode = .off → t.ops = [] → t.Tidy →
      let x := (it.readV o.b).toNat
      let stride := (it.readV (o.b + 1)).toNat
      let rb := 16 * o.rb0.toNat
      let rows := 16 * (o.nrb1.toNat + 1)
      let start (r : Nat) : Nat := x + (r - rb) * stride
      let covers (a : Nat) : Prop := ∃ r, rb ≤ r ∧ r < rb + rows ∧ start r ≤ a ∧ a < start r + 256
      Holds g o.a.toNat t → o.ofmt.toNat = 0 → rb + rows ≤ 128 → 256 ≤ stride → RowsFit g x stride rows 256 →
      (∀ y, g.NoWaiter y) → Alone s g (.mdrains o) k it →
      ∃ u h, exec (.mdrains o) s = .next u ∧ u.memory = s.memory ∧ u.group? s.wave.gid = some h ∧ h.tiles = g.tiles ∧
        (∀ r n, rb ≤ r → r < rb + rows → n < 64 → leNat (h.spadRead (start r + 4 * n) 4) = (t.element r n).toNat) ∧
        (∀ a, ¬ covers a → Table.read 0 h.scratch a = Table.read 0 g.scratch a) ∧
        (∀ a, covers a → h.isFull a = true) ∧ (∀ a, ¬ covers (a / 16 * 16) → h.isFull a = g.isFull a))

/-- A wave of one item can queue an operation on tile `name`: fewer than 16 wait there, the matrix counter is below 63 and no store of the item is
on its way. -/
structure Sys2Proof.Machine.Queues (g : Group) (name : Nat) (t : Tile) (it : Item) : Prop where
  holds : Holds g name t
  room : t.ops.length < 16
  below : it.matrixCount.toNat < 63
  sent : it.storesOut = []

/-- The operation has joined its tile's queue and the issuer's matrix counter has risen (R232, R292). -/
def Sys2Proof.Machine.State.queued (s : State) (name k : Nat) (op : MatrixOp) : State :=
  s.modGroup s.wave.gid (fun g => { g with
    matrixIssue := g.matrixIssue + 1
    tiles := Table.modify g.tiles name (fun t => { t with ops := t.ops ++ [op] })
    items := Table.modify g.items k (fun it => { it with
      matrixCount := it.matrixCount + 1
      view := max it.view it.rel }) })

/-- An operation as it is queued by the item in slot `k`. -/
def Sys2Proof.Machine.opOf (g : Group) (k kind : Nat) (l : Layout) (c0 c1 : W32) (addr : W64) (table : List (Nat × W64)) : MatrixOp :=
  { kind := kind, window := k / 32, issuers := [k], layout0 := l.l0, layout1 := l.l1, layout2 := l.l2, ctl0 := c0, ctl1 := c1, done := 0
    addr := addr, issue := g.matrixIssue, table := table }

/-- The three words from s register `n` (R223). -/
def Sys2Proof.Machine.layoutAt (g : Group) (n : BitVec 7) : Layout := ⟨readS g.s n, readS g.s (n + 1), readS g.s (n + 2)⟩

/-- Every 16-byte chunk of `rows` rows lies in the scratchpad at each of `steps` steps, `inc` bytes apart (R224). -/
def Sys2Proof.Machine.Inside (g : Group) (l : Layout) (rows chunks : Nat) (inc : Int) (steps : Nat) : Prop :=
  ∀ r c j : Nat, r < rows → c < chunks → j < steps →
    0 ≤ (l.chunk r c : Int) + inc * j ∧ (l.chunk r c : Int) + inc * j + 16 ≤ g.scratchBytes

/-- For a lone item with room in its tile's queue and good operands, each form appends its operation with its words to the tile's queue, takes the group's next issue number, raises the item's matrix counter by 1, and the item goes on; registers, the tile's elements and memory are unchanged. MATRIX_STEP on an mstep of INT8 activations and latched INT8 weights, the oldest operation of a sound tile: each element (r, n) of the rows covered becomes, modulo 2^32, its old value plus the sum over k of activation k of row r times weight (k, n); every other element is as before; NSTEPS rises by 1; the operation leaves the queue; memory is unchanged. (11 R232, 11 R234, 11 R235, 11 R236, 14 R324, 11 R220, 11 R222, 11 R224, 11 R225) -/
def Obligations.MatrixOperations : Prop :=
  (
    ∀ (s : State) (g : Group) (o : Form) (w : LatchForm) (k : Nat) (it : Item) (t : Tile),
      let l := layoutAt g o.a
      let c0 := it.readV o.c
      let c1 := it.readV (o.c + 1)
      let good : Prop := l.ok = true ∧ 0 < ksteps c0 ∧ field c1 31 29 = 0 ∧ ctlWfmt c1 ≤ 5 ∧
        (∃ order, stepOrder (ctlWfmt c1) l.afmt (ctlSp c1) = some (order, t.int32))
      (Queues g o.d.toNat t it → good →
        (Alone s g (.mloop o) k it → (it.readV2 o.b).toNat % 128 = 0 →
          Inside g l (l.nr + 1) (segmentChunks l.afmt (ctlSp c1)) (ainc c0) (ksteps c0) →
          exec (.mloop o) s = .next ((s.queued o.d.toNat k (opOf g k 0 l c0 c1 (it.readV2 o.b) [])).past g (.mloop o))) ∧
        (Alone s g (.mloopg o) k it → (s.hind g.ctx).mode = .off → ∀ table : List (Nat × W64),
          let x := (it.readV o.b).toNat
          x % 16 = 0 → x + 16 + 16 * table.length ≤ g.scratchBytes → g.spadPoison = [] → 1 ≤ table.length → table.length ≤ 128 →
          (table.map Prod.fst).sum ≤ 128 → (∀ p ∈ table, p.2.toNat % 128 = 0) →
          g.spadRead x 16 = leBytes 16 table.length →
          (∀ (j : Nat) (h : j < table.length), g.spadRead (x + 16 + 16 * j) 16 = leBytes 8 table[j].1 ++ leBytes 8 table[j].2.toNat) →
          Inside g l (table.map Prod.fst).sum (segmentChunks l.afmt (ctlSp c1)) (ainc c0) (ksteps c0) →
          exec (.mloopg o) s = .next ((s.queued o.d.toNat k (opOf g k 1 l c0 c1 ((it.readV o.b).zeroExtend 64) table)).past g (.mloopg o))) ∧
        True) ∧
      (Queues g w.d.toNat t it → Alone s g (.mwlat w) k it → (it.readV2 w.a).toNat % 128 = 0 → (w.sp = true → w.wfmt.toNat < 4) →
        exec (.mwlat w) s = .next ((s.queued w.d.toNat k (opOf g k 3 ⟨0, 0, 0⟩ (BitVec.ofNat 32 (w.wfmt.toNat + (if w.sp then 16 else 0))) 0
          (it.readV2 w.a) [])).past g (.mwlat w))) ∧
      (Queues g o.d.toNat t it → Alone s g (.mstep o) k it → t.ops = [] → ∀ b fmt sp, t.weights = some (b, fmt, sp) → l.ok = true →
        (∃ order, stepOrder fmt.toNat l.afmt sp = some (order, t.int32)) → Inside g l (l.nr + 1) (segmentChunks l.afmt sp) 0 1 →
        exec (.mstep o) s = .next ((s.queued o.d.toNat k (opOf g k 2 l 0 0 0 [])).past g (.mstep o)))) ∧
  (
    ∀ (s : State) (gid name : Nat) (g : Group) (t : Tile) (op : MatrixOp) (rest : List MatrixOp) (b : List W8),
      let l : Layout := ⟨op.layout0, op.layout1, op.layout2⟩
      let signed (x : W8) : Int := x.toInt
      let act (r k : Nat) : Int := signed (Table.read 0 g.scratch (l.chunk r (k / 16) + k % 16))
      let weight (k n : Nat) : Int := signed (b.getD (64 * k + n) 0)
      s.group? gid = some g → Table.get? g.tiles name = some t → t.ops = op :: rest → op.kind = 2 → op.done = 0 → t.stalled = none →
      g.stopAsked = false → g.opWaits name op = false → t.int32 = true → t.weights = some (b, 3, false) → b.length = 4096 → l.afmt = 3 →
      t.Tidy → g.spadPoison = [] → (s.hind g.ctx).mode = .off →
      ∃ u h t', exec (.matrixStep gid name) s = .next u ∧ u.memory = s.memory ∧ u.group? gid = some h ∧ Table.get? h.tiles name = some t' ∧
        t'.ops = rest ∧ t'.nsteps = t.nsteps + 1 ∧ t'.weights = t.weights ∧
        ∀ r n, r < 128 → n < 64 → t'.element r n =
          if r ≤ l.nr then t.element r n + BitVec.ofInt 32 (((List.range 64).map (fun k => act r k * weight k n)).sum) else t.element r n)

/-! ### Queue registers and channels (15 R325 to R339) -/

/-- A lone item's use of queue register `q`, bound as `b`, of a kernel `kn` that keeps no log: no store of the item is on its way. -/
structure Sys2Proof.Machine.Queued (s : State) (g : Group) (it : Item) (kn : Kernel) (q : Nat) (b : Binding) : Prop where
  kernel : s.kernel? g.kh = some kn
  bound : g.binds.toList.getD q { kind := 0, index := 0 } = b
  sent : it.storesOut = []
  unlogged : (s.hind g.ctx).mode = .off

/-- The staging slot of a send binding: Filling 0, Waiting 1, Closed 2 (R336). -/
def Sys2Proof.Machine.Group.slotOf (g : Group) (q : Nat) : Staging := Table.read { words := [], state := 0, stamp := 0, away := 0 } g.staging q

/-- A staging slot replaced. -/
def Sys2Proof.Machine.State.stage (s : State) (q : Nat) (x : Staging) : State :=
  s.modGroup s.wave.gid (fun g => { g with staging := Table.put g.staging q x })

/-- The ring of a channel: words landed and popped (R334). -/
def Sys2Proof.Machine.Group.ringOf (g : Group) (ch : Nat) : Ring := Table.read { landed := 0, popped := 0, stamp := 0, ended := false, far := false } g.rings ch

/-- The offset of the word at the head of a ring. -/
def Sys2Proof.Machine.headOf (d : Descriptor) (g : Group) (ch : Nat) : Nat :=
  d.ringBase ch + 4 * ((g.ringOf ch).popped % ((d.channel ch).slots * ((d.channel ch).slotBytes / 4)))

/-- For a lone item and a send binding outside ring mode: qpush and qtrypush append A to a Filling slot, which becomes Waiting with its last word, qtrypush with 1 in p[C]; on a Waiting slot whose channel has a receiver qpush waits and qtrypush gives 0; on a Closed slot both trap CHANNEL; chclose closes the slot, its words padded with zeros to a whole slot. On a register that is no send binding the three trap QUEUE. Nothing else changes. For a lone item and a receive binding outside ring mode: where the ring holds a word, qpop and qtrypop take its oldest word from the scratchpad into D, the ring's count of popped words rises by 1, and qtrypop gives 1; where it holds none but the sending stage still has indices, qpop waits and qtrypop gives 0; chavail gives the words the ring holds, or those a Filling slot can take. On an engine binding the two take the oldest completion record. Nothing else of the item's registers and no memory changes. Outside ring mode, with one group of the receiving stage on the device, unguarded and with a free slot in its ring, CHANNEL_SLOT_DELIVER of a Waiting slot writes its words into the next slot of the ring, whose count of landed words rises by a slot; the staging slot is Filling and empty; memory is unchanged. With no free slot nothing happens. (15 R325, 15 R326, 15 R336, 15 R338, 15 R327, 15 R337, 15 R334, 15 R335) -/
def Obligations.Channels : Prop :=
  (
    ∀ (s : State) (g : Group) (o : Form) (k : Nat) (it : Item) (kn : Kernel) (b : Binding),
      let q := o.d.toNat
      let st := g.slotOf q
      let c := kn.desc.channel b.index
      let x := it.readV o.a
      let now := max st.stamp (max it.view it.rel)
      let full : Staging := { st with
        words := st.words ++ [x]
        state := if (st.words ++ [x]).length = c.slotBytes / 4 then 1 else 0
        stamp := now }
      Queued s g it kn q b →
      (b.kind = 4 → kn.desc.ringMode c = false →
        (st.state = 0 → Alone s g (.qpush o) k it → exec (.qpush o) s = .next ((s.stage q full).goesOn (.qpush o) g k it id)) ∧
        (st.state = 0 → Alone s g (.qtrypush o) k it →
          exec (.qtrypush o) s = .next ((s.stage q full).goesOn (.qtrypush o) g k it (fun it => it.writeP o.c true))) ∧
        (st.state = 1 → s.stageGroups g.kh c.dst ≠ [] →
          (Alone s g (.qpush o) k it → exec (.qpush o) s = .next (s.setItem s.wave.gid k { it with wait := .queue q })) ∧
          (Alone s g (.qtrypush o) k it →
            exec (.qtrypush o) s = .next (s.goesOn (.qtrypush o) g k it (fun it => it.writeP o.c false)))) ∧
        (st.state ≠ 2 → Alone s g (.chclose o) k it →
          exec (.chclose o) s = .next ((s.stage q { st with
            words := if st.words = [] then [] else st.words ++ List.replicate (c.slotBytes / 4 - st.words.length) 0
            state := 2
            stamp := now }).goesOn (.chclose o) g k it id))) ∧
      (∀ h, s.handlerOf g.kh = some h → it.inHandler = false → it.windows = [] →
        let traps (i : Instr) (cause info : Nat) : Prop := exec i s = .next (s.setItem s.wave.gid k
          ((s.envOf g k it).entered (s.envOf g k it).it h { cause := cause, addr := 0, info := BitVec.ofNat 32 info }))
        (b.kind ≠ 4 → ∀ i ∈ ([.qpush o, .qtrypush o, .chclose o] : List Instr), Alone s g i k it → traps i 0x15 (256 * b.kind + 16 * q)) ∧
        (b.kind = 4 → kn.desc.ringMode c = false → st.state = 2 →
          ∀ i ∈ ([.qpush o, .qtrypush o] : List Instr), Alone s g i k it → traps i 0x10 (256 * 4 + 16 * q + 1)))) ∧
  (
    ∀ (s : State) (g : Group) (o : Form) (k : Nat) (it : Item) (kn : Kernel) (b : Binding),
      let q := o.a.toNat
      let r := g.ringOf b.index
      let c := kn.desc.channel b.index
      let at_ := headOf kn.desc g b.index
      let word : W32 := BitVec.ofNat 32 (leNat (g.spadRead at_ 4))
      let pops (i : Instr) (f : Item → Item) : Prop := ∃ u h it', exec i s = .next u ∧ u.memory = s.memory ∧ u.group? s.wave.gid = some h ∧
        h.rings = Table.put g.rings b.index { r with popped := r.popped + 1 } ∧ h.scratch = g.scratch ∧ Table.get? h.items k = some it' ∧
        it'.pc = (s.envOf g k it).nextPc ∧ it'.wait = .none ∧ it'.v = (f (it.writeV o.d word)).v ∧ it'.p = (f (it.writeV o.d word)).p ∧
        it'.fpstat = it.fpstat
      Queued s g it kn q b →
      (b.kind = 5 → kn.desc.ringMode c = false →
        (r.popped < r.landed → g.spadPoison = [] →
          (Alone s g (.qpop o) k it → pops (.qpop o) id) ∧ (Alone s g (.qtrypop o) k it → pops (.qtrypop o) (fun it => it.writeP o.c true))) ∧
        (r.landed ≤ r.popped → kn.next.getD c.src 0 < kn.limit.getD c.src 0 →
          (Alone s g (.qpop o) k it → exec (.qpop o) s = .next (s.setItem s.wave.gid k { it with wait := .queue q })) ∧
          (Alone s g (.qtrypop o) k it → exec (.qtrypop o) s = .next (s.goesOn (.qtrypop o) g k it (fun it => it.writeP o.c false)))) ∧
        (r.popped < r.landed → r.landed - r.popped < 65536 → Alone s g (.chavail o) k it →
          exec (.chavail o) s = .next (s.goesOn (.chavail o) g k it (fun it => it.writeV o.d (BitVec.ofNat 32 (r.landed - r.popped)))))) ∧
      (b.kind = 4 → (g.slotOf q).state = 0 → Alone s g (.chavail o) k it →
        exec (.chavail o) s = .next (s.goesOn (.chavail o) g k it (fun it =>
          it.writeV o.d (BitVec.ofNat 32 (c.slotBytes / 4 - (g.slotOf q).words.length))))) ∧
      (∀ p x rest, 1 ≤ b.kind → b.kind ≤ 3 → Table.get? it.ports q = some p → p.records = x :: rest →
        let took (it : Item) : Item := { it with ports := Table.put it.ports q { p with records := rest } }
        (Alone s g (.qpop o) k it → exec (.qpop o) s = .next (s.goesOn (.qpop o) g k it (fun it => (took it).writeV o.d x))) ∧
        (Alone s g (.qtrypop o) k it →
          exec (.qtrypop o) s = .next (s.goesOn (.qtrypop o) g k it (fun it => ((took it).writeP o.c true).writeV o.d x))))) ∧
  (
    ∀ (s : State) (gid q rid : Nat) (g r : Group) (kn : Kernel) (st : Staging),
      let ch := (g.binds.toList.getD q { kind := 0, index := 0 }).index
      let c := kn.desc.channel ch
      let words := c.slotBytes / 4
      let ring := r.ringOf ch
      let at_ := kn.desc.ringBase ch + ring.landed / words % c.slots * c.slotBytes
      s.group? gid = some g → s.group? rid = some r → s.kernel? g.kh = some kn → kn.ctx = g.ctx → (s.hind g.ctx).mode = .off →
      Table.get? g.staging q = some st → st.state = 1 → st.words.length = words → 0 < words → kn.desc.ringMode c = false →
      s.stageGroups g.kh c.dst = [(rid, r)] → r.guarded = none →
      (ring.landed / words - ring.popped / words < c.slots →
        ∃ u g' r', exec (.channelSlotDeliver gid q) s = .next u ∧ u.memory = s.memory ∧ u.group? gid = some g' ∧ u.group? rid = some r' ∧
          (g'.slotOf q).words = [] ∧ (g'.slotOf q).state = 0 ∧ (r'.ringOf ch).landed = ring.landed + words ∧
          (r'.ringOf ch).popped = ring.popped ∧ r'.spadRead at_ (4 * words) = st.words.flatMap (fun w => leBytes 4 w.toNat) ∧
          r'.items = r.items) ∧
      (c.slots ≤ ring.landed / words - ring.popped / words → exec (.channelSlotDeliver gid q) s = .next s))

/-! ### Copy and gather engines, budgets (15 R327 to R333, R347) -/

/-- The four words of a command. -/
def Sys2Proof.Machine.wordsAt (it : Item) (a : BitVec 7) : List W32 := [it.readV a, it.readV (a + 1), it.readV (a + 2), it.readV (a + 3)]

/-- The item has issued an operation (R292, R293, R327): SEQ of the queue register has risen, and what the item has written happens before. -/
def Sys2Proof.Machine.Item.commandIssued (it : Item) (q : Nat) (p : QueuePort) : Item :=
  { it with
    view := max it.view it.rel
    ports := Table.modify it.ports q (fun _ => { p with seq := p.seq + 1 }) }

/-- A command as it stands at its engine. -/
def Sys2Proof.Machine.commandOf (s : State) (g : Group) (k : Nat) (it : Item) (q : Nat) (p : QueuePort) (b : Binding) (w indices : List W32)
    (chunks : Nat) : Command :=
  { kh := g.kh, ctx := g.ctx, gid := s.wave.gid, slot := k, itemix := it.itemix.toNat, q := q, die := dieOfCore g.core, engine := b.index
    gather := decide (b.kind = 2), w0 := w.getD 0 0, w1 := w.getD 1 0, w2 := w.getD 2 0, w3 := w.getD 3 0, indices := indices, seq := p.seq + 1
    order := s.nextId, floor := max it.view it.rel, stamp := 0, left := List.range chunks, failed := [], faulted := [], away := [], held := [] }

/-- A span of bytes and the word of a BAR field lie in the group's allocation. -/
def Sys2Proof.Machine.SpanFits (g : Group) (spans : List (Nat × Nat)) (bar : Nat) : Prop :=
  (∀ x ∈ spans, x.2 = 0 ∨ x.1 + x.2 ≤ g.scratchBytes) ∧ (bar ≠ 0 → 16 * bar + 16 ≤ g.scratchBytes)

/-- The bytes at an address are within reach of a die's engines in HBM4, in one line: translated by the engines' TLB, granted to engines, all
tokens of the line at the serving slice, no error, last written under the context's key, every budget and bucket holding units. -/
structure Sys2Proof.Machine.EngineReach (s : State) (die ctx : Nat) (va : W64) (n pa : Nat) (write : Bool) : Prop where
  oneLine : va.toNat % 128 + n ≤ 128 ∧ 0 < n
  canonical : canonicalVa va = true
  mapped : ∃ t, s.tlb? (1024 + die) ctx va = some t ∧ (if write then t.w else t.r) = true ∧ pa = t.addr + va.toNat % 2 ^ t.logSize
  granted : s.granted ctx pa n true write = true
  hbm : s.target? pa = some .hbm
  tokens : (s.l2At (servingSlice die pa) pa).tokens = 5
  unpinned : (s.l2At (servingSlice die pa) pa).pins = 0
  clean : s.memory.poisoned (lineOf pa) = false
  bound : s.keyState (s.context ctx).key = 1
  held : s.memory.tag (lineOf pa) = s.keyTag (s.context ctx).key
  budget : (∀ src, ∀ c < 4, s.mayCharge src ctx c = true) ∧ ∀ engine, s.mayCopy die engine ctx false = true
  unlogged : (s.hind ctx).mode = .off

/-- For a lone item whose counter is below 63 and whose engine holds fewer than 256 commands, xfer of a good command within the device and xgather of a good command put a command with the four words, the indices, and the chunks to be done at their engine, raise the class's counter and the register's SEQ by 1, and the item goes on; no other register and no memory changes. For the only command of the machine, a LOAD or STORE of one item of an unguarded group that lies in one line within reach of the engines: ENGINE_CHUNK of its one chunk writes the bytes of memory to the scratchpad, or the bytes of the scratchpad to memory; the command is gone, the item's copy counter has fallen by 1, no completion record is written, every other byte of the scratchpad and of memory reads as before. ISOBAR_PERIOD of an engine's or a core's buckets adds RATE to each class's bucket of the context up to its DEPTH, and a core's also ends the throttling of the context's groups there; of a copy engine and of a router it makes the budget full; of a recorder it makes the chunk budget's use 0. Memory is unchanged. (15 R328, 15 R329, 15 R332, 15 R333, 14 R324, 15 R330, 15 R327, 04 R89, 15 R347) -/
def Obligations.EngineCommands : Prop :=
  (
    ∀ (s : State) (g : Group) (o : Form) (k : Nat) (it : Item) (kn : Kernel) (b : Binding) (p : QueuePort),
      let q := o.d.toNat
      let w := wordsAt it o.a
      let sends (i : Instr) (f : Item → Item) (indices : List W32) (chunks : Nat) : Prop :=
        exec i s = .next { s.goesOn i g k it (fun it => f (it.commandIssued q p)) with
          commands := Table.put s.commands s.nextId (commandOf s g k it q p b w indices chunks)
          nextId := s.nextId + 1 }
      Queued s g it kn q b → Table.get? it.ports q = some p → s.engineLoad (dieOfCore g.core) b.index < 256 →
      (∀ c, c = parseCopy w → b.kind = 1 → copyOk w kn.desc (g.gangrank.toNat / 32) = true → it.copyCount.toNat < 63 →
        (c.kind = 0 → c.dev = g.gangrank.toNat / 32) → SpanFits g (if c.kind = 2 then [] else [(c.spad, c.bytes)]) c.bar →
        Alone s g (.xfer o) k it → sends (.xfer o) (fun it => { it with copyCount := it.copyCount + 1 }) [] ((c.bytes + 4095) / 4096)) ∧
      (∀ c, c = parseGather w → b.kind = 2 → gatherOk w = true → it.gatherCount.toNat < 63 → g.spadPoison = [] →
        SpanFits g [(c.dst, c.rowBytes * c.count), (c.idx, 4 * c.count)] c.bar → Alone s g (.xgather o) k it →
        sends (.xgather o) (fun it => { it with gatherCount := it.gatherCount + 1 })
          ((List.range c.count).map (fun j => BitVec.ofNat 32 (leNat (g.spadRead (c.idx + 4 * j) 4)))) ((c.count + 31) / 32))) ∧
  (
    ∀ (s : State) (id pa : Nat) (c : Command) (g : Group) (kn : Kernel) (it : Item),
      let x := parseCopy c.words
      let tag := s.keyTag (s.context c.ctx).key
      s.commands = [(id, c)] → s.group? c.gid = some g → s.kernel? c.kh = some kn → Table.get? g.items c.slot = some it → g.guarded = none →
      g.spadPoison = [] → c.ctx = g.ctx → c.gather = false → c.left = [0] → c.failed = [] → c.faulted = [] → c.away = [] → c.held = [] →
      x.mask = 0 → x.dev = g.gangrank.toNat / 32 → x.full = false → x.bar = 0 →
      (x.kind = 0 → EngineReach s c.die c.ctx x.ga x.bytes pa false →
        ∃ u h, exec (.engineChunk id 0) s = .next u ∧ u.memory = s.memory ∧ u.commands = [] ∧ u.group? c.gid = some h ∧
          h.spadRead x.spad x.bytes = s.memory.read tag pa x.bytes ∧
          (∀ a, a < x.spad ∨ x.spad + x.bytes ≤ a → Table.read 0 h.scratch a = Table.read 0 g.scratch a) ∧
          ∃ it', Table.get? h.items c.slot = some it' ∧ it'.copyCount = it.copyCount - 1 ∧ it'.ports = it.ports ∧ it'.v = it.v ∧ it'.pc = it.pc) ∧
      (x.kind = 1 → EngineReach s c.die c.ctx x.ga x.bytes pa true →
        ∃ u h, exec (.engineChunk id 0) s = .next u ∧ u.commands = [] ∧ u.group? c.gid = some h ∧ h.scratch = g.scratch ∧
          u.memory.read tag pa x.bytes = g.spadRead x.spad x.bytes ∧
          (∀ a, (a < pa ∨ pa + x.bytes ≤ a) → ∀ t, u.memory.byte t a = s.memory.byte t a) ∧
          ∃ it', Table.get? h.items c.slot = some it' ∧ it'.copyCount = it.copyCount - 1 ∧ it'.ports = it.ports ∧ it'.v = it.v ∧ it'.pc = it.pc)) ∧
  (
    ∀ (s : State) (ctx : Nat),
      let refilled (src : Nat) (u : State) : Prop := ∀ cls, cls < 4 →
        u.bucket src ctx cls = min (s.bucket src ctx cls + ((s.context ctx).rate.getD cls 0 : Int)) ((s.context ctx).depth.getD cls 0 : Int)
      (∀ core, ∃ u, exec (.isobarPeriod (.bucketCore core) ctx) s = .next u ∧ u.memory = s.memory ∧ refilled core u ∧
        ∀ gid g, s.group? gid = some g → g.core = core → g.ctx = ctx → u.group? gid = some { g with throttled := false }) ∧
      (∀ die engine, ∃ u, exec (.isobarPeriod (.bucketEngine die engine) ctx) s = .next u ∧ u.memory = s.memory ∧ refilled (1024 + 17 * die + engine) u) ∧
      (∀ die engine, ∃ u, exec (.isobarPeriod (.copyEngine die engine) ctx) s = .next u ∧ u.memory = s.memory ∧ u.injLeft = s.injLeft ∧
        ∀ n : Int, Table.read n u.copyLeft ((die * 16 + engine) * 1024 + ctx) = n) ∧
      (∀ die, ∃ u, exec (.isobarPeriod (.router die) ctx) s = .next u ∧ u.memory = s.memory ∧ u.copyLeft = s.copyLeft ∧
        ∀ n : Int, Table.read n u.injLeft (die * 1024 + ctx) = n) ∧
      (∀ cluster r, Table.get? (s.hind ctx).recorders cluster = some r → ∃ u r', exec (.isobarPeriod (.recorder 0 cluster) ctx) s = .next u ∧
        u.memory = s.memory ∧ Table.get? (u.hind ctx).recorders cluster = some r' ∧ r' = { r with used := 0 }))

/-! ### Collectives (15 R340 to R346) -/

/-- The collective forms with their SUB (R341). -/
def Sys2Proof.Machine.collectives (o : Form) : List (Instr × Nat) := [(.cred o, 0), (.callred o, 1), (.credsc o, 2), (.callg o, 3)]

/-- For a lone item of a gang on one device whose counter is below 63, each form with a good command gives the gang's collective of the group's next number this member's command with its four words, raises the group's count of collectives, the item's collective counter and SEQ by 1, and the item goes on; registers and memory are unchanged. In a gang on one device: COLLECTIVE_JOIN of a collective whose members' agreeing commands have all come reads every contribution from its member's scratchpad, and joins it. COLLECTIVE_CHUNK then gives a member of an INT32 sum by callred of at most 4096 bytes, in one chunk, each word of its destination as the sum modulo 2^32 of that word over all contributions; memory is unchanged. (15 R340, 15 R341, 15 R346, 14 R324, 15 R342, 15 R343, 15 R344) -/
def Obligations.Collectives : Prop :=
  (
    ∀ (s : State) (g : Group) (o : Form) (k : Nat) (it : Item) (kn : Kernel) (b : Binding) (p : QueuePort),
      let q := o.d.toNat
      let w := wordsAt it o.a
      let n := kn.desc.gangGroups
      let rank := g.gangrank.toNat % 32
      Queued s g it kn q b → b.kind = 3 → Table.get? it.ports q = some p → it.collCount.toNat < 63 → kn.desc.gangDevs = 1 → g.gangrank.toNat < 32 →
      ∀ f ∈ collectives o, Alone s g f.1 k it → collOk f.2 w n = true →
        let c := parseColl f.2 w
        SpanFits g [(c.src, c.bytes), (c.dst, c.received rank n)] c.bar →
        ∃ u h it' id j m, exec f.1 s = .next u ∧ u.memory = s.memory ∧ u.group? s.wave.gid = some h ∧ h.collectives = g.collectives + 1 ∧
          Table.get? h.items k = some it' ∧ it'.pc = (s.envOf g k it).nextPc ∧ it'.v = it.v ∧ it'.collCount = it.collCount + 1 ∧
          Table.get? it'.ports q = some { p with seq := p.seq + 1 } ∧ Table.get? u.joins id = some j ∧ j.kh = g.kh ∧ j.stage = g.stage ∧
          j.gangix = g.gangix ∧ j.n = g.collectives ∧ Table.get? j.members rank = some m ∧ m.sub = f.2 ∧ m.words = w ∧ m.rank = rank ∧
          m.gid = s.wave.gid ∧ m.slot = k ∧ m.seq = p.seq + 1 ∧ m.failed = []) ∧
  (
    ∀ (s : State) (id : Nat) (j : Join) (kn : Kernel), Table.get? s.joins id = some j → s.kernel? j.kh = some kn → kn.desc.gangDevs = 1 →
      j.remote = [] → j.outcome = 0 → (s.hind kn.ctx).mode = .off → Table.sorted j.members = true →
      (j.joined = false → j.shares = [] → j.members.length = kn.desc.gangGroups → j.agrees = true →
        (∀ p ∈ j.members, ∃ g, s.group? p.2.gid = some g ∧ g.spadPoison = [] ∧ g.ctx = kn.ctx) →
        ∃ u j', exec (.collectiveJoin id) s = .next u ∧ u.memory = s.memory ∧ Table.get? u.joins id = some j' ∧ j'.joined = true ∧ j'.outcome = 0 ∧
          j'.members = j.members ∧ ∀ r m g, Table.get? j.members r = some m → s.group? m.gid = some g →
            Table.get? j'.shares r = some (g.spadRead (parseColl m.sub m.words).src (parseColl m.sub m.words).bytes, [])) ∧
      (∀ (r : Nat) (m : CollMember) (g : Group) (shares : List (List W8)), j.joined = true → Table.get? j.members r = some m → m.rank = r →
        s.group? m.gid = some g → g.guarded = none → g.ctx = kn.ctx → m.left = [0] →
        let c := parseColl m.sub m.words
        c.sub = 1 → c.dtype = 0 → c.op = 0 → c.full = false → c.bar = 0 → c.bytes ≤ 4096 →
        (∀ cls < 4, s.mayCharge (1024 + 17 * dieOfCore g.core + 16) kn.ctx cls = true) → 1 ≤ shares.length → shares.length = kn.desc.gangGroups →
        (∀ (n : Nat) (h : n < shares.length), Table.get? j.shares n = some (shares[n], []) ∧ shares[n].length = c.bytes) → shares.length ≤ 1024 →
        ∃ u h, exec (.collectiveChunk id r 0) s = .next u ∧ u.memory = s.memory ∧ u.group? m.gid = some h ∧
          (∀ e, 4 * e + 4 ≤ c.bytes → BitVec.ofNat 32 (leNat (h.spadRead (c.dst + 4 * e) 4)) =
            (shares.map (fun x => BitVec.ofNat 32 (leNat ((x.drop (4 * e)).take 4)))).sum) ∧
          ∀ a, a < c.dst ∨ c.dst + c.bytes ≤ a → Table.read 0 h.scratch a = Table.read 0 g.scratch a))

/-! ### Launch queues, seats and the ends of kernels (05, 06) -/

/-- The bytes of a queue's slot `n` (R103). -/
def Sys2Proof.Machine.slotAt (q : LaunchQueue) (n : W64) : W64 := q.qbase + BitVec.ofNat 64 (256 * (n.toNat % 2 ^ q.logLen))

/-- Firmware reaches `n` bytes of one line of a context in HBM4: the page tables map them for the access, the owner's engines are granted them, the
home slice holds every token of the line, and the line is bound to the context's key and holds no error (R110). -/
structure Sys2Proof.Machine.FirmReach (s : State) (ctx : Nat) (va : W64) (n pa : Nat) (write : Bool) : Prop where
  oneLine : va.toNat % 128 + n ≤ 128 ∧ 0 < n
  mapped : ∃ l, s.walkKind ctx va (if write then 1 else 0) = .leaf l ∧ pa = l.addr + va.toNat % 2 ^ l.logSize
  granted : s.granted ctx pa n true write = true
  hbm : s.target? pa = some .hbm
  tokens : (s.l2At (homeSlice pa) pa).tokens = 5
  unpinned : (s.l2At (homeSlice pa) pa).pins = 0
  clean : s.memory.poisoned (lineOf pa) = false
  bound : s.keyState (s.context ctx).key = 1
  held : s.memory.tag (lineOf pa) = s.keyTag (s.context ctx).key

/-- A launch queue as it stands. -/
def Sys2Proof.Machine.State.queue (s : State) (n : Nat) : LaunchQueue := Table.read LaunchQueue.empty s.queues n

/-- For a lone item that reaches its record's two lines, launch gives in D 1 where the context has no queue at LQ, 2 where it is a host queue, 3 where the record breaks a limit, 4 where the queue is full, and nothing is appended. Where a slot of a device queue is free and reachable, D is 0, TAIL has risen by 1, a binding pass is due, and the slot's two lines hold the record. QUEUE_DOORBELL on an Up port raises the TAIL of a host queue that stands within its length, and a binding pass is due; any other write leaves the queue and counts in DBERR. A due pass takes the ready head record of the only open queue with one: a Queued kernel stands at the lowest free handle and HEAD has risen; a head record that is refused is skipped and counted; with no open record the pass ends. BIND_SEAT of an allowed seat of a kernel without gangs writes its bind entry, and a Queued kernel becomes Loading. LOADER_LOAD on a free seat with a valid entry and room makes a Loading group whose items, as many as the stage's queue gives up to GROUPSLOTS, have consecutive ITEMIX, stand at ENTRY in zero registers, and have been drawn. GROUP_LOAD_FINISHED of a group without gangs makes it run, or drain where slots stayed empty. KERNEL_DONE of a Draining kernel whose items have all ended makes it Complete: its groups are gone and its completion update waits. COMPLETION_RECORD_UPDATE of a completed kernel adds 1 to the COUNT word of its record and frees the handle. (05 R103, 05 R106, 05 R114, 05 R109, 05 R110, 05 R113, 05 R111, 06 R127, 07 R137, 06 R123, 06 R124, 05 R107) -/
def Obligations.LaunchPath : Prop :=
  (
    ∀ (s : State) (g : Group) (o : Form) (k : Nat) (it : Item) (a b : Nat), Alone s g (.launch o) k it →
      let lq := (it.readV o.b).toNat
      let va := it.readV2 o.a
      let tag := s.keyTag (s.context g.ctx).key
      let rec_ := s.memory.read tag a 128 ++ s.memory.read tag b 128
      it.storesOut = [] → g.turnTaken (s.envOf g k it) = false → lq ≤ 15 → va.toNat % 256 = 0 → Reachable s g va 128 a (sliceFor g a) false →
      Reachable s g (va + 128) 128 b (sliceFor g b) false →
      let answers (st : Nat) (u : State) : Prop := exec (.launch o) s = .next u ∧ ∃ it', u.item? s.wave.gid k = some it' ∧
        it'.v = (it.writeV o.d (BitVec.ofNat 32 st)).v ∧ it'.pc = (s.envOf g k it).nextPc ∧ it'.wait = .none ∧ it'.p = it.p ∧ it'.fpstat = it.fpstat
      (s.queueAt g.ctx lq = none → ∃ u, answers 1 u ∧ u.queues = s.queues ∧ u.memory = s.memory) ∧
      (∀ n, s.queueAt g.ctx lq = some n →
        let q := s.queue n
        (q.device = false → ∃ u, answers 2 u ∧ u.queues = s.queues ∧ u.memory = s.memory) ∧
        (q.device = true → recordOk rec_ = false → ∃ u, answers 3 u ∧ u.queues = s.queues ∧ u.memory = s.memory) ∧
        (q.device = true → recordOk rec_ = true → (q.tail - q.head).toNat = 2 ^ q.logLen → ∃ u, answers 4 u ∧ u.queues = s.queues ∧ u.memory = s.memory) ∧
        (∀ x y, q.device = true → recordOk rec_ = true → (q.tail - q.head).toNat ≠ 2 ^ q.logLen → q.qbase.toNat % 128 = 0 →
          FirmReach s g.ctx (slotAt q q.tail) 128 x true → FirmReach s g.ctx (slotAt q q.tail + 128) 128 y true → lineOf x ≠ lineOf y →
          ∃ u, answers 0 u ∧ u.queues = Table.put s.queues n { q with tail := q.tail + 1 } ∧ u.passDue = true ∧
            u.memory.read tag x 128 ++ u.memory.read tag y 128 = rec_))) ∧
  (
    (∀ (s : State) (n : Nat) (tail : W64), s.zhevport = .up → n < 256 →
      let q := s.queue n
      (q.state ≠ .free → q.device = false → q.tail.toNat ≤ tail.toNat → (tail - q.head).toNat ≤ 2 ^ q.logLen →
        exec (.queueDoorbell n tail) s = .next { s with queues := Table.put s.queues n { q with tail := tail }, passDue := true }) ∧
      (q.state = .free ∨ q.device = true ∨ tail.toNat < q.tail.toNat ∨ 2 ^ q.logLen < (tail - q.head).toNat →
        exec (.queueDoorbell n tail) s = .next { s with queues := Table.put s.queues n { q with dbErr := q.dbErr + 1 } })) ∧
    (∀ (s : State) (kh : Nat), s.passDue = true → s.stopped = false → s.refusalOpen = false →
      ((∀ n, n < 256 → (s.queue n).state ≠ .opened ∨ (s.queue n).tail = (s.queue n).head) →
        exec .bindingPass s = .next { s with passDue := false }) ∧
      (∀ n t, n < 256 → (s.queue n).state = .opened → (s.queue n).tail ≠ (s.queue n).head →
        (∀ m, m < 256 → m ≠ n → (s.queue m).state ≠ .opened ∨ (s.queue m).tail = (s.queue m).head) → t.queues = s.queues →
        (t.hind (s.queue n).owner).mode = .off → (s.hind (s.queue n).owner).mode = .off →
        (∀ r d, s.readHead (s.queue n) = .ready r d t → t.refusalOpen = false → t.freeHandle = some kh → d.gangDevs = 1 →
          ∃ u kn, exec .bindingPass s = .next u ∧ Table.get? u.kernels kh = some kn ∧ kn.state = .queued ∧ kn.desc = d ∧
            kn.ctx = (s.queue n).owner ∧ kn.prio = r.prio ∧ kn.descAddr = r.desc ∧ u.queue n = { s.queue n with head := (s.queue n).head + 1 } ∧
            u.lastQueue = n) ∧
        (∀ code crec, s.readHead (s.queue n) = .refused code crec t →
          ∃ u, exec .bindingPass s = .next u ∧ u.kernels = t.kernels ∧ u.queue n = { s.queue n with
            head := (s.queue n).head + 1
            refused := (s.queue n).refused + 1
            lastErr := code }))) ∧
    (∀ (s : State) (b : BindChoice) (kn : Kernel) (seat : Nat), s.kernel? b.kh = some kn → b.seats = [seat] → kn.hasGangs = false →
      (s.hind kn.ctx).mode = .off →
      (s.mayBind b kn = true → exec (.bindSeat b) s = .next { s with
        bindTable := Table.put s.bindTable seat { valid := true, stage := b.stage, count := b.count, kh := b.kh, gangId := b.gangId, rank := 0
                                                  seq := s.bindSeq, gangix := kn.nextGang.getD b.stage 0 }
        bindSeq := s.bindSeq + 1
        kernels := Table.modify s.kernels b.kh (fun k => { k with state := if k.state = .queued then .loading else k.state }) }) ∧
      (s.mayBind b kn = false → exec (.bindSeat b) s = .next s))) ∧
  (
    (∀ (s : State) (core seat : Nat) (kn : Kernel),
      let b := s.bindEntry (4 * core + seat)
      let lo := kn.next.getD b.stage 0
      let n := min kn.desc.groupSlots (kn.limit.getD b.stage 0 - lo)
      s.kernel? b.kh = some kn → core < 1024 → seat < 4 → b.valid = true → s.seatGroup core seat = none → kn.state.ended = false →
      s.saving kn.ctx = false → 0 < n → s.room core 1 kn = true → (s.hind kn.ctx).mode = .off → kn.limit.getD b.stage 0 ≤ 2 ^ 48 →
      b.stage < kn.next.length →
      ∃ u g kn', exec (.loaderLoad core seat) s = .next u ∧ u.memory = s.memory ∧ u.group? s.nextId = some g ∧ g.state = .loading ∧
        g.place = .seat core seat ∧ g.kh = b.kh ∧ g.stage = b.stage ∧ g.slots = kn.desc.groupSlots ∧ g.scratch = [] ∧ g.items.length = n ∧
        u.kernel? b.kh = some kn' ∧ kn'.next.getD b.stage 0 = lo + n ∧
        ∀ j, j < n → ∃ it, Table.get? g.items j = some it ∧ it.itemix.toNat = lo + j ∧ it.pc = kn.descAddr + ((kn.desc.stages[b.stage]?).map Prod.fst).getD 0 ∧
          it.v = Vector.replicate 128 0 ∧ it.p = 0 ∧ it.frame = BitVec.ofNat 7 kn.desc.entryFrame ∧ it.cohort = 0 ∧ it.wait = .none) ∧
    (∀ (s : State) (core seat gid : Nat) (g : Group) (kn : Kernel), s.seatGroup core seat = some gid → s.group? gid = some g →
      s.kernel? g.kh = some kn → g.state = .loading → kn.hasGangs = false → kn.desc.guarded = false →
      ∃ u kn', exec (.groupLoadFinished core seat) s = .next u ∧ u.memory = s.memory ∧
        u.group? gid = some { g with
          state := if g.items.length < g.slots then .draining else .running
          started := true } ∧
        u.kernel? g.kh = some kn' ∧ (kn.state = .loading → kn'.state = if kn.empty then .draining else .running)) ∧
    (∀ (s : State) (kh : Nat) (kn : Kernel), s.kernel? kh = some kn → kn.state = .draining → kn.ended = kn.total → kn.desc.gangDevs = 1 →
      kn.gangN = 0 →
      ∃ u, exec (.kernelDone kh) s = .next u ∧ u.memory = s.memory ∧ u.kernel? kh = some { kn with state := .complete } ∧
        Table.get? u.updates s.nextId = some { ctx := kn.ctx, crec := kn.crec, failed := false, queue := kn.queue, kh := some kh, waits := [], kseq := kn.kseq } ∧
        (∀ gid g, s.group? gid = some g → g.kh = kh → u.group? gid = none) ∧
        ((s.groups.map Prod.fst).Nodup → ∀ gid g, s.group? gid = some g → g.kh ≠ kh → u.group? gid = some g)) ∧
    (∀ (s : State) (id kh : Nat) (x : CompletionUpdate), Table.get? s.updates id = some x → x.kh = some kh → s.kernelQuiet x.ctx kh = true →
      (∀ kn, s.kernel? kh = some kn → s.saving kn.ctx = false) →
      (x.crec = 0 → exec (.completionRecordUpdate id) s = .next { s with
        updates := Table.erase s.updates id
        kernels := Table.erase s.kernels kh
        passDue := true }) ∧
      (∀ pa, x.crec ≠ 0 → x.crec.toNat % 16 = 0 → x.failed = false → FirmReach s x.ctx x.crec 8 pa false → FirmReach s x.ctx x.crec 8 pa true →
        (s.hind x.ctx).mode = .off →
        let tag := s.keyTag (s.context x.ctx).key
        ∃ u, exec (.completionRecordUpdate id) s = .next u ∧ u.updates = Table.erase s.updates id ∧ u.kernels = Table.erase s.kernels kh ∧
          u.passDue = true ∧ u.memory.read tag pa 8 = leBytes 8 (leNat (s.memory.read tag pa 8) + 1) ∧
          ∀ a, (a < pa ∨ pa + 8 ≤ a) → ∀ t, u.memory.byte t a = s.memory.byte t a)))

/-! ### Context and page instructions (04 R98 to R102, 16 R367) -/

/-- The lone item's context is a system context that keeps no log, and field A names a CTXID. -/
structure Sys2Proof.Machine.Manages (s : State) (g : Group) (it : Item) (a : BitVec 7) (t : Nat) : Prop where
  privileged : (s.context g.ctx).system = true
  unlogged : (s.hind g.ctx).mode = .off
  target : (it.readV a).toNat = t ∧ 0 < t ∧ t < 1024

/-- A status lands in D. -/
def Sys2Proof.Machine.givesStatus (i : Instr) (s u : State) (g : Group) (k : Nat) (it : Item) (d : BitVec 7) (st : Nat) : Prop :=
  exec i s = .next (u.setItem s.wave.gid k ((s.envOf g k it).on i (s.envOf g k it).nextPc
    (({ it with wait := .none } : Item).writeV d (BitVec.ofNat 32 st))))

/-- In a system context, on its own context or a child: tlbinvall discards every TLB entry of the target, and every table that a walker holds for it, and tlbinv those that meet the page, once no access of it is on its way and none is held, and give DONE in D; pgprobe gives in its pair the leaf that the walk reaches, or the reason and level of its fault. A target that is Torn down gives NOCTX and nothing changes. In a system context, on a child: ctxsave of an Active child with a mapped area begins its save and waits; ctxkill begins its teardown and waits; ctxload whose resume completes gives its status in D; kretire of a Suspended child with a free key id binds the child to it and gives DONE; the form that has waited gives the status with which its command ended, and no item of lower LSLOT waits in the form before it. A Torn down target gives NOCTX, the own context SELF, and nothing changes. (16 R363, 16 R366, 16 R367, 04 R90, 04 R98, 04 R99, 04 R100, 04 R101) -/
def Obligations.SystemForms : Prop :=
  (
    ∀ (s : State) (g : Group) (o : Form) (z : SizeForm) (k : Nat) (it : Item) (t : Nat),
      let kin (t : Nat) : Prop := (s.context t).state ≠ .tornDown ∧ (t = g.ctx ∨ (s.context t).parent = g.ctx)
      let quiet (t : Nat) : Prop := (∀ p ∈ s.accesses, p.2.ctx ≠ t) ∧ ∀ p ∈ s.groups, p.2.ctx = t → p.2.guarded = none
      (Manages s g it o.a t → kin t →
        (Alone s g (.tlbinvall o) k it → g.turnTaken (s.envOf g k it) = false → quiet t →
          givesStatus (.tlbinvall o) s { s with
            tlbs := s.tlbs.filter (fun p => p.2.ctx != t)
            paths := s.paths.filter (fun p => p.2.ctx != t) } g k it o.d 0) ∧
        (Alone s g (.pgprobe o) k it →
          (∀ l, s.probe t (it.readV2 o.b) = .leaf l → exec (.pgprobe o) s = .next (s.goesOn (.pgprobe o) g k it (fun it =>
            it.writeV2 o.d (BitVec.ofNat 64 (2 ^ 63 + (if l.x then 2 ^ 58 else 0) + (if l.w then 2 ^ 57 else 0) + (if l.r then 2 ^ 56 else 0) +
              2 ^ 52 * l.code + (l.addr + (it.readV2 o.b).toNat % 2 ^ l.logSize)))))) ∧
          (∀ r lv bad, s.probe t (it.readV2 o.b) = .fault r lv bad → exec (.pgprobe o) s = .next (s.goesOn (.pgprobe o) g k it (fun it =>
            it.writeV2 o.d (BitVec.ofNat 64 (2 ^ 59 * r + lv))))))) ∧
      (Manages s g it z.a t → kin t → Alone s g (.tlbinv z) k it → g.turnTaken (s.envOf g k it) = false → quiet t →
        let va := (it.readV2 z.b).toNat % 2 ^ 57
        givesStatus (.tlbinv z) s { s with
          tlbs := s.tlbs.filter (fun p =>
            let m := max z.sz.toNat p.2.logSize
            p.2.ctx != t || p.2.base / 2 ^ m != va / 2 ^ m)
          paths := s.paths.filter (fun p =>
            let m := max z.sz.toNat (21 + 9 * p.2.level)
            p.2.ctx != t || p.2.prefix_ * 2 ^ (21 + 9 * p.2.level) / 2 ^ m != va / 2 ^ m) } g k it z.d 0) ∧
      (Manages s g it o.a t → (s.context t).state = .tornDown → Alone s g (.tlbinvall o) k it → g.turnTaken (s.envOf g k it) = false →
        givesStatus (.tlbinvall o) s s g k it o.d 1)) ∧
  (
    ∀ (s : State) (g : Group) (o : Form) (z : SizeForm) (k : Nat) (it : Item) (t : Nat),
      let child (t : Nat) : Prop := (s.context t).state ≠ .tornDown ∧ t ≠ g.ctx ∧ (s.context t).parent = g.ctx ∧ s.commandOpen t = false
      let forms : List (Instr × BitVec 7 × BitVec 7) :=
        [(.ctxsave z, z.d, z.a), (.ctxload z, z.d, z.a), (.ctxkill o, o.d, o.a), (.kretire o, o.d, o.a)]
      let area := it.readV2 z.b
      (∀ f ∈ forms, Alone s g f.1 k it → ∀ st : Nat, Manages s g it f.2.2 t → st < 2 ^ 32 → it.got = some (BitVec.ofNat 64 st, 0) →
        givesStatus f.1 s s g k it f.2.1 st) ∧
      (area.toNat % 4096 = 0 → it.got = none → it.storesOut = [] → g.turnTaken (s.envOf g k it) = false →
        (∀ f ∈ forms, Alone s g f.1 k it → Manages s g it f.2.2 t →
          ((s.context t).state = .tornDown → givesStatus f.1 s s g k it f.2.1 1) ∧
          ((s.context t).state ≠ .tornDown → t = g.ctx → givesStatus f.1 s s g k it f.2.1 3)) ∧
        (Alone s g (.ctxsave z) k it → Manages s g it z.a t → child t → (s.context t).state = .active →
          s.areaMapped g.ctx true (2 ^ z.sz.toNat / 4096 + 1) area (2 ^ z.sz.toNat) = true → (∀ p ∈ s.groups, p.2.guarded = none) →
          ∃ u, exec (.ctxsave z) s = .next u ∧ u.memory = s.memory ∧
            Table.get? u.pending s.nextId = some { kind := 0, ctx := t, asker := .item s.wave.gid k, area := area, size := 2 ^ z.sz.toNat, via := g.ctx } ∧
            (∃ it', u.item? s.wave.gid k = some it' ∧ it' = { it with issued := true, wait := .command s.nextId }) ∧
            ∀ gid h, s.group? gid = some h → h.ctx = t → u.group? gid = some { h with stopAsked := true }) ∧
        (∀ u st, Alone s g (.ctxload z) k it → Manages s g it z.a t → child t →
          (s.context t).state = .configured ∨ (s.context t).state = .suspended →
          s.areaMapped g.ctx false (2 ^ z.sz.toNat / 4096 + 1) area (2 ^ z.sz.toNat) = true →
          s.resume t (.item s.wave.gid k) g.ctx area (2 ^ z.sz.toNat) = .done u st → st < 2 ^ 32 → u.group? s.wave.gid = some g →
          u.kernel? g.kh = s.kernel? g.kh → (u.hind g.ctx).mode = .off → u.wave = s.wave →
          givesStatus (.ctxload z) s u g k it z.d st) ∧
        (Alone s g (.ctxkill o) k it → Manages s g it o.a t → child t → (s.context t).state ≠ .tearing →
          (s.groups.map Prod.fst).Nodup → (∀ p ∈ s.groups, p.2.ctx = t → p.2.guarded = none) →
          ∃ u, exec (.ctxkill o) s = .next u ∧ u.memory = s.memory ∧ (u.context t).state = .tearing ∧
            Table.get? u.pending s.nextId = some { kind := 2, ctx := t, asker := .item s.wave.gid k, area := 0, size := 0, via := 0 } ∧
            (∀ gid h, s.group? gid = some h → h.ctx = t → u.group? gid = none) ∧
            ∃ it', u.item? s.wave.gid k = some it' ∧ it' = { it with issued := true, wait := .command s.nextId }) ∧
        (∀ key, Alone s g (.kretire o) k it → Manages s g it o.a t → child t → (s.context t).state = .suspended →
          0 < (s.context t).key → s.keyState (s.context t).key = 1 → s.freeKeyId = some key →
          ∃ u it', exec (.kretire o) s = .next u ∧ (u.context t).key = key ∧ u.keyState key = 1 ∧ u.keyState (s.context t).key = 0 ∧
            u.keyGeneration key = s.keyGeneration key + 1 ∧ u.item? s.wave.gid k = some it' ∧ it'.v = (it.writeV o.d 0).v ∧
            it'.pc = (s.envOf g k it).nextPc)))

/-! ### The command ring (22 R463, 04 R90 to R101) -/

/-- A command of the ring as system software writes it (R92): its first bytes, its CTXID, the word at 4, and the two words of 8 bytes at 8 and 0x10. -/
def Sys2Proof.Machine.ringCommand (opc action ctx low addr size : Nat) : List W8 :=
  leBytes 1 opc ++ leBytes 1 action ++ leBytes 2 ctx ++ leBytes 4 low ++ leBytes 8 addr ++ leBytes 8 size ++ leBytes 8 0

/-- The command that firmware accepts next (R463): firmware is up, the Zhevport is Up, and slot HEAD mod 256 holds these bytes. -/
structure Sys2Proof.Machine.Posted (s : State) (slot : Nat) (c : List W8) : Prop where
  ready : s.dev.bootStat = 2 ∧ s.zhevport = .up
  waiting : s.ringHead < s.ringTail
  place : s.ringHead % 256 = slot
  holds : Table.read (List.replicate 32 0) s.ringSlots slot = c

/-- HEAD has passed the command, and its STATUS shows a code with bit 31. -/
def Sys2Proof.Machine.State.doneWith (s : State) (slot : Nat) (c : List W8) (code : Nat) : State :=
  { s with
    ringHead := s.ringHead + 1
    ringSlots := Table.put s.ringSlots slot (overlay c 0x18 (leBytes 4 (2 ^ 31 + code))) }

/-- The same, of the state after a step. -/
def Sys2Proof.Machine.Answered (s u : State) (slot : Nat) (c : List W8) (code : Nat) : Prop :=
  u.ringHead = s.ringHead + 1 ∧ Table.read (List.replicate 32 0) u.ringSlots slot = overlay c 0x18 (leBytes 4 (2 ^ 31 + code))

/-- The commands, with their OPC and ACTION (R92). -/
def Sys2Proof.Machine.commandForms : List (Instr × Nat × Nat) :=
  [(.alloc, 1, 0), (.config, 2, 0), (.start, 3, 0), (.suspend, 4, 0), (.resume, 5, 0), (.clear, 6, 0), (.kill, 7, 0), (.rekey, 8, 0)]

/-- The queues of a context, idle until now, are open (R105), and a binding pass is due. -/
def Sys2Proof.Machine.State.opened (s : State) (ctx : Nat) : State :=
  { s with
    queues := s.queues.mapAll (fun _ q => if q.owner = ctx ∧ q.state = .idle then { q with state := .opened } else q)
    passDue := true }

/-- With no command to accept, firmware not up, or the Zhevport not Up, every context command event leaves the state in which no Resume is in progress. A CTXID of 0 is refused with BADCMD; on a Torn down context every command but Alloc gives NOCTX, and in a state that its row does not list Alloc, Config, Start, Suspend, Clear and Rekey give STATE; an unallocated OPC gives BADCMD. Nothing else changes. Alloc makes a Torn down context Allocated. Config of an Allocated one whose CCB passes binds the lowest free key id under a fresh generation and installs the CCB's fields; a CCB that fails gives BADCCB, and no free key id NOKEY. Start and Clear make it Active and its idle queues open. Suspend of an Active one stops its queues and groups, and its image is awaited. Kill makes it Tearing, with none of its groups, kernels, queues and waiting engine commands left, and waits. Rekey of a Suspended one binds a fresh key id and frees the old one. Resume from an area smaller than the header gives IMAGE; from one whose MAGIC or REVISION differs gives REVISION; where the DIGEST differs it gives IMAGE. From a whole image that holds no kernel, the context is Active, its launch queues stand where their records say, and no group or kernel has changed. SUSPEND_IMAGE_WRITE, once the context's groups have stopped and their register stacks are out, writes the image to its area, and the context is Suspended with none of its groups left; where the image does not fit, the command ends with NOSPACE and the state of the context stays. GROUP_RESTORE puts a waiting image on a free seat: the group's items have the PC, index, predicates and v0 to v31 of their records. TEARDOWN_DRAINED with nothing on its way retires the key id. SWEPT frees the key id and the CTXID, zeroes the near store in its regions, and a waiting Kill ends with DONE. (04 R87, 04 R90, 04 R92, 04 R93, 04 R94, 04 R95, 04 R96, 04 R99, 04 R101, 05 R105, 07 R152, 22 R463) -/
def Obligations.ContextCommands : Prop :=
  (
    ∀ (s : State) (slot ctx : Nat), 1 ≤ ctx → ctx ≤ 1023 →
      (s.dev.bootStat ≠ 2 ∨ s.zhevport ≠ .up ∨ s.ringTail ≤ s.ringHead → (∀ p ∈ s.pending, p.2.kind ≠ 1) → ∀ f ∈ commandForms, exec f.1 s = .next s) ∧
      (∀ c, Posted s slot c → leAt c 0 1 ∉ [1, 2, 3, 4, 5, 6, 7, 8, 0x10, 0x11, 0x20, 0x30, 0x31, 0x40, 0x41, 0x50, 0x60, 0x70, 0x80, 0x81] →
        exec .unknownCommand s = .next (s.doneWith slot c 12)) ∧
      (∀ f ∈ commandForms, ∀ c, Posted s slot c → s.commandOpen ctx = false → s.commandOpen 0 = false →
        (c = ringCommand f.2.1 0 0 0 0 0 → exec f.1 s = .next (s.doneWith slot c 12)) ∧
        (c = ringCommand f.2.1 0 ctx 0 0 0 →
          (f.2.1 ≠ 1 → (s.context ctx).state = .tornDown → exec f.1 s = .next (s.doneWith slot c 1)) ∧
          (∀ x ∈ [(1, ContextState.tornDown), (2, .allocated), (3, .configured), (4, .active), (6, .faulted), (8, .suspended)], f.2.1 = x.1 →
            (f.2.1 ≠ 1 → (s.context ctx).state ≠ .tornDown) → (s.context ctx).state ≠ x.2 → exec f.1 s = .next (s.doneWith slot c 4))))) ∧
  (
    ∀ (s : State) (slot ctx : Nat), 1 ≤ ctx → ctx ≤ 1023 → s.commandOpen ctx = false →
      let st := (s.context ctx).state
      let now (x : ContextState) : State := s.modContext ctx (fun c => { c with state := x })
      let plain (n : Nat) : List W8 := ringCommand n 0 ctx 0 0 0
      (Posted s slot (plain 1) → st = .tornDown → exec .alloc s = .next ((now .allocated).doneWith slot (plain 1) 0)) ∧
      (Posted s slot (plain 3) → st = .configured → (s.hind ctx).mode = .off →
        exec .start s = .next (((now .active).opened ctx).doneWith slot (plain 3) 0)) ∧
      (Posted s slot (plain 6) → st = .faulted → exec .clear s = .next (((now .active).opened ctx).doneWith slot (plain 6) 0)) ∧
      (∀ a, let c := ringCommand 2 0 ctx 0 a 0
        let b := s.physRead a 512
        Posted s slot c → st = .allocated → a < 2 ^ 64 → a % 64 = 0 → s.firmReads a 512 = true →
        (s.ccbOk ctx b = false → exec .config s = .next (s.doneWith slot c 11)) ∧
        (s.ccbOk ctx b = true → s.freeKeyId = none → exec .config s = .next (s.doneWith slot c 8)) ∧
        (∀ k, s.ccbOk ctx b = true → s.freeKeyId = some k → ∃ u, exec .config s = .next u ∧ Answered s u slot c 0 ∧ u.memory = s.memory ∧
          (u.context ctx).state = .configured ∧ (u.context ctx).key = k ∧ u.keyState k = 1 ∧ u.keyGeneration k = s.keyGeneration k + 1 ∧
          (u.context ctx).system = (leAt b 4 4 % 2 == 1) ∧ (u.context ctx).parent = leAt b 8 2 ∧ (u.context ctx).ptroot.toNat = leAt b 0x10 8 ∧
          (u.context ctx).isoper.toNat = leAt b 0x0C 4 ∧ (u.context ctx).regions.length = leAt b 0x60 4 ∧ (u.context ctx).errors = ErrorQueue.empty ∧
          ∀ x, x ≠ ctx → u.context x = s.context x)) ∧
      (∀ a n, let c := ringCommand 4 0 ctx 0 a n
        Posted s slot c → st = .active → a < 2 ^ 64 → n < 2 ^ 64 → a % 4096 = 0 → s.spanPlaced a n = true → (∀ p ∈ s.groups, p.2.guarded = none) →
        exec .suspend s = .next { s.modContext ctx (fun c => { c with endedInSave := [] }) with
          ringHead := s.ringHead + 1
          queues := s.queues.mapAll (fun _ q => if q.owner = ctx ∧ q.state = .opened then { q with state := .idle } else q)
          pending := Table.put s.pending s.nextId
            { kind := 0, ctx := ctx, asker := .ring slot, area := BitVec.ofNat 64 a, size := n, via := 0 }
          groups := s.groups.mapAll (fun _ g => if g.ctx = ctx then { g with stopAsked := true } else g)
          nextId := s.nextId + 1 }) ∧
      (Posted s slot (plain 7) → st ≠ .tornDown → st ≠ .tearing → (∀ p ∈ s.groups, p.2.ctx = ctx → p.2.guarded = none) → ∃ u, exec .kill s = .next u ∧ u.memory = s.memory ∧ u.ringHead = s.ringHead + 1 ∧
        u.ringSlots = s.ringSlots ∧ (u.context ctx).state = .tearing ∧
        Table.get? u.pending s.nextId = some { kind := 2, ctx := ctx, asker := .ring slot, area := 0, size := 0, via := 0 } ∧
        ((s.groups.map Prod.fst).Nodup → ∀ gid g, s.group? gid = some g → u.group? gid = if g.ctx = ctx then none else some g) ∧
        (∀ p ∈ u.kernels, p.2.ctx ≠ ctx) ∧ (∀ p ∈ u.queues, p.2.owner ≠ ctx) ∧
        ((s.commands.map Prod.fst).Nodup → ∀ id c g, Table.get? s.commands id = some c → c.begun = false → s.group? c.gid = some g → g.ctx = ctx →
          Table.get? u.commands id = none)) ∧
      (∀ k, Posted s slot (plain 8) → st = .suspended → 0 < (s.context ctx).key → s.keyState (s.context ctx).key = 1 → s.freeKeyId = some k →
        ∃ u, exec .rekey s = .next u ∧ Answered s u slot (plain 8) 0 ∧ (u.context ctx).key = k ∧ (u.context ctx).state = .suspended ∧
          u.keyState k = 1 ∧ u.keyGeneration k = s.keyGeneration k + 1 ∧ u.keyState (s.context ctx).key = 0)) ∧
  (
    ∀ (s : State) (slot ctx a n : Nat), 1 ≤ ctx → ctx ≤ 1023 → s.commandOpen ctx = false → a < 2 ^ 64 → n < 2 ^ 64 → a % 4096 = 0 →
      s.spanPlaced a n = true → (s.context ctx).state = .configured ∨ (s.context ctx).state = .suspended →
      let c := ringCommand 5 0 ctx 0 a n
      let h := s.physRead a 128
      let total := leAt h 0x10 8
      let b := s.physRead a total
      Posted s slot c →
      (n < 128 → exec .resume s = .next (s.doneWith slot c 7)) ∧
      (128 ≤ n → s.firmReads a 128 = true → leAt h 0 8 ≠ 0x4B41534953435458 ∨ leAt h 8 4 ≠ 1 → exec .resume s = .next (s.doneWith slot c 6)) ∧
      (s.firmReads a 128 = true → leAt h 0 8 = 0x4B41534953435458 → leAt h 8 4 = 1 → 4096 ≤ total → total ≤ n → total % 4096 = 0 →
        leAt h 0x1C 4 = 0 → zeroAt h 0x28 24 = true → s.firmReads a total = true →
        (shake256 64 (b.drop 0x80) ≠ (b.drop 0x40).take 64 → exec .resume s = .next (s.doneWith slot c 7)) ∧
        (∀ qs, shake256 64 (b.drop 0x80) = (b.drop 0x40).take 64 → parseImage b = some { kernels := [], queues := qs, groups := [], chans := [], colls := [] } →
          s.queueRecordsOk ctx qs = true → (s.queues.map Prod.fst).Nodup → (s.hind ctx).closing = [] →
          ∃ u, exec .resume s = .next u ∧ Answered s u slot c 0 ∧ u.memory = s.memory ∧ u.groups = s.groups ∧ u.kernels = s.kernels ∧
            (u.context ctx).state = .active ∧ u.passDue = true ∧
            ∀ q ∈ qs, ∀ m, s.queueAt ctx (leAt q 0 1) = some m →
              (u.queue m).head.toNat = leAt q 8 8 ∧ (u.queue m).tail.toNat = leAt q 0x10 8 ∧ (u.queue m).state = .opened))) ∧
  (
    (∀ (s t : State) (ctx id slot : Nat) (p : Pending), s.pending.find? (fun p => p.2.kind == 0 && p.2.ctx == ctx) = some (id, p) →
      p.ctx = ctx → p.asker = .ring slot → s.stopDone ctx = true → s.saveStacks ctx = (t, true) → (t.hind ctx).mode = .off →
      (∀ q ∈ t.groups, q.2.marred = false) →
      let image := t.contextImage ctx
      let c := Table.read (List.replicate 32 0) t.ringSlots slot
      let shows (u : State) (code : Nat) : Prop :=
        Table.read (List.replicate 32 0) u.ringSlots slot = overlay c 0x18 (leBytes 4 (2 ^ 31 + code)) ∧ u.pending = Table.erase t.pending id
      (image.length ≤ p.size → ∃ u, exec (.suspendImageWrite ctx) s = .next u ∧ shows u 0 ∧ (u.context ctx).state = .suspended ∧
        u.memory = t.memory.write 0 p.area.toNat image ∧ u.groups = t.groups.filter (fun g => g.2.ctx != ctx)) ∧
      (p.size < image.length → (∀ k ∈ t.kernels, k.2.state ≠ .faulted) → ∃ u, exec (.suspendImageWrite ctx) s = .next u ∧ shows u 5 ∧
        u.memory = t.memory ∧ u.context ctx = { t.context ctx with endedInSave := [] } ∧ (∀ x, x ≠ ctx → u.context x = t.context x) ∧
        ∀ gid g, t.group? gid = some g → g.ctx = ctx → ∃ g', u.group? gid = some g' ∧ g'.stopAsked = false ∧ g'.s = g.s)) ∧
    (∀ (s : State) (core seat image kh ctx : Nat) (b : List W8) (kn : Kernel), Table.get? s.restores image = some (kh, ctx, b) →
      b.length = leAt b 0 8 → s.kernel? kh = some kn → s.mayRestore core seat kn kh b = true → kn.desc.guarded = false → (s.hind ctx).mode = .off →
      let l := groupLayout kn.desc b
      ∃ u g, exec (.groupRestore core seat image) s = .next u ∧ u.restores = Table.erase s.restores image ∧ u.memory = s.memory ∧
        u.group? s.nextId = some g ∧ g.place = .seat core seat ∧ g.kh = kh ∧ g.stage = leAt b 0x0C 1 ∧ g.slots = leAt b 0x0E 2 ∧
        g.groupix.toNat = leAt b 0x10 4 ∧ g.closed.toNat = leAt b 0x20 4 ∧ g.items.length = l.slots.length ∧
        ∀ j (hj : j < l.slots.length), ∃ it, Table.get? g.items l.slots[j] = some it ∧
          let r := b.drop (l.items + 256 * j)
          it.pc.toNat = leAt r 0 8 ∧ it.itemix.toNat = leAt r 0x10 8 % 2 ^ 48 ∧ it.p.toNat = leAt r 0x0F 1 % 128 ∧
          it.stack.toNat = leAt r 0x48 8 ∧ ∀ n : BitVec 7, n.toNat < 32 → (it.readV n).toNat = leAt r (0x80 + 4 * n.toNat) 4) ∧
    (∀ (s : State) (ctx : Nat), let c := s.context ctx
      c.state = .tearing →
      (c.retired = false → (∀ p ∈ s.accesses, p.2.ctx ≠ ctx) → (∀ p ∈ s.commands, p.2.ctx ≠ ctx) → s.links = [] →
        (∀ p ∈ s.ports, p.2.requests = []) → 0 < c.key →
        exec (.teardownDrained ctx) s = .next { s.modContext ctx (fun c => { c with retired := true }) with
          keys := Table.put s.keys c.key (4 * s.keyGeneration c.key + 2) }) ∧
      (∀ id slot area size via, c.retired = true → 0 < c.key →
        s.pending = [(id, { kind := 2, ctx := ctx, asker := .ring slot, area := area, size := size, via := via })] →
        ∃ u, exec (.swept ctx) s = .next u ∧ (u.context ctx).state = .tornDown ∧ (u.context ctx).errors = c.errors ∧ u.keyState c.key = 0 ∧
          u.pending = [] ∧ Table.read (List.replicate 32 0) u.ringSlots slot =
            overlay (Table.read (List.replicate 32 0) s.ringSlots slot) 0x18 (leBytes 4 (2 ^ 31)) ∧
          (∀ p ∈ u.tlbs, p.2.ctx ≠ ctx) ∧
          ∀ x ∈ u.memory.bytes, ∀ r ∈ c.regions, nearBase ≤ x.1 → x.1 < nearBase + 4 * 0x10000000 → ¬(r.base ≤ x.1 ∧ x.1 < r.base + r.bytes))))

/-! ### Migration, the spill engine, page walks and fault records (07 R148, 08 R165, 16 R356 to R362) -/

/-- An item with its wait over. -/
def Sys2Proof.Machine.State.wakes (s : State) (gid slot : Nat) (f : Item → Item) : State := s.modItem gid slot (fun it => f { it with wait := .none })

/-- A lone item with an empty stack and nothing outstanding, at an address it reaches, leaves its slot: a package under the base die that homes the address holds its index, PC + 8, v0 to v31, predicates and trap registers, its s registers, and its kernel and group; it is a member of every barrier. Where no landing slot of the die is free it waits. LANDING on a core of the die with a slot free makes a group of one item, Running after a migr, with those registers, s0 to s15 of the kernel's groups, no scratchpad and no tiles, and the barriers of the package. For the item that the engine of a core serves next: a stack area that is not 16-byte aligned gives it MISALIGN, to be taken at the call or ret; a call whose oldest frames have been written out, and a ret whose caller's frame has been read back, go on; an item whose current frame stands in memory has it back in its window. A walk that has a walker and reaches a leaf gives the unit a TLB entry for the address, and an item of its base die that waits for it goes on. One that finds the page absent or without the right posts a replayable fault of its page, on which those items wait; any other fault gives them PAGEFAULT, with the access kind, LEVEL and REASON in TRAPINFO. The oldest fault without a record is written to the fault ring at TAIL while there is room, under the next number; the record's fields are those of R362. (07 R148, 13 R297, 08 R164, 08 R165, 07 R152, 16 R356, 16 R358, 16 R361, 16 R362, 16 R364) -/
def Obligations.MigrationAndPages : Prop :=
  (
    (∀ (s : State) (g : Group) (o : Form) (k : Nat) (it : Item) (pa slice : Nat), Alone s g (.migr o) k it →
      it.Idle → it.storesOut = [] → it.frame = 0 → it.callers = [] → (∀ kn, s.kernel? g.kh = some kn → kn.desc.guarded = false) →
      Reachable s g (it.readV2 o.a) 1 pa slice false →
      (256 ≤ s.landingsOn (s.homeDie pa) → exec (.migr o) s = .next (State.groupTests
        (s.setItem s.wave.gid k { it with wait := .landing (s.homeDie pa) }) s.wave.gid k)) ∧
      (s.landingsOn (s.homeDie pa) < 256 → (∃ q ∈ g.items, q.1 ≠ k ∧ q.2.arrived = false) →
        ∃ u pk, exec (.migr o) s = .next u ∧ u.memory = s.memory ∧ u.item? s.wave.gid k = none ∧ Table.get? u.packages s.nextId = some pk ∧
          pk.kh = g.kh ∧ pk.ctx = g.ctx ∧ pk.stage = g.stage ∧ pk.groupix = g.groupix ∧ pk.s = g.s ∧ pk.die = s.homeDie pa ∧
          pk.va = it.readV2 o.a ∧ pk.fresh = true ∧ pk.state = .running ∧ pk.item.member = 0xFFFF ∧ pk.item.itemix = it.itemix ∧ pk.item.cohort = it.cohort ∧ pk.item.pc = it.pc + 8 ∧ pk.item.p = it.p ∧
          pk.item.fpctl = it.fpctl ∧ pk.item.fpstat = it.fpstat ∧ pk.item.trapCause = it.trapCause ∧ pk.item.trapPc = it.trapPc ∧
          ∀ n : BitVec 7, pk.item.readV n = if n.toNat < 32 then it.readV n else 0)) ∧
    (∀ (s : State) (id core : Nat) (pk : Package) (kn : Kernel), Table.get? s.packages id = some pk → s.kernel? pk.kh = some kn →
      dieOfCore core = pk.die → core < 1024 → s.residentSlots core < 2048 → kn.state.ended = false → kn.asked = false → s.saving pk.ctx = false →
      (pk.fresh = false → s.landingsOn pk.die < 256) → (s.hind pk.ctx).mode = .off →
      ∃ u g it, exec (.landing id core) s = .next u ∧ u.memory = s.memory ∧ u.packages = Table.erase s.packages id ∧
        u.group? s.nextId = some g ∧ g.place = .landing core pk.die s.landings ∧ g.kh = pk.kh ∧ g.stage = pk.stage ∧ g.slots = 1 ∧
        g.state = pk.state ∧ g.scratchBytes = 0 ∧ g.tiles = [] ∧ g.barriers = pk.barriers ∧ g.items = [(0, it)] ∧ it.member = pk.item.member ∧
        it.v = pk.item.v ∧ it.p = pk.item.p ∧
        it.pc = pk.item.pc ∧ it.itemix = pk.item.itemix ∧
        ∀ n (h : n < 64), g.s[n] = if n < 16 then (if kn.smask.getLsbD n then kn.sval.getD n 0 else kn.desc.sconst.getD n 0) else pk.s[n])) ∧
  (
    ∀ (s t : State) (core gid slot : Nat) (g : Group) (it : Item), s.nextSpill core = some (gid, slot) → s.group? gid = some g →
      Table.get? g.items slot = some it →
      let area := s.stackAreaOf g it
      let e (n : Nat) : Env := { Env.of s g gid slot it with ilen := n }
      (area.toNat % 16 ≠ 0 → exec (.spillFillDone core) s =
        .next (s.wakes gid slot (fun it => { it with owed := some (memTrap causeMisalign area false 16 true) }))) ∧
      (area.toNat % 16 = 0 →
        (∀ need n time, it.wait = .spill (some need) n time → s.spillFor g (e n) need = .ok () t →
          exec (.spillFillDone core) s = .next (t.wakes gid slot (fun it => { it with got := some (0, 0) }))) ∧
        (∀ f n time, it.wait = .spill none n time → s.fillFor g (e n) = .ok (some f) t →
          exec (.spillFillDone core) s = .next (t.wakes gid slot (fun it => { it with
            got := some (0, 0)
            callers := [f] }))) ∧
        (∀ xs, it.wait = .frame → it.held = false → it.lost = [] →
          s.stackRead g it false ((upTo it.frame.toNat).map (fun j => it.stack + BitVec.ofNat 64 (4 * j))) = .ok xs t →
          exec (.spillFillDone core) s = .next (t.wakes gid slot (fun it => { it with
            v := setWindow it.v xs
            unread := false
            wait := if it.held then .refill else .none }))))) ∧
  (
    (∀ (s : State) (id : Nat) (w : Walk) (start : Nat × Nat), Table.get? s.walks id = some w → s.hasWalker id w = true →
      (∀ l, s.walkOf (dieOfCore w.unit) w.ctx w.va w.kind = (start, .leaf l) → ∃ u t, exec (.pageWalk id) s = .next u ∧ u.memory = s.memory ∧
        Table.get? u.walks id = none ∧ u.tlb? w.unit w.ctx w.va = some t ∧ t.logSize = l.logSize ∧ t.addr = l.addr ∧ t.r = l.r ∧ t.w = l.w ∧ t.x = l.x ∧
        ∀ gid g k it c p kind, s.group? gid = some g → g.ctx = w.ctx → dieOfCore g.core = dieOfCore w.unit → Table.get? g.items k = some it →
          it.wait = .walk c p w.va kind → u.item? gid k = some { it with wait := .none }) ∧
      (∀ reason level bad, s.walkOf (dieOfCore w.unit) w.ctx w.va w.kind = (start, .fault reason level bad) → ∃ u, exec (.pageWalk id) s = .next u ∧ u.memory = s.memory ∧
        Table.get? u.walks id = none ∧ u.tlbs = s.tlbs ∧
        (reason = 4 ∨ reason = 5 → ∃ f ∈ u.faults, f.2.ctx = w.ctx ∧ f.2.page = pageOf w.va) ∧
        (reason ≠ 4 → reason ≠ 5 → u.faults = s.faults) ∧
        ∀ gid g k it c va, s.group? gid = some g → g.ctx = w.ctx → dieOfCore g.core = dieOfCore w.unit → Table.get? g.items k = some it →
          it.wait = .walk c w.page va w.kind →
          (reason = 4 ∨ reason = 5 → u.item? gid k = some { it with wait := .fault c w.page va w.kind }) ∧
          (reason ≠ 4 → reason ≠ 5 → u.item? gid k = some { it with
            wait := .none
            owed := some { cause := causePageFault, addr := va, info := BitVec.ofNat 32 (256 * w.kind + 16 * level + reason) } }))) ∧
    (∀ (s : State) (id : Nat) (f : PageFault), s.faults.find? (fun p => p.2.fid.isNone) = some (id, f) →
      (s.dev.poolSize ≠ 0 → s.dev.frTail - s.dev.frHead < 2 ^ s.dev.frLog → exec .faultRecordAppend s = .next { s with
        memory := s.memory.write 0 (s.dev.frBase + 32 * (s.dev.frTail % 2 ^ s.dev.frLog)) (faultRecord f s.nextFid)
        faults := Table.put s.faults id { f with fid := some s.nextFid }
        nextFid := s.nextFid + 1
        dev := { s.dev with frTail := s.dev.frTail + 1 } }) ∧
      (2 ^ s.dev.frLog ≤ s.dev.frTail - s.dev.frHead → exec .faultRecordAppend s = .next s)) ∧
    (∀ (f : PageFault) (n : Nat), let r := faultRecord f n
      r.length = 32 ∧ leAt r 0 8 = f.page % 2 ^ 64 ∧ leAt r 8 2 = f.ctx % 2 ^ 16 ∧ leAt r 0x0A 1 = f.reason % 256 ∧
        leAt r 0x0B 1 = (2 ^ f.kind + (if f.engine then 8 else 0)) % 256 ∧ leAt r 0x0C 1 = f.level % 256 ∧ leAt r 0x10 8 = n % 2 ^ 64))

/-! ### Hindcast (18 R389 to R410) -/

/-- An HcCmd (R389). -/
def Sys2Proof.Machine.hcCmd (action ctx low addr size flags rot crot : Nat) : List W8 :=
  leBytes 1 0x50 ++ leBytes 1 action ++ leBytes 2 ctx ++ leBytes 4 low ++ leBytes 8 addr ++ leBytes 8 size ++ leBytes 4 0 ++ leBytes 1 flags ++
    leBytes 1 rot ++ leBytes 1 crot ++ leBytes 1 0

/-- With the mode off each of hcmark, hcflush and hcstop only advances. While the context records, hcmark logs a VALUE entry of source 7 with the register as value and the immediate as detail; hcflush closes the cluster's chunk and the item waits, and goes on when it executes again; hcstop with STOPEN ends the recording and traps HCSTOP with its immediate in TRAPINFO, and only advances without it. hcread gives in its pair LOCAL of the cluster's open chunk, the core's count of retired instructions there, the gaps, or what is left of HCBUD, as SEL says, and logs it while the context records. A recorder's chunk closes when it holds 65536 item-instructions or 1024 entries. CHUNK_SPILL writes the oldest closed chunk at TAIL with the next SEQ; with the ring full it is dropped in lossy mode and waits otherwise. On a Configured or Suspended context with the mode off, Record starts a recording with an empty ring, and Replay and Verify start a replay where the ring holds records. Stop ends a recording with an END record, and a replay with RESULT 6. Release moves HEAD to an address between HEAD and TAIL, and refuses any other with BADCMD. A context with no ring gives NORING, a Torn down one NOCTX; in any other state or mode the command gives STATE. (18 R410, 18 R401, 18 R397, 18 R398, 18 R389, 18 R392, 18 R405, 18 R408) -/
def Obligations.Hindcast : Prop :=
  (
    (∀ (s : State) (g : Group) (o : ImmForm) (p : Form) (q : SelForm) (k : Nat) (it : Item), it.windows = [] →
      let x := s.hind g.ctx
      let r := clusterOf g.core
      (x.mode = .off →
        (Alone s g (.hcmark o) k it → exec (.hcmark o) s = .next (s.goesOn (.hcmark o) g k it id)) ∧
        (Alone s g (.hcflush p) k it → exec (.hcflush p) s = .next (s.goesOn (.hcflush p) g k it id)) ∧
        (Alone s g (.hcstop o) k it → exec (.hcstop o) s = .next (s.goesOn (.hcstop o) g k it id))) ∧
      (Alone s g (.hcread q) k it →
        let v : W64 := BitVec.ofNat 64 (match q.sel.toNat with
          | 0 => (x.recorder r).localNo
          | 1 => (x.recorder r).ret[g.core % 8]
          | 2 => x.gaps
          | _ => (s.context g.ctx).hcBud - (x.recorder r).units)
        let reads (u : State) : State := u.goesOn (.hcread q) g k it (fun it => it.writeV2 q.d v)
        (x.mode = .off → exec (.hcread q) s = .next (reads s)) ∧
        (∀ kn, s.kernel? g.kh = some kn → x.mode = .record → ∃ e, exec (.hcread q) s = .next (reads (s.logEntry g.ctx r e)) ∧
          e.length = 32 ∧ leAt e 0 1 = 3 ∧ leAt e 1 1 = 6 ∧ leAt e 8 8 = (s.partyOfItem g it).toNat ∧ leAt e 16 8 = v.toNat)) ∧
      (x.mode = .record →
        (Alone s g (.hcmark o) k it → x.lossy = false → x.armed = false → ∃ u e, exec (.hcmark o) s = .next u ∧
          u = (s.logEntry g.ctx r e).goesOn (.hcmark o) g k it id ∧
          ((u.hind g.ctx).recorder r).entries = (x.recorder r).entries ++ [e] ∧ e.length = 32 ∧ leAt e 0 1 = 3 ∧ leAt e 1 1 = 7 ∧
          leAt e 8 8 = (s.partyOfItem g it).toNat ∧ leAt e 16 8 = (it.readV o.a).toNat ∧ leAt e 24 8 = o.imm.toNat) ∧
        (Alone s g (.hcflush p) k it →
          (∀ n, it.wait = .flush n → exec (.hcflush p) s = .next (s.goesOn (.hcflush p) g k it id)) ∧
          ((∀ n, it.wait ≠ .flush n) → ∃ u c, exec (.hcflush p) s = .next u ∧ u.memory = s.memory ∧
            u.item? s.wave.gid k = some { it with wait := .flush (x.recorder r).localNo } ∧ (u.hind g.ctx).closing = x.closing ++ [c] ∧
            c.localNo = (x.recorder r).localNo ∧ c.flags / 4 % 2 = 1 ∧ ((u.hind g.ctx).recorder r).entries = [] ∧
            ((u.hind g.ctx).recorder r).localNo = (x.recorder r).localNo + 1)) ∧
        (Alone s g (.hcstop o) k it →
          (x.stopen = false → exec (.hcstop o) s = .next (s.goesOn (.hcstop o) g k it id)) ∧
          (∀ h, x.stopen = true → s.handlerOf g.kh = some h → it.inHandler = false → ∃ u, exec (.hcstop o) s = .next u ∧ u.memory = s.memory ∧
            (u.hind g.ctx).mode = .off ∧ u.item? s.wave.gid k = some ((s.envOf g k it).entered it h
              { cause := 0x17, addr := 0, info := o.imm.zeroExtend 32 }))))) ∧
    (∀ (s : State) (ctx r : Nat), let x := s.hind ctx
      let n := x.recorder r
      x.mode = .record →
      (r < 128 ∧ 65536 ≤ n.ret.toList.sum ∨ 1024 ≤ n.entries.length → ∃ u c, exec (.chunkClose ctx r) s = .next u ∧ u.memory = s.memory ∧
        (u.hind ctx).closing = x.closing ++ [c] ∧ c.localNo = n.localNo ∧ c.source = recSource r ∧ c.kind = recKind r ∧
        c.entries.take n.entries.length = n.entries ∧
        ((u.hind ctx).recorder r).localNo = n.localNo + 1 ∧ ((u.hind ctx).recorder r).entries = []) ∧
      (¬(r < 128 ∧ 65536 ≤ n.ret.toList.sum) → n.entries.length < 1024 → exec (.chunkClose ctx r) s = .next s)) ∧
    (∀ (s : State) (ctx : Nat) (c : ChunkRecord) (rest : List ChunkRecord), let x := s.context ctx
      let size := 2 ^ x.ringLog
      let c' := { c with
        seq := x.hind.hcseq.toNat + 1
        flags := if x.hind.gapNext = true ∧ c.flags / 32 % 2 = 0 then c.flags + 32 else c.flags }
      let n := c'.bytes.length
      x.hind.closing = c :: rest →
      (x.hind.tail % size + n ≤ size → x.hind.tail + n - x.hind.head ≤ size → ∃ u, exec (.chunkSpill ctx) s = .next u ∧
        u.memory = s.memory.write 0 (x.ringBase + x.hind.tail % size) c'.bytes ∧ (u.hind ctx).closing = rest ∧
        (u.hind ctx).tail = x.hind.tail + n ∧ (u.hind ctx).hcseq = x.hind.hcseq + 1 ∧ (u.hind ctx).lastSeq = x.hind.hcseq + 1) ∧
      (x.hind.tail % size + n ≤ size → size < x.hind.tail + n - x.hind.head →
        (x.hind.lossy = false → exec (.chunkSpill ctx) s = .next s) ∧
        (x.hind.lossy = true → exec (.chunkSpill ctx) s = .next (s.modHind ctx (fun h => { h with
          closing := rest
          gapNext := true })))))) ∧
  (
    ∀ (s : State) (slot ctx low a n flags rot crot : Nat), 1 ≤ ctx → ctx ≤ 1023 → low < 2 ^ 32 → a < 2 ^ 64 → n < 2 ^ 64 → flags < 4 → rot ≤ 15 →
      crot ≤ 7 →
      let x := s.context ctx
      let idle : Prop := (x.state = .configured ∨ x.state = .suspended) ∧ x.hind.mode = .off
      let play (act : Nat) : List W8 := hcCmd act ctx low a n flags rot crot
      let plain (act : Nat) : List W8 := hcCmd act ctx 0 0 0 flags 0 0
      let others (u : State) : Prop := u.memory = s.memory ∧ ∀ y, y ≠ ctx → u.context y = s.context y
      (∀ f ∈ [(Instr.hcRecord, 0), (.hcStop, 1), (.hcRelease, 4)], Posted s slot (plain f.2) →
        (x.state = .tornDown → exec f.1 s = .next (s.doneWith slot (plain f.2) 1)) ∧
        (x.state ≠ .tornDown → x.hcAllow = false → exec f.1 s = .next (s.doneWith slot (plain f.2) 15))) ∧
      (x.state ≠ .tornDown → x.hcAllow = true →
        (Posted s slot (plain 0) →
          (idle → ∃ u, exec .hcRecord s = .next u ∧ Answered s u slot (plain 0) 0 ∧ others u ∧ (u.hind ctx).mode = .record ∧ (u.hind ctx).head = 0 ∧
            (u.hind ctx).tail = 0 ∧ (u.hind ctx).hcseq = 0 ∧ (u.hind ctx).gaps = 0 ∧ (u.hind ctx).lossy = flags.testBit 0 ∧
            (u.hind ctx).stopen = flags.testBit 1) ∧
          (¬idle → exec .hcRecord s = .next (s.doneWith slot (plain 0) 4))) ∧
        (Posted s slot (plain 1) →
          (x.hind.mode = .record → ∃ u c, exec .hcStop s = .next u ∧ Answered s u slot (plain 1) 0 ∧ others u ∧ (u.hind ctx).mode = .off ∧
            (u.hind ctx).closing.getLast? = some c ∧ c.kind = 4 ∧ c.flags / 16 % 2 = 1) ∧
          (x.hind.mode = .replay ∨ x.hind.mode = .verify → ∃ u, exec .hcStop s = .next u ∧ Answered s u slot (plain 1) 0 ∧ others u ∧
            (u.hind ctx).mode = .off ∧ (u.hind ctx).result = 6) ∧
          (x.hind.mode = .off → (∀ p ∈ s.groups, p.2.stopAsked = false) → exec .hcStop s = .next (s.doneWith slot (plain 1) 4))) ∧
        (∀ f ∈ [(Instr.hcReplay, 2, HcMode.replay), (.hcVerify, 3, .verify)], a % 4096 = 0 → s.spanPlaced a n = true → (f.2.1 = 2 ↔ rot = 0 ∧ crot = 0) →
          Posted s slot (play f.2.1) →
          (idle → (∃ p ∈ x.hind.ring, x.hind.head ≤ p.1) → ∃ u, exec f.1 s = .next u ∧ Answered s u slot (play f.2.1) 0 ∧ others u ∧
            (u.hind ctx).mode = f.2.2 ∧ (u.hind ctx).armed = true ∧ (u.hind ctx).stopSeq = low ∧ (u.hind ctx).area = a ∧ (u.hind ctx).areaSize = n ∧
            (u.hind ctx).rot = rot ∧ (u.hind ctx).crot = crot ∧ (u.hind ctx).stopen = flags.testBit 1) ∧
          (¬idle ∨ (∀ p ∈ x.hind.ring, p.1 < x.hind.head) → exec f.1 s = .next (s.doneWith slot (play f.2.1) 4))) ∧
        (let c := hcCmd 4 ctx 0 a 0 flags 0 0
         Posted s slot c →
          (x.hind.head ≤ a → a ≤ x.hind.tail → ∃ u, exec .hcRelease s = .next u ∧ Answered s u slot c 0 ∧ others u ∧ (u.hind ctx).head = a ∧
            (u.hind ctx).tail = x.hind.tail) ∧
          (a < x.hind.head ∨ x.hind.tail < a → exec .hcRelease s = .next (s.doneWith slot c 12)))))

/-! ### Queues, peers, pages, errors and attestation by command (05 R112, 06 R129, 16 R363, 19 R421, 22 R462) -/

/-- The states in which a context holds queues and peers. -/
def Sys2Proof.Machine.ContextState.Holds (x : ContextState) : Prop := x = .configured ∨ x = .active ∨ x = .suspended ∨ x = .faulted

/-- Assign gives the context the lowest free launch queue at LQ, open where the context is Active and idle otherwise; NOQUEUE where none is free, STATE where the LQ is taken. Release frees a queue whose HEAD is its TAIL, and gives STATE where it holds records, NOQUEUE where there is none. Peers replaces the peer set, and gives STATE while a gang of the context is live. Invalidate discards the context's TLB entries of the span and the tables that walkers hold on its paths, and is not accepted while an access of the span is on its way. Resolve ends the fault of its number: at RETRY the items that waited on its page go on, at FAIL they have PAGEFAULT; a number of no fault gives STALE. ErrAck moves the HEAD of an error queue within its records. Attest writes a report that begins with MAGIC, REVISION, DEVID and CTXID and holds the nonce that stood at its address. (05 R105, 05 R112, 06 R129, 16 R363, 19 R421, 22 R461, 22 R462) -/
def Obligations.Administration : Prop :=
  (
    ∀ (s : State) (slot ctx : Nat), 1 ≤ ctx → ctx ≤ 1023 →
      let st := (s.context ctx).state
      (∀ lq mode log base, lq ≤ 15 → mode ≤ 1 → 4 ≤ log → log ≤ 16 → base % 4096 = 0 → base < 2 ^ 64 →
        let c := ringCommand 0x10 lq ctx (mode + 256 * log) base 0
        Posted s slot c →
        (st = .tornDown → exec .assign s = .next (s.doneWith slot c 1)) ∧
        (st.Holds → (s.queueAt ctx lq).isSome = true → exec .assign s = .next (s.doneWith slot c 4)) ∧
        (st.Holds → s.queueAt ctx lq = none → s.freeQueue = none → exec .assign s = .next (s.doneWith slot c 13)) ∧
        (∀ n, st.Holds → s.queueAt ctx lq = none → s.freeQueue = some n → exec .assign s = .next (State.doneWith { s with
          queues := Table.put s.queues n { owner := ctx, lq := lq, device := mode == 1, logLen := log, state := if st = .active then .opened else .idle
                                           lastErr := 0, qbase := BitVec.ofNat 64 base, head := 0, tail := 0, refused := 0, dbErr := 0 } } slot c 0))) ∧
      (∀ lq, lq ≤ 15 →
        let c := ringCommand 0x11 lq ctx 0 0 0
        Posted s slot c → st ≠ .tornDown →
        (s.queueAt ctx lq = none → exec .release s = .next (s.doneWith slot c 13)) ∧
        (∀ n, s.queueAt ctx lq = some n →
          ((s.queue n).head = (s.queue n).tail →
            exec .release s = .next (State.doneWith { s with queues := Table.erase s.queues n } slot c 0)) ∧
          ((s.queue n).head ≠ (s.queue n).tail → exec .release s = .next (s.doneWith slot c 4)))) ∧
      (∀ toexp n a, 16 ≤ toexp → toexp ≤ 34 → 1 ≤ n → n ≤ 64 → a % 64 = 0 → a < 2 ^ 64 →
        let c := ringCommand 0x20 toexp ctx n a 0
        let b := s.physRead a (8 * n)
        Posted s slot c → s.firmReads a (8 * n) = true →
        (s.peersOk c b = false → exec .peers s = .next (s.doneWith slot c 12)) ∧
        (s.peersOk c b = true → ¬st.Holds ∨ (∃ k ∈ s.kernels, k.2.ctx = ctx ∧ k.2.state.ended = false ∧ k.2.desc.gangDevs ≠ 1) →
          exec .peers s = .next (s.doneWith slot c 4)) ∧
        (s.peersOk c b = true → st.Holds → (∀ k ∈ s.kernels, k.2.ctx = ctx → k.2.state.ended = true ∨ k.2.desc.gangDevs = 1) →
          exec .peers s = .next ((s.modContext ctx (fun x => { x with
            peers := (upTo n).map (fun j => (leAt b (8 * j) 2, leAt b (8 * j + 2) 2))
            toexp := toexp })).doneWith slot c 0)))) ∧
  (
    (∀ (s : State) (slot ctx log a : Nat), 1 ≤ ctx → ctx ≤ 1023 → a < 2 ^ 64 → log = 0 ∨ (12 ≤ log ∧ log ≤ 57) →
      let c := ringCommand 0x30 log ctx 0 a 0
      Posted s slot c →
      ((s.context ctx).state = .tornDown → exec .invalidate s = .next (s.doneWith slot c 1)) ∧
      ((s.context ctx).state ≠ .tornDown → log = 0 → (∃ p ∈ s.accesses, p.2.ctx = ctx) → exec .invalidate s = .next s) ∧
      ((s.context ctx).state ≠ .tornDown → (∀ p ∈ s.accesses, p.2.ctx ≠ ctx) → (∀ p ∈ s.groups, p.2.ctx = ctx → p.2.guarded = none) →
        exec .invalidate s = .next (State.doneWith { s with
          tlbs := s.tlbs.filter (fun p =>
            let m := max log p.2.logSize
            p.2.ctx != ctx || (log != 0 && p.2.base / 2 ^ m != a % 2 ^ 57 / 2 ^ m))
          paths := s.paths.filter (fun p =>
            let m := max log (21 + 9 * p.2.level)
            p.2.ctx != ctx || (log != 0 && p.2.prefix_ * 2 ^ (21 + 9 * p.2.level) / 2 ^ m != a % 2 ^ 57 / 2 ^ m)) } slot c 0))) ∧
    (∀ (s : State) (slot ctx act fid : Nat), 1 ≤ ctx → ctx ≤ 1023 → act ≤ 1 → fid < 2 ^ 64 → (s.context ctx).state ≠ .tornDown → s.commands = [] →
      let c := ringCommand 0x31 act ctx 0 fid 0
      Posted s slot c →
      (s.faults.find? (fun p => p.2.ctx == ctx && p.2.fid == some fid) = none → exec .resolve s = .next (s.doneWith slot c 14)) ∧
      (∀ id f, s.faults.find? (fun p => p.2.ctx == ctx && p.2.fid == some fid) = some (id, f) → (s.hind ctx).mode = .off →
        ∃ u, exec .resolve s = .next u ∧ Answered s u slot c 0 ∧ u.memory = s.memory ∧ u.faults = Table.erase s.faults id ∧
          ∀ gid g k it x va kind, s.group? gid = some g → g.ctx = ctx → Table.get? g.items k = some it → it.wait = .fault x f.page va kind → kind < 3 →
            it.unread = false → ∃ it', u.item? gid k = some it' ∧ it'.wait = .none ∧ it'.v = it.v ∧ it'.pc = it.pc ∧
              it'.owed = if act = 0 then it.owed else some { cause := 5, addr := va
                                                             info := BitVec.ofNat 32 (1024 + 256 * kind + 16 * f.level + f.reason) })) ∧
    (∀ (s : State) (slot ctx head : Nat), ctx ≤ 1023 → head < 2 ^ 64 →
      let c := ringCommand 0x60 0 ctx 0 head 0
      let q := if ctx = 0 then s.devErrors else (s.context ctx).errors
      Posted s slot c → ctx = 0 ∨ (s.context ctx).everConfigured = true →
      (q.head ≤ head → head ≤ q.tail → ∃ u, exec .errack s = .next u ∧ Answered s u slot c 0 ∧ u.memory = s.memory ∧
        (if ctx = 0 then u.devErrors else (u.context ctx).errors) = { q with head := head }) ∧
      (head < q.head ∨ q.tail < head → exec .errack s = .next (s.doneWith slot c 12))) ∧
    (∀ (s : State) (slot ctx a n : Nat), ctx ≤ 1023 → a < 2 ^ 64 → n < 2 ^ 64 → a % 64 = 0 →
      let c := ringCommand 0x70 0 ctx 0 a n
      Posted s slot c →
      (n < 50176 → exec .attest s = .next (s.doneWith slot c 5)) ∧
      (50176 ≤ n → s.spanPlaced a 50176 = true → s.firmReads a 32 = true →
        ctx = 0 ∨ ((s.context ctx).state ≠ .tornDown ∧ (s.context ctx).state ≠ .tearing) →
        ∃ u r, exec .attest s = .next u ∧ Answered s u slot c 0 ∧ u.memory = s.memory.write 0 a r ∧ leAt r 0 8 = 0x545052545341594B ∧ leAt r 8 4 = 1 ∧
          leAt r 0x0C 2 = s.dev.devid % 2 ^ 16 ∧ leAt r 0x0E 2 = ctx ∧ (r.drop 0x10).take 32 = s.memory.read 0 a 32)))

/-! ### Gangs of several devices (06 R130 to R136) -/

/-- A live kernel is aborted: its groups are gone, and its completion update waits as that of a failure (R124, R133). -/
def Sys2Proof.Machine.Aborts (s u : State) (kh : Nat) : Prop :=
  u.memory = s.memory ∧ (∀ kn, s.kernel? kh = some kn → kn.state.ended = false →
    (∃ kn', u.kernel? kh = some kn' ∧ kn'.state = .aborted ∧ kn'.desc = kn.desc) ∧ (∀ p ∈ u.groups, p.2.kh ≠ kh) ∧
    ∃ p ∈ u.updates, p.2.kh = some kh ∧ p.2.failed = true)

/-- RESERVE on an Active context whose peers agree creates the member, Queued with its rank's share of every stage's items, and one of a context that is not Active creates none. An ACK is noted, and the last one commits the gang. REFUSE, FAIL, and the coordinator's time-out before COMMIT abort it; DONE is noted. At a member COMMIT lets cross-device operations go on, and ABORT, the member's time-out and the answer that the gang is gone abort its kernel; the answer that it is live lets a restored kernel go on. A query is answered from the gang table. (06 R130, 06 R131, 06 R132, 06 R133, 06 R134, 06 R136) -/
def Obligations.GangMessages : Prop :=
  (∀ (s t : State) (m : ReserveMsg) (d : Descriptor) (kh rank : Nat), (s.hind m.ctx).mode = .off →
    ((s.context m.ctx).state ≠ .active → ∃ u, exec (.gangReserve m) s = .next u ∧ u.kernels = s.kernels ∧ u.memory = s.memory) ∧
    ((s.context m.ctx).state = .active → (s.context m.ctx).peers.take m.peers.length = m.peers → s.readDescriptor m.ctx m.desc = .ok d t →
      (t.hind m.ctx).mode = .off → s.freeHandle = some kh → s.myRank m.ctx = some rank → d.gangDevs ≠ 1 →
      ∃ u kn, exec (.gangReserve m) s = .next u ∧ u.kernel? kh = some kn ∧ kn.state = .queued ∧ kn.ctx = m.ctx ∧ kn.desc = d ∧ kn.gangN = m.n ∧
        kn.rank = rank ∧ kn.committed = false ∧ kn.prio = m.prio ∧ kn.next = d.stages.map (fun p => p.2 * rank / d.gangDevs) ∧
        kn.limit = d.stages.map (fun p => p.2 * (rank + 1) / d.gangDevs))) ∧
  (∀ (s : State) (m : GangMsg) (g : Gang), Table.get? s.gangs m.n = some g → g.ctx = m.ctx →
    let noted : Gang := { g with acked := m.rank :: g.acked.erase m.rank }
    (g.committed = true → exec (.gangAck m) s = .next { s with gangs := Table.put s.gangs m.n noted }) ∧
    ((∃ r, 0 < r ∧ r < g.devs ∧ r ≠ m.rank ∧ r ∉ g.acked) → exec (.gangAck m) s = .next { s with gangs := Table.put s.gangs m.n noted }) ∧
    (g.committed = false → (∀ r, 0 < r → r < g.devs → r = m.rank ∨ r ∈ g.acked) → ∃ u, exec (.gangAck m) s = .next u ∧ u.memory = s.memory ∧
      Table.get? u.gangs m.n = some { noted with committed := true } ∧
      ∀ kn, s.kernel? g.kh = some kn → u.kernel? g.kh = some { kn with committed := true }) ∧
    (∀ i ∈ [Instr.gangRefuse m, .gangFail m], ∃ u, exec i s = .next u ∧ Table.get? u.gangs m.n = none ∧ Aborts s u g.kh) ∧
    exec (.gangDone m) s = .next { s with gangs := Table.put s.gangs m.n { g with done := m.rank :: g.done.erase m.rank } } ∧
    (g.committed = false → ∃ u, exec (.gangTimeout m.n) s = .next u ∧ Table.get? u.gangs m.n = none ∧ Aborts s u g.kh) ∧
    (g.committed = true → exec (.gangTimeout m.n) s = .next s) ∧
    exec (.gangQuery m) s = .next (s.tellRank m.ctx m.rank 8 m.n)) ∧
  (∀ (s : State) (m : GangMsg), (∀ g, Table.get? s.gangs m.n = some g → g.ctx ≠ m.ctx) →
    exec (.gangRefuse m) s = .next s ∧ exec (.gangFail m) s = .next s ∧ exec (.gangDone m) s = .next s ∧
    exec (.gangQuery m) s = .next (s.tellRank m.ctx m.rank 9 m.n) ∧
    (m.n ∈ (s.context m.ctx).abortedGangs → exec (.gangAck m) s = .next (s.tellRank m.ctx m.rank 4 m.n)) ∧
    (m.n ∉ (s.context m.ctx).abortedGangs → exec (.gangAck m) s = .next s)) ∧
  (∀ (s : State) (m : GangMsg) (live : Bool),
    (∀ kh kn, s.gangKernel m.ctx m.n = some kh → s.kernel? kh = some kn →
      exec (.gangCommit m) s = .next { s with kernels := Table.modify s.kernels kh (fun k => { k with committed := true }) } ∧
      (∃ u, exec (.gangAbort m) s = .next u ∧ Aborts s u kh) ∧
      (kn.asked = false → exec (.gangQueryAnswer m live) s = .next s) ∧
      (kn.asked = true → live = true →
        exec (.gangQueryAnswer m live) s = .next { s with kernels := Table.modify s.kernels kh (fun k => { k with asked := false }) }) ∧
      (kn.asked = true → live = false → ∃ u, exec (.gangQueryAnswer m live) s = .next u ∧ Aborts s u kh)) ∧
    (s.gangKernel m.ctx m.n = none → exec (.gangAbort m) s = .next s ∧ exec (.gangQueryAnswer m live) s = .next s ∧
      (m.n ∉ (s.context m.ctx).abortedGangs → exec (.gangCommit m) s = .next s) ∧
      (m.n ∈ (s.context m.ctx).abortedGangs → exec (.gangCommit m) s = .next (s.tellRank m.ctx 0 5 m.n)))) ∧
  (∀ (s : State) (kh : Nat) (kn : Kernel), s.kernel? kh = some kn → kn.gangN ≠ 0 → kn.rank ≠ 0 →
    (kn.committed = false ∨ kn.asked = true → ∃ u, exec (.gangMemberTimeout kh) s = .next u ∧ Aborts s u kh) ∧
    (kn.committed = true → kn.asked = false → exec (.gangMemberTimeout kh) s = .next s))

/-! ### The management window, power and telemetry (22 R463 to R467; 19 R424, R435) -/

/-- A window write that is discarded: REJWR rises by 1 and nothing else changes. -/
def Sys2Proof.Machine.State.rejected (s : State) : State := { s with dev := { s.dev with rejwr := s.dev.rejwr + 1 } }

/-- The fields of the device block that take writes at any time: offset, bytes, admitted values, and the block after the write (R464). -/
def Sys2Proof.Machine.windowFields : List (Nat × Nat × (Nat → Bool) × (DeviceBlock → Nat → DeviceBlock)) :=
  [(0x050, 4, fun _ => true, fun d x => { d with mgmtBud := BitVec.ofNat 32 x }),
   (0x054, 4, fun _ => true, fun d x => { d with scrubBud := BitVec.ofNat 32 x }),
   (0x058, 1, fun x => decide (12 ≤ x ∧ x ≤ 20), fun d x => { d with mpexp := x }),
   (0x05A, 2, fun x => decide (1500 ≤ x ∧ x ≤ 4500), fun d x => { d with plimit := x })]

/-- The offsets and sizes of every field of the device block that software writes. -/
def Sys2Proof.Machine.writableFields : List (Nat × Nat) :=
  [(0x00C, 2), (0x00E, 2), (0x010, 8), (0x018, 8), (0x020, 8), (0x028, 1), (0x030, 8), (0x050, 4), (0x054, 4), (0x058, 1), (0x05A, 2)]

/-- While the Zhevport is not Up no window write does anything. NEARCFG takes a value of four fields up to 4 while every context is Torn down, and then a die whose near store changes holds no written byte; FRHEAD takes a value between FRHEAD and FRTAIL; TAIL of the ring one between TAIL and HEAD + 256; a field of the device block one within its limits; a command slot and the image area take any bytes; the table pool takes physical writes. Every other write of the block is discarded whole and REJWR rises by 1. SCRUB of an L2 slice, the near store or an HBM4 stack marks a line of HBM4 poisoned, adds a device record and counts in UNCORR. FATAL_ERROR adds a device record, kills every group and stops binding. POWER_PERIOD notes a die's power, puts PLIMIT in force and withholds its cycles where the package exceeds it. RAIL_OVERCURRENT gates the die and keeps the largest current, which a read of PEAKAMPS clears. TELEMETRY_REFRESH notes the sensors. A hot die is noted until it recovers. (16 R352, 22 R463, 22 R464, 17 R380, 19 R424, 19 R435, 22 R465, 22 R466, 22 R467) -/
def Obligations.DeviceWindow : Prop :=
  (
    (∀ (s : State) (v : W16) (x : W64) (a : Nat) (bs : List W8), s.zhevport ≠ .up →
      ∀ i ∈ [Instr.nearcfgWrite v, .frheadWrite x, .zhevportPhysicalWrite a bs, .mgmtWindowWrite a bs], exec i s = .next s) ∧
    (∀ (s : State), s.zhevport = .up →
      (∀ v : W16, let ok : Prop := (∀ p ∈ s.contexts, p.2.state = .tornDown) ∧ v.toNat < 2 ^ 12 ∧ ∀ b, b < 4 → v.toNat / 8 ^ b % 8 ≤ 4
        (ok → ∃ u, exec (.nearcfgWrite v) s = .next u ∧ u.dev = { s.dev with nearcfg := v } ∧
          ∀ c ∈ u.memory.bytes, ∀ b, b < 4 → nearBase + b * 0x10000000 ≤ c.1 → c.1 < nearBase + (b + 1) * 0x10000000 →
            nearBytes v b = nearBytes s.dev.nearcfg b) ∧
        (¬ok → exec (.nearcfgWrite v) s = .next s.rejected)) ∧
      (∀ x : W64, (s.dev.frHead ≤ x.toNat → x.toNat ≤ s.dev.frTail →
          exec (.frheadWrite x) s = .next { s with dev := { s.dev with frHead := x.toNat } }) ∧
        (x.toNat < s.dev.frHead ∨ s.dev.frTail < x.toNat → exec (.frheadWrite x) s = .next s.rejected)) ∧
      (∀ a bs, (s.dev.poolBase ≤ a → a + bs.length ≤ s.dev.poolBase + s.dev.poolSize →
          exec (.zhevportPhysicalWrite a bs) s = .next { s with memory := s.memory.write 0 a bs }) ∧
        (a < s.dev.poolBase → exec (.zhevportPhysicalWrite a bs) s = .next s)) ∧
      (∀ bs : List W8, bs.length = 8 →
        (s.ringTail ≤ leNat bs → leNat bs ≤ s.ringHead + 256 → exec (.mgmtWindowWrite 0x1008 bs) s = .next { s with ringTail := leNat bs }) ∧
        (leNat bs < s.ringTail ∨ s.ringHead + 256 < leNat bs → exec (.mgmtWindowWrite 0x1008 bs) s = .next s.rejected)) ∧
      (∀ f ∈ windowFields, ∀ bs : List W8, bs.length = f.2.1 →
        (f.2.2.1 (leNat bs) = true → exec (.mgmtWindowWrite f.1 bs) s = .next { s with dev := f.2.2.2 s.dev (leNat bs) }) ∧
        (f.2.2.1 (leNat bs) = false → exec (.mgmtWindowWrite f.1 bs) s = .next s.rejected)) ∧
      (∀ a (bs : List W8), 0 < bs.length → a < 0x1000 → (a, bs.length) ∉ writableFields → exec (.mgmtWindowWrite a bs) s = .next s.rejected) ∧
      (∀ slot off (bs : List W8), slot < 256 → 0 < bs.length → off + bs.length ≤ 32 →
        (Table.read (List.replicate 32 0) s.ringSlots slot).length = 32 →
        ∃ u, exec (.mgmtWindowWrite (0x2000 + 32 * slot + off) bs) s = .next u ∧ u.memory = s.memory ∧
          Table.read (List.replicate 32 0) u.ringSlots slot = overlay (Table.read (List.replicate 32 0) s.ringSlots slot) off bs ∧
          ∀ j, j ≠ slot → Table.read (List.replicate 32 0) u.ringSlots j = Table.read (List.replicate 32 0) s.ringSlots j) ∧
      (∀ a (bs : List W8), 0 < bs.length → a + bs.length ≤ 0x4000000 → ∃ u, exec (.mgmtWindowWrite (0x440000 + a) bs) s = .next u ∧ u.memory = s.memory ∧
        ∀ j, Table.read 0 u.imageArea j = if a ≤ j ∧ j < a + bs.length then bs.getD (j - a) 0 else Table.read 0 s.imageArea j))) ∧
  (
    ∀ (s : State),
      (∀ line array, 5 ≤ array → array ≤ 7 → s.target? (128 * line) = some .hbm → ∃ u, exec (.scrub line array) s = .next u ∧
        u.memory.poisoned line = true ∧ u.memory.bytes = s.memory.bytes ∧ u.memory.tags = s.memory.tags ∧
        (s.devErrors.tail - s.devErrors.head < 256 → u.devErrors.tail = s.devErrors.tail + 1) ∧
        Table.read 0 u.telemetry.uncorr array = Table.read 0 s.telemetry.uncorr array + 1) ∧
      (∃ u, exec .fatalError s = .next u ∧ u.stopped = true ∧ u.groups = [] ∧ u.updates = [] ∧ u.memory = s.memory ∧
        (s.devErrors.tail - s.devErrors.head < 256 → u.devErrors.tail = s.devErrors.tail + 1)) ∧
      (∀ die power, die < 4 → ∃ u, exec (.powerPeriod die power) s = .next u ∧ u.plimitNow = s.dev.plimit ∧ u.memory = s.memory ∧
        (∀ b, b < 4 → u.telemetry.power.getD b 0 = if b = die then power else s.telemetry.power.getD b 0) ∧ u.gated = s.gated.erase die ∧
        (1000 * s.dev.plimit < u.telemetry.power.sum → die ∈ u.withheld) ∧
        (u.telemetry.power.sum ≤ 1000 * s.dev.plimit → u.withheld = s.withheld.erase die)) ∧
      (∀ die current, die < 4 → exec (.railOvercurrent die current) s = .next { s with
        gated := die :: s.gated.erase die
        telemetry := { s.telemetry with peak := max s.telemetry.peak current } }) ∧
      (∀ x : Sensors, ∃ u, exec (.telemetryRefresh x) s = .next u ∧ u.telemetry.power = (upTo 4).map (fun b => x.power.getD b 0) ∧
        u.telemetry.package = x.package ∧ u.telemetry.temp = (upTo 32).map (fun d => x.temp.getD d 0) ∧ u.telemetry.peak = s.telemetry.peak ∧
        u.telemetry.throttled = (s.groups.filter (fun p => p.2.throttled)).length ∧ u.telemetry.uncorr = s.telemetry.uncorr ∧
        { u with telemetry := s.telemetry } = s) ∧
      exec .peakampsRead s = .next { s with telemetry := { s.telemetry with peak := 0 } } ∧
      (∀ die, die < 32 → exec (.thermalThrottle die) s = .next { s with hot := die :: s.hot.erase die }) ∧
      (∀ die, exec (.thermalRecovery die) s = .next { s with hot := s.hot.erase die }))

/-! ### Ports (17 R379 to R388; 13 R298, R299) -/

/-- LinkCtl (R379) without new retry limits. -/
def Sys2Proof.Machine.linkCommand (act l : Nat) : List W8 := ringCommand 0x40 act l 0 0 0

/-- PortCfg sets a Down port. Enable and Recover make a configured Down port and an Isolated one train; Disable of one with nothing outstanding, its dirty lines written back, makes it Down and completes, and with something outstanding it waits. A CXL.io request is answered: with the word of the configuration space that it reads, or, of an absent part, as unsupported. A Training port that trains is Up with what training found; one that does not is Isolated, as is an Up port whose request times out, which counts in TIMEOUTS, or whose link goes down, which counts every outstanding request; its requests are gone. The Zhevport is Up when it trains, Isolated after eight failures, and trains again afterwards. A response to a read of a half-line fills it: from an expander in S with its memory's bytes, from the host in the state that GO grants with the bytes of the response, and one without the GO that it needs is none. The request is done, and poison is counted. Of a half-line of host memory that is not pinned SNPINV leaves I, SNPDATA at most S, and SNPCUR what it was, and each answers with that state, an M with its data. A granted host read changes no memory and is answered with the bytes read, one that is denied is answered with poison and does nothing else, and a granted host write writes its bytes, and poisons the line where its data is poisoned. (17 R379, 17 R380, 17 R385, 17 R386, 13 R298, 13 R299, 17 R382, 17 R384) -/
def Obligations.Ports : Prop :=
  (
    (∀ (s : State) (slot role ctx b toexp base size : Nat), b < 4 → 10 ≤ toexp → toexp ≤ 24 → base < 2 ^ 64 → size < 2 ^ 64 →
      role = 1 ∧ ctx ≤ 1023 ∧ base % 0x40000000 = 0 ∧ size % 0x40000000 = 0 ∧ base + size ≤ 0xC000000000 ∨
        role = 2 ∧ ctx = 0 ∧ base = 0 ∧ size = 0 →
      let c := ringCommand 0x41 role ctx (b + 256 * toexp) base size
      Posted s slot c →
      ((s.port b).state ≠ .down → exec .portcfg s = .next (s.doneWith slot c 4)) ∧
      ((s.port b).state = .down → ctx ≠ 0 → ¬(s.context ctx).state.Holds → exec .portcfg s = .next (s.doneWith slot c 1)) ∧
      ((s.port b).state = .down → ctx = 0 ∨ (s.context ctx).state.Holds → exec .portcfg s = .next ((s.modPort b (fun p => { p with
        role := role
        toexp := toexp
        ctx := ctx
        winBase := base
        winSize := size
        capacity := 0 })).doneWith slot c 0))) ∧
    (∀ (s : State) (slot b : Nat), b < 4 →
      let p := s.port b
      let trains : State := s.modPort b (fun p => { p with state := .training })
      let written : State := s.writeBackWindow b
      let replies (u : State) (status : Nat) (data : List W8) : State := { u with reply := some { source := b + 1, status := status, data := data } }
      (Posted s slot (linkCommand 0 (16 + b)) →
        (p.state = .down → p.role ≠ 0 → exec .linkEnable s = .next (trains.doneWith slot (linkCommand 0 (16 + b)) 0)) ∧
        (p.state ≠ .down ∨ p.role = 0 → exec .linkEnable s = .next (s.doneWith slot (linkCommand 0 (16 + b)) 4))) ∧
      (Posted s slot (linkCommand 2 (16 + b)) →
        (p.state = .isolated → exec .linkRecover s = .next (trains.doneWith slot (linkCommand 2 (16 + b)) 0)) ∧
        (p.state ≠ .isolated → exec .linkRecover s = .next (s.doneWith slot (linkCommand 2 (16 + b)) 4))) ∧
      (Posted s slot (linkCommand 1 (16 + b)) →
        (p.state = .down → exec .linkDisable s = .next (s.doneWith slot (linkCommand 1 (16 + b)) 4)) ∧
        (p.state ≠ .down → p.disabling = false → p.requests = [] → (p.state = .up → (written.port b).requests = []) → (∀ q ∈ s.pending, q.2.kind ≠ 5) →
          ∃ u, exec .linkDisable s = .next u ∧ Answered s u slot (linkCommand 1 (16 + b)) 0 ∧ (u.port b).state = .down ∧ (u.port b).requests = []) ∧
        (p.state = .up → p.disabling = false → (written.port b).requests ≠ [] →
          ∃ u, exec .linkDisable s = .next u ∧ (u.port b).state = .up ∧ (u.port b).disabling = true ∧
            (u.port b).requests ≠ [] ∧ (s.l2 = [] → (u.port b).requests = p.requests) ∧
            u.ringSlots = s.ringSlots ∧ Table.get? u.pending s.nextId = some { kind := 5, ctx := b, asker := .ring slot, area := 0, size := 0, via := 0 })) ∧
      (∀ x : CxlTraining, p.state = .training → exec (.cxlTrained b x) s = .next (s.modPort b (fun p => { p with
        state := .up
        narrow := x.narrow
        slow := x.slow
        capacity := if p.role = 2 then x.capacity else p.capacity
        hdm := if p.role = 2 then (0, x.capacity / 0x10000000 * 0x10000000) :: List.replicate 7 (0, 0) else p.hdm }))) ∧
      (∀ i n, p.disabling = false →
        (i = Instr.cxlTrainTimeout b ∧ p.state = .training ∧ n = 0 ∨
         (∃ r, i = .cxlRequestTimeout b r ∧ p.state = .up ∧ (Table.get? p.requests r).isSome = true ∧ n = 1) ∨
         i = .cxlLinkDown b ∧ p.state = .up ∧ n = p.requests.length) →
        ∃ u, exec i s = .next u ∧ (u.port b).state = .isolated ∧ (u.port b).requests = [] ∧ (u.port b).timeouts = p.timeouts + BitVec.ofNat 64 n ∧
          u.memory = s.memory ∧ (s.devErrors.tail - s.devErrors.head < 256 → u.devErrors.tail = s.devErrors.tail + 1)) ∧
      (∀ o (v : W32), p.state = .up → o % 4 = 0 → o < 4096 → ∃ u, exec (.cxlIoRequest b (.configWrite o v)) s = .next u ∧ u.memory = s.memory ∧
        Table.read 0 (u.port b).config (o / 4) = v ∧ ∀ j, j ≠ o / 4 → Table.read 0 (u.port b).config j = Table.read 0 p.config j) ∧
      (∀ o, ∀ r ∈ [IoRequest.configRead o, .enumerate, .errorReport, .absentPart], (p.state ≠ .up → exec (.cxlIoRequest b r) s = .next s) ∧
        (p.state = .up → ∃ y, exec (.cxlIoRequest b r) s = .next { s with reply := y })) ∧
      (p.state = .up → exec (.cxlIoRequest b .absentPart) s = .next (replies s 2 []) ∧
        ∀ o, o % 4 = 0 → o < 4096 →
          exec (.cxlIoRequest b (.configRead o)) s = .next (replies s 0 (leBytes 4 (Table.read 0 p.config (o / 4)).toNat)))) ∧
    (∀ s : State, s.zhevport = .training →
      exec (.zhevportTrained true) s = .next { s with
        zhevport := .up
        zhevFails := 0 } ∧
      (s.zhevFails = 7 → exec (.zhevportTrained false) s = .next { s with
        zhevport := .isolated
        zhevFails := 0 }) ∧
      (s.zhevFails ≠ 7 → exec (.zhevportTrained false) s = .next { s with zhevFails := s.zhevFails + 1 })) ∧
    (∀ s : State, s.zhevport = .isolated → exec .zhevportIsolationExpiry s = .next { s with zhevport := .training })) ∧
  (
    (∀ (s : State) (b id half : Nat) (a : CxlAnswer), b < 4 →
      let pa := 64 * half
      let place := homeSlice pa
      let l := s.l2At place pa
      (s.port b).state = .up → (s.port b).disabling = false → s.target? pa = some (.cxl b) →
      ∀ rctx, Table.get? (s.port b).requests id = some { kind := 0, half := half, ctx := rctx } →
      (∀ ctx, s.keyContext l.key = some ctx → (s.hind ctx).mode = .off) →
      let fills (st : Nat) (bytes : List W8) : Prop := ∃ u, exec (.cxlResponse b id a) s = .next u ∧ u.memory = s.memory ∧
        (u.port b).requests = Table.erase (s.port b).requests id ∧ (u.port b).poisonIn = (s.port b).poisonIn + (if a.poison then 1 else 0) ∧
        (u.l2At place pa).half (half % 2) = st ∧ (u.l2At place pa).halfData (half % 2) = bytes ∧ (a.poison = true → (u.l2At place pa).poison = true)
      ((s.port b).role = 2 → fills 1 (s.memory.read l.key pa 64)) ∧
      ((s.port b).role = 1 → a.data.length = 64 → a.go = 1 ∨ a.go = 2 → fills a.go a.data) ∧
      ((s.port b).role = 1 → a.go ≠ 1 → a.go ≠ 2 → exec (.cxlResponse b id a) s = .next s)) ∧
    (∀ (s : State) (b half : Nat) (l : L2Line), b < 4 → (s.port b).state = .up → (s.port b).role = 1 → s.target? (64 * half) = some (.cxl b) →
      Table.get? (s.l2Of (homeSlice (64 * half))) (half / 2) = some l →
      let old := l.half (half % 2)
      let becomes (st dirty clean gone : Nat) : State := { s.setL2 (homeSlice (64 * half)) (half / 2) (l.setHalf (half % 2) st) with
        reply := some { source := b + 1
                        status := if old = 3 then dirty else if old = 0 then gone else clean
                        data := if old = 3 then l.halfData (half % 2) else [] } }
      (l.pins ≠ 0 → ∀ i ∈ [Instr.snpinv b half, .snpdata b half, .snpcur b half], exec i s = .next s) ∧
      (l.pins = 0 → exec (.snpinv b half) s = .next (becomes 0 3 4 5) ∧ exec (.snpdata b half) s = .next (becomes (min old 1) 6 7 5) ∧
        exec (.snpcur b half) s = .next (becomes old 8 9 5))) ∧
    (∀ (s : State) (b off : Nat) (data : List W8) (poison : Bool),
      let pa := (s.port b).winBase + off
      let key := (s.context (s.port b).ctx).key
      let n := data.length
      let denied : State := { s with reply := some { source := b + 1, status := 1, data := [] } }
      b < 4 → (s.port b).state = .up → (s.port b).role = 1 → (s.port b).hosts = [] → 0 < (s.port b).ctx → 0 < n → off % 64 + n ≤ 64 → off + n ≤ (s.port b).winSize →
      (s.port b).winBase % 64 = 0 → s.target? pa = some .hbm → (s.l2At (homeSlice pa) pa).tokens = 5 → (s.l2At (homeSlice pa) pa).pins = 0 →
      s.memory.poisoned (lineOf pa) = false → s.keyState key = 1 → s.memory.tag (lineOf pa) = s.keyTag key →
      (s.granted (s.port b).ctx pa n true false = true → ∃ u, exec (.hostMemRead b off n) s = .next u ∧ u.memory = s.memory ∧
        u.reply = some { source := b + 1, status := 0, data := s.memory.read (s.keyTag key) pa n }) ∧
      (s.granted (s.port b).ctx pa n true false = false → exec (.hostMemRead b off n) s = .next denied) ∧
      (s.granted (s.port b).ctx pa n true true = true → ∃ u, exec (.hostMemWrite b off data poison) s = .next u ∧
        u.memory.read (s.keyTag key) pa n = data ∧ u.memory.poisoned (lineOf pa) = poison ∧
        ∀ x t, (x < pa ∨ pa + n ≤ x) → u.memory.byte t x = s.memory.byte t x) ∧
      (s.granted (s.port b).ctx pa n true true = false → exec (.hostMemWrite b off data poison) s = .next denied)))

/-! ### Fabric links (17 R370 to R378) -/

/-- A link's own counters and limits are as they were. -/
def Sys2Proof.Machine.Link.KeepsCounts (a b : Link) : Prop :=
  a.corr = b.corr ∧ a.hdrop = b.hdrop ∧ a.crcerr = b.crcerr ∧ a.misroute = b.misroute ∧ a.retrain = b.retrain ∧ a.isol = b.isol ∧ a.dropped = b.dropped

/-- The 256 bytes of a flit that pass the CRC over their payload (R370). -/
def Sys2Proof.Machine.crcPasses (bs : List W8) : Prop := bs.length = 256 ∧ crc64 ((bs.drop 16).take 232) = BitVec.ofNat 64 (leAt bs 248 8)

/-- Enable of a Down link and Recover of an Isolated one that hold nothing make it train with fresh sequence numbers and the given retry limits, its counters kept; in other states they give STATE. Disable of a link that holds nothing makes it Down, no route uses it, and one that holds flits waits for them. Training that finds 64 wavelengths or more each way, of those that no training has disabled, and another device makes it Up or Degraded and the route to its peer; anything else, and no training in time, isolates it. Silence of a link that carries traffic makes it train again. A retry period starts its NAK count afresh. A header read back from its encoding is the header, and one with any one of its 128 bits changed is corrected to it. At a link that carries traffic: a header that cannot be corrected counts in HDROP and a payload whose CRC differs in CRCERR, and a NAK goes out; a flit out of sequence is dropped. The next in sequence is taken: a reserved TYPE counts in MISROUTE, an idle flit only advances the sequence, and a packet of one flit for a context that is Torn down counts in KDROP. (17 R374, 17 R375, 17 R378, 17 R379, 17 R370, 17 R371, 17 R372, 17 R373) -/
def Obligations.Links : Prop :=
  (
    (∀ (s : State) (slot l rm rp : Nat), l < 16 → rm < 2 ^ 16 → rp = 0 ∨ (16 ≤ rp ∧ rp ≤ 28) →
      let k := s.link l
      let c (act : Nat) : List W8 := ringCommand 0x40 act l (rm + 65536 * rp) 0 0
      let tuned (x : Link) : Prop := x.retryMax = (if rm = 0 then k.retryMax else rm) ∧ x.rpexp = (if rp = 0 then k.rpexp else rp) ∧ x.KeepsCounts k
      (∀ f ∈ [(Instr.linkEnable, 0, LinkState.down), (.linkRecover, 2, .isolated)], Posted s slot (c f.2.1) →
        (k.state = f.2.2 → k.replay = [] → k.kept = [] → k.backlog = [] → ∃ u, exec f.1 s = .next u ∧ Answered s u slot (c f.2.1) 0 ∧ u.memory = s.memory ∧
          (u.link l).state = .training ∧ (u.link l).rxNext = 0 ∧ (u.link l).txNext = 0 ∧ (u.link l).replay = [] ∧ tuned (u.link l) ∧
          ∀ m, m ≠ l → u.link m = s.link m) ∧
        (k.state ≠ f.2.2 → exec f.1 s = .next (s.doneWith slot (c f.2.1) 4))) ∧
      (Posted s slot (c 1) →
        (k.state = .down → exec .linkDisable s = .next (s.doneWith slot (c 1) 4)) ∧
        (k.state ≠ .down → s.commands = [] → s.gangs = [] → s.joins = [] → ∃ u, exec .linkDisable s = .next u ∧ Answered s u slot (c 1) 0 ∧ u.memory = s.memory ∧
          (u.link l).state = .down ∧ (u.link l).replay = k.replay ∧ ((u.link l).flushing = true ↔ k.replay ≠ [] ∨ k.kept ≠ [] ∨ k.backlog ≠ []) ∧ tuned (u.link l) ∧
          ∀ r ∈ u.routes, l ∉ r.2))) ∧
    (∀ (s : State) (l : Nat) (x : Training), l < 16 →
      let k := s.link l
      let tx := min x.txGood k.txLive
      let rx := min x.rxGood k.rxLive
      (k.state = .training → 64 ≤ tx → 64 ≤ rx → x.peer % 4096 ≠ s.dev.devid → ∃ u, exec (.linkTrained l x) s = .next u ∧ u.memory = s.memory ∧
        (u.link l).state = (if tx = 256 ∧ rx = 256 then .up else .degraded) ∧ (u.link l).peer = x.peer % 4096 ∧
        (u.link l).replay = k.replay ∧ (u.link l).KeepsCounts k ∧ l ∈ Table.read [] u.routes (x.peer % 4096)) ∧
      (k.state = .training → ∀ i, i = Instr.linkTrainTimeout l ∨ i = .linkTrained l x ∧ (tx < 64 ∨ rx < 64 ∨ x.peer % 4096 = s.dev.devid) →
        ∃ u, exec i s = .next u ∧ (u.link l).state = .isolated ∧ (u.link l).isol = k.isol + 1 ∧ (u.link l).replay = [] ∧ ∀ r ∈ u.routes, l ∉ r.2) ∧
      (k.state = .up ∨ k.state = .degraded → ∃ u, exec (.linkSilence l) s = .next u ∧ u.memory = s.memory ∧ (u.link l).state = .training ∧
        (u.link l).retrain = k.retrain + 1 ∧ (u.link l).replay = k.replay ∧ ∀ m, m ≠ l → u.link m = s.link m) ∧
      (k.naks ≤ k.retryMax → ∃ u, exec (.retryPeriod l) s = .next u ∧ u.memory = s.memory ∧ (u.link l).naks = 0 ∧ (u.link l).state = k.state ∧
        (u.link l).replay = k.replay ∧ (u.link l).KeepsCounts k) ∧
      (k.flushing = true → ∃ u, exec (.disableFlushTimeout l) s = .next u ∧ (u.link l).flushing = false ∧
        (k.state = .down → (u.link l).state = .down ∧ (u.link l).replay = [])))) ∧
  (
    (∀ h : Header, h.seq < 4096 → h.ack < 4096 → h.typ < 16 → h.dst < 4096 → h.src < 4096 → h.ctx < 1024 → h.e2e < 2 ^ 16 → h.vc < 8 →
      h.nflit < 32 → h.rsv < 2 ^ 34 →
      checkHeader h.encode = .good h ∧ ∀ j, j < 128 → checkHeader (h.encode ^^^ 2 ^ j) = .corrected h) ∧
    (∀ (s : State) (l : Nat) (bs : List W8) (h : Header), l < 16 →
      let k := s.link l
      k.state = .up ∨ k.state = .degraded → k.flushing = false → bs.length = 256 →
      (checkHeader (leNat (bs.take 16)) = .bad → ∃ u, exec (.flitReceive l bs) s = .next u ∧ u.memory = s.memory ∧ (u.link l).hdrop = k.hdrop + 1 ∧
        (u.link l).rxNext = k.rxNext ∧ (u.link l).replay.length + (u.link l).backlog.length = k.replay.length + k.backlog.length + 1) ∧
      (checkHeader (leNat (bs.take 16)) = .good h →
        (¬crcPasses bs → ∃ u, exec (.flitReceive l bs) s = .next u ∧ u.memory = s.memory ∧ (u.link l).crcerr = k.crcerr + 1 ∧
          (u.link l).rxNext = k.rxNext ∧ (u.link l).replay.length + (u.link l).backlog.length = k.replay.length + k.backlog.length + 1) ∧
        (crcPasses bs → h.seq ≠ k.rxNext → exec (.flitReceive l bs) s = .next s) ∧
        (crcPasses bs → h.seq = k.rxNext →
          let taken (m : Link → Link) : State := s.modLink l (fun k => m (({ k with rxNext := (k.rxNext + 1) % 4096 } : Link).acknowledge fibre h.ack))
          (9 ≤ h.typ ∨ h.rsv ≠ 0 → ∃ u, exec (.flitReceive l bs) s = .next u ∧ u = taken (fun k => { k with misroute := k.misroute + 1 })) ∧
          (h.rsv = 0 → h.typ < 2 → ∃ u, exec (.flitReceive l bs) s = .next u ∧ u = taken id) ∧
          (h.rsv = 0 → 3 ≤ h.typ → h.typ < 7 → h.nflit = 0 → k.partialFlits = [] → h.dst = s.dev.devid → (s.context h.ctx).state = .tornDown →
            ∃ u, exec (.flitReceive l bs) s = .next u ∧ u.dev = { s.dev with kdrop := s.dev.kdrop + 1 } ∧ u.memory = s.memory ∧
              (u.link l).rxNext = (k.rxNext + 1) % 4096 ∧ u.groups = s.groups)))))

/-! ### Resets and boot (22 R457 to R464) -/

/-- What either reset leaves (R457): nothing of groups, kernels, contexts, queues, caches, translations and commands; every key id free. -/
structure Sys2Proof.Machine.IsReset (s u : State) (cause : Nat) : Prop where
  running : u.groups = [] ∧ u.kernels = [] ∧ u.contexts = [] ∧ u.queues = [] ∧ u.bindTable = [] ∧ u.gangs = [] ∧ u.packages = [] ∧ u.pending = []
  caches : u.l1 = [] ∧ u.l2 = [] ∧ u.tlbs = [] ∧ u.walks = [] ∧ u.faults = [] ∧ u.floors = [] ∧ u.accesses = [] ∧ u.commands = [] ∧ u.paths = [] ∧
    u.killed = [] ∧ u.nextFid = 1
  keys : ∀ k, 0 < k → u.keyState k = 0
  ring : u.ringHead = 0 ∧ u.ringTail = 0 ∧ u.ringSlots = []
  ports : (∀ l, (u.link l).state = .down) ∧ (∀ b, (u.port b).state = .down) ∧ u.zhevport = .training
  block : u.dev.resetCause = cause ∧ u.dev.bootStat = 0 ∧ u.dev.devid = 0 ∧ u.dev.poolSize = 0 ∧ u.dev.frLog = 10 ∧ u.dev.frHead = 0 ∧
    u.dev.frTail = 0 ∧ u.dev.mgmtBud = 4096 ∧ u.dev.scrubBud = 1024 ∧ u.dev.mpexp = 16 ∧ u.dev.plimit = 4500 ∧ u.dev.rollback = s.dev.rollback

/-- What a warm reset keeps. -/
structure Sys2Proof.Machine.KeptWarm (s u : State) : Prop where
  block : u.dev.nearcfg = s.dev.nearcfg ∧ u.dev.rejwr = s.dev.rejwr ∧ u.dev.kdrop = s.dev.kdrop
  telemetry : u.telemetry.corr = s.telemetry.corr ∧ u.telemetry.uncorr = s.telemetry.uncorr
  links : ∀ l, (u.link l).KeepsCounts (s.link l)
  ports : ∀ b, (u.port b).timeouts = (s.port b).timeouts ∧ (u.port b).poisonIn = (s.port b).poisonIn ∧ (u.port b).poisonOut = (s.port b).poisonOut ∧
    (u.port b).dropWr = (s.port b).dropWr ∧ (u.port b).discard = (s.port b).discard

/-- Power-on, ColdReset and WarmReset, the reset after a fatal error and a thermal trip leave the reset state with their cause; a cold one leaves memory zero, and a warm one keeps memory, where no write is on its way, with NEARCFG and the counters. A reset command waits while a command before it has not completed. The boot ROM runs an image that passes its checks: BOOTSTAT is 2, FWVER its version, ROLLBACK has not fallen, and the device map holds every core; an image of another MAGIC gives 5, and an older one than ROLLBACK gives 4. (22 R457, 22 R458, 22 R459, 22 R460, 22 R467, 19 R435) -/
def Obligations.Resets : Prop :=
  (
    (∀ (s : State),
      (∃ u, exec .powerOn s = .next u ∧ IsReset s u 0 ∧ u.memory = Memory.zero ∧ u.dev.nearcfg = 0 ∧ u.links = [] ∧ u.ports = []) ∧
      (∀ slot, Posted s slot (ringCommand 0x80 0 0 0 0 0) →
        ((∀ p ∈ s.pending, ∀ n, p.2.asker ≠ .ring n) → ∃ u, exec .coldreset s = .next u ∧ IsReset s u 1 ∧ u.memory = Memory.zero ∧ u.links = []) ∧
        ((∃ p ∈ s.pending, ∃ n, p.2.asker = .ring n) → exec .coldreset s = .next s)) ∧
      (s.accesses = [] → s.commands = [] → s.l2 = [] →
        (s.stopped = true → ∃ u, exec .warmreset s = .next u ∧ IsReset s u 3 ∧ KeptWarm s u ∧ u.memory = s.memory) ∧
        (∀ slot, s.stopped = false → Posted s slot (ringCommand 0x81 0 0 0 0 0) →
          ((∀ p ∈ s.pending, ∀ n, p.2.asker ≠ .ring n) → ∃ u, exec .warmreset s = .next u ∧ IsReset s u 2 ∧ KeptWarm s u ∧ u.memory = s.memory) ∧
          ((∃ p ∈ s.pending, ∃ n, p.2.asker = .ring n) → exec .warmreset s = .next s)) ∧
        (∀ die, die < 32 → ∃ u, exec (.thermalTrip die) s = .next u ∧ IsReset s u 4 ∧ KeptWarm s u ∧ u.memory = s.memory))) ∧
    (∀ (s : State), s.zhevport = .up → s.dev.bootStat ≠ 2 →
      let b (off n : Nat) : List W8 := (upTo n).map (fun j => Table.read 0 s.imageArea (off + j))
      let head := b 0 128
      let code := s.checkImage head
      (leAt head 0 8 ≠ 0x57524D465341594B → code = 5) ∧
      (leAt head 0 8 = 0x57524D465341594B → leAt head 8 4 < s.dev.rollback.toNat → code = 4) ∧
      (code ≠ 2 → exec .bootImage s = .next { s with dev := { s.dev with bootStat := code } }) ∧
      (code = 2 → ∃ u, exec .bootImage s = .next u ∧ u.memory = s.memory ∧ u.dev.bootStat = 2 ∧ u.dev.fwver.toNat = leAt head 8 4 ∧
        u.dev.rollback.toNat = max s.dev.rollback.toNat (leAt head 0x0C 4) ∧ u.dev.m0 = shake256 64 (b 0 (128 + leAt head 0x10 8 + 29792)) ∧
        u.deviceMap.length = 1024 ∧ ∀ c, c < 1024 → u.deviceMap[c]? = some (laneMap c, BitVec.ofNat 32 (matMap c)))))

/-- State.reset is what power-on leaves of it: every context is Torn down, every key id but 0 is free, links and CXL ports are Down, the Zhevport trains, the device block and the telemetry hold the reset values that the spec gives, the error queues and the command ring are empty, every byte of HBM4 reads zero under key id 0, and physical memory is in its canonical form. (22 R457, 22 R464, 22 R466, 04 R90, 04 R87, 17 R375, 19 R419) -/
def Obligations.ResetState : Prop :=
  IsReset State.reset State.reset 0 ∧ State.reset.Inv ∧ (∀ a, State.reset.memory.byte 0 a = 0) ∧ (∀ line, State.reset.memory.poisoned line = false) ∧
    (∀ c, (State.reset.context c).state = .tornDown) ∧ State.reset.keyState 0 = 1 ∧ State.reset.dev.nearcfg = 0 ∧ State.reset.dev.rejwr = 0 ∧
    State.reset.dev.kdrop = 0 ∧ State.reset.devErrors = { head := 0, tail := 0, lost := 0, records := [] } ∧ State.reset.telemetry.peak = 0 ∧
    State.reset.stopped = false

/-! ### Tokens, leases, starvation and traps that no form raises (03 R64 to R67, 08 R159 to R170, 12 R261, 13 R283 to R285) -/

/-- The plain tokens of a line at the four slices that can hold it. -/
def Sys2Proof.Machine.State.plainTokens (s : State) (line : Nat) : Nat := ((slicesOf (128 * line)).map (fun q => (s.l2At q (128 * line)).plain)).sum

/-- A token transfer that may happen moves its tokens from source to destination, keeps the line's four plain tokens, changes no memory, and brings the destination the largest lease end granted, and, with the owner token or to a slice that held none, the data's stamp; one that may not happens not. A starving slice files a persistent request once; the die with the grant activates its oldest, and the grant goes on. The halo token goes to the next of 33 stations. The expiry of a lease ends the Valid copy of its line, and no other. An encoding that fails decoding gives every member of the wave ILLEGAL with the reason and field. An item that has waited for its leaders takes LAVIO once they are done, with distance and field in TRAPINFO. An item that is ready, with all that an issue asks of it, is starved when its age is up; an item set aside by yield is ready again. In a window whose items all wait at cross-lane instructions of more than one PC each item takes BARRIER of kind 0x40; in any other nothing happens. (12 R261, 13 R283, 13 R284, 13 R285, 03 R64, 03 R66, 03 R67, 08 R159, 08 R163, 08 R170) -/
def Obligations.CoherenceAndIssue : Prop :=
  (
    (∀ (s : State) (m : TokenMove), let pa := 128 * m.line
      let a := s.l2At m.src pa
      let b := s.l2At m.dst pa
      (s.mayMove m = false → exec (.tokenTransfer m) s = .next s) ∧
      (s.mayMove m = true → s.plainTokens m.line = 4 → ∃ u, exec (.tokenTransfer m) s = .next u ∧ u.memory = s.memory ∧ u.plainTokens m.line = 4 ∧
        (u.l2At m.dst pa).plain = b.plain + m.plain ∧ (u.l2At m.dst pa).owner = (b.owner || m.owner) ∧
        (u.l2At m.dst pa).wts = (if b.tokens = 0 ∨ m.owner = true then a.wts else b.wts) ∧
        (u.l2At m.dst pa).lease = (if b.tokens = 0 then a.lease else max b.lease a.lease) ∧ (u.l2At m.src pa).plain = a.plain - m.plain)) ∧
    (∀ (s : State) (slice line : Nat) (w : Bool),
      (s.wantsLine slice line = true → s.neededMove slice (128 * line) w ≠ none → (slice, line, w) ∉ s.persistent → (slice, line, w) ∉ s.active →
        exec (.persistentRequest slice line w) s = .next { s with persistent := s.persistent ++ [(slice, line, w)] }) ∧
      (s.wantsLine slice line = false ∨ (slice, line, w) ∈ s.persistent ∨ (slice, line, w) ∈ s.active →
        exec (.persistentRequest slice line w) s = .next s)) ∧
    (∀ (s : State) (r : Nat × Nat × Bool) (before after : List (Nat × Nat × Bool)), s.persistent = before ++ r :: after → r.1 / 64 = s.grantAt →
      (∀ p ∈ before, p.1 / 64 ≠ s.grantAt) → exec .arbiterGrantVisit s = .next { s with
        persistent := before ++ after
        active := s.active ++ [r]
        grantAt := (s.grantAt + 1) % 4 }) ∧
    (∀ (s : State), (∀ p ∈ s.persistent, p.1 / 64 ≠ s.grantAt) → exec .arbiterGrantVisit s = .next { s with grantAt := (s.grantAt + 1) % 4 }) ∧
    (∀ (s : State) (slice : Nat), slice < 256 → ∃ u, exec (.haloTokenPass slice) s = .next u ∧ { u with halo := s.halo } = s ∧
      Table.read 0 u.halo slice = (Table.read 0 s.halo slice + 1) % 33 ∧ ∀ q, q ≠ slice → Table.read 0 u.halo q = Table.read 0 s.halo q) ∧
    (∀ (s : State) (cluster line : Nat), ∃ u, exec (.leaseExpiry cluster line) s = .next u ∧ { u with l1 := s.l1 } = s ∧
      u.l1Of cluster = (s.l1Of cluster).filter (fun p => p.1 != line || p.2.state != .valid) ∧ ∀ q, q ≠ cluster → u.l1Of q = s.l1Of q)) ∧
  (
    (∀ (s : State) (g : Group) (h : W64) (bad : Illegal), Plain s g → s.handlerOf g.kh = some h → bad.ilen = s.wave.ilen →
      (∀ p ∈ g.items, s.wave.slots.contains p.1 = true → p.2.windows = [] ∧ p.2.inHandler = false) →
      exec (.illegalEncoding bad) s = .next (s.after g (fun e => e.entered e.it h
        { cause := 1, addr := 0, info := BitVec.ofNat 32 (256 * bad.field + bad.reason) }))) ∧
    (∀ (s : State) (gid slot d fld n : Nat) (g : Group) (it : Item) (h : W64), s.group? gid = some g → g.Clear → Table.get? g.items slot = some it →
      it.wait = .lavio d fld n →
      (it.leading = true → exec (.lavio gid slot) s = .next s) ∧
      (it.leading = false → s.handlerOf g.kh = some h → it.inHandler = false → exec (.lavio gid slot) s = .next (s.setItem gid slot
        ({ Env.of s g gid slot it with ilen := n }.entered it h { cause := 3, addr := 0, info := BitVec.ofNat 32 (d % 16 + 16 * fld) })))) ∧
    (∀ (s : State) (gid slot : Nat) (g : Group) (it : Item), s.group? gid = some g → Table.get? g.items slot = some it →
      (it.starved = false → s.fullyReady gid g slot it = true → exec (.starvation gid slot) s = .next (s.setItem gid slot { it with
        starved := true
        aged := s.tick })) ∧
      (s.fullyReady gid g slot it = false → exec (.starvation gid slot) s = .next s) ∧
      (∃ u, exec (.yieldExpiry gid slot) s = .next u ∧ u.memory = s.memory ∧ u.item? gid slot = some { it with aside := none })) ∧
    (∀ (s : State) (gid window : Nat) (g : Group) (h : W64), s.group? gid = some g → g.Clear → s.handlerOf g.kh = some h →
      (∀ p ∈ g.items, p.1 < 2048) →
      (s.deadlocked gid window = false → exec (.crossLaneDeadlock gid window) s = .next s) ∧
      (s.deadlocked gid window = true → (∀ p ∈ g.items, p.1 / 32 = window → p.2.windows = [] ∧ p.2.inHandler = false) →
        ∃ u, exec (.crossLaneDeadlock gid window) s = .next u ∧ u.memory = s.memory ∧
        ∀ k it, Table.get? g.items k = some it → ∃ it', u.item? gid k = some it' ∧ it'.v = it.v ∧ it'.p = it.p ∧
          (k / 32 ≠ window → it' = it) ∧
          (k / 32 = window → it'.pc = h ∧ it'.trapPc = it.pc ∧ it'.trapCause = 0x80000211 ∧ it'.trapInfo = 0x40))))

/-! ### The step -/

/-- The core of an input has one group with one ready item, which no fetch trap awaits: the case in which the issue port's choice is plain. -/
structure Sys2Proof.Machine.OneReady (s : State) (core gid : Nat) (g : Group) (k : Nat) (it : Item) : Prop where
  group : s.rotation core = [(gid, g)]
  found : s.group? gid = some g
  ready : s.readyItems gid g 2 = [(k, it)]
  again : s.readyItems gid g 1 = []
  fresh : it.starved = false
  whole : it.owesFetch = false
  unlogged : s.loggedFault g it = none ∧ s.nextShared g = none

/-- An instruction word is read, under its context's key, where the core's TLB maps it for fetch, and an instruction is the decoding of as many words as its first one says. Where the issue port of the input's core has one ready item, the step is exec of the decoded instruction on the wave of that item, if its lookahead window admits it, with the accounting and the count of steps around it; an encoding that fails decoding runs as ILLEGAL; a cross-lane form runs where its window has converged. The start of a wave and, with no log kept, the end of a step change nothing but the scheduler's notes and the starved items that are no longer ready. An event of the inputs takes place as exec of it. (03 R56, 03 R66, 08 R156, 16 R356) -/
def Obligations.StepRunsDecoded : Prop :=
  (∀ (s : State) (g : Group) (va : W64) (pa : Nat), s.translate g.core g.ctx va 2 = .ok pa → s.granted g.ctx pa 4 false false = true →
    s.memory.poisoned (lineOf pa) = false → s.target? pa = some .hbm → (∀ kn, s.kernel? g.kh = some kn → Table.get? kn.oldWords (pa / 4) = none) →
    s.fetchWord g va = .word (BitVec.ofNat 32 (leNat (s.memory.read (s.keyTag (s.context g.ctx).key) pa 4)))) ∧
  (∀ (s : State) (g : Group) (pc : W64) (w0 w1 w2 : W32), s.fetchWord g pc = .word w0 →
    (wordsOf w0 = 1 → s.fetch g pc = .words (decode w0 0 0) 1) ∧
    (s.fetchWord g (pc + 4) = .word w1 → (wordsOf w0 = 2 → s.fetch g pc = .words (decode w0 w1 0) 2) ∧
      (s.fetchWord g (pc + 8) = .word w2 → wordsOf w0 = 3 → s.fetch g pc = .words (decode w0 w1 w2) 3))) ∧
  (∀ (s : State) (core gid k n : Nat) (g : Group) (it : Item) (rest : List Move), s.inputs = .issue core :: rest →
    let r : State := { s with inputs := rest }
    let w : Wave := { gid := gid, pc := it.pc, slots := [k], ilen := n }
    OneReady r core gid g k it →
    (∀ i, r.fetch g it.pc = .words (.ok i) n → it.mayIssue (.ok i) = true →
      (isCrossLane i = true → r.converged gid g it.pc (k / 32) = true ∧ g.items.filter (fun p => p.1 / 32 == k / 32) = [(k, it)]) →
      step s = (match exec i (r.beginWave w) with
        | .next t => .next (r.endStep ((r.beginWave w).logShared ((r.beginWave w).accountGone t w (.ok i)) w i))
        | .fault f => .fault f
        | .refused x => .refused x)) ∧
    (∀ bad, r.fetch g it.pc = .words (.error bad) n → it.windows = [] → step s = (match exec (.illegalEncoding bad) (r.beginWave w) with
        | .next t => .next (r.endStep t)
        | .fault f => .fault f
        | .refused x => .refused x))) ∧
  (∀ (s : State) (i : Instr) (rest : List Move), s.inputs = .event i :: rest → toRaw i = none →
    let r : State := { s with inputs := rest }
    step s = (match exec i r with
      | .next t => .next (r.endStep t)
      | .fault f => .fault f
      | .refused x => .refused x)) ∧
  (∀ (s t : State) (w : Wave) (i : Except Illegal Instr), (∀ p ∈ s.groups, (t.hind p.2.ctx).mode = .off) → (∀ p ∈ s.groups, (s.hind p.2.ctx).mode = .off) →
    s.endStep t = { t.dropStarved with tick := s.tick + 1 } ∧ ((∀ p ∈ t.groups, ∀ q ∈ p.2.items, q.2.starved = false) → t.dropStarved = t) ∧
    s.accountGone t w i = t ∧ ∀ j, s.logShared t w j = t) ∧
  (∀ (s : State) (w : Wave) (g : Group), s.group? w.gid = some g → ∃ h, (s.beginWave w).group? w.gid = some h ∧ (s.beginWave w).wave = w ∧
    { (s.beginWave w) with
      groups := s.groups
      wave := s.wave
      lastSeat := s.lastSeat } = s ∧
    { h with
      items := g.items
      lastWave := g.lastWave } = g ∧
    ∀ k it, Table.get? g.items k = some it → ∃ jt, Table.get? h.items k = some jt ∧ { jt with
      starved := it.starved
      aside := it.aside } = it)

/-- From every state in which physical memory is in canonical form, addresses strictly rising, no listed byte, key tag or poison mark equal to what an unlisted one reads as, any step that goes on leaves it so. (12 R250, 12 R253, 13 R276, 19 R425) -/
def Obligations.StepKeepsMemory : Prop :=
  ∀ (s t : State), s.Inv → step s = .next t → t.Inv
end

