-- ==== Sys2Proof/Laws/State.lean ====
section
/-! SUPPORT. What the named updates of State.lean's records leave alone: one lemma for each field and update, true by definition. -/

namespace Sys2Proof.Machine

/-! ### Updates of State -/

@[simp] theorem State.modGroup_inputs (s : State) (n : Nat) (f : Group → Group) : (s.modGroup n f).inputs = s.inputs := rfl
@[simp] theorem State.modGroup_wave (s : State) (n : Nat) (f : Group → Group) : (s.modGroup n f).wave = s.wave := rfl
@[simp] theorem State.modGroup_tick (s : State) (n : Nat) (f : Group → Group) : (s.modGroup n f).tick = s.tick := rfl
@[simp] theorem State.modGroup_nextId (s : State) (n : Nat) (f : Group → Group) : (s.modGroup n f).nextId = s.nextId := rfl
@[simp] theorem State.modGroup_killed (s : State) (n : Nat) (f : Group → Group) : (s.modGroup n f).killed = s.killed := rfl
@[simp] theorem State.modGroup_kernels (s : State) (n : Nat) (f : Group → Group) : (s.modGroup n f).kernels = s.kernels := rfl
@[simp] theorem State.modGroup_contexts (s : State) (n : Nat) (f : Group → Group) : (s.modGroup n f).contexts = s.contexts := rfl
@[simp] theorem State.modGroup_queues (s : State) (n : Nat) (f : Group → Group) : (s.modGroup n f).queues = s.queues := rfl
@[simp] theorem State.modGroup_lastQueue (s : State) (n : Nat) (f : Group → Group) : (s.modGroup n f).lastQueue = s.lastQueue := rfl
@[simp] theorem State.modGroup_takes (s : State) (n : Nat) (f : Group → Group) : (s.modGroup n f).takes = s.takes := rfl
@[simp] theorem State.modGroup_passDue (s : State) (n : Nat) (f : Group → Group) : (s.modGroup n f).passDue = s.passDue := rfl
@[simp] theorem State.modGroup_keys (s : State) (n : Nat) (f : Group → Group) : (s.modGroup n f).keys = s.keys := rfl
@[simp] theorem State.modGroup_bindTable (s : State) (n : Nat) (f : Group → Group) : (s.modGroup n f).bindTable = s.bindTable := rfl
@[simp] theorem State.modGroup_bindSeq (s : State) (n : Nat) (f : Group → Group) : (s.modGroup n f).bindSeq = s.bindSeq := rfl
@[simp] theorem State.modGroup_gangCount (s : State) (n : Nat) (f : Group → Group) : (s.modGroup n f).gangCount = s.gangCount := rfl
@[simp] theorem State.modGroup_gangs (s : State) (n : Nat) (f : Group → Group) : (s.modGroup n f).gangs = s.gangs := rfl
@[simp] theorem State.modGroup_packages (s : State) (n : Nat) (f : Group → Group) : (s.modGroup n f).packages = s.packages := rfl
@[simp] theorem State.modGroup_landings (s : State) (n : Nat) (f : Group → Group) : (s.modGroup n f).landings = s.landings := rfl
@[simp] theorem State.modGroup_restores (s : State) (n : Nat) (f : Group → Group) : (s.modGroup n f).restores = s.restores := rfl
@[simp] theorem State.modGroup_pending (s : State) (n : Nat) (f : Group → Group) : (s.modGroup n f).pending = s.pending := rfl
@[simp] theorem State.modGroup_updates (s : State) (n : Nat) (f : Group → Group) : (s.modGroup n f).updates = s.updates := rfl
@[simp] theorem State.modGroup_lastSeat (s : State) (n : Nat) (f : Group → Group) : (s.modGroup n f).lastSeat = s.lastSeat := rfl
@[simp] theorem State.modGroup_cycles (s : State) (n : Nat) (f : Group → Group) : (s.modGroup n f).cycles = s.cycles := rfl
@[simp] theorem State.modGroup_l1 (s : State) (n : Nat) (f : Group → Group) : (s.modGroup n f).l1 = s.l1 := rfl
@[simp] theorem State.modGroup_l2 (s : State) (n : Nat) (f : Group → Group) : (s.modGroup n f).l2 = s.l2 := rfl
@[simp] theorem State.modGroup_floors (s : State) (n : Nat) (f : Group → Group) : (s.modGroup n f).floors = s.floors := rfl
@[simp] theorem State.modGroup_nearWts (s : State) (n : Nat) (f : Group → Group) : (s.modGroup n f).nearWts = s.nearWts := rfl
@[simp] theorem State.modGroup_halo (s : State) (n : Nat) (f : Group → Group) : (s.modGroup n f).halo = s.halo := rfl
@[simp] theorem State.modGroup_scStamps (s : State) (n : Nat) (f : Group → Group) : (s.modGroup n f).scStamps = s.scStamps := rfl
@[simp] theorem State.modGroup_tlbs (s : State) (n : Nat) (f : Group → Group) : (s.modGroup n f).tlbs = s.tlbs := rfl
@[simp] theorem State.modGroup_paths (s : State) (n : Nat) (f : Group → Group) : (s.modGroup n f).paths = s.paths := rfl
@[simp] theorem State.modGroup_walks (s : State) (n : Nat) (f : Group → Group) : (s.modGroup n f).walks = s.walks := rfl
@[simp] theorem State.modGroup_faults (s : State) (n : Nat) (f : Group → Group) : (s.modGroup n f).faults = s.faults := rfl
@[simp] theorem State.modGroup_nextFid (s : State) (n : Nat) (f : Group → Group) : (s.modGroup n f).nextFid = s.nextFid := rfl
@[simp] theorem State.modGroup_monitors (s : State) (n : Nat) (f : Group → Group) : (s.modGroup n f).monitors = s.monitors := rfl
@[simp] theorem State.modGroup_monitorSeq (s : State) (n : Nat) (f : Group → Group) : (s.modGroup n f).monitorSeq = s.monitorSeq := rfl
@[simp] theorem State.modGroup_accesses (s : State) (n : Nat) (f : Group → Group) : (s.modGroup n f).accesses = s.accesses := rfl
@[simp] theorem State.modGroup_commands (s : State) (n : Nat) (f : Group → Group) : (s.modGroup n f).commands = s.commands := rfl
@[simp] theorem State.modGroup_joins (s : State) (n : Nat) (f : Group → Group) : (s.modGroup n f).joins = s.joins := rfl
@[simp] theorem State.modGroup_orphans (s : State) (n : Nat) (f : Group → Group) : (s.modGroup n f).orphans = s.orphans := rfl
@[simp] theorem State.modGroup_persistent (s : State) (n : Nat) (f : Group → Group) : (s.modGroup n f).persistent = s.persistent := rfl
@[simp] theorem State.modGroup_active (s : State) (n : Nat) (f : Group → Group) : (s.modGroup n f).active = s.active := rfl
@[simp] theorem State.modGroup_grantAt (s : State) (n : Nat) (f : Group → Group) : (s.modGroup n f).grantAt = s.grantAt := rfl
@[simp] theorem State.modGroup_copyLeft (s : State) (n : Nat) (f : Group → Group) : (s.modGroup n f).copyLeft = s.copyLeft := rfl
@[simp] theorem State.modGroup_injLeft (s : State) (n : Nat) (f : Group → Group) : (s.modGroup n f).injLeft = s.injLeft := rfl
@[simp] theorem State.modGroup_buckets (s : State) (n : Nat) (f : Group → Group) : (s.modGroup n f).buckets = s.buckets := rfl
@[simp] theorem State.modGroup_memory (s : State) (n : Nat) (f : Group → Group) : (s.modGroup n f).memory = s.memory := rfl
@[simp] theorem State.modGroup_links (s : State) (n : Nat) (f : Group → Group) : (s.modGroup n f).links = s.links := rfl
@[simp] theorem State.modGroup_e2eSent (s : State) (n : Nat) (f : Group → Group) : (s.modGroup n f).e2eSent = s.e2eSent := rfl
@[simp] theorem State.modGroup_e2eSeen (s : State) (n : Nat) (f : Group → Group) : (s.modGroup n f).e2eSeen = s.e2eSeen := rfl
@[simp] theorem State.modGroup_routes (s : State) (n : Nat) (f : Group → Group) : (s.modGroup n f).routes = s.routes := rfl
@[simp] theorem State.modGroup_lastRoute (s : State) (n : Nat) (f : Group → Group) : (s.modGroup n f).lastRoute = s.lastRoute := rfl
@[simp] theorem State.modGroup_ports (s : State) (n : Nat) (f : Group → Group) : (s.modGroup n f).ports = s.ports := rfl
@[simp] theorem State.modGroup_zhevport (s : State) (n : Nat) (f : Group → Group) : (s.modGroup n f).zhevport = s.zhevport := rfl
@[simp] theorem State.modGroup_zhevFails (s : State) (n : Nat) (f : Group → Group) : (s.modGroup n f).zhevFails = s.zhevFails := rfl
@[simp] theorem State.modGroup_zhevLine (s : State) (n : Nat) (f : Group → Group) : (s.modGroup n f).zhevLine = s.zhevLine := rfl
@[simp] theorem State.modGroup_reply (s : State) (n : Nat) (f : Group → Group) : (s.modGroup n f).reply = s.reply := rfl
@[simp] theorem State.modGroup_ringHead (s : State) (n : Nat) (f : Group → Group) : (s.modGroup n f).ringHead = s.ringHead := rfl
@[simp] theorem State.modGroup_ringTail (s : State) (n : Nat) (f : Group → Group) : (s.modGroup n f).ringTail = s.ringTail := rfl
@[simp] theorem State.modGroup_ringSlots (s : State) (n : Nat) (f : Group → Group) : (s.modGroup n f).ringSlots = s.ringSlots := rfl
@[simp] theorem State.modGroup_dev (s : State) (n : Nat) (f : Group → Group) : (s.modGroup n f).dev = s.dev := rfl
@[simp] theorem State.modGroup_devErrors (s : State) (n : Nat) (f : Group → Group) : (s.modGroup n f).devErrors = s.devErrors := rfl
@[simp] theorem State.modGroup_telemetry (s : State) (n : Nat) (f : Group → Group) : (s.modGroup n f).telemetry = s.telemetry := rfl
@[simp] theorem State.modGroup_imageArea (s : State) (n : Nat) (f : Group → Group) : (s.modGroup n f).imageArea = s.imageArea := rfl
@[simp] theorem State.modGroup_aliasCert (s : State) (n : Nat) (f : Group → Group) : (s.modGroup n f).aliasCert = s.aliasCert := rfl
@[simp] theorem State.modGroup_deviceMap (s : State) (n : Nat) (f : Group → Group) : (s.modGroup n f).deviceMap = s.deviceMap := rfl
@[simp] theorem State.modGroup_withheld (s : State) (n : Nat) (f : Group → Group) : (s.modGroup n f).withheld = s.withheld := rfl
@[simp] theorem State.modGroup_gated (s : State) (n : Nat) (f : Group → Group) : (s.modGroup n f).gated = s.gated := rfl
@[simp] theorem State.modGroup_hot (s : State) (n : Nat) (f : Group → Group) : (s.modGroup n f).hot = s.hot := rfl
@[simp] theorem State.modGroup_plimitNow (s : State) (n : Nat) (f : Group → Group) : (s.modGroup n f).plimitNow = s.plimitNow := rfl
@[simp] theorem State.modGroup_stopped (s : State) (n : Nat) (f : Group → Group) : (s.modGroup n f).stopped = s.stopped := rfl

@[simp] theorem State.modKernel_inputs (s : State) (n : Nat) (f : Kernel → Kernel) : (s.modKernel n f).inputs = s.inputs := rfl
@[simp] theorem State.modKernel_wave (s : State) (n : Nat) (f : Kernel → Kernel) : (s.modKernel n f).wave = s.wave := rfl
@[simp] theorem State.modKernel_tick (s : State) (n : Nat) (f : Kernel → Kernel) : (s.modKernel n f).tick = s.tick := rfl
@[simp] theorem State.modKernel_nextId (s : State) (n : Nat) (f : Kernel → Kernel) : (s.modKernel n f).nextId = s.nextId := rfl
@[simp] theorem State.modKernel_groups (s : State) (n : Nat) (f : Kernel → Kernel) : (s.modKernel n f).groups = s.groups := rfl
@[simp] theorem State.modKernel_killed (s : State) (n : Nat) (f : Kernel → Kernel) : (s.modKernel n f).killed = s.killed := rfl
@[simp] theorem State.modKernel_contexts (s : State) (n : Nat) (f : Kernel → Kernel) : (s.modKernel n f).contexts = s.contexts := rfl
@[simp] theorem State.modKernel_queues (s : State) (n : Nat) (f : Kernel → Kernel) : (s.modKernel n f).queues = s.queues := rfl
@[simp] theorem State.modKernel_lastQueue (s : State) (n : Nat) (f : Kernel → Kernel) : (s.modKernel n f).lastQueue = s.lastQueue := rfl
@[simp] theorem State.modKernel_takes (s : State) (n : Nat) (f : Kernel → Kernel) : (s.modKernel n f).takes = s.takes := rfl
@[simp] theorem State.modKernel_passDue (s : State) (n : Nat) (f : Kernel → Kernel) : (s.modKernel n f).passDue = s.passDue := rfl
@[simp] theorem State.modKernel_keys (s : State) (n : Nat) (f : Kernel → Kernel) : (s.modKernel n f).keys = s.keys := rfl
@[simp] theorem State.modKernel_bindTable (s : State) (n : Nat) (f : Kernel → Kernel) : (s.modKernel n f).bindTable = s.bindTable := rfl
@[simp] theorem State.modKernel_bindSeq (s : State) (n : Nat) (f : Kernel → Kernel) : (s.modKernel n f).bindSeq = s.bindSeq := rfl
@[simp] theorem State.modKernel_gangCount (s : State) (n : Nat) (f : Kernel → Kernel) : (s.modKernel n f).gangCount = s.gangCount := rfl
@[simp] theorem State.modKernel_gangs (s : State) (n : Nat) (f : Kernel → Kernel) : (s.modKernel n f).gangs = s.gangs := rfl
@[simp] theorem State.modKernel_packages (s : State) (n : Nat) (f : Kernel → Kernel) : (s.modKernel n f).packages = s.packages := rfl
@[simp] theorem State.modKernel_landings (s : State) (n : Nat) (f : Kernel → Kernel) : (s.modKernel n f).landings = s.landings := rfl
@[simp] theorem State.modKernel_restores (s : State) (n : Nat) (f : Kernel → Kernel) : (s.modKernel n f).restores = s.restores := rfl
@[simp] theorem State.modKernel_pending (s : State) (n : Nat) (f : Kernel → Kernel) : (s.modKernel n f).pending = s.pending := rfl
@[simp] theorem State.modKernel_updates (s : State) (n : Nat) (f : Kernel → Kernel) : (s.modKernel n f).updates = s.updates := rfl
@[simp] theorem State.modKernel_lastSeat (s : State) (n : Nat) (f : Kernel → Kernel) : (s.modKernel n f).lastSeat = s.lastSeat := rfl
@[simp] theorem State.modKernel_cycles (s : State) (n : Nat) (f : Kernel → Kernel) : (s.modKernel n f).cycles = s.cycles := rfl
@[simp] theorem State.modKernel_l1 (s : State) (n : Nat) (f : Kernel → Kernel) : (s.modKernel n f).l1 = s.l1 := rfl
@[simp] theorem State.modKernel_l2 (s : State) (n : Nat) (f : Kernel → Kernel) : (s.modKernel n f).l2 = s.l2 := rfl
@[simp] theorem State.modKernel_floors (s : State) (n : Nat) (f : Kernel → Kernel) : (s.modKernel n f).floors = s.floors := rfl
@[simp] theorem State.modKernel_nearWts (s : State) (n : Nat) (f : Kernel → Kernel) : (s.modKernel n f).nearWts = s.nearWts := rfl
@[simp] theorem State.modKernel_halo (s : State) (n : Nat) (f : Kernel → Kernel) : (s.modKernel n f).halo = s.halo := rfl
@[simp] theorem State.modKernel_scStamps (s : State) (n : Nat) (f : Kernel → Kernel) : (s.modKernel n f).scStamps = s.scStamps := rfl
@[simp] theorem State.modKernel_tlbs (s : State) (n : Nat) (f : Kernel → Kernel) : (s.modKernel n f).tlbs = s.tlbs := rfl
@[simp] theorem State.modKernel_paths (s : State) (n : Nat) (f : Kernel → Kernel) : (s.modKernel n f).paths = s.paths := rfl
@[simp] theorem State.modKernel_walks (s : State) (n : Nat) (f : Kernel → Kernel) : (s.modKernel n f).walks = s.walks := rfl
@[simp] theorem State.modKernel_faults (s : State) (n : Nat) (f : Kernel → Kernel) : (s.modKernel n f).faults = s.faults := rfl
@[simp] theorem State.modKernel_nextFid (s : State) (n : Nat) (f : Kernel → Kernel) : (s.modKernel n f).nextFid = s.nextFid := rfl
@[simp] theorem State.modKernel_monitors (s : State) (n : Nat) (f : Kernel → Kernel) : (s.modKernel n f).monitors = s.monitors := rfl
@[simp] theorem State.modKernel_monitorSeq (s : State) (n : Nat) (f : Kernel → Kernel) : (s.modKernel n f).monitorSeq = s.monitorSeq := rfl
@[simp] theorem State.modKernel_accesses (s : State) (n : Nat) (f : Kernel → Kernel) : (s.modKernel n f).accesses = s.accesses := rfl
@[simp] theorem State.modKernel_commands (s : State) (n : Nat) (f : Kernel → Kernel) : (s.modKernel n f).commands = s.commands := rfl
@[simp] theorem State.modKernel_joins (s : State) (n : Nat) (f : Kernel → Kernel) : (s.modKernel n f).joins = s.joins := rfl
@[simp] theorem State.modKernel_orphans (s : State) (n : Nat) (f : Kernel → Kernel) : (s.modKernel n f).orphans = s.orphans := rfl
@[simp] theorem State.modKernel_persistent (s : State) (n : Nat) (f : Kernel → Kernel) : (s.modKernel n f).persistent = s.persistent := rfl
@[simp] theorem State.modKernel_active (s : State) (n : Nat) (f : Kernel → Kernel) : (s.modKernel n f).active = s.active := rfl
@[simp] theorem State.modKernel_grantAt (s : State) (n : Nat) (f : Kernel → Kernel) : (s.modKernel n f).grantAt = s.grantAt := rfl
@[simp] theorem State.modKernel_copyLeft (s : State) (n : Nat) (f : Kernel → Kernel) : (s.modKernel n f).copyLeft = s.copyLeft := rfl
@[simp] theorem State.modKernel_injLeft (s : State) (n : Nat) (f : Kernel → Kernel) : (s.modKernel n f).injLeft = s.injLeft := rfl
@[simp] theorem State.modKernel_buckets (s : State) (n : Nat) (f : Kernel → Kernel) : (s.modKernel n f).buckets = s.buckets := rfl
@[simp] theorem State.modKernel_memory (s : State) (n : Nat) (f : Kernel → Kernel) : (s.modKernel n f).memory = s.memory := rfl
@[simp] theorem State.modKernel_links (s : State) (n : Nat) (f : Kernel → Kernel) : (s.modKernel n f).links = s.links := rfl
@[simp] theorem State.modKernel_e2eSent (s : State) (n : Nat) (f : Kernel → Kernel) : (s.modKernel n f).e2eSent = s.e2eSent := rfl
@[simp] theorem State.modKernel_e2eSeen (s : State) (n : Nat) (f : Kernel → Kernel) : (s.modKernel n f).e2eSeen = s.e2eSeen := rfl
@[simp] theorem State.modKernel_routes (s : State) (n : Nat) (f : Kernel → Kernel) : (s.modKernel n f).routes = s.routes := rfl
@[simp] theorem State.modKernel_lastRoute (s : State) (n : Nat) (f : Kernel → Kernel) : (s.modKernel n f).lastRoute = s.lastRoute := rfl
@[simp] theorem State.modKernel_ports (s : State) (n : Nat) (f : Kernel → Kernel) : (s.modKernel n f).ports = s.ports := rfl
@[simp] theorem State.modKernel_zhevport (s : State) (n : Nat) (f : Kernel → Kernel) : (s.modKernel n f).zhevport = s.zhevport := rfl
@[simp] theorem State.modKernel_zhevFails (s : State) (n : Nat) (f : Kernel → Kernel) : (s.modKernel n f).zhevFails = s.zhevFails := rfl
@[simp] theorem State.modKernel_zhevLine (s : State) (n : Nat) (f : Kernel → Kernel) : (s.modKernel n f).zhevLine = s.zhevLine := rfl
@[simp] theorem State.modKernel_reply (s : State) (n : Nat) (f : Kernel → Kernel) : (s.modKernel n f).reply = s.reply := rfl
@[simp] theorem State.modKernel_ringHead (s : State) (n : Nat) (f : Kernel → Kernel) : (s.modKernel n f).ringHead = s.ringHead := rfl
@[simp] theorem State.modKernel_ringTail (s : State) (n : Nat) (f : Kernel → Kernel) : (s.modKernel n f).ringTail = s.ringTail := rfl
@[simp] theorem State.modKernel_ringSlots (s : State) (n : Nat) (f : Kernel → Kernel) : (s.modKernel n f).ringSlots = s.ringSlots := rfl
@[simp] theorem State.modKernel_dev (s : State) (n : Nat) (f : Kernel → Kernel) : (s.modKernel n f).dev = s.dev := rfl
@[simp] theorem State.modKernel_devErrors (s : State) (n : Nat) (f : Kernel → Kernel) : (s.modKernel n f).devErrors = s.devErrors := rfl
@[simp] theorem State.modKernel_telemetry (s : State) (n : Nat) (f : Kernel → Kernel) : (s.modKernel n f).telemetry = s.telemetry := rfl
@[simp] theorem State.modKernel_imageArea (s : State) (n : Nat) (f : Kernel → Kernel) : (s.modKernel n f).imageArea = s.imageArea := rfl
@[simp] theorem State.modKernel_aliasCert (s : State) (n : Nat) (f : Kernel → Kernel) : (s.modKernel n f).aliasCert = s.aliasCert := rfl
@[simp] theorem State.modKernel_deviceMap (s : State) (n : Nat) (f : Kernel → Kernel) : (s.modKernel n f).deviceMap = s.deviceMap := rfl
@[simp] theorem State.modKernel_withheld (s : State) (n : Nat) (f : Kernel → Kernel) : (s.modKernel n f).withheld = s.withheld := rfl
@[simp] theorem State.modKernel_gated (s : State) (n : Nat) (f : Kernel → Kernel) : (s.modKernel n f).gated = s.gated := rfl
@[simp] theorem State.modKernel_hot (s : State) (n : Nat) (f : Kernel → Kernel) : (s.modKernel n f).hot = s.hot := rfl
@[simp] theorem State.modKernel_plimitNow (s : State) (n : Nat) (f : Kernel → Kernel) : (s.modKernel n f).plimitNow = s.plimitNow := rfl
@[simp] theorem State.modKernel_stopped (s : State) (n : Nat) (f : Kernel → Kernel) : (s.modKernel n f).stopped = s.stopped := rfl

@[simp] theorem State.modContext_inputs (s : State) (n : Nat) (f : Context → Context) : (s.modContext n f).inputs = s.inputs := rfl
@[simp] theorem State.modContext_wave (s : State) (n : Nat) (f : Context → Context) : (s.modContext n f).wave = s.wave := rfl
@[simp] theorem State.modContext_tick (s : State) (n : Nat) (f : Context → Context) : (s.modContext n f).tick = s.tick := rfl
@[simp] theorem State.modContext_nextId (s : State) (n : Nat) (f : Context → Context) : (s.modContext n f).nextId = s.nextId := rfl
@[simp] theorem State.modContext_groups (s : State) (n : Nat) (f : Context → Context) : (s.modContext n f).groups = s.groups := rfl
@[simp] theorem State.modContext_killed (s : State) (n : Nat) (f : Context → Context) : (s.modContext n f).killed = s.killed := rfl
@[simp] theorem State.modContext_kernels (s : State) (n : Nat) (f : Context → Context) : (s.modContext n f).kernels = s.kernels := rfl
@[simp] theorem State.modContext_queues (s : State) (n : Nat) (f : Context → Context) : (s.modContext n f).queues = s.queues := rfl
@[simp] theorem State.modContext_lastQueue (s : State) (n : Nat) (f : Context → Context) : (s.modContext n f).lastQueue = s.lastQueue := rfl
@[simp] theorem State.modContext_takes (s : State) (n : Nat) (f : Context → Context) : (s.modContext n f).takes = s.takes := rfl
@[simp] theorem State.modContext_passDue (s : State) (n : Nat) (f : Context → Context) : (s.modContext n f).passDue = s.passDue := rfl
@[simp] theorem State.modContext_keys (s : State) (n : Nat) (f : Context → Context) : (s.modContext n f).keys = s.keys := rfl
@[simp] theorem State.modContext_bindTable (s : State) (n : Nat) (f : Context → Context) : (s.modContext n f).bindTable = s.bindTable := rfl
@[simp] theorem State.modContext_bindSeq (s : State) (n : Nat) (f : Context → Context) : (s.modContext n f).bindSeq = s.bindSeq := rfl
@[simp] theorem State.modContext_gangCount (s : State) (n : Nat) (f : Context → Context) : (s.modContext n f).gangCount = s.gangCount := rfl
@[simp] theorem State.modContext_gangs (s : State) (n : Nat) (f : Context → Context) : (s.modContext n f).gangs = s.gangs := rfl
@[simp] theorem State.modContext_packages (s : State) (n : Nat) (f : Context → Context) : (s.modContext n f).packages = s.packages := rfl
@[simp] theorem State.modContext_landings (s : State) (n : Nat) (f : Context → Context) : (s.modContext n f).landings = s.landings := rfl
@[simp] theorem State.modContext_restores (s : State) (n : Nat) (f : Context → Context) : (s.modContext n f).restores = s.restores := rfl
@[simp] theorem State.modContext_pending (s : State) (n : Nat) (f : Context → Context) : (s.modContext n f).pending = s.pending := rfl
@[simp] theorem State.modContext_updates (s : State) (n : Nat) (f : Context → Context) : (s.modContext n f).updates = s.updates := rfl
@[simp] theorem State.modContext_lastSeat (s : State) (n : Nat) (f : Context → Context) : (s.modContext n f).lastSeat = s.lastSeat := rfl
@[simp] theorem State.modContext_cycles (s : State) (n : Nat) (f : Context → Context) : (s.modContext n f).cycles = s.cycles := rfl
@[simp] theorem State.modContext_l1 (s : State) (n : Nat) (f : Context → Context) : (s.modContext n f).l1 = s.l1 := rfl
@[simp] theorem State.modContext_l2 (s : State) (n : Nat) (f : Context → Context) : (s.modContext n f).l2 = s.l2 := rfl
@[simp] theorem State.modContext_floors (s : State) (n : Nat) (f : Context → Context) : (s.modContext n f).floors = s.floors := rfl
@[simp] theorem State.modContext_nearWts (s : State) (n : Nat) (f : Context → Context) : (s.modContext n f).nearWts = s.nearWts := rfl
@[simp] theorem State.modContext_halo (s : State) (n : Nat) (f : Context → Context) : (s.modContext n f).halo = s.halo := rfl
@[simp] theorem State.modContext_scStamps (s : State) (n : Nat) (f : Context → Context) : (s.modContext n f).scStamps = s.scStamps := rfl
@[simp] theorem State.modContext_tlbs (s : State) (n : Nat) (f : Context → Context) : (s.modContext n f).tlbs = s.tlbs := rfl
@[simp] theorem State.modContext_paths (s : State) (n : Nat) (f : Context → Context) : (s.modContext n f).paths = s.paths := rfl
@[simp] theorem State.modContext_walks (s : State) (n : Nat) (f : Context → Context) : (s.modContext n f).walks = s.walks := rfl
@[simp] theorem State.modContext_faults (s : State) (n : Nat) (f : Context → Context) : (s.modContext n f).faults = s.faults := rfl
@[simp] theorem State.modContext_nextFid (s : State) (n : Nat) (f : Context → Context) : (s.modContext n f).nextFid = s.nextFid := rfl
@[simp] theorem State.modContext_monitors (s : State) (n : Nat) (f : Context → Context) : (s.modContext n f).monitors = s.monitors := rfl
@[simp] theorem State.modContext_monitorSeq (s : State) (n : Nat) (f : Context → Context) : (s.modContext n f).monitorSeq = s.monitorSeq := rfl
@[simp] theorem State.modContext_accesses (s : State) (n : Nat) (f : Context → Context) : (s.modContext n f).accesses = s.accesses := rfl
@[simp] theorem State.modContext_commands (s : State) (n : Nat) (f : Context → Context) : (s.modContext n f).commands = s.commands := rfl
@[simp] theorem State.modContext_joins (s : State) (n : Nat) (f : Context → Context) : (s.modContext n f).joins = s.joins := rfl
@[simp] theorem State.modContext_orphans (s : State) (n : Nat) (f : Context → Context) : (s.modContext n f).orphans = s.orphans := rfl
@[simp] theorem State.modContext_persistent (s : State) (n : Nat) (f : Context → Context) : (s.modContext n f).persistent = s.persistent := rfl
@[simp] theorem State.modContext_active (s : State) (n : Nat) (f : Context → Context) : (s.modContext n f).active = s.active := rfl
@[simp] theorem State.modContext_grantAt (s : State) (n : Nat) (f : Context → Context) : (s.modContext n f).grantAt = s.grantAt := rfl
@[simp] theorem State.modContext_copyLeft (s : State) (n : Nat) (f : Context → Context) : (s.modContext n f).copyLeft = s.copyLeft := rfl
@[simp] theorem State.modContext_injLeft (s : State) (n : Nat) (f : Context → Context) : (s.modContext n f).injLeft = s.injLeft := rfl
@[simp] theorem State.modContext_buckets (s : State) (n : Nat) (f : Context → Context) : (s.modContext n f).buckets = s.buckets := rfl
@[simp] theorem State.modContext_memory (s : State) (n : Nat) (f : Context → Context) : (s.modContext n f).memory = s.memory := rfl
@[simp] theorem State.modContext_links (s : State) (n : Nat) (f : Context → Context) : (s.modContext n f).links = s.links := rfl
@[simp] theorem State.modContext_e2eSent (s : State) (n : Nat) (f : Context → Context) : (s.modContext n f).e2eSent = s.e2eSent := rfl
@[simp] theorem State.modContext_e2eSeen (s : State) (n : Nat) (f : Context → Context) : (s.modContext n f).e2eSeen = s.e2eSeen := rfl
@[simp] theorem State.modContext_routes (s : State) (n : Nat) (f : Context → Context) : (s.modContext n f).routes = s.routes := rfl
@[simp] theorem State.modContext_lastRoute (s : State) (n : Nat) (f : Context → Context) : (s.modContext n f).lastRoute = s.lastRoute := rfl
@[simp] theorem State.modContext_ports (s : State) (n : Nat) (f : Context → Context) : (s.modContext n f).ports = s.ports := rfl
@[simp] theorem State.modContext_zhevport (s : State) (n : Nat) (f : Context → Context) : (s.modContext n f).zhevport = s.zhevport := rfl
@[simp] theorem State.modContext_zhevFails (s : State) (n : Nat) (f : Context → Context) : (s.modContext n f).zhevFails = s.zhevFails := rfl
@[simp] theorem State.modContext_zhevLine (s : State) (n : Nat) (f : Context → Context) : (s.modContext n f).zhevLine = s.zhevLine := rfl
@[simp] theorem State.modContext_reply (s : State) (n : Nat) (f : Context → Context) : (s.modContext n f).reply = s.reply := rfl
@[simp] theorem State.modContext_ringHead (s : State) (n : Nat) (f : Context → Context) : (s.modContext n f).ringHead = s.ringHead := rfl
@[simp] theorem State.modContext_ringTail (s : State) (n : Nat) (f : Context → Context) : (s.modContext n f).ringTail = s.ringTail := rfl
@[simp] theorem State.modContext_ringSlots (s : State) (n : Nat) (f : Context → Context) : (s.modContext n f).ringSlots = s.ringSlots := rfl
@[simp] theorem State.modContext_dev (s : State) (n : Nat) (f : Context → Context) : (s.modContext n f).dev = s.dev := rfl
@[simp] theorem State.modContext_devErrors (s : State) (n : Nat) (f : Context → Context) : (s.modContext n f).devErrors = s.devErrors := rfl
@[simp] theorem State.modContext_telemetry (s : State) (n : Nat) (f : Context → Context) : (s.modContext n f).telemetry = s.telemetry := rfl
@[simp] theorem State.modContext_imageArea (s : State) (n : Nat) (f : Context → Context) : (s.modContext n f).imageArea = s.imageArea := rfl
@[simp] theorem State.modContext_aliasCert (s : State) (n : Nat) (f : Context → Context) : (s.modContext n f).aliasCert = s.aliasCert := rfl
@[simp] theorem State.modContext_deviceMap (s : State) (n : Nat) (f : Context → Context) : (s.modContext n f).deviceMap = s.deviceMap := rfl
@[simp] theorem State.modContext_withheld (s : State) (n : Nat) (f : Context → Context) : (s.modContext n f).withheld = s.withheld := rfl
@[simp] theorem State.modContext_gated (s : State) (n : Nat) (f : Context → Context) : (s.modContext n f).gated = s.gated := rfl
@[simp] theorem State.modContext_hot (s : State) (n : Nat) (f : Context → Context) : (s.modContext n f).hot = s.hot := rfl
@[simp] theorem State.modContext_plimitNow (s : State) (n : Nat) (f : Context → Context) : (s.modContext n f).plimitNow = s.plimitNow := rfl
@[simp] theorem State.modContext_stopped (s : State) (n : Nat) (f : Context → Context) : (s.modContext n f).stopped = s.stopped := rfl

@[simp] theorem State.modItem_inputs (s : State) (n k : Nat) (f : Item → Item) : (s.modItem n k f).inputs = s.inputs := rfl
@[simp] theorem State.modItem_wave (s : State) (n k : Nat) (f : Item → Item) : (s.modItem n k f).wave = s.wave := rfl
@[simp] theorem State.modItem_tick (s : State) (n k : Nat) (f : Item → Item) : (s.modItem n k f).tick = s.tick := rfl
@[simp] theorem State.modItem_nextId (s : State) (n k : Nat) (f : Item → Item) : (s.modItem n k f).nextId = s.nextId := rfl
@[simp] theorem State.modItem_killed (s : State) (n k : Nat) (f : Item → Item) : (s.modItem n k f).killed = s.killed := rfl
@[simp] theorem State.modItem_kernels (s : State) (n k : Nat) (f : Item → Item) : (s.modItem n k f).kernels = s.kernels := rfl
@[simp] theorem State.modItem_contexts (s : State) (n k : Nat) (f : Item → Item) : (s.modItem n k f).contexts = s.contexts := rfl
@[simp] theorem State.modItem_queues (s : State) (n k : Nat) (f : Item → Item) : (s.modItem n k f).queues = s.queues := rfl
@[simp] theorem State.modItem_lastQueue (s : State) (n k : Nat) (f : Item → Item) : (s.modItem n k f).lastQueue = s.lastQueue := rfl
@[simp] theorem State.modItem_takes (s : State) (n k : Nat) (f : Item → Item) : (s.modItem n k f).takes = s.takes := rfl
@[simp] theorem State.modItem_passDue (s : State) (n k : Nat) (f : Item → Item) : (s.modItem n k f).passDue = s.passDue := rfl
@[simp] theorem State.modItem_keys (s : State) (n k : Nat) (f : Item → Item) : (s.modItem n k f).keys = s.keys := rfl
@[simp] theorem State.modItem_bindTable (s : State) (n k : Nat) (f : Item → Item) : (s.modItem n k f).bindTable = s.bindTable := rfl
@[simp] theorem State.modItem_bindSeq (s : State) (n k : Nat) (f : Item → Item) : (s.modItem n k f).bindSeq = s.bindSeq := rfl
@[simp] theorem State.modItem_gangCount (s : State) (n k : Nat) (f : Item → Item) : (s.modItem n k f).gangCount = s.gangCount := rfl
@[simp] theorem State.modItem_gangs (s : State) (n k : Nat) (f : Item → Item) : (s.modItem n k f).gangs = s.gangs := rfl
@[simp] theorem State.modItem_packages (s : State) (n k : Nat) (f : Item → Item) : (s.modItem n k f).packages = s.packages := rfl
@[simp] theorem State.modItem_landings (s : State) (n k : Nat) (f : Item → Item) : (s.modItem n k f).landings = s.landings := rfl
@[simp] theorem State.modItem_restores (s : State) (n k : Nat) (f : Item → Item) : (s.modItem n k f).restores = s.restores := rfl
@[simp] theorem State.modItem_pending (s : State) (n k : Nat) (f : Item → Item) : (s.modItem n k f).pending = s.pending := rfl
@[simp] theorem State.modItem_updates (s : State) (n k : Nat) (f : Item → Item) : (s.modItem n k f).updates = s.updates := rfl
@[simp] theorem State.modItem_lastSeat (s : State) (n k : Nat) (f : Item → Item) : (s.modItem n k f).lastSeat = s.lastSeat := rfl
@[simp] theorem State.modItem_cycles (s : State) (n k : Nat) (f : Item → Item) : (s.modItem n k f).cycles = s.cycles := rfl
@[simp] theorem State.modItem_l1 (s : State) (n k : Nat) (f : Item → Item) : (s.modItem n k f).l1 = s.l1 := rfl
@[simp] theorem State.modItem_l2 (s : State) (n k : Nat) (f : Item → Item) : (s.modItem n k f).l2 = s.l2 := rfl
@[simp] theorem State.modItem_floors (s : State) (n k : Nat) (f : Item → Item) : (s.modItem n k f).floors = s.floors := rfl
@[simp] theorem State.modItem_nearWts (s : State) (n k : Nat) (f : Item → Item) : (s.modItem n k f).nearWts = s.nearWts := rfl
@[simp] theorem State.modItem_halo (s : State) (n k : Nat) (f : Item → Item) : (s.modItem n k f).halo = s.halo := rfl
@[simp] theorem State.modItem_scStamps (s : State) (n k : Nat) (f : Item → Item) : (s.modItem n k f).scStamps = s.scStamps := rfl
@[simp] theorem State.modItem_tlbs (s : State) (n k : Nat) (f : Item → Item) : (s.modItem n k f).tlbs = s.tlbs := rfl
@[simp] theorem State.modItem_paths (s : State) (n k : Nat) (f : Item → Item) : (s.modItem n k f).paths = s.paths := rfl
@[simp] theorem State.modItem_walks (s : State) (n k : Nat) (f : Item → Item) : (s.modItem n k f).walks = s.walks := rfl
@[simp] theorem State.modItem_faults (s : State) (n k : Nat) (f : Item → Item) : (s.modItem n k f).faults = s.faults := rfl
@[simp] theorem State.modItem_nextFid (s : State) (n k : Nat) (f : Item → Item) : (s.modItem n k f).nextFid = s.nextFid := rfl
@[simp] theorem State.modItem_monitors (s : State) (n k : Nat) (f : Item → Item) : (s.modItem n k f).monitors = s.monitors := rfl
@[simp] theorem State.modItem_monitorSeq (s : State) (n k : Nat) (f : Item → Item) : (s.modItem n k f).monitorSeq = s.monitorSeq := rfl
@[simp] theorem State.modItem_accesses (s : State) (n k : Nat) (f : Item → Item) : (s.modItem n k f).accesses = s.accesses := rfl
@[simp] theorem State.modItem_commands (s : State) (n k : Nat) (f : Item → Item) : (s.modItem n k f).commands = s.commands := rfl
@[simp] theorem State.modItem_joins (s : State) (n k : Nat) (f : Item → Item) : (s.modItem n k f).joins = s.joins := rfl
@[simp] theorem State.modItem_orphans (s : State) (n k : Nat) (f : Item → Item) : (s.modItem n k f).orphans = s.orphans := rfl
@[simp] theorem State.modItem_persistent (s : State) (n k : Nat) (f : Item → Item) : (s.modItem n k f).persistent = s.persistent := rfl
@[simp] theorem State.modItem_active (s : State) (n k : Nat) (f : Item → Item) : (s.modItem n k f).active = s.active := rfl
@[simp] theorem State.modItem_grantAt (s : State) (n k : Nat) (f : Item → Item) : (s.modItem n k f).grantAt = s.grantAt := rfl
@[simp] theorem State.modItem_copyLeft (s : State) (n k : Nat) (f : Item → Item) : (s.modItem n k f).copyLeft = s.copyLeft := rfl
@[simp] theorem State.modItem_injLeft (s : State) (n k : Nat) (f : Item → Item) : (s.modItem n k f).injLeft = s.injLeft := rfl
@[simp] theorem State.modItem_buckets (s : State) (n k : Nat) (f : Item → Item) : (s.modItem n k f).buckets = s.buckets := rfl
@[simp] theorem State.modItem_memory (s : State) (n k : Nat) (f : Item → Item) : (s.modItem n k f).memory = s.memory := rfl
@[simp] theorem State.modItem_links (s : State) (n k : Nat) (f : Item → Item) : (s.modItem n k f).links = s.links := rfl
@[simp] theorem State.modItem_e2eSent (s : State) (n k : Nat) (f : Item → Item) : (s.modItem n k f).e2eSent = s.e2eSent := rfl
@[simp] theorem State.modItem_e2eSeen (s : State) (n k : Nat) (f : Item → Item) : (s.modItem n k f).e2eSeen = s.e2eSeen := rfl
@[simp] theorem State.modItem_routes (s : State) (n k : Nat) (f : Item → Item) : (s.modItem n k f).routes = s.routes := rfl
@[simp] theorem State.modItem_lastRoute (s : State) (n k : Nat) (f : Item → Item) : (s.modItem n k f).lastRoute = s.lastRoute := rfl
@[simp] theorem State.modItem_ports (s : State) (n k : Nat) (f : Item → Item) : (s.modItem n k f).ports = s.ports := rfl
@[simp] theorem State.modItem_zhevport (s : State) (n k : Nat) (f : Item → Item) : (s.modItem n k f).zhevport = s.zhevport := rfl
@[simp] theorem State.modItem_zhevFails (s : State) (n k : Nat) (f : Item → Item) : (s.modItem n k f).zhevFails = s.zhevFails := rfl
@[simp] theorem State.modItem_zhevLine (s : State) (n k : Nat) (f : Item → Item) : (s.modItem n k f).zhevLine = s.zhevLine := rfl
@[simp] theorem State.modItem_reply (s : State) (n k : Nat) (f : Item → Item) : (s.modItem n k f).reply = s.reply := rfl
@[simp] theorem State.modItem_ringHead (s : State) (n k : Nat) (f : Item → Item) : (s.modItem n k f).ringHead = s.ringHead := rfl
@[simp] theorem State.modItem_ringTail (s : State) (n k : Nat) (f : Item → Item) : (s.modItem n k f).ringTail = s.ringTail := rfl
@[simp] theorem State.modItem_ringSlots (s : State) (n k : Nat) (f : Item → Item) : (s.modItem n k f).ringSlots = s.ringSlots := rfl
@[simp] theorem State.modItem_dev (s : State) (n k : Nat) (f : Item → Item) : (s.modItem n k f).dev = s.dev := rfl
@[simp] theorem State.modItem_devErrors (s : State) (n k : Nat) (f : Item → Item) : (s.modItem n k f).devErrors = s.devErrors := rfl
@[simp] theorem State.modItem_telemetry (s : State) (n k : Nat) (f : Item → Item) : (s.modItem n k f).telemetry = s.telemetry := rfl
@[simp] theorem State.modItem_imageArea (s : State) (n k : Nat) (f : Item → Item) : (s.modItem n k f).imageArea = s.imageArea := rfl
@[simp] theorem State.modItem_aliasCert (s : State) (n k : Nat) (f : Item → Item) : (s.modItem n k f).aliasCert = s.aliasCert := rfl
@[simp] theorem State.modItem_deviceMap (s : State) (n k : Nat) (f : Item → Item) : (s.modItem n k f).deviceMap = s.deviceMap := rfl
@[simp] theorem State.modItem_withheld (s : State) (n k : Nat) (f : Item → Item) : (s.modItem n k f).withheld = s.withheld := rfl
@[simp] theorem State.modItem_gated (s : State) (n k : Nat) (f : Item → Item) : (s.modItem n k f).gated = s.gated := rfl
@[simp] theorem State.modItem_hot (s : State) (n k : Nat) (f : Item → Item) : (s.modItem n k f).hot = s.hot := rfl
@[simp] theorem State.modItem_plimitNow (s : State) (n k : Nat) (f : Item → Item) : (s.modItem n k f).plimitNow = s.plimitNow := rfl
@[simp] theorem State.modItem_stopped (s : State) (n k : Nat) (f : Item → Item) : (s.modItem n k f).stopped = s.stopped := rfl

@[simp] theorem State.setItem_inputs (s : State) (n k : Nat) (it : Item) : (s.setItem n k it).inputs = s.inputs := rfl
@[simp] theorem State.setItem_wave (s : State) (n k : Nat) (it : Item) : (s.setItem n k it).wave = s.wave := rfl
@[simp] theorem State.setItem_tick (s : State) (n k : Nat) (it : Item) : (s.setItem n k it).tick = s.tick := rfl
@[simp] theorem State.setItem_nextId (s : State) (n k : Nat) (it : Item) : (s.setItem n k it).nextId = s.nextId := rfl
@[simp] theorem State.setItem_killed (s : State) (n k : Nat) (it : Item) : (s.setItem n k it).killed = s.killed := rfl
@[simp] theorem State.setItem_kernels (s : State) (n k : Nat) (it : Item) : (s.setItem n k it).kernels = s.kernels := rfl
@[simp] theorem State.setItem_contexts (s : State) (n k : Nat) (it : Item) : (s.setItem n k it).contexts = s.contexts := rfl
@[simp] theorem State.setItem_queues (s : State) (n k : Nat) (it : Item) : (s.setItem n k it).queues = s.queues := rfl
@[simp] theorem State.setItem_lastQueue (s : State) (n k : Nat) (it : Item) : (s.setItem n k it).lastQueue = s.lastQueue := rfl
@[simp] theorem State.setItem_takes (s : State) (n k : Nat) (it : Item) : (s.setItem n k it).takes = s.takes := rfl
@[simp] theorem State.setItem_passDue (s : State) (n k : Nat) (it : Item) : (s.setItem n k it).passDue = s.passDue := rfl
@[simp] theorem State.setItem_keys (s : State) (n k : Nat) (it : Item) : (s.setItem n k it).keys = s.keys := rfl
@[simp] theorem State.setItem_bindTable (s : State) (n k : Nat) (it : Item) : (s.setItem n k it).bindTable = s.bindTable := rfl
@[simp] theorem State.setItem_bindSeq (s : State) (n k : Nat) (it : Item) : (s.setItem n k it).bindSeq = s.bindSeq := rfl
@[simp] theorem State.setItem_gangCount (s : State) (n k : Nat) (it : Item) : (s.setItem n k it).gangCount = s.gangCount := rfl
@[simp] theorem State.setItem_gangs (s : State) (n k : Nat) (it : Item) : (s.setItem n k it).gangs = s.gangs := rfl
@[simp] theorem State.setItem_packages (s : State) (n k : Nat) (it : Item) : (s.setItem n k it).packages = s.packages := rfl
@[simp] theorem State.setItem_landings (s : State) (n k : Nat) (it : Item) : (s.setItem n k it).landings = s.landings := rfl
@[simp] theorem State.setItem_restores (s : State) (n k : Nat) (it : Item) : (s.setItem n k it).restores = s.restores := rfl
@[simp] theorem State.setItem_pending (s : State) (n k : Nat) (it : Item) : (s.setItem n k it).pending = s.pending := rfl
@[simp] theorem State.setItem_updates (s : State) (n k : Nat) (it : Item) : (s.setItem n k it).updates = s.updates := rfl
@[simp] theorem State.setItem_lastSeat (s : State) (n k : Nat) (it : Item) : (s.setItem n k it).lastSeat = s.lastSeat := rfl
@[simp] theorem State.setItem_cycles (s : State) (n k : Nat) (it : Item) : (s.setItem n k it).cycles = s.cycles := rfl
@[simp] theorem State.setItem_l1 (s : State) (n k : Nat) (it : Item) : (s.setItem n k it).l1 = s.l1 := rfl
@[simp] theorem State.setItem_l2 (s : State) (n k : Nat) (it : Item) : (s.setItem n k it).l2 = s.l2 := rfl
@[simp] theorem State.setItem_floors (s : State) (n k : Nat) (it : Item) : (s.setItem n k it).floors = s.floors := rfl
@[simp] theorem State.setItem_nearWts (s : State) (n k : Nat) (it : Item) : (s.setItem n k it).nearWts = s.nearWts := rfl
@[simp] theorem State.setItem_halo (s : State) (n k : Nat) (it : Item) : (s.setItem n k it).halo = s.halo := rfl
@[simp] theorem State.setItem_scStamps (s : State) (n k : Nat) (it : Item) : (s.setItem n k it).scStamps = s.scStamps := rfl
@[simp] theorem State.setItem_tlbs (s : State) (n k : Nat) (it : Item) : (s.setItem n k it).tlbs = s.tlbs := rfl
@[simp] theorem State.setItem_paths (s : State) (n k : Nat) (it : Item) : (s.setItem n k it).paths = s.paths := rfl
@[simp] theorem State.setItem_walks (s : State) (n k : Nat) (it : Item) : (s.setItem n k it).walks = s.walks := rfl
@[simp] theorem State.setItem_faults (s : State) (n k : Nat) (it : Item) : (s.setItem n k it).faults = s.faults := rfl
@[simp] theorem State.setItem_nextFid (s : State) (n k : Nat) (it : Item) : (s.setItem n k it).nextFid = s.nextFid := rfl
@[simp] theorem State.setItem_monitors (s : State) (n k : Nat) (it : Item) : (s.setItem n k it).monitors = s.monitors := rfl
@[simp] theorem State.setItem_monitorSeq (s : State) (n k : Nat) (it : Item) : (s.setItem n k it).monitorSeq = s.monitorSeq := rfl
@[simp] theorem State.setItem_accesses (s : State) (n k : Nat) (it : Item) : (s.setItem n k it).accesses = s.accesses := rfl
@[simp] theorem State.setItem_commands (s : State) (n k : Nat) (it : Item) : (s.setItem n k it).commands = s.commands := rfl
@[simp] theorem State.setItem_joins (s : State) (n k : Nat) (it : Item) : (s.setItem n k it).joins = s.joins := rfl
@[simp] theorem State.setItem_orphans (s : State) (n k : Nat) (it : Item) : (s.setItem n k it).orphans = s.orphans := rfl
@[simp] theorem State.setItem_persistent (s : State) (n k : Nat) (it : Item) : (s.setItem n k it).persistent = s.persistent := rfl
@[simp] theorem State.setItem_active (s : State) (n k : Nat) (it : Item) : (s.setItem n k it).active = s.active := rfl
@[simp] theorem State.setItem_grantAt (s : State) (n k : Nat) (it : Item) : (s.setItem n k it).grantAt = s.grantAt := rfl
@[simp] theorem State.setItem_copyLeft (s : State) (n k : Nat) (it : Item) : (s.setItem n k it).copyLeft = s.copyLeft := rfl
@[simp] theorem State.setItem_injLeft (s : State) (n k : Nat) (it : Item) : (s.setItem n k it).injLeft = s.injLeft := rfl
@[simp] theorem State.setItem_buckets (s : State) (n k : Nat) (it : Item) : (s.setItem n k it).buckets = s.buckets := rfl
@[simp] theorem State.setItem_memory (s : State) (n k : Nat) (it : Item) : (s.setItem n k it).memory = s.memory := rfl
@[simp] theorem State.setItem_links (s : State) (n k : Nat) (it : Item) : (s.setItem n k it).links = s.links := rfl
@[simp] theorem State.setItem_e2eSent (s : State) (n k : Nat) (it : Item) : (s.setItem n k it).e2eSent = s.e2eSent := rfl
@[simp] theorem State.setItem_e2eSeen (s : State) (n k : Nat) (it : Item) : (s.setItem n k it).e2eSeen = s.e2eSeen := rfl
@[simp] theorem State.setItem_routes (s : State) (n k : Nat) (it : Item) : (s.setItem n k it).routes = s.routes := rfl
@[simp] theorem State.setItem_lastRoute (s : State) (n k : Nat) (it : Item) : (s.setItem n k it).lastRoute = s.lastRoute := rfl
@[simp] theorem State.setItem_ports (s : State) (n k : Nat) (it : Item) : (s.setItem n k it).ports = s.ports := rfl
@[simp] theorem State.setItem_zhevport (s : State) (n k : Nat) (it : Item) : (s.setItem n k it).zhevport = s.zhevport := rfl
@[simp] theorem State.setItem_zhevFails (s : State) (n k : Nat) (it : Item) : (s.setItem n k it).zhevFails = s.zhevFails := rfl
@[simp] theorem State.setItem_zhevLine (s : State) (n k : Nat) (it : Item) : (s.setItem n k it).zhevLine = s.zhevLine := rfl
@[simp] theorem State.setItem_reply (s : State) (n k : Nat) (it : Item) : (s.setItem n k it).reply = s.reply := rfl
@[simp] theorem State.setItem_ringHead (s : State) (n k : Nat) (it : Item) : (s.setItem n k it).ringHead = s.ringHead := rfl
@[simp] theorem State.setItem_ringTail (s : State) (n k : Nat) (it : Item) : (s.setItem n k it).ringTail = s.ringTail := rfl
@[simp] theorem State.setItem_ringSlots (s : State) (n k : Nat) (it : Item) : (s.setItem n k it).ringSlots = s.ringSlots := rfl
@[simp] theorem State.setItem_dev (s : State) (n k : Nat) (it : Item) : (s.setItem n k it).dev = s.dev := rfl
@[simp] theorem State.setItem_devErrors (s : State) (n k : Nat) (it : Item) : (s.setItem n k it).devErrors = s.devErrors := rfl
@[simp] theorem State.setItem_telemetry (s : State) (n k : Nat) (it : Item) : (s.setItem n k it).telemetry = s.telemetry := rfl
@[simp] theorem State.setItem_imageArea (s : State) (n k : Nat) (it : Item) : (s.setItem n k it).imageArea = s.imageArea := rfl
@[simp] theorem State.setItem_aliasCert (s : State) (n k : Nat) (it : Item) : (s.setItem n k it).aliasCert = s.aliasCert := rfl
@[simp] theorem State.setItem_deviceMap (s : State) (n k : Nat) (it : Item) : (s.setItem n k it).deviceMap = s.deviceMap := rfl
@[simp] theorem State.setItem_withheld (s : State) (n k : Nat) (it : Item) : (s.setItem n k it).withheld = s.withheld := rfl
@[simp] theorem State.setItem_gated (s : State) (n k : Nat) (it : Item) : (s.setItem n k it).gated = s.gated := rfl
@[simp] theorem State.setItem_hot (s : State) (n k : Nat) (it : Item) : (s.setItem n k it).hot = s.hot := rfl
@[simp] theorem State.setItem_plimitNow (s : State) (n k : Nat) (it : Item) : (s.setItem n k it).plimitNow = s.plimitNow := rfl
@[simp] theorem State.setItem_stopped (s : State) (n k : Nat) (it : Item) : (s.setItem n k it).stopped = s.stopped := rfl

@[simp] theorem State.physWrite_inputs (s : State) (a : Nat) (bs : List W8) : (s.physWrite a bs).inputs = s.inputs := rfl
@[simp] theorem State.physWrite_wave (s : State) (a : Nat) (bs : List W8) : (s.physWrite a bs).wave = s.wave := rfl
@[simp] theorem State.physWrite_tick (s : State) (a : Nat) (bs : List W8) : (s.physWrite a bs).tick = s.tick := rfl
@[simp] theorem State.physWrite_nextId (s : State) (a : Nat) (bs : List W8) : (s.physWrite a bs).nextId = s.nextId := rfl
@[simp] theorem State.physWrite_groups (s : State) (a : Nat) (bs : List W8) : (s.physWrite a bs).groups = s.groups := rfl
@[simp] theorem State.physWrite_killed (s : State) (a : Nat) (bs : List W8) : (s.physWrite a bs).killed = s.killed := rfl
@[simp] theorem State.physWrite_kernels (s : State) (a : Nat) (bs : List W8) : (s.physWrite a bs).kernels = s.kernels := rfl
@[simp] theorem State.physWrite_contexts (s : State) (a : Nat) (bs : List W8) : (s.physWrite a bs).contexts = s.contexts := rfl
@[simp] theorem State.physWrite_queues (s : State) (a : Nat) (bs : List W8) : (s.physWrite a bs).queues = s.queues := rfl
@[simp] theorem State.physWrite_lastQueue (s : State) (a : Nat) (bs : List W8) : (s.physWrite a bs).lastQueue = s.lastQueue := rfl
@[simp] theorem State.physWrite_takes (s : State) (a : Nat) (bs : List W8) : (s.physWrite a bs).takes = s.takes := rfl
@[simp] theorem State.physWrite_passDue (s : State) (a : Nat) (bs : List W8) : (s.physWrite a bs).passDue = s.passDue := rfl
@[simp] theorem State.physWrite_keys (s : State) (a : Nat) (bs : List W8) : (s.physWrite a bs).keys = s.keys := rfl
@[simp] theorem State.physWrite_bindTable (s : State) (a : Nat) (bs : List W8) : (s.physWrite a bs).bindTable = s.bindTable := rfl
@[simp] theorem State.physWrite_bindSeq (s : State) (a : Nat) (bs : List W8) : (s.physWrite a bs).bindSeq = s.bindSeq := rfl
@[simp] theorem State.physWrite_gangCount (s : State) (a : Nat) (bs : List W8) : (s.physWrite a bs).gangCount = s.gangCount := rfl
@[simp] theorem State.physWrite_gangs (s : State) (a : Nat) (bs : List W8) : (s.physWrite a bs).gangs = s.gangs := rfl
@[simp] theorem State.physWrite_packages (s : State) (a : Nat) (bs : List W8) : (s.physWrite a bs).packages = s.packages := rfl
@[simp] theorem State.physWrite_landings (s : State) (a : Nat) (bs : List W8) : (s.physWrite a bs).landings = s.landings := rfl
@[simp] theorem State.physWrite_restores (s : State) (a : Nat) (bs : List W8) : (s.physWrite a bs).restores = s.restores := rfl
@[simp] theorem State.physWrite_pending (s : State) (a : Nat) (bs : List W8) : (s.physWrite a bs).pending = s.pending := rfl
@[simp] theorem State.physWrite_updates (s : State) (a : Nat) (bs : List W8) : (s.physWrite a bs).updates = s.updates := rfl
@[simp] theorem State.physWrite_lastSeat (s : State) (a : Nat) (bs : List W8) : (s.physWrite a bs).lastSeat = s.lastSeat := rfl
@[simp] theorem State.physWrite_cycles (s : State) (a : Nat) (bs : List W8) : (s.physWrite a bs).cycles = s.cycles := rfl
@[simp] theorem State.physWrite_l1 (s : State) (a : Nat) (bs : List W8) : (s.physWrite a bs).l1 = s.l1 := rfl
@[simp] theorem State.physWrite_l2 (s : State) (a : Nat) (bs : List W8) : (s.physWrite a bs).l2 = s.l2 := rfl
@[simp] theorem State.physWrite_floors (s : State) (a : Nat) (bs : List W8) : (s.physWrite a bs).floors = s.floors := rfl
@[simp] theorem State.physWrite_nearWts (s : State) (a : Nat) (bs : List W8) : (s.physWrite a bs).nearWts = s.nearWts := rfl
@[simp] theorem State.physWrite_halo (s : State) (a : Nat) (bs : List W8) : (s.physWrite a bs).halo = s.halo := rfl
@[simp] theorem State.physWrite_scStamps (s : State) (a : Nat) (bs : List W8) : (s.physWrite a bs).scStamps = s.scStamps := rfl
@[simp] theorem State.physWrite_tlbs (s : State) (a : Nat) (bs : List W8) : (s.physWrite a bs).tlbs = s.tlbs := rfl
@[simp] theorem State.physWrite_paths (s : State) (a : Nat) (bs : List W8) : (s.physWrite a bs).paths = s.paths := rfl
@[simp] theorem State.physWrite_walks (s : State) (a : Nat) (bs : List W8) : (s.physWrite a bs).walks = s.walks := rfl
@[simp] theorem State.physWrite_faults (s : State) (a : Nat) (bs : List W8) : (s.physWrite a bs).faults = s.faults := rfl
@[simp] theorem State.physWrite_nextFid (s : State) (a : Nat) (bs : List W8) : (s.physWrite a bs).nextFid = s.nextFid := rfl
@[simp] theorem State.physWrite_monitors (s : State) (a : Nat) (bs : List W8) : (s.physWrite a bs).monitors = s.monitors := rfl
@[simp] theorem State.physWrite_monitorSeq (s : State) (a : Nat) (bs : List W8) : (s.physWrite a bs).monitorSeq = s.monitorSeq := rfl
@[simp] theorem State.physWrite_accesses (s : State) (a : Nat) (bs : List W8) : (s.physWrite a bs).accesses = s.accesses := rfl
@[simp] theorem State.physWrite_commands (s : State) (a : Nat) (bs : List W8) : (s.physWrite a bs).commands = s.commands := rfl
@[simp] theorem State.physWrite_joins (s : State) (a : Nat) (bs : List W8) : (s.physWrite a bs).joins = s.joins := rfl
@[simp] theorem State.physWrite_orphans (s : State) (a : Nat) (bs : List W8) : (s.physWrite a bs).orphans = s.orphans := rfl
@[simp] theorem State.physWrite_persistent (s : State) (a : Nat) (bs : List W8) : (s.physWrite a bs).persistent = s.persistent := rfl
@[simp] theorem State.physWrite_active (s : State) (a : Nat) (bs : List W8) : (s.physWrite a bs).active = s.active := rfl
@[simp] theorem State.physWrite_grantAt (s : State) (a : Nat) (bs : List W8) : (s.physWrite a bs).grantAt = s.grantAt := rfl
@[simp] theorem State.physWrite_copyLeft (s : State) (a : Nat) (bs : List W8) : (s.physWrite a bs).copyLeft = s.copyLeft := rfl
@[simp] theorem State.physWrite_injLeft (s : State) (a : Nat) (bs : List W8) : (s.physWrite a bs).injLeft = s.injLeft := rfl
@[simp] theorem State.physWrite_buckets (s : State) (a : Nat) (bs : List W8) : (s.physWrite a bs).buckets = s.buckets := rfl
@[simp] theorem State.physWrite_links (s : State) (a : Nat) (bs : List W8) : (s.physWrite a bs).links = s.links := rfl
@[simp] theorem State.physWrite_e2eSent (s : State) (a : Nat) (bs : List W8) : (s.physWrite a bs).e2eSent = s.e2eSent := rfl
@[simp] theorem State.physWrite_e2eSeen (s : State) (a : Nat) (bs : List W8) : (s.physWrite a bs).e2eSeen = s.e2eSeen := rfl
@[simp] theorem State.physWrite_routes (s : State) (a : Nat) (bs : List W8) : (s.physWrite a bs).routes = s.routes := rfl
@[simp] theorem State.physWrite_lastRoute (s : State) (a : Nat) (bs : List W8) : (s.physWrite a bs).lastRoute = s.lastRoute := rfl
@[simp] theorem State.physWrite_ports (s : State) (a : Nat) (bs : List W8) : (s.physWrite a bs).ports = s.ports := rfl
@[simp] theorem State.physWrite_zhevport (s : State) (a : Nat) (bs : List W8) : (s.physWrite a bs).zhevport = s.zhevport := rfl
@[simp] theorem State.physWrite_zhevFails (s : State) (a : Nat) (bs : List W8) : (s.physWrite a bs).zhevFails = s.zhevFails := rfl
@[simp] theorem State.physWrite_zhevLine (s : State) (a : Nat) (bs : List W8) : (s.physWrite a bs).zhevLine = s.zhevLine := rfl
@[simp] theorem State.physWrite_reply (s : State) (a : Nat) (bs : List W8) : (s.physWrite a bs).reply = s.reply := rfl
@[simp] theorem State.physWrite_ringHead (s : State) (a : Nat) (bs : List W8) : (s.physWrite a bs).ringHead = s.ringHead := rfl
@[simp] theorem State.physWrite_ringTail (s : State) (a : Nat) (bs : List W8) : (s.physWrite a bs).ringTail = s.ringTail := rfl
@[simp] theorem State.physWrite_ringSlots (s : State) (a : Nat) (bs : List W8) : (s.physWrite a bs).ringSlots = s.ringSlots := rfl
@[simp] theorem State.physWrite_dev (s : State) (a : Nat) (bs : List W8) : (s.physWrite a bs).dev = s.dev := rfl
@[simp] theorem State.physWrite_devErrors (s : State) (a : Nat) (bs : List W8) : (s.physWrite a bs).devErrors = s.devErrors := rfl
@[simp] theorem State.physWrite_telemetry (s : State) (a : Nat) (bs : List W8) : (s.physWrite a bs).telemetry = s.telemetry := rfl
@[simp] theorem State.physWrite_imageArea (s : State) (a : Nat) (bs : List W8) : (s.physWrite a bs).imageArea = s.imageArea := rfl
@[simp] theorem State.physWrite_aliasCert (s : State) (a : Nat) (bs : List W8) : (s.physWrite a bs).aliasCert = s.aliasCert := rfl
@[simp] theorem State.physWrite_deviceMap (s : State) (a : Nat) (bs : List W8) : (s.physWrite a bs).deviceMap = s.deviceMap := rfl
@[simp] theorem State.physWrite_withheld (s : State) (a : Nat) (bs : List W8) : (s.physWrite a bs).withheld = s.withheld := rfl
@[simp] theorem State.physWrite_gated (s : State) (a : Nat) (bs : List W8) : (s.physWrite a bs).gated = s.gated := rfl
@[simp] theorem State.physWrite_hot (s : State) (a : Nat) (bs : List W8) : (s.physWrite a bs).hot = s.hot := rfl
@[simp] theorem State.physWrite_plimitNow (s : State) (a : Nat) (bs : List W8) : (s.physWrite a bs).plimitNow = s.plimitNow := rfl
@[simp] theorem State.physWrite_stopped (s : State) (a : Nat) (bs : List W8) : (s.physWrite a bs).stopped = s.stopped := rfl

/-! ### Updates of Group and Item -/

@[simp] theorem Group.modItem_kh (g : Group) (k : Nat) (f : Item → Item) : (g.modItem k f).kh = g.kh := rfl
@[simp] theorem Group.modItem_ctx (g : Group) (k : Nat) (f : Item → Item) : (g.modItem k f).ctx = g.ctx := rfl
@[simp] theorem Group.modItem_stage (g : Group) (k : Nat) (f : Item → Item) : (g.modItem k f).stage = g.stage := rfl
@[simp] theorem Group.modItem_place (g : Group) (k : Nat) (f : Item → Item) : (g.modItem k f).place = g.place := rfl
@[simp] theorem Group.modItem_slots (g : Group) (k : Nat) (f : Item → Item) : (g.modItem k f).slots = g.slots := rfl
@[simp] theorem Group.modItem_state (g : Group) (k : Nat) (f : Item → Item) : (g.modItem k f).state = g.state := rfl
@[simp] theorem Group.modItem_closed (g : Group) (k : Nat) (f : Item → Item) : (g.modItem k f).closed = g.closed := rfl
@[simp] theorem Group.modItem_groupix (g : Group) (k : Nat) (f : Item → Item) : (g.modItem k f).groupix = g.groupix := rfl
@[simp] theorem Group.modItem_gangix (g : Group) (k : Nat) (f : Item → Item) : (g.modItem k f).gangix = g.gangix := rfl
@[simp] theorem Group.modItem_gangrank (g : Group) (k : Nat) (f : Item → Item) : (g.modItem k f).gangrank = g.gangrank := rfl
@[simp] theorem Group.modItem_s (g : Group) (k : Nat) (f : Item → Item) : (g.modItem k f).s = g.s := rfl
@[simp] theorem Group.modItem_badS (g : Group) (k : Nat) (f : Item → Item) : (g.modItem k f).badS = g.badS := rfl
@[simp] theorem Group.modItem_shadowS (g : Group) (k : Nat) (f : Item → Item) : (g.modItem k f).shadowS = g.shadowS := rfl
@[simp] theorem Group.modItem_mstat (g : Group) (k : Nat) (f : Item → Item) : (g.modItem k f).mstat = g.mstat := rfl
@[simp] theorem Group.modItem_scratchBytes (g : Group) (k : Nat) (f : Item → Item) : (g.modItem k f).scratchBytes = g.scratchBytes := rfl
@[simp] theorem Group.modItem_scratch (g : Group) (k : Nat) (f : Item → Item) : (g.modItem k f).scratch = g.scratch := rfl
@[simp] theorem Group.modItem_full (g : Group) (k : Nat) (f : Item → Item) : (g.modItem k f).full = g.full := rfl
@[simp] theorem Group.modItem_spadPoison (g : Group) (k : Nat) (f : Item → Item) : (g.modItem k f).spadPoison = g.spadPoison := rfl
@[simp] theorem Group.modItem_barriers (g : Group) (k : Nat) (f : Item → Item) : (g.modItem k f).barriers = g.barriers := rfl
@[simp] theorem Group.modItem_tiles (g : Group) (k : Nat) (f : Item → Item) : (g.modItem k f).tiles = g.tiles := rfl
@[simp] theorem Group.modItem_matrixIssue (g : Group) (k : Nat) (f : Item → Item) : (g.modItem k f).matrixIssue = g.matrixIssue := rfl
@[simp] theorem Group.modItem_completed (g : Group) (k : Nat) (f : Item → Item) : (g.modItem k f).completed = g.completed := rfl
@[simp] theorem Group.modItem_binds (g : Group) (k : Nat) (f : Item → Item) : (g.modItem k f).binds = g.binds := rfl
@[simp] theorem Group.modItem_staging (g : Group) (k : Nat) (f : Item → Item) : (g.modItem k f).staging = g.staging := rfl
@[simp] theorem Group.modItem_rings (g : Group) (k : Nat) (f : Item → Item) : (g.modItem k f).rings = g.rings := rfl
@[simp] theorem Group.modItem_collectives (g : Group) (k : Nat) (f : Item → Item) : (g.modItem k f).collectives = g.collectives := rfl
@[simp] theorem Group.modItem_barStamp (g : Group) (k : Nat) (f : Item → Item) : (g.modItem k f).barStamp = g.barStamp := rfl
@[simp] theorem Group.modItem_throttled (g : Group) (k : Nat) (f : Item → Item) : (g.modItem k f).throttled = g.throttled := rfl
@[simp] theorem Group.modItem_guarded (g : Group) (k : Nat) (f : Item → Item) : (g.modItem k f).guarded = g.guarded := rfl
@[simp] theorem Group.modItem_landVa (g : Group) (k : Nat) (f : Item → Item) : (g.modItem k f).landVa = g.landVa := rfl
@[simp] theorem Group.modItem_started (g : Group) (k : Nat) (f : Item → Item) : (g.modItem k f).started = g.started := rfl
@[simp] theorem Group.modItem_sOrder (g : Group) (k : Nat) (f : Item → Item) : (g.modItem k f).sOrder = g.sOrder := rfl
@[simp] theorem Group.modItem_counted (g : Group) (k : Nat) (f : Item → Item) : (g.modItem k f).counted = g.counted := rfl
@[simp] theorem Group.modItem_lastWave (g : Group) (k : Nat) (f : Item → Item) : (g.modItem k f).lastWave = g.lastWave := rfl
@[simp] theorem Group.modItem_stopAsked (g : Group) (k : Nat) (f : Item → Item) : (g.modItem k f).stopAsked = g.stopAsked := rfl

@[simp] theorem Group.writeS_kh (g : Group) (n : BitVec 7) (x : W32) : (g.writeS n x).kh = g.kh := rfl
@[simp] theorem Group.writeS_ctx (g : Group) (n : BitVec 7) (x : W32) : (g.writeS n x).ctx = g.ctx := rfl
@[simp] theorem Group.writeS_stage (g : Group) (n : BitVec 7) (x : W32) : (g.writeS n x).stage = g.stage := rfl
@[simp] theorem Group.writeS_place (g : Group) (n : BitVec 7) (x : W32) : (g.writeS n x).place = g.place := rfl
@[simp] theorem Group.writeS_slots (g : Group) (n : BitVec 7) (x : W32) : (g.writeS n x).slots = g.slots := rfl
@[simp] theorem Group.writeS_state (g : Group) (n : BitVec 7) (x : W32) : (g.writeS n x).state = g.state := rfl
@[simp] theorem Group.writeS_items (g : Group) (n : BitVec 7) (x : W32) : (g.writeS n x).items = g.items := rfl
@[simp] theorem Group.writeS_closed (g : Group) (n : BitVec 7) (x : W32) : (g.writeS n x).closed = g.closed := rfl
@[simp] theorem Group.writeS_groupix (g : Group) (n : BitVec 7) (x : W32) : (g.writeS n x).groupix = g.groupix := rfl
@[simp] theorem Group.writeS_gangix (g : Group) (n : BitVec 7) (x : W32) : (g.writeS n x).gangix = g.gangix := rfl
@[simp] theorem Group.writeS_gangrank (g : Group) (n : BitVec 7) (x : W32) : (g.writeS n x).gangrank = g.gangrank := rfl
@[simp] theorem Group.writeS_shadowS (g : Group) (n : BitVec 7) (x : W32) : (g.writeS n x).shadowS = g.shadowS := rfl
@[simp] theorem Group.writeS_mstat (g : Group) (n : BitVec 7) (x : W32) : (g.writeS n x).mstat = g.mstat := rfl
@[simp] theorem Group.writeS_scratchBytes (g : Group) (n : BitVec 7) (x : W32) : (g.writeS n x).scratchBytes = g.scratchBytes := rfl
@[simp] theorem Group.writeS_scratch (g : Group) (n : BitVec 7) (x : W32) : (g.writeS n x).scratch = g.scratch := rfl
@[simp] theorem Group.writeS_full (g : Group) (n : BitVec 7) (x : W32) : (g.writeS n x).full = g.full := rfl
@[simp] theorem Group.writeS_spadPoison (g : Group) (n : BitVec 7) (x : W32) : (g.writeS n x).spadPoison = g.spadPoison := rfl
@[simp] theorem Group.writeS_barriers (g : Group) (n : BitVec 7) (x : W32) : (g.writeS n x).barriers = g.barriers := rfl
@[simp] theorem Group.writeS_tiles (g : Group) (n : BitVec 7) (x : W32) : (g.writeS n x).tiles = g.tiles := rfl
@[simp] theorem Group.writeS_matrixIssue (g : Group) (n : BitVec 7) (x : W32) : (g.writeS n x).matrixIssue = g.matrixIssue := rfl
@[simp] theorem Group.writeS_completed (g : Group) (n : BitVec 7) (x : W32) : (g.writeS n x).completed = g.completed := rfl
@[simp] theorem Group.writeS_binds (g : Group) (n : BitVec 7) (x : W32) : (g.writeS n x).binds = g.binds := rfl
@[simp] theorem Group.writeS_staging (g : Group) (n : BitVec 7) (x : W32) : (g.writeS n x).staging = g.staging := rfl
@[simp] theorem Group.writeS_rings (g : Group) (n : BitVec 7) (x : W32) : (g.writeS n x).rings = g.rings := rfl
@[simp] theorem Group.writeS_collectives (g : Group) (n : BitVec 7) (x : W32) : (g.writeS n x).collectives = g.collectives := rfl
@[simp] theorem Group.writeS_barStamp (g : Group) (n : BitVec 7) (x : W32) : (g.writeS n x).barStamp = g.barStamp := rfl
@[simp] theorem Group.writeS_throttled (g : Group) (n : BitVec 7) (x : W32) : (g.writeS n x).throttled = g.throttled := rfl
@[simp] theorem Group.writeS_guarded (g : Group) (n : BitVec 7) (x : W32) : (g.writeS n x).guarded = g.guarded := rfl
@[simp] theorem Group.writeS_landVa (g : Group) (n : BitVec 7) (x : W32) : (g.writeS n x).landVa = g.landVa := rfl
@[simp] theorem Group.writeS_started (g : Group) (n : BitVec 7) (x : W32) : (g.writeS n x).started = g.started := rfl
@[simp] theorem Group.writeS_sOrder (g : Group) (n : BitVec 7) (x : W32) : (g.writeS n x).sOrder = g.sOrder := rfl
@[simp] theorem Group.writeS_counted (g : Group) (n : BitVec 7) (x : W32) : (g.writeS n x).counted = g.counted := rfl
@[simp] theorem Group.writeS_lastWave (g : Group) (n : BitVec 7) (x : W32) : (g.writeS n x).lastWave = g.lastWave := rfl
@[simp] theorem Group.writeS_stopAsked (g : Group) (n : BitVec 7) (x : W32) : (g.writeS n x).stopAsked = g.stopAsked := rfl

@[simp] theorem Item.writeV_itemix (it : Item) (n : BitVec 7) (x : W32) : (it.writeV n x).itemix = it.itemix := rfl
@[simp] theorem Item.writeV_cohort (it : Item) (n : BitVec 7) (x : W32) : (it.writeV n x).cohort = it.cohort := rfl
@[simp] theorem Item.writeV_pc (it : Item) (n : BitVec 7) (x : W32) : (it.writeV n x).pc = it.pc := rfl
@[simp] theorem Item.writeV_p (it : Item) (n : BitVec 7) (x : W32) : (it.writeV n x).p = it.p := rfl
@[simp] theorem Item.writeV_frame (it : Item) (n : BitVec 7) (x : W32) : (it.writeV n x).frame = it.frame := rfl
@[simp] theorem Item.writeV_stack (it : Item) (n : BitVec 7) (x : W32) : (it.writeV n x).stack = it.stack := rfl
@[simp] theorem Item.writeV_callers (it : Item) (n : BitVec 7) (x : W32) : (it.writeV n x).callers = it.callers := rfl
@[simp] theorem Item.writeV_fpctl (it : Item) (n : BitVec 7) (x : W32) : (it.writeV n x).fpctl = it.fpctl := rfl
@[simp] theorem Item.writeV_fpstat (it : Item) (n : BitVec 7) (x : W32) : (it.writeV n x).fpstat = it.fpstat := rfl
@[simp] theorem Item.writeV_ictl (it : Item) (n : BitVec 7) (x : W32) : (it.writeV n x).ictl = it.ictl := rfl
@[simp] theorem Item.writeV_istat (it : Item) (n : BitVec 7) (x : W32) : (it.writeV n x).istat = it.istat := rfl
@[simp] theorem Item.writeV_trapCause (it : Item) (n : BitVec 7) (x : W32) : (it.writeV n x).trapCause = it.trapCause := rfl
@[simp] theorem Item.writeV_trapPc (it : Item) (n : BitVec 7) (x : W32) : (it.writeV n x).trapPc = it.trapPc := rfl
@[simp] theorem Item.writeV_trapAddr (it : Item) (n : BitVec 7) (x : W32) : (it.writeV n x).trapAddr = it.trapAddr := rfl
@[simp] theorem Item.writeV_trapInfo (it : Item) (n : BitVec 7) (x : W32) : (it.writeV n x).trapInfo = it.trapInfo := rfl
@[simp] theorem Item.writeV_copyCount (it : Item) (n : BitVec 7) (x : W32) : (it.writeV n x).copyCount = it.copyCount := rfl
@[simp] theorem Item.writeV_matrixCount (it : Item) (n : BitVec 7) (x : W32) : (it.writeV n x).matrixCount = it.matrixCount := rfl
@[simp] theorem Item.writeV_gatherCount (it : Item) (n : BitVec 7) (x : W32) : (it.writeV n x).gatherCount = it.gatherCount := rfl
@[simp] theorem Item.writeV_collCount (it : Item) (n : BitVec 7) (x : W32) : (it.writeV n x).collCount = it.collCount := rfl
@[simp] theorem Item.writeV_windows (it : Item) (n : BitVec 7) (x : W32) : (it.writeV n x).windows = it.windows := rfl
@[simp] theorem Item.writeV_view (it : Item) (n : BitVec 7) (x : W32) : (it.writeV n x).view = it.view := rfl
@[simp] theorem Item.writeV_seen (it : Item) (n : BitVec 7) (x : W32) : (it.writeV n x).seen = it.seen := rfl
@[simp] theorem Item.writeV_rel (it : Item) (n : BitVec 7) (x : W32) : (it.writeV n x).rel = it.rel := rfl
@[simp] theorem Item.writeV_cycleFloor (it : Item) (n : BitVec 7) (x : W32) : (it.writeV n x).cycleFloor = it.cycleFloor := rfl
@[simp] theorem Item.writeV_starved (it : Item) (n : BitVec 7) (x : W32) : (it.writeV n x).starved = it.starved := rfl
@[simp] theorem Item.writeV_aged (it : Item) (n : BitVec 7) (x : W32) : (it.writeV n x).aged = it.aged := rfl
@[simp] theorem Item.writeV_aside (it : Item) (n : BitVec 7) (x : W32) : (it.writeV n x).aside = it.aside := rfl
@[simp] theorem Item.writeV_joined (it : Item) (n : BitVec 7) (x : W32) : (it.writeV n x).joined = it.joined := rfl
@[simp] theorem Item.writeV_home (it : Item) (n : BitVec 7) (x : W32) : (it.writeV n x).home = it.home := rfl
@[simp] theorem Item.writeV_wait (it : Item) (n : BitVec 7) (x : W32) : (it.writeV n x).wait = it.wait := rfl
@[simp] theorem Item.writeV_issued (it : Item) (n : BitVec 7) (x : W32) : (it.writeV n x).issued = it.issued := rfl
@[simp] theorem Item.writeV_owed (it : Item) (n : BitVec 7) (x : W32) : (it.writeV n x).owed = it.owed := rfl
@[simp] theorem Item.writeV_unread (it : Item) (n : BitVec 7) (x : W32) : (it.writeV n x).unread = it.unread := rfl
@[simp] theorem Item.writeV_lost (it : Item) (n : BitVec 7) (x : W32) : (it.writeV n x).lost = it.lost := rfl
@[simp] theorem Item.writeV_got (it : Item) (n : BitVec 7) (x : W32) : (it.writeV n x).got = it.got := rfl
@[simp] theorem Item.writeV_arrived (it : Item) (n : BitVec 7) (x : W32) : (it.writeV n x).arrived = it.arrived := rfl
@[simp] theorem Item.writeV_held (it : Item) (n : BitVec 7) (x : W32) : (it.writeV n x).held = it.held := rfl
@[simp] theorem Item.writeV_member (it : Item) (n : BitVec 7) (x : W32) : (it.writeV n x).member = it.member := rfl
@[simp] theorem Item.writeV_arr (it : Item) (n : BitVec 7) (x : W32) : (it.writeV n x).arr = it.arr := rfl
@[simp] theorem Item.writeV_drop (it : Item) (n : BitVec 7) (x : W32) : (it.writeV n x).drop = it.drop := rfl
@[simp] theorem Item.writeV_sync (it : Item) (n : BitVec 7) (x : W32) : (it.writeV n x).sync = it.sync := rfl
@[simp] theorem Item.writeV_supply (it : Item) (n : BitVec 7) (x : W32) : (it.writeV n x).supply = it.supply := rfl
@[simp] theorem Item.writeV_red (it : Item) (n : BitVec 7) (x : W32) : (it.writeV n x).red = it.red := rfl
@[simp] theorem Item.writeV_ports (it : Item) (n : BitVec 7) (x : W32) : (it.writeV n x).ports = it.ports := rfl
@[simp] theorem Item.writeV_badCsr (it : Item) (n : BitVec 7) (x : W32) : (it.writeV n x).badCsr = it.badCsr := rfl
@[simp] theorem Item.writeV_shadowV (it : Item) (n : BitVec 7) (x : W32) : (it.writeV n x).shadowV = it.shadowV := rfl
@[simp] theorem Item.writeV_shadowP (it : Item) (n : BitVec 7) (x : W32) : (it.writeV n x).shadowP = it.shadowP := rfl
@[simp] theorem Item.writeV_loadValues (it : Item) (n : BitVec 7) (x : W32) : (it.writeV n x).loadValues = it.loadValues := rfl
@[simp] theorem Item.writeV_fatal (it : Item) (n : BitVec 7) (x : W32) : (it.writeV n x).fatal = it.fatal := rfl
@[simp] theorem Item.writeV_consumed (it : Item) (n : BitVec 7) (x : W32) : (it.writeV n x).consumed = it.consumed := rfl
@[simp] theorem Item.writeV_storesOut (it : Item) (n : BitVec 7) (x : W32) : (it.writeV n x).storesOut = it.storesOut := rfl
@[simp] theorem Item.writeV_engineStamp (it : Item) (n : BitVec 7) (x : W32) : (it.writeV n x).engineStamp = it.engineStamp := rfl
@[simp] theorem Item.writeV_engineFar (it : Item) (n : BitVec 7) (x : W32) : (it.writeV n x).engineFar = it.engineFar := rfl

@[simp] theorem Item.writeP_itemix (it : Item) (n : BitVec 7) (b : Bool) : (it.writeP n b).itemix = it.itemix := rfl
@[simp] theorem Item.writeP_cohort (it : Item) (n : BitVec 7) (b : Bool) : (it.writeP n b).cohort = it.cohort := rfl
@[simp] theorem Item.writeP_pc (it : Item) (n : BitVec 7) (b : Bool) : (it.writeP n b).pc = it.pc := rfl
@[simp] theorem Item.writeP_v (it : Item) (n : BitVec 7) (b : Bool) : (it.writeP n b).v = it.v := rfl
@[simp] theorem Item.writeP_frame (it : Item) (n : BitVec 7) (b : Bool) : (it.writeP n b).frame = it.frame := rfl
@[simp] theorem Item.writeP_stack (it : Item) (n : BitVec 7) (b : Bool) : (it.writeP n b).stack = it.stack := rfl
@[simp] theorem Item.writeP_callers (it : Item) (n : BitVec 7) (b : Bool) : (it.writeP n b).callers = it.callers := rfl
@[simp] theorem Item.writeP_fpctl (it : Item) (n : BitVec 7) (b : Bool) : (it.writeP n b).fpctl = it.fpctl := rfl
@[simp] theorem Item.writeP_fpstat (it : Item) (n : BitVec 7) (b : Bool) : (it.writeP n b).fpstat = it.fpstat := rfl
@[simp] theorem Item.writeP_ictl (it : Item) (n : BitVec 7) (b : Bool) : (it.writeP n b).ictl = it.ictl := rfl
@[simp] theorem Item.writeP_istat (it : Item) (n : BitVec 7) (b : Bool) : (it.writeP n b).istat = it.istat := rfl
@[simp] theorem Item.writeP_trapCause (it : Item) (n : BitVec 7) (b : Bool) : (it.writeP n b).trapCause = it.trapCause := rfl
@[simp] theorem Item.writeP_trapPc (it : Item) (n : BitVec 7) (b : Bool) : (it.writeP n b).trapPc = it.trapPc := rfl
@[simp] theorem Item.writeP_trapAddr (it : Item) (n : BitVec 7) (b : Bool) : (it.writeP n b).trapAddr = it.trapAddr := rfl
@[simp] theorem Item.writeP_trapInfo (it : Item) (n : BitVec 7) (b : Bool) : (it.writeP n b).trapInfo = it.trapInfo := rfl
@[simp] theorem Item.writeP_copyCount (it : Item) (n : BitVec 7) (b : Bool) : (it.writeP n b).copyCount = it.copyCount := rfl
@[simp] theorem Item.writeP_matrixCount (it : Item) (n : BitVec 7) (b : Bool) : (it.writeP n b).matrixCount = it.matrixCount := rfl
@[simp] theorem Item.writeP_gatherCount (it : Item) (n : BitVec 7) (b : Bool) : (it.writeP n b).gatherCount = it.gatherCount := rfl
@[simp] theorem Item.writeP_collCount (it : Item) (n : BitVec 7) (b : Bool) : (it.writeP n b).collCount = it.collCount := rfl
@[simp] theorem Item.writeP_windows (it : Item) (n : BitVec 7) (b : Bool) : (it.writeP n b).windows = it.windows := rfl
@[simp] theorem Item.writeP_view (it : Item) (n : BitVec 7) (b : Bool) : (it.writeP n b).view = it.view := rfl
@[simp] theorem Item.writeP_seen (it : Item) (n : BitVec 7) (b : Bool) : (it.writeP n b).seen = it.seen := rfl
@[simp] theorem Item.writeP_rel (it : Item) (n : BitVec 7) (b : Bool) : (it.writeP n b).rel = it.rel := rfl
@[simp] theorem Item.writeP_cycleFloor (it : Item) (n : BitVec 7) (b : Bool) : (it.writeP n b).cycleFloor = it.cycleFloor := rfl
@[simp] theorem Item.writeP_starved (it : Item) (n : BitVec 7) (b : Bool) : (it.writeP n b).starved = it.starved := rfl
@[simp] theorem Item.writeP_aged (it : Item) (n : BitVec 7) (b : Bool) : (it.writeP n b).aged = it.aged := rfl
@[simp] theorem Item.writeP_aside (it : Item) (n : BitVec 7) (b : Bool) : (it.writeP n b).aside = it.aside := rfl
@[simp] theorem Item.writeP_joined (it : Item) (n : BitVec 7) (b : Bool) : (it.writeP n b).joined = it.joined := rfl
@[simp] theorem Item.writeP_home (it : Item) (n : BitVec 7) (b : Bool) : (it.writeP n b).home = it.home := rfl
@[simp] theorem Item.writeP_wait (it : Item) (n : BitVec 7) (b : Bool) : (it.writeP n b).wait = it.wait := rfl
@[simp] theorem Item.writeP_issued (it : Item) (n : BitVec 7) (b : Bool) : (it.writeP n b).issued = it.issued := rfl
@[simp] theorem Item.writeP_owed (it : Item) (n : BitVec 7) (b : Bool) : (it.writeP n b).owed = it.owed := rfl
@[simp] theorem Item.writeP_unread (it : Item) (n : BitVec 7) (b : Bool) : (it.writeP n b).unread = it.unread := rfl
@[simp] theorem Item.writeP_lost (it : Item) (n : BitVec 7) (b : Bool) : (it.writeP n b).lost = it.lost := rfl
@[simp] theorem Item.writeP_got (it : Item) (n : BitVec 7) (b : Bool) : (it.writeP n b).got = it.got := rfl
@[simp] theorem Item.writeP_arrived (it : Item) (n : BitVec 7) (b : Bool) : (it.writeP n b).arrived = it.arrived := rfl
@[simp] theorem Item.writeP_held (it : Item) (n : BitVec 7) (b : Bool) : (it.writeP n b).held = it.held := rfl
@[simp] theorem Item.writeP_member (it : Item) (n : BitVec 7) (b : Bool) : (it.writeP n b).member = it.member := rfl
@[simp] theorem Item.writeP_arr (it : Item) (n : BitVec 7) (b : Bool) : (it.writeP n b).arr = it.arr := rfl
@[simp] theorem Item.writeP_drop (it : Item) (n : BitVec 7) (b : Bool) : (it.writeP n b).drop = it.drop := rfl
@[simp] theorem Item.writeP_sync (it : Item) (n : BitVec 7) (b : Bool) : (it.writeP n b).sync = it.sync := rfl
@[simp] theorem Item.writeP_supply (it : Item) (n : BitVec 7) (b : Bool) : (it.writeP n b).supply = it.supply := rfl
@[simp] theorem Item.writeP_red (it : Item) (n : BitVec 7) (b : Bool) : (it.writeP n b).red = it.red := rfl
@[simp] theorem Item.writeP_ports (it : Item) (n : BitVec 7) (b : Bool) : (it.writeP n b).ports = it.ports := rfl
@[simp] theorem Item.writeP_badCsr (it : Item) (n : BitVec 7) (b : Bool) : (it.writeP n b).badCsr = it.badCsr := rfl
@[simp] theorem Item.writeP_shadowV (it : Item) (n : BitVec 7) (b : Bool) : (it.writeP n b).shadowV = it.shadowV := rfl
@[simp] theorem Item.writeP_shadowP (it : Item) (n : BitVec 7) (b : Bool) : (it.writeP n b).shadowP = it.shadowP := rfl
@[simp] theorem Item.writeP_loadValues (it : Item) (n : BitVec 7) (b : Bool) : (it.writeP n b).loadValues = it.loadValues := rfl
@[simp] theorem Item.writeP_fatal (it : Item) (n : BitVec 7) (b : Bool) : (it.writeP n b).fatal = it.fatal := rfl
@[simp] theorem Item.writeP_consumed (it : Item) (n : BitVec 7) (b : Bool) : (it.writeP n b).consumed = it.consumed := rfl
@[simp] theorem Item.writeP_storesOut (it : Item) (n : BitVec 7) (b : Bool) : (it.writeP n b).storesOut = it.storesOut := rfl
@[simp] theorem Item.writeP_engineStamp (it : Item) (n : BitVec 7) (b : Bool) : (it.writeP n b).engineStamp = it.engineStamp := rfl
@[simp] theorem Item.writeP_engineFar (it : Item) (n : BitVec 7) (b : Bool) : (it.writeP n b).engineFar = it.engineFar := rfl

@[simp] theorem Item.raise_itemix (it : Item) (out : Out) : (it.raise out).itemix = it.itemix := rfl
@[simp] theorem Item.raise_cohort (it : Item) (out : Out) : (it.raise out).cohort = it.cohort := rfl
@[simp] theorem Item.raise_pc (it : Item) (out : Out) : (it.raise out).pc = it.pc := rfl
@[simp] theorem Item.raise_v (it : Item) (out : Out) : (it.raise out).v = it.v := rfl
@[simp] theorem Item.raise_p (it : Item) (out : Out) : (it.raise out).p = it.p := rfl
@[simp] theorem Item.raise_frame (it : Item) (out : Out) : (it.raise out).frame = it.frame := rfl
@[simp] theorem Item.raise_stack (it : Item) (out : Out) : (it.raise out).stack = it.stack := rfl
@[simp] theorem Item.raise_callers (it : Item) (out : Out) : (it.raise out).callers = it.callers := rfl
@[simp] theorem Item.raise_fpctl (it : Item) (out : Out) : (it.raise out).fpctl = it.fpctl := rfl
@[simp] theorem Item.raise_ictl (it : Item) (out : Out) : (it.raise out).ictl = it.ictl := rfl
@[simp] theorem Item.raise_trapCause (it : Item) (out : Out) : (it.raise out).trapCause = it.trapCause := rfl
@[simp] theorem Item.raise_trapPc (it : Item) (out : Out) : (it.raise out).trapPc = it.trapPc := rfl
@[simp] theorem Item.raise_trapAddr (it : Item) (out : Out) : (it.raise out).trapAddr = it.trapAddr := rfl
@[simp] theorem Item.raise_trapInfo (it : Item) (out : Out) : (it.raise out).trapInfo = it.trapInfo := rfl
@[simp] theorem Item.raise_copyCount (it : Item) (out : Out) : (it.raise out).copyCount = it.copyCount := rfl
@[simp] theorem Item.raise_matrixCount (it : Item) (out : Out) : (it.raise out).matrixCount = it.matrixCount := rfl
@[simp] theorem Item.raise_gatherCount (it : Item) (out : Out) : (it.raise out).gatherCount = it.gatherCount := rfl
@[simp] theorem Item.raise_collCount (it : Item) (out : Out) : (it.raise out).collCount = it.collCount := rfl
@[simp] theorem Item.raise_windows (it : Item) (out : Out) : (it.raise out).windows = it.windows := rfl
@[simp] theorem Item.raise_view (it : Item) (out : Out) : (it.raise out).view = it.view := rfl
@[simp] theorem Item.raise_seen (it : Item) (out : Out) : (it.raise out).seen = it.seen := rfl
@[simp] theorem Item.raise_rel (it : Item) (out : Out) : (it.raise out).rel = it.rel := rfl
@[simp] theorem Item.raise_cycleFloor (it : Item) (out : Out) : (it.raise out).cycleFloor = it.cycleFloor := rfl
@[simp] theorem Item.raise_starved (it : Item) (out : Out) : (it.raise out).starved = it.starved := rfl
@[simp] theorem Item.raise_aged (it : Item) (out : Out) : (it.raise out).aged = it.aged := rfl
@[simp] theorem Item.raise_aside (it : Item) (out : Out) : (it.raise out).aside = it.aside := rfl
@[simp] theorem Item.raise_joined (it : Item) (out : Out) : (it.raise out).joined = it.joined := rfl
@[simp] theorem Item.raise_home (it : Item) (out : Out) : (it.raise out).home = it.home := rfl
@[simp] theorem Item.raise_wait (it : Item) (out : Out) : (it.raise out).wait = it.wait := rfl
@[simp] theorem Item.raise_issued (it : Item) (out : Out) : (it.raise out).issued = it.issued := rfl
@[simp] theorem Item.raise_owed (it : Item) (out : Out) : (it.raise out).owed = it.owed := rfl
@[simp] theorem Item.raise_unread (it : Item) (out : Out) : (it.raise out).unread = it.unread := rfl
@[simp] theorem Item.raise_lost (it : Item) (out : Out) : (it.raise out).lost = it.lost := rfl
@[simp] theorem Item.raise_got (it : Item) (out : Out) : (it.raise out).got = it.got := rfl
@[simp] theorem Item.raise_arrived (it : Item) (out : Out) : (it.raise out).arrived = it.arrived := rfl
@[simp] theorem Item.raise_held (it : Item) (out : Out) : (it.raise out).held = it.held := rfl
@[simp] theorem Item.raise_member (it : Item) (out : Out) : (it.raise out).member = it.member := rfl
@[simp] theorem Item.raise_arr (it : Item) (out : Out) : (it.raise out).arr = it.arr := rfl
@[simp] theorem Item.raise_drop (it : Item) (out : Out) : (it.raise out).drop = it.drop := rfl
@[simp] theorem Item.raise_sync (it : Item) (out : Out) : (it.raise out).sync = it.sync := rfl
@[simp] theorem Item.raise_supply (it : Item) (out : Out) : (it.raise out).supply = it.supply := rfl
@[simp] theorem Item.raise_red (it : Item) (out : Out) : (it.raise out).red = it.red := rfl
@[simp] theorem Item.raise_ports (it : Item) (out : Out) : (it.raise out).ports = it.ports := rfl
@[simp] theorem Item.raise_bad (it : Item) (out : Out) : (it.raise out).bad = it.bad := rfl
@[simp] theorem Item.raise_badCsr (it : Item) (out : Out) : (it.raise out).badCsr = it.badCsr := rfl
@[simp] theorem Item.raise_shadowV (it : Item) (out : Out) : (it.raise out).shadowV = it.shadowV := rfl
@[simp] theorem Item.raise_shadowP (it : Item) (out : Out) : (it.raise out).shadowP = it.shadowP := rfl
@[simp] theorem Item.raise_loadValues (it : Item) (out : Out) : (it.raise out).loadValues = it.loadValues := rfl
@[simp] theorem Item.raise_fatal (it : Item) (out : Out) : (it.raise out).fatal = it.fatal := rfl
@[simp] theorem Item.raise_consumed (it : Item) (out : Out) : (it.raise out).consumed = it.consumed := rfl
@[simp] theorem Item.raise_storesOut (it : Item) (out : Out) : (it.raise out).storesOut = it.storesOut := rfl
@[simp] theorem Item.raise_engineStamp (it : Item) (out : Out) : (it.raise out).engineStamp = it.engineStamp := rfl
@[simp] theorem Item.raise_engineFar (it : Item) (out : Out) : (it.raise out).engineFar = it.engineFar := rfl

@[simp] theorem Item.complete_itemix (it : Item) (now la : Nat) (r w : List RegName) (a : Option Nat) (t : W64) : (it.complete now la r w a t).itemix = it.itemix := rfl
@[simp] theorem Item.complete_cohort (it : Item) (now la : Nat) (r w : List RegName) (a : Option Nat) (t : W64) : (it.complete now la r w a t).cohort = it.cohort := rfl
@[simp] theorem Item.complete_v (it : Item) (now la : Nat) (r w : List RegName) (a : Option Nat) (t : W64) : (it.complete now la r w a t).v = it.v := rfl
@[simp] theorem Item.complete_p (it : Item) (now la : Nat) (r w : List RegName) (a : Option Nat) (t : W64) : (it.complete now la r w a t).p = it.p := rfl
@[simp] theorem Item.complete_frame (it : Item) (now la : Nat) (r w : List RegName) (a : Option Nat) (t : W64) : (it.complete now la r w a t).frame = it.frame := rfl
@[simp] theorem Item.complete_stack (it : Item) (now la : Nat) (r w : List RegName) (a : Option Nat) (t : W64) : (it.complete now la r w a t).stack = it.stack := rfl
@[simp] theorem Item.complete_callers (it : Item) (now la : Nat) (r w : List RegName) (a : Option Nat) (t : W64) : (it.complete now la r w a t).callers = it.callers := rfl
@[simp] theorem Item.complete_fpctl (it : Item) (now la : Nat) (r w : List RegName) (a : Option Nat) (t : W64) : (it.complete now la r w a t).fpctl = it.fpctl := rfl
@[simp] theorem Item.complete_fpstat (it : Item) (now la : Nat) (r w : List RegName) (a : Option Nat) (t : W64) : (it.complete now la r w a t).fpstat = it.fpstat := rfl
@[simp] theorem Item.complete_ictl (it : Item) (now la : Nat) (r w : List RegName) (a : Option Nat) (t : W64) : (it.complete now la r w a t).ictl = it.ictl := rfl
@[simp] theorem Item.complete_istat (it : Item) (now la : Nat) (r w : List RegName) (a : Option Nat) (t : W64) : (it.complete now la r w a t).istat = it.istat := rfl
@[simp] theorem Item.complete_trapCause (it : Item) (now la : Nat) (r w : List RegName) (a : Option Nat) (t : W64) : (it.complete now la r w a t).trapCause = it.trapCause := rfl
@[simp] theorem Item.complete_trapPc (it : Item) (now la : Nat) (r w : List RegName) (a : Option Nat) (t : W64) : (it.complete now la r w a t).trapPc = it.trapPc := rfl
@[simp] theorem Item.complete_trapAddr (it : Item) (now la : Nat) (r w : List RegName) (a : Option Nat) (t : W64) : (it.complete now la r w a t).trapAddr = it.trapAddr := rfl
@[simp] theorem Item.complete_trapInfo (it : Item) (now la : Nat) (r w : List RegName) (a : Option Nat) (t : W64) : (it.complete now la r w a t).trapInfo = it.trapInfo := rfl
@[simp] theorem Item.complete_copyCount (it : Item) (now la : Nat) (r w : List RegName) (a : Option Nat) (t : W64) : (it.complete now la r w a t).copyCount = it.copyCount := rfl
@[simp] theorem Item.complete_matrixCount (it : Item) (now la : Nat) (r w : List RegName) (a : Option Nat) (t : W64) : (it.complete now la r w a t).matrixCount = it.matrixCount := rfl
@[simp] theorem Item.complete_gatherCount (it : Item) (now la : Nat) (r w : List RegName) (a : Option Nat) (t : W64) : (it.complete now la r w a t).gatherCount = it.gatherCount := rfl
@[simp] theorem Item.complete_collCount (it : Item) (now la : Nat) (r w : List RegName) (a : Option Nat) (t : W64) : (it.complete now la r w a t).collCount = it.collCount := rfl
@[simp] theorem Item.complete_view (it : Item) (now la : Nat) (r w : List RegName) (a : Option Nat) (t : W64) : (it.complete now la r w a t).view = it.view := rfl
@[simp] theorem Item.complete_seen (it : Item) (now la : Nat) (r w : List RegName) (a : Option Nat) (t : W64) : (it.complete now la r w a t).seen = it.seen := rfl
@[simp] theorem Item.complete_rel (it : Item) (now la : Nat) (r w : List RegName) (a : Option Nat) (t : W64) : (it.complete now la r w a t).rel = it.rel := rfl
@[simp] theorem Item.complete_cycleFloor (it : Item) (now la : Nat) (r w : List RegName) (a : Option Nat) (t : W64) : (it.complete now la r w a t).cycleFloor = it.cycleFloor := rfl
@[simp] theorem Item.complete_starved (it : Item) (now la : Nat) (r w : List RegName) (a : Option Nat) (t : W64) : (it.complete now la r w a t).starved = it.starved := rfl
@[simp] theorem Item.complete_aged (it : Item) (now la : Nat) (r w : List RegName) (a : Option Nat) (t : W64) : (it.complete now la r w a t).aged = it.aged := rfl
@[simp] theorem Item.complete_aside (it : Item) (now la : Nat) (r w : List RegName) (a : Option Nat) (t : W64) : (it.complete now la r w a t).aside = it.aside := rfl
@[simp] theorem Item.complete_home (it : Item) (now la : Nat) (r w : List RegName) (a : Option Nat) (t : W64) : (it.complete now la r w a t).home = it.home := rfl
@[simp] theorem Item.complete_unread (it : Item) (now la : Nat) (r w : List RegName) (a : Option Nat) (t : W64) : (it.complete now la r w a t).unread = it.unread := rfl
@[simp] theorem Item.complete_lost (it : Item) (now la : Nat) (r w : List RegName) (a : Option Nat) (t : W64) : (it.complete now la r w a t).lost = it.lost := rfl
@[simp] theorem Item.complete_arrived (it : Item) (now la : Nat) (r w : List RegName) (a : Option Nat) (t : W64) : (it.complete now la r w a t).arrived = it.arrived := rfl
@[simp] theorem Item.complete_held (it : Item) (now la : Nat) (r w : List RegName) (a : Option Nat) (t : W64) : (it.complete now la r w a t).held = it.held := rfl
@[simp] theorem Item.complete_member (it : Item) (now la : Nat) (r w : List RegName) (a : Option Nat) (t : W64) : (it.complete now la r w a t).member = it.member := rfl
@[simp] theorem Item.complete_arr (it : Item) (now la : Nat) (r w : List RegName) (a : Option Nat) (t : W64) : (it.complete now la r w a t).arr = it.arr := rfl
@[simp] theorem Item.complete_drop (it : Item) (now la : Nat) (r w : List RegName) (a : Option Nat) (t : W64) : (it.complete now la r w a t).drop = it.drop := rfl
@[simp] theorem Item.complete_sync (it : Item) (now la : Nat) (r w : List RegName) (a : Option Nat) (t : W64) : (it.complete now la r w a t).sync = it.sync := rfl
@[simp] theorem Item.complete_supply (it : Item) (now la : Nat) (r w : List RegName) (a : Option Nat) (t : W64) : (it.complete now la r w a t).supply = it.supply := rfl
@[simp] theorem Item.complete_red (it : Item) (now la : Nat) (r w : List RegName) (a : Option Nat) (t : W64) : (it.complete now la r w a t).red = it.red := rfl
@[simp] theorem Item.complete_ports (it : Item) (now la : Nat) (r w : List RegName) (a : Option Nat) (t : W64) : (it.complete now la r w a t).ports = it.ports := rfl
@[simp] theorem Item.complete_bad (it : Item) (now la : Nat) (r w : List RegName) (a : Option Nat) (t : W64) : (it.complete now la r w a t).bad = it.bad := rfl
@[simp] theorem Item.complete_badCsr (it : Item) (now la : Nat) (r w : List RegName) (a : Option Nat) (t : W64) : (it.complete now la r w a t).badCsr = it.badCsr := rfl
@[simp] theorem Item.complete_shadowV (it : Item) (now la : Nat) (r w : List RegName) (a : Option Nat) (t : W64) : (it.complete now la r w a t).shadowV = it.shadowV := rfl
@[simp] theorem Item.complete_shadowP (it : Item) (now la : Nat) (r w : List RegName) (a : Option Nat) (t : W64) : (it.complete now la r w a t).shadowP = it.shadowP := rfl
@[simp] theorem Item.complete_loadValues (it : Item) (now la : Nat) (r w : List RegName) (a : Option Nat) (t : W64) : (it.complete now la r w a t).loadValues = it.loadValues := rfl
@[simp] theorem Item.complete_fatal (it : Item) (now la : Nat) (r w : List RegName) (a : Option Nat) (t : W64) : (it.complete now la r w a t).fatal = it.fatal := rfl
@[simp] theorem Item.complete_consumed (it : Item) (now la : Nat) (r w : List RegName) (a : Option Nat) (t : W64) : (it.complete now la r w a t).consumed = it.consumed := rfl
@[simp] theorem Item.complete_storesOut (it : Item) (now la : Nat) (r w : List RegName) (a : Option Nat) (t : W64) : (it.complete now la r w a t).storesOut = it.storesOut := rfl
@[simp] theorem Item.complete_engineStamp (it : Item) (now la : Nat) (r w : List RegName) (a : Option Nat) (t : W64) : (it.complete now la r w a t).engineStamp = it.engineStamp := rfl
@[simp] theorem Item.complete_engineFar (it : Item) (now la : Nat) (r w : List RegName) (a : Option Nat) (t : W64) : (it.complete now la r w a t).engineFar = it.engineFar := rfl

@[simp] theorem Item.leaveHandler_itemix (it : Item) (now : Nat) (t : W64) : (it.leaveHandler now t).itemix = it.itemix := rfl
@[simp] theorem Item.leaveHandler_cohort (it : Item) (now : Nat) (t : W64) : (it.leaveHandler now t).cohort = it.cohort := rfl
@[simp] theorem Item.leaveHandler_v (it : Item) (now : Nat) (t : W64) : (it.leaveHandler now t).v = it.v := rfl
@[simp] theorem Item.leaveHandler_p (it : Item) (now : Nat) (t : W64) : (it.leaveHandler now t).p = it.p := rfl
@[simp] theorem Item.leaveHandler_frame (it : Item) (now : Nat) (t : W64) : (it.leaveHandler now t).frame = it.frame := rfl
@[simp] theorem Item.leaveHandler_stack (it : Item) (now : Nat) (t : W64) : (it.leaveHandler now t).stack = it.stack := rfl
@[simp] theorem Item.leaveHandler_callers (it : Item) (now : Nat) (t : W64) : (it.leaveHandler now t).callers = it.callers := rfl
@[simp] theorem Item.leaveHandler_fpctl (it : Item) (now : Nat) (t : W64) : (it.leaveHandler now t).fpctl = it.fpctl := rfl
@[simp] theorem Item.leaveHandler_fpstat (it : Item) (now : Nat) (t : W64) : (it.leaveHandler now t).fpstat = it.fpstat := rfl
@[simp] theorem Item.leaveHandler_ictl (it : Item) (now : Nat) (t : W64) : (it.leaveHandler now t).ictl = it.ictl := rfl
@[simp] theorem Item.leaveHandler_istat (it : Item) (now : Nat) (t : W64) : (it.leaveHandler now t).istat = it.istat := rfl
@[simp] theorem Item.leaveHandler_trapPc (it : Item) (now : Nat) (t : W64) : (it.leaveHandler now t).trapPc = it.trapPc := rfl
@[simp] theorem Item.leaveHandler_trapAddr (it : Item) (now : Nat) (t : W64) : (it.leaveHandler now t).trapAddr = it.trapAddr := rfl
@[simp] theorem Item.leaveHandler_trapInfo (it : Item) (now : Nat) (t : W64) : (it.leaveHandler now t).trapInfo = it.trapInfo := rfl
@[simp] theorem Item.leaveHandler_copyCount (it : Item) (now : Nat) (t : W64) : (it.leaveHandler now t).copyCount = it.copyCount := rfl
@[simp] theorem Item.leaveHandler_matrixCount (it : Item) (now : Nat) (t : W64) : (it.leaveHandler now t).matrixCount = it.matrixCount := rfl
@[simp] theorem Item.leaveHandler_gatherCount (it : Item) (now : Nat) (t : W64) : (it.leaveHandler now t).gatherCount = it.gatherCount := rfl
@[simp] theorem Item.leaveHandler_collCount (it : Item) (now : Nat) (t : W64) : (it.leaveHandler now t).collCount = it.collCount := rfl
@[simp] theorem Item.leaveHandler_windows (it : Item) (now : Nat) (t : W64) : (it.leaveHandler now t).windows = it.windows := rfl
@[simp] theorem Item.leaveHandler_view (it : Item) (now : Nat) (t : W64) : (it.leaveHandler now t).view = it.view := rfl
@[simp] theorem Item.leaveHandler_seen (it : Item) (now : Nat) (t : W64) : (it.leaveHandler now t).seen = it.seen := rfl
@[simp] theorem Item.leaveHandler_rel (it : Item) (now : Nat) (t : W64) : (it.leaveHandler now t).rel = it.rel := rfl
@[simp] theorem Item.leaveHandler_cycleFloor (it : Item) (now : Nat) (t : W64) : (it.leaveHandler now t).cycleFloor = it.cycleFloor := rfl
@[simp] theorem Item.leaveHandler_starved (it : Item) (now : Nat) (t : W64) : (it.leaveHandler now t).starved = it.starved := rfl
@[simp] theorem Item.leaveHandler_aged (it : Item) (now : Nat) (t : W64) : (it.leaveHandler now t).aged = it.aged := rfl
@[simp] theorem Item.leaveHandler_aside (it : Item) (now : Nat) (t : W64) : (it.leaveHandler now t).aside = it.aside := rfl
@[simp] theorem Item.leaveHandler_home (it : Item) (now : Nat) (t : W64) : (it.leaveHandler now t).home = it.home := rfl
@[simp] theorem Item.leaveHandler_wait (it : Item) (now : Nat) (t : W64) : (it.leaveHandler now t).wait = it.wait := rfl
@[simp] theorem Item.leaveHandler_issued (it : Item) (now : Nat) (t : W64) : (it.leaveHandler now t).issued = it.issued := rfl
@[simp] theorem Item.leaveHandler_owed (it : Item) (now : Nat) (t : W64) : (it.leaveHandler now t).owed = it.owed := rfl
@[simp] theorem Item.leaveHandler_unread (it : Item) (now : Nat) (t : W64) : (it.leaveHandler now t).unread = it.unread := rfl
@[simp] theorem Item.leaveHandler_lost (it : Item) (now : Nat) (t : W64) : (it.leaveHandler now t).lost = it.lost := rfl
@[simp] theorem Item.leaveHandler_got (it : Item) (now : Nat) (t : W64) : (it.leaveHandler now t).got = it.got := rfl
@[simp] theorem Item.leaveHandler_arrived (it : Item) (now : Nat) (t : W64) : (it.leaveHandler now t).arrived = it.arrived := rfl
@[simp] theorem Item.leaveHandler_held (it : Item) (now : Nat) (t : W64) : (it.leaveHandler now t).held = it.held := rfl
@[simp] theorem Item.leaveHandler_member (it : Item) (now : Nat) (t : W64) : (it.leaveHandler now t).member = it.member := rfl
@[simp] theorem Item.leaveHandler_arr (it : Item) (now : Nat) (t : W64) : (it.leaveHandler now t).arr = it.arr := rfl
@[simp] theorem Item.leaveHandler_drop (it : Item) (now : Nat) (t : W64) : (it.leaveHandler now t).drop = it.drop := rfl
@[simp] theorem Item.leaveHandler_sync (it : Item) (now : Nat) (t : W64) : (it.leaveHandler now t).sync = it.sync := rfl
@[simp] theorem Item.leaveHandler_supply (it : Item) (now : Nat) (t : W64) : (it.leaveHandler now t).supply = it.supply := rfl
@[simp] theorem Item.leaveHandler_red (it : Item) (now : Nat) (t : W64) : (it.leaveHandler now t).red = it.red := rfl
@[simp] theorem Item.leaveHandler_ports (it : Item) (now : Nat) (t : W64) : (it.leaveHandler now t).ports = it.ports := rfl
@[simp] theorem Item.leaveHandler_bad (it : Item) (now : Nat) (t : W64) : (it.leaveHandler now t).bad = it.bad := rfl
@[simp] theorem Item.leaveHandler_badCsr (it : Item) (now : Nat) (t : W64) : (it.leaveHandler now t).badCsr = it.badCsr := rfl
@[simp] theorem Item.leaveHandler_shadowV (it : Item) (now : Nat) (t : W64) : (it.leaveHandler now t).shadowV = it.shadowV := rfl
@[simp] theorem Item.leaveHandler_shadowP (it : Item) (now : Nat) (t : W64) : (it.leaveHandler now t).shadowP = it.shadowP := rfl
@[simp] theorem Item.leaveHandler_loadValues (it : Item) (now : Nat) (t : W64) : (it.leaveHandler now t).loadValues = it.loadValues := rfl
@[simp] theorem Item.leaveHandler_fatal (it : Item) (now : Nat) (t : W64) : (it.leaveHandler now t).fatal = it.fatal := rfl
@[simp] theorem Item.leaveHandler_consumed (it : Item) (now : Nat) (t : W64) : (it.leaveHandler now t).consumed = it.consumed := rfl
@[simp] theorem Item.leaveHandler_storesOut (it : Item) (now : Nat) (t : W64) : (it.leaveHandler now t).storesOut = it.storesOut := rfl
@[simp] theorem Item.leaveHandler_engineStamp (it : Item) (now : Nat) (t : W64) : (it.leaveHandler now t).engineStamp = it.engineStamp := rfl
@[simp] theorem Item.leaveHandler_engineFar (it : Item) (now : Nat) (t : W64) : (it.leaveHandler now t).engineFar = it.engineFar := rfl

end Sys2Proof.Machine
end

