-- ==== Sys2Proof/Laws/Table.lean ====
section
/-! SUPPORT. The laws of tables: a read after a write, and that every operation keeps the keys rising and the form canonical. -/

namespace Sys2Proof.Machine

variable {α β : Type}

/-- Every key is above `n`. -/
def Table.above (n : Nat) (t : Table α) : Prop := ∀ e ∈ t, n < e.1

theorem Table.sorted_cons (j : Nat) (a : α) (t : Table α) :
    Table.sorted ((j, a) :: t) = true ↔ Table.above j t ∧ Table.sorted t = true := by
  induction t generalizing j a with
  | nil => simp [Table.sorted, Table.above]
  | cons p t ih =>
    obtain ⟨k, b⟩ := p
    have hs : Table.sorted ((j, a) :: (k, b) :: t) = (decide (j < k) && Table.sorted ((k, b) :: t)) := rfl
    rw [hs, Bool.and_eq_true, decide_eq_true_eq]
    constructor
    · rintro ⟨h, hk⟩
      refine ⟨?_, hk⟩
      have := (ih k b).1 hk
      intro e he
      rcases List.mem_cons.1 he with rfl | he
      · exact h
      · exact lt_trans h (this.1 e he)
    · rintro ⟨h, hk⟩
      exact ⟨h (k, b) List.mem_cons_self, hk⟩

theorem Table.sorted_tail {j : Nat} {a : α} {t : Table α} (h : Table.sorted ((j, a) :: t) = true) : Table.sorted t = true :=
  ((Table.sorted_cons j a t).1 h).2

theorem Table.get?_put (t : Table α) (k j : Nat) (a : α) :
    Table.get? (Table.put t k a) j = if j = k then some a else Table.get? t j := by
  induction t with
  | nil => simp [Table.put, Table.get?]
  | cons p t ih =>
    obtain ⟨i, b⟩ := p
    unfold Table.put
    split
    · simp [Table.get?]
    · split
      · rename_i h; subst h
        by_cases hj : j = k <;> simp [Table.get?, hj]
      · rename_i h1 h2
        by_cases hj : j = i
        · simp [Table.get?, hj, Ne.symm h2]
        · simp [Table.get?, hj, ih]

@[simp] theorem Table.get?_put_self (t : Table α) (k : Nat) (a : α) : Table.get? (Table.put t k a) k = some a := by
  simp [Table.get?_put]

theorem Table.get?_put_ne (t : Table α) {k j : Nat} (a : α) (h : j ≠ k) :
    Table.get? (Table.put t k a) j = Table.get? t j := by simp [Table.get?_put, h]

theorem Table.mem_put {t : Table α} {k : Nat} {a : α} {e : Nat × α} (h : e ∈ Table.put t k a) : e = (k, a) ∨ e ∈ t := by
  induction t with
  | nil => simpa [Table.put] using h
  | cons p t ih =>
    obtain ⟨i, b⟩ := p
    unfold Table.put at h
    split at h
    · simpa using h
    · split at h
      · rcases List.mem_cons.1 h with h | h
        · exact .inl h
        · exact .inr (List.mem_cons_of_mem _ h)
      · rcases List.mem_cons.1 h with h | h
        · exact .inr (h ▸ List.mem_cons_self)
        · exact (ih h).imp id (List.mem_cons_of_mem _)

theorem Table.sorted_put {t : Table α} (h : Table.sorted t = true) (k : Nat) (a : α) : Table.sorted (Table.put t k a) = true := by
  induction t with
  | nil => rfl
  | cons p t ih =>
    obtain ⟨i, b⟩ := p
    obtain ⟨ha, ht⟩ := (Table.sorted_cons i b t).1 h
    unfold Table.put
    split
    · rename_i hk
      refine (Table.sorted_cons _ _ _).2 ⟨?_, h⟩
      intro e he
      rcases List.mem_cons.1 he with rfl | he
      · exact hk
      · exact lt_trans hk (ha e he)
    · split
      · rename_i hk; subst hk
        exact (Table.sorted_cons _ _ _).2 ⟨ha, ht⟩
      · rename_i h1 h2
        refine (Table.sorted_cons _ _ _).2 ⟨?_, ih ht⟩
        intro e he
        rcases Table.mem_put he with rfl | he
        · exact lt_of_le_of_ne (not_lt.1 h1) (Ne.symm h2)
        · exact ha e he

theorem Table.sorted_filter {t : Table α} (h : Table.sorted t = true) (q : Nat × α → Bool) : Table.sorted (t.filter q) = true := by
  induction t with
  | nil => rfl
  | cons p t ih =>
    obtain ⟨i, b⟩ := p
    obtain ⟨ha, ht⟩ := (Table.sorted_cons i b t).1 h
    rw [List.filter_cons]
    split
    · exact (Table.sorted_cons _ _ _).2 ⟨fun e he => ha e (List.mem_filter.1 he).1, ih ht⟩
    · exact ih ht

theorem Table.sorted_erase {t : Table α} (h : Table.sorted t = true) (k : Nat) : Table.sorted (Table.erase t k) = true :=
  Table.sorted_filter h _

/-- Two tables with the same keys are both sorted, or neither is. -/
theorem Table.sorted_of_keys {t : Table α} {u : Table β} (h : t.map Prod.fst = u.map Prod.fst) :
    Table.sorted t = Table.sorted u := by
  induction t generalizing u with
  | nil => cases u with
    | nil => rfl
    | cons q u => simp at h
  | cons p t ih =>
    cases u with
    | nil => simp at h
    | cons q u =>
      obtain ⟨i, a⟩ := p
      obtain ⟨j, b⟩ := q
      simp only [List.map_cons, List.cons.injEq] at h
      obtain ⟨rfl, h⟩ := h
      rw [Bool.eq_iff_iff, Table.sorted_cons, Table.sorted_cons, ih h]
      refine and_congr_left fun _ => ?_
      have key : ∀ {γ : Type} (v : Table γ), Table.above i v ↔ ∀ n ∈ v.map Prod.fst, i < n := by
        intro γ v; simp [Table.above]
      rw [key, key, h]

theorem Table.keys_modify (t : Table α) (k : Nat) (f : α → α) : (Table.modify t k f).map Prod.fst = t.map Prod.fst := by
  induction t with
  | nil => rfl
  | cons p t ih =>
    obtain ⟨i, b⟩ := p
    by_cases h : k = i <;> simp [Table.modify, h, ih]

theorem Table.keys_mapAll (t : Table α) (f : Nat → α → β) : (Table.mapAll t f).map Prod.fst = t.map Prod.fst := by
  simp [Table.mapAll]

theorem Table.sorted_modify {t : Table α} (h : Table.sorted t = true) (k : Nat) (f : α → α) :
    Table.sorted (Table.modify t k f) = true := (Table.sorted_of_keys (Table.keys_modify t k f)).trans h

theorem Table.sorted_mapAll {t : Table α} (h : Table.sorted t = true) (f : Nat → α → β) :
    Table.sorted (Table.mapAll t f) = true := (Table.sorted_of_keys (Table.keys_mapAll t f)).trans h

theorem Table.get?_modify (t : Table α) (k j : Nat) (f : α → α) :
    Table.get? (Table.modify t k f) j = if j = k then (Table.get? t j).map f else Table.get? t j := by
  induction t with
  | nil => simp [Table.modify, Table.get?]
  | cons p t ih =>
    obtain ⟨i, b⟩ := p
    by_cases hk : k = i
    · subst hk
      by_cases hj : j = k <;> simp [Table.modify, Table.get?, hj]
    · by_cases hj : j = i
      · subst hj; simp [Table.modify, Table.get?, hk, Ne.symm hk]
      · simp [Table.modify, Table.get?, hk, hj, ih]

/-- An update depends only on what the table gives at the key. -/
theorem Table.modify_congr {t : Table α} {k : Nat} {a : α} (ha : Table.get? t k = some a) {f h : α → α} (hf : f a = h a) :
    Table.modify t k f = Table.modify t k h := by
  induction t with
  | nil => rfl
  | cons p t ih =>
    obtain ⟨i, b⟩ := p
    by_cases hk : k = i
    · subst hk
      simp only [Table.get?, if_true, Option.some.injEq] at ha
      simp [Table.modify, ha, hf]
    · simp only [Table.get?, if_neg hk] at ha
      simp [Table.modify, hk, ih ha]

theorem Table.modify_none {t : Table α} {k : Nat} (h : Table.get? t k = none) (f : α → α) : Table.modify t k f = t := by
  induction t with
  | nil => rfl
  | cons p t ih =>
    obtain ⟨i, b⟩ := p
    by_cases hk : k = i
    · simp [Table.get?, hk] at h
    · simp only [Table.get?, if_neg hk] at h
      simp [Table.modify, hk, ih h]

theorem Table.modify_modify (t : Table α) (k : Nat) (f h : α → α) :
    Table.modify (Table.modify t k f) k h = Table.modify t k (fun a => h (f a)) := by
  induction t with
  | nil => rfl
  | cons p t ih =>
    obtain ⟨i, b⟩ := p
    by_cases hk : k = i <;> simp [Table.modify, hk, ih]

theorem Table.get?_mapAll (t : Table α) (k : Nat) (f : Nat → α → β) :
    Table.get? (Table.mapAll t f) k = (Table.get? t k).map (f k) := by
  induction t with
  | nil => rfl
  | cons p t ih =>
    obtain ⟨i, b⟩ := p
    simp only [Table.mapAll, List.map_cons] at ih ⊢
    by_cases h : k = i
    · subst h; simp [Table.get?]
    · simpa [Table.get?, h] using ih

theorem Table.get?_erase (t : Table α) (k j : Nat) :
    Table.get? (Table.erase t k) j = if j = k then none else Table.get? t j := by
  induction t with
  | nil => simp [Table.erase, Table.get?]
  | cons p t ih =>
    obtain ⟨i, b⟩ := p
    simp only [Table.erase, List.filter_cons] at ih ⊢
    by_cases hik : i = k
    · subst hik
      by_cases hj : j = i
      · simpa [hj] using ih
      · simpa [Table.get?, hj] using ih
    · by_cases hj : j = i
      · simp [Table.get?, hj, hik]
      · simp [Table.get?, hik, hj, ih]

theorem Table.get?_filter_keys (t : Table α) (q : Nat → Bool) (k : Nat) :
    Table.get? (t.filter (fun e => q e.1)) k = if q k then Table.get? t k else none := by
  induction t with
  | nil => simp [Table.get?]
  | cons p t ih =>
    obtain ⟨i, b⟩ := p
    rw [List.filter_cons]
    by_cases hk : k = i
    · subst hk
      by_cases hq : q k = true <;> simp [Table.get?, hq, ih]
    · by_cases hq : q i = true <;> simp [Table.get?, hq, hk, ih]

theorem Table.get?_some_mem {t : Table α} {k : Nat} {a : α} (h : Table.get? t k = some a) : (k, a) ∈ t := by
  induction t with
  | nil => simp [Table.get?] at h
  | cons p t ih =>
    obtain ⟨i, b⟩ := p
    unfold Table.get? at h
    split at h
    · rename_i hk; subst hk; simp at h; subst h; exact List.mem_cons_self
    · exact List.mem_cons_of_mem _ (ih h)

theorem Table.get?_none_of_above {t : Table α} {k : Nat} (h : Table.above k t) : Table.get? t k = none := by
  cases ht : Table.get? t k with
  | none => rfl
  | some a => exact absurd (h _ (Table.get?_some_mem ht)) (lt_irrefl _)

/-- In a sorted table an entry is found by its key. -/
theorem Table.get?_of_mem {t : Table α} (h : Table.sorted t = true) {k : Nat} {a : α} (hm : (k, a) ∈ t) : Table.get? t k = some a := by
  induction t with
  | nil => simp at hm
  | cons p t ih =>
    obtain ⟨i, b⟩ := p
    obtain ⟨ha, ht⟩ := (Table.sorted_cons i b t).1 h
    rcases List.mem_cons.1 hm with e | hm
    · cases e; simp [Table.get?]
    · have := ha _ hm
      simp [Table.get?, ne_of_gt this, ih ht hm]

/-- Sorted tables that agree at every key are equal. -/
theorem Table.ext_of_sorted {t u : Table α} (ht : Table.sorted t = true) (hu : Table.sorted u = true)
    (h : ∀ k, Table.get? t k = Table.get? u k) : t = u := by
  induction t generalizing u with
  | nil =>
    cases u with
    | nil => rfl
    | cons q u => obtain ⟨j, b⟩ := q; simpa [Table.get?] using h j
  | cons p t ih =>
    obtain ⟨i, a⟩ := p
    cases u with
    | nil => simpa [Table.get?] using h i
    | cons q u =>
      obtain ⟨j, b⟩ := q
      obtain ⟨hat, ht'⟩ := (Table.sorted_cons i a t).1 ht
      obtain ⟨hau, hu'⟩ := (Table.sorted_cons j b u).1 hu
      have hij : i = j := by
        rcases lt_trichotomy i j with l | e | l
        · have := h i
          rw [Table.get?_none_of_above (t := (j, b) :: u)] at this
          · simp [Table.get?] at this
          · intro e he
            rcases List.mem_cons.1 he with rfl | he
            · exact l
            · exact lt_trans l (hau e he)
        · exact e
        · have := h j
          rw [Table.get?_none_of_above (t := (i, a) :: t)] at this
          · simp [Table.get?] at this
          · intro e he
            rcases List.mem_cons.1 he with rfl | he
            · exact l
            · exact lt_trans l (hat e he)
      subst hij
      have hab : a = b := by simpa [Table.get?] using h i
      subst hab
      congr 1
      refine ih ht' hu' fun k => ?_
      by_cases hk : k = i
      · subst hk; rw [Table.get?_none_of_above hat, Table.get?_none_of_above hau]
      · simpa [Table.get?, hk] using h k

/-! ### Stores with a default -/

variable [DecidableEq α]

theorem Table.read_write (d : α) (t : Table α) (k j : Nat) (a : α) :
    Table.read d (Table.write d t k a) j = if j = k then a else Table.read d t j := by
  unfold Table.write Table.read
  split
  · rename_i h
    rw [Table.get?_erase]
    split <;> simp [h]
  · rw [Table.get?_put]
    split <;> simp

@[simp] theorem Table.read_write_self (d : α) (t : Table α) (k : Nat) (a : α) : Table.read d (Table.write d t k a) k = a := by
  simp [Table.read_write]

theorem Table.canonical_iff (d : α) (t : Table α) :
    Table.canonical d t = true ↔ Table.sorted t = true ∧ ∀ e ∈ t, e.2 ≠ d := by
  simp [Table.canonical]

theorem Table.canonical_write {d : α} {t : Table α} (h : Table.canonical d t = true) (k : Nat) (a : α) :
    Table.canonical d (Table.write d t k a) = true := by
  rw [Table.canonical_iff] at *
  unfold Table.write
  split
  · exact ⟨Table.sorted_erase h.1 k, fun e he => h.2 e (List.mem_filter.1 he).1⟩
  · rename_i ha
    refine ⟨Table.sorted_put h.1 k a, fun e he => ?_⟩
    rcases Table.mem_put he with rfl | he
    · exact ha
    · exact h.2 e he

theorem Table.canonical_filter {d : α} {t : Table α} (h : Table.canonical d t = true) (q : Nat × α → Bool) :
    Table.canonical d (t.filter q) = true := by
  rw [Table.canonical_iff] at *
  exact ⟨Table.sorted_filter h.1 q, fun e he => h.2 e (List.mem_filter.1 he).1⟩

end Sys2Proof.Machine
end

