-- ==== Sys2Proof/Laws/Wave.lean ====
section
/-! SUPPORT. What the shared operations over a wave do (08 R154 to R158, 03 R61 to R67): in a plain group a form changes exactly the members of the
wave, each by its own ending. -/

namespace Sys2Proof.Machine

/-! ### Finding what an update leaves -/

theorem State.group?_modGroup (s : State) (n m : Nat) (f : Group → Group) :
    (s.modGroup n f).group? m = if m = n then (s.group? m).map f else s.group? m := Table.get?_modify _ _ _ _

@[simp] theorem State.group?_modGroup_self (s : State) (n : Nat) (f : Group → Group) :
    (s.modGroup n f).group? n = (s.group? n).map f := by simp [State.group?_modGroup]

theorem State.group?_modGroup_ne (s : State) {n m : Nat} (f : Group → Group) (h : m ≠ n) :
    (s.modGroup n f).group? m = s.group? m := by simp [State.group?_modGroup, h]

@[simp] theorem State.kernel?_modGroup (s : State) (n : Nat) (f : Group → Group) (kh : Nat) :
    (s.modGroup n f).kernel? kh = s.kernel? kh := rfl

@[simp] theorem State.context_modGroup (s : State) (n : Nat) (f : Group → Group) (c : Nat) :
    (s.modGroup n f).context c = s.context c := rfl

theorem State.kernel?_modKernel (s : State) (n m : Nat) (f : Kernel → Kernel) :
    (s.modKernel n f).kernel? m = if m = n then (s.kernel? m).map f else s.kernel? m := Table.get?_modify _ _ _ _

theorem State.context_modContext (s : State) (n m : Nat) (f : Context → Context) :
    (s.modContext n f).context m = if m = n then f (s.context n) else s.context m := by
  simp only [State.context, State.modContext, Table.read, Table.get?_put]
  split <;> simp

theorem State.item?_modItem (s : State) (n k j : Nat) (f : Item → Item) :
    (s.modItem n k f).item? n j = if j = k then (s.item? n j).map f else s.item? n j := by
  simp only [State.item?, State.modItem, State.group?_modGroup_self, Group.modItem]
  cases s.group? n with
  | none => simp
  | some g => simp [Table.get?_modify]

/-- Updates of one group compose. -/
theorem State.modGroup_modGroup (s : State) (n : Nat) (f h : Group → Group) :
    (s.modGroup n f).modGroup n h = s.modGroup n (fun g => h (f g)) := by
  simp only [State.modGroup, Table.modify_modify]

/-- An update depends only on the group as it stands. -/
theorem State.modGroup_congr {s : State} {n : Nat} {g : Group} (hg : s.group? n = some g) {f h : Group → Group} (hf : f g = h g) :
    s.modGroup n f = s.modGroup n h := by
  simp only [State.modGroup, Table.modify_congr hg hf]

theorem Table.mapAll_congr {α β : Type} (t : Table α) {f h : Nat → α → β} (hf : ∀ p ∈ t, f p.1 p.2 = h p.1 p.2) :
    Table.mapAll t f = Table.mapAll t h :=
  List.map_congr_left fun p hp => by rw [hf p hp]

/-! ### The end of an instruction -/

/-- In a group with nothing pending the end of an instruction changes nothing. -/
theorem State.settle_of_clear {s : State} {gid : Nat} {g : Group} (hg : s.group? gid = some g) (hc : g.Clear) : s.settle gid = s := by
  have h1 : g.items.find? (fun p => p.2.consumed.isSome) = none := by
    rw [List.find?_eq_none]; intro p hp; simp [(hc p hp).2]
  have h2 : g.items.find? (fun p => p.2.fatal.isSome) = none := by
    rw [List.find?_eq_none]; intro p hp; simp [(hc p hp).1]
  simp [State.settle, hg, h1, h2]

@[simp] theorem Env.on_fatal (e : Env) (i : Instr) (t : W64) (it : Item) : (e.on i t it).fatal = it.fatal := rfl
@[simp] theorem Env.on_consumed (e : Env) (i : Instr) (t : W64) (it : Item) : (e.on i t it).consumed = it.consumed := rfl

/-- Every member that passes the checks ends as its body says; the others are as they were. -/
theorem Env.runForm_of_passes {e : Env} {i : Instr} {badS : List Nat} (h : e.Passes i badS) (body : Env → Ending) (u : Bool) :
    e.runForm (shapeOf i) (admitted i) u badS body =
      if e.it.guard (shapeOf i).form.g then e.close (shapeOf i) (body e) else e.on i e.nextPc e.it := by
  have gateGo : e.gate (shapeOf i) (admitted i) = .go → e.it.guard (shapeOf i).form.g = true := by
    unfold Env.gate; intro h
    repeat' split at h
    all_goals first | assumption | cases h
  have gateSkip : e.gate (shapeOf i) (admitted i) = .skip → e.it.guard (shapeOf i).form.g = false := by
    unfold Env.gate; intro h
    repeat' split at h
    all_goals simp_all
  rcases h with ⟨h, hp⟩ | h
  · simp [Env.runForm, h, hp, gateGo h]
  · simp [Env.runForm, h, gateSkip h, Env.close, Env.on]

/-- A form over a plain group, whose endings leave nothing pending. -/
theorem State.mapWave_plain {s : State} {g : Group} (hp : Plain s g) {i : Instr} (ha : Admits s g i) (body : Env → Ending) (f : Env → Item)
    (hf : ∀ p ∈ g.items, s.wave.slots.contains p.1 = true → (s.envOf g p.1 p.2).it.guard (shapeOf i).form.g = true →
      (s.envOf g p.1 p.2).close (shapeOf i) (body (s.envOf g p.1 p.2)) = f (s.envOf g p.1 p.2) ∧
      (f (s.envOf g p.1 p.2)).fatal = none ∧ (f (s.envOf g p.1 p.2)).consumed = none) :
    s.mapWave i body =
      s.after g (fun e => if e.it.guard (shapeOf i).form.g then f e else e.on i e.nextPc e.it) := by
  obtain ⟨hg, hd, hu, hc⟩ := hp
  have hitems : g.items.mapAll (fun k it => if s.wave.slots.contains k then
        (s.envOf g k it).runForm (shapeOf i) (admitted i) false g.badS body else it) =
      g.items.mapAll (fun k it => if s.wave.slots.contains k then
        (if (s.envOf g k it).it.guard (shapeOf i).form.g then f (s.envOf g k it)
          else (s.envOf g k it).on i (s.envOf g k it).nextPc (s.envOf g k it).it) else it) := by
    refine Table.mapAll_congr _ fun p hm => ?_
    by_cases hs : s.wave.slots.contains p.1 = true
    · simp only [hs, if_true]
      rw [Env.runForm_of_passes (ha p hm hs)]
      by_cases hgd : (s.envOf g p.1 p.2).it.guard (shapeOf i).form.g = true
      · simp only [hgd, if_true]; exact (hf p hm hs hgd).1
      · simp only [hgd]; rfl
    · simp only [hs]; rfl
  have hclear : Group.Clear { g with items := g.items.mapAll (fun k it => if s.wave.slots.contains k then
        (if (s.envOf g k it).it.guard (shapeOf i).form.g then f (s.envOf g k it)
          else (s.envOf g k it).on i (s.envOf g k it).nextPc (s.envOf g k it).it) else it) } := by
    intro q hq
    simp only [Table.mapAll, List.mem_map] at hq
    obtain ⟨p, hm, rfl⟩ := hq
    by_cases hs : s.wave.slots.contains p.1 = true
    · simp only [hs, if_true]
      by_cases hgd : (s.envOf g p.1 p.2).it.guard (shapeOf i).form.g = true
      · simp only [hgd, if_true]; exact (hf p hm hs hgd).2
      · simp only [hgd]
        exact ⟨(hc p hm).1, (hc p hm).2⟩
    · simp only [hs]; exact hc p hm
  have hmod : s.modGroup s.wave.gid (fun h => { h with items := h.items.mapAll (fun k it => if s.wave.slots.contains k then
        (s.envOf g k it).runForm (shapeOf i) (admitted i) false g.badS body else it) }) =
      s.after g (fun e => if e.it.guard (shapeOf i).form.g then f e else e.on i e.nextPc e.it) :=
    by
      unfold State.after
      exact State.modGroup_congr hg (by rw [hitems])
  have hgrp : (s.after g (fun e => if e.it.guard (shapeOf i).form.g then f e else e.on i e.nextPc e.it)).group? s.wave.gid =
      some { g with items := g.items.mapAll (fun k it => if s.wave.slots.contains k then
        (if (s.envOf g k it).it.guard (shapeOf i).form.g then f (s.envOf g k it)
          else (s.envOf g k it).on i (s.envOf g k it).nextPc (s.envOf g k it).it) else it) } := by
    simp [State.after, hg]
  have := State.settle_of_clear hgrp hclear
  simp only [State.mapWave, State.mapRun, hg, hd, hu]
  rw [← hmod] at this ⊢
  exact this

end Sys2Proof.Machine
end

