-- ==== Sys2Proof/Laws/Arith.lean ====
section
/-! SUPPORT. What the frames of the arithmetic majors do (03 R61, 08 R174): the vector frame writes each member's destination, the scalar frame
the group's s register once. -/

namespace Sys2Proof.Machine

/-- The item after a result that chooses no trap (R46, R194). -/
def Env.result (e : Env) (o : Form) (out : Out) : Item :=
  match out.pred with
  | some (n, b) => ((e.it.raise out).writeDest o.d out.dest).writeP n b
  | none => (e.it.raise out).writeDest o.d out.dest

theorem Env.applyOut_of_none {e : Env} {o : Form} {out : Out} (h : e.it.chosenTrap out = none) :
    e.applyOut o out = .done (e.result o out) := by
  unfold Env.applyOut Env.result
  simp only [h]
  all_goals (cases out.pred <;> rfl)

@[simp] theorem Item.writeDest_fatal (it : Item) (d : BitVec 7) (x : Dest) : (it.writeDest d x).fatal = it.fatal := by
  cases x <;> rfl
@[simp] theorem Item.writeDest_consumed (it : Item) (d : BitVec 7) (x : Dest) : (it.writeDest d x).consumed = it.consumed := by
  cases x <;> rfl
@[simp] theorem Env.result_fatal (e : Env) (o : Form) (out : Out) : (e.result o out).fatal = e.it.fatal := by
  unfold Env.result; split <;> simp
@[simp] theorem Env.result_consumed (e : Env) (o : Form) (out : Out) : (e.result o out).consumed = e.it.consumed := by
  unfold Env.result; split <;> simp

/-- A result without flags leaves the flag words. -/
theorem Item.raise_quiet (it : Item) {out : Out} (h1 : out.ist = 0) (h2 : out.elems = []) : it.raise out = it := by
  simp [Item.raise, h1, h2]

/-- A result without flags chooses no trap. -/
theorem Item.chosenTrap_quiet (it : Item) {out : Out} (h1 : out.idiv = none) (h2 : out.elems = []) : it.chosenTrap out = none := by
  simp [Item.chosenTrap, h1, h2, idivTrap, fpTrap]

/-- The vector frame over a plain wave: each member with a true guard takes its result. -/
theorem State.arith_plain {s : State} {g : Group} (hp : Plain s g) {i : Instr} (ha : Admits s g i) {o : Form} (hm : o.m = 0 ∨ o.m = 1)
    (f : Env → Out)
    (hn : ∀ p ∈ g.items, s.wave.slots.contains p.1 = true → (s.envOf g p.1 p.2).it.guard (shapeOf i).form.g = true →
      (s.envOf g p.1 p.2).it.chosenTrap (f (s.envOf g p.1 p.2)) = none) :
    s.arith i o f = s.after g (fun e => e.under i Env.nextPc (fun e => e.result o (f e))) := by
  have hm' : (o.m = 2 || o.m = 3) = false := by rcases hm with h | h <;> simp [h]
  rw [State.arith, if_neg (by simpa using hm')]
  rw [State.mapWave_plain hp ha _ (fun e => e.on i e.nextPc (e.result o (f e)))]
  · rfl
  · intro p hm hs hg
    rw [Env.applyOut_of_none (hn p hm hs hg)]
    exact ⟨rfl, by simp; exact (hp.clear p hm).1, by simp; exact (hp.clear p hm).2⟩

/-- The same where the result never has a flag. -/
theorem State.arith_quiet {s : State} {g : Group} (hp : Plain s g) {i : Instr} (ha : Admits s g i) {o : Form} (hm : o.m = 0 ∨ o.m = 1)
    (f : Env → Out) (h1 : ∀ e, (f e).ist = 0) (h2 : ∀ e, (f e).idiv = none) (h3 : ∀ e, (f e).elems = []) (h4 : ∀ e, (f e).pred = none) :
    s.arith i o f = s.after g (fun e => e.under i Env.nextPc (fun e => e.it.writeDest o.d (f e).dest)) := by
  rw [State.arith_plain hp ha hm f (fun p _ _ _ => Item.chosenTrap_quiet _ (h2 _) (h3 _))]
  congr 1
  funext e
  congr 1
  funext e
  simp [Env.result, h4, Item.raise_quiet _ (h1 e) (h3 e)]

/-! ### The scalar frame -/

theorem mem_insertNat {n m : Nat} {l : List Nat} : m ∈ ascending.insertNat n l ↔ m = n ∨ m ∈ l := by
  induction l with
  | nil => simp [ascending.insertNat]
  | cons a l ih =>
    unfold ascending.insertNat
    split <;> simp_all [or_left_comm]

theorem mem_ascending {m : Nat} {l : List Nat} : m ∈ ascending l ↔ m ∈ l := by
  induction l with
  | nil => simp [ascending]
  | cons a l ih => simp [ascending, mem_insertNat, ih]

@[simp] theorem Item.guard_wait (it : Item) (w : Wait) (g : BitVec 4) : ({ it with wait := w } : Item).guard g = it.guard g := rfl

theorem Env.gate_go_guard {e : Env} {i : Instr} (h : e.gate (shapeOf i) (admitted i) = .go) :
    e.it.guard (shapeOf i).form.g = true := by
  revert h; unfold Env.gate; intro h
  repeat' split at h
  all_goals first | assumption | cases h

theorem Env.gate_skip_guard {e : Env} {i : Instr} (h : e.gate (shapeOf i) (admitted i) = .skip) :
    e.it.guard (shapeOf i).form.g = false := by
  revert h; unfold Env.gate; intro h
  repeat' split at h
  all_goals simp_all

/-- In a plain wave that passes the checks the participants are the members with a true guard. -/
theorem State.mem_participants {s : State} {g : Group} (hp : Plain s g) {i : Instr} (ha : Admits s g i) (e : Env) :
    e ∈ s.participants i ↔
      ∃ k ∈ s.wave.slots, ∃ it, Table.get? g.items k = some it ∧ it.guard (shapeOf i).form.g = true ∧ e = s.envOf g k it := by
  simp only [State.participants, hp.group, List.mem_filterMap, mem_ascending, State.env?, Option.bind_map]
  constructor
  · rintro ⟨k, hk, h⟩
    rw [Option.bind_eq_some_iff] at h
    obtain ⟨it, hit, h⟩ := h
    refine ⟨k, hk, it, hit, ?_⟩
    simp only [Function.comp] at h
    by_cases hq : (Env.of s g s.wave.gid k it).passes i g.badS = true
    · rw [if_pos hq] at h
      cases h
      simp only [Env.passes, Bool.and_eq_true, beq_iff_eq] at hq
      exact ⟨Env.gate_go_guard hq.1, rfl⟩
    · rw [if_neg hq] at h
      cases h
  · rintro ⟨k, hk, it, hit, hg, rfl⟩
    refine ⟨k, hk, ?_⟩
    rw [hit]
    have hpass := ha (k, it) (Table.get?_some_mem hit) (by simpa using hk)
    rcases hpass with ⟨h1, h2⟩ | h
    · have hq : (s.envOf g k it).passes i g.badS = true := by simp [Env.passes, h1, h2]
      exact if_pos hq
    · have h' : it.guard (shapeOf i).form.g = false := Env.gate_skip_guard h
      rw [hg] at h'
      cases h'

theorem Env.takesPart_of_go {e : Env} {i : Instr} (h : e.gate (shapeOf i) (admitted i) = .go) : e.takesPart i = true := by
  have hg := Env.gate_go_guard h
  revert h
  unfold Env.gate
  intro h
  cases ho : e.it.owed with
  | some t => simp [ho] at h
  | none =>
    rw [ho] at h
    by_cases hl : (e.it.leading && (!admitted i || (shapeOf i).depends e.it.windows)) = true
    · simp [hl] at h
    · simp [Env.takesPart, hg, ho, Bool.not_eq_true _ ▸ hl]

/-- In a plain wave that passes the checks the takers of a wave-wide effect are its participants. -/
theorem State.takers_eq_participants {s : State} {g : Group} (hp : Plain s g) {i : Instr} (ha : Admits s g i) :
    s.takers i = s.participants i := by
  simp only [State.takers, State.participants, hp.group, State.env?, Option.bind_map]
  refine List.filterMap_congr (fun k hk => ?_)
  cases hit : Table.get? g.items k with
  | none => rfl
  | some it =>
    have hpass := ha (k, it) (Table.get?_some_mem hit) (by simpa using (mem_ascending.1 hk))
    simp only [Option.bind_some, Function.comp]
    rcases hpass with ⟨h1, h2⟩ | h
    · rw [if_pos (Env.takesPart_of_go h1), if_pos (by simp [Env.passes, h1, h2])]
    · rw [if_neg (by simp [Env.takesPart, Env.gate_skip_guard h]), if_neg (by simp [Env.passes, h])]

theorem State.participants_eq_nil {s : State} {g : Group} (hp : Plain s g) {i : Instr} (ha : Admits s g i) :
    s.participants i = [] ↔ ¬ SomeGuard s g i := by
  rw [List.eq_nil_iff_forall_not_mem]
  constructor
  · rintro h ⟨k, hk, it, hit, hg⟩
    exact h _ ((State.mem_participants hp ha _).2 ⟨k, hk, it, hit, hg, rfl⟩)
  · intro h e he
    obtain ⟨k, hk, it, hit, hg, -⟩ := (State.mem_participants hp ha e).1 he
    exact h ⟨k, hk, it, hit, hg⟩

/-- Every member goes on, with nothing done to it. -/
theorem State.mapWave_pass {s : State} {g : Group} (hp : Plain s g) {i : Instr} (ha : Admits s g i) :
    s.mapWave i (fun e => .done e.it) = s.after g (fun e => e.on i e.nextPc e.it) := by
  rw [State.mapWave_plain hp ha _ (fun e => e.on i e.nextPc e.it)]
  · congr 1; funext e; simp
  · intro p hm _ _
    exact ⟨rfl, (hp.clear p hm).1, (hp.clear p hm).2⟩

end Sys2Proof.Machine
end

