-- ==== Sys2Proof/Laws/Encoding.lean ====
section
/-! SUPPORT. The fields of packed words (03 R57 to R71): what is packed is what is cut out, field by field, and the field codes are read
back. -/

namespace Sys2Proof

open Machine

/-- Cutting a raw instruction out of its words gives it back. -/
theorem unpack_pack (r : Raw) : unpack (pack r).1 (pack r).2.1 (pack r).2.2 = r := by
  obtain ⟨len, op, d, a, b, m, la, g, sub, imm, lit⟩ := r
  simp only [pack, unpack, Raw.mk.injEq, and_true]
  refine ⟨?_, ?_, ?_, ?_, ?_, ?_, ?_, ?_, ?_, ?_⟩ <;>
  · ext i hi
    simp only [BitVec.getElem_extractLsb', BitVec.getLsbD_append]
    interval_cases i <;> simp [BitVec.getLsbD_eq_getElem]

/-! ### Codes -/

@[simp] theorem condOf_code (x : Cond) : condOf x.code = some x := by cases x <;> rfl
@[simp] theorem rndOf_code (x : Rnd) : rndOf x.code = some x := by cases x <;> rfl
@[simp] theorem widthOf_code (x : Width) : widthOf x.code = some x := by cases x <;> rfl
@[simp] theorem pfLevelOf_code (x : PfLevel) : pfLevelOf x.code = some x := by cases x <;> rfl
@[simp] theorem intFoldOf_code (x : IntFold) : intFoldOf x.code = some x := by cases x <;> rfl
@[simp] theorem floatFoldOf_code (x : FloatFold) : floatFoldOf x.code = some x := by cases x <;> rfl
@[simp] theorem floatCondOf_code (x : FloatCond) : floatCondOf x.code = x := by cases x <;> rfl
@[simp] theorem precOf_code (x : Prec) : precOf x.code = x := by cases x <;> rfl
@[simp] theorem orderOf_code (x : Order) : orderOf x.code = x := by cases x <;> rfl
@[simp] theorem scopeOf_code (x : Scope) : scopeOf x.code = x := by cases x <;> rfl
@[simp] theorem counterClassOf_code (x : CounterClass) : counterClassOf x.code = x := by cases x <;> rfl

@[simp] theorem bit1_getElem (b : Bool) (h : 0 < 1) : (bit1 b)[0]'h = b := by cases b <;> simp [bit1]
@[simp] theorem bit1_getLsbD (b : Bool) : (bit1 b).getLsbD 0 = b := by cases b <;> decide

/-! ### Packed fields -/

@[simp] theorem floatSub_5_3 (x : BitVec 3) (o : FloatForm) : (floatSub x o).extractLsb' 5 3 = x := by
  ext i hi
  simp only [floatSub, BitVec.getElem_extractLsb', BitVec.getLsbD_append]
  interval_cases i <;> simp [BitVec.getLsbD_eq_getElem]

@[simp] theorem floatSub_2_3 (x : BitVec 3) (o : FloatForm) : (floatSub x o).extractLsb' 2 3 = o.rnd.code := by
  ext i hi
  simp only [floatSub, BitVec.getElem_extractLsb', BitVec.getLsbD_append]
  interval_cases i <;> simp [BitVec.getLsbD_eq_getElem]

@[simp] theorem floatSub_0_2 (x : BitVec 3) (o : FloatForm) : (floatSub x o).extractLsb' 0 2 = o.prec.code := by
  ext i hi
  simp only [floatSub, BitVec.getElem_extractLsb', BitVec.getLsbD_append]
  interval_cases i <;> simp [BitVec.getLsbD_eq_getElem]

@[simp] theorem bitImm_1_15 (b : Bool) : (bitImm b).extractLsb' 1 15 = 0 := by
  ext i hi
  simp only [bitImm, BitVec.getElem_extractLsb', BitVec.getLsbD_append]
  interval_cases i <;> simp [BitVec.getLsbD_eq_getElem]

@[simp] theorem bitImm_bit0 (b : Bool) : (bitImm b)[0] = b := by
  rw [← BitVec.getLsbD_eq_getElem]
  simp only [bitImm, BitVec.getLsbD_append]
  simp

@[simp] theorem BitsForm.immBits_0_5 (o : BitsForm) : (o.immBits).extractLsb' 0 5 = o.pos := by
  ext i hi
  simp only [BitsForm.immBits, BitVec.getElem_extractLsb', BitVec.getLsbD_append]
  interval_cases i <;> simp [BitVec.getLsbD_eq_getElem]

@[simp] theorem BitsForm.immBits_5_6 (o : BitsForm) : (o.immBits).extractLsb' 5 6 = o.len := by
  ext i hi
  simp only [BitsForm.immBits, BitVec.getElem_extractLsb', BitVec.getLsbD_append]
  interval_cases i <;> simp [BitVec.getLsbD_eq_getElem]

@[simp] theorem BitsForm.immBits_11_5 (o : BitsForm) : (o.immBits).extractLsb' 11 5 = 0 := by
  ext i hi
  simp only [BitsForm.immBits, BitVec.getElem_extractLsb', BitVec.getLsbD_append]
  interval_cases i <;> simp [BitVec.getLsbD_eq_getElem]

@[simp] theorem ConvertForm.immConvert_0_2 (o : ConvertForm) : (o.immConvert).extractLsb' 0 2 = o.dprec.code := by
  ext i hi
  simp only [ConvertForm.immConvert, BitVec.getElem_extractLsb', BitVec.getLsbD_append]
  interval_cases i <;> simp [BitVec.getLsbD_eq_getElem]

@[simp] theorem ConvertForm.immConvert_3_13 (o : ConvertForm) : (o.immConvert).extractLsb' 3 13 = 0 := by
  ext i hi
  simp only [ConvertForm.immConvert, BitVec.getElem_extractLsb', BitVec.getLsbD_append]
  interval_cases i <;> simp [BitVec.getLsbD_eq_getElem]

@[simp] theorem ConvertForm.immConvert_bit2 (o : ConvertForm) : (o.immConvert)[2] = o.uns := by
  rw [← BitVec.getLsbD_eq_getElem]
  simp only [ConvertForm.immConvert, BitVec.getLsbD_append]
  simp

@[simp] theorem PackForm.immPack_2_14 (o : PackForm) : (o.immPack).extractLsb' 2 14 = 0 := by
  ext i hi
  simp only [PackForm.immPack, BitVec.getElem_extractLsb', BitVec.getLsbD_append]
  interval_cases i <;> simp [BitVec.getLsbD_eq_getElem]

@[simp] theorem PackForm.immPack_1_15 (o : PackForm) : (o.immPack).extractLsb' 1 15 = (bit1 o.sat).setWidth 15 := by
  ext i hi
  simp only [PackForm.immPack, BitVec.getElem_extractLsb', BitVec.getLsbD_append]
  interval_cases i <;> simp [BitVec.getLsbD_eq_getElem]

@[simp] theorem PackForm.immPack_0_1 (o : PackForm) : (o.immPack).extractLsb' 0 1 = bit1 o.e5m2 := by
  ext i hi
  simp only [PackForm.immPack, BitVec.getElem_extractLsb', BitVec.getLsbD_append]
  interval_cases i <;> simp [BitVec.getLsbD_eq_getElem]

@[simp] theorem PackForm.immPack_bit0 (o : PackForm) : (o.immPack)[0] = o.e5m2 := by
  rw [← BitVec.getLsbD_eq_getElem]
  simp only [PackForm.immPack, BitVec.getLsbD_append]
  simp

@[simp] theorem PackForm.immPack_bit1 (o : PackForm) : (o.immPack)[1] = o.sat := by
  rw [← BitVec.getLsbD_eq_getElem]
  simp only [PackForm.immPack, BitVec.getLsbD_append]
  simp

@[simp] theorem ShuffleForm.immShuffle_0_5 (o : ShuffleForm) : (o.immShuffle).extractLsb' 0 5 = o.k := by
  ext i hi
  simp only [ShuffleForm.immShuffle, BitVec.getElem_extractLsb', BitVec.getLsbD_append]
  interval_cases i <;> simp [BitVec.getLsbD_eq_getElem]

@[simp] theorem ShuffleForm.immShuffle_5_2 (o : ShuffleForm) : (o.immShuffle).extractLsb' 5 2 = 0 := by
  ext i hi
  simp only [ShuffleForm.immShuffle, BitVec.getElem_extractLsb', BitVec.getLsbD_append]
  interval_cases i <;> simp [BitVec.getLsbD_eq_getElem]

@[simp] theorem ShuffleForm.immShuffle_8_3 (o : ShuffleForm) : (o.immShuffle).extractLsb' 8 3 = o.seg := by
  ext i hi
  simp only [ShuffleForm.immShuffle, BitVec.getElem_extractLsb', BitVec.getLsbD_append]
  interval_cases i <;> simp [BitVec.getLsbD_eq_getElem]

@[simp] theorem ShuffleForm.immShuffle_11_5 (o : ShuffleForm) : (o.immShuffle).extractLsb' 11 5 = 0 := by
  ext i hi
  simp only [ShuffleForm.immShuffle, BitVec.getElem_extractLsb', BitVec.getLsbD_append]
  interval_cases i <;> simp [BitVec.getLsbD_eq_getElem]

@[simp] theorem ShuffleForm.immShuffle_bit7 (o : ShuffleForm) : (o.immShuffle)[7] = o.rb := by
  rw [← BitVec.getLsbD_eq_getElem]
  simp only [ShuffleForm.immShuffle, BitVec.getLsbD_append]
  simp

@[simp] theorem ScanForm.immScan_0_2 (o : ScanForm) : (o.immScan).extractLsb' 0 2 = 0 := by
  ext i hi
  simp only [ScanForm.immScan, BitVec.getElem_extractLsb', BitVec.getLsbD_append]
  interval_cases i <;> simp [BitVec.getLsbD_eq_getElem]

@[simp] theorem ScanForm.immScan_0_3 (o : ScanForm) : (o.immScan).extractLsb' 0 3 = 0 := by
  ext i hi
  simp only [ScanForm.immScan, BitVec.getElem_extractLsb', BitVec.getLsbD_append]
  interval_cases i <;> simp [BitVec.getLsbD_eq_getElem]

@[simp] theorem ScanForm.immScan_4_3 (o : ScanForm) : (o.immScan).extractLsb' 4 3 = o.op.code := by
  ext i hi
  simp only [ScanForm.immScan, BitVec.getElem_extractLsb', BitVec.getLsbD_append]
  interval_cases i <;> simp [BitVec.getLsbD_eq_getElem]

@[simp] theorem ScanForm.immScan_9_3 (o : ScanForm) : (o.immScan).extractLsb' 9 3 = o.seg := by
  ext i hi
  simp only [ScanForm.immScan, BitVec.getElem_extractLsb', BitVec.getLsbD_append]
  interval_cases i <;> simp [BitVec.getLsbD_eq_getElem]

@[simp] theorem ScanForm.immScan_12_4 (o : ScanForm) : (o.immScan).extractLsb' 12 4 = 0 := by
  ext i hi
  simp only [ScanForm.immScan, BitVec.getElem_extractLsb', BitVec.getLsbD_append]
  interval_cases i <;> simp [BitVec.getLsbD_eq_getElem]

@[simp] theorem ScanForm.immScan_bit2 (o : ScanForm) : (o.immScan)[2] = false := by
  rw [← BitVec.getLsbD_eq_getElem]
  simp only [ScanForm.immScan, BitVec.getLsbD_append]
  simp

@[simp] theorem ScanForm.immScan_bit3 (o : ScanForm) : (o.immScan)[3] = o.uns := by
  rw [← BitVec.getLsbD_eq_getElem]
  simp only [ScanForm.immScan, BitVec.getLsbD_append]
  simp

@[simp] theorem ScanForm.immScan_bit7 (o : ScanForm) : (o.immScan)[7] = o.w64 := by
  rw [← BitVec.getLsbD_eq_getElem]
  simp only [ScanForm.immScan, BitVec.getLsbD_append]
  simp

@[simp] theorem ScanForm.immScan_bit8 (o : ScanForm) : (o.immScan)[8] = o.exc := by
  rw [← BitVec.getLsbD_eq_getElem]
  simp only [ScanForm.immScan, BitVec.getLsbD_append]
  simp

@[simp] theorem FloatScanForm.immFloatScan_1_3 (o : FloatScanForm) : (o.immFloatScan).extractLsb' 1 3 = 0 := by
  ext i hi
  simp only [FloatScanForm.immFloatScan, BitVec.getElem_extractLsb', BitVec.getLsbD_append]
  interval_cases i <;> simp [BitVec.getLsbD_eq_getElem]

@[simp] theorem FloatScanForm.immFloatScan_4_3 (o : FloatScanForm) : (o.immFloatScan).extractLsb' 4 3 = o.op.code := by
  ext i hi
  simp only [FloatScanForm.immFloatScan, BitVec.getElem_extractLsb', BitVec.getLsbD_append]
  interval_cases i <;> simp [BitVec.getLsbD_eq_getElem]

@[simp] theorem FloatScanForm.immFloatScan_7_2 (o : FloatScanForm) : (o.immFloatScan).extractLsb' 7 2 = 0 := by
  ext i hi
  simp only [FloatScanForm.immFloatScan, BitVec.getElem_extractLsb', BitVec.getLsbD_append]
  interval_cases i <;> simp [BitVec.getLsbD_eq_getElem]

@[simp] theorem FloatScanForm.immFloatScan_9_3 (o : FloatScanForm) : (o.immFloatScan).extractLsb' 9 3 = o.seg := by
  ext i hi
  simp only [FloatScanForm.immFloatScan, BitVec.getElem_extractLsb', BitVec.getLsbD_append]
  interval_cases i <;> simp [BitVec.getLsbD_eq_getElem]

@[simp] theorem FloatScanForm.immFloatScan_12_4 (o : FloatScanForm) : (o.immFloatScan).extractLsb' 12 4 = 0 := by
  ext i hi
  simp only [FloatScanForm.immFloatScan, BitVec.getElem_extractLsb', BitVec.getLsbD_append]
  interval_cases i <;> simp [BitVec.getLsbD_eq_getElem]

@[simp] theorem FloatScanForm.immFloatScan_bit0 (o : FloatScanForm) : (o.immFloatScan)[0] = o.f64 := by
  rw [← BitVec.getLsbD_eq_getElem]
  simp only [FloatScanForm.immFloatScan, BitVec.getLsbD_append]
  simp

@[simp] theorem FloatScanForm.immFloatScan_bit1 (o : FloatScanForm) : (o.immFloatScan)[1] = false := by
  rw [← BitVec.getLsbD_eq_getElem]
  simp only [FloatScanForm.immFloatScan, BitVec.getLsbD_append]
  simp

@[simp] theorem FloatScanForm.immFloatScan_bit2 (o : FloatScanForm) : (o.immFloatScan)[2] = false := by
  rw [← BitVec.getLsbD_eq_getElem]
  simp only [FloatScanForm.immFloatScan, BitVec.getLsbD_append]
  simp

@[simp] theorem FloatScanForm.immFloatScan_bit3 (o : FloatScanForm) : (o.immFloatScan)[3] = false := by
  rw [← BitVec.getLsbD_eq_getElem]
  simp only [FloatScanForm.immFloatScan, BitVec.getLsbD_append]
  simp

@[simp] theorem FloatScanForm.immFloatScan_bit7 (o : FloatScanForm) : (o.immFloatScan)[7] = false := by
  rw [← BitVec.getLsbD_eq_getElem]
  simp only [FloatScanForm.immFloatScan, BitVec.getLsbD_append]
  simp

@[simp] theorem FloatScanForm.immFloatScan_bit8 (o : FloatScanForm) : (o.immFloatScan)[8] = false := by
  rw [← BitVec.getLsbD_eq_getElem]
  simp only [FloatScanForm.immFloatScan, BitVec.getLsbD_append]
  simp

@[simp] theorem MemForm.memSub_5_3 (o : MemForm) : (o.memSub).extractLsb' 5 3 = o.width.code := by
  ext i hi
  simp only [MemForm.memSub, BitVec.getElem_extractLsb', BitVec.getLsbD_append]
  interval_cases i <;> simp [BitVec.getLsbD_eq_getElem]

@[simp] theorem MemForm.memSub_2_2 (o : MemForm) : (o.memSub).extractLsb' 2 2 = o.scale := by
  ext i hi
  simp only [MemForm.memSub, BitVec.getElem_extractLsb', BitVec.getLsbD_append]
  interval_cases i <;> simp [BitVec.getLsbD_eq_getElem]

@[simp] theorem MemForm.memSub_bit4 (o : MemForm) : (o.memSub)[4] = o.sx := by
  rw [← BitVec.getLsbD_eq_getElem]
  simp only [MemForm.memSub, BitVec.getLsbD_append]
  simp

@[simp] theorem MemForm.memSub_bit1 (o : MemForm) : (o.memSub)[1] = o.idx := by
  rw [← BitVec.getLsbD_eq_getElem]
  simp only [MemForm.memSub, BitVec.getLsbD_append]
  simp

@[simp] theorem MemForm.memSub_bit0 (o : MemForm) : (o.memSub)[0] = o.clr := by
  rw [← BitVec.getLsbD_eq_getElem]
  simp only [MemForm.memSub, BitVec.getLsbD_append]
  simp

@[simp] theorem MemForm.memImm_13_3 (o : MemForm) : (o.memImm).extractLsb' 13 3 = o.ord.code := by
  ext i hi
  simp only [MemForm.memImm, BitVec.getElem_extractLsb', BitVec.getLsbD_append]
  interval_cases i <;> simp [BitVec.getLsbD_eq_getElem]

@[simp] theorem MemForm.memImm_10_3 (o : MemForm) : (o.memImm).extractLsb' 10 3 = o.scope.code := by
  ext i hi
  simp only [MemForm.memImm, BitVec.getElem_extractLsb', BitVec.getLsbD_append]
  interval_cases i <;> simp [BitVec.getLsbD_eq_getElem]

@[simp] theorem MemForm.memImm_0_10 (o : MemForm) : (o.memImm).extractLsb' 0 10 = o.off := by
  ext i hi
  simp only [MemForm.memImm, BitVec.getElem_extractLsb', BitVec.getLsbD_append]
  interval_cases i <;> simp [BitVec.getLsbD_eq_getElem]

@[simp] theorem PrefetchForm.pfSub_5_3 (o : PrefetchForm) : (o.pfSub).extractLsb' 5 3 = o.level.code := by
  ext i hi
  simp only [PrefetchForm.pfSub, BitVec.getElem_extractLsb', BitVec.getLsbD_append]
  interval_cases i <;> simp [BitVec.getLsbD_eq_getElem]

@[simp] theorem PrefetchForm.pfSub_2_2 (o : PrefetchForm) : (o.pfSub).extractLsb' 2 2 = o.scale := by
  ext i hi
  simp only [PrefetchForm.pfSub, BitVec.getElem_extractLsb', BitVec.getLsbD_append]
  interval_cases i <;> simp [BitVec.getLsbD_eq_getElem]

@[simp] theorem PrefetchForm.pfSub_bit4 (o : PrefetchForm) : (o.pfSub)[4] = false := by
  rw [← BitVec.getLsbD_eq_getElem]
  simp only [PrefetchForm.pfSub, BitVec.getLsbD_append]
  simp

@[simp] theorem PrefetchForm.pfSub_bit1 (o : PrefetchForm) : (o.pfSub)[1] = o.idx := by
  rw [← BitVec.getLsbD_eq_getElem]
  simp only [PrefetchForm.pfSub, BitVec.getLsbD_append]
  simp

@[simp] theorem PrefetchForm.pfSub_bit0 (o : PrefetchForm) : (o.pfSub)[0] = false := by
  rw [← BitVec.getLsbD_eq_getElem]
  simp only [PrefetchForm.pfSub, BitVec.getLsbD_append]
  simp

@[simp] theorem PrefetchForm.pfImm_13_3 (o : PrefetchForm) : (o.pfImm).extractLsb' 13 3 = 0 := by
  ext i hi
  simp only [PrefetchForm.pfImm, BitVec.getElem_extractLsb', BitVec.getLsbD_append]
  interval_cases i <;> simp [BitVec.getLsbD_eq_getElem]

@[simp] theorem PrefetchForm.pfImm_10_3 (o : PrefetchForm) : (o.pfImm).extractLsb' 10 3 = 0 := by
  ext i hi
  simp only [PrefetchForm.pfImm, BitVec.getElem_extractLsb', BitVec.getLsbD_append]
  interval_cases i <;> simp [BitVec.getLsbD_eq_getElem]

@[simp] theorem PrefetchForm.pfImm_0_10 (o : PrefetchForm) : (o.pfImm).extractLsb' 0 10 = o.off := by
  ext i hi
  simp only [PrefetchForm.pfImm, BitVec.getElem_extractLsb', BitVec.getLsbD_append]
  interval_cases i <;> simp [BitVec.getLsbD_eq_getElem]

@[simp] theorem atomSub_4_4 (x : BitVec 4) (o : AtomForm) : (atomSub x o).extractLsb' 4 4 = x := by
  ext i hi
  simp only [atomSub, BitVec.getElem_extractLsb', BitVec.getLsbD_append]
  interval_cases i <;> simp [BitVec.getLsbD_eq_getElem]

@[simp] theorem atomSub_0_2 (x : BitVec 4) (o : AtomForm) : (atomSub x o).extractLsb' 0 2 = 0 := by
  ext i hi
  simp only [atomSub, BitVec.getElem_extractLsb', BitVec.getLsbD_append]
  interval_cases i <;> simp [BitVec.getLsbD_eq_getElem]

@[simp] theorem atomSub_bit3 (x : BitVec 4) (o : AtomForm) : (atomSub x o)[3] = o.uns := by
  rw [← BitVec.getLsbD_eq_getElem]
  simp only [atomSub, BitVec.getLsbD_append]
  simp

@[simp] theorem atomSub_bit2 (x : BitVec 4) (o : AtomForm) : (atomSub x o)[2] = o.w64 := by
  rw [← BitVec.getLsbD_eq_getElem]
  simp only [atomSub, BitVec.getLsbD_append]
  simp

@[simp] theorem AtomForm.atomImm_13_3 (o : AtomForm) : (o.atomImm).extractLsb' 13 3 = o.ord.code := by
  ext i hi
  simp only [AtomForm.atomImm, BitVec.getElem_extractLsb', BitVec.getLsbD_append]
  interval_cases i <;> simp [BitVec.getLsbD_eq_getElem]

@[simp] theorem AtomForm.atomImm_10_3 (o : AtomForm) : (o.atomImm).extractLsb' 10 3 = o.scope.code := by
  ext i hi
  simp only [AtomForm.atomImm, BitVec.getElem_extractLsb', BitVec.getLsbD_append]
  interval_cases i <;> simp [BitVec.getLsbD_eq_getElem]

@[simp] theorem AtomForm.atomImm_0_10 (o : AtomForm) : (o.atomImm).extractLsb' 0 10 = o.off := by
  ext i hi
  simp only [AtomForm.atomImm, BitVec.getElem_extractLsb', BitVec.getLsbD_append]
  interval_cases i <;> simp [BitVec.getLsbD_eq_getElem]

@[simp] theorem AtomForm.casImm_13_3 (o : AtomForm) : (o.casImm).extractLsb' 13 3 = o.ord.code := by
  ext i hi
  simp only [AtomForm.casImm, BitVec.getElem_extractLsb', BitVec.getLsbD_append]
  interval_cases i <;> simp [BitVec.getLsbD_eq_getElem]

@[simp] theorem AtomForm.casImm_10_3 (o : AtomForm) : (o.casImm).extractLsb' 10 3 = o.scope.code := by
  ext i hi
  simp only [AtomForm.casImm, BitVec.getElem_extractLsb', BitVec.getLsbD_append]
  interval_cases i <;> simp [BitVec.getLsbD_eq_getElem]

@[simp] theorem AtomForm.casImm_7_3 (o : AtomForm) : (o.casImm).extractLsb' 7 3 = 0 := by
  ext i hi
  simp only [AtomForm.casImm, BitVec.getElem_extractLsb', BitVec.getLsbD_append]
  interval_cases i <;> simp [BitVec.getLsbD_eq_getElem]

@[simp] theorem AtomForm.casImm_0_7 (o : AtomForm) : (o.casImm).extractLsb' 0 7 = o.c := by
  ext i hi
  simp only [AtomForm.casImm, BitVec.getElem_extractLsb', BitVec.getLsbD_append]
  interval_cases i <;> simp [BitVec.getLsbD_eq_getElem]

@[simp] theorem ScopeForm.immScope_13_3 (o : ScopeForm) : (o.immScope).extractLsb' 13 3 = 0 := by
  ext i hi
  simp only [ScopeForm.immScope, BitVec.getElem_extractLsb', BitVec.getLsbD_append]
  interval_cases i <;> simp [BitVec.getLsbD_eq_getElem]

@[simp] theorem ScopeForm.immScope_10_3 (o : ScopeForm) : (o.immScope).extractLsb' 10 3 = o.scope.code := by
  ext i hi
  simp only [ScopeForm.immScope, BitVec.getElem_extractLsb', BitVec.getLsbD_append]
  interval_cases i <;> simp [BitVec.getLsbD_eq_getElem]

@[simp] theorem ScopeForm.immScope_0_10 (o : ScopeForm) : (o.immScope).extractLsb' 0 10 = 0 := by
  ext i hi
  simp only [ScopeForm.immScope, BitVec.getElem_extractLsb', BitVec.getLsbD_append]
  interval_cases i <;> simp [BitVec.getLsbD_eq_getElem]

@[simp] theorem BarRedForm.immRed_12_4 (o : BarRedForm) : (o.immRed).extractLsb' 12 4 = o.bar := by
  ext i hi
  simp only [BarRedForm.immRed, BitVec.getElem_extractLsb', BitVec.getLsbD_append]
  interval_cases i <;> simp [BitVec.getLsbD_eq_getElem]

@[simp] theorem BarRedForm.immRed_9_3 (o : BarRedForm) : (o.immRed).extractLsb' 9 3 = 0 := by
  ext i hi
  simp only [BarRedForm.immRed, BitVec.getElem_extractLsb', BitVec.getLsbD_append]
  interval_cases i <;> simp [BitVec.getLsbD_eq_getElem]

@[simp] theorem BarRedForm.immRed_0_9 (o : BarRedForm) : (o.immRed).extractLsb' 0 9 = o.kind.code := by
  ext i hi
  simp only [BarRedForm.immRed, BitVec.getElem_extractLsb', BitVec.getLsbD_append]
  interval_cases i <;> simp [BitVec.getLsbD_eq_getElem]

@[simp] theorem BarRedForm.immRed_0_2 (o : BarRedForm) : (o.immRed).extractLsb' 0 2 = o.kind.code.extractLsb' 0 2 := by
  ext i hi
  simp only [BarRedForm.immRed, BitVec.getElem_extractLsb', BitVec.getLsbD_append]
  interval_cases i <;> simp [BitVec.getLsbD_eq_getElem]

@[simp] theorem BarRedForm.immRed_4_3 (o : BarRedForm) : (o.immRed).extractLsb' 4 3 = o.kind.code.extractLsb' 4 3 := by
  ext i hi
  simp only [BarRedForm.immRed, BitVec.getElem_extractLsb', BitVec.getLsbD_append]
  interval_cases i <;> simp [BitVec.getLsbD_eq_getElem]

@[simp] theorem BarRedForm.immRed_bit0 (o : BarRedForm) : (o.immRed)[0] = o.kind.code[0] := by
  rw [← BitVec.getLsbD_eq_getElem]
  simp only [BarRedForm.immRed, BitVec.getLsbD_append]
  simp

@[simp] theorem BarRedForm.immRed_bit1 (o : BarRedForm) : (o.immRed)[1] = o.kind.code[1] := by
  rw [← BitVec.getLsbD_eq_getElem]
  simp only [BarRedForm.immRed, BitVec.getLsbD_append]
  simp

@[simp] theorem BarRedForm.immRed_bit2 (o : BarRedForm) : (o.immRed)[2] = o.kind.code[2] := by
  rw [← BitVec.getLsbD_eq_getElem]
  simp only [BarRedForm.immRed, BitVec.getLsbD_append]
  simp

@[simp] theorem BarRedForm.immRed_bit3 (o : BarRedForm) : (o.immRed)[3] = o.kind.code[3] := by
  rw [← BitVec.getLsbD_eq_getElem]
  simp only [BarRedForm.immRed, BitVec.getLsbD_append]
  simp

@[simp] theorem BarRedForm.immRed_bit7 (o : BarRedForm) : (o.immRed)[7] = o.kind.code[7] := by
  rw [← BitVec.getLsbD_eq_getElem]
  simp only [BarRedForm.immRed, BitVec.getLsbD_append]
  simp

@[simp] theorem BarRedForm.immRed_bit8 (o : BarRedForm) : (o.immRed)[8] = o.kind.code[8] := by
  rw [← BitVec.getLsbD_eq_getElem]
  simp only [BarRedForm.immRed, BitVec.getLsbD_append]
  simp

@[simp] theorem WaitvForm.immWaitv_13_3 (o : WaitvForm) : (o.immWaitv).extractLsb' 13 3 = o.ord.code := by
  ext i hi
  simp only [WaitvForm.immWaitv, BitVec.getElem_extractLsb', BitVec.getLsbD_append]
  interval_cases i <;> simp [BitVec.getLsbD_eq_getElem]

@[simp] theorem WaitvForm.immWaitv_10_3 (o : WaitvForm) : (o.immWaitv).extractLsb' 10 3 = o.scope.code := by
  ext i hi
  simp only [WaitvForm.immWaitv, BitVec.getElem_extractLsb', BitVec.getLsbD_append]
  interval_cases i <;> simp [BitVec.getLsbD_eq_getElem]

@[simp] theorem WaitvForm.immWaitv_5_5 (o : WaitvForm) : (o.immWaitv).extractLsb' 5 5 = o.texp := by
  ext i hi
  simp only [WaitvForm.immWaitv, BitVec.getElem_extractLsb', BitVec.getLsbD_append]
  interval_cases i <;> simp [BitVec.getLsbD_eq_getElem]

@[simp] theorem WaitvForm.immWaitv_0_5 (o : WaitvForm) : (o.immWaitv).extractLsb' 0 5 = 0 := by
  ext i hi
  simp only [WaitvForm.immWaitv, BitVec.getElem_extractLsb', BitVec.getLsbD_append]
  interval_cases i <;> simp [BitVec.getLsbD_eq_getElem]

@[simp] theorem WaitcForm.immWaitc_8_8 (o : WaitcForm) : (o.immWaitc).extractLsb' 8 8 = 0 := by
  ext i hi
  simp only [WaitcForm.immWaitc, BitVec.getElem_extractLsb', BitVec.getLsbD_append]
  interval_cases i <;> simp [BitVec.getLsbD_eq_getElem]

@[simp] theorem WaitcForm.immWaitc_6_2 (o : WaitcForm) : (o.immWaitc).extractLsb' 6 2 = o.cls.code := by
  ext i hi
  simp only [WaitcForm.immWaitc, BitVec.getElem_extractLsb', BitVec.getLsbD_append]
  interval_cases i <;> simp [BitVec.getLsbD_eq_getElem]

@[simp] theorem WaitcForm.immWaitc_0_6 (o : WaitcForm) : (o.immWaitc).extractLsb' 0 6 = o.thresh := by
  ext i hi
  simp only [WaitcForm.immWaitc, BitVec.getElem_extractLsb', BitVec.getLsbD_append]
  interval_cases i <;> simp [BitVec.getLsbD_eq_getElem]

@[simp] theorem DrainForm.immDrain_12_4 (o : DrainForm) : (o.immDrain).extractLsb' 12 4 = o.ofmt := by
  ext i hi
  simp only [DrainForm.immDrain, BitVec.getElem_extractLsb', BitVec.getLsbD_append]
  interval_cases i <;> simp [BitVec.getLsbD_eq_getElem]

@[simp] theorem DrainForm.immDrain_9_3 (o : DrainForm) : (o.immDrain).extractLsb' 9 3 = o.rb0 := by
  ext i hi
  simp only [DrainForm.immDrain, BitVec.getElem_extractLsb', BitVec.getLsbD_append]
  interval_cases i <;> simp [BitVec.getLsbD_eq_getElem]

@[simp] theorem DrainForm.immDrain_6_3 (o : DrainForm) : (o.immDrain).extractLsb' 6 3 = o.nrb1 := by
  ext i hi
  simp only [DrainForm.immDrain, BitVec.getElem_extractLsb', BitVec.getLsbD_append]
  interval_cases i <;> simp [BitVec.getLsbD_eq_getElem]

@[simp] theorem DrainForm.immDrain_0_6 (o : DrainForm) : (o.immDrain).extractLsb' 0 6 = 0 := by
  ext i hi
  simp only [DrainForm.immDrain, BitVec.getElem_extractLsb', BitVec.getLsbD_append]
  interval_cases i <;> simp [BitVec.getLsbD_eq_getElem]

@[simp] theorem LatchForm.immLatch_5_11 (o : LatchForm) : (o.immLatch).extractLsb' 5 11 = 0 := by
  ext i hi
  simp only [LatchForm.immLatch, BitVec.getElem_extractLsb', BitVec.getLsbD_append]
  interval_cases i <;> simp [BitVec.getLsbD_eq_getElem]

@[simp] theorem LatchForm.immLatch_0_4 (o : LatchForm) : (o.immLatch).extractLsb' 0 4 = o.wfmt := by
  ext i hi
  simp only [LatchForm.immLatch, BitVec.getElem_extractLsb', BitVec.getLsbD_append]
  interval_cases i <;> simp [BitVec.getLsbD_eq_getElem]

@[simp] theorem LatchForm.immLatch_bit4 (o : LatchForm) : (o.immLatch)[4] = o.sp := by
  rw [← BitVec.getLsbD_eq_getElem]
  simp only [LatchForm.immLatch, BitVec.getLsbD_append]
  simp

@[simp] theorem RowsForm.immRows_12_4 (o : RowsForm) : (o.immRows).extractLsb' 12 4 = 0 := by
  ext i hi
  simp only [RowsForm.immRows, BitVec.getElem_extractLsb', BitVec.getLsbD_append]
  interval_cases i <;> simp [BitVec.getLsbD_eq_getElem]

@[simp] theorem RowsForm.immRows_9_3 (o : RowsForm) : (o.immRows).extractLsb' 9 3 = o.rb0 := by
  ext i hi
  simp only [RowsForm.immRows, BitVec.getElem_extractLsb', BitVec.getLsbD_append]
  interval_cases i <;> simp [BitVec.getLsbD_eq_getElem]

@[simp] theorem RowsForm.immRows_6_3 (o : RowsForm) : (o.immRows).extractLsb' 6 3 = o.nrb1 := by
  ext i hi
  simp only [RowsForm.immRows, BitVec.getElem_extractLsb', BitVec.getLsbD_append]
  interval_cases i <;> simp [BitVec.getLsbD_eq_getElem]

@[simp] theorem RowsForm.immRows_0_6 (o : RowsForm) : (o.immRows).extractLsb' 0 6 = 0 := by
  ext i hi
  simp only [RowsForm.immRows, BitVec.getElem_extractLsb', BitVec.getLsbD_append]
  interval_cases i <;> simp [BitVec.getLsbD_eq_getElem]

@[simp] theorem cField_0_7 (c : BitVec 7) : ((0#9 ++ c : W16)).extractLsb' 0 7 = c := by
  ext i hi
  simp only [BitVec.getElem_extractLsb', BitVec.getLsbD_append]
  interval_cases i <;> simp [BitVec.getLsbD_eq_getElem]

@[simp] theorem cField_7_9 (c : BitVec 7) : ((0#9 ++ c : W16)).extractLsb' 7 9 = 0 := by
  ext i hi
  simp only [BitVec.getElem_extractLsb', BitVec.getLsbD_append]
  interval_cases i <;> simp [BitVec.getLsbD_eq_getElem]

@[simp] theorem setWidth16_2_low (x : BitVec 2) : (x.setWidth 16).extractLsb' 0 2 = x := by
  ext i hi
  simp [BitVec.getElem_extractLsb', BitVec.getLsbD_eq_getElem, hi]
  omega

@[simp] theorem setWidth16_2_high (x : BitVec 2) : (x.setWidth 16).extractLsb' 2 14 = 0 := by
  ext i hi
  simp [BitVec.getElem_extractLsb']

@[simp] theorem setWidth16_3_low (x : BitVec 3) : (x.setWidth 16).extractLsb' 0 3 = x := by
  ext i hi
  simp [BitVec.getElem_extractLsb', BitVec.getLsbD_eq_getElem, hi]
  omega

@[simp] theorem setWidth16_3_high (x : BitVec 3) : (x.setWidth 16).extractLsb' 3 13 = 0 := by
  ext i hi
  simp [BitVec.getElem_extractLsb']

@[simp] theorem setWidth16_4_low (x : BitVec 4) : (x.setWidth 16).extractLsb' 0 4 = x := by
  ext i hi
  simp [BitVec.getElem_extractLsb', BitVec.getLsbD_eq_getElem, hi]
  omega

@[simp] theorem setWidth16_4_high (x : BitVec 4) : (x.setWidth 16).extractLsb' 4 12 = 0 := by
  ext i hi
  simp [BitVec.getElem_extractLsb']

@[simp] theorem setWidth16_6_low (x : BitVec 6) : (x.setWidth 16).extractLsb' 0 6 = x := by
  ext i hi
  simp [BitVec.getElem_extractLsb', BitVec.getLsbD_eq_getElem, hi]
  omega

@[simp] theorem setWidth16_6_high (x : BitVec 6) : (x.setWidth 16).extractLsb' 6 10 = 0 := by
  ext i hi
  simp [BitVec.getElem_extractLsb']

@[simp] theorem setWidth16_12_low (x : BitVec 12) : (x.setWidth 16).extractLsb' 0 12 = x := by
  ext i hi
  simp [BitVec.getElem_extractLsb', BitVec.getLsbD_eq_getElem, hi]
  omega

@[simp] theorem setWidth16_12_high (x : BitVec 12) : (x.setWidth 16).extractLsb' 12 4 = 0 := by
  ext i hi
  simp [BitVec.getElem_extractLsb']

@[simp] theorem Scope.code_lt (x : Scope) : (4 < x.code.toNat) = False := by cases x <;> simp [Scope.code]
@[simp] theorem Order.code_lt (x : Order) : (4 < x.code.toNat) = False := by cases x <;> simp [Order.code]
@[simp] theorem Scope.code_zero (x : Scope) : (x.code = 0#3) = (x = .grp) := by cases x <;> simp [Scope.code]
@[simp] theorem mem_allPrec (p : Prec) : p ∈ allPrec := by cases p <;> simp [allPrec]

end Sys2Proof
end

