-- ==== Sys2Proof/Laws/Memory.lean ====
section
/-! SUPPORT. The laws of physical memory (12 R250 to R253, 04 R87): a read after a write under the same tag, and that every operation
keeps the canonical form. -/

namespace Sys2Proof.Machine

theorem Memory.wf_iff (m : Memory) :
    m.wf = true ↔ Table.sorted m.bytes = true ∧ (∀ c ∈ m.bytes, m.tag (lineOf c.1) = 0 → c.2 ≠ 0) ∧
      Table.canonical 0 m.tags = true ∧ Table.canonical false m.poison = true := by
  simp only [Memory.wf, Bool.and_eq_true, List.all_eq_true, Bool.or_eq_true, bne_iff_ne, ne_eq]
  constructor
  · rintro ⟨⟨⟨h1, h2⟩, h3⟩, h4⟩
    exact ⟨h1, fun c hc ht => (h2 c hc).resolve_left (fun h => h ht), h3, h4⟩
  · rintro ⟨h1, h2, h3, h4⟩
    refine ⟨⟨⟨h1, fun c hc => ?_⟩, h3⟩, h4⟩
    by_cases ht : m.tag (lineOf c.1) = 0
    · exact .inr (h2 c hc ht)
    · exact .inl ht

theorem Memory.zero_wf : Memory.zero.wf = true := rfl

/-- Cells taken away leave the form. -/
theorem Memory.wf_filter {m : Memory} (h : m.wf = true) (q : Host.Cell → Bool) (r : Nat × Bool → Bool) :
    Memory.wf { m with bytes := m.bytes.filter q, poison := m.poison.filter r } = true := by
  rw [Memory.wf_iff] at *
  exact ⟨Table.sorted_filter h.1 q, fun c hc => h.2.1 c (List.mem_filter.1 hc).1, h.2.2.1, Table.canonical_filter h.2.2.2 r⟩

theorem Memory.setPoison_wf {m : Memory} (h : m.wf = true) (line : Nat) (b : Bool) : (m.setPoison line b).wf = true := by
  rw [Memory.wf_iff] at *
  exact ⟨h.1, h.2.1, h.2.2.1, Table.canonical_write h.2.2.2 _ _⟩

theorem Memory.tag_retag (m : Memory) (line tag k : Nat) : (m.retag line tag).tag k = if k = line then tag else m.tag k := by
  simp [Memory.retag, Memory.tag, Table.read_write]

theorem Memory.retag_wf {m : Memory} (h : m.wf = true) (line tag : Nat) : (m.retag line tag).wf = true := by
  rw [Memory.wf_iff] at *
  refine ⟨Table.sorted_filter h.1 _, fun c hc => ?_, Table.canonical_write h.2.2.1 _ _, h.2.2.2⟩
  obtain ⟨hc, hl⟩ := List.mem_filter.1 hc
  rw [Memory.tag_retag]
  simp only [bne_iff_ne, ne_eq] at hl
  simpa [hl] using h.2.1 c hc

/-- The memory under which a byte is written: its line under the write's tag. -/
theorem Memory.tag_writeByte (m : Memory) (tag a : Nat) (b : W8) (k : Nat) :
    (m.writeByte tag a b).tag k = if k = lineOf a then tag else m.tag k := by
  by_cases ht : m.tag (lineOf a) = tag
  · have hk : (m.writeByte tag a b).tag k = m.tag k := by
      unfold Memory.writeByte; rw [if_pos ht]; rfl
    rw [hk]
    split
    · rename_i hk; subst hk; exact ht
    · rfl
  · simp only [Memory.writeByte, ht, if_false]
    exact Memory.tag_retag m _ _ _

theorem Memory.writeByte_wf {m : Memory} (h : m.wf = true) (tag a : Nat) (b : W8) : (m.writeByte tag a b).wf = true := by
  have key : ∀ n : Memory, n.wf = true → n.tag (lineOf a) = tag →
      Memory.wf { n with bytes := if tag = 0 then Table.write 0 n.bytes a b else Table.put n.bytes a b } = true := by
    intro n hn ht
    rw [Memory.wf_iff] at *
    refine ⟨?_, ?_, hn.2.2⟩
    · dsimp only
      split
      · unfold Table.write; split
        · exact Table.sorted_erase hn.1 a
        · exact Table.sorted_put hn.1 a b
      · exact Table.sorted_put hn.1 a b
    · intro c hc hz
      dsimp only at hc
      change n.tag (lineOf c.1) = 0 at hz
      split at hc
      · unfold Table.write at hc
        split at hc
        · exact hn.2.1 c (List.mem_filter.1 hc).1 hz
        · rename_i hb
          rcases Table.mem_put hc with rfl | hc
          · exact hb
          · exact hn.2.1 c hc hz
      · rename_i h0
        rcases Table.mem_put hc with rfl | hc
        · exact absurd (ht.symm.trans hz) h0
        · exact hn.2.1 c hc hz
  unfold Memory.writeByte
  split
  · rename_i ht; exact key m h ht
  · refine key _ (Memory.retag_wf h _ _) ?_
    simp [Memory.tag_retag]

theorem Memory.write_wf {m : Memory} (h : m.wf = true) (tag a : Nat) (bs : List W8) : (m.write tag a bs).wf = true := by
  unfold Memory.write
  generalize bs.zip (upTo bs.length) = l
  induction l generalizing m with
  | nil => exact h
  | cons p l ih => exact ih (Memory.writeByte_wf h _ _ _)

theorem Memory.store_wf {m : Memory} (h : m.wf = true) (tag a : Nat) (bs : List W8) : (m.store tag a bs).wf = true := by
  unfold Memory.store
  split
  · exact Memory.setPoison_wf (Memory.write_wf h tag a bs) _ _
  · exact Memory.write_wf h tag a bs

/-! ### Reads after writes -/

/-- A byte just written under a tag is read back under it. -/
theorem Memory.byte_writeByte_self (m : Memory) (tag a : Nat) (b : W8) : (m.writeByte tag a b).byte tag a = b := by
  have ht : (m.writeByte tag a b).tag (lineOf a) = tag := by simp [Memory.tag_writeByte]
  unfold Memory.byte
  rw [if_pos ht]
  unfold Memory.writeByte
  dsimp only
  by_cases h0 : tag = 0
  · subst h0
    by_cases hb : b = 0
    · subst hb; simp [Table.write, Table.get?_erase]
    · have hb' : ¬ b = 0#8 := hb
      simp [Table.write, hb']
  · simp [h0]

/-- Within the line of the write, other bytes keep what they had under the same tag. -/
theorem Memory.byte_writeByte_line (m : Memory) {tag a c : Nat} (b : W8) (hc : c ≠ a) (ht : m.tag (lineOf a) = tag) :
    (m.writeByte tag a b).byte tag c = m.byte tag c := by
  have hk : (m.writeByte tag a b).tag (lineOf c) = m.tag (lineOf c) := by
    rw [Memory.tag_writeByte]; split
    · rename_i e; rw [e, ht]
    · rfl
  have hb : Table.get? (m.writeByte tag a b).bytes c = Table.get? m.bytes c := by
    unfold Memory.writeByte
    simp only [ht, if_true]
    split
    · unfold Table.write; split
      · simp [Table.get?_erase, hc]
      · simp [Table.get?_put, hc]
    · simp [Table.get?_put, hc]
  unfold Memory.byte
  rw [hk, hb]

/-- A write leaves every byte of another line as it was, under every tag. -/
theorem Memory.byte_writeByte_other (m : Memory) (tag t : Nat) {a c : Nat} (b : W8) (hl : lineOf c ≠ lineOf a) :
    (m.writeByte tag a b).byte t c = m.byte t c := by
  have hc : c ≠ a := fun e => hl (e ▸ rfl)
  have hk : (m.writeByte tag a b).tag (lineOf c) = m.tag (lineOf c) := by simp [Memory.tag_writeByte, hl]
  have hb : Table.get? (m.writeByte tag a b).bytes c = Table.get? m.bytes c := by
    have hr : Table.get? (m.retag (lineOf a) tag).bytes c = Table.get? m.bytes c := by
      have := Table.get?_filter_keys m.bytes (fun k => lineOf k != lineOf a) c
      simpa [Memory.retag, hl] using this
    unfold Memory.writeByte
    dsimp only
    split <;> split
    · unfold Table.write; split
      · simp [Table.get?_erase, hc]
      · simp [Table.get?_put, hc]
    · unfold Table.write; split
      · simp [Table.get?_erase, hc, hr]
      · simp [Table.get?_put, hc, hr]
    · simp [Table.get?_put, hc]
    · simp [Table.get?_put, hc, hr]
  unfold Memory.byte
  rw [hk, hb]

/-- A write to lines other than a byte's leaves the byte. -/
theorem Memory.byte_write_other (m : Memory) (tag t a : Nat) (bs : List W8) {c : Nat}
    (h : ∀ j < bs.length, lineOf c ≠ lineOf (a + j)) : (m.write tag a bs).byte t c = m.byte t c := by
  unfold Memory.write
  have key : ∀ (l : List (W8 × Nat)) (m : Memory), (∀ p ∈ l, p.2 < bs.length) →
      (l.foldl (fun m p => m.writeByte tag (a + p.2) p.1) m).byte t c = m.byte t c := by
    intro l
    induction l with
    | nil => intros; rfl
    | cons p l ih =>
      intro m hl
      rw [List.foldl_cons, ih _ (fun q hq => hl q (List.mem_cons_of_mem _ hq))]
      exact Memory.byte_writeByte_other m tag t p.1 (h p.2 (hl p List.mem_cons_self))
  refine key _ m fun p hp => ?_
  have := (List.of_mem_zip hp).2
  simpa [upTo] using this

end Sys2Proof.Machine
end

