-- ==== Sys2Proof/Laws/PerInstr.lean ====
section
/-! SUPPORT. Families of statements made for every instruction. RoundTrip: a well-formed form's fields decode to the form (03 R56 to R71). -/

namespace Sys2Proof

open Machine

section

set_option Elab.async false
set_option linter.unusedSimpArgs false
set_option linter.unusedVariables false
set_option linter.unreachableTactic false
set_option linter.unusedTactic false
set_option linter.unnecessarySeqFocus false

/-- The fields that the encoder gives a well-formed instruction decode to it. -/
def Laws.RoundTrip.Statement (i : Instr) : Prop := i.wellFormed = true → (toRaw i).map decodeRaw = some (.ok i)

theorem Laws.RoundTrip.iadd (o : Form) : Laws.RoundTrip.Statement (.iadd o) := by
  intro h
  obtain ⟨d, a, b, c, m, la, g⟩ := o
  simp [Instr.wellFormed, Form.ok, Form.okA, memOk, pfOk, loadOrder, storeOrder, shuffleOk, scanOk] at h
  simp [toRaw, rawA, decodeRaw, formatOf, Format.len, Raw.body, Raw.finish, Raw.form, firstField, Raw.noD, Raw.noA, Raw.noB, Raw.noC, Raw.zeroImm, Raw.noHi, Raw.noLa, Raw.immBit, Raw.scopeCode, Raw.ordCode, Raw.integer, Raw.intA, Raw.intImm, Raw.int2, Raw.int3, Raw.bitField, h] <;> (repeat' split) <;> simp_all [Prec.code, Order.code, bit1] <;> omega

theorem Laws.RoundTrip.isub (o : Form) : Laws.RoundTrip.Statement (.isub o) := by
  intro h
  obtain ⟨d, a, b, c, m, la, g⟩ := o
  simp [Instr.wellFormed, Form.ok, Form.okA, memOk, pfOk, loadOrder, storeOrder, shuffleOk, scanOk] at h
  simp [toRaw, rawA, decodeRaw, formatOf, Format.len, Raw.body, Raw.finish, Raw.form, firstField, Raw.noD, Raw.noA, Raw.noB, Raw.noC, Raw.zeroImm, Raw.noHi, Raw.noLa, Raw.immBit, Raw.scopeCode, Raw.ordCode, Raw.integer, Raw.intA, Raw.intImm, Raw.int2, Raw.int3, Raw.bitField, h] <;> (repeat' split) <;> simp_all [Prec.code, Order.code, bit1] <;> omega

theorem Laws.RoundTrip.imul (o : Form) : Laws.RoundTrip.Statement (.imul o) := by
  intro h
  obtain ⟨d, a, b, c, m, la, g⟩ := o
  simp [Instr.wellFormed, Form.ok, Form.okA, memOk, pfOk, loadOrder, storeOrder, shuffleOk, scanOk] at h
  simp [toRaw, rawA, decodeRaw, formatOf, Format.len, Raw.body, Raw.finish, Raw.form, firstField, Raw.noD, Raw.noA, Raw.noB, Raw.noC, Raw.zeroImm, Raw.noHi, Raw.noLa, Raw.immBit, Raw.scopeCode, Raw.ordCode, Raw.integer, Raw.intA, Raw.intImm, Raw.int2, Raw.int3, Raw.bitField, h] <;> (repeat' split) <;> simp_all [Prec.code, Order.code, bit1] <;> omega

theorem Laws.RoundTrip.and (o : Form) : Laws.RoundTrip.Statement (.and o) := by
  intro h
  obtain ⟨d, a, b, c, m, la, g⟩ := o
  simp [Instr.wellFormed, Form.ok, Form.okA, memOk, pfOk, loadOrder, storeOrder, shuffleOk, scanOk] at h
  simp [toRaw, rawA, decodeRaw, formatOf, Format.len, Raw.body, Raw.finish, Raw.form, firstField, Raw.noD, Raw.noA, Raw.noB, Raw.noC, Raw.zeroImm, Raw.noHi, Raw.noLa, Raw.immBit, Raw.scopeCode, Raw.ordCode, Raw.integer, Raw.intA, Raw.intImm, Raw.int2, Raw.int3, Raw.bitField, h] <;> (repeat' split) <;> simp_all [Prec.code, Order.code, bit1] <;> omega

theorem Laws.RoundTrip.or (o : Form) : Laws.RoundTrip.Statement (.or o) := by
  intro h
  obtain ⟨d, a, b, c, m, la, g⟩ := o
  simp [Instr.wellFormed, Form.ok, Form.okA, memOk, pfOk, loadOrder, storeOrder, shuffleOk, scanOk] at h
  simp [toRaw, rawA, decodeRaw, formatOf, Format.len, Raw.body, Raw.finish, Raw.form, firstField, Raw.noD, Raw.noA, Raw.noB, Raw.noC, Raw.zeroImm, Raw.noHi, Raw.noLa, Raw.immBit, Raw.scopeCode, Raw.ordCode, Raw.integer, Raw.intA, Raw.intImm, Raw.int2, Raw.int3, Raw.bitField, h] <;> (repeat' split) <;> simp_all [Prec.code, Order.code, bit1] <;> omega

theorem Laws.RoundTrip.xor (o : Form) : Laws.RoundTrip.Statement (.xor o) := by
  intro h
  obtain ⟨d, a, b, c, m, la, g⟩ := o
  simp [Instr.wellFormed, Form.ok, Form.okA, memOk, pfOk, loadOrder, storeOrder, shuffleOk, scanOk] at h
  simp [toRaw, rawA, decodeRaw, formatOf, Format.len, Raw.body, Raw.finish, Raw.form, firstField, Raw.noD, Raw.noA, Raw.noB, Raw.noC, Raw.zeroImm, Raw.noHi, Raw.noLa, Raw.immBit, Raw.scopeCode, Raw.ordCode, Raw.integer, Raw.intA, Raw.intImm, Raw.int2, Raw.int3, Raw.bitField, h] <;> (repeat' split) <;> simp_all [Prec.code, Order.code, bit1] <;> omega

theorem Laws.RoundTrip.shl (o : Form) : Laws.RoundTrip.Statement (.shl o) := by
  intro h
  obtain ⟨d, a, b, c, m, la, g⟩ := o
  simp [Instr.wellFormed, Form.ok, Form.okA, memOk, pfOk, loadOrder, storeOrder, shuffleOk, scanOk] at h
  simp [toRaw, rawA, decodeRaw, formatOf, Format.len, Raw.body, Raw.finish, Raw.form, firstField, Raw.noD, Raw.noA, Raw.noB, Raw.noC, Raw.zeroImm, Raw.noHi, Raw.noLa, Raw.immBit, Raw.scopeCode, Raw.ordCode, Raw.integer, Raw.intA, Raw.intImm, Raw.int2, Raw.int3, Raw.bitField, h] <;> (repeat' split) <;> simp_all [Prec.code, Order.code, bit1] <;> omega

theorem Laws.RoundTrip.shr (o : Form) : Laws.RoundTrip.Statement (.shr o) := by
  intro h
  obtain ⟨d, a, b, c, m, la, g⟩ := o
  simp [Instr.wellFormed, Form.ok, Form.okA, memOk, pfOk, loadOrder, storeOrder, shuffleOk, scanOk] at h
  simp [toRaw, rawA, decodeRaw, formatOf, Format.len, Raw.body, Raw.finish, Raw.form, firstField, Raw.noD, Raw.noA, Raw.noB, Raw.noC, Raw.zeroImm, Raw.noHi, Raw.noLa, Raw.immBit, Raw.scopeCode, Raw.ordCode, Raw.integer, Raw.intA, Raw.intImm, Raw.int2, Raw.int3, Raw.bitField, h] <;> (repeat' split) <;> simp_all [Prec.code, Order.code, bit1] <;> omega

theorem Laws.RoundTrip.sar (o : Form) : Laws.RoundTrip.Statement (.sar o) := by
  intro h
  obtain ⟨d, a, b, c, m, la, g⟩ := o
  simp [Instr.wellFormed, Form.ok, Form.okA, memOk, pfOk, loadOrder, storeOrder, shuffleOk, scanOk] at h
  simp [toRaw, rawA, decodeRaw, formatOf, Format.len, Raw.body, Raw.finish, Raw.form, firstField, Raw.noD, Raw.noA, Raw.noB, Raw.noC, Raw.zeroImm, Raw.noHi, Raw.noLa, Raw.immBit, Raw.scopeCode, Raw.ordCode, Raw.integer, Raw.intA, Raw.intImm, Raw.int2, Raw.int3, Raw.bitField, h] <;> (repeat' split) <;> simp_all [Prec.code, Order.code, bit1] <;> omega

theorem Laws.RoundTrip.imin (o : Form) : Laws.RoundTrip.Statement (.imin o) := by
  intro h
  obtain ⟨d, a, b, c, m, la, g⟩ := o
  simp [Instr.wellFormed, Form.ok, Form.okA, memOk, pfOk, loadOrder, storeOrder, shuffleOk, scanOk] at h
  simp [toRaw, rawA, decodeRaw, formatOf, Format.len, Raw.body, Raw.finish, Raw.form, firstField, Raw.noD, Raw.noA, Raw.noB, Raw.noC, Raw.zeroImm, Raw.noHi, Raw.noLa, Raw.immBit, Raw.scopeCode, Raw.ordCode, Raw.integer, Raw.intA, Raw.intImm, Raw.int2, Raw.int3, Raw.bitField, h] <;> (repeat' split) <;> simp_all [Prec.code, Order.code, bit1] <;> omega

theorem Laws.RoundTrip.imax (o : Form) : Laws.RoundTrip.Statement (.imax o) := by
  intro h
  obtain ⟨d, a, b, c, m, la, g⟩ := o
  simp [Instr.wellFormed, Form.ok, Form.okA, memOk, pfOk, loadOrder, storeOrder, shuffleOk, scanOk] at h
  simp [toRaw, rawA, decodeRaw, formatOf, Format.len, Raw.body, Raw.finish, Raw.form, firstField, Raw.noD, Raw.noA, Raw.noB, Raw.noC, Raw.zeroImm, Raw.noHi, Raw.noLa, Raw.immBit, Raw.scopeCode, Raw.ordCode, Raw.integer, Raw.intA, Raw.intImm, Raw.int2, Raw.int3, Raw.bitField, h] <;> (repeat' split) <;> simp_all [Prec.code, Order.code, bit1] <;> omega

theorem Laws.RoundTrip.umin (o : Form) : Laws.RoundTrip.Statement (.umin o) := by
  intro h
  obtain ⟨d, a, b, c, m, la, g⟩ := o
  simp [Instr.wellFormed, Form.ok, Form.okA, memOk, pfOk, loadOrder, storeOrder, shuffleOk, scanOk] at h
  simp [toRaw, rawA, decodeRaw, formatOf, Format.len, Raw.body, Raw.finish, Raw.form, firstField, Raw.noD, Raw.noA, Raw.noB, Raw.noC, Raw.zeroImm, Raw.noHi, Raw.noLa, Raw.immBit, Raw.scopeCode, Raw.ordCode, Raw.integer, Raw.intA, Raw.intImm, Raw.int2, Raw.int3, Raw.bitField, h] <;> (repeat' split) <;> simp_all [Prec.code, Order.code, bit1] <;> omega

theorem Laws.RoundTrip.umax (o : Form) : Laws.RoundTrip.Statement (.umax o) := by
  intro h
  obtain ⟨d, a, b, c, m, la, g⟩ := o
  simp [Instr.wellFormed, Form.ok, Form.okA, memOk, pfOk, loadOrder, storeOrder, shuffleOk, scanOk] at h
  simp [toRaw, rawA, decodeRaw, formatOf, Format.len, Raw.body, Raw.finish, Raw.form, firstField, Raw.noD, Raw.noA, Raw.noB, Raw.noC, Raw.zeroImm, Raw.noHi, Raw.noLa, Raw.immBit, Raw.scopeCode, Raw.ordCode, Raw.integer, Raw.intA, Raw.intImm, Raw.int2, Raw.int3, Raw.bitField, h] <;> (repeat' split) <;> simp_all [Prec.code, Order.code, bit1] <;> omega

theorem Laws.RoundTrip.iaddsat (o : Form) : Laws.RoundTrip.Statement (.iaddsat o) := by
  intro h
  obtain ⟨d, a, b, c, m, la, g⟩ := o
  simp [Instr.wellFormed, Form.ok, Form.okA, memOk, pfOk, loadOrder, storeOrder, shuffleOk, scanOk] at h
  simp [toRaw, rawA, decodeRaw, formatOf, Format.len, Raw.body, Raw.finish, Raw.form, firstField, Raw.noD, Raw.noA, Raw.noB, Raw.noC, Raw.zeroImm, Raw.noHi, Raw.noLa, Raw.immBit, Raw.scopeCode, Raw.ordCode, Raw.integer, Raw.intA, Raw.intImm, Raw.int2, Raw.int3, Raw.bitField, h] <;> (repeat' split) <;> simp_all [Prec.code, Order.code, bit1] <;> omega

theorem Laws.RoundTrip.isubsat (o : Form) : Laws.RoundTrip.Statement (.isubsat o) := by
  intro h
  obtain ⟨d, a, b, c, m, la, g⟩ := o
  simp [Instr.wellFormed, Form.ok, Form.okA, memOk, pfOk, loadOrder, storeOrder, shuffleOk, scanOk] at h
  simp [toRaw, rawA, decodeRaw, formatOf, Format.len, Raw.body, Raw.finish, Raw.form, firstField, Raw.noD, Raw.noA, Raw.noB, Raw.noC, Raw.zeroImm, Raw.noHi, Raw.noLa, Raw.immBit, Raw.scopeCode, Raw.ordCode, Raw.integer, Raw.intA, Raw.intImm, Raw.int2, Raw.int3, Raw.bitField, h] <;> (repeat' split) <;> simp_all [Prec.code, Order.code, bit1] <;> omega

theorem Laws.RoundTrip.iaddi (o : ImmForm) : Laws.RoundTrip.Statement (.iaddi o) := by
  intro h
  obtain ⟨⟨d, a, b, c, m, la, g⟩, imm⟩ := o
  simp [Instr.wellFormed, Form.ok, Form.okA, memOk, pfOk, loadOrder, storeOrder, shuffleOk, scanOk] at h
  simp [toRaw, rawB, decodeRaw, formatOf, Format.len, Raw.body, Raw.finish, Raw.form, firstField, Raw.noD, Raw.noA, Raw.noB, Raw.noC, Raw.zeroImm, Raw.noHi, Raw.noLa, Raw.immBit, Raw.scopeCode, Raw.ordCode, Raw.integer, Raw.intA, Raw.intImm, Raw.int2, Raw.int3, Raw.bitField, h] <;> (repeat' split) <;> simp_all [Prec.code, Order.code, bit1] <;> omega

theorem Laws.RoundTrip.andi (o : ImmForm) : Laws.RoundTrip.Statement (.andi o) := by
  intro h
  obtain ⟨⟨d, a, b, c, m, la, g⟩, imm⟩ := o
  simp [Instr.wellFormed, Form.ok, Form.okA, memOk, pfOk, loadOrder, storeOrder, shuffleOk, scanOk] at h
  simp [toRaw, rawB, decodeRaw, formatOf, Format.len, Raw.body, Raw.finish, Raw.form, firstField, Raw.noD, Raw.noA, Raw.noB, Raw.noC, Raw.zeroImm, Raw.noHi, Raw.noLa, Raw.immBit, Raw.scopeCode, Raw.ordCode, Raw.integer, Raw.intA, Raw.intImm, Raw.int2, Raw.int3, Raw.bitField, h] <;> (repeat' split) <;> simp_all [Prec.code, Order.code, bit1] <;> omega

theorem Laws.RoundTrip.ori (o : ImmForm) : Laws.RoundTrip.Statement (.ori o) := by
  intro h
  obtain ⟨⟨d, a, b, c, m, la, g⟩, imm⟩ := o
  simp [Instr.wellFormed, Form.ok, Form.okA, memOk, pfOk, loadOrder, storeOrder, shuffleOk, scanOk] at h
  simp [toRaw, rawB, decodeRaw, formatOf, Format.len, Raw.body, Raw.finish, Raw.form, firstField, Raw.noD, Raw.noA, Raw.noB, Raw.noC, Raw.zeroImm, Raw.noHi, Raw.noLa, Raw.immBit, Raw.scopeCode, Raw.ordCode, Raw.integer, Raw.intA, Raw.intImm, Raw.int2, Raw.int3, Raw.bitField, h] <;> (repeat' split) <;> simp_all [Prec.code, Order.code, bit1] <;> omega

theorem Laws.RoundTrip.xori (o : ImmForm) : Laws.RoundTrip.Statement (.xori o) := by
  intro h
  obtain ⟨⟨d, a, b, c, m, la, g⟩, imm⟩ := o
  simp [Instr.wellFormed, Form.ok, Form.okA, memOk, pfOk, loadOrder, storeOrder, shuffleOk, scanOk] at h
  simp [toRaw, rawB, decodeRaw, formatOf, Format.len, Raw.body, Raw.finish, Raw.form, firstField, Raw.noD, Raw.noA, Raw.noB, Raw.noC, Raw.zeroImm, Raw.noHi, Raw.noLa, Raw.immBit, Raw.scopeCode, Raw.ordCode, Raw.integer, Raw.intA, Raw.intImm, Raw.int2, Raw.int3, Raw.bitField, h] <;> (repeat' split) <;> simp_all [Prec.code, Order.code, bit1] <;> omega

theorem Laws.RoundTrip.shli (o : ImmForm) : Laws.RoundTrip.Statement (.shli o) := by
  intro h
  obtain ⟨⟨d, a, b, c, m, la, g⟩, imm⟩ := o
  simp [Instr.wellFormed, Form.ok, Form.okA, memOk, pfOk, loadOrder, storeOrder, shuffleOk, scanOk] at h
  simp [toRaw, rawB, decodeRaw, formatOf, Format.len, Raw.body, Raw.finish, Raw.form, firstField, Raw.noD, Raw.noA, Raw.noB, Raw.noC, Raw.zeroImm, Raw.noHi, Raw.noLa, Raw.immBit, Raw.scopeCode, Raw.ordCode, Raw.integer, Raw.intA, Raw.intImm, Raw.int2, Raw.int3, Raw.bitField, h] <;> (repeat' split) <;> simp_all [Prec.code, Order.code, bit1] <;> omega

theorem Laws.RoundTrip.shri (o : ImmForm) : Laws.RoundTrip.Statement (.shri o) := by
  intro h
  obtain ⟨⟨d, a, b, c, m, la, g⟩, imm⟩ := o
  simp [Instr.wellFormed, Form.ok, Form.okA, memOk, pfOk, loadOrder, storeOrder, shuffleOk, scanOk] at h
  simp [toRaw, rawB, decodeRaw, formatOf, Format.len, Raw.body, Raw.finish, Raw.form, firstField, Raw.noD, Raw.noA, Raw.noB, Raw.noC, Raw.zeroImm, Raw.noHi, Raw.noLa, Raw.immBit, Raw.scopeCode, Raw.ordCode, Raw.integer, Raw.intA, Raw.intImm, Raw.int2, Raw.int3, Raw.bitField, h] <;> (repeat' split) <;> simp_all [Prec.code, Order.code, bit1] <;> omega

theorem Laws.RoundTrip.sari (o : ImmForm) : Laws.RoundTrip.Statement (.sari o) := by
  intro h
  obtain ⟨⟨d, a, b, c, m, la, g⟩, imm⟩ := o
  simp [Instr.wellFormed, Form.ok, Form.okA, memOk, pfOk, loadOrder, storeOrder, shuffleOk, scanOk] at h
  simp [toRaw, rawB, decodeRaw, formatOf, Format.len, Raw.body, Raw.finish, Raw.form, firstField, Raw.noD, Raw.noA, Raw.noB, Raw.noC, Raw.zeroImm, Raw.noHi, Raw.noLa, Raw.immBit, Raw.scopeCode, Raw.ordCode, Raw.integer, Raw.intA, Raw.intImm, Raw.int2, Raw.int3, Raw.bitField, h] <;> (repeat' split) <;> simp_all [Prec.code, Order.code, bit1] <;> omega

theorem Laws.RoundTrip.icmp (o : CmpForm) : Laws.RoundTrip.Statement (.icmp o) := by
  intro h
  obtain ⟨⟨d, a, b, c, m, la, g⟩, cond⟩ := o
  simp [Instr.wellFormed, Form.ok, Form.okA, memOk, pfOk, loadOrder, storeOrder, shuffleOk, scanOk] at h
  simp [toRaw, rawB, decodeRaw, formatOf, Format.len, Raw.body, Raw.finish, Raw.form, firstField, Raw.noD, Raw.noA, Raw.noB, Raw.noC, Raw.zeroImm, Raw.noHi, Raw.noLa, Raw.immBit, Raw.scopeCode, Raw.ordCode, Raw.integer, Raw.intA, Raw.intImm, Raw.int2, Raw.int3, Raw.bitField, h] <;> (repeat' split) <;> simp_all [Prec.code, Order.code, bit1] <;> omega

theorem Laws.RoundTrip.imulhi (o : Form) : Laws.RoundTrip.Statement (.imulhi o) := by
  intro h
  obtain ⟨d, a, b, c, m, la, g⟩ := o
  simp [Instr.wellFormed, Form.ok, Form.okA, memOk, pfOk, loadOrder, storeOrder, shuffleOk, scanOk] at h
  simp [toRaw, rawB, decodeRaw, formatOf, Format.len, Raw.body, Raw.finish, Raw.form, firstField, Raw.noD, Raw.noA, Raw.noB, Raw.noC, Raw.zeroImm, Raw.noHi, Raw.noLa, Raw.immBit, Raw.scopeCode, Raw.ordCode, Raw.integer, Raw.intA, Raw.intImm, Raw.int2, Raw.int3, Raw.bitField, h] <;> (repeat' split) <;> simp_all [Prec.code, Order.code, bit1] <;> omega

theorem Laws.RoundTrip.umulhi (o : Form) : Laws.RoundTrip.Statement (.umulhi o) := by
  intro h
  obtain ⟨d, a, b, c, m, la, g⟩ := o
  simp [Instr.wellFormed, Form.ok, Form.okA, memOk, pfOk, loadOrder, storeOrder, shuffleOk, scanOk] at h
  simp [toRaw, rawB, decodeRaw, formatOf, Format.len, Raw.body, Raw.finish, Raw.form, firstField, Raw.noD, Raw.noA, Raw.noB, Raw.noC, Raw.zeroImm, Raw.noHi, Raw.noLa, Raw.immBit, Raw.scopeCode, Raw.ordCode, Raw.integer, Raw.intA, Raw.intImm, Raw.int2, Raw.int3, Raw.bitField, h] <;> (repeat' split) <;> simp_all [Prec.code, Order.code, bit1] <;> omega

theorem Laws.RoundTrip.idiv (o : Form) : Laws.RoundTrip.Statement (.idiv o) := by
  intro h
  obtain ⟨d, a, b, c, m, la, g⟩ := o
  simp [Instr.wellFormed, Form.ok, Form.okA, memOk, pfOk, loadOrder, storeOrder, shuffleOk, scanOk] at h
  simp [toRaw, rawB, decodeRaw, formatOf, Format.len, Raw.body, Raw.finish, Raw.form, firstField, Raw.noD, Raw.noA, Raw.noB, Raw.noC, Raw.zeroImm, Raw.noHi, Raw.noLa, Raw.immBit, Raw.scopeCode, Raw.ordCode, Raw.integer, Raw.intA, Raw.intImm, Raw.int2, Raw.int3, Raw.bitField, h] <;> (repeat' split) <;> simp_all [Prec.code, Order.code, bit1] <;> omega

theorem Laws.RoundTrip.udiv (o : Form) : Laws.RoundTrip.Statement (.udiv o) := by
  intro h
  obtain ⟨d, a, b, c, m, la, g⟩ := o
  simp [Instr.wellFormed, Form.ok, Form.okA, memOk, pfOk, loadOrder, storeOrder, shuffleOk, scanOk] at h
  simp [toRaw, rawB, decodeRaw, formatOf, Format.len, Raw.body, Raw.finish, Raw.form, firstField, Raw.noD, Raw.noA, Raw.noB, Raw.noC, Raw.zeroImm, Raw.noHi, Raw.noLa, Raw.immBit, Raw.scopeCode, Raw.ordCode, Raw.integer, Raw.intA, Raw.intImm, Raw.int2, Raw.int3, Raw.bitField, h] <;> (repeat' split) <;> simp_all [Prec.code, Order.code, bit1] <;> omega

theorem Laws.RoundTrip.irem (o : Form) : Laws.RoundTrip.Statement (.irem o) := by
  intro h
  obtain ⟨d, a, b, c, m, la, g⟩ := o
  simp [Instr.wellFormed, Form.ok, Form.okA, memOk, pfOk, loadOrder, storeOrder, shuffleOk, scanOk] at h
  simp [toRaw, rawB, decodeRaw, formatOf, Format.len, Raw.body, Raw.finish, Raw.form, firstField, Raw.noD, Raw.noA, Raw.noB, Raw.noC, Raw.zeroImm, Raw.noHi, Raw.noLa, Raw.immBit, Raw.scopeCode, Raw.ordCode, Raw.integer, Raw.intA, Raw.intImm, Raw.int2, Raw.int3, Raw.bitField, h] <;> (repeat' split) <;> simp_all [Prec.code, Order.code, bit1] <;> omega

theorem Laws.RoundTrip.urem (o : Form) : Laws.RoundTrip.Statement (.urem o) := by
  intro h
  obtain ⟨d, a, b, c, m, la, g⟩ := o
  simp [Instr.wellFormed, Form.ok, Form.okA, memOk, pfOk, loadOrder, storeOrder, shuffleOk, scanOk] at h
  simp [toRaw, rawB, decodeRaw, formatOf, Format.len, Raw.body, Raw.finish, Raw.form, firstField, Raw.noD, Raw.noA, Raw.noB, Raw.noC, Raw.zeroImm, Raw.noHi, Raw.noLa, Raw.immBit, Raw.scopeCode, Raw.ordCode, Raw.integer, Raw.intA, Raw.intImm, Raw.int2, Raw.int3, Raw.bitField, h] <;> (repeat' split) <;> simp_all [Prec.code, Order.code, bit1] <;> omega

theorem Laws.RoundTrip.popc (o : Form) : Laws.RoundTrip.Statement (.popc o) := by
  intro h
  obtain ⟨d, a, b, c, m, la, g⟩ := o
  simp [Instr.wellFormed, Form.ok, Form.okA, memOk, pfOk, loadOrder, storeOrder, shuffleOk, scanOk] at h
  simp [toRaw, rawB, decodeRaw, formatOf, Format.len, Raw.body, Raw.finish, Raw.form, firstField, Raw.noD, Raw.noA, Raw.noB, Raw.noC, Raw.zeroImm, Raw.noHi, Raw.noLa, Raw.immBit, Raw.scopeCode, Raw.ordCode, Raw.integer, Raw.intA, Raw.intImm, Raw.int2, Raw.int3, Raw.bitField, h] <;> (repeat' split) <;> simp_all [Prec.code, Order.code, bit1] <;> omega

theorem Laws.RoundTrip.clz (o : Form) : Laws.RoundTrip.Statement (.clz o) := by
  intro h
  obtain ⟨d, a, b, c, m, la, g⟩ := o
  simp [Instr.wellFormed, Form.ok, Form.okA, memOk, pfOk, loadOrder, storeOrder, shuffleOk, scanOk] at h
  simp [toRaw, rawB, decodeRaw, formatOf, Format.len, Raw.body, Raw.finish, Raw.form, firstField, Raw.noD, Raw.noA, Raw.noB, Raw.noC, Raw.zeroImm, Raw.noHi, Raw.noLa, Raw.immBit, Raw.scopeCode, Raw.ordCode, Raw.integer, Raw.intA, Raw.intImm, Raw.int2, Raw.int3, Raw.bitField, h] <;> (repeat' split) <;> simp_all [Prec.code, Order.code, bit1] <;> omega

theorem Laws.RoundTrip.brev (o : Form) : Laws.RoundTrip.Statement (.brev o) := by
  intro h
  obtain ⟨d, a, b, c, m, la, g⟩ := o
  simp [Instr.wellFormed, Form.ok, Form.okA, memOk, pfOk, loadOrder, storeOrder, shuffleOk, scanOk] at h
  simp [toRaw, rawB, decodeRaw, formatOf, Format.len, Raw.body, Raw.finish, Raw.form, firstField, Raw.noD, Raw.noA, Raw.noB, Raw.noC, Raw.zeroImm, Raw.noHi, Raw.noLa, Raw.immBit, Raw.scopeCode, Raw.ordCode, Raw.integer, Raw.intA, Raw.intImm, Raw.int2, Raw.int3, Raw.bitField, h] <;> (repeat' split) <;> simp_all [Prec.code, Order.code, bit1] <;> omega

theorem Laws.RoundTrip.bfe (o : BitsForm) : Laws.RoundTrip.Statement (.bfe o) := by
  intro h
  obtain ⟨⟨d, a, b, c, m, la, g⟩, pos, len⟩ := o
  simp [Instr.wellFormed, Form.ok, Form.okA, memOk, pfOk, loadOrder, storeOrder, shuffleOk, scanOk] at h
  simp [toRaw, rawB, decodeRaw, formatOf, Format.len, Raw.body, Raw.finish, Raw.form, firstField, Raw.noD, Raw.noA, Raw.noB, Raw.noC, Raw.zeroImm, Raw.noHi, Raw.noLa, Raw.immBit, Raw.scopeCode, Raw.ordCode, Raw.integer, Raw.intA, Raw.intImm, Raw.int2, Raw.int3, Raw.bitField, h] <;> (repeat' split) <;> simp_all [Prec.code, Order.code, bit1] <;> omega

theorem Laws.RoundTrip.bfes (o : BitsForm) : Laws.RoundTrip.Statement (.bfes o) := by
  intro h
  obtain ⟨⟨d, a, b, c, m, la, g⟩, pos, len⟩ := o
  simp [Instr.wellFormed, Form.ok, Form.okA, memOk, pfOk, loadOrder, storeOrder, shuffleOk, scanOk] at h
  simp [toRaw, rawB, decodeRaw, formatOf, Format.len, Raw.body, Raw.finish, Raw.form, firstField, Raw.noD, Raw.noA, Raw.noB, Raw.noC, Raw.zeroImm, Raw.noHi, Raw.noLa, Raw.immBit, Raw.scopeCode, Raw.ordCode, Raw.integer, Raw.intA, Raw.intImm, Raw.int2, Raw.int3, Raw.bitField, h] <;> (repeat' split) <;> simp_all [Prec.code, Order.code, bit1] <;> omega

theorem Laws.RoundTrip.bfi (o : BitsForm) : Laws.RoundTrip.Statement (.bfi o) := by
  intro h
  obtain ⟨⟨d, a, b, c, m, la, g⟩, pos, len⟩ := o
  simp [Instr.wellFormed, Form.ok, Form.okA, memOk, pfOk, loadOrder, storeOrder, shuffleOk, scanOk] at h
  simp [toRaw, rawB, decodeRaw, formatOf, Format.len, Raw.body, Raw.finish, Raw.form, firstField, Raw.noD, Raw.noA, Raw.noB, Raw.noC, Raw.zeroImm, Raw.noHi, Raw.noLa, Raw.immBit, Raw.scopeCode, Raw.ordCode, Raw.integer, Raw.intA, Raw.intImm, Raw.int2, Raw.int3, Raw.bitField, h] <;> (repeat' split) <;> simp_all [Prec.code, Order.code, bit1] <;> omega

theorem Laws.RoundTrip.sel (o : Form) : Laws.RoundTrip.Statement (.sel o) := by
  intro h
  obtain ⟨d, a, b, c, m, la, g⟩ := o
  simp [Instr.wellFormed, Form.ok, Form.okA, memOk, pfOk, loadOrder, storeOrder, shuffleOk, scanOk] at h
  simp [toRaw, rawB, rawC, decodeRaw, formatOf, Format.len, Raw.body, Raw.finish, Raw.form, firstField, Raw.noD, Raw.noA, Raw.noB, Raw.noC, Raw.zeroImm, Raw.noHi, Raw.noLa, Raw.immBit, Raw.scopeCode, Raw.ordCode, Raw.integer, Raw.intA, Raw.intImm, Raw.int2, Raw.int3, Raw.bitField, h] <;> (repeat' split) <;> simp_all [Prec.code, Order.code, bit1] <;> omega

theorem Laws.RoundTrip.imad (o : Form) : Laws.RoundTrip.Statement (.imad o) := by
  intro h
  obtain ⟨d, a, b, c, m, la, g⟩ := o
  simp [Instr.wellFormed, Form.ok, Form.okA, memOk, pfOk, loadOrder, storeOrder, shuffleOk, scanOk] at h
  simp [toRaw, rawB, rawC, decodeRaw, formatOf, Format.len, Raw.body, Raw.finish, Raw.form, firstField, Raw.noD, Raw.noA, Raw.noB, Raw.noC, Raw.zeroImm, Raw.noHi, Raw.noLa, Raw.immBit, Raw.scopeCode, Raw.ordCode, Raw.integer, Raw.intA, Raw.intImm, Raw.int2, Raw.int3, Raw.bitField, h] <;> (repeat' split) <;> simp_all [Prec.code, Order.code, bit1] <;> omega

theorem Laws.RoundTrip.addc (o : Form) : Laws.RoundTrip.Statement (.addc o) := by
  intro h
  obtain ⟨d, a, b, c, m, la, g⟩ := o
  simp [Instr.wellFormed, Form.ok, Form.okA, memOk, pfOk, loadOrder, storeOrder, shuffleOk, scanOk] at h
  simp [toRaw, rawB, rawC, decodeRaw, formatOf, Format.len, Raw.body, Raw.finish, Raw.form, firstField, Raw.noD, Raw.noA, Raw.noB, Raw.noC, Raw.zeroImm, Raw.noHi, Raw.noLa, Raw.immBit, Raw.scopeCode, Raw.ordCode, Raw.integer, Raw.intA, Raw.intImm, Raw.int2, Raw.int3, Raw.bitField, h] <;> (repeat' split) <;> simp_all [Prec.code, Order.code, bit1] <;> omega

theorem Laws.RoundTrip.subb (o : Form) : Laws.RoundTrip.Statement (.subb o) := by
  intro h
  obtain ⟨d, a, b, c, m, la, g⟩ := o
  simp [Instr.wellFormed, Form.ok, Form.okA, memOk, pfOk, loadOrder, storeOrder, shuffleOk, scanOk] at h
  simp [toRaw, rawB, rawC, decodeRaw, formatOf, Format.len, Raw.body, Raw.finish, Raw.form, firstField, Raw.noD, Raw.noA, Raw.noB, Raw.noC, Raw.zeroImm, Raw.noHi, Raw.noLa, Raw.immBit, Raw.scopeCode, Raw.ordCode, Raw.integer, Raw.intA, Raw.intImm, Raw.int2, Raw.int3, Raw.bitField, h] <;> (repeat' split) <;> simp_all [Prec.code, Order.code, bit1] <;> omega

theorem Laws.RoundTrip.iadd64 (o : Form) : Laws.RoundTrip.Statement (.iadd64 o) := by
  intro h
  obtain ⟨d, a, b, c, m, la, g⟩ := o
  simp [Instr.wellFormed, Form.ok, Form.okA, memOk, pfOk, loadOrder, storeOrder, shuffleOk, scanOk] at h
  simp [toRaw, rawB, decodeRaw, formatOf, Format.len, Raw.body, Raw.finish, Raw.form, firstField, Raw.noD, Raw.noA, Raw.noB, Raw.noC, Raw.zeroImm, Raw.noHi, Raw.noLa, Raw.immBit, Raw.scopeCode, Raw.ordCode, Raw.integer, Raw.intA, Raw.intImm, Raw.int2, Raw.int3, Raw.bitField, h] <;> (repeat' split) <;> simp_all [Prec.code, Order.code, bit1] <;> omega

theorem Laws.RoundTrip.isub64 (o : Form) : Laws.RoundTrip.Statement (.isub64 o) := by
  intro h
  obtain ⟨d, a, b, c, m, la, g⟩ := o
  simp [Instr.wellFormed, Form.ok, Form.okA, memOk, pfOk, loadOrder, storeOrder, shuffleOk, scanOk] at h
  simp [toRaw, rawB, decodeRaw, formatOf, Format.len, Raw.body, Raw.finish, Raw.form, firstField, Raw.noD, Raw.noA, Raw.noB, Raw.noC, Raw.zeroImm, Raw.noHi, Raw.noLa, Raw.immBit, Raw.scopeCode, Raw.ordCode, Raw.integer, Raw.intA, Raw.intImm, Raw.int2, Raw.int3, Raw.bitField, h] <;> (repeat' split) <;> simp_all [Prec.code, Order.code, bit1] <;> omega

theorem Laws.RoundTrip.shl64 (o : Form) : Laws.RoundTrip.Statement (.shl64 o) := by
  intro h
  obtain ⟨d, a, b, c, m, la, g⟩ := o
  simp [Instr.wellFormed, Form.ok, Form.okA, memOk, pfOk, loadOrder, storeOrder, shuffleOk, scanOk] at h
  simp [toRaw, rawB, decodeRaw, formatOf, Format.len, Raw.body, Raw.finish, Raw.form, firstField, Raw.noD, Raw.noA, Raw.noB, Raw.noC, Raw.zeroImm, Raw.noHi, Raw.noLa, Raw.immBit, Raw.scopeCode, Raw.ordCode, Raw.integer, Raw.intA, Raw.intImm, Raw.int2, Raw.int3, Raw.bitField, h] <;> (repeat' split) <;> simp_all [Prec.code, Order.code, bit1] <;> omega

theorem Laws.RoundTrip.shr64 (o : Form) : Laws.RoundTrip.Statement (.shr64 o) := by
  intro h
  obtain ⟨d, a, b, c, m, la, g⟩ := o
  simp [Instr.wellFormed, Form.ok, Form.okA, memOk, pfOk, loadOrder, storeOrder, shuffleOk, scanOk] at h
  simp [toRaw, rawB, decodeRaw, formatOf, Format.len, Raw.body, Raw.finish, Raw.form, firstField, Raw.noD, Raw.noA, Raw.noB, Raw.noC, Raw.zeroImm, Raw.noHi, Raw.noLa, Raw.immBit, Raw.scopeCode, Raw.ordCode, Raw.integer, Raw.intA, Raw.intImm, Raw.int2, Raw.int3, Raw.bitField, h] <;> (repeat' split) <;> simp_all [Prec.code, Order.code, bit1] <;> omega

theorem Laws.RoundTrip.sar64 (o : Form) : Laws.RoundTrip.Statement (.sar64 o) := by
  intro h
  obtain ⟨d, a, b, c, m, la, g⟩ := o
  simp [Instr.wellFormed, Form.ok, Form.okA, memOk, pfOk, loadOrder, storeOrder, shuffleOk, scanOk] at h
  simp [toRaw, rawB, decodeRaw, formatOf, Format.len, Raw.body, Raw.finish, Raw.form, firstField, Raw.noD, Raw.noA, Raw.noB, Raw.noC, Raw.zeroImm, Raw.noHi, Raw.noLa, Raw.immBit, Raw.scopeCode, Raw.ordCode, Raw.integer, Raw.intA, Raw.intImm, Raw.int2, Raw.int3, Raw.bitField, h] <;> (repeat' split) <;> simp_all [Prec.code, Order.code, bit1] <;> omega

theorem Laws.RoundTrip.lea (o : ImmForm) : Laws.RoundTrip.Statement (.lea o) := by
  intro h
  obtain ⟨⟨d, a, b, c, m, la, g⟩, imm⟩ := o
  simp [Instr.wellFormed, Form.ok, Form.okA, memOk, pfOk, loadOrder, storeOrder, shuffleOk, scanOk] at h
  simp [toRaw, rawB, decodeRaw, formatOf, Format.len, Raw.body, Raw.finish, Raw.form, firstField, Raw.noD, Raw.noA, Raw.noB, Raw.noC, Raw.zeroImm, Raw.noHi, Raw.noLa, Raw.immBit, Raw.scopeCode, Raw.ordCode, Raw.integer, Raw.intA, Raw.intImm, Raw.int2, Raw.int3, Raw.bitField, h] <;> (repeat' split) <;> simp_all [Prec.code, Order.code, bit1] <;> omega

theorem Laws.RoundTrip.mov (o : Form) : Laws.RoundTrip.Statement (.mov o) := by
  intro h
  obtain ⟨d, a, b, c, m, la, g⟩ := o
  simp [Instr.wellFormed, Form.ok, Form.okA, memOk, pfOk, loadOrder, storeOrder, shuffleOk, scanOk] at h
  simp [toRaw, rawA, decodeRaw, formatOf, Format.len, Raw.body, Raw.finish, Raw.form, firstField, Raw.noD, Raw.noA, Raw.noB, Raw.noC, Raw.zeroImm, Raw.noHi, Raw.noLa, Raw.immBit, Raw.scopeCode, Raw.ordCode, Raw.integer, Raw.intA, Raw.intImm, Raw.int2, Raw.int3, Raw.bitField, h] <;> (repeat' split) <;> simp_all [Prec.code, Order.code, bit1] <;> omega

theorem Laws.RoundTrip.movi (o : ImmForm) : Laws.RoundTrip.Statement (.movi o) := by
  intro h
  obtain ⟨⟨d, a, b, c, m, la, g⟩, imm⟩ := o
  simp [Instr.wellFormed, Form.ok, Form.okA, memOk, pfOk, loadOrder, storeOrder, shuffleOk, scanOk] at h
  simp [toRaw, rawB, decodeRaw, formatOf, Format.len, Raw.body, Raw.finish, Raw.form, firstField, Raw.noD, Raw.noA, Raw.noB, Raw.noC, Raw.zeroImm, Raw.noHi, Raw.noLa, Raw.immBit, Raw.scopeCode, Raw.ordCode, Raw.integer, Raw.intA, Raw.intImm, Raw.int2, Raw.int3, Raw.bitField, h] <;> (repeat' split) <;> simp_all [Prec.code, Order.code, bit1] <;> omega

theorem Laws.RoundTrip.movl (o : LitForm) : Laws.RoundTrip.Statement (.movl o) := by
  intro h
  obtain ⟨⟨d, a, b, c, m, la, g⟩, lit⟩ := o
  simp [Instr.wellFormed, Form.ok, Form.okA, memOk, pfOk, loadOrder, storeOrder, shuffleOk, scanOk] at h
  simp [toRaw, rawD, decodeRaw, formatOf, Format.len, Raw.body, Raw.finish, Raw.form, firstField, Raw.noD, Raw.noA, Raw.noB, Raw.noC, Raw.zeroImm, Raw.noHi, Raw.noLa, Raw.immBit, Raw.scopeCode, Raw.ordCode, Raw.integer, Raw.intA, Raw.intImm, Raw.int2, Raw.int3, Raw.bitField, h] <;> (repeat' split) <;> simp_all [Prec.code, Order.code, bit1] <;> omega

theorem Laws.RoundTrip.fadd (o : FloatForm) : Laws.RoundTrip.Statement (.fadd o) := by
  intro h
  obtain ⟨⟨d, a, b, c, m, la, g⟩, rnd, prec⟩ := o
  simp [Instr.wellFormed, Form.ok, Form.okA, memOk, pfOk, loadOrder, storeOrder, shuffleOk, scanOk] at h
  simp [toRaw, rawB, decodeRaw, formatOf, Format.len, Raw.body, Raw.finish, Raw.form, firstField, Raw.noD, Raw.noA, Raw.noB, Raw.noC, Raw.zeroImm, Raw.noHi, Raw.noLa, Raw.immBit, Raw.scopeCode, Raw.ordCode, Raw.op20, Raw.float, Raw.float2, Raw.float3, Raw.floatC, Raw.convert, Raw.intConvert, Raw.packForm, h] <;> cases prec <;> (repeat' split) <;> simp_all [Prec.code, Order.code, bit1] <;> omega

theorem Laws.RoundTrip.fsub (o : FloatForm) : Laws.RoundTrip.Statement (.fsub o) := by
  intro h
  obtain ⟨⟨d, a, b, c, m, la, g⟩, rnd, prec⟩ := o
  simp [Instr.wellFormed, Form.ok, Form.okA, memOk, pfOk, loadOrder, storeOrder, shuffleOk, scanOk] at h
  simp [toRaw, rawB, decodeRaw, formatOf, Format.len, Raw.body, Raw.finish, Raw.form, firstField, Raw.noD, Raw.noA, Raw.noB, Raw.noC, Raw.zeroImm, Raw.noHi, Raw.noLa, Raw.immBit, Raw.scopeCode, Raw.ordCode, Raw.op20, Raw.float, Raw.float2, Raw.float3, Raw.floatC, Raw.convert, Raw.intConvert, Raw.packForm, h] <;> cases prec <;> (repeat' split) <;> simp_all [Prec.code, Order.code, bit1] <;> omega

theorem Laws.RoundTrip.fmul (o : FloatForm) : Laws.RoundTrip.Statement (.fmul o) := by
  intro h
  obtain ⟨⟨d, a, b, c, m, la, g⟩, rnd, prec⟩ := o
  simp [Instr.wellFormed, Form.ok, Form.okA, memOk, pfOk, loadOrder, storeOrder, shuffleOk, scanOk] at h
  simp [toRaw, rawB, decodeRaw, formatOf, Format.len, Raw.body, Raw.finish, Raw.form, firstField, Raw.noD, Raw.noA, Raw.noB, Raw.noC, Raw.zeroImm, Raw.noHi, Raw.noLa, Raw.immBit, Raw.scopeCode, Raw.ordCode, Raw.op20, Raw.float, Raw.float2, Raw.float3, Raw.floatC, Raw.convert, Raw.intConvert, Raw.packForm, h] <;> cases prec <;> (repeat' split) <;> simp_all [Prec.code, Order.code, bit1] <;> omega

theorem Laws.RoundTrip.fmin (o : FloatForm) : Laws.RoundTrip.Statement (.fmin o) := by
  intro h
  obtain ⟨⟨d, a, b, c, m, la, g⟩, rnd, prec⟩ := o
  simp [Instr.wellFormed, Form.ok, Form.okA, memOk, pfOk, loadOrder, storeOrder, shuffleOk, scanOk] at h
  simp [toRaw, rawB, decodeRaw, formatOf, Format.len, Raw.body, Raw.finish, Raw.form, firstField, Raw.noD, Raw.noA, Raw.noB, Raw.noC, Raw.zeroImm, Raw.noHi, Raw.noLa, Raw.immBit, Raw.scopeCode, Raw.ordCode, Raw.op20, Raw.float, Raw.float2, Raw.float3, Raw.floatC, Raw.convert, Raw.intConvert, Raw.packForm, h] <;> cases prec <;> (repeat' split) <;> simp_all [Prec.code, Order.code, bit1] <;> omega

theorem Laws.RoundTrip.fmax (o : FloatForm) : Laws.RoundTrip.Statement (.fmax o) := by
  intro h
  obtain ⟨⟨d, a, b, c, m, la, g⟩, rnd, prec⟩ := o
  simp [Instr.wellFormed, Form.ok, Form.okA, memOk, pfOk, loadOrder, storeOrder, shuffleOk, scanOk] at h
  simp [toRaw, rawB, decodeRaw, formatOf, Format.len, Raw.body, Raw.finish, Raw.form, firstField, Raw.noD, Raw.noA, Raw.noB, Raw.noC, Raw.zeroImm, Raw.noHi, Raw.noLa, Raw.immBit, Raw.scopeCode, Raw.ordCode, Raw.op20, Raw.float, Raw.float2, Raw.float3, Raw.floatC, Raw.convert, Raw.intConvert, Raw.packForm, h] <;> cases prec <;> (repeat' split) <;> simp_all [Prec.code, Order.code, bit1] <;> omega

theorem Laws.RoundTrip.fdiv (o : FloatForm) : Laws.RoundTrip.Statement (.fdiv o) := by
  intro h
  obtain ⟨⟨d, a, b, c, m, la, g⟩, rnd, prec⟩ := o
  simp [Instr.wellFormed, Form.ok, Form.okA, memOk, pfOk, loadOrder, storeOrder, shuffleOk, scanOk] at h
  simp [toRaw, rawB, decodeRaw, formatOf, Format.len, Raw.body, Raw.finish, Raw.form, firstField, Raw.noD, Raw.noA, Raw.noB, Raw.noC, Raw.zeroImm, Raw.noHi, Raw.noLa, Raw.immBit, Raw.scopeCode, Raw.ordCode, Raw.op20, Raw.float, Raw.float2, Raw.float3, Raw.floatC, Raw.convert, Raw.intConvert, Raw.packForm, h] <;> cases prec <;> (repeat' split) <;> simp_all [Prec.code, Order.code, bit1] <;> omega

theorem Laws.RoundTrip.fsqrt (o : FloatForm) : Laws.RoundTrip.Statement (.fsqrt o) := by
  intro h
  obtain ⟨⟨d, a, b, c, m, la, g⟩, rnd, prec⟩ := o
  simp [Instr.wellFormed, Form.ok, Form.okA, memOk, pfOk, loadOrder, storeOrder, shuffleOk, scanOk] at h
  simp [toRaw, rawB, decodeRaw, formatOf, Format.len, Raw.body, Raw.finish, Raw.form, firstField, Raw.noD, Raw.noA, Raw.noB, Raw.noC, Raw.zeroImm, Raw.noHi, Raw.noLa, Raw.immBit, Raw.scopeCode, Raw.ordCode, Raw.op20, Raw.float, Raw.float2, Raw.float3, Raw.floatC, Raw.convert, Raw.intConvert, Raw.packForm, h] <;> cases prec <;> (repeat' split) <;> simp_all [Prec.code, Order.code, bit1] <;> omega

theorem Laws.RoundTrip.fma (o : FloatForm) : Laws.RoundTrip.Statement (.fma o) := by
  intro h
  obtain ⟨⟨d, a, b, c, m, la, g⟩, rnd, prec⟩ := o
  simp [Instr.wellFormed, Form.ok, Form.okA, memOk, pfOk, loadOrder, storeOrder, shuffleOk, scanOk] at h
  simp [toRaw, rawB, rawC, decodeRaw, formatOf, Format.len, Raw.body, Raw.finish, Raw.form, firstField, Raw.noD, Raw.noA, Raw.noB, Raw.noC, Raw.zeroImm, Raw.noHi, Raw.noLa, Raw.immBit, Raw.scopeCode, Raw.ordCode, Raw.op21, Raw.float, Raw.float2, Raw.float3, Raw.floatC, Raw.convert, Raw.intConvert, Raw.packForm, h] <;> cases prec <;> (repeat' split) <;> simp_all [Prec.code, Order.code, bit1] <;> omega

theorem Laws.RoundTrip.fms (o : FloatForm) : Laws.RoundTrip.Statement (.fms o) := by
  intro h
  obtain ⟨⟨d, a, b, c, m, la, g⟩, rnd, prec⟩ := o
  simp [Instr.wellFormed, Form.ok, Form.okA, memOk, pfOk, loadOrder, storeOrder, shuffleOk, scanOk] at h
  simp [toRaw, rawB, rawC, decodeRaw, formatOf, Format.len, Raw.body, Raw.finish, Raw.form, firstField, Raw.noD, Raw.noA, Raw.noB, Raw.noC, Raw.zeroImm, Raw.noHi, Raw.noLa, Raw.immBit, Raw.scopeCode, Raw.ordCode, Raw.op21, Raw.float, Raw.float2, Raw.float3, Raw.floatC, Raw.convert, Raw.intConvert, Raw.packForm, h] <;> cases prec <;> (repeat' split) <;> simp_all [Prec.code, Order.code, bit1] <;> omega

theorem Laws.RoundTrip.fnma (o : FloatForm) : Laws.RoundTrip.Statement (.fnma o) := by
  intro h
  obtain ⟨⟨d, a, b, c, m, la, g⟩, rnd, prec⟩ := o
  simp [Instr.wellFormed, Form.ok, Form.okA, memOk, pfOk, loadOrder, storeOrder, shuffleOk, scanOk] at h
  simp [toRaw, rawB, rawC, decodeRaw, formatOf, Format.len, Raw.body, Raw.finish, Raw.form, firstField, Raw.noD, Raw.noA, Raw.noB, Raw.noC, Raw.zeroImm, Raw.noHi, Raw.noLa, Raw.immBit, Raw.scopeCode, Raw.ordCode, Raw.op21, Raw.float, Raw.float2, Raw.float3, Raw.floatC, Raw.convert, Raw.intConvert, Raw.packForm, h] <;> cases prec <;> (repeat' split) <;> simp_all [Prec.code, Order.code, bit1] <;> omega

theorem Laws.RoundTrip.fnms (o : FloatForm) : Laws.RoundTrip.Statement (.fnms o) := by
  intro h
  obtain ⟨⟨d, a, b, c, m, la, g⟩, rnd, prec⟩ := o
  simp [Instr.wellFormed, Form.ok, Form.okA, memOk, pfOk, loadOrder, storeOrder, shuffleOk, scanOk] at h
  simp [toRaw, rawB, rawC, decodeRaw, formatOf, Format.len, Raw.body, Raw.finish, Raw.form, firstField, Raw.noD, Raw.noA, Raw.noB, Raw.noC, Raw.zeroImm, Raw.noHi, Raw.noLa, Raw.immBit, Raw.scopeCode, Raw.ordCode, Raw.op21, Raw.float, Raw.float2, Raw.float3, Raw.floatC, Raw.convert, Raw.intConvert, Raw.packForm, h] <;> cases prec <;> (repeat' split) <;> simp_all [Prec.code, Order.code, bit1] <;> omega

theorem Laws.RoundTrip.fcmp (o : FloatCmpForm) : Laws.RoundTrip.Statement (.fcmp o) := by
  intro h
  obtain ⟨⟨⟨d, a, b, c, m, la, g⟩, rnd, prec⟩, cond⟩ := o
  simp [Instr.wellFormed, Form.ok, Form.okA, memOk, pfOk, loadOrder, storeOrder, shuffleOk, scanOk] at h
  simp [toRaw, rawB, decodeRaw, formatOf, Format.len, Raw.body, Raw.finish, Raw.form, firstField, Raw.noD, Raw.noA, Raw.noB, Raw.noC, Raw.zeroImm, Raw.noHi, Raw.noLa, Raw.immBit, Raw.scopeCode, Raw.ordCode, Raw.op22, Raw.float, Raw.float2, Raw.float3, Raw.floatC, Raw.convert, Raw.intConvert, Raw.packForm, h] <;> cases prec <;> (repeat' split) <;> simp_all [Prec.code, Order.code, bit1] <;> omega

theorem Laws.RoundTrip.fclass (o : FloatForm) : Laws.RoundTrip.Statement (.fclass o) := by
  intro h
  obtain ⟨⟨d, a, b, c, m, la, g⟩, rnd, prec⟩ := o
  simp [Instr.wellFormed, Form.ok, Form.okA, memOk, pfOk, loadOrder, storeOrder, shuffleOk, scanOk] at h
  simp [toRaw, rawB, decodeRaw, formatOf, Format.len, Raw.body, Raw.finish, Raw.form, firstField, Raw.noD, Raw.noA, Raw.noB, Raw.noC, Raw.zeroImm, Raw.noHi, Raw.noLa, Raw.immBit, Raw.scopeCode, Raw.ordCode, Raw.op22, Raw.float, Raw.float2, Raw.float3, Raw.floatC, Raw.convert, Raw.intConvert, Raw.packForm, h] <;> cases prec <;> (repeat' split) <;> simp_all [Prec.code, Order.code, bit1] <;> omega

theorem Laws.RoundTrip.fneg (o : FloatForm) : Laws.RoundTrip.Statement (.fneg o) := by
  intro h
  obtain ⟨⟨d, a, b, c, m, la, g⟩, rnd, prec⟩ := o
  simp [Instr.wellFormed, Form.ok, Form.okA, memOk, pfOk, loadOrder, storeOrder, shuffleOk, scanOk] at h
  simp [toRaw, rawB, decodeRaw, formatOf, Format.len, Raw.body, Raw.finish, Raw.form, firstField, Raw.noD, Raw.noA, Raw.noB, Raw.noC, Raw.zeroImm, Raw.noHi, Raw.noLa, Raw.immBit, Raw.scopeCode, Raw.ordCode, Raw.op23, Raw.float, Raw.float2, Raw.float3, Raw.floatC, Raw.convert, Raw.intConvert, Raw.packForm, h] <;> cases prec <;> (repeat' split) <;> simp_all [Prec.code, Order.code, bit1] <;> omega

theorem Laws.RoundTrip.fabs (o : FloatForm) : Laws.RoundTrip.Statement (.fabs o) := by
  intro h
  obtain ⟨⟨d, a, b, c, m, la, g⟩, rnd, prec⟩ := o
  simp [Instr.wellFormed, Form.ok, Form.okA, memOk, pfOk, loadOrder, storeOrder, shuffleOk, scanOk] at h
  simp [toRaw, rawB, decodeRaw, formatOf, Format.len, Raw.body, Raw.finish, Raw.form, firstField, Raw.noD, Raw.noA, Raw.noB, Raw.noC, Raw.zeroImm, Raw.noHi, Raw.noLa, Raw.immBit, Raw.scopeCode, Raw.ordCode, Raw.op23, Raw.float, Raw.float2, Raw.float3, Raw.floatC, Raw.convert, Raw.intConvert, Raw.packForm, h] <;> cases prec <;> (repeat' split) <;> simp_all [Prec.code, Order.code, bit1] <;> omega

theorem Laws.RoundTrip.fsgnj (o : FloatForm) : Laws.RoundTrip.Statement (.fsgnj o) := by
  intro h
  obtain ⟨⟨d, a, b, c, m, la, g⟩, rnd, prec⟩ := o
  simp [Instr.wellFormed, Form.ok, Form.okA, memOk, pfOk, loadOrder, storeOrder, shuffleOk, scanOk] at h
  simp [toRaw, rawB, decodeRaw, formatOf, Format.len, Raw.body, Raw.finish, Raw.form, firstField, Raw.noD, Raw.noA, Raw.noB, Raw.noC, Raw.zeroImm, Raw.noHi, Raw.noLa, Raw.immBit, Raw.scopeCode, Raw.ordCode, Raw.op23, Raw.float, Raw.float2, Raw.float3, Raw.floatC, Raw.convert, Raw.intConvert, Raw.packForm, h] <;> cases prec <;> (repeat' split) <;> simp_all [Prec.code, Order.code, bit1] <;> omega

theorem Laws.RoundTrip.fsgnjn (o : FloatForm) : Laws.RoundTrip.Statement (.fsgnjn o) := by
  intro h
  obtain ⟨⟨d, a, b, c, m, la, g⟩, rnd, prec⟩ := o
  simp [Instr.wellFormed, Form.ok, Form.okA, memOk, pfOk, loadOrder, storeOrder, shuffleOk, scanOk] at h
  simp [toRaw, rawB, decodeRaw, formatOf, Format.len, Raw.body, Raw.finish, Raw.form, firstField, Raw.noD, Raw.noA, Raw.noB, Raw.noC, Raw.zeroImm, Raw.noHi, Raw.noLa, Raw.immBit, Raw.scopeCode, Raw.ordCode, Raw.op23, Raw.float, Raw.float2, Raw.float3, Raw.floatC, Raw.convert, Raw.intConvert, Raw.packForm, h] <;> cases prec <;> (repeat' split) <;> simp_all [Prec.code, Order.code, bit1] <;> omega

theorem Laws.RoundTrip.fsgnjx (o : FloatForm) : Laws.RoundTrip.Statement (.fsgnjx o) := by
  intro h
  obtain ⟨⟨d, a, b, c, m, la, g⟩, rnd, prec⟩ := o
  simp [Instr.wellFormed, Form.ok, Form.okA, memOk, pfOk, loadOrder, storeOrder, shuffleOk, scanOk] at h
  simp [toRaw, rawB, decodeRaw, formatOf, Format.len, Raw.body, Raw.finish, Raw.form, firstField, Raw.noD, Raw.noA, Raw.noB, Raw.noC, Raw.zeroImm, Raw.noHi, Raw.noLa, Raw.immBit, Raw.scopeCode, Raw.ordCode, Raw.op23, Raw.float, Raw.float2, Raw.float3, Raw.floatC, Raw.convert, Raw.intConvert, Raw.packForm, h] <;> cases prec <;> (repeat' split) <;> simp_all [Prec.code, Order.code, bit1] <;> omega

theorem Laws.RoundTrip.fexp2 (o : FloatForm) : Laws.RoundTrip.Statement (.fexp2 o) := by
  intro h
  obtain ⟨⟨d, a, b, c, m, la, g⟩, rnd, prec⟩ := o
  simp [Instr.wellFormed, Form.ok, Form.okA, memOk, pfOk, loadOrder, storeOrder, shuffleOk, scanOk] at h
  simp [toRaw, rawB, decodeRaw, formatOf, Format.len, Raw.body, Raw.finish, Raw.form, firstField, Raw.noD, Raw.noA, Raw.noB, Raw.noC, Raw.zeroImm, Raw.noHi, Raw.noLa, Raw.immBit, Raw.scopeCode, Raw.ordCode, Raw.op24, Raw.float, Raw.float2, Raw.float3, Raw.floatC, Raw.convert, Raw.intConvert, Raw.packForm, h] <;> cases prec <;> (repeat' split) <;> simp_all [Prec.code, Order.code, bit1] <;> omega

theorem Laws.RoundTrip.flog2 (o : FloatForm) : Laws.RoundTrip.Statement (.flog2 o) := by
  intro h
  obtain ⟨⟨d, a, b, c, m, la, g⟩, rnd, prec⟩ := o
  simp [Instr.wellFormed, Form.ok, Form.okA, memOk, pfOk, loadOrder, storeOrder, shuffleOk, scanOk] at h
  simp [toRaw, rawB, decodeRaw, formatOf, Format.len, Raw.body, Raw.finish, Raw.form, firstField, Raw.noD, Raw.noA, Raw.noB, Raw.noC, Raw.zeroImm, Raw.noHi, Raw.noLa, Raw.immBit, Raw.scopeCode, Raw.ordCode, Raw.op24, Raw.float, Raw.float2, Raw.float3, Raw.floatC, Raw.convert, Raw.intConvert, Raw.packForm, h] <;> cases prec <;> (repeat' split) <;> simp_all [Prec.code, Order.code, bit1] <;> omega

theorem Laws.RoundTrip.fsin (o : FloatForm) : Laws.RoundTrip.Statement (.fsin o) := by
  intro h
  obtain ⟨⟨d, a, b, c, m, la, g⟩, rnd, prec⟩ := o
  simp [Instr.wellFormed, Form.ok, Form.okA, memOk, pfOk, loadOrder, storeOrder, shuffleOk, scanOk] at h
  simp [toRaw, rawB, decodeRaw, formatOf, Format.len, Raw.body, Raw.finish, Raw.form, firstField, Raw.noD, Raw.noA, Raw.noB, Raw.noC, Raw.zeroImm, Raw.noHi, Raw.noLa, Raw.immBit, Raw.scopeCode, Raw.ordCode, Raw.op24, Raw.float, Raw.float2, Raw.float3, Raw.floatC, Raw.convert, Raw.intConvert, Raw.packForm, h] <;> cases prec <;> (repeat' split) <;> simp_all [Prec.code, Order.code, bit1] <;> omega

theorem Laws.RoundTrip.fcos (o : FloatForm) : Laws.RoundTrip.Statement (.fcos o) := by
  intro h
  obtain ⟨⟨d, a, b, c, m, la, g⟩, rnd, prec⟩ := o
  simp [Instr.wellFormed, Form.ok, Form.okA, memOk, pfOk, loadOrder, storeOrder, shuffleOk, scanOk] at h
  simp [toRaw, rawB, decodeRaw, formatOf, Format.len, Raw.body, Raw.finish, Raw.form, firstField, Raw.noD, Raw.noA, Raw.noB, Raw.noC, Raw.zeroImm, Raw.noHi, Raw.noLa, Raw.immBit, Raw.scopeCode, Raw.ordCode, Raw.op24, Raw.float, Raw.float2, Raw.float3, Raw.floatC, Raw.convert, Raw.intConvert, Raw.packForm, h] <;> cases prec <;> (repeat' split) <;> simp_all [Prec.code, Order.code, bit1] <;> omega

theorem Laws.RoundTrip.frcp (o : FloatForm) : Laws.RoundTrip.Statement (.frcp o) := by
  intro h
  obtain ⟨⟨d, a, b, c, m, la, g⟩, rnd, prec⟩ := o
  simp [Instr.wellFormed, Form.ok, Form.okA, memOk, pfOk, loadOrder, storeOrder, shuffleOk, scanOk] at h
  simp [toRaw, rawB, decodeRaw, formatOf, Format.len, Raw.body, Raw.finish, Raw.form, firstField, Raw.noD, Raw.noA, Raw.noB, Raw.noC, Raw.zeroImm, Raw.noHi, Raw.noLa, Raw.immBit, Raw.scopeCode, Raw.ordCode, Raw.op24, Raw.float, Raw.float2, Raw.float3, Raw.floatC, Raw.convert, Raw.intConvert, Raw.packForm, h] <;> cases prec <;> (repeat' split) <;> simp_all [Prec.code, Order.code, bit1] <;> omega

theorem Laws.RoundTrip.frsq (o : FloatForm) : Laws.RoundTrip.Statement (.frsq o) := by
  intro h
  obtain ⟨⟨d, a, b, c, m, la, g⟩, rnd, prec⟩ := o
  simp [Instr.wellFormed, Form.ok, Form.okA, memOk, pfOk, loadOrder, storeOrder, shuffleOk, scanOk] at h
  simp [toRaw, rawB, decodeRaw, formatOf, Format.len, Raw.body, Raw.finish, Raw.form, firstField, Raw.noD, Raw.noA, Raw.noB, Raw.noC, Raw.zeroImm, Raw.noHi, Raw.noLa, Raw.immBit, Raw.scopeCode, Raw.ordCode, Raw.op24, Raw.float, Raw.float2, Raw.float3, Raw.floatC, Raw.convert, Raw.intConvert, Raw.packForm, h] <;> cases prec <;> (repeat' split) <;> simp_all [Prec.code, Order.code, bit1] <;> omega

theorem Laws.RoundTrip.fcvt (o : ConvertForm) : Laws.RoundTrip.Statement (.fcvt o) := by
  intro h
  obtain ⟨⟨⟨d, a, b, c, m, la, g⟩, rnd, prec⟩, uns, dprec⟩ := o
  cases prec <;> cases dprec <;> cases rnd <;>
  simp [Instr.wellFormed, Form.ok, Form.okA, memOk, pfOk, loadOrder, storeOrder, shuffleOk, scanOk, redOk, convertOk] at h
  all_goals
    casesm* _ ∧ _, _ ∨ _ <;> subst_vars <;>
    simp [toRaw, rawB, decodeRaw, formatOf, Format.len, Raw.body, Raw.finish, Raw.form, firstField, Raw.noD, Raw.noA, Raw.noB, Raw.noC, Raw.zeroImm, Raw.noHi, Raw.noLa, Raw.immBit, Raw.scopeCode, Raw.ordCode, Raw.op25, Raw.float, Raw.float2, Raw.float3, Raw.floatC, Raw.convert, Raw.intConvert, Raw.packForm, convertOk, ConvertForm.immConvert, bit1, Prec.code, precOf, *] <;> (repeat' split) <;> simp_all [Prec.code, Order.code, bit1] <;> omega

theorem Laws.RoundTrip.fcvti (o : ConvertForm) : Laws.RoundTrip.Statement (.fcvti o) := by
  intro h
  obtain ⟨⟨⟨d, a, b, c, m, la, g⟩, rnd, prec⟩, uns, dprec⟩ := o
  simp [Instr.wellFormed, Form.ok, Form.okA, memOk, pfOk, loadOrder, storeOrder, shuffleOk, scanOk] at h
  simp [toRaw, rawB, decodeRaw, formatOf, Format.len, Raw.body, Raw.finish, Raw.form, firstField, Raw.noD, Raw.noA, Raw.noB, Raw.noC, Raw.zeroImm, Raw.noHi, Raw.noLa, Raw.immBit, Raw.scopeCode, Raw.ordCode, Raw.op25, Raw.float, Raw.float2, Raw.float3, Raw.floatC, Raw.convert, Raw.intConvert, Raw.packForm, h] <;> cases prec <;> (repeat' split) <;> simp_all [Prec.code, Order.code, bit1] <;> omega

theorem Laws.RoundTrip.icvtf (o : ConvertForm) : Laws.RoundTrip.Statement (.icvtf o) := by
  intro h
  obtain ⟨⟨⟨d, a, b, c, m, la, g⟩, rnd, prec⟩, uns, dprec⟩ := o
  simp [Instr.wellFormed, Form.ok, Form.okA, memOk, pfOk, loadOrder, storeOrder, shuffleOk, scanOk] at h
  simp [toRaw, rawB, decodeRaw, formatOf, Format.len, Raw.body, Raw.finish, Raw.form, firstField, Raw.noD, Raw.noA, Raw.noB, Raw.noC, Raw.zeroImm, Raw.noHi, Raw.noLa, Raw.immBit, Raw.scopeCode, Raw.ordCode, Raw.op25, Raw.float, Raw.float2, Raw.float3, Raw.floatC, Raw.convert, Raw.intConvert, Raw.packForm, h] <;> cases prec <;> (repeat' split) <;> simp_all [Prec.code, Order.code, bit1] <;> omega

theorem Laws.RoundTrip.frint (o : ConvertForm) : Laws.RoundTrip.Statement (.frint o) := by
  intro h
  obtain ⟨⟨⟨d, a, b, c, m, la, g⟩, rnd, prec⟩, uns, dprec⟩ := o
  cases prec <;>
  simp [Instr.wellFormed, Form.ok, Form.okA, memOk, pfOk, loadOrder, storeOrder, shuffleOk, scanOk, redOk, convertOk] at h
  all_goals
    casesm* _ ∧ _, _ ∨ _ <;> subst_vars <;>
    simp [toRaw, rawB, decodeRaw, formatOf, Format.len, Raw.body, Raw.finish, Raw.form, firstField, Raw.noD, Raw.noA, Raw.noB, Raw.noC, Raw.zeroImm, Raw.noHi, Raw.noLa, Raw.immBit, Raw.scopeCode, Raw.ordCode, Raw.op25, Raw.float, Raw.float2, Raw.float3, Raw.floatC, Raw.convert, Raw.intConvert, Raw.packForm, convertOk, ConvertForm.immConvert, bit1, Prec.code, precOf, *] <;> (repeat' split) <;> simp_all [Prec.code, Order.code, bit1] <;> omega

theorem Laws.RoundTrip.fcvtil (o : ConvertForm) : Laws.RoundTrip.Statement (.fcvtil o) := by
  intro h
  obtain ⟨⟨⟨d, a, b, c, m, la, g⟩, rnd, prec⟩, uns, dprec⟩ := o
  simp [Instr.wellFormed, Form.ok, Form.okA, memOk, pfOk, loadOrder, storeOrder, shuffleOk, scanOk] at h
  simp [toRaw, rawB, decodeRaw, formatOf, Format.len, Raw.body, Raw.finish, Raw.form, firstField, Raw.noD, Raw.noA, Raw.noB, Raw.noC, Raw.zeroImm, Raw.noHi, Raw.noLa, Raw.immBit, Raw.scopeCode, Raw.ordCode, Raw.op25, Raw.float, Raw.float2, Raw.float3, Raw.floatC, Raw.convert, Raw.intConvert, Raw.packForm, h] <;> cases prec <;> (repeat' split) <;> simp_all [Prec.code, Order.code, bit1] <;> omega

theorem Laws.RoundTrip.icvtfl (o : ConvertForm) : Laws.RoundTrip.Statement (.icvtfl o) := by
  intro h
  obtain ⟨⟨⟨d, a, b, c, m, la, g⟩, rnd, prec⟩, uns, dprec⟩ := o
  simp [Instr.wellFormed, Form.ok, Form.okA, memOk, pfOk, loadOrder, storeOrder, shuffleOk, scanOk] at h
  simp [toRaw, rawB, decodeRaw, formatOf, Format.len, Raw.body, Raw.finish, Raw.form, firstField, Raw.noD, Raw.noA, Raw.noB, Raw.noC, Raw.zeroImm, Raw.noHi, Raw.noLa, Raw.immBit, Raw.scopeCode, Raw.ordCode, Raw.op25, Raw.float, Raw.float2, Raw.float3, Raw.floatC, Raw.convert, Raw.intConvert, Raw.packForm, h] <;> cases prec <;> (repeat' split) <;> simp_all [Prec.code, Order.code, bit1] <;> omega

theorem Laws.RoundTrip.f8pack (o : PackForm) : Laws.RoundTrip.Statement (.f8pack o) := by
  intro h
  obtain ⟨⟨⟨d, a, b, c, m, la, g⟩, rnd, prec⟩, e5m2, sat⟩ := o
  simp [Instr.wellFormed, Form.ok, Form.okA, memOk, pfOk, loadOrder, storeOrder, shuffleOk, scanOk] at h
  simp [toRaw, rawB, decodeRaw, formatOf, Format.len, Raw.body, Raw.finish, Raw.form, firstField, Raw.noD, Raw.noA, Raw.noB, Raw.noC, Raw.zeroImm, Raw.noHi, Raw.noLa, Raw.immBit, Raw.scopeCode, Raw.ordCode, Raw.op26, Raw.float, Raw.float2, Raw.float3, Raw.floatC, Raw.convert, Raw.intConvert, Raw.packForm, h] <;> cases prec <;> (repeat' split) <;> simp_all [Prec.code, Order.code, bit1] <;> omega

theorem Laws.RoundTrip.f8unpack (o : PackForm) : Laws.RoundTrip.Statement (.f8unpack o) := by
  intro h
  obtain ⟨⟨⟨d, a, b, c, m, la, g⟩, rnd, prec⟩, e5m2, sat⟩ := o
  simp [Instr.wellFormed, Form.ok, Form.okA, memOk, pfOk, loadOrder, storeOrder, shuffleOk, scanOk] at h
  simp [toRaw, rawB, decodeRaw, formatOf, Format.len, Raw.body, Raw.finish, Raw.form, firstField, Raw.noD, Raw.noA, Raw.noB, Raw.noC, Raw.zeroImm, Raw.noHi, Raw.noLa, Raw.immBit, Raw.scopeCode, Raw.ordCode, Raw.op26, Raw.float, Raw.float2, Raw.float3, Raw.floatC, Raw.convert, Raw.intConvert, Raw.packForm, h] <;> cases prec <;> (repeat' split) <;> simp_all [Prec.code, Order.code, bit1] <;> omega

theorem Laws.RoundTrip.f16pack (o : PackForm) : Laws.RoundTrip.Statement (.f16pack o) := by
  intro h
  obtain ⟨⟨⟨d, a, b, c, m, la, g⟩, rnd, prec⟩, e5m2, sat⟩ := o
  simp [Instr.wellFormed, Form.ok, Form.okA, memOk, pfOk, loadOrder, storeOrder, shuffleOk, scanOk] at h
  simp [toRaw, rawB, decodeRaw, formatOf, Format.len, Raw.body, Raw.finish, Raw.form, firstField, Raw.noD, Raw.noA, Raw.noB, Raw.noC, Raw.zeroImm, Raw.noHi, Raw.noLa, Raw.immBit, Raw.scopeCode, Raw.ordCode, Raw.op26, Raw.float, Raw.float2, Raw.float3, Raw.floatC, Raw.convert, Raw.intConvert, Raw.packForm, h] <;> cases prec <;> (repeat' split) <;> simp_all [Prec.code, Order.code, bit1] <;> omega

theorem Laws.RoundTrip.f16unpack (o : FloatForm) : Laws.RoundTrip.Statement (.f16unpack o) := by
  intro h
  obtain ⟨⟨d, a, b, c, m, la, g⟩, rnd, prec⟩ := o
  simp [Instr.wellFormed, Form.ok, Form.okA, memOk, pfOk, loadOrder, storeOrder, shuffleOk, scanOk] at h
  simp [toRaw, rawB, decodeRaw, formatOf, Format.len, Raw.body, Raw.finish, Raw.form, firstField, Raw.noD, Raw.noA, Raw.noB, Raw.noC, Raw.zeroImm, Raw.noHi, Raw.noLa, Raw.immBit, Raw.scopeCode, Raw.ordCode, Raw.op26, Raw.float, Raw.float2, Raw.float3, Raw.floatC, Raw.convert, Raw.intConvert, Raw.packForm, h] <;> cases prec <;> (repeat' split) <;> simp_all [Prec.code, Order.code, bit1] <;> omega

theorem Laws.RoundTrip.xe3m2 (o : ExpandForm) : Laws.RoundTrip.Statement (.xe3m2 o) := by
  intro h
  obtain ⟨⟨⟨d, a, b, c, m, la, g⟩, rnd, prec⟩, grp⟩ := o
  simp [Instr.wellFormed, Form.ok, Form.okA, memOk, pfOk, loadOrder, storeOrder, shuffleOk, scanOk] at h
  simp [toRaw, rawB, decodeRaw, formatOf, Format.len, Raw.body, Raw.finish, Raw.form, firstField, Raw.noD, Raw.noA, Raw.noB, Raw.noC, Raw.zeroImm, Raw.noHi, Raw.noLa, Raw.immBit, Raw.scopeCode, Raw.ordCode, Raw.op27, Raw.float, Raw.float2, Raw.float3, Raw.floatC, Raw.convert, Raw.intConvert, Raw.packForm, h] <;> cases prec <;> (repeat' split) <;> simp_all [Prec.code, Order.code, bit1] <;> omega

theorem Laws.RoundTrip.xe2m3 (o : ExpandForm) : Laws.RoundTrip.Statement (.xe2m3 o) := by
  intro h
  obtain ⟨⟨⟨d, a, b, c, m, la, g⟩, rnd, prec⟩, grp⟩ := o
  simp [Instr.wellFormed, Form.ok, Form.okA, memOk, pfOk, loadOrder, storeOrder, shuffleOk, scanOk] at h
  simp [toRaw, rawB, decodeRaw, formatOf, Format.len, Raw.body, Raw.finish, Raw.form, firstField, Raw.noD, Raw.noA, Raw.noB, Raw.noC, Raw.zeroImm, Raw.noHi, Raw.noLa, Raw.immBit, Raw.scopeCode, Raw.ordCode, Raw.op27, Raw.float, Raw.float2, Raw.float3, Raw.floatC, Raw.convert, Raw.intConvert, Raw.packForm, h] <;> cases prec <;> (repeat' split) <;> simp_all [Prec.code, Order.code, bit1] <;> omega

theorem Laws.RoundTrip.xint4 (o : Xint4Form) : Laws.RoundTrip.Statement (.xint4 o) := by
  intro h
  obtain ⟨⟨⟨d, a, b, c, m, la, g⟩, rnd, prec⟩, hi⟩ := o
  simp [Instr.wellFormed, Form.ok, Form.okA, memOk, pfOk, loadOrder, storeOrder, shuffleOk, scanOk] at h
  simp [toRaw, rawB, decodeRaw, formatOf, Format.len, Raw.body, Raw.finish, Raw.form, firstField, Raw.noD, Raw.noA, Raw.noB, Raw.noC, Raw.zeroImm, Raw.noHi, Raw.noLa, Raw.immBit, Raw.scopeCode, Raw.ordCode, Raw.op27, Raw.float, Raw.float2, Raw.float3, Raw.floatC, Raw.convert, Raw.intConvert, Raw.packForm, h] <;> cases prec <;> (repeat' split) <;> simp_all [Prec.code, Order.code, bit1] <;> omega

theorem Laws.RoundTrip.mxq (o : FloatForm) : Laws.RoundTrip.Statement (.mxq o) := by
  intro h
  obtain ⟨⟨d, a, b, c, m, la, g⟩, rnd, prec⟩ := o
  simp [Instr.wellFormed, Form.ok, Form.okA, memOk, pfOk, loadOrder, storeOrder, shuffleOk, scanOk] at h
  simp [toRaw, rawB, rawC, decodeRaw, formatOf, Format.len, Raw.body, Raw.finish, Raw.form, firstField, Raw.noD, Raw.noA, Raw.noB, Raw.noC, Raw.zeroImm, Raw.noHi, Raw.noLa, Raw.immBit, Raw.scopeCode, Raw.ordCode, Raw.op28, Raw.float, Raw.float2, Raw.float3, Raw.floatC, Raw.convert, Raw.intConvert, Raw.packForm, h] <;> cases prec <;> (repeat' split) <;> simp_all [Prec.code, Order.code, bit1] <;> omega

theorem Laws.RoundTrip.mxdq (o : FloatForm) : Laws.RoundTrip.Statement (.mxdq o) := by
  intro h
  obtain ⟨⟨d, a, b, c, m, la, g⟩, rnd, prec⟩ := o
  simp [Instr.wellFormed, Form.ok, Form.okA, memOk, pfOk, loadOrder, storeOrder, shuffleOk, scanOk] at h
  simp [toRaw, rawB, rawC, decodeRaw, formatOf, Format.len, Raw.body, Raw.finish, Raw.form, firstField, Raw.noD, Raw.noA, Raw.noB, Raw.noC, Raw.zeroImm, Raw.noHi, Raw.noLa, Raw.immBit, Raw.scopeCode, Raw.ordCode, Raw.op28, Raw.float, Raw.float2, Raw.float3, Raw.floatC, Raw.convert, Raw.intConvert, Raw.packForm, h] <;> cases prec <;> (repeat' split) <;> simp_all [Prec.code, Order.code, bit1] <;> omega

theorem Laws.RoundTrip.mxscale (o : FloatForm) : Laws.RoundTrip.Statement (.mxscale o) := by
  intro h
  obtain ⟨⟨d, a, b, c, m, la, g⟩, rnd, prec⟩ := o
  simp [Instr.wellFormed, Form.ok, Form.okA, memOk, pfOk, loadOrder, storeOrder, shuffleOk, scanOk] at h
  simp [toRaw, rawB, rawC, decodeRaw, formatOf, Format.len, Raw.body, Raw.finish, Raw.form, firstField, Raw.noD, Raw.noA, Raw.noB, Raw.noC, Raw.zeroImm, Raw.noHi, Raw.noLa, Raw.immBit, Raw.scopeCode, Raw.ordCode, Raw.op28, Raw.float, Raw.float2, Raw.float3, Raw.floatC, Raw.convert, Raw.intConvert, Raw.packForm, h] <;> cases prec <;> (repeat' split) <;> simp_all [Prec.code, Order.code, bit1] <;> omega

theorem Laws.RoundTrip.fsplit (o : FloatForm) : Laws.RoundTrip.Statement (.fsplit o) := by
  intro h
  obtain ⟨⟨d, a, b, c, m, la, g⟩, rnd, prec⟩ := o
  simp [Instr.wellFormed, Form.ok, Form.okA, memOk, pfOk, loadOrder, storeOrder, shuffleOk, scanOk] at h
  simp [toRaw, rawB, rawC, decodeRaw, formatOf, Format.len, Raw.body, Raw.finish, Raw.form, firstField, Raw.noD, Raw.noA, Raw.noB, Raw.noC, Raw.zeroImm, Raw.noHi, Raw.noLa, Raw.immBit, Raw.scopeCode, Raw.ordCode, Raw.op29, Raw.float, Raw.float2, Raw.float3, Raw.floatC, Raw.convert, Raw.intConvert, Raw.packForm, h] <;> cases prec <;> (repeat' split) <;> simp_all [Prec.code, Order.code, bit1] <;> omega

theorem Laws.RoundTrip.fjoin (o : FloatForm) : Laws.RoundTrip.Statement (.fjoin o) := by
  intro h
  obtain ⟨⟨d, a, b, c, m, la, g⟩, rnd, prec⟩ := o
  simp [Instr.wellFormed, Form.ok, Form.okA, memOk, pfOk, loadOrder, storeOrder, shuffleOk, scanOk] at h
  simp [toRaw, rawB, rawC, decodeRaw, formatOf, Format.len, Raw.body, Raw.finish, Raw.form, firstField, Raw.noD, Raw.noA, Raw.noB, Raw.noC, Raw.zeroImm, Raw.noHi, Raw.noLa, Raw.immBit, Raw.scopeCode, Raw.ordCode, Raw.op29, Raw.float, Raw.float2, Raw.float3, Raw.floatC, Raw.convert, Raw.intConvert, Raw.packForm, h] <;> cases prec <;> (repeat' split) <;> simp_all [Prec.code, Order.code, bit1] <;> omega

theorem Laws.RoundTrip.fdot2 (o : FloatForm) : Laws.RoundTrip.Statement (.fdot2 o) := by
  intro h
  obtain ⟨⟨d, a, b, c, m, la, g⟩, rnd, prec⟩ := o
  simp [Instr.wellFormed, Form.ok, Form.okA, memOk, pfOk, loadOrder, storeOrder, shuffleOk, scanOk] at h
  simp [toRaw, rawB, rawC, decodeRaw, formatOf, Format.len, Raw.body, Raw.finish, Raw.form, firstField, Raw.noD, Raw.noA, Raw.noB, Raw.noC, Raw.zeroImm, Raw.noHi, Raw.noLa, Raw.immBit, Raw.scopeCode, Raw.ordCode, Raw.op2A, Raw.float, Raw.float2, Raw.float3, Raw.floatC, Raw.convert, Raw.intConvert, Raw.packForm, h] <;> cases prec <;> (repeat' split) <;> simp_all [Prec.code, Order.code, bit1] <;> omega

theorem Laws.RoundTrip.fdot4 (o : FloatForm) : Laws.RoundTrip.Statement (.fdot4 o) := by
  intro h
  obtain ⟨⟨d, a, b, c, m, la, g⟩, rnd, prec⟩ := o
  simp [Instr.wellFormed, Form.ok, Form.okA, memOk, pfOk, loadOrder, storeOrder, shuffleOk, scanOk] at h
  simp [toRaw, rawB, rawC, decodeRaw, formatOf, Format.len, Raw.body, Raw.finish, Raw.form, firstField, Raw.noD, Raw.noA, Raw.noB, Raw.noC, Raw.zeroImm, Raw.noHi, Raw.noLa, Raw.immBit, Raw.scopeCode, Raw.ordCode, Raw.op2A, Raw.float, Raw.float2, Raw.float3, Raw.floatC, Raw.convert, Raw.intConvert, Raw.packForm, h] <;> cases prec <;> (repeat' split) <;> simp_all [Prec.code, Order.code, bit1] <;> omega

theorem Laws.RoundTrip.faddl (o : FloatLitForm) : Laws.RoundTrip.Statement (.faddl o) := by
  intro h
  obtain ⟨⟨⟨d, a, b, c, m, la, g⟩, rnd, prec⟩, lit⟩ := o
  simp [Instr.wellFormed, Form.ok, Form.okA, memOk, pfOk, loadOrder, storeOrder, shuffleOk, scanOk] at h
  simp [toRaw, rawD, decodeRaw, formatOf, Format.len, Raw.body, Raw.finish, Raw.form, firstField, Raw.noD, Raw.noA, Raw.noB, Raw.noC, Raw.zeroImm, Raw.noHi, Raw.noLa, Raw.immBit, Raw.scopeCode, Raw.ordCode, Raw.op2B, Raw.float, Raw.float2, Raw.float3, Raw.floatC, Raw.convert, Raw.intConvert, Raw.packForm, h] <;> cases prec <;> (repeat' split) <;> simp_all [Prec.code, Order.code, bit1] <;> omega

theorem Laws.RoundTrip.fmull (o : FloatLitForm) : Laws.RoundTrip.Statement (.fmull o) := by
  intro h
  obtain ⟨⟨⟨d, a, b, c, m, la, g⟩, rnd, prec⟩, lit⟩ := o
  simp [Instr.wellFormed, Form.ok, Form.okA, memOk, pfOk, loadOrder, storeOrder, shuffleOk, scanOk] at h
  simp [toRaw, rawD, decodeRaw, formatOf, Format.len, Raw.body, Raw.finish, Raw.form, firstField, Raw.noD, Raw.noA, Raw.noB, Raw.noC, Raw.zeroImm, Raw.noHi, Raw.noLa, Raw.immBit, Raw.scopeCode, Raw.ordCode, Raw.op2B, Raw.float, Raw.float2, Raw.float3, Raw.floatC, Raw.convert, Raw.intConvert, Raw.packForm, h] <;> cases prec <;> (repeat' split) <;> simp_all [Prec.code, Order.code, bit1] <;> omega

theorem Laws.RoundTrip.fmal (o : FloatLitForm) : Laws.RoundTrip.Statement (.fmal o) := by
  intro h
  obtain ⟨⟨⟨d, a, b, c, m, la, g⟩, rnd, prec⟩, lit⟩ := o
  simp [Instr.wellFormed, Form.ok, Form.okA, memOk, pfOk, loadOrder, storeOrder, shuffleOk, scanOk] at h
  simp [toRaw, rawD, decodeRaw, formatOf, Format.len, Raw.body, Raw.finish, Raw.form, firstField, Raw.noD, Raw.noA, Raw.noB, Raw.noC, Raw.zeroImm, Raw.noHi, Raw.noLa, Raw.immBit, Raw.scopeCode, Raw.ordCode, Raw.op2B, Raw.float, Raw.float2, Raw.float3, Raw.floatC, Raw.convert, Raw.intConvert, Raw.packForm, h] <;> cases prec <;> (repeat' split) <;> simp_all [Prec.code, Order.code, bit1] <;> omega

theorem Laws.RoundTrip.fscale (o : FloatForm) : Laws.RoundTrip.Statement (.fscale o) := by
  intro h
  obtain ⟨⟨d, a, b, c, m, la, g⟩, rnd, prec⟩ := o
  simp [Instr.wellFormed, Form.ok, Form.okA, memOk, pfOk, loadOrder, storeOrder, shuffleOk, scanOk] at h
  simp [toRaw, rawB, decodeRaw, formatOf, Format.len, Raw.body, Raw.finish, Raw.form, firstField, Raw.noD, Raw.noA, Raw.noB, Raw.noC, Raw.zeroImm, Raw.noHi, Raw.noLa, Raw.immBit, Raw.scopeCode, Raw.ordCode, Raw.op2C, Raw.float, Raw.float2, Raw.float3, Raw.floatC, Raw.convert, Raw.intConvert, Raw.packForm, h] <;> cases prec <;> (repeat' split) <;> simp_all [Prec.code, Order.code, bit1] <;> omega

theorem Laws.RoundTrip.fgetexp (o : FloatForm) : Laws.RoundTrip.Statement (.fgetexp o) := by
  intro h
  obtain ⟨⟨d, a, b, c, m, la, g⟩, rnd, prec⟩ := o
  simp [Instr.wellFormed, Form.ok, Form.okA, memOk, pfOk, loadOrder, storeOrder, shuffleOk, scanOk] at h
  simp [toRaw, rawB, decodeRaw, formatOf, Format.len, Raw.body, Raw.finish, Raw.form, firstField, Raw.noD, Raw.noA, Raw.noB, Raw.noC, Raw.zeroImm, Raw.noHi, Raw.noLa, Raw.immBit, Raw.scopeCode, Raw.ordCode, Raw.op2C, Raw.float, Raw.float2, Raw.float3, Raw.floatC, Raw.convert, Raw.intConvert, Raw.packForm, h] <;> cases prec <;> (repeat' split) <;> simp_all [Prec.code, Order.code, bit1] <;> omega

theorem Laws.RoundTrip.fgetman (o : FloatForm) : Laws.RoundTrip.Statement (.fgetman o) := by
  intro h
  obtain ⟨⟨d, a, b, c, m, la, g⟩, rnd, prec⟩ := o
  simp [Instr.wellFormed, Form.ok, Form.okA, memOk, pfOk, loadOrder, storeOrder, shuffleOk, scanOk] at h
  simp [toRaw, rawB, decodeRaw, formatOf, Format.len, Raw.body, Raw.finish, Raw.form, firstField, Raw.noD, Raw.noA, Raw.noB, Raw.noC, Raw.zeroImm, Raw.noHi, Raw.noLa, Raw.immBit, Raw.scopeCode, Raw.ordCode, Raw.op2C, Raw.float, Raw.float2, Raw.float3, Raw.floatC, Raw.convert, Raw.intConvert, Raw.packForm, h] <;> cases prec <;> (repeat' split) <;> simp_all [Prec.code, Order.code, bit1] <;> omega

theorem Laws.RoundTrip.fminnm (o : FloatForm) : Laws.RoundTrip.Statement (.fminnm o) := by
  intro h
  obtain ⟨⟨d, a, b, c, m, la, g⟩, rnd, prec⟩ := o
  simp [Instr.wellFormed, Form.ok, Form.okA, memOk, pfOk, loadOrder, storeOrder, shuffleOk, scanOk] at h
  simp [toRaw, rawB, decodeRaw, formatOf, Format.len, Raw.body, Raw.finish, Raw.form, firstField, Raw.noD, Raw.noA, Raw.noB, Raw.noC, Raw.zeroImm, Raw.noHi, Raw.noLa, Raw.immBit, Raw.scopeCode, Raw.ordCode, Raw.op2D, Raw.float, Raw.float2, Raw.float3, Raw.floatC, Raw.convert, Raw.intConvert, Raw.packForm, h] <;> cases prec <;> (repeat' split) <;> simp_all [Prec.code, Order.code, bit1] <;> omega

theorem Laws.RoundTrip.fmaxnm (o : FloatForm) : Laws.RoundTrip.Statement (.fmaxnm o) := by
  intro h
  obtain ⟨⟨d, a, b, c, m, la, g⟩, rnd, prec⟩ := o
  simp [Instr.wellFormed, Form.ok, Form.okA, memOk, pfOk, loadOrder, storeOrder, shuffleOk, scanOk] at h
  simp [toRaw, rawB, decodeRaw, formatOf, Format.len, Raw.body, Raw.finish, Raw.form, firstField, Raw.noD, Raw.noA, Raw.noB, Raw.noC, Raw.zeroImm, Raw.noHi, Raw.noLa, Raw.immBit, Raw.scopeCode, Raw.ordCode, Raw.op2D, Raw.float, Raw.float2, Raw.float3, Raw.floatC, Raw.convert, Raw.intConvert, Raw.packForm, h] <;> cases prec <;> (repeat' split) <;> simp_all [Prec.code, Order.code, bit1] <;> omega

theorem Laws.RoundTrip.bra (o : ImmForm) : Laws.RoundTrip.Statement (.bra o) := by
  intro h
  obtain ⟨⟨d, a, b, c, m, la, g⟩, imm⟩ := o
  simp [Instr.wellFormed, Form.ok, Form.okA, memOk, pfOk, loadOrder, storeOrder, shuffleOk, scanOk] at h
  simp [toRaw, rawB, decodeRaw, formatOf, Format.len, Raw.body, Raw.finish, Raw.form, firstField, Raw.noD, Raw.noA, Raw.noB, Raw.noC, Raw.zeroImm, Raw.noHi, Raw.noLa, Raw.immBit, Raw.scopeCode, Raw.ordCode, Raw.control, Raw.plain, Raw.frameLimit, Raw.shuffle, Raw.scan, Raw.floatScan, h] <;> (repeat' split) <;> simp_all [Prec.code, Order.code, bit1] <;> omega

theorem Laws.RoundTrip.brx (o : Form) : Laws.RoundTrip.Statement (.brx o) := by
  intro h
  obtain ⟨d, a, b, c, m, la, g⟩ := o
  simp [Instr.wellFormed, Form.ok, Form.okA, memOk, pfOk, loadOrder, storeOrder, shuffleOk, scanOk] at h
  simp [toRaw, rawB, decodeRaw, formatOf, Format.len, Raw.body, Raw.finish, Raw.form, firstField, Raw.noD, Raw.noA, Raw.noB, Raw.noC, Raw.zeroImm, Raw.noHi, Raw.noLa, Raw.immBit, Raw.scopeCode, Raw.ordCode, Raw.control, Raw.plain, Raw.frameLimit, Raw.shuffle, Raw.scan, Raw.floatScan, h] <;> (repeat' split) <;> simp_all [Prec.code, Order.code, bit1] <;> omega

theorem Laws.RoundTrip.jmpl (o : LitForm) : Laws.RoundTrip.Statement (.jmpl o) := by
  intro h
  obtain ⟨⟨d, a, b, c, m, la, g⟩, lit⟩ := o
  simp [Instr.wellFormed, Form.ok, Form.okA, memOk, pfOk, loadOrder, storeOrder, shuffleOk, scanOk] at h
  simp [toRaw, rawD, decodeRaw, formatOf, Format.len, Raw.body, Raw.finish, Raw.form, firstField, Raw.noD, Raw.noA, Raw.noB, Raw.noC, Raw.zeroImm, Raw.noHi, Raw.noLa, Raw.immBit, Raw.scopeCode, Raw.ordCode, Raw.control, Raw.plain, Raw.frameLimit, Raw.shuffle, Raw.scan, Raw.floatScan, h] <;> (repeat' split) <;> simp_all [Prec.code, Order.code, bit1] <;> omega

theorem Laws.RoundTrip.call (o : ImmForm) : Laws.RoundTrip.Statement (.call o) := by
  intro h
  obtain ⟨⟨d, a, b, c, m, la, g⟩, imm⟩ := o
  simp [Instr.wellFormed, Form.ok, Form.okA, memOk, pfOk, loadOrder, storeOrder, shuffleOk, scanOk] at h
  simp [toRaw, rawB, decodeRaw, formatOf, Format.len, Raw.body, Raw.finish, Raw.form, firstField, Raw.noD, Raw.noA, Raw.noB, Raw.noC, Raw.zeroImm, Raw.noHi, Raw.noLa, Raw.immBit, Raw.scopeCode, Raw.ordCode, Raw.control, Raw.plain, Raw.frameLimit, Raw.shuffle, Raw.scan, Raw.floatScan, h] <;> (repeat' split) <;> simp_all [Prec.code, Order.code, bit1] <;> omega

theorem Laws.RoundTrip.callx (o : Form) : Laws.RoundTrip.Statement (.callx o) := by
  intro h
  obtain ⟨d, a, b, c, m, la, g⟩ := o
  simp [Instr.wellFormed, Form.ok, Form.okA, memOk, pfOk, loadOrder, storeOrder, shuffleOk, scanOk] at h
  simp [toRaw, rawB, decodeRaw, formatOf, Format.len, Raw.body, Raw.finish, Raw.form, firstField, Raw.noD, Raw.noA, Raw.noB, Raw.noC, Raw.zeroImm, Raw.noHi, Raw.noLa, Raw.immBit, Raw.scopeCode, Raw.ordCode, Raw.control, Raw.plain, Raw.frameLimit, Raw.shuffle, Raw.scan, Raw.floatScan, h] <;> (repeat' split) <;> simp_all [Prec.code, Order.code, bit1] <;> omega

theorem Laws.RoundTrip.calll (o : LitForm) : Laws.RoundTrip.Statement (.calll o) := by
  intro h
  obtain ⟨⟨d, a, b, c, m, la, g⟩, lit⟩ := o
  simp [Instr.wellFormed, Form.ok, Form.okA, memOk, pfOk, loadOrder, storeOrder, shuffleOk, scanOk] at h
  simp [toRaw, rawD, decodeRaw, formatOf, Format.len, Raw.body, Raw.finish, Raw.form, firstField, Raw.noD, Raw.noA, Raw.noB, Raw.noC, Raw.zeroImm, Raw.noHi, Raw.noLa, Raw.immBit, Raw.scopeCode, Raw.ordCode, Raw.control, Raw.plain, Raw.frameLimit, Raw.shuffle, Raw.scan, Raw.floatScan, h] <;> (repeat' split) <;> simp_all [Prec.code, Order.code, bit1] <;> omega

theorem Laws.RoundTrip.ret (o : Form) : Laws.RoundTrip.Statement (.ret o) := by
  intro h
  obtain ⟨d, a, b, c, m, la, g⟩ := o
  simp [Instr.wellFormed, Form.ok, Form.okA, memOk, pfOk, loadOrder, storeOrder, shuffleOk, scanOk] at h
  simp [toRaw, rawB, decodeRaw, formatOf, Format.len, Raw.body, Raw.finish, Raw.form, firstField, Raw.noD, Raw.noA, Raw.noB, Raw.noC, Raw.zeroImm, Raw.noHi, Raw.noLa, Raw.immBit, Raw.scopeCode, Raw.ordCode, Raw.control, Raw.plain, Raw.frameLimit, Raw.shuffle, Raw.scan, Raw.floatScan, h] <;> (repeat' split) <;> simp_all [Prec.code, Order.code, bit1] <;> omega

theorem Laws.RoundTrip.exit (o : Form) : Laws.RoundTrip.Statement (.exit o) := by
  intro h
  obtain ⟨d, a, b, c, m, la, g⟩ := o
  simp [Instr.wellFormed, Form.ok, Form.okA, memOk, pfOk, loadOrder, storeOrder, shuffleOk, scanOk] at h
  simp [toRaw, rawB, decodeRaw, formatOf, Format.len, Raw.body, Raw.finish, Raw.form, firstField, Raw.noD, Raw.noA, Raw.noB, Raw.noC, Raw.zeroImm, Raw.noHi, Raw.noLa, Raw.immBit, Raw.scopeCode, Raw.ordCode, Raw.control, Raw.plain, Raw.frameLimit, Raw.shuffle, Raw.scan, Raw.floatScan, h] <;> (repeat' split) <;> simp_all [Prec.code, Order.code, bit1] <;> omega

theorem Laws.RoundTrip.rfpt (o : Form) : Laws.RoundTrip.Statement (.rfpt o) := by
  intro h
  obtain ⟨d, a, b, c, m, la, g⟩ := o
  simp [Instr.wellFormed, Form.ok, Form.okA, memOk, pfOk, loadOrder, storeOrder, shuffleOk, scanOk] at h
  simp [toRaw, rawB, decodeRaw, formatOf, Format.len, Raw.body, Raw.finish, Raw.form, firstField, Raw.noD, Raw.noA, Raw.noB, Raw.noC, Raw.zeroImm, Raw.noHi, Raw.noLa, Raw.immBit, Raw.scopeCode, Raw.ordCode, Raw.control, Raw.plain, Raw.frameLimit, Raw.shuffle, Raw.scan, Raw.floatScan, h] <;> (repeat' split) <;> simp_all [Prec.code, Order.code, bit1] <;> omega

theorem Laws.RoundTrip.yield (o : Form) : Laws.RoundTrip.Statement (.yield o) := by
  intro h
  obtain ⟨d, a, b, c, m, la, g⟩ := o
  simp [Instr.wellFormed, Form.ok, Form.okA, memOk, pfOk, loadOrder, storeOrder, shuffleOk, scanOk] at h
  simp [toRaw, rawB, decodeRaw, formatOf, Format.len, Raw.body, Raw.finish, Raw.form, firstField, Raw.noD, Raw.noA, Raw.noB, Raw.noC, Raw.zeroImm, Raw.noHi, Raw.noLa, Raw.immBit, Raw.scopeCode, Raw.ordCode, Raw.control, Raw.plain, Raw.frameLimit, Raw.shuffle, Raw.scan, Raw.floatScan, h] <;> (repeat' split) <;> simp_all [Prec.code, Order.code, bit1] <;> omega

theorem Laws.RoundTrip.nop (o : Form) : Laws.RoundTrip.Statement (.nop o) := by
  intro h
  obtain ⟨d, a, b, c, m, la, g⟩ := o
  simp [Instr.wellFormed, Form.ok, Form.okA, memOk, pfOk, loadOrder, storeOrder, shuffleOk, scanOk] at h
  simp [toRaw, rawB, decodeRaw, formatOf, Format.len, Raw.body, Raw.finish, Raw.form, firstField, Raw.noD, Raw.noA, Raw.noB, Raw.noC, Raw.zeroImm, Raw.noHi, Raw.noLa, Raw.immBit, Raw.scopeCode, Raw.ordCode, Raw.control, Raw.plain, Raw.frameLimit, Raw.shuffle, Raw.scan, Raw.floatScan, h] <;> (repeat' split) <;> simp_all [Prec.code, Order.code, bit1] <;> omega

theorem Laws.RoundTrip.brk (o : ImmForm) : Laws.RoundTrip.Statement (.brk o) := by
  intro h
  obtain ⟨⟨d, a, b, c, m, la, g⟩, imm⟩ := o
  simp [Instr.wellFormed, Form.ok, Form.okA, memOk, pfOk, loadOrder, storeOrder, shuffleOk, scanOk] at h
  simp [toRaw, rawB, decodeRaw, formatOf, Format.len, Raw.body, Raw.finish, Raw.form, firstField, Raw.noD, Raw.noA, Raw.noB, Raw.noC, Raw.zeroImm, Raw.noHi, Raw.noLa, Raw.immBit, Raw.scopeCode, Raw.ordCode, Raw.control, Raw.plain, Raw.frameLimit, Raw.shuffle, Raw.scan, Raw.floatScan, h] <;> (repeat' split) <;> simp_all [Prec.code, Order.code, bit1] <;> omega

theorem Laws.RoundTrip.migr (o : Form) : Laws.RoundTrip.Statement (.migr o) := by
  intro h
  obtain ⟨d, a, b, c, m, la, g⟩ := o
  simp [Instr.wellFormed, Form.ok, Form.okA, memOk, pfOk, loadOrder, storeOrder, shuffleOk, scanOk] at h
  simp [toRaw, rawB, decodeRaw, formatOf, Format.len, Raw.body, Raw.finish, Raw.form, firstField, Raw.noD, Raw.noA, Raw.noB, Raw.noC, Raw.zeroImm, Raw.noHi, Raw.noLa, Raw.immBit, Raw.scopeCode, Raw.ordCode, Raw.control, Raw.plain, Raw.frameLimit, Raw.shuffle, Raw.scan, Raw.floatScan, h] <;> (repeat' split) <;> simp_all [Prec.code, Order.code, bit1] <;> omega

theorem Laws.RoundTrip.shfli (o : ShuffleForm) : Laws.RoundTrip.Statement (.shfli o) := by
  intro h
  obtain ⟨⟨d, a, b, c, m, la, g⟩, seg, rb, k⟩ := o
  cases rb <;>
  simp [Instr.wellFormed, Form.ok, Form.okA, memOk, pfOk, loadOrder, storeOrder, shuffleOk, scanOk, redOk, convertOk] at h
  all_goals
    casesm* _ ∧ _, _ ∨ _ <;> subst_vars <;>
    simp [toRaw, rawB, decodeRaw, formatOf, Format.len, Raw.body, Raw.finish, Raw.form, firstField, Raw.noD, Raw.noA, Raw.noB, Raw.noC, Raw.zeroImm, Raw.noHi, Raw.noLa, Raw.immBit, Raw.scopeCode, Raw.ordCode, Raw.control, Raw.plain, Raw.frameLimit, Raw.shuffle, Raw.scan, Raw.floatScan, convertOk, *] <;> (repeat' split) <;> simp_all [Prec.code, Order.code, bit1] <;> omega

theorem Laws.RoundTrip.shflu (o : ShuffleForm) : Laws.RoundTrip.Statement (.shflu o) := by
  intro h
  obtain ⟨⟨d, a, b, c, m, la, g⟩, seg, rb, k⟩ := o
  cases rb <;>
  simp [Instr.wellFormed, Form.ok, Form.okA, memOk, pfOk, loadOrder, storeOrder, shuffleOk, scanOk, redOk, convertOk] at h
  all_goals
    casesm* _ ∧ _, _ ∨ _ <;> subst_vars <;>
    simp [toRaw, rawB, decodeRaw, formatOf, Format.len, Raw.body, Raw.finish, Raw.form, firstField, Raw.noD, Raw.noA, Raw.noB, Raw.noC, Raw.zeroImm, Raw.noHi, Raw.noLa, Raw.immBit, Raw.scopeCode, Raw.ordCode, Raw.control, Raw.plain, Raw.frameLimit, Raw.shuffle, Raw.scan, Raw.floatScan, convertOk, *] <;> (repeat' split) <;> simp_all [Prec.code, Order.code, bit1] <;> omega

theorem Laws.RoundTrip.shfld (o : ShuffleForm) : Laws.RoundTrip.Statement (.shfld o) := by
  intro h
  obtain ⟨⟨d, a, b, c, m, la, g⟩, seg, rb, k⟩ := o
  cases rb <;>
  simp [Instr.wellFormed, Form.ok, Form.okA, memOk, pfOk, loadOrder, storeOrder, shuffleOk, scanOk, redOk, convertOk] at h
  all_goals
    casesm* _ ∧ _, _ ∨ _ <;> subst_vars <;>
    simp [toRaw, rawB, decodeRaw, formatOf, Format.len, Raw.body, Raw.finish, Raw.form, firstField, Raw.noD, Raw.noA, Raw.noB, Raw.noC, Raw.zeroImm, Raw.noHi, Raw.noLa, Raw.immBit, Raw.scopeCode, Raw.ordCode, Raw.control, Raw.plain, Raw.frameLimit, Raw.shuffle, Raw.scan, Raw.floatScan, convertOk, *] <;> (repeat' split) <;> simp_all [Prec.code, Order.code, bit1] <;> omega

theorem Laws.RoundTrip.shflx (o : ShuffleForm) : Laws.RoundTrip.Statement (.shflx o) := by
  intro h
  obtain ⟨⟨d, a, b, c, m, la, g⟩, seg, rb, k⟩ := o
  cases rb <;>
  simp [Instr.wellFormed, Form.ok, Form.okA, memOk, pfOk, loadOrder, storeOrder, shuffleOk, scanOk, redOk, convertOk] at h
  all_goals
    casesm* _ ∧ _, _ ∨ _ <;> subst_vars <;>
    simp [toRaw, rawB, decodeRaw, formatOf, Format.len, Raw.body, Raw.finish, Raw.form, firstField, Raw.noD, Raw.noA, Raw.noB, Raw.noC, Raw.zeroImm, Raw.noHi, Raw.noLa, Raw.immBit, Raw.scopeCode, Raw.ordCode, Raw.control, Raw.plain, Raw.frameLimit, Raw.shuffle, Raw.scan, Raw.floatScan, convertOk, *] <;> (repeat' split) <;> simp_all [Prec.code, Order.code, bit1] <;> omega

theorem Laws.RoundTrip.vall (o : Form) : Laws.RoundTrip.Statement (.vall o) := by
  intro h
  obtain ⟨d, a, b, c, m, la, g⟩ := o
  simp [Instr.wellFormed, Form.ok, Form.okA, memOk, pfOk, loadOrder, storeOrder, shuffleOk, scanOk] at h
  simp [toRaw, rawB, decodeRaw, formatOf, Format.len, Raw.body, Raw.finish, Raw.form, firstField, Raw.noD, Raw.noA, Raw.noB, Raw.noC, Raw.zeroImm, Raw.noHi, Raw.noLa, Raw.immBit, Raw.scopeCode, Raw.ordCode, Raw.control, Raw.plain, Raw.frameLimit, Raw.shuffle, Raw.scan, Raw.floatScan, h] <;> (repeat' split) <;> simp_all [Prec.code, Order.code, bit1] <;> omega

theorem Laws.RoundTrip.vany (o : Form) : Laws.RoundTrip.Statement (.vany o) := by
  intro h
  obtain ⟨d, a, b, c, m, la, g⟩ := o
  simp [Instr.wellFormed, Form.ok, Form.okA, memOk, pfOk, loadOrder, storeOrder, shuffleOk, scanOk] at h
  simp [toRaw, rawB, decodeRaw, formatOf, Format.len, Raw.body, Raw.finish, Raw.form, firstField, Raw.noD, Raw.noA, Raw.noB, Raw.noC, Raw.zeroImm, Raw.noHi, Raw.noLa, Raw.immBit, Raw.scopeCode, Raw.ordCode, Raw.control, Raw.plain, Raw.frameLimit, Raw.shuffle, Raw.scan, Raw.floatScan, h] <;> (repeat' split) <;> simp_all [Prec.code, Order.code, bit1] <;> omega

theorem Laws.RoundTrip.ballot (o : Form) : Laws.RoundTrip.Statement (.ballot o) := by
  intro h
  obtain ⟨d, a, b, c, m, la, g⟩ := o
  simp [Instr.wellFormed, Form.ok, Form.okA, memOk, pfOk, loadOrder, storeOrder, shuffleOk, scanOk] at h
  simp [toRaw, rawB, decodeRaw, formatOf, Format.len, Raw.body, Raw.finish, Raw.form, firstField, Raw.noD, Raw.noA, Raw.noB, Raw.noC, Raw.zeroImm, Raw.noHi, Raw.noLa, Raw.immBit, Raw.scopeCode, Raw.ordCode, Raw.control, Raw.plain, Raw.frameLimit, Raw.shuffle, Raw.scan, Raw.floatScan, h] <;> (repeat' split) <;> simp_all [Prec.code, Order.code, bit1] <;> omega

theorem Laws.RoundTrip.matchLanes (o : Form) : Laws.RoundTrip.Statement (.matchLanes o) := by
  intro h
  obtain ⟨d, a, b, c, m, la, g⟩ := o
  simp [Instr.wellFormed, Form.ok, Form.okA, memOk, pfOk, loadOrder, storeOrder, shuffleOk, scanOk] at h
  simp [toRaw, rawB, decodeRaw, formatOf, Format.len, Raw.body, Raw.finish, Raw.form, firstField, Raw.noD, Raw.noA, Raw.noB, Raw.noC, Raw.zeroImm, Raw.noHi, Raw.noLa, Raw.immBit, Raw.scopeCode, Raw.ordCode, Raw.control, Raw.plain, Raw.frameLimit, Raw.shuffle, Raw.scan, Raw.floatScan, h] <;> (repeat' split) <;> simp_all [Prec.code, Order.code, bit1] <;> omega

theorem Laws.RoundTrip.wscan (o : ScanForm) : Laws.RoundTrip.Statement (.wscan o) := by
  intro h
  obtain ⟨⟨d, a, b, c, m, la, g⟩, seg, exc, w64, op, uns⟩ := o
  simp [Instr.wellFormed, Form.ok, Form.okA, memOk, pfOk, loadOrder, storeOrder, shuffleOk, scanOk] at h
  simp [toRaw, rawB, decodeRaw, formatOf, Format.len, Raw.body, Raw.finish, Raw.form, firstField, Raw.noD, Raw.noA, Raw.noB, Raw.noC, Raw.zeroImm, Raw.noHi, Raw.noLa, Raw.immBit, Raw.scopeCode, Raw.ordCode, Raw.control, Raw.plain, Raw.frameLimit, Raw.shuffle, Raw.scan, Raw.floatScan, h] <;> (repeat' split) <;> simp_all [Prec.code, Order.code, bit1] <;> omega

theorem Laws.RoundTrip.wred (o : ScanForm) : Laws.RoundTrip.Statement (.wred o) := by
  intro h
  obtain ⟨⟨d, a, b, c, m, la, g⟩, seg, exc, w64, op, uns⟩ := o
  simp [Instr.wellFormed, Form.ok, Form.okA, memOk, pfOk, loadOrder, storeOrder, shuffleOk, scanOk] at h
  simp [toRaw, rawB, decodeRaw, formatOf, Format.len, Raw.body, Raw.finish, Raw.form, firstField, Raw.noD, Raw.noA, Raw.noB, Raw.noC, Raw.zeroImm, Raw.noHi, Raw.noLa, Raw.immBit, Raw.scopeCode, Raw.ordCode, Raw.control, Raw.plain, Raw.frameLimit, Raw.shuffle, Raw.scan, Raw.floatScan, h] <;> (repeat' split) <;> simp_all [Prec.code, Order.code, bit1] <;> omega

theorem Laws.RoundTrip.wfred (o : FloatScanForm) : Laws.RoundTrip.Statement (.wfred o) := by
  intro h
  obtain ⟨⟨d, a, b, c, m, la, g⟩, seg, op, f64⟩ := o
  cases f64 <;>
  simp [Instr.wellFormed, Form.ok, Form.okA, memOk, pfOk, loadOrder, storeOrder, shuffleOk, scanOk, redOk, convertOk] at h
  all_goals
    casesm* _ ∧ _, _ ∨ _ <;> subst_vars <;>
    simp [toRaw, rawB, decodeRaw, formatOf, Format.len, Raw.body, Raw.finish, Raw.form, firstField, Raw.noD, Raw.noA, Raw.noB, Raw.noC, Raw.zeroImm, Raw.noHi, Raw.noLa, Raw.immBit, Raw.scopeCode, Raw.ordCode, Raw.control, Raw.plain, Raw.frameLimit, Raw.shuffle, Raw.scan, Raw.floatScan, convertOk, *] <;> (repeat' split) <;> simp_all [Prec.code, Order.code, bit1] <;> omega

theorem Laws.RoundTrip.ld (o : MemForm) : Laws.RoundTrip.Statement (.ld o) := by
  intro h
  obtain ⟨⟨d, a, b, c, m, la, g⟩, width, sx, scale, idx, clr, ord, scope, off⟩ := o
  simp [Instr.wellFormed, Form.ok, Form.okA, memOk, pfOk, loadOrder, storeOrder, shuffleOk, scanOk] at h
  simp [toRaw, rawB, decodeRaw, formatOf, Format.len, Raw.body, Raw.finish, Raw.form, firstField, Raw.noD, Raw.noA, Raw.noB, Raw.noC, Raw.zeroImm, Raw.noHi, Raw.noLa, Raw.immBit, Raw.scopeCode, Raw.ordCode, Raw.memory, Raw.memForm, Raw.mem, Raw.prefetch, Raw.atomForm, Raw.atomic, h] <;> cases ord <;> cases width <;> (repeat' split) <;> simp_all [Prec.code, Order.code, bit1] <;> omega

theorem Laws.RoundTrip.st (o : MemForm) : Laws.RoundTrip.Statement (.st o) := by
  intro h
  obtain ⟨⟨d, a, b, c, m, la, g⟩, width, sx, scale, idx, clr, ord, scope, off⟩ := o
  simp [Instr.wellFormed, Form.ok, Form.okA, memOk, pfOk, loadOrder, storeOrder, shuffleOk, scanOk] at h
  simp [toRaw, rawB, decodeRaw, formatOf, Format.len, Raw.body, Raw.finish, Raw.form, firstField, Raw.noD, Raw.noA, Raw.noB, Raw.noC, Raw.zeroImm, Raw.noHi, Raw.noLa, Raw.immBit, Raw.scopeCode, Raw.ordCode, Raw.memory, Raw.memForm, Raw.mem, Raw.prefetch, Raw.atomForm, Raw.atomic, h] <;> cases ord <;> (repeat' split) <;> simp_all [Prec.code, Order.code, bit1] <;> omega

theorem Laws.RoundTrip.ldu (o : MemForm) : Laws.RoundTrip.Statement (.ldu o) := by
  intro h
  obtain ⟨⟨d, a, b, c, m, la, g⟩, width, sx, scale, idx, clr, ord, scope, off⟩ := o
  simp [Instr.wellFormed, Form.ok, Form.okA, memOk, pfOk, loadOrder, storeOrder, shuffleOk, scanOk] at h
  simp [toRaw, rawB, decodeRaw, formatOf, Format.len, Raw.body, Raw.finish, Raw.form, firstField, Raw.noD, Raw.noA, Raw.noB, Raw.noC, Raw.zeroImm, Raw.noHi, Raw.noLa, Raw.immBit, Raw.scopeCode, Raw.ordCode, Raw.memory, Raw.memForm, Raw.mem, Raw.prefetch, Raw.atomForm, Raw.atomic, h] <;> cases ord <;> (repeat' split) <;> simp_all [Prec.code, Order.code, bit1] <;> omega

theorem Laws.RoundTrip.ldfe (o : MemForm) : Laws.RoundTrip.Statement (.ldfe o) := by
  intro h
  obtain ⟨⟨d, a, b, c, m, la, g⟩, width, sx, scale, idx, clr, ord, scope, off⟩ := o
  simp [Instr.wellFormed, Form.ok, Form.okA, memOk, pfOk, loadOrder, storeOrder, shuffleOk, scanOk, redOk, convertOk] at h
  all_goals
    casesm* _ ∧ _, _ ∨ _ <;> subst_vars <;>
    simp [toRaw, rawB, decodeRaw, formatOf, Format.len, Raw.body, Raw.finish, Raw.form, firstField, Raw.noD, Raw.noA, Raw.noB, Raw.noC, Raw.zeroImm, Raw.noHi, Raw.noLa, Raw.immBit, Raw.scopeCode, Raw.ordCode, Raw.memory, Raw.memForm, Raw.mem, Raw.prefetch, Raw.atomForm, Raw.atomic, convertOk, *] <;> (repeat' split) <;> simp_all [Prec.code, Order.code, bit1] <;> omega

theorem Laws.RoundTrip.stfe (o : MemForm) : Laws.RoundTrip.Statement (.stfe o) := by
  intro h
  obtain ⟨⟨d, a, b, c, m, la, g⟩, width, sx, scale, idx, clr, ord, scope, off⟩ := o
  simp [Instr.wellFormed, Form.ok, Form.okA, memOk, pfOk, loadOrder, storeOrder, shuffleOk, scanOk, redOk, convertOk] at h
  all_goals
    casesm* _ ∧ _, _ ∨ _ <;> subst_vars <;>
    simp [toRaw, rawB, decodeRaw, formatOf, Format.len, Raw.body, Raw.finish, Raw.form, firstField, Raw.noD, Raw.noA, Raw.noB, Raw.noC, Raw.zeroImm, Raw.noHi, Raw.noLa, Raw.immBit, Raw.scopeCode, Raw.ordCode, Raw.memory, Raw.memForm, Raw.mem, Raw.prefetch, Raw.atomForm, Raw.atomic, convertOk, *] <;> (repeat' split) <;> simp_all [Prec.code, Order.code, bit1] <;> omega

theorem Laws.RoundTrip.pf (o : PrefetchForm) : Laws.RoundTrip.Statement (.pf o) := by
  intro h
  obtain ⟨⟨d, a, b, c, m, la, g⟩, level, scale, idx, off⟩ := o
  simp [Instr.wellFormed, Form.ok, Form.okA, memOk, pfOk, loadOrder, storeOrder, shuffleOk, scanOk] at h
  simp [toRaw, rawB, decodeRaw, formatOf, Format.len, Raw.body, Raw.finish, Raw.form, firstField, Raw.noD, Raw.noA, Raw.noB, Raw.noC, Raw.zeroImm, Raw.noHi, Raw.noLa, Raw.immBit, Raw.scopeCode, Raw.ordCode, Raw.memory, Raw.memForm, Raw.mem, Raw.prefetch, Raw.atomForm, Raw.atomic, h] <;> (repeat' split) <;> simp_all [Prec.code, Order.code, bit1] <;> omega

theorem Laws.RoundTrip.atomAdd (o : AtomForm) : Laws.RoundTrip.Statement (.atomAdd o) := by
  intro h
  obtain ⟨⟨d, a, b, c, m, la, g⟩, uns, w64, ord, scope, off⟩ := o
  simp [Instr.wellFormed, Form.ok, Form.okA, memOk, pfOk, loadOrder, storeOrder, shuffleOk, scanOk, redOk, convertOk] at h
  all_goals
    casesm* _ ∧ _, _ ∨ _ <;> subst_vars <;>
    simp [toRaw, rawB, decodeRaw, formatOf, Format.len, Raw.body, Raw.finish, Raw.form, firstField, Raw.noD, Raw.noA, Raw.noB, Raw.noC, Raw.zeroImm, Raw.noHi, Raw.noLa, Raw.immBit, Raw.scopeCode, Raw.ordCode, Raw.memory, Raw.memForm, Raw.mem, Raw.prefetch, Raw.atomForm, Raw.atomic, convertOk, *] <;> (repeat' split) <;> simp_all [Prec.code, Order.code, bit1] <;> omega

theorem Laws.RoundTrip.atomAnd (o : AtomForm) : Laws.RoundTrip.Statement (.atomAnd o) := by
  intro h
  obtain ⟨⟨d, a, b, c, m, la, g⟩, uns, w64, ord, scope, off⟩ := o
  simp [Instr.wellFormed, Form.ok, Form.okA, memOk, pfOk, loadOrder, storeOrder, shuffleOk, scanOk, redOk, convertOk] at h
  all_goals
    casesm* _ ∧ _, _ ∨ _ <;> subst_vars <;>
    simp [toRaw, rawB, decodeRaw, formatOf, Format.len, Raw.body, Raw.finish, Raw.form, firstField, Raw.noD, Raw.noA, Raw.noB, Raw.noC, Raw.zeroImm, Raw.noHi, Raw.noLa, Raw.immBit, Raw.scopeCode, Raw.ordCode, Raw.memory, Raw.memForm, Raw.mem, Raw.prefetch, Raw.atomForm, Raw.atomic, convertOk, *] <;> (repeat' split) <;> simp_all [Prec.code, Order.code, bit1] <;> omega

theorem Laws.RoundTrip.atomOr (o : AtomForm) : Laws.RoundTrip.Statement (.atomOr o) := by
  intro h
  obtain ⟨⟨d, a, b, c, m, la, g⟩, uns, w64, ord, scope, off⟩ := o
  simp [Instr.wellFormed, Form.ok, Form.okA, memOk, pfOk, loadOrder, storeOrder, shuffleOk, scanOk, redOk, convertOk] at h
  all_goals
    casesm* _ ∧ _, _ ∨ _ <;> subst_vars <;>
    simp [toRaw, rawB, decodeRaw, formatOf, Format.len, Raw.body, Raw.finish, Raw.form, firstField, Raw.noD, Raw.noA, Raw.noB, Raw.noC, Raw.zeroImm, Raw.noHi, Raw.noLa, Raw.immBit, Raw.scopeCode, Raw.ordCode, Raw.memory, Raw.memForm, Raw.mem, Raw.prefetch, Raw.atomForm, Raw.atomic, convertOk, *] <;> (repeat' split) <;> simp_all [Prec.code, Order.code, bit1] <;> omega

theorem Laws.RoundTrip.atomXor (o : AtomForm) : Laws.RoundTrip.Statement (.atomXor o) := by
  intro h
  obtain ⟨⟨d, a, b, c, m, la, g⟩, uns, w64, ord, scope, off⟩ := o
  simp [Instr.wellFormed, Form.ok, Form.okA, memOk, pfOk, loadOrder, storeOrder, shuffleOk, scanOk, redOk, convertOk] at h
  all_goals
    casesm* _ ∧ _, _ ∨ _ <;> subst_vars <;>
    simp [toRaw, rawB, decodeRaw, formatOf, Format.len, Raw.body, Raw.finish, Raw.form, firstField, Raw.noD, Raw.noA, Raw.noB, Raw.noC, Raw.zeroImm, Raw.noHi, Raw.noLa, Raw.immBit, Raw.scopeCode, Raw.ordCode, Raw.memory, Raw.memForm, Raw.mem, Raw.prefetch, Raw.atomForm, Raw.atomic, convertOk, *] <;> (repeat' split) <;> simp_all [Prec.code, Order.code, bit1] <;> omega

theorem Laws.RoundTrip.atomMin (o : AtomForm) : Laws.RoundTrip.Statement (.atomMin o) := by
  intro h
  obtain ⟨⟨d, a, b, c, m, la, g⟩, uns, w64, ord, scope, off⟩ := o
  simp [Instr.wellFormed, Form.ok, Form.okA, memOk, pfOk, loadOrder, storeOrder, shuffleOk, scanOk, redOk, convertOk] at h
  all_goals
    casesm* _ ∧ _, _ ∨ _ <;> subst_vars <;>
    simp [toRaw, rawB, decodeRaw, formatOf, Format.len, Raw.body, Raw.finish, Raw.form, firstField, Raw.noD, Raw.noA, Raw.noB, Raw.noC, Raw.zeroImm, Raw.noHi, Raw.noLa, Raw.immBit, Raw.scopeCode, Raw.ordCode, Raw.memory, Raw.memForm, Raw.mem, Raw.prefetch, Raw.atomForm, Raw.atomic, convertOk, *] <;> (repeat' split) <;> simp_all [Prec.code, Order.code, bit1] <;> omega

theorem Laws.RoundTrip.atomMax (o : AtomForm) : Laws.RoundTrip.Statement (.atomMax o) := by
  intro h
  obtain ⟨⟨d, a, b, c, m, la, g⟩, uns, w64, ord, scope, off⟩ := o
  simp [Instr.wellFormed, Form.ok, Form.okA, memOk, pfOk, loadOrder, storeOrder, shuffleOk, scanOk, redOk, convertOk] at h
  all_goals
    casesm* _ ∧ _, _ ∨ _ <;> subst_vars <;>
    simp [toRaw, rawB, decodeRaw, formatOf, Format.len, Raw.body, Raw.finish, Raw.form, firstField, Raw.noD, Raw.noA, Raw.noB, Raw.noC, Raw.zeroImm, Raw.noHi, Raw.noLa, Raw.immBit, Raw.scopeCode, Raw.ordCode, Raw.memory, Raw.memForm, Raw.mem, Raw.prefetch, Raw.atomForm, Raw.atomic, convertOk, *] <;> (repeat' split) <;> simp_all [Prec.code, Order.code, bit1] <;> omega

theorem Laws.RoundTrip.atomXchg (o : AtomForm) : Laws.RoundTrip.Statement (.atomXchg o) := by
  intro h
  obtain ⟨⟨d, a, b, c, m, la, g⟩, uns, w64, ord, scope, off⟩ := o
  simp [Instr.wellFormed, Form.ok, Form.okA, memOk, pfOk, loadOrder, storeOrder, shuffleOk, scanOk, redOk, convertOk] at h
  all_goals
    casesm* _ ∧ _, _ ∨ _ <;> subst_vars <;>
    simp [toRaw, rawB, decodeRaw, formatOf, Format.len, Raw.body, Raw.finish, Raw.form, firstField, Raw.noD, Raw.noA, Raw.noB, Raw.noC, Raw.zeroImm, Raw.noHi, Raw.noLa, Raw.immBit, Raw.scopeCode, Raw.ordCode, Raw.memory, Raw.memForm, Raw.mem, Raw.prefetch, Raw.atomForm, Raw.atomic, convertOk, *] <;> (repeat' split) <;> simp_all [Prec.code, Order.code, bit1] <;> omega

theorem Laws.RoundTrip.atomDecp (o : AtomForm) : Laws.RoundTrip.Statement (.atomDecp o) := by
  intro h
  obtain ⟨⟨d, a, b, c, m, la, g⟩, uns, w64, ord, scope, off⟩ := o
  simp [Instr.wellFormed, Form.ok, Form.okA, memOk, pfOk, loadOrder, storeOrder, shuffleOk, scanOk, redOk, convertOk] at h
  all_goals
    casesm* _ ∧ _, _ ∨ _ <;> subst_vars <;>
    simp [toRaw, rawB, decodeRaw, formatOf, Format.len, Raw.body, Raw.finish, Raw.form, firstField, Raw.noD, Raw.noA, Raw.noB, Raw.noC, Raw.zeroImm, Raw.noHi, Raw.noLa, Raw.immBit, Raw.scopeCode, Raw.ordCode, Raw.memory, Raw.memForm, Raw.mem, Raw.prefetch, Raw.atomForm, Raw.atomic, convertOk, *] <;> (repeat' split) <;> simp_all [Prec.code, Order.code, bit1] <;> omega

theorem Laws.RoundTrip.atomFadd (o : AtomForm) : Laws.RoundTrip.Statement (.atomFadd o) := by
  intro h
  obtain ⟨⟨d, a, b, c, m, la, g⟩, uns, w64, ord, scope, off⟩ := o
  simp [Instr.wellFormed, Form.ok, Form.okA, memOk, pfOk, loadOrder, storeOrder, shuffleOk, scanOk, redOk, convertOk] at h
  all_goals
    casesm* _ ∧ _, _ ∨ _ <;> subst_vars <;>
    simp [toRaw, rawB, decodeRaw, formatOf, Format.len, Raw.body, Raw.finish, Raw.form, firstField, Raw.noD, Raw.noA, Raw.noB, Raw.noC, Raw.zeroImm, Raw.noHi, Raw.noLa, Raw.immBit, Raw.scopeCode, Raw.ordCode, Raw.memory, Raw.memForm, Raw.mem, Raw.prefetch, Raw.atomForm, Raw.atomic, convertOk, *] <;> (repeat' split) <;> simp_all [Prec.code, Order.code, bit1] <;> omega

theorem Laws.RoundTrip.acas (o : AtomForm) : Laws.RoundTrip.Statement (.acas o) := by
  intro h
  obtain ⟨⟨d, a, b, c, m, la, g⟩, uns, w64, ord, scope, off⟩ := o
  simp [Instr.wellFormed, Form.ok, Form.okA, memOk, pfOk, loadOrder, storeOrder, shuffleOk, scanOk, redOk, convertOk] at h
  all_goals
    casesm* _ ∧ _, _ ∨ _ <;> subst_vars <;>
    simp [toRaw, rawB, decodeRaw, formatOf, Format.len, Raw.body, Raw.finish, Raw.form, firstField, Raw.noD, Raw.noA, Raw.noB, Raw.noC, Raw.zeroImm, Raw.noHi, Raw.noLa, Raw.immBit, Raw.scopeCode, Raw.ordCode, Raw.memory, Raw.memForm, Raw.mem, Raw.prefetch, Raw.atomForm, Raw.atomic, convertOk, *] <;> (repeat' split) <;> simp_all [Prec.code, Order.code, bit1] <;> omega

theorem Laws.RoundTrip.satomAdd (o : AtomForm) : Laws.RoundTrip.Statement (.satomAdd o) := by
  intro h
  obtain ⟨⟨d, a, b, c, m, la, g⟩, uns, w64, ord, scope, off⟩ := o
  simp [Instr.wellFormed, Form.ok, Form.okA, memOk, pfOk, loadOrder, storeOrder, shuffleOk, scanOk] at h
  simp [toRaw, rawB, decodeRaw, formatOf, Format.len, Raw.body, Raw.finish, Raw.form, firstField, Raw.noD, Raw.noA, Raw.noB, Raw.noC, Raw.zeroImm, Raw.noHi, Raw.noLa, Raw.immBit, Raw.scopeCode, Raw.ordCode, Raw.memory, Raw.memForm, Raw.mem, Raw.prefetch, Raw.atomForm, Raw.atomic, h] <;> (repeat' split) <;> simp_all [Prec.code, Order.code, bit1] <;> omega

theorem Laws.RoundTrip.satomAnd (o : AtomForm) : Laws.RoundTrip.Statement (.satomAnd o) := by
  intro h
  obtain ⟨⟨d, a, b, c, m, la, g⟩, uns, w64, ord, scope, off⟩ := o
  simp [Instr.wellFormed, Form.ok, Form.okA, memOk, pfOk, loadOrder, storeOrder, shuffleOk, scanOk] at h
  simp [toRaw, rawB, decodeRaw, formatOf, Format.len, Raw.body, Raw.finish, Raw.form, firstField, Raw.noD, Raw.noA, Raw.noB, Raw.noC, Raw.zeroImm, Raw.noHi, Raw.noLa, Raw.immBit, Raw.scopeCode, Raw.ordCode, Raw.memory, Raw.memForm, Raw.mem, Raw.prefetch, Raw.atomForm, Raw.atomic, h] <;> (repeat' split) <;> simp_all [Prec.code, Order.code, bit1] <;> omega

theorem Laws.RoundTrip.satomOr (o : AtomForm) : Laws.RoundTrip.Statement (.satomOr o) := by
  intro h
  obtain ⟨⟨d, a, b, c, m, la, g⟩, uns, w64, ord, scope, off⟩ := o
  simp [Instr.wellFormed, Form.ok, Form.okA, memOk, pfOk, loadOrder, storeOrder, shuffleOk, scanOk] at h
  simp [toRaw, rawB, decodeRaw, formatOf, Format.len, Raw.body, Raw.finish, Raw.form, firstField, Raw.noD, Raw.noA, Raw.noB, Raw.noC, Raw.zeroImm, Raw.noHi, Raw.noLa, Raw.immBit, Raw.scopeCode, Raw.ordCode, Raw.memory, Raw.memForm, Raw.mem, Raw.prefetch, Raw.atomForm, Raw.atomic, h] <;> (repeat' split) <;> simp_all [Prec.code, Order.code, bit1] <;> omega

theorem Laws.RoundTrip.satomXor (o : AtomForm) : Laws.RoundTrip.Statement (.satomXor o) := by
  intro h
  obtain ⟨⟨d, a, b, c, m, la, g⟩, uns, w64, ord, scope, off⟩ := o
  simp [Instr.wellFormed, Form.ok, Form.okA, memOk, pfOk, loadOrder, storeOrder, shuffleOk, scanOk] at h
  simp [toRaw, rawB, decodeRaw, formatOf, Format.len, Raw.body, Raw.finish, Raw.form, firstField, Raw.noD, Raw.noA, Raw.noB, Raw.noC, Raw.zeroImm, Raw.noHi, Raw.noLa, Raw.immBit, Raw.scopeCode, Raw.ordCode, Raw.memory, Raw.memForm, Raw.mem, Raw.prefetch, Raw.atomForm, Raw.atomic, h] <;> (repeat' split) <;> simp_all [Prec.code, Order.code, bit1] <;> omega

theorem Laws.RoundTrip.satomMin (o : AtomForm) : Laws.RoundTrip.Statement (.satomMin o) := by
  intro h
  obtain ⟨⟨d, a, b, c, m, la, g⟩, uns, w64, ord, scope, off⟩ := o
  simp [Instr.wellFormed, Form.ok, Form.okA, memOk, pfOk, loadOrder, storeOrder, shuffleOk, scanOk] at h
  simp [toRaw, rawB, decodeRaw, formatOf, Format.len, Raw.body, Raw.finish, Raw.form, firstField, Raw.noD, Raw.noA, Raw.noB, Raw.noC, Raw.zeroImm, Raw.noHi, Raw.noLa, Raw.immBit, Raw.scopeCode, Raw.ordCode, Raw.memory, Raw.memForm, Raw.mem, Raw.prefetch, Raw.atomForm, Raw.atomic, h] <;> (repeat' split) <;> simp_all [Prec.code, Order.code, bit1] <;> omega

theorem Laws.RoundTrip.satomMax (o : AtomForm) : Laws.RoundTrip.Statement (.satomMax o) := by
  intro h
  obtain ⟨⟨d, a, b, c, m, la, g⟩, uns, w64, ord, scope, off⟩ := o
  simp [Instr.wellFormed, Form.ok, Form.okA, memOk, pfOk, loadOrder, storeOrder, shuffleOk, scanOk] at h
  simp [toRaw, rawB, decodeRaw, formatOf, Format.len, Raw.body, Raw.finish, Raw.form, firstField, Raw.noD, Raw.noA, Raw.noB, Raw.noC, Raw.zeroImm, Raw.noHi, Raw.noLa, Raw.immBit, Raw.scopeCode, Raw.ordCode, Raw.memory, Raw.memForm, Raw.mem, Raw.prefetch, Raw.atomForm, Raw.atomic, h] <;> (repeat' split) <;> simp_all [Prec.code, Order.code, bit1] <;> omega

theorem Laws.RoundTrip.satomXchg (o : AtomForm) : Laws.RoundTrip.Statement (.satomXchg o) := by
  intro h
  obtain ⟨⟨d, a, b, c, m, la, g⟩, uns, w64, ord, scope, off⟩ := o
  simp [Instr.wellFormed, Form.ok, Form.okA, memOk, pfOk, loadOrder, storeOrder, shuffleOk, scanOk] at h
  simp [toRaw, rawB, decodeRaw, formatOf, Format.len, Raw.body, Raw.finish, Raw.form, firstField, Raw.noD, Raw.noA, Raw.noB, Raw.noC, Raw.zeroImm, Raw.noHi, Raw.noLa, Raw.immBit, Raw.scopeCode, Raw.ordCode, Raw.memory, Raw.memForm, Raw.mem, Raw.prefetch, Raw.atomForm, Raw.atomic, h] <;> (repeat' split) <;> simp_all [Prec.code, Order.code, bit1] <;> omega

theorem Laws.RoundTrip.satomDecp (o : AtomForm) : Laws.RoundTrip.Statement (.satomDecp o) := by
  intro h
  obtain ⟨⟨d, a, b, c, m, la, g⟩, uns, w64, ord, scope, off⟩ := o
  simp [Instr.wellFormed, Form.ok, Form.okA, memOk, pfOk, loadOrder, storeOrder, shuffleOk, scanOk] at h
  simp [toRaw, rawB, decodeRaw, formatOf, Format.len, Raw.body, Raw.finish, Raw.form, firstField, Raw.noD, Raw.noA, Raw.noB, Raw.noC, Raw.zeroImm, Raw.noHi, Raw.noLa, Raw.immBit, Raw.scopeCode, Raw.ordCode, Raw.memory, Raw.memForm, Raw.mem, Raw.prefetch, Raw.atomForm, Raw.atomic, h] <;> (repeat' split) <;> simp_all [Prec.code, Order.code, bit1] <;> omega

theorem Laws.RoundTrip.satomFadd (o : AtomForm) : Laws.RoundTrip.Statement (.satomFadd o) := by
  intro h
  obtain ⟨⟨d, a, b, c, m, la, g⟩, uns, w64, ord, scope, off⟩ := o
  simp [Instr.wellFormed, Form.ok, Form.okA, memOk, pfOk, loadOrder, storeOrder, shuffleOk, scanOk] at h
  simp [toRaw, rawB, decodeRaw, formatOf, Format.len, Raw.body, Raw.finish, Raw.form, firstField, Raw.noD, Raw.noA, Raw.noB, Raw.noC, Raw.zeroImm, Raw.noHi, Raw.noLa, Raw.immBit, Raw.scopeCode, Raw.ordCode, Raw.memory, Raw.memForm, Raw.mem, Raw.prefetch, Raw.atomForm, Raw.atomic, h] <;> (repeat' split) <;> simp_all [Prec.code, Order.code, bit1] <;> omega

theorem Laws.RoundTrip.scas (o : AtomForm) : Laws.RoundTrip.Statement (.scas o) := by
  intro h
  obtain ⟨⟨d, a, b, c, m, la, g⟩, uns, w64, ord, scope, off⟩ := o
  simp [Instr.wellFormed, Form.ok, Form.okA, memOk, pfOk, loadOrder, storeOrder, shuffleOk, scanOk] at h
  simp [toRaw, rawB, decodeRaw, formatOf, Format.len, Raw.body, Raw.finish, Raw.form, firstField, Raw.noD, Raw.noA, Raw.noB, Raw.noC, Raw.zeroImm, Raw.noHi, Raw.noLa, Raw.immBit, Raw.scopeCode, Raw.ordCode, Raw.memory, Raw.memForm, Raw.mem, Raw.prefetch, Raw.atomForm, Raw.atomic, h] <;> (repeat' split) <;> simp_all [Prec.code, Order.code, bit1] <;> omega

theorem Laws.RoundTrip.fenceAcq (o : ScopeForm) : Laws.RoundTrip.Statement (.fenceAcq o) := by
  intro h
  obtain ⟨⟨d, a, b, c, m, la, g⟩, scope⟩ := o
  simp [Instr.wellFormed, Form.ok, Form.okA, memOk, pfOk, loadOrder, storeOrder, shuffleOk, scanOk] at h
  simp [toRaw, rawB, decodeRaw, formatOf, Format.len, Raw.body, Raw.finish, Raw.form, firstField, Raw.noD, Raw.noA, Raw.noB, Raw.noC, Raw.zeroImm, Raw.noHi, Raw.noLa, Raw.immBit, Raw.scopeCode, Raw.ordCode, Raw.sync, Raw.plain, Raw.scoped, Raw.barForm, Raw.barRedForm, Raw.redKind, h] <;> (repeat' split) <;> simp_all [Prec.code, Order.code, bit1] <;> omega

theorem Laws.RoundTrip.fenceRel (o : ScopeForm) : Laws.RoundTrip.Statement (.fenceRel o) := by
  intro h
  obtain ⟨⟨d, a, b, c, m, la, g⟩, scope⟩ := o
  simp [Instr.wellFormed, Form.ok, Form.okA, memOk, pfOk, loadOrder, storeOrder, shuffleOk, scanOk] at h
  simp [toRaw, rawB, decodeRaw, formatOf, Format.len, Raw.body, Raw.finish, Raw.form, firstField, Raw.noD, Raw.noA, Raw.noB, Raw.noC, Raw.zeroImm, Raw.noHi, Raw.noLa, Raw.immBit, Raw.scopeCode, Raw.ordCode, Raw.sync, Raw.plain, Raw.scoped, Raw.barForm, Raw.barRedForm, Raw.redKind, h] <;> (repeat' split) <;> simp_all [Prec.code, Order.code, bit1] <;> omega

theorem Laws.RoundTrip.fenceAr (o : ScopeForm) : Laws.RoundTrip.Statement (.fenceAr o) := by
  intro h
  obtain ⟨⟨d, a, b, c, m, la, g⟩, scope⟩ := o
  simp [Instr.wellFormed, Form.ok, Form.okA, memOk, pfOk, loadOrder, storeOrder, shuffleOk, scanOk] at h
  simp [toRaw, rawB, decodeRaw, formatOf, Format.len, Raw.body, Raw.finish, Raw.form, firstField, Raw.noD, Raw.noA, Raw.noB, Raw.noC, Raw.zeroImm, Raw.noHi, Raw.noLa, Raw.immBit, Raw.scopeCode, Raw.ordCode, Raw.sync, Raw.plain, Raw.scoped, Raw.barForm, Raw.barRedForm, Raw.redKind, h] <;> (repeat' split) <;> simp_all [Prec.code, Order.code, bit1] <;> omega

theorem Laws.RoundTrip.fenceSc (o : ScopeForm) : Laws.RoundTrip.Statement (.fenceSc o) := by
  intro h
  obtain ⟨⟨d, a, b, c, m, la, g⟩, scope⟩ := o
  simp [Instr.wellFormed, Form.ok, Form.okA, memOk, pfOk, loadOrder, storeOrder, shuffleOk, scanOk] at h
  simp [toRaw, rawB, decodeRaw, formatOf, Format.len, Raw.body, Raw.finish, Raw.form, firstField, Raw.noD, Raw.noA, Raw.noB, Raw.noC, Raw.zeroImm, Raw.noHi, Raw.noLa, Raw.immBit, Raw.scopeCode, Raw.ordCode, Raw.sync, Raw.plain, Raw.scoped, Raw.barForm, Raw.barRedForm, Raw.redKind, h] <;> (repeat' split) <;> simp_all [Prec.code, Order.code, bit1] <;> omega

theorem Laws.RoundTrip.barArrive (o : BarForm) : Laws.RoundTrip.Statement (.barArrive o) := by
  intro h
  obtain ⟨⟨d, a, b, c, m, la, g⟩, bar⟩ := o
  simp [Instr.wellFormed, Form.ok, Form.okA, memOk, pfOk, loadOrder, storeOrder, shuffleOk, scanOk] at h
  simp [toRaw, rawB, decodeRaw, formatOf, Format.len, Raw.body, Raw.finish, Raw.form, firstField, Raw.noD, Raw.noA, Raw.noB, Raw.noC, Raw.zeroImm, Raw.noHi, Raw.noLa, Raw.immBit, Raw.scopeCode, Raw.ordCode, Raw.sync, Raw.plain, Raw.scoped, Raw.barForm, Raw.barRedForm, Raw.redKind, h] <;> (repeat' split) <;> simp_all [Prec.code, Order.code, bit1] <;> omega

theorem Laws.RoundTrip.barWait (o : BarForm) : Laws.RoundTrip.Statement (.barWait o) := by
  intro h
  obtain ⟨⟨d, a, b, c, m, la, g⟩, bar⟩ := o
  simp [Instr.wellFormed, Form.ok, Form.okA, memOk, pfOk, loadOrder, storeOrder, shuffleOk, scanOk] at h
  simp [toRaw, rawB, decodeRaw, formatOf, Format.len, Raw.body, Raw.finish, Raw.form, firstField, Raw.noD, Raw.noA, Raw.noB, Raw.noC, Raw.zeroImm, Raw.noHi, Raw.noLa, Raw.immBit, Raw.scopeCode, Raw.ordCode, Raw.sync, Raw.plain, Raw.scoped, Raw.barForm, Raw.barRedForm, Raw.redKind, h] <;> (repeat' split) <;> simp_all [Prec.code, Order.code, bit1] <;> omega

theorem Laws.RoundTrip.barSync (o : BarForm) : Laws.RoundTrip.Statement (.barSync o) := by
  intro h
  obtain ⟨⟨d, a, b, c, m, la, g⟩, bar⟩ := o
  simp [Instr.wellFormed, Form.ok, Form.okA, memOk, pfOk, loadOrder, storeOrder, shuffleOk, scanOk] at h
  simp [toRaw, rawB, decodeRaw, formatOf, Format.len, Raw.body, Raw.finish, Raw.form, firstField, Raw.noD, Raw.noA, Raw.noB, Raw.noC, Raw.zeroImm, Raw.noHi, Raw.noLa, Raw.immBit, Raw.scopeCode, Raw.ordCode, Raw.sync, Raw.plain, Raw.scoped, Raw.barForm, Raw.barRedForm, Raw.redKind, h] <;> (repeat' split) <;> simp_all [Prec.code, Order.code, bit1] <;> omega

theorem Laws.RoundTrip.barDrop (o : BarForm) : Laws.RoundTrip.Statement (.barDrop o) := by
  intro h
  obtain ⟨⟨d, a, b, c, m, la, g⟩, bar⟩ := o
  simp [Instr.wellFormed, Form.ok, Form.okA, memOk, pfOk, loadOrder, storeOrder, shuffleOk, scanOk] at h
  simp [toRaw, rawB, decodeRaw, formatOf, Format.len, Raw.body, Raw.finish, Raw.form, firstField, Raw.noD, Raw.noA, Raw.noB, Raw.noC, Raw.zeroImm, Raw.noHi, Raw.noLa, Raw.immBit, Raw.scopeCode, Raw.ordCode, Raw.sync, Raw.plain, Raw.scoped, Raw.barForm, Raw.barRedForm, Raw.redKind, h] <;> (repeat' split) <;> simp_all [Prec.code, Order.code, bit1] <;> omega

theorem Laws.RoundTrip.barTest (o : BarForm) : Laws.RoundTrip.Statement (.barTest o) := by
  intro h
  obtain ⟨⟨d, a, b, c, m, la, g⟩, bar⟩ := o
  simp [Instr.wellFormed, Form.ok, Form.okA, memOk, pfOk, loadOrder, storeOrder, shuffleOk, scanOk] at h
  simp [toRaw, rawB, decodeRaw, formatOf, Format.len, Raw.body, Raw.finish, Raw.form, firstField, Raw.noD, Raw.noA, Raw.noB, Raw.noC, Raw.zeroImm, Raw.noHi, Raw.noLa, Raw.immBit, Raw.scopeCode, Raw.ordCode, Raw.sync, Raw.plain, Raw.scoped, Raw.barForm, Raw.barRedForm, Raw.redKind, h] <;> (repeat' split) <;> simp_all [Prec.code, Order.code, bit1] <;> omega

theorem Laws.RoundTrip.barRed (o : BarRedForm) : Laws.RoundTrip.Statement (.barRed o) := by
  intro h
  obtain ⟨⟨d, a, b, c, m, la, g⟩, bar, kind⟩ := o
  rcases kind with ⟨w64, op, uns⟩ | ⟨op, f64⟩ <;> cases op <;> (try cases w64 <;> cases uns) <;> (try cases f64) <;>
  simp [Instr.wellFormed, Form.ok, Form.okA, memOk, pfOk, loadOrder, storeOrder, shuffleOk, scanOk, redOk, convertOk] at h
  all_goals
    casesm* _ ∧ _, _ ∨ _ <;> subst_vars <;>
    simp [toRaw, rawB, decodeRaw, formatOf, Format.len, Raw.body, Raw.finish, Raw.form, firstField, Raw.noD, Raw.noA, Raw.noB, Raw.noC, Raw.zeroImm, Raw.noHi, Raw.noLa, Raw.immBit, Raw.scopeCode, Raw.ordCode, Raw.sync, Raw.plain, Raw.scoped, Raw.barForm, Raw.barRedForm, Raw.redKind, convertOk, RedKind.code, IntFold.code, FloatFold.code, bit1, intFoldOf, floatFoldOf, *] <;> (repeat' split) <;> simp_all [Prec.code, Order.code, bit1] <;> omega

theorem Laws.RoundTrip.abarInit (o : Form) : Laws.RoundTrip.Statement (.abarInit o) := by
  intro h
  obtain ⟨d, a, b, c, m, la, g⟩ := o
  simp [Instr.wellFormed, Form.ok, Form.okA, memOk, pfOk, loadOrder, storeOrder, shuffleOk, scanOk] at h
  simp [toRaw, rawB, decodeRaw, formatOf, Format.len, Raw.body, Raw.finish, Raw.form, firstField, Raw.noD, Raw.noA, Raw.noB, Raw.noC, Raw.zeroImm, Raw.noHi, Raw.noLa, Raw.immBit, Raw.scopeCode, Raw.ordCode, Raw.sync, Raw.plain, Raw.scoped, Raw.barForm, Raw.barRedForm, Raw.redKind, h] <;> (repeat' split) <;> simp_all [Prec.code, Order.code, bit1] <;> omega

theorem Laws.RoundTrip.abarArrive (o : Form) : Laws.RoundTrip.Statement (.abarArrive o) := by
  intro h
  obtain ⟨d, a, b, c, m, la, g⟩ := o
  simp [Instr.wellFormed, Form.ok, Form.okA, memOk, pfOk, loadOrder, storeOrder, shuffleOk, scanOk] at h
  simp [toRaw, rawB, decodeRaw, formatOf, Format.len, Raw.body, Raw.finish, Raw.form, firstField, Raw.noD, Raw.noA, Raw.noB, Raw.noC, Raw.zeroImm, Raw.noHi, Raw.noLa, Raw.immBit, Raw.scopeCode, Raw.ordCode, Raw.sync, Raw.plain, Raw.scoped, Raw.barForm, Raw.barRedForm, Raw.redKind, h] <;> (repeat' split) <;> simp_all [Prec.code, Order.code, bit1] <;> omega

theorem Laws.RoundTrip.abarWait (o : Form) : Laws.RoundTrip.Statement (.abarWait o) := by
  intro h
  obtain ⟨d, a, b, c, m, la, g⟩ := o
  simp [Instr.wellFormed, Form.ok, Form.okA, memOk, pfOk, loadOrder, storeOrder, shuffleOk, scanOk] at h
  simp [toRaw, rawB, decodeRaw, formatOf, Format.len, Raw.body, Raw.finish, Raw.form, firstField, Raw.noD, Raw.noA, Raw.noB, Raw.noC, Raw.zeroImm, Raw.noHi, Raw.noLa, Raw.immBit, Raw.scopeCode, Raw.ordCode, Raw.sync, Raw.plain, Raw.scoped, Raw.barForm, Raw.barRedForm, Raw.redKind, h] <;> (repeat' split) <;> simp_all [Prec.code, Order.code, bit1] <;> omega

theorem Laws.RoundTrip.waitv (o : WaitvForm) : Laws.RoundTrip.Statement (.waitv o) := by
  intro h
  obtain ⟨⟨d, a, b, c, m, la, g⟩, ord, scope, texp⟩ := o
  simp [Instr.wellFormed, Form.ok, Form.okA, memOk, pfOk, loadOrder, storeOrder, shuffleOk, scanOk] at h
  simp [toRaw, rawB, decodeRaw, formatOf, Format.len, Raw.body, Raw.finish, Raw.form, firstField, Raw.noD, Raw.noA, Raw.noB, Raw.noC, Raw.zeroImm, Raw.noHi, Raw.noLa, Raw.immBit, Raw.scopeCode, Raw.ordCode, Raw.sync, Raw.plain, Raw.scoped, Raw.barForm, Raw.barRedForm, Raw.redKind, h] <;> cases ord <;> (repeat' split) <;> simp_all [Prec.code, Order.code, bit1] <;> omega

theorem Laws.RoundTrip.wake1 (o : ScopeForm) : Laws.RoundTrip.Statement (.wake1 o) := by
  intro h
  obtain ⟨⟨d, a, b, c, m, la, g⟩, scope⟩ := o
  simp [Instr.wellFormed, Form.ok, Form.okA, memOk, pfOk, loadOrder, storeOrder, shuffleOk, scanOk] at h
  simp [toRaw, rawB, decodeRaw, formatOf, Format.len, Raw.body, Raw.finish, Raw.form, firstField, Raw.noD, Raw.noA, Raw.noB, Raw.noC, Raw.zeroImm, Raw.noHi, Raw.noLa, Raw.immBit, Raw.scopeCode, Raw.ordCode, Raw.sync, Raw.plain, Raw.scoped, Raw.barForm, Raw.barRedForm, Raw.redKind, h] <;> (repeat' split) <;> simp_all [Prec.code, Order.code, bit1] <;> omega

theorem Laws.RoundTrip.wakeall (o : ScopeForm) : Laws.RoundTrip.Statement (.wakeall o) := by
  intro h
  obtain ⟨⟨d, a, b, c, m, la, g⟩, scope⟩ := o
  simp [Instr.wellFormed, Form.ok, Form.okA, memOk, pfOk, loadOrder, storeOrder, shuffleOk, scanOk] at h
  simp [toRaw, rawB, decodeRaw, formatOf, Format.len, Raw.body, Raw.finish, Raw.form, firstField, Raw.noD, Raw.noA, Raw.noB, Raw.noC, Raw.zeroImm, Raw.noHi, Raw.noLa, Raw.immBit, Raw.scopeCode, Raw.ordCode, Raw.sync, Raw.plain, Raw.scoped, Raw.barForm, Raw.barRedForm, Raw.redKind, h] <;> (repeat' split) <;> simp_all [Prec.code, Order.code, bit1] <;> omega

theorem Laws.RoundTrip.waitc (o : WaitcForm) : Laws.RoundTrip.Statement (.waitc o) := by
  intro h
  obtain ⟨⟨d, a, b, c, m, la, g⟩, cls, thresh⟩ := o
  simp [Instr.wellFormed, Form.ok, Form.okA, memOk, pfOk, loadOrder, storeOrder, shuffleOk, scanOk] at h
  simp [toRaw, rawB, decodeRaw, formatOf, Format.len, Raw.body, Raw.finish, Raw.form, firstField, Raw.noD, Raw.noA, Raw.noB, Raw.noC, Raw.zeroImm, Raw.noHi, Raw.noLa, Raw.immBit, Raw.scopeCode, Raw.ordCode, Raw.sync, Raw.plain, Raw.scoped, Raw.barForm, Raw.barRedForm, Raw.redKind, h] <;> (repeat' split) <;> simp_all [Prec.code, Order.code, bit1] <;> omega

theorem Laws.RoundTrip.macq (o : MacqForm) : Laws.RoundTrip.Statement (.macq o) := by
  intro h
  obtain ⟨⟨d, a, b, c, m, la, g⟩, int32⟩ := o
  simp [Instr.wellFormed, Form.ok, Form.okA, memOk, pfOk, loadOrder, storeOrder, shuffleOk, scanOk] at h
  simp [toRaw, rawB, decodeRaw, formatOf, Format.len, Raw.body, Raw.finish, Raw.form, firstField, Raw.noD, Raw.noA, Raw.noB, Raw.noC, Raw.zeroImm, Raw.noHi, Raw.noLa, Raw.immBit, Raw.scopeCode, Raw.ordCode, Raw.matrix, Raw.plain, Raw.rows, h] <;> (repeat' split) <;> simp_all [Prec.code, Order.code, bit1] <;> omega

theorem Laws.RoundTrip.mrel (o : Form) : Laws.RoundTrip.Statement (.mrel o) := by
  intro h
  obtain ⟨d, a, b, c, m, la, g⟩ := o
  simp [Instr.wellFormed, Form.ok, Form.okA, memOk, pfOk, loadOrder, storeOrder, shuffleOk, scanOk] at h
  simp [toRaw, rawB, decodeRaw, formatOf, Format.len, Raw.body, Raw.finish, Raw.form, firstField, Raw.noD, Raw.noA, Raw.noB, Raw.noC, Raw.zeroImm, Raw.noHi, Raw.noLa, Raw.immBit, Raw.scopeCode, Raw.ordCode, Raw.matrix, Raw.plain, Raw.rows, h] <;> (repeat' split) <;> simp_all [Prec.code, Order.code, bit1] <;> omega

theorem Laws.RoundTrip.mzero (o : Form) : Laws.RoundTrip.Statement (.mzero o) := by
  intro h
  obtain ⟨d, a, b, c, m, la, g⟩ := o
  simp [Instr.wellFormed, Form.ok, Form.okA, memOk, pfOk, loadOrder, storeOrder, shuffleOk, scanOk] at h
  simp [toRaw, rawB, decodeRaw, formatOf, Format.len, Raw.body, Raw.finish, Raw.form, firstField, Raw.noD, Raw.noA, Raw.noB, Raw.noC, Raw.zeroImm, Raw.noHi, Raw.noLa, Raw.immBit, Raw.scopeCode, Raw.ordCode, Raw.matrix, Raw.plain, Raw.rows, h] <;> (repeat' split) <;> simp_all [Prec.code, Order.code, bit1] <;> omega

theorem Laws.RoundTrip.mloop (o : Form) : Laws.RoundTrip.Statement (.mloop o) := by
  intro h
  obtain ⟨d, a, b, c, m, la, g⟩ := o
  simp [Instr.wellFormed, Form.ok, Form.okA, memOk, pfOk, loadOrder, storeOrder, shuffleOk, scanOk] at h
  simp [toRaw, rawB, rawC, decodeRaw, formatOf, Format.len, Raw.body, Raw.finish, Raw.form, firstField, Raw.noD, Raw.noA, Raw.noB, Raw.noC, Raw.zeroImm, Raw.noHi, Raw.noLa, Raw.immBit, Raw.scopeCode, Raw.ordCode, Raw.matrix, Raw.plain, Raw.rows, h] <;> (repeat' split) <;> simp_all [Prec.code, Order.code, bit1] <;> omega

theorem Laws.RoundTrip.mloopg (o : Form) : Laws.RoundTrip.Statement (.mloopg o) := by
  intro h
  obtain ⟨d, a, b, c, m, la, g⟩ := o
  simp [Instr.wellFormed, Form.ok, Form.okA, memOk, pfOk, loadOrder, storeOrder, shuffleOk, scanOk] at h
  simp [toRaw, rawB, rawC, decodeRaw, formatOf, Format.len, Raw.body, Raw.finish, Raw.form, firstField, Raw.noD, Raw.noA, Raw.noB, Raw.noC, Raw.zeroImm, Raw.noHi, Raw.noLa, Raw.immBit, Raw.scopeCode, Raw.ordCode, Raw.matrix, Raw.plain, Raw.rows, h] <;> (repeat' split) <;> simp_all [Prec.code, Order.code, bit1] <;> omega

theorem Laws.RoundTrip.mdrain (o : Form) : Laws.RoundTrip.Statement (.mdrain o) := by
  intro h
  obtain ⟨d, a, b, c, m, la, g⟩ := o
  simp [Instr.wellFormed, Form.ok, Form.okA, memOk, pfOk, loadOrder, storeOrder, shuffleOk, scanOk] at h
  simp [toRaw, rawB, decodeRaw, formatOf, Format.len, Raw.body, Raw.finish, Raw.form, firstField, Raw.noD, Raw.noA, Raw.noB, Raw.noC, Raw.zeroImm, Raw.noHi, Raw.noLa, Raw.immBit, Raw.scopeCode, Raw.ordCode, Raw.matrix, Raw.plain, Raw.rows, h] <;> (repeat' split) <;> simp_all [Prec.code, Order.code, bit1] <;> omega

theorem Laws.RoundTrip.mdrains (o : DrainForm) : Laws.RoundTrip.Statement (.mdrains o) := by
  intro h
  obtain ⟨⟨d, a, b, c, m, la, g⟩, ofmt, rb0, nrb1⟩ := o
  simp [Instr.wellFormed, Form.ok, Form.okA, memOk, pfOk, loadOrder, storeOrder, shuffleOk, scanOk] at h
  simp [toRaw, rawB, decodeRaw, formatOf, Format.len, Raw.body, Raw.finish, Raw.form, firstField, Raw.noD, Raw.noA, Raw.noB, Raw.noC, Raw.zeroImm, Raw.noHi, Raw.noLa, Raw.immBit, Raw.scopeCode, Raw.ordCode, Raw.matrix, Raw.plain, Raw.rows, h] <;> (repeat' split) <;> simp_all [Prec.code, Order.code, bit1] <;> omega

theorem Laws.RoundTrip.mwlat (o : LatchForm) : Laws.RoundTrip.Statement (.mwlat o) := by
  intro h
  obtain ⟨⟨d, a, b, c, m, la, g⟩, wfmt, sp⟩ := o
  simp [Instr.wellFormed, Form.ok, Form.okA, memOk, pfOk, loadOrder, storeOrder, shuffleOk, scanOk] at h
  simp [toRaw, rawB, decodeRaw, formatOf, Format.len, Raw.body, Raw.finish, Raw.form, firstField, Raw.noD, Raw.noA, Raw.noB, Raw.noC, Raw.zeroImm, Raw.noHi, Raw.noLa, Raw.immBit, Raw.scopeCode, Raw.ordCode, Raw.matrix, Raw.plain, Raw.rows, h] <;> (repeat' split) <;> simp_all [Prec.code, Order.code, bit1] <;> omega

theorem Laws.RoundTrip.mstep (o : Form) : Laws.RoundTrip.Statement (.mstep o) := by
  intro h
  obtain ⟨d, a, b, c, m, la, g⟩ := o
  simp [Instr.wellFormed, Form.ok, Form.okA, memOk, pfOk, loadOrder, storeOrder, shuffleOk, scanOk] at h
  simp [toRaw, rawB, decodeRaw, formatOf, Format.len, Raw.body, Raw.finish, Raw.form, firstField, Raw.noD, Raw.noA, Raw.noB, Raw.noC, Raw.zeroImm, Raw.noHi, Raw.noLa, Raw.immBit, Raw.scopeCode, Raw.ordCode, Raw.matrix, Raw.plain, Raw.rows, h] <;> (repeat' split) <;> simp_all [Prec.code, Order.code, bit1] <;> omega

theorem Laws.RoundTrip.mmeta (o : Form) : Laws.RoundTrip.Statement (.mmeta o) := by
  intro h
  obtain ⟨d, a, b, c, m, la, g⟩ := o
  simp [Instr.wellFormed, Form.ok, Form.okA, memOk, pfOk, loadOrder, storeOrder, shuffleOk, scanOk] at h
  simp [toRaw, rawB, decodeRaw, formatOf, Format.len, Raw.body, Raw.finish, Raw.form, firstField, Raw.noD, Raw.noA, Raw.noB, Raw.noC, Raw.zeroImm, Raw.noHi, Raw.noLa, Raw.immBit, Raw.scopeCode, Raw.ordCode, Raw.matrix, Raw.plain, Raw.rows, h] <;> (repeat' split) <;> simp_all [Prec.code, Order.code, bit1] <;> omega

theorem Laws.RoundTrip.mfill (o : RowsForm) : Laws.RoundTrip.Statement (.mfill o) := by
  intro h
  obtain ⟨⟨d, a, b, c, m, la, g⟩, rb0, nrb1⟩ := o
  simp [Instr.wellFormed, Form.ok, Form.okA, memOk, pfOk, loadOrder, storeOrder, shuffleOk, scanOk] at h
  simp [toRaw, rawB, decodeRaw, formatOf, Format.len, Raw.body, Raw.finish, Raw.form, firstField, Raw.noD, Raw.noA, Raw.noB, Raw.noC, Raw.zeroImm, Raw.noHi, Raw.noLa, Raw.immBit, Raw.scopeCode, Raw.ordCode, Raw.matrix, Raw.plain, Raw.rows, h] <;> (repeat' split) <;> simp_all [Prec.code, Order.code, bit1] <;> omega

theorem Laws.RoundTrip.madd (o : RowsForm) : Laws.RoundTrip.Statement (.madd o) := by
  intro h
  obtain ⟨⟨d, a, b, c, m, la, g⟩, rb0, nrb1⟩ := o
  simp [Instr.wellFormed, Form.ok, Form.okA, memOk, pfOk, loadOrder, storeOrder, shuffleOk, scanOk] at h
  simp [toRaw, rawB, decodeRaw, formatOf, Format.len, Raw.body, Raw.finish, Raw.form, firstField, Raw.noD, Raw.noA, Raw.noB, Raw.noC, Raw.zeroImm, Raw.noHi, Raw.noLa, Raw.immBit, Raw.scopeCode, Raw.ordCode, Raw.matrix, Raw.plain, Raw.rows, h] <;> (repeat' split) <;> simp_all [Prec.code, Order.code, bit1] <;> omega

theorem Laws.RoundTrip.mscale (o : Form) : Laws.RoundTrip.Statement (.mscale o) := by
  intro h
  obtain ⟨d, a, b, c, m, la, g⟩ := o
  simp [Instr.wellFormed, Form.ok, Form.okA, memOk, pfOk, loadOrder, storeOrder, shuffleOk, scanOk] at h
  simp [toRaw, rawB, decodeRaw, formatOf, Format.len, Raw.body, Raw.finish, Raw.form, firstField, Raw.noD, Raw.noA, Raw.noB, Raw.noC, Raw.zeroImm, Raw.noHi, Raw.noLa, Raw.immBit, Raw.scopeCode, Raw.ordCode, Raw.matrix, Raw.plain, Raw.rows, h] <;> (repeat' split) <;> simp_all [Prec.code, Order.code, bit1] <;> omega

theorem Laws.RoundTrip.mcsum (o : Form) : Laws.RoundTrip.Statement (.mcsum o) := by
  intro h
  obtain ⟨d, a, b, c, m, la, g⟩ := o
  simp [Instr.wellFormed, Form.ok, Form.okA, memOk, pfOk, loadOrder, storeOrder, shuffleOk, scanOk] at h
  simp [toRaw, rawB, decodeRaw, formatOf, Format.len, Raw.body, Raw.finish, Raw.form, firstField, Raw.noD, Raw.noA, Raw.noB, Raw.noC, Raw.zeroImm, Raw.noHi, Raw.noLa, Raw.immBit, Raw.scopeCode, Raw.ordCode, Raw.matrix, Raw.plain, Raw.rows, h] <;> (repeat' split) <;> simp_all [Prec.code, Order.code, bit1] <;> omega

theorem Laws.RoundTrip.xfer (o : Form) : Laws.RoundTrip.Statement (.xfer o) := by
  intro h
  obtain ⟨d, a, b, c, m, la, g⟩ := o
  simp [Instr.wellFormed, Form.ok, Form.okA, memOk, pfOk, loadOrder, storeOrder, shuffleOk, scanOk] at h
  simp [toRaw, rawB, rawC, decodeRaw, formatOf, Format.len, Raw.body, Raw.finish, Raw.form, firstField, Raw.noD, Raw.noA, Raw.noB, Raw.noC, Raw.zeroImm, Raw.noHi, Raw.noLa, Raw.immBit, Raw.scopeCode, Raw.ordCode, Raw.transfer, Raw.plain, Raw.engine, h] <;> (repeat' split) <;> simp_all [Prec.code, Order.code, bit1] <;> omega

theorem Laws.RoundTrip.xgather (o : Form) : Laws.RoundTrip.Statement (.xgather o) := by
  intro h
  obtain ⟨d, a, b, c, m, la, g⟩ := o
  simp [Instr.wellFormed, Form.ok, Form.okA, memOk, pfOk, loadOrder, storeOrder, shuffleOk, scanOk] at h
  simp [toRaw, rawB, rawC, decodeRaw, formatOf, Format.len, Raw.body, Raw.finish, Raw.form, firstField, Raw.noD, Raw.noA, Raw.noB, Raw.noC, Raw.zeroImm, Raw.noHi, Raw.noLa, Raw.immBit, Raw.scopeCode, Raw.ordCode, Raw.transfer, Raw.plain, Raw.engine, h] <;> (repeat' split) <;> simp_all [Prec.code, Order.code, bit1] <;> omega

theorem Laws.RoundTrip.chclose (o : Form) : Laws.RoundTrip.Statement (.chclose o) := by
  intro h
  obtain ⟨d, a, b, c, m, la, g⟩ := o
  simp [Instr.wellFormed, Form.ok, Form.okA, memOk, pfOk, loadOrder, storeOrder, shuffleOk, scanOk] at h
  simp [toRaw, rawB, decodeRaw, formatOf, Format.len, Raw.body, Raw.finish, Raw.form, firstField, Raw.noD, Raw.noA, Raw.noB, Raw.noC, Raw.zeroImm, Raw.noHi, Raw.noLa, Raw.immBit, Raw.scopeCode, Raw.ordCode, Raw.transfer, Raw.plain, Raw.engine, h] <;> (repeat' split) <;> simp_all [Prec.code, Order.code, bit1] <;> omega

theorem Laws.RoundTrip.chavail (o : Form) : Laws.RoundTrip.Statement (.chavail o) := by
  intro h
  obtain ⟨d, a, b, c, m, la, g⟩ := o
  simp [Instr.wellFormed, Form.ok, Form.okA, memOk, pfOk, loadOrder, storeOrder, shuffleOk, scanOk] at h
  simp [toRaw, rawB, decodeRaw, formatOf, Format.len, Raw.body, Raw.finish, Raw.form, firstField, Raw.noD, Raw.noA, Raw.noB, Raw.noC, Raw.zeroImm, Raw.noHi, Raw.noLa, Raw.immBit, Raw.scopeCode, Raw.ordCode, Raw.transfer, Raw.plain, Raw.engine, h] <;> (repeat' split) <;> simp_all [Prec.code, Order.code, bit1] <;> omega

theorem Laws.RoundTrip.qpush (o : Form) : Laws.RoundTrip.Statement (.qpush o) := by
  intro h
  obtain ⟨d, a, b, c, m, la, g⟩ := o
  simp [Instr.wellFormed, Form.ok, Form.okA, memOk, pfOk, loadOrder, storeOrder, shuffleOk, scanOk] at h
  simp [toRaw, rawB, rawC, decodeRaw, formatOf, Format.len, Raw.body, Raw.finish, Raw.form, firstField, Raw.noD, Raw.noA, Raw.noB, Raw.noC, Raw.zeroImm, Raw.noHi, Raw.noLa, Raw.immBit, Raw.scopeCode, Raw.ordCode, Raw.transfer, Raw.plain, Raw.engine, h] <;> (repeat' split) <;> simp_all [Prec.code, Order.code, bit1] <;> omega

theorem Laws.RoundTrip.qpop (o : Form) : Laws.RoundTrip.Statement (.qpop o) := by
  intro h
  obtain ⟨d, a, b, c, m, la, g⟩ := o
  simp [Instr.wellFormed, Form.ok, Form.okA, memOk, pfOk, loadOrder, storeOrder, shuffleOk, scanOk] at h
  simp [toRaw, rawB, rawC, decodeRaw, formatOf, Format.len, Raw.body, Raw.finish, Raw.form, firstField, Raw.noD, Raw.noA, Raw.noB, Raw.noC, Raw.zeroImm, Raw.noHi, Raw.noLa, Raw.immBit, Raw.scopeCode, Raw.ordCode, Raw.transfer, Raw.plain, Raw.engine, h] <;> (repeat' split) <;> simp_all [Prec.code, Order.code, bit1] <;> omega

theorem Laws.RoundTrip.qtrypop (o : Form) : Laws.RoundTrip.Statement (.qtrypop o) := by
  intro h
  obtain ⟨d, a, b, c, m, la, g⟩ := o
  simp [Instr.wellFormed, Form.ok, Form.okA, memOk, pfOk, loadOrder, storeOrder, shuffleOk, scanOk] at h
  simp [toRaw, rawB, rawC, decodeRaw, formatOf, Format.len, Raw.body, Raw.finish, Raw.form, firstField, Raw.noD, Raw.noA, Raw.noB, Raw.noC, Raw.zeroImm, Raw.noHi, Raw.noLa, Raw.immBit, Raw.scopeCode, Raw.ordCode, Raw.transfer, Raw.plain, Raw.engine, h] <;> (repeat' split) <;> simp_all [Prec.code, Order.code, bit1] <;> omega

theorem Laws.RoundTrip.qtrypush (o : Form) : Laws.RoundTrip.Statement (.qtrypush o) := by
  intro h
  obtain ⟨d, a, b, c, m, la, g⟩ := o
  simp [Instr.wellFormed, Form.ok, Form.okA, memOk, pfOk, loadOrder, storeOrder, shuffleOk, scanOk] at h
  simp [toRaw, rawB, rawC, decodeRaw, formatOf, Format.len, Raw.body, Raw.finish, Raw.form, firstField, Raw.noD, Raw.noA, Raw.noB, Raw.noC, Raw.zeroImm, Raw.noHi, Raw.noLa, Raw.immBit, Raw.scopeCode, Raw.ordCode, Raw.transfer, Raw.plain, Raw.engine, h] <;> (repeat' split) <;> simp_all [Prec.code, Order.code, bit1] <;> omega

theorem Laws.RoundTrip.cred (o : Form) : Laws.RoundTrip.Statement (.cred o) := by
  intro h
  obtain ⟨d, a, b, c, m, la, g⟩ := o
  simp [Instr.wellFormed, Form.ok, Form.okA, memOk, pfOk, loadOrder, storeOrder, shuffleOk, scanOk] at h
  simp [toRaw, rawB, rawC, decodeRaw, formatOf, Format.len, Raw.body, Raw.finish, Raw.form, firstField, Raw.noD, Raw.noA, Raw.noB, Raw.noC, Raw.zeroImm, Raw.noHi, Raw.noLa, Raw.immBit, Raw.scopeCode, Raw.ordCode, Raw.transfer, Raw.plain, Raw.engine, h] <;> (repeat' split) <;> simp_all [Prec.code, Order.code, bit1] <;> omega

theorem Laws.RoundTrip.callred (o : Form) : Laws.RoundTrip.Statement (.callred o) := by
  intro h
  obtain ⟨d, a, b, c, m, la, g⟩ := o
  simp [Instr.wellFormed, Form.ok, Form.okA, memOk, pfOk, loadOrder, storeOrder, shuffleOk, scanOk] at h
  simp [toRaw, rawB, rawC, decodeRaw, formatOf, Format.len, Raw.body, Raw.finish, Raw.form, firstField, Raw.noD, Raw.noA, Raw.noB, Raw.noC, Raw.zeroImm, Raw.noHi, Raw.noLa, Raw.immBit, Raw.scopeCode, Raw.ordCode, Raw.transfer, Raw.plain, Raw.engine, h] <;> (repeat' split) <;> simp_all [Prec.code, Order.code, bit1] <;> omega

theorem Laws.RoundTrip.credsc (o : Form) : Laws.RoundTrip.Statement (.credsc o) := by
  intro h
  obtain ⟨d, a, b, c, m, la, g⟩ := o
  simp [Instr.wellFormed, Form.ok, Form.okA, memOk, pfOk, loadOrder, storeOrder, shuffleOk, scanOk] at h
  simp [toRaw, rawB, rawC, decodeRaw, formatOf, Format.len, Raw.body, Raw.finish, Raw.form, firstField, Raw.noD, Raw.noA, Raw.noB, Raw.noC, Raw.zeroImm, Raw.noHi, Raw.noLa, Raw.immBit, Raw.scopeCode, Raw.ordCode, Raw.transfer, Raw.plain, Raw.engine, h] <;> (repeat' split) <;> simp_all [Prec.code, Order.code, bit1] <;> omega

theorem Laws.RoundTrip.callg (o : Form) : Laws.RoundTrip.Statement (.callg o) := by
  intro h
  obtain ⟨d, a, b, c, m, la, g⟩ := o
  simp [Instr.wellFormed, Form.ok, Form.okA, memOk, pfOk, loadOrder, storeOrder, shuffleOk, scanOk] at h
  simp [toRaw, rawB, rawC, decodeRaw, formatOf, Format.len, Raw.body, Raw.finish, Raw.form, firstField, Raw.noD, Raw.noA, Raw.noB, Raw.noC, Raw.zeroImm, Raw.noHi, Raw.noLa, Raw.immBit, Raw.scopeCode, Raw.ordCode, Raw.transfer, Raw.plain, Raw.engine, h] <;> (repeat' split) <;> simp_all [Prec.code, Order.code, bit1] <;> omega

theorem Laws.RoundTrip.csrr (o : CsrForm) : Laws.RoundTrip.Statement (.csrr o) := by
  intro h
  obtain ⟨⟨d, a, b, c, m, la, g⟩, num⟩ := o
  simp [Instr.wellFormed, Form.ok, Form.okA, memOk, pfOk, loadOrder, storeOrder, shuffleOk, scanOk] at h
  simp [toRaw, rawB, decodeRaw, formatOf, Format.len, Raw.body, Raw.finish, Raw.form, firstField, Raw.noD, Raw.noA, Raw.noB, Raw.noC, Raw.zeroImm, Raw.noHi, Raw.noLa, Raw.immBit, Raw.scopeCode, Raw.ordCode, Raw.system, Raw.plain, Raw.csr, Raw.sized, h] <;> (repeat' split) <;> simp_all [Prec.code, Order.code, bit1] <;> omega

theorem Laws.RoundTrip.csrw (o : CsrForm) : Laws.RoundTrip.Statement (.csrw o) := by
  intro h
  obtain ⟨⟨d, a, b, c, m, la, g⟩, num⟩ := o
  simp [Instr.wellFormed, Form.ok, Form.okA, memOk, pfOk, loadOrder, storeOrder, shuffleOk, scanOk] at h
  simp [toRaw, rawB, decodeRaw, formatOf, Format.len, Raw.body, Raw.finish, Raw.form, firstField, Raw.noD, Raw.noA, Raw.noB, Raw.noC, Raw.zeroImm, Raw.noHi, Raw.noLa, Raw.immBit, Raw.scopeCode, Raw.ordCode, Raw.system, Raw.plain, Raw.csr, Raw.sized, h] <;> (repeat' split) <;> simp_all [Prec.code, Order.code, bit1] <;> omega

theorem Laws.RoundTrip.csrs (o : CsrForm) : Laws.RoundTrip.Statement (.csrs o) := by
  intro h
  obtain ⟨⟨d, a, b, c, m, la, g⟩, num⟩ := o
  simp [Instr.wellFormed, Form.ok, Form.okA, memOk, pfOk, loadOrder, storeOrder, shuffleOk, scanOk] at h
  simp [toRaw, rawB, decodeRaw, formatOf, Format.len, Raw.body, Raw.finish, Raw.form, firstField, Raw.noD, Raw.noA, Raw.noB, Raw.noC, Raw.zeroImm, Raw.noHi, Raw.noLa, Raw.immBit, Raw.scopeCode, Raw.ordCode, Raw.system, Raw.plain, Raw.csr, Raw.sized, h] <;> (repeat' split) <;> simp_all [Prec.code, Order.code, bit1] <;> omega

theorem Laws.RoundTrip.csrc (o : CsrForm) : Laws.RoundTrip.Statement (.csrc o) := by
  intro h
  obtain ⟨⟨d, a, b, c, m, la, g⟩, num⟩ := o
  simp [Instr.wellFormed, Form.ok, Form.okA, memOk, pfOk, loadOrder, storeOrder, shuffleOk, scanOk] at h
  simp [toRaw, rawB, decodeRaw, formatOf, Format.len, Raw.body, Raw.finish, Raw.form, firstField, Raw.noD, Raw.noA, Raw.noB, Raw.noC, Raw.zeroImm, Raw.noHi, Raw.noLa, Raw.immBit, Raw.scopeCode, Raw.ordCode, Raw.system, Raw.plain, Raw.csr, Raw.sized, h] <;> (repeat' split) <;> simp_all [Prec.code, Order.code, bit1] <;> omega

theorem Laws.RoundTrip.launch (o : Form) : Laws.RoundTrip.Statement (.launch o) := by
  intro h
  obtain ⟨d, a, b, c, m, la, g⟩ := o
  simp [Instr.wellFormed, Form.ok, Form.okA, memOk, pfOk, loadOrder, storeOrder, shuffleOk, scanOk] at h
  simp [toRaw, rawB, rawC, decodeRaw, formatOf, Format.len, Raw.body, Raw.finish, Raw.form, firstField, Raw.noD, Raw.noA, Raw.noB, Raw.noC, Raw.zeroImm, Raw.noHi, Raw.noLa, Raw.immBit, Raw.scopeCode, Raw.ordCode, Raw.system, Raw.plain, Raw.csr, Raw.sized, h] <;> (repeat' split) <;> simp_all [Prec.code, Order.code, bit1] <;> omega

theorem Laws.RoundTrip.hret (o : HretForm) : Laws.RoundTrip.Statement (.hret o) := by
  intro h
  obtain ⟨⟨d, a, b, c, m, la, g⟩, tgt⟩ := o
  simp [Instr.wellFormed, Form.ok, Form.okA, memOk, pfOk, loadOrder, storeOrder, shuffleOk, scanOk] at h
  simp [toRaw, rawB, decodeRaw, formatOf, Format.len, Raw.body, Raw.finish, Raw.form, firstField, Raw.noD, Raw.noA, Raw.noB, Raw.noC, Raw.zeroImm, Raw.noHi, Raw.noLa, Raw.immBit, Raw.scopeCode, Raw.ordCode, Raw.system, Raw.plain, Raw.csr, Raw.sized, h] <;> (repeat' split) <;> simp_all [Prec.code, Order.code, bit1] <;> omega

theorem Laws.RoundTrip.hskip (o : Form) : Laws.RoundTrip.Statement (.hskip o) := by
  intro h
  obtain ⟨d, a, b, c, m, la, g⟩ := o
  simp [Instr.wellFormed, Form.ok, Form.okA, memOk, pfOk, loadOrder, storeOrder, shuffleOk, scanOk] at h
  simp [toRaw, rawB, decodeRaw, formatOf, Format.len, Raw.body, Raw.finish, Raw.form, firstField, Raw.noD, Raw.noA, Raw.noB, Raw.noC, Raw.zeroImm, Raw.noHi, Raw.noLa, Raw.immBit, Raw.scopeCode, Raw.ordCode, Raw.system, Raw.plain, Raw.csr, Raw.sized, h] <;> (repeat' split) <;> simp_all [Prec.code, Order.code, bit1] <;> omega

theorem Laws.RoundTrip.ctxsave (o : SizeForm) : Laws.RoundTrip.Statement (.ctxsave o) := by
  intro h
  obtain ⟨⟨d, a, b, c, m, la, g⟩, sz⟩ := o
  simp [Instr.wellFormed, Form.ok, Form.okA, memOk, pfOk, loadOrder, storeOrder, shuffleOk, scanOk] at h
  simp [toRaw, rawB, decodeRaw, formatOf, Format.len, Raw.body, Raw.finish, Raw.form, firstField, Raw.noD, Raw.noA, Raw.noB, Raw.noC, Raw.zeroImm, Raw.noHi, Raw.noLa, Raw.immBit, Raw.scopeCode, Raw.ordCode, Raw.system, Raw.plain, Raw.csr, Raw.sized, h] <;> (repeat' split) <;> simp_all [Prec.code, Order.code, bit1] <;> omega

theorem Laws.RoundTrip.ctxload (o : SizeForm) : Laws.RoundTrip.Statement (.ctxload o) := by
  intro h
  obtain ⟨⟨d, a, b, c, m, la, g⟩, sz⟩ := o
  simp [Instr.wellFormed, Form.ok, Form.okA, memOk, pfOk, loadOrder, storeOrder, shuffleOk, scanOk] at h
  simp [toRaw, rawB, decodeRaw, formatOf, Format.len, Raw.body, Raw.finish, Raw.form, firstField, Raw.noD, Raw.noA, Raw.noB, Raw.noC, Raw.zeroImm, Raw.noHi, Raw.noLa, Raw.immBit, Raw.scopeCode, Raw.ordCode, Raw.system, Raw.plain, Raw.csr, Raw.sized, h] <;> (repeat' split) <;> simp_all [Prec.code, Order.code, bit1] <;> omega

theorem Laws.RoundTrip.ctxkill (o : Form) : Laws.RoundTrip.Statement (.ctxkill o) := by
  intro h
  obtain ⟨d, a, b, c, m, la, g⟩ := o
  simp [Instr.wellFormed, Form.ok, Form.okA, memOk, pfOk, loadOrder, storeOrder, shuffleOk, scanOk] at h
  simp [toRaw, rawB, decodeRaw, formatOf, Format.len, Raw.body, Raw.finish, Raw.form, firstField, Raw.noD, Raw.noA, Raw.noB, Raw.noC, Raw.zeroImm, Raw.noHi, Raw.noLa, Raw.immBit, Raw.scopeCode, Raw.ordCode, Raw.system, Raw.plain, Raw.csr, Raw.sized, h] <;> (repeat' split) <;> simp_all [Prec.code, Order.code, bit1] <;> omega

theorem Laws.RoundTrip.kretire (o : Form) : Laws.RoundTrip.Statement (.kretire o) := by
  intro h
  obtain ⟨d, a, b, c, m, la, g⟩ := o
  simp [Instr.wellFormed, Form.ok, Form.okA, memOk, pfOk, loadOrder, storeOrder, shuffleOk, scanOk] at h
  simp [toRaw, rawB, decodeRaw, formatOf, Format.len, Raw.body, Raw.finish, Raw.form, firstField, Raw.noD, Raw.noA, Raw.noB, Raw.noC, Raw.zeroImm, Raw.noHi, Raw.noLa, Raw.immBit, Raw.scopeCode, Raw.ordCode, Raw.system, Raw.plain, Raw.csr, Raw.sized, h] <;> (repeat' split) <;> simp_all [Prec.code, Order.code, bit1] <;> omega

theorem Laws.RoundTrip.tlbinv (o : SizeForm) : Laws.RoundTrip.Statement (.tlbinv o) := by
  intro h
  obtain ⟨⟨d, a, b, c, m, la, g⟩, sz⟩ := o
  simp [Instr.wellFormed, Form.ok, Form.okA, memOk, pfOk, loadOrder, storeOrder, shuffleOk, scanOk] at h
  simp [toRaw, rawB, decodeRaw, formatOf, Format.len, Raw.body, Raw.finish, Raw.form, firstField, Raw.noD, Raw.noA, Raw.noB, Raw.noC, Raw.zeroImm, Raw.noHi, Raw.noLa, Raw.immBit, Raw.scopeCode, Raw.ordCode, Raw.system, Raw.plain, Raw.csr, Raw.sized, h] <;> (repeat' split) <;> simp_all [Prec.code, Order.code, bit1] <;> omega

theorem Laws.RoundTrip.tlbinvall (o : Form) : Laws.RoundTrip.Statement (.tlbinvall o) := by
  intro h
  obtain ⟨d, a, b, c, m, la, g⟩ := o
  simp [Instr.wellFormed, Form.ok, Form.okA, memOk, pfOk, loadOrder, storeOrder, shuffleOk, scanOk] at h
  simp [toRaw, rawB, decodeRaw, formatOf, Format.len, Raw.body, Raw.finish, Raw.form, firstField, Raw.noD, Raw.noA, Raw.noB, Raw.noC, Raw.zeroImm, Raw.noHi, Raw.noLa, Raw.immBit, Raw.scopeCode, Raw.ordCode, Raw.system, Raw.plain, Raw.csr, Raw.sized, h] <;> (repeat' split) <;> simp_all [Prec.code, Order.code, bit1] <;> omega

theorem Laws.RoundTrip.pgprobe (o : Form) : Laws.RoundTrip.Statement (.pgprobe o) := by
  intro h
  obtain ⟨d, a, b, c, m, la, g⟩ := o
  simp [Instr.wellFormed, Form.ok, Form.okA, memOk, pfOk, loadOrder, storeOrder, shuffleOk, scanOk] at h
  simp [toRaw, rawB, decodeRaw, formatOf, Format.len, Raw.body, Raw.finish, Raw.form, firstField, Raw.noD, Raw.noA, Raw.noB, Raw.noC, Raw.zeroImm, Raw.noHi, Raw.noLa, Raw.immBit, Raw.scopeCode, Raw.ordCode, Raw.system, Raw.plain, Raw.csr, Raw.sized, h] <;> (repeat' split) <;> simp_all [Prec.code, Order.code, bit1] <;> omega

theorem Laws.RoundTrip.hcmark (o : ImmForm) : Laws.RoundTrip.Statement (.hcmark o) := by
  intro h
  obtain ⟨⟨d, a, b, c, m, la, g⟩, imm⟩ := o
  simp [Instr.wellFormed, Form.ok, Form.okA, memOk, pfOk, loadOrder, storeOrder, shuffleOk, scanOk] at h
  simp [toRaw, rawB, decodeRaw, formatOf, Format.len, Raw.body, Raw.finish, Raw.form, firstField, Raw.noD, Raw.noA, Raw.noB, Raw.noC, Raw.zeroImm, Raw.noHi, Raw.noLa, Raw.immBit, Raw.scopeCode, Raw.ordCode, Raw.system, Raw.plain, Raw.csr, Raw.sized, h] <;> (repeat' split) <;> simp_all [Prec.code, Order.code, bit1] <;> omega

theorem Laws.RoundTrip.hcflush (o : Form) : Laws.RoundTrip.Statement (.hcflush o) := by
  intro h
  obtain ⟨d, a, b, c, m, la, g⟩ := o
  simp [Instr.wellFormed, Form.ok, Form.okA, memOk, pfOk, loadOrder, storeOrder, shuffleOk, scanOk] at h
  simp [toRaw, rawB, decodeRaw, formatOf, Format.len, Raw.body, Raw.finish, Raw.form, firstField, Raw.noD, Raw.noA, Raw.noB, Raw.noC, Raw.zeroImm, Raw.noHi, Raw.noLa, Raw.immBit, Raw.scopeCode, Raw.ordCode, Raw.system, Raw.plain, Raw.csr, Raw.sized, h] <;> (repeat' split) <;> simp_all [Prec.code, Order.code, bit1] <;> omega

theorem Laws.RoundTrip.hcstop (o : ImmForm) : Laws.RoundTrip.Statement (.hcstop o) := by
  intro h
  obtain ⟨⟨d, a, b, c, m, la, g⟩, imm⟩ := o
  simp [Instr.wellFormed, Form.ok, Form.okA, memOk, pfOk, loadOrder, storeOrder, shuffleOk, scanOk] at h
  simp [toRaw, rawB, decodeRaw, formatOf, Format.len, Raw.body, Raw.finish, Raw.form, firstField, Raw.noD, Raw.noA, Raw.noB, Raw.noC, Raw.zeroImm, Raw.noHi, Raw.noLa, Raw.immBit, Raw.scopeCode, Raw.ordCode, Raw.system, Raw.plain, Raw.csr, Raw.sized, h] <;> (repeat' split) <;> simp_all [Prec.code, Order.code, bit1] <;> omega

theorem Laws.RoundTrip.hcread (o : SelForm) : Laws.RoundTrip.Statement (.hcread o) := by
  intro h
  obtain ⟨⟨d, a, b, c, m, la, g⟩, sel⟩ := o
  simp [Instr.wellFormed, Form.ok, Form.okA, memOk, pfOk, loadOrder, storeOrder, shuffleOk, scanOk] at h
  simp [toRaw, rawB, decodeRaw, formatOf, Format.len, Raw.body, Raw.finish, Raw.form, firstField, Raw.noD, Raw.noA, Raw.noB, Raw.noC, Raw.zeroImm, Raw.noHi, Raw.noLa, Raw.immBit, Raw.scopeCode, Raw.ordCode, Raw.system, Raw.plain, Raw.csr, Raw.sized, h] <;> (repeat' split) <;> simp_all [Prec.code, Order.code, bit1] <;> omega

theorem Laws.RoundTrip.illegalEncoding (bad : Illegal) : Laws.RoundTrip.Statement (.illegalEncoding bad) := by
  intro h
  simp [Instr.wellFormed] at h

theorem Laws.RoundTrip.lavio (gid slot : Nat) : Laws.RoundTrip.Statement (.lavio gid slot) := by
  intro h
  simp [Instr.wellFormed] at h

theorem Laws.RoundTrip.alloc : Laws.RoundTrip.Statement .alloc := by
  intro h
  simp [Instr.wellFormed] at h

theorem Laws.RoundTrip.config : Laws.RoundTrip.Statement .config := by
  intro h
  simp [Instr.wellFormed] at h

theorem Laws.RoundTrip.start : Laws.RoundTrip.Statement .start := by
  intro h
  simp [Instr.wellFormed] at h

theorem Laws.RoundTrip.suspend : Laws.RoundTrip.Statement .suspend := by
  intro h
  simp [Instr.wellFormed] at h

theorem Laws.RoundTrip.resume : Laws.RoundTrip.Statement .resume := by
  intro h
  simp [Instr.wellFormed] at h

theorem Laws.RoundTrip.clear : Laws.RoundTrip.Statement .clear := by
  intro h
  simp [Instr.wellFormed] at h

theorem Laws.RoundTrip.kill : Laws.RoundTrip.Statement .kill := by
  intro h
  simp [Instr.wellFormed] at h

theorem Laws.RoundTrip.rekey : Laws.RoundTrip.Statement .rekey := by
  intro h
  simp [Instr.wellFormed] at h

theorem Laws.RoundTrip.unknownCommand : Laws.RoundTrip.Statement .unknownCommand := by
  intro h
  simp [Instr.wellFormed] at h

theorem Laws.RoundTrip.assign : Laws.RoundTrip.Statement .assign := by
  intro h
  simp [Instr.wellFormed] at h

theorem Laws.RoundTrip.release : Laws.RoundTrip.Statement .release := by
  intro h
  simp [Instr.wellFormed] at h

theorem Laws.RoundTrip.peers : Laws.RoundTrip.Statement .peers := by
  intro h
  simp [Instr.wellFormed] at h

theorem Laws.RoundTrip.invalidate : Laws.RoundTrip.Statement .invalidate := by
  intro h
  simp [Instr.wellFormed] at h

theorem Laws.RoundTrip.resolve : Laws.RoundTrip.Statement .resolve := by
  intro h
  simp [Instr.wellFormed] at h

theorem Laws.RoundTrip.linkEnable : Laws.RoundTrip.Statement .linkEnable := by
  intro h
  simp [Instr.wellFormed] at h

theorem Laws.RoundTrip.linkDisable : Laws.RoundTrip.Statement .linkDisable := by
  intro h
  simp [Instr.wellFormed] at h

theorem Laws.RoundTrip.linkRecover : Laws.RoundTrip.Statement .linkRecover := by
  intro h
  simp [Instr.wellFormed] at h

theorem Laws.RoundTrip.portcfg : Laws.RoundTrip.Statement .portcfg := by
  intro h
  simp [Instr.wellFormed] at h

theorem Laws.RoundTrip.hcRecord : Laws.RoundTrip.Statement .hcRecord := by
  intro h
  simp [Instr.wellFormed] at h

theorem Laws.RoundTrip.hcStop : Laws.RoundTrip.Statement .hcStop := by
  intro h
  simp [Instr.wellFormed] at h

theorem Laws.RoundTrip.hcReplay : Laws.RoundTrip.Statement .hcReplay := by
  intro h
  simp [Instr.wellFormed] at h

theorem Laws.RoundTrip.hcVerify : Laws.RoundTrip.Statement .hcVerify := by
  intro h
  simp [Instr.wellFormed] at h

theorem Laws.RoundTrip.hcRelease : Laws.RoundTrip.Statement .hcRelease := by
  intro h
  simp [Instr.wellFormed] at h

theorem Laws.RoundTrip.errack : Laws.RoundTrip.Statement .errack := by
  intro h
  simp [Instr.wellFormed] at h

theorem Laws.RoundTrip.attest : Laws.RoundTrip.Statement .attest := by
  intro h
  simp [Instr.wellFormed] at h

theorem Laws.RoundTrip.coldreset : Laws.RoundTrip.Statement .coldreset := by
  intro h
  simp [Instr.wellFormed] at h

theorem Laws.RoundTrip.warmreset : Laws.RoundTrip.Statement .warmreset := by
  intro h
  simp [Instr.wellFormed] at h

theorem Laws.RoundTrip.queueDoorbell (queue : Nat) (tail : W64) : Laws.RoundTrip.Statement (.queueDoorbell queue tail) := by
  intro h
  simp [Instr.wellFormed] at h

theorem Laws.RoundTrip.nearcfgWrite (value : W16) : Laws.RoundTrip.Statement (.nearcfgWrite value) := by
  intro h
  simp [Instr.wellFormed] at h

theorem Laws.RoundTrip.frheadWrite (value : W64) : Laws.RoundTrip.Statement (.frheadWrite value) := by
  intro h
  simp [Instr.wellFormed] at h

theorem Laws.RoundTrip.zhevportPhysicalWrite (addr : Nat) (bytes : List W8) : Laws.RoundTrip.Statement (.zhevportPhysicalWrite addr bytes) := by
  intro h
  simp [Instr.wellFormed] at h

theorem Laws.RoundTrip.mgmtWindowWrite (offset : Nat) (bytes : List W8) : Laws.RoundTrip.Statement (.mgmtWindowWrite offset bytes) := by
  intro h
  simp [Instr.wellFormed] at h

theorem Laws.RoundTrip.powerOn : Laws.RoundTrip.Statement .powerOn := by
  intro h
  simp [Instr.wellFormed] at h

theorem Laws.RoundTrip.bootImage : Laws.RoundTrip.Statement .bootImage := by
  intro h
  simp [Instr.wellFormed] at h

theorem Laws.RoundTrip.bindingPass : Laws.RoundTrip.Statement .bindingPass := by
  intro h
  simp [Instr.wellFormed] at h

theorem Laws.RoundTrip.bindSeat (bind : BindChoice) : Laws.RoundTrip.Statement (.bindSeat bind) := by
  intro h
  simp [Instr.wellFormed] at h

theorem Laws.RoundTrip.loaderLoad (core seat : Nat) : Laws.RoundTrip.Statement (.loaderLoad core seat) := by
  intro h
  simp [Instr.wellFormed] at h

theorem Laws.RoundTrip.groupLoadFinished (core seat : Nat) : Laws.RoundTrip.Statement (.groupLoadFinished core seat) := by
  intro h
  simp [Instr.wellFormed] at h

theorem Laws.RoundTrip.kernelDone (kh : Nat) : Laws.RoundTrip.Statement (.kernelDone kh) := by
  intro h
  simp [Instr.wellFormed] at h

theorem Laws.RoundTrip.completionRecordUpdate (update : Nat) : Laws.RoundTrip.Statement (.completionRecordUpdate update) := by
  intro h
  simp [Instr.wellFormed] at h

theorem Laws.RoundTrip.gangReserve (msg : ReserveMsg) : Laws.RoundTrip.Statement (.gangReserve msg) := by
  intro h
  simp [Instr.wellFormed] at h

theorem Laws.RoundTrip.gangAck (msg : GangMsg) : Laws.RoundTrip.Statement (.gangAck msg) := by
  intro h
  simp [Instr.wellFormed] at h

theorem Laws.RoundTrip.gangRefuse (msg : GangMsg) : Laws.RoundTrip.Statement (.gangRefuse msg) := by
  intro h
  simp [Instr.wellFormed] at h

theorem Laws.RoundTrip.gangCommit (msg : GangMsg) : Laws.RoundTrip.Statement (.gangCommit msg) := by
  intro h
  simp [Instr.wellFormed] at h

theorem Laws.RoundTrip.gangAbort (msg : GangMsg) : Laws.RoundTrip.Statement (.gangAbort msg) := by
  intro h
  simp [Instr.wellFormed] at h

theorem Laws.RoundTrip.gangFail (msg : GangMsg) : Laws.RoundTrip.Statement (.gangFail msg) := by
  intro h
  simp [Instr.wellFormed] at h

theorem Laws.RoundTrip.gangDone (msg : GangMsg) : Laws.RoundTrip.Statement (.gangDone msg) := by
  intro h
  simp [Instr.wellFormed] at h

theorem Laws.RoundTrip.gangTimeout (n : Nat) : Laws.RoundTrip.Statement (.gangTimeout n) := by
  intro h
  simp [Instr.wellFormed] at h

theorem Laws.RoundTrip.gangMemberTimeout (kh : Nat) : Laws.RoundTrip.Statement (.gangMemberTimeout kh) := by
  intro h
  simp [Instr.wellFormed] at h

theorem Laws.RoundTrip.landing (package core : Nat) : Laws.RoundTrip.Statement (.landing package core) := by
  intro h
  simp [Instr.wellFormed] at h

theorem Laws.RoundTrip.suspendImageWrite (ctx : Nat) : Laws.RoundTrip.Statement (.suspendImageWrite ctx) := by
  intro h
  simp [Instr.wellFormed] at h

theorem Laws.RoundTrip.groupRestore (core seat image : Nat) : Laws.RoundTrip.Statement (.groupRestore core seat image) := by
  intro h
  simp [Instr.wellFormed] at h

theorem Laws.RoundTrip.teardownDrained (ctx : Nat) : Laws.RoundTrip.Statement (.teardownDrained ctx) := by
  intro h
  simp [Instr.wellFormed] at h

theorem Laws.RoundTrip.swept (ctx : Nat) : Laws.RoundTrip.Statement (.swept ctx) := by
  intro h
  simp [Instr.wellFormed] at h

theorem Laws.RoundTrip.starvation (gid slot : Nat) : Laws.RoundTrip.Statement (.starvation gid slot) := by
  intro h
  simp [Instr.wellFormed] at h

theorem Laws.RoundTrip.yieldExpiry (gid slot : Nat) : Laws.RoundTrip.Statement (.yieldExpiry gid slot) := by
  intro h
  simp [Instr.wellFormed] at h

theorem Laws.RoundTrip.spillFillDone (core : Nat) : Laws.RoundTrip.Statement (.spillFillDone core) := by
  intro h
  simp [Instr.wellFormed] at h

theorem Laws.RoundTrip.crossLaneDeadlock (gid window : Nat) : Laws.RoundTrip.Statement (.crossLaneDeadlock gid window) := by
  intro h
  simp [Instr.wellFormed] at h

theorem Laws.RoundTrip.matrixStep (gid tile : Nat) : Laws.RoundTrip.Statement (.matrixStep gid tile) := by
  intro h
  simp [Instr.wellFormed] at h

theorem Laws.RoundTrip.memoryAccessServed (access : Nat) : Laws.RoundTrip.Statement (.memoryAccessServed access) := by
  intro h
  simp [Instr.wellFormed] at h

theorem Laws.RoundTrip.tokenTransfer (move : TokenMove) : Laws.RoundTrip.Statement (.tokenTransfer move) := by
  intro h
  simp [Instr.wellFormed] at h

theorem Laws.RoundTrip.persistentRequest (slice line : Nat) (write : Bool) : Laws.RoundTrip.Statement (.persistentRequest slice line write) := by
  intro h
  simp [Instr.wellFormed] at h

theorem Laws.RoundTrip.arbiterGrantVisit : Laws.RoundTrip.Statement .arbiterGrantVisit := by
  intro h
  simp [Instr.wellFormed] at h

theorem Laws.RoundTrip.haloTokenPass (slice : Nat) : Laws.RoundTrip.Statement (.haloTokenPass slice) := by
  intro h
  simp [Instr.wellFormed] at h

theorem Laws.RoundTrip.leaseExpiry (cluster line : Nat) : Laws.RoundTrip.Statement (.leaseExpiry cluster line) := by
  intro h
  simp [Instr.wellFormed] at h

theorem Laws.RoundTrip.waitvTimeout (gid slot : Nat) : Laws.RoundTrip.Statement (.waitvTimeout gid slot) := by
  intro h
  simp [Instr.wellFormed] at h

theorem Laws.RoundTrip.waitvPoll (gid slot : Nat) : Laws.RoundTrip.Statement (.waitvPoll gid slot) := by
  intro h
  simp [Instr.wellFormed] at h

theorem Laws.RoundTrip.engineChunk (command chunk : Nat) : Laws.RoundTrip.Statement (.engineChunk command chunk) := by
  intro h
  simp [Instr.wellFormed] at h

theorem Laws.RoundTrip.channelSlotDeliver (gid queue : Nat) : Laws.RoundTrip.Statement (.channelSlotDeliver gid queue) := by
  intro h
  simp [Instr.wellFormed] at h

theorem Laws.RoundTrip.collectiveJoin (join : Nat) : Laws.RoundTrip.Statement (.collectiveJoin join) := by
  intro h
  simp [Instr.wellFormed] at h

theorem Laws.RoundTrip.collectiveChunk (join member chunk : Nat) : Laws.RoundTrip.Statement (.collectiveChunk join member chunk) := by
  intro h
  simp [Instr.wellFormed] at h

theorem Laws.RoundTrip.isobarPeriod (regulator : Regulator) (ctx : Nat) : Laws.RoundTrip.Statement (.isobarPeriod regulator ctx) := by
  intro h
  simp [Instr.wellFormed] at h

theorem Laws.RoundTrip.pageWalk (walk : Nat) : Laws.RoundTrip.Statement (.pageWalk walk) := by
  intro h
  simp [Instr.wellFormed] at h

theorem Laws.RoundTrip.faultRecordAppend : Laws.RoundTrip.Statement .faultRecordAppend := by
  intro h
  simp [Instr.wellFormed] at h

theorem Laws.RoundTrip.flitReceive (link : Nat) (flit : List W8) : Laws.RoundTrip.Statement (.flitReceive link flit) := by
  intro h
  simp [Instr.wellFormed] at h

theorem Laws.RoundTrip.retryPeriod (link : Nat) : Laws.RoundTrip.Statement (.retryPeriod link) := by
  intro h
  simp [Instr.wellFormed] at h

theorem Laws.RoundTrip.linkTrained (link : Nat) (found : Training) : Laws.RoundTrip.Statement (.linkTrained link found) := by
  intro h
  simp [Instr.wellFormed] at h

theorem Laws.RoundTrip.linkTrainTimeout (link : Nat) : Laws.RoundTrip.Statement (.linkTrainTimeout link) := by
  intro h
  simp [Instr.wellFormed] at h

theorem Laws.RoundTrip.linkSilence (link : Nat) : Laws.RoundTrip.Statement (.linkSilence link) := by
  intro h
  simp [Instr.wellFormed] at h

theorem Laws.RoundTrip.disableFlushTimeout (link : Nat) : Laws.RoundTrip.Statement (.disableFlushTimeout link) := by
  intro h
  simp [Instr.wellFormed] at h

theorem Laws.RoundTrip.zhevportTrained (good : Bool) : Laws.RoundTrip.Statement (.zhevportTrained good) := by
  intro h
  simp [Instr.wellFormed] at h

theorem Laws.RoundTrip.zhevportIsolationExpiry : Laws.RoundTrip.Statement .zhevportIsolationExpiry := by
  intro h
  simp [Instr.wellFormed] at h

theorem Laws.RoundTrip.cxlTrained (port : Nat) (found : CxlTraining) : Laws.RoundTrip.Statement (.cxlTrained port found) := by
  intro h
  simp [Instr.wellFormed] at h

theorem Laws.RoundTrip.cxlTrainTimeout (port : Nat) : Laws.RoundTrip.Statement (.cxlTrainTimeout port) := by
  intro h
  simp [Instr.wellFormed] at h

theorem Laws.RoundTrip.cxlRequestTimeout (port request : Nat) : Laws.RoundTrip.Statement (.cxlRequestTimeout port request) := by
  intro h
  simp [Instr.wellFormed] at h

theorem Laws.RoundTrip.cxlLinkDown (port : Nat) : Laws.RoundTrip.Statement (.cxlLinkDown port) := by
  intro h
  simp [Instr.wellFormed] at h

theorem Laws.RoundTrip.cxlResponse (port request : Nat) (answer : CxlAnswer) : Laws.RoundTrip.Statement (.cxlResponse port request answer) := by
  intro h
  simp [Instr.wellFormed] at h

theorem Laws.RoundTrip.snpinv (port half : Nat) : Laws.RoundTrip.Statement (.snpinv port half) := by
  intro h
  simp [Instr.wellFormed] at h

theorem Laws.RoundTrip.snpdata (port half : Nat) : Laws.RoundTrip.Statement (.snpdata port half) := by
  intro h
  simp [Instr.wellFormed] at h

theorem Laws.RoundTrip.snpcur (port half : Nat) : Laws.RoundTrip.Statement (.snpcur port half) := by
  intro h
  simp [Instr.wellFormed] at h

theorem Laws.RoundTrip.hostMemRead (port offset bytes : Nat) : Laws.RoundTrip.Statement (.hostMemRead port offset bytes) := by
  intro h
  simp [Instr.wellFormed] at h

theorem Laws.RoundTrip.hostMemWrite (port offset : Nat) (data : List W8) (poison : Bool) : Laws.RoundTrip.Statement (.hostMemWrite port offset data poison) := by
  intro h
  simp [Instr.wellFormed] at h

theorem Laws.RoundTrip.chunkClose (ctx recorder : Nat) : Laws.RoundTrip.Statement (.chunkClose ctx recorder) := by
  intro h
  simp [Instr.wellFormed] at h

theorem Laws.RoundTrip.chunkSpill (ctx : Nat) : Laws.RoundTrip.Statement (.chunkSpill ctx) := by
  intro h
  simp [Instr.wellFormed] at h

theorem Laws.RoundTrip.scrub (line : Nat) (array : Nat) : Laws.RoundTrip.Statement (.scrub line array) := by
  intro h
  simp [Instr.wellFormed] at h

theorem Laws.RoundTrip.fatalError : Laws.RoundTrip.Statement .fatalError := by
  intro h
  simp [Instr.wellFormed] at h

theorem Laws.RoundTrip.powerPeriod (die power : Nat) : Laws.RoundTrip.Statement (.powerPeriod die power) := by
  intro h
  simp [Instr.wellFormed] at h

theorem Laws.RoundTrip.railOvercurrent (die current : Nat) : Laws.RoundTrip.Statement (.railOvercurrent die current) := by
  intro h
  simp [Instr.wellFormed] at h

theorem Laws.RoundTrip.telemetryRefresh (sensors : Sensors) : Laws.RoundTrip.Statement (.telemetryRefresh sensors) := by
  intro h
  simp [Instr.wellFormed] at h

theorem Laws.RoundTrip.thermalThrottle (die : Nat) : Laws.RoundTrip.Statement (.thermalThrottle die) := by
  intro h
  simp [Instr.wellFormed] at h

theorem Laws.RoundTrip.thermalTrip (die : Nat) : Laws.RoundTrip.Statement (.thermalTrip die) := by
  intro h
  simp [Instr.wellFormed] at h

theorem Laws.RoundTrip.cxlIoRequest (port : Nat) (request : IoRequest) : Laws.RoundTrip.Statement (.cxlIoRequest port request) := by
  intro h
  simp [Instr.wellFormed] at h

theorem Laws.RoundTrip.peakampsRead : Laws.RoundTrip.Statement .peakampsRead := by
  intro h
  simp [Instr.wellFormed] at h

theorem Laws.RoundTrip.thermalRecovery (die : Nat) : Laws.RoundTrip.Statement (.thermalRecovery die) := by
  intro h
  simp [Instr.wellFormed] at h

theorem Laws.RoundTrip.gangQuery (msg : GangMsg) : Laws.RoundTrip.Statement (.gangQuery msg) := by
  intro h
  simp [Instr.wellFormed] at h

theorem Laws.RoundTrip.gangQueryAnswer (msg : GangMsg) (live : Bool) : Laws.RoundTrip.Statement (.gangQueryAnswer msg live) := by
  intro h
  simp [Instr.wellFormed] at h

end

/-- The words of an instruction that round-trips decode to it. -/
theorem decode_encode_of {i : Instr} (h : Laws.RoundTrip.Statement i) (hw : i.wellFormed = true) :
    ∃ w0 w1 w2, encode i = some (w0, w1, w2) ∧ decode w0 w1 w2 = .ok i := by
  have := h hw
  rw [Option.map_eq_some_iff] at this
  obtain ⟨r, hr, hd⟩ := this
  refine ⟨(pack r).1, (pack r).2.1, (pack r).2.2, by simp [encode, hr], ?_⟩
  rw [decode, unpack_pack, hd]

end Sys2Proof
end

