-- ==== Sys2Proof/Tests/Slice0.lean ====
section
/-! SUPPORT. Tests of the model against the spec's own words and numbers, and for every statement with hypotheses small states that meet them. -/

open Sys2Proof

namespace Sys2Proof.Machine

set_option Elab.async false

/-! ### A small machine -/

/-- A kernel at 0x2000 whose handler is at 0x2800 and whose refill point is at 0x1000. -/
def benchKernel : Kernel :=
  { wordKernel with
    descAddr := 0x2000
    desc := { wordKernel.desc with
      handler := 0x800
      refillPc := 0xFFFFFFFFFFFFF000 } }

/-- An item at 0x1000 whose register n holds 3n, with no integer trap enabled. -/
def benchItem : Item :=
  { wordItem with
    v := Vector.ofFn (fun n => BitVec.ofNat 32 (3 * n.val)) }

/-- An item with zeros in its v registers, 1 in p0, and both integer traps enabled. -/
def zeroItem : Item :=
  { wordItem with
    p := 1
    ictl := 3 }

/-- A group on core 0 with 4096 bytes of scratchpad. -/
def benchGroup (items : Table Item) : Group :=
  { wordGroup with
    items := items
    scratchBytes := 4096 }

/-- Page tables at 0x10000 that map the low 2 MiB of every address space to themselves with all rights; a launch record at 0x8000 that names the
descriptor at 0x5000: one stage of 64 indices, groups of 32, its rfpt at 0x5200. -/
def benchBytes : List Host.Cell :=
  [(0x5000, 1), (0x5008, 64), (0x5010, 1), (0x5018, 1), (0x5029, 2), (0x5034, 32), (0x5036, 1), (0x5038, 1), (0x5039, 1), (0x5088, 64),
   (0x5203, 0x61), (0x5206, 0x01), (0x5207, 0x07), (0x8001, 0x50), (0x10000, 0x01), (0x10001, 0x10), (0x10002, 0x01), (0x11000, 0x01),
   (0x11001, 0x20), (0x11002, 0x01), (0x12000, 0x01), (0x12001, 0x30), (0x12002, 0x01), (0x13000, 0x3B)]
def benchContext : Context := { wordContext with ptroot := 0x10000 }

/-- The group's wave of every item is about to execute an instruction of `n` words; the low 2 MiB are the context's, in its core's TLB. -/
def bench (n : Nat) (g : Group) : State :=
  { State.reset with
    wave := { gid := 0, pc := 0x1000, slots := g.items.map Prod.fst, ilen := n }
    groups := [(0, g)]
    kernels := [(0, benchKernel)]
    contexts := [(1, benchContext)]
    nextId := 5
    memory := { Memory.zero with bytes := benchBytes }
    dev := { DeviceBlock.cold with
      poolBase := 0x10000
      poolSize := 0x10000 }
    tlbs := [(0, { unit := 0, ctx := 1, base := 0, logSize := 21, addr := 0, r := true, w := true, x := true })] }

def solo : Group := benchGroup [(0, benchItem)]

/-- Two items: register n of the first holds 3n; the second has zeros and enabled traps. -/
def duo : Group := benchGroup [(0, benchItem), (1, zeroItem)]

/-- Items without a trap or an error make a plain wave. -/
theorem plain_bench (n : Nat) (g : Group) (h : g.kh = 0) (hg : g.guarded = none) (hc : g.Clear) : Plain (bench n g) g := by
  refine ⟨rfl, ?_, hg, hc⟩
  simp only [State.duplex, h]; rfl

theorem plain_solo (n : Nat) : Plain (bench n solo) solo := plain_bench n solo rfl rfl (by unfold Group.Clear; decide)
theorem plain_duo (n : Nat) : Plain (bench n duo) duo := plain_bench n duo rfl rfl (by unfold Group.Clear; decide)

/-- A lone item of the bench that passes a form's checks. -/
theorem alone_bench (n : Nat) (g : Group) (i : Instr) (it : Item) (h : g.kh = 0) (hg : g.guarded = none) (hi : g.items = [(0, it)])
    (hc : it.fatal = none ∧ it.consumed = none)
    (hp : ((bench n g).envOf g 0 it).gate (shapeOf i) (admitted i) = .go ∧ (shapeOf i).poisoned ((bench n g).envOf g 0 it).it g.badS = none) :
    Alone (bench n g) g i 0 it := by
  refine ⟨plain_bench n g h hg ?_, ?_, ?_, hp.1, hp.2⟩
  · unfold Group.Clear; rw [hi]; simpa using hc
  · simp [bench, hi]
  · simp [hi, Table.get?]

/-- The item of the small machine alone. -/
theorem alone_solo (n : Nat) (i : Instr)
    (hp : ((bench n solo).envOf solo 0 benchItem).gate (shapeOf i) (admitted i) = .go ∧
      (shapeOf i).poisoned ((bench n solo).envOf solo 0 benchItem).it solo.badS = none) : Alone (bench n solo) solo i 0 benchItem :=
  alone_bench n solo i benchItem rfl rfl rfl (by decide) hp

/-! ### Encoding: words written out from the tables of the spec -/

/-- 03 R57, R58 with the opcodes of R68: one word or more of every family. -/
theorem test_decode_integer : decode 0x00840A18 0 0 = .ok (.iadd (formOf 4 5 6 0)) ∧ decode 0x74832010 0x07000006 0 = .ok (.mloop (formOf 3 16 4 6)) := by
  decide +kernel
theorem test_decode_control :
    decode 0x61000000 0x07030000 0 = .ok (.nop (formOf 0 0 0 0)) ∧ decode 0x61000000 0x07010000 0 = .ok (.rfpt (formOf 0 0 0 0)) ∧
    decode 0x61000000 0x07000000 0 = .ok (.exit (formOf 0 0 0 0)) ∧ decode 0x61000C00 0x07050000 0 = .ok (.migr (formOf 0 6 0 0)) := by
  decide +kernel
theorem test_decode_cross_lane :
    decode 0x61840A00 0x02020501 0 = .ok (.shfld { formOf 4 5 0 0 with g := 2, seg := 5, rb := false, k := 1 }) := by
  decide +kernel
theorem test_decode_barriers :
    decode 0x70800000 0x07020002 0 = .ok (.barSync { formOf 0 0 0 0 with bar := 2 }) ∧
    decode 0x70830000 0x07040002 0 = .ok (.barTest { formOf 3 0 0 0 with bar := 2 }) ∧
    decode 0x70840A00 0x07050000 0 = .ok (.barRed { formOf 4 5 0 0 with bar := 0, kind := .int false .add false }) ∧
    decode 0x71001410 0x07010000 0 = .ok (.abarArrive (formOf 0 10 4 0)) ∧
    decode 0x72000000 0x07000001 0 = .ok (.waitc { formOf 0 0 0 0 with cls := .copy, thresh := 1 }) := by
  decide +kernel
theorem test_decode_engines :
    decode 0x78011000 0x07000000 0 = .ok (.xfer (formOf 1 8 0 0)) ∧ decode 0x78021800 0x07010000 0 = .ok (.xgather (formOf 2 12 0 0)) ∧
    decode 0x79040C00 0x07000000 0 = .ok (.qpush (formOf 4 6 0 0)) ∧ decode 0x79060200 0x07020001 0 = .ok (.qtrypop (formOf 6 1 0 1)) ∧
    decode 0x78810000 0x07000000 0 = .ok (.chclose (formOf 1 0 0 0)) ∧ decode 0x78850600 0x07010000 0 = .ok (.chavail (formOf 5 3 0 0)) ∧
    decode 0x79831800 0x07010000 0 = .ok (.callred (formOf 3 12 0 0)) := by
  decide +kernel
theorem test_decode_system :
    decode 0x7C0C0000 0x07000010 0 = .ok (.csrr { formOf 12 0 0 0 with num := 0x010 }) ∧
    decode 0x7C830808 0x07000000 0 = .ok (.launch (formOf 3 4 2 0)) ∧
    decode 0x7D830410 0x07000018 0 = .ok (.ctxsave { formOf 3 2 4 0 with sz := 24 }) ∧
    decode 0x7E840000 0x07030001 0 = .ok (.hcread { formOf 4 0 0 0 with sel := 1 }) ∧
    decode 0x7E800C00 0x07000005 0 = .ok (.hcmark { formOf 0 6 0 0 with imm := 5 }) ∧
    decode 0x7E800000 0x07020007 0 = .ok (.hcstop { formOf 0 0 0 0 with imm := 7 }) ∧
    decode 0x7F030400 0x07000000 0 = .ok (.kretire (formOf 3 2 0 0)) := by
  decide +kernel

/-- 03 R67: LEN 0b11 is reason 1, an opcode of no form reason 2, a wrong LEN reason 3, a G of 0b1111 reason 7 or what R67 lists for it. -/
theorem test_decode_refuses :
    (decode 0xC0000000 0 0).toOption = none ∧ (decode 0x00840A18 0 0).toOption ≠ none ∧ (decode 0x40840A18 0x07000000 0).toOption = none := by
  decide +kernel

/-! ### Well-formed terms: one ill-formed term for each check -/

/-- M, unused fields, LA and G (R58, R61). -/
theorem test_ill_formed_fields :
    Instr.wellFormed (.iadd { formOf 4 5 6 0 with m := 3 }) = false ∧ Instr.wellFormed (.iadd (formOf 4 5 6 1)) = false ∧
    Instr.wellFormed (.iadd { formOf 4 5 6 0 with la := 1 }) = false ∧ Instr.wellFormed (.iadd { formOf 4 5 6 0 with g := 6 }) = false ∧
    Instr.wellFormed (.mov (formOf 4 1 6 0)) = false ∧ Instr.wellFormed (.popc (formOf 4 5 1 0)) = false ∧
    Instr.wellFormed (.brx (formOf 1 4 0 0)) = false ∧ Instr.wellFormed (.ret (formOf 0 1 0 0)) = false ∧
    Instr.wellFormed (.exit { formOf 0 0 0 0 with la := 1 }) = false ∧ Instr.wellFormed (.nop { formOf 0 0 0 0 with g := 15 }) = false ∧
    Instr.wellFormed .start = false := by decide +kernel

/-- Immediates, counts and bit fields (R180, R185, R191, R166). -/
theorem test_ill_formed_limits :
    Instr.wellFormed (.shli { formOf 4 5 0 0 with imm := 32 }) = false ∧ Instr.wellFormed (.lea { formOf 4 6 8 0 with imm := 5 }) = false ∧
    Instr.wellFormed (.bfe { formOf 4 5 0 0 with pos := 0, len := 0 }) = false ∧
    Instr.wellFormed (.bfi { formOf 4 5 6 0 with pos := 1, len := 32 }) = false ∧
    Instr.wellFormed (.call { formOf 97 0 0 0 with imm := 0 }) = false ∧
    Instr.wellFormed (.shfli { formOf 4 5 0 0 with seg := 6, rb := false, k := 0 }) = false ∧
    Instr.wellFormed (.shfli { formOf 4 5 0 0 with seg := 2, rb := false, k := 4 }) = false ∧
    Instr.wellFormed (.shfli { formOf 4 5 0 0 with seg := 2, rb := true, k := 1 }) = false ∧
    Instr.wellFormed (.wred { formOf 4 5 0 0 with seg := 5, exc := true, w64 := false, op := .add, uns := false }) = false ∧
    Instr.wellFormed (.wscan { formOf 4 5 0 0 with seg := 5, exc := true, w64 := false, op := .add, uns := true }) = false ∧
    Instr.wellFormed (.wfred { formOf 4 5 0 0 with seg := 6, op := .fadd, f64 := false }) = false := by decide +kernel

/-- Rounding fields, precisions and conversions (R70, R203, R210, R211, R212, R216). -/
theorem test_ill_formed_float :
    Instr.wellFormed (.fmin { formOf 4 5 6 0 with rnd := .rne, prec := .f32 }) = false ∧
    Instr.wellFormed (.fcmp { formOf 4 5 6 0 with rnd := .dynamic, prec := .f16, cond := .eq }) = false ∧
    Instr.wellFormed (.fexp2 { formOf 4 5 0 0 with rnd := .dynamic, prec := .f64 }) = false ∧
    Instr.wellFormed (.fcvt { formOf 4 5 0 0 with rnd := .rne, prec := .f32, uns := false, dprec := .f64 }) = false ∧
    Instr.wellFormed (.fcvt { formOf 4 5 0 0 with rnd := .dynamic, prec := .f32, uns := false, dprec := .f32 }) = false ∧
    Instr.wellFormed (.f8unpack { formOf 4 5 0 0 with rnd := .dynamic, prec := .f32, e5m2 := true, sat := true }) = false ∧
    Instr.wellFormed (.mxdq { formOf 4 5 6 2 with rnd := .dynamic, prec := .f32 }) = false ∧
    Instr.wellFormed (.fsplit { formOf 4 6 0 9 with rnd := .dynamic, prec := .f64 }) = false ∧
    Instr.wellFormed (.faddl { formOf 4 5 0 0 with rnd := .dynamic, prec := .f64, lit := 0 }) = false := by decide +kernel

/-- A 32-bit load without index, offset or order. -/
def plainLoad (d a : BitVec 7) (m : BitVec 2) : MemForm :=
  { formOf d a 0 0 with m := m, width := .b32, sx := false, scale := 0, idx := false, clr := false, ord := .relaxed, scope := .grp, off := 0 }
/-- A 32-bit atomic without offset or order. -/
def plainAtom (d a b c : BitVec 7) (m : BitVec 2) : AtomForm :=
  { formOf d a b c with m := m, uns := false, w64 := false, ord := .relaxed, scope := .grp, off := 0 }

/-- Memory forms, barriers and waits (R71, R268, R310, R318). -/
theorem test_ill_formed_memory :
    Instr.wellFormed (.ld { plainLoad 4 6 0 with ord := .release }) = false ∧ Instr.wellFormed (.st { plainLoad 4 6 0 with ord := .acquire }) = false ∧
    Instr.wellFormed (.ld { plainLoad 4 6 0 with sx := true }) = false ∧ Instr.wellFormed (.ld { plainLoad 4 6 0 with scale := 1 }) = false ∧
    Instr.wellFormed (.ld { plainLoad 4 6 2 with scope := .dev }) = false ∧ Instr.wellFormed (.ld { plainLoad 4 6 0 with clr := true }) = false ∧
    Instr.wellFormed (.ldu { plainLoad 4 6 0 with scope := .sys }) = false ∧ Instr.wellFormed (.ldfe (plainLoad 4 6 0)) = false ∧
    Instr.wellFormed (.pf { formOf 0 6 0 0 with level := .l1, scale := 1, idx := false, off := 0 }) = false ∧
    Instr.wellFormed (.atomAdd { plainAtom 4 6 8 0 0 with uns := true }) = false ∧
    Instr.wellFormed (.atomFadd { plainAtom 4 6 8 0 0 with w64 := true }) = false ∧
    Instr.wellFormed (.acas { plainAtom 4 6 8 9 0 with off := 1 }) = false ∧ Instr.wellFormed (.satomAdd (plainAtom 4 6 8 0 0)) = false ∧
    Instr.wellFormed (.barRed { formOf 4 5 0 0 with bar := 0, kind := .int false .add true }) = false ∧
    Instr.wellFormed (.waitv { formOf 0 6 8 0 with ord := .relaxed, scope := .dev, texp := 9 }) = false ∧
    Instr.wellFormed (.waitv { formOf 0 6 8 0 with ord := .acqRel, scope := .dev, texp := 0 }) = false := by decide +kernel

/-- Tiles and system forms (R232, R236, R238, R98, R366, R416). -/
theorem test_ill_formed_system :
    Instr.wellFormed (.mdrains { formOf 0 0 6 0 with ofmt := 7, rb0 := 0, nrb1 := 0 }) = false ∧
    Instr.wellFormed (.mfill { formOf 0 5 6 0 with rb0 := 7, nrb1 := 1 }) = false ∧
    Instr.wellFormed (.mwlat { formOf 0 6 0 0 with wfmt := 6, sp := false }) = false ∧
    Instr.wellFormed (.ctxsave { formOf 3 2 4 0 with sz := 19 }) = false ∧ Instr.wellFormed (.ctxload { formOf 3 2 4 0 with sz := 41 }) = false ∧
    Instr.wellFormed (.tlbinv { formOf 3 2 4 0 with sz := 11 }) = false ∧ Instr.wellFormed (.hret { formOf 0 2 0 0 with tgt := false }) = false := by
  decide +kernel

/-- For DecodeEncode: well-formed forms at the ends of their fields' ranges. -/
theorem witness_DecodeEncode :
    Instr.wellFormed (.iadd { formOf 127 127 127 0 with m := 2 }) = true ∧
    Instr.wellFormed (.shli { formOf 0 0 0 0 with imm := 31, la := 15, g := 14 }) = true ∧
    Instr.wellFormed (.movl { formOf 127 0 0 0 with lit := 0xFFFFFFFF }) = true ∧
    Instr.wellFormed (.call { formOf 96 0 0 0 with imm := 0x8000 }) = true := by decide +kernel

/-- For DecoderChecks: words of one, two and three words, and words that each of the three first checks refuses. -/
theorem witness_DecoderChecks :
    (∃ i, decode 0x00840A18 7 9 = .ok i) ∧ wordsOf 0x00840A18 = 1 ∧ wordsOf 0x61000000 = 2 ∧
    (let r := unpack 0xC0000000 0 0; r.len = 3) ∧
    (let r := unpack 0x00000000 0 0; r.len ≠ 3 ∧ formatOf r.op.toNat = none) ∧
    (let r := unpack 0x40800000 0 0; r.len ≠ 3 ∧ formatOf r.op.toNat = some .A ∧ r.len ≠ Format.A.len) :=
  ⟨⟨_, by rfl⟩, by decide +kernel, by decide +kernel, by decide +kernel, by decide +kernel, by decide +kernel⟩

/-! ### Integer forms -/

/-- The item of slot 0 after a form has executed in the small machine. -/
def ranAs (n : Nat) (g : Group) (i : Instr) : Option Item :=
  match exec i (bench n g) with
  | .next t => t.item? 0 0
  | _ => none

/-- An item with two values in v4:v5 and v6:v7. -/
def itemOf (x4 x5 x6 x7 : W32) : Item := (((benchItem.writeV 4 x4).writeV 5 x5).writeV 6 x6).writeV 7 x7
def groupOf (x4 x5 x6 x7 : W32) : Group := benchGroup [(0, itemOf x4 x5 x6 x7)]

/-- 09 R179: sums wrap; the item goes on at the next word. -/
theorem test_iadd_wraps : (ranAs 1 (groupOf 0xFFFFFFFF 2 0 0) (.iadd (formOf 8 4 5 0))).map (fun it => (it.readV 8, it.pc)) = some (1, 0x1004) := by
  decide +kernel
/-- 09 R179, R192: the sum of two large numbers clamps and sets SAT, bit 2. -/
theorem test_iaddsat_clamps :
    (ranAs 1 (groupOf 0x7FFFFFFF 1 0 0) (.iaddsat (formOf 8 4 5 0))).map (fun it => (it.readV 8, it.istat)) = some (0x7FFFFFFF, 4) := by
  decide +kernel
/-- 09 R181: a count of the whole width empties a logical shift and fills an arithmetic one with the sign. -/
theorem test_shift_by_width :
    (ranAs 1 (groupOf 0x80000001 32 0 0) (.shl (formOf 8 4 5 0))).map (fun it => it.readV 8) = some 0 ∧
    (ranAs 1 (groupOf 0x80000001 32 0 0) (.sar (formOf 8 4 5 0))).map (fun it => it.readV 8) = some 0xFFFFFFFF := by decide +kernel
/-- 09 R184: -7 / 2 is -3 with remainder -1; the signed overflow gives -2^31 and DOVF, bit 1. -/
theorem test_division :
    (ranAs 2 (groupOf 0xFFFFFFF9 2 0 0) (.idiv (formOf 8 4 5 0))).map (fun it => it.readV 8) = some 0xFFFFFFFD ∧
    (ranAs 2 (groupOf 0xFFFFFFF9 2 0 0) (.irem (formOf 8 4 5 0))).map (fun it => it.readV 8) = some 0xFFFFFFFF ∧
    (ranAs 2 (groupOf 0x80000000 0xFFFFFFFF 0 0) (.idiv (formOf 8 4 5 0))).map (fun it => (it.readV 8, it.istat)) = some (0x80000000, 2) := by
  decide +kernel
/-- 09 R183: -1 times 2 has all ones in its high word signed, 1 unsigned. -/
theorem test_high_products :
    (ranAs 2 (groupOf 0xFFFFFFFF 2 0 0) (.imulhi (formOf 8 4 5 0))).map (fun it => it.readV 8) = some 0xFFFFFFFF ∧
    (ranAs 2 (groupOf 0xFFFFFFFF 2 0 0) (.umulhi (formOf 8 4 5 0))).map (fun it => it.readV 8) = some 1 := by decide +kernel
/-- 09 R187: a 64-bit sum carries between the words of the pair. -/
theorem test_iadd64_carries :
    (ranAs 2 (groupOf 0xFFFFFFFF 0 1 0) (.iadd64 (formOf 8 4 6 0))).map (fun it => (it.readV 8, it.readV 9)) = some (0, 1) := by decide +kernel
/-- 09 R182: -1 is below 1 signed and above it unsigned. -/
theorem test_icmp_orders :
    (ranAs 2 (groupOf 0xFFFFFFFF 1 0 0) (.icmp { formOf 2 4 5 0 with cond := .lt })).map (fun it => it.readP 2) = some true ∧
    (ranAs 2 (groupOf 0xFFFFFFFF 1 0 0) (.icmp { formOf 2 4 5 0 with cond := .lo })).map (fun it => it.readP 2) = some false := by decide +kernel
/-- 03 R63: with a false guard only the PC moves. -/
theorem test_guard_false :
    (ranAs 2 (groupOf 1 2 0 0) (.idiv { formOf 8 4 5 0 with g := 0 })).map (fun it => (it.readV 8, it.pc)) = some (24, 0x1008) := by decide +kernel
/-- 03 R59, R67: a write of s0 to s15 is ILLEGAL with reason 0x0C and FIELD D. -/
theorem test_write_of_s4 :
    (ranAs 1 (groupOf 1 2 0 0) (.iadd { formOf 4 4 5 0 with m := 2 })).map (fun it => (it.trapCause, it.trapInfo, it.trapPc, it.pc)) =
      some (0x80000101, 0x10C, 0x1000, 0x2800) := by decide +kernel

/-- For IntegerResults: two items pass every form of the list, at the ends of the immediate fields, under M 0b00 and 0b01. -/
theorem witness_IntegerResults :
    Plain (bench 2 duo) duo ∧
    (∀ p ∈ integerResults (formOf 4 6 8 0) 31 0xFFFFFFFF 31 1 .hs, Admits (bench 2 duo) duo p.1) ∧
    (∀ p ∈ integerResults { formOf 6 6 62 0 with m := 1 } 4 0 0 32 .eq, Admits (bench 2 duo) duo p.1) :=
  ⟨plain_duo 2, by unfold Admits Env.Passes; decide +kernel, by unfold Admits Env.Passes; decide +kernel⟩

/-- For IntegerScalarResults: a word and a pair written by the item of slot 0, one under M 0b11, and a wave without a true guard. -/
theorem witness_IntegerScalarResults :
    Plain (bench 2 duo) duo ∧ Admits (bench 2 duo) duo (.iadd { formOf 16 6 8 0 with m := 2 }) ∧
    Admits (bench 2 duo) duo (.iadd64 { formOf 62 6 8 0 with m := 2 }) ∧ Admits (bench 2 duo) duo (.mov { formOf 63 0 1 0 with m := 3 }) ∧
    Lead (bench 2 duo) duo (.iadd { formOf 16 6 8 0 with m := 2 }) 0 benchItem ∧
    Lead (bench 2 duo) duo (.movi { formOf 16 0 0 0 with m := 2, g := 0, imm := 1 }) 1 zeroItem ∧
    Admits (bench 2 duo) duo (.movi { formOf 16 0 0 0 with m := 2, g := 0, imm := 1 }) ∧
    Admits (bench 2 duo) duo (.movi { formOf 16 0 0 0 with m := 2, g := 1, imm := 1 }) ∧
    ¬ SomeGuard (bench 2 duo) duo (.movi { formOf 16 0 0 0 with m := 2, g := 1, imm := 1 }) := by
  refine ⟨plain_duo 2, ?_, ?_, ?_, ?_, ?_, ?_, ?_, ?_⟩
  case refine_4 => exact ⟨by decide, rfl, by decide +kernel, fun _ _ _ _ _ => Nat.zero_le _⟩
  case refine_5 =>
    refine ⟨by decide, rfl, by decide +kernel, ?_⟩
    intro j hj jt hjt hg
    have : j = 0 ∨ j = 1 := by simpa [bench, duo, benchGroup] using hj
    rcases this with rfl | rfl
    · cases hjt; revert hg; decide +kernel
    · exact Nat.le_refl _
  case refine_8 =>
    rintro ⟨j, hj, jt, hjt, hg⟩
    have : j = 0 ∨ j = 1 := by simpa [bench, duo, benchGroup] using hj
    rcases this with rfl | rfl <;> (cases hjt; revert hg; decide +kernel)
  all_goals (unfold Admits Env.Passes; decide +kernel)

/-- For BitFieldMeaning: the widest field, and the narrowest at the top. -/
theorem witness_BitFieldMeaning : (1 ≤ 32 ∧ 0 + 32 ≤ 32 ∧ 31 < 32) ∧ (1 ≤ 1 ∧ 31 + 1 ≤ 32 ∧ 0 < 32) := by decide

/-- For CarryChain. -/
theorem witness_CarryChain :
    Plain (bench 2 duo) duo ∧ Admits (bench 2 duo) duo (.addc (formOf 4 6 8 6)) ∧ Admits (bench 2 duo) duo (.subb { formOf 4 6 63 0 with m := 1 }) :=
  ⟨plain_duo 2, by unfold Admits Env.Passes; decide +kernel, by unfold Admits Env.Passes; decide +kernel⟩

/-- For Divisions: no enabled trap is met by the first group; in the second the second item divides zero by zero with its trap enabled. -/
theorem witness_Divisions :
    (∀ p ∈ divisions (formOf 4 6 8 0), Admits (bench 2 solo) solo p.1 ∧ ∀ q ∈ solo.items, (bench 2 solo).wave.slots.contains q.1 = true →
      divisionTraps ((bench 2 solo).envOf solo q.1 q.2) p.2.1 (((bench 2 solo).envOf solo q.1 q.2).opA (formOf 4 6 8 0))
        (((bench 2 solo).envOf solo q.1 q.2).opB (formOf 4 6 8 0)) = false) ∧
    (bench 2 duo).handlerOf duo.kh = some 0x2800 ∧ (∀ p ∈ divisions (formOf 4 6 8 0), Admits (bench 2 duo) duo p.1) ∧
    (∀ q ∈ duo.items, q.2.inHandler = false ∧ q.2.windows = []) ∧
    divisionTraps ((bench 2 duo).envOf duo 1 zeroItem) true (((bench 2 duo).envOf duo 1 zeroItem).opA (formOf 4 6 8 0))
      (((bench 2 duo).envOf duo 1 zeroItem).opB (formOf 4 6 8 0)) = true := by
  refine ⟨?_, ?_, ?_, ?_, ?_⟩
  all_goals (try unfold Admits Env.Passes)
  all_goals decide +kernel

/-! ### Floating-point forms -/

/-- A floating form of a precision. -/
def floatForm (d a b c : BitVec 7) (p : Prec) : FloatForm := { formOf d a b c with rnd := .dynamic, prec := p }

/-- 02 R41, 10 R200: 1 + 2 is 3, exactly; 1 + 2^-24 is a tie that RNE gives to the even 1 with INX, and RUP the next number. -/
theorem test_fadd :
    (ranAs 2 (groupOf 0x3F800000 0x40000000 0 0) (.fadd (floatForm 8 4 5 0 .f32))).map (fun it => (it.readV 8, it.fpstat)) = some (0x40400000, 0) ∧
    (ranAs 2 (groupOf 0x3F800000 0x33800000 0 0) (.fadd (floatForm 8 4 5 0 .f32))).map (fun it => (it.readV 8, it.fpstat)) =
      some (0x3F800000, 16) ∧
    (ranAs 2 (groupOf 0x3F800000 0x33800000 0 0) (.fadd { floatForm 8 4 5 0 .f32 with rnd := .rup })).map (fun it => it.readV 8) =
      some 0x3F800001 := by decide +kernel
/-- 10 R200: one divided by zero is infinity with DIV0, bit 1; zero by zero the canonical NaN of R38 with INV, bit 0. -/
theorem test_fdiv :
    (ranAs 2 (groupOf 0x3F800000 0 0 0) (.fdiv (floatForm 8 4 5 0 .f32))).map (fun it => (it.readV 8, it.fpstat)) = some (0x7F800000, 2) ∧
    (ranAs 2 (groupOf 0 0 0 0) (.fdiv (floatForm 8 4 5 0 .f32))).map (fun it => (it.readV 8, it.fpstat)) = some (0x7FC00000, 1) := by decide +kernel
/-- 10 R202: 3 times 2 minus 6 is +0 in one rounding. -/
theorem test_fms :
    (ranAs 2 (groupOf 0x40400000 0x40000000 0x40C00000 0) (.fms (floatForm 8 4 5 6 .f32))).map (fun it => (it.readV 8, it.fpstat)) = some (0, 0) := by
  decide +kernel
/-- 10 R203: a quiet NaN is unordered with every number, and lt raises INV. -/
theorem test_fcmp_nan :
    (ranAs 2 (groupOf 0x7FC00000 0 0 0) (.fcmp { floatForm 2 4 5 0 .f32 with cond := .un })).map (fun it => (it.readP 2, it.fpstat)) =
      some (true, 0) ∧
    (ranAs 2 (groupOf 0x7FC00000 0 0 0) (.fcmp { floatForm 2 4 5 0 .f32 with cond := .lt })).map (fun it => (it.readP 2, it.fpstat)) =
      some (false, 1) := by decide +kernel

/-- For FloatResults: no trap enabled; then an item whose enabled DIV0 trap a division takes. -/
theorem witness_FloatResults :
    Plain (bench 2 duo) duo ∧ floatWords (.fadd (floatForm 4 6 8 0 .f64)) = some 2 ∧ Admits (bench 2 duo) duo (.fadd (floatForm 4 6 8 0 .f64)) ∧
    floatWords (.fsplit { formOf 4 6 8 15 with rnd := .dynamic, prec := .f64 }) = some 1 ∧
    Admits (bench 2 duo) duo (.fsplit { formOf 4 6 8 15 with rnd := .dynamic, prec := .f64 }) ∧
    floatWords (.mxdq { formOf 4 6 8 1 with rnd := .dynamic, prec := .f32 }) = some 4 ∧
    Admits (bench 2 duo) duo (.mxdq { formOf 4 6 8 1 with rnd := .dynamic, prec := .f32 }) ∧
    (∀ q ∈ duo.items, (bench 2 duo).wave.slots.contains q.1 = true → field q.2.fpctl 13 8 = 0) ∧
    (bench 2 duo).handlerOf duo.kh = some 0x2800 ∧ (∀ q ∈ duo.items, q.2.inHandler = false ∧ q.2.windows = []) := by
  refine ⟨plain_duo 2, ?_, ?_, ?_, ?_, ?_, ?_, ?_, ?_, ?_⟩
  all_goals (try unfold Admits Env.Passes)
  all_goals decide +kernel

/-- For FloatTrapChoice: FPINV and FPINX enabled, a first element that is inexact and a second that is invalid. -/
theorem witness_FloatTrapChoice :
    ([⟨16, false⟩, ⟨1, false⟩] : List ElemFlags).length ≤ 2 ∧
    (trapOrder.find? (fun p => (0x1100 : W32).getLsbD p.2.1 && ([⟨16, false⟩, ⟨1, false⟩] : List ElemFlags).any p.2.2)).map Prod.fst = some 0x09 ∧
    (trapOrder.find? (fun p => (0x1100 : W32).getLsbD p.2.1 && ([⟨4, false⟩] : List ElemFlags).any p.2.2)).isNone = true := by decide +kernel

/-- For SignForms: both a packed and a double precision. -/
theorem witness_SignForms :
    Plain (bench 2 duo) duo ∧ (∀ p ∈ signForms (floatForm 4 6 8 0 .f64), Admits (bench 2 duo) duo p.1) ∧
    (∀ p ∈ signForms { floatForm 4 6 8 0 .bf16 with m := 1 }, Admits (bench 2 duo) duo p.1) := by
  refine ⟨plain_duo 2, ?_, ?_⟩
  all_goals (unfold Admits Env.Passes)
  all_goals decide +kernel

/-- For PickAndEncode: the largest finite code of FP8 E4M3 and of FP64, and a tie. -/
theorem witness_PickAndEncode :
    (e4m3 ∈ allFormats ∧ 0x7E < 2 ^ (e4m3.signBit + 1) ∧ (∃ s m e, e4m3.decode 0x7E = .fin s m e)) ∧
    (fp64 ∈ allFormats ∧ 0x7FEFFFFFFFFFFFFF < 2 ^ (fp64.signBit + 1) ∧ (∃ s m e, fp64.decode 0x7FEFFFFFFFFFFFFF = .fin s m e)) ∧
    (pick ⟨3, -1⟩ 0 0).1 = 2 :=
  ⟨⟨by simp [allFormats], by decide +kernel, _, _, _, rfl⟩, ⟨by simp [allFormats], by decide +kernel, _, _, _, rfl⟩, by decide +kernel⟩

/-- For RoundIsCorrect: a value that rounds without overflow in every mode. -/
theorem witness_RoundIsCorrect :
    ∀ rm < 4, (e2m1.round ⟨5, 0⟩ rm false false false).flags &&& fOVF = 0 ∧ (fp32.round ⟨-16777217, 0⟩ rm false false false).flags &&& fOVF = 0 := by
  decide +kernel

/-- For FloatFormsAndComparison: finite operands, a subnormal under DAZ, and a NaN. -/
theorem witness_FloatFormsAndComparison :
    (fp32.read true 0x00000001).Finite ∧ (fp32.read false 0x7F7FFFFF).Finite ∧ (fp64.read false 0x8000000000000000).Finite ∧
    (fp16.read false 0x7E00).isNan = true ∧ Plain (bench 2 duo) duo ∧
    (∀ q ∈ duo.items, (bench 2 duo).wave.slots.contains q.1 = true → field q.2.fpctl 13 8 = 0) ∧
    (∀ p ∈ fusedForms (floatForm 4 6 8 10 .f64), Admits (bench 2 duo) duo p.1) ∧
    (∀ p ∈ fusedForms { floatForm 4 6 8 10 .f16 with m := 1 }, Admits (bench 2 duo) duo p.1) := by
  refine ⟨True.intro, True.intro, True.intro, by decide +kernel, plain_duo 2, by decide +kernel, ?_, ?_⟩
  all_goals (unfold Admits Env.Passes)
  all_goals decide +kernel

/-! ### Control flow -/

/-- 08 R162: a displacement of -1 goes one word back. -/
theorem test_bra_back : (ranAs 2 solo (.bra { formOf 0 0 0 0 with imm := 0xFFFF })).map (fun it => it.pc) = some 0xFFC := by decide +kernel
/-- 08 R162: a branch to an address that is no multiple of 4 traps MISALIGN. -/
theorem test_brx_misaligned :
    (ranAs 2 (groupOf 0x1002 0 0 0) (.brx (formOf 0 4 0 0))).map (fun it => (it.trapCause, it.trapAddr, it.trapInfo, it.pc)) =
      some (0x80000204, 0x1002, 0x100, 0x2800) := by decide +kernel
/-- An item whose frame has four words. -/
def framed : Group := benchGroup [(0, { benchItem with frame := 4 })]

/-- 08 R166: a call keeps 96 words and its link record below the new frame. -/
theorem test_call :
    (ranAs 2 framed (.call { formOf 8 0 0 0 with imm := 4 })).map (fun it => (it.pc, it.frame, it.stack)) = some (0x1010, 8, 32) ∧
    (ranAs 2 framed (.call { formOf 8 0 0 0 with imm := 4 })).map (fun it => (it.callers, it.readV 32)) =
      some ([{ words := [96, 99, 102, 105], ret := 0x1008 }], 0) := by decide +kernel
/-- 19 R413: brk's code stands in TRAPINFO. -/
theorem test_brk :
    (ranAs 2 solo (.brk { formOf 0 0 0 0 with imm := 0xBEEF })).map (fun it => (it.trapCause, it.trapPc, it.trapInfo, it.pc)) =
      some (0x80000216, 0x1000, 0xBEEF, 0x2800) := by decide +kernel
/-- 08 R163: yield sets the item aside at the next instruction. -/
theorem test_yield : (ranAs 2 solo (.yield (formOf 0 0 0 0))).map (fun it => (it.pc, it.aside)) = some (0x1008, some 0x1008) := by decide +kernel

/-- An item in its handler, with 1-word ILEN in TRAPCAUSE. -/
def trappedItem : Item :=
  { benchItem with
    trapCause := 0x80000108
    trapPc := 0x1004 }
def trapped : Group := benchGroup [(0, trappedItem)]

/-- 19 R417: hret goes back to the trapped instruction, hskip past it; HND clears. -/
theorem test_handler_returns :
    (ranAs 2 trapped (.hret { formOf 0 0 0 0 with tgt := false })).map (fun it => (it.pc, it.trapCause)) = some (0x1004, 0x108) ∧
    (ranAs 2 trapped (.hskip (formOf 0 0 0 0))).map (fun it => (it.pc, it.trapCause)) = some (0x1008, 0x108) := by decide +kernel

/-- For Branches: aligned targets at the ends of the immediate's range, and a misaligned one. -/
theorem witness_Branches :
    (∀ p ∈ branches (formOf 0 4 0 0) 0x8000 0x7FFFFFFC, Admits (bench 2 duo) duo p.1) ∧
    (∀ q ∈ duo.items, (bench 2 duo).wave.slots.contains q.1 = true →
      (((bench 2 duo).envOf duo q.1 q.2).it.readV2 4).toNat % 4 = 0) ∧
    (bench 2 duo).handlerOf duo.kh = some 0x2800 ∧ (∀ q ∈ duo.items, q.2.inHandler = false ∧ q.2.windows = []) ∧
    (let e := (bench 2 duo).envOf duo 0 benchItem; (e.it.pc + (2 : W32).signExtend 64).toNat % 4 ≠ 0) := by
  refine ⟨?_, ?_, ?_, ?_, ?_⟩
  all_goals (try unfold Admits Env.Passes)
  all_goals decide +kernel

/-- An item in a call, its caller's frame of two words resident. -/
def calledItem : Item :=
  { benchItem with
    frame := 4
    stack := 24
    callers := [{ words := [7, 8], ret := 0x1100 }] }
def called : Group := benchGroup [(0, calledItem)]

/-- For CallsAndReturns and ReturnUndoesCall: a frame of 96 words called with one of 0, one of 4 with 90 beside a resident caller, and a ret. -/
theorem witness_CallsAndReturns :
    Plain (bench 2 solo) solo ∧ (∀ p ∈ calls (formOf 0 4 0 0) 0x7FFF 4, Admits (bench 2 solo) solo p.1) ∧
    ((bench 2 solo).envOf solo 0 benchItem).CallFits 0 0x1100 ∧ ((bench 2 called).envOf called 0 calledItem).CallFits 90 0x1100 ∧
    Admits (bench 2 called) called (.ret (formOf 0 0 0 0)) ∧
    (let e := (bench 2 called).envOf called 0 calledItem
     e.it.stack ≠ e.area ∧ e.it.callers = [] ++ [{ words := [7, 8], ret := 0x1100 }] ∧ (0x1100 : W64).toNat % 4 = 0) := by
  refine ⟨plain_solo 2, ?_, ?_, ?_, ?_, ?_⟩
  all_goals (try unfold Admits Env.Passes)
  all_goals (try unfold Env.CallFits)
  all_goals decide +kernel

/-- For PlainControl. -/
theorem witness_PlainControl :
    Admits (bench 2 duo) duo (.nop { formOf 0 0 0 0 with g := 0 }) ∧ Admits (bench 2 duo) duo (.yield { formOf 0 0 0 0 with g := 0 }) ∧
    (∀ q ∈ duo.items, (bench 2 duo).wave.slots.contains q.1 = true → q.2.aside = none) ∧
    Admits (bench 2 duo) duo (.brk { formOf 0 0 0 0 with imm := 0xFFFF }) := by
  refine ⟨?_, ?_, ?_, ?_⟩
  all_goals (try unfold Admits Env.Passes)
  all_goals decide +kernel

/-- For TrapEntry: an item outside a handler and one inside. -/
theorem witness_TrapEntry : benchItem.inHandler = false ∧ trappedItem.inHandler = true ∧ (3 < 4 ∧ causeHcStop < 256) := by decide +kernel

/-- For HandlerReturns. -/
theorem witness_HandlerReturns :
    Plain (bench 2 trapped) trapped ∧ (∀ p ∈ handlerReturns (formOf 0 8 0 0), Admits (bench 2 trapped) trapped p.1 ∧
      ∀ q ∈ trapped.items, (bench 2 trapped).wave.slots.contains q.1 = true →
        q.2.trapCause.getLsbD 31 = true ∧ (p.2 ((bench 2 trapped).envOf trapped q.1 q.2)).toNat % 4 = 0) ∧
    (∀ p ∈ handlerReturns (formOf 0 8 0 0), Admits (bench 2 duo) duo p.1) := by
  refine ⟨plain_bench 2 trapped rfl rfl (by unfold Group.Clear; decide), ?_, ?_⟩
  all_goals (unfold Admits Env.Passes)
  all_goals decide +kernel

/-- An item that has arrived at its refill point. -/
def arrivedItem : Item := { benchItem with arrived := true }
def arrivedGroup : Group := benchGroup [(0, arrivedItem)]
/-- An item that is not at the refill point. -/
def astrayItem : Item := { benchItem with pc := 0x1010 }
def astray : Group := benchGroup [(0, astrayItem)]

/-- For ExitAndRefill: an exit; and at the rfpt, an item that has not arrived, one that has, and one elsewhere. -/
theorem witness_ExitAndRefill :
    Alone (bench 2 solo) solo (.exit (formOf 0 0 0 0)) 0 benchItem ∧ benchItem.Idle ∧ solo.deferred? 0 = none ∧
    Alone (bench 2 solo) solo (.rfpt (formOf 0 0 0 0)) 0 benchItem ∧ Alone (bench 2 arrivedGroup) arrivedGroup (.rfpt (formOf 0 0 0 0)) 0 arrivedItem ∧
    Alone (bench 2 astray) astray (.rfpt (formOf 0 0 0 0)) 0 astrayItem ∧ (bench 2 solo).kernel? solo.kh = some benchKernel ∧
    benchItem.pc = benchKernel.descAddr + benchKernel.desc.refillPc ∧ astrayItem.pc ≠ benchKernel.descAddr + benchKernel.desc.refillPc :=
  ⟨alone_solo 2 _ (by decide +kernel), by unfold Item.Idle; decide, by rfl, alone_solo 2 _ (by decide +kernel),
    alone_bench 2 arrivedGroup _ arrivedItem rfl rfl rfl (by decide) (by decide +kernel),
    alone_bench 2 astray _ astrayItem rfl rfl rfl (by decide) (by decide +kernel), rfl, by decide, by decide⟩

/-! ### Cross-lane forms -/

/-- The shuffle on a fused core of chapter 8: 31 items, the one of LSLOT 30 gone, p2 0 in LSLOT 7 alone, v5 = 100 + LSLOT. -/
def shuffleGroup : Group :=
  benchGroup (((List.range 32).filter (fun k => k != 30)).map (fun k => (k, { (wordItem.writeV 5 (BitVec.ofNat 32 (100 + k))) with
    p := if k = 7 then 0 else 4 })))

/-- 08 R171 and the table of that example: lanes 0, 6, 7, 28, 29 and 31. -/
theorem test_shuffle_example :
    (match exec (.shfld { formOf 4 5 0 0 with g := 2, seg := 5, rb := false, k := 1 }) (bench 2 shuffleGroup) with
      | .next t => [0, 6, 7, 8, 28, 29, 31].map (fun k => (t.item? 0 k).map (fun it => it.readV 4))
      | _ => []) = [some 101, some 106, some 0, some 109, some 129, some 129, some 131] := by decide +kernel

/-- 08 R172: the ballot of items 0 and 1, of which the second has p0 1. -/
theorem test_ballot : (ranAs 2 duo (.ballot (formOf 4 0 0 0))).map (fun it => it.readV 4) = some 2 := by decide +kernel
/-- 08 R173: the inclusive sum of lane 0 is its own value, the exclusive one the identity, the reduction the sum of both. -/
theorem test_scans :
    (ranAs 2 duo (.wscan { formOf 4 5 0 0 with seg := 5, exc := false, w64 := false, op := .add, uns := false })).map (fun it => it.readV 4) =
      some 15 ∧
    (ranAs 2 duo (.wscan { formOf 4 5 0 0 with seg := 5, exc := true, w64 := false, op := .min, uns := false })).map (fun it => it.readV 4) =
      some 0x7FFFFFFF ∧
    (ranAs 2 duo (.wred { formOf 4 5 0 0 with seg := 5, exc := false, w64 := false, op := .min, uns := true })).map (fun it => it.readV 4) =
      some 0 := by decide +kernel

/-- For ShufflesAndVotes: the shuffles with a register for K and with the narrowest segment, and the votes. -/
theorem witness_ShufflesAndVotes :
    Plain (bench 2 duo) duo ∧ OneWindow (bench 2 duo) ∧
    (∀ p ∈ shuffles { formOf 4 5 6 0 with seg := 5, rb := true, k := 0 }, Admits (bench 2 duo) duo p.1) ∧
    (∀ p ∈ shuffles { formOf 4 5 0 0 with seg := 0, rb := false, k := 0 }, Admits (bench 2 duo) duo p.1) ∧
    Admits (bench 2 duo) duo (.vall (formOf 6 7 0 0)) ∧ Admits (bench 2 duo) duo (.vany (formOf 0 0 0 0)) ∧
    Admits (bench 2 duo) duo (.ballot (formOf 4 0 0 0)) ∧ Admits (bench 2 duo) duo (.matchLanes (formOf 4 5 0 0)) := by
  refine ⟨plain_duo 2, ⟨by decide, 0, by decide⟩, ?_, ?_, ?_, ?_, ?_, ?_⟩
  all_goals (unfold Admits Env.Passes)
  all_goals decide +kernel

/-- For ScansAndReductions. -/
theorem witness_ScansAndReductions :
    Plain (bench 2 duo) duo ∧ OneWindow (bench 2 duo) ∧
    Admits (bench 2 duo) duo (.wscan { formOf 4 6 0 0 with seg := 5, exc := true, w64 := true, op := .max, uns := true }) ∧
    Admits (bench 2 duo) duo (.wred { formOf 4 6 0 0 with seg := 0, exc := false, w64 := false, op := .xor, uns := false }) ∧
    Admits (bench 2 duo) duo (.wfred { formOf 4 6 0 0 with seg := 5, op := .fadd, f64 := true }) ∧
    (∀ q ∈ duo.items, (bench 2 duo).wave.slots.contains q.1 = true → field q.2.fpctl 13 8 = 0) := by
  refine ⟨plain_duo 2, ⟨by decide, 0, by decide⟩, ?_, ?_, ?_, ?_⟩
  all_goals (try unfold Admits Env.Passes)
  all_goals decide +kernel

/-! ### Scratchpad -/

/-- A group with bytes 1 to 16 at offset 0, Empty granules, and the item's v6:v7 an offset. -/
def padGroup (x : W32) (full : Bool) : Group :=
  { benchGroup [(0, (benchItem.writeV 6 x).writeV 7 0)] with
    scratch := (List.range 16).map (fun k => (k, BitVec.ofNat 8 (k + 1)))
    full := if full then [(0, true)] else [] }
def padItem (x : W32) : Item := (benchItem.writeV 6 x).writeV 7 0

theorem alone_pad (n : Nat) (x : W32) (full : Bool) (i : Instr)
    (hp : ((bench n (padGroup x full)).envOf (padGroup x full) 0 (padItem x)).gate (shapeOf i) (admitted i) = .go ∧
      (shapeOf i).poisoned ((bench n (padGroup x full)).envOf (padGroup x full) 0 (padItem x)).it (padGroup x full).badS = none) :
    Alone (bench n (padGroup x full)) (padGroup x full) i 0 (padItem x) :=
  alone_bench n _ i (padItem x) rfl rfl rfl ⟨rfl, rfl⟩ hp

/-- 12 R271: little-endian, sign-extended. -/
theorem test_spad_load :
    (ranAs 2 (padGroup 4 true) (.ld (plainLoad 4 6 2))).map (fun it => it.readV 4) = some 0x08070605 ∧
    (ranAs 2 (padGroup 8 true) (.ld { plainLoad 4 6 2 with width := .b16 })).map (fun it => it.readV 4) = some 0x0A09 := by decide +kernel

/-- 12 R274: satom.add gives the old word and leaves the sum. -/
theorem test_satom_add :
    (match exec (.satomAdd (plainAtom 4 6 1 0 2)) (bench 2 (padGroup 0 true)) with
      | .next t => (t.group? 0).map (fun g => (leNat (g.spadRead 0 4), (t.item? 0 0).map (fun it => it.readV 4)))
      | _ => none) = some (0x04030204, some 0x04030201) := by decide +kernel

/-- 12 R258: ldfe of an Empty granule waits. -/
theorem test_ldfe_waits :
    (ranAs 2 (padGroup 0 false) (.ldfe (plainLoad 4 6 2))).map (fun it => (it.pc, it.wait)) =
      some (0x1000, .granuleFull 0 0 (plainLoad 4 6 2)) := by decide +kernel

theorem ready_pad (n : Nat) (full : Bool) (x : W64) (b : Nat) (h1 : x.toNat + b ≤ 4096) (h2 : x.toNat % b = 0) :
    SpadReady (bench n (padGroup (lo32 x) full)) (padGroup (lo32 x) full) x b :=
  ⟨rfl, h1, h2, by simp [Group.spadPoisoned, padGroup, benchGroup, wordGroup, Table.read, Table.get?], rfl⟩

/-- For ScratchForms: the last word of the allocation; and granules that are Full and Empty. -/
theorem witness_ScratchForms :
    ((bench 2 (padGroup 4092 false)).envOf (padGroup 4092 false) 0 (padItem 4092)).effective (plainLoad 4 6 2) = 4092 ∧
    SpadReady (bench 2 (padGroup 4092 false)) (padGroup 4092 false) 4092 4 ∧
    Alone (bench 2 (padGroup 4092 false)) (padGroup 4092 false) (.ld (plainLoad 4 6 2)) 0 (padItem 4092) ∧
    Alone (bench 2 (padGroup 4092 false)) (padGroup 4092 false) (.st (plainLoad 4 6 2)) 0 (padItem 4092) ∧
    Alone (bench 2 (padGroup 0 true)) (padGroup 0 true) (.ldfe { plainLoad 4 6 2 with clr := true }) 0 (padItem 0) ∧
    Alone (bench 2 (padGroup 0 true)) (padGroup 0 true) (.stfe (plainLoad 4 6 2)) 0 (padItem 0) ∧
    Alone (bench 2 (padGroup 0 false)) (padGroup 0 false) (.ldfe (plainLoad 4 6 2)) 0 (padItem 0) ∧
    Alone (bench 2 (padGroup 0 false)) (padGroup 0 false) (.stfe (plainLoad 4 6 2)) 0 (padItem 0) ∧
    SpadReady (bench 2 (padGroup 0 true)) (padGroup 0 true) 0 4 ∧ SpadReady (bench 2 (padGroup 0 false)) (padGroup 0 false) 0 4 ∧
    (padGroup 0 true).isFull 0 = true ∧ (padGroup 0 false).isFull 0 = false ∧ (padGroup 0 true).NoWaiter 0 ∧ (padGroup 0 false).NoWaiter 0 :=
  ⟨by decide +kernel, ready_pad 2 false 4092 4 (by decide) (by decide), alone_pad _ _ _ _ (by decide +kernel),
    alone_pad _ _ _ _ (by decide +kernel), alone_pad _ _ _ _ (by decide +kernel), alone_pad _ _ _ _ (by decide +kernel),
    alone_pad _ _ _ _ (by decide +kernel), alone_pad _ _ _ _ (by decide +kernel), ready_pad 2 true 0 4 (by decide) (by decide),
    ready_pad 2 false 0 4 (by decide) (by decide), by decide +kernel, by decide +kernel,
    by unfold Group.NoWaiter; intro p hp; simp [padGroup, benchGroup] at hp; subst hp; trivial,
    by unfold Group.NoWaiter; intro p hp; simp [padGroup, benchGroup] at hp; subst hp; trivial⟩

/-- For ScratchAtomics: each form on the last word of the allocation. -/
theorem witness_ScratchAtomics :
    SpadReady (bench 2 (padGroup 4092 false)) (padGroup 4092 false) 4092 4 ∧
    ((bench 2 (padGroup 4092 false)).envOf (padGroup 4092 false) 0 (padItem 4092)).address 2 6 0 false 0 0 = 4092 ∧
    ∀ p ∈ spadAtomics (plainAtom 4 6 8 9 2), Alone (bench 2 (padGroup 4092 false)) (padGroup 4092 false) p.1 0 (padItem 4092) := by
  refine ⟨ready_pad 2 false 4092 4 (by decide) (by decide), by decide +kernel, ?_⟩
  intro p hp
  refine alone_pad _ _ _ _ ?_
  revert p; decide +kernel

/-! ### Global memory -/

/-- The small machine with an item whose v6:v7 is an address. -/
def memItem (x : W32) : Item := (benchItem.writeV 6 x).writeV 7 0
def memGroup (x : W32) : Group := benchGroup [(0, memItem x)]

theorem alone_mem (n : Nat) (x : W32) (i : Instr)
    (hp : ((bench n (memGroup x)).envOf (memGroup x) 0 (memItem x)).gate (shapeOf i) (admitted i) = .go ∧
      (shapeOf i).poisoned ((bench n (memGroup x)).envOf (memGroup x) 0 (memItem x)).it (memGroup x).badS = none) :
    Alone (bench n (memGroup x)) (memGroup x) i 0 (memItem x) :=
  alone_bench n _ i (memItem x) rfl rfl rfl ⟨rfl, rfl⟩ hp

/-- Every bucket of the small machine's context is boundless (R89). -/
theorem charge_bench (n : Nat) (g : Group) (src c : Nat) (h : c < 4) : (bench n g).mayCharge src 1 c = true := by
  rcases c with _ | _ | _ | _ | c
  case succ.succ.succ.succ => omega
  all_goals simp [State.mayCharge, State.boundless, State.context, bench, benchContext, wordContext, Table.read, Table.get?]

/-- The first word and 16 bytes at the end of a line of the small machine, at the slice that serves the item and at the home slice. -/
theorem reach_mem (x : W32) (b slice : Nat) (write : Bool) (h : x = 0 ∨ x = 0x1F9FF0)
    (hb : b = 4 ∨ b = 8 ∨ b = 16) (hs : slice = servingSlice 0 x.toNat ∨ slice = homeSlice x.toNat) :
    Reachable (bench 2 (memGroup x)) (memGroup x) (x.zeroExtend 64) b x.toNat slice write := by
  refine ⟨?_, ?_, ?_, ?_, ?_, fun c => charge_bench 2 _ _ c, rfl, ?_, ?_, ?_, ?_, ?_, ?_, rfl⟩
  case refine_3 =>
    refine ⟨{ unit := 0, ctx := 1, base := 0, logSize := 21, addr := 0, r := true, w := true, x := true }, ?_, ?_, ?_⟩
    · rcases h with rfl | rfl <;> rfl
    · cases write <;> rfl
    · rcases h with rfl | rfl <;> decide +kernel
  all_goals (rcases h with rfl | rfl <;> rcases hb with rfl | rfl | rfl <;> rcases hs with rfl | rfl <;> cases write <;> decide +kernel)

/-- For GlobalLoads: both forms, on 4 and 16 bytes. -/
theorem witness_GlobalLoads :
    (bench 2 (memGroup 0)).wave.ilen = 2 ∧ (memItem 0).storesOut = [] ∧ (memItem 0).windows = [] ∧
    ((bench 2 (memGroup 0)).envOf (memGroup 0) 0 (memItem 0)).effective (plainLoad 4 6 0) = 0 ∧
    Reachable (bench 2 (memGroup 0)) (memGroup 0) 0 4 0 (sliceFor (memGroup 0) 0) false ∧
    (∀ i ∈ ([.ld (plainLoad 4 6 0), .ldu (plainLoad 4 6 0)] : List Instr), Alone (bench 2 (memGroup 0)) (memGroup 0) i 0 (memItem 0)) ∧
    ((bench 2 (memGroup 0x1F9FF0)).envOf (memGroup 0x1F9FF0) 0 (memItem 0x1F9FF0)).effective { plainLoad 4 6 0 with width := .b128 } = 0x1F9FF0 ∧
    Reachable (bench 2 (memGroup 0x1F9FF0)) (memGroup 0x1F9FF0) 0x1F9FF0 16 0x1F9FF0 (sliceFor (memGroup 0x1F9FF0) 0x1F9FF0) false ∧
    Alone (bench 2 (memGroup 0x1F9FF0)) (memGroup 0x1F9FF0) (.ld { plainLoad 4 6 0 with width := .b128 }) 0 (memItem 0x1F9FF0) := by
  refine ⟨rfl, rfl, rfl, by decide +kernel, reach_mem 0 4 _ false (.inl rfl) (.inl rfl) (.inl rfl), ?_, by decide +kernel,
    reach_mem 0x1F9FF0 16 _ false (.inr rfl) (.inr (.inr rfl)) (.inl rfl), alone_mem _ _ _ (by decide +kernel)⟩
  intro i hi
  refine alone_mem _ _ _ ?_
  revert i; decide +kernel

/-- For GlobalStores. -/
theorem witness_GlobalStores :
    Reachable (bench 2 (memGroup 0x1F9FF0)) (memGroup 0x1F9FF0) 0x1F9FF0 16 0x1F9FF0 (sliceFor (memGroup 0x1F9FF0) 0x1F9FF0) true ∧
    Alone (bench 2 (memGroup 0x1F9FF0)) (memGroup 0x1F9FF0) (.st { plainLoad 4 6 0 with width := .b128 }) 0 (memItem 0x1F9FF0) :=
  ⟨reach_mem 0x1F9FF0 16 _ true (.inr rfl) (.inr (.inr rfl)) (.inl rfl), alone_mem _ _ _ (by decide +kernel)⟩

/-- For GlobalAtomics: the ten forms on a word at scope grp, and nine on a pair at scope dev. -/
theorem witness_GlobalAtomics :
    ((bench 2 (memGroup 0)).envOf (memGroup 0) 0 (memItem 0)).address 0 6 0 false 0 0 = 0 ∧
    Reachable (bench 2 (memGroup 0)) (memGroup 0) 0 4 0 (atomicSlice (memGroup 0) 0 .grp) true ∧
    (∀ p ∈ globalAtomics (plainAtom 4 6 8 10 0), Alone (bench 2 (memGroup 0)) (memGroup 0) p.1 0 (memItem 0)) ∧
    Reachable (bench 2 (memGroup 0)) (memGroup 0) 0 8 0 (atomicSlice (memGroup 0) 0 .dev) true ∧
    (∀ p ∈ globalAtomics { plainAtom 4 6 8 10 0 with w64 := true, scope := .dev }, p.2 ≠ 8 → Alone (bench 2 (memGroup 0)) (memGroup 0) p.1 0 (memItem 0)) := by
  refine ⟨by decide +kernel, reach_mem 0 4 _ true (.inl rfl) (.inl rfl) (.inl rfl), ?_,
    reach_mem 0 8 _ true (.inl rfl) (.inr (.inl rfl)) (.inr rfl), ?_⟩
  · intro p hp
    refine alone_mem _ _ _ ?_
    revert p; decide +kernel
  · intro p hp h8
    refine alone_mem _ _ _ ?_
    revert p; decide +kernel

/-- 13 R281, 12 R274: an atomic add to a word that holds 0 gives 0 and leaves the operand once it is served. -/
theorem test_atom_add :
    (match exec (.atomAdd (plainAtom 4 6 8 0 0)) (bench 2 (memGroup 0)) with
      | .next t => match exec (.memoryAccessServed 5) t with
        | .next u => (u.memory.read 0 0 4, (u.item? 0 0).map (fun it => (it.readV 4, it.pc)))
        | _ => ([], none)
      | _ => ([], none)) = ([24, 0, 0, 0], some (0, 0x1008)) := by decide +kernel

/-- 12 R271, R272: a store and then a load of two of its bytes. -/
theorem test_store_load :
    (match exec (.st (plainLoad 63 6 0)) (bench 2 (memGroup 0)) with
      | .next t => match exec (.memoryAccessServed 5) t with
        | .next u => (u.memory.read 0 0 5, (u.item? 0 0).map (fun it => it.pc))
        | _ => ([], none)
      | _ => ([], none)) = ([189, 0, 0, 0, 0], some 0x1008) := by decide +kernel

/-- 12 R269, 19 R412: a load at an odd address traps MISALIGN with the address. -/
theorem test_load_misaligned :
    (ranAs 2 (memGroup 2) (.ld (plainLoad 4 6 0))).map (fun it => (it.trapCause, it.trapAddr, it.pc)) = some (0x80000204, 2, 0x2800) := by
  decide +kernel

/-- The machine with a landing group, in which the scratchpad is out of reach. -/
def landed : Group :=
  { padGroup 0 true with
    place := .landing 0 0 1 }

/-- The small machine whose context grants nothing. -/
def ungranted : State :=
  { bench 2 (memGroup 0) with
    contexts := [(1, { benchContext with regions := [{ base := 0, size := 512, rights := 0xC }] })] }

theorem alone_ungranted (i : Instr) (hp : (ungranted.envOf (memGroup 0) 0 (memItem 0)).gate (shapeOf i) (admitted i) = .go ∧
    (shapeOf i).poisoned (ungranted.envOf (memGroup 0) 0 (memItem 0)).it (memGroup 0).badS = none) :
    Alone ungranted (memGroup 0) i 0 (memItem 0) := ⟨⟨rfl, rfl, rfl, by unfold Group.Clear; decide⟩, rfl, rfl, hp.1, hp.2⟩

/-- For AccessTraps: an odd offset, the first word beyond the allocation, any offset of a landing group, and an address that is not granted. -/
theorem witness_AccessTraps :
    (((bench 2 (padGroup 2 true)).envOf (padGroup 2 true) 0 (padItem 2)).effective (plainLoad 4 6 2) = 2) ∧
    Alone (bench 2 (padGroup 2 true)) (padGroup 2 true) (.ld (plainLoad 4 6 2)) 0 (padItem 2) ∧
    (((bench 2 (padGroup 4096 true)).envOf (padGroup 4096 true) 0 (padItem 4096)).effective (plainLoad 4 6 2) = 4096) ∧
    Alone (bench 2 (padGroup 4096 true)) (padGroup 4096 true) (.st (plainLoad 4 6 2)) 0 (padItem 4096) ∧
    landed.isLanding = true ∧ Alone (bench 2 landed) landed (.ld (plainLoad 4 6 2)) 0 (padItem 0) ∧
    (bench 2 landed).handlerOf landed.kh = some 0x2800 ∧
    Alone ungranted (memGroup 0) (.ld (plainLoad 4 6 0)) 0 (memItem 0) ∧ Alone ungranted (memGroup 0) (.st (plainLoad 4 6 0)) 0 (memItem 0) ∧
    (ungranted.tlb? 0 1 0).isSome = true ∧ canonicalVa 0 = true ∧
    (∀ r ∈ (ungranted.context 1).regions, r.grants 0 4 false false = false ∧ r.grants 0 4 false true = false) :=
  ⟨by decide +kernel, alone_pad _ _ _ _ (by decide +kernel), by decide +kernel, alone_pad _ _ _ _ (by decide +kernel), rfl,
    alone_bench 2 _ _ (padItem 0) rfl rfl rfl ⟨rfl, rfl⟩ (by decide +kernel), rfl, alone_ungranted _ (by decide +kernel),
    alone_ungranted _ (by decide +kernel), rfl, by decide, by decide +kernel⟩

/-- For PrefetchDoesNothing: an address that is not even canonical. -/
theorem witness_PrefetchDoesNothing :
    Plain (bench 2 duo) duo ∧ Admits (bench 2 duo) duo (.pf { formOf 0 62 8 0 with level := .llc, scale := 3, idx := true, off := 0x200 }) :=
  ⟨plain_duo 2, by unfold Admits Env.Passes; decide +kernel⟩

/-- For ReadAfterWrite: an address in the written bytes, one of another line, one of the same line. -/
theorem witness_ReadAfterWrite :
    (100 ≤ 103 ∧ 103 < 100 + ([1, 2, 3, 4] : List W8).length) ∧ (∀ j < ([1, 2, 3, 4] : List W8).length, lineOf (100 + j) ≠ lineOf 128) ∧
    (104 < 100 ∨ 100 + ([1, 2, 3, 4] : List W8).length ≤ 104) ∧ Memory.zero.tag (lineOf 104) = 0 := by decide +kernel

/-- For Fences. -/
theorem witness_Fences :
    (memItem 0).storesOut = [] ∧
    ∀ p ∈ fences { formOf 0 0 0 0 with scope := .sys }, Alone (bench 2 (memGroup 0)) (memGroup 0) p.1 0 (memItem 0) := by
  refine ⟨rfl, ?_⟩
  intro p hp
  refine alone_mem _ _ _ ?_
  revert p; decide +kernel

/-! ### Barriers and waits -/

/-- An item that has arrived at barrier 15, and one that has dropped out of it. -/
def atBarrier : Item := { benchItem with arr := 0x8000 }
def dropped : Item := { benchItem with drop := 0x8000 }
def at15 : BarForm := { formOf 0 0 0 0 with bar := 15 }

/-- 14 R301, R302, R305: the arrival of the only item closes the phase at once. -/
theorem test_bar_sync_alone :
    (match exec (.barSync { formOf 0 0 0 0 with bar := 2 }) (bench 2 solo) with
      | .next t => (t.group? 0).map (fun g => ((g.barrier 2).closed, (g.barrier 2).arrived, (t.item? 0 0).map (fun it => (it.pc, it.wait))))
      | _ => none) = some (1, 0, some (0x1008, .none)) := by decide +kernel
/-- 14 R307: an arrival after a drop traps BARRIER with KIND 1. -/
theorem test_bar_after_drop :
    (ranAs 2 (benchGroup [(0, dropped)]) (.barArrive at15)).map (fun it => (it.trapCause, it.trapInfo)) = some (0x80000211, 0xF01) := by decide +kernel

/-- For BarrierForms and BarrierPhases: barriers 0 and 15; an item Waiting, one that has arrived, one that has dropped. -/
theorem witness_BarrierForms :
    benchItem.Waits 0 ∧ benchItem.Waits 15 ∧ benchItem.sync.getLsbD 15 = false ∧ atBarrier.HasArrived 15 ∧ ¬ benchItem.HasArrived 15 ∧
    Alone (bench 2 solo) solo (.barArrive at15) 0 benchItem ∧ Alone (bench 2 solo) solo (.barSync at15) 0 benchItem ∧
    Alone (bench 2 solo) solo (.barWait at15) 0 benchItem ∧ Alone (bench 2 solo) solo (.barDrop at15) 0 benchItem ∧
    Alone (bench 2 (benchGroup [(0, atBarrier)])) (benchGroup [(0, atBarrier)]) (.barWait at15) 0 atBarrier ∧
    Admits (bench 2 duo) duo (.barTest { formOf 6 0 0 0 with bar := 0 }) ∧ benchItem.arrived = false ∧ Table.sorted solo.items = true ∧
    (∀ p ∈ solo.items, p.1 ≠ 0 → ¬ p.2.Waits 15 ∧ p.2.blockedAt 15 = false) ∧ benchItem.got = none ∧ benchItem.supply = none ∧
    ((bench 2 solo).hind solo.ctx).mode = .off := by
  refine ⟨?_, ?_, ?_, ?_, ?_, alone_solo 2 _ ?_, alone_solo 2 _ ?_, alone_solo 2 _ ?_, alone_solo 2 _ ?_,
    alone_bench 2 _ _ atBarrier rfl rfl rfl (by decide) ?_, ?_, ?_, ?_, ?_, rfl, rfl, rfl⟩
  all_goals (try unfold Admits Env.Passes)
  all_goals (try unfold Item.Waits)
  all_goals (try unfold Item.HasArrived)
  all_goals decide +kernel

/-- For BarrierPhases, its second clause. -/
theorem witness_BarrierPhases :
    dropped.HasDropped 15 ∧ dropped.sync.getLsbD 15 = false ∧ (bench 2 (benchGroup [(0, dropped)])).handlerOf 0 = some 0x2800 ∧
    dropped.inHandler = false ∧ dropped.windows = [] ∧ dropped.got = none ∧
    ∀ i ∈ ([.barArrive at15, .barSync at15] : List Instr), Alone (bench 2 (benchGroup [(0, dropped)])) (benchGroup [(0, dropped)]) i 0 dropped := by
  refine ⟨by unfold Item.HasDropped; decide, by decide, rfl, by decide, rfl, rfl, ?_⟩
  intro i hi
  refine alone_bench 2 _ i dropped rfl rfl rfl (by decide) ?_
  revert i; decide +kernel

/-- An item whose reduction has been delivered. -/
def reducedItem : Item :=
  { benchItem with
    sync := 1
    got := some (7, 0x10) }
def redForm (w : Bool) : BarRedForm := { formOf 4 6 0 0 with bar := 0, kind := .int w .add false }

/-- For BarrierReductions: a supply of 32 and of 64 bits, and a delivery. -/
theorem witness_BarrierReductions :
    Alone (bench 2 solo) solo (.barRed (redForm false)) 0 benchItem ∧ Alone (bench 2 solo) solo (.barRed (redForm true)) 0 benchItem ∧
    benchItem.Waits 0 ∧ benchItem.sync.getLsbD 0 = false ∧ (solo.barrier 0).kind = none ∧
    Alone (bench 2 (benchGroup [(0, reducedItem)])) (benchGroup [(0, reducedItem)]) (.barRed (redForm true)) 0 reducedItem ∧
    reducedItem.sync.getLsbD 0 = true ∧ reducedItem.got = some (7, 0x10) ∧ field reducedItem.fpctl 13 8 = 0 := by
  refine ⟨alone_solo 2 _ ?_, alone_solo 2 _ ?_, ?_, ?_, ?_, alone_bench 2 _ _ reducedItem rfl rfl rfl (by decide) ?_, ?_, ?_, ?_⟩
  all_goals (try unfold Item.Waits)
  all_goals decide +kernel

/-- A group with an arrival barrier at offset 4080: EXPECT 8, COUNT 0, PHASE 5; the item's v6 is 4080, v4 is 5. -/
def arrivalItem : Item := (benchItem.writeV 6 4080).writeV 4 5
def arrivalGroup : Group :=
  { benchGroup [(0, arrivalItem)] with
    scratch := [(4080, 8), (4088, 5)] }

theorem alone_arrival (i : Instr)
    (hp : ((bench 2 arrivalGroup).envOf arrivalGroup 0 arrivalItem).gate (shapeOf i) (admitted i) = .go ∧
      (shapeOf i).poisoned ((bench 2 arrivalGroup).envOf arrivalGroup 0 arrivalItem).it arrivalGroup.badS = none) :
    Alone (bench 2 arrivalGroup) arrivalGroup i 0 arrivalItem :=
  alone_bench 2 _ i arrivalItem rfl rfl rfl ⟨rfl, rfl⟩ hp

/-- 14 R313: 24 bytes reach an EXPECT of 8 three times. -/
theorem test_abar_arrive :
    (match exec (.abarArrive (formOf 0 6 8 0)) (bench 2 arrivalGroup) with
      | .next t => (t.group? 0).map (fun g => (g.word 4080, g.word 4084, g.word 4088))
      | _ => none) = some (8, 0, 8) := by decide +kernel

/-- For ArrivalBarriers: the last sixteen bytes of the allocation; the phase given and another. -/
theorem witness_ArrivalBarriers :
    SpadReady (bench 2 arrivalGroup) arrivalGroup ((arrivalItem.readV 6).zeroExtend 64) 16 ∧
    Alone (bench 2 arrivalGroup) arrivalGroup (.abarInit (formOf 0 6 8 0)) 0 arrivalItem ∧ arrivalItem.readV 8 ≠ 0 ∧
    Alone (bench 2 arrivalGroup) arrivalGroup (.abarArrive (formOf 0 6 8 0)) 0 arrivalItem ∧ arrivalGroup.word 4080 ≠ 0 ∧
    arrivalGroup.word 4092 = 0 ∧ Alone (bench 2 arrivalGroup) arrivalGroup (.abarWait (formOf 0 6 4 0)) 0 arrivalItem ∧
    arrivalGroup.word 4088 = (arrivalItem.readV 4).toNat ∧
    Alone (bench 2 arrivalGroup) arrivalGroup (.abarWait (formOf 0 6 8 0)) 0 arrivalItem ∧ arrivalGroup.word 4088 ≠ (arrivalItem.readV 8).toNat :=
  ⟨⟨rfl, by decide +kernel, by decide +kernel, by decide +kernel, rfl⟩, alone_arrival _ (by decide +kernel), by decide +kernel,
    alone_arrival _ (by decide +kernel), by decide +kernel, by decide +kernel, alone_arrival _ (by decide +kernel), by decide +kernel,
    alone_arrival _ (by decide +kernel), by decide +kernel⟩

/-- An item that waits for the word at 0 in the monitor table, and one that polls with a time-out. -/
def sleeper : Item := { benchItem with wait := .monitor 0 true }
def poller : Item := { benchItem with wait := .poll 0 true }
def monitorOf (slot : Nat) : Monitor := { pa := 0, key := 0, gid := 0, slot := slot, seq := slot }
/-- The item of slot 0 at a wake, that of slot 1 asleep on its word and in the table. -/
def wakeGroup : Group := benchGroup [(0, memItem 0), (1, sleeper)]
def wakeState : State :=
  { bench 2 wakeGroup with
    wave := { gid := 0, pc := 0x1000, slots := [0], ilen := 2 }
    monitors := [(3, monitorOf 1)] }

theorem alone_wake (i : Instr) (hp : (wakeState.envOf wakeGroup 0 (memItem 0)).gate (shapeOf i) (admitted i) = .go ∧
    (shapeOf i).poisoned (wakeState.envOf wakeGroup 0 (memItem 0)).it wakeGroup.badS = none) :
    Alone wakeState wakeGroup i 0 (memItem 0) := ⟨⟨rfl, rfl, rfl, by unfold Group.Clear; decide⟩, rfl, rfl, hp.1, hp.2⟩

theorem reach_wake : Reachable wakeState wakeGroup ((memItem 0).readV2 6) 4 0 (homeSlice 0) false := by
  refine ⟨by decide +kernel, by decide +kernel, ⟨{ unit := 0, ctx := 1, base := 0, logSize := 21, addr := 0, r := true, w := true, x := true }, rfl, rfl, rfl⟩,
    by decide +kernel, by decide +kernel, fun c h => ?_, rfl, by decide +kernel, by decide +kernel, by decide +kernel, rfl, by decide +kernel,
    rfl, rfl⟩
  rcases c with _ | _ | _ | _ | c
  case succ.succ.succ.succ => omega
  all_goals rfl

/-- For WaitvAndWakes: a word that differs from B and one that equals it; a wake with one waiter; items asleep and polling. -/
theorem witness_WaitvAndWakes :
    Alone (bench 2 (memGroup 0)) (memGroup 0) (.waitv { formOf 0 6 8 0 with ord := .sc, scope := .sys, texp := 30 }) 0 (memItem 0) ∧
    Alone (bench 2 (memGroup 0)) (memGroup 0) (.waitv { formOf 0 6 7 0 with ord := .relaxed, scope := .dev, texp := 0 }) 0 (memItem 0) ∧
    (memItem 0).storesOut = [] ∧ (memItem 0).got = none ∧
    Reachable (bench 2 (memGroup 0)) (memGroup 0) ((memItem 0).readV2 6) 4 0 (homeSlice 0) false ∧
    leNat ((bench 2 (memGroup 0)).memory.read 0 0 4) = ((memItem 0).readV 7).toNat ∧ ((memItem 0).readV 8).toNat ≠ 0 ∧
    (bench 2 (memGroup 0)).monitors.length < 2048 ∧
    Alone wakeState wakeGroup (.wakeall { formOf 0 6 0 0 with scope := .dev }) 0 (memItem 0) ∧
    Alone wakeState wakeGroup (.wake1 { formOf 0 6 0 0 with scope := .dev }) 0 (memItem 0) ∧
    Reachable wakeState wakeGroup ((memItem 0).readV2 6) 4 0 (homeSlice 0) false ∧
    (∀ p ∈ wakeState.monitors, p.2.gid = 0 → p.2.slot ≠ 0) ∧ (∀ p ∈ wakeState.monitors, ∀ q ∈ wakeState.monitors, p = q) ∧
    wakeState.item? 0 1 = some sleeper ∧ sleeper.wait = .monitor 0 true ∧ poller.wait = .poll 0 true ∧ benchItem.wait = .none := by
  refine ⟨alone_mem 2 0 _ ?_, alone_mem 2 0 _ ?_, rfl, rfl, ?_, ?_, ?_, ?_, alone_wake _ ?_, alone_wake _ ?_, reach_wake, ?_, ?_, rfl, rfl, rfl, rfl⟩
  case refine_3 => exact reach_mem 0 4 _ false (.inl rfl) (.inl rfl) (.inr rfl)
  case refine_10 => intro p hp q hq; simp [wakeState] at hp hq; rw [hp, hq]
  all_goals decide +kernel

/-- An item with one copy outstanding. -/
def copying : Item := { benchItem with copyCount := 1 }

/-- For WaitForCounters: a threshold reached and one not reached. -/
theorem witness_WaitForCounters :
    Alone (bench 2 (benchGroup [(0, copying)])) (benchGroup [(0, copying)]) (.waitc { formOf 0 0 0 0 with cls := .copy, thresh := 1 }) 0 copying ∧
    Alone (bench 2 (benchGroup [(0, copying)])) (benchGroup [(0, copying)]) (.waitc { formOf 0 0 0 0 with cls := .copy, thresh := 0 }) 0 copying ∧
    (benchGroup [(0, copying)]).deferred? 0 = none ∧ copying.copyCount.toNat = 1 :=
  ⟨alone_bench 2 _ _ copying rfl rfl rfl (by decide) (by decide +kernel), alone_bench 2 _ _ copying rfl rfl rfl (by decide) (by decide +kernel),
    by rfl, by decide⟩

/-! ### Control registers -/

/-- v4 to v7 hold the greatest values that FPCTL, FPSTAT, ISTAT and ICTL take; v8 is 12, v9 20. -/
def csrItem : Item := ((itemOf 0x3F0F 0x1F 7 3).writeV 8 12).writeV 9 20
def csrGroup : Group := benchGroup [(0, csrItem)]
/-- The same in a system context. -/
def systemBench (g : Group) : State :=
  { bench 2 g with
    contexts := [(1, { benchContext with system := true })] }
def csrOn (n : BitVec 12) (d a : BitVec 7) : CsrForm := { formOf d a 0 0 with num := n }

theorem alone_csr (i : Instr) (hp : ((systemBench csrGroup).envOf csrGroup 0 csrItem).gate (shapeOf i) (admitted i) = .go ∧
    (shapeOf i).poisoned ((systemBench csrGroup).envOf csrGroup 0 csrItem).it csrGroup.badS = none) :
    Alone (systemBench csrGroup) csrGroup i 0 csrItem := ⟨⟨rfl, rfl, rfl, by unfold Group.Clear; decide⟩, rfl, rfl, hp.1, hp.2⟩

/-- 03 R74, 10 R198: csrw of FPCTL writes all its bits; of FPSTAT it clears those given. -/
theorem test_csrw :
    (ranAs 2 csrGroup (.csrw (csrOn 0x100 0 4))).map (fun it => it.fpctl) = some 0x3F0F ∧
    (ranAs 2 (benchGroup [(0, { csrItem with fpstat := 0x1F })]) (.csrw (csrOn 0x101 0 9))).map (fun it => it.fpstat) = some 0xB := by decide +kernel
/-- 03 R73: a user context's access to 0x300 traps PRIV. -/
theorem test_csr_privileged :
    (ranAs 2 csrGroup (.csrr (csrOn 0x300 4 0))).map (fun it => (it.trapCause, it.trapInfo)) = some (0x80000202, 0x1300) := by decide +kernel

/-- For ControlRegisters: a word and a pair read, MSTAT, every register written at the ends of its values, and a user context. -/
theorem witness_ControlRegisters :
    CsrReady (systemBench csrGroup) csrGroup csrItem 0x303 ∧
    (∀ i ∈ ([.csrr (csrOn 0x000 126 0), .csrr (csrOn 0x104 126 0), .csrr (csrOn 0x111 126 0), .csrr (csrOn 0x303 126 0)] : List Instr),
      Alone (systemBench csrGroup) csrGroup i 0 csrItem) ∧
    csrItem.fits 126 true ∧ csrItem.fits 126 false ∧ csrItem.wait = .none ∧ (∀ p ∈ csrGroup.tiles, p.2.ops = []) ∧
    (∀ i ∈ ([.csrw (csrOn 0x100 0 4), .csrw (csrOn 0x101 0 5), .csrw (csrOn 0x102 0 6), .csrw (csrOn 0x103 0 7), .csrw (csrOn 0x104 0 5),
      .csrw (csrOn 0x303 0 8), .csrw (csrOn 0x303 0 9)] : List Instr), Alone (systemBench csrGroup) csrGroup i 0 csrItem) ∧
    csrItem.readV 4 &&& 0xFFFFC0F0 = 0 ∧ csrItem.readV 5 &&& 0xFFFFFFE0 = 0 ∧ csrItem.readV 6 &&& 0xFFFFFFF8 = 0 ∧
    csrItem.readV 7 &&& 0xFFFFFFFC = 0 ∧ (csrItem.readV 8).toNat = 12 ∧ (csrItem.readV 9).toNat = 20 ∧
    (∀ i ∈ ([.csrs (csrOn 0x100 10 4), .csrs (csrOn 0x103 10 7), .csrc (csrOn 0x100 10 4), .csrc (csrOn 0x103 10 7)] : List Instr),
      Alone (systemBench csrGroup) csrGroup i 0 csrItem) ∧
    ((bench 2 csrGroup).context 1).system = false ∧
    (∀ i ∈ ([.csrr (csrOn 0x3FF 4 0), .csrw (csrOn 0x300 0 4), .csrs (csrOn 0x301 5 4), .csrc (csrOn 0x302 5 4)] : List Instr),
      Alone (bench 2 csrGroup) csrGroup i 0 csrItem) := by
  refine ⟨⟨rfl, ⟨rfl, rfl⟩, fun _ => rfl⟩, fun i hi => alone_csr _ ?_, ?_, ?_, rfl, ?_, fun i hi => alone_csr _ ?_, ?_, ?_, ?_, ?_, ?_, ?_,
    fun i hi => alone_csr _ ?_, rfl, fun i hi => alone_bench 2 _ i csrItem rfl rfl rfl ⟨rfl, rfl⟩ ?_⟩
  case refine_1 => revert i; decide +kernel
  case refine_5 => revert i; decide +kernel
  case refine_12 => revert i; decide +kernel
  case refine_13 => revert i; decide +kernel
  all_goals (try unfold Item.fits)
  all_goals decide +kernel

/-! ### Tiles and matrix operations -/

/-- One item in slot 0, with a true guard, that passes a form's checks. -/
theorem alone_at (s : State) (g : Group) (i : Instr) (it : Item) (h : s.group? s.wave.gid = some g) (hd : s.duplex g = false)
    (hu : g.guarded = none) (hi : g.items = [(0, it)]) (hc : it.fatal = none ∧ it.consumed = none) (hw : s.wave.slots = [0])
    (hp : (s.envOf g 0 it).gate (shapeOf i) (admitted i) = .go ∧ (shapeOf i).poisoned (s.envOf g 0 it).it g.badS = none) :
    Alone s g i 0 it := by
  refine ⟨⟨h, hd, hu, ?_⟩, hw, ?_, hp.1, hp.2⟩
  · unfold Group.Clear; rw [hi]; simpa using hc
  · simp [hi, Table.get?]

/-- An Idle tile with the element (127, 63) at 1 and the checksum pair (2, 3) of row 127. -/
def idleTile (int32 : Bool) : Tile :=
  { phys := 0, int32 := int32, elems := [(8191, 1)], weights := none, csum := [(127, (2, 3))], nsteps := 5, ops := [], failed := none
    stalled := none, badElems := [], badRows := [], badWeights := false }

/-- v4:v5 hold a control word of one K-step, v6:v7 0, v8 256, v9 256, v10 127, v11 3967. -/
def tileItem : Item := ((((itemOf 1 0 0 0).writeV 8 256).writeV 9 256).writeV 10 127).writeV 11 3967
def tileGroup (t : Tile) : Group :=
  { benchGroup [(0, tileItem)] with
    scratchBytes := 65536
    tiles := [(0, t)]
    scratch := [(0, 1), (16, 1)] }

theorem alone_tile (t : Tile) (i : Instr)
    (hp : ((bench 2 (tileGroup t)).envOf (tileGroup t) 0 tileItem).gate (shapeOf i) (admitted i) = .go ∧
      (shapeOf i).poisoned ((bench 2 (tileGroup t)).envOf (tileGroup t) 0 tileItem).it (tileGroup t).badS = none) :
    Alone (bench 2 (tileGroup t)) (tileGroup t) i 0 tileItem :=
  alone_at _ _ i tileItem rfl rfl rfl rfl ⟨rfl, rfl⟩ rfl hp

/-- 11 R230: the lowest-numbered free physical tile; here tile 0 is held. -/
theorem test_macq :
    (match exec (.macq { formOf 1 0 0 0 with int32 := true }) (bench 2 (tileGroup (idleTile false))) with
      | .next t => ((t.group? 0).bind (fun g => Table.get? g.tiles 1)).map (fun t => (t.phys, t.int32, t.elems))
      | _ => none) = some (1, true, []) := by decide +kernel
/-- 11 R237: elements (127, 60) to (127, 63) of row 127, and the condition of an INT32 tile after five steps. -/
theorem test_tile_reads :
    (ranAs 2 (tileGroup (idleTile true)) (.mdrain (formOf 12 0 11 0))).map (fun it => [it.readV 12, it.readV 13, it.readV 14, it.readV 15]) =
      some [0, 0, 0, 1] ∧
    (ranAs 2 (tileGroup (idleTile true)) (.mmeta (formOf 12 0 0 0))).map (fun it => it.readV 12) = some 0x10005 ∧
    (ranAs 2 (tileGroup (idleTile true)) (.mcsum (formOf 12 0 10 0))).map (fun it => (it.readV 12, it.readV 13)) = some (2, 3) := by decide +kernel

/-- 19 R423: a v register word in error is met by a form that reads it, with ORIGIN 1 and its number, and by no form that only writes it; 12 R276:
so is a scratchpad word. -/
theorem test_upset :
    (((bench 1 duo).upset (.register 0 0 (.v 3))).item? 0 0).map (fun it =>
      (((shapeOf (.iadd (formOf 12 3 4 0))).poisoned it []).map Trap.info, ((shapeOf (.iadd (formOf 3 12 4 0))).poisoned it []).map Trap.info)) =
      some (some 0x403, none) := by decide +kernel
theorem test_upset_spad :
    (((bench 1 duo).upset (.spad 0 5)).group? 0).map (fun g => (g.spadPoisoned 20 4, g.spadPoisoned 16 4, g.spadPoisoned 24 4)) =
      some (true, false, false) := by decide +kernel

/-- A core all of whose tiles another group holds. -/
def crowded : State :=
  { bench 2 duo with
    groups := [(0, duo), (1, { benchGroup [] with tiles := (List.range 8).map (fun k => (k, { idleTile false with phys := k })) })] }

/-- For TileForms: a free tile and none, an Idle tile, and the last row and column group. -/
theorem witness_TileForms :
    Plain crowded duo ∧ Admits crowded duo (.macq { formOf 0 0 0 0 with int32 := false }) ∧
    SomeGuard crowded duo (.macq { formOf 0 0 0 0 with int32 := false }) ∧ duo.isLanding = false ∧ Table.get? duo.tiles 0 = none ∧
    crowded.freeTile 0 = none ∧ (bench 2 duo).freeTile 0 = some 0 ∧ Holds (tileGroup (idleTile true)) 0 (idleTile true) ∧ (idleTile true).ops = [] ∧
    Admits (bench 2 (tileGroup (idleTile true))) (tileGroup (idleTile true)) (.mrel (formOf 0 0 0 0)) ∧
    Admits (bench 2 (tileGroup (idleTile true))) (tileGroup (idleTile true)) (.mzero (formOf 0 0 0 0)) ∧
    SomeGuard (bench 2 (tileGroup (idleTile true))) (tileGroup (idleTile true)) (.mrel (formOf 0 0 0 0)) ∧
    (∀ i ∈ ([.mdrain (formOf 12 0 11 0), .mmeta (formOf 12 0 0 0), .mcsum (formOf 12 0 10 0)] : List Instr),
      Alone (bench 2 (tileGroup (idleTile true))) (tileGroup (idleTile true)) i 0 tileItem) ∧
    tileItem.readV 11 = BitVec.ofNat 32 (256 * 15 + 127) ∧ (tileItem.readV 10).toNat < 128 := by
  refine ⟨⟨rfl, rfl, rfl, by unfold Group.Clear; decide⟩, ?_, ⟨0, by decide, benchItem, rfl, by decide +kernel⟩, rfl, rfl, by decide +kernel,
    by decide +kernel, ⟨rfl, rfl, rfl⟩, rfl, ?_, ?_, ⟨0, by decide, tileItem, rfl, by decide +kernel⟩, fun i hi => alone_tile _ i ?_, by decide +kernel,
    by decide +kernel⟩
  case refine_4 => revert i; decide +kernel
  all_goals (unfold Admits Env.Passes)
  all_goals decide +kernel

/-- For TileRows: all eight row blocks, and the last one. -/
theorem witness_TileRows :
    ((bench 2 (tileGroup (idleTile true))).hind 1).mode = .off ∧ (idleTile true).Tidy ∧
    Alone (bench 2 (tileGroup (idleTile true))) (tileGroup (idleTile true)) (.mfill { formOf 0 6 8 0 with rb0 := 0, nrb1 := 7 }) 0 tileItem ∧
    Alone (bench 2 (tileGroup (idleTile true))) (tileGroup (idleTile true)) (.madd { formOf 0 6 8 0 with rb0 := 7, nrb1 := 0 }) 0 tileItem ∧
    Alone (bench 2 (tileGroup (idleTile true))) (tileGroup (idleTile true)) (.mscale (formOf 0 4 0 0)) 0 tileItem ∧
    Alone (bench 2 (tileGroup (idleTile true))) (tileGroup (idleTile true)) (.mdrains { formOf 0 0 8 0 with ofmt := 0, rb0 := 0, nrb1 := 7 }) 0
      tileItem ∧
    RowsFit (tileGroup (idleTile true)) (tileItem.readV 6).toNat (tileItem.readV 8).toNat 128 256 ∧
    RowsFit (tileGroup (idleTile true)) (tileItem.readV 8).toNat (tileItem.readV 9).toNat 128 256 ∧
    (∀ y, (tileGroup (idleTile true)).NoWaiter y) := by
  refine ⟨rfl, ⟨by decide +kernel, by decide +kernel, rfl, rfl⟩, alone_tile _ _ ?_, alone_tile _ _ ?_, alone_tile _ _ ?_, alone_tile _ _ ?_,
    ⟨by decide +kernel, by decide +kernel, rfl⟩, ⟨by decide +kernel, ?_, rfl⟩, ?_⟩
  case refine_6 =>
    intro y
    unfold Group.NoWaiter
    intro p hp
    simp [tileGroup, benchGroup] at hp
    subst hp
    trivial
  all_goals decide +kernel

/-- An Idle tile with INT8 weights latched, all 1. -/
def latched : Tile := { idleTile true with weights := some (List.replicate 4096 1, 3, false) }
/-- The same with an mstep at the head of its queue: INT8 activations, one row. -/
def stepOp : MatrixOp :=
  { kind := 2, window := 0, issuers := [0], layout0 := 0, layout1 := 0, layout2 := 0x30000, ctl0 := 0, ctl1 := 0, done := 0, addr := 0, issue := 0
    table := [] }
def stepping : Tile := { latched with ops := [stepOp] }
def stepLayout (g : Group) : Group := { g with s := (Vector.replicate 64 0).set 18 0x30000 }

/-- The group whose tile has INT8 weights latched and whose s16 to s18 hold a layout of INT8. -/
def latchedGroup : Group := stepLayout (tileGroup latched)

/-- For MatrixOperations: a loop of one step, a table of one entry, a latch of sparse INT8 weights, a step, and its one K-step. -/
theorem witness_MatrixOperations :
    Queues (tileGroup (idleTile false)) 0 (idleTile false) tileItem ∧
    (let l := layoutAt (tileGroup (idleTile false)) 16
     l.ok = true ∧ 0 < ksteps (tileItem.readV 4) ∧ field (tileItem.readV 5) 31 29 = 0 ∧ ctlWfmt (tileItem.readV 5) ≤ 5 ∧
      (∃ order, stepOrder (ctlWfmt (tileItem.readV 5)) l.afmt (ctlSp (tileItem.readV 5)) = some (order, (idleTile false).int32)) ∧
      Inside (tileGroup (idleTile false)) l (l.nr + 1) (segmentChunks l.afmt (ctlSp (tileItem.readV 5))) (ainc (tileItem.readV 4))
        (ksteps (tileItem.readV 4))) ∧
    Alone (bench 2 (tileGroup (idleTile false))) (tileGroup (idleTile false)) (.mloop (formOf 0 16 6 4)) 0 tileItem ∧
    Alone (bench 2 (tileGroup (idleTile false))) (tileGroup (idleTile false)) (.mloopg (formOf 0 16 6 4)) 0 tileItem ∧
    (tileItem.readV2 6).toNat % 128 = 0 ∧ (tileGroup (idleTile false)).spadRead 0 16 = leBytes 16 1 ∧
    (tileGroup (idleTile false)).spadRead 16 16 = leBytes 8 1 ++ leBytes 8 0 ∧
    Alone (bench 2 (tileGroup (idleTile true))) (tileGroup (idleTile true)) (.mwlat { formOf 0 6 0 0 with wfmt := 3, sp := true }) 0 tileItem ∧
    Queues latchedGroup 0 latched tileItem ∧ Alone (bench 2 latchedGroup) latchedGroup (.mstep (formOf 0 16 0 0)) 0 tileItem ∧
    (layoutAt latchedGroup 16).ok = true ∧ stepOrder 3 (layoutAt latchedGroup 16).afmt false = some (.integer, true) ∧
    (bench 2 (tileGroup stepping)).group? 0 = some (tileGroup stepping) ∧ stepping.ops = [stepOp] ∧ (tileGroup stepping).opWaits 0 stepOp = false ∧
    stepping.weights.map (fun w => (w.1.length, w.2)) = some (4096, 3, false) ∧ stepping.Tidy := by
  refine ⟨⟨⟨rfl, rfl, rfl⟩, by decide, by decide, rfl⟩, ⟨by decide +kernel, by decide +kernel, by decide +kernel, by decide +kernel, ⟨_, rfl⟩, ?_⟩,
    alone_tile _ _ ?_, alone_tile _ _ ?_, ?_, ?_, ?_, alone_tile _ _ ?_, ⟨⟨rfl, rfl, rfl⟩, by decide, by decide, rfl⟩,
    alone_at _ _ _ tileItem rfl rfl rfl rfl ⟨rfl, rfl⟩ rfl ?_, ?_, ?_, rfl, rfl, ?_, ?_, ⟨by decide +kernel, by decide +kernel, rfl, rfl⟩⟩
  case refine_1 =>
    intro r c j hr hc hj
    have h1 : r = 0 := by revert hr; simp only [show (layoutAt (tileGroup (idleTile false)) 16).nr = 0 from by decide +kernel]; omega
    have h2 : j = 0 := by revert hj; simp only [show ksteps (tileItem.readV 4) = 1 from by decide +kernel]; omega
    have h3 : c < 4 := by
      revert hc
      rw [show segmentChunks (layoutAt (tileGroup (idleTile false)) 16).afmt (ctlSp (tileItem.readV 5)) = 4 from by decide +kernel]
      exact id
    subst h1 h2
    interval_cases c <;> decide +kernel
  all_goals decide +kernel

/-! ### Queue registers, channels, engines and collectives -/

/-- A kernel of two stages with one channel from stage 0 to stage 1: two slots of 16 bytes, its ring at 4064 of the receiver's scratchpad. -/
def pipeKernel : Kernel :=
  { benchKernel with
    desc := { benchKernel.desc with
      scratch := 4096
      stages := [(0x1000, 64), (0x1000, 64)]
      channels := [{ src := 0, dst := 1, slots := 2, slotBytes := 16 }] }
    next := [1, 0]
    limit := [64, 0] }

/-- Queue registers: q1 sends on the channel, q2 receives from it, q3, q4 and q5 are the copy, gather and collective engines. -/
def queueBinds : Vector Binding 16 :=
  ((((Vector.replicate 16 { kind := 0, index := 0 }).set 1 { kind := 4, index := 0 }).set 2 { kind := 5, index := 0 }).set 3
    { kind := 1, index := 0 }).set 4 { kind := 2, index := 0 } |>.set 5 { kind := 3, index := 0 }

/-- Zeros in v0 to v127 but 7 in v4; one completion record at each engine's register. -/
def queueItem : Item :=
  { wordItem.writeV 4 7 with
    ports := [(3, { seq := 8, records := [0x11] }), (4, { seq := 0, records := [0x12] }), (5, { seq := 0, records := [] })] }

def stagedWords (n state : Nat) : Staging := { words := List.replicate n 1, state := state, stamp := 0, away := 0 }
def ringWith (landed popped : Nat) : Ring := { landed := landed, popped := popped, stamp := 0, ended := false, far := false }

/-- A group of stage 0 whose staging slot holds `n` words, and whose ring, if it were of stage 1, `r`. -/
def queueGroup (st : Staging) (r : Ring) : Group :=
  { benchGroup [(0, queueItem)] with
    binds := queueBinds
    staging := [(1, st)]
    rings := [(0, r)] }

/-- A group of the receiving stage. -/
def receiver (r : Ring) : Group :=
  { benchGroup [] with
    stage := 1
    binds := queueBinds
    rings := [(0, r)] }

def queueBench (g r : Group) : State :=
  { bench 2 g with
    kernels := [(0, pipeKernel)]
    groups := [(0, g), (7, r)] }

/-- The small machine with a queue group of `n` words staged, in state `x`, `l` words landed in its ring. -/
def qg (n x l : Nat) : Group := queueGroup (stagedWords n x) (ringWith l 0)
def qs (n x l : Nat) : State := queueBench (qg n x l) (receiver (ringWith l 0))

theorem alone_queue (n x l : Nat) (i : Instr)
    (hp : ((qs n x l).envOf (qg n x l) 0 queueItem).gate (shapeOf i) (admitted i) = .go ∧
      (shapeOf i).poisoned ((qs n x l).envOf (qg n x l) 0 queueItem).it (qg n x l).badS = none) : Alone (qs n x l) (qg n x l) i 0 queueItem :=
  alone_at _ _ i queueItem rfl rfl rfl rfl ⟨rfl, rfl⟩ rfl hp

/-- 15 R336: the fourth word of a 16-byte slot makes it Waiting. -/
theorem test_qpush_fills :
    (match exec (.qpush (formOf 1 4 0 0)) (qs 3 0 0) with
      | .next t => (t.group? 0).map (fun g => ((g.slotOf 1).words, (g.slotOf 1).state))
      | _ => none) = some ([1, 1, 1, 7], 1) := by decide +kernel
/-- 15 R338: a queue register that is no send binding traps QUEUE with its kind and number. -/
theorem test_qpush_wrong_binding :
    (match exec (.qpush (formOf 3 4 0 0)) (qs 0 0 0) with
      | .next t => (t.item? 0 0).map (fun it => (it.trapCause, it.trapInfo))
      | _ => none) = some (0x80000215, 0x130) := by decide +kernel

/-- For Channels: an empty slot, one that lacks a word, a Waiting one, a Closed one; a ring with a word and an empty one; completion records;
a delivery into a free slot, and one that finds both slots taken. -/
theorem witness_Channels :
    Queued (qs 0 0 0) (qg 0 0 0) queueItem pipeKernel 1 { kind := 4, index := 0 } ∧
    Queued (qs 0 0 0) (qg 0 0 0) queueItem pipeKernel 3 { kind := 1, index := 0 } ∧
    Queued (qs 0 0 4) (qg 0 0 4) queueItem pipeKernel 2 { kind := 5, index := 0 } ∧ pipeKernel.desc.ringMode (pipeKernel.desc.channel 0) = false ∧
    (∀ i ∈ ([.qpush (formOf 1 4 0 0), .qtrypush (formOf 1 4 0 6), .chclose (formOf 1 0 0 0), .qpush (formOf 3 4 0 0)] : List Instr),
      Alone (qs 3 0 0) (qg 3 0 0) i 0 queueItem ∧ Alone (qs 4 1 0) (qg 4 1 0) i 0 queueItem ∧ Alone (qs 4 2 0) (qg 4 2 0) i 0 queueItem) ∧
    ((qg 3 0 0).slotOf 1).state = 0 ∧ ((qg 4 1 0).slotOf 1).state = 1 ∧ ((qg 4 2 0).slotOf 1).state = 2 ∧
    (qs 4 1 0).stageGroups 0 1 ≠ [] ∧
    (∀ i ∈ ([.qpop (formOf 4 2 0 0), .qtrypop (formOf 4 2 0 6), .chavail (formOf 4 2 0 0), .chavail (formOf 4 1 0 0), .qpop (formOf 4 3 0 0)] :
      List Instr), Alone (qs 0 0 4) (qg 0 0 4) i 0 queueItem ∧ Alone (qs 0 0 0) (qg 0 0 0) i 0 queueItem) ∧
    ((qg 0 0 4).ringOf 0).popped < ((qg 0 0 4).ringOf 0).landed ∧ ((qg 0 0 0).ringOf 0).landed ≤ ((qg 0 0 0).ringOf 0).popped ∧
    pipeKernel.next.getD 0 0 < pipeKernel.limit.getD 0 0 ∧ (Table.get? queueItem.ports 3).map QueuePort.records = some [0x11] ∧
    (qs 4 1 4).stageGroups 0 1 = [(7, receiver (ringWith 4 0))] ∧ (qs 4 1 8).stageGroups 0 1 = [(7, receiver (ringWith 8 0))] ∧
    (let ring := (receiver (ringWith 4 0)).ringOf 0; ring.landed / 4 - ring.popped / 4 < 2) ∧
    (let ring := (receiver (ringWith 8 0)).ringOf 0; 2 ≤ ring.landed / 4 - ring.popped / 4) := by
  refine ⟨⟨rfl, rfl, rfl, rfl⟩, ⟨rfl, rfl, rfl, rfl⟩, ⟨rfl, rfl, rfl, rfl⟩, by decide +kernel,
    fun i hi => ⟨alone_queue _ _ _ i ?_, alone_queue _ _ _ i ?_, alone_queue _ _ _ i ?_⟩, by decide +kernel, by decide +kernel, by decide +kernel,
    by decide +kernel, fun i hi => ⟨alone_queue _ _ _ i ?_, alone_queue _ _ _ i ?_⟩, by decide +kernel, by decide +kernel, by decide +kernel,
    by decide +kernel, by rfl, by rfl, by decide +kernel, by decide +kernel⟩
  all_goals (revert i; decide +kernel)

/-- For EngineCommands, its first clause: a copy and a gather of 16 bytes. -/
theorem witness_EngineCommands_issue :
    Queued (qs 0 0 0) (qg 0 0 0) queueItem pipeKernel 3 { kind := 1, index := 0 } ∧ (qs 0 0 0).engineLoad 0 0 < 256 ∧
    copyOk (wordsAt queueItem 8) pipeKernel.desc 0 = true ∧ (parseCopy (wordsAt queueItem 8)).kind = 0 ∧ (parseCopy (wordsAt queueItem 8)).dev = 0 ∧
    SpanFits (qg 0 0 0) [((parseCopy (wordsAt queueItem 8)).spad, (parseCopy (wordsAt queueItem 8)).bytes)] (parseCopy (wordsAt queueItem 8)).bar ∧
    Alone (qs 0 0 0) (qg 0 0 0) (.xfer (formOf 3 8 0 0)) 0 queueItem ∧
    Queued (qs 0 0 0) (qg 0 0 0) queueItem pipeKernel 4 { kind := 2, index := 0 } ∧ gatherOk (wordsAt queueItem 8) = true ∧
    (let c := parseGather (wordsAt queueItem 8); SpanFits (qg 0 0 0) [(c.dst, c.rowBytes * c.count), (c.idx, 4 * c.count)] c.bar) ∧
    Alone (qs 0 0 0) (qg 0 0 0) (.xgather (formOf 4 8 0 0)) 0 queueItem := by
  refine ⟨⟨rfl, rfl, rfl, rfl⟩, by decide +kernel, by decide +kernel, by decide +kernel, by decide +kernel, ?_, alone_queue _ _ _ _ ?_,
    ⟨rfl, rfl, rfl, rfl⟩, by decide +kernel, ?_, alone_queue _ _ _ _ ?_⟩
  all_goals (try unfold SpanFits)
  all_goals decide +kernel

/-- The command of a LOAD (or a STORE) of 16 bytes between address 0 and the last 16 bytes of the scratchpad. -/
def copyCommand (kind : Nat) : Command :=
  { kh := 0, ctx := 1, gid := 0, slot := 0, itemix := 0, q := 3, die := 0, engine := 0, gather := false, w0 := 0, w1 := 0, w2 := 0
    w3 := BitVec.ofNat 32 (0x40000000 * kind + 255), indices := [], seq := 1, order := 1, floor := 0, stamp := 0, left := [0], failed := []
    faulted := [], away := [], held := [] }
def copyState (kind : Nat) : State :=
  { bench 2 (benchGroup [(0, copying)]) with
    contexts := [(1, { benchContext with copyBud := 1 })]
    tlbs := [(0, { unit := 1024, ctx := 1, base := 0, logSize := 21, addr := 0, r := true, w := true, x := true })]
    commands := [(9, copyCommand kind)] }

theorem reach_copy (kind : Nat) (write : Bool) (h : kind = 0 ∨ kind = 1) : EngineReach (copyState kind) 0 1 0 16 0 write := by
  refine ⟨by decide, by decide, ⟨{ unit := 1024, ctx := 1, base := 0, logSize := 21, addr := 0, r := true, w := true, x := true }, rfl, ?_, rfl⟩, ?_, ?_,
    by rfl, by rfl, by rfl, rfl, (by rcases h with rfl | rfl <;> decide +kernel), ⟨fun src c h => ?_, fun e => by rfl⟩, rfl⟩
  · cases write <;> rfl
  · cases write <;> rfl
  · rfl
  · rcases c with _ | _ | _ | _ | c
    case succ.succ.succ.succ => omega
    all_goals rfl

/-- 15 R330: a LOAD of 16 zero bytes; the counter falls. -/
theorem test_engine_load :
    (match execEngineChunk 9 0 (copyState 0) with
      | .next u => (u.commands.length, (u.item? 0 0).map (fun it => it.copyCount))
      | _ => (9, none)) = (0, some 0) := by decide +kernel

/-- A recorder that has used 5 bytes of its budget. -/
def someRecorder : Recorder :=
  { entries := [], ret := Vector.replicate 8 0, localNo := 0, store := [], table := [], ordinals := [], used := 5, lost := false, cuts := [] }

/-- For EngineCommands: a LOAD and a STORE, and a recorder. -/
theorem witness_EngineCommands :
    (copyState 0).commands = [(9, copyCommand 0)] ∧ (copyState 0).group? 0 = some (benchGroup [(0, copying)]) ∧
    (copyState 0).kernel? 0 = some benchKernel ∧ Table.get? (benchGroup [(0, copying)]).items 0 = some copying ∧
    (let x := parseCopy (copyCommand 0).words
     x.mask = 0 ∧ x.dev = 0 ∧ x.full = false ∧ x.bar = 0 ∧ x.kind = 0 ∧ x.bytes = 16 ∧ x.ga = 0 ∧ x.spad = 4080) ∧
    (let x := parseCopy (copyCommand 1).words; x.mask = 0 ∧ x.dev = 0 ∧ x.full = false ∧ x.bar = 0 ∧ x.kind = 1 ∧ x.bytes = 16 ∧ x.ga = 0) ∧
    (∀ k, (copyCommand k).left = [0] ∧ (copyCommand k).failed = [] ∧ (copyCommand k).faulted = [] ∧ (copyCommand k).away = [] ∧
      (copyCommand k).held = []) ∧
    EngineReach (copyState 0) 0 1 0 16 0 false ∧ EngineReach (copyState 1) 0 1 0 16 0 true ∧
    (let s : State := { bench 2 solo with contexts := [(1, { benchContext with hind := { Hindcast.off with recorders := [(0, someRecorder)] } })] }
     Table.get? (s.hind 1).recorders 0 = some someRecorder) :=
  ⟨rfl, rfl, rfl, rfl, by decide +kernel, by decide +kernel, fun _ => ⟨rfl, rfl, rfl, rfl, rfl⟩, reach_copy 0 false (.inl rfl), reach_copy 1 true (.inr rfl), rfl⟩

/-- A collective of the kernel's one member: 16 bytes from 0 to 16, a sum by callred. -/
def collWords : List W32 := [0x00010000, 0, 0, 0]
def collMember : CollMember :=
  { gid := 0, slot := 0, itemix := 0, q := 5, sub := 1, words := collWords, seq := 1, order := 1, floor := 0, rank := 0, left := [0], failed := []
    flags := 0, held := [] }
def joinOf (joined : Bool) : Join :=
  { kh := 0, stage := 0, gangix := 0, n := 0, members := [(0, collMember)], remote := [], joined := joined
    shares := if joined then [(0, (List.replicate 16 1, []))] else [], pieces := [], outcome := 0, floor := 0, wide := false
    dropped := [] }
def collState (joined : Bool) : State :=
  { qs 0 0 0 with
    joins := [(9, joinOf joined)] }

/-- 15 R343, R344: one contribution summed is itself. -/
theorem test_collective_chunk :
    (match execCollectiveChunk 9 0 0 (collState true) with
      | .next u => (u.group? 0).map (fun g => g.spadRead 16 5)
      | _ => none) = some [1, 1, 1, 1, 1] := by decide +kernel

/-- For Collectives: a command by each form, a collective about to join, and one that has joined. -/
theorem witness_Collectives :
    Queued (qs 0 0 0) (qg 0 0 0) queueItem pipeKernel 5 { kind := 3, index := 0 } ∧ pipeKernel.desc.gangDevs = 1 ∧
    (∀ f ∈ collectives (formOf 5 8 0 0), Alone (qs 0 0 0) (qg 0 0 0) f.1 0 queueItem ∧ collOk f.2 (wordsAt queueItem 8) 1 = true ∧
      (let c := parseColl f.2 (wordsAt queueItem 8); SpanFits (qg 0 0 0) [(c.src, c.bytes), (c.dst, c.received 0 1)] c.bar)) ∧
    Table.get? (collState false).joins 9 = some (joinOf false) ∧ (collState false).kernel? 0 = some pipeKernel ∧ (joinOf false).agrees = true ∧
    (joinOf false).members.length = pipeKernel.desc.gangGroups ∧
    (∀ p ∈ (joinOf false).members, ∃ g, (collState false).group? p.2.gid = some g ∧ g.spadPoison = [] ∧ g.ctx = pipeKernel.ctx) ∧
    (joinOf true).joined = true ∧ (let c := parseColl 1 collWords; c.sub = 1 ∧ c.dtype = 0 ∧ c.op = 0 ∧ c.full = false ∧ c.bar = 0 ∧ c.bytes = 16) ∧
    (∀ cls < 4, (collState true).mayCharge (1024 + 16) 1 cls = true) ∧
    Table.get? (joinOf true).shares 0 = some (List.replicate 16 1, []) := by
  refine ⟨⟨rfl, rfl, rfl, rfl⟩, rfl, fun f hf => ⟨alone_queue _ _ _ _ ?_, ?_, ?_⟩, rfl, rfl, by decide +kernel, rfl, ?_, rfl, by decide +kernel,
    fun c h => ?_, rfl⟩
  case refine_4 => intro p hp; simp [joinOf] at hp; subst hp; exact ⟨_, rfl, rfl, rfl⟩
  case refine_5 =>
    rcases c with _ | _ | _ | _ | c
    case succ.succ.succ.succ => omega
    all_goals rfl
  case refine_3 => unfold SpanFits; revert f; decide +kernel
  all_goals (revert f; decide +kernel)

/-! ### Launch queues, seats and the ends of kernels -/

/-- 16 R355, R356: the walk of an address of the small machine ends in the 2 MiB leaf at level 1. -/
theorem test_walk :
    (bench 2 solo).probe 1 0x1FF008 = .leaf { addr := 0, logSize := 21, code := 4, r := true, w := true, x := true, level := 1 } ∧
    (bench 2 solo).probe 1 0x200000 = .fault 4 1 none ∧ (bench 2 solo).probe 1 0x0100000000000000 = .fault 1 0 none := by decide +kernel

/-- A queue of four records at 0x4000, or one at 0x8000 whose head record is the one there. -/
def benchQueue (device : Bool) (base : W64) (head tail : W64) : LaunchQueue :=
  { owner := 1, lq := 0, device := device, logLen := 2, state := .opened, lastErr := 0, qbase := base, head := head, tail := tail, refused := 0, dbErr := 0 }
def launchItem (x : W32) : Item := (memItem x).writeV 8 0
def launchGroup (x : W32) : Group := benchGroup [(0, launchItem x)]
def launchState (x : W32) (qs : Table LaunchQueue) : State := { bench 2 (launchGroup x) with queues := qs }

theorem alone_launch (x : W32) (qs : Table LaunchQueue)
    (hp : ((launchState x qs).envOf (launchGroup x) 0 (launchItem x)).gate (shapeOf (.launch (formOf 4 6 8 0))) (admitted (.launch (formOf 4 6 8 0))) = .go ∧
      (shapeOf (.launch (formOf 4 6 8 0))).poisoned ((launchState x qs).envOf (launchGroup x) 0 (launchItem x)).it (launchGroup x).badS = none) :
    Alone (launchState x qs) (launchGroup x) (.launch (formOf 4 6 8 0)) 0 (launchItem x) :=
  alone_at _ _ _ (launchItem x) rfl rfl rfl rfl ⟨rfl, rfl⟩ rfl hp

theorem charge_launch (x : W32) (qs : Table LaunchQueue) (src c : Nat) (h : c < 4) : (launchState x qs).mayCharge src 1 c = true := by
  rcases c with _ | _ | _ | _ | c
  case succ.succ.succ.succ => omega
  all_goals simp [State.mayCharge, State.boundless, State.context, launchState, bench, benchContext, wordContext, Table.read, Table.get?]

theorem reach_launch (x : W32) (qs : Table LaunchQueue) (a : Nat) (h : a = 0 ∨ a = 0x80 ∨ a = 0x8000 ∨ a = 0x8080) (hx : x = 0 ∨ x = 0x8000)
    (hq : qs = [] ∨ qs = [(3, benchQueue true 0x4000 0 0)]) :
    Reachable (launchState x qs) (launchGroup x) (BitVec.ofNat 64 a) 128 a (sliceFor (launchGroup x) a) false := by
  refine ⟨?_, ?_, ⟨{ unit := 0, ctx := 1, base := 0, logSize := 21, addr := 0, r := true, w := true, x := true }, ?_, rfl, ?_⟩, ?_, ?_,
    fun c => charge_launch x qs _ c, rfl, ?_, ?_, ?_, ?_, ?_, ?_, rfl⟩
  all_goals (rcases h with rfl | rfl | rfl | rfl <;> rcases hx with rfl | rfl <;> rcases hq with rfl | rfl)
  all_goals decide +kernel

theorem firm_bench (x : W32) (qs : Table LaunchQueue) (a : Nat) (h : a = 0x4000 ∨ a = 0x4080) (hx : x = 0 ∨ x = 0x8000)
    (hq : qs = [] ∨ qs = [(3, benchQueue true 0x4000 0 0)]) :
    FirmReach (launchState x qs) 1 (BitVec.ofNat 64 a) 128 a true := by
  refine ⟨?_, ⟨{ addr := 0, logSize := 21, code := 4, r := true, w := true, x := true, level := 1 }, ?_, ?_⟩, ?_, ?_, ?_, ?_, ?_, ?_, ?_⟩
  all_goals (rcases h with rfl | rfl <;> rcases hx with rfl | rfl <;> rcases hq with rfl | rfl)
  all_goals decide +kernel

/-- 05 R114: with no queue at LQ launch gives 1. -/
theorem test_launch_no_queue :
    (match exec (.launch (formOf 4 6 8 0)) (launchState 0x8000 []) with
      | .next u => (u.item? 0 0).map (fun it => (it.readV 4, it.pc))
      | _ => none) = some (1, 0x1008) := by decide +kernel
/-- 05 R114: a good record on a device queue gives 0, and TAIL rises. -/
theorem test_launch_appends :
    (match exec (.launch (formOf 4 6 8 0)) (launchState 0x8000 [(3, benchQueue true 0x4000 0 0)]) with
      | .next u => ((u.item? 0 0).map (fun it => it.readV 4), (u.queue 3).tail, u.memory.read 0 0x4000 3)
      | _ => (none, 0, [])) = (some 0, 1, [0, 0x50, 0]) := by decide +kernel

/-- For LaunchPath, its first part: no queue, a host queue, a bad record, a full queue, and a free slot. -/
theorem witness_LaunchPath_launch :
    Alone (launchState 0x8000 []) (launchGroup 0x8000) (.launch (formOf 4 6 8 0)) 0 (launchItem 0x8000) ∧ (launchItem 0x8000).storesOut = [] ∧
    ((launchItem 0x8000).readV 8).toNat ≤ 15 ∧ (launchItem 0x8000).readV2 6 = 0x8000 ∧ (launchItem 0).readV2 6 = 0 ∧
    Reachable (launchState 0x8000 []) (launchGroup 0x8000) 0x8000 128 0x8000 (sliceFor (launchGroup 0x8000) 0x8000) false ∧
    Reachable (launchState 0x8000 []) (launchGroup 0x8000) 0x8080 128 0x8080 (sliceFor (launchGroup 0x8000) 0x8080) false ∧
    (launchState 0x8000 []).queueAt 1 0 = none ∧
    (∀ q ∈ [benchQueue false 0x4000 0 0, benchQueue true 0x4000 0 4, benchQueue true 0x4000 0 0],
      (launchState 0x8000 [(3, q)]).queueAt 1 0 = some 3 ∧
      Alone (launchState 0x8000 [(3, q)]) (launchGroup 0x8000) (.launch (formOf 4 6 8 0)) 0 (launchItem 0x8000)) ∧
    ((benchQueue true 0x4000 0 4).tail - (benchQueue true 0x4000 0 4).head).toNat = 2 ^ (benchQueue true 0x4000 0 4).logLen ∧
    (let m := (launchState 0x8000 []).memory; recordOk (m.read 0 0x8000 128 ++ m.read 0 0x8080 128) = true ∧
      recordOk (m.read 0 0 128 ++ m.read 0 0x80 128) = false) ∧
    Reachable (launchState 0 [(3, benchQueue true 0x4000 0 0)]) (launchGroup 0) 0 128 0 (sliceFor (launchGroup 0) 0) false ∧
    FirmReach (launchState 0x8000 [(3, benchQueue true 0x4000 0 0)]) 1 0x4000 128 0x4000 true ∧
    FirmReach (launchState 0x8000 [(3, benchQueue true 0x4000 0 0)]) 1 0x4080 128 0x4080 true ∧ lineOf 0x4000 ≠ lineOf 0x4080 ∧
    (launchGroup 0x8000).turnTaken ((launchState 0x8000 []).envOf (launchGroup 0x8000) 0 (launchItem 0x8000)) = false := by
  refine ⟨alone_launch _ _ ?_, rfl, ?_, ?_, ?_, reach_launch _ _ 0x8000 (by simp) (.inr rfl) (.inl rfl), reach_launch _ _ 0x8080 (by simp) (.inr rfl) (.inl rfl), ?_,
    fun q hq => ⟨?_, alone_launch _ _ ?_⟩, ?_, ?_, reach_launch _ _ 0 (.inl rfl) (.inl rfl) (.inr rfl), firm_bench _ _ 0x4000 (.inl rfl) (.inr rfl) (.inr rfl),
    firm_bench _ _ 0x4080 (.inr rfl) (.inr rfl) (.inr rfl), ?_, rfl⟩
  case refine_6 => revert q; decide +kernel
  case refine_7 => revert q; decide +kernel
  all_goals decide +kernel

/-- The small machine with a queue, a Queued kernel of 64 indices at handle 0, and a binding pass due. -/
def queuedKernel (st : KernelState) : Kernel :=
  { pipeKernel with
    state := st
    next := [0, 0]
    limit := [64, 64] }
def seatState (st : KernelState) (q : LaunchQueue) : State :=
  { launchState 0x8000 [(3, q)] with
    kernels := [(0, queuedKernel st)]
    groups := []
    passDue := true
    zhevport := .up
    bindTable := [(5, { BindEntry.clear with valid := true, stage := 0, count := 1, kh := 0 })] }

/-- 05 R109, R110: the pass takes the good record: handle 1 is a Queued kernel and HEAD rises. -/
theorem test_binding_pass :
    (match execBindingPass (seatState .queued (benchQueue false 0x8000 0 1)) with
      | .next u => ((u.kernel? 1).map (fun k => k.state), (u.queue 3).head, u.lastQueue)
      | _ => (none, 9, 0)) = (some .queued, 1, 3) := by decide +kernel

/-- For LaunchPath, its second part: a head that is ready, and one that is refused. -/
theorem witness_LaunchPath_ready :
    (match (seatState .queued (benchQueue false 0x8000 0 1)).readHead (benchQueue false 0x8000 0 1) with
      | .ready _ d t => d.gangDevs == 1 && decide (t.queues = [(3, benchQueue false 0x8000 0 1)]) && (t.hind 1).mode == .off && !t.refusalOpen &&
          t.freeHandle == some 1
      | _ => false) = true := by decide +kernel
theorem witness_LaunchPath_refused :
    (match (seatState .queued (benchQueue false 0x4000 0 1)).readHead (benchQueue false 0x4000 0 1) with
      | .refused code crec t => code == 1 && crec == 0 && decide (t.queues = [(3, benchQueue false 0x4000 0 1)])
      | _ => false) = true := by decide +kernel

/-- For LaunchPath, its second part: a TAIL at the greatest value and beyond it, a pass without a record and with one, a seat that may be bound and one that is bound. -/
theorem witness_LaunchPath_bind :
    ((seatState .queued (benchQueue false 0x8000 0 1)).zhevport = .up ∧ (seatState .queued (benchQueue false 0x8000 0 1)).passDue = true ∧
      (seatState .queued (benchQueue false 0x8000 0 1)).stopped = false ∧ (seatState .queued (benchQueue false 0x8000 0 1)).refusalOpen = false ∧
      (seatState .queued (benchQueue false 0x8000 0 1)).queue 3 = benchQueue false 0x8000 0 1) ∧
    (let q := benchQueue false 0x8000 0 1
     q.state ≠ .free ∧ q.device = false ∧ q.tail.toNat ≤ (4 : W64).toNat ∧ (4 - q.head).toNat ≤ 2 ^ q.logLen ∧
     2 ^ q.logLen < (5 - q.head).toNat ∧ q.tail ≠ q.head ∧ q.state = .opened) ∧
    (∀ m, m < 256 → m ≠ 3 → ((seatState .queued (benchQueue false 0x8000 0 1)).queue m).state ≠ .opened) ∧
    (∀ m, m < 256 → ((seatState .queued (benchQueue false 0x8000 1 1)).queue m).state ≠ .opened ∨
      ((seatState .queued (benchQueue false 0x8000 1 1)).queue m).tail = ((seatState .queued (benchQueue false 0x8000 1 1)).queue m).head) ∧
    (let s := seatState .queued (benchQueue false 0x8000 0 1); let b : BindChoice := { seats := [4095], kh := 0, stage := 1, count := 1, gangId := 0 }
     s.kernel? 0 = some (queuedKernel .queued) ∧ (queuedKernel .queued).hasGangs = false ∧ s.mayBind b (queuedKernel .queued) = true ∧
     s.mayBind { b with seats := [5] } (queuedKernel .queued) = false) := by
  refine ⟨⟨rfl, rfl, rfl, rfl, rfl⟩, ?_, ?_, ?_, ?_⟩
  all_goals decide +kernel

/-- For LaunchPath, its third part: a free seat with a valid entry, a Loading group, a Draining kernel whose items have ended, and its update. -/
theorem witness_LaunchPath_ends :
    (let s := seatState .loading (benchQueue false 0x8000 0 1); let kn := queuedKernel .loading; let b := s.bindEntry (4 * 1 + 1)
     s.kernel? b.kh = some kn ∧ b.valid = true ∧ s.seatGroup 1 1 = none ∧ kn.state.ended = false ∧ s.saving kn.ctx = false ∧
     0 < min kn.desc.groupSlots (kn.limit.getD b.stage 0 - kn.next.getD b.stage 0) ∧ s.room 1 1 kn = true ∧ (s.hind kn.ctx).mode = .off ∧
     kn.limit.getD b.stage 0 ≤ 2 ^ 48 ∧ b.stage < kn.next.length) ∧
    (let g : Group := { solo with state := .loading }; let s := bench 2 g
     s.seatGroup 0 0 = some 0 ∧ s.group? 0 = some g ∧ s.kernel? 0 = some benchKernel ∧ benchKernel.hasGangs = false ∧ benchKernel.desc.guarded = false) ∧
    (let kn : Kernel := { queuedKernel .draining with ended := 128 }; let s : State := { bench 2 solo with kernels := [(0, kn)] }
     s.kernel? 0 = some kn ∧ kn.ended = kn.total ∧ kn.desc.gangDevs = 1 ∧ kn.gangN = 0 ∧ (s.groups.map Prod.fst).Nodup) ∧
    (let s : State := { launchState 0 [] with updates := [(2, { ctx := 1, crec := 0x4000, failed := false, queue := none, kh := some 0, waits := [], kseq := 0 })] }
     s.kernelQuiet 1 0 = true ∧ s.saving 1 = false ∧ (0x4000 : W64).toNat % 16 = 0) ∧
    FirmReach (launchState 0 []) 1 0x4000 128 0x4000 true := by
  refine ⟨?_, ⟨rfl, rfl, rfl, by decide, rfl⟩, ⟨rfl, by decide +kernel, rfl, rfl, by decide⟩, by decide +kernel, firm_bench _ _ 0x4000 (.inl rfl) (.inl rfl) (.inl rfl)⟩
  decide +kernel

/-! ### Context and page instructions, and context commands -/

/-- A system context with a child, context 2, in a given state under key id 1; the item's v6 names a context, v8:v9 is 0. -/
def parentContext : Context := { benchContext with system := true }
def childContext (st : ContextState) : Context := { Context.torn with state := st, everConfigured := true, parent := 1, key := 1 }
def sysItem (t : W32) : Item := { ((memItem t).writeV 8 0).writeV 9 0 with got := none }
def sysGroup (t : W32) : Group := benchGroup [(0, sysItem t)]
def sysState (t : W32) (st : ContextState) : State :=
  { bench 2 (sysGroup t) with
    contexts := [(1, parentContext), (2, childContext st)]
    keys := [(1, 1)] }

theorem alone_sys (t : W32) (st : ContextState) (i : Instr)
    (hp : ((sysState t st).envOf (sysGroup t) 0 (sysItem t)).gate (shapeOf i) (admitted i) = .go ∧
      (shapeOf i).poisoned ((sysState t st).envOf (sysGroup t) 0 (sysItem t)).it (sysGroup t).badS = none) :
    Alone (sysState t st) (sysGroup t) i 0 (sysItem t) :=
  alone_at _ _ i (sysItem t) rfl rfl rfl rfl ⟨rfl, rfl⟩ rfl hp

def sizeForm (sz : BitVec 6) : SizeForm := { formOf 4 6 8 0 with sz := sz }

/-- 16 R367, R366: the probe of address 0 gives VALID, SIZE code 4 and R, W, X in bits 63 to 52; TLBINV's greatest size empties the TLB. -/
theorem test_page_forms :
    (match exec (.pgprobe (formOf 4 6 8 0)) (sysState 1 .active) with
      | .next u => (u.item? 0 0).map (fun it => it.readV2 4)
      | _ => none) = some 0x8740000000000000 ∧
    (match exec (.tlbinv (sizeForm 57)) (sysState 1 .active) with
      | .next u => (u.tlbs.length, (u.item? 0 0).map (fun it => it.readV 4))
      | _ => (9, none)) = (0, some 0) := by decide +kernel

/-- The states of the child that the witnesses use, with the forms they use there. -/
def systemForms : List (Instr × BitVec 7 × BitVec 7) :=
  [(.ctxsave (sizeForm 20), 4, 6), (.ctxload (sizeForm 20), 4, 6), (.ctxkill (formOf 4 6 8 0), 4, 6), (.kretire (formOf 4 6 8 0), 4, 6)]

/-- For SystemForms, its first part: the own context, a child, and a Torn down one. -/
theorem witness_SystemForms_pages :
    Manages (sysState 1 .active) (sysGroup 1) (sysItem 1) 6 1 ∧ Manages (sysState 2 .active) (sysGroup 2) (sysItem 2) 6 2 ∧
    ((sysState 1 .active).context 1).state ≠ .tornDown ∧ ((sysState 2 .active).context 2).parent = 1 ∧
    (∀ i ∈ ([.tlbinvall (formOf 4 6 8 0), .pgprobe (formOf 4 6 8 0), .tlbinv (sizeForm 12), .tlbinv (sizeForm 57)] : List Instr),
      Alone (sysState 1 .active) (sysGroup 1) i 0 (sysItem 1) ∧ Alone (sysState 2 .tornDown) (sysGroup 2) i 0 (sysItem 2)) ∧
    (sysState 1 .active).accesses = [] ∧
    (sysState 1 .active).probe 1 0 = .leaf { addr := 0, logSize := 21, code := 4, r := true, w := true, x := true, level := 1 } ∧
    (sysState 2 .active).probe 2 0 = .fault 2 4 none ∧ ((sysState 2 .tornDown).context 2).state = .tornDown ∧
    (∀ t st, (sysGroup t).turnTaken ((sysState t st).envOf (sysGroup t) 0 (sysItem t)) = false) ∧
    (∀ t st, ∀ p ∈ (sysState t st).groups, p.2.guarded = none) := by
  refine ⟨⟨rfl, rfl, by decide +kernel⟩, ⟨rfl, rfl, by decide +kernel⟩, by decide, rfl, fun i hi => ⟨alone_sys _ _ i ?_, alone_sys _ _ i ?_⟩, rfl,
    by decide +kernel, by decide +kernel, rfl, fun _ _ => rfl, fun _ _ p hp => by cases hp with
      | head => rfl
      | tail _ h => cases h⟩
  all_goals (revert i; decide +kernel)

/-- For SystemForms, its second part: every form on a child that is Active, Suspended or Torn down, on the own context, and after its wait. -/
theorem witness_SystemForms_children :
    (∀ f ∈ systemForms, Alone (sysState 2 .active) (sysGroup 2) f.1 0 (sysItem 2) ∧ Alone (sysState 2 .tornDown) (sysGroup 2) f.1 0 (sysItem 2) ∧
      Alone (sysState 2 .suspended) (sysGroup 2) f.1 0 (sysItem 2) ∧ Alone (sysState 1 .active) (sysGroup 1) f.1 0 (sysItem 1)) ∧
    ((sysItem 2).readV2 8).toNat % 4096 = 0 ∧ (sysItem 2).got = none ∧
    (let g := benchGroup [(0, { sysItem 2 with got := some (5, 0) })]; let s := { sysState 2 .active with groups := [(0, g)] }
     ∀ f ∈ systemForms, (s.envOf g 0 { sysItem 2 with got := some (5, 0) }).gate (shapeOf f.1) (admitted f.1) = .go) ∧
    (sysState 2 .active).saving 2 = false ∧ (sysState 2 .active).areaMapped 1 true 257 0 (2 ^ 20) = true ∧
    (∀ p ∈ (sysState 2 .active).groups, p.2.guarded = none) ∧ (sysState 2 .suspended).areaMapped 1 false 257 0 (2 ^ 20) = true ∧
    (match (sysState 2 .suspended).resume 2 (.item 0 0) 1 0 (2 ^ 20) with
      | .done u st => st == 6 && decide (u.group? 0 = some (sysGroup 2)) && decide (u.kernel? 0 = some benchKernel) && (u.hind 1).mode == .off
      | _ => false) = true ∧
    ((sysState 2 .active).groups.map Prod.fst).Nodup ∧ (sysState 2 .suspended).keyState 1 = 1 ∧ (sysState 2 .suspended).freeKeyId = some 2 ∧
    (sysState 2 .active).commandOpen 2 = false ∧ (sysState 2 .suspended).commandOpen 2 = false ∧ (sysItem 2).storesOut = [] ∧
    (∀ st, (sysGroup 2).turnTaken ((sysState 2 st).envOf (sysGroup 2) 0 (sysItem 2)) = false) := by
  refine ⟨fun f hf => ⟨alone_sys _ _ _ ?_, alone_sys _ _ _ ?_, alone_sys _ _ _ ?_, alone_sys _ _ _ ?_⟩, by decide +kernel, rfl, by decide +kernel, rfl,
    by decide +kernel, by decide +kernel, by decide +kernel, by decide +kernel, by decide, by decide +kernel, by decide +kernel, rfl, rfl, rfl, fun _ => rfl⟩
  all_goals (revert f; decide +kernel)

/-- The machine with firmware up, the Zhevport Up, and one command in slot 255 of the ring. -/
def ringState (c : List W8) (st : ContextState) : State :=
  { bench 2 solo with
    contexts := [(1023, { childContext st with parent := 0 })]
    keys := [(1, 1)]
    zhevport := .up
    dev := { DeviceBlock.cold with
      bootStat := 2
      poolBase := 0x10000
      poolSize := 0x10000 }
    ringHead := 255
    ringTail := 256
    ringSlots := [(255, c)] }

theorem posted_ring (c : List W8) (st : ContextState) : Posted (ringState c st) 255 c := ⟨⟨rfl, rfl⟩, by show 255 < 256; decide, rfl, rfl⟩

/-- 04 R90, 22 R463: Start of a Configured context makes it Active, and STATUS is DONE; of an Active one it is STATE. -/
theorem test_start :
    (match execStart (ringState (ringCommand 3 0 1023 0 0 0) .configured) with
      | .next u => ((u.context 1023).state, u.ringHead, (Table.read [] u.ringSlots 255).drop 24)
      | _ => (.tornDown, 0, [])) = (.active, 256, [0, 0, 0, 0x80, 0, 0, 0, 0]) ∧
    (match execStart (ringState (ringCommand 3 0 1023 0 0 0) .active) with
      | .next u => ((u.context 1023).state, (Table.read [] u.ringSlots 255).drop 24)
      | _ => (.tornDown, [])) = (.active, [4, 0, 0, 0x80, 0, 0, 0, 0]) := by decide +kernel

/-- For ContextCommands, its first part: a ring with nothing to do, an unallocated OPC, CTXID 0, a Torn down context, and a state that is not
the command's. -/
theorem witness_ContextCommands_refused :
    (bench 2 solo).dev.bootStat ≠ 2 ∧ leAt (ringCommand 9 0 1023 0 0 0) 0 1 = 9 ∧
    (∀ f ∈ commandForms, Posted (ringState (ringCommand f.2.1 0 0 0 0 0) .active) 255 (ringCommand f.2.1 0 0 0 0 0) ∧
      Posted (ringState (ringCommand f.2.1 0 1023 0 0 0) .tornDown) 255 (ringCommand f.2.1 0 1023 0 0 0) ∧
      Posted (ringState (ringCommand f.2.1 0 1023 0 0 0) .tearing) 255 (ringCommand f.2.1 0 1023 0 0 0)) ∧
    (ringState [] .tornDown).saving 1023 = false ∧ ((ringState [] .tornDown).context 1023).state = .tornDown ∧
    ((ringState [] .tearing).context 1023).state = .tearing ∧ (∀ p ∈ (bench 2 solo).pending, p.2.kind ≠ 1) ∧
    (∀ c st, (ringState c st).commandOpen 1023 = false ∧ (ringState c st).commandOpen 0 = false) :=
  ⟨by decide, by decide +kernel, fun f _ => ⟨posted_ring _ _, posted_ring _ _, posted_ring _ _⟩, rfl, rfl, rfl, by decide, fun _ _ => ⟨rfl, rfl⟩⟩

/-- A CCB at 0x6000 whose one region is the 2 MiB at 2 GiB. -/
def ccbCells : List Host.Cell :=
  [(0x6000, 1), (0x600C, 12), (0x6012, 1), (0x6020, 1), (0x6024, 1), (0x6028, 1), (0x602C, 1), (0x6040, 1), (0x6044, 1), (0x6060, 1), (0x6083, 0x80),
   (0x6088, 1), (0x608C, 0xF)]
def ccbState (cells : List Host.Cell) (keys : Table Nat) : State :=
  { ringState (ringCommand 2 0 1023 0 0x6000 0) .allocated with
    memory := { Memory.zero with bytes := cells }
    keys := keys }

/-- 04 R87, R90: Config binds the lowest free key id and the context is Configured. -/
theorem test_config :
    (match execConfig (ccbState ccbCells [(1, 1)]) with
      | .next u => ((u.context 1023).state, (u.context 1023).key, (u.context 1023).regions)
      | _ => (.tornDown, 0, [])) = (.configured, 2, [{ base := 0x80000000, size := 1, rights := 0xF }]) := by decide +kernel

/-- Every key id is bound. -/
def allKeys : Table Nat := (List.range' 1 4095).map (fun k => (k, 1))

theorem get_run (a n k : Nat) (h : a ≤ k ∧ k < a + n) : Table.get? ((List.range' a n).map (fun k => (k, 1))) k = some 1 := by
  induction n generalizing a with
  | zero => omega
  | succ n ih =>
    by_cases e : a = k
    · subst e; simp [List.range'_succ, Table.get?]
    · have := ih (a + 1) (by omega)
      simpa [List.range'_succ, Table.get?, Ne.symm e, show ¬k = a from fun h => e h.symm] using this

theorem no_key : (ccbState ccbCells allKeys).freeKeyId = none := by
  unfold State.freeKeyId
  rw [List.find?_eq_none]
  intro k hk
  have h1 : k < 4096 := by
    have := List.mem_of_mem_drop hk
    simpa [upTo] using this
  have h2 : Table.get? allKeys k = some 1 ∨ k = 0 := by
    by_cases h : k = 0
    · exact .inr h
    · exact .inl (get_run 1 4095 k ⟨by omega, by omega⟩)
  rcases h2 with h | h
  · simp [State.keyState, Table.read, ccbState, ringState, h]
  · subst h; simp [State.keyState]

/-- For ContextCommands, its second part: a good CCB, a bad one, and no free key id. -/
theorem witness_ContextCommands_states :
    ((ringState [] .allocated).context 1023).state = .allocated ∧
    Posted (ccbState ccbCells [(1, 1)]) 255 (ringCommand 2 0 1023 0 0x6000 0) ∧ (ccbState ccbCells [(1, 1)]).firmReads 0x6000 512 = true ∧
    (ccbState ccbCells [(1, 1)]).ccbOk 1023 ((ccbState ccbCells [(1, 1)]).physRead 0x6000 512) = true ∧
    (ccbState [] [(1, 1)]).ccbOk 1023 ((ccbState [] [(1, 1)]).physRead 0x6000 512) = false ∧ (ccbState ccbCells [(1, 1)]).freeKeyId = some 2 ∧
    (ccbState ccbCells allKeys).freeKeyId = none ∧ Posted (ringState (ringCommand 4 0 1023 0 0x7000 0x100000) .active) 255 (ringCommand 4 0 1023 0 0x7000 0x100000) ∧
    (ringState [] .active).spanPlaced 0x7000 0x100000 = true ∧ (∀ p ∈ (ringState [] .active).groups, p.2.guarded = none) ∧
    Posted (ringState (ringCommand 7 0 1023 0 0 0) .active) 255 (ringCommand 7 0 1023 0 0 0) ∧
    Posted (ringState (ringCommand 8 0 1023 0 0 0) .suspended) 255 (ringCommand 8 0 1023 0 0 0) ∧
    0 < ((ringState [] .suspended).context 1023).key ∧ (ringState [] .suspended).keyState 1 = 1 ∧
    (let s : State := { ringState [] .active with
       groups := [(0, { solo with ctx := 1023 })]
       commands := [(9, copyCommand 0)] }
     (s.commands.map Prod.fst).Nodup ∧ Table.get? s.commands 9 = some (copyCommand 0) ∧ (copyCommand 0).begun = false ∧
       s.group? 0 = some { solo with ctx := 1023 }) := by
  refine ⟨rfl, ⟨⟨rfl, rfl⟩, by decide, rfl, rfl⟩, ?_, ?_, ?_, ?_, no_key, posted_ring _ _, ?_, ?_, posted_ring _ _, posted_ring _ _, by decide, ?_,
    by decide, rfl, rfl, rfl⟩
  all_goals decide +kernel

/-- An image of 4096 bytes at 0x40000 that holds one launch queue, LQ 0 of 16 slots with TAIL 3, and nothing else; `d` stands for its DIGEST. -/
def imageBody : List W8 := [1] ++ List.replicate 64 0 ++ [4] ++ List.replicate 14 0 ++ [3] ++ List.replicate 3887 0
def imageCells (d : List W8) : List Host.Cell :=
  [(0x40000, 0x58), (0x40001, 0x54), (0x40002, 0x43), (0x40003, 0x53), (0x40004, 0x49), (0x40005, 0x53), (0x40006, 0x41), (0x40007, 0x4B), (0x40008, 1),
   (0x40011, 0x10)] ++ (upTo 64).map (fun j => (0x40040 + j, d.getD j 0)) ++ [(0x40080, 1), (0x400C1, 4), (0x400D0, 3)]
def imageMemory (d : List W8) : Memory := { Memory.zero with bytes := imageCells d }
def imageRecord : List W8 := [0, 4, 0, 0, 0, 0, 0, 0, 0, 0, 0, 0, 0, 0, 0, 0, 3] ++ List.replicate 15 0
def resumeState (d : List W8) (n : Nat) : State :=
  { ringState (ringCommand 5 0 1023 0 0x40000 n) .suspended with
    memory := imageMemory d
    queues := [(3, { LaunchQueue.empty with owner := 1023, lq := 0, logLen := 4, state := .idle })] }

theorem keccakRound_length (a : List W64) (rc : W64) : (keccakRound a rc).length = 25 := by simp [keccakRound, upTo]
theorem keccak_length (a : List W64) : (keccak a).length = 25 := by
  unfold keccak
  have h : ∀ (rs : List W64) (a : List W64), a.length = 25 → (rs.foldl keccakRound a).length = 25 := by
    intro rs
    induction rs with
    | nil => intro a h; exact h
    | cons r rs ih => intro a _; exact ih _ (keccakRound_length a r)
  exact h keccakRounds.tail (keccakRound a 1) (keccakRound_length a 1)

/-- SHAKE256 gives as many bytes as it is asked for, up to 136. -/
theorem shake_length (n : Nat) (bs : List W8) (h : n ≤ 136) : (shake256 n bs).length = n := by
  have hl : ∀ (m : Nat) (a : List W64) (b : List W8), a.length = 25 → (absorb m a b).length = 25 := by
    intro m
    induction m with
    | zero => intro a b h; exact h
    | succ m ih => intro a b _; exact ih _ _ (keccak_length _)
  have hs : ∀ a : List W64, (a.flatMap (fun w => leBytes 8 w.toNat)).length = 8 * a.length := by
    intro a
    induction a with
    | nil => rfl
    | cons w a ih => rw [List.flatMap_cons, List.length_append, ih, List.length_cons]; simp [leBytes]; omega
  simp only [shake256, squeeze, List.length_take, hs]
  rw [hl _ _ _ (by simp)]
  omega

theorem image_digest (d : List W8) (h : d.length = 64) : (((imageMemory d).read 0 0x40000 4096).drop 0x40).take 64 = d := by
  unfold Memory.read
  rw [← List.map_drop, ← List.map_take, show ((upTo 4096).drop 0x40).take 64 = (upTo 64).map (· + 64) from by decide +kernel, List.map_map]
  apply List.ext_getElem
  · simp [upTo, h]
  · intro j h1 h2
    have hj : j < 64 := by simpa [upTo] using h1
    simp only [List.getElem_map, upTo, List.getElem_range, Function.comp]
    rw [show d[j] = d.getD j 0 from by simp [List.getD_eq_getElem?_getD, h2]]
    clear h1 h2 h
    interval_cases j <;> rfl

/-- The image whose DIGEST is right. -/
def goodDigest : List W8 := shake256 64 imageBody

/-- The whole image as firmware reads it. -/
def wholeImage : List W8 := (resumeState goodDigest 4096).physRead 0x40000 4096

theorem get_beyond {α : Type} (t : Table α) (k n : Nat) (h : t.all (fun e => decide (e.1 < n)) = true) (hk : n ≤ k) : Table.get? t k = none := by
  induction t with
  | nil => rfl
  | cons e t ih =>
    obtain ⟨j, a⟩ := e
    simp only [List.all_cons, Bool.and_eq_true, decide_eq_true_eq] at h
    rw [Table.get?, if_neg (by omega), ih h.2]

/-- The byte of the image at an offset, and its first 81 bytes after the header. -/
def imageByte (j : Nat) : W8 := (imageMemory goodDigest).byte 0 (0x40000 + j)
def imageStart : List W8 := [1] ++ List.replicate 64 0 ++ [4] ++ List.replicate 14 0 ++ [3]

theorem image_body : wholeImage.drop 0x80 = imageBody := by
  have h0 : wholeImage.drop 0x80 = (List.range' 128 81).map imageByte ++ (List.range' 209 3887).map imageByte := by
    rw [← List.map_append, ← show (upTo 4096).drop 0x80 = List.range' 128 81 ++ List.range' 209 3887 from by decide +kernel, List.map_drop]
    rfl
  have h1 : (List.range' 128 81).map imageByte = imageStart := by decide +kernel
  have h2 : (List.range' 209 3887).map imageByte = List.replicate 3887 0 := by
    refine List.eq_replicate_iff.2 ⟨by simp, ?_⟩
    intro b hb
    obtain ⟨a, ha, rfl⟩ := List.mem_map.1 hb
    have h1 : 209 ≤ a := (List.mem_range'_1.1 ha).1
    have h2 : Table.get? (imageCells goodDigest) (0x40000 + a) = none := get_beyond _ _ 0x400D1 (by decide +kernel) (by omega)
    simp [imageByte, Memory.byte, Memory.tag, imageMemory, Memory.zero, Table.read, Table.get?, h2]
  rw [h0, h1, h2]; rfl

theorem image_hashes : shake256 64 (wholeImage.drop 0x80) = (wholeImage.drop 0x40).take 64 := by
  have h2 : (wholeImage.drop 0x40).take 64 = goodDigest := image_digest goodDigest (shake_length 64 _ (by decide))
  rw [image_body, h2, goodDigest]

theorem parsed_queue (p : Option ParsedImage)
    (h : p.map (fun p => p.kernels == [] && p.queues == [imageRecord] && p.groups == [] && p.chans == [] && p.colls == []) = some true) :
    p = some { kernels := [], queues := [imageRecord], groups := [], chans := [], colls := [] } := by
  cases p with
  | none => cases h
  | some p => obtain ⟨a, b, c, d, e⟩ := p; simp at h; obtain ⟨⟨⟨⟨rfl, rfl⟩, rfl⟩, rfl⟩, rfl⟩ := h; rfl

theorem image_parses : parseImage wholeImage = some { kernels := [], queues := [imageRecord], groups := [], chans := [], colls := [] } := by
  rw [← List.take_append_drop 0x80 wholeImage, image_body]
  apply parsed_queue
  decide +kernel

/-- For ContextCommands, its third part: an area too small, a wrong header, and a whole image, whose digest is right (image_hashes) and that holds
one queue (image_parses). -/
theorem witness_ContextCommands_resume :
    (resumeState goodDigest 4096).spanPlaced 0x40000 4096 = true ∧ ((resumeState goodDigest 4096).context 1023).state = .suspended ∧
    Posted (resumeState goodDigest 127) 255 (ringCommand 5 0 1023 0 0x40000 127) ∧
    Posted (resumeState goodDigest 4096) 255 (ringCommand 5 0 1023 0 0x40000 4096) ∧
    leAt ((ringState (ringCommand 5 0 1023 0 0x40000 4096) .suspended).physRead 0x40000 128) 0 8 = 0 ∧
    (let h := (resumeState goodDigest 4096).physRead 0x40000 128
     leAt h 0 8 = 0x4B41534953435458 ∧ leAt h 8 4 = 1 ∧ leAt h 0x10 8 = 4096 ∧ leAt h 0x1C 4 = 0 ∧ zeroAt h 0x28 24 = true) ∧
    (resumeState goodDigest 4096).firmReads 0x40000 4096 = true ∧ (resumeState goodDigest 4096).queueRecordsOk 1023 [imageRecord] = true ∧
    (resumeState goodDigest 4096).queueAt 1023 0 = some 3 ∧ ((resumeState goodDigest 4096).queues.map Prod.fst).Nodup ∧
    ((resumeState goodDigest 4096).hind 1023).closing = [] ∧ (resumeState goodDigest 4096).commandOpen 1023 = false := by
  refine ⟨?_, ?_, ⟨⟨?_, ?_⟩, ?_, ?_, ?_⟩, ⟨⟨?_, ?_⟩, ?_, ?_, ?_⟩, ?_, ?_, ?_, ?_, ?_, ?_, rfl, rfl⟩
  all_goals decide +kernel

/-- An item without a frame, in a group without a scratchpad, whose image is awaited. -/
def stopItem : Item :=
  { benchItem with
    frame := 0
    wait := .none }
def stopGroup : Group :=
  { benchGroup [(0, stopItem)] with
    scratchBytes := 0
    stopAsked := true }
def savePending (size : Nat) : Pending := { kind := 0, ctx := 1, asker := .ring 255, area := 0x40000, size := size, via := 0 }
def saveState (size : Nat) : State :=
  { bench 2 stopGroup with
    ringSlots := [(255, ringCommand 4 0 1 0 0x40000 size)]
    pending := [(3, savePending size)] }

/-- A context whose teardown has begun, and the Kill that waits for it. -/
def tearState (retired : Bool) : State :=
  { ringState (ringCommand 7 0 1023 0 0 0) .tearing with
    contexts := [(1023, { childContext .tearing with retired := retired, parent := 0 })]
    pending := [(4, { kind := 2, ctx := 1023, asker := .ring 255, area := 0, size := 0, via := 0 })] }

/-- For ContextCommands, its fourth part: an image that fits and one that does not, a group's image and a free seat, and a teardown. -/
theorem witness_ContextCommands_ends :
    (∀ n : Nat, (saveState n).pending.find? (fun p => p.2.kind == 0 && p.2.ctx == 1) = some (3, savePending n)) ∧
    ((saveState 0).stopDone 1 = true ∧ (saveState 0).saveStacks 1 = (((saveState 0).saveStacks 1).1, true) ∧
      (((saveState 0).saveStacks 1).1.hind 1).mode = .off ∧ (∀ q ∈ ((saveState 0).saveStacks 1).1.groups, q.2.marred = false) ∧
      0 < (((saveState 0).saveStacks 1).1.contextImage 1).length ∧ (∀ k ∈ ((saveState 0).saveStacks 1).1.kernels, k.2.state ≠ .faulted)) ∧
    ((saveState 65536).stopDone 1 = true ∧ ((saveState 65536).saveStacks 1).2 = true ∧
      (((saveState 65536).saveStacks 1).1.contextImage 1).length ≤ 65536) ∧
    (let b := stopGroup.image benchKernel.desc 0
     b.length = leAt b 0 8 ∧ (bench 2 solo).mayRestore 1 3 benchKernel 0 b = true ∧ (groupLayout benchKernel.desc b).slots = [0]) ∧
    ((tearState false).context 1023).state = .tearing ∧ (tearState false).accesses = [] ∧ (tearState false).commands = [] ∧
    (tearState false).links = [] ∧ (∀ p ∈ (tearState false).ports, p.2.requests = []) ∧ 0 < ((tearState false).context 1023).key ∧ ((tearState true).context 1023).retired = true := by
  refine ⟨fun n => rfl, ⟨by decide +kernel, ?_, by decide +kernel, by decide +kernel, by decide +kernel, by decide +kernel⟩,
    ⟨by decide +kernel, by decide +kernel, by decide +kernel⟩, ⟨by decide +kernel, by decide +kernel, by decide +kernel⟩, rfl, rfl, rfl, rfl,
    by decide +kernel, by decide, rfl⟩
  have h : ((saveState 0).saveStacks 1).2 = true := by decide +kernel
  exact Prod.ext rfl h

/-! ### Migration, the spill engine, walks and fault records -/

/-- An item that can leave for another die: no frame, nothing outstanding; its v6:v7 is 0. -/
def leaver : Item := { memItem 0 with frame := 0 }
def leaverGroup : Group := benchGroup [(0, leaver), (1, benchItem)]
def package : Package :=
  { item := leaver, kh := 0, ctx := 1, stage := 0, groupix := 0, gangix := 0, gangrank := 0, s := Vector.replicate 64 0, die := 0, va := 0, fresh := true
    state := .running, closed := 0, mstat := 0, barriers := Vector.replicate 16 Barrier.open }
def leaveState (n : Nat) : State :=
  { bench 2 leaverGroup with
    wave := { gid := 0, pc := 0x1000, slots := [0], ilen := 2 }
    packages := (List.range n).map (fun k => (k, package)) }

theorem alone_leave (n : Nat) (h : n = 0 ∨ n = 256) : Alone (leaveState n) leaverGroup (.migr (formOf 0 6 0 0)) 0 leaver :=
  ⟨⟨rfl, rfl, rfl, by unfold Group.Clear; decide⟩, rfl, rfl, by rcases h with rfl | rfl <;> decide +kernel,
    by rcases h with rfl | rfl <;> decide +kernel⟩

theorem reach_leave (n : Nat) (h : n = 0 ∨ n = 256) : Reachable (leaveState n) leaverGroup (leaver.readV2 6) 1 0 (homeSlice 0) false := by
  refine ⟨by decide +kernel, by decide +kernel, ⟨{ unit := 0, ctx := 1, base := 0, logSize := 21, addr := 0, r := true, w := true, x := true }, rfl, rfl, rfl⟩,
    ?_, ?_, fun c hc => ?_, rfl, ?_, ?_, ?_, rfl, ?_, rfl, rfl⟩
  case refine_3 =>
    rcases c with _ | _ | _ | _ | c
    case succ.succ.succ.succ => omega
    all_goals rfl
  all_goals (rcases h with rfl | rfl <;> decide +kernel)

/-- 07 R148: the item's slot is empty and a package goes to die 0. -/
theorem test_migr :
    (match exec (.migr (formOf 0 6 0 0)) (leaveState 0) with
      | .next u => ((u.item? 0 0).isNone, u.packages.map (fun p => (p.2.die, p.2.item.pc)))
      | _ => (false, [])) = (true, [(0, 0x1008)]) := by decide +kernel

/-- Items that wait for the spill and fill engine: a call to a frame of 96 words from one of 4, a ret, a frame to be read back; `base` is the
low half of the stack area's base. -/
def spillItem (w : Wait) : Item :=
  { benchItem with
    frame := 4
    stack := 64
    wait := w }
def spillGroup (w : Wait) (base : W32) : Group :=
  { benchGroup [(0, spillItem w)] with
    s := (Vector.replicate 64 0).set 14 base }
def spillState (w : Wait) (base : W32) : State :=
  { bench 2 (spillGroup w base) with
    tlbs := [(0, { unit := 1024, ctx := 1, base := 0, logSize := 21, addr := 0, r := true, w := true, x := true })] }
def spillEnv (w : Wait) : Env := { Env.of (spillState w 0x8000) (spillGroup w 0x8000) 0 0 (spillItem w) with ilen := 2 }

/-- A walk of an address, and a state in which an item waits for it. -/
def walkOf (va : W64) (kind : Nat) : Walk := { unit := 0, ctx := 1, page := pageOf va, va := va, kind := kind }
def walkItem (va : W64) : Item := { benchItem with wait := .walk 1 (pageOf va) va 0 }
def walkState (va : W64) : State :=
  { bench 2 (benchGroup [(0, walkItem va)]) with
    walks := [(2, walkOf va 0)] }
def pageFault : PageFault := { ctx := 1, page := 0x200, va := 0x200000, reason := 4, kind := 0, level := 1, engine := false, fid := none }
def faultState (head : Nat) : State :=
  { bench 2 solo with
    faults := [(2, pageFault)]
    dev := { (bench 2 solo).dev with
      frHead := head
      frTail := 1023 } }

/-- 16 R361, R362: an absent page posts a fault, and its record's first fields follow. -/
theorem test_walk_fault :
    (match execPageWalk 2 (walkState 0x200000) with
      | .next u => (u.faults.map (fun f => (f.2.page, f.2.reason)), (u.item? 0 0).map (fun it => it.wait))
      | _ => ([], none)) = ([(0x200, 4)], some (.fault 1 0x200 0x200000 0)) ∧
    (faultRecord pageFault 7).take 24 = [0, 2, 0, 0, 0, 0, 0, 0, 1, 0, 4, 1, 1, 0, 0, 0, 7, 0, 0, 0, 0, 0, 0, 0] := by decide +kernel

/-- With no table kept from an earlier walk, a walk starts at the root. -/
theorem walk_cold (s : State) (die ctx : Nat) (ea : W64) (kind : Nat) (h : s.walkStarts die ctx ea = [(4, s.rootOf ctx)]) :
    s.walkOf die ctx ea kind = ((4, s.rootOf ctx), s.walkKind ctx ea kind) := by
  unfold State.walkOf
  by_cases hc : canonicalVa ea = true
  · have hp : s.walkKind ctx ea kind = (s.walkFrom ea 4 (s.rootOf ctx)).forKind kind := by rw [State.walkKind, State.probe, if_pos hc]
    simp only [h, hp, hc, List.map_cons, List.map_nil, List.all_cons, List.all_nil, beq_self_eq_true, Bool.and_self, if_true, Bool.not_true,
      Bool.false_eq_true, if_false]
  · simp only [hc, Bool.not_false, if_true]
theorem cold_walk (va : W64) : (walkState va).walkOf 0 1 va 0 = ((4, (walkState va).rootOf 1), (walkState va).walkKind 1 va 0) := walk_cold _ _ _ _ _ rfl

/-- For MigrationAndPages: a landing slot free and none, a package, the engine's four kinds of work, walks that end in a leaf, an absent page and
an address that no page holds, and a fault ring with room for one record and with none. -/
theorem witness_MigrationAndPages :
    Alone (leaveState 0) leaverGroup (.migr (formOf 0 6 0 0)) 0 leaver ∧ Alone (leaveState 256) leaverGroup (.migr (formOf 0 6 0 0)) 0 leaver ∧
    leaver.Idle ∧ leaver.frame = 0 ∧ leaver.callers = [] ∧ Reachable (leaveState 0) leaverGroup (leaver.readV2 6) 1 0 (homeSlice 0) false ∧
    Reachable (leaveState 256) leaverGroup (leaver.readV2 6) 1 0 (homeSlice 0) false ∧ (leaveState 0).landingsOn ((leaveState 0).homeDie 0) = 0 ∧
    (leaveState 256).landingsOn ((leaveState 256).homeDie 0) = 256 ∧ (∃ q ∈ leaverGroup.items, q.1 ≠ 0 ∧ q.2.arrived = false) ∧
    (Table.get? (leaveState 256).packages 255 = some package ∧ (leaveState 256).kernel? 0 = some benchKernel ∧ dieOfCore 255 = package.die ∧
      (leaveState 256).residentSlots 255 < 2048 ∧ benchKernel.state.ended = false ∧ benchKernel.asked = false ∧ (leaveState 256).saving 1 = false ∧ package.fresh = true ∧
      (leaveState 256).landingsOn package.die = 256 ∧ ((leaveState 256).hind package.ctx).mode = .off) ∧
    ((spillState (.spill (some 96) 2 0) 8).nextSpill 0 = some (0, 0) ∧
      ((spillState (.spill (some 96) 2 0) 8).stackAreaOf (spillGroup (.spill (some 96) 2 0) 8) (spillItem (.spill (some 96) 2 0))).toNat % 16 ≠ 0) ∧
    (match (spillState (.spill (some 96) 2 0) 0x8000).spillFor (spillGroup (.spill (some 96) 2 0) 0x8000) (spillEnv (.spill (some 96) 2 0)) 96 with
      | .ok _ _ => true
      | _ => false) = true ∧
    (match (spillState (.spill none 2 0) 0x8000).fillFor (spillGroup (.spill none 2 0) 0x8000) (spillEnv (.spill none 2 0)) with
      | .ok (some f) _ => f.words == []
      | _ => false) = true ∧
    (match (spillState .frame 0x8000).stackRead (spillGroup .frame 0x8000) (spillItem .frame) false ((upTo 4).map (fun j => 64 + BitVec.ofNat 64 (4 * j))) with
      | .ok xs _ => xs == [0, 0, 0, 0]
      | _ => false) = true ∧
    ((spillItem .frame).held = false ∧ (spillItem .frame).lost = []) ∧
    (∀ va, Table.get? (walkState va).walks 2 = some (walkOf va 0) ∧ (walkState va).hasWalker 2 (walkOf va 0) = true ∧
      (walkState va).walkOf 0 1 va 0 = ((4, (walkState va).rootOf 1), (walkState va).walkKind 1 va 0)) ∧
    ((walkState 0x1000).walkKind 1 0x1000 0 = .leaf { addr := 0, logSize := 21, code := 4, r := true, w := true, x := true, level := 1 } ∧
      (walkState 0x200000).walkKind 1 0x200000 0 = .fault 4 1 none ∧
      (walkState 0x0100000000000000).walkKind 1 0x0100000000000000 0 = .fault 1 0 none) ∧
    ((faultState 0).faults.find? (fun p => p.2.fid.isNone) = some (2, pageFault) ∧ (faultState 0).dev.poolSize ≠ 0 ∧
      (faultState 0).dev.frTail - (faultState 0).dev.frHead < 2 ^ (faultState 0).dev.frLog) ∧
    (let s : State := { faultState 0 with dev := { (faultState 0).dev with frTail := 1024 } }; 2 ^ s.dev.frLog ≤ s.dev.frTail - s.dev.frHead) := by
  refine ⟨alone_leave 0 (.inl rfl), alone_leave 256 (.inr rfl), by unfold Item.Idle; decide, rfl, rfl, reach_leave 0 (.inl rfl),
    reach_leave 256 (.inr rfl), by decide +kernel, by decide +kernel, ⟨(1, benchItem), by simp [leaverGroup, benchGroup], by decide, rfl⟩, ?_, ?_, ?_, ?_,
    ?_, ⟨rfl, rfl⟩, fun va => ⟨rfl, rfl, cold_walk va⟩, ?_, ?_, ?_⟩
  all_goals decide +kernel

/-! ### Hindcast -/

/-- A context in a mode, with STOPEN and a Hindcast ring. -/
def hindContext (mode : HcMode) (lossy stopen : Bool) : Context :=
  { benchContext with
    hcAllow := true
    hind := { Hindcast.off with
      mode := mode
      lossy := lossy
      stopen := stopen } }
def hindItem (w : Wait) : Item := { benchItem with wait := w }
def hindGroup (w : Wait) : Group := benchGroup [(0, hindItem w)]
def hindState (w : Wait) (mode : HcMode) (stopen : Bool) : State :=
  { bench 2 (hindGroup w) with
    contexts := [(1, hindContext mode false stopen)] }
def hindForms : List Instr := [.hcmark { formOf 0 6 0 0 with imm := 5 }, .hcflush (formOf 0 0 0 0), .hcstop { formOf 0 0 0 0 with imm := 7 }]

theorem alone_hind (w : Wait) (mode : HcMode) (stopen : Bool) (i : Instr)
    (hp : ((hindState w mode stopen).envOf (hindGroup w) 0 (hindItem w)).gate (shapeOf i) (admitted i) = .go ∧
      (shapeOf i).poisoned ((hindState w mode stopen).envOf (hindGroup w) 0 (hindItem w)).it (hindGroup w).badS = none) :
    Alone (hindState w mode stopen) (hindGroup w) i 0 (hindItem w) := alone_at _ _ i (hindItem w) rfl rfl rfl rfl ⟨rfl, rfl⟩ rfl hp

/-- 18 R410, 19 R412: hcstop with STOPEN ends the recording and traps HCSTOP with its code. -/
theorem test_hcstop :
    (match exec (.hcstop { formOf 0 0 0 0 with imm := 7 }) (hindState .none .record true) with
      | .next u => ((u.hind 1).mode, (u.item? 0 0).map (fun it => (it.trapCause, it.trapInfo)))
      | _ => (.record, none)) = (.off, some (0x80000217, 7)) := by decide +kernel

/-- A recorder whose chunk is full of entries, one full of item-instructions, one just below both. -/
def fullRecorder (entries each : Nat) : Recorder :=
  { Recorder.fresh with
    entries := List.replicate entries (List.replicate 32 0)
    ret := Vector.replicate 8 each }
def recordState (k : Recorder) : State :=
  { bench 2 solo with
    contexts := [(1, { benchContext with hind := { Hindcast.off with mode := .record, recorders := [(127, k)] } })] }

/-- A chunk record waiting in a ring whose size and TAIL its own length gives. -/
def closedChunk : ChunkRecord :=
  { seq := 0, kind := 0, flags := 2, source := 0, localNo := 0, ret := List.replicate 8 0, sdig := List.replicate 32 0, entries := [] }
@[irreducible] def chunkLength : Nat := ({ closedChunk with seq := 1 } : ChunkRecord).bytes.length
def spillContext (lossy : Bool) (tail : Nat) : Context :=
  { benchContext with
    ringLog := chunkLength
    hind := { Hindcast.off with
      mode := .record
      lossy := lossy
      tail := tail
      closing := [closedChunk] } }

theorem chunk_fits : chunkLength ≤ 2 ^ chunkLength := Nat.le_of_lt Nat.lt_two_pow_self

/-- For Hindcast, its first part: each form off, recording and after its wait; chunks that are full and that are not; a record that fits at the
start of the ring, and one that finds the ring full. -/
theorem witness_Hindcast_forms :
    (∀ i ∈ hindForms ++ (upTo 4).map (fun n => .hcread { formOf 4 0 0 0 with sel := BitVec.ofNat 2 n }), Alone (hindState .none .off false) (hindGroup .none) i 0 (hindItem .none) ∧
      Alone (hindState .none .record false) (hindGroup .none) i 0 (hindItem .none) ∧
      Alone (hindState .none .record true) (hindGroup .none) i 0 (hindItem .none) ∧
      Alone (hindState (.flush 0) .record false) (hindGroup (.flush 0)) i 0 (hindItem (.flush 0))) ∧
    ((hindState .none .record false).hind 1).lossy = false ∧ ((hindState .none .record false).hind 1).armed = false ∧
    (hindState .none .record false).kernel? 0 = some benchKernel ∧
    (((recordState (fullRecorder 1024 0)).hind 1).recorder 127).entries.length = 1024 ∧
    65536 ≤ (((recordState (fullRecorder 0 8192)).hind 1).recorder 127).ret.toList.sum ∧
    (((recordState (fullRecorder 1023 8191)).hind 1).recorder 127).entries.length < 1024 ∧
    ¬(65536 ≤ (((recordState (fullRecorder 1023 8191)).hind 1).recorder 127).ret.toList.sum) ∧
    (let x := spillContext false 0; x.hind.closing = [closedChunk] ∧ x.hind.tail % 2 ^ x.ringLog + chunkLength ≤ 2 ^ x.ringLog ∧
      x.hind.tail + chunkLength - x.hind.head ≤ 2 ^ x.ringLog) ∧
    (let x := spillContext true (2 * 2 ^ chunkLength); x.hind.lossy = true ∧ x.hind.tail % 2 ^ x.ringLog + chunkLength ≤ 2 ^ x.ringLog ∧
      2 ^ x.ringLog < x.hind.tail + chunkLength - x.hind.head) := by
  refine ⟨fun i hi => ⟨alone_hind _ _ _ i ?_, alone_hind _ _ _ i ?_, alone_hind _ _ _ i ?_, alone_hind _ _ _ i ?_⟩, rfl, rfl, rfl, ?_, ?_, ?_, ?_, ?_, ?_⟩
  case refine_9 =>
    refine ⟨rfl, ?_, ?_⟩
    · show 0 % 2 ^ chunkLength + chunkLength ≤ 2 ^ chunkLength
      simpa using chunk_fits
    · show 0 + chunkLength - 0 ≤ 2 ^ chunkLength
      simpa using chunk_fits
  case refine_10 =>
    refine ⟨rfl, ?_, ?_⟩
    · show 2 * 2 ^ chunkLength % 2 ^ chunkLength + chunkLength ≤ 2 ^ chunkLength
      simpa using chunk_fits
    · show 2 ^ chunkLength < 2 * 2 ^ chunkLength + chunkLength - 0
      have := Nat.two_pow_pos chunkLength
      omega
  case refine_1 => revert i; decide +kernel
  case refine_2 => revert i; decide +kernel
  case refine_3 => revert i; decide +kernel
  case refine_4 => revert i; decide +kernel
  all_goals decide +kernel

/-- A context that Hindcast commands act on. -/
def hcContext (st : ContextState) (mode : HcMode) (allow : Bool) : Context :=
  { childContext st with
    parent := 0
    hcAllow := allow
    hind := { Hindcast.off with
      mode := mode
      head := 128
      tail := 256
      ring := [(128, closedChunk)] } }
def hcState (c : List W8) (x : Context) : State := { ringState c .active with contexts := [(1023, x)] }

/-- For Hindcast, its second part: every command posted; contexts Torn down, without a ring, idle, recording and replaying. -/
theorem witness_Hindcast_commands :
    (∀ act x, Posted (hcState (hcCmd act 1023 0 0 0 3 0 0) x) 255 (hcCmd act 1023 0 0 0 3 0 0) ∧
      Posted (hcState (hcCmd act 1023 0xFFFFFFFF 0x1000 0x1000 3 15 7) x) 255 (hcCmd act 1023 0xFFFFFFFF 0x1000 0x1000 3 15 7) ∧
      Posted (hcState (hcCmd 4 1023 0 act 0 0 0 0) x) 255 (hcCmd 4 1023 0 act 0 0 0 0)) ∧
    (∀ c x, (hcState c x).context 1023 = x) ∧
    ((hcContext .configured .off true).state = .configured ∧ (hcContext .configured .off true).hind.mode = .off) ∧
    (hcContext .active .record true).hind.mode = .record ∧ (hcContext .active .verify true).hind.mode = .verify ∧
    (hcContext .active .off true).state ≠ .configured ∧ (hcContext .active .off false).hcAllow = false ∧
    (∃ p ∈ (hcContext .configured .off true).hind.ring, (hcContext .configured .off true).hind.head ≤ p.1) ∧
    (128 ≤ 128 ∧ 256 ≤ (hcContext .configured .off true).hind.tail) ∧
    (∀ c x, (hcState c x).spanPlaced 0x1000 0x1000 = true ∧ ∀ p ∈ (hcState c x).groups, p.2.stopAsked = false) :=
  ⟨fun _ _ => ⟨⟨⟨rfl, rfl⟩, by show 255 < 256; decide, rfl, rfl⟩, ⟨⟨rfl, rfl⟩, by show 255 < 256; decide, rfl, rfl⟩,
    ⟨⟨rfl, rfl⟩, by show 255 < 256; decide, rfl, rfl⟩⟩, fun _ _ => rfl, ⟨rfl, rfl⟩, rfl, rfl, by decide, rfl, ⟨(128, closedChunk), by
      simp [hcContext], by decide⟩, by decide, fun _ _ => ⟨rfl, fun p hp => by cases hp with
      | head => rfl
      | tail _ h => cases h⟩⟩

/-! ### Administration -/

/-- The small machine with a command of context 1023, its launch queues and the entry (0, 1023) of a peer set at 0x40000. -/
def adminState (c : List W8) (st : ContextState) (qs : Table LaunchQueue) : State :=
  { ringState c st with
    queues := qs
    memory := { Memory.zero with bytes := benchBytes ++ [(0x40002, 0xFF), (0x40003, 3)] } }
def ownQueue (head tail : W64) : LaunchQueue :=
  { LaunchQueue.empty with
    owner := 1023
    lq := 15
    state := .idle
    head := head
    tail := tail }
def otherQueues : Table LaunchQueue := (List.range 256).map (fun n => (n, { LaunchQueue.empty with owner := 7, state := .idle }))

/-- Every command of the administration is posted in the state built with it, whatever the queues and the context. -/
theorem posted_admin (c : List W8) (st : ContextState) (qs : Table LaunchQueue) : Posted (adminState c st qs) 255 c :=
  ⟨⟨rfl, rfl⟩, by show 255 < 256; decide, rfl, rfl⟩

/-- 05 R105, R112: Assign of LQ 15 in mode 1 with 2^16 slots takes queue 0. -/
theorem test_assign :
    (match exec .assign (adminState (ringCommand 0x10 15 1023 (1 + 256 * 16) 0x4000 0) .active []) with
      | .next u => (u.queues.map (fun p => (p.1, p.2.lq, p.2.device)), u.queues.map (fun p => (p.2.logLen, p.2.qbase.toNat)), u.ringHead)
      | _ => ([], [], 0)) = ([(0, 15, true)], [(16, 0x4000)], 256) := by decide +kernel

/-- An access of the context 1023 on its way. -/
def adminAccess : Access :=
  { gid := 0, slot := 0, ctx := 1023, core := 0, party := 0, kind := .load, va := 0, pa := 0, key := 1, bytes := 4, data := [], compare := [], dest := 4
    signed := false, ord := .relaxed, scope := .clu, la := 0, reads := [], writes := [], view := 0, before := none }
def adminFault : PageFault := { pageFault with ctx := 1023, fid := some 9 }

/-- For Administration: contexts of every state its cases name, no free queue and a free one, an LQ taken and not, an empty queue and one with a
record, peer sets that hold and that do not hold this device, a live gang, spans with and without accesses, a fault, an error queue's bounds, and
areas for a report. -/
theorem witness_Administration :
    (∀ c st qs, Posted (adminState c st qs) 255 c ∧ ((adminState c st qs).context 1023).state = st) ∧ ContextState.active.Holds ∧
    (adminState [] .active [(3, ownQueue 4 4)]).queueAt 1023 15 = some 3 ∧ (adminState [] .active otherQueues).queueAt 1023 15 = none ∧
    (adminState [] .active otherQueues).freeQueue = none ∧ (adminState [] .active []).freeQueue = some 0 ∧
    ((adminState [] .active [(3, ownQueue 4 4)]).queue 3).head = ((adminState [] .active [(3, ownQueue 4 4)]).queue 3).tail ∧
    ((adminState [] .active [(3, ownQueue 4 5)]).queue 3).head ≠ ((adminState [] .active [(3, ownQueue 4 5)]).queue 3).tail ∧
    (let c := ringCommand 0x20 34 1023 1 0x40000 0; let s := adminState c .active []
     s.firmReads 0x40000 8 = true ∧ s.peersOk c (s.physRead 0x40000 8) = true ∧ (∀ k ∈ s.kernels, k.2.ctx = 1023 → k.2.state.ended = true ∨ k.2.desc.gangDevs = 1) ∧
     ¬ContextState.allocated.Holds) ∧
    (let c := ringCommand 0x20 16 1023 1 0x40040 0; let s := adminState c .active []
     s.firmReads 0x40040 8 = true ∧ s.peersOk c (s.physRead 0x40040 8) = false) ∧
    (let kn : Kernel := { benchKernel with ctx := 1023, desc := { benchKernel.desc with gangDevs := 2 } }
     let s : State := { adminState [] .active [] with kernels := [(0, kn)] }
     ∃ k ∈ s.kernels, k.2.ctx = 1023 ∧ k.2.state.ended = false ∧ k.2.desc.gangDevs ≠ 1) ∧
    (let s : State := { adminState [] .active [] with accesses := [(1, adminAccess)] }
     (∃ p ∈ s.accesses, p.2.ctx = 1023) ∧ (∀ p ∈ (adminState [] .active []).accesses, p.2.ctx ≠ 1023) ∧
       ∀ p ∈ (adminState [] .active []).groups, p.2.guarded = none) ∧
    (let s : State := { adminState [] .active [] with faults := [(2, adminFault)] }
     s.commands = [] ∧ s.faults.find? (fun p => p.2.ctx == 1023 && p.2.fid == some 9) = some (2, adminFault) ∧
     s.faults.find? (fun p => p.2.ctx == 1023 && p.2.fid == some 8) = none ∧ (s.hind 1023).mode = .off) ∧
    (let q := ((adminState [] .active []).context 1023).errors; ((adminState [] .active []).context 1023).everConfigured = true ∧ q.head ≤ 0 ∧ 0 ≤ q.tail ∧ q.tail < 1) ∧
    (let s := adminState (ringCommand 0x70 0 0 0 0x80000 50176) .active []
     0x80000 % 64 = 0 ∧ 49999 < 50176 ∧ s.spanPlaced 0x80000 50176 = true ∧ s.firmReads 0x80000 32 = true) := by
  refine ⟨fun c st qs => ⟨posted_admin c st qs, rfl⟩, by unfold ContextState.Holds; decide, ?_, ?_, ?_, ?_, ?_, ?_, ?_, ?_, ?_, ?_, ?_, ?_, ?_⟩
  case refine_7 => unfold ContextState.Holds; decide +kernel
  all_goals decide +kernel

/-- An item that waits for the fault which Resolve ends. -/
theorem witness_Resolve_items :
    let x : Item := { benchItem with wait := .fault 1023 0x200 0x200000 2 }
    x.wait = .fault 1023 adminFault.page 0x200000 2 ∧ 2 < 3 ∧ x.unread = false := by decide +kernel

/-! ### Gangs of several devices -/

/-- A context with a peer set of two devices, this one with rank 1, whose descriptor at 0x5000 names a gang of two. -/
def peerContext : Context := { benchContext with peers := [(5, 1), (0, 1)] }
def gangKernelOf (rank : Nat) (committed asked : Bool) : Kernel := { benchKernel with gangN := 6, rank := rank, committed := committed, asked := asked }
def gangState (kn : Kernel) (g : Table Gang) : State :=
  { bench 2 solo with
    contexts := [(1, peerContext)]
    kernels := [(0, kn)]
    gangs := g
    memory := { Memory.zero with bytes := Table.put benchBytes 0x5039 2 } }
def reserve : ReserveMsg := { ctx := 1, n := 6, toexp := 20, desc := 0x5000, prio := 3, tag := 0, smask := 0, sval := [], peers := [(5, 1), (0, 1)] }
def benchGang (acked : List Nat) (committed : Bool) : Gang := { ctx := 1, kh := 0, devs := 3, acked := acked, done := [], committed := committed }

/-- 06 R132: RESERVE creates a Queued member of rank 1 with the upper half of the 64 indices. -/
theorem test_gang_reserve :
    (match exec (.gangReserve reserve) (gangState benchKernel []) with
      | .next u => (u.kernel? 1).map (fun k => (k.rank, k.committed, k.next, k.limit))
      | _ => none) = some (1, false, [32], [64]) := by decide +kernel

/-- For GangMessages: an Active context whose descriptor can be read and one that is not Active, gangs with an ACK still missing, with the last one and
committed, no gang and one ended by abort, and members committed, not committed and asking. -/
theorem witness_GangMessages :
    (let s := gangState benchKernel []
     (s.hind 1).mode = .off ∧ (s.context 1).state = .active ∧ (s.context 1).peers.take reserve.peers.length = reserve.peers ∧ s.freeHandle = some 1 ∧
     s.myRank 1 = some 1 ∧ (s.context 2).state ≠ .active ∧ (s.hind 2).mode = .off ∧ (match s.readDescriptor 1 0x5000 with
       | .ok d t => d.gangDevs == 2 && (t.hind 1).mode == .off
       | _ => false) = true) ∧
    (let m : GangMsg := { ctx := 1, rank := 2, n := 6 }
     (∀ g ∈ [benchGang [] false, benchGang [1] false, benchGang [1] true],
       Table.get? (gangState benchKernel [(6, g)]).gangs m.n = some g ∧ g.ctx = m.ctx) ∧
     (0 < 1 ∧ 1 < (benchGang [] false).devs ∧ 1 ≠ m.rank ∧ 1 ∉ (benchGang [] false).acked) ∧
     (∀ r, 0 < r → r < (benchGang [1] false).devs → r = m.rank ∨ r ∈ (benchGang [1] false).acked) ∧
     (∀ g, Table.get? (gangState benchKernel []).gangs m.n = some g → g.ctx ≠ m.ctx)) ∧
    (∀ rank committed asked, (gangState (gangKernelOf rank committed asked) []).gangKernel 1 6 = some 0 ∧
      (gangState (gangKernelOf rank committed asked) []).kernel? 0 = some (gangKernelOf rank committed asked)) ∧
    ((gangKernelOf 1 true false).asked = false ∧ (gangKernelOf 1 true true).asked = true ∧ (gangKernelOf 1 false false).committed = false ∧
      (gangKernelOf 1 true false).rank ≠ 0 ∧ (gangKernelOf 1 true false).gangN ≠ 0) ∧
    (gangState benchKernel []).gangKernel 1 6 = none ∧ 6 ∉ ((gangState benchKernel []).context 1).abortedGangs ∧
    6 ∈ ({ peerContext with abortedGangs := [6] } : Context).abortedGangs := by
  refine ⟨?_, ⟨?_, by decide, ?_, ?_⟩, fun _ _ _ => ⟨rfl, rfl⟩, by decide +kernel, rfl, by decide +kernel, by simp⟩
  · decide +kernel
  · decide +kernel
  · intro r h1 h2
    have : r < 3 := h2
    have : r = 1 ∨ r = 2 := by omega
    rcases this with rfl | rfl
    · right; simp [benchGang]
    · left; rfl
  · intro g h; exact absurd h (by simp [gangState, Table.get?])

/-! ### The management window, power and telemetry -/

/-- The small machine with the Zhevport Up, contexts Torn down, and a near store. -/
def windowState : State :=
  { adminState [] .active [] with
    contexts := []
    ringSlots := []
    dev := { (adminState [] .active []).dev with
      nearcfg := 0x924
      frHead := 4
      frTail := 9 } }

/-- 22 R464: a write of PLIMIT below 1500 is discarded and counted, and one of 1500 is taken. -/
theorem test_window_plimit :
    (match exec (.mgmtWindowWrite 0x05A [0xDB, 5]) windowState, exec (.mgmtWindowWrite 0x05A [0xDC, 5]) windowState with
      | .next u, .next v => (u.dev.plimit, u.dev.rejwr.toNat, v.dev.plimit, v.dev.rejwr.toNat)
      | _, _ => (0, 0, 0, 0)) = (4500, 1, 1500, 0) := by decide +kernel

/-- For DeviceWindow: the Zhevport Up and not, NEARCFG values that hold and do not, heads within and outside, a pool address and one below it, a field's
limits, a slot, a line of HBM4, and a package above and below its limit. -/
theorem witness_DeviceWindow :
    State.reset.zhevport ≠ .up ∧ windowState.zhevport = .up ∧
    ((∀ p ∈ windowState.contexts, p.2.state = .tornDown) ∧ (0x124 : W16).toNat < 2 ^ 12 ∧ ∀ b, b < 4 → (0x124 : W16).toNat / 8 ^ b % 8 ≤ 4) ∧
    ¬((∀ p ∈ windowState.contexts, p.2.state = .tornDown) ∧ (5 : W16).toNat < 2 ^ 12 ∧ ∀ b, b < 4 → (5 : W16).toNat / 8 ^ b % 8 ≤ 4) ∧
    (windowState.dev.frHead ≤ (9 : W64).toNat ∧ (9 : W64).toNat ≤ windowState.dev.frTail ∧ windowState.dev.frTail < (10 : W64).toNat ∧
      (3 : W64).toNat < windowState.dev.frHead) ∧
    (windowState.dev.poolBase ≤ 0x1FFFF ∧ 0x1FFFF + 1 ≤ windowState.dev.poolBase + windowState.dev.poolSize ∧ 0xFFFF < windowState.dev.poolBase) ∧
    (windowState.ringTail ≤ 511 ∧ 511 ≤ windowState.ringHead + 256 ∧ windowState.ringHead + 256 < 512 ∧ 255 < windowState.ringTail) ∧
    (∀ f ∈ windowFields, f.1 = 0x050 ∨ f.1 = 0x054 ∨ (f.2.2.1 15 = true ∨ f.2.2.1 1500 = true) ∧ f.2.2.1 0 = false) ∧
    ((0x00C, 4) ∉ writableFields ∧ 0x00C < 0x1000) ∧ (Table.read (List.replicate 32 (0 : W8)) windowState.ringSlots 255).length = 32 ∧
    windowState.target? (128 * 0x17FFFFFFF) = some .hbm ∧ windowState.devErrors.tail - windowState.devErrors.head < 256 ∧
    (match exec (.powerPeriod 3 4500001) windowState, exec (.powerPeriod 3 4500000) windowState with
      | .next u, .next v => decide (1000 * windowState.dev.plimit < u.telemetry.power.sum) && decide (v.telemetry.power.sum ≤ 1000 * windowState.dev.plimit)
      | _, _ => false) = true := by
  refine ⟨by decide +kernel, rfl, ⟨by decide +kernel, by decide, by decide⟩, fun h => absurd (h.2.2 0 (by decide)) (by decide), by decide +kernel, by decide +kernel, by decide +kernel, ?_, ?_, ?_, ?_, ?_, ?_⟩
  all_goals decide +kernel

/-! ### Ports -/

/-- The small machine with port 3 in a state. -/
def portState (c : List W8) (p : Port) : State := { adminState c .configured [] with ports := [(3, p)] }
def benchPort (st : PortState) (role : Nat) (reqs : Table PortRequest) : Port :=
  { Port.cold with
    state := st
    role := role
    ctx := if role = 1 then 1023 else 0
    winSize := 0x40000000
    capacity := 0x10000000
    requests := reqs }

theorem posted_port (c : List W8) (p : Port) : Posted (portState c p) 255 c := ⟨⟨rfl, rfl⟩, by show 255 < 256; decide, rfl, rfl⟩

/-- 17 R379: PortCfg sets a Down port, and is refused of one that is Up. -/
theorem test_portcfg :
    (match exec .portcfg (portState (ringCommand 0x41 1 1023 (3 + 256 * 24) 0 0x40000000) Port.cold),
        exec .portcfg (portState (ringCommand 0x41 1 1023 (3 + 256 * 24) 0 0x40000000) (benchPort .up 2 [])) with
      | .next u, .next v => ((u.port 3).role, (u.port 3).winSize, (v.port 3).role, (v.ringSlots.map (fun p => p.2.getD 0x18 0)))
      | _, _ => (0, 0, 0, [])) = (1, 0x40000000, 2, [4]) := by decide +kernel

/-- For Ports, its first part: ports in every state, with and without requests, and the Zhevport training and isolated. -/
theorem witness_Ports_states :
    (∀ c st role reqs, Posted (portState c (benchPort st role reqs)) 255 c ∧ (portState c (benchPort st role reqs)).port 3 = benchPort st role reqs) ∧
    ((portState [] Port.cold).port 3).state = .down ∧ (portState [] Port.cold).pending = [] ∧ ((portState [] Port.cold).context 1023).state.Holds ∧
    ¬((portState [] Port.cold).context 1022).state.Holds ∧ (benchPort .up 2 [(4, ⟨0, 7, none⟩)]).requests ≠ [] ∧
    (Table.get? (benchPort .up 2 [(4, ⟨0, 7, none⟩)]).requests 4).isSome = true ∧ (benchPort .up 2 []).disabling = false ∧ 4092 % 4 = 0 ∧ 4092 < 4096 ∧
    State.reset.zhevport = .training ∧ ({ State.reset with zhevFails := 7 } : State).zhevFails = 7 ∧ State.reset.zhevFails ≠ 7 ∧
    ({ State.reset with zhevport := .isolated } : State).zhevport = .isolated ∧
    (∀ reqs ∈ [[], [(4, ⟨0, 7, none⟩)]], ((portState [] (benchPort .up 2 reqs)).writeBackWindow 3).port 3 = benchPort .up 2 reqs) := by
  refine ⟨fun c st role reqs => ⟨posted_port c _, rfl⟩, rfl, rfl, ?_, ?_, ?_, rfl, rfl, rfl, by decide, rfl, rfl, by decide, rfl, ?_⟩
  all_goals (try unfold ContextState.Holds)
  all_goals decide +kernel

/-- The half-line of port 3's first line, an answer with poison, and a line with both halves in E. -/
def firstHalf : Nat := (cxlBase + 3 * 0x1000000000000) / 64
def badAnswer : CxlAnswer := { data := List.replicate 64 9, poison := true, go := 2 }
def exclusiveLine (pins : Nat) : L2Line :=
  { key := 0, plain := 4, owner := true, wts := 0, lease := 0, dirty := false, poison := false, pins := pins, data := List.replicate 128 0, half0 := 2, half1 := 2 }
def snoopState (pins : Nat) : State :=
  { portState [] (benchPort .up 1 []) with
    l2 := [(homeSlice (64 * firstHalf), [(firstHalf / 2, exclusiveLine pins)])] }
def hostState (rights : List Region) : State :=
  { portState [] (benchPort .up 1 []) with
    contexts := [(1023, { childContext .configured with parent := 0, regions := rights })]
    memory := { Memory.zero with tags := [(0, 1)] } }
def lowRegion : List Region := [{ base := 0, size := 0x1000, rights := 15 }]

/-- 17 R384: a response with poison fills a half-line of the host and counts. -/
theorem test_cxl_response :
    (match exec (.cxlResponse 3 4 badAnswer) (portState [] (benchPort .up 1 [(4, ⟨0, firstHalf, none⟩)])) with
      | .next u => let l := u.l2At (homeSlice (64 * firstHalf)) (64 * firstHalf)
        (l.half0, l.poison, l.data.getD 63 0, (u.port 3).poisonIn.toNat, (u.port 3).requests.length)
      | _ => (0, false, 0, 0, 9)) = (2, true, 9, 1, 0) := by decide +kernel

/-- For Ports, its second part: a half-line awaited from an expander and from the host, answers with and without the GO that is needed, lines pinned and
not, and host accesses that are granted and that are not. -/
theorem witness_Ports_data :
    (∀ role ∈ [1, 2], let s := portState [] (benchPort .up role [(4, ⟨0, firstHalf, none⟩)])
      (s.port 3).state = .up ∧ (s.port 3).role = role ∧ s.target? (64 * firstHalf) = some (.cxl 3) ∧
      Table.get? (s.port 3).requests 4 = some { kind := 0, half := firstHalf, ctx := none } ∧
      s.keyContext (s.l2At (homeSlice (64 * firstHalf)) (64 * firstHalf)).key = none) ∧
    badAnswer.data.length = 64 ∧ badAnswer.go = 2 ∧ ({ badAnswer with go := 0 } : CxlAnswer).go ≠ 1 ∧
    (∀ pins ∈ [0, 1], Table.get? ((snoopState pins).l2Of (homeSlice (64 * firstHalf))) (firstHalf / 2) = some (exclusiveLine pins) ∧
      ((snoopState pins).port 3).state = .up ∧ ((snoopState pins).port 3).role = 1 ∧ (snoopState pins).target? (64 * firstHalf) = some (.cxl 3)) ∧
    (∀ r ∈ [[], lowRegion], let s := hostState r
      s.target? 0x60 = some .hbm ∧ (s.l2At (homeSlice 0x60) 0x60).tokens = 5 ∧ (s.l2At (homeSlice 0x60) 0x60).pins = 0 ∧ s.memory.poisoned (lineOf 0x60) = false ∧
      s.keyState (s.context 1023).key = 1 ∧ (s.port 3).hosts = [] ∧ (s.port 3).winBase % 64 = 0 ∧ 0x60 % 64 + 32 ≤ 64 ∧ 0x60 + 32 ≤ (s.port 3).winSize) ∧
    (hostState []).granted 1023 0x60 32 true true = false ∧
    (hostState lowRegion).granted 1023 0x60 32 true true = true ∧
    (hostState lowRegion).memory.tag (lineOf 0x60) = (hostState lowRegion).keyTag 1 := by
  refine ⟨?_, by decide +kernel, rfl, by decide, ?_, ?_, ?_, ?_, ?_⟩
  all_goals decide +kernel

/-! ### Fabric links -/

/-- The small machine with link 15 as given. -/
def linkState (c : List W8) (k : Link) : State := { adminState c .active [] with contexts := [], links := [(15, k)] }
def benchLink (st : LinkState) (replay : List Flit) : Link := { Link.cold with state := st, replay := replay, peer := 9, txGood := 256, rxGood := 256 }
theorem posted_link (c : List W8) (k : Link) : Posted (linkState c k) 255 c := ⟨⟨rfl, rfl⟩, by show 255 < 256; decide, rfl, rfl⟩
def zeroHeader : Header := { seq := 0, ack := 0, typ := 0, dst := 0, src := 0, ctx := 0, e2e := 0, vc := 0, nflit := 0, rsv := 0 }

/-- A flit of zeros behind a header, and one whose CRC is wrong. -/
def flitOf (h : Header) (crc : Nat) : List W8 := leBytes 16 h.encode ++ List.replicate 232 0 ++ leBytes 8 crc

/-- 17 R370: the CRC-64 with polynomial 0x42F0E1EBA9EA3693, initial value 0 and no reflection, over "123456789". -/
theorem test_crc64 : crc64 [0x31, 0x32, 0x33, 0x34, 0x35, 0x36, 0x37, 0x38, 0x39] = 0x6C40DF5F0B497347 := by
  have h (c : W64) (b : W8) (bs : List W8) : (b :: bs).foldl (fun crc b => [7, 6, 5, 4, 3, 2, 1, 0].foldl (fun c j => crcBit c (b.getLsbD j)) crc) c =
      bs.foldl (fun crc b => [7, 6, 5, 4, 3, 2, 1, 0].foldl (fun c j => crcBit c (b.getLsbD j)) crc)
        ([7, 6, 5, 4, 3, 2, 1, 0].foldl (fun c j => crcBit c (b.getLsbD j)) c) := rfl
  unfold crc64
  rw [h, show [7, 6, 5, 4, 3, 2, 1, 0].foldl (fun c j => crcBit c ((0x31 : W8).getLsbD j)) 0x0 = 0xE8B768EB18C8B8A2 from by decide +kernel]
  rw [h, show [7, 6, 5, 4, 3, 2, 1, 0].foldl (fun c j => crcBit c ((0x32 : W8).getLsbD j)) 0xE8B768EB18C8B8A2 = 0xEA2D7B6F8056C695 from by decide +kernel]
  rw [h, show [7, 6, 5, 4, 3, 2, 1, 0].foldl (fun c j => crcBit c ((0x33 : W8).getLsbD j)) 0xEA2D7B6F8056C695 = 0xB72FDDCBE416AA20 from by decide +kernel]
  rw [h, show [7, 6, 5, 4, 3, 2, 1, 0].foldl (fun c j => crcBit c ((0x34 : W8).getLsbD j)) 0xB72FDDCBE416AA20 = 0x1E360C1891A60F78 from by decide +kernel]
  rw [h, show [7, 6, 5, 4, 3, 2, 1, 0].foldl (fun c j => crcBit c ((0x35 : W8).getLsbD j)) 0x1E360C1891A60F78 = 0xAF0107D86177F1D5 from by decide +kernel]
  rw [h, show [7, 6, 5, 4, 3, 2, 1, 0].foldl (fun c j => crcBit c ((0x36 : W8).getLsbD j)) 0xAF0107D86177F1D5 = 0x4156683F2F4DCB0F from by decide +kernel]
  rw [h, show [7, 6, 5, 4, 3, 2, 1, 0].foldl (fun c j => crcBit c ((0x37 : W8).getLsbD j)) 0x4156683F2F4DCB0F = 0xEAF811A84B1321E7 from by decide +kernel]
  rw [h, show [7, 6, 5, 4, 3, 2, 1, 0].foldl (fun c j => crcBit c ((0x38 : W8).getLsbD j)) 0xEAF811A84B1321E7 = 0x3732F4B6474A5A2B from by decide +kernel]
  rw [h, show [7, 6, 5, 4, 3, 2, 1, 0].foldl (fun c j => crcBit c ((0x39 : W8).getLsbD j)) 0x3732F4B6474A5A2B = 0x6C40DF5F0B497347 from by decide +kernel]
  rfl

/-- For Links, its first part: links of every state, empty and holding a flit, what training finds, and the edges of the NAK count. -/
theorem witness_Links_states :
    (∀ c k, Posted (linkState c k) 255 c ∧ (linkState c k).link 15 = k ∧ (linkState c k).commands = [] ∧ (linkState c k).gangs = [] ∧
      (linkState c k).joins = []) ∧
    (∀ st r, (benchLink st r).kept = [] ∧ (benchLink st r).backlog = [] ∧ 64 ≤ min 255 (benchLink st r).txLive ∧ min 256 (benchLink st r).rxLive = 256 ∧
      min 63 (benchLink st r).txLive < 64) ∧
    (benchLink .down []).state = .down ∧ (benchLink .isolated []).state = .isolated ∧ (benchLink .training []).replay = [] ∧
    (benchLink .up [⟨0, []⟩]).replay ≠ [] ∧ 9 % 4096 ≠ (linkState [] Link.cold).dev.devid ∧
    4096 % 4096 = (linkState [] Link.cold).dev.devid ∧ ({ Link.cold with naks := 64 } : Link).naks ≤ ({ Link.cold with naks := 64 } : Link).retryMax ∧
    ({ benchLink .down [] with flushing := true } : Link).flushing = true :=
  ⟨fun c k => ⟨posted_link c k, rfl, rfl, rfl, rfl⟩, fun _ _ => ⟨rfl, rfl, by show 64 ≤ 255; decide, rfl, by show 63 < 64; decide⟩, rfl, rfl, rfl, by decide, by decide, rfl, by decide, rfl⟩

theorem crc64_zeros (n : Nat) : crc64 (List.replicate n 0) = 0 := by
  induction n with
  | zero => rfl
  | succ n ih =>
    rw [List.replicate_succ, crc64, List.foldl_cons]
    exact ih

/-- For Links, its second part: the largest header, one that cannot be corrected, a wrong CRC, a flit out of sequence, a reserved TYPE, an idle flit and
a packet for a context that is Torn down. -/
theorem witness_Links_flits :
    (let h : Header := { seq := 4095, ack := 4095, typ := 15, dst := 4095, src := 4095, ctx := 1023, e2e := 65535, vc := 7, nflit := 31, rsv := 2 ^ 34 - 1 }
     checkHeader h.encode = .good h) ∧
    (∀ h ∈ [zeroHeader, { zeroHeader with typ := 3 }, { zeroHeader with typ := 9 }, { zeroHeader with seq := 4095 }],
      (flitOf h 0).length = 256 ∧ checkHeader (leNat ((flitOf h 0).take 16)) = .good h ∧ crc64 (((flitOf h 0).drop 16).take 232) = BitVec.ofNat 64 (leAt (flitOf h 0) 248 8) ∧
      crc64 (((flitOf h 1).drop 16).take 232) ≠ BitVec.ofNat 64 (leAt (flitOf h 1) 248 8)) ∧
    checkHeader (leNat ((3 :: List.replicate 255 (0 : W8)).take 16)) = .bad ∧
    ((linkState [] (benchLink .degraded [])).link 15).flushing = false ∧ ((linkState [] (benchLink .degraded [])).link 15).partialFlits = [] ∧
    ((linkState [] (benchLink .degraded [])).context 0).state = .tornDown ∧ (linkState [] (benchLink .degraded [])).dev.devid = zeroHeader.dst := by
  refine ⟨by decide +kernel, ?_, by decide +kernel, rfl, rfl, rfl, rfl⟩
  have h1 : ∀ h ∈ [zeroHeader, { zeroHeader with typ := 3 }, { zeroHeader with typ := 9 }, { zeroHeader with seq := 4095 }], ∀ c ∈ [0, 1],
      ((flitOf h c).drop 16).take 232 = List.replicate 232 0 ∧ (flitOf h c).length = 256 ∧ checkHeader (leNat ((flitOf h c).take 16)) = .good h ∧
      BitVec.ofNat 64 (leAt (flitOf h c) 248 8) = BitVec.ofNat 64 c := by decide +kernel
  intro h hh
  obtain ⟨a, b, c, d⟩ := h1 h hh 0 (by simp)
  obtain ⟨a', b', c', d'⟩ := h1 h hh 1 (by simp)
  refine ⟨b, c, ?_, ?_⟩
  · rw [a, d, crc64_zeros]; rfl
  · rw [a', d', crc64_zeros]; decide

/-! ### Resets and boot -/

/-- A machine that awaits an image whose MAGIC is right and whose version is 3, with the ROLLBACK fuse at 4. -/
def bootState (rollback : Nat) : State :=
  { linkState [] Link.cold with
    imageArea := [(0, 0x4B), (1, 0x59), (2, 0x41), (3, 0x53), (4, 0x46), (5, 0x4D), (6, 0x52), (7, 0x57), (8, 3)]
    dev := { DeviceBlock.cold with rollback := BitVec.ofNat 32 rollback } }

/-- 22 R457: memory is zero after a cold reset and stays after a warm one. -/
theorem test_resets :
    (match exec .coldreset (linkState (ringCommand 0x80 0 0 0 0 0) Link.cold), exec .warmreset (linkState (ringCommand 0x81 0 0 0 0 0) Link.cold) with
      | .next u, .next v => (u.memory.bytes.length, u.dev.resetCause, v.memory.bytes == (linkState [] Link.cold).memory.bytes, v.dev.resetCause)
      | _, _ => (1, 9, false, 9)) = (0, 1, true, 2) := by decide +kernel

/-- For Resets: both commands posted with and without one before them, a machine that is quiet and stopped, an image of another MAGIC and an old one; that
an image which passes starts is for the signature's check, which the model leaves open (witness_Resets_boot shows the checks before it). -/
theorem witness_Resets :
    (∀ c, Posted (linkState c Link.cold) 255 c ∧ (∀ p ∈ (linkState c Link.cold).pending, ∀ n, p.2.asker ≠ .ring n) ∧ (linkState c Link.cold).accesses = [] ∧
      (linkState c Link.cold).commands = [] ∧ (linkState c Link.cold).l2 = [] ∧ (linkState c Link.cold).stopped = false) ∧
    (∃ p ∈ ({ linkState [] Link.cold with pending := [(3, savePending 0)] } : State).pending, ∃ n, p.2.asker = .ring n) ∧
    ({ linkState [] Link.cold with stopped := true } : State).stopped = true :=
  ⟨fun c => ⟨posted_link c _, fun p hp => absurd hp (by simp [linkState, adminState, ringState, bench, State.reset]), rfl, rfl, rfl, rfl⟩,
    ⟨(3, savePending 0), by simp, 255, rfl⟩, rfl⟩
theorem witness_Resets_boot :
    (bootState 4).zhevport = .up ∧ (bootState 4).dev.bootStat ≠ 2 ∧
    (let head := (upTo 128).map (fun j => Table.read 0 (bootState 4).imageArea j)
     leAt head 0 8 = 0x57524D465341594B ∧ leAt head 8 4 < (bootState 4).dev.rollback.toNat ∧ ¬(leAt head 8 4 < (bootState 3).dev.rollback.toNat) ∧
     (bootState 4).checkImage head = 4) ∧
    leAt (List.replicate 128 0) 0 8 ≠ 0x57524D465341594B ∧ (bootState 4).checkImage (List.replicate 128 0) = 5 := by
  refine ⟨rfl, by decide, ?_, ?_, ?_⟩
  all_goals decide +kernel

/-- An image of version 3 with a body of 4096 bytes and a key of zeros. -/
def passState : State :=
  { bootState 3 with
    imageArea := [(0, 0x4B), (1, 0x59), (2, 0x41), (3, 0x53), (4, 0x46), (5, 0x4D), (6, 0x52), (7, 0x57), (8, 3), (12, 3), (17, 16)] }

/-- Where its key is the device's and its signature verifies, which the model leaves open, the image passes. -/
theorem witness_Resets_pass (h1 : shake256 32 (List.replicate 64 0) = Config.firmwareKeyHash)
    (h2 : Config.verifies (List.replicate 64 0) (passState.imageBytes 0 4224) (passState.imageBytes 4224 29792) = true) :
    passState.checkImage ((upTo 128).map (fun j => Table.read 0 passState.imageArea j)) = 2 := by
  have hl : (upTo 128).map (fun j => Table.read 0 passState.imageArea j) =
      [0x4B, 0x59, 0x41, 0x53, 0x46, 0x4D, 0x52, 0x57, 3, 0, 0, 0, 3, 0, 0, 0, 0, 16] ++ List.replicate 110 0 := by decide +kernel
  rw [hl]
  have hb : leAt ([0x4B, 0x59, 0x41, 0x53, 0x46, 0x4D, 0x52, 0x57, 3, 0, 0, 0, 3, 0, 0, 0, 0, 16] ++ List.replicate 110 0 : List W8) 0x10 8 = 4096 := by decide +kernel
  have hk : (([0x4B, 0x59, 0x41, 0x53, 0x46, 0x4D, 0x52, 0x57, 3, 0, 0, 0, 3, 0, 0, 0, 0, 16] ++ List.replicate 110 0 : List W8).drop 0x18).take 64 =
      List.replicate 64 0 := by decide +kernel
  unfold State.checkImage
  simp only [hb, hk]
  rw [if_neg (by decide +kernel), if_neg (by decide +kernel), if_neg (by decide +kernel), if_neg (by rw [h1]; simp), if_neg (by decide +kernel),
    if_neg (by rw [h2]; decide)]

/-! ### Coherence, issue and the step -/

/-- Two items at two addresses, each holding shfld. -/
def splitGroup : Group := benchGroup [(0, benchItem), (1, { zeroItem with pc := 0x1008 })]
def crossWords : List Host.Cell := [(0x1001, 0x0A), (0x1002, 0x84), (0x1003, 0x61), (0x1005, 5), (0x1006, 2), (0x1007, 2), (0x1009, 0x0A), (0x100A, 0x84), (0x100B, 0x61),
  (0x100D, 5), (0x100E, 2), (0x100F, 2)]
def splitState : State := { bench 2 splitGroup with memory := { Memory.zero with bytes := crossWords } }

/-- The home of line 0 and another slice of it; a move of one token between them. -/
def awaySlice : Nat := ((slicesOf 0).filter (fun q => q != homeSlice 0)).headD 0
def benchMove : TokenMove := { line := 0, src := homeSlice 0, dst := awaySlice, plain := 1, owner := false }
def wantState : State := { bench 2 solo with accesses := [(1, { adminAccess with ctx := 1, core := 256 })] }

/-- 13 R284: one token goes to the other slice, and three stay. -/
theorem test_token_transfer :
    (match exec (.tokenTransfer benchMove) (bench 2 solo) with
      | .next u => ((u.l2At awaySlice 0).plain, (u.l2At (homeSlice 0) 0).plain)
      | _ => (0, 0)) = (1, 3) := by decide +kernel

def leadItem (leading : Bool) : Item :=
  { benchItem with
    wait := .lavio 16 5 1
    windows := if leading then [{ reads := [], writes := [], left := 1, seen := 0, access := some 1 }] else [] }

def leadGroup (leading : Bool) : Group := benchGroup [(0, leadItem leading)]

/-- For CoherenceAndIssue: a move that may and one that may not happen, a slice that wants a line and one that does not, grants with and without a
request, an encoding that fails, an item that waits for leaders open and done, items to be starved and set aside, and windows that are and are not
deadlocked. -/
theorem witness_CoherenceAndIssue :
    (let s := bench 2 solo; s.mayMove benchMove = true ∧ s.plainTokens 0 = 4 ∧ s.mayMove { benchMove with plain := 5 } = false) ∧
    (wantState.wantsLine awaySlice 0 = true ∧ wantState.neededMove awaySlice 0 true ≠ none ∧ (awaySlice, 0, true) ∉ wantState.persistent ∧
      (awaySlice, 0, true) ∉ wantState.active ∧ (bench 2 solo).wantsLine awaySlice 0 = false) ∧
    (let s : State := { wantState with persistent := [(64, 0, true), (0, 0, true)] }
     s.persistent = [(64, 0, true)] ++ (0, 0, true) :: [] ∧ 0 / 64 = s.grantAt ∧ (∀ p ∈ [((64 : Nat), (0 : Nat), true)], p.1 / 64 ≠ s.grantAt) ∧
      ∀ p ∈ wantState.persistent, p.1 / 64 ≠ wantState.grantAt) ∧
    (Plain (bench 2 solo) solo ∧ (bench 2 solo).handlerOf solo.kh = some 0x2800 ∧
      ∀ p ∈ solo.items, (bench 2 solo).wave.slots.contains p.1 = true → p.2.windows = [] ∧ p.2.inHandler = false) ∧
    (∀ b, (bench 2 (leadGroup b)).group? 0 = some (leadGroup b) ∧ (leadGroup b).Clear ∧ Table.get? (leadGroup b).items 0 = some (leadItem b) ∧
      (leadItem b).wait = .lavio 16 5 1 ∧ (leadItem b).leading = b ∧ (bench 2 (leadGroup b)).handlerOf (leadGroup b).kh = some 0x2800 ∧
      (leadItem b).inHandler = false) ∧
    ((bench 2 solo).item? 0 0 = some benchItem ∧ benchItem.starved = false ∧ (bench 2 solo).fullyReady 0 solo 0 benchItem = true ∧
      (bench 2 (leadGroup true)).fullyReady 0 (leadGroup true) 0 (leadItem true) = false) ∧
    (splitState.group? 0 = some splitGroup ∧ splitGroup.Clear ∧ splitState.handlerOf splitGroup.kh = some 0x2800 ∧ splitState.deadlocked 0 0 = true ∧
      splitState.deadlocked 0 1 = false ∧ ∀ p ∈ splitGroup.items, p.1 < 2048 ∧ p.2.windows = [] ∧ p.2.inHandler = false) := by
  refine ⟨?_, ?_, ?_, ⟨plain_solo 2, ?_, ?_⟩, ?_, ?_, ⟨?_, ?_, ?_, ?_, ?_, ?_⟩⟩
  case refine_6 =>
    intro b
    cases b <;> (unfold Group.Clear; decide +kernel)
  case refine_9 => unfold Group.Clear; decide
  all_goals decide +kernel

/-- iadd, nop and a three-word form as the host's word, and the state that fetches them. -/
def hostWord (w : Nat) : State := State.reset.withFetchWord 96 w

/-- 03 R56 to R58: the step after State.reset runs the word that stands at the host's address: iadd goes on by 4 bytes, nop by 8. -/
theorem test_step_runs_word :
    (match step (hostWord 0x00840A18), step (hostWord 0x0703000061000000) with
      | .next t, .next u => ((t.item? 0 0).map (fun it => it.pc), (u.item? 0 0).map (fun it => it.pc))
      | _, _ => (none, none)) = (some 0x1004, some 0x1008) := by decide +kernel

/-- The state of the host's word once the input is gone. -/
def hostReady (w : Nat) : State := { hostWord w with inputs := [] }

/-- For StepRunsDecoded: a word that can be read, of one, two and three words, a lone ready item at a form and at a cross-lane form, an encoding that
fails, an event, and states whose contexts keep no log. -/
theorem witness_StepRunsDecoded :
    (let s := hostReady 0x00840A18
     (match s.translate 0 1 0x1000 2 with
       | .ok a => a == 0x1000
       | _ => false) = true ∧ s.granted 1 0x1000 4 false false = true ∧ s.memory.poisoned (lineOf 0x1000) = false ∧
     s.target? 0x1000 = some .hbm ∧ (s.kernel? wordGroup.kh).map (fun kn => Table.get? kn.oldWords 0x400) = some none) ∧
    (wordsOf 0x00840A18 = 1 ∧ wordsOf 0x61000000 = 2 ∧ wordsOf 0x80000000 = 3) ∧
    (match (hostReady 0x00840A18).fetchWord wordGroup 0x1000, (hostReady 0x0703000061000000).fetchWord wordGroup 0x1004 with
      | .word x, .word y => x == 0x00840A18 && y == 0x07030000
      | _, _ => false) = true ∧
    (∀ w ∈ [0x00840A18, 0x0703000061000000, 0x0202050161840A00, 0xC0000000], let r := hostReady w
      (hostWord w).inputs = [.issue 0] ∧ r.rotation 0 = [(0, wordGroup)] ∧ r.group? 0 = some wordGroup ∧ r.readyItems 0 wordGroup 2 = [(0, wordItem)] ∧
      r.readyItems 0 wordGroup 1 = [] ∧ wordItem.starved = false ∧ wordItem.owesFetch = false ∧ r.converged 0 wordGroup wordItem.pc 0 = true ∧
      wordGroup.items.filter (fun p => p.1 / 32 == 0) = [(0, wordItem)] ∧ r.loggedFault wordGroup wordItem = none ∧ r.nextShared wordGroup = none) ∧
    (∀ i, wordItem.mayIssue (.ok i) = true) ∧ wordItem.windows = [] ∧
    (match (hostReady 0x0703000061000000).fetch wordGroup wordItem.pc, (hostReady 0x0202050161840A00).fetch wordGroup wordItem.pc,
        (hostReady 0xC0000000).fetch wordGroup wordItem.pc with
      | .words (.ok (.nop _)) 2, .words (.ok i) 2, .words (.error _) _ => isCrossLane i
      | _, _, _ => false) = true ∧
    toRaw .powerOn = none ∧ (∀ p ∈ (hostWord 0).groups, ((hostWord 0).hind p.2.ctx).mode = .off) := by
  refine ⟨?_, ?_, ?_, ?_, fun _ => rfl, rfl, ?_, ?_, ?_⟩
  all_goals decide +kernel

/-- For StepKeepsMemory: the invariant holds after reset with a word to run, and the step goes on. -/
theorem witness_StepKeepsMemory : (hostWord 0x00840A18).Inv ∧ (match step (hostWord 0x00840A18) with
    | .next _ => true
    | _ => false) = true := by
  unfold State.Inv
  decide +kernel

end Sys2Proof.Machine
end

section
/-! PROOFS. The trap that floating flags choose (02 R46, 10 R200). -/

namespace Sys2Proof.Machine

/-- A mapped search as the chain of conditions that it tries. -/
theorem find?_cons_map {α β : Type} (p : α → Bool) (f : α → β) (a : α) (l : List α) :
    ((a :: l).find? p).map f = if p a then some (f a) else (l.find? p).map f := by
  rw [List.find?_cons]
  cases p a <;> rfl

/-- The chain of R46 is the search for the first enabled and raised cause in `trapOrder`. -/
theorem fpTrap_eq_find (fpctl : W32) (es : List ElemFlags) :
    fpTrap fpctl es = (trapOrder.find? (fun p => fpctl.getLsbD p.2.1 && es.any p.2.2)).map (fun p =>
      { cause := p.1, addr := 0, info := BitVec.ofNat 32 ((raisedFlags es).toNat + 32 * es.findIdx p.2.2) }) := by
  simp only [trapOrder, find?_cons_map]
  rfl

/-- TRAPINFO of R200 fits the register: five flags, and above them the place of one of two elements. -/
theorem trapInfo_toNat (es : List ElemFlags) (hlen : es.length ≤ 2) (q : ElemFlags → Bool) (hq : es.any q = true) :
    (BitVec.ofNat 32 ((raisedFlags es).toNat + 32 * es.findIdx q)).toNat = (raisedFlags es).toNat + 32 * es.findIdx q := by
  have hflags : (raisedFlags es).toNat < 32 := (raisedFlags es).isLt
  have hidx : es.findIdx q < es.length := List.findIdx_lt_length.mpr (by simpa using hq)
  rw [BitVec.toNat_ofNat]
  omega

/-- Settles O10: the trap is found by `trapOrder`'s search, and its TRAPINFO does not wrap. -/
theorem floatTrapChoice : Obligations.FloatTrapChoice := by
  unfold Obligations.FloatTrapChoice
  intro fpctl es hlen
  constructor
  · intro c b q hfind
    have hcond : (fpctl.getLsbD b && es.any q) = true := List.find?_some (p := fun p : Nat × Nat × (ElemFlags → Bool) => fpctl.getLsbD p.2.1 && es.any p.2.2) hfind
    have hany : es.any q = true := (Bool.and_eq_true_iff.mp hcond).2
    exact ⟨_, by rw [fpTrap_eq_find, hfind, Option.map_some], rfl, rfl, trapInfo_toNat es hlen q hany⟩
  · intro hfind
    rw [fpTrap_eq_find, hfind, Option.map_none]

end Sys2Proof.Machine
end

section
/-! PROOFS. Exact dyadic values and Pick (02 R40, R41): Pick delivers one of the two integers around its operand, chosen by the mode. -/

namespace Sys2Proof.Machine

/-! ### Values of dyadic numbers -/

/-- The value in units of 2^g. -/
def Dy.units (x : Dy) (g : Int) : ℚ := x.val / (2 : ℚ) ^ g

theorem Dy.units_mul (x : Dy) (g : Int) : x.units g * (2 : ℚ) ^ g = x.val :=
  div_mul_cancel₀ _ (zpow_ne_zero _ two_ne_zero)

theorem Dy.at_eq_units (x : Dy) {g : Int} (h : g ≤ x.e) : (x.at g : ℚ) = x.units g := by
  have hpow : ((pow2 (x.e - g).toNat : Int) : ℚ) = (2 : ℚ) ^ (x.e - g) := by
    rw [pow2, Int.cast_natCast, Nat.cast_pow, Nat.cast_ofNat, ← zpow_natCast, Int.toNat_of_nonneg (by omega)]
  rw [Dy.at, Int.cast_mul, hpow, zpow_sub₀ two_ne_zero, Dy.units, Dy.val, mul_div_assoc]

theorem Dy.units_of_lt (x : Dy) {g : Int} (h : x.e < g) : x.units g = (x.m : ℚ) / ((2 ^ (g - x.e).toNat : Nat) : ℚ) := by
  have hpow : (2 : ℚ) ^ g = (2 : ℚ) ^ x.e * (2 : ℚ) ^ (g - x.e).toNat := by
    rw [← zpow_natCast, Int.toNat_of_nonneg (by omega), ← zpow_add₀ two_ne_zero, add_sub_cancel]
  have hne : (2 : ℚ) ^ x.e ≠ 0 := zpow_ne_zero _ two_ne_zero
  rw [Dy.units, Dy.val, hpow, Nat.cast_pow, Nat.cast_ofNat, mul_comm (x.m : ℚ), mul_div_mul_left _ _ hne]

theorem Dy.lt_iff (x y : Dy) : x.lt y = true ↔ x.val < y.val := by
  have hpos : (0 : ℚ) < (2 : ℚ) ^ min x.e y.e := by positivity
  rw [Dy.lt, decide_eq_true_eq, ← Int.cast_lt (R := ℚ), x.at_eq_units (min_le_left _ _), y.at_eq_units (min_le_right _ _),
    Dy.units, Dy.units, div_lt_div_iff_of_pos_right hpos]

/-! ### Pick -/

/-- How a fraction of the unit compares with none and with one half, as `Dy.floorAt` codes it. -/
def remainderClass (t : ℚ) : Nat := if t = 0 then 0 else if 2 * t < 1 then 1 else if 2 * t = 1 then 2 else 3

/-- The class of r / d by the integers that `Dy.floorAt` compares. -/
theorem remainderClass_div (r : Int) (d : Nat) (hd : 0 < d) :
    remainderClass ((r : ℚ) / d) = if r = 0 then 0 else if 2 * r < d then 1 else if 2 * r = d then 2 else 3 := by
  have hd' : (0 : ℚ) < d := Nat.cast_pos.mpr hd
  have hzero : (r : ℚ) / d = 0 ↔ r = 0 := by rw [div_eq_zero_iff, or_iff_left hd'.ne', Int.cast_eq_zero]
  have hlt : 2 * ((r : ℚ) / d) < 1 ↔ 2 * r < d := by rw [← mul_div_assoc, div_lt_one hd']; norm_cast
  have heq : 2 * ((r : ℚ) / d) = 1 ↔ 2 * r = d := by rw [← mul_div_assoc, div_eq_one_iff_eq hd'.ne']; norm_cast
  simp only [remainderClass, hzero, hlt, heq]

theorem Dy.floorAt_eq (x : Dy) (g : Int) : x.floorAt g = (⌊x.units g⌋, remainderClass (Int.fract (x.units g))) := by
  unfold Dy.floorAt
  split
  case isTrue h => simp [← x.at_eq_units h, remainderClass]
  case isFalse h =>
    rw [x.units_of_lt (not_le.mp h), Rat.floor_intCast_div_natCast, Int.fract_div_intCast_eq_div_intCast_mod,
      remainderClass_div _ _ (by positivity)]
    rfl

/-- Does the mode take the upper of the two neighbours of q, which is no integer (R40)? -/
def roundsUp (q : ℚ) : Nat → Bool
  | 0 => decide (1 < 2 * Int.fract q) || (decide (2 * Int.fract q = 1) && ⌊q⌋ % 2 != 0)
  | 1 => decide (⌊q⌋ < 0)
  | 2 => false
  | _ => true

theorem pick_of_fract_zero (x : Dy) (g : Int) (rm : Nat) (h : Int.fract (x.units g) = 0) : pick x g rm = (⌊x.units g⌋, false) := by
  simp [pick, x.floorAt_eq, remainderClass, h]

theorem pick_of_fract_ne_zero (x : Dy) (g : Int) (rm : Nat) (h : Int.fract (x.units g) ≠ 0) :
    pick x g rm = (if roundsUp (x.units g) rm then ⌊x.units g⌋ + 1 else ⌊x.units g⌋, true) := by
  have hclass : remainderClass (Int.fract (x.units g)) ≠ 0 := by
    rw [remainderClass, if_neg h]
    split_ifs <;> decide
  have habove : (remainderClass (Int.fract (x.units g)) == 3) = decide (1 < 2 * Int.fract (x.units g)) := by
    unfold remainderClass
    split_ifs <;> grind
  have htie : (remainderClass (Int.fract (x.units g)) == 2) = decide (2 * Int.fract (x.units g) = 1) := by
    unfold remainderClass
    split_ifs <;> grind
  simp only [pick, x.floorAt_eq, if_neg hclass, habove, htie]
  match rm with
  | 0 | 1 | 2 | _ + 3 => rfl

/-- What R40 asks of the integer n that stands for q: a neighbour of q, and the one that the mode names. -/
structure Rounded (rm : Nat) (q : ℚ) (n : Int) : Prop where
  neighbour : n = ⌊q⌋ ∨ n = ⌈q⌉
  nearest : rm = 0 → |(n : ℚ) - q| ≤ 1 / 2 ∧ (|(n : ℚ) - q| = 1 / 2 → n % 2 = 0)
  towardZero : rm = 1 → n = if 0 ≤ q then ⌊q⌋ else ⌈q⌉
  down : rm = 2 → n = ⌊q⌋
  up : rm = 3 → n = ⌈q⌉

theorem rounded_intCast (rm : Nat) (n : Int) : Rounded rm n n where
  neighbour := .inl (Int.floor_intCast n).symm
  nearest := by simp
  towardZero := by simp
  down := by simp
  up := by simp

/-- The distance of q from its neighbour that RNE takes; a tie leaves an even neighbour. -/
theorem rne_nearest {q : ℚ} (n : Int) (hn : n = if roundsUp q 0 then ⌊q⌋ + 1 else ⌊q⌋) :
    |(n : ℚ) - q| ≤ 1 / 2 ∧ (|(n : ℚ) - q| = 1 / 2 → n % 2 = 0) := by
  have hq : q = ⌊q⌋ + Int.fract q := (Int.floor_add_fract q).symm
  have hpos : 0 ≤ Int.fract q := Int.fract_nonneg q
  have hlt : Int.fract q < 1 := Int.fract_lt_one q
  by_cases hup : roundsUp q 0 = true
  · have hdist : |(n : ℚ) - q| = 1 - Int.fract q := by
      rw [hn, if_pos hup, Int.cast_add, Int.cast_one, abs_of_nonneg] <;> linarith
    simp only [roundsUp, Bool.or_eq_true, Bool.and_eq_true, decide_eq_true_eq, bne_iff_ne] at hup
    rw [hdist]
    rcases hup with habove | ⟨htie, hodd⟩
    · exact ⟨by linarith, fun _ => by linarith⟩
    · exact ⟨by linarith, fun _ => by simp [hn, roundsUp, htie]; omega⟩
  · have hdist : |(n : ℚ) - q| = Int.fract q := by
      rw [hn, if_neg hup, abs_sub_comm, abs_of_nonneg] <;> linarith
    simp only [roundsUp, Bool.or_eq_true, Bool.and_eq_true, decide_eq_true_eq, bne_iff_ne, not_or, not_and, not_not, not_lt] at hup
    rw [hdist]
    exact ⟨by linarith, fun hhalf => by rw [hn, if_neg (by simpa [roundsUp] using hup)]; exact hup.2 (by linarith)⟩

theorem pick_rounded (x : Dy) (g : Int) (rm : Nat) (hrm : rm < 4) : Rounded rm (x.units g) (pick x g rm).1 := by
  by_cases h : Int.fract (x.units g) = 0
  · obtain ⟨k, hk⟩ := Int.fract_eq_zero_iff.mp h
    rw [pick_of_fract_zero x g rm h, ← hk, Int.floor_intCast]
    exact rounded_intCast rm k
  · have hceil := (Int.ceil_eq_floor_add_one_iff_notMem _).mpr (Int.fract_ne_zero_iff.mp h)
    rw [pick_of_fract_ne_zero x g rm h, ← hceil]
    refine ⟨?_, ?_, ?_, ?_, ?_⟩
    · split
      · exact .inr rfl
      · exact .inl rfl
    · rintro rfl
      exact rne_nearest _ (by rw [hceil])
    · rintro rfl
      simp only [roundsUp, decide_eq_true_eq]
      rw [← ite_not]
      congr 1
      rw [not_lt, Int.floor_nonneg]
    · rintro rfl
      rfl
    · rintro rfl
      rfl

theorem pick_changed_iff (x : Dy) (g : Int) (rm : Nat) : (pick x g rm).2 = true ↔ ((pick x g rm).1 : ℚ) ≠ x.units g := by
  by_cases h : Int.fract (x.units g) = 0
  · obtain ⟨k, hk⟩ := Int.fract_eq_zero_iff.mp h
    simp [pick_of_fract_zero x g rm h, ← hk]
  · have hne : ∀ n : Int, (n : ℚ) ≠ x.units g := fun n hn => Int.fract_ne_zero_iff.mp h ⟨n, hn⟩
    exact iff_of_true (by rw [pick_of_fract_ne_zero x g rm h]) (hne _)

/-! ### What the neighbours give -/

section
variable {rm : Nat} {q : ℚ} {n : Int}

theorem Rounded.within (h : Rounded rm q n) : |(n : ℚ) - q| < 1 := by
  rw [abs_sub_lt_iff]
  rcases h.neighbour with rfl | rfl
  · constructor <;> linarith [Int.floor_le q, Int.lt_floor_add_one q]
  · constructor <;> linarith [Int.le_ceil q, Int.ceil_lt_add_one q]

theorem Rounded.nonneg (h : Rounded rm q n) (hq : 0 ≤ q) : 0 ≤ n := by
  rcases h.neighbour with rfl | rfl
  · exact Int.floor_nonneg.mpr hq
  · exact Int.ceil_nonneg hq

theorem Rounded.nonpos (h : Rounded rm q n) (hq : q ≤ 0) : n ≤ 0 := by
  rcases h.neighbour with rfl | rfl
  · exact Int.floor_nonpos hq
  · exact Int.ceil_le.mpr (by exact_mod_cast hq)

/-- Rounding crosses no integer: an integer bound of the magnitude bounds the result. -/
theorem Rounded.natAbs_le (h : Rounded rm q n) {k : Nat} (hq : |q| ≤ k) : n.natAbs ≤ k := by
  have hlt : (n.natAbs : ℚ) < k + 1 := by
    rw [Nat.cast_natAbs, Int.cast_abs]
    linarith [h.within, abs_sub_abs_le_abs_sub (n : ℚ) q]
  exact Nat.lt_succ_iff.mp (by exact_mod_cast hlt)

theorem Rounded.le_natAbs (h : Rounded rm q n) {k : Nat} (hq : k ≤ |q|) : k ≤ n.natAbs := by
  have hlt : (k : ℚ) < n.natAbs + 1 := by
    rw [Nat.cast_natAbs, Int.cast_abs]
    linarith [h.within, abs_sub_abs_le_abs_sub q (n : ℚ), abs_sub_comm q (n : ℚ)]
  exact Nat.lt_succ_iff.mp (by exact_mod_cast hlt)

theorem Rounded.truncates (h : Rounded 1 q n) : |(n : ℚ)| ≤ |q| ∧ 0 ≤ (n : ℚ) * q := by
  have hn := h.towardZero rfl
  rcases le_or_gt 0 q with hq | hq
  · have hn0 : (0 : ℚ) ≤ n := by exact_mod_cast h.nonneg hq
    rw [if_pos hq] at hn
    rw [abs_of_nonneg hn0, abs_of_nonneg hq]
    exact ⟨hn ▸ Int.floor_le q, mul_nonneg hn0 hq⟩
  · have hn0 : (n : ℚ) ≤ 0 := by exact_mod_cast h.nonpos hq.le
    rw [if_neg hq.not_ge] at hn
    rw [abs_of_nonpos hn0, abs_of_neg hq]
    exact ⟨neg_le_neg (hn ▸ Int.le_ceil q), mul_nonneg_of_nonpos_of_nonpos hn0 hq.le⟩

end
end Sys2Proof.Machine
end

section
/-! PROOFS. Encodings (02 R32, R36): the fields of an encoding, what they decode to, and that encoding and decoding undo each other. -/

namespace Sys2Proof.Machine

/-! ### Fields -/

/-- The encoding with these fields. -/
def Fmt.pack (F : Fmt) (s : Bool) (ex frac : Nat) : Nat := (if s then 2 ^ F.signBit else 0) + ex * 2 ^ F.f + frac

def Fmt.signField (F : Fmt) (x : Nat) : Bool := decide (x / 2 ^ F.signBit % 2 = 1)
def Fmt.exField (F : Fmt) (x : Nat) : Nat := x / 2 ^ F.f % 2 ^ F.w
def Fmt.fracField (F : Fmt) (x : Nat) : Nat := x % 2 ^ F.f

theorem Fmt.fracField_lt (F : Fmt) (x : Nat) : F.fracField x < 2 ^ F.f := Nat.mod_lt _ (by positivity)

theorem Fmt.pow_signBit (F : Fmt) : 2 ^ F.signBit = 2 ^ F.w * 2 ^ F.f := pow_add 2 F.w F.f

theorem Fmt.pow_p (F : Fmt) : 2 ^ F.p = 2 * 2 ^ F.f := pow_succ' 2 F.f

theorem Fmt.pack_fields (F : Fmt) {x : Nat} (hx : x < 2 ^ (F.signBit + 1)) : F.pack (F.signField x) (F.exField x) (F.fracField x) = x := by
  have hsign : x / 2 ^ F.signBit < 2 := Nat.div_lt_of_lt_mul (by rwa [pow_succ] at hx)
  have htop : (if F.signField x then 2 ^ F.signBit else 0) = 2 ^ F.signBit * (x / 2 ^ F.signBit) := by
    unfold Fmt.signField
    interval_cases x / 2 ^ F.signBit <;> simp
  have hex : x / 2 ^ F.f % 2 ^ F.w * 2 ^ F.f + x % 2 ^ F.f = x % 2 ^ F.signBit := by
    rw [F.pow_signBit, mul_comm (2 ^ F.w), Nat.mod_mul]
    ring
  rw [Fmt.pack, htop, Fmt.exField, Fmt.fracField, add_assoc, hex, Nat.div_add_mod]

section
variable (F : Fmt) (s : Bool) {ex frac : Nat} (hex : ex < 2 ^ F.w) (hfrac : frac < 2 ^ F.f)
include hex hfrac

theorem Fmt.lowField_lt : ex * 2 ^ F.f + frac < 2 ^ F.signBit := by
  rw [F.pow_signBit]
  calc ex * 2 ^ F.f + frac < (ex + 1) * 2 ^ F.f := by rw [Nat.succ_mul]; omega
    _ ≤ 2 ^ F.w * 2 ^ F.f := Nat.mul_le_mul_right _ hex

theorem Fmt.pack_mod_signBit : F.pack s ex frac % 2 ^ F.signBit = ex * 2 ^ F.f + frac := by
  have hlow := F.lowField_lt hex hfrac
  cases s <;> simp [Fmt.pack, add_assoc, Nat.mod_eq_of_lt hlow]

theorem Fmt.signField_pack : F.signField (F.pack s ex frac) = s := by
  have hlow := F.lowField_lt hex hfrac
  have hpos : 0 < 2 ^ F.signBit := by positivity
  cases s <;> simp [Fmt.signField, Fmt.pack, add_assoc, Nat.div_eq_of_lt hlow, Nat.add_div_left _ hpos]

theorem Fmt.fracField_pack : F.fracField (F.pack s ex frac) = frac := by
  have hdvd : 2 ^ F.f ∣ 2 ^ F.signBit := ⟨2 ^ F.w, by rw [F.pow_signBit, mul_comm]⟩
  rw [Fmt.fracField, ← Nat.mod_mod_of_dvd _ hdvd, F.pack_mod_signBit s hex hfrac, Nat.mul_add_mod_of_lt hfrac]

theorem Fmt.exField_pack : F.exField (F.pack s ex frac) = ex := by
  have hpos : 0 < 2 ^ F.f := by positivity
  rw [Fmt.exField, ← Nat.mod_mul_right_div_self, mul_comm, ← F.pow_signBit, F.pack_mod_signBit s hex hfrac, mul_comm,
    Nat.mul_add_div hpos, Nat.div_eq_of_lt hfrac, add_zero]

end

/-! ### Decoding -/

/-- What decoding to a finite number says of the fields. -/
theorem Fmt.decode_eq_fin {F : Fmt} {x : Nat} {s : Bool} {m : Nat} {e : Int} (h : F.decode x = .fin s m e) :
    s = F.signField x ∧
    (F.exField x = 0 ∧ m = F.fracField x ∧ e = F.emin - F.f ∨
      F.exField x ≠ 0 ∧ m = 2 ^ F.f + F.fracField x ∧ e = (F.exField x : Int) - F.bias - F.f) := by
  simp only [Fmt.decode] at h
  split_ifs at h with _ _ _ hsub
  · cases h
    exact ⟨rfl, .inl ⟨hsub, rfl, rfl⟩⟩
  · cases h
    exact ⟨rfl, .inr ⟨hsub, rfl, rfl⟩⟩

theorem Fmt.decode_pack (F : Fmt) (s : Bool) {ex frac : Nat} (hex : ex < 2 ^ F.w) (hfrac : frac < 2 ^ F.f)
    (hinf : ex = 2 ^ F.w - 1 → F.inf = false) (hnan : F.inf = false → F.nan ≠ some (ex * 2 ^ F.f + frac)) :
    F.decode (F.pack s ex frac) = if ex = 0 then .fin s frac (F.emin - F.f) else .fin s (2 ^ F.f + frac) ((ex : Int) - F.bias - F.f) := by
  have hs := F.signField_pack s hex hfrac
  have he := F.exField_pack s hex hfrac
  have hf := F.fracField_pack s hex hfrac
  unfold Fmt.signField at hs
  unfold Fmt.exField at he
  unfold Fmt.fracField at hf
  simp only [Fmt.decode, F.pack_mod_signBit s hex hfrac, hs, he, hf]
  rw [if_neg (fun h => by simp [hinf h.1] at h), if_neg (fun h => hnan h.2 h.1)]

/-! ### Encoding -/

theorem Fmt.encode_subnormal (F : Fmt) (s : Bool) {n : Nat} (g : Int) (hn : n < 2 ^ F.f) : F.encode s n g = F.pack s 0 n := by
  simp [Fmt.encode, Fmt.pack, hn]

theorem Fmt.encode_normal (F : Fmt) (s : Bool) {n ex : Nat} {g : Int} (hlo : 2 ^ F.f ≤ n) (hhi : n < 2 ^ F.p) (hex : g + F.f + F.bias = ex) :
    F.encode s n g = F.pack s ex (n - 2 ^ F.f) := by
  simp [Fmt.encode, Fmt.pack, hlo.not_gt, hhi.ne, hex]

/-- A significand that has rounded up to 2^P is the least one of the next exponent. -/
theorem Fmt.encode_carry (F : Fmt) (s : Bool) (g : Int) : F.encode s (2 ^ F.p) g = F.encode s (2 ^ F.f) (g + 1) := by
  have hpos : 0 < 2 ^ F.f := by positivity
  have hp := F.pow_p
  simp [Fmt.encode, hp]

/-- The encoding of what a finite encoding decodes to is that encoding. -/
theorem Fmt.encode_decode {F : Fmt} {x : Nat} (hx : x < 2 ^ (F.signBit + 1)) {s : Bool} {m : Nat} {e : Int}
    (h : F.decode x = .fin s m e) : F.encode s m e = x := by
  have hfrac := F.fracField_lt x
  obtain ⟨rfl, ⟨hex, rfl, rfl⟩ | ⟨-, rfl, rfl⟩⟩ := Fmt.decode_eq_fin h
  · rw [F.encode_subnormal _ _ hfrac, ← hex, F.pack_fields hx]
  · rw [F.encode_normal _ (ex := F.exField x) (Nat.le_add_right _ _) (by rw [F.pow_p]; omega) (by ring), Nat.add_sub_cancel_left,
      F.pack_fields hx]

/-- Settles O12: encoding undoes decoding field by field, and Pick is one of the two neighbours, the one that the mode names. -/
theorem pickAndEncode : Obligations.PickAndEncode := by
  unfold Obligations.PickAndEncode
  refine ⟨fun F _ x hx s m e h => Fmt.encode_decode hx h, fun x g rm hrm => ?_⟩
  have h : Rounded rm (x.units g) (pick x g rm).1 := pick_rounded x g rm hrm
  refine ⟨pick_changed_iff x g rm, h.within, h.nearest, ?_, ?_, ?_⟩ <;> rintro rfl
  · exact h.truncates
  · exact h.down rfl ▸ Int.floor_le (x.units g)
  · exact h.up rfl ▸ Int.le_ceil (x.units g)

/-! ### The nine formats -/

/-- How the largest finite magnitude of R32's table stands to the top exponent and to the infinities and NaNs of R36. -/
structure Fmt.Regular (F : Fmt) : Prop where
  w_pos : 1 ≤ F.w
  emin_le : F.emin ≤ F.emax
  top : F.emax + F.bias + (if F.inf then 2 else 1) = (2 ^ F.w : Nat)
  normal : 2 ^ F.f ≤ F.maxSig
  maxSig_lt : F.maxSig < 2 ^ F.p
  nan : F.inf = false → F.nan = none ∨ F.nan = some (2 ^ F.signBit - 1) ∧ F.maxSig + 1 < 2 ^ F.p

theorem regular_of_mem_allFormats {F : Fmt} (h : F ∈ allFormats) : F.Regular := by
  fin_cases h <;> constructor <;> decide +kernel

/-- The largest finite magnitude M (R32). -/
def Fmt.largest (F : Fmt) : Dy := ⟨F.maxSig, F.emax - F.f⟩

/-- A normal significand's exponent is at most that of M, and in M's binade the significand is at most M's. -/
theorem Fmt.Regular.exponent_le {F : Fmt} (hF : F.Regular) {n : Nat} {g : Int} (hn : 2 ^ F.f ≤ n) (h : (n : ℚ) * 2 ^ g ≤ F.largest.val) :
    g ≤ F.emax - F.f ∧ (g = F.emax - F.f → n ≤ F.maxSig) := by
  have hpos : (0 : ℚ) < 2 ^ (F.emax - F.f) := by positivity
  rw [Dy.val, Fmt.largest, Int.cast_natCast] at h
  refine ⟨?_, ?_⟩
  · by_contra! hlt
    have hpow : (2 : ℚ) * 2 ^ (F.emax - F.f) ≤ 2 ^ g := by
      rw [← zpow_one_add₀ two_ne_zero]
      exact zpow_le_zpow_right₀ one_le_two (by omega)
    have hsig : ((F.maxSig : Nat) : ℚ) < n * 2 := by
      have := hF.maxSig_lt
      rw [F.pow_p] at this
      exact_mod_cast (by omega : F.maxSig < n * 2)
    have : (F.maxSig : ℚ) * 2 ^ (F.emax - F.f) < n * 2 ^ g :=
      calc (F.maxSig : ℚ) * 2 ^ (F.emax - F.f) < n * 2 * 2 ^ (F.emax - F.f) := by gcongr
        _ = n * (2 * 2 ^ (F.emax - F.f)) := by ring
        _ ≤ n * 2 ^ g := by gcongr
    exact this.not_ge h
  · rintro rfl
    exact_mod_cast le_of_mul_le_mul_right h hpos

theorem Fmt.Regular.two_le_pow_w {F : Fmt} (hF : F.Regular) : 2 ≤ 2 ^ F.w := Nat.le_self_pow (Nat.one_le_iff_ne_zero.mp hF.w_pos) 2

theorem Fmt.Regular.decode_encode_subnormal {F : Fmt} (hF : F.Regular) (s : Bool) {n : Nat} (g : Int) (hn : n < 2 ^ F.f) :
    F.decode (F.encode s n g) = .fin s n (F.emin - F.f) := by
  have hw : 2 ≤ 2 ^ F.w := hF.two_le_pow_w
  rw [F.encode_subnormal s g hn, F.decode_pack s (by omega) hn (by omega), if_pos rfl]
  intro hinf hnan
  rcases hF.nan hinf with hnone | ⟨hsome, -⟩
  · simp [hnone] at hnan
  · have hlow : 2 * 2 ^ F.f ≤ 2 ^ F.signBit := by rw [F.pow_signBit]; gcongr
    rw [hsome, Option.some_inj] at hnan
    omega

theorem Fmt.Regular.decode_encode_normal {F : Fmt} (hF : F.Regular) (s : Bool) {n : Nat} {g : Int} (hlo : 2 ^ F.f ≤ n) (hhi : n < 2 ^ F.p)
    (hg : F.emin - F.f ≤ g) (hmax : (n : ℚ) * 2 ^ g ≤ F.largest.val) : F.decode (F.encode s n g) = .fin s n g := by
  obtain ⟨hge, hsig⟩ := hF.exponent_le hlo hmax
  have htop := hF.top
  have hp := F.pow_p
  have hemin : F.emin = 1 - (F.bias : Int) := rfl
  obtain ⟨ex, hex⟩ : ∃ ex : Nat, g + F.f + F.bias = ex := Int.eq_ofNat_of_zero_le (by omega)
  have hlt : ex < 2 ^ F.w := by split at htop <;> omega
  rw [F.encode_normal s hlo hhi hex, F.decode_pack s hlt (by omega), if_neg (by omega)]
  · congr 1 <;> omega
  · intro h
    by_contra hinf
    rw [if_pos (by simpa using hinf)] at htop
    omega
  · intro hinf hnan
    rcases hF.nan hinf with hnone | ⟨hsome, hmaxSig⟩
    · simp [hnone] at hnan
    · rw [hsome, Option.some_inj] at hnan
      rw [if_neg (by simp [hinf])] at htop
      have hpos : 0 < 2 ^ F.f := by positivity
      have hsucc : (ex + 1) * 2 ^ F.f = ex * 2 ^ F.f + 2 ^ F.f := Nat.succ_mul _ _
      have hexTop : ex + 1 = 2 ^ F.w := by
        by_contra hne
        have hlow := F.lowField_lt (ex := ex + 1) (frac := n - 2 ^ F.f) (by omega) (by omega)
        omega
      have hsign : 2 ^ F.signBit = ex * 2 ^ F.f + 2 ^ F.f := by rw [F.pow_signBit, ← hexTop, hsucc]
      have hle := hsig (by omega)
      omega

/-- A value of the grid up to M decodes from its encoding. -/
theorem Fmt.Regular.decode_encode_value {F : Fmt} (hF : F.Regular) (s : Bool) {n : Nat} {g : Int} (hn : n ≤ 2 ^ F.p)
    (hg : F.emin - F.f ≤ g) (hsub : n < 2 ^ F.f → g = F.emin - F.f) (hmax : (n : ℚ) * 2 ^ g ≤ F.largest.val) :
    ∃ (m : Nat) (e : Int), F.decode (F.encode s n g) = .fin s m e ∧ (m : ℚ) * 2 ^ e = n * 2 ^ g := by
  have hp := F.pow_p
  have hpos : 0 < 2 ^ F.f := by positivity
  rcases lt_or_ge n (2 ^ F.f) with hlt | hge
  · exact ⟨_, _, hF.decode_encode_subnormal s g hlt, by rw [hsub hlt]⟩
  rcases hn.lt_or_eq with hlt | rfl
  · exact ⟨_, _, hF.decode_encode_normal s hge hlt hg hmax, rfl⟩
  · have hval : ((2 ^ F.p : Nat) : ℚ) * 2 ^ g = ((2 ^ F.f : Nat) : ℚ) * 2 ^ (g + 1) := by
      rw [hp, Nat.cast_mul, zpow_add_one₀ two_ne_zero]
      push_cast
      ring
    rw [F.encode_carry, hval]
    exact ⟨_, _, hF.decode_encode_normal s le_rfl (by omega) (by omega) (hval ▸ hmax), rfl⟩

end Sys2Proof.Machine
end

section
/-! PROOFS. Round (02 R41 to R43): its result is on the grid of the operand's binade, and no number of the format lies between the neighbours
that Pick chooses from. -/

namespace Sys2Proof.Machine

/-! ### Values of results -/

theorem Dy.val_abs (y : Dy) : y.abs.val = |y.val| := by
  have hpos : (0 : ℚ) ≤ 2 ^ y.e := by positivity
  rw [Dy.val, Dy.val, abs_mul, abs_of_nonneg hpos]
  simp [Dy.abs]

theorem Flt.val_fin (s : Bool) (m : Nat) (e : Int) : (Flt.fin s m e).val = unit s * ((m : ℚ) * 2 ^ e) := by
  cases s <;> simp [Flt.val, Flt.dy, Dy.val, unit]

theorem Flt.finite_iff {v : Flt} : v.Finite ↔ ∃ s m e, v = .fin s m e := by
  cases v <;> simp [Flt.Finite]

/-! ### The binade of the operand -/

theorem Dy.log2_bounds (x : Dy) (hx : x.m ≠ 0) : (2 : ℚ) ^ x.log2 ≤ |x.val| ∧ |x.val| < (2 : ℚ) ^ (x.log2 + 1) := by
  have hpos : (0 : ℚ) < 2 ^ x.e := by positivity
  have hm : x.m.natAbs ≠ 0 := Int.natAbs_ne_zero.mpr hx
  have hval : |x.val| = (x.m.natAbs : ℚ) * 2 ^ x.e := by rw [← Dy.val_abs]; rfl
  have hlo : ((2 ^ x.m.natAbs.log2 : Nat) : ℚ) ≤ x.m.natAbs := by exact_mod_cast Nat.log2_self_le hm
  have hhi : (x.m.natAbs : ℚ) < ((2 ^ (x.m.natAbs.log2 + 1) : Nat) : ℚ) := by exact_mod_cast Nat.lt_log2_self
  rw [hval, Dy.log2, add_right_comm, zpow_add₀ two_ne_zero, zpow_add₀ two_ne_zero]
  push_cast at hlo hhi
  exact ⟨by exact_mod_cast mul_le_mul_of_nonneg_right hlo hpos.le, by exact_mod_cast mul_lt_mul_of_pos_right hhi hpos⟩

theorem Dy.abs_units (x : Dy) (g : Int) : |x.units g| = |x.val| / 2 ^ g := by
  have hpos : (0 : ℚ) < 2 ^ g := by positivity
  rw [Dy.units, abs_div, abs_of_pos hpos]

theorem Dy.abs_units_lt {x : Dy} (hx : x.m ≠ 0) {g : Int} {k : Nat} (h : x.log2 < g + k) : |x.units g| < ((2 ^ k : Nat) : ℚ) := by
  have hpos : (0 : ℚ) < 2 ^ g := by positivity
  have hpow : (2 : ℚ) ^ (x.log2 + 1) ≤ 2 ^ (g + k) := zpow_le_zpow_right₀ one_le_two (by omega)
  rw [zpow_add₀ two_ne_zero g, zpow_natCast] at hpow
  rw [x.abs_units, div_lt_iff₀ hpos]
  push_cast
  linarith [(x.log2_bounds hx).2]

theorem Dy.le_abs_units {x : Dy} (hx : x.m ≠ 0) {g : Int} {k : Nat} (h : g + k ≤ x.log2) : ((2 ^ k : Nat) : ℚ) ≤ |x.units g| := by
  have hpos : (0 : ℚ) < 2 ^ g := by positivity
  have hpow : (2 : ℚ) ^ (g + k) ≤ 2 ^ x.log2 := zpow_le_zpow_right₀ one_le_two h
  rw [zpow_add₀ two_ne_zero, zpow_natCast] at hpow
  rw [x.abs_units, le_div_iff₀ hpos]
  push_cast
  linarith [(x.log2_bounds hx).1]

/-- The exponent of the grid on which Round places its result (R41). -/
def Fmt.grid (F : Fmt) (x : Dy) : Int := max x.log2 F.emin - F.f

/-! ### The numbers of a format -/

/-- The values that P bits of significand give from the least exponent on, without a greatest. -/
def Fmt.Spans (F : Fmt) (v : ℚ) : Prop := ∃ k e : Int, |k| < (2 ^ F.p : Nat) ∧ F.emin - F.f ≤ e ∧ v = k * 2 ^ e

theorem Fmt.Spans.neg {F : Fmt} {v : ℚ} (h : F.Spans v) : F.Spans (-v) := by
  obtain ⟨k, e, hk, he, rfl⟩ := h
  exact ⟨-k, e, by rwa [abs_neg], he, by push_cast; ring⟩

theorem Fmt.spans_decode (F : Fmt) {y : Nat} (h : (F.decode y).Finite) : F.Spans (F.decode y).val := by
  obtain ⟨s, m, e, hfin⟩ := Flt.finite_iff.mp h
  have hfrac := F.fracField_lt y
  have hp := F.pow_p
  have hemin : F.emin = 1 - (F.bias : Int) := rfl
  have hm : m < 2 ^ F.p ∧ F.emin - F.f ≤ e := by
    obtain ⟨-, ⟨-, rfl, rfl⟩ | ⟨hex, rfl, rfl⟩⟩ := Fmt.decode_eq_fin hfin
    · exact ⟨by omega, le_rfl⟩
    · exact ⟨by omega, by omega⟩
  refine ⟨if s then -m else m, e, ?_, hm.2, ?_⟩
  · cases s <;> simpa using by exact_mod_cast hm.1
  · rw [hfin, Flt.val_fin]
    cases s <;> simp [unit]

/-- No number of the format lies strictly between the neighbours of the operand on the grid. -/
theorem Fmt.Spans.outside_neighbours {F : Fmt} {v : ℚ} (hv : F.Spans v) {x : Dy} (hx : x.m ≠ 0) :
    v / 2 ^ F.grid x ≤ ⌊x.units (F.grid x)⌋ ∨ (⌈x.units (F.grid x)⌉ : ℚ) ≤ v / 2 ^ F.grid x := by
  obtain ⟨k, e, hk, he, rfl⟩ := hv
  generalize hg : F.grid x = g
  rw [mul_div_assoc, ← zpow_sub₀ two_ne_zero]
  rcases le_or_gt g e with hge | hlt
  · have hint : (k : ℚ) * 2 ^ (e - g) = ((k * 2 ^ (e - g).toNat : Int) : ℚ) := by
      rw [Int.cast_mul, Int.cast_pow, Int.cast_ofNat, ← zpow_natCast, Int.toNat_of_nonneg (by omega)]
    rw [hint, Int.cast_le, Int.cast_le, Int.le_floor, Int.ceil_le]
    exact le_total _ _
  · have hlog : g + F.f ≤ x.log2 := by
      rw [Fmt.grid] at hg
      omega
    have hbinade := Dy.le_abs_units hx hlog
    have hsmall : |(k : ℚ) * 2 ^ (e - g)| < ((2 ^ F.f : Nat) : ℚ) := by
      have hpow : (2 : ℚ) ^ (e - g) ≤ 2 ^ (-1 : Int) := zpow_le_zpow_right₀ one_le_two (by omega)
      have hpos : (0 : ℚ) < 2 ^ (e - g) := by positivity
      have hk' : |(k : ℚ)| < 2 * (2 ^ F.f : Nat) := by
        rw [F.pow_p] at hk
        exact_mod_cast hk
      calc |(k : ℚ) * 2 ^ (e - g)| = |(k : ℚ)| * 2 ^ (e - g) := by rw [abs_mul, abs_of_pos hpos]
        _ < 2 * (2 ^ F.f : Nat) * 2 ^ (e - g) := by gcongr
        _ ≤ 2 * (2 ^ F.f : Nat) * 2 ^ (-1 : Int) := by gcongr
        _ = ((2 ^ F.f : Nat) : ℚ) := by push_cast; ring
    rcases le_abs.mp hbinade with hq | hq
    · refine .inl ((le_abs_self _).trans (hsmall.le.trans ?_))
      exact_mod_cast Int.le_floor.mpr hq
    · refine .inr (le_trans ?_ ((neg_le_neg hsmall.le).trans (neg_abs_le _)))
      exact_mod_cast Int.ceil_le.mpr (by push_cast at hq ⊢; linarith)

/-! ### The best of a format -/

/-- What the mode asks of a result `v` for the value `x` beside another number `y` of the format. -/
def BestOf (rm : Nat) (v x y : ℚ) : Prop :=
  (rm = 0 → |v - x| ≤ |y - x|) ∧
  (rm = 1 → |v| ≤ |x| ∧ 0 ≤ v * x ∧ (|y| ≤ |x| → |y| ≤ |v|)) ∧
  (rm = 2 → v ≤ x ∧ (y ≤ x → y ≤ v)) ∧
  (rm = 3 → x ≤ v ∧ (x ≤ y → v ≤ y))

theorem BestOf.self (rm : Nat) (x y : ℚ) : BestOf rm x x y := by
  refine ⟨?_, ?_, ?_, ?_⟩ <;> intro
  · simp
  · exact ⟨le_rfl, mul_self_nonneg x, id⟩
  · exact ⟨le_rfl, id⟩
  · exact ⟨le_rfl, id⟩

theorem BestOf.mul {rm : Nat} {v x y c : ℚ} (h : BestOf rm v x y) (hc : 0 < c) : BestOf rm (v * c) (x * c) (y * c) := by
  obtain ⟨hne, htz, hdn, hup⟩ := h
  have habs : ∀ a : ℚ, |a * c| = |a| * c := fun a => by rw [abs_mul, abs_of_pos hc]
  simp only [BestOf, ← sub_mul, habs, mul_le_mul_iff_left₀ hc]
  refine ⟨hne, fun h1 => ?_, hdn, hup⟩
  obtain ⟨hle, hsign, hmax⟩ := htz h1
  exact ⟨hle, by nlinarith [mul_nonneg hsign (mul_self_nonneg c)], hmax⟩

theorem Rounded.nearest_le {q : ℚ} {n : Int} (h : Rounded 0 q n) (k : Int) : |(n : ℚ) - q| ≤ |(k : ℚ) - q| := by
  obtain ⟨hhalf, -⟩ := h.nearest rfl
  by_cases hk : k = n
  · rw [hk]
  · have hone : (1 : ℚ) ≤ |(k : ℚ) - n| := by exact_mod_cast Int.one_le_abs (sub_ne_zero.mpr hk)
    linarith [abs_sub_le (k : ℚ) q n, abs_sub_comm q (n : ℚ)]

section
variable {q u : ℚ} (hu : u ≤ ⌊q⌋ ∨ (⌈q⌉ : ℚ) ≤ u)
include hu

theorem le_floor_of_outside (h : u ≤ q) : u ≤ ⌊q⌋ := by
  rcases hu with hle | hge
  · exact hle
  · have hint : ⌈q⌉ ≤ ⌊q⌋ := Int.le_floor.mpr (hge.trans h)
    exact (h.trans (Int.le_ceil q)).trans (Int.cast_le.mpr hint)

theorem ceil_le_of_outside (h : q ≤ u) : (⌈q⌉ : ℚ) ≤ u := by
  rcases hu with hle | hge
  · have hint : ⌈q⌉ ≤ ⌊q⌋ := Int.ceil_le.mpr (h.trans hle)
    exact (Int.cast_le.mpr hint).trans ((Int.floor_le q).trans h)
  · exact hge

theorem Rounded.dist_le {n : Int} (h : Rounded 0 q n) : |(n : ℚ) - q| ≤ |u - q| := by
  rcases hu with hle | hge
  · have hfl := Int.floor_le q
    calc |(n : ℚ) - q| ≤ |(⌊q⌋ : ℚ) - q| := h.nearest_le _
      _ ≤ |u - q| := by rw [abs_of_nonpos (by linarith), abs_of_nonpos (by linarith)]; linarith
  · have hcl := Int.le_ceil q
    calc |(n : ℚ) - q| ≤ |(⌈q⌉ : ℚ) - q| := h.nearest_le _
      _ ≤ |u - q| := by rw [abs_of_nonneg (by linarith), abs_of_nonneg (by linarith)]; linarith

theorem Rounded.abs_le_of_outside (hneg : -u ≤ ⌊q⌋ ∨ (⌈q⌉ : ℚ) ≤ -u) {n : Int} (h : Rounded 1 q n) (habs : |u| ≤ |q|) : |u| ≤ |(n : ℚ)| := by
  have hn := h.towardZero rfl
  rcases le_or_gt 0 q with hq | hq
  · rw [if_pos hq] at hn
    rw [abs_of_nonneg hq, abs_le'] at habs
    exact (abs_le'.mpr ⟨le_floor_of_outside hu habs.1, le_floor_of_outside hneg habs.2⟩).trans (hn ▸ le_abs_self _)
  · rw [if_neg hq.not_ge] at hn
    rw [abs_of_neg hq, abs_le'] at habs
    rw [hn]
    have hpos := ceil_le_of_outside hu (by linarith)
    have hneg := ceil_le_of_outside hneg (by linarith)
    exact (abs_le'.mpr ⟨by linarith, by linarith⟩).trans (neg_le_abs _)

end

/-- A rounded integer is the best beside every number outside the neighbours. -/
theorem Rounded.bestOf {rm : Nat} {q : ℚ} {n : Int} (h : Rounded rm q n) {u : ℚ} (hu : u ≤ ⌊q⌋ ∨ (⌈q⌉ : ℚ) ≤ u)
    (hneg : -u ≤ ⌊q⌋ ∨ (⌈q⌉ : ℚ) ≤ -u) : BestOf rm n q u := by
  refine ⟨?_, ?_, ?_, ?_⟩ <;> rintro rfl
  · exact h.dist_le hu
  · exact ⟨h.truncates.1, h.truncates.2, h.abs_le_of_outside hu hneg⟩
  · rw [h.down rfl]
    exact ⟨Int.floor_le q, le_floor_of_outside hu⟩
  · rw [h.up rfl]
    exact ⟨Int.le_ceil q, ceil_le_of_outside hu⟩

/-! ### Round -/

theorem Fmt.round_zero (F : Fmt) {x : Dy} (hx : x.m = 0) (rm : Nat) (zs : Bool) : F.round x rm zs false false = .of (F.zero zs) := by
  simp [Fmt.round, hx]

theorem Fmt.encode_zero (F : Fmt) (s : Bool) (g : Int) : F.encode s 0 g = F.zero s := by
  simp [Fmt.encode, Fmt.zero]

/-- The rounding with an unbounded exponent range (R41). -/
def Fmt.unbounded (F : Fmt) (x : Dy) (rm : Nat) : Dy := ⟨(pick x (x.log2 - F.f) rm).1, x.log2 - F.f⟩

/-- Is the result tiny (R43)? -/
def Fmt.tiny (F : Fmt) (x : Dy) (rm : Nat) : Bool := (F.unbounded x rm).abs.lt ⟨1, F.emin⟩

section
variable (F : Fmt) {x : Dy} (hx : x.m ≠ 0) (rm : Nat) (zs : Bool)
include hx

theorem Fmt.round_of_overflow (h : F.largest.lt (F.unbounded x rm).abs = true) :
    F.round x rm zs false false = ⟨F.overflow (decide (x.m < 0)) rm false, fOVF ||| fINX, false⟩ := by
  rw [Fmt.round, if_neg hx]
  exact if_pos h

theorem Fmt.round_of_fits (h : ¬F.largest.lt (F.unbounded x rm).abs = true) :
    F.round x rm zs false false = ⟨F.encode (decide (x.m < 0)) (pick x (F.grid x) rm).1.natAbs (F.grid x),
      (if (pick x (F.grid x) rm).2 then fINX else 0) ||| (if F.tiny x rm && (pick x (F.grid x) rm).2 then fUNF else 0), false⟩ := by
  have hbits (n : Int) (s : Bool) : (if n = 0 then F.zero s else F.encode s n.natAbs (F.grid x)) = F.encode s n.natAbs (F.grid x) := by
    split
    case isTrue hn => rw [hn, Int.natAbs_zero, F.encode_zero]
    case isFalse => rfl
  rw [← hbits, Fmt.round, if_neg hx]
  refine (if_neg h).trans ?_
  simp only [Bool.and_false, Bool.false_eq_true, if_false]
  rfl

/-- Round that raises no OVF stands at most at M before the exponent is bounded, and raises INX where Pick changed the value. -/
theorem Fmt.round_of_no_overflow (hov : (F.round x rm zs false false).flags &&& fOVF = 0) :
    |(F.unbounded x rm).val| ≤ F.largest.val ∧
    (F.round x rm zs false false).bits = F.encode (decide (x.m < 0)) (pick x (F.grid x) rm).1.natAbs (F.grid x) ∧
    ((F.round x rm zs false false).flags &&& fINX ≠ 0 ↔ (pick x (F.grid x) rm).2 = true) := by
  have hfits : ¬F.largest.lt (F.unbounded x rm).abs = true := by
    intro hbig
    rw [F.round_of_overflow hx rm zs hbig] at hov
    exact absurd hov (show ¬(fOVF ||| fINX) &&& fOVF = 0 by decide)
  have hflags : ∀ changed tiny : Bool,
      ((if changed then fINX else 0) ||| (if tiny && changed then fUNF else 0)) &&& fINX ≠ 0 ↔ changed = true := by decide
  rw [F.round_of_fits hx rm zs hfits, ← Dy.val_abs]
  exact ⟨not_lt.mp (mt (Dy.lt_iff _ _).mpr hfits), rfl, hflags _ _⟩

end

/-! ### The result on the grid -/

theorem Fmt.Regular.pow_emin_le {F : Fmt} (hF : F.Regular) : (2 : ℚ) ^ F.emin ≤ F.largest.val := by
  have hsig : ((2 ^ F.f : Nat) : ℚ) ≤ F.maxSig := by exact_mod_cast hF.normal
  calc (2 : ℚ) ^ F.emin ≤ 2 ^ F.emax := zpow_le_zpow_right₀ one_le_two hF.emin_le
    _ = ((2 ^ F.f : Nat) : ℚ) * 2 ^ (F.emax - F.f) := by
      rw [Nat.cast_pow, Nat.cast_ofNat, ← zpow_natCast, ← zpow_add₀ two_ne_zero, add_sub_cancel]
    _ ≤ F.maxSig * 2 ^ (F.emax - F.f) := by gcongr
    _ = F.largest.val := by rw [Dy.val, Fmt.largest, Int.cast_natCast]

section
variable {F : Fmt} {x : Dy} (hx : x.m ≠ 0) {rm : Nat} (hrm : rm < 4)
include hx hrm

/-- The significand of the result has at most P bits, or is 2^P. -/
theorem natAbs_pick_le : (pick x (F.grid x) rm).1.natAbs ≤ 2 ^ F.p := by
  have hq : |x.units (F.grid x)| ≤ ((2 ^ F.p : Nat) : ℚ) :=
    (Dy.abs_units_lt hx (by rw [Fmt.grid, Fmt.p]; push_cast; omega)).le
  exact (pick_rounded x (F.grid x) rm hrm).natAbs_le hq

/-- A significand of fewer than P bits comes from the grid of the subnormals only. -/
theorem grid_of_natAbs_pick_lt (h : (pick x (F.grid x) rm).1.natAbs < 2 ^ F.f) : F.grid x = F.emin - F.f := by
  by_contra hne
  have hq : ((2 ^ F.f : Nat) : ℚ) ≤ |x.units (F.grid x)| := Dy.le_abs_units hx (by rw [Fmt.grid] at hne ⊢; omega)
  exact h.not_ge ((pick_rounded x (F.grid x) rm hrm).le_natAbs hq)

/-- What fits with an unbounded exponent fits on the format's grid. -/
theorem abs_pick_le_largest (hF : F.Regular) (h : |(F.unbounded x rm).val| ≤ F.largest.val) :
    ((pick x (F.grid x) rm).1.natAbs : ℚ) * 2 ^ F.grid x ≤ F.largest.val := by
  have hpos : (0 : ℚ) < 2 ^ F.grid x := by positivity
  rcases le_or_gt F.emin x.log2 with hnormal | hsub
  · have hgrid : x.log2 - F.f = F.grid x := by rw [Fmt.grid, max_eq_left hnormal]
    rw [Fmt.unbounded, hgrid, Dy.val, abs_mul, abs_of_pos hpos] at h
    rwa [Nat.cast_natAbs, Int.cast_abs]
  · have hgrid : F.grid x = F.emin - F.f := by rw [Fmt.grid, max_eq_right hsub.le]
    have hq : |x.units (F.grid x)| ≤ ((2 ^ F.f : Nat) : ℚ) := (Dy.abs_units_lt hx (by omega)).le
    have hn : (pick x (F.grid x) rm).1.natAbs ≤ 2 ^ F.f := (pick_rounded x (F.grid x) rm hrm).natAbs_le hq
    calc ((pick x (F.grid x) rm).1.natAbs : ℚ) * 2 ^ F.grid x ≤ ((2 ^ F.f : Nat) : ℚ) * 2 ^ F.grid x := by gcongr
      _ = 2 ^ F.emin := by
        rw [hgrid, Nat.cast_pow, Nat.cast_ofNat, ← zpow_natCast, ← zpow_add₀ two_ne_zero, add_sub_cancel]
      _ ≤ F.largest.val := hF.pow_emin_le

omit hx in
/-- The sign of the operand is that of the result. -/
theorem unit_mul_natAbs_pick (g : Int) : unit (decide (x.m < 0)) * ((pick x g rm).1.natAbs : ℚ) = (pick x g rm).1 := by
  have hround := pick_rounded x g rm hrm
  have hpos : (0 : ℚ) < 2 ^ x.e := by positivity
  have hposg : (0 : ℚ) < 2 ^ g := by positivity
  rw [Nat.cast_natAbs, Int.cast_abs]
  by_cases hneg : x.m < 0
  · have hm : (x.m : ℚ) ≤ 0 := by exact_mod_cast hneg.le
    have hn := hround.nonpos (div_nonpos_of_nonpos_of_nonneg (mul_nonpos_of_nonpos_of_nonneg hm hpos.le) hposg.le)
    rw [abs_of_nonpos (by exact_mod_cast hn)]
    simp [unit, hneg]
  · have hm : (0 : ℚ) ≤ x.m := by exact_mod_cast not_lt.mp hneg
    have hn := hround.nonneg (div_nonneg (mul_nonneg hm hpos.le) hposg.le)
    rw [abs_of_nonneg (by exact_mod_cast hn)]
    simp [unit, hneg]

/-- The encoding that Round gives decodes to the integer of Pick, in units of the grid. -/
theorem decode_encode_pick (hF : F.Regular) (h : |(F.unbounded x rm).val| ≤ F.largest.val) :
    let v := F.decode (F.encode (decide (x.m < 0)) (pick x (F.grid x) rm).1.natAbs (F.grid x))
    v.Finite ∧ v.val = (pick x (F.grid x) rm).1 * (2 : ℚ) ^ F.grid x := by
  have hgrid : F.emin - F.f ≤ F.grid x := by rw [Fmt.grid]; omega
  obtain ⟨m, e, hfin, hval⟩ := hF.decode_encode_value (decide (x.m < 0)) (natAbs_pick_le hx hrm) hgrid
    (grid_of_natAbs_pick_lt hx hrm) (abs_pick_le_largest hx hrm hF h)
  intro v
  refine ⟨Flt.finite_iff.mpr ⟨_, _, _, hfin⟩, ?_⟩
  rw [show v = _ from hfin, Flt.val_fin, hval, ← mul_assoc, unit_mul_natAbs_pick hrm]

/-- The integer of Pick, in units of the grid, is the best beside every number of the format. -/
theorem bestOf_pick {y : ℚ} (hy : F.Spans y) : BestOf rm ((pick x (F.grid x) rm).1 * (2 : ℚ) ^ F.grid x) x.val y := by
  have hpos : (0 : ℚ) < 2 ^ F.grid x := by positivity
  have hout := hy.outside_neighbours hx
  have hneg := hy.neg.outside_neighbours hx
  rw [neg_div] at hneg
  have hbest := ((pick_rounded x (F.grid x) rm hrm).bestOf hout hneg).mul hpos
  rwa [x.units_mul, div_mul_cancel₀ _ hpos.ne'] at hbest

end

theorem Fmt.Regular.decode_zero {F : Fmt} (hF : F.Regular) (s : Bool) : F.decode (F.zero s) = .fin s 0 (F.emin - F.f) := by
  rw [← F.encode_zero s 0]
  exact hF.decode_encode_subnormal s 0 (by positivity)

/-- Settles O13: Round of zero is a zero; otherwise its result is Pick's integer on the format's grid, whose two neighbours of the value leave no
number of the format between them. -/
theorem roundIsCorrect : Obligations.RoundIsCorrect := by
  unfold Obligations.RoundIsCorrect
  intro F hmem x rm zs hrm hov
  have hF := regular_of_mem_allFormats hmem
  by_cases hx : x.m = 0
  · have hval : x.val = 0 := by simp [Dy.val, hx]
    have hzero : (Flt.fin zs 0 (F.emin - F.f)).val = 0 := by simp [Flt.val_fin]
    simp only [F.round_zero hx, FRes.of, hF.decode_zero, hval, hzero]
    exact ⟨trivial, by decide, fun y _ => BestOf.self rm 0 (F.decode y).val⟩
  · have hpos : (0 : ℚ) < 2 ^ F.grid x := by positivity
    obtain ⟨hfits, hbits, hinx⟩ := F.round_of_no_overflow hx rm zs hov
    obtain ⟨hfin, hval⟩ := decode_encode_pick hx hrm hF hfits
    simp only [hbits, hval, hinx]
    refine ⟨hfin, ?_, fun y hy => bestOf_pick hx hrm (F.spans_decode hy)⟩
    rw [pick_changed_iff, Dy.units, Ne, Ne, eq_div_iff hpos.ne']

end Sys2Proof.Machine
end

section
/-! PROOFS. Decoding undoes encoding (03 R56 to R71), and words of the spec's tables decode. -/

namespace Sys2Proof

open Machine

/-- Every well-formed instruction round-trips: each form by its own law; no event is well-formed. -/
theorem roundTrip (i : Instr) : Laws.RoundTrip.Statement i := by
  cases i with
  | iadd o => exact Laws.RoundTrip.iadd o
  | isub o => exact Laws.RoundTrip.isub o
  | imul o => exact Laws.RoundTrip.imul o
  | and o => exact Laws.RoundTrip.and o
  | or o => exact Laws.RoundTrip.or o
  | xor o => exact Laws.RoundTrip.xor o
  | shl o => exact Laws.RoundTrip.shl o
  | shr o => exact Laws.RoundTrip.shr o
  | sar o => exact Laws.RoundTrip.sar o
  | imin o => exact Laws.RoundTrip.imin o
  | imax o => exact Laws.RoundTrip.imax o
  | umin o => exact Laws.RoundTrip.umin o
  | umax o => exact Laws.RoundTrip.umax o
  | iaddsat o => exact Laws.RoundTrip.iaddsat o
  | isubsat o => exact Laws.RoundTrip.isubsat o
  | iaddi o => exact Laws.RoundTrip.iaddi o
  | andi o => exact Laws.RoundTrip.andi o
  | ori o => exact Laws.RoundTrip.ori o
  | xori o => exact Laws.RoundTrip.xori o
  | shli o => exact Laws.RoundTrip.shli o
  | shri o => exact Laws.RoundTrip.shri o
  | sari o => exact Laws.RoundTrip.sari o
  | icmp o => exact Laws.RoundTrip.icmp o
  | imulhi o => exact Laws.RoundTrip.imulhi o
  | umulhi o => exact Laws.RoundTrip.umulhi o
  | idiv o => exact Laws.RoundTrip.idiv o
  | udiv o => exact Laws.RoundTrip.udiv o
  | irem o => exact Laws.RoundTrip.irem o
  | urem o => exact Laws.RoundTrip.urem o
  | popc o => exact Laws.RoundTrip.popc o
  | clz o => exact Laws.RoundTrip.clz o
  | brev o => exact Laws.RoundTrip.brev o
  | bfe o => exact Laws.RoundTrip.bfe o
  | bfes o => exact Laws.RoundTrip.bfes o
  | bfi o => exact Laws.RoundTrip.bfi o
  | sel o => exact Laws.RoundTrip.sel o
  | imad o => exact Laws.RoundTrip.imad o
  | addc o => exact Laws.RoundTrip.addc o
  | subb o => exact Laws.RoundTrip.subb o
  | iadd64 o => exact Laws.RoundTrip.iadd64 o
  | isub64 o => exact Laws.RoundTrip.isub64 o
  | shl64 o => exact Laws.RoundTrip.shl64 o
  | shr64 o => exact Laws.RoundTrip.shr64 o
  | sar64 o => exact Laws.RoundTrip.sar64 o
  | lea o => exact Laws.RoundTrip.lea o
  | mov o => exact Laws.RoundTrip.mov o
  | movi o => exact Laws.RoundTrip.movi o
  | movl o => exact Laws.RoundTrip.movl o
  | fadd o => exact Laws.RoundTrip.fadd o
  | fsub o => exact Laws.RoundTrip.fsub o
  | fmul o => exact Laws.RoundTrip.fmul o
  | fmin o => exact Laws.RoundTrip.fmin o
  | fmax o => exact Laws.RoundTrip.fmax o
  | fdiv o => exact Laws.RoundTrip.fdiv o
  | fsqrt o => exact Laws.RoundTrip.fsqrt o
  | fma o => exact Laws.RoundTrip.fma o
  | fms o => exact Laws.RoundTrip.fms o
  | fnma o => exact Laws.RoundTrip.fnma o
  | fnms o => exact Laws.RoundTrip.fnms o
  | fcmp o => exact Laws.RoundTrip.fcmp o
  | fclass o => exact Laws.RoundTrip.fclass o
  | fneg o => exact Laws.RoundTrip.fneg o
  | fabs o => exact Laws.RoundTrip.fabs o
  | fsgnj o => exact Laws.RoundTrip.fsgnj o
  | fsgnjn o => exact Laws.RoundTrip.fsgnjn o
  | fsgnjx o => exact Laws.RoundTrip.fsgnjx o
  | fexp2 o => exact Laws.RoundTrip.fexp2 o
  | flog2 o => exact Laws.RoundTrip.flog2 o
  | fsin o => exact Laws.RoundTrip.fsin o
  | fcos o => exact Laws.RoundTrip.fcos o
  | frcp o => exact Laws.RoundTrip.frcp o
  | frsq o => exact Laws.RoundTrip.frsq o
  | fcvt o => exact Laws.RoundTrip.fcvt o
  | fcvti o => exact Laws.RoundTrip.fcvti o
  | icvtf o => exact Laws.RoundTrip.icvtf o
  | frint o => exact Laws.RoundTrip.frint o
  | fcvtil o => exact Laws.RoundTrip.fcvtil o
  | icvtfl o => exact Laws.RoundTrip.icvtfl o
  | f8pack o => exact Laws.RoundTrip.f8pack o
  | f8unpack o => exact Laws.RoundTrip.f8unpack o
  | f16pack o => exact Laws.RoundTrip.f16pack o
  | f16unpack o => exact Laws.RoundTrip.f16unpack o
  | xe3m2 o => exact Laws.RoundTrip.xe3m2 o
  | xe2m3 o => exact Laws.RoundTrip.xe2m3 o
  | xint4 o => exact Laws.RoundTrip.xint4 o
  | mxq o => exact Laws.RoundTrip.mxq o
  | mxdq o => exact Laws.RoundTrip.mxdq o
  | mxscale o => exact Laws.RoundTrip.mxscale o
  | fsplit o => exact Laws.RoundTrip.fsplit o
  | fjoin o => exact Laws.RoundTrip.fjoin o
  | fdot2 o => exact Laws.RoundTrip.fdot2 o
  | fdot4 o => exact Laws.RoundTrip.fdot4 o
  | faddl o => exact Laws.RoundTrip.faddl o
  | fmull o => exact Laws.RoundTrip.fmull o
  | fmal o => exact Laws.RoundTrip.fmal o
  | fscale o => exact Laws.RoundTrip.fscale o
  | fgetexp o => exact Laws.RoundTrip.fgetexp o
  | fgetman o => exact Laws.RoundTrip.fgetman o
  | fminnm o => exact Laws.RoundTrip.fminnm o
  | fmaxnm o => exact Laws.RoundTrip.fmaxnm o
  | bra o => exact Laws.RoundTrip.bra o
  | brx o => exact Laws.RoundTrip.brx o
  | jmpl o => exact Laws.RoundTrip.jmpl o
  | call o => exact Laws.RoundTrip.call o
  | callx o => exact Laws.RoundTrip.callx o
  | calll o => exact Laws.RoundTrip.calll o
  | ret o => exact Laws.RoundTrip.ret o
  | exit o => exact Laws.RoundTrip.exit o
  | rfpt o => exact Laws.RoundTrip.rfpt o
  | yield o => exact Laws.RoundTrip.yield o
  | nop o => exact Laws.RoundTrip.nop o
  | brk o => exact Laws.RoundTrip.brk o
  | migr o => exact Laws.RoundTrip.migr o
  | shfli o => exact Laws.RoundTrip.shfli o
  | shflu o => exact Laws.RoundTrip.shflu o
  | shfld o => exact Laws.RoundTrip.shfld o
  | shflx o => exact Laws.RoundTrip.shflx o
  | vall o => exact Laws.RoundTrip.vall o
  | vany o => exact Laws.RoundTrip.vany o
  | ballot o => exact Laws.RoundTrip.ballot o
  | matchLanes o => exact Laws.RoundTrip.matchLanes o
  | wscan o => exact Laws.RoundTrip.wscan o
  | wred o => exact Laws.RoundTrip.wred o
  | wfred o => exact Laws.RoundTrip.wfred o
  | ld o => exact Laws.RoundTrip.ld o
  | st o => exact Laws.RoundTrip.st o
  | ldu o => exact Laws.RoundTrip.ldu o
  | ldfe o => exact Laws.RoundTrip.ldfe o
  | stfe o => exact Laws.RoundTrip.stfe o
  | pf o => exact Laws.RoundTrip.pf o
  | atomAdd o => exact Laws.RoundTrip.atomAdd o
  | atomAnd o => exact Laws.RoundTrip.atomAnd o
  | atomOr o => exact Laws.RoundTrip.atomOr o
  | atomXor o => exact Laws.RoundTrip.atomXor o
  | atomMin o => exact Laws.RoundTrip.atomMin o
  | atomMax o => exact Laws.RoundTrip.atomMax o
  | atomXchg o => exact Laws.RoundTrip.atomXchg o
  | atomDecp o => exact Laws.RoundTrip.atomDecp o
  | atomFadd o => exact Laws.RoundTrip.atomFadd o
  | acas o => exact Laws.RoundTrip.acas o
  | satomAdd o => exact Laws.RoundTrip.satomAdd o
  | satomAnd o => exact Laws.RoundTrip.satomAnd o
  | satomOr o => exact Laws.RoundTrip.satomOr o
  | satomXor o => exact Laws.RoundTrip.satomXor o
  | satomMin o => exact Laws.RoundTrip.satomMin o
  | satomMax o => exact Laws.RoundTrip.satomMax o
  | satomXchg o => exact Laws.RoundTrip.satomXchg o
  | satomDecp o => exact Laws.RoundTrip.satomDecp o
  | satomFadd o => exact Laws.RoundTrip.satomFadd o
  | scas o => exact Laws.RoundTrip.scas o
  | fenceAcq o => exact Laws.RoundTrip.fenceAcq o
  | fenceRel o => exact Laws.RoundTrip.fenceRel o
  | fenceAr o => exact Laws.RoundTrip.fenceAr o
  | fenceSc o => exact Laws.RoundTrip.fenceSc o
  | barArrive o => exact Laws.RoundTrip.barArrive o
  | barWait o => exact Laws.RoundTrip.barWait o
  | barSync o => exact Laws.RoundTrip.barSync o
  | barDrop o => exact Laws.RoundTrip.barDrop o
  | barTest o => exact Laws.RoundTrip.barTest o
  | barRed o => exact Laws.RoundTrip.barRed o
  | abarInit o => exact Laws.RoundTrip.abarInit o
  | abarArrive o => exact Laws.RoundTrip.abarArrive o
  | abarWait o => exact Laws.RoundTrip.abarWait o
  | waitv o => exact Laws.RoundTrip.waitv o
  | wake1 o => exact Laws.RoundTrip.wake1 o
  | wakeall o => exact Laws.RoundTrip.wakeall o
  | waitc o => exact Laws.RoundTrip.waitc o
  | macq o => exact Laws.RoundTrip.macq o
  | mrel o => exact Laws.RoundTrip.mrel o
  | mzero o => exact Laws.RoundTrip.mzero o
  | mloop o => exact Laws.RoundTrip.mloop o
  | mloopg o => exact Laws.RoundTrip.mloopg o
  | mdrain o => exact Laws.RoundTrip.mdrain o
  | mdrains o => exact Laws.RoundTrip.mdrains o
  | mwlat o => exact Laws.RoundTrip.mwlat o
  | mstep o => exact Laws.RoundTrip.mstep o
  | mmeta o => exact Laws.RoundTrip.mmeta o
  | mfill o => exact Laws.RoundTrip.mfill o
  | madd o => exact Laws.RoundTrip.madd o
  | mscale o => exact Laws.RoundTrip.mscale o
  | mcsum o => exact Laws.RoundTrip.mcsum o
  | xfer o => exact Laws.RoundTrip.xfer o
  | xgather o => exact Laws.RoundTrip.xgather o
  | chclose o => exact Laws.RoundTrip.chclose o
  | chavail o => exact Laws.RoundTrip.chavail o
  | qpush o => exact Laws.RoundTrip.qpush o
  | qpop o => exact Laws.RoundTrip.qpop o
  | qtrypop o => exact Laws.RoundTrip.qtrypop o
  | qtrypush o => exact Laws.RoundTrip.qtrypush o
  | cred o => exact Laws.RoundTrip.cred o
  | callred o => exact Laws.RoundTrip.callred o
  | credsc o => exact Laws.RoundTrip.credsc o
  | callg o => exact Laws.RoundTrip.callg o
  | csrr o => exact Laws.RoundTrip.csrr o
  | csrw o => exact Laws.RoundTrip.csrw o
  | csrs o => exact Laws.RoundTrip.csrs o
  | csrc o => exact Laws.RoundTrip.csrc o
  | launch o => exact Laws.RoundTrip.launch o
  | hret o => exact Laws.RoundTrip.hret o
  | hskip o => exact Laws.RoundTrip.hskip o
  | ctxsave o => exact Laws.RoundTrip.ctxsave o
  | ctxload o => exact Laws.RoundTrip.ctxload o
  | ctxkill o => exact Laws.RoundTrip.ctxkill o
  | kretire o => exact Laws.RoundTrip.kretire o
  | tlbinv o => exact Laws.RoundTrip.tlbinv o
  | tlbinvall o => exact Laws.RoundTrip.tlbinvall o
  | pgprobe o => exact Laws.RoundTrip.pgprobe o
  | hcmark o => exact Laws.RoundTrip.hcmark o
  | hcflush o => exact Laws.RoundTrip.hcflush o
  | hcstop o => exact Laws.RoundTrip.hcstop o
  | hcread o => exact Laws.RoundTrip.hcread o
  | _ => intro h; cases h

/-- Settles O1: a form's fields decode to it, form by form, and the words hold its fields. -/
theorem decodeEncode : Obligations.DecodeEncode := by
  unfold Obligations.DecodeEncode
  exact fun i hw => decode_encode_of (roundTrip i) hw

/-- Settles O3: the decoder evaluates on each word. -/
theorem specWords : Obligations.SpecWords := by
  unfold Obligations.SpecWords
  refine ⟨rfl, rfl, rfl, rfl, rfl, rfl, rfl, rfl, rfl, rfl, rfl, rfl⟩

end Sys2Proof
end

section
/-! PROOFS. What the decoder accepts is within every limit of the encoding (03 R66, checks 4 to 8). -/

namespace Sys2Proof

open Machine

/-- An instruction that the encoding has: a form within every limit. -/
def Instr.Encodable (i : Instr) : Prop := i.wellFormed = true ∧ (toRaw i).isSome = true

/-- What a decoder accepts, if it accepts anything, is encodable. -/
def AcceptsEncodable (x : Except Illegal Instr) : Prop := ∀ i, x = .ok i → i.Encodable

theorem Raw.bad_accepts (r : Raw) (reason field : Nat) : AcceptsEncodable (r.bad reason field) := fun _ h => by cases h
theorem Raw.badSub_accepts (r : Raw) : AcceptsEncodable r.badSub := fun _ h => by cases h

theorem firstField_eq_none (l : List (Bool × Nat)) : firstField l = none ↔ ∀ p ∈ l, p.1 = false := by
  induction l with
  | nil => simp [firstField]
  | cons p l ih => cases hp : p.1 <;> simp [firstField, hp, ih]

/-- What checks 5 to 8 of R66 have established where they accept. -/
structure Raw.Checked (r : Raw) (f : Format) (ms : List (BitVec 2)) (unused limits : List (Bool × Nat)) : Prop where
  m : r.m ∈ ms
  unused : ∀ p ∈ unused, p.1 = false
  guard : f = .A ∨ r.g ≠ 15
  limits : ∀ p ∈ limits, p.1 = false

/-- `Raw.finish` accepts an instruction only where its checks hold. -/
theorem Raw.finish_accepts {r : Raw} {f : Format} {ms : List (BitVec 2)} {unused limits : List (Bool × Nat)} {i : Instr}
    (h : r.Checked f ms unused limits → i.Encodable) : AcceptsEncodable (r.finish f ms unused limits i) := by
  intro j hj
  unfold Raw.finish at hj
  split at hj
  next hm =>
    split at hj
    next => cases hj
    next hu =>
      split at hj
      next => cases hj
      next hg =>
        split at hj
        next => cases hj
        next hl =>
          cases hj
          exact h ⟨by simpa using hm, (firstField_eq_none _).1 hu, by tauto, (firstField_eq_none _).1 hl⟩
  next => cases hj

@[simp] theorem Form.ok_iff (o : Form) (ms : List (BitVec 2)) (usesD usesA usesB usesC usesLa : Bool) :
    o.ok ms usesD usesA usesB usesC usesLa = true ↔ o.m ∈ ms ∧ (usesD = true ∨ o.d = 0) ∧ (usesA = true ∨ o.a = 0) ∧
      (usesB = true ∨ o.b = 0) ∧ (usesC = true ∨ o.c = 0) ∧ (usesLa = true ∨ o.la = 0) ∧ o.g ≠ 15 := by
  simp [Form.ok, and_assoc]

@[simp] theorem Form.okA_iff (o : Form) (ms : List (BitVec 2)) (usesA : Bool) :
    o.okA ms usesA = true ↔ o.m ∈ ms ∧ (usesA = true ∨ o.a = 0) ∧ o.c = 0 ∧ o.la = 0 ∧ o.g = 7 := by
  simp [Form.okA, and_assoc]

@[simp] theorem precOf_zero : precOf 0#2 = .f32 := rfl
@[simp] theorem scopeOf_zero : scopeOf 0#3 = .grp := rfl

/-- A bit of IMM16 in a span that check 6 requires to be zero. -/
theorem Raw.immBit_eq_false {r : Raw} {lo n : Nat} (h : r.imm.extractLsb' lo n = 0) (k : Nat) (hlo : lo ≤ k := by omega) (hhi : k < lo + n := by omega) :
    r.immBit k = false := by
  have := congrArg (fun x => x.getLsbD (k - lo)) h
  simpa [Raw.immBit, BitVec.getLsbD_extractLsb', show k - lo < n by omega, Nat.add_sub_cancel' hlo] using this

/-! ### Integer forms -/

theorem Raw.intA_accepts {r : Raw} {mk : Form → Instr} (h : ∀ o : Form, o.okA [0, 1, 2] true = true → (mk o).Encodable) :
    AcceptsEncodable (r.intA mk) :=
  Raw.finish_accepts fun ⟨hm, _, _, _⟩ => h _ (by simpa [Raw.form] using hm)

theorem Raw.intImm_accepts {r : Raw} {limits : List (Bool × Nat)} {mk : ImmForm → Instr}
    (h : ∀ o : ImmForm, o.toForm.ok [0, 2] true true false false true = true → o.imm = r.imm → (∀ p ∈ limits, p.1 = false) → (mk o).Encodable) :
    AcceptsEncodable (r.intImm limits mk) :=
  Raw.finish_accepts fun ⟨hm, hu, hg, hl⟩ => h _ (by simp_all [Raw.form, Raw.noB]) rfl hl

theorem Raw.int3_accepts {r : Raw} {ms : List (BitVec 2)} {mk : Form → Instr}
    (h : ∀ o : Form, o.ok ms true true true false true = true → (mk o).Encodable) : AcceptsEncodable (r.int3 ms mk) :=
  Raw.finish_accepts fun ⟨hm, _, hg, _⟩ => h _ (by simp_all [Raw.form])

theorem Raw.int2_accepts {r : Raw} {mk : Form → Instr}
    (h : ∀ o : Form, o.ok [0, 2] true true false false true = true → (mk o).Encodable) : AcceptsEncodable (r.int2 mk) :=
  Raw.finish_accepts fun ⟨hm, hu, hg, _⟩ => h _ (by simp_all [Raw.form, Raw.noB])

theorem Raw.bitField_accepts {r : Raw} {ms : List (BitVec 2)} {usesB : Bool} {mk : BitsForm → Instr}
    (h : ∀ o : BitsForm, o.toForm.ok ms true true usesB false true = true → bitsOk o.pos o.len = true → (mk o).Encodable) :
    AcceptsEncodable (r.bitField ms usesB mk) :=
  Raw.finish_accepts fun ⟨hm, hu, hg, hl⟩ =>
    h _ (by cases usesB <;> simp_all [Raw.form]) (by simpa using hl)

theorem Raw.integer_accepts (r : Raw) : AcceptsEncodable r.integer := by
  unfold Raw.integer
  split
  iterate 15 next => exact Raw.intA_accepts fun o ho => ⟨ho, rfl⟩
  next =>
    split
    · exact Raw.intImm_accepts fun o ho _ _ => ⟨ho, rfl⟩
    · exact r.badSub_accepts
  next =>
    split
    iterate 3 next => exact Raw.intImm_accepts fun o ho _ _ => ⟨ho, rfl⟩
    next => exact r.badSub_accepts
  next =>
    split
    iterate 3 next => exact Raw.intImm_accepts fun o ho hi hl => ⟨by simp_all [Instr.wellFormed]; omega, rfl⟩
    next => exact r.badSub_accepts
  next =>
    split
    · exact Raw.finish_accepts fun ⟨hm, _, hg, _⟩ => ⟨by simp_all [Instr.wellFormed, Raw.form], rfl⟩
    · exact r.badSub_accepts
  next =>
    split
    iterate 6 next => exact Raw.int3_accepts fun o ho => ⟨ho, rfl⟩
    next => exact r.badSub_accepts
  next =>
    split
    iterate 3 next => exact Raw.int2_accepts fun o ho => ⟨ho, rfl⟩
    iterate 3 next => exact Raw.bitField_accepts fun o ho hb => ⟨Bool.and_eq_true_iff.2 ⟨ho, hb⟩, rfl⟩
    next => exact r.badSub_accepts
  iterate 2 next =>
    split
    iterate 2 next => exact Raw.finish_accepts fun ⟨hm, _, hg, _⟩ => ⟨by simp_all [Instr.wellFormed, Raw.form], rfl⟩
    next => exact r.badSub_accepts
  next =>
    split
    iterate 5 next => exact Raw.int3_accepts fun o ho => ⟨ho, rfl⟩
    next => exact r.badSub_accepts
  next =>
    split
    · exact Raw.finish_accepts fun ⟨hm, _, hg, hl⟩ => ⟨by simp_all [Instr.wellFormed, Raw.form], rfl⟩
    · exact r.badSub_accepts
  next => exact Raw.finish_accepts fun ⟨hm, hu, hg, _⟩ => ⟨by simp_all [Instr.wellFormed, Raw.form, Raw.noA], rfl⟩
  next =>
    split
    · exact Raw.finish_accepts fun ⟨hm, hu, hg, _⟩ => ⟨by simp_all [Instr.wellFormed, Raw.form, Raw.noA, Raw.noB], rfl⟩
    · exact r.badSub_accepts
  next =>
    split
    · exact Raw.finish_accepts fun ⟨hm, hu, hg, _⟩ => ⟨by simp_all [Instr.wellFormed, Raw.form, Raw.noA, Raw.noB], rfl⟩
    · exact r.badSub_accepts
  next => exact r.badSub_accepts

/-! ### Floating forms -/

theorem Raw.float_accepts {r : Raw} {f : Format} {precs : List Prec} {rounds : Bool} {next : FloatForm → Except Illegal Instr}
    (h : ∀ rnd prec, prec ∈ precs → (rounds = true ∨ rnd = .dynamic) → AcceptsEncodable (next { r.form f with rnd := rnd, prec := prec })) :
    AcceptsEncodable (r.float f precs rounds next) := by
  unfold Raw.float
  split
  · exact r.badSub_accepts
  · split
    next hp =>
      simp only [Bool.and_eq_true, List.contains_iff_mem, Bool.or_eq_true, beq_iff_eq] at hp
      exact h _ _ hp.1 hp.2
    next => exact r.badSub_accepts

theorem Raw.float3_accepts {r : Raw} {rounds : Bool} {mk : FloatForm → Instr}
    (h : ∀ o : FloatForm, o.toForm.ok [0, 1] true true true false true = true → (rounds = true ∨ o.rnd = .dynamic) → (mk o).Encodable) :
    AcceptsEncodable (r.float3 rounds mk) :=
  Raw.float_accepts fun _ _ _ hr => Raw.finish_accepts fun ⟨hm, _, hg, _⟩ => h _ (by simp_all [Raw.form]) hr

theorem Raw.float2_accepts {r : Raw} {precs : List Prec} {rounds : Bool} {mk : FloatForm → Instr}
    (h : ∀ o : FloatForm, o.toForm.ok [0] true true false false true = true → o.prec ∈ precs → (rounds = true ∨ o.rnd = .dynamic) →
      (mk o).Encodable) : AcceptsEncodable (r.float2 precs rounds mk) :=
  Raw.float_accepts fun _ _ hp hr => Raw.finish_accepts fun ⟨hm, hu, hg, _⟩ => h _ (by simp_all [Raw.form, Raw.noB]) hp hr

theorem Raw.floatC_accepts {r : Raw} {precs : List Prec} {rounds : Bool} {mk : FloatForm → Instr}
    (h : ∀ o : FloatForm, o.toForm.ok [0, 1] true true true true true = true → o.prec ∈ precs → (rounds = true ∨ o.rnd = .dynamic) →
      (mk o).Encodable) : AcceptsEncodable (r.floatC precs rounds mk) :=
  Raw.float_accepts fun _ _ hp hr => Raw.finish_accepts fun ⟨hm, _, hg, _⟩ => h _ (by simp_all [Raw.form]) hp hr

theorem Raw.intConvert_accepts {r : Raw} {mk : ConvertForm → Instr}
    (h : ∀ o : ConvertForm, o.toForm.ok [0] true true false false true = true → (o.prec = .f32 ∨ o.prec = .f64) → o.dprec = .f32 →
      (mk o).Encodable) : AcceptsEncodable (r.intConvert mk) :=
  Raw.float_accepts fun _ _ hp _ => Raw.finish_accepts fun ⟨hm, hu, hg, _⟩ =>
    h _ (by simp_all [Raw.form, Raw.convert, Raw.noB]) (by simpa [Raw.convert] using hp)
      (by simp_all [Raw.convert, Raw.zeroImm])

theorem Raw.op20_accepts (r : Raw) : AcceptsEncodable r.op20 := by
  unfold Raw.op20
  split
  iterate 3 next => exact Raw.float3_accepts fun o ho _ => ⟨ho, rfl⟩
  iterate 2 next => exact Raw.float3_accepts fun o ho hr => ⟨by simp_all [Instr.wellFormed], rfl⟩
  next => exact Raw.float3_accepts fun o ho _ => ⟨ho, rfl⟩
  next => exact Raw.float2_accepts fun o ho _ _ => ⟨ho, rfl⟩
  next => exact r.badSub_accepts

theorem Raw.op21_accepts (r : Raw) : AcceptsEncodable r.op21 := by
  unfold Raw.op21
  split
  iterate 4 next => exact Raw.floatC_accepts fun o ho _ _ => ⟨ho, rfl⟩
  next => exact r.badSub_accepts

theorem Raw.op22_accepts (r : Raw) : AcceptsEncodable r.op22 := by
  unfold Raw.op22
  split
  · exact Raw.float_accepts fun _ _ hp hr => Raw.finish_accepts fun ⟨hm, _, hg, _⟩ => ⟨by simp_all [Instr.wellFormed, Raw.form], rfl⟩
  · exact Raw.float2_accepts fun o ho _ hr => ⟨by simp_all [Instr.wellFormed], rfl⟩
  · exact r.badSub_accepts

theorem Raw.op23_accepts (r : Raw) : AcceptsEncodable r.op23 := by
  unfold Raw.op23
  split
  iterate 2 next => exact Raw.float2_accepts fun o ho _ hr => ⟨by simp_all [Instr.wellFormed], rfl⟩
  iterate 3 next => exact Raw.float3_accepts fun o ho hr => ⟨by simp_all [Instr.wellFormed], rfl⟩
  next => exact r.badSub_accepts

theorem Raw.op24_accepts (r : Raw) : AcceptsEncodable r.op24 := by
  unfold Raw.op24
  split
  iterate 6 next => exact Raw.float2_accepts fun o ho hp hr => ⟨by simp_all [Instr.wellFormed, or_assoc], rfl⟩
  next => exact r.badSub_accepts

theorem Raw.op25_accepts (r : Raw) : AcceptsEncodable r.op25 := by
  unfold Raw.op25
  split
  next =>
    refine Raw.float_accepts fun rnd prec _ _ => ?_
    dsimp only
    split
    · exact r.badSub_accepts
    · refine Raw.finish_accepts fun ⟨hm, hu, hg, hl⟩ => ⟨?_, rfl⟩
      have huns : r.immBit 2 = false := Raw.immBit_eq_false (lo := 2) (n := 14) (by simp_all [Raw.zeroImm]) 2
      simp_all [Instr.wellFormed, Raw.form, Raw.convert, Raw.noB]
  iterate 2 next => exact Raw.intConvert_accepts fun o ho hp hd => ⟨by simp_all [Instr.wellFormed], rfl⟩
  next =>
    refine Raw.float_accepts fun rnd prec hp _ => Raw.finish_accepts fun ⟨hm, hu, hg, _⟩ => ⟨?_, rfl⟩
    have huns : r.immBit 2 = false := Raw.immBit_eq_false (lo := 0) (n := 16) (by simp_all [Raw.zeroImm]) 2
    have himm : r.imm = 0 := by simp_all [Raw.zeroImm]
    simp_all [Instr.wellFormed, Raw.form, Raw.convert, Raw.noB]
  iterate 2 next => exact Raw.intConvert_accepts fun o ho hp hd => ⟨by simp_all [Instr.wellFormed], rfl⟩
  next => exact r.badSub_accepts

theorem Raw.op26_accepts (r : Raw) : AcceptsEncodable r.op26 := by
  unfold Raw.op26
  split
  next => exact Raw.float_accepts fun _ _ hp _ => Raw.finish_accepts fun ⟨hm, _, hg, _⟩ => ⟨by simp_all [Instr.wellFormed, Raw.form, Raw.packForm], rfl⟩
  next =>
    refine Raw.float_accepts fun _ _ hp _ => Raw.finish_accepts fun ⟨hm, hu, hg, _⟩ => ⟨?_, rfl⟩
    have hsat : r.immBit 1 = false := Raw.immBit_eq_false (lo := 1) (n := 15) (by simp_all [Raw.zeroImm]) 1
    simp_all [Instr.wellFormed, Raw.form, Raw.packForm, Raw.noB]
  next =>
    refine Raw.float_accepts fun _ _ hp _ => Raw.finish_accepts fun ⟨hm, hu, hg, _⟩ => ⟨?_, rfl⟩
    have he5m2 : r.immBit 0 = false := Raw.immBit_eq_false (lo := 0) (n := 1) (by simp_all [Raw.zeroImm]) 0
    simp_all [Instr.wellFormed, Raw.form, Raw.packForm]
  next => exact Raw.float2_accepts fun o ho hp hr => ⟨by simp_all [Instr.wellFormed], rfl⟩
  next => exact r.badSub_accepts

theorem Raw.op27_accepts (r : Raw) : AcceptsEncodable r.op27 := by
  unfold Raw.op27
  split
  iterate 3 next =>
    exact Raw.float_accepts fun _ _ hp hr => Raw.finish_accepts fun ⟨hm, hu, hg, _⟩ =>
      ⟨by simp_all [Instr.wellFormed, Raw.form, Raw.noB], rfl⟩
  next => exact r.badSub_accepts

theorem Raw.op28_accepts (r : Raw) : AcceptsEncodable r.op28 := by
  unfold Raw.op28
  split
  next => exact Raw.floatC_accepts fun o ho hp _ => ⟨by simp_all [Instr.wellFormed], rfl⟩
  iterate 2 next =>
    exact Raw.float_accepts fun _ _ hp hr => Raw.finish_accepts fun ⟨hm, hu, hg, hl⟩ =>
      ⟨by simp_all [Instr.wellFormed, Raw.form, Raw.noB, Raw.noC], rfl⟩
  next => exact r.badSub_accepts

theorem Raw.op29_accepts (r : Raw) : AcceptsEncodable r.op29 := by
  unfold Raw.op29
  split
  next =>
    exact Raw.float_accepts fun _ _ hp hr => Raw.finish_accepts fun ⟨hm, _, hg, hl⟩ => ⟨by simp_all [Instr.wellFormed, Raw.form], rfl⟩
  next => exact Raw.floatC_accepts fun o ho hp hr => ⟨by simp_all [Instr.wellFormed], rfl⟩
  next => exact r.badSub_accepts

theorem Raw.op2A_accepts (r : Raw) : AcceptsEncodable r.op2A := by
  unfold Raw.op2A
  split
  iterate 2 next => exact Raw.floatC_accepts fun o ho hp _ => ⟨by simp_all [Instr.wellFormed], rfl⟩
  next => exact r.badSub_accepts

theorem Raw.op2B_accepts (r : Raw) : AcceptsEncodable r.op2B := by
  unfold Raw.op2B
  split
  iterate 3 next =>
    exact Raw.float_accepts fun _ _ hp _ => Raw.finish_accepts fun ⟨hm, hu, hg, _⟩ => ⟨by simp_all [Instr.wellFormed, Raw.form, Raw.noB], rfl⟩
  next => exact r.badSub_accepts

theorem Raw.op2C_accepts (r : Raw) : AcceptsEncodable r.op2C := by
  unfold Raw.op2C
  split
  next => exact Raw.float3_accepts fun o ho _ => ⟨ho, rfl⟩
  iterate 2 next => exact Raw.float2_accepts fun o ho _ hr => ⟨by simp_all [Instr.wellFormed], rfl⟩
  next => exact r.badSub_accepts

theorem Raw.op2D_accepts (r : Raw) : AcceptsEncodable r.op2D := by
  unfold Raw.op2D
  split
  iterate 2 next => exact Raw.float3_accepts fun o ho hr => ⟨by simp_all [Instr.wellFormed], rfl⟩
  next => exact r.badSub_accepts

/-! ### Control and cross-lane forms -/

theorem Raw.shuffle_accepts {r : Raw} {mk : ShuffleForm → Instr}
    (h : ∀ o : ShuffleForm, o.toForm.ok [0] true true true false true = true → shuffleOk o = true → (mk o).Encodable) :
    AcceptsEncodable (r.shuffle mk) :=
  Raw.finish_accepts fun ⟨hm, hu, hg, hl⟩ => h _ (by simp_all [Raw.form]) (by
    cases hrb : r.immBit 7 <;> simp_all [Raw.form, shuffleOk])

theorem Raw.scan_accepts {r : Raw} {scan : Bool} {mk : ScanForm → Instr}
    (h : ∀ o : ScanForm, o.toForm.ok [0] true true false false true = true → scanOk scan o = true → (mk o).Encodable) :
    AcceptsEncodable (r.scan scan mk) := by
  unfold Raw.scan
  split
  · exact r.bad_accepts _ _
  · split
    · exact r.bad_accepts _ _
    · exact Raw.finish_accepts fun ⟨hm, hu, hg, hl⟩ => h _ (by simp_all [Raw.form, Raw.noB]) (by simp_all [scanOk]; grind)

theorem Raw.floatScan_accepts (r : Raw) : AcceptsEncodable r.floatScan := by
  unfold Raw.floatScan
  split
  · exact r.bad_accepts _ _
  · split
    · exact r.bad_accepts _ _
    · exact Raw.finish_accepts fun ⟨hm, hu, hg, hl⟩ => ⟨by simp_all [Instr.wellFormed, Raw.form, Raw.noB], rfl⟩

theorem Raw.control_accepts (r : Raw) : AcceptsEncodable r.control := by
  unfold Raw.control
  split
  next =>
    split
    iterate 5 next =>
      exact Raw.finish_accepts fun ⟨hm, hu, hg, hl⟩ =>
        ⟨by simp_all [Instr.wellFormed, Raw.form, Raw.noD, Raw.noA, Raw.noB, Raw.noLa, Raw.frameLimit], rfl⟩
    next => exact r.badSub_accepts
  next =>
    split
    iterate 2 next =>
      exact Raw.finish_accepts fun ⟨hm, hu, hg, hl⟩ =>
        ⟨by simp_all [Instr.wellFormed, Raw.form, Raw.noD, Raw.noA, Raw.noB, Raw.noLa, Raw.frameLimit], rfl⟩
    next => exact r.badSub_accepts
  next =>
    split
    iterate 6 next =>
      exact Raw.finish_accepts fun ⟨hm, hu, hg, hl⟩ =>
        ⟨by simp_all [Instr.wellFormed, Raw.form, Raw.noD, Raw.noA, Raw.noB, Raw.noLa], rfl⟩
    next => exact r.badSub_accepts
  next =>
    split
    iterate 4 next => exact Raw.shuffle_accepts fun o ho hs => ⟨Bool.and_eq_true_iff.2 ⟨ho, hs⟩, rfl⟩
    next => exact r.badSub_accepts
  next =>
    split
    iterate 4 next => exact Raw.finish_accepts fun ⟨hm, hu, hg, _⟩ => ⟨by simp_all [Instr.wellFormed, Raw.form, Raw.noB], rfl⟩
    next => exact r.badSub_accepts
  next =>
    split
    iterate 2 next => exact Raw.scan_accepts fun o ho hs => ⟨Bool.and_eq_true_iff.2 ⟨ho, hs⟩, rfl⟩
    next => exact r.floatScan_accepts
    next => exact r.badSub_accepts
  next => exact r.badSub_accepts

/-! ### Memory forms -/

theorem orderOf_codes : orderOf 0#3 = .relaxed ∧ orderOf 1#3 = .acquire ∧ orderOf 2#3 = .release ∧ orderOf 4#3 = .sc := ⟨rfl, rfl, rfl, rfl⟩

theorem loadOrder_iff (x : Order) : loadOrder x = true ↔ x = .relaxed ∨ x = .acquire ∨ x = .sc := by cases x <;> decide
theorem storeOrder_iff (x : Order) : storeOrder x = true ↔ x = .relaxed ∨ x = .release ∨ x = .sc := by cases x <;> decide

theorem Raw.mem_accepts {r : Raw} {ms : List (BitVec 2)} {sxOk clrOk uniform : Bool} {orders : List (BitVec 3)} {mk : MemForm → Instr}
    (h : ∀ o : MemForm, o.toForm.ok ms true true true false true = true → memOk o = true → (∃ c ∈ orders, o.ord = orderOf c) →
      (uniform = true → o.scope = .grp) → (o.sx = false ∨ sxOk = true ∧ (o.width = .b8 ∨ o.width = .b16)) → (o.clr = true → clrOk = true) →
      (mk o).Encodable) : AcceptsEncodable (r.mem ms sxOk clrOk uniform orders mk) := by
  unfold Raw.mem
  split
  · exact r.badSub_accepts
  next w _ =>
    dsimp only
    split
    · exact r.badSub_accepts
    next hsub =>
      refine Raw.finish_accepts fun ⟨hm, hu, hg, hl⟩ => h _ ?_ ?_ ⟨r.ordCode, ?_, rfl⟩ ?_ ?_ ?_
      all_goals
        clear h
        simp_all [Raw.memForm, Raw.form, memOk]
      · grind [scopeOf_zero]
      · grind

theorem Raw.prefetch_accepts (r : Raw) : AcceptsEncodable r.prefetch := by
  unfold Raw.prefetch
  split
  · exact r.badSub_accepts
  · dsimp only
    split
    · exact r.badSub_accepts
    · exact Raw.finish_accepts fun ⟨hm, hu, hg, hl⟩ => ⟨by simp_all [Instr.wellFormed, Raw.form, Raw.noD, pfOk]; grind, rfl⟩

theorem Raw.atomic_accepts {r : Raw} {f : Format} {ms : List (BitVec 2)} {unsOk w64Ok bOk : Bool} {mk : AtomForm → Instr} (hf : f ≠ .A)
    (h : ∀ o : AtomForm, o.toForm.ok ms true true bOk (f == .C) true = true → (o.uns = true → unsOk = true) → (o.w64 = true → w64Ok = true) →
      (o.m = 2 ∨ o.m = 3 → o.scope = .grp) → (f = .C → o.off = 0) → (mk o).Encodable) : AcceptsEncodable (r.atomic f ms unsOk w64Ok bOk mk) := by
  unfold Raw.atomic
  dsimp only
  split
  · exact r.badSub_accepts
  · refine Raw.finish_accepts fun ⟨hm, hu, hg, hl⟩ => h _ ?_ ?_ ?_ ?_ ?_
    all_goals
      clear h
      simp_all [Raw.atomForm, Raw.form]
    grind

theorem Raw.memory_accepts (r : Raw) : AcceptsEncodable r.memory := by
  unfold Raw.memory
  split
  iterate 5 next =>
    exact Raw.mem_accepts fun o ho hmem hord hgrp hsx hclr =>
      ⟨by simp_all [Instr.wellFormed, orderOf_codes, loadOrder_iff, storeOrder_iff, or_assoc], rfl⟩
  next => exact r.prefetch_accepts
  next =>
    split
    iterate 9 next => exact Raw.atomic_accepts (by decide) fun o ho huns hw64 _ _ => ⟨by simp_all [Instr.wellFormed], rfl⟩
    next => exact r.badSub_accepts
  next =>
    split
    · exact Raw.atomic_accepts (by decide) fun o ho huns hw64 _ hoff => ⟨by simp_all [Instr.wellFormed], rfl⟩
    · exact r.badSub_accepts
  next =>
    split
    iterate 9 next => exact Raw.atomic_accepts (by decide) fun o ho huns hw64 hgrp _ => ⟨by simp_all [Instr.wellFormed], rfl⟩
    next => exact r.badSub_accepts
  next =>
    split
    · exact Raw.atomic_accepts (by decide) fun o ho huns hw64 hgrp hoff => ⟨by simp_all [Instr.wellFormed], rfl⟩
    · exact r.badSub_accepts
  next => exact r.badSub_accepts

/-! ### Synchronisation forms -/

theorem Raw.scoped_accepts {r : Raw} {usesA : Bool} {mk : ScopeForm → Instr}
    (h : ∀ o : ScopeForm, o.toForm.ok [0] false usesA false false false = true → (mk o).Encodable) : AcceptsEncodable (r.scoped usesA mk) :=
  Raw.finish_accepts fun ⟨hm, hu, hg, hl⟩ => h _ (by cases usesA <;> simp_all [Raw.form, Raw.noD, Raw.noB, Raw.noLa])

theorem Raw.barForm_accepts {r : Raw} {usesD : Bool} {mk : BarForm → Instr}
    (h : ∀ o : BarForm, o.toForm.ok [0] usesD false false false false = true → (mk o).Encodable) : AcceptsEncodable (r.barForm usesD mk) :=
  Raw.finish_accepts fun ⟨hm, hu, hg, hl⟩ => h _ (by cases usesD <;> simp_all [Raw.form, Raw.noA, Raw.noB, Raw.noLa])

theorem Raw.redKind_redOk {r : Raw} {k : RedKind} (h : r.redKind = some k) : redOk k = true := by
  unfold Raw.redKind at h
  split at h
  · split at h
    · split at h <;> cases h
      rfl
    · cases h
  · split at h
    · split at h <;> cases h
      next hc => simp_all [redOk]; grind
    · cases h

theorem Raw.barRedForm_accepts (r : Raw) : AcceptsEncodable r.barRedForm := by
  unfold Raw.barRedForm
  split
  · exact r.bad_accepts _ _
  next hk =>
    have hred := Raw.redKind_redOk hk
    exact Raw.finish_accepts fun ⟨hm, hu, hg, hl⟩ => ⟨by simp_all [Instr.wellFormed, Raw.form, Raw.noB, Raw.noLa], rfl⟩

theorem Raw.sync_accepts (r : Raw) : AcceptsEncodable r.sync := by
  unfold Raw.sync
  split
  next =>
    split
    iterate 4 next => exact Raw.scoped_accepts fun o ho => ⟨ho, rfl⟩
    next => exact r.badSub_accepts
  next =>
    split
    iterate 5 next => exact Raw.barForm_accepts fun o ho => ⟨ho, rfl⟩
    next => exact r.barRedForm_accepts
    next => exact r.badSub_accepts
  next =>
    split
    iterate 3 next =>
      exact Raw.finish_accepts fun ⟨hm, hu, hg, hl⟩ => ⟨by simp_all [Instr.wellFormed, Raw.form, Raw.noD, Raw.noLa], rfl⟩
    next => exact r.badSub_accepts
  next =>
    split
    next =>
      refine Raw.finish_accepts fun ⟨hm, _, hg, hl⟩ => ⟨?_, rfl⟩
      have hord : r.ordCode = 0#3 ∨ r.ordCode = 1#3 ∨ r.ordCode = 4#3 := by
        have := hl _ (List.mem_cons_self ..)
        simp only [Bool.or_eq_false_iff, Bool.not_eq_false', List.contains_iff_mem] at this
        simpa using this.1.1
      have hload : loadOrder (orderOf r.ordCode) = true := by rcases hord with h | h | h <;> rw [h] <;> rfl
      simp_all [Instr.wellFormed, Raw.form, Raw.noLa]
    iterate 2 next => exact Raw.scoped_accepts fun o ho => ⟨ho, rfl⟩
    next => exact r.badSub_accepts
  next =>
    split
    · exact Raw.finish_accepts fun ⟨hm, hu, hg, hl⟩ =>
        ⟨by simp_all [Instr.wellFormed, Raw.form, Raw.noD, Raw.noA, Raw.noB, Raw.noLa], rfl⟩
    · exact r.badSub_accepts
  next => exact r.badSub_accepts

/-! ### Matrix, transfer and system forms -/

theorem Raw.rows_accepts {r : Raw} {mk : RowsForm → Instr}
    (h : ∀ o : RowsForm, o.toForm.ok [0] true true true false true = true → rowsOk o.rb0 o.nrb1 = true → (mk o).Encodable) :
    AcceptsEncodable (r.rows mk) :=
  Raw.finish_accepts fun ⟨hm, _, hg, hl⟩ => h _ (by simp_all [Raw.form]) (by simpa using hl)

theorem Raw.matrix_accepts (r : Raw) : AcceptsEncodable r.matrix := by
  unfold Raw.matrix
  split
  next =>
    split
    iterate 3 next => exact Raw.finish_accepts fun ⟨hm, hu, hg, _⟩ => ⟨by simp_all [Instr.wellFormed, Raw.form, Raw.noA, Raw.noB], rfl⟩
    next => exact r.badSub_accepts
  iterate 2 next =>
    split
    · exact Raw.finish_accepts fun ⟨hm, _, hg, _⟩ => ⟨by simp_all [Instr.wellFormed, Raw.form], rfl⟩
    · exact r.badSub_accepts
  next =>
    split
    iterate 2 next => exact Raw.finish_accepts fun ⟨hm, hu, hg, hl⟩ => ⟨by simp_all [Instr.wellFormed, Raw.form, Raw.noD], rfl⟩
    next => exact r.badSub_accepts
  next =>
    split
    iterate 3 next => exact Raw.finish_accepts fun ⟨hm, hu, hg, hl⟩ => ⟨by simp_all [Instr.wellFormed, Raw.form, Raw.noB], rfl⟩
    next => exact r.badSub_accepts
  next =>
    split
    iterate 2 next => exact Raw.rows_accepts fun o ho hr => ⟨Bool.and_eq_true_iff.2 ⟨ho, hr⟩, rfl⟩
    next => exact Raw.finish_accepts fun ⟨hm, hu, hg, _⟩ => ⟨by simp_all [Instr.wellFormed, Raw.form, Raw.noB], rfl⟩
    next => exact r.badSub_accepts
  next =>
    split
    · exact Raw.finish_accepts fun ⟨hm, _, hg, _⟩ => ⟨by simp_all [Instr.wellFormed, Raw.form], rfl⟩
    · exact r.badSub_accepts
  next => exact r.badSub_accepts

theorem Raw.engine_accepts {r : Raw} {mk : Form → Instr} (h : ∀ o : Form, o.ok [0] true true false false true = true → (mk o).Encodable) :
    AcceptsEncodable (r.engine mk) := by
  unfold Raw.engine
  exact Raw.finish_accepts fun ⟨hm, hu, hg, _⟩ => h _ (by simp_all [Raw.form, Raw.noB, Raw.noC])

theorem Raw.transfer_accepts (r : Raw) : AcceptsEncodable r.transfer := by
  unfold Raw.transfer
  split
  next =>
    split
    iterate 2 next => exact Raw.engine_accepts fun o ho => ⟨ho, rfl⟩
    next => exact r.badSub_accepts
  next =>
    split
    iterate 2 next => exact Raw.finish_accepts fun ⟨hm, hu, hg, _⟩ => ⟨by simp_all [Instr.wellFormed, Raw.form, Raw.noA, Raw.noB], rfl⟩
    next => exact r.badSub_accepts
  next =>
    split
    iterate 2 next => exact Raw.engine_accepts fun o ho => ⟨ho, rfl⟩
    iterate 2 next => exact Raw.finish_accepts fun ⟨hm, hu, hg, _⟩ => ⟨by simp_all [Instr.wellFormed, Raw.form, Raw.noB], rfl⟩
    next => exact r.badSub_accepts
  next =>
    split
    iterate 4 next => exact Raw.engine_accepts fun o ho => ⟨ho, rfl⟩
    next => exact r.badSub_accepts
  next => exact r.badSub_accepts

theorem Raw.csr_accepts {r : Raw} {usesD usesA : Bool} {mk : CsrForm → Instr}
    (h : ∀ o : CsrForm, o.toForm.ok [0] usesD usesA false false false = true → (mk o).Encodable) : AcceptsEncodable (r.csr usesD usesA mk) :=
  Raw.finish_accepts fun ⟨hm, hu, hg, hl⟩ => h _ (by cases usesD <;> cases usesA <;> simp_all [Raw.form, Raw.noB, Raw.noLa])

theorem Raw.sized_accepts {r : Raw} {lo hi : Nat} {mk : SizeForm → Instr}
    (h : ∀ o : SizeForm, o.toForm.ok [0] true true true false false = true → lo ≤ o.sz.toNat → o.sz.toNat ≤ hi → (mk o).Encodable) :
    AcceptsEncodable (r.sized lo hi mk) :=
  Raw.finish_accepts fun ⟨hm, _, hg, hl⟩ => h _ (by simp_all [Raw.form, Raw.noLa]) (by simp_all) (by simp_all)

theorem Raw.system_accepts (r : Raw) : AcceptsEncodable r.system := by
  unfold Raw.system
  split
  next =>
    split
    iterate 4 next => exact Raw.csr_accepts fun o ho => ⟨ho, rfl⟩
    next => exact r.badSub_accepts
  next =>
    split
    · exact Raw.finish_accepts fun ⟨hm, hu, hg, hl⟩ => ⟨by simp_all [Instr.wellFormed, Raw.form, Raw.noC, Raw.noLa], rfl⟩
    · exact r.badSub_accepts
  next =>
    split
    next =>
      exact Raw.finish_accepts fun ⟨hm, hu, hg, hl⟩ =>
        ⟨by simp_all [Instr.wellFormed, Raw.form, Raw.noD, Raw.noB, Raw.noLa]; grind, rfl⟩
    next =>
      exact Raw.finish_accepts fun ⟨hm, hu, hg, hl⟩ =>
        ⟨by simp_all [Instr.wellFormed, Raw.form, Raw.noD, Raw.noA, Raw.noB, Raw.noLa], rfl⟩
    next => exact r.badSub_accepts
  next =>
    split
    iterate 2 next => exact Raw.sized_accepts fun o ho hlo hhi => ⟨by simp_all [Instr.wellFormed], rfl⟩
    next => exact Raw.finish_accepts fun ⟨hm, hu, hg, hl⟩ => ⟨by simp_all [Instr.wellFormed, Raw.form, Raw.noB, Raw.noLa], rfl⟩
    next => exact r.badSub_accepts
  next =>
    split
    next => exact Raw.sized_accepts fun o ho hlo hhi => ⟨by simp_all [Instr.wellFormed], rfl⟩
    iterate 2 next => exact Raw.finish_accepts fun ⟨hm, hu, hg, hl⟩ => ⟨by simp_all [Instr.wellFormed, Raw.form, Raw.noB, Raw.noLa], rfl⟩
    next => exact r.badSub_accepts
  next =>
    split
    iterate 4 next =>
      exact Raw.finish_accepts fun ⟨hm, hu, hg, hl⟩ =>
        ⟨by simp_all [Instr.wellFormed, Raw.form, Raw.noD, Raw.noA, Raw.noB, Raw.noLa], rfl⟩
    next => exact r.badSub_accepts
  next =>
    split
    · exact Raw.finish_accepts fun ⟨hm, hu, hg, hl⟩ => ⟨by simp_all [Instr.wellFormed, Raw.form, Raw.noB, Raw.noLa], rfl⟩
    · exact r.badSub_accepts
  next => exact r.badSub_accepts

/-- Checks 4 to 8 accept encodable instructions only, whatever the family of the major opcode. -/
theorem Raw.body_accepts (r : Raw) : AcceptsEncodable r.body := by
  unfold Raw.body
  split
  · exact r.integer_accepts
  · split
    · exact r.op20_accepts
    · exact r.op21_accepts
    · exact r.op22_accepts
    · exact r.op23_accepts
    · exact r.op24_accepts
    · exact r.op25_accepts
    · exact r.op26_accepts
    · exact r.op27_accepts
    · exact r.op28_accepts
    · exact r.op29_accepts
    · exact r.op2A_accepts
    · exact r.op2B_accepts
    · exact r.op2C_accepts
    · exact r.op2D_accepts
    · split
      · exact r.control_accepts
      split
      · exact r.memory_accepts
      split
      · exact r.sync_accepts
      split
      · exact r.matrix_accepts
      split
      · exact r.transfer_accepts
      · exact r.system_accepts

theorem decodeRaw_accepts (r : Raw) : AcceptsEncodable (decodeRaw r) := by
  unfold decodeRaw
  split
  · exact r.bad_accepts _ _
  split
  · exact r.bad_accepts _ _
  split
  · exact r.body_accepts
  · exact r.bad_accepts _ _

/-! ### The words that an instruction has -/

/-- Checks 5 to 8 of a format A form look at no field beyond the first word (R58). -/
theorem Raw.intA_firstWord (r : Raw) (la g : BitVec 4) (sub : W8) (imm : W16) (lit : W32) (mk : Form → Instr) :
    Raw.intA { r with la := la, g := g, sub := sub, imm := imm, lit := lit } mk = r.intA mk := rfl

/-- A format A instruction is its first word alone. -/
theorem Raw.body_firstWord {r : Raw} (la g : BitVec 4) (sub : W8) (imm : W16) (lit : W32) (hf : formatOf r.op.toNat = some .A) :
    Raw.body { r with la := la, g := g, sub := sub, imm := imm, lit := lit } = r.body := by
  have hop : r.op.toNat ≤ 0x0F ∨ r.op.toNat = 0x1A := by
    unfold formatOf at hf
    split at hf
    · cases hf
    split at hf
    · left; assumption
    split at hf
    · right; assumption
    · repeat' split at hf
      all_goals cases hf
  unfold Raw.body
  rw [if_pos (show r.op.toNat ≤ 0x1C by omega), if_pos (show r.op.toNat ≤ 0x1C by omega)]
  unfold Raw.integer
  dsimp only
  split
  iterate 15 next => exact Raw.intA_firstWord ..
  iterate 10 next h => omega
  next => rfl
  iterate 2 next h => omega
  next => rfl

theorem Raw.body_lit {r : Raw} (x : W32) (hf : formatOf r.op.toNat ≠ some .D) : Raw.body { r with lit := x } = r.body := by
  have h1C : r.op.toNat ≠ 0x1C := fun h => hf (by rw [h]; rfl)
  have h2B : r.op.toNat ≠ 0x2B := fun h => hf (by rw [h]; rfl)
  have h41 : r.op.toNat ≠ 0x41 := fun h => hf (by rw [h]; rfl)
  have hinteger : Raw.integer { r with lit := x } = r.integer := by
    unfold Raw.integer
    dsimp only
    split
    case h_28 h => exact absurd h h1C
    all_goals rfl
  have hcontrol : Raw.control { r with lit := x } = r.control := by
    unfold Raw.control
    dsimp only
    split
    case h_2 h => exact absurd h h41
    all_goals rfl
  unfold Raw.body
  rw [hinteger, hcontrol]
  dsimp only
  split
  · rfl
  · split
    case h_12 h => exact absurd h h2B
    all_goals rfl

/-- Two raw instructions with the same LEN and opcode decode alike where their bodies do. -/
theorem decodeRaw_congr {r q : Raw} (hlen : q.len = r.len) (hop : q.op = r.op)
    (hbody : ∀ f, formatOf r.op.toNat = some f → r.len = f.len → q.body = r.body) : decodeRaw q = decodeRaw r := by
  have hbad (reason field : Nat) : q.bad reason field = r.bad reason field := by simp only [Raw.bad, hlen]
  unfold decodeRaw
  rw [hlen, hop]
  split
  · exact hbad _ _
  cases hf : formatOf r.op.toNat with
  | none => exact hbad _ _
  | some f =>
    dsimp only
    split
    next hl => exact hbody f hf hl
    next => exact hbad _ _

theorem wordsOf_eq_one {w0 : W32} (h : wordsOf w0 = 1) : w0.extractLsb' 30 2 = 3 ∨ w0.extractLsb' 30 2 = 0 := by
  unfold wordsOf at h
  split at h
  · left; assumption
  · right; exact BitVec.eq_of_toNat_eq (by simpa using h)

theorem wordsOf_eq_two {w0 : W32} (h : wordsOf w0 = 2) : w0.extractLsb' 30 2 = 1 := by
  unfold wordsOf at h
  split at h
  · cases h
  · exact BitVec.eq_of_toNat_eq (by simpa using h)

/-- An instruction of one word is decoded from that word (R56). -/
theorem decode_oneWord {w0 : W32} (h : wordsOf w0 = 1) (w1 w2 x1 x2 : W32) : decode w0 w1 w2 = decode w0 x1 x2 := by
  refine decodeRaw_congr (r := unpack w0 x1 x2) (q := unpack w0 w1 w2) rfl rfl fun f hf hl => ?_
  have hlen : f.len = 3 ∨ f.len = 0 := hl ▸ wordsOf_eq_one h
  have hA : f = .A := by revert hlen; cases f <;> decide
  subst hA
  exact Raw.body_firstWord (r := unpack w0 x1 x2) (unpack w0 w1 w2).la (unpack w0 w1 w2).g (unpack w0 w1 w2).sub (unpack w0 w1 w2).imm w2 hf

/-- An instruction of two words is decoded from those. -/
theorem decode_twoWords {w0 : W32} (h : wordsOf w0 = 2) (w1 w2 x2 : W32) : decode w0 w1 w2 = decode w0 w1 x2 := by
  refine decodeRaw_congr (r := unpack w0 w1 x2) (q := unpack w0 w1 w2) rfl rfl fun f hf hl => ?_
  have hlen : f.len = 1 := hl ▸ wordsOf_eq_two h
  refine Raw.body_lit (r := unpack w0 w1 x2) w2 fun hD => ?_
  rw [hf, Option.some.injEq] at hD
  subst hD
  exact absurd hlen (by decide)

/-- Settles O2: what the body accepts is encodable, family by family; a form's body reads the words of its format only. -/
theorem decoderChecks : Obligations.DecoderChecks := by
  unfold Obligations.DecoderChecks
  refine ⟨fun w0 w1 w2 => decodeRaw_accepts (unpack w0 w1 w2),
    fun w0 w1 w2 x1 x2 => ⟨fun h => decode_oneWord h w1 w2 x1 x2, fun h => decode_twoWords h w1 w2 x2⟩, fun r => ⟨?_, ?_, ?_⟩⟩
  · intro hlen
    rw [decodeRaw, if_pos hlen]
  · intro hlen hop
    rw [decodeRaw, if_neg hlen, hop]
  · intro f hlen hop hf
    rw [decodeRaw, if_neg hlen, hop]
    exact if_neg hf

end Sys2Proof
end

section
/-! PROOFS. The integer forms as results of the arithmetic frame, and the scalar frame's one write (03 R61, 08 R174, 09 R179 to R191). -/

namespace Sys2Proof.Machine

/-! ### Values -/

theorem ofNat_toNat_mul (a b : W32) : BitVec.ofNat 32 (a.toNat * b.toNat) = a * b := by
  apply BitVec.eq_of_toNat_eq; simp [BitVec.toNat_mul]

theorem ite_sle (a b x y : W32) : (if a.sle b then x else y) = if a.toInt ≤ b.toInt then x else y := by
  simp only [BitVec.sle_eq_decide, decide_eq_true_eq]

theorem ite_ule (a b x y : W32) : (if a.ule b then x else y) = if a.toNat ≤ b.toNat then x else y := by
  simp only [BitVec.ule_eq_decide, decide_eq_true_eq]

/-- Bits 63:32 of a product are its quotient by 2^32, rounded down. -/
theorem hi32_ofInt (x : Int) : hi32 (BitVec.ofInt 64 x) = BitVec.ofInt 32 (x / 2 ^ 32) := by
  apply BitVec.eq_of_toNat_eq
  simp [hi32, BitVec.toNat_ofInt, Nat.shiftRight_eq_div_pow]
  omega

theorem hi32_ofNat (n : Nat) : hi32 (BitVec.ofNat 64 n) = BitVec.ofNat 32 (n / 2 ^ 32) := by
  apply BitVec.eq_of_toNat_eq
  simp [hi32, Nat.shiftRight_eq_div_pow]
  omega

theorem sat_eq_clamp {lo hi : Int} (h : lo ≤ hi) (x : Int) : sat x lo hi = max lo (min x hi) := by
  unfold sat
  split
  · omega
  · split <;> omega

theorem countBits_eq_length {w : Nat} (x : BitVec w) (n : Nat) : countBits x n = ((List.range n).filter (fun j => x.getLsbD j)).length := by
  induction n with
  | zero => rfl
  | succ n ih =>
    rw [countBits, ih, List.range_succ, List.filter_append, List.length_append, Nat.add_comm]
    cases h : x.getLsbD n <;> simp [h, boolNat]

theorem leadingZeros_eq_log2 {w : Nat} (x : BitVec w) (n : Nat) (h : x.toNat < 2 ^ n) :
    leadingZeros x n = if x.toNat = 0 then n else n - 1 - Nat.log2 x.toNat := by
  induction n with
  | zero => simp [leadingZeros]
  | succ n ih =>
    rw [leadingZeros]
    by_cases hn : x.toNat < 2 ^ n
    · have hbit : x.getLsbD n = false := Nat.testBit_lt_two_pow hn
      rw [ih hn, hbit]
      by_cases h0 : x.toNat = 0
      · simp [h0]; omega
      · have := (Nat.log2_lt h0).2 hn
        simp [h0]; omega
    · have hlog : Nat.log2 x.toNat = n := (Nat.log2_eq_iff (by have := Nat.two_pow_pos n; omega)).2 ⟨by omega, h⟩
      have hbit : x.getLsbD n = true := by
        have hdiv : x.toNat / 2 ^ n = 1 := Nat.div_eq_of_lt_le (by omega) (by rw [Nat.pow_succ] at h; omega)
        simp [BitVec.getLsbD, Nat.testBit_eq_decide_div_mod_eq, hdiv]
      have h0 : x.toNat ≠ 0 := by have := Nat.two_pow_pos n; omega
      simp [hbit, hlog, h0]

theorem leadingZeros_word (x : W32) : leadingZeros x 32 = if x = 0 then 32 else 31 - Nat.log2 x.toNat := by
  rw [leadingZeros_eq_log2 x 32 x.isLt]
  simp [← BitVec.toNat_inj]

/-- The fold that builds the reversed word, one bit at a time. -/
theorem testBit_foldl_bits {w : Nat} (x : BitVec w) (n i : Nat) :
    ((List.range n).foldl (fun acc j => 2 * acc + boolNat (x.getLsbD j)) 0).testBit i = (decide (i < n) && x.getLsbD (n - 1 - i)) := by
  induction n generalizing i with
  | zero => simp
  | succ n ih =>
    rw [List.range_succ, List.foldl_append]
    generalize (List.range n).foldl (fun acc j => 2 * acc + boolNat (x.getLsbD j)) 0 = a at ih
    have hbit : 2 * a + boolNat (x.getLsbD n) = Nat.bit (x.getLsbD n) a := by cases x.getLsbD n <;> simp [boolNat, Nat.bit_val]
    simp only [List.foldl_cons, List.foldl_nil, hbit]
    cases i with
    | zero => simp
    | succ i => simp [Nat.testBit_bit_succ, ih, Nat.sub_sub, Nat.add_comm 1 i]

theorem reverseBits_eq_reverse {w : Nat} (x : BitVec w) : reverseBits x = x.reverse := by
  apply BitVec.eq_of_getLsbD_eq
  intro i hi
  rw [reverseBits, BitVec.getLsbD_ofNat, upTo, testBit_foldl_bits, BitVec.getLsbD_reverse, BitVec.getMsbD_eq_getLsbD]
  simp [hi]

theorem saturate_eq (x : Int) : saturate x = { Out.of (saturated x).1 with ist := (saturated x).2 } := by
  simp only [saturate, saturated, sat_eq_clamp (show (-(2 ^ 31) : Int) ≤ 2 ^ 31 - 1 by decide)]
  rfl

/-- The result of an integer form: a destination and flags of ISTAT, no floating flag and no division trap. -/
def Out.integer (r : Dest × BitVec 3) : Out := { Out.of r.1 with ist := r.2 }

theorem next_arith_congr {s : State} {i : Instr} {o : Form} {f h : Env → Out} (hfh : ∀ e, f e = h e) :
    (.next (s.arith i o f) : Host.Outcome State Fault Refusal) = .next (s.arith i o h) := by rw [funext hfh]

/-- Each integer form is the arithmetic frame over the rule's value. -/
theorem exec_integerResults (o : Form) (k : W16) (lit : W32) (pos : BitVec 5) (len : BitVec 6) (c : Cond) :
    ∀ p ∈ integerResults o k lit pos len c, ∀ s, exec p.1 s = .next (s.arith p.1 o (fun e => Out.integer (p.2 e))) := by
  have hk : (k.zeroExtend 32).toNat = k.toNat := by simp; omega
  unfold integerResults
  simp only [List.forall_mem_cons, List.not_mem_nil, false_implies, implies_true, and_true]
  and_intros
  all_goals intro s
  iterate 2 next => rfl
  next => exact next_arith_congr fun e => congrArg Out.w (ofNat_toNat_mul (e.opA o) (e.opB o)).symm
  iterate 6 next => rfl
  next => exact next_arith_congr fun e => congrArg Out.w (ite_sle ..)
  next => exact next_arith_congr fun e => congrArg Out.w (ite_sle ..)
  next => exact next_arith_congr fun e => congrArg Out.w (ite_ule ..)
  next => exact next_arith_congr fun e => congrArg Out.w (ite_ule ..)
  iterate 4 next => rfl
  next => exact next_arith_congr fun e => congrArg Out.w (show shiftLeft (e.opA o) (k.zeroExtend 32) = _ by rw [shiftLeft, hk]; rfl)
  next => exact next_arith_congr fun e => congrArg Out.w (show shiftRight (e.opA o) (k.zeroExtend 32) = _ by rw [shiftRight, hk]; rfl)
  next => exact next_arith_congr fun e => congrArg Out.w (show shiftArith (e.opA o) (k.zeroExtend 32) = _ by rw [shiftArith, hk])
  next => exact next_arith_congr fun e => congrArg (fun n => Out.w (BitVec.ofNat 32 n)) (countBits_eq_length (e.opA o) 32)
  next => exact next_arith_congr fun e => congrArg (fun n => Out.w (BitVec.ofNat 32 n)) (leadingZeros_word (e.opA o))
  next => exact next_arith_congr fun e => congrArg Out.w (reverseBits_eq_reverse (e.opA o))
  iterate 7 next => rfl
  next => exact next_arith_congr fun e => congrArg Out.w (hi32_ofInt ((e.opA o).toInt * (e.opB o).toInt))
  next => exact next_arith_congr fun e => congrArg Out.w (hi32_ofNat ((e.opA o).toNat * (e.opB o).toNat))
  iterate 8 next => rfl
  next => exact next_arith_congr fun e => saturate_eq ((e.opA o).toInt + (e.opB o).toInt)
  next => exact next_arith_congr fun e => saturate_eq ((e.opA o).toInt - (e.opB o).toInt)

/-! ### The scalar frame -/

theorem ascending_insertNat_pairwise {n : Nat} {l : List Nat} (h : l.Pairwise (· ≤ ·)) : (ascending.insertNat n l).Pairwise (· ≤ ·) := by
  induction l with
  | nil => simp [ascending.insertNat]
  | cons m l ih =>
    rw [List.pairwise_cons] at h
    unfold ascending.insertNat
    split
    next hnm =>
      refine List.pairwise_cons.2 ⟨fun x hx => ?_, List.pairwise_cons.2 h⟩
      rcases List.mem_cons.1 hx with rfl | hx
      · exact hnm
      · exact Nat.le_trans hnm (h.1 x hx)
    next hnm =>
      refine List.pairwise_cons.2 ⟨fun x hx => ?_, ih h.2⟩
      rcases mem_insertNat.1 hx with rfl | hx
      · omega
      · exact h.1 x hx

theorem ascending_pairwise (l : List Nat) : (ascending l).Pairwise (· ≤ ·) := by
  induction l with
  | nil => simp [ascending]
  | cons n l ih => exact ascending_insertNat_pairwise ih

theorem Env.of_slot (s : State) (g : Group) (gid k : Nat) (it : Item) : (Env.of s g gid k it).slot = k := rfl

/-- The participants of a wave stand in ascending LSLOT. -/
theorem State.participants_pairwise (s : State) (i : Instr) : (s.participants i).Pairwise (fun e f => e.slot ≤ f.slot) := by
  unfold State.participants
  cases hg : s.group? s.wave.gid with
  | none => exact List.Pairwise.nil
  | some g =>
    refine List.Pairwise.filterMap _ (fun k j hkj e he f hf => ?_) (ascending_pairwise s.wave.slots)
    have hslot : ∀ {n : Nat} {e : Env}, e ∈ ((s.env? n).bind fun e => if e.passes i g.badS then some e else none) → e.slot = n := by
      intro n e he
      rw [Option.mem_def, Option.bind_eq_some_iff] at he
      obtain ⟨e', he', hpass⟩ := he
      rw [State.env?, hg] at he'
      obtain ⟨it, _, rfl⟩ := Option.map_eq_some_iff.1 he'
      split at hpass <;> cases hpass
      rfl
    rw [hslot he, hslot hf]
    exact hkj

/-- The first participant is the wave's lead (R61). -/
theorem State.participants_of_lead {s : State} {g : Group} (hp : Plain s g) {i : Instr} (ha : Admits s g i) {k : Nat} {it : Item}
    (hl : Lead s g i k it) : ∃ es, s.participants i = s.envOf g k it :: es := by
  obtain ⟨hk, hit, hguard, hleast⟩ := hl
  have hmem : s.envOf g k it ∈ s.participants i := (State.mem_participants hp ha _).2 ⟨k, hk, it, hit, hguard, rfl⟩
  have hsorted := State.participants_pairwise s i
  cases hes : s.participants i with
  | nil => rw [hes] at hmem; cases hmem
  | cons e es =>
    obtain ⟨j, hj, jt, hjt, hjg, rfl⟩ := (State.mem_participants hp ha e).1 (by rw [hes]; exact List.mem_cons_self ..)
    have hjk : j = k := by
      rw [hes] at hmem hsorted
      rcases List.mem_cons.1 hmem with heq | hin
      · exact (congrArg Env.slot heq).symm
      · exact Nat.le_antisymm ((List.pairwise_cons.1 hsorted).1 _ hin) (hleast j hj jt hjt hjg)
    subst hjk
    cases hit.symm.trans hjt
    exact ⟨es, rfl⟩

/-- A write of s registers only ends errors in them. -/
theorem Group.writeScalar_badS_subset (g : Group) (d : BitVec 7) (x : Dest) {n : Nat} (h : n ∈ (g.writeScalar d x).badS) : n ∈ g.badS := by
  unfold Group.writeScalar at h
  split at h
  · exact List.mem_of_mem_erase h
  · exact List.mem_of_mem_erase (List.mem_of_mem_erase h)
  · exact h

theorem poisonedName_mono {it : Item} {badS badS' : List Nat} (hsub : ∀ n ∈ badS', n ∈ badS) {names : List RegName}
    (h : poisonedName it badS names = none) : poisonedName it badS' names = none := by
  simp only [poisonedName, Option.map_eq_none_iff, List.find?_eq_none] at h ⊢
  intro r hr
  have := h r hr
  cases r <;> simp_all
  exact fun hn => this (hsub _ hn)

@[simp] theorem Group.writeScalar_items (g : Group) (d : BitVec 7) (x : Dest) : (g.writeScalar d x).items = g.items := by cases x <;> rfl
@[simp] theorem Group.writeScalar_guarded (g : Group) (d : BitVec 7) (x : Dest) : (g.writeScalar d x).guarded = g.guarded := by cases x <;> rfl
@[simp] theorem Group.writeScalar_kh (g : Group) (d : BitVec 7) (x : Dest) : (g.writeScalar d x).kh = g.kh := by cases x <;> rfl

/-- The write of a plain group's s registers. -/
theorem State.writeScalar_plain {s : State} {g : Group} (hp : Plain s g) (d : BitVec 7) (x : Dest) :
    s.writeScalar d x = s.modGroup s.wave.gid (fun h => h.writeScalar d x) := by
  unfold State.writeScalar
  exact State.modGroup_congr hp.group (by rw [hp.unguarded]; cases x <;> rfl)

theorem Plain.writeScalar {s : State} {g : Group} (hp : Plain s g) (d : BitVec 7) (x : Dest) :
    Plain (s.modGroup s.wave.gid (fun h => h.writeScalar d x)) (g.writeScalar d x) where
  group := by simp [hp.group]
  single := by
    have := hp.single
    simpa only [State.duplex, Group.writeScalar_kh, State.kernel?_modGroup] using this
  unguarded := by simpa using hp.unguarded
  clear := by simpa [Group.Clear] using hp.clear

theorem Admits.writeScalar {s : State} {g : Group} {i : Instr} (ha : Admits s g i) (d : BitVec 7) (x : Dest) :
    Admits (s.modGroup s.wave.gid (fun h => h.writeScalar d x)) (g.writeScalar d x) i := by
  intro p hm hs
  rw [Group.writeScalar_items] at hm
  rcases ha p hm hs with ⟨hgo, hpoison⟩ | hskip
  · exact .inl ⟨hgo, poisonedName_mono (fun n hn => g.writeScalar_badS_subset d x hn) hpoison⟩
  · exact .inr hskip

theorem Item.raise_integer (it : Item) (r : Dest × BitVec 3) : it.raise (Out.integer r) = { it with istat := it.istat ||| r.2 } := by
  simp [Item.raise, Out.integer, Out.of]

/-- The scalar frame of an integer form in a plain wave with a lead: one write of s registers, the flag to every member with a true guard. -/
theorem State.scalarWave_lead {s : State} {g : Group} (hp : Plain s g) {i : Instr} (ha : Admits s g i) {o : Form} (f : Env → Dest × BitVec 3)
    {k : Nat} {it : Item} (hl : Lead s g i k it) :
    s.scalarWave i o (fun e => Out.integer (f e)) =
      (s.modGroup s.wave.gid (fun h => h.writeScalar o.d (f (s.envOf g k it)).1)).after (g.writeScalar o.d (f (s.envOf g k it)).1)
        (fun e => e.under i Env.nextPc (fun e => { e.it with istat := e.it.istat ||| (f (s.envOf g k it)).2 })) := by
  obtain ⟨es, hes⟩ := State.participants_of_lead hp ha hl
  simp only [State.scalarWave, hes]
  rw [State.writeScalar_plain hp]
  refine State.mapWave_plain (hp.writeScalar _ _) (ha.writeScalar _ _) _ _ fun p hm _ _ => ?_
  rw [Group.writeScalar_items] at hm
  rw [Item.raise_integer]
  exact ⟨rfl, hp.clear p hm⟩

/-- Settles O5: each integer form is the arithmetic frame over its rule's value, which in the scalar unit writes the lead's value once. -/
theorem integerScalarResults : Obligations.IntegerScalarResults := by
  unfold Obligations.IntegerScalarResults
  intro s g o k lit pos len c hp hm p hmem ha
  have hscalar : (o.m = 2 || o.m = 3) = true := by rcases hm with h | h <;> simp [h]
  rw [exec_integerResults o k lit pos len c p hmem, State.arith, if_pos hscalar]
  constructor
  · intro j it hl
    rw [State.scalarWave_lead hp ha p.2 hl]
    rfl
  · intro hnone
    simp only [State.scalarWave, (State.participants_eq_nil hp ha).2 hnone]
    rw [State.mapWave_pass hp ha]

end Sys2Proof.Machine
end

section
/-! PROOFS. A form whose wave is one item acts once (08 R154 to R158), and the control-register forms (03 R72 to R74). -/

namespace Sys2Proof.Machine

/-! ### One item -/

/-- A form that reaches beyond its items acts once where its wave is one item. -/
theorem State.foldl_stepItem_alone {s t : State} {g : Group} {i : Instr} {k : Nat} {it : Item} (ha : Alone s g i k it) {body : Env → State → State}
    (hbody : body (s.envOf g k it) s = t) (hd : t.duplex g = false) : (ascending s.wave.slots).foldl (State.stepItem i false body) s = t := by
  obtain ⟨hp, honly, hhere, hgo, hwhole⟩ := ha
  have henv : s.env? k = some (s.envOf g k it) := by simp [State.env?, hp.group, hhere]
  rw [honly]
  simp [ascending, ascending.insertNat, State.stepItem, henv, hp.group, hgo, hwhole, hp.single, hbody, hd]

/-- An unguarded group has no undo buffer. -/
theorem State.undoWave_unguarded {s : State} {gid : Nat} {g : Group} (hg : s.group? gid = some g) (hu : g.guarded = none) (sh : Shape) :
    s.undoWave gid sh = s := by
  simp [State.undoWave, State.undoRegisters, hg, hu]

theorem Table.mem_modify {α : Type} {t : Table α} {k : Nat} {f : α → α} {p : Nat × α} (h : p ∈ Table.modify t k f) :
    p ∈ t ∨ ∃ a, (k, a) ∈ t ∧ p = (k, f a) := by
  induction t with
  | nil => cases h
  | cons q t ih =>
    obtain ⟨j, a⟩ := q
    unfold Table.modify at h
    split at h
    next hk =>
      subst hk
      rcases List.mem_cons.1 h with rfl | h
      · exact .inr ⟨a, List.mem_cons_self .., rfl⟩
      · exact .inl (List.mem_cons_of_mem _ h)
    next =>
      rcases List.mem_cons.1 h with rfl | h
      · exact .inl (List.mem_cons_self ..)
      · rcases ih h with h | ⟨b, hb, rfl⟩
        · exact .inl (List.mem_cons_of_mem _ h)
        · exact .inr ⟨b, List.mem_cons_of_mem _ hb, rfl⟩

theorem Group.Clear.modItem {g : Group} (hc : g.Clear) (k : Nat) {it : Item} (hf : it.fatal = none) (hcon : it.consumed = none) :
    (g.modItem k (fun _ => it)).Clear := by
  intro p hm
  rcases Table.mem_modify hm with hm | ⟨_, _, rfl⟩
  · exact hc p hm
  · exact ⟨hf, hcon⟩

@[simp] theorem State.group?_setItem (s : State) (gid k : Nat) (it : Item) :
    (s.setItem gid k it).group? gid = (s.group? gid).map (fun g => g.modItem k (fun _ => it)) := State.group?_modGroup_self ..

/-- The state after a form over a lone item that ends in the item, after a change of state `u` that leaves the group plain. -/
theorem State.foldWave_finish {s u : State} {g g' : Group} {i : Instr} {k : Nat} {it : Item} (ha : Alone s g i k it) {body : Env → State → State}
    {end_ : Ending} (hbody : body (s.envOf g k it) s = (s.envOf g k it).finish i end_ u) (hg : u.group? s.wave.gid = some g')
    (hk : u.kernels = s.kernels) (hu : g'.guarded = none) (hc : g'.Clear) (hf : ((s.envOf g k it).close (shapeOf i) end_).fatal = none)
    (hcon : ((s.envOf g k it).close (shapeOf i) end_).consumed = none) :
    s.foldWave i false body = u.setItem s.wave.gid k ((s.envOf g k it).close (shapeOf i) end_) := by
  have hdup : (u.setItem s.wave.gid k ((s.envOf g k it).close (shapeOf i) end_)).duplex g = false := by
    rw [← ha.plain.single, State.duplex, State.duplex, State.kernel?, State.kernel?, ← hk]
    rfl
  have hgrp : (u.setItem s.wave.gid k ((s.envOf g k it).close (shapeOf i) end_)).group? s.wave.gid =
      some (g'.modItem k (fun _ => (s.envOf g k it).close (shapeOf i) end_)) := by
    rw [State.group?_setItem, hg]
    rfl
  simp only [State.foldWave]
  rw [State.foldl_stepItem_alone ha hbody hdup]
  show ((u.setItem s.wave.gid k ((s.envOf g k it).close (shapeOf i) end_)).undoWave s.wave.gid (shapeOf i)).settle s.wave.gid = _
  rw [State.undoWave_unguarded hgrp hu]
  exact State.settle_of_clear hgrp (hc.modItem k hf hcon)

theorem Alone.item_clear {s : State} {g : Group} {i : Instr} {k : Nat} {it : Item} (ha : Alone s g i k it) : it.fatal = none ∧ it.consumed = none :=
  ha.plain.clear (k, it) (Table.get?_some_mem ha.here)

/-! ### Control registers -/

/-- A register field that fits the item's window passes R59 and R60. -/
theorem Use.fails_of_fits {it : Item} {r : BitVec 7} {wide : Bool} (h : it.fits r wide) (f : Nat) (reads writes : Bool) :
    Use.fails it ⟨f, if wide then .v2 else .v, r, reads, writes⟩ = none := by
  obtain ⟨hlt, heven⟩ := h
  cases wide <;> simp_all [Use.fails, Item.hasV]

theorem csrFields_eq_none {it : Item} {op : CsrOp} {o : CsrForm} {wide : Bool} (hw : csrWords o.num = if wide then 2 else 1)
    (hd : op.hasD = true → it.fits o.d wide) (ha : op.writes = true → it.fits o.a wide) : csrFields it op o = none := by
  have hk : (if csrWords o.num = 2 then OpKind.v2 else .v) = if wide then .v2 else .v := by cases wide <;> simp [hw]
  have huse {r : BitVec 7} (h : it.fits r wide) (f : Nat) (a b : Bool) := Use.fails_of_fits h f a b
  simp only [csrFields, hk]
  cases op <;> simp_all [CsrOp.hasD, CsrOp.writes, checkUses, rd, wr]

/-- No register of an item without errors is poisoned. -/
theorem poisonedName_of_v {it : Item} (hbad : it.bad = []) (badS : List Nat) {names : List RegName} (hv : ∀ r ∈ names, ∃ n, r = .v n) :
    poisonedName it badS names = none := by
  simp only [poisonedName, Option.map_eq_none_iff, List.find?_eq_none]
  intro r hr
  obtain ⟨n, rfl⟩ := hv r hr
  simp [hbad]

theorem csrPoisoned_eq_none {e : Env} (hbad : e.it.bad = []) (hcsr : e.it.badCsr = false) (op : CsrOp) (o : CsrForm) (badS : List Nat) :
    csrPoisoned e op o badS = none := by
  have hnames : poisonedName e.it badS (rd 2 (.csr (csrWords o.num)) o.a).names = none :=
    poisonedName_of_v hbad badS fun r hr => by
      obtain ⟨n, _, rfl⟩ := List.mem_map.1 hr
      exact ⟨_, rfl⟩
  simp [csrPoisoned, hnames, hcsr]

theorem State.loggedItemValue_off {s : State} {gid : Nat} {g : Group} (hg : s.group? gid = some g) (hoff : (s.hind g.ctx).mode = .off)
    (slot src : Nat) (x detail : W64) : s.loggedItemValue gid slot src x detail = (x, s) := by
  simp only [State.loggedItemValue, hg]
  split
  · simp [State.loggedValue, hoff]
  · rfl

/-- What a control-register form leaves in its item (R74): the value `x` written, then the old value in D. -/
def Item.csrDone (it : Item) (op : CsrOp) (o : CsrForm) (old x : W64) : Item :=
  let it' := if op.writes then it.csrWrite o.num.toNat x else it
  if op.hasD then it'.putCsr o old else it'

/-- A control-register form that passes the checks of R73 ends with its write done and the old value in D. -/
theorem csrForm_done {s : State} {g : Group} {i : Instr} {op : CsrOp} {o : CsrForm} {e : Env} {wide : Bool} {old : W64}
    (hg : s.group? e.gid = some g) (hoff : (s.hind g.ctx).mode = .off) (hbad : e.it.bad = []) (hcsr : e.it.badCsr = false)
    (hcycle : o.num.toNat ≠ 0x020) (hroot : op.writes = true → o.num.toNat ≠ 0x302)
    (htiles : op = .r → o.num.toNat = 0x104 → ∀ p ∈ g.tiles, p.2.ops = [])
    (hrefused : csrRefused op o.num.toNat (s.privileged g) = none) (hw : csrWords o.num = if wide then 2 else 1)
    (hd : op.hasD = true → e.it.fits o.d wide) (ha : op.writes = true → e.it.fits o.a wide)
    (hold : s.csrValue g e.slot e.it (g.mstatWait e.was).2 o.num.toNat = old)
    (hvalue : op.writes = true → csrValueRefused o.num.toNat (op.value old (e.it.takeCsr o)) = none) :
    csrForm i op o s e s = e.finish i (.done (e.it.csrDone op o old (op.value old (e.it.takeCsr o))))
      (if op.writes then s.csrWrite e.gid g.ctx o.num.toNat (op.value old (e.it.takeCsr o)) else s) := by
  have hwait : ¬ (op = .r ∧ o.num.toNat = 0x104 ∧ g.tiles.any (fun t => t.2.ops.any (fun q => decide (q.issue < (g.mstatWait e.was).1)))) := by
    rintro ⟨hr, hm, hany⟩
    obtain ⟨p, hp, hops⟩ := List.any_eq_true.1 hany
    rw [htiles hr hm p hp] at hops
    cases hops
  have hgo : (op.writes && o.num.toNat == 0x302 && !s.spanQuiet g.ctx none) = false := by
    cases hwr : op.writes
    · rfl
    · simp [hroot hwr]
  have hlog (src : Nat) : s.loggedItemValue e.gid e.slot src old 0 = (old, s) := State.loggedItemValue_off hg hoff _ _ _ _
  have hval : (if op.writes then csrValueRefused o.num.toNat (op.value old (e.it.takeCsr o)) else none) = none := by
    split
    next hwr => exact hvalue hwr
    next => rfl
  simp only [csrForm, State.withGroup, hg, hrefused, csrFields_eq_none hw hd ha, csrPoisoned_eq_none hbad hcsr, if_neg hwait, Option.getD_some, hold,
    hval, hgo, hlog, if_neg hcycle, Item.csrDone]
  cases (if op.hasD then csrSource o.num.toNat else none) <;> rfl

/-- A refused control-register form traps (R73, R414). -/
theorem csrForm_refused {s : State} {g : Group} {i : Instr} {op : CsrOp} {o : CsrForm} {e : Env} {t : Trap} (hg : s.group? e.gid = some g)
    (hrefused : csrRefused op o.num.toNat (s.privileged g) = some t) (ht : t.cause ≠ causePoison) :
    csrForm i op o s e s = e.finish i (.trap e.it t) s := by
  simp [csrForm, State.withGroup, hg, hrefused, ht]

/-- The registers of 0x300 to 0x3FF belong to system contexts (R72). -/
theorem csrRefused_priv {op : CsrOp} {num : Nat} (h1 : 0x300 ≤ num) (h2 : num ≤ 0x3FF) : csrRefused op num false = some (privCsr num) := by
  simp [csrRefused, h1, h2]

/-- A trap of an item with a handler, outside it and with no window open, is its entry (R412). -/
theorem Env.close_trap {e : Env} {sh : Shape} {it : Item} {h : W64} {t : Trap} (hlead : e.it.windows = []) (hh : e.handler = some h) (hin : it.inHandler = false)
    (hpc : it.pc = e.it.pc) : e.close sh (.trap it t) = e.entered it h t := by
  simp [Env.close, Item.leading, hlead, Item.takeTrap, hh, hin, Env.entered, trapCauseWord, hpc]

theorem exec_csr (o : CsrForm) (s : State) (hcycle : o.num.toNat ≠ 0x020) :
    exec (.csrr o) s = .next (s.foldWave (.csrr o) false (csrForm (.csrr o) .r o s)) ∧
    exec (.csrw o) s = .next (s.foldWave (.csrw o) false (csrForm (.csrw o) .w o s)) ∧
    exec (.csrs o) s = .next (s.foldWave (.csrs o) false (csrForm (.csrs o) .s o s)) ∧
    exec (.csrc o) s = .next (s.foldWave (.csrc o) false (csrForm (.csrc o) .c o s)) := by
  refine ⟨?_, rfl, rfl, rfl⟩
  have : s.advanceCycle o.num.toNat = s := by
    unfold State.advanceCycle
    split
    · rfl
    · exact if_neg hcycle
  show Host.Outcome.next ((s.advanceCycle o.num.toNat).foldWave (.csrr o) false (csrForm (.csrr o) .r o (s.advanceCycle o.num.toNat))) = _
  rw [this]

@[simp] theorem Item.putCsr_fatal (it : Item) (o : CsrForm) (x : W64) : (it.putCsr o x).fatal = it.fatal := by unfold Item.putCsr; split <;> rfl
@[simp] theorem Item.putCsr_consumed (it : Item) (o : CsrForm) (x : W64) : (it.putCsr o x).consumed = it.consumed := by
  unfold Item.putCsr; split <;> rfl
@[simp] theorem Item.csrWrite_fatal (it : Item) (num : Nat) (x : W64) : (it.csrWrite num x).fatal = it.fatal := by unfold Item.csrWrite; split <;> rfl
@[simp] theorem Item.csrWrite_consumed (it : Item) (num : Nat) (x : W64) : (it.csrWrite num x).consumed = it.consumed := by
  unfold Item.csrWrite; split <;> rfl
@[simp] theorem Item.csrDone_fatal (it : Item) (op : CsrOp) (o : CsrForm) (old x : W64) : (it.csrDone op o old x).fatal = it.fatal := by
  cases op <;> simp [Item.csrDone, CsrOp.writes, CsrOp.hasD]
@[simp] theorem Item.csrDone_consumed (it : Item) (op : CsrOp) (o : CsrForm) (old x : W64) : (it.csrDone op o old x).consumed = it.consumed := by
  cases op <;> simp [Item.csrDone, CsrOp.writes, CsrOp.hasD]

/-- The write of a control register other than PTROOT changes no kernel, no item and none of what the wave's environment holds. -/
theorem State.csrWrite_frame {s : State} {gid ctx num : Nat} {x : W64} {g : Group} (hg : s.group? gid = some g) (hroot : num ≠ 0x302) :
    (s.csrWrite gid ctx num x).kernels = s.kernels ∧ (s.csrWrite gid ctx num x).wave = s.wave ∧ (s.csrWrite gid ctx num x).tick = s.tick ∧
      ∃ g', (s.csrWrite gid ctx num x).group? gid = some g' ∧ g'.items = g.items ∧ g'.guarded = g.guarded := by
  unfold State.csrWrite
  split
  · exact ⟨rfl, rfl, rfl, { g with mstat := g.mstat &&& ~~~(x.truncate 5) }, by rw [State.group?_modGroup_self, hg]; rfl, rfl, rfl⟩
  · exact absurd rfl hroot
  · exact ⟨rfl, rfl, rfl, g, hg, rfl, rfl⟩
  · exact ⟨rfl, rfl, rfl, g, hg, rfl, rfl⟩
  · exact ⟨rfl, rfl, rfl, g, hg, rfl, rfl⟩

/-- The state that a control-register form leaves beside its item. -/
def State.csrDone (s : State) (op : CsrOp) (gid ctx num : Nat) (x : W64) : State := if op.writes then s.csrWrite gid ctx num x else s

theorem State.goesOn_eq {s u : State} {g : Group} {i : Instr} {k : Nat} {it : Item} (f : Item → Item) (hw : u.wave = s.wave) (ht : u.tick = s.tick) :
    u.goesOn i g k it f = u.setItem s.wave.gid k ((s.envOf g k it).on i (s.envOf g k it).nextPc (f (s.envOf g k it).it)) := by
  simp only [State.goesOn, Env.on, Env.nextPc, State.envOf, Env.of, hw, ht]

theorem State.goesOn_congr {s : State} {g : Group} {i : Instr} {k : Nat} {it : Item} {f h : Item → Item}
    (hfh : f (s.envOf g k it).it = h (s.envOf g k it).it) : s.goesOn i g k it f = s.goesOn i g k it h := by
  simp only [State.goesOn, hfh]

/-- A lone item's control-register form that passes the checks of R73. -/
theorem State.foldWave_csr {s : State} {g : Group} {i : Instr} {op : CsrOp} {o : CsrForm} {k : Nat} {it : Item} {wide : Bool} {old x : W64}
    (hal : Alone s g i k it) (hr : CsrReady s g it o.num.toNat)
    (hcycle : o.num.toNat ≠ 0x020) (hroot : op.writes = true → o.num.toNat ≠ 0x302)
    (htiles : op = .r → o.num.toNat = 0x104 → ∀ p ∈ g.tiles, p.2.ops = [])
    (hrefused : csrRefused op o.num.toNat (s.privileged g) = none) (hw : csrWords o.num = if wide then 2 else 1)
    (hd : op.hasD = true → it.fits o.d wide) (ha : op.writes = true → it.fits o.a wide)
    (hold : s.csrValue g k (s.envOf g k it).it (g.mstatWait it.wait).2 o.num.toNat = old) (hx : op.value old (it.takeCsr o) = x)
    (hvalue : op.writes = true → csrValueRefused o.num.toNat x = none) :
    s.foldWave i false (csrForm i op o s) =
      (s.csrDone op s.wave.gid g.ctx o.num.toNat x).goesOn i g k it (fun it => it.csrDone op o old x) := by
  subst hx
  obtain ⟨hfatal, hconsumed⟩ := hal.item_clear
  have hbody := csrForm_done (i := i) (op := op) (o := o) (e := s.envOf g k it) hal.plain.group hr.unlogged hr.whole.1 hr.whole.2 hcycle hroot htiles
    hrefused hw hd ha hold hvalue
  have hframe : (s.csrDone op s.wave.gid g.ctx o.num.toNat (op.value old (it.takeCsr o))).kernels = s.kernels ∧
      (s.csrDone op s.wave.gid g.ctx o.num.toNat (op.value old (it.takeCsr o))).wave = s.wave ∧
      (s.csrDone op s.wave.gid g.ctx o.num.toNat (op.value old (it.takeCsr o))).tick = s.tick ∧
      ∃ g', (s.csrDone op s.wave.gid g.ctx o.num.toNat (op.value old (it.takeCsr o))).group? s.wave.gid = some g' ∧ g'.items = g.items ∧
        g'.guarded = g.guarded := by
    unfold State.csrDone
    split
    next hwr => exact State.csrWrite_frame hal.plain.group (hroot hwr)
    next => exact ⟨rfl, rfl, rfl, g, hal.plain.group, rfl, rfl⟩
  obtain ⟨hk, hwave, htick, g', hg', hitems, hguarded⟩ := hframe
  rw [State.goesOn_eq _ hwave htick]
  refine State.foldWave_finish hal hbody hg' hk (hguarded.trans hal.plain.unguarded) ?_ ?_ ?_
  · intro p hp
    exact hal.plain.clear p (hitems ▸ hp)
  · exact (Item.csrDone_fatal ..).trans hfatal
  · exact (Item.csrDone_consumed ..).trans hconsumed

theorem csrRefused_eq_none {op : CsrOp} {num : Nat} {priv : Bool} (halloc : csrAllocated num = true) (hpriv : 0x300 ≤ num → priv = true)
    (hctl : num ≠ 0x400) (hwr : op.writes = true → csrWritable num = true) (hclr : op = .s ∨ op = .c → csrClears num = false) :
    csrRefused op num priv = none := by
  have h1 : (!priv && (decide (0x300 ≤ num) && decide (num ≤ 0x3FF) || (op.writes && num == 0x400))) = false := by
    cases priv <;> simp_all
  have h2 : (op.writes && !csrWritable num) = false := by cases h : op.writes <;> simp_all
  have h3 : ((op == .s || op == .c) && csrClears num) = false := by cases op <;> simp_all
  simp [csrRefused, h1, h2, h3, halloc]

/-- The rows of the statement are allocated registers, none with an effect or a form of its own, each of the width that the row says. -/
theorem csrRows_allocated (s : State) (g : Group) (k : Nat) (it : Item) : ∀ row ∈ csrRows s g k it, csrAllocated row.1 = true ∧
    (row.1 ≠ 0x020 ∧ row.1 ≠ 0x104 ∧ row.1 ≠ 0x400) ∧ [0x000, 0x001, 0x020, 0x111, 0x112, 0x302, 0x401].contains row.1 = row.2.1 := by
  simp only [csrRows, List.forall_mem_cons, List.not_mem_nil, false_implies, implies_true, and_true]
  and_intros
  all_goals decide

theorem csrRows_value (s : State) (g : Group) (k : Nat) (it : Item) (flags : BitVec 5) :
    ∀ row ∈ csrRows s g k it, s.csrValue g k it flags row.1 = row.2.2 := by
  simp [csrRows, State.csrValue, Group.present]

/-- csrr of a register that asks for nothing first, with its value in D. -/
theorem csrr_done {s : State} {g : Group} {o : CsrForm} {k : Nat} {it : Item} {wide : Bool} {old : W64} (hal : Alone s g (.csrr o) k it)
    (hr : CsrReady s g it o.num.toNat) (halloc : csrAllocated o.num.toNat = true) (hcycle : o.num.toNat ≠ 0x020) (hctl : o.num.toNat ≠ 0x400)
    (htiles : o.num.toNat = 0x104 → ∀ p ∈ g.tiles, p.2.ops = []) (hw : csrWords o.num = if wide then 2 else 1) (hfit : it.fits o.d wide)
    (hold : s.csrValue g k (s.envOf g k it).it (g.mstatWait it.wait).2 o.num.toNat = old) :
    exec (.csrr o) s = .next (s.goesOn (.csrr o) g k it (fun it => if wide then it.writeV2 o.d old else it.writeV o.d (lo32 old))) := by
  have hrefused : csrRefused .r o.num.toNat (s.privileged g) = none :=
    csrRefused_eq_none halloc hr.allowed hctl (fun h => by cases h) (fun h => by rcases h with h | h <;> cases h)
  rw [(exec_csr o s hcycle).1, State.foldWave_csr (op := .r) hal hr hcycle (fun h => by cases h) (fun _ => htiles) hrefused hw (fun _ => hfit)
    (fun h => by cases h) hold rfl (fun h => by cases h)]
  refine congrArg _ (State.goesOn_congr ?_)
  simp only [Item.csrDone, CsrOp.writes, CsrOp.hasD, Item.putCsr, hw]
  cases wide <;> rfl

/-- The registers of 32 bits that the statement writes. -/
def writtenCsrs : List Nat := [0x100, 0x101, 0x102, 0x103, 0x104, 0x303]

theorem writtenCsrs_spec : ∀ n ∈ writtenCsrs, csrAllocated n = true ∧ csrWritable n = true ∧ (n ≠ 0x020 ∧ n ≠ 0x302 ∧ n ≠ 0x400) ∧
    [0x000, 0x001, 0x020, 0x111, 0x112, 0x302, 0x401].contains n = false := by decide

/-- A form that writes a register of 32 bits leaves the state `u`, the item `f` of itself, and the old value in D where the form has one. -/
theorem csr_written {s u : State} {g : Group} {i : Instr} (op : CsrOp) {o : CsrForm} {k : Nat} {it : Item} {n : Nat} {old : W64} {x : W64} {f : Item → Item}
    (hmem : n ∈ writtenCsrs) (hwrites : op.writes = true)
    (hexec : o.num.toNat ≠ 0x020 → exec i s = .next (s.foldWave i false (csrForm i op o s))) (hr : CsrReady s g it o.num.toNat)
    (ha : it.fits o.a false) (hat : Alone s g i k it ∧ o.num.toNat = n) (hclr : op = .s ∨ op = .c → csrClears n = false)
    (hd : op.hasD = true → it.fits o.d false) (hold : s.csrValue g k (s.envOf g k it).it (g.mstatWait it.wait).2 n = old)
    (hx : op.value old ((it.readV o.a).zeroExtend 64) = x) (hvalue : csrValueRefused n x = none)
    (hu : s.csrWrite s.wave.gid g.ctx n x = u) (hf : ∀ it' : Item, it'.badCsr = false → it'.csrWrite n x = f it') :
    exec i s = .next (u.goesOn i g k it (fun it => if op.hasD then (f it).writeV o.d (lo32 old) else f it)) := by
  obtain ⟨hal, hnum⟩ := hat
  subst hnum
  obtain ⟨halloc, hwritable, ⟨hcycle, hroot, hctl⟩, hwords⟩ := writtenCsrs_spec _ hmem
  have hw : csrWords o.num = 1 := by rw [csrWords, hwords]; rfl
  have hnotr : op ≠ .r := by rintro rfl; cases hwrites
  have htake : it.takeCsr o = (it.readV o.a).zeroExtend 64 := by rw [Item.takeCsr, hw]; rfl
  rw [hexec hcycle, State.foldWave_csr (wide := false) hal hr hcycle (fun _ => hroot) (fun h => absurd h hnotr)
    (csrRefused_eq_none halloc hr.allowed hctl (fun _ => hwritable) hclr) hw hd (fun _ => ha) hold (htake ▸ hx) (fun _ => hvalue)]
  simp only [State.csrDone, hwrites, if_true, hu]
  refine congrArg _ (State.goesOn_congr ?_)
  simp only [Item.csrDone, hwrites, if_true, Item.putCsr, hw, hf (u.envOf g k it).it hr.whole.2]
  rfl

/-- Reserved bits of a register of 32 bits, in its 64-bit value. -/
theorem csrValueRefused_eq_none {n : Nat} {x m : W32} (hm : csrReserved n = m.zeroExtend 64) (hx : x &&& m = 0) (hn : n ≠ 0x303) :
    csrValueRefused n (x.zeroExtend 64) = none := by
  have : x.zeroExtend 64 &&& csrReserved n = 0 := by
    rw [hm, ← BitVec.setWidth_and, hx]
    rfl
  simp [csrValueRefused, this, hn]

theorem lo32_zeroExtend (x : W32) : lo32 (x.zeroExtend 64) = x := by
  simp [lo32]

theorem Item.csrWrite_badCsr {it : Item} (h : it.badCsr = false) (x : W64) :
    it.csrWrite 0x100 x = { it with fpctl := lo32 x } ∧ it.csrWrite 0x101 x = { it with fpstat := it.fpstat &&& ~~~(x.truncate 5) } ∧
    it.csrWrite 0x102 x = { it with istat := it.istat &&& ~~~(x.truncate 3) } ∧ it.csrWrite 0x103 x = { it with ictl := x.truncate 2 } := by
  cases it
  cases h
  exact ⟨rfl, rfl, rfl, rfl⟩

theorem zeroExtend_and_not (a x : W32) : a.zeroExtend 64 &&& ~~~(x.zeroExtend 64) = (a &&& ~~~x).zeroExtend 64 := by
  ext j hj
  simp only [BitVec.truncate_eq_setWidth, BitVec.getElem_and, BitVec.getElem_not, BitVec.getElem_setWidth, BitVec.getLsbD_and, BitVec.getLsbD_not]
  cases h : a.getLsbD j
  · rfl
  · simp [BitVec.lt_of_getLsbD h]

/-- ISOPER's limits leave its reserved bits 0 (R86). -/
theorem isoper_accepted {x : W32} (h1 : 12 ≤ x.toNat) (h2 : x.toNat ≤ 20) : csrValueRefused 0x303 (x.zeroExtend 64) = none := by
  have hx : x = BitVec.ofNat 32 x.toNat := by simp
  generalize x.toNat = n at h1 h2 hx
  subst hx
  interval_cases n <;> decide

theorem ictl_reserved : ∀ a : BitVec 2, a.zeroExtend 32 &&& (0xFFFFFFFC : W32) = 0 := by decide

theorem ictl_value (s : State) (g : Group) (k : Nat) (it : Item) (flags : BitVec 5) :
    s.csrValue g k (s.envOf g k it).it flags 0x103 = (it.ictl.zeroExtend 32).zeroExtend 64 := by
  have hictl : (s.envOf g k it).it.ictl = it.ictl := rfl
  simp [State.csrValue, hictl]

/-- A refused control-register form of a lone item enters the handler. -/
theorem csr_priv {s : State} {g : Group} {i : Instr} {op : CsrOp} {o : CsrForm} {k : Nat} {it : Item} {h : W64} (hal : Alone s g i k it)
    (hsys : (s.context g.ctx).system = false) (hlo : 0x300 ≤ o.num.toNat) (hhi : o.num.toNat ≤ 0x3FF) (hh : s.handlerOf g.kh = some h)
    (hin : it.inHandler = false) (hwin : it.windows = []) :
    s.foldWave i false (csrForm i op o s) = s.setItem s.wave.gid k ((s.envOf g k it).entered (s.envOf g k it).it h
      { cause := 0x02, addr := 0, info := BitVec.ofNat 32 (0x1000 + o.num.toNat) }) := by
  obtain ⟨hfatal, hconsumed⟩ := hal.item_clear
  have hrefused : csrRefused op o.num.toNat (s.privileged g) = some (privCsr o.num.toNat) := by
    rw [State.privileged, hsys]
    exact csrRefused_priv hlo hhi
  have hclose : (s.envOf g k it).close (shapeOf i) (.trap (s.envOf g k it).it (privCsr o.num.toNat)) = (s.envOf g k it).entered (s.envOf g k it).it h
      (privCsr o.num.toNat) := Env.close_trap hwin hh hin rfl
  have hbody := csrForm_refused (i := i) (e := s.envOf g k it) hal.plain.group hrefused (show causePriv ≠ causePoison by decide)
  rw [State.foldWave_finish hal hbody hal.plain.group rfl hal.plain.unguarded hal.plain.clear (by rw [hclose]; exact hfatal)
    (by rw [hclose]; exact hconsumed), hclose]
  rfl

/-- Settles O39: a form that passes the checks of R73 reads and writes as `csrForm_done` says; one of the privileged range is refused first. -/
theorem controlRegisters : Obligations.ControlRegisters := by
  unfold Obligations.ControlRegisters
  refine ⟨?_, ?_, ?_⟩
  · intro s g o k it hal hr
    constructor
    · intro row hrow hnum hfit
      obtain ⟨halloc, ⟨hcycle, hmstat, hctl⟩, hwords⟩ := csrRows_allocated s g k it row hrow
      have hvalue := csrRows_value s g k it (g.mstatWait it.wait).2 row hrow
      rw [← hnum] at halloc hcycle hmstat hctl hwords hvalue
      exact csrr_done hal hr halloc hcycle hctl (fun h => absurd h hmstat) (by rw [csrWords, hwords]) hfit hvalue
    · intro hnum hfit hwait htiles
      have hvalue : s.csrValue g k (s.envOf g k it).it (g.mstatWait it.wait).2 o.num.toNat = g.mstat.zeroExtend 64 := by
        rw [hnum, hwait]
        rfl
      rw [csrr_done (wide := false) hal hr (by rw [hnum]; decide) (by rw [hnum]; decide) (by rw [hnum]; decide) (fun _ => htiles)
        (by rw [csrWords, hnum]; rfl) hfit hvalue]
      simp [lo32]
  · intro s g o k it hr ha x at_
    have hnoD : CsrOp.w.hasD = true → it.fits o.d false := fun h => by cases h
    have hnoW : CsrOp.w = .s ∨ CsrOp.w = .c → ∀ n, csrClears n = false := fun h => by rcases h with h | h <;> cases h
    have hw {n : Nat} {u : State} {f : Item → Item} (hmem : n ∈ writtenCsrs) (hat : at_ n (.csrw o)) :=
      csr_written (u := u) (f := f) .w hmem rfl (fun h => (exec_csr o s h).2.1) hr ha hat (fun h => hnoW h n) hnoD rfl rfl
    refine ⟨?_, ?_, ?_, ?_, ?_, ?_, fun hd => ⟨?_, ?_, ?_, ?_⟩⟩
    · intro hat hx
      exact hw (by decide) hat (csrValueRefused_eq_none rfl hx (by decide)) rfl
        fun it' h => by rw [(Item.csrWrite_badCsr h _).1]; exact congrArg (fun y => { it' with fpctl := y }) (lo32_zeroExtend x)
    · intro hat hx
      exact hw (by decide) hat (csrValueRefused_eq_none rfl hx (by decide)) rfl
        fun it' h => by rw [(Item.csrWrite_badCsr h _).2.1]; simp [CsrOp.value, x]
    · intro hat hx
      exact hw (by decide) hat (csrValueRefused_eq_none rfl hx (by decide)) rfl
        fun it' h => by rw [(Item.csrWrite_badCsr h _).2.2.1]; simp [CsrOp.value, x]
    · intro hat hx
      exact hw (by decide) hat (csrValueRefused_eq_none rfl hx (by decide)) rfl
        fun it' h => by rw [(Item.csrWrite_badCsr h _).2.2.2]; simp [CsrOp.value, x]
    · intro hat hx
      exact hw (by decide) hat (csrValueRefused_eq_none rfl hx (by decide)) (by simp [State.csrWrite, CsrOp.value, x]) fun _ _ => rfl
    · intro hat h1 h2
      exact hw (by decide) hat (isoper_accepted h1 h2) (by simp [State.csrWrite, CsrOp.value, lo32, x]) fun _ _ => rfl
    · intro hat hx
      refine (csr_written (f := fun it' => { it' with fpctl := it.fpctl ||| x }) .s (by decide) rfl (fun h => (exec_csr o s h).2.2.1) hr ha hat
        (fun _ => rfl) (fun _ => hd) rfl BitVec.setWidth_or.symm (csrValueRefused_eq_none rfl hx (by decide)) rfl
        fun it' h => by rw [(Item.csrWrite_badCsr h _).1, lo32_zeroExtend]; rfl).trans (congrArg _ (State.goesOn_congr ?_))
      exact congrArg (Item.writeV _ _) (lo32_zeroExtend _)
    · intro hat hx
      have hreserved : (it.ictl.zeroExtend 32 ||| x) &&& 0xFFFFFFFC = 0 := by
        rw [BitVec.and_or_distrib_right, hx, ictl_reserved]
        rfl
      refine (csr_written (f := fun it' => { it' with ictl := it.ictl ||| x.truncate 2 }) .s (by decide) rfl (fun h => (exec_csr o s h).2.2.1) hr ha hat
        (fun _ => rfl) (fun _ => hd) (ictl_value s g k it _) BitVec.setWidth_or.symm (csrValueRefused_eq_none rfl hreserved (by decide)) rfl
        fun it' h => by rw [(Item.csrWrite_badCsr h _).2.2.2]; simp [x]).trans (congrArg _ (State.goesOn_congr ?_))
      exact congrArg (Item.writeV _ _) (lo32_zeroExtend _)
    · intro hat hx
      have hreserved : (it.fpctl &&& ~~~x) &&& 0xFFFFC0F0 = 0 := by
        rw [BitVec.and_assoc, BitVec.and_comm (~~~x), ← BitVec.and_assoc, hx]
        exact BitVec.zero_and
      refine (csr_written (f := fun it' => { it' with fpctl := it.fpctl &&& ~~~x }) .c (by decide) rfl (fun h => (exec_csr o s h).2.2.2) hr ha hat
        (fun _ => rfl) (fun _ => hd) rfl (zeroExtend_and_not _ _) (csrValueRefused_eq_none rfl hreserved (by decide)) rfl
        fun it' h => by rw [(Item.csrWrite_badCsr h _).1, lo32_zeroExtend]; rfl).trans (congrArg _ (State.goesOn_congr ?_))
      exact congrArg (Item.writeV _ _) (lo32_zeroExtend _)
    · intro hat
      have hreserved : (it.ictl.zeroExtend 32 &&& ~~~x) &&& 0xFFFFFFFC = 0 := by
        rw [BitVec.and_assoc, BitVec.and_comm (~~~x), ← BitVec.and_assoc, ictl_reserved]
        exact BitVec.zero_and
      refine (csr_written (f := fun it' => { it' with ictl := it.ictl &&& ~~~(x.truncate 2) }) .c (by decide) rfl (fun h => (exec_csr o s h).2.2.2) hr ha
        hat (fun _ => rfl) (fun _ => hd) (ictl_value s g k it _) (zeroExtend_and_not _ _) (csrValueRefused_eq_none rfl hreserved (by decide)) rfl
        fun it' h => by rw [(Item.csrWrite_badCsr h _).2.2.2]; simp [x]).trans (congrArg _ (State.goesOn_congr ?_))
      exact congrArg (Item.writeV _ _) (lo32_zeroExtend _)
  · intro s g o k it h hsys hlo hhi hh hin hwin i hi hal
    obtain ⟨hr, hw, hs, hc⟩ := exec_csr o s (by omega)
    simp only [List.mem_cons, List.not_mem_nil, or_false] at hi
    rcases hi with rfl | rfl | rfl | rfl
    · rw [hr, csr_priv hal hsys hlo hhi hh hin hwin]
    · rw [hw, csr_priv hal hsys hlo hhi hh hin hwin]
    · rw [hs, csr_priv hal hsys hlo hhi hh hin hwin]
    · rw [hc, csr_priv hal hsys hlo hhi hh hin hwin]

end Sys2Proof.Machine
end

section
/-! PROOFS. One step of the machine: the word at the PC, the wave of a lone ready item, and what surrounds its instruction (03 R56, 08 R156, 16 R356). -/

namespace Sys2Proof.Machine

/-! ### Fetch -/

/-- Memory of the HBM is read under the context's key as it stands. -/
theorem State.codeBytes_hbm {s : State} {pa : Nat} (h : s.target? pa = some .hbm) (ctx : Nat) :
    s.codeBytes ctx pa = some (s.memory.read (s.keyTag (s.context ctx).key) pa 4) := by
  simp [State.codeBytes, State.isCxl, State.tagAt, h]

/-- A word of HBM that no item of the kernel has stored to. -/
theorem State.fetchWord_hbm {s : State} {g : Group} {va : W64} {pa : Nat} (hva : s.translate g.core g.ctx va 2 = .ok pa)
    (hgranted : s.granted g.ctx pa 4 false false = true) (hsound : s.memory.poisoned (lineOf pa) = false) (hpa : s.target? pa = some .hbm)
    (hold : ∀ kn, s.kernel? g.kh = some kn → Table.get? kn.oldWords (pa / 4) = none) :
    s.fetchWord g va = .word (BitVec.ofNat 32 (leNat (s.memory.read (s.keyTag (s.context g.ctx).key) pa 4))) := by
  have hnew : (s.kernel? g.kh).bind (fun k => Table.get? k.oldWords (pa / 4)) = none := Option.bind_eq_none_iff.mpr hold
  simp [State.fetchWord, hva, hgranted, hsound, State.codeBytes_hbm hpa, hnew]

theorem State.fetch_one {s : State} {g : Group} {pc : W64} {w0 : W32} (h0 : s.fetchWord g pc = .word w0) (hn : wordsOf w0 = 1) :
    s.fetch g pc = .words (decode w0 0 0) 1 := by
  simp only [State.fetch, h0, hn]
  rfl

theorem State.fetch_two {s : State} {g : Group} {pc : W64} {w0 w1 : W32} (h0 : s.fetchWord g pc = .word w0) (h1 : s.fetchWord g (pc + 4) = .word w1)
    (hn : wordsOf w0 = 2) : s.fetch g pc = .words (decode w0 w1 0) 2 := by
  simp only [State.fetch, h0, h1, hn]
  rfl

theorem State.fetch_three {s : State} {g : Group} {pc : W64} {w0 w1 w2 : W32} (h0 : s.fetchWord g pc = .word w0)
    (h1 : s.fetchWord g (pc + 4) = .word w1) (h2 : s.fetchWord g (pc + 8) = .word w2) (hn : wordsOf w0 = 3) :
    s.fetch g pc = .words (decode w0 w1 w2) 3 := by
  simp only [State.fetch, h0, h1, h2, hn]
  rfl

/-! ### Issue of one ready item -/

/-- The slot window of an item converges with that item alone in it, where the form is a cross-lane one. -/
def State.AloneInWindow (s : State) (gid : Nat) (g : Group) (k : Nat) (it : Item) (i : Except Illegal Instr) : Prop :=
  ∀ j, i = .ok j → isCrossLane j = true → s.converged gid g it.pc (k / 32) = true ∧ g.items.filter (fun p => p.1 / 32 == k / 32) = [(k, it)]

theorem runOf_one (k : Nat) (it : Item) : runOf [(k, it)] it.pc = [(k, it)] := by
  simp [runOf, insertRun]

theorem pcsOf_one (k : Nat) (it : Item) : pcsOf [(k, it)] = [it.pc] := by
  simp [pcsOf, ascending, ascending.insertNat, List.eraseDups_cons]

/-- The wave of a run of one item is that item. -/
theorem State.members_one {s : State} {gid k : Nat} {g : Group} {it : Item} {i : Except Illegal Instr} (hi : s.AloneInWindow gid g k it i) :
    s.members gid g it.pc i [(k, it)] none = [(k, it)] := by
  rcases i with bad | j
  · rfl
  · cases hcross : isCrossLane j with
    | true =>
      obtain ⟨hconv, honly⟩ := hi j rfl hcross
      simp only [State.members, hcross, if_true, List.find?_cons, windowOf, hconv, honly]
      exact runOf_one k it
    | false => cases hmatrix : isMatrix j <;> simp [State.members, hcross, hmatrix]

/-- With no log to follow, every ready item may be in the wave. -/
theorem State.inOrder_unlogged {s : State} {g : Group} (h : s.nextShared g = none) (i : Except Illegal Instr) (run : List (Nat × Item)) :
    s.inOrder g i run = run := by
  rcases i with bad | j
  · rfl
  · simp [State.inOrder, h]

/-- Issue at the PC of the one ready item there. -/
theorem State.tryPc_one {s : State} {gid k n : Nat} {g : Group} {it : Item} {i : Except Illegal Instr} (howes : it.owesFetch = false)
    (hfault : s.loggedFault g it = none) (hnext : s.nextShared g = none) (hfetch : s.fetch g it.pc = .words i n) (hmay : it.mayIssue i = true)
    (hi : s.AloneInWindow gid g k it i) :
    s.tryPc gid g [(k, it)] none it.pc = .run { gid := gid, pc := it.pc, slots := [k], ilen := n } i := by
  simp [State.tryPc, runOf_one, howes, hfault, hfetch, hmay, State.inOrder_unlogged hnext, State.members_one hi]

/-- No starved item goes before a core's only ready item, and none tests its condition again. -/
theorem OneReady.mostStarved {s : State} {core gid k : Nat} {g : Group} {it : Item} (h : OneReady s core gid g k it) :
    s.mostStarved (s.rotation core) = none ∧ s.againItem (s.rotation core) = none := by
  simp [State.mostStarved, State.againItem, h.group, h.ready, h.again, h.fresh]

/-- The issue port of a core with one ready item runs that item's instruction. -/
theorem OneReady.tryCore {s : State} {core gid k n : Nat} {g : Group} {it : Item} {i : Except Illegal Instr} (h : OneReady s core gid g k it)
    (hfetch : s.fetch g it.pc = .words i n) (hmay : it.mayIssue i = true) (hi : s.AloneInWindow gid g k it i) :
    s.tryCore core = .run { gid := gid, pc := it.pc, slots := [k], ilen := n } i := by
  obtain ⟨hstarved, hagain⟩ := h.mostStarved
  obtain ⟨hfault, hnext⟩ := h.unlogged
  have hpc := State.tryPc_one h.whole hfault hnext hfetch hmay hi
  have hgroup : s.tryGroup none gid g = .run { gid := gid, pc := it.pc, slots := [k], ilen := n } i := by
    simp [State.tryGroup, h.ready, pcsOf_one, State.tryPcs, hpc]
  simp only [State.tryCore, hstarved, hagain, ite_self]
  simp only [h.group, State.tryGroups, hgroup]

/-! ### What surrounds an instruction -/

theorem foldl_eq_self {α β : Type} {f : β → α → β} {b : β} {l : List α} (h : ∀ a ∈ l, f b a = b) : l.foldl f b = b := by
  induction l with
  | nil => rfl
  | cons a l ih => rw [List.foldl_cons, h a List.mem_cons_self, ih fun x hx => h x (List.mem_cons_of_mem a hx)]

/-- The accounting of a step does nothing where no context keeps a log. -/
theorem State.account_unlogged {s t : State} (hoff : ∀ p ∈ s.groups, (t.hind p.2.ctx).mode = .off) : s.account t = t := by
  refine foldl_eq_self fun p hp => ?_
  cases t.group? p.1 with
  | none => rfl
  | some g => simp [State.accountGroup, hoff p hp]

theorem State.endStep_unlogged {s t : State} (hoff : ∀ p ∈ s.groups, (t.hind p.2.ctx).mode = .off) :
    s.endStep t = { t.dropStarved with tick := s.tick + 1 } := by
  rw [State.endStep, State.account_unlogged hoff]

theorem State.dropStarved_none {t : State} (h : ∀ p ∈ t.groups, ∀ q ∈ p.2.items, q.2.starved = false) : t.dropStarved = t := by
  have hgone : (t.groups.flatMap fun p => (p.2.items.filter fun q => q.2.starved && !t.fullyReady p.1 p.2 q.1 q.2).map fun q => (p.1, q.1)) = [] := by
    simp only [List.flatMap_eq_nil_iff, List.map_eq_nil_iff, List.filter_eq_nil_iff]
    intro p hp q hq
    simp [h p hp q hq]
  simp only [State.dropStarved, hgone, List.foldl_nil]

theorem State.accountGone_unlogged {s t : State} (hoff : ∀ p ∈ s.groups, (t.hind p.2.ctx).mode = .off) (w : Wave) (i : Except Illegal Instr) :
    s.accountGone t w i = t := by
  cases hg : s.group? w.gid with
  | none => simp [State.accountGone, hg]
  | some g =>
    have hmode : (t.hind g.ctx).mode = .off := hoff _ (Table.get?_some_mem hg)
    simp [State.accountGone, hg, hmode]

theorem State.logShared_unlogged {s t : State} (hoff : ∀ p ∈ s.groups, (t.hind p.2.ctx).mode = .off) (w : Wave) (i : Instr) :
    s.logShared t w i = t := by
  cases hg : s.group? w.gid with
  | none => simp [State.logShared, hg]
  | some g =>
    have hmode : (t.hind g.ctx).mode = .off := hoff _ (Table.get?_some_mem hg)
    simp [State.logShared, hg, hmode]

theorem Table.get?_mapAll_some {α β : Type} {t : Table α} {k : Nat} {a : α} (h : Table.get? t k = some a) (f : Nat → α → β) :
    Table.get? (Table.mapAll t f) k = some (f k a) := by
  rw [Table.get?_mapAll, h]
  rfl

/-- A wave begins in its group. -/
theorem State.beginWave_frame {s : State} {w : Wave} {g : Group} (hg : s.group? w.gid = some g) :
    ∃ h, (s.beginWave w).group? w.gid = some h ∧ (s.beginWave w).wave = w ∧
      { (s.beginWave w) with groups := s.groups, wave := s.wave, lastSeat := s.lastSeat } = s ∧
      { h with items := g.items, lastWave := g.lastWave } = g ∧
      ∀ k it, Table.get? g.items k = some it → ∃ jt, Table.get? h.items k = some jt ∧ { jt with starved := it.starved, aside := it.aside } = it := by
  rw [State.beginWave, hg]
  refine ⟨_, (State.group?_modGroup_self s w.gid _).trans (congrArg (Option.map _) hg), rfl, rfl, rfl,
    fun k it hit => ?_⟩
  dsimp only
  rw [Table.get?_mapAll_some hit]
  exact ⟨_, rfl, rfl⟩

/-! ### The step -/

/-- The outcome of a wave's form, with what follows it. -/
theorem runWave_ok (s : State) (w : Wave) (i : Instr) : runWave s w (.ok i) = (match exec i (s.beginWave w) with
    | .next t => .next (s.endStep ((s.beginWave w).logShared ((s.beginWave w).accountGone t w (.ok i)) w i))
    | .fault f => .fault f
    | .refused x => .refused x) := by
  simp only [runWave]
  cases exec i (s.beginWave w) <;> rfl

theorem conclude_eq (s : State) (o : Host.Outcome State Fault Refusal) : conclude s o = (match o with
    | .next t => .next (s.endStep t)
    | .fault f => .fault f
    | .refused x => .refused x) := by
  cases o <;> rfl

theorem runWave_error (s : State) (w : Wave) (bad : Illegal) : runWave s w (.error bad) = (match exec (.illegalEncoding bad) (s.beginWave w) with
    | .next t => .next (s.endStep t)
    | .fault f => .fault f
    | .refused x => .refused x) :=
  conclude_eq s (exec (.illegalEncoding bad) (s.beginWave w))

theorem step_issue {s : State} {core : Nat} {rest : List Move} (h : s.inputs = .issue core :: rest) :
    step s = runIssue { s with inputs := rest } (({ s with inputs := rest } : State).tryCore core) := by
  simp only [step, h]

theorem step_event {s : State} {i : Instr} {rest : List Move} (h : s.inputs = .event i :: rest) (hi : toRaw i = none) :
    step s = conclude { s with inputs := rest } (exec i { s with inputs := rest }) := by
  simp [step, h, runEvent, hi]

theorem Item.mayIssue_error {it : Item} (h : it.windows = []) (bad : Illegal) : it.mayIssue (.error bad) = true := by
  simp [Item.mayIssue, Item.leading, h]

/-- Settles O59: a core's only ready item is the wave of the step (`OneReady.tryCore`). -/
theorem stepRunsDecoded : Obligations.StepRunsDecoded := by
  unfold Obligations.StepRunsDecoded
  refine ⟨fun s g va pa => State.fetchWord_hbm, fun s g pc w0 w1 w2 h0 => ⟨State.fetch_one h0, fun h1 => ⟨State.fetch_two h0 h1, State.fetch_three h0 h1⟩⟩,
    ?_, ?_, ?_, fun s w g => State.beginWave_frame⟩
  · intro s core gid k n g it rest hin r w hone
    rw [step_issue hin]
    constructor
    · intro i hfetch hmay hcross
      rw [hone.tryCore hfetch hmay fun j hj => by cases hj; exact hcross]
      exact runWave_ok r w i
    · intro bad hfetch hwindows
      rw [hone.tryCore hfetch (Item.mayIssue_error hwindows bad) fun j hj => by cases hj]
      exact runWave_error r w bad
  · intro s i rest hin hi
    rw [step_event hin hi]
    exact conclude_eq _ _
  · intro s t w i ht hs
    exact ⟨State.endStep_unlogged ht, State.dropStarved_none, State.accountGone_unlogged ht w i, State.logShared_unlogged ht w⟩

end Sys2Proof.Machine
end

section
/-! PROOFS. Little-endian bytes (00 R2), fields of records, and the commands of the ring (04 R92, 22 R463). -/

namespace Sys2Proof.Machine

/-! ### Bytes -/

@[simp] theorem length_leBytes (n x : Nat) : (leBytes n x).length = n := by
  induction n generalizing x with
  | zero => rfl
  | succ n ih => simp [leBytes, ih]

theorem leNat_leBytes (n x : Nat) : leNat (leBytes n x) = x % 256 ^ n := by
  induction n generalizing x with
  | zero => simp [leBytes, leNat, Nat.mod_one]
  | succ n ih =>
    calc leNat (leBytes (n + 1) x) = x % 256 + 256 * (x / 256 % 256 ^ n) := by simp [leBytes, leNat, ih]
      _ = x % 256 ^ (n + 1) := by rw [pow_succ', Nat.mod_mul]

theorem leNat_eq_zero_iff (bs : List W8) : leNat bs = 0 ↔ ∀ b ∈ bs, b = 0 := by
  induction bs with
  | nil => simp [leNat]
  | cons b bs ih =>
    have hb : b.toNat = 0 ↔ b = 0 := by rw [← BitVec.toNat_inj]; rfl
    rw [leNat, Nat.add_eq_zero_iff, hb, Nat.mul_eq_zero, ih, List.forall_mem_cons]
    simp

/-- Bytes are zero where the number that they hold is. -/
theorem zeroAt_eq (bs : List W8) (off n : Nat) : zeroAt bs off n = decide (leAt bs off n = 0) := by
  rw [Bool.eq_iff_iff, decide_eq_true_iff, leAt, leNat_eq_zero_iff]
  simp [zeroAt]

/-! ### Byte lists laid over one another -/

/-- The bytes laid over a list stand in it. -/
theorem overlay_slice_same {bs d : List W8} {off : Nat} (h : off ≤ bs.length) : ((overlay bs off d).drop off).take d.length = d := by
  have hoff : (bs.take off).length = off := by simp [h]
  rw [overlay, List.append_assoc, List.drop_left' hoff, List.take_left]

/-- The bytes before those laid over a list are the list's. -/
theorem overlay_slice_before {bs d : List W8} {at_ off n : Nat} (h : at_ ≤ bs.length) (hn : off + n ≤ at_) :
    ((overlay bs at_ d).drop off).take n = (bs.drop off).take n := by
  have key : (overlay bs at_ d).take (off + n) = bs.take (off + n) := by
    rw [overlay, List.append_assoc, List.take_append_of_le_length (by simp; omega), List.take_take, Nat.min_eq_left hn]
  have := congrArg (List.drop off) key
  simpa [List.drop_take] using this

theorem leAt_overlay_before {bs d : List W8} {at_ off n : Nat} (h : at_ ≤ bs.length) (hn : off + n ≤ at_) :
    leAt (overlay bs at_ d) off n = leAt bs off n := by
  rw [leAt, leAt, overlay_slice_before h hn]

theorem leAt_overlay_leBytes {bs : List W8} {off n : Nat} (h : off ≤ bs.length) (x : Nat) :
    leAt (overlay bs off (leBytes n x)) off n = x % 256 ^ n := by
  have hslice := overlay_slice_same (d := leBytes n x) h
  rw [length_leBytes] at hslice
  rw [leAt, hslice, leNat_leBytes]

theorem length_le_overlay (bs d : List W8) (off : Nat) : bs.length ≤ (overlay bs off d).length := by
  simp [overlay]; omega

/-! ### Records -/

/-- Fields laid over a byte list one after another. -/
def withFields (bs : List W8) (fields : List (Nat × Nat × Nat)) : List W8 := fields.foldl (fun bs f => overlay bs f.1 (leBytes f.2.1 f.2.2)) bs

theorem recordOf_eq_withFields (size : Nat) (fields : List (Nat × Nat × Nat)) :
    recordOf size fields = withFields (List.replicate size 0) fields := rfl

theorem length_le_withFields (bs : List W8) (fields : List (Nat × Nat × Nat)) : bs.length ≤ (withFields bs fields).length := by
  induction fields generalizing bs with
  | nil => exact le_rfl
  | cons f fields ih => exact (length_le_overlay bs _ f.1).trans (ih _)

theorem length_le_recordOf (size : Nat) (fields : List (Nat × Nat × Nat)) : size ≤ (recordOf size fields).length := by
  simpa [recordOf_eq_withFields] using length_le_withFields (List.replicate size 0) fields

/-- Fields that stand at or above the end of a span leave its number. -/
theorem leAt_withFields_above {bs : List W8} {fields : List (Nat × Nat × Nat)} {off n : Nat} (h : ∀ f ∈ fields, off + n ≤ f.1 ∧ f.1 ≤ bs.length) :
    leAt (withFields bs fields) off n = leAt bs off n := by
  induction fields generalizing bs with
  | nil => rfl
  | cons f fields ih =>
    obtain ⟨hf, hrest⟩ := List.forall_mem_cons.1 h
    have hlen := length_le_overlay bs (leBytes f.2.1 f.2.2) f.1
    calc leAt (withFields bs (f :: fields)) off n = leAt (overlay bs f.1 (leBytes f.2.1 f.2.2)) off n :=
          ih fun p hp => ⟨(hrest p hp).1, (hrest p hp).2.trans hlen⟩
      _ = leAt bs off n := leAt_overlay_before hf.2 hf.1

/-- A field of a record, with the later fields above it. -/
theorem leAt_recordOf {size off n x : Nat} (below above : List (Nat × Nat × Nat)) (hoff : off ≤ size)
    (h : ∀ f ∈ above, off + n ≤ f.1 ∧ f.1 ≤ size) : leAt (recordOf size (below ++ (off, n, x) :: above)) off n = x % 256 ^ n := by
  have hlen := length_le_recordOf size below
  have hlen' := length_le_overlay (recordOf size below) (leBytes n x) off
  have hsplit : recordOf size (below ++ (off, n, x) :: above) = withFields (overlay (recordOf size below) off (leBytes n x)) above := by
    simp [recordOf, withFields]
  rw [hsplit, leAt_withFields_above fun f hf => ⟨(h f hf).1, (h f hf).2.trans (hlen.trans hlen')⟩, leAt_overlay_leBytes (hoff.trans hlen)]

/-! ### Fields of a command -/

section
variable (opc action ctx low addr size : Nat)

@[simp] theorem leAt_ringCommand_opc : leAt (ringCommand opc action ctx low addr size) 0 1 = opc % 256 := leNat_leBytes 1 opc
@[simp] theorem leAt_ringCommand_action : leAt (ringCommand opc action ctx low addr size) 1 1 = action % 256 := leNat_leBytes 1 action
@[simp] theorem commandCtx_ringCommand : commandCtx (ringCommand opc action ctx low addr size) = ctx % 65536 := leNat_leBytes 2 ctx
@[simp] theorem leAt_ringCommand_low : leAt (ringCommand opc action ctx low addr size) 4 4 = low % 4294967296 := leNat_leBytes 4 low
@[simp] theorem leAt_ringCommand_low_byte0 : leAt (ringCommand opc action ctx low addr size) 4 1 = low % 256 := leNat_leBytes 1 low
@[simp] theorem leAt_ringCommand_low_half0 : leAt (ringCommand opc action ctx low addr size) 4 2 = low % 65536 := leNat_leBytes 2 low
@[simp] theorem leAt_ringCommand_low_byte1 : leAt (ringCommand opc action ctx low addr size) 5 1 = low / 256 % 256 := leNat_leBytes 1 (low / 256)
@[simp] theorem leAt_ringCommand_low_above0 : leAt (ringCommand opc action ctx low addr size) 5 3 = low / 256 % 16777216 := leNat_leBytes 3 (low / 256)
@[simp] theorem leAt_ringCommand_low_half1 : leAt (ringCommand opc action ctx low addr size) 6 2 = low / 256 / 256 % 65536 :=
  leNat_leBytes 2 (low / 256 / 256)
@[simp] theorem leAt_ringCommand_addr : leAt (ringCommand opc action ctx low addr size) 8 8 = addr % 18446744073709551616 := leNat_leBytes 8 addr
@[simp] theorem leAt_ringCommand_size : leAt (ringCommand opc action ctx low addr size) 0x10 8 = size % 18446744073709551616 := leNat_leBytes 8 size
@[simp] theorem word64_ringCommand_addr : word64 (ringCommand opc action ctx low addr size) 8 = BitVec.ofNat 64 addr :=
  BitVec.eq_of_toNat_eq (by simp [word64])
@[simp] theorem leAt_ringCommand_end : leAt (ringCommand opc action ctx low addr size) 0x1C 4 = 0 := rfl

end

/-! ### Acceptance and answer -/

theorem State.headCommand_of_posted {s : State} {slot : Nat} {c : List W8} (hp : Posted s slot c) : s.headCommand = some (slot, c) := by
  obtain ⟨hready, hwaiting, hplace, hholds⟩ := hp
  rw [State.headCommand, if_pos ⟨hready.1, hready.2, hwaiting⟩, hplace, hholds]

/-- The command at HEAD is accepted and answered with the status of its meaning. -/
theorem State.runCommand_of_posted {s : State} {slot : Nat} {c : List W8} (hp : Posted s slot c) {opc : Nat} (ho : leAt c 0 1 = opc)
    (f : List W8 → State → State × Nat) :
    s.runCommand opc (fun _ => true) f = (f c s.acceptCommand).1.answerSlot slot (f c s.acceptCommand).2 := by
  simp [State.runCommand, State.headCommand_of_posted hp, ho]

/-- The answer to an accepted command, where its meaning has left the ring as it was. -/
theorem State.answerSlot_acceptCommand {s t : State} {slot : Nat} {c : List W8} (hp : Posted s slot c) (ht : t.ringSlots = s.ringSlots) (code : Nat) :
    t.acceptCommand.answerSlot slot code = t.doneWith slot c code := by
  have hread : Table.read (List.replicate 32 0) t.ringSlots slot = c := ht ▸ hp.holds
  simp only [State.answerSlot, State.doneWith, State.acceptCommand, hread]
  rfl

theorem State.answerSlot_accepted {s : State} {slot : Nat} {c : List W8} (hp : Posted s slot c) (code : Nat) :
    s.acceptCommand.answerSlot slot code = s.doneWith slot c code := State.answerSlot_acceptCommand hp rfl code

end Sys2Proof.Machine
end

section
/-! PROOFS. Queues, peers, pages, error queues and attestation by command (05 R105, R112, 06 R129, 16 R363, 19 R421, 22 R461, R462). -/

namespace Sys2Proof.Machine

/-! ### A command that its meaning answers -/

@[simp] theorem State.acceptCommand_context (s : State) (ctx : Nat) : s.acceptCommand.context ctx = s.context ctx := rfl
@[simp] theorem State.acceptCommand_queueAt (s : State) (ctx lq : Nat) : s.acceptCommand.queueAt ctx lq = s.queueAt ctx lq := rfl
@[simp] theorem State.acceptCommand_freeQueue (s : State) : s.acceptCommand.freeQueue = s.freeQueue := rfl
@[simp] theorem State.acceptCommand_queues (s : State) : s.acceptCommand.queues = s.queues := rfl
@[simp] theorem State.acceptCommand_physRead (s : State) (a n : Nat) : s.acceptCommand.physRead a n = s.physRead a n := rfl
@[simp] theorem State.acceptCommand_firmReads (s : State) (a n : Nat) : s.acceptCommand.firmReads a n = s.firmReads a n := rfl
@[simp] theorem State.acceptCommand_spanPlaced (s : State) (a n : Nat) : s.acceptCommand.spanPlaced a n = s.spanPlaced a n := rfl
@[simp] theorem State.acceptCommand_peersOk (s : State) (c b : List W8) : s.acceptCommand.peersOk c b = s.peersOk c b := rfl
@[simp] theorem State.acceptCommand_gangLive (s : State) (ctx : Nat) : s.acceptCommand.gangLive ctx = s.gangLive ctx := rfl
@[simp] theorem State.acceptCommand_report (s : State) (ctx : Nat) (nonce : List W8) : s.acceptCommand.report ctx nonce = s.report ctx nonce := rfl
theorem State.acceptCommand_physWrite (s : State) (a : Nat) (bs : List W8) : s.acceptCommand.physWrite a bs = (s.physWrite a bs).acceptCommand := rfl
@[simp] theorem State.acceptCommand_faults (s : State) : s.acceptCommand.faults = s.faults := rfl
@[simp] theorem State.acceptCommand_devErrors (s : State) : s.acceptCommand.devErrors = s.devErrors := rfl

/-- The step of a command whose meaning makes `t` of the state and gives a code. -/
theorem next_runCommand {s t : State} {slot opc code : Nat} {c : List W8} {f : List W8 → State → State × Nat} (hp : Posted s slot c)
    (ho : leAt c 0 1 = opc) (hf : f c s.acceptCommand = (t.acceptCommand, code)) (ht : t.ringSlots = s.ringSlots) :
    (.next (s.runCommand opc (fun _ => true) f) : Host.Outcome State Fault Refusal) = .next (t.doneWith slot c code) := by
  rw [State.runCommand_of_posted hp ho, hf, State.answerSlot_acceptCommand hp ht]

@[simp] theorem State.doneWith_context (s : State) (slot : Nat) (c : List W8) (code ctx : Nat) :
    (s.doneWith slot c code).context ctx = s.context ctx := rfl
@[simp] theorem State.doneWith_memory (s : State) (slot : Nat) (c : List W8) (code : Nat) : (s.doneWith slot c code).memory = s.memory := rfl
theorem State.physWrite_memory (s : State) (a : Nat) (bs : List W8) : (s.physWrite a bs).memory = s.memory.write 0 a bs := rfl

theorem answered_doneWith {s t : State} (h : t.ringHead = s.ringHead) (slot : Nat) (c : List W8) (code : Nat) :
    Answered s (t.doneWith slot c code) slot c code :=
  ⟨by simp [State.doneWith, h], by simp [State.doneWith, Table.read]⟩

theorem ContextState.Holds.ne_tornDown {x : ContextState} (h : x.Holds) : x ≠ .tornDown := by
  rintro rfl
  simp [ContextState.Holds] at h

/-- The model's test for the states in which a context holds queues and peers. -/
theorem ContextState.not_holds_iff (x : ContextState) : (x ≠ .configured ∧ x ≠ .active ∧ x ≠ .suspended ∧ x ≠ .faulted) ↔ ¬ x.Holds := by
  simp [ContextState.Holds]

/-! ### Layouts -/

theorem queueCommandOk_assign {lq ctx mode log base : Nat} (hc : 1 ≤ ctx) (hc' : ctx ≤ 1023) (hl : lq ≤ 15) (hm : mode ≤ 1) (hlog : 4 ≤ log)
    (hlog' : log ≤ 16) (hb : base % 4096 = 0) : queueCommandOk (ringCommand 0x10 lq ctx (mode + 256 * log) base 0) true = true := by
  simp only [queueCommandOk, zeroAt_eq, leAt_ringCommand_action, commandCtx_ringCommand, leAt_ringCommand_low_half1, leAt_ringCommand_size,
    leAt_ringCommand_end, leAt_ringCommand_low_byte0, leAt_ringCommand_low_byte1, leAt_ringCommand_addr, Bool.and_eq_true, decide_eq_true_eq,
    beq_iff_eq, if_true, and_true]
  omega

theorem queueCommandOk_release {lq ctx : Nat} (hc : 1 ≤ ctx) (hc' : ctx ≤ 1023) (hl : lq ≤ 15) :
    queueCommandOk (ringCommand 0x11 lq ctx 0 0 0) false = true := by
  simp only [queueCommandOk, zeroAt_eq, leAt_ringCommand_action, commandCtx_ringCommand, leAt_ringCommand_low_half1, leAt_ringCommand_size,
    leAt_ringCommand_end, leAt_ringCommand_low_half0, leAt_ringCommand_addr, Bool.and_eq_true, decide_eq_true_eq, Bool.false_eq_true, if_false, and_true]
  omega

theorem peersCommandOk_ringCommand {toexp ctx n a : Nat} (hc : 1 ≤ ctx) (hc' : ctx ≤ 1023) (ht : 16 ≤ toexp) (ht' : toexp ≤ 34) (hn : 1 ≤ n)
    (hn' : n ≤ 64) (ha : a % 64 = 0) : peersCommandOk (ringCommand 0x20 toexp ctx n a 0) = true := by
  simp only [peersCommandOk, zeroAt_eq, leAt_ringCommand_action, commandCtx_ringCommand, leAt_ringCommand_low_byte0, leAt_ringCommand_low_above0,
    leAt_ringCommand_addr, leAt_ringCommand_size, leAt_ringCommand_end, Bool.and_eq_true, decide_eq_true_eq, beq_iff_eq, and_true]
  omega

theorem State.gangLive_iff (s : State) (ctx : Nat) :
    s.gangLive ctx = true ↔ ∃ k ∈ s.kernels, k.2.ctx = ctx ∧ k.2.state.ended = false ∧ k.2.desc.gangDevs ≠ 1 := by
  simp [State.gangLive, and_assoc]

/-! ### Invalidate and Resolve (16 R363) -/

/-- A span is quiet where no access of the context is on its way and no group of it holds a store. -/
theorem State.spanQuiet_of_idle {s : State} {ctx : Nat} (ha : ∀ p ∈ s.accesses, p.2.ctx ≠ ctx)
    (hg : ∀ p ∈ s.groups, p.2.ctx = ctx → p.2.guarded = none) (sp : Span) : s.spanQuiet ctx sp = true := by
  simp only [State.spanQuiet, Bool.and_eq_true, List.all_eq_true, Bool.or_eq_true, bne_iff_ne]
  refine ⟨fun p hp => .inl (ha p hp), fun p hp => ?_⟩
  by_cases h : p.2.ctx = ctx
  · simp [hg p hp h]
  · exact .inl h

/-- The whole of a context is not quiet while an access of it is on its way. -/
theorem State.spanQuiet_none_of_access {s : State} {ctx : Nat} (ha : ∃ p ∈ s.accesses, p.2.ctx = ctx) : s.spanQuiet ctx none = false := by
  obtain ⟨p, hp, hctx⟩ := ha
  have hall : s.accesses.all (fun p => p.2.ctx != ctx || !s.touchesSpan ctx none p.2.va) = false :=
    List.all_eq_false.2 ⟨p, hp, by simp [hctx, State.touchesSpan, inSpan]⟩
  simp [State.spanQuiet, hall]

/-- The span that an Invalidate names (R363). -/
def commandSpan (log a : Nat) : Span := if log = 0 then none else some (log, BitVec.ofNat 64 a)

theorem TlbEntry.meets_commandSpan (t : TlbEntry) (log a : Nat) : t.meets (commandSpan log a) =
    (log == 0 || t.base / 2 ^ max log t.logSize == a % 2 ^ 57 / 2 ^ max log t.logSize) := by
  by_cases h : log = 0 <;> simp [TlbEntry.meets, commandSpan, h]

theorem TablePath.meets_commandSpan (p : TablePath) (log a : Nat) : p.meets (commandSpan log a) =
    (log == 0 || p.prefix_ * 2 ^ (21 + 9 * p.level) / 2 ^ max log (21 + 9 * p.level) == a % 2 ^ 57 / 2 ^ max log (21 + 9 * p.level)) := by
  by_cases h : log = 0 <;> simp [TablePath.meets, commandSpan, h]

/-- What a posted Invalidate of a well-formed span does. -/
theorem exec_invalidate {s : State} {slot ctx log a : Nat} (hc : 1 ≤ ctx) (hc' : ctx ≤ 1023) (hlog : log = 0 ∨ (12 ≤ log ∧ log ≤ 57))
    (hp : Posted s slot (ringCommand 0x30 log ctx 0 a 0)) :
    exec .invalidate s = .next (
      if (s.context ctx).state = .tornDown then s.doneWith slot (ringCommand 0x30 log ctx 0 a 0) 1
      else if !s.spanQuiet ctx (commandSpan log a) then s
      else (s.invalidate ctx (commandSpan log a)).doneWith slot (ringCommand 0x30 log ctx 0 a 0) 0) := by
  have hctx : ctx % 65536 = ctx := by omega
  have hl : log % 256 = log := by omega
  have hok : (log ≠ 0 ∧ (log < 12 ∨ 57 < log)) = False := by simp; omega
  have hctx0 : ctx ≠ 0 := by omega
  have hctx' : ¬ 1023 < ctx := by omega
  show Host.Outcome.next _ = _
  simp only [State.headCommand_of_posted hp, leAt_ringCommand_opc, leAt_ringCommand_action, commandCtx_ringCommand, hctx, hl, zeroAt_eq,
    leAt_ringCommand_low, leAt_ringCommand_size, leAt_ringCommand_end, word64_ringCommand_addr]
  have haccept : s.acceptCommand.invalidate ctx (commandSpan log a) = (s.invalidate ctx (commandSpan log a)).acceptCommand := rfl
  have hdone := State.answerSlot_acceptCommand (t := s.invalidate ctx (commandSpan log a)) hp rfl stDone
  rw [← haccept] at hdone
  have hspan : (if log = 0 then none else some (log, BitVec.ofNat 64 a)) = commandSpan log a := rfl
  simp [hok, hctx0, hctx', hspan, hdone, State.answerSlot_accepted hp]

/-- With no command at the engines, the end of a fault is its end for items and tiles. -/
theorem State.resolve_of_noCommands {s : State} (h : s.commands = []) (id : Nat) (f : PageFault) (fail : Bool) :
    s.resolve id f fail = s.resolveFault id f fail := by
  simp [State.resolve, h]

theorem State.failTraps_of_off {s : State} {g : Group} (h : (s.hind g.ctx).mode = .off) (it : Item) : s.failTraps g it = true := by
  simp [State.failTraps, Hindcast.replaying, h]

/-- An item that waits on a fault goes on when the fault ends, at FAIL with the page fault's trap owed (R363). -/
theorem State.item?_resolveFault {s : State} {f : PageFault} {gid k : Nat} {g : Group} {it : Item} {x : Nat} {va : W64} {kind : Nat} (id : Nat)
    (fail : Bool) (hoff : (s.hind f.ctx).mode = .off) (hg : s.group? gid = some g) (hctx : g.ctx = f.ctx) (hit : Table.get? g.items k = some it)
    (hwait : it.wait = .fault x f.page va kind) (hkind : kind < 3) (hread : it.unread = false) :
    (s.resolveFault id f fail).item? gid k = some { it with
      wait := .none
      owed := if fail then some (pageFaultTrap va true kind f.level f.reason) else it.owed } := by
  have htraps : State.failTraps { s with faults := Table.erase s.faults id } g it = true := State.failTraps_of_off (hctx ▸ hoff) it
  have hk : kind ≠ 3 := by omega
  have hget : Table.get? s.groups gid = some g := hg
  simp [State.item?, State.group?, State.resolveFault, State.mapWaiting, Table.get?_mapAll, hget, hctx, hit, hwait, htraps, hread, hk]

/-! ### Attestation (22 R462) -/

/-- The fields of a report's body, before the nonce and the digests. -/
def State.reportFields (s : State) (ctx : Nat) : List W8 :=
  recordOf 0x140 [(0, 8, 0x545052545341594B), (8, 4, 1), (0x0C, 2, s.dev.devid), (0x0E, 2, ctx), (0x70, 4, s.dev.fwver.toNat),
    (0x74, 4, s.dev.rollback.toNat), (0x78, 4, if (ctx == 0) = true then 0 else leAt (s.context ctx).ccb 4 4),
    (0x7C, 4, if (ctx == 0) = true then 0 else (s.context ctx).state.code)]

theorem length_le_reportFields (s : State) (ctx : Nat) : 0x140 ≤ (s.reportFields ctx).length := length_le_recordOf _ _

/-- The fields of a report that stand below its nonce. -/
theorem reportFields_head (s : State) (ctx : Nat) : leAt (s.reportFields ctx) 0 8 = 0x545052545341594B ∧ leAt (s.reportFields ctx) 8 4 = 1 ∧
    leAt (s.reportFields ctx) 0x0C 2 = s.dev.devid % 2 ^ 16 ∧ leAt (s.reportFields ctx) 0x0E 2 = ctx % 2 ^ 16 := by
  refine ⟨leAt_recordOf [] _ ?_ ?_, leAt_recordOf [_] _ ?_ ?_, leAt_recordOf [_, _] _ ?_ ?_, leAt_recordOf [_, _, _] _ ?_ ?_⟩
  all_goals simp

theorem slice_append_left {xs ys : List W8} {off n : Nat} (h : off + n ≤ xs.length) : ((xs ++ ys).drop off).take n = (xs.drop off).take n := by
  rw [List.drop_append_of_le_length (by omega), List.take_append_of_le_length (by simp; omega)]

/-- Two byte lists agree in a span of bytes, and the first is as long as a report's body. -/
def SpanAgrees (off n : Nat) (xs ys : List W8) : Prop := 0x140 ≤ xs.length ∧ (xs.drop off).take n = (ys.drop off).take n

theorem SpanAgrees.overlay {off n at_ : Nat} {xs ys : List W8} (h : SpanAgrees off n xs ys) (d : List W8) (ha : off + n ≤ at_) (ha' : at_ ≤ 0x140) :
    SpanAgrees off n (overlay xs at_ d) ys :=
  ⟨h.1.trans (length_le_overlay ..), (overlay_slice_before (ha'.trans h.1) ha).trans h.2⟩

/-- What stands in the report below 0x30 is the fields with the nonce. -/
theorem State.report_slice (s : State) (ctx : Nat) (nonce : List W8) {off n : Nat} (h : off + n ≤ 0x30) :
    ((s.report ctx nonce).drop off).take n = ((overlay (s.reportFields ctx) 0x10 nonce).drop off).take n := by
  have hnonce : SpanAgrees off n (overlay (s.reportFields ctx) 0x10 nonce) (overlay (s.reportFields ctx) 0x10 nonce) :=
    ⟨(length_le_reportFields s ctx).trans (length_le_overlay ..), rfl⟩
  have hm0 := hnonce.overlay ((s.dev.m0 ++ List.replicate 64 0).take 64) h (by omega)
  have hbody : SpanAgrees off n (s.reportBody ctx nonce) (overlay (s.reportFields ctx) 0x10 nonce) := by
    unfold State.reportBody
    refine SpanAgrees.overlay (SpanAgrees.overlay ?_ _ (by omega) (by omega)) _ (by omega) (by omega)
    split
    · exact hm0
    · exact hm0.overlay _ (by omega) (by omega)
  rw [State.report, slice_append_left (by have := hbody.1; omega), hbody.2]

/-- What a report says of itself, the device and the context, and its nonce (R462). -/
theorem State.report_fields (s : State) {ctx : Nat} (hc : ctx ≤ 1023) {nonce : List W8} (hn : nonce.length = 32) :
    leAt (s.report ctx nonce) 0 8 = 0x545052545341594B ∧ leAt (s.report ctx nonce) 8 4 = 1 ∧
    leAt (s.report ctx nonce) 0x0C 2 = s.dev.devid % 2 ^ 16 ∧ leAt (s.report ctx nonce) 0x0E 2 = ctx ∧
    ((s.report ctx nonce).drop 0x10).take 32 = nonce := by
  have hlen : 0x10 ≤ (s.reportFields ctx).length := (length_le_reportFields s ctx).trans' (by omega)
  have hfield {off n : Nat} (h : off + n ≤ 0x10) : leAt (s.report ctx nonce) off n = leAt (s.reportFields ctx) off n := by
    rw [leAt, s.report_slice ctx nonce (by omega), overlay_slice_before hlen h, leAt]
  obtain ⟨hmagic, hrev, hdev, hctx⟩ := reportFields_head s ctx
  refine ⟨(hfield (by omega)).trans hmagic, (hfield (by omega)).trans hrev, (hfield (by omega)).trans hdev,
    (hfield (by omega)).trans (hctx.trans (by omega)), ?_⟩
  rw [s.report_slice ctx nonce (by omega), ← hn]
  exact overlay_slice_same hlen

theorem Memory.length_read (m : Memory) (tag a n : Nat) : (m.read tag a n).length = n := by simp [Memory.read, upTo]

/-! ### What each posted command does -/

section
variable {s : State} {slot ctx : Nat} {c : List W8}

theorem State.queue_eq_read (s : State) (n : Nat) : Table.read LaunchQueue.empty s.queues n = s.queue n := rfl

theorem assign_answers {lq mode log base : Nat} (hc : 1 ≤ ctx) (hc' : ctx ≤ 1023) (hl : lq ≤ 15) (hm : mode ≤ 1) (hlog : 4 ≤ log)
    (hlog' : log ≤ 16) (hb : base % 4096 = 0) (hp : Posted s slot c) (hcmd : c = ringCommand 0x10 lq ctx (mode + 256 * log) base 0) :
    ((s.context ctx).state = .tornDown → exec .assign s = .next (s.doneWith slot c 1)) ∧
    ((s.context ctx).state.Holds → (s.queueAt ctx lq).isSome = true → exec .assign s = .next (s.doneWith slot c 4)) ∧
    ((s.context ctx).state.Holds → s.queueAt ctx lq = none → s.freeQueue = none → exec .assign s = .next (s.doneWith slot c 13)) ∧
    (∀ n, (s.context ctx).state.Holds → s.queueAt ctx lq = none → s.freeQueue = some n → exec .assign s = .next (State.doneWith { s with
      queues := Table.put s.queues n { LaunchQueue.empty with
        owner := ctx
        lq := lq
        device := mode == 1
        logLen := log
        state := if (s.context ctx).state = .active then .opened else .idle
        qbase := BitVec.ofNat 64 base } } slot c 0)) := by
  subst hcmd
  have hok := queueCommandOk_assign hc hc' hl hm hlog hlog' hb
  have hctx : ctx % 65536 = ctx := by omega
  have hlq : lq % 256 = lq := by omega
  have hmode : mode % 256 = mode := by omega
  have hlen : (mode + 256 * log) / 256 % 256 = log := by omega
  refine ⟨fun hst => next_runCommand hp (by simp) ?_ rfl, fun hst hq => next_runCommand hp (by simp) ?_ rfl,
    fun hst hq hf => next_runCommand hp (by simp) ?_ rfl, fun n hst hq hf => next_runCommand hp (by simp) ?_ rfl⟩
  · simp [hok, hctx, hst]
  · simp [hok, hctx, hst.ne_tornDown, hlq, hq]
  · simp [hok, hctx, hst.ne_tornDown, ContextState.not_holds_iff, hst, hlq, hq, hf]
  · simp [hok, hctx, hst.ne_tornDown, ContextState.not_holds_iff, hst, hlq, hq, hf, hmode, hlen]
    rfl

theorem release_answers {lq : Nat} (hc : 1 ≤ ctx) (hc' : ctx ≤ 1023) (hl : lq ≤ 15) (hst : (s.context ctx).state ≠ .tornDown) (hp : Posted s slot c)
    (hcmd : c = ringCommand 0x11 lq ctx 0 0 0) :
    (s.queueAt ctx lq = none → exec .release s = .next (s.doneWith slot c 13)) ∧
    (∀ n, s.queueAt ctx lq = some n →
      ((s.queue n).head = (s.queue n).tail → exec .release s = .next (State.doneWith { s with queues := Table.erase s.queues n } slot c 0)) ∧
      ((s.queue n).head ≠ (s.queue n).tail → exec .release s = .next (s.doneWith slot c 4))) := by
  subst hcmd
  have hok := queueCommandOk_release hc hc' hl
  have hctx : ctx % 65536 = ctx := by omega
  have hlq : lq % 256 = lq := by omega
  refine ⟨fun hq => next_runCommand hp (by simp) ?_ rfl, fun n hq =>
    ⟨fun he => next_runCommand hp (by simp) ?_ rfl, fun he => next_runCommand hp (by simp) ?_ rfl⟩⟩
  · simp [hok, hctx, hst, hlq, hq]
  · simp [hok, hctx, hst, hlq, hq, State.queue_eq_read, he]
    rfl
  · simp [hok, hctx, hst, hlq, hq, State.queue_eq_read, he]

theorem peers_answers {toexp n a : Nat} (hc : 1 ≤ ctx) (hc' : ctx ≤ 1023) (ht : 16 ≤ toexp) (ht' : toexp ≤ 34) (hn : 1 ≤ n) (hn' : n ≤ 64)
    (ha : a % 64 = 0) (ha' : a < 2 ^ 64) (hp : Posted s slot c) (hcmd : c = ringCommand 0x20 toexp ctx n a 0) (hreads : s.firmReads a (8 * n) = true) :
    (s.peersOk c (s.physRead a (8 * n)) = false → exec .peers s = .next (s.doneWith slot c 12)) ∧
    (s.peersOk c (s.physRead a (8 * n)) = true → ¬ (s.context ctx).state.Holds ∨ s.gangLive ctx = true → exec .peers s = .next (s.doneWith slot c 4)) ∧
    (s.peersOk c (s.physRead a (8 * n)) = true → (s.context ctx).state.Holds → s.gangLive ctx = false →
      exec .peers s = .next ((s.modContext ctx (fun x => { x with
        peers := peerEntries (s.physRead a (8 * n)) n
        toexp := toexp })).doneWith slot c 0)) := by
  subst hcmd
  have hok := peersCommandOk_ringCommand hc hc' ht ht' hn hn' ha
  have hctx : ctx % 65536 = ctx := by omega
  have haddr : a % 18446744073709551616 = a := by omega
  have hcount : n % 256 = n := by omega
  have htoexp : toexp % 256 = toexp := by omega
  refine ⟨fun hpeers => next_runCommand hp (by simp) ?_ rfl, fun hpeers hst => next_runCommand hp (by simp) ?_ rfl,
    fun hpeers hst hlive => next_runCommand hp (by simp) ?_ rfl⟩
  · simp [hok, haddr, hcount, hreads, hpeers]
  · simp [hok, hctx, haddr, hcount, hreads, hpeers, ContextState.not_holds_iff, hst]
  · simp [hok, hctx, haddr, hcount, htoexp, hreads, hpeers, ContextState.not_holds_iff, hst, hlive]
    rfl

theorem resolve_answers {act fid : Nat} (hc : 1 ≤ ctx) (hc' : ctx ≤ 1023) (hact : act ≤ 1) (hfid : fid < 2 ^ 64) (hst : (s.context ctx).state ≠ .tornDown)
    (hidle : s.commands = []) (hp : Posted s slot c) (hcmd : c = ringCommand 0x31 act ctx 0 fid 0) :
    (s.faults.find? (fun p => p.2.ctx == ctx && p.2.fid == some fid) = none → exec .resolve s = .next (s.doneWith slot c 14)) ∧
    (∀ id f, s.faults.find? (fun p => p.2.ctx == ctx && p.2.fid == some fid) = some (id, f) →
      exec .resolve s = .next ((s.resolveFault id f (act == 1)).doneWith slot c 0)) := by
  subst hcmd
  have hctx : ctx % 65536 = ctx := by omega
  have hfid' : fid % 18446744073709551616 = fid := by omega
  have hact' : act % 256 = act := by omega
  have hok : ¬ 1 < act ∧ ctx ≠ 0 ∧ ¬ 1023 < ctx := by omega
  refine ⟨fun hfind => next_runCommand hp (by simp) ?_ rfl, fun id f hfind => next_runCommand hp (by simp) ?_ rfl⟩
  · simp [hctx, hfid', hact', zeroAt_eq, hok, hst, hfind]
  · simp [hctx, hfid', hact', zeroAt_eq, hok, hst, hfind]
    exact State.resolve_of_noCommands (s := s.acceptCommand) hidle id f _

/-- ErrAck of the device's queue. -/
theorem errack_device_answers {head : Nat} (hhead : head < 2 ^ 64) (hp : Posted s slot c) (hcmd : c = ringCommand 0x60 0 0 0 head 0) :
    (∀ q, s.devErrors.free head = some q → exec .errack s = .next (State.doneWith { s with devErrors := q } slot c 0)) ∧
    (s.devErrors.free head = none → exec .errack s = .next (s.doneWith slot c 12)) := by
  subst hcmd
  have hhead' : head % 18446744073709551616 = head := by omega
  refine ⟨fun q hfree => next_runCommand hp (by simp) ?_ rfl, fun hfree => next_runCommand hp (by simp) ?_ rfl⟩
  · simp [zeroAt_eq, hhead', hfree]
    rfl
  · simp [zeroAt_eq, hhead', hfree]

/-- ErrAck of a context's queue. -/
theorem errack_context_answers {head : Nat} (hc : ctx ≠ 0) (hc' : ctx ≤ 1023) (hhead : head < 2 ^ 64) (hever : (s.context ctx).everConfigured = true)
    (hp : Posted s slot c) (hcmd : c = ringCommand 0x60 0 ctx 0 head 0) :
    (∀ q, (s.context ctx).errors.free head = some q →
      exec .errack s = .next ((s.modContext ctx (fun x => { x with errors := q })).doneWith slot c 0)) ∧
    ((s.context ctx).errors.free head = none → exec .errack s = .next (s.doneWith slot c 12)) := by
  subst hcmd
  have hctx : ctx % 65536 = ctx := by omega
  have hhead' : head % 18446744073709551616 = head := by omega
  have hc'' : ¬ 1023 < ctx := by omega
  refine ⟨fun q hfree => next_runCommand hp (by simp) ?_ rfl, fun hfree => next_runCommand hp (by simp) ?_ rfl⟩
  · simp [hctx, hc, hc'', hever, zeroAt_eq, hhead', hfree]
    rfl
  · simp [hctx, hc, hc'', hever, zeroAt_eq, hhead', hfree]

theorem attest_answers {a n : Nat} (hc : ctx ≤ 1023) (ha : a < 2 ^ 64) (hn : n < 2 ^ 64) (halign : a % 64 = 0) (hp : Posted s slot c)
    (hcmd : c = ringCommand 0x70 0 ctx 0 a n) :
    (n < 50176 → exec .attest s = .next (s.doneWith slot c 5)) ∧
    (50176 ≤ n → s.spanPlaced a 50176 = true → s.firmReads a 32 = true →
      ctx = 0 ∨ ((s.context ctx).state ≠ .tornDown ∧ (s.context ctx).state ≠ .tearing) →
      exec .attest s = .next ((s.physWrite a (s.report ctx (s.physRead a 32))).doneWith slot c 0)) := by
  subst hcmd
  have hctx : ctx % 65536 = ctx := by omega
  have haddr : a % 18446744073709551616 = a := by omega
  have hsize : n % 18446744073709551616 = n := by omega
  have hc' : ¬ 1023 < ctx := by omega
  refine ⟨fun hsmall => next_runCommand hp (by simp) ?_ rfl, fun hbig hplaced hreads hlive =>
    next_runCommand hp (by simp) ?_ (State.physWrite_ringSlots ..)⟩
  · simp [hctx, hc', haddr, hsize, halign, zeroAt_eq, hsmall]
  · have hbig' : ¬ n < 50176 := by omega
    have htorn : ¬ (ctx ≠ 0 ∧ (s.context ctx).state = .tornDown) := fun h => (hlive.resolve_left h.1).1 h.2
    have htearing : ¬ (ctx ≠ 0 ∧ (s.context ctx).state = .tearing) := fun h => (hlive.resolve_left h.1).2 h.2
    simp [hctx, hc', haddr, hsize, halign, zeroAt_eq, hbig', hplaced, hreads, htorn, htearing, State.acceptCommand_physWrite]

end

theorem ErrorQueue.free_of_within {q : ErrorQueue} {head : Nat} (h : q.head ≤ head) (h' : head ≤ q.tail) : q.free head = some { q with head := head } :=
  if_pos ⟨h, h'⟩

theorem ErrorQueue.free_of_outside {q : ErrorQueue} {head : Nat} (h : head < q.head ∨ q.tail < head) : q.free head = none := if_neg (by omega)

/-! ### The statement -/

/-- Settles O51: each command's meaning is evaluated on the command at HEAD, whose fields are read back by the lemmas on `ringCommand`. -/
theorem administration : Obligations.Administration := by
  unfold Obligations.Administration
  refine ⟨fun s slot ctx hc hc' => ⟨?_, ?_, ?_⟩, ?_, ?_, ?_, ?_⟩
  · exact fun lq mode log base hl hm hlog hlog' hb _ hp => assign_answers hc hc' hl hm hlog hlog' hb hp rfl
  · exact fun lq hl hp hst => release_answers hc hc' hl hst hp rfl
  · intro toexp n a ht ht' hn hn' ha ha' c b hp hreads
    obtain ⟨hbad, hstate, hdone⟩ := peers_answers hc hc' ht ht' hn hn' ha ha' hp rfl hreads
    refine ⟨hbad, fun hpeers hst => hstate hpeers (by rwa [State.gangLive_iff]), fun hpeers hst hlive => hdone hpeers hst ?_⟩
    rw [Bool.eq_false_iff, Ne, State.gangLive_iff]
    rintro ⟨k, hk, hown, hend, hdevs⟩
    rcases hlive k hk hown with h | h
    · simp [hend] at h
    · exact hdevs h
  · intro s slot ctx log a hc hc' _ hlog c hp
    rw [exec_invalidate hc hc' hlog hp]
    refine ⟨fun hst => ?_, fun hst h0 hacc => ?_, fun hst hacc hheld => ?_⟩
    · rw [if_pos hst]
    · rw [if_neg hst, commandSpan, if_pos h0, State.spanQuiet_none_of_access hacc]
      rfl
    · rw [if_neg hst, State.spanQuiet_of_idle hacc hheld]
      simp [State.invalidate, TlbEntry.meets_commandSpan, TablePath.meets_commandSpan, bne, c]
  · intro s slot ctx act fid hc hc' hact hfid hst hidle c hp
    obtain ⟨hstale, hdone⟩ := resolve_answers hc hc' hact hfid hst hidle hp rfl
    refine ⟨hstale, fun id f hfind hoff => ⟨_, hdone id f hfind, answered_doneWith rfl .., rfl, rfl, ?_⟩⟩
    intro gid g k it x va kind hg hgctx hit hwait hkind hread
    have hown : f.ctx = ctx := by
      have hmatch := List.find?_some hfind
      simp only [Bool.and_eq_true, beq_iff_eq] at hmatch
      exact hmatch.1
    refine ⟨_, State.item?_resolveFault id _ (hown ▸ hoff) hg (hgctx.trans hown.symm) hit hwait hkind hread, rfl, rfl, rfl, ?_⟩
    rcases (by omega : act = 0 ∨ act = 1) with rfl | rfl <;> rfl
  · intro s slot ctx head hc hhead c q hp hconf
    by_cases h0 : ctx = 0
    · subst h0
      obtain ⟨hdone, hbad⟩ := errack_device_answers hhead hp rfl
      exact ⟨fun h h' => ⟨_, hdone _ (ErrorQueue.free_of_within h h'), answered_doneWith rfl .., rfl, rfl⟩,
        fun h => hbad (ErrorQueue.free_of_outside h)⟩
    · obtain ⟨hdone, hbad⟩ := errack_context_answers h0 hc hhead (hconf.resolve_left h0) hp rfl
      have hq : q = (s.context ctx).errors := if_neg h0
      refine ⟨fun h h' => ⟨_, hdone _ (ErrorQueue.free_of_within (hq ▸ h) (hq ▸ h')), answered_doneWith rfl .., rfl, ?_⟩,
        fun h => hbad (ErrorQueue.free_of_outside (hq ▸ h))⟩
      rw [hq]
      simp [h0, State.context_modContext]
  · intro s slot ctx a n hc ha hn halign c hp
    obtain ⟨hsmall, hdone⟩ := attest_answers hc ha hn halign hp rfl
    exact ⟨hsmall, fun hbig hplaced hreads hlive => ⟨_, s.report ctx (s.physRead a 32), hdone hbig hplaced hreads hlive,
      answered_doneWith (State.physWrite_ringHead ..) .., (State.doneWith_memory ..).trans (State.physWrite_memory ..),
      s.report_fields hc (Memory.length_read ..)⟩⟩

end Sys2Proof.Machine
end

section
/-! PROOFS. launch into a slot that lies on the page table that maps it (05 R103, R110, R114). -/

namespace Sys2Proof.Machine

/-- The small machine's device queue, with its slot 0 on the leaf table at 0x13000 that maps the low 2 MiB. The context's key id is 0, as that of the
tables (16 R352), so a write of the slot writes the table's entries. -/
def tableSlotState : State := launchState 0x8000 [(3, benchQueue true 0x13000 0 0)]

theorem alone_tableSlot : Alone tableSlotState (launchGroup 0x8000) (.launch (formOf 4 6 8 0)) 0 (launchItem 0x8000) :=
  alone_launch _ _ (by decide +kernel)

/-- Both lines of the record at 0x8000 are within the item's reach. -/
theorem reachable_tableSlot (a : Nat) (h : a = 0x8000 ∨ a = 0x8080) :
    Reachable tableSlotState (launchGroup 0x8000) (BitVec.ofNat 64 a) 128 a (sliceFor (launchGroup 0x8000) a) false := by
  refine ⟨?_, ?_, ⟨{ unit := 0, ctx := 1, base := 0, logSize := 21, addr := 0, r := true, w := true, x := true }, ?_, rfl, ?_⟩, ?_, ?_,
    fun c => charge_launch 0x8000 _ _ c, rfl, ?_, ?_, ?_, ?_, ?_, ?_, rfl⟩
  all_goals (rcases h with rfl | rfl)
  all_goals decide +kernel

/-- Both lines of the slot are within firmware's reach as the launch begins. -/
theorem firmReach_tableSlot (a : Nat) (h : a = 0x13000 ∨ a = 0x13080) : FirmReach tableSlotState 1 (BitVec.ofNat 64 a) 128 a true := by
  refine ⟨?_, ⟨{ addr := 0, logSize := 21, code := 4, r := true, w := true, x := true, level := 1 }, ?_, ?_⟩, ?_, ?_, ?_, ?_, ?_, ?_, ?_⟩
  all_goals (rcases h with rfl | rfl)
  all_goals decide +kernel

/-- The record's first line replaces the leaf entry by the descriptor's address, whose bit 0 is clear; the second line finds no mapping, and D is 5. -/
theorem launch_tableSlot {u : State} (hu : exec (.launch (formOf 4 6 8 0)) tableSlotState = .next u) :
    (u.item? 0 0).map (fun it => it.readV 4) = some 5 := by
  have hrun : (match exec (.launch (formOf 4 6 8 0)) tableSlotState with
      | .next u => (u.item? 0 0).map (fun it => it.readV 4)
      | _ => none) = some 5 := by decide +kernel
  rw [hu] at hrun
  exact hrun

/-- Refutes O46: a launch whose slot lies on the page table that maps it writes over its own mapping with the first line, and gives 5 where
the statement has 0. Its premises admit this for a context whose key id is 0, under which the tables are read. -/
theorem not_launchPath : ¬ Obligations.LaunchPath := by
  unfold Obligations.LaunchPath
  rintro ⟨hlaunch, -⟩
  obtain ⟨-, hqueue⟩ := hlaunch tableSlotState (launchGroup 0x8000) (formOf 4 6 8 0) 0 (launchItem 0x8000) 0x8000 0x8080 alone_tableSlot rfl rfl
    (by decide) (by decide) (reachable_tableSlot 0x8000 (.inl rfl)) (reachable_tableSlot 0x8080 (.inr rfl))
  obtain ⟨-, -, -, happend⟩ := hqueue 3 (by decide +kernel)
  obtain ⟨u, ⟨hexec, it, hit, hv, -⟩, -⟩ := happend 0x13000 0x13080 rfl (by decide +kernel) (by decide +kernel) (by decide)
    (firmReach_tableSlot 0x13000 (.inl rfl)) (firmReach_tableSlot 0x13080 (.inr rfl)) (by decide)
  have hzero : it.readV 4 = 0 := by
    rw [Item.readV, hv]
    rfl
  have hfive : it.readV 4 = 5 := by simpa [show u.item? 0 0 = some it from hit] using launch_tableSlot hexec
  exact absurd (hzero.symm.trans hfive) (by decide)

end Sys2Proof.Machine
end

section
/-! PROOFS. The messages and time-outs of gangs of several devices (06 R130 to R136): what a gang message leaves alone, what a kernel's end by abort
changes, and each message's meaning. -/

namespace Sys2Proof.Machine

/-! ### What a message leaves alone -/

/-- Two states agree on all that the end of a kernel shows in (R124): memory, kernels, groups and completion updates. -/
structure SameKernels (s u : State) : Prop where
  memory : u.memory = s.memory
  kernels : u.kernels = s.kernels
  groups : u.groups = s.groups
  updates : u.updates = s.updates

theorem SameKernels.refl (s : State) : SameKernels s s := ⟨rfl, rfl, rfl, rfl⟩

theorem SameKernels.trans {s t u : State} (h : SameKernels s t) (h' : SameKernels t u) : SameKernels s u :=
  ⟨h'.memory.trans h.memory, h'.kernels.trans h.kernels, h'.groups.trans h.groups, h'.updates.trans h.updates⟩

theorem SameKernels.kernel? {s u : State} (h : SameKernels s u) (kh : Nat) : u.kernel? kh = s.kernel? kh := by
  rw [State.kernel?, State.kernel?, h.kernels]

theorem SameKernels.foldl {α : Type} {f : State → α → State} (h : ∀ s a, SameKernels s (f s a)) (l : List α) (s : State) :
    SameKernels s (l.foldl f s) :=
  List.foldlRecOn l f (SameKernels.refl s) fun t ht a _ => ht.trans (h t a)

theorem State.modContext_sameKernels (s : State) (ctx : Nat) (f : Context → Context) : SameKernels s (s.modContext ctx f) :=
  ⟨rfl, rfl, rfl, rfl⟩

theorem State.setGangs_sameKernels (s : State) (gangs : Table Gang) : SameKernels s { s with gangs := gangs } := ⟨rfl, rfl, rfl, rfl⟩

theorem State.sendPacket_sameKernels (s : State) (typ dst ctx : Nat) (c : Config.PacketContent) : SameKernels s (s.sendPacket typ dst ctx c).1 := by
  unfold State.sendPacket
  split
  · split <;> exact ⟨rfl, rfl, rfl, rfl⟩
  · exact ⟨rfl, rfl, rfl, rfl⟩

theorem State.sendPacket_gangs (s : State) (typ dst ctx : Nat) (c : Config.PacketContent) : (s.sendPacket typ dst ctx c).1.gangs = s.gangs := by
  unfold State.sendPacket
  split
  · split <;> rfl
  · rfl

theorem State.tellRank_sameKernels (s : State) (ctx rank kind n : Nat) : SameKernels s (s.tellRank ctx rank kind n) := by
  unfold State.tellRank
  split
  · exact SameKernels.refl s
  · split
    · exact s.sendPacket_sameKernels ..
    · exact SameKernels.refl s

@[simp] theorem State.tellRank_gangs (s : State) (ctx rank kind n : Nat) : (s.tellRank ctx rank kind n).gangs = s.gangs := by
  unfold State.tellRank
  split
  · rfl
  · split
    · exact s.sendPacket_gangs ..
    · rfl

/-- A message to every member of a gang but the coordinator's own (R131). -/
def State.tellMembers (s : State) (g : Gang) (kind n : Nat) : State :=
  (upTo g.devs).foldl (fun s r => if r = 0 then s else s.tellRank g.ctx r kind n) s

theorem State.tellMembers_sameKernels (s : State) (g : Gang) (kind n : Nat) : SameKernels s (s.tellMembers g kind n) := by
  refine SameKernels.foldl (fun t r => ?_) _ s
  split
  · exact SameKernels.refl t
  · exact t.tellRank_sameKernels ..

/-! ### The end of a kernel by abort -/

theorem Aborts.after {s t u : State} {kh : Nat} (h : SameKernels s t) (ha : Aborts t u kh) : Aborts s u kh := by
  obtain ⟨hmem, hend⟩ := ha
  refine ⟨hmem.trans h.memory, fun kn hk hlive => ?_⟩
  exact hend kn ((h.kernel? kh).trans hk) hlive

theorem Aborts.before {s t u : State} {kh : Nat} (ha : Aborts s t kh) (h : SameKernels t u) : Aborts s u kh := by
  obtain ⟨hmem, hend⟩ := ha
  refine ⟨h.memory.trans hmem, fun kn hk hlive => ?_⟩
  rw [h.kernel?, h.groups, h.updates]
  exact hend kn hk hlive

/-- Nothing is asked of the end of a kernel that is not there, or has ended. -/
theorem Aborts.of_not_live {s : State} {kh : Nat} (h : ∀ k, s.kernel? kh = some k → k.state.ended = true) : Aborts s s kh :=
  ⟨rfl, fun k hk hlive => absurd (h k hk) (by simp [hlive])⟩

theorem State.mem_groups_foldl_dropGroup {l : List Nat} {s : State} {p : Nat × Group}
    (hp : p ∈ (l.foldl (fun s gid => s.dropGroup gid) s).groups) : p ∈ s.groups ∧ p.1 ∉ l := by
  induction l generalizing s with
  | nil => exact ⟨hp, List.not_mem_nil⟩
  | cons gid l ih =>
    obtain ⟨hmem, hl⟩ := ih hp
    obtain ⟨hs, hne⟩ := List.mem_filter.1 (show p ∈ Table.erase s.groups gid from hmem)
    exact ⟨hs, by simpa [hl] using hne⟩

/-- The groups that are killed are gone. -/
theorem State.mem_groups_killGroups {s : State} {q : Group → Bool} {p : Nat × Group} (hp : p ∈ (s.killGroups q).groups) : q p.2 = false := by
  obtain ⟨hs, hkept⟩ := State.mem_groups_foldl_dropGroup hp
  by_contra hq
  exact hkept (List.mem_map.2 ⟨p, List.mem_filter.2 ⟨hs, by simpa using hq⟩, rfl⟩)

/-- What the kill of groups leaves alone. -/
theorem State.killGroups_keeps (s : State) (q : Group → Bool) :
    (s.killGroups q).kernels = s.kernels ∧ (s.killGroups q).memory = s.memory ∧ (s.killGroups q).gangs = s.gangs :=
  List.foldlRecOn (motive := fun t : State => t.kernels = s.kernels ∧ t.memory = s.memory ∧ t.gangs = s.gangs) _ _ ⟨rfl, rfl, rfl⟩ fun _ h _ _ => h

theorem Table.mem_put_self {α : Type} (t : Table α) (k : Nat) (a : α) : (k, a) ∈ Table.put t k a :=
  Table.get?_some_mem (Table.get?_put_self t k a)

theorem State.performEnd_gangs (s : State) (kh : Nat) (st : KernelState) : (s.performEnd kh st).gangs = s.gangs := by
  unfold State.performEnd
  split
  · rfl
  · split
    · rfl
    · obtain ⟨-, -, hgangs⟩ := s.killGroups_keeps (fun g => g.kh == kh)
      exact hgangs

theorem State.aborts_performEnd {s : State} {kh : Nat} {k : Kernel} (hk : s.kernel? kh = some k) (hlive : k.state.ended = false) :
    Aborts s (s.performEnd kh .aborted) kh := by
  obtain ⟨hkernels, hmem, -⟩ := s.killGroups_keeps (fun g => g.kh == kh)
  simp only [State.performEnd, hk, hlive, Bool.false_eq_true, if_false]
  refine ⟨hmem, fun kn hkn _ => ⟨⟨{ kn with state := .aborted }, ?_, rfl, rfl⟩, fun p hp => ?_, _, Table.mem_put_self .., rfl, rfl⟩⟩
  · show Table.get? (Table.modify _ kh _) kh = _
    rw [Table.get?_modify, if_pos rfl, hkernels, show Table.get? s.kernels kh = some kn from hkn, Option.map_some]
  · simpa using State.mem_groups_killGroups hp

theorem State.aborts_gangAborted (s : State) (kh : Nat) : Aborts s (s.gangAborted kh) kh := by
  unfold State.gangAborted
  split
  next hnone => exact Aborts.of_not_live fun k hk => by simp [hnone] at hk
  next k hk =>
    split
    next hended => exact Aborts.of_not_live fun k' hk' => by rwa [← Option.some.inj (hk.symm.trans hk')]
    next hlive =>
      have hend := State.aborts_performEnd hk (Bool.eq_false_iff.2 hlive)
      have hrecord (f h : Context → Context) := (hend.before (State.modContext_sameKernels _ k.ctx f)).before (State.modContext_sameKernels _ k.ctx h)
      split
      · exact (hrecord _ _).before (State.tellRank_sameKernels ..)
      · exact hrecord _ _

theorem State.gangAborted_gangs (s : State) (kh : Nat) : (s.gangAborted kh).gangs = s.gangs := by
  unfold State.gangAborted
  split
  · rfl
  · split
    · rfl
    · split
      · exact (State.tellRank_gangs ..).trans (s.performEnd_gangs ..)
      · exact s.performEnd_gangs ..

/-- The coordinator's abort takes the gang from the table and ends the coordinator's own kernel (R131). -/
theorem State.abortGang_ends {s : State} {n : Nat} {g : Gang} (hg : Table.get? s.gangs n = some g) :
    Table.get? (s.abortGang n).gangs n = none ∧ Aborts s (s.abortGang n) g.kh := by
  have habort : s.abortGang n =
      (State.keepAborted { s.tellMembers g 4 n with gangs := Table.erase (s.tellMembers g 4 n).gangs n } g.ctx n).gangAborted g.kh := by
    rw [State.abortGang, hg]
    rfl
  rw [habort, State.gangAborted_gangs]
  refine ⟨(Table.get?_erase _ n n).trans (if_pos rfl), Aborts.after ?_ (State.aborts_gangAborted ..)⟩
  exact (s.tellMembers_sameKernels g 4 n).trans ((State.setGangs_sameKernels ..).trans (State.modContext_sameKernels ..))

/-! ### RESERVE (R132) -/

/-- The member's answer to RESERVE, to the coordinator that the message names. -/
def State.answerReserve (s : State) (m : ReserveMsg) (kind : Nat) : State :=
  if (s.hind m.ctx).replaying then s
  else
    match m.peers with
    | p :: _ => s.sendGang kind m.n (m.peers.findIdx (fun p => p == (s.dev.devid, m.ctx))) p.1 p.2
    | [] => s

theorem State.answerReserve_sameKernels (s : State) (m : ReserveMsg) (kind : Nat) : SameKernels s (s.answerReserve m kind) := by
  unfold State.answerReserve
  split
  · exact SameKernels.refl s
  · split
    · exact s.sendPacket_sameKernels ..
    · exact SameKernels.refl s

/-- The launch record that RESERVE carries. -/
def reserveRecord (m : ReserveMsg) : LaunchRecord :=
  { desc := m.desc, prio := m.prio, flags := 0, tag := m.tag, crec := 0, smask := m.smask, deps := [], sval := m.sval }

theorem State.onReserve_refuses {s : State} {m : ReserveMsg} (h : (s.context m.ctx).state ≠ .active) : s.onReserve m = s.answerReserve m 2 :=
  if_pos (.inl h)

theorem State.onReserve_accepts {s t : State} {m : ReserveMsg} {d : Descriptor} {kh rank : Nat} (hactive : (s.context m.ctx).state = .active)
    (hpeers : (s.context m.ctx).peers.take m.peers.length = m.peers) (hread : s.readDescriptor m.ctx m.desc = .ok d t)
    (hfree : s.freeHandle = some kh) (hrank : s.myRank m.ctx = some rank) :
    s.onReserve m = (t.addKernel kh (newKernel m.ctx (reserveRecord m) d none t.takes m.n rank) 0xFF).answerReserve m 1 := by
  simp only [State.onReserve, hactive, hpeers, hread, hfree, hrank, ne_eq, not_true_eq_false, or_self, if_false]
  rfl

theorem State.hind_eraseKernel (s : State) (kh ctx : Nat) : (s.eraseKernel kh).hind ctx = s.hind ctx := by
  unfold State.eraseKernel
  split
  · rfl
  · dsimp only
    split
    · rw [State.hind, State.context_modContext]
      split
      next hctx => subst hctx; rfl
      next => rfl
    · rfl

theorem State.hind_releaseHandle (s : State) (kh ctx : Nat) : (s.releaseHandle kh).hind ctx = s.hind ctx := by
  unfold State.releaseHandle
  split
  · rfl
  · exact State.hind_eraseKernel ..

theorem State.numberKernel_of_off {s : State} {ctx : Nat} (h : (s.hind ctx).mode = .off) (kh lq : Nat) : s.numberKernel ctx kh lq = s := if_pos h

/-- Where the context keeps no log, the handle names the kernel as it was created. -/
theorem State.kernel?_addKernel {s : State} {kh lq : Nat} {k : Kernel} (hoff : (s.hind k.ctx).mode = .off) :
    (s.addKernel kh k lq).kernel? kh = some k := by
  have hmode : ((s.releaseHandle kh).hind k.ctx).mode = .off := by rw [State.hind_releaseHandle, hoff]
  rw [State.addKernel, State.numberKernel_of_off]
  · exact Table.get?_put_self ..
  · exact hmode

/-! ### The coordinator's table (R130, R131, R134) -/

theorem State.coordinated_of_owner {s : State} {ctx n : Nat} {g : Gang} (hg : Table.get? s.gangs n = some g) (hctx : g.ctx = ctx) :
    s.coordinated ctx n = some g := by
  simp [State.coordinated, hg, hctx]

theorem State.coordinated_none {s : State} {ctx n : Nat} (h : ∀ g, Table.get? s.gangs n = some g → g.ctx ≠ ctx) : s.coordinated ctx n = none := by
  simpa [State.coordinated, Option.filter_eq_none_iff] using h

theorem Gang.allAcked_iff (g : Gang) : g.allAcked = true ↔ ∀ r, 0 < r → r < g.devs → r ∈ g.acked := by
  simp only [Gang.allAcked, upTo, List.all_eq_true, List.mem_range, Bool.or_eq_true, beq_iff_eq, List.contains_iff_mem]
  exact ⟨fun h r hpos hr => (h r hr).resolve_left hpos.ne', fun h r hr => r.eq_zero_or_pos.imp_right fun hpos => h r hpos hr⟩

/-- The gang with the ACK of a rank noted. -/
def Gang.noteAck (g : Gang) (rank : Nat) : Gang := { g with acked := rank :: g.acked.erase rank }

theorem Gang.mem_acked_noteAck (g : Gang) (rank r : Nat) : r ∈ (g.noteAck rank).acked ↔ r = rank ∨ r ∈ g.acked := by
  rw [Gang.noteAck, List.mem_cons]
  exact or_congr_right' fun hne => List.mem_erase_of_ne hne

section
variable {s : State} {m : GangMsg} {g : Gang}

/-- An ACK that does not complete the gang is noted, and nothing else changes. -/
theorem State.onAck_notes (hg : s.coordinated m.ctx m.n = some g) (h : g.committed = true ∨ (g.noteAck m.rank).allAcked = false) :
    s.onAck m = { s with gangs := Table.put s.gangs m.n (g.noteAck m.rank) } := by
  have hcond : (g.committed || !(g.noteAck m.rank).allAcked) = true := by simpa using h
  simp only [State.onAck, hg]
  exact if_pos hcond

/-- The last ACK commits the gang: COMMIT goes to every member, and the coordinator's own kernel is committed. -/
theorem State.onAck_commits (hg : s.coordinated m.ctx m.n = some g) (hopen : g.committed = false) (hall : (g.noteAck m.rank).allAcked = true) :
    ∃ t, SameKernels s t ∧ s.onAck m = State.modKernel
      { t with gangs := Table.put t.gangs m.n { g.noteAck m.rank with committed := true } } g.kh (fun k => { k with committed := true }) := by
  have hcond : ¬ (g.committed || !(g.noteAck m.rank).allAcked) = true := by simp [hopen, hall]
  refine ⟨State.tellMembers { s with gangs := Table.put s.gangs m.n (g.noteAck m.rank) } (g.noteAck m.rank) 3 m.n,
    (State.setGangs_sameKernels ..).trans (State.tellMembers_sameKernels ..), ?_⟩
  simp only [State.onAck, hg]
  exact if_neg hcond

end

/-! ### The meaning of each message -/

section
variable (s : State) (m : GangMsg)

theorem exec_gangReserve (r : ReserveMsg) : exec (.gangReserve r) s = .next (s.onReserve r) := rfl
theorem exec_gangAck : exec (.gangAck m) s = .next (s.onAck m) := rfl
theorem exec_gangRefuse : exec (.gangRefuse m) s = .next (s.onFail m) := rfl
theorem exec_gangCommit : exec (.gangCommit m) s = .next (s.onCommit m) := rfl
theorem exec_gangAbort : exec (.gangAbort m) s = .next (s.onAbort m) := rfl
theorem exec_gangFail : exec (.gangFail m) s = .next (s.onFail m) := rfl
theorem exec_gangDone : exec (.gangDone m) s = .next (s.onDone m) := rfl
theorem exec_gangQuery : exec (.gangQuery m) s = .next (s.onQuery m) := rfl
theorem exec_gangQueryAnswer (live : Bool) : exec (.gangQueryAnswer m live) s = .next (s.onAnswer m live) := rfl

variable {s}

theorem exec_gangTimeout {n : Nat} {g : Gang} (hg : Table.get? s.gangs n = some g) :
    exec (.gangTimeout n) s = .next (if g.committed then s else s.abortGang n) := by
  rw [show exec (.gangTimeout n) s = execGangTimeout n s from rfl, execGangTimeout, hg]

theorem exec_gangMemberTimeout {kh : Nat} {kn : Kernel} (hkn : s.kernel? kh = some kn) :
    exec (.gangMemberTimeout kh) s = .next (if kn.gangN ≠ 0 ∧ kn.rank ≠ 0 ∧ (!kn.committed ∨ kn.asked) then s.gangAborted kh else s) := by
  rw [show exec (.gangMemberTimeout kh) s = execGangMemberTimeout kh s from rfl, execGangMemberTimeout, hkn]

end

theorem reserve_answers {s t : State} {m : ReserveMsg} {d : Descriptor} {kh rank : Nat} (hactive : (s.context m.ctx).state = .active)
    (hpeers : (s.context m.ctx).peers.take m.peers.length = m.peers) (hread : s.readDescriptor m.ctx m.desc = .ok d t)
    (hoff : (t.hind m.ctx).mode = .off) (hfree : s.freeHandle = some kh) (hrank : s.myRank m.ctx = some rank) :
    ∃ u, exec (.gangReserve m) s = .next u ∧ u.kernel? kh = some (newKernel m.ctx (reserveRecord m) d none t.takes m.n rank) := by
  refine ⟨_, by rw [exec_gangReserve, State.onReserve_accepts hactive hpeers hread hfree hrank], ?_⟩
  rw [(State.answerReserve_sameKernels ..).kernel?]
  exact State.kernel?_addKernel hoff

/-- REFUSE and FAIL abort the gang that this device coordinates (R131); that a FAIL before COMMIT does so too is the model's choice (log 18). -/
theorem State.onFail_aborts {s : State} {m : GangMsg} {g : Gang} (hg : s.coordinated m.ctx m.n = some g) : s.onFail m = s.abortGang m.n := by
  rw [State.onFail, hg]
  rfl

/-- The clauses of a gang that this device coordinates for the message's context (R130, R131, R134, R136). -/
theorem coordinator_answers {s : State} {m : GangMsg} {g : Gang} (hg : Table.get? s.gangs m.n = some g) (hctx : g.ctx = m.ctx) :
    (g.committed = true → exec (.gangAck m) s = .next { s with gangs := Table.put s.gangs m.n (g.noteAck m.rank) }) ∧
    ((∃ r, 0 < r ∧ r < g.devs ∧ r ≠ m.rank ∧ r ∉ g.acked) →
      exec (.gangAck m) s = .next { s with gangs := Table.put s.gangs m.n (g.noteAck m.rank) }) ∧
    (g.committed = false → (∀ r, 0 < r → r < g.devs → r = m.rank ∨ r ∈ g.acked) → ∃ u, exec (.gangAck m) s = .next u ∧ u.memory = s.memory ∧
      Table.get? u.gangs m.n = some { g.noteAck m.rank with committed := true } ∧
      ∀ kn, s.kernel? g.kh = some kn → u.kernel? g.kh = some { kn with committed := true }) ∧
    (∀ i ∈ [Instr.gangRefuse m, .gangFail m], ∃ u, exec i s = .next u ∧ Table.get? u.gangs m.n = none ∧ Aborts s u g.kh) ∧
    exec (.gangDone m) s = .next { s with gangs := Table.put s.gangs m.n { g with done := m.rank :: g.done.erase m.rank } } ∧
    (g.committed = false → ∃ u, exec (.gangTimeout m.n) s = .next u ∧ Table.get? u.gangs m.n = none ∧ Aborts s u g.kh) ∧
    (g.committed = true → exec (.gangTimeout m.n) s = .next s) ∧
    exec (.gangQuery m) s = .next (s.tellRank m.ctx m.rank 8 m.n) := by
  have hown := State.coordinated_of_owner hg hctx
  refine ⟨fun hcom => ?_, fun ⟨r, hpos, hr, hne, hnew⟩ => ?_, fun hopen hall => ?_, ?_, ?_, fun hopen => ?_, fun hcom => ?_, ?_⟩
  · rw [exec_gangAck, State.onAck_notes hown (.inl hcom)]
  · have hmissing : (g.noteAck m.rank).allAcked = false := by
      refine Bool.eq_false_iff.2 fun hall => ?_
      exact ((Gang.mem_acked_noteAck ..).1 ((Gang.allAcked_iff _).1 hall r hpos hr)).elim hne hnew
    rw [exec_gangAck, State.onAck_notes hown (.inr hmissing)]
  · have hlast : (g.noteAck m.rank).allAcked = true :=
      (Gang.allAcked_iff _).2 fun r hpos hr => (Gang.mem_acked_noteAck ..).2 (hall r hpos hr)
    obtain ⟨t, hsame, hack⟩ := State.onAck_commits hown hopen hlast
    rw [exec_gangAck, hack]
    refine ⟨_, rfl, hsame.memory, Table.get?_put_self .., fun kn hkn => ?_⟩
    rw [State.kernel?_modKernel, if_pos rfl]
    exact congrArg (Option.map _) ((hsame.kernel? g.kh).trans hkn)
  · simpa [exec_gangRefuse, exec_gangFail, State.onFail_aborts hown] using State.abortGang_ends hg
  · rw [exec_gangDone, State.onDone, hown]
  · rw [exec_gangTimeout hg, hopen]
    exact ⟨_, rfl, State.abortGang_ends hg⟩
  · rw [exec_gangTimeout hg, if_pos hcom]
  · rw [exec_gangQuery, State.onQuery, hown]
    rfl

/-- The clauses of a gang that is not in this device's table for the message's context (R130, R131, R136). -/
theorem uncoordinated_answers {s : State} {m : GangMsg} (hnone : s.coordinated m.ctx m.n = none) :
    exec (.gangRefuse m) s = .next s ∧ exec (.gangFail m) s = .next s ∧ exec (.gangDone m) s = .next s ∧
    exec (.gangQuery m) s = .next (s.tellRank m.ctx m.rank 9 m.n) ∧
    (m.n ∈ (s.context m.ctx).abortedGangs → exec (.gangAck m) s = .next (s.tellRank m.ctx m.rank 4 m.n)) ∧
    (m.n ∉ (s.context m.ctx).abortedGangs → exec (.gangAck m) s = .next s) := by
  have hfail : s.onFail m = s := by simp [State.onFail, hnone]
  refine ⟨?_, ?_, ?_, ?_, fun hmem => ?_, fun hmem => ?_⟩
  · rw [exec_gangRefuse, hfail]
  · rw [exec_gangFail, hfail]
  · rw [exec_gangDone, State.onDone, hnone]
  · simp [exec_gangQuery, State.onQuery, hnone]
  · simp [exec_gangAck, State.onAck, hnone, hmem]
  · simp [exec_gangAck, State.onAck, hnone, hmem]

/-- The clauses of a member with a live kernel of the gang (R132, R133, R136). -/
theorem member_answers {s : State} {m : GangMsg} {kh : Nat} {kn : Kernel} (live : Bool) (hkh : s.gangKernel m.ctx m.n = some kh)
    (hkn : s.kernel? kh = some kn) :
    exec (.gangCommit m) s = .next { s with kernels := Table.modify s.kernels kh (fun k => { k with committed := true }) } ∧
    (∃ u, exec (.gangAbort m) s = .next u ∧ Aborts s u kh) ∧
    (kn.asked = false → exec (.gangQueryAnswer m live) s = .next s) ∧
    (kn.asked = true → live = true →
      exec (.gangQueryAnswer m live) s = .next { s with kernels := Table.modify s.kernels kh (fun k => { k with asked := false }) }) ∧
    (kn.asked = true → live = false → ∃ u, exec (.gangQueryAnswer m live) s = .next u ∧ Aborts s u kh) := by
  have hanswer : s.onAnswer m live =
      if kn.asked then if live then s.modKernel kh (fun k => { k with asked := false }) else s.gangAborted kh else s := by
    simp [State.onAnswer, hkh, hkn]
  rw [exec_gangCommit, exec_gangAbort, exec_gangQueryAnswer, hanswer, State.onCommit, State.onAbort, hkh]
  refine ⟨rfl, ⟨_, rfl, s.aborts_gangAborted kh⟩, fun hasked => ?_, fun hasked hlive => ?_, fun hasked hlive => ?_⟩
  · simp [hasked]
  · simp [hasked, hlive, State.modKernel]
  · simpa [hasked, hlive] using s.aborts_gangAborted kh

/-- The clauses of a member without a live kernel of the gang (R130, R132). -/
theorem formerMember_answers {s : State} {m : GangMsg} (live : Bool) (hnone : s.gangKernel m.ctx m.n = none) :
    exec (.gangAbort m) s = .next s ∧ exec (.gangQueryAnswer m live) s = .next s ∧
    (m.n ∉ (s.context m.ctx).abortedGangs → exec (.gangCommit m) s = .next s) ∧
    (m.n ∈ (s.context m.ctx).abortedGangs → exec (.gangCommit m) s = .next (s.tellRank m.ctx 0 5 m.n)) := by
  refine ⟨?_, ?_, fun hmem => ?_, fun hmem => ?_⟩
  · rw [exec_gangAbort, State.onAbort, hnone]
  · rw [exec_gangQueryAnswer, State.onAnswer, hnone]
  · simp [exec_gangCommit, State.onCommit, hnone, hmem]
  · simp [exec_gangCommit, State.onCommit, hnone, hmem]

/-- The clauses of a member's time-out (R132, R136). -/
theorem memberTimeout_answers {s : State} {kh : Nat} {kn : Kernel} (hkn : s.kernel? kh = some kn) (hgang : kn.gangN ≠ 0) (hrank : kn.rank ≠ 0) :
    (kn.committed = false ∨ kn.asked = true → ∃ u, exec (.gangMemberTimeout kh) s = .next u ∧ Aborts s u kh) ∧
    (kn.committed = true → kn.asked = false → exec (.gangMemberTimeout kh) s = .next s) := by
  rw [exec_gangMemberTimeout hkn]
  refine ⟨fun hwaits => ?_, fun hcom hasked => ?_⟩
  · rw [if_pos ⟨hgang, hrank, by simpa using hwaits⟩]
    exact ⟨_, rfl, s.aborts_gangAborted kh⟩
  · simp [hcom, hasked]

/-- Settles O52: each message's meaning is read off the table it looks in; every abort ends in `gangAborted`, whose effect the messages that go with it
do not touch. -/
theorem gangMessages : Obligations.GangMessages := by
  unfold Obligations.GangMessages
  refine ⟨fun s t m d kh rank _ => ⟨fun hst => ?_, fun hactive hpeers hread hoff hfree hrank hdevs => ?_⟩,
    fun s m g hg hctx => coordinator_answers hg hctx, fun s m hnone => uncoordinated_answers (State.coordinated_none hnone),
    fun s m live => ⟨fun kh kn hkh hkn => member_answers live hkh hkn, formerMember_answers live⟩,
    fun s kh kn hkn hgang hrank => memberTimeout_answers hkn hgang hrank⟩
  · have hsame := s.answerReserve_sameKernels m 2
    exact ⟨_, by rw [exec_gangReserve, State.onReserve_refuses hst], hsame.kernels, hsame.memory⟩
  · obtain ⟨u, hexec, hkn⟩ := reserve_answers hactive hpeers hread hoff hfree hrank
    refine ⟨u, _, hexec, hkn, rfl, rfl, rfl, rfl, rfl, decide_eq_false hdevs, rfl, ?_, ?_⟩
    · simp [newKernel, hdevs]
    · simp [newKernel, hdevs]

end Sys2Proof.Machine
end

section
/-! PROOFS. An item's arrivals and departures in its group: exit and rfpt (06 R128, 07 R139, R143, R145, R146). -/

namespace Sys2Proof.Machine

/-! ### The last counted event -/

/-- What a closure is logged with is all that changes as an event is counted. -/
theorem State.noteEvent_cases (s : State) (gid slot : Nat) :
    s.noteEvent gid slot = s ∨ ∃ f : Group → W64 × Nat, s.noteEvent gid slot = s.modGroup gid (fun g => { g with counted := f g }) := by
  unfold State.noteEvent
  split
  · exact .inl rfl
  · split
    · exact .inl rfl
    · split
      · exact .inr ⟨_, rfl⟩
      · exact .inl rfl

@[simp] theorem State.noteEvent_kernels (s : State) (gid slot : Nat) : (s.noteEvent gid slot).kernels = s.kernels := by
  obtain h | ⟨c, h⟩ := s.noteEvent_cases gid slot <;> simp [h]

@[simp] theorem State.noteEvent_wave (s : State) (gid slot : Nat) : (s.noteEvent gid slot).wave = s.wave := by
  obtain h | ⟨c, h⟩ := s.noteEvent_cases gid slot <;> simp [h]

@[simp] theorem State.noteEvent_tick (s : State) (gid slot : Nat) : (s.noteEvent gid slot).tick = s.tick := by
  obtain h | ⟨c, h⟩ := s.noteEvent_cases gid slot <;> simp [h]

theorem State.group?_noteEvent {s : State} {gid : Nat} {g : Group} (hg : s.group? gid = some g) (slot : Nat) :
    ∃ c, (s.noteEvent gid slot).group? gid = some { g with counted := c } := by
  obtain h | ⟨c, h⟩ := s.noteEvent_cases gid slot
  · exact ⟨g.counted, by rw [h, hg]⟩
  · exact ⟨c g, by simp [h, hg]⟩

/-! ### An item that leaves its group -/

theorem Group.modBarrier_eq (g : Group) (k : Nat) (f : Barrier → Barrier) : ∃ b, g.modBarrier k f = { g with barriers := b } := by
  unfold Group.modBarrier
  split
  · exact ⟨_, rfl⟩
  · exact ⟨g.barriers, rfl⟩

theorem Group.foldl_barriers {f : Group → Nat → Group} (hf : ∀ g k, ∃ b, f g k = { g with barriers := b }) (l : List Nat) (g : Group) :
    ∃ b, l.foldl f g = { g with barriers := b } := by
  induction l generalizing g with
  | nil => exact ⟨g.barriers, rfl⟩
  | cons k l ih =>
    obtain ⟨b, hb⟩ := hf g k
    obtain ⟨b', hb'⟩ := ih { g with barriers := b }
    exact ⟨b', by rw [List.foldl_cons, hb, hb']⟩

/-- A group that an item has left has the other items, and barriers that may have counted the departure (R143, R301). -/
theorem Group.leave_eq {g : Group} {slot : Nat} {it : Item} (h : Table.get? g.items slot = some it) :
    ∃ b, g.leave slot = { g with barriers := b, items := Table.erase g.items slot } := by
  simp only [Group.leave, h]
  generalize hfold : List.foldl _ g (upTo 16) = g'
  obtain ⟨b, hb⟩ : ∃ b, g' = { g with barriers := b } := by
    rw [← hfold]
    refine Group.foldl_barriers (fun g k => ?_) _ _
    split
    · exact g.modBarrier_eq k _
    · exact g.modBarrier_eq k _
    · exact ⟨g.barriers, rfl⟩
  exact ⟨b, by rw [hb]⟩

/-- A form over a lone item that ends in a state in which nothing of its group is pending. -/
theorem State.foldWave_alone {s t : State} {g g' : Group} {i : Instr} {k : Nat} {it : Item} (ha : Alone s g i k it) {body : Env → State → State}
    (hbody : body (s.envOf g k it) s = t) (hd : t.duplex g = false) (hg : t.group? s.wave.gid = some g') (hu : g'.guarded = none) (hc : g'.Clear) :
    s.foldWave i false body = t := by
  simp only [State.foldWave]
  rw [State.foldl_stepItem_alone ha hbody hd, State.undoWave_unguarded hg hu]
  exact State.settle_of_clear hg hc

/-- In an unguarded group a committing form is its effect alone. -/
theorem State.commitWave_unguarded {s : State} {g : Group} (hp : Plain s g) (i : Instr) (priv : Bool) (body : Env → State → State) :
    s.commitWave i priv body = s.foldWave i priv body := by
  simp [State.commitWave, State.around, hp.group, hp.unguarded]

theorem Alone.headD {s : State} {g : Group} {i : Instr} {k : Nat} {it : Item} (ha : Alone s g i k it) : s.wave.slots.headD 0 = k := by
  rw [ha.only]; rfl

/-! ### exit -/

theorem exec_exit (o : Form) (s : State) : exec (.exit o) s = execExit o s := rfl
theorem exec_rfpt (o : Form) (s : State) : exec (.rfpt o) s = execRfpt o s := rfl

theorem Item.Idle.busy {it : Item} (h : it.Idle) : it.busy = false := by
  obtain ⟨h1, h2, h3, h4⟩ := h
  simp [Item.busy, h1, h2, h3, h4]

theorem State.endItem_eq {s : State} {gid : Nat} {g : Group} (hg : s.group? gid = some g) (slot : Nat) : s.endItem gid slot =
    { ((s.noteEvent gid slot).modGroup gid (fun g => g.leave slot)) with
      kernels := Table.modify s.kernels g.kh (fun x => { x with ended := x.ended + 1 })
      monitors := s.monitors.filter (fun p => p.2.gid != gid || p.2.slot != slot) } := by
  have hm : (s.noteEvent gid slot).monitors = s.monitors := by obtain h | ⟨c, h⟩ := s.noteEvent_cases gid slot <;> simp [h]
  simp [State.endItem, hg, State.modKernel, hm]

theorem State.group?_endItem {s : State} {gid slot : Nat} {g : Group} {it : Item} (hg : s.group? gid = some g)
    (hit : Table.get? g.items slot = some it) :
    ∃ c b, (s.endItem gid slot).group? gid = some { g with counted := c, barriers := b, items := Table.erase g.items slot } := by
  obtain ⟨c, hc⟩ := s.group?_noteEvent hg slot
  obtain ⟨b, hb⟩ := Group.leave_eq (g := { g with counted := c }) hit
  refine ⟨c, b, ?_⟩
  rw [State.endItem_eq hg]
  show ((s.noteEvent gid slot).modGroup gid (fun g => g.leave slot)).group? gid = _
  rw [State.group?_modGroup_self, hc, Option.map_some, hb]

/-- The count of ended items says nothing of a kernel's shadow. -/
theorem State.duplex_endItem {s : State} {gid : Nat} {g : Group} (hg : s.group? gid = some g) (slot : Nat) (h : Group) :
    (s.endItem gid slot).duplex h = s.duplex h := by
  rw [State.endItem_eq hg]
  simp only [State.duplex, State.kernel?, Table.get?_modify]
  split
  · cases Table.get? s.kernels h.kh <;> rfl
  · rfl

theorem exit_completes {s : State} {g : Group} {o : Form} {k : Nat} {it : Item} (ha : Alone s g (.exit o) k it) (hidle : it.Idle)
    (hd : g.deferred? k = none) : exec (.exit o) s = .next ((s.endItem s.wave.gid k).groupTests s.wave.gid k) := by
  have hg := ha.plain.group
  obtain ⟨c, b, hend⟩ := State.group?_endItem hg ha.here
  have hclear : Group.Clear { g with counted := c, barriers := b, items := Table.erase g.items k } :=
    fun p hp => ha.plain.clear p (List.mem_filter.1 hp).1
  rw [exec_exit, execExit, State.commitWave_unguarded ha.plain, ha.headD]
  rw [State.foldWave_alone ha (t := s.endItem s.wave.gid k) ?_ ((State.duplex_endItem hg k g).trans ha.plain.single) hend ha.plain.unguarded hclear]
  simp [State.envOf, Env.of, hg, hd, (show ({ it with wait := .none } : Item).busy = false from hidle.busy)]

/-! ### rfpt -/

section
variable {s : State} {g : Group} {o : Form} {k : Nat} {it : Item} {n : Kernel} (ha : Alone s g (.rfpt o) k it) (hn : s.kernel? g.kh = some n)
include ha hn

/-- At its kernel's refill point an item that has not arrived is counted and goes on (R145). -/
theorem rfpt_arrives (hpc : it.pc = n.descAddr + n.desc.refillPc) (harr : it.arrived = false) : exec (.rfpt o) s =
    .next (((s.noteEvent s.wave.gid k).goesOn (.rfpt o) g k it (fun it => { it with arrived := true })).groupTests s.wave.gid k) := by
  have hg := ha.plain.group
  obtain ⟨hf, hc⟩ := ha.item_clear
  obtain ⟨c, hnote⟩ := s.group?_noteEvent hg k
  rw [exec_rfpt, execRfpt, ha.headD, State.goesOn_eq _ (s.noteEvent_wave _ _) (s.noteEvent_tick _ _),
    State.foldWave_finish ha (u := s.noteEvent s.wave.gid k) (end_ := .done { (s.envOf g k it).it with arrived := true }) ?_ hnote
      (s.noteEvent_kernels _ _) ha.plain.unguarded ha.plain.clear hf hc]
  · rfl
  · simp [State.envOf, Env.of, hg, hn, hpc, harr]

/-- One that has arrived stays at the rfpt until the phase closes (R145). -/
theorem rfpt_holds (hpc : it.pc = n.descAddr + n.desc.refillPc) (harr : it.arrived = true) :
    exec (.rfpt o) s = .next ((s.setItem s.wave.gid k { it with held := true, wait := .refill }).groupTests s.wave.gid k) := by
  have hg := ha.plain.group
  obtain ⟨hf, hc⟩ := ha.item_clear
  rw [exec_rfpt, execRfpt, ha.headD,
    State.foldWave_finish ha (u := s) (end_ := .wait { (s.envOf g k it).it with held := true } .refill) ?_ hg rfl ha.plain.unguarded
      ha.plain.clear hf hc]
  · rfl
  · simp [State.envOf, Env.of, hg, hn, hpc, harr]

/-- Elsewhere rfpt is ILLEGAL with reason 0x0E (R145). -/
theorem rfpt_elsewhere {h : W64} (hpc : it.pc ≠ n.descAddr + n.desc.refillPc) (hh : s.handlerOf g.kh = some h) (hin : it.inHandler = false)
    (hw : it.windows = []) :
    exec (.rfpt o) s = .next ((s.setItem s.wave.gid k ((s.envOf g k it).entered (s.envOf g k it).it h
      { cause := 0x01, addr := 0, info := 0x0E })).groupTests s.wave.gid k) := by
  have hg := ha.plain.group
  obtain ⟨hf, hc⟩ := ha.item_clear
  have hclose : (s.envOf g k it).close (shapeOf (.rfpt o)) (.trap (s.envOf g k it).it (illegal 0x0E 0)) =
      (s.envOf g k it).entered (s.envOf g k it).it h { cause := 0x01, addr := 0, info := 0x0E } :=
    Env.close_trap hw hh hin rfl
  rw [exec_rfpt, execRfpt, ha.headD,
    State.foldWave_finish ha (u := s) (end_ := .trap (s.envOf g k it).it (illegal 0x0E 0)) ?_ hg rfl ha.plain.unguarded ha.plain.clear
      (hclose ▸ hf) (hclose ▸ hc), hclose]
  simp [State.envOf, Env.of, hg, hn, hpc]

end

/-- Settles O21: each form's effect on a lone item is one of its ends, and the tests follow it. -/
theorem exitAndRefill : Obligations.ExitAndRefill := by
  refine ⟨fun s g o k it ha hidle hd => ?_, fun s g o k it n h ha hn => ⟨rfpt_arrives ha hn, rfpt_holds ha hn, rfpt_elsewhere ha hn⟩⟩
  rw [exit_completes ha hidle hd, State.endItem_eq ha.plain.group]

end Sys2Proof.Machine
end

section
/-! PROOFS. Page walks and fault records (16 R356 to R364): what the end of a walk changes, and the fields of a fault's record. -/

namespace Sys2Proof.Machine

/-! ### Tables -/

/-- A search finds a new entry where nothing else in the table meets the condition. -/
theorem Table.find?_put {α : Type} {t : Table α} {k : Nat} {a : α} {q : Nat × α → Bool} (hq : q (k, a) = true)
    (ht : ∀ e ∈ t, q e = false) :
    (Table.put t k a).find? q = some (k, a) := by
  cases hfind : (Table.put t k a).find? q with
  | none => exact absurd hq (List.find?_eq_none.1 hfind _ (Table.mem_put_self t k a))
  | some e =>
    obtain rfl | he := Table.mem_put (List.mem_of_find?_eq_some hfind)
    · rfl
    · exact absurd (List.find?_some hfind) (by simp [ht e he])

theorem Table.get?_filter_none {α : Type} (t : Table α) {k : Nat} {q : Nat × α → Bool} (hq : ∀ a, q (k, a) = false) :
    Table.get? (t.filter q) k = none := by
  cases h : Table.get? (t.filter q) k with
  | none => rfl
  | some a => exact absurd (List.mem_filter.1 (Table.get?_some_mem h)).2 (by simp [hq a])

/-! ### What a walk fills -/

theorem State.keepPath_eq (s : State) (die ctx : Nat) (ea : W64) (start : Nat × Nat) :
    ∃ p n, s.keepPath die ctx ea start = { s with paths := p, nextId := n } := by
  unfold State.keepPath
  generalize s.pathFrom ea start.1 start.2 = l
  induction l generalizing s with
  | nil => exact ⟨s.paths, s.nextId, rfl⟩
  | cons x l ih =>
    obtain ⟨p, n, h⟩ := ih { s with paths := _, nextId := s.nextId + 1 }
    exact ⟨p, n, by rw [List.foldl_cons, h]⟩

@[simp] theorem State.keepPath_memory (s : State) (die ctx : Nat) (ea : W64) (start : Nat × Nat) :
    (s.keepPath die ctx ea start).memory = s.memory := by obtain ⟨p, n, h⟩ := s.keepPath_eq die ctx ea start; rw [h]
@[simp] theorem State.keepPath_groups (s : State) (die ctx : Nat) (ea : W64) (start : Nat × Nat) :
    (s.keepPath die ctx ea start).groups = s.groups := by obtain ⟨p, n, h⟩ := s.keepPath_eq die ctx ea start; rw [h]
@[simp] theorem State.keepPath_walks (s : State) (die ctx : Nat) (ea : W64) (start : Nat × Nat) :
    (s.keepPath die ctx ea start).walks = s.walks := by obtain ⟨p, n, h⟩ := s.keepPath_eq die ctx ea start; rw [h]

@[simp] theorem State.fillPath_memory (s : State) (core ctx : Nat) (ea : W64) (l : Leaf) : (s.fillPath core ctx ea l).memory = s.memory := rfl
@[simp] theorem State.fillPath_groups (s : State) (core ctx : Nat) (ea : W64) (l : Leaf) : (s.fillPath core ctx ea l).groups = s.groups := rfl
@[simp] theorem State.fillPath_walks (s : State) (core ctx : Nat) (ea : W64) (l : Leaf) : (s.fillPath core ctx ea l).walks = s.walks := rfl
@[simp] theorem State.fillTlb_groups (s : State) (unit ctx : Nat) (ea : W64) (l : Leaf) : (s.fillTlb unit ctx ea l).groups = s.groups := rfl

/-- The entry of a leaf in a unit's TLB. -/
def Leaf.entry (l : Leaf) (unit ctx : Nat) (ea : W64) : TlbEntry :=
  { unit := unit, ctx := ctx, base := ea.toNat % 2 ^ 57 / 2 ^ l.logSize * 2 ^ l.logSize, logSize := l.logSize, addr := l.addr
    r := l.r, w := l.w, x := l.x }

/-- A unit finds the entry that it was given (R357). -/
theorem State.tlb?_fillTlb (s : State) (unit ctx : Nat) (ea : W64) (l : Leaf) :
    (s.fillTlb unit ctx ea l).tlb? unit ctx ea = some (l.entry unit ctx ea) := by
  have hpos : 0 < 2 ^ l.logSize := Nat.two_pow_pos _
  have hnew : (unit == unit && (l.entry unit ctx ea).covers ctx ea) = true := by simp [TlbEntry.covers, Leaf.entry, Nat.mul_div_cancel _ hpos]
  have hold : ∀ e ∈ (s.dropTlb unit ctx ea).tlbs, (e.2.unit == unit && e.2.covers ctx ea) = false := by
    intro e he
    have := (List.mem_filter.1 he).2
    cases h : e.2.unit == unit <;> simp_all
  refine congrArg (Option.map Prod.snd) (Table.find?_put (a := l.entry unit ctx ea) (q := fun p => p.2.unit == unit && p.2.covers ctx ea) hnew
    fun e he => hold e ?_)
  split at he
  · exact he
  · exact (List.mem_filter.1 he).1

theorem State.tlb?_fillPath (s : State) (core ctx : Nat) (ea : W64) (l : Leaf) :
    (s.fillPath core ctx ea l).tlb? core ctx ea = some (l.entry core ctx ea) := State.tlb?_fillTlb _ core ctx ea l

theorem State.notePoisonedEntry_eq (s : State) (bad : Option Nat) : ∃ d, s.notePoisonedEntry bad = { s with devErrors := d } := by
  cases bad with
  | none => exact ⟨s.devErrors, rfl⟩
  | some a => exact ⟨_, rfl⟩

/-- After a fault is posted one stands on its page (R361). -/
theorem State.postFault_eq (s : State) (ctx : Nat) (ea : W64) (reason level kind : Nat) (engine : Bool) : ∃ t n,
    s.postFault ctx ea reason level kind engine = { s with faults := t, nextId := n } ∧ ∃ f ∈ t, f.2.ctx = ctx ∧ f.2.page = pageOf ea := by
  unfold State.postFault
  split
  case isTrue h =>
    obtain ⟨f, hf, hp⟩ := List.any_eq_true.1 h
    exact ⟨s.faults, s.nextId, rfl, f, hf, by simpa using hp⟩
  case isFalse => exact ⟨_, _, rfl, _, Table.mem_put_self _ _ _, rfl, rfl⟩

/-! ### The end of a walk -/

@[simp] theorem State.mapWaiting_memory (s : State) (ctx : Nat) (f : Group → Item → Item) : (s.mapWaiting ctx f).memory = s.memory := rfl
@[simp] theorem State.mapWaiting_walks (s : State) (ctx : Nat) (f : Group → Item → Item) : (s.mapWaiting ctx f).walks = s.walks := rfl
@[simp] theorem State.mapWaiting_tlbs (s : State) (ctx : Nat) (f : Group → Item → Item) : (s.mapWaiting ctx f).tlbs = s.tlbs := rfl
@[simp] theorem State.mapWaiting_tlb? (s : State) (ctx : Nat) (f : Group → Item → Item) (unit c : Nat) (ea : W64) :
    (s.mapWaiting ctx f).tlb? unit c ea = s.tlb? unit c ea := rfl
@[simp] theorem State.mapWaiting_faults (s : State) (ctx : Nat) (f : Group → Item → Item) : (s.mapWaiting ctx f).faults = s.faults := rfl

/-- An item of the context becomes what the update makes of it. -/
theorem State.item?_mapWaiting {s t : State} {ctx gid k : Nat} {g : Group} {it : Item} (f : Group → Item → Item) (ht : t.groups = s.groups)
    (hg : s.group? gid = some g) (hctx : g.ctx = ctx) (hit : Table.get? g.items k = some it) : (t.mapWaiting ctx f).item? gid k = some (f g it) := by
  have hgroup : (t.mapWaiting ctx f).group? gid = some { g with items := g.items.mapAll (fun _ it => f g it) } := by
    rw [State.group?, State.mapWaiting, ht, Table.get?_mapAll_some hg, if_pos hctx]
  rw [State.item?, hgroup, Option.bind_some, Table.get?_mapAll_some hit]

theorem exec_pageWalk (id : Nat) (s : State) : exec (.pageWalk id) s = execPageWalk id s := rfl
theorem exec_faultRecordAppend (s : State) : exec .faultRecordAppend s = execFaultRecordAppend s := rfl

theorem replayable_iff (reason : Nat) : replayable reason = true ↔ reason = 4 ∨ reason = 5 := by simp [replayable]

section
variable {s : State} {id : Nat} {w : Walk} {start : Nat × Nat}

/-- A walk that reaches a leaf gives its unit an entry, and the items that it serves go on (R358, R365). -/
theorem pageWalk_leaf {l : Leaf} (hw : Table.get? s.walks id = some w) (hwalker : s.hasWalker id w = true)
    (hres : s.walkOf (dieOfCore w.unit) w.ctx w.va w.kind = (start, .leaf l)) : ∃ u t, exec (.pageWalk id) s = .next u ∧ u.memory = s.memory ∧
      Table.get? u.walks id = none ∧ u.tlb? w.unit w.ctx w.va = some t ∧ t.logSize = l.logSize ∧ t.addr = l.addr ∧ t.r = l.r ∧ t.w = l.w ∧
      t.x = l.x ∧
      ∀ gid g k it c p kind, s.group? gid = some g → g.ctx = w.ctx → dieOfCore g.core = dieOfCore w.unit → Table.get? g.items k = some it →
        it.wait = .walk c p w.va kind → u.item? gid k = some { it with wait := .none } := by
  refine ⟨_, l.entry w.unit w.ctx w.va, rfl, ?_⟩
  simp only [hw, hwalker, hres, Bool.not_true, Bool.false_eq_true, if_false]
  refine ⟨by simp, ?_, (State.mapWaiting_tlb? ..).trans (State.tlb?_fillPath ..), rfl, rfl, rfl, rfl, rfl, ?_⟩
  · rw [State.mapWaiting_walks, State.fillPath_walks, State.keepPath_walks]
    exact Table.get?_filter_none _ (by simp)
  · intro gid g k it c p kind hg hctx hdie hit hwait
    refine (State.item?_mapWaiting _ (by simp) hg hctx hit).trans ?_
    simp [hwait, hdie]

/-- A walk that faults posts its fault where it is replayable, and each item that waits for its page and access waits on the fault, or has its
trap (R360, R361). -/
theorem pageWalk_fault {reason level : Nat} {bad : Option Nat} (hw : Table.get? s.walks id = some w) (hwalker : s.hasWalker id w = true)
    (hres : s.walkOf (dieOfCore w.unit) w.ctx w.va w.kind = (start, .fault reason level bad)) : ∃ u, exec (.pageWalk id) s = .next u ∧
      u.memory = s.memory ∧ Table.get? u.walks id = none ∧ u.tlbs = s.tlbs ∧
      (reason = 4 ∨ reason = 5 → ∃ f ∈ u.faults, f.2.ctx = w.ctx ∧ f.2.page = pageOf w.va) ∧
      (reason ≠ 4 → reason ≠ 5 → u.faults = s.faults) ∧
      ∀ gid g k it c va, s.group? gid = some g → g.ctx = w.ctx → dieOfCore g.core = dieOfCore w.unit → Table.get? g.items k = some it →
        it.wait = .walk c w.page va w.kind →
        (reason = 4 ∨ reason = 5 → u.item? gid k = some { it with wait := .fault c w.page va w.kind }) ∧
        (reason ≠ 4 → reason ≠ 5 → u.item? gid k = some { it with
          wait := .none
          owed := some { cause := causePageFault, addr := va, info := BitVec.ofNat 32 (256 * w.kind + 16 * level + reason) } }) := by
  refine ⟨_, rfl, ?_⟩
  simp only [hw, hwalker, hres, Bool.not_true, Bool.false_eq_true, if_false]
  obtain ⟨d, hd⟩ := State.notePoisonedEntry_eq { s with walks := Table.erase s.walks id } bad
  have hwalks : Table.get? (Table.erase s.walks id) id = none := by simp [Table.get?_erase]
  by_cases hr : reason = 4 ∨ reason = 5
  · obtain ⟨t, n, hpost, hposted⟩ :=
      State.postFault_eq { s with walks := Table.erase s.walks id, devErrors := d } w.ctx w.va reason level w.kind false
    simp only [hd, (replayable_iff reason).2 hr, if_true, hpost]
    refine ⟨rfl, hwalks, rfl, fun _ => hposted, fun h4 h5 => absurd hr (not_or.2 ⟨h4, h5⟩), ?_⟩
    intro gid g k it c va hg hctx hdie hit hwait
    refine ⟨fun _ => ?_, fun h4 h5 => absurd hr (not_or.2 ⟨h4, h5⟩)⟩
    refine (State.item?_mapWaiting _ rfl hg hctx hit).trans ?_
    simp [hwait, hdie]
  · have hr' : replayable reason = false := by rw [← Bool.not_eq_true, replayable_iff]; exact hr
    simp only [hd, hr', Bool.false_eq_true, if_false]
    refine ⟨rfl, hwalks, rfl, fun h => absurd h hr, fun _ _ => rfl, ?_⟩
    intro gid g k it c va hg hctx hdie hit hwait
    refine ⟨fun h => absurd h hr, fun _ _ => ?_⟩
    refine (State.item?_mapWaiting _ rfl hg hctx hit).trans ?_
    simp [hwait, hdie, pageFaultTrap, pageFaultInfo, boolNat]

end

/-! ### Fault records -/

/-- A field laid over a byte list that holds it keeps its length. -/
theorem length_overlay {bs d : List W8} {off : Nat} (h : off + d.length ≤ bs.length) : (overlay bs off d).length = bs.length := by
  simp [overlay]; omega

theorem length_recordOf {size : Nat} {fields : List (Nat × Nat × Nat)} (h : ∀ f ∈ fields, f.1 + f.2.1 ≤ size) :
    (recordOf size fields).length = size := by
  have key (fields : List (Nat × Nat × Nat)) (bs : List W8) (h : ∀ f ∈ fields, f.1 + f.2.1 ≤ bs.length) :
      (withFields bs fields).length = bs.length := by
    induction fields generalizing bs with
    | nil => rfl
    | cons f fields ih =>
      obtain ⟨hf, hrest⟩ := List.forall_mem_cons.1 h
      have hlen : (overlay bs f.1 (leBytes f.2.1 f.2.2)).length = bs.length := length_overlay (by simpa using hf)
      exact (ih _ (by rwa [hlen])).trans hlen
  simpa [recordOf_eq_withFields] using key fields (List.replicate size 0) (by simpa using h)

/-- The fields of a fault's record (R362). -/
theorem faultRecord_fields (f : PageFault) (n : Nat) : let r := faultRecord f n
    r.length = 32 ∧ leAt r 0 8 = f.page % 2 ^ 64 ∧ leAt r 8 2 = f.ctx % 2 ^ 16 ∧ leAt r 0x0A 1 = f.reason % 256 ∧
      leAt r 0x0B 1 = (2 ^ f.kind + (if f.engine then 8 else 0)) % 256 ∧ leAt r 0x0C 1 = f.level % 256 ∧ leAt r 0x10 8 = n % 2 ^ 64 := by
  have hengine : 8 * boolNat f.engine = if f.engine then 8 else 0 := by cases f.engine <;> rfl
  rw [← hengine]
  refine ⟨length_recordOf ?_, leAt_recordOf [] _ ?_ ?_, leAt_recordOf [_] _ ?_ ?_, leAt_recordOf [_, _] _ ?_ ?_, leAt_recordOf [_, _, _] _ ?_ ?_,
    leAt_recordOf [_, _, _, _] _ ?_ ?_, leAt_recordOf [_, _, _, _, _] _ ?_ ?_⟩ <;> simp

/-- The oldest fault without a record is written at TAIL while the ring has room (R361). -/
theorem faultRecordAppend_writes {s : State} {id : Nat} {f : PageFault} (hf : s.faults.find? (fun p => p.2.fid.isNone) = some (id, f))
    (hpool : s.dev.poolSize ≠ 0) (hroom : s.dev.frTail - s.dev.frHead < 2 ^ s.dev.frLog) : exec .faultRecordAppend s = .next { s with
      memory := s.memory.write 0 (s.dev.frBase + 32 * (s.dev.frTail % 2 ^ s.dev.frLog)) (faultRecord f s.nextFid)
      faults := Table.put s.faults id { f with fid := some s.nextFid }
      nextFid := s.nextFid + 1
      dev := { s.dev with frTail := s.dev.frTail + 1 } } := by
  rw [exec_faultRecordAppend, execFaultRecordAppend, hf]
  simp only [if_neg (not_or.2 ⟨hpool, not_le.2 hroom⟩), State.physWrite]

theorem faultRecordAppend_full {s : State} {id : Nat} {f : PageFault} (hf : s.faults.find? (fun p => p.2.fid.isNone) = some (id, f))
    (hfull : 2 ^ s.dev.frLog ≤ s.dev.frTail - s.dev.frHead) : exec .faultRecordAppend s = .next s := by
  rw [exec_faultRecordAppend, execFaultRecordAppend, hf]
  simp only [if_pos (Or.inr hfull)]

end Sys2Proof.Machine
end

section
/-! PROOFS. The spill and fill engine (08 R164, R165; 07 R152): what reading words of a stack leaves alone, and the ends of the engine's work. -/

namespace Sys2Proof.Machine

/-! ### No group changes as the engine reads -/

theorem State.postFault_groups (s : State) (ctx : Nat) (ea : W64) (reason level kind : Nat) (engine : Bool) :
    (s.postFault ctx ea reason level kind engine).groups = s.groups := by
  obtain ⟨t, n, h, -⟩ := s.postFault_eq ctx ea reason level kind engine
  rw [h]

theorem State.walkNow_groups {s t : State} {die ctx kind pa : Nat} {ea : W64} {engine : Bool}
    (h : State.engineTranslate.walkNow die ctx ea kind engine s = .ok pa t) : t.groups = s.groups := by
  unfold State.engineTranslate.walkNow at h
  generalize s.walkOf die ctx ea kind = r at h
  obtain ⟨start, l | ⟨reason, level, bad⟩⟩ := r
  · obtain ⟨-, rfl⟩ := EngineTranslated.ok.inj h
    simp
  · dsimp only at h
    split at h <;> cases h

theorem State.engineTranslate_groups {s t : State} {die ctx kind pa : Nat} {ea : W64} {engine : Bool}
    (h : s.engineTranslate die ctx ea kind engine = .ok pa t) : t.groups = s.groups := by
  unfold State.engineTranslate at h
  split at h
  · cases h
  · split at h
    · split at h
      · cases h; rfl
      · have := State.walkNow_groups h
        exact this
    · exact State.walkNow_groups h

theorem State.stackReach_groups {s t : State} {g : Group} {va : W64} {kind pa : Nat} (h : s.stackReach g va kind = .ok pa t) :
    t.groups = s.groups := by
  unfold State.stackReach at h
  split at h
  · cases h
  · cases h
  next heq =>
    split at h
    · cases h; exact State.engineTranslate_groups heq
    · cases h

theorem State.dropL2_groups (s : State) (slice line : Nat) : (s.dropL2 slice line).groups = s.groups := by
  unfold State.dropL2; split <;> rfl

theorem State.setL2_groups (s : State) (slice line : Nat) (l : L2Line) : (s.setL2 slice line l).groups = s.groups := rfl

theorem State.moveTokens_groups (s : State) (m : TokenMove) : (s.moveTokens m).groups = s.groups := by
  unfold State.moveTokens
  split
  · simp only [apply_ite State.groups, State.dropL2_groups, State.setL2_groups, ite_self]
    rfl
  · rfl

theorem State.bringTokens_groups (slice pa : Nat) (write : Bool) (n : Nat) (s : State) :
    (State.bringTokens slice pa write n s).groups = s.groups := by
  induction n generalizing s with
  | zero => rfl
  | succ n ih =>
    unfold State.bringTokens
    split
    · rfl
    · split
      · rw [ih, State.moveTokens_groups]
      · rfl

theorem State.writeBackHalf_groups (s : State) (pa : Nat) (l : L2Line) (h : Nat) : (s.writeBackHalf pa l h).groups = s.groups := by
  unfold State.writeBackHalf
  repeat' split
  all_goals rfl

theorem State.underKey_groups (s : State) (slice pa tag : Nat) : (s.underKey slice pa tag).1.groups = s.groups := by
  have hback (l : L2Line) : (if s.isCxl pa then s.writeBackCxl pa l else s).groups = s.groups := by
    split
    · rw [State.writeBackCxl, State.writeBackHalf_groups, State.writeBackHalf_groups]
    · rfl
  unfold State.underKey
  dsimp only
  split
  · rfl
  · exact (State.dropL2_groups _ _ _).trans (hback _)

theorem State.readAt_groups {s t : State} {slice pa n key wts lend : Nat} {data : List W8}
    (h : s.readAt slice pa n key none = .served t data wts lend) : t.groups = s.groups := by
  unfold State.readAt at h
  generalize (if s.isCxl pa then homeSlice pa else slice) = place at h
  have hunder := s.underKey_groups place pa (s.tagAt pa key)
  split at h
  · cases h
  · split at h <;> cases h; rfl
  next =>
    dsimp only at h
    split at h
    · cases h
    · generalize s.underKey place pa (s.tagAt pa key) = r at h hunder
      split at h
      · split at h
        · cases h
        · cases h
        · split at h <;> cases h
          exact hunder
      · split at h <;> cases h
        exact hunder

theorem State.charge_groups (s : State) (source ctx cls bytes : Nat) : (s.charge source ctx cls bytes).groups = s.groups := by
  unfold State.charge; split <;> rfl

/-! ### Reading word by word -/

/-- Words that the engine reads in one go it reads one after another. -/
theorem State.stackRead_cons {s t : State} {g : Group} {it : Item} {va : W64} {vas : List W64} {xs : List W32}
    (h : s.stackRead g it false (va :: vas) = .ok xs t) :
    ∃ x ys u, s.stackRead g it false [va] = .ok [x] u ∧ u.stackRead g it false vas = .ok ys t ∧ xs = x :: ys ∧ u.groups = s.groups := by
  unfold State.stackRead at h
  cases hreach : s.stackReach g va 0 with
  | trap | park | notYet => rw [hreach] at h; cases h
  | ok pa s1 =>
    rw [hreach] at h
    dsimp only at h
    cases hbusy : s1.stackBusy g it pa with
    | true => rw [hbusy] at h; cases h
    | false =>
      rw [hbusy] at h
      simp only [Bool.false_eq_true, if_false] at h
      cases hread : (State.bringTokens (servingSlice (dieOfCore g.core) pa) pa false 4 s1).readAt (servingSlice (dieOfCore g.core) pa) pa 4
          (s1.context g.ctx).key none with
      | notYet | poisoned => rw [hread] at h; cases h
      | served s2 bs wts lend =>
        rw [hread] at h
        dsimp only at h
        split at h
        next ys s3 hrest =>
          cases h
          refine ⟨_, ys, s2.charge g.core g.ctx (s2.coreClass g.core pa) 4, ?_, hrest, rfl, ?_⟩
          · simp [State.stackRead, hreach, hbusy, hread]
          · rw [State.charge_groups, State.readAt_groups hread, State.bringTokens_groups, State.stackReach_groups hreach]
        next hne => exact absurd h (hne xs t)

theorem State.stackRead_groups {g : Group} {it : Item} {vas : List W64} {s t : State} {xs : List W32}
    (h : s.stackRead g it false vas = .ok xs t) : t.groups = s.groups := by
  induction vas generalizing s xs with
  | nil => cases h; rfl
  | cons va vas ih =>
    obtain ⟨x, ys, u, -, hrest, -, hu⟩ := State.stackRead_cons h
    exact (ih hrest).trans hu

/-- Words that can all be read, none of them lost, are read back each by itself (R152). -/
theorem State.readEach_of_stackRead {g : Group} {it : Item} (hlost : it.lost = []) {vas : List W64} {s t : State} {xs : List W32}
    (h : s.stackRead g it false vas = .ok xs t) : s.readEach g it vas = .ok (xs, none) t := by
  induction vas generalizing s xs with
  | nil => cases h; rfl
  | cons va vas ih =>
    obtain ⟨x, ys, u, hone, hrest, rfl, -⟩ := State.stackRead_cons h
    simp [State.readEach, hlost, hone, ih hrest]

/-! ### The ends of the engine's work -/

theorem exec_spillFillDone (core : Nat) (s : State) : exec (.spillFillDone core) s = execSpillFillDone core s := rfl

section
variable {s t : State} {core gid slot : Nat} {g : Group} {it : Item} (hnext : s.nextSpill core = some (gid, slot)) (hg : s.group? gid = some g)
  (hit : Table.get? g.items slot = some it)

include hg hit in
theorem State.item?_of_group : s.item? gid slot = some it := by rw [State.item?, hg]; exact hit

theorem aligned_iff (a : W64) (n : Nat) : aligned a n = true ↔ a.toNat % n = 0 := by simp [aligned]

include hnext hg hit

/-- A stack area that is not 16-byte aligned gives MISALIGN at the call or ret (R164); its TRAPINFO is the model's choice (log 49). -/
theorem spillFillDone_misaligned (harea : (s.stackAreaOf g it).toNat % 16 ≠ 0) : exec (.spillFillDone core) s =
    .next (s.wakes gid slot (fun it' => { it' with owed := some (memTrap causeMisalign (s.stackAreaOf g it) false 16 true) })) := by
  have hitem := State.item?_of_group hg hit
  have halign : aligned (s.stackAreaOf g it) 16 = false := by simpa [aligned] using harea
  rw [exec_spillFillDone, execSpillFillDone]
  simp only [hnext, hg, hitem, Env.of, halign]
  rfl

/-- A call whose oldest frames have been written out goes on (R165). -/
theorem spillFillDone_call {need n time : Nat} (harea : (s.stackAreaOf g it).toNat % 16 = 0) (hwait : it.wait = .spill (some need) n time)
    (hspill : s.spillFor g { Env.of s g gid slot it with ilen := n } need = .ok () t) :
    exec (.spillFillDone core) s = .next (t.wakes gid slot (fun it => { it with got := some (0, 0) })) := by
  have hitem := State.item?_of_group hg hit
  have halign : aligned (s.stackAreaOf g it) 16 = true := (aligned_iff _ _).2 harea
  rw [exec_spillFillDone, execSpillFillDone]
  simp only [hnext, hg, hitem, Env.of, halign, hwait] at hspill ⊢
  simp only [hspill]
  rfl

/-- A ret whose caller's frame has been read back goes on with it (R165). -/
theorem spillFillDone_ret {f : CallerFrame} {n time : Nat} (harea : (s.stackAreaOf g it).toNat % 16 = 0) (hwait : it.wait = .spill none n time)
    (hfill : s.fillFor g { Env.of s g gid slot it with ilen := n } = .ok (some f) t) :
    exec (.spillFillDone core) s = .next (t.wakes gid slot (fun it => { it with
      got := some (0, 0)
      callers := [f] })) := by
  have hitem := State.item?_of_group hg hit
  have halign : aligned (s.stackAreaOf g it) 16 = true := (aligned_iff _ _).2 harea
  rw [exec_spillFillDone, execSpillFillDone]
  simp only [hnext, hg, hitem, Env.of, halign, hwait] at hfill ⊢
  simp only [hfill]
  rfl

/-- An item whose current frame stands in memory has it back in its window (R148, R152). -/
theorem spillFillDone_frame {xs : List W32} (harea : (s.stackAreaOf g it).toNat % 16 = 0) (hwait : it.wait = .frame) (hlost : it.lost = [])
    (hread : s.stackRead g it false ((upTo it.frame.toNat).map (fun j => it.stack + BitVec.ofNat 64 (4 * j))) = .ok xs t) :
    exec (.spillFillDone core) s = .next (t.wakes gid slot (fun it => { it with
      v := setWindow it.v xs
      unread := false
      wait := if it.held then .refill else .none })) := by
  have hitem := State.item?_of_group hg hit
  have halign : aligned (s.stackAreaOf g it) 16 = true := (aligned_iff _ _).2 harea
  have hgt : t.group? gid = some g := by rw [State.group?, State.stackRead_groups hread]; exact hg
  rw [exec_spillFillDone, execSpillFillDone]
  simp only [hnext, hg, hitem, Env.of, halign, hwait, State.fillFrame, State.readEach_of_stackRead hlost hread]
  refine congrArg Host.Outcome.next (State.modGroup_congr hgt ?_)
  refine congrArg (fun items => { g with items := items }) (Table.modify_congr hit ?_)
  simp [hlost]

end

end Sys2Proof.Machine
end

section
/-! PROOFS. The tests that follow a departure: what they keep of a group that is not due to close its refill phase (07 R139, R142; 14 R301, R302). -/

namespace Sys2Proof.Machine

/-! ### The barriers of a group -/

/-- Two groups agree on what the refill phase is tested by: on guard and state, and on the items with their arrivals, slot by slot. -/
structure Group.SamePhase (g g' : Group) : Prop where
  guarded : g'.guarded = g.guarded
  state : g'.state = g.state
  arrivals : g'.items.map (fun p => (p.1, p.2.arrived)) = g.items.map (fun p => (p.1, p.2.arrived))

theorem Group.SamePhase.refl (g : Group) : g.SamePhase g := ⟨rfl, rfl, rfl⟩

theorem Group.SamePhase.trans {g h i : Group} (h₁ : g.SamePhase h) (h₂ : h.SamePhase i) : g.SamePhase i :=
  ⟨h₂.guarded.trans h₁.guarded, h₂.state.trans h₁.state, h₂.arrivals.trans h₁.arrivals⟩

/-- A slot that is vacant in one is vacant in the other. -/
theorem Group.SamePhase.get?_eq_none {g g' : Group} (h : g.SamePhase g') {k : Nat} (hk : ∀ p ∈ g.items, p.1 ≠ k) :
    Table.get? g'.items k = none := by
  cases hget : Table.get? g'.items k with
  | none => rfl
  | some x =>
    have hin : (k, x.arrived) ∈ g'.items.map (fun p => (p.1, p.2.arrived)) := List.mem_map.2 ⟨(k, x), Table.get?_some_mem hget, rfl⟩
    rw [h.arrivals] at hin
    obtain ⟨p, hp, hpk⟩ := List.mem_map.1 hin
    exact absurd (congrArg Prod.fst hpk) (hk p hp)

theorem Group.samePhase_modItem (g : Group) (slot : Nat) {f : Item → Item} (hf : ∀ it, (f it).arrived = it.arrived) :
    g.SamePhase (g.modItem slot f) := by
  have key (t : Table Item) : (Table.modify t slot f).map (fun p => (p.1, p.2.arrived)) = t.map (fun p => (p.1, p.2.arrived)) := by
    induction t with
    | nil => rfl
    | cons p t ih =>
      unfold Table.modify
      split
      · simp [hf]
      · simp [ih]
  exact ⟨rfl, rfl, key g.items⟩

theorem Group.samePhase_modBarrier (g : Group) (k : Nat) (f : Barrier → Barrier) : g.SamePhase (g.modBarrier k f) := by
  obtain ⟨b, hb⟩ := g.modBarrier_eq k f
  rw [hb]
  exact ⟨rfl, rfl, rfl⟩

theorem Group.samePhase_countArrival (g : Group) (k slot : Nat) : g.SamePhase (g.countArrival k slot) :=
  (g.samePhase_modItem slot fun _ => by rfl).trans (Group.samePhase_modBarrier _ _ _)

theorem Group.samePhase_countBlocked (now k : Nat) (g : Group) (slot : Nat) : g.SamePhase (g.countBlocked now k slot) := by
  unfold Group.countBlocked
  split
  · exact .refl g
  · split
    · split
      · exact .refl g
      · split
        · exact g.samePhase_modItem slot fun _ => by rfl
        · split
          · exact (g.samePhase_countArrival k slot).trans (Group.samePhase_modItem _ _ fun _ => by rfl)
          · exact (g.samePhase_countArrival k slot).trans (Group.samePhase_modItem _ _ fun _ => by rfl)
          · refine iteInduction (motive := g.SamePhase) (fun _ => ?_) (fun _ => ?_)
            · exact ((g.samePhase_countArrival k slot).trans (Group.samePhase_modBarrier _ _ _)).trans (Group.samePhase_modItem _ _ fun _ => by rfl)
            · exact g.samePhase_modItem slot fun _ => by rfl
    · exact .refl g

theorem Item.released_arrived (now k : Nat) (result : Option (W64 × BitVec 6)) (it : Item) : (it.released now k result).arrived = it.arrived := by
  unfold Item.released
  dsimp only
  repeat' split
  all_goals rfl

/-- The closure of a barrier is no event of the refill phase. -/
theorem Group.samePhase_closeBarrier (reduce : RedKind → List W64 → W64 × BitVec 6) (now : Nat) (g : Group) (k : Nat) :
    g.SamePhase (g.closeBarrier reduce now k) := by
  have hmap (g : Group) (result : Option (W64 × BitVec 6)) :
      g.SamePhase { g with items := g.items.mapAll (fun _ it => (it.phaseClosed k).released now k result) } := by
    refine ⟨rfl, rfl, ?_⟩
    simp only [Table.mapAll, List.map_map]
    exact List.map_congr_left fun p _ => congrArg (Prod.mk p.1) (Item.released_arrived ..)
  have hblocked (l : List Nat) (g : Group) : g.SamePhase (l.foldl (Group.countBlocked now k) g) := by
    induction l generalizing g with
    | nil => exact .refl g
    | cons slot l ih => exact (g.samePhase_countBlocked now k slot).trans (ih _)
  exact ((g.samePhase_modBarrier k _).trans (hmap _ _)).trans (hblocked _ _)

/-! ### The tests in the state -/

theorem State.logClosure_eq (s : State) (gid bar closed : Nat) : ∃ c, s.logClosure gid bar closed = { s with contexts := c } := by
  unfold State.logClosure
  split
  · exact ⟨s.contexts, rfl⟩
  · unfold State.logEntry
    split
    · exact ⟨_, rfl⟩
    · exact ⟨_, rfl⟩

/-- What the tests of an unguarded group keep: memory, the packages, and the group as far as its refill phase goes. -/
def State.SamePhase (gid : Nat) (g : Group) (s u : State) : Prop :=
  u.memory = s.memory ∧ u.packages = s.packages ∧ ∃ g', u.group? gid = some g' ∧ g.SamePhase g'

theorem State.samePhase_barrierTest {reduce : RedKind → List W64 → W64 × BitVec 6} {give : Giver} {gid slot k : Nat} (n : Nat) {s : State}
    {g : Group} (hg : s.group? gid = some g) (hu : g.guarded = none) : State.SamePhase gid g s (State.barrierTest reduce give gid slot k n s) := by
  induction n generalizing s g with
  | zero => exact ⟨rfl, rfl, g, hg, .refl g⟩
  | succ n ih =>
    unfold State.barrierTest
    simp only [hg]
    split
    · obtain ⟨c, hc⟩ := (s.modGroup gid (fun g => g.closeBarrier reduce s.tick k)).logClosure_eq gid k (g.barrier k).closed.toNat
      have hclosed := g.samePhase_closeBarrier reduce s.tick k
      have hgroup : State.group? { s.modGroup gid (fun g => g.closeBarrier reduce s.tick k) with contexts := c } gid =
          some (g.closeBarrier reduce s.tick k) := by
        show (s.modGroup gid (fun g => g.closeBarrier reduce s.tick k)).group? gid = _
        rw [State.group?_modGroup_self, hg]
        rfl
      have hu' : (g.closeBarrier reduce s.tick k).guarded = none := hclosed.guarded.trans hu
      simp only [hc, hu, Option.isSome_none, Bool.false_eq_true, if_false, State.commit, hgroup, hu']
      obtain ⟨hmem, hpack, g', hg', hsame⟩ := ih hgroup hu'
      exact ⟨hmem, hpack, g', hg', hclosed.trans hsame⟩
    · exact ⟨rfl, rfl, g, hg, .refl g⟩

theorem State.samePhase_barrierTests {reduce : RedKind → List W64 → W64 × BitVec 6} {give : Giver} {gid slot : Nat} {s : State} {g : Group}
    (hg : s.group? gid = some g) (hu : g.guarded = none) : State.SamePhase gid g s (s.barrierTests reduce give gid slot) := by
  unfold State.barrierTests
  generalize upTo 16 = l
  induction l generalizing s g with
  | nil => exact ⟨rfl, rfl, g, hg, .refl g⟩
  | cons k l ih =>
    obtain ⟨hmem, hpack, g₁, hg₁, hsame₁⟩ := State.samePhase_barrierTest (reduce := reduce) (give := give) (slot := slot) (k := k) 3 hg hu
    obtain ⟨hmem', hpack', g₂, hg₂, hsame₂⟩ := ih hg₁ (hsame₁.guarded.trans hu)
    exact ⟨hmem'.trans hmem, hpack'.trans hpack, g₂, hg₂, hsame₁.trans hsame₂⟩

theorem State.refillTest_of_not_due {s : State} {gid : Nat} {g : Group} (hg : s.group? gid = some g) (hd : g.refillDue = false) (n : Nat) :
    s.refillTest gid n = s := by
  cases n with
  | zero => rfl
  | succ n => simp [State.refillTest, hg, hd]

/-- An item that has not arrived keeps the refill phase open (R140). -/
theorem Group.refillDue_of_not_arrived {g : Group} {q : Nat × Item} (hq : q ∈ g.items) (ha : q.2.arrived = false) : g.refillDue = false := by
  have : g.items.all (fun p => p.2.arrived) = false := List.all_eq_false.2 ⟨q, hq, by simp [ha]⟩
  simp [Group.refillDue, this]

/-- The tests of an unguarded group keep memory, the packages and the slots in use where an item has not arrived at the refill phase. -/
theorem State.samePhase_groupTests {gid slot : Nat} {s : State} {g : Group} {q : Nat × Item} (hg : s.group? gid = some g) (hu : g.guarded = none)
    (hq : q ∈ g.items) (ha : q.2.arrived = false) : State.SamePhase gid g s (s.groupTests gid slot) := by
  have htests := State.samePhase_barrierTests (reduce := groupReduce) (give := fun s gid k => s.giveResults gid k) (slot := slot) hg hu
  have ⟨_, _, g', hg', hsame⟩ := htests
  have hin : (q.1, false) ∈ g'.items.map (fun p => (p.1, p.2.arrived)) := by
    rw [hsame.arrivals, ← ha]
    exact List.mem_map_of_mem hq
  obtain ⟨q', hq', heq⟩ := List.mem_map.1 hin
  have hopen : g'.refillDue = false := Group.refillDue_of_not_arrived hq' (congrArg Prod.snd heq)
  unfold State.groupTests State.refillUnguarded
  simp only [hg', hsame.guarded.trans hu, Option.isSome_none, Bool.false_eq_true, if_false, State.refillTest_of_not_due hg' hopen]
  exact htests

end Sys2Proof.Machine
end

section
/-! PROOFS. Migration (07 R148; 13 R297): migr of a lone item, and the landing of a package. -/

namespace Sys2Proof.Machine

/-! ### Addresses -/

/-- An address within an item's reach has its physical address at once (R357, R360). -/
theorem State.reachGlobal_of_reachable {s : State} {g : Group} {ea : W64} {n pa slice : Nat} {write : Bool} (hr : Reachable s g ea n pa slice write) :
    s.reachGlobal g ea n write = .ok pa := by
  obtain ⟨t, ht, hright, hpa⟩ := hr.mapped
  have halign : aligned ea n = true := (aligned_iff _ _).2 hr.aligned
  have htlb : s.tlbFor g.core g.ctx ea = some t := by simp [State.tlbFor, ht]
  have hkind : kindGranted t.r t.w t.x (boolNat write) = true := by cases write <;> simpa [kindGranted, boolNat] using hright
  have htrans : s.translate g.core g.ctx ea (boolNat write) = .ok pa := by simp [State.translate, hr.canonical, htlb, hkind, hpa]
  simp [State.reachGlobal, halign, htrans, hr.granted]

/-! ### migr -/

@[simp] theorem State.noteEvent_memory (s : State) (gid slot : Nat) : (s.noteEvent gid slot).memory = s.memory := by
  obtain h | ⟨c, h⟩ := s.noteEvent_cases gid slot <;> simp [h]

@[simp] theorem State.noteEvent_packages (s : State) (gid slot : Nat) : (s.noteEvent gid slot).packages = s.packages := by
  obtain h | ⟨c, h⟩ := s.noteEvent_cases gid slot <;> simp [h]

theorem State.duplex_congr {s u : State} (hk : u.kernels = s.kernels) (g : Group) : u.duplex g = s.duplex g := by
  simp [State.duplex, State.kernel?, hk]

theorem exec_migr (o : Form) (s : State) : exec (.migr o) s = execMigr o s := rfl

theorem State.modItem_modItem (s : State) (gid k : Nat) (f h : Item → Item) :
    (s.modItem gid k f).modItem gid k h = s.modItem gid k (fun it => h (f it)) := by
  simp only [State.modItem, State.modGroup_modGroup, Group.modItem, Table.modify_modify]

/-- An acquire of device scope raises the item's view to what it has seen, and drops the leases below it of its cluster's L1 (R288). -/
theorem State.acquireAt_dev {s : State} {gid slot : Nat} {g : Group} {it : Item} (hg : s.group? gid = some g)
    (hit : Table.get? g.items slot = some it) : s.acquireAt gid slot .dev =
      (s.modItem gid slot (fun it' => { it' with view := max it.view it.seen })).dropLeases (clusterOf g.core) (max it.view it.seen) := by
  have hitem := State.item?_of_group hg hit
  simp [State.acquireAt, scopeWide, hg, hitem]

/-- A fence of device scope changes the item's view and its cluster's L1. -/
theorem State.fence_dev {s : State} {gid slot : Nat} {g : Group} {it : Item} (hg : s.group? gid = some g) (hit : Table.get? g.items slot = some it) :
    ∃ c v, s.fence gid slot true true false .dev = (s.modItem gid slot (fun it => { it with view := v })).dropLeases c v := by
  have hgroup : (s.modItem gid slot (fun it => it.release .dev)).group? gid = some (g.modItem slot (fun it => it.release .dev)) := by
    rw [State.modItem, State.group?_modGroup_self, hg]; rfl
  have hitem : Table.get? (g.modItem slot (fun it => it.release .dev)).items slot = some (it.release .dev) := by
    rw [Group.modItem, Table.get?_modify, if_pos rfl, hit]; rfl
  have hacquire := State.acquireAt_dev hgroup hitem
  rw [State.modItem_modItem] at hacquire
  exact ⟨_, _, hacquire⟩

/-- The entry that an update has changed is gone with its key. -/
theorem Table.erase_modify {α : Type} (t : Table α) (k : Nat) (f : α → α) : Table.erase (Table.modify t k f) k = Table.erase t k := by
  induction t with
  | nil => rfl
  | cons p t ih =>
    unfold Table.modify
    split
    next h => simp [Table.erase, h]
    next h => simpa [Table.erase, List.filter_cons, Ne.symm h] using ih

/-- An item with an empty register stack has nothing to write out (R149). -/
theorem State.saveStack_empty (s : State) (g : Group) {it : Item} (hframe : it.frame = 0) (hcallers : it.callers = []) (counted : Bool) :
    s.saveStack g it counted = .ok () s := by
  have himage : it.stackImage = [] := by simp [Item.stackImage, Item.windowWords, hframe, hcallers, frameWords]
  simp [State.saveStack, himage, State.stackWrite]

/-- The state in which an item has left its slot, with its package under the die (R148). -/
structure LeftWith (s u : State) (g : Group) (k : Nat) (pk : Package) : Prop where
  memory : u.memory = s.memory
  kernels : u.kernels = s.kernels
  packages : u.packages = Table.put s.packages s.nextId pk
  group : ∃ c b, u.group? s.wave.gid = some { g with counted := c, barriers := b, items := Table.erase g.items k }

section
variable {s : State} {g : Group} {o : Form} {k pa : Nat} {it : Item}

/-- Where a landing slot of the die is free, the item leaves with a package of what it holds (R148). -/
theorem State.migrate_leaves {va : W64} (hg : s.group? s.wave.gid = some g) (hit : Table.get? g.items k = some it) (hframe : it.frame = 0)
    (hcallers : it.callers = []) (hfree : s.landingsOn (s.homeDie pa) < 256) :
    ∃ v, LeftWith s (s.migrate (s.envOf g k it) g o va pa) g k (packageOf g { it with view := v, wait := .none } (s.homeDie pa) va s.tick) := by
  obtain ⟨cl, v, hfence⟩ := State.fence_dev hg hit
  have hitem : ((s.modItem s.wave.gid k (fun it => { it with view := v })).dropLeases cl v).item? s.wave.gid k = some { it with view := v } := by
    show (s.modItem s.wave.gid k (fun it => { it with view := v })).item? s.wave.gid k = _
    rw [State.item?_modItem, if_pos rfl, State.item?, hg, Option.bind_some, hit]; rfl
  have hsave : s.saveStack g { it with wait := .none } true = .ok () s :=
    State.saveStack_empty s g (it := { it with wait := .none }) hframe hcallers true
  simp only [State.migrate, if_neg (not_le.2 hfree), State.envOf, Env.of, hsave, hfence, hitem, Option.getD_some]
  generalize hu : State.fresh _ = u
  have hgroup : u.group? s.wave.gid = some (g.modItem k (fun it => { it with view := v })) := by
    rw [← hu]
    show (s.modItem s.wave.gid k (fun it => { it with view := v })).group? s.wave.gid = _
    rw [State.modItem, State.group?_modGroup_self, hg]; rfl
  obtain ⟨c, hnote⟩ := u.group?_noteEvent hgroup k
  have hleft : Table.get? (g.modItem k (fun it => { it with view := v })).items k = some { it with view := v } := by
    rw [Group.modItem, Table.get?_modify, if_pos rfl, hit]; rfl
  obtain ⟨b, hb⟩ := Group.leave_eq (g := { g.modItem k (fun it => { it with view := v }) with counted := c }) hleft
  refine ⟨v, ?_, ?_, ?_, c, b, ?_⟩
  · rw [State.modGroup_memory, State.noteEvent_memory, ← hu]; rfl
  · rw [State.modGroup_kernels, State.noteEvent_kernels, ← hu]; rfl
  · rw [State.modGroup_packages, State.noteEvent_packages, ← hu]; rfl
  · rw [State.group?_modGroup_self, hnote, Option.map_some, hb, Group.modItem, Table.erase_modify]

/-- Where no landing slot of the die is free the item waits for one (R148). -/
theorem State.migrate_waits {va : W64} (hfull : 256 ≤ s.landingsOn (s.homeDie pa)) :
    s.migrate (s.envOf g k it) g o va pa = s.setItem s.wave.gid k { it with wait := .landing (s.homeDie pa) } := by
  rw [State.migrate, if_pos hfull]
  rfl

section
variable {slice : Nat} (ha : Alone s g (.migr o) k it) (hidle : it.Idle) (hstores : it.storesOut = [])
  (hguard : ∀ kn, s.kernel? g.kh = some kn → kn.desc.guarded = false) (hr : Reachable s g (it.readV2 o.a) 1 pa slice false)
include ha hidle hstores hguard hr

/-- migr of a lone item that may migrate is its migration, and the tests follow it. -/
theorem migr_migrates {g' : Group} (hk : (s.migrate (s.envOf g k it) g o (it.readV2 o.a) pa).kernels = s.kernels)
    (hg' : (s.migrate (s.envOf g k it) g o (it.readV2 o.a) pa).group? s.wave.gid = some g') (hu : g'.guarded = none) (hc : g'.Clear) :
    exec (.migr o) s = .next ((s.migrate (s.envOf g k it) g o (it.readV2 o.a) pa).groupTests s.wave.gid k) := by
  have hkernel : ((s.kernel? g.kh).map (fun k => k.desc.guarded)).getD false = false := by
    cases h : s.kernel? g.kh with
    | none => rfl
    | some kn => exact hguard kn h
  have hbusy : ({ it with wait := .none } : Item).busy = false := hidle.busy
  have hrelease : ({ it with wait := .none } : Item).releaseWaits .dev = false := by simp [Item.releaseWaits, hstores]
  have hva : ({ it with wait := .none } : Item).readV2 o.a = it.readV2 o.a := rfl
  rw [exec_migr, execMigr, ha.headD, State.foldWave_alone ha ?_ ((State.duplex_congr hk g).trans ha.plain.single) hg' hu hc]
  simp [State.withGroup, State.envOf, Env.of, ha.plain.group, hkernel, hbusy, hrelease, hva, State.reachGlobal_of_reachable hr]

/-- With no landing slot free, migr holds the item (R148). -/
theorem migr_waits (hfull : 256 ≤ s.landingsOn (s.homeDie pa)) :
    exec (.migr o) s = .next ((s.setItem s.wave.gid k { it with wait := .landing (s.homeDie pa) }).groupTests s.wave.gid k) := by
  have hwaits := State.migrate_waits (g := g) (o := o) (k := k) (it := it) (va := it.readV2 o.a) hfull
  have hgroup : (s.setItem s.wave.gid k { it with wait := .landing (s.homeDie pa) }).group? s.wave.gid =
      some (g.modItem k (fun _ => { it with wait := .landing (s.homeDie pa) })) := by
    rw [State.group?_setItem, ha.plain.group]; rfl
  obtain ⟨hf, hc⟩ := ha.item_clear
  rw [← hwaits] at hgroup ⊢
  exact migr_migrates ha hidle hstores hguard hr (by rw [hwaits]; rfl) hgroup ha.plain.unguarded (ha.plain.clear.modItem k hf hc)

/-- With one free, the item is gone from its slot and its package is under the die (R148). -/
theorem migr_leaves (hframe : it.frame = 0) (hcallers : it.callers = []) (hfree : s.landingsOn (s.homeDie pa) < 256)
    (hopen : ∃ q ∈ g.items, q.1 ≠ k ∧ q.2.arrived = false) :
    ∃ u v, exec (.migr o) s = .next u ∧ u.memory = s.memory ∧ u.item? s.wave.gid k = none ∧
      Table.get? u.packages s.nextId = some (packageOf g { it with view := v, wait := .none } (s.homeDie pa) (it.readV2 o.a) s.tick) := by
  obtain ⟨v, hmem, hk, hpack, c, b, hgroup⟩ := State.migrate_leaves (o := o) (va := it.readV2 o.a) ha.plain.group ha.here hframe hcallers hfree
  obtain ⟨q, hq, hqk, harr⟩ := hopen
  have hq' : q ∈ Table.erase g.items k := List.mem_filter.2 ⟨hq, by simpa using hqk⟩
  have hclear (p) (hp : p ∈ Table.erase g.items k) := ha.plain.clear p (List.mem_filter.1 hp).1
  have hexec := migr_migrates ha hidle hstores hguard hr hk hgroup ha.plain.unguarded hclear
  obtain ⟨hmem', hpack', g', hg', hsame⟩ := State.samePhase_groupTests (slot := k) hgroup ha.plain.unguarded hq' harr
  refine ⟨_, v, hexec, hmem'.trans hmem, ?_, by rw [hpack', hpack, Table.get?_put_self]⟩
  rw [State.item?, hg', Option.bind_some]
  exact hsame.get?_eq_none fun p hp => by simpa using (List.mem_filter.1 hp).2

end

end

/-- The package holds v0 to v31 of the item (R148). -/
theorem readV_packageOf (g : Group) (it : Item) (die : Nat) (va : W64) (now : Nat) (n : BitVec 7) :
    (packageOf g it die va now).item.readV n = if n.toNat < 32 then it.readV n else 0 := by
  simp [packageOf, Item.readV]

/-! ### LANDING -/

theorem exec_landing (id core : Nat) (s : State) : exec (.landing id core) s = execLanding id core s := rfl

theorem State.logEntry_of_off {s : State} {ctx : Nat} (h : (s.hind ctx).mode = .off) (r : Nat) (e : HcEntry) : s.logEntry ctx r e = s := by
  simp [State.logEntry, h]

/-- The package's group stands on the core that it lands on. -/
def State.landed (s : State) (id core : Nat) (pk : Package) (kn : Kernel) : State :=
  { s with
    packages := Table.erase s.packages id
    groups := Table.put s.groups s.nextId (landingGroup kn pk core s.landings (s.homeBank core))
    landings := s.landings + 1
    nextId := s.nextId + 1 }

section
variable {s : State} {id core : Nat} {pk : Package} {kn : Kernel} (hpk : Table.get? s.packages id = some pk)
  (hkn : s.kernel? pk.kh = some kn) (hdie : dieOfCore core = pk.die) (hcore : core < 1024) (hslots : s.residentSlots core < 2048)
  (hlive : kn.state.ended = false) (hasked : kn.asked = false) (hsave : s.saving pk.ctx = false)
  (hfree : pk.fresh = false → s.landingsOn pk.die < 256) (hoff : (s.hind pk.ctx).mode = .off)
include hpk hkn hdie hcore hslots hlive hasked hsave hfree hoff

/-- A landing that nothing stands against (R148, R297). -/
theorem exec_landing_eq : exec (.landing id core) s = .next (if pk.fresh then (s.landed id core pk kn).acquireAt s.nextId 0 .dev
      else (s.landed id core pk kn).dropKeyLines (clusterOf core) (s.context pk.ctx).key) := by
  have hreplay : (s.hind pk.ctx).replaying = false := by simp [Hindcast.replaying, hoff]
  have hlogged : s.landingLogged pk core = true := by simp [State.landingLogged, hreplay]
  have hroom : (!pk.fresh && decide (256 ≤ s.landingsOn pk.die)) = false := by
    cases hf : pk.fresh with
    | true => rfl
    | false => simpa using hfree hf
  have hlanded : ((s.landed id core pk kn).hind pk.ctx).mode = .off := hoff
  have hlandedReplay : ((s.landed id core pk kn).hind pk.ctx).replaying = false := hreplay
  rw [exec_landing, execLanding]
  simp only [hpk, hkn, hdie, not_le.2 hcore, not_le.2 hslots, hlive, hasked, hsave, hlogged, hroom, ne_eq, not_true_eq_false, Bool.false_eq_true,
    Bool.not_true, or_self, if_false]
  simp only [State.landed] at hlanded hlandedReplay ⊢
  simp only [State.logEntry_of_off hlanded, hlandedReplay, Bool.false_eq_true, if_false]
  rfl

/-- The package's group stands on the core that it lands on; after a migr its item has acquired (R148, R297). -/
theorem landing_takes : ∃ u v, exec (.landing id core) s = .next u ∧ u.memory = s.memory ∧ u.packages = Table.erase s.packages id ∧
      u.group? s.nextId = some { landingGroup kn pk core s.landings (s.homeBank core) with
        items := [(0, { pk.item with home := s.homeBank core, view := v })] } := by
  have hgroup : (s.landed id core pk kn).group? s.nextId = some (landingGroup kn pk core s.landings (s.homeBank core)) :=
    Table.get?_put_self _ _ _
  rw [exec_landing_eq hpk hkn hdie hcore hslots hlive hasked hsave hfree hoff]
  cases pk.fresh with
  | true =>
    rw [if_pos rfl, State.acquireAt_dev (it := { pk.item with home := s.homeBank core }) hgroup rfl]
    refine ⟨_, max pk.item.view pk.item.seen, rfl, rfl, rfl, ?_⟩
    exact (State.group?_modGroup_self (s.landed id core pk kn) s.nextId _).trans (by rw [hgroup]; rfl)
  | false => exact ⟨_, pk.item.view, rfl, rfl, rfl, hgroup⟩

end

/-- s0 to s15 are the kernel's, the others the package's (R148). -/
theorem landingS_get (kn : Kernel) (s : Vector W32 64) (n : Nat) (h : n < 64) : (landingS s kn.sRegisters)[n] =
    if n < 16 then (if kn.smask.getLsbD n then kn.sval.getD n 0 else kn.desc.sconst.getD n 0) else s[n] := by
  by_cases hn : n < 16 <;> simp [landingS, Kernel.sRegisters, hn]

/-! ### The statement -/

/-- Settles O49: migr and LANDING move the item's registers, each of the engine's and the walker's ends is evaluated, and a record's fields are
read back. -/
theorem migrationAndPages : Obligations.MigrationAndPages := by
  refine ⟨⟨?_, ?_⟩, ?_,
    fun s id w start hw hwalker => ⟨fun l => pageWalk_leaf hw hwalker, fun reason level bad => pageWalk_fault hw hwalker⟩,
    fun s id f hf => ⟨faultRecordAppend_writes hf, faultRecordAppend_full hf⟩, faultRecord_fields⟩
  · intro s g o k it pa slice ha hidle hstores hframe hcallers hguard hr
    refine ⟨migr_waits ha hidle hstores hguard hr, fun hfree hopen => ?_⟩
    obtain ⟨u, v, hexec, hmem, hgone, hpk⟩ := migr_leaves ha hidle hstores hguard hr hframe hcallers hfree hopen
    exact ⟨u, _, hexec, hmem, hgone, hpk, rfl, rfl, rfl, rfl, rfl, rfl, rfl, rfl, rfl, rfl, rfl, rfl, rfl, rfl, rfl, rfl, rfl, rfl,
      readV_packageOf _ _ _ _ _⟩
  · intro s id core pk kn hpk hkn hdie hcore hslots hlive hasked hsave hfree hoff
    obtain ⟨u, v, hexec, hmem, hpack, hgroup⟩ := landing_takes hpk hkn hdie hcore hslots hlive hasked hsave hfree hoff
    exact ⟨u, _, _, hexec, hmem, hpack, hgroup, rfl, rfl, rfl, rfl, rfl, rfl, rfl, rfl, rfl, rfl, rfl, rfl, rfl, rfl, landingS_get kn pk.s⟩
  · intro s t core gid slot g it hnext hg hit
    exact ⟨spillFillDone_misaligned hnext hg hit, fun halign => ⟨fun need n time hwait => spillFillDone_call hnext hg hit halign hwait,
      fun f n time hwait => spillFillDone_ret hnext hg hit halign hwait,
      fun xs hwait _ hlost => spillFillDone_frame hnext hg hit halign hwait hlost⟩⟩

end Sys2Proof.Machine
end

section
/-! PROOFS. Transfers of control (08 R161 to R163): how a form whose members complete or trap each by itself leaves its wave, the branches, and
nop, yield and brk. -/

namespace Sys2Proof.Machine

/-! ### Members that complete, and members that trap -/

/-- A form of which every member with a true guard goes on at `t` as `f` of itself. -/
theorem State.mapWave_under {s : State} {g : Group} (hp : Plain s g) {i : Instr} (ha : Admits s g i) (body : Env → Ending) (t : Env → W64)
    (f : Env → Item) (hf : ∀ e, (f e).fatal = e.it.fatal ∧ (f e).consumed = e.it.consumed)
    (hbody : ∀ q ∈ g.items, s.wave.slots.contains q.1 = true →
      (s.envOf g q.1 q.2).close (shapeOf i) (body (s.envOf g q.1 q.2)) = (s.envOf g q.1 q.2).on i (t (s.envOf g q.1 q.2)) (f (s.envOf g q.1 q.2))) :
    s.mapWave i body = s.after g (fun e => e.under i t f) := by
  refine State.mapWave_plain hp ha body (fun e => e.on i (t e) (f e)) fun q hq hs _ => ⟨hbody q hq hs, ?_⟩
  obtain ⟨hfatal, hconsumed⟩ := hf (s.envOf g q.1 q.2)
  obtain ⟨hclearF, hclearC⟩ := hp.clear q hq
  exact ⟨by rw [Env.on_fatal, hfatal]; exact hclearF, by rw [Env.on_consumed, hconsumed]; exact hclearC⟩

/-- A form of which every member that it traps enters its handler, and every other one with a true guard goes on at `t` as it is. -/
theorem State.mapWave_traps {s : State} {g : Group} (hp : Plain s g) {i : Instr} (ha : Admits s g i) {h : W64} (hh : s.handlerOf g.kh = some h)
    (hout : ∀ q ∈ g.items, q.2.inHandler = false ∧ q.2.windows = []) (c : Env → Prop) [DecidablePred c] (tr : Env → Trap) (t : Env → W64) :
    s.mapWave i (fun e => if c e then .trap e.it (tr e) else .jump e.it (t e)) = s.after g (fun e =>
      if e.it.guard (shapeOf i).form.g ∧ c e then e.entered e.it h (tr e) else e.under i t (fun e => e.it)) := by
  have hplain := State.mapWave_plain hp ha (fun e => if c e then .trap e.it (tr e) else .jump e.it (t e))
    (fun e => if c e then e.entered e.it h (tr e) else e.on i (t e) e.it) fun q hq _ _ => ?_
  · rw [hplain]
    congr 1
    funext e
    by_cases hg : e.it.guard (shapeOf i).form.g = true <;> by_cases hc : c e <;> simp [Env.under, hg, hc]
  · obtain ⟨hin, hlead⟩ := hout q hq
    by_cases hc : c (s.envOf g q.1 q.2)
    · simp only [if_pos hc]
      exact ⟨Env.close_trap hlead hh hin rfl, hp.clear q hq⟩
    · simp only [if_neg hc]
      exact ⟨rfl, hp.clear q hq⟩

/-! ### Branches (R162) -/

theorem wordOffset_eq_mul (k : W16) : wordOffset k = k.signExtend 64 * 4 := by
  unfold wordOffset
  bv_omega

theorem transfer_eq_ite (it : Item) (t : W64) : transfer it t = if t.toNat % 4 ≠ 0 then .trap it (misalignTransfer t) else .jump it t := by
  by_cases h : t.toNat % 4 = 0 <;> simp [transfer, aligned, h]

/-- Each branch is a transfer to its target, under the guard of its form. -/
theorem exec_branches (o : Form) (k : W16) (lit : W32) : ∀ p ∈ branches o k lit, (shapeOf p.1).form.g = o.g ∧
    ∀ s, exec p.1 s = .next (s.mapWave p.1 (fun e => if (p.2 e).toNat % 4 ≠ 0 then .trap e.it (misalignTransfer (p.2 e)) else .jump e.it (p.2 e))) := by
  simp only [branches, List.forall_mem_cons, List.not_mem_nil, false_implies, implies_true, and_true, ← transfer_eq_ite, ← wordOffset_eq_mul]
  exact ⟨⟨rfl, fun _ => rfl⟩, ⟨rfl, fun _ => rfl⟩, ⟨rfl, fun _ => rfl⟩⟩

/-- Settles O15: a branch is a transfer of each member, which jumps to an aligned target and traps at another one. -/
theorem branches_complete_or_trap : Obligations.Branches := by
  refine ⟨fun s g o k lit hp p hmem ha halign => ?_, fun s g o k lit h hp hh hout p hmem ha => ?_⟩
  · rw [(exec_branches o k lit p hmem).2, State.mapWave_under hp ha _ p.2 (fun e => e.it) (fun _ => ⟨rfl, rfl⟩)]
    intro q hq hs
    rw [if_neg (not_not.2 (halign q hq hs))]
    rfl
  · obtain ⟨hguard, hexec⟩ := exec_branches o k lit p hmem
    rw [hexec, State.mapWave_traps hp ha hh hout]
    simp only [hguard]
    rfl

/-! ### nop, yield and brk (R163) -/

theorem Table.mapAll_mapAll {α β γ : Type} (t : Table α) (f : Nat → α → β) (h : Nat → β → γ) :
    Table.mapAll (Table.mapAll t f) h = Table.mapAll t (fun k a => h k (f k a)) := by
  simp [Table.mapAll]

/-- What is done to every member of the wave after a form. -/
theorem State.modGroup_after {s : State} {g : Group} (hg : s.group? s.wave.gid = some g) (f : Env → Item) (c : Item → Bool) (h : Item → Item) :
    (s.after g f).modGroup s.wave.gid (fun x => { x with items := x.items.mapAll (fun k it => if s.wave.slots.contains k && c it then h it else it) }) =
      s.after g (fun e => if c (f e) then h (f e) else f e) := by
  unfold State.after
  rw [State.modGroup_modGroup]
  refine State.modGroup_congr hg ?_
  simp only [Table.mapAll_mapAll]
  congr 2
  funext k it
  by_cases hk : s.wave.slots.contains k = true <;> simp only [hk] <;> rfl

/-- The state after a form depends on the items of the wave alone. -/
theorem State.after_congr {s : State} {g : Group} (hg : s.group? s.wave.gid = some g) {f h : Env → Item}
    (hfh : ∀ q ∈ g.items, s.wave.slots.contains q.1 = true → f (s.envOf g q.1 q.2) = h (s.envOf g q.1 q.2)) : s.after g f = s.after g h := by
  refine State.modGroup_congr hg (congrArg (fun x => { g with items := x }) (Table.mapAll_congr _ fun q hq => ?_))
  by_cases hs : s.wave.slots.contains q.1 = true
  · simp only [hs, if_true, hfh q hq hs]
  · simp only [hs]
    rfl

theorem nop_completes {s : State} {g : Group} {o : Form} (hp : Plain s g) (ha : Admits s g (.nop o)) :
    exec (.nop o) s = .next (s.after g (fun e => e.under (.nop o) Env.nextPc (fun e => e.it))) :=
  congrArg Host.Outcome.next (State.mapWave_under hp ha _ Env.nextPc (fun e => e.it) (fun _ => ⟨rfl, rfl⟩) fun _ _ _ => rfl)

/-- yield: the members with a true guard are those set aside, and they go behind what else reaches their address in the cycle (R163). -/
theorem yield_completes {s : State} {g : Group} {o : Form} (hp : Plain s g) (ha : Admits s g (.yield o))
    (haside : ∀ q ∈ g.items, s.wave.slots.contains q.1 = true → q.2.aside = none) :
    exec (.yield o) s = .next (s.after g (fun e =>
      if e.it.guard o.g then { e.on (.yield o) e.nextPc { e.it with aside := some e.nextPc, starved := false } with joined := 4096 * s.tick + 1 }
      else e.on (.yield o) e.nextPc e.it)) := by
  show Host.Outcome.next _ = _
  rw [State.mapWave_under hp ha _ Env.nextPc (fun e => { e.it with aside := some e.nextPc, starved := false }) (fun _ => ⟨rfl, rfl⟩)
    fun _ _ _ => rfl, State.modGroup_after hp.group _ (fun it => it.aside.isSome)]
  refine congrArg Host.Outcome.next (State.after_congr hp.group fun q hq hs => ?_)
  have hnone : (s.envOf g q.1 q.2).it.aside = none := haside q hq hs
  unfold Env.under
  by_cases hg : (s.envOf g q.1 q.2).it.guard o.g = true
  · simp only [show (shapeOf (.yield o)).form.g = o.g from rfl, if_pos hg]
    rfl
  · simp only [show (shapeOf (.yield o)).form.g = o.g from rfl, if_neg hg]
    exact if_neg (by rw [show ((s.envOf g q.1 q.2).on (.yield o) (s.envOf g q.1 q.2).nextPc (s.envOf g q.1 q.2).it).aside = _ from hnone]; simp)

theorem brk_traps {s : State} {g : Group} {o : ImmForm} {h : W64} (hp : Plain s g) (ha : Admits s g (.brk o)) (hh : s.handlerOf g.kh = some h)
    (hout : ∀ q ∈ g.items, q.2.inHandler = false ∧ q.2.windows = []) :
    exec (.brk o) s = .next (s.after g (fun e =>
      if e.it.guard o.g then e.entered e.it h { cause := 0x16, addr := 0, info := o.imm.zeroExtend 32 } else e.on (.brk o) e.nextPc e.it)) :=
  congrArg Host.Outcome.next (State.mapWave_plain hp ha _ _ fun q hq _ _ =>
    ⟨Env.close_trap (hout q hq).2 hh (hout q hq).1 rfl, hp.clear q hq⟩)

/-- Settles O18: nop and yield complete in every member, and brk is a trap of its own. -/
theorem plainControl : Obligations.PlainControl :=
  ⟨fun _ _ _ hp => ⟨nop_completes hp, yield_completes hp⟩, fun _ _ _ _ hp ha hh hout => brk_traps hp ha hh hout⟩

end Sys2Proof.Machine
end

section
/-! PROOFS. Calls and returns (08 R164 to R167): where a call fits it pushes its caller's frame, a ret pops the newest one, and the one undoes the
other. -/

namespace Sys2Proof.Machine

/-! ### The words of a window -/

theorem frameOf_length {it : Item} (h : it.frame.toNat ≤ 96) : (frameOf it).length = it.frame.toNat := by
  simp [frameOf]
  omega

/-- Words are placed one after another, as far as the window goes. -/
theorem setWindow_concat (v : Vector W32 128) (ws : List W32) (w : W32) : setWindow v (ws ++ [w]) =
    if h : 32 + ws.length < 128 then (setWindow v ws).set (32 + ws.length) w else setWindow v ws := by
  simp [setWindow, List.range_succ, List.zip_append, List.foldl_append]

theorem getElem_withFrame (v : Vector W32 128) (ws : List W32) (n : Nat) (hn : n < 128) :
    (withFrame v ws)[n] = if 32 ≤ n ∧ n < 32 + ws.length then ws.getD (n - 32) 0 else v[n] := by
  simp [withFrame]

theorem setWindow_eq_withFrame (v : Vector W32 128) (ws : List W32) : setWindow v ws = withFrame v ws := by
  induction ws using List.reverseRecOn with
  | nil =>
    ext n hn
    rw [getElem_withFrame, if_neg (by simp only [List.length_nil]; omega)]
    rfl
  | append_singleton ws w ih =>
    ext n hn
    rw [setWindow_concat, ih, getElem_withFrame, List.length_append, List.length_singleton]
    by_cases hlast : n = 32 + ws.length
    · subst hlast
      rw [dif_pos hn, Vector.getElem_set_self, if_pos (by omega), Nat.add_sub_cancel_left]
      simp
    · have hsame : ∀ h : 32 + ws.length < 128, ((withFrame v ws).set (32 + ws.length) w)[n] = (withFrame v ws)[n] :=
        fun h => Vector.getElem_set_ne _ _ (Ne.symm hlast)
      have hold : (if h : 32 + ws.length < 128 then (withFrame v ws).set (32 + ws.length) w else withFrame v ws)[n] = (withFrame v ws)[n] := by
        split
        · exact hsame _
        · rfl
      rw [hold, getElem_withFrame]
      by_cases hin : 32 ≤ n ∧ n < 32 + ws.length
      · rw [if_pos hin, if_pos (by omega), List.getD_append _ _ _ _ (by omega)]
      · rw [if_neg hin, if_neg (by omega)]

/-- The words of a frame, put back, are the frame. -/
theorem getElem_withFrame_frameOf {it : Item} (h : it.frame.toNat ≤ 96) (v : Vector W32 128) (n : Fin 128) :
    (withFrame v (frameOf it))[n] = if 32 ≤ n.val ∧ n.val < 32 + it.frame.toNat then it.v[n] else v[n] := by
  rw [Fin.getElem_fin, getElem_withFrame, frameOf_length h]
  by_cases hn : 32 ≤ n.val ∧ n.val < 32 + it.frame.toNat
  · have hlt : n.val - 32 < it.frame.toNat := by omega
    simp [hn, frameOf, List.getElem?_drop, hlt]
  · simp only [if_neg hn, Fin.getElem_fin]

/-! ### A call that fits (R165, R166) -/

/-- The item inside the procedure (R166). -/
def Env.called (e : Env) (need : BitVec 7) : Item :=
  { e.it with
    callers := e.it.callers ++ [{ words := frameOf e.it, ret := e.nextPc }]
    stack := e.it.stack + 16 + BitVec.ofNat 64 (4 * e.it.frame.toNat)
    frame := need
    v := withFrame e.it.v (List.replicate need.toNat 0) }

@[simp] theorem Env.called_callers (e : Env) (need : BitVec 7) :
    (e.called need).callers = e.it.callers ++ [{ words := frameOf e.it, ret := e.nextPc }] := rfl
@[simp] theorem Env.called_stack (e : Env) (need : BitVec 7) :
    (e.called need).stack = e.it.stack + 16 + BitVec.ofNat 64 (4 * e.it.frame.toNat) := rfl
@[simp] theorem Env.called_fatal (e : Env) (need : BitVec 7) : (e.called need).fatal = e.it.fatal := by simp only [Env.called]
@[simp] theorem Env.called_consumed (e : Env) (need : BitVec 7) : (e.called need).consumed = e.it.consumed := by simp only [Env.called]

theorem residentFrames_all {need : Nat} {fs : List CallerFrame} (hlen : fs.length ≤ 4)
    (hsum : need + (fs.map (fun c => c.words.length)).sum ≤ 96) : residentFrames need fs = fs := by
  cases fs with
  | nil => rfl
  | cons f fs => exact if_pos ⟨hlen, hsum⟩

/-- The stack area has room for the caller's frame, so STACK does not wrap. -/
theorem Env.called_stack_toNat {e : Env} {need : BitVec 7} {t : W64} (h : e.CallFits need.toNat t) :
    (e.called need).stack.toNat = e.it.stack.toNat + 16 + 4 * e.it.frame.toNat := by
  obtain ⟨-, -, hroom, harea, hframe, -, -⟩ := h
  have h16 : (16 : W64).toNat = 16 := rfl
  simp only [Env.called_stack, BitVec.toNat_add, BitVec.toNat_ofNat, h16]
  omega

/-- A call that fits goes at once to its target (R165, R166). -/
theorem enterProcedure_of_fits {e : Env} {need : BitVec 7} {t : W64} (h : e.CallFits need.toNat t) :
    enterProcedure e need t = .jump { e.called need with got := none } t := by
  have htop : e.it.stack + BitVec.ofNat 64 (4 * e.it.frame.toNat + 16) = (e.called need).stack := by
    rw [Env.called_stack, Nat.add_comm, BitVec.ofNat_add, ← BitVec.add_assoc]
    rfl
  have hstack := Env.called_stack_toNat h
  obtain ⟨halign, -, hroom, -, hframe, hcallers, hwords⟩ := h
  have hpushed : e.pushed = (e.called need).callers := rfl
  have hresident : residentFrames need.toNat e.pushed = e.pushed := by
    refine residentFrames_all ?_ ?_
    · simp only [Env.pushed, List.length_append, List.length_singleton]
      omega
    · simp only [hpushed, Env.called_callers, List.map_append, List.sum_append, List.map_cons, List.map_nil, List.sum_cons, List.sum_nil, frameOf_length hframe]
      omega
  have hfits : ¬ e.area.toNat + 16384 < (e.called need).stack.toNat + 4 * need.toNat := by omega
  simp only [enterProcedure, aligned, htop, halign, hresident, hfits, setWindow_eq_withFrame]
  simp [Env.called, Env.pushed, frameOf, Item.windowWords]

/-! ### A ret to a resident frame (R167) -/

/-- The item back in its caller (R167). -/
def Env.returned (e : Env) (newest : CallerFrame) (older : List CallerFrame) : Item :=
  { e.it with
    callers := older
    stack := e.it.stack - BitVec.ofNat 64 (16 + 4 * newest.words.length)
    frame := BitVec.ofNat 7 newest.words.length
    v := withFrame e.it.v newest.words }

@[simp] theorem Env.returned_fatal (e : Env) (newest : CallerFrame) (older : List CallerFrame) :
    (e.returned newest older).fatal = e.it.fatal := by simp only [Env.returned]
@[simp] theorem Env.returned_consumed (e : Env) (newest : CallerFrame) (older : List CallerFrame) :
    (e.returned newest older).consumed = e.it.consumed := by simp only [Env.returned]

theorem leaveProcedure_of_resident {e : Env} {newest : CallerFrame} {older : List CallerFrame} (hinside : e.it.stack ≠ e.area)
    (hcallers : e.it.callers = older ++ [newest]) (halign : newest.ret.toNat % 4 = 0) :
    leaveProcedure e = .jump { e.returned newest older with got := none } newest.ret := by
  unfold leaveProcedure
  rw [if_neg hinside, hcallers, List.getLast?_concat, List.dropLast_concat]
  cases e.it.got <;> simp [aligned, halign, setWindow_eq_withFrame, Env.returned]

/-! ### The statements -/

/-- Each call enters its procedure at its target. -/
theorem exec_calls (o : Form) (k : W16) (lit : W32) :
    ∀ p ∈ calls o k lit, ∀ s, exec p.1 s = .next (s.mapWave p.1 (fun e => enterProcedure e o.d (p.2 e))) := by
  simp only [calls, List.forall_mem_cons, List.not_mem_nil, false_implies, implies_true, and_true, ← wordOffset_eq_mul]
  exact ⟨fun _ => rfl, fun _ => rfl, fun _ => rfl⟩

/-- Settles O16: where every member's call fits, and where every member's caller is resident, the form jumps in each of them. -/
theorem callsAndReturns : Obligations.CallsAndReturns := by
  refine ⟨fun s g o k lit hp p hmem ha hfits => ?_, fun s g o hp ha newest older hin => ?_⟩
  · rw [exec_calls o k lit p hmem, State.mapWave_under hp ha _ p.2 (fun e => e.called o.d) (fun _ => by simp)]
    · rfl
    · intro q hq hs
      rw [enterProcedure_of_fits (hfits q hq hs)]
      rfl
  · show Host.Outcome.next (s.mapWave (.ret o) leaveProcedure) = _
    rw [State.mapWave_under hp ha _ (fun e => (newest e).ret) (fun e => e.returned (newest e) (older e)) (fun _ => by simp)]
    · rfl
    · intro q hq hs
      obtain ⟨hinside, hcallers, halign⟩ := hin q hq hs
      rw [leaveProcedure_of_resident hinside hcallers halign]
      rfl

theorem Env.nextPc_aligned {e : Env} (h : e.it.pc.toNat % 4 = 0) : e.nextPc.toNat % 4 = 0 := by
  simp only [Env.nextPc, BitVec.toNat_add, BitVec.toNat_ofNat]
  omega

/-- Settles O17: the frame that the call pushed is the newest resident one when the ret executes, and STACK is above the item's area. -/
theorem returnUndoesCall : Obligations.ReturnUndoesCall := by
  intro e need t v hfits hpc
  refine ⟨_, enterProcedure_of_fits hfits, ?_⟩
  have hstack := Env.called_stack_toNat hfits
  obtain ⟨-, hbase, -, -, hframe, -, -⟩ := hfits
  have hinside : (e.called need).stack ≠ e.area := fun heq => by rw [heq] at hstack; omega
  refine ⟨_, leaveProcedure_of_resident hinside (newest := { words := frameOf e.it, ret := e.nextPc }) rfl (Env.nextPc_aligned hpc), ?_, ?_, ?_,
    fun n => getElem_withFrame_frameOf hframe v n⟩
  · simp only [Env.returned]
  · simp only [Env.returned, Env.called, frameOf_length hframe, BitVec.ofNat_add, BitVec.add_assoc]
    exact BitVec.add_sub_cancel _ _
  · simp [Env.returned, frameOf_length hframe]

end Sys2Proof.Machine
end

section
/-! PROOFS. The participants of a cross-lane form (08 R169): in one slot window at most one stands at a lane, and in ascending LSLOT they are the
participants of the lanes in ascending order. -/

namespace Sys2Proof.Machine

/-! ### Slots in ascending order -/

theorem ascending_insertNat_perm (n : Nat) (l : List Nat) : (ascending.insertNat n l).Perm (n :: l) := by
  induction l with
  | nil => exact .refl _
  | cons m l ih =>
    unfold ascending.insertNat
    split
    · exact .refl _
    · exact (ih.cons m).trans (.swap n m l)

theorem ascending_perm (l : List Nat) : (ascending l).Perm l := by
  induction l with
  | nil => exact .refl _
  | cons n l ih => exact (ascending_insertNat_perm n _).trans (ih.cons n)

theorem ascending_strict {l : List Nat} (h : l.Nodup) : (ascending l).Pairwise (· < ·) :=
  ((ascending_pairwise l).and ((ascending_perm l).nodup_iff.2 h)).imp fun hn => lt_of_le_of_ne hn.1 hn.2

theorem OneWindow.lane_lt {s : State} (hw : OneWindow s) {j k : Nat} (hj : j ∈ s.wave.slots) (hk : k ∈ s.wave.slots) (hjk : j < k) :
    j % 32 < k % 32 := by
  obtain ⟨-, n, hn⟩ := hw
  have := hn j hj
  have := hn k hk
  omega

theorem OneWindow.eq_of_lane {s : State} (hw : OneWindow s) {j k : Nat} (hj : j ∈ s.wave.slots) (hk : k ∈ s.wave.slots) (hjk : j % 32 = k % 32) :
    j = k := by
  obtain ⟨-, n, hn⟩ := hw
  have := hn j hj
  have := hn k hk
  omega

/-! ### The participant at a lane -/

theorem Env.lane_lt (e : Env) : e.lane < 32 := Nat.mod_lt _ (by decide)

/-- Among participants at rising lanes, the one that is found at a lane is the one that stands there. -/
theorem atLane_eq_some_iff {ps : List Env} (h : ps.Pairwise (fun e f => e.lane < f.lane)) {l : Nat} {e : Env} :
    atLane ps l = some e ↔ e ∈ ps ∧ e.lane = l := by
  have hfound : ∀ {f : Env}, atLane ps l = some f → f ∈ ps ∧ f.lane = l := fun hf =>
    ⟨List.mem_of_find?_eq_some hf, by simpa using List.find?_some hf⟩
  refine ⟨hfound, fun ⟨he, hl⟩ => ?_⟩
  have hone : ∀ ⦃x⦄, x ∈ ps → ∀ ⦃y⦄, y ∈ ps → x.lane = y.lane → x = y :=
    List.Pairwise.forall_of_forall_of_flip (fun _ _ _ => rfl) (h.imp fun hlt heq => absurd heq hlt.ne) (h.imp fun hlt heq => absurd heq hlt.ne')
  cases hat : atLane ps l with
  | none => exact absurd hl (by simpa using List.find?_eq_none.1 hat e he)
  | some f =>
    obtain ⟨hf, hlane⟩ := hfound hat
    rw [hone hf he (hlane.trans hl.symm)]

/-- Participants at rising lanes are those found at the lanes one after another. -/
theorem filterMap_atLane {ps : List Env} (h : ps.Pairwise (fun e f => e.lane < f.lane)) : (List.range 32).filterMap (atLane ps) = ps := by
  have : Std.Irrefl (fun e f : Env => e.lane < f.lane) := ⟨fun _ => lt_irrefl _⟩
  refine List.Pairwise.eq_of_mem_iff (List.Pairwise.filterMap _ (fun l m hlm e he f hf => ?_) List.pairwise_lt_range) h fun e => ?_
  · rw [((atLane_eq_some_iff h).1 he).2, ((atLane_eq_some_iff h).1 hf).2]
    exact hlm
  · simp only [List.mem_filterMap, List.mem_range, atLane_eq_some_iff h]
    exact ⟨fun ⟨_, _, he, _⟩ => he, fun he => ⟨e.lane, e.lane_lt, he, rfl⟩⟩

/-! ### The participants of a plain wave in one slot window -/

/-- Each stands at a slot of the wave, has a true guard, and rises in LSLOT. -/
theorem State.participants_plain {s : State} {g : Group} (hp : Plain s g) {i : Instr} (ha : Admits s g i) :
    s.participants i = (ascending s.wave.slots).filterMap (fun k => (Table.get? g.items k).bind (fun it =>
      if it.guard (shapeOf i).form.g then some (s.envOf g k it) else none)) := by
  simp only [State.participants, hp.group, State.env?, Option.bind_map]
  refine List.filterMap_congr fun k hk => ?_
  cases hit : Table.get? g.items k with
  | none => rfl
  | some it =>
    simp only [Option.bind_some, Function.comp]
    rcases ha (k, it) (Table.get?_some_mem hit) (by simpa using mem_ascending.1 hk) with ⟨hgo, hwhole⟩ | hskip
    · have hguard : it.guard (shapeOf i).form.g = true := Env.gate_go_guard hgo
      rw [if_pos (by simp [Env.passes, hgo, hwhole]), if_pos hguard]
    · have hguard : it.guard (shapeOf i).form.g = false := Env.gate_skip_guard hskip
      rw [if_neg (by simp [Env.passes, hskip]), hguard]
      rfl

theorem State.atLane?_eq_some_iff {s : State} (hw : OneWindow s) {g : Group} {i : Instr} {l : Nat} {it : Item} :
    s.atLane? g i l = some it ↔ ∃ k ∈ s.wave.slots, Table.get? g.items k = some it ∧ k % 32 = l ∧ it.guard (shapeOf i).form.g = true := by
  have hmem : ∀ x : Item, x ∈ s.wave.slots.filterMap (fun j => (Table.get? g.items j).bind (fun it =>
        if j % 32 = l ∧ it.guard (shapeOf i).form.g = true then some it else none)) ↔
      ∃ k ∈ s.wave.slots, Table.get? g.items k = some x ∧ k % 32 = l ∧ x.guard (shapeOf i).form.g = true := by
    intro x
    simp [List.mem_filterMap, Option.bind_eq_some_iff]
  refine ⟨fun h => (hmem _).1 (List.mem_of_head? h), fun h => ?_⟩
  have hin := (hmem it).2 h
  obtain ⟨k, hk, hit, hl, -⟩ := h
  cases hat : s.atLane? g i l with
  | none =>
    rw [List.head?_eq_none_iff.1 hat] at hin
    cases hin
  | some jt =>
    obtain ⟨j, hj, hjt, hjl, -⟩ := (hmem _).1 (List.mem_of_head? hat)
    rw [hw.eq_of_lane hj hk (hjl.trans hl.symm)] at hjt
    exact hjt.symm.trans hit

section
variable {s : State} {g : Group} {i : Instr} (hp : Plain s g) (hw : OneWindow s) (ha : Admits s g i)
include hp hw ha

theorem State.participants_lanes : (s.participants i).Pairwise (fun e f => e.lane < f.lane) := by
  have hslots : (ascending s.wave.slots).Pairwise (fun j k => j % 32 < k % 32) :=
    (ascending_strict hw.1).imp_of_mem fun hj hk => hw.lane_lt (mem_ascending.1 hj) (mem_ascending.1 hk)
  rw [State.participants_plain hp ha]
  refine List.Pairwise.filterMap _ (fun j k hjk e he f hf => ?_) hslots
  have hslot : ∀ {n : Nat} {e : Env}, ((Table.get? g.items n).bind fun it =>
      if it.guard (shapeOf i).form.g then some (s.envOf g n it) else none) = some e → e.slot = n := by
    intro n e he
    obtain ⟨it, -, he⟩ := Option.bind_eq_some_iff.1 he
    split at he <;> cases he
    rfl
  rw [Env.lane, Env.lane, hslot he, hslot hf]
  exact hjk

/-- What is read of the participant at a lane, by the model's list of participants and by the wave's slots. -/
theorem State.atLane?_map {α : Type} (f : Item → α) (hf : ∀ it : Item, f { it with wait := .none } = f it) (l : Nat) :
    (s.atLane? g i l).map f = (atLane (s.takers i) l).map (fun e => f e.it) := by
  refine Option.ext fun x => ?_
  simp only [State.takers_eq_participants hp ha, Option.map_eq_some_iff, State.atLane?_eq_some_iff hw,
    atLane_eq_some_iff (State.participants_lanes hp hw ha), State.mem_participants hp ha]
  constructor
  · rintro ⟨it, ⟨k, hk, hit, hl, hguard⟩, rfl⟩
    exact ⟨s.envOf g k it, ⟨⟨k, hk, it, hit, hguard, rfl⟩, hl⟩, hf it⟩
  · rintro ⟨_, ⟨⟨k, hk, it, hit, hguard, rfl⟩, hl⟩, rfl⟩
    exact ⟨it, ⟨k, hk, hit, hl, hguard⟩, (hf it).symm⟩

theorem State.filterMap_atLane_takers : (List.range 32).filterMap (atLane (s.takers i)) = s.takers i := by
  rw [State.takers_eq_participants hp ha]
  exact filterMap_atLane (State.participants_lanes hp hw ha)

end

end Sys2Proof.Machine
end

section
/-! PROOFS. Shuffles and votes (08 R171, R172): what each reads of the participants, lane by lane. -/

namespace Sys2Proof.Machine

/-! ### Masks of lanes -/

theorem sum_powers_lt (f : Nat → Bool) (n : Nat) : (((List.range n).filter f).map (fun l => 2 ^ l)).sum < 2 ^ n := by
  induction n with
  | zero => simp
  | succ n ih =>
    cases hf : f n <;> simp [List.range_succ, hf, Nat.pow_succ] <;> omega

theorem testBit_sum_powers (f : Nat → Bool) (n j : Nat) :
    (((List.range n).filter f).map (fun l => 2 ^ l)).sum.testBit j = (decide (j < n) && f j) := by
  induction n with
  | zero => simp
  | succ n ih =>
    have hsum : (((List.range (n + 1)).filter f).map (fun l => 2 ^ l)).sum =
        2 ^ n * boolNat (f n) + (((List.range n).filter f).map (fun l => 2 ^ l)).sum := by
      cases hf : f n <;> simp [List.range_succ, hf, boolNat, Nat.add_comm]
    rw [hsum, Nat.testBit_two_pow_mul_add _ (sum_powers_lt f n), ih]
    split
    next h => simp [h, Nat.lt_succ_of_lt h]
    next h =>
      rcases Nat.eq_or_lt_of_le (not_lt.1 h) with rfl | hlt
      · cases f n <;> simp [boolNat]
      · have hbit : (boolNat (f n)).testBit (j - n) = false :=
          Nat.testBit_lt_two_pow (lt_of_lt_of_le (by cases f n <;> decide : boolNat (f n) < 2 ^ 1) (Nat.pow_le_pow_right (by decide) (by omega)))
        simp [hbit, Nat.not_lt.2 (Nat.succ_le_of_lt hlt)]

theorem getLsbD_lanesWhere (f : Nat → Bool) (l : Nat) (hl : l < 32) : (lanesWhere f).getLsbD l = f l := by
  rw [lanesWhere, BitVec.getLsbD_ofNat, testBit_sum_powers]
  simp [hl]

theorem getLsbD_laneMask (ps : List Env) (q : Env → Bool) (l : Nat) (hl : l < 32) :
    (laneMask ps q).getLsbD l = ps.any (fun e => q e && e.lane == l) := by
  have hfold : ∀ m : W32, (ps.foldl (fun m e => if q e then m ||| (1#32 <<< e.lane) else m) m).getLsbD l =
      (m.getLsbD l || ps.any (fun e => q e && e.lane == l)) := by
    induction ps with
    | nil => simp
    | cons e ps ih =>
      intro m
      have hbit : (1#32 <<< e.lane).getLsbD l = (e.lane == l) := by
        rw [BitVec.getLsbD_shiftLeft, BitVec.getLsbD_one, Bool.eq_iff_iff]
        simp [hl]
        omega
      rw [List.foldl_cons, ih, List.any_cons]
      cases q e <;> simp [hbit, Bool.or_assoc]
  simpa [laneMask] using hfold 0

/-! ### What the participants of a plain wave give -/

section
variable {s : State} {g : Group} {i : Instr} (hp : Plain s g) (hw : OneWindow s) (ha : Admits s g i) (f : Item → Bool)
  (hf : ∀ it : Item, f { it with wait := .none } = f it)
include hp hw ha hf

theorem State.all_takers : (s.takers i).all (fun e => f e.it) = (List.range 32).all (fun l => ((s.atLane? g i l).map f).getD true) := by
  conv_lhs => rw [← State.filterMap_atLane_takers hp hw ha, List.all_filterMap]
  refine congrArg (List.all _) (funext fun l => ?_)
  rw [State.atLane?_map hp hw ha f hf]
  cases atLane (s.takers i) l <;> rfl

theorem State.any_takers : (s.takers i).any (fun e => f e.it) = (List.range 32).any (fun l => ((s.atLane? g i l).map f).getD false) := by
  conv_lhs => rw [← State.filterMap_atLane_takers hp hw ha, List.any_filterMap]
  refine congrArg (List.any _) (funext fun l => ?_)
  rw [State.atLane?_map hp hw ha f hf]
  cases atLane (s.takers i) l <;> rfl

theorem State.laneMask_takers : laneMask (s.takers i) (fun e => f e.it) = lanesWhere (fun l => ((s.atLane? g i l).map f).getD false) := by
  refine BitVec.eq_of_getLsbD_eq fun l hl => ?_
  rw [getLsbD_laneMask _ _ l hl, getLsbD_lanesWhere _ l hl, State.atLane?_map hp hw ha f hf, Bool.eq_iff_iff, List.any_eq_true]
  have hlane : ∀ e, atLane (s.takers i) l = some e ↔ e ∈ s.takers i ∧ e.lane = l := fun e => by
    rw [State.takers_eq_participants hp ha]
    exact atLane_eq_some_iff (State.participants_lanes hp hw ha)
  cases hat : atLane (s.takers i) l with
  | none =>
    simp only [Option.map_none, Option.getD_none, Bool.false_eq_true, iff_false, Bool.and_eq_true, beq_iff_eq]
    rintro ⟨e, he, -, hl⟩
    exact Option.some_ne_none e (((hlane e).2 ⟨he, hl⟩).symm.trans hat)
  | some p =>
    obtain ⟨hmem, hpl⟩ := (hlane p).1 hat
    simp only [Option.map_some, Option.getD_some, Bool.and_eq_true, beq_iff_eq]
    refine ⟨fun ⟨e, he, hfe, hl⟩ => ?_, fun h => ⟨p, hmem, h, hpl⟩⟩
    cases ((hlane e).2 ⟨he, hl⟩).symm.trans hat
    exact hfe

end

/-! ### The statement -/

/-- A form that ends in each member with a write is what it writes. -/
theorem State.mapWave_done {s : State} {g : Group} (hp : Plain s g) {i : Instr} (ha : Admits s g i) (f : Env → Item)
    (hf : ∀ e, (f e).fatal = e.it.fatal ∧ (f e).consumed = e.it.consumed) :
    s.mapWave i (fun e => .done (f e)) = s.after g (fun e => e.under i Env.nextPc f) :=
  State.mapWave_under hp ha _ Env.nextPc f hf fun _ _ _ => rfl

theorem State.mapWave_writeV {s : State} {g : Group} (hp : Plain s g) {i : Instr} (ha : Admits s g i) (d : BitVec 7) (x : Env → W32) :
    s.mapWave i (fun e => .done (e.it.writeV d (x e))) = s.after g (fun e => e.under i Env.nextPc (fun e => e.it.writeV d (x e))) :=
  State.mapWave_done hp ha (fun e => e.it.writeV d (x e)) fun _ => ⟨rfl, rfl⟩

theorem State.mapWave_writeP {s : State} {g : Group} (hp : Plain s g) {i : Instr} (ha : Admits s g i) (d : BitVec 7) (b : Bool) :
    s.mapWave i (fun e => .done (e.it.writeP d b)) = s.after g (fun e => e.under i Env.nextPc (fun e => e.it.writeP d b)) :=
  State.mapWave_done hp ha (fun e => e.it.writeP d b) fun _ => ⟨rfl, rfl⟩

/-- The value that a shuffle takes from a lane, the item's own where there is none. -/
def valueFrom (value : Nat → Option W32) (own : W32) (source : Option Nat) : W32 := (source.bind value).getD own

theorem State.shuffle_eq (s : State) (i : Instr) (o : ShuffleForm) (kind : Shuffle) : s.shuffle i o kind = s.mapWave i (fun e =>
    .done (e.it.writeV o.d (valueFrom (fun l => (atLane (s.takers i) l).map (fun q => q.it.readV o.a)) (e.it.readV o.a)
      (shuffleSource kind e.lane (2 ^ o.seg.toNat) (if o.rb then (e.it.readV o.b).toNat else o.k.toNat))))) := by
  unfold State.shuffle
  refine congrArg (s.mapWave i) (funext fun e => ?_)
  cases hl : shuffleSource kind e.lane (2 ^ o.seg.toNat) (if o.rb then (e.it.readV o.b).toNat else o.k.toNat) with
  | none => simp [valueFrom, hl]
  | some l => cases h : atLane (s.takers i) l <;> simp [valueFrom, hl, h]

theorem exec_shuffles (o : ShuffleForm) : ∀ p ∈ shuffles o, ∀ s, exec p.1 s = .next (s.mapWave p.1 (fun e =>
    .done (e.it.writeV o.d (valueFrom (fun l => (atLane (s.takers p.1) l).map (fun q => q.it.readV o.a)) (e.it.readV o.a)
      (p.2 e.lane (2 ^ o.seg.toNat) (if o.rb then (e.it.readV o.b).toNat else o.k.toNat)))))) := by
  simp only [shuffles, List.forall_mem_cons, List.not_mem_nil, false_implies, implies_true, and_true]
  exact ⟨fun s => congrArg Host.Outcome.next (s.shuffle_eq _ o .index), fun s => congrArg Host.Outcome.next (s.shuffle_eq _ o .xor),
    fun s => congrArg Host.Outcome.next (s.shuffle_eq _ o .up), fun s => congrArg Host.Outcome.next (s.shuffle_eq _ o .down)⟩

theorem readV_source (it : Item) (participant : Nat → Option Item) (source : Option Nat) (a : BitVec 7) :
    valueFrom (fun l => (participant l).map (fun q => q.readV a)) (it.readV a) source = ((source.bind participant).getD it).readV a := by
  cases source with
  | none => rfl
  | some l => cases h : participant l <;> simp [valueFrom, h]

/-- Settles O22: what a form reads of the participants in ascending LSLOT is what stands at the lanes. -/
theorem shufflesAndVotes : Obligations.ShufflesAndVotes := by
  refine ⟨fun s g o hp hw _ p hmem ha => ?_, fun s g o hp hw => ⟨fun ha => ?_, fun ha => ?_, fun ha => ?_, fun ha => ?_⟩⟩
  · rw [exec_shuffles o p hmem]
    simp only [← State.atLane?_map hp hw ha (fun q => q.readV o.a) (fun _ => rfl), readV_source]
    exact congrArg Host.Outcome.next (State.mapWave_writeV hp ha o.d _)
  · rw [← State.all_takers hp hw ha (fun q => q.readP o.a) (fun _ => rfl)]
    exact congrArg Host.Outcome.next (State.mapWave_writeP hp ha o.d _)
  · rw [← State.any_takers hp hw ha (fun q => q.readP o.a) (fun _ => rfl)]
    exact congrArg Host.Outcome.next (State.mapWave_writeP hp ha o.d _)
  · rw [← State.laneMask_takers hp hw ha (fun q => q.readP o.a) (fun _ => rfl)]
    exact congrArg Host.Outcome.next (State.mapWave_writeV hp ha o.d _)
  · simp only [← State.laneMask_takers hp hw ha (fun q => q.readV o.a == _) (fun _ => rfl)]
    exact congrArg Host.Outcome.next (State.mapWave_writeV hp ha o.d _)

end Sys2Proof.Machine
end

section
/-! PROOFS. Scans and reductions over a segment (08 R173): the folds of integers from their identity, and the floating tree. -/

namespace Sys2Proof.Machine

/-! ### The values of a segment -/

/-- The participants of a segment that meet a condition on their lanes, by the model's list of participants and by the wave's slots. -/
theorem State.segment_eq_map {α : Type} {s : State} {g : Group} {i : Instr} (hp : Plain s g) (hw : OneWindow s) (ha : Admits s g i)
    (f : Item → α) (hf : ∀ it : Item, f { it with wait := .none } = f it) (n l : Nat) (q : Nat → Bool) :
    s.segment g i n l q f = ((s.takers i).filter (fun e => e.lane / n == l / n && q e.lane)).map (fun e => f e.it) := by
  conv_rhs => rw [← State.filterMap_atLane_takers hp hw ha, List.filter_filterMap, List.map_filterMap]
  refine List.filterMap_congr fun j _ => ?_
  rw [State.atLane?_map hp hw ha f hf]
  cases hat : atLane (s.takers i) j with
  | none => simp
  | some e =>
    have hlane : e.lane = j := by simpa using List.find?_some hat
    by_cases h : j / n = l / n ∧ q j = true <;> simp [Option.filter, hlane, h]

/-! ### Folds of integers from their identity -/

/-- The signed value of a pattern below half the range, and of half the range itself. -/
theorem toInt_ofNat_half {w : Nat} (hw : 0 < w) : (BitVec.ofNat w (2 ^ (w - 1) - 1)).toInt = 2 ^ (w - 1) - 1 ∧
    (BitVec.ofNat w (2 ^ (w - 1))).toInt = -2 ^ (w - 1) := by
  have hpos : 0 < 2 ^ (w - 1) := Nat.two_pow_pos _
  have hhalf : 2 ^ w = 2 * 2 ^ (w - 1) := by rw [Nat.mul_comm, ← Nat.pow_succ, Nat.succ_eq_add_one, Nat.sub_add_cancel hw]
  have hcast : ((2 ^ (w - 1) : Nat) : Int) = 2 ^ (w - 1) := by push_cast; rfl
  rw [BitVec.toInt_eq_toNat_cond, BitVec.toInt_eq_toNat_cond, BitVec.toNat_ofNat, BitVec.toNat_ofNat, Nat.mod_eq_of_lt (by omega),
    Nat.mod_eq_of_lt (by omega), if_pos (by omega), if_neg (by omega), ← hcast, hhalf]
  omega

/-- The identity of an operation is its left identity (R173). -/
theorem foldInt_identityOf {w : Nat} (hw : 0 < w) (op : IntFold) (uns : Bool) (x : BitVec w) : foldInt op uns (identityOf w op uns) x = x := by
  cases op with
  | add => exact BitVec.zero_add x
  | and => exact BitVec.allOnes_and
  | or => exact BitVec.zero_or
  | xor => exact BitVec.zero_xor
  | min =>
    cases uns with
    | true =>
      have hle : x.toNat ≤ (BitVec.allOnes w).toNat := by
        rw [BitVec.toNat_allOnes]
        exact Nat.le_sub_one_of_lt x.isLt
      exact ite_eq_right_iff.2 fun h => BitVec.eq_of_toNat_eq (le_antisymm h hle)
    | false => exact ite_eq_right_iff.2 fun h => BitVec.eq_of_toInt_eq (le_antisymm h (BitVec.toInt_le.trans_eq (toInt_ofNat_half hw).1.symm))
  | max =>
    cases uns with
    | true => exact ite_eq_right_iff.2 fun h => BitVec.eq_of_toNat_eq (le_antisymm ((BitVec.toNat_zero).trans_le (Nat.zero_le _)) h)
    | false => exact ite_eq_right_iff.2 fun h => BitVec.eq_of_toInt_eq (le_antisymm ((toInt_ofNat_half hw).2.trans_le (BitVec.le_toInt x)) h)

theorem intReduce_wide (op : IntFold) (uns : Bool) (xs : List W64) :
    intReduce true op uns xs = (foldList (foldInt op uns) xs).getD (identityOf 64 op uns) := by
  have hstep : foldStep true op uns = foldInt op uns := by
    funext x y
    cases op <;> cases uns <;> simp [foldStep, foldInt, BitVec.ule_eq_decide, BitVec.sle_eq_decide]
  have hid : foldIdentity true op uns = identityOf 64 op uns := by cases op <;> cases uns <;> rfl
  rw [intReduce, hstep, hid]
  cases xs with
  | nil => rfl
  | cons x xs =>
    rw [List.foldl_cons, foldInt_identityOf (by decide)]
    rfl

theorem toNat_zeroExtend64 (x : W32) : (x.zeroExtend 64).toNat = x.toNat := BitVec.toNat_setWidth_of_le (by decide)

/-- But for sums, which carry out of 32 bits, a step on 32-bit values stays within them. -/
theorem foldStep_zeroExtend {op : IntFold} (hop : op ≠ .add) (uns : Bool) (x y : W32) :
    foldStep false op uns (x.zeroExtend 64) (y.zeroExtend 64) = (foldInt op uns x y).zeroExtend 64 := by
  cases op with
  | add => exact absurd rfl hop
  | and => exact BitVec.setWidth_and.symm
  | or => exact BitVec.setWidth_or.symm
  | xor => exact BitVec.setWidth_xor.symm
  | min =>
    cases uns <;> simp [foldStep, foldInt, lo32_zeroExtend, BitVec.sle_eq_decide, BitVec.ule_eq_decide, toNat_zeroExtend64, -BitVec.toNat_setWidth,
      apply_ite (BitVec.setWidth 64)]
  | max =>
    cases uns <;> simp [foldStep, foldInt, lo32_zeroExtend, BitVec.sle_eq_decide, BitVec.ule_eq_decide, toNat_zeroExtend64, -BitVec.toNat_setWidth,
      apply_ite (BitVec.setWidth 64)]

/-- A value of 32 bits starts a fold of 64-bit words as it is. -/
theorem foldStep_identity_narrow (op : IntFold) (uns : Bool) (x : W32) :
    foldStep false op uns (foldIdentity false op uns) (x.zeroExtend 64) = x.zeroExtend 64 := by
  have hfits (hop : op ≠ .add) (hid : foldIdentity false op uns = (identityOf 32 op uns).zeroExtend 64) :
      foldStep false op uns (foldIdentity false op uns) (x.zeroExtend 64) = x.zeroExtend 64 := by
    rw [hid, foldStep_zeroExtend hop, foldInt_identityOf (by decide)]
  cases op with
  | add => exact BitVec.zero_add _
  | and => exact BitVec.allOnes_and
  | or => exact hfits (by decide) rfl
  | xor => exact hfits (by decide) rfl
  | min =>
    cases uns with
    | true =>
      refine if_neg (show ¬ (BitVec.allOnes 64).ule (x.zeroExtend 64) = true from ?_)
      have := x.isLt
      simp only [BitVec.ule_eq_decide, decide_eq_true_eq, toNat_zeroExtend64, BitVec.toNat_allOnes]
      omega
    | false => exact hfits (by decide) rfl
  | max => cases uns <;> exact hfits (by decide) rfl

/-- The low words of a fold's steps are the steps on 32-bit values. -/
theorem lo32_foldl_foldStep (op : IntFold) (uns : Bool) (x : W32) (xs : List W32) :
    lo32 ((xs.map (fun y => y.zeroExtend 64)).foldl (foldStep false op uns) (x.zeroExtend 64)) = xs.foldl (foldInt op uns) x := by
  rw [List.foldl_map]
  by_cases hop : op = .add
  · subst hop
    rw [← List.foldl_hom lo32 (g₂ := foldInt .add uns), lo32_zeroExtend]
    intro t y
    exact (congrArg (lo32 t + ·) (lo32_zeroExtend y).symm).trans (BitVec.setWidth_add (i := 32) t (y.zeroExtend 64) (by decide)).symm
  · rw [List.foldl_hom (fun y : W32 => y.zeroExtend 64) (g₁ := foldInt op uns), lo32_zeroExtend]
    exact fun y z => foldStep_zeroExtend hop uns y z

theorem lo32_intReduce_narrow (op : IntFold) (uns : Bool) (xs : List W32) :
    lo32 (intReduce false op uns (xs.map (fun x => x.zeroExtend 64))) = (foldList (foldInt op uns) xs).getD (identityOf 32 op uns) := by
  cases xs with
  | nil => cases op <;> cases uns <;> decide
  | cons x xs =>
    rw [intReduce, List.map_cons, List.foldl_cons, foldStep_identity_narrow, lo32_foldl_foldStep]
    rfl

/-! ### wscan and wred -/

/-- wscan and wred, with the lanes of its segment that a lane takes (R173). -/
def scans (o : ScanForm) : List (Instr × (Nat → Nat → Bool)) :=
  [(.wscan o, fun l j => if o.exc then decide (j < l) else decide (j ≤ l)), (.wred o, fun _ _ => true)]

theorem exec_scans (o : ScanForm) : ∀ p ∈ scans o, ∀ s, exec p.1 s = .next (s.mapWave p.1 (fun e =>
    .done (e.it.writeDest o.d (wideDest o.w64 (intReduce o.w64 o.op o.uns
      (((s.takers p.1).filter (fun q => q.lane / 2 ^ o.seg.toNat == e.lane / 2 ^ o.seg.toNat && p.2 e.lane q.lane)).map
        (fun q => q.wideA o.toForm o.w64))))))) := by
  simp only [scans, List.forall_mem_cons, List.not_mem_nil, false_implies, implies_true, and_true, Bool.and_true]
  refine ⟨fun s => ?_, fun s => rfl⟩
  simp only [Bool.and_comm (x := _ == _), ← List.filter_filter]
  rfl

/-- The write of a fold of the values of some participants, in the width of the form. -/
theorem writeDest_scan (it : Item) (o : ScanForm) (es : List Env) :
    it.writeDest o.d (wideDest o.w64 (intReduce o.w64 o.op o.uns (es.map (fun q => q.wideA o.toForm o.w64)))) =
      if o.w64 then it.writeV2 o.d ((foldList (foldInt o.op o.uns) (es.map (fun e => e.it.readV2 o.a))).getD (identityOf 64 o.op o.uns))
      else it.writeV o.d ((foldList (foldInt o.op o.uns) (es.map (fun e => e.it.readV o.a))).getD (identityOf 32 o.op o.uns)) := by
  cases hw : o.w64 with
  | true =>
    simp only [wideDest, Env.wideA, if_true, intReduce_wide, Item.writeDest]
  | false =>
    have := lo32_intReduce_narrow o.op o.uns (es.map (fun e => e.it.readV o.a))
    rw [List.map_map] at this
    simp only [wideDest, Env.wideA, Item.writeDest, Bool.false_eq_true, if_false, ← this]
    rfl

theorem scan_completes {s : State} {g : Group} {o : ScanForm} (hp : Plain s g) (hw : OneWindow s) : ∀ p ∈ scans o, Admits s g p.1 →
    exec p.1 s = .next (s.after g (fun e => e.under p.1 Env.nextPc (fun e =>
      if o.w64 then
        e.it.writeV2 o.d ((foldList (foldInt o.op o.uns) (s.segment g p.1 (2 ^ o.seg.toNat) (e.slot % 32) (p.2 (e.slot % 32))
          (fun q => q.readV2 o.a))).getD (identityOf 64 o.op o.uns))
      else
        e.it.writeV o.d ((foldList (foldInt o.op o.uns) (s.segment g p.1 (2 ^ o.seg.toNat) (e.slot % 32) (p.2 (e.slot % 32))
          (fun q => q.readV o.a))).getD (identityOf 32 o.op o.uns))))) := by
  intro p hmem ha
  rw [exec_scans o p hmem, State.mapWave_done hp ha _ (fun _ => by simp)]
  simp only [writeDest_scan, State.segment_eq_map hp hw ha (fun q => q.readV2 o.a) (fun _ => rfl),
    State.segment_eq_map hp hw ha (fun q => q.readV o.a) (fun _ => rfl)]
  rfl

/-! ### wfred -/

theorem getLsbD_of_field_eq_zero {w : Nat} {x : BitVec w} {hi lo : Nat} (h : field x hi lo = 0) {n : Nat} (hlo : lo ≤ n) (hhi : n ≤ hi) :
    x.getLsbD n = false := by
  have hbit : (field x hi lo).testBit (n - lo) = x.getLsbD n := by
    rw [field, Nat.testBit_mod_two_pow, Nat.testBit_div_two_pow, Nat.sub_add_cancel hlo, decide_eq_true (by omega), Bool.true_and]
    rfl
  rw [← hbit, h, Nat.zero_testBit]

/-- With every enable of FPCTL clear no floating flag traps (R46). -/
theorem fpTrap_of_disabled {fpctl : W32} (h : field fpctl 13 8 = 0) (es : List ElemFlags) : fpTrap fpctl es = none := by
  have henables : ∀ p ∈ trapOrder, 8 ≤ p.2.1 ∧ p.2.1 ≤ 13 := by
    simp only [trapOrder, List.forall_mem_cons, List.not_mem_nil, false_implies, implies_true, and_true]
    decide
  rw [fpTrap_eq_find, Option.map_eq_none_iff, List.find?_eq_none]
  intro p hp
  obtain ⟨hlo, hhi⟩ := henables p hp
  simp [getLsbD_of_field_eq_zero h hlo hhi]

theorem chosenTrap_of_disabled {it : Item} (h : field it.fpctl 13 8 = 0) {out : Out} (hd : out.idiv = none) : it.chosenTrap out = none := by
  simp [Item.chosenTrap, hd, idivTrap, fpTrap_of_disabled h]

theorem lo32_ofNat (n : Nat) : lo32 (BitVec.ofNat 64 n) = BitVec.ofNat 32 n := by
  simp [lo32]

/-- The result of a floating reduction: its value in D, its flags in FPSTAT. -/
theorem Env.result_float (e : Env) (o : Form) (wide : Bool) (r : FRes) :
    e.result o { Out.of (wideDest wide (BitVec.ofNat 64 r.bits)) with elems := [⟨r.flags, r.snan⟩] } =
      ({ e.it with fpstat := e.it.fpstat ||| r.flags } : Item).writeDest o.d
        (if wide then .w2 (BitVec.ofNat 64 r.bits) else .w (BitVec.ofNat 32 r.bits)) := by
  cases wide <;> simp [Env.result, Out.of, Item.raise, wideDest, lo32_ofNat]

theorem toNat_wideA (e : Env) (o : Form) (wide : Bool) :
    (e.wideA o wide).toNat = if wide then (e.it.readV2 o.a).toNat else (e.it.readV o.a).toNat := by
  cases wide with
  | true => rfl
  | false => exact toNat_zeroExtend64 (e.it.readV o.a)

theorem wfred_completes {s : State} {g : Group} {o : FloatScanForm} (hp : Plain s g) (hw : OneWindow s) (ha : Admits s g (.wfred o))
    (hctl : ∀ q ∈ g.items, s.wave.slots.contains q.1 = true → field q.2.fpctl 13 8 = 0) :
    exec (.wfred o) s = .next (s.after g (fun e => e.under (.wfred o) Env.nextPc (fun e =>
      let r := floatReduce (if o.f64 then fp64 else fp32) o.op (s.segment g (.wfred o) (2 ^ o.seg.toNat) (e.slot % 32) (fun _ => true)
        (fun q => if o.f64 then (q.readV2 o.a).toNat else (q.readV o.a).toNat))
      ({ e.it with fpstat := e.it.fpstat ||| r.flags } : Item).writeDest o.d
        (if o.f64 then .w2 (BitVec.ofNat 64 r.bits) else .w (BitVec.ofNat 32 r.bits))))) := by
  simp only [State.segment_eq_map hp hw ha (fun q => if o.f64 then (q.readV2 o.a).toNat else (q.readV o.a).toNat) (fun _ => rfl),
    Bool.and_true, ← toNat_wideA _ o.toForm o.f64, ← Env.result_float]
  refine congrArg Host.Outcome.next (State.mapWave_under hp ha _ Env.nextPc _ (fun _ => by simp) fun q hq hs => ?_)
  rw [Env.applyOut_of_none (chosenTrap_of_disabled (it := (s.envOf g q.1 q.2).it) (hctl q hq hs) rfl)]
  rfl

/-- Settles O23: the values that a form folds are those of the segment, and the model's fold from the identity is the fold of the values. -/
theorem scansAndReductions : Obligations.ScansAndReductions :=
  ⟨fun _ _ _ hp hw _ => scan_completes hp hw, fun _ _ _ hp hw _ => wfred_completes hp hw⟩

end Sys2Proof.Machine
end

section
/-! PROOFS. The integer forms in the vector frame (03 R61, 09 R179 to R191): the results of the 42 forms, bit fields bit by bit, carry chains, and
divisions with the trap that each item's own ICTL enables. -/

namespace Sys2Proof.Machine

/-! ### Results without a trap -/

theorem Item.chosenTrap_integer (it : Item) (r : Dest × BitVec 3) : it.chosenTrap (Out.integer r) = none :=
  Item.chosenTrap_quiet it rfl rfl

theorem Env.result_integer (e : Env) (o : Form) (r : Dest × BitVec 3) :
    e.result o (Out.integer r) = ({ e.it with istat := e.it.istat ||| r.2 } : Item).writeDest o.d r.1 := by
  rw [← Item.raise_integer]
  rfl

/-- Settles O4: each integer form is the arithmetic frame over its rule's value, which in the vector frame each member writes to its own D. -/
theorem integerResults_complete : Obligations.IntegerResults := by
  intro s g o k lit pos len c hp hm p hmem ha
  rw [exec_integerResults o k lit pos len c p hmem,
    State.arith_plain hp ha hm _ fun _ _ _ _ => Item.chosenTrap_integer _ _]
  simp only [Env.result_integer]

/-! ### Bit fields (R185, R186) -/

theorem getLsbD_bitField (a : W32) (pos len : Nat) {n : Nat} (hn : n < 32) :
    (bitField a pos len).getLsbD n = (decide (n < len) && a.getLsbD (pos + n)) := by
  rw [bitField, BitVec.getLsbD_ofNat, Nat.testBit_mod_two_pow, Nat.testBit_div_two_pow, decide_eq_true hn, Bool.true_and, Nat.add_comm]
  rfl

/-- The field at the top of the word, shifted down with its sign. -/
theorem getLsbD_bitFieldSigned (a : W32) {pos len n : Nat} (hlen : 1 ≤ len) (hfit : pos + len ≤ 32) (hn : n < 32) :
    (bitFieldSigned a pos len).getLsbD n = if n < len then a.getLsbD (pos + n) else a.getLsbD (pos + len - 1) := by
  rw [bitFieldSigned, BitVec.getLsbD_sshiftRight, BitVec.msb_eq_getLsbD_last, BitVec.getLsbD_shiftLeft, BitVec.getLsbD_shiftLeft]
  by_cases h : n < len
  · have hbit : 32 - len + n < 32 := by omega
    have hshift : ¬ 32 - len + n < 32 - pos - len := by omega
    have hpos : 32 - len + n - (32 - pos - len) = pos + n := by omega
    simp [h, hn, hbit, hshift, hpos]
  · have hsign : ¬ 32 - len + n < 32 := by omega
    have hshift : ¬ 31 < 32 - pos - len := by omega
    have hpos : 31 - (32 - pos - len) = pos + len - 1 := by omega
    simp [h, hn, hsign, hshift, hpos]

/-- The mask of a field: ones from POS to POS + LEN - 1. -/
theorem getLsbD_fieldMask (pos len : Nat) {n : Nat} (hn : n < 32) :
    (BitVec.ofNat 32 ((2 ^ len - 1) * 2 ^ pos)).getLsbD n = decide (pos ≤ n ∧ n < pos + len) := by
  rw [BitVec.getLsbD_ofNat, Nat.testBit_mul_two_pow, Nat.testBit_two_pow_sub_one, Bool.eq_iff_iff]
  simp only [Bool.and_eq_true, decide_eq_true_eq]
  omega

theorem getLsbD_bitInsert (a b : W32) (pos len : Nat) {n : Nat} (hn : n < 32) :
    (bitInsert a b pos len).getLsbD n = if pos ≤ n ∧ n < pos + len then b.getLsbD (n - pos) else a.getLsbD n := by
  simp only [bitInsert, BitVec.getLsbD_or, BitVec.getLsbD_and, BitVec.getLsbD_not, getLsbD_fieldMask pos len hn, BitVec.getLsbD_shiftLeft,
    decide_eq_true hn, Bool.true_and]
  by_cases h : pos ≤ n ∧ n < pos + len <;> simp [h]

/-- Settles O6: the field is a quotient and a remainder by powers of two, a shift to the top and back, and a choice by a mask. -/
theorem bitFieldMeaning : Obligations.BitFieldMeaning := fun a b pos len _ hlen hfit hn =>
  ⟨getLsbD_bitField a pos len hn, getLsbD_bitFieldSigned a hlen hfit hn, getLsbD_bitInsert a b pos len hn⟩

/-! ### Carry chains (R188) -/

theorem carry_result (e : Env) (o : Form) (x : W32) (b : Bool) :
    e.result o { Out.w x with pred := some (o.c, b) } = (e.it.writeV o.d x).writeP o.c b := by
  simp only [Env.result, Item.raise_quiet e.it (out := { Out.w x with pred := some (o.c, b) }) rfl rfl]
  rfl

/-- Settles O7: neither form has a flag or a trap, and each writes D and then p[C]. -/
theorem carryChain : Obligations.CarryChain := by
  intro s g o hp hm
  refine ⟨fun ha => ?_, fun ha => ?_⟩
  · show Host.Outcome.next (s.arith (.addc o) o fun e => carryAdd (e.opA o) (e.opB o) o.c (e.it.readP o.c)) = _
    rw [State.arith_plain hp ha hm _ fun _ _ _ _ => Item.chosenTrap_quiet _ rfl rfl]
    simp only [carryAdd, carry_result]
    rfl
  · show Host.Outcome.next (s.arith (.subb o) o fun e => borrowSub (e.opA o) (e.opB o) o.c (e.it.readP o.c)) = _
    rw [State.arith_plain hp ha hm _ fun _ _ _ _ => Item.chosenTrap_quiet _ rfl rfl]
    simp only [borrowSub, carry_result, boolNat, Nat.cast_ite, Nat.cast_one, Nat.cast_zero]

/-! ### Divisions (R184) -/

/-- The item after a result: it completes, or its flags are raised and it enters its handler for the trap that its own enables choose. -/
def Env.ended (e : Env) (i : Instr) (o : Form) (h : W64) (out : Out) : Item :=
  (e.it.chosenTrap out).elim (e.on i e.nextPc (e.result o out)) (e.entered (e.it.raise out) h)

theorem Env.ended_of_none {e : Env} {i : Instr} {o : Form} {h : W64} {out : Out} (ht : e.it.chosenTrap out = none) :
    e.ended i o h out = e.on i e.nextPc (e.result o out) := by rw [Env.ended, ht, Option.elim_none]

theorem Env.ended_of_some {e : Env} {i : Instr} {o : Form} {h : W64} {out : Out} {t : Trap} (ht : e.it.chosenTrap out = some t) :
    e.ended i o h out = e.entered (e.it.raise out) h t := by rw [Env.ended, ht, Option.elim_some]

@[simp] theorem Env.ended_fatal (e : Env) (i : Instr) (o : Form) (h : W64) (out : Out) : (e.ended i o h out).fatal = e.it.fatal := by
  cases ht : e.it.chosenTrap out with
  | none => rw [Env.ended_of_none ht, Env.on_fatal, Env.result_fatal]
  | some t => rw [Env.ended_of_some ht]; rfl

@[simp] theorem Env.ended_consumed (e : Env) (i : Instr) (o : Form) (h : W64) (out : Out) : (e.ended i o h out).consumed = e.it.consumed := by
  cases ht : e.it.chosenTrap out with
  | none => rw [Env.ended_of_none ht, Env.on_consumed, Env.result_consumed]
  | some t => rw [Env.ended_of_some ht]; rfl

/-- An item with a handler, outside it and with no window open, traps at once where its result chooses a trap. -/
theorem Env.close_applyOut {e : Env} {i : Instr} {h : W64} (hlead : e.it.windows = []) (hh : e.handler = some h) (hin : e.it.inHandler = false)
    (o : Form) (out : Out) : e.close (shapeOf i) (e.applyOut o out) = e.ended i o h out := by
  cases ht : e.it.chosenTrap out with
  | none =>
    rw [Env.applyOut_of_none ht, Env.ended_of_none ht]
    rfl
  | some t =>
    rw [Env.ended_of_some ht]
    simp only [Env.applyOut, ht]
    exact Env.close_trap hlead hh hin rfl

/-- The vector frame over a plain wave whose members may trap: each member with a true guard ends by itself. -/
theorem State.arith_ended {s : State} {g : Group} (hp : Plain s g) {i : Instr} (ha : Admits s g i) {o : Form} (hm : o.m = 0 ∨ o.m = 1) {h : W64}
    (hh : s.handlerOf g.kh = some h) (hout : ∀ q ∈ g.items, q.2.inHandler = false ∧ q.2.windows = []) (f : Env → Out) :
    s.arith i o f = s.after g (fun e => if e.it.guard (shapeOf i).form.g then e.ended i o h (f e) else e.on i e.nextPc e.it) := by
  have hvector : ¬ (o.m = 2 || o.m = 3) = true := by rcases hm with hm | hm <;> simp [hm]
  rw [State.arith, if_neg hvector]
  refine State.mapWave_plain hp ha _ (fun e => e.ended i o h (f e)) fun q hq _ _ => ⟨?_, ?_⟩
  · obtain ⟨hin, hlead⟩ := hout q hq
    exact Env.close_applyOut (e := s.envOf g q.1 q.2) hlead hh hin o _
  · rw [Env.ended_fatal, Env.ended_consumed]
    exact hp.clear q hq

/-- KIND of the division trap (R184): 0 for a zero divisor, 1 for -2^31 by -1. -/
def divisionKind (signed : Bool) (a b : W32) : Option Nat :=
  if b = 0 then some 0 else if signed && a == 0x80000000 && b == 0xFFFFFFFF then some 1 else none

theorem divide_eq (signed quot : Bool) (a b : W32) :
    divide signed quot a b = { Out.w (quotient32 signed quot a b) with ist := divisionFlag signed a b, idiv := divisionKind signed a b } := by
  unfold divide quotient32 divisionFlag divisionKind
  repeat' split
  all_goals rfl

theorem Item.raise_divide (it : Item) (signed quot : Bool) (a b : W32) :
    it.raise (divide signed quot a b) = { it with istat := it.istat ||| divisionFlag signed a b } := by
  simp [divide_eq, Item.raise, Out.w, Out.of]

theorem Env.result_divide (e : Env) (o : Form) (signed quot : Bool) (a b : W32) :
    e.result o (divide signed quot a b) =
      ({ e.it with istat := e.it.istat ||| divisionFlag signed a b } : Item).writeV o.d (quotient32 signed quot a b) := by
  rw [← Item.raise_divide e.it signed quot a b, divide_eq]
  rfl

theorem Item.chosenTrap_of_no_elems (it : Item) {out : Out} (h : out.elems = []) : it.chosenTrap out = idivTrap it.ictl out.idiv := by
  unfold Item.chosenTrap
  split
  next t ht => exact ht.symm
  next ht => simp [ht, h, fpTrap]

/-- The trap of a division is the one that the item's own ICTL enables (R184, R193). -/
theorem Env.chosenTrap_divide (e : Env) (signed quot : Bool) (a b : W32) :
    e.it.chosenTrap (divide signed quot a b) =
      if divisionTraps e signed a b then some { cause := causeIdiv, addr := 0, info := if b = 0 then 0 else 1 } else none := by
  rw [divide_eq, Item.chosenTrap_of_no_elems _ rfl]
  by_cases hb : b = 0
  · simp [divisionKind, divisionTraps, idivTrap, hb]
  · have htraps : divisionTraps e signed a b = ((signed && a == 0x80000000 && b == 0xFFFFFFFF) && e.it.ictl.getLsbD 1) := by
      have hne : (b == 0) = false := beq_eq_false_iff_ne.2 hb
      rw [divisionTraps, bne, hne, Bool.false_and, Bool.false_or, Bool.not_false, Bool.true_and]
    rw [htraps, divisionKind, if_neg hb, if_neg hb]
    cases (signed && a == 0x80000000 && b == 0xFFFFFFFF) <;> rfl

/-- A division that its item's ICTL does not trap completes with its flag and value; the other one raises its flag and enters the handler. -/
theorem Env.ended_divide (e : Env) (i : Instr) (o : Form) (h : W64) (signed quot : Bool) (a b : W32) :
    e.ended i o h (divide signed quot a b) =
      if divisionTraps e signed a b then
        e.entered { e.it with istat := e.it.istat ||| divisionFlag signed a b } h { cause := causeIdiv, addr := 0, info := if b = 0 then 0 else 1 }
      else
        e.on i e.nextPc (({ e.it with istat := e.it.istat ||| divisionFlag signed a b } : Item).writeV o.d (quotient32 signed quot a b)) := by
  have htrap := Env.chosenTrap_divide e signed quot a b
  by_cases ht : divisionTraps e signed a b = true
  · rw [if_pos ht] at htrap ⊢
    rw [Env.ended_of_some htrap, Item.raise_divide]
  · rw [if_neg ht] at htrap ⊢
    rw [Env.ended_of_none htrap, Env.result_divide]

/-- Each division is the arithmetic frame over `divide`, under the guard of its form. -/
theorem exec_divisions (o : Form) : ∀ p ∈ divisions o, (shapeOf p.1).form.g = o.g ∧
    ∀ s, exec p.1 s = .next (s.arith p.1 o (fun e => divide p.2.1 p.2.2 (e.opA o) (e.opB o))) := by
  simp only [divisions, List.forall_mem_cons, List.not_mem_nil, false_implies, implies_true, and_true]
  exact ⟨⟨rfl, fun _ => rfl⟩, ⟨rfl, fun _ => rfl⟩, ⟨rfl, fun _ => rfl⟩, ⟨rfl, fun _ => rfl⟩⟩

theorem Env.Passes.owed {e : Env} {i : Instr} {badS : List Nat} (h : e.Passes i badS) : e.it.owed = none := by
  cases ho : e.it.owed with
  | none => rfl
  | some t => simp [Env.Passes, Env.gate, ho] at h

/-- TakeTrap of an item with no window, no wait and no trap owed (R412). -/
theorem Env.entered_of_idle {e : Env} {it : Item} (hwindows : it.windows = []) (hwait : it.wait = .none) (howed : it.owed = none) (h : W64)
    (t : Trap) : e.entered it h t =
      { it with
        trapCause := 0x80000000#32 ||| BitVec.ofNat 32 (256 * e.ilen) ||| BitVec.ofNat 32 t.cause
        trapPc := e.it.pc
        trapAddr := t.addr
        trapInfo := t.info
        pc := h
        joined := 4096 * e.now
        issued := false
        got := none } := by
  simp [Env.entered, hwindows, hwait, howed]

/-- Settles O8: each division is `divide` in the arithmetic frame, whose trap is the one that the item's own ICTL enables. -/
theorem divisions_complete_or_trap : Obligations.Divisions := by
  refine ⟨fun s g o hp hm p hmem ha hquiet => ?_, fun s g o h hp hm hh p hmem ha hout => ?_⟩
  · obtain ⟨-, hexec⟩ := exec_divisions o p hmem
    rw [hexec, State.arith_plain hp ha hm _ fun q hq hs _ => by rw [Env.chosenTrap_divide, hquiet q hq hs]; rfl]
    simp only [Env.result_divide]
  · obtain ⟨hguard, hexec⟩ := exec_divisions o p hmem
    rw [hexec, State.arith_ended hp ha hm hh hout]
    refine congrArg Host.Outcome.next (State.after_congr hp.group fun q hq hs => ?_)
    have howed : (s.envOf g q.1 q.2).it.owed = none := (ha q hq hs).owed
    have hwindows : (s.envOf g q.1 q.2).it.windows = [] := (hout q hq).2
    simp only [Env.ended_divide, Env.under, hguard]
    by_cases hg : (s.envOf g q.1 q.2).it.guard o.g = true
    · rw [if_pos hg, if_pos hg, hg, Bool.true_and]
      refine if_congr Iff.rfl (Env.entered_of_idle ?_ ?_ ?_ h _) rfl
      exacts [hwindows, rfl, howed]
    · rw [if_neg hg, if_neg hg, if_neg (by simp [hg])]

end Sys2Proof.Machine
end

section
/-! PROOFS. Results of the floating forms (10 R200, 02 R46): their width, flags and trap, and the one precision that has no width of its own. -/

namespace Sys2Proof.Machine

/-! ### A floating result of an item -/

theorem Item.raise_float (it : Item) {out : Out} (h : out.ist = 0) :
    it.raise out = { it with fpstat := it.fpstat ||| raisedFlags out.elems } := by
  simp [Item.raise, raisedFlags, h]

theorem Env.result_eq_floated (e : Env) (o : Form) {out : Out} (h : out.ist = 0) : e.result o out = e.floated o out := by
  rw [Env.result, e.it.raise_float h]
  rfl

theorem Item.chosenTrap_float (it : Item) {out : Out} (h : out.idiv = none) : it.chosenTrap out = fpTrap it.fpctl out.elems := by
  rw [Item.chosenTrap, h]
  rfl

/-! ### The results of chapter 10 -/

/-- A result of `n` words, 0 for a predicate, with its side predicate and no integer flag. -/
def FloatOut (n : Nat) (side : Option (BitVec 7)) (out : Out) : Prop :=
  out.dest.words = n ∧ out.pred.map Prod.fst = side ∧ out.ist = 0 ∧ out.idiv = none

theorem floatOut_packResults (p : Prec) (rs : List FRes) : FloatOut (precWords p) none (packResults p rs) := by
  cases p <;> exact ⟨rfl, rfl, rfl, rfl⟩

theorem floatOut_mxScale (x : Nat) : FloatOut 1 none (mxScale x) := by
  unfold mxScale
  repeat' split
  all_goals exact ⟨rfl, rfl, rfl, rfl⟩

theorem floatOut_mxQuantise (rm : Nat) (qs : List Nat) (X : Nat) : FloatOut 1 none (mxQuantise rm qs X) := by
  simp only [mxQuantise]
  split_ifs
  all_goals exact ⟨rfl, rfl, rfl, rfl⟩

theorem floatOut_mxDequantise (rm a X n : Nat) : FloatOut 4 none (mxDequantise rm a X n) := by
  unfold mxDequantise
  split
  all_goals exact ⟨rfl, rfl, rfl, rfl⟩

/-- f16pack packs in a 16-bit precision (R211). -/
theorem f16pack_prec_of_wellFormed {o : PackForm} (h : (Instr.f16pack o).wellFormed = true) : o.prec ≠ .f64 := by
  intro hp
  simp [Instr.wellFormed, hp] at h

/-- Every well-formed form of chapter 10 is the arithmetic frame over a result of its own width. -/
theorem exec_floatForm {i : Instr} {n : Nat} (hi : floatWords i = some n) (hwf : i.wellFormed = true) :
    ∃ out, (∀ s, exec i s = .next (s.arith i (shapeOf i).form out)) ∧ FloatResult i n out := by
  cases i with
  | fadd o | fsub o | fmul o | fmin o | fmax o | fdiv o | fsqrt o | fma o | fms o | fnma o | fnms o | fneg o | fabs o | fsgnj o | fsgnjn o
  | fsgnjx o | fexp2 o | flog2 o | fsin o | fcos o | frcp o | frsq o | fscale o | fgetexp o | fgetman o | fminnm o | fmaxnm o | icvtf o
  | frint o | icvtfl o | fcvt o | fjoin o | fdot2 o | fdot4 o | faddl o | fmull o | fmal o =>
    cases hi
    exact ⟨_, fun _ => rfl, fun _ => floatOut_packResults _ _⟩
  | f16pack o =>
    cases hi
    have hword : precWords o.prec = 1 := if_neg (f16pack_prec_of_wellFormed hwf)
    exact ⟨_, fun _ => rfl, fun _ => hword ▸ floatOut_packResults _ _⟩
  | fcmp o | fclass o | fcvti o | fcvtil o | f8pack o | f8unpack o | f16unpack o | xe3m2 o | xe2m3 o | xint4 o | fsplit o =>
    cases hi
    exact ⟨_, fun _ => rfl, fun _ => ⟨rfl, rfl, rfl, rfl⟩⟩
  | mxq o =>
    cases hi
    exact ⟨_, fun _ => rfl, fun _ => floatOut_mxQuantise _ _ _⟩
  | mxdq o =>
    cases hi
    exact ⟨_, fun _ => rfl, fun _ => floatOut_mxDequantise _ _ _ _⟩
  | mxscale o =>
    cases hi
    exact ⟨_, fun _ => rfl, fun _ => floatOut_mxScale _⟩
  | _ => simp [floatWords] at hi

/-! ### Completion and traps -/

section
variable {s : State} {g : Group} {i : Instr} {n : Nat} (hp : Plain s g) (hi : floatWords i = some n) (hwf : i.wellFormed = true)
  (hm : (shapeOf i).form.m = 0 ∨ (shapeOf i).form.m = 1) (ha : Admits s g i)
include hp hi hwf hm ha

/-- With no trap enabled every member with a true guard takes its result (R200). -/
theorem floatForm_completes (hctl : ∀ q ∈ g.items, s.wave.slots.contains q.1 = true → field q.2.fpctl 13 8 = 0) :
    ∃ out, FloatResult i n out ∧ exec i s = .next (s.after g (fun e => e.under i Env.nextPc (fun e => e.floated (shapeOf i).form (out e)))) := by
  obtain ⟨out, hexec, hout⟩ := exec_floatForm hi hwf
  refine ⟨out, hout, ?_⟩
  have hresult : ∀ e : Env, e.result (shapeOf i).form (out e) = e.floated (shapeOf i).form (out e) := fun e =>
    let ⟨_, _, hist, _⟩ := hout e
    e.result_eq_floated _ hist
  rw [hexec, State.arith_plain hp ha hm out fun q hq hs _ =>
    let ⟨_, _, _, hidiv⟩ := hout (s.envOf g q.1 q.2)
    chosenTrap_of_disabled (hctl q hq hs) hidiv]
  simp only [hresult]

/-- With any enables each member with a true guard completes or traps as its own enables choose (R46, R412). -/
theorem floatForm_completes_or_traps {h : W64} (hh : s.handlerOf g.kh = some h)
    (hout : ∀ q ∈ g.items, q.2.inHandler = false ∧ q.2.windows = []) :
    ∃ out, FloatResult i n out ∧ exec i s = .next (s.after g (fun e =>
      match e.it.guard (shapeOf i).form.g, fpTrap e.it.fpctl (out e).elems with
      | true, some t => e.entered { e.it with fpstat := e.it.fpstat ||| raisedFlags (out e).elems } h t
      | _, _ => e.under i Env.nextPc (fun e => e.floated (shapeOf i).form (out e)))) := by
  obtain ⟨out, hexec, hres⟩ := exec_floatForm hi hwf
  refine ⟨out, hres, ?_⟩
  rw [hexec, State.arith_ended hp ha hm hh hout]
  refine congrArg (fun f => Host.Outcome.next (s.after g f)) (funext fun e => ?_)
  obtain ⟨-, -, hist, hidiv⟩ := hres e
  have htrap := e.it.chosenTrap_float hidiv
  cases hg : e.it.guard (shapeOf i).form.g with
  | false => simp [Env.under, hg]
  | true =>
    cases ht : fpTrap e.it.fpctl (out e).elems with
    | none => simp [Env.under, hg, Env.ended_of_none (htrap.trans ht), Env.result_eq_floated _ _ hist]
    | some t => simp [Env.ended_of_some (htrap.trans ht), Item.raise_float _ hist]

end

/-! ### f16pack of FP64 -/

theorem Item.readV_writeV_ne (it : Item) {d n : BitVec 7} (h : n ≠ d) (x : W32) : (it.writeV d x).readV n = it.readV n :=
  Vector.getElem_set_ne d.isLt n.isLt fun heq => h (BitVec.eq_of_toNat_eq heq.symm)

/-- A result of one word leaves every register but D. -/
theorem Env.readV_floated_ne (e : Env) (o : Form) {out : Out} (hw : out.dest.words = 1) {n : BitVec 7} (hn : n ≠ o.d) :
    (e.floated o out).readV n = e.it.readV n := by
  have hdest : ∀ it : Item, (it.writeDest o.d out.dest).readV n = it.readV n := by
    intro it
    cases hd : out.dest with
    | w x => exact it.readV_writeV_ne hn x
    | p b => rw [hd] at hw; cases hw
    | w2 x => rw [hd] at hw; cases hw
    | w4 x => rw [hd] at hw; cases hw
  unfold Env.floated
  cases out.pred with
  | none => exact hdest _
  | some q => exact hdest _

/-- The member of a slot after a form. -/
theorem State.item?_after {s : State} {g : Group} (hg : s.group? s.wave.gid = some g) (f : Env → Item) {k : Nat} {it : Item}
    (hit : Table.get? g.items k = some it) (hk : s.wave.slots.contains k = true) :
    (s.after g f).item? s.wave.gid k = some (f (s.envOf g k it)) := by
  simp only [State.item?, State.after, State.group?_modGroup_self, hg, Option.map_some, Option.bind_some, Table.get?_mapAll_some hit, hk, if_true]

/-- f16pack at FP64, which R211 does not give it. -/
def packWide : Instr := .f16pack { formOf 8 4 5 0 with rnd := .dynamic, prec := .f64, e5m2 := false, sat := false }

theorem decode_ne_packWide (w0 w1 w2 : W32) : decode w0 w1 w2 ≠ .ok packWide := fun h =>
  absurd (decoderChecks.1 w0 w1 w2 packWide h).1 (by decide)

/-- An item that packs 1.0, with 27 in v9. -/
def packItem : Item := itemOf 0x3F800000 0x40000000 0 0
def packGroup : Group := benchGroup [(0, packItem)]

def packEnv : Env := (bench 2 packGroup).envOf packGroup 0 packItem

/-- The model widens 1.0 to FP64 and writes the pair v8:v9. -/
theorem ranAs_packWide : (ranAs 2 packGroup packWide).map (fun it => it.readV 9) = some 0x3FF00000 := by decide +kernel

/-- Refutes O9: f16pack at FP64, which the statement takes for a form of one word, writes v9 beside its D, v8. For the instructions that words
decode to, both parts hold (floatForm_completes, floatForm_completes_or_traps). -/
theorem not_floatResults : ¬ Obligations.FloatResults := by
  rintro ⟨hcompletes, -⟩
  have hp : Plain (bench 2 packGroup) packGroup := plain_bench 2 packGroup rfl rfl (by unfold Group.Clear; decide)
  have ha : Admits (bench 2 packGroup) packGroup packWide := by unfold Admits Env.Passes; decide +kernel
  obtain ⟨out, hres, hexec⟩ := hcompletes _ _ packWide 1 hp rfl (.inl rfl) ha (by decide +kernel)
  obtain ⟨hwords, -⟩ := hres packEnv
  have hran : ranAs 2 packGroup packWide =
      some (packEnv.on packWide packEnv.nextPc (packEnv.floated (shapeOf packWide).form (out packEnv))) := by
    rw [ranAs, hexec]
    exact State.item?_after hp.group _ (k := 0) (it := packItem) rfl rfl
  have hkept : (packEnv.floated (shapeOf packWide).form (out packEnv)).readV 9 = 27 := packEnv.readV_floated_ne _ hwords (by decide)
  have hwritten := ranAs_packWide
  rw [hran] at hwritten
  exact absurd (hkept.symm.trans (Option.some_inj.1 hwritten)) (by decide)

end Sys2Proof.Machine
end

section
/-! PROOFS. The sign forms (10 R206): bit by bit, each copies an operand but for the sign bits of its elements. -/

namespace Sys2Proof.Machine

/-! ### The bits of an element -/

theorem signOf_eq_testBit (F : Fmt) (x : Nat) : signOf F x = x.testBit F.signBit := by
  rw [signOf, Nat.testBit_eq_decide_div_mod_eq]

theorem testBit_withSign (F : Fmt) (x : Nat) (s : Bool) (i : Nat) :
    (withSign F x s).testBit i = if i = F.signBit then s else decide (i < F.signBit) && x.testBit i := by
  have hmod : x % 2 ^ F.signBit < 2 ^ F.signBit := Nat.mod_lt _ (Nat.two_pow_pos _)
  have hbit : (if s then 2 ^ F.signBit else 0) = 2 ^ F.signBit * s.toNat := by cases s <;> simp
  rw [withSign, hbit, Nat.add_comm, Nat.testBit_two_pow_mul_add _ hmod]
  rcases lt_trichotomy i F.signBit with hlt | rfl | hgt
  · rw [if_pos hlt, if_neg hlt.ne, Nat.testBit_mod_two_pow]
  · cases s <;> simp
  · rw [if_neg hgt.not_gt, if_neg hgt.ne', decide_eq_false hgt.not_gt, Bool.false_and, Nat.testBit_bool_toNat,
      decide_eq_false (by omega), Bool.false_and]

/-- An element whose sign is `σ` of its own and another's. -/
def signedElem {w : Nat} (F : Fmt) (σ : Bool → Bool → Bool) (x y : BitVec w) : BitVec w :=
  BitVec.ofNat w (withSign F x.toNat (σ (signOf F x.toNat) (signOf F y.toNat)))

theorem getLsbD_signedElem {w : Nat} {F : Fmt} (hF : F.signBit + 1 = w) (σ : Bool → Bool → Bool) (x y : BitVec w) {i : Nat} (hi : i < w) :
    (signedElem F σ x y).getLsbD i = if i + 1 = w then σ (x.getLsbD i) (y.getLsbD i) else x.getLsbD i := by
  rw [signedElem, BitVec.getLsbD_ofNat, testBit_withSign, signOf_eq_testBit, signOf_eq_testBit, decide_eq_true hi, Bool.true_and]
  by_cases htop : i = F.signBit
  · rw [if_pos htop, if_pos (by omega), htop]
    rfl
  · rw [if_neg htop, if_neg (by omega), decide_eq_true (by omega), Bool.true_and]
    rfl

theorem getLsbD_lo32 (x : W64) {i : Nat} (hi : i < 32) : (lo32 x).getLsbD i = x.getLsbD i := by
  simp [lo32, hi]

theorem getLsbD_half (x : W32) (k : Nat) {i : Nat} (hi : i < 16) : (half x k).getLsbD i = x.getLsbD (16 * k + i) := by
  simp [half, hi]

theorem getLsbD_halves (e0 e1 : W16) (i : Nat) : (halves e0 e1).getLsbD i = if i < 16 then e0.getLsbD i else e1.getLsbD (i - 16) :=
  BitVec.getLsbD_append

/-! ### The result of a sign form -/

/-- The result whose elements have the sign `σ` of the two operands' signs. -/
def signed (p : Prec) (σ : Bool → Bool → Bool) (a b : W64) : Out :=
  packResults p (List.zipWith (fun x y => .of (withSign (fmtOf p) x (σ (signOf (fmtOf p) x) (signOf (fmtOf p) y)))) (elements p a) (elements p b))

/-- `z` is `a` with the sign bits of a precision replaced. -/
def SignsReplaced (p : Prec) (σ : Bool → Bool → Bool) (a b z : W64) : Prop :=
  ∀ i < 64, z.getLsbD i = if (signBits p).getLsbD i then σ (a.getLsbD i) (b.getLsbD i) else a.getLsbD i

/-- The sign bits of a precision, bit by bit. -/
theorem getLsbD_signBits (p : Prec) : ∀ i < 64, (signBits p).getLsbD i = match p with
    | .f64 => decide (i + 1 = 64)
    | .f32 => decide (i + 1 = 32)
    | _ => decide (i + 1 = 16 ∨ i + 1 = 32) := by
  cases p <;> decide

section
variable {p : Prec} {σ : Bool → Bool → Bool} {a b z : W64} (hz : SignsReplaced p σ a b z)
include hz

theorem signedElem_f64 (hp : p = .f64) : signedElem fp64 σ a b = z := by
  subst hp
  refine BitVec.eq_of_getLsbD_eq fun i hi => ?_
  simp only [getLsbD_signedElem (w := 64) (F := fp64) rfl σ a b hi, hz i hi, getLsbD_signBits .f64 i hi, decide_eq_true_eq]

theorem signedElem_f32 (hp : p = .f32) : signedElem fp32 σ (lo32 a) (lo32 b) = lo32 z := by
  subst hp
  refine BitVec.eq_of_getLsbD_eq fun i hi => ?_
  have hi64 : i < 64 := by omega
  simp only [getLsbD_signedElem (w := 32) (F := fp32) rfl σ (lo32 a) (lo32 b) hi, getLsbD_lo32 _ hi, hz i hi64, getLsbD_signBits .f32 i hi64,
    decide_eq_true_eq]

/-- Both packed formats have their sign in bit 15 of an element. -/
theorem signedElem_packed (hp : p = .f16 ∨ p = .bf16) :
    halves (signedElem (fmtOf p) σ (half (lo32 a) 0) (half (lo32 b) 0)) (signedElem (fmtOf p) σ (half (lo32 a) 1) (half (lo32 b) 1)) = lo32 z := by
  have hF : (fmtOf p).signBit + 1 = 16 := by rcases hp with rfl | rfl <;> rfl
  have hbits : ∀ i < 64, (signBits p).getLsbD i = decide (i + 1 = 16 ∨ i + 1 = 32) := by
    rcases hp with rfl | rfl <;> exact getLsbD_signBits _
  refine BitVec.eq_of_getLsbD_eq fun i hi => ?_
  have hi64 : i < 64 := by omega
  rw [getLsbD_halves, getLsbD_lo32 _ hi, hz i hi64, hbits i hi64]
  by_cases hlo : i < 16
  · have hbit : 16 * 0 + i = i := by omega
    simp only [if_pos hlo, getLsbD_signedElem hF _ _ _ hlo, getLsbD_half _ _ hlo, hbit, getLsbD_lo32 _ hi, decide_eq_true_eq]
    refine if_congr ?_ rfl rfl
    omega
  · have hhi : i - 16 < 16 := by omega
    have hbit : 16 * 1 + (i - 16) = i := by omega
    simp only [if_neg hlo, getLsbD_signedElem hF _ _ _ hhi, getLsbD_half _ _ hhi, hbit, getLsbD_lo32 _ hi, decide_eq_true_eq]
    refine if_congr ?_ rfl rfl
    omega

/-- The destination of a sign form. -/
theorem signed_dest : (signed p σ a b).dest = if p = .f64 then .w2 z else .w (lo32 z) := by
  cases hp : p with
  | f64 =>
    rw [if_pos rfl, ← signedElem_f64 hz hp]
    rfl
  | f32 =>
    rw [if_neg (by decide), ← signedElem_f32 hz hp]
    rfl
  | f16 =>
    rw [if_neg (by decide), ← signedElem_packed hz (.inl hp), hp]
    rfl
  | bf16 =>
    rw [if_neg (by decide), ← signedElem_packed hz (.inr hp), hp]
    rfl

end

theorem signed_elems (p : Prec) (σ : Bool → Bool → Bool) (a b : W64) : ∃ n, (signed p σ a b).elems = List.replicate n ⟨0, false⟩ := by
  cases p with
  | f64 => exact ⟨1, rfl⟩
  | f32 => exact ⟨1, rfl⟩
  | f16 => exact ⟨2, rfl⟩
  | bf16 => exact ⟨2, rfl⟩

/-! ### Elements that raise nothing -/

theorem raisedFlags_quiet (n : Nat) : raisedFlags (List.replicate n ⟨0, false⟩) = 0 := by
  induction n with
  | zero => rfl
  | succ n ih => exact ih

theorem fpTrap_quiet (fpctl : W32) (n : Nat) : fpTrap fpctl (List.replicate n ⟨0, false⟩) = none := by
  have hnone : ∀ p ∈ trapOrder, p.2.2 ⟨0, false⟩ = false := by
    simp [trapOrder]
  rw [fpTrap_eq_find, Option.map_eq_none_iff, List.find?_eq_none]
  intro p hp hraised
  rw [Bool.and_eq_true, List.any_eq_true] at hraised
  obtain ⟨-, e, he, hcase⟩ := hraised
  rw [List.eq_of_mem_replicate he, hnone p hp] at hcase
  cases hcase

/-! ### The statement -/

/-- Each sign form is the arithmetic frame over its choice of signs, which its operation on bits makes too. -/
theorem exec_signForms (o : FloatForm) : ∀ p ∈ signForms o, ∃ σ : Bool → Bool → Bool,
    (∀ s, exec p.1 s = .next (s.arith p.1 o.toForm (fun e => signed o.prec σ (e.floatA o.toForm o.prec) (e.floatB o.toForm o.prec)))) ∧
    ∀ a b, SignsReplaced o.prec σ a b (p.2 a b) := by
  have hone : ∀ (σ : Bool → Bool) (e : Env), e.float1 o (fun F x => .of (withSign F x (σ (signOf F x)))) =
      signed o.prec (fun x _ => σ x) (e.floatA o.toForm o.prec) (e.floatB o.toForm o.prec) := by
    intro σ e
    unfold Env.float1 signed
    cases o.prec <;> rfl
  simp only [signForms, List.forall_mem_cons, List.not_mem_nil, false_implies, implies_true, and_true]
  refine ⟨⟨fun x _ => !x, fun s => next_arith_congr (hone (fun x => !x)), fun a b i hi => ?_⟩,
    ⟨fun _ _ => false, fun s => next_arith_congr (hone (fun _ => false)), fun a b i hi => ?_⟩,
    ⟨fun _ y => y, fun s => rfl, fun a b i hi => ?_⟩,
    ⟨fun _ y => !y, fun s => rfl, fun a b i hi => ?_⟩,
    ⟨fun x y => x ^^ y, fun s => rfl, fun a b i hi => ?_⟩⟩
  all_goals
    simp only [BitVec.getLsbD_or, BitVec.getLsbD_and, BitVec.getLsbD_xor, BitVec.getLsbD_not, decide_eq_true hi]
    cases (signBits o.prec).getLsbD i <;> simp

/-- A result whose elements raise nothing is its destination's write alone. -/
theorem Env.result_quiet (e : Env) (o : Form) {out : Out} (hpred : out.pred = none) (hist : out.ist = 0) {n : Nat}
    (hn : out.elems = List.replicate n ⟨0, false⟩) : e.result o out = e.it.writeDest o.d out.dest := by
  rw [Env.result, e.it.raise_float hist, hpred, hn, raisedFlags_quiet]
  simp

/-- Settles O11: each sign form is the choice of a sign for every element, which its bits make at the sign bits, and it raises nothing. -/
theorem signForms_complete : Obligations.SignForms := by
  intro s g o hp hm p hmem ha
  obtain ⟨σ, hexec, hbits⟩ := exec_signForms o p hmem
  have hquiet := fun e : Env => signed_elems o.prec σ (e.floatA o.toForm o.prec) (e.floatB o.toForm o.prec)
  rw [hexec, State.arith_plain hp ha hm _ fun q _ _ _ => ?_]
  · refine congrArg (fun f => Host.Outcome.next (s.after g (fun e => e.under p.1 Env.nextPc f))) (funext fun e => ?_)
    obtain ⟨n, hn⟩ := hquiet e
    rw [e.result_quiet _ rfl rfl hn, signed_dest (hbits _ _)]
  · obtain ⟨n, hn⟩ := hquiet (s.envOf g q.1 q.2)
    rw [Item.chosenTrap_float _ rfl, hn, fpTrap_quiet]

end Sys2Proof.Machine
end

section
/-! PROOFS. Fused forms and comparisons (10 R201 to R203): sums of finite terms are rounded from their exact value, and the order of numbers is
that of their values. -/

namespace Sys2Proof.Machine

/-! ### Exact sums -/

theorem Dy.val_add (x y : Dy) : (x.add y).val = x.val + y.val := by
  rw [Dy.add, Dy.val, Int.cast_add, x.at_eq_units (min_le_left _ _), y.at_eq_units (min_le_right _ _), add_mul, Dy.units_mul, Dy.units_mul]

theorem Dy.val_sum_pair (x y : Dy) : (Dy.sum [x, y]).val = x.val + y.val := by
  have hzero : (⟨0, 0⟩ : Dy).val = 0 := by simp [Dy.val]
  rw [Dy.sum, List.foldl_cons, List.foldl_cons, List.foldl_nil, Dy.val_add, Dy.val_add, hzero, zero_add]

theorem Dy.val_eq_zero_iff (x : Dy) : x.val = 0 ↔ x.m = 0 := by
  rw [Dy.val, mul_eq_zero, or_iff_left (zpow_ne_zero _ two_ne_zero), Int.cast_eq_zero]

theorem unit_xor (a b : Bool) : unit (a ^^ b) = unit a * unit b := by
  cases a <;> cases b <;> simp [unit]

theorem unit_ne_zero (a : Bool) : unit a ≠ 0 := by
  cases a <;> simp [unit]

/-! ### Round of an exact sum (R201) -/

theorem Fmt.round_of_zero (F : Fmt) {x : Dy} (hx : x.m = 0) (rm : Nat) (zs ftz sat : Bool) : F.round x rm zs ftz sat = .of (F.zero zs) :=
  if_pos hx

/-- The sign of zero is asked of a zero only. -/
theorem Fmt.round_zeroSign (F : Fmt) {x : Dy} (hx : x.m ≠ 0) (rm : Nat) (zs zs' ftz sat : Bool) :
    F.round x rm zs ftz sat = F.round x rm zs' ftz sat := by
  rw [Fmt.round, Fmt.round, if_neg hx, if_neg hx]

theorem chooseNan_of_finite (F : Fmt) {ops : List (Fmt × Flt)} (h : ∀ q ∈ ops, q.2.Finite) : chooseNan F ops false = none := by
  have hnan : ∀ q ∈ ops, q.2.isSnan = false ∧ q.2.isNan = false := by
    intro q hq
    obtain ⟨s, m, e, hfin⟩ := Flt.finite_iff.mp (h q hq)
    rw [hfin]
    exact ⟨rfl, rfl⟩
  have hsnan : ops.any (fun q => q.2.isSnan) = false := List.any_eq_false.2 fun q hq => by simp [(hnan q hq).1]
  have hfind : ops.find? (fun q => q.2.isNan) = none := List.find?_eq_none.2 fun q hq => by simp [(hnan q hq).2]
  simp [chooseNan, hsnan, hfind]

/-- Two finite terms are summed exactly and rounded once (R202). -/
theorem sumTerms_of_finite (F : Fmt) {ops : List (Fmt × Flt)} (hops : ∀ q ∈ ops, q.2.Finite) {x y : Flt} (hx : x.Finite) (hy : y.Finite)
    (rm : Nat) (ftz : Bool) :
    sumTerms F ops [.val x, .val y] rm ftz = F.round (Dy.sum [x.dy, y.dy]) rm (zeroSign [x, y] rm) ftz false := by
  obtain ⟨s, m, e, rfl⟩ := Flt.finite_iff.mp hx
  obtain ⟨t, n, f, rfl⟩ := Flt.finite_iff.mp hy
  have hinvalid : ([.val (.fin s m e), .val (.fin t n f)] : List Term).contains .invalid = false := rfl
  simp only [sumTerms, List.filterMap_cons, List.filterMap_nil, List.any_cons, List.any_nil, Flt.isInf, Bool.false_and, Bool.or_false, hinvalid,
    chooseNan_of_finite F hops, List.map_cons, List.map_nil, Bool.false_eq_true, if_false]

/-- The sign of an exact zero sum (R201). -/
theorem zeroSign_of_sum_zero {x y : Flt} (hx : x.Finite) (hy : y.Finite) (hsum : x.val + y.val = 0) (rm : Nat) :
    zeroSign [x, y] rm = if x.val = 0 ∧ x.sign = y.sign then x.sign else rm == 2 := by
  have hzero : ∀ {v : Flt}, v.Finite → (v.isZero = true ↔ v.val = 0) := by
    intro v hv
    obtain ⟨s, m, e, rfl⟩ := Flt.finite_iff.mp hv
    rw [Flt.val_fin, mul_eq_zero, or_iff_right (unit_ne_zero s), mul_eq_zero, or_iff_left (zpow_ne_zero _ two_ne_zero), Nat.cast_eq_zero]
    exact beq_iff_eq
  have hy0 : y.val = 0 ↔ x.val = 0 := by constructor <;> intro h <;> linarith
  by_cases h0 : x.val = 0
  · have hzx := (hzero hx).2 h0
    have hzy := (hzero hy).2 (hy0.2 h0)
    simp only [zeroSign, List.all_cons, List.all_nil, hzx, hzy, h0]
    cases x.sign <;> cases y.sign <;> simp
  · have hzx : x.isZero = false := Bool.eq_false_iff.2 (mt (hzero hx).1 h0)
    simp [zeroSign, hzx, h0]

/-- A sum of two finite terms: Round of its exact value, or a zero with its sign. -/
theorem sumTerms_value (F : Fmt) {ops : List (Fmt × Flt)} (hops : ∀ q ∈ ops, q.2.Finite) {x y : Flt} (hx : x.Finite) (hy : y.Finite)
    (rm : Nat) (ftz : Bool) :
    (x.val + y.val ≠ 0 → ∃ d : Dy, d.val = x.val + y.val ∧ sumTerms F ops [.val x, .val y] rm ftz = F.round d rm false ftz false) ∧
    (x.val + y.val = 0 → sumTerms F ops [.val x, .val y] rm ftz =
      .of (F.zero (if x.val = 0 ∧ x.sign = y.sign then x.sign else rm == 2))) := by
  have hval : (Dy.sum [x.dy, y.dy]).val = x.val + y.val := Dy.val_sum_pair _ _
  rw [sumTerms_of_finite F hops hx hy]
  refine ⟨fun hne => ⟨_, hval, F.round_zeroSign ?_ rm _ _ _ _⟩, fun hzero => ?_⟩
  · exact fun hm => hne (hval.symm.trans ((Dy.val_eq_zero_iff _).2 hm))
  · rw [F.round_of_zero ((Dy.val_eq_zero_iff _).1 (hval.trans hzero)), zeroSign_of_sum_zero hx hy hzero]

/-! ### The terms of a fused form (R202) -/

/-- A number with its sign changed where `n` says so. -/
def Flt.signedBy (n : Bool) (x : Flt) : Flt := if n then x.neg else x

theorem Term.negate_val (n : Bool) (x : Flt) : (if n then (Term.val x).negate else .val x) = .val (x.signedBy n) := by
  cases n <;> rfl

theorem Flt.signedBy_fin (n s : Bool) (m : Nat) (e : Int) : (Flt.fin s m e).signedBy n = .fin (s ^^ n) m e := by
  cases n <;> simp [Flt.signedBy, Flt.neg]

/-- The terms of a fused form of finite numbers: the product and the addend, each under its own sign. -/
theorem fused_terms {a b c : Flt} (ha : a.Finite) (hb : b.Finite) (hc : c.Finite) (np nc : Bool) :
    ∃ p q : Flt, (if np then (mulTerm a b).negate else mulTerm a b) = .val p ∧ (if nc then c.term.negate else c.term) = .val q ∧
      p.Finite ∧ q.Finite ∧ p.val = unit np * a.val * b.val ∧ q.val = unit nc * c.val ∧ p.sign = (a.sign ^^ b.sign ^^ np) ∧
      q.sign = (c.sign ^^ nc) := by
  obtain ⟨sa, ma, ea, rfl⟩ := Flt.finite_iff.mp ha
  obtain ⟨sb, mb, eb, rfl⟩ := Flt.finite_iff.mp hb
  obtain ⟨sc, mc, ec, rfl⟩ := Flt.finite_iff.mp hc
  refine ⟨.fin (sa ^^ sb ^^ np) (ma * mb) (ea + eb), .fin (sc ^^ nc) mc ec, ?_, ?_, trivial, trivial, ?_, ?_, rfl, rfl⟩
  · rw [← Flt.signedBy_fin]
    exact Term.negate_val np _
  · rw [← Flt.signedBy_fin]
    exact Term.negate_val nc _
  · simp only [Flt.val_fin, unit_xor, Nat.cast_mul, zpow_add₀ (two_ne_zero (α := ℚ))]
    ring
  · rw [Flt.val_fin, Flt.val_fin, unit_xor]
    ring

section
variable {F : Fmt} {daz : Bool} {x y z : Nat} (hx : (F.read daz x).Finite) (hy : (F.read daz y).Finite) (hz : (F.read daz z).Finite)
include hx hy hz

/-- A fused form of finite numbers: Round of the exact value, or a zero with its sign (R201, R202). -/
theorem fused_value (np nc ftz : Bool) (rm : Nat) :
    let p := unit np * (F.read daz x).val * (F.read daz y).val
    let c := unit nc * (F.read daz z).val
    let sp := (F.read daz x).sign ^^ (F.read daz y).sign ^^ np
    let sc := (F.read daz z).sign ^^ nc
    (p + c ≠ 0 → ∃ d : Dy, d.val = p + c ∧ fused np nc F daz ftz rm x y z = F.round d rm false ftz false) ∧
    (p + c = 0 → fused np nc F daz ftz rm x y z = .of (F.zero (if p = 0 ∧ sp = sc then sp else rm == 2))) := by
  obtain ⟨p, q, hp, hq, hpfin, hqfin, hpval, hqval, hpsign, hqsign⟩ := fused_terms hx hy hz np nc
  have hops : ∀ o ∈ [(F, F.read daz x), (F, F.read daz y), (F, F.read daz z)], o.2.Finite := by
    simp [hx, hy, hz]
  have hsum := sumTerms_value F hops hpfin hqfin rm ftz
  rw [hpval, hqval, hpsign, hqsign] at hsum
  simp only [fused, hp, hq]
  exact hsum

end

/-! ### Fused forms of a wave (R200, R202) -/

theorem Item.roundMode_eq_truncate (it : Item) : it.roundMode = (it.fpctl.truncate 2).toNat := by
  simp [Item.roundMode, field]

theorem exec_fusedForms (o : FloatForm) : ∀ p ∈ fusedForms o, ∀ s, exec p.1 s = .next (s.arith p.1 o.toForm (fun e =>
    e.float3 o (fun F => fused p.2.1 p.2.2 F e.it.daz e.it.ftz (e.rm o.rnd)))) := by
  simp only [fusedForms, List.forall_mem_cons, List.not_mem_nil, false_implies, implies_true, and_true]
  exact ⟨fun _ => rfl, fun _ => rfl, fun _ => rfl, fun _ => rfl⟩

section
variable (e : Env) (o : FloatForm) (f : Fmt → Nat → Nat → Nat → FRes)

/-- Element k of the result of a form of three operands. -/
def Env.elem3 (k : Nat) : FRes :=
  f (fmtOf o.prec) ((elements o.prec (e.floatA o.toForm o.prec)).getD k 0) ((elements o.prec (e.floatB o.toForm o.prec)).getD k 0)
    ((elements o.prec (e.floatC o.toForm o.prec)).getD k 0)

theorem Env.result_float3_f64 (hp : o.prec = .f64) : e.result o.toForm (e.float3 o f) =
    ({ e.it with fpstat := e.it.fpstat ||| (e.elem3 o f 0).flags } : Item).writeV2 o.d (BitVec.ofNat 64 (e.elem3 o f 0).bits) := by
  unfold Env.float3 Env.elem3
  rw [hp, Env.result, Item.raise_float _ rfl]
  simp [packResults, elements, raisedFlags, Out.of, Item.writeDest]

theorem Env.result_float3_f32 (hp : o.prec = .f32) : e.result o.toForm (e.float3 o f) =
    ({ e.it with fpstat := e.it.fpstat ||| (e.elem3 o f 0).flags } : Item).writeV o.d (BitVec.ofNat 32 (e.elem3 o f 0).bits) := by
  unfold Env.float3 Env.elem3
  rw [hp, Env.result, Item.raise_float _ rfl]
  simp [packResults, elements, raisedFlags, Out.of, Item.writeDest]

theorem Env.result_float3_packed (hp : o.prec = .f16 ∨ o.prec = .bf16) : e.result o.toForm (e.float3 o f) =
    ({ e.it with fpstat := e.it.fpstat ||| (e.elem3 o f 0).flags ||| (e.elem3 o f 1).flags } : Item).writeV o.d
      (BitVec.ofNat 16 (e.elem3 o f 1).bits ++ BitVec.ofNat 16 (e.elem3 o f 0).bits) := by
  unfold Env.float3 Env.elem3
  rcases hp with hp | hp <;>
  · rw [hp, Env.result, Item.raise_float _ rfl]
    simp [packResults, elements, raisedFlags, Out.of, Item.writeDest, halves, BitVec.or_assoc]

end

/-! ### Comparison (R203) -/

theorem Flt.lt_iff_val {a b : Flt} (ha : a.Finite) (hb : b.Finite) : a.lt b = true ↔ a.val < b.val := by
  obtain ⟨s, m, e, rfl⟩ := Flt.finite_iff.mp ha
  obtain ⟨t, n, f, rfl⟩ := Flt.finite_iff.mp hb
  exact Dy.lt_iff _ _

theorem Flt.isNan_of_finite {a : Flt} (ha : a.Finite) : a.isNan = false ∧ a.isSnan = false := by
  obtain ⟨s, m, e, rfl⟩ := Flt.finite_iff.mp ha
  exact ⟨rfl, rfl⟩

/-- The relation of numbers that a condition names (R203). -/
def relates (c : FloatCond) (a b : ℚ) : Prop :=
  match c with
  | .eq => a = b
  | .ne => a ≠ b
  | .lt => a < b
  | .le => a ≤ b
  | .gt => b < a
  | .ge => b ≤ a
  | .un => False
  | .or => True

/-- Numbers compare as their values do, and raise nothing (R203). -/
theorem floatCompare_finite {F : Fmt} {daz : Bool} {x y : Nat} (ha : (F.read daz x).Finite) (hb : (F.read daz y).Finite) (c : FloatCond) :
    (floatCompare F daz c x y).2 = ⟨0, false⟩ ∧
      ((floatCompare F daz c x y).1 = true ↔ relates c (F.read daz x).val (F.read daz y).val) := by
  obtain ⟨hna, hsa⟩ := Flt.isNan_of_finite ha
  obtain ⟨hnb, hsb⟩ := Flt.isNan_of_finite hb
  have hlt : (F.read daz x).lt (F.read daz y) = decide ((F.read daz x).val < (F.read daz y).val) := by
    rw [Bool.eq_iff_iff, Flt.lt_iff_val ha hb, decide_eq_true_eq]
  have hgt : (F.read daz y).lt (F.read daz x) = decide ((F.read daz y).val < (F.read daz x).val) := by
    rw [Bool.eq_iff_iff, Flt.lt_iff_val hb ha, decide_eq_true_eq]
  refine ⟨by cases c <;> simp [floatCompare, hna, hsa, hnb, hsb], ?_⟩
  cases c with
  | eq =>
    refine Iff.trans ?_ le_antisymm_iff.symm
    simp [floatCompare, hna, hnb, hlt, hgt, and_comm]
  | ne => simp [floatCompare, relates, hna, hnb, hlt, hgt]
  | lt | le | gt | ge | un | or => simp [floatCompare, relates, hna, hnb, hlt, hgt]

/-- Where an operand is a NaN (R203). -/
theorem floatCompare_nan {F : Fmt} {daz : Bool} {x y : Nat} (h : (F.read daz x).isNan = true ∨ (F.read daz y).isNan = true) (c : FloatCond) :
    ((floatCompare F daz c x y).1 = true ↔ c = .ne ∨ c = .un) ∧
      (floatCompare F daz c x y).2.snan = ((F.read daz x).isSnan || (F.read daz y).isSnan) ∧
      (floatCompare F daz c x y).2.flags =
        if (floatCompare F daz c x y).2.snan = true ∨ c = .lt ∨ c = .le ∨ c = .gt ∨ c = .ge then 1 else 0 := by
  have hun : ((F.read daz x).isNan || (F.read daz y).isNan) = true := by simpa using h
  cases c <;> simp [floatCompare, hun]

/-! ### The statement -/

/-- With no trap enabled a fused form completes in every member with a true guard, each in its own modes (R200). -/
theorem fusedForms_complete {s : State} {g : Group} {o : FloatForm} (hp : Plain s g) (hm : o.m = 0 ∨ o.m = 1)
    (hctl : ∀ q ∈ g.items, s.wave.slots.contains q.1 = true → field q.2.fpctl 13 8 = 0) : ∀ p ∈ fusedForms o, Admits s g p.1 →
    exec p.1 s = .next (s.after g (fun e => e.under p.1 Env.nextPc (fun e =>
      e.result o.toForm (e.float3 o (fun F => fused p.2.1 p.2.2 F e.it.daz e.it.ftz (e.rm o.rnd)))))) := fun p hmem ha => by
  rw [exec_fusedForms o p hmem, State.arith_plain hp ha hm _ fun q hq hs _ => chosenTrap_of_disabled (hctl q hq hs) rfl]

/-- Settles O14: a fused form sums two finite terms exactly and rounds once, and the order of numbers is that of their values. -/
theorem floatFormsAndComparison : Obligations.FloatFormsAndComparison := by
  refine ⟨⟨fun F _ np nc daz ftz rm x y z _ hx hy hz => fused_value hx hy hz np nc ftz rm, fun s g o hp hm hctl p hmem ha => ?_⟩,
    fun F _ daz x y c => ⟨fun ha hb => ?_, fun h => floatCompare_nan h c⟩⟩
  · rw [fusedForms_complete hp hm hctl p hmem ha]
    refine congrArg (fun f => Host.Outcome.next (s.after g (fun e => e.under p.1 Env.nextPc f))) (funext fun e => ?_)
    have hrm : e.rm o.rnd = match o.rnd with
        | .dynamic => (e.it.fpctl.truncate 2).toNat
        | .rne => 0
        | .rtz => 1
        | .rdn => 2
        | .rup => 3 := by
      cases o.rnd with
      | dynamic => exact e.it.roundMode_eq_truncate
      | rne | rtz | rdn | rup => rfl
    cases hprec : o.prec with
    | f64 => rw [e.result_float3_f64 o _ hprec, Env.elem3, hprec, hrm]; rfl
    | f32 => rw [e.result_float3_f32 o _ hprec, Env.elem3, hprec, hrm]; rfl
    | f16 => rw [e.result_float3_packed o _ (.inl hprec), Env.elem3, Env.elem3, hprec, hrm]; rfl
    | bf16 => rw [e.result_float3_packed o _ (.inr hprec), Env.elem3, Env.elem3, hprec, hrm]; rfl
  · obtain ⟨hquiet, hrel⟩ := floatCompare_finite ha hb c
    refine ⟨by rw [hquiet], by rw [hquiet], hrel.trans ?_⟩
    cases c <;> rfl

end Sys2Proof.Machine
end

section
/-! PROOFS. The forms over a tile (11 R230 to R233, R237): how a tile-wide form acts on a plain wave and a form of one item on its tile, and the
forms that bind, give back, zero and read tiles. -/

namespace Sys2Proof.Machine

/-! ### The wave of a tile-wide form (R232) -/

/-- In an unguarded group a form's effect stands alone. -/
theorem State.around_plain {s : State} {g : Group} (hp : Plain s g) (i : Instr) (f : State → State) : s.around i f = f s := by
  simp [State.around, hp.group, hp.unguarded]

/-- In a plain wave that passes the checks a tile-wide form finds no error in its operand item. -/
theorem State.tileOperand_plain {s : State} {g : Group} (hp : Plain s g) {i : Instr} (ha : Admits s g i) :
    s.tileOperand i g.badS = .ok (s.participants i) := by
  rw [State.tileOperand, State.takers_eq_participants hp ha]
  cases hps : s.participants i with
  | nil => rfl
  | cons e es =>
    have hpasses : e.passes i g.badS = true := by
      have hmem : e ∈ s.participants i := hps ▸ List.mem_cons_self
      simp only [State.participants, hp.group, List.mem_filterMap, Option.bind_eq_some_iff] at hmem
      obtain ⟨_, _, _, _, hsome⟩ := hmem
      split at hsome
      next h => cases hsome; exact h
      next => cases hsome
    have hfails : e.fails i g.badS = none := by
      simp only [Env.passes, Bool.and_eq_true, beq_iff_eq, Option.isNone_iff_eq_none] at hpasses
      obtain ⟨hgo, hwhole⟩ := hpasses
      simp [Env.fails, hgo, hwhole]
    simp only [hfails]

/-- The operand item of a wave with a true guard, and the other members that execute the form. -/
theorem State.participants_cons {s : State} {g : Group} (hp : Plain s g) {i : Instr} (ha : Admits s g i) (hsome : SomeGuard s g i) :
    ∃ e es, s.participants i = e :: es ∧ e.gid = s.wave.gid := by
  cases hps : s.participants i with
  | nil => exact absurd hsome ((State.participants_eq_nil hp ha).1 hps)
  | cons e es =>
    obtain ⟨k, _, it, _, _, rfl⟩ := (State.mem_participants hp ha e).1 (hps ▸ List.mem_cons_self)
    exact ⟨_, es, rfl, rfl⟩

/-- A tile-wide form with an effect `u` on a tile that the group holds: every member of the wave goes on in `u` (R231, R232). -/
theorem State.tileWave_done {s u : State} {g : Group} {i : Instr} {name : Nat} {sync : Bool} {body : Env → Group → List Env → Tile → TileEffect}
    {t : Tile} (hp : Plain s g) (ha : Admits s g i) (hsome : SomeGuard s g i) (hh : Holds g name t) (hidle : sync = true → t.ops = [])
    (hbody : ∀ e es, s.participants i = e :: es → e.gid = s.wave.gid → body e g (e :: es) t = .done u) :
    s.tileWave i name sync body = u.mapWave i (fun e => .done e.it) := by
  obtain ⟨e, es, hps, hgid⟩ := State.participants_cons hp ha hsome
  have hsync : (sync && !t.ops.isEmpty) = false := by cases sync <;> simp_all
  have hop := State.tileOperand_plain hp ha
  rw [hps] at hop
  rw [State.tileWave, State.around_plain hp]
  simp only [hp.group, hop, hp.single, hh.seated, hh.held, hh.sound, hsync, hbody e es hps hgid, Bool.false_and, Bool.false_eq_true, if_false]

/-- Where nothing but the end is left of a form, every member of its wave goes on. -/
theorem State.mapWave_past {s : State} {g : Group} (hp : Plain s g) {i : Instr} (ha : Admits s g i) :
    s.mapWave i (fun e => .done e.it) = s.past g i := State.mapWave_done hp ha (fun e => e.it) fun _ => ⟨rfl, rfl⟩

/-! ### Changes of the wave's group -/

/-- The item may wait, count its matrix operations and see otherwise; nothing else of it has changed. -/
def Item.SameIssue (it it' : Item) : Prop := ∃ w c v, it' = { it with wait := w, matrixCount := c, view := v }

theorem Item.SameIssue.refl (it : Item) : it.SameIssue it := ⟨it.wait, it.matrixCount, it.view, rfl⟩

theorem checkUses_congr {it it' : Item} (h : it'.frame = it.frame) (us : List Use) : checkUses it' us = checkUses it us := by
  have hasV : it'.hasV = it.hasV := funext fun n => by rw [Item.hasV, Item.hasV, h]
  induction us with
  | nil => rfl
  | cons u us ih =>
    have hfails : u.fails it' = u.fails it := by rw [Use.fails, Use.fails, hasV]
    rw [checkUses, checkUses, hfails, ih]

/-- The checks before a form's effect read nothing that such a change touches. -/
theorem Item.SameIssue.passes {s u : State} {g g' : Group} {k : Nat} {it it' : Item} {i : Instr} {badS : List Nat} (h : it.SameIssue it')
    (hilen : u.wave.ilen = s.wave.ilen) (hpass : (s.envOf g k it).Passes i badS) : (u.envOf g' k it').Passes i badS := by
  obtain ⟨w, c, v, rfl⟩ := h
  have huses := checkUses_congr (it := { it with wait := .none }) (it' := { it with wait := .none, matrixCount := c, view := v }) rfl
  simp only [Env.Passes, Env.gate, State.envOf, Env.of, huses, hilen] at hpass ⊢
  exact hpass

/-- A group of which a form has changed nothing that its wave is run by: its items, but for `Item.SameIssue`, its scalar registers, its place in the
kernel. -/
structure Group.SameWave (g g' : Group) : Prop where
  regs : g'.s = g.s
  badS : g'.badS = g.badS
  kh : g'.kh = g.kh
  stage : g'.stage = g.stage
  guarded : g'.guarded = g.guarded
  items : ∀ p ∈ g'.items, ∃ it, (p.1, it) ∈ g.items ∧ it.SameIssue p.2

section
variable {s : State} {g : Group} {F : Group → Group} (hF : g.SameWave (F g))
include hF

theorem Plain.modGroup (hp : Plain s g) : Plain (s.modGroup s.wave.gid F) (F g) where
  group := by
    show (s.modGroup _ _).group? s.wave.gid = _
    rw [State.group?_modGroup_self, hp.group]
    rfl
  single := by
    have := hp.single
    simpa only [State.duplex, hF.kh, State.kernel?_modGroup] using this
  unguarded := hF.guarded.trans hp.unguarded
  clear p hm := by
    obtain ⟨it, hmem, w, c, v, heq⟩ := hF.items p hm
    rw [heq]
    exact hp.clear _ hmem

theorem Admits.modGroup {i : Instr} (ha : Admits s g i) : Admits (s.modGroup s.wave.gid F) (F g) i := by
  intro p hm hs
  obtain ⟨it, hmem, hsame⟩ := hF.items p hm
  rw [hF.badS]
  exact hsame.passes rfl (ha _ hmem hs)

/-- A form whose effect on its group leaves the wave as it was: every member goes on. -/
theorem State.mapWave_modGroup {i : Instr} (hp : Plain s g) (ha : Admits s g i) :
    (s.modGroup s.wave.gid F).mapWave i (fun e => .done e.it) = (s.modGroup s.wave.gid F).past g i := by
  rw [State.mapWave_past (hp.modGroup hF) (ha.modGroup hF)]
  simp only [State.past, State.after, State.envOf, Env.of, State.stackAreaOf, hF.regs, hF.kh, hF.stage]

end

/-- A change of tiles leaves the wave. -/
theorem Group.SameWave.tiles (g : Group) (f : Table Tile → Table Tile) : g.SameWave { g with tiles := f g.tiles } :=
  ⟨rfl, rfl, rfl, rfl, rfl, fun p hm => ⟨p.2, hm, .refl _⟩⟩

/-- The state with the tiles of the wave's group changed. -/
def State.retile (s : State) (f : Table Tile → Table Tile) : State := s.modGroup s.wave.gid (fun g => { g with tiles := f g.tiles })

/-- A form whose effect is a change of tiles: every member of the wave goes on, and nothing else changes. -/
theorem State.mapWave_retile {s : State} {g : Group} (hp : Plain s g) {i : Instr} (ha : Admits s g i) (f : Table Tile → Table Tile) :
    (s.retile f).mapWave i (fun e => .done e.it) = (s.retile f).past g i :=
  State.mapWave_modGroup (Group.SameWave.tiles g f) hp ha

/-! ### macq, mrel and mzero (R233) -/

theorem exec_macq (o : MacqForm) (s : State) : exec (.macq o) s = execMacq o s := rfl
theorem exec_mrel (o : Form) (s : State) : exec (.mrel o) s = execMrel o s := rfl
theorem exec_mzero (o : Form) (s : State) : exec (.mzero o) s = execMzero o s := rfl

section
variable {s : State} {g : Group} {q : MacqForm} (hp : Plain s g) (ha : Admits s g (.macq q)) (hsome : SomeGuard s g (.macq q))
  (hseat : g.isLanding = false) (hnone : Table.get? g.tiles q.d.toNat = none)
include hp ha hsome hseat hnone

/-- macq of a name without a tile binds the lowest-numbered free tile of the core, or waits for one. -/
theorem exec_macq_eq : exec (.macq q) s = .next (match s.freeTile g.core with
    | none => s.mapWave (.macq q) (fun e => .wait e.it (.tile q.d.toNat))
    | some x => (s.retile (fun ts => Table.put ts q.d.toNat (Tile.fresh x q.int32))).mapWave (.macq q) (fun e => .done e.it)) := by
  obtain ⟨e, es, hps, -⟩ := State.participants_cons hp ha hsome
  have hop := State.tileOperand_plain hp ha
  rw [hps] at hop
  rw [exec_macq, execMacq, State.around_plain hp]
  simp only [hp.group, hop, hp.single, hseat, hnone, Bool.false_and, Bool.false_eq_true, if_false, Option.bind_none, Option.isSome_none]
  rfl

theorem macq_binds {x : Nat} (hx : s.freeTile g.core = some x) :
    exec (.macq q) s = .next ((s.retile (fun ts => Table.put ts q.d.toNat (Tile.fresh x q.int32))).past g (.macq q)) := by
  rw [exec_macq_eq hp ha hsome hseat hnone, hx]
  exact congrArg Host.Outcome.next (State.mapWave_retile hp ha _)

theorem macq_waits (hx : s.freeTile g.core = none) : exec (.macq q) s = .next (s.after g (fun e =>
    if e.it.guard q.g then { e.it with wait := .tile q.d.toNat } else e.on (.macq q) e.nextPc e.it)) := by
  rw [exec_macq_eq hp ha hsome hseat hnone, hx]
  exact congrArg Host.Outcome.next (State.mapWave_plain hp ha _ (fun e => { e.it with wait := .tile q.d.toNat }) fun p hm _ _ =>
    ⟨rfl, hp.clear p hm⟩)

end

section
variable {s : State} {g : Group} {o : Form} {t : Tile} (hp : Plain s g) (hh : Holds g o.d.toNat t) (hidle : t.ops = [])
include hp hh hidle

/-- mrel gives the tile back. -/
theorem mrel_releases (ha : Admits s g (.mrel o)) (hsome : SomeGuard s g (.mrel o)) :
    exec (.mrel o) s = .next ((s.retile (fun ts => Table.erase ts o.d.toNat)).past g (.mrel o)) := by
  rw [exec_mrel, execMrel, State.tileWave_done hp ha hsome hh (fun _ => hidle) fun e es _ hgid => by rw [hgid]]
  exact congrArg Host.Outcome.next (State.mapWave_retile hp ha _)

/-- mzero zeroes the tile's elements, those in error too. -/
theorem mzero_zeroes (ha : Admits s g (.mzero o)) (hsome : SomeGuard s g (.mzero o)) :
    exec (.mzero o) s = .next ((s.tileTo o.d.toNat (fun t => { t with elems := [], badElems := [] })).past g (.mzero o)) := by
  rw [exec_mzero, execMzero, State.tileWave_done hp ha hsome hh (fun _ => hidle) fun e es _ hgid => by rw [hgid]]
  exact congrArg Host.Outcome.next (State.mapWave_retile hp ha (fun ts => Table.modify ts o.d.toNat _))

end

/-! ### Forms of one item on its tile (R237) -/

/-- A form that reads an Idle tile for a lone item writes what it reads to the item's registers. -/
theorem State.tileItems_alone {s : State} {g : Group} {i : Instr} {k name : Nat} {it : Item} {t : Tile} (ha : Alone s g i k it)
    (hh : Holds g name t) (hidle : t.ops = []) {body : Env → Tile → Ending} {f : Item → Item}
    (hf : ∀ it, (f it).fatal = it.fatal ∧ (f it).consumed = it.consumed)
    (hbody : body (s.envOf g k it) t = .done (f (s.envOf g k it).it)) : s.tileItems i name body = s.goesOn i g k it f := by
  obtain ⟨hfatal, hconsumed⟩ := ha.item_clear
  obtain ⟨hf, hc⟩ := hf (s.envOf g k it).it
  refine State.foldWave_finish ha (u := s) (end_ := .done (f (s.envOf g k it).it)) ?_ ha.plain.group rfl ha.plain.unguarded ha.plain.clear
    (hf.trans hfatal) (hc.trans hconsumed)
  have hgroup : s.group? (s.envOf g k it).gid = some g := ha.plain.group
  simp [State.withGroup, hgroup, hh.seated, hh.held, hh.sound, hidle, hbody]

theorem exec_mdrain (o : Form) (s : State) : exec (.mdrain o) s = execMdrain o s := rfl
theorem exec_mmeta (o : Form) (s : State) : exec (.mmeta o) s = execMmeta o s := rfl
theorem exec_mcsum (o : Form) (s : State) : exec (.mcsum o) s = execMcsum o s := rfl

theorem truncate_append {n : Nat} (x y : BitVec n) : (x ++ y).truncate n = y := BitVec.setWidth_append_eq_right

theorem truncate_append_shift {n : Nat} (x y : BitVec n) : ((x ++ y) >>> n).truncate n = x := by
  ext i hi
  simp [BitVec.getLsbD_append, BitVec.getLsbD_eq_getElem hi]

theorem lo32_pair (hi lo : W32) : lo32 (pair hi lo) = lo := truncate_append hi lo
theorem hi32_pair (hi lo : W32) : hi32 (pair hi lo) = hi := truncate_append_shift hi lo

theorem Item.writeV2_pair (it : Item) (d : BitVec 7) (hi lo : W32) : it.writeV2 d (pair hi lo) = (it.writeV d lo).writeV (d + 1) hi := by
  rw [Item.writeV2, lo32_pair, hi32_pair]

/-- A quad is written word by word, the lowest to the first register (R31). -/
theorem Item.writeV4_pairs (it : Item) (d : BitVec 7) (x0 x1 x2 x3 : W32) : it.writeV4 d (pair x3 x2 ++ pair x1 x0) =
    (((it.writeV d x0).writeV (d + 1) x1).writeV (d + 2) x2).writeV (d + 3) x3 := by
  rw [Item.writeV4, truncate_append, truncate_append_shift, Item.writeV2_pair, Item.writeV2_pair, BitVec.add_assoc]
  rfl

section
variable {s : State} {g : Group} {o : Form} {k : Nat} {it : Item} {t : Tile} (hh : Holds g o.a.toNat t) (hidle : t.ops = [])
include hh hidle

/-- mdrain writes four neighbouring elements of a row to D. -/
theorem mdrain_reads (ha : Alone s g (.mdrain o) k it) (hbad : t.badElems = []) {r c : Nat} (hr : r < 128) (hc : c < 16)
    (hb : it.readV o.b = BitVec.ofNat 32 (256 * c + r)) : exec (.mdrain o) s = .next (s.goesOn (.mdrain o) g k it (fun it =>
      (((it.writeV o.d (Table.read 0 t.elems (64 * r + 4 * c + 0))).writeV (o.d + 1) (Table.read 0 t.elems (64 * r + 4 * c + 1))).writeV (o.d + 2)
        (Table.read 0 t.elems (64 * r + 4 * c + 2))).writeV (o.d + 3) (Table.read 0 t.elems (64 * r + 4 * c + 3)))) := by
  have hread : (s.envOf g k it).it.readV o.b = BitVec.ofNat 32 (256 * c + r) := hb
  have htop : field (BitVec.ofNat 32 (256 * c + r)) 31 12 = 0 := by simp [field]; omega
  have hrow : field (BitVec.ofNat 32 (256 * c + r)) 6 0 = r := by simp [field]; omega
  have hcol : field (BitVec.ofNat 32 (256 * c + r)) 11 8 = c := by simp [field]; omega
  have hbit : (BitVec.ofNat 32 (256 * c + r))[7] = false := by
    rw [BitVec.getElem_eq_testBit_toNat, BitVec.toNat_ofNat, Nat.testBit_eq_decide_div_mod_eq, decide_eq_false_iff_not]
    omega
  rw [exec_mdrain, execMdrain]
  refine congrArg Host.Outcome.next (State.tileItems_alone ha hh hidle (fun _ => ⟨rfl, rfl⟩) ?_)
  simp [hread, htop, hrow, hcol, hbit, hbad, Item.writeV4_pairs]

/-- mmeta writes the tile's condition to D. -/
theorem mmeta_reads (ha : Alone s g (.mmeta o) k it) :
    exec (.mmeta o) s = .next (s.goesOn (.mmeta o) g k it (fun it => it.writeV o.d (BitVec.ofNat 32 (t.nsteps.toNat +
      (if t.int32 then 2 ^ 16 else 0) + (match t.weights with
        | some (_, fmt, sp) => 2 ^ 22 + 2 ^ 17 * fmt.toNat + (if sp then 2 ^ 21 else 0)
        | none => 0))))) := by
  rw [exec_mmeta, execMmeta]
  refine congrArg Host.Outcome.next (State.tileItems_alone ha hh hidle (fun _ => ⟨rfl, rfl⟩) ?_)
  cases hw : t.weights with
  | none =>
    refine congrArg (fun n => Ending.done ((s.envOf g k it).it.writeV o.d (BitVec.ofNat 32 n))) ?_
    simp only [hh.sound, boolNat, Option.isSome_none, Bool.false_eq_true, reduceIte]
    split_ifs <;> omega
  | some w =>
    obtain ⟨b, fmt, sp⟩ := w
    refine congrArg (fun n => Ending.done ((s.envOf g k it).it.writeV o.d (BitVec.ofNat 32 n))) ?_
    simp only [hh.sound, boolNat, Option.isSome_none, Bool.false_eq_true, reduceIte]
    split_ifs <;> omega

/-- mcsum writes a row's checksum pair to D. -/
theorem mcsum_reads (ha : Alone s g (.mcsum o) k it) (hrow : (it.readV o.b).toNat < 128) (hbad : t.badRows = []) :
    exec (.mcsum o) s = .next (s.goesOn (.mcsum o) g k it (fun x =>
      (x.writeV o.d (Table.read (0, 0) t.csum (it.readV o.b).toNat).1).writeV (o.d + 1) (Table.read (0, 0) t.csum (it.readV o.b).toNat).2)) := by
  have hread : (s.envOf g k it).it.readV o.b = it.readV o.b := rfl
  have htop : field (it.readV o.b) 31 7 = 0 := by simp only [field]; omega
  rw [exec_mcsum, execMcsum]
  refine congrArg Host.Outcome.next (State.tileItems_alone ha hh hidle (fun _ => ⟨rfl, rfl⟩) ?_)
  simp [hread, htop, hbad, Item.writeV2_pair]

end

/-- Settles O40: a tile-wide form changes its tiles and its wave goes on; a form of one item ends in what it reads of its tile. -/
theorem tileForms : Obligations.TileForms := by
  refine fun s g o q hp => ⟨fun ha hsome hseat hnone => ⟨fun x hx => macq_binds hp ha hsome hseat hnone hx, macq_waits hp ha hsome hseat hnone⟩,
    fun t hh hidle => ⟨mrel_releases hp hh hidle, mzero_zeroes hp hh hidle⟩, fun k it t hh hidle => ⟨fun ha hbad r c hr hc hb => ?_,
      mmeta_reads hh hidle, mcsum_reads hh hidle⟩⟩
  exact mdrain_reads hh hidle ha hbad hr hc hb

end Sys2Proof.Machine
end

section
/-! PROOFS. The elements of a tile (11 R220, R230): the array on which a form works, and what a change of some of its rows leaves. -/

namespace Sys2Proof.Machine

/-! ### Elements as an array and as a table -/

theorem size_foldl_setIfInBounds {α : Type} (l : List α) (f : Array W32 → α → Nat) (h : Array W32 → α → W32) (a : Array W32) :
    (l.foldl (fun a p => a.setIfInBounds (f a p) (h a p)) a).size = a.size := by
  induction l generalizing a with
  | nil => rfl
  | cons p l ih => rw [List.foldl_cons, ih, Array.size_setIfInBounds]

@[simp] theorem size_denseElems (t : Table W32) : (denseElems t).size = 8192 :=
  (size_foldl_setIfInBounds t _ _ _).trans Array.size_replicate

theorem getD_setIfInBounds (a : Array W32) (j : Nat) (x : W32) {k : Nat} (hk : k < a.size) :
    (a.setIfInBounds j x).getD k 0 = if j = k then x else a.getD k 0 := by
  simp only [Array.getD_eq_getD_getElem?, Array.getElem?_setIfInBounds]
  split <;> simp_all

/-- Laid into an array, a sorted table gives the elements that it lists. -/
theorem getD_foldl_table {t : Table W32} (ht : Table.sorted t = true) (a : Array W32) {k : Nat} (hk : k < a.size) :
    (t.foldl (fun a p => a.setIfInBounds p.1 p.2) a).getD k 0 = (Table.get? t k).getD (a.getD k 0) := by
  induction t generalizing a with
  | nil => rfl
  | cons p t ih =>
    obtain ⟨j, x⟩ := p
    obtain ⟨habove, ht'⟩ := (Table.sorted_cons j x t).1 ht
    rw [List.foldl_cons, ih ht' _ (by simpa using hk), getD_setIfInBounds a j x hk]
    by_cases hkj : k = j
    · subst hkj
      simp [Table.get?, Table.get?_none_of_above habove]
    · simp [Table.get?, hkj, Ne.symm hkj]

theorem getD_denseElems {t : Table W32} (ht : Table.sorted t = true) {k : Nat} (hk : k < 8192) :
    (denseElems t).getD k 0 = Table.read 0 t k := by
  refine (getD_foldl_table ht _ (by simpa using hk)).trans ?_
  simp [Table.read, Array.getD_eq_getD_getElem?, hk]

/-- A list's elements other than zero, numbered from `s`, as a table. -/
theorem read_numbered (l : List W32) (s k : Nat) :
    Table.read 0 (((List.range' s l.length).zip l).filter (fun p => p.2 != 0)) k = if s ≤ k then l.getD (k - s) 0 else 0 := by
  induction l generalizing s with
  | nil => simp [Table.read, Table.get?]
  | cons x l ih =>
    rw [List.length_cons, List.range'_succ, List.zip_cons_cons, List.filter_cons]
    have htail := ih (s + 1)
    by_cases hks : k = s
    · subst hks
      by_cases hx : x = 0
      · simpa [hx] using htail
      · simp [show ¬x = 0#32 from hx, Table.read, Table.get?]
    · have hlist : (if s ≤ k then (x :: l).getD (k - s) 0 else 0) = if s + 1 ≤ k then l.getD (k - (s + 1)) 0 else 0 := by
        by_cases hle : s + 1 ≤ k
        · rw [if_pos (by omega), if_pos hle, show k - s = k - (s + 1) + 1 by omega, List.getD_cons_succ]
        · rw [if_neg (by omega), if_neg hle]
      rw [hlist, ← htail]
      split
      · simp [Table.read, Table.get?, hks]
      · rfl

theorem read_sparseElems {a : Array W32} (ha : a.size = 8192) (k : Nat) : Table.read 0 (sparseElems a) k = a.getD k 0 := by
  have h := read_numbered a.toList 0 k
  rw [Array.length_toList, ha, ← List.range_eq_range'] at h
  simpa [sparseElems, upTo, Array.getD_eq_getD_getElem?] using h

/-! ### Changes of rows -/

/-- The first `m` elements of row `r` changed, each by its own old value. -/
def changedRow (f : Nat → W32 → W32) (r m : Nat) (a : Array W32) : Array W32 :=
  (List.range m).foldl (fun a n => a.setIfInBounds (64 * r + n) (f n (a.getD (64 * r + n) 0))) a

@[simp] theorem size_changedRow (f : Nat → W32 → W32) (r m : Nat) (a : Array W32) : (changedRow f r m a).size = a.size :=
  size_foldl_setIfInBounds _ _ _ _

theorem getD_changedRow (f : Nat → W32 → W32) (r m : Nat) {a : Array W32} {k : Nat} (hk : k < a.size) :
    (changedRow f r m a).getD k 0 = if 64 * r ≤ k ∧ k < 64 * r + m then f (k - 64 * r) (a.getD k 0) else a.getD k 0 := by
  induction m with
  | zero => rw [if_neg (by omega)]; rfl
  | succ m ih =>
    have hstep : changedRow f r (m + 1) a =
        (changedRow f r m a).setIfInBounds (64 * r + m) (f m ((changedRow f r m a).getD (64 * r + m) 0)) := by
      simp only [changedRow, List.range_succ, List.foldl_append, List.foldl_cons, List.foldl_nil]
    rw [hstep, getD_setIfInBounds _ _ _ (by simpa using hk)]
    by_cases hkm : 64 * r + m = k
    · subst hkm
      rw [if_pos rfl, if_pos (by omega), ih, if_neg (by omega), Nat.add_sub_cancel_left]
    · rw [if_neg hkm, ih]
      exact if_congr (by omega) rfl rfl

/-- Whole rows changed. -/
def changedRows (f : Nat → Nat → W32 → W32) (rows : List Nat) (a : Array W32) : Array W32 :=
  rows.foldl (fun a r => changedRow (f r) r 64 a) a

theorem changedRows_cons (f : Nat → Nat → W32 → W32) (r : Nat) (rows : List Nat) (a : Array W32) :
    changedRows f (r :: rows) a = changedRows f rows (changedRow (f r) r 64 a) := by
  simp only [changedRows, List.foldl_cons]

@[simp] theorem size_changedRows (f : Nat → Nat → W32 → W32) (rows : List Nat) (a : Array W32) : (changedRows f rows a).size = a.size := by
  induction rows generalizing a with
  | nil => rfl
  | cons r rows ih => rw [changedRows_cons, ih, size_changedRow]

/-- Each element of the listed rows is changed once, every other element is as before. -/
theorem getD_changedRows (f : Nat → Nat → W32 → W32) {rows : List Nat} (hrows : rows.Nodup) {a : Array W32} {q n : Nat} (hn : n < 64)
    (hk : 64 * q + n < a.size) :
    (changedRows f rows a).getD (64 * q + n) 0 = if q ∈ rows then f q n (a.getD (64 * q + n) 0) else a.getD (64 * q + n) 0 := by
  induction rows generalizing a with
  | nil => simp [changedRows]
  | cons r rows ih =>
    obtain ⟨hr, hrest⟩ := List.nodup_cons.1 hrows
    have hrow := getD_changedRow (f r) r 64 hk
    rw [changedRows_cons, ih hrest (by simpa using hk)]
    by_cases hqr : q = r
    · subst hqr
      rw [if_neg hr, if_pos List.mem_cons_self, hrow, if_pos (by omega), Nat.add_sub_cancel_left]
    · rw [if_neg (by omega)] at hrow
      rw [hrow]
      exact if_congr (by simp [hqr]) rfl rfl

/-- A pass over rows that carries more beside the elements changes these as `changedRows`. -/
theorem fst_foldl_rows {β : Type} {step : Array W32 × β → Nat → Nat → Array W32 × β} {f : Nat → Nat → W32 → W32}
    (h : ∀ x r n, (step x r n).1 = x.1.setIfInBounds (64 * r + n) (f r n (x.1.getD (64 * r + n) 0))) (rows : List Nat) (x : Array W32 × β) :
    (rows.foldl (fun x r => (upTo 64).foldl (fun x n => step x r n) x) x).1 = changedRows f rows x.1 :=
  (List.foldl_hom Prod.fst fun _ r => List.foldl_hom Prod.fst (g₁ := fun x n => step x r n) fun x n => (h x r n).symm).symm

/-- The elements of a tile of which whole rows were changed. -/
theorem read_changedRows {t : Table W32} (ht : Table.sorted t = true) (f : Nat → Nat → W32 → W32) {rows : List Nat} (hrows : rows.Nodup) {r n : Nat}
    (hr : r < 128) (hn : n < 64) : Table.read 0 (sparseElems (changedRows f rows (denseElems t))) (64 * r + n) =
      if r ∈ rows then f r n (Table.read 0 t (64 * r + n)) else Table.read 0 t (64 * r + n) := by
  rw [read_sparseElems (by simp), getD_changedRows f hrows hn (by rw [size_denseElems]; omega), getD_denseElems ht (by omega)]

theorem nodup_rowSpan (rb0 nrb1 : BitVec 3) : (rowSpan rb0 nrb1).Nodup := List.nodup_range.map fun _ _ h => Nat.add_left_cancel h

theorem mem_rowSpan {rb0 nrb1 : BitVec 3} {r : Nat} :
    r ∈ rowSpan rb0 nrb1 ↔ 16 * rb0.toNat ≤ r ∧ r < 16 * rb0.toNat + 16 * (nrb1.toNat + 1) := by
  simp only [rowSpan, upTo, List.mem_map, List.mem_range]
  constructor
  · rintro ⟨j, hj, rfl⟩
    omega
  · intro h
    exact ⟨r - 16 * rb0.toNat, by omega, by omega⟩

@[simp] theorem length_rowSpan (rb0 nrb1 : BitVec 3) : (rowSpan rb0 nrb1).length = 16 * (nrb1.toNat + 1) := by simp [rowSpan, upTo]

end Sys2Proof.Machine
end

section
/-! PROOFS. The synchronous forms on the rows of a tile (11 R238 to R240): mfill, madd, mscale and mdrains of a lone item. -/

namespace Sys2Proof.Machine

/-! ### A lone item's tile-wide form -/

section
variable {s : State} {g : Group} {i : Instr} {k : Nat} {it : Item} (ha : Alone s g i k it)
include ha

theorem Alone.someGuard : SomeGuard s g i :=
  ⟨k, by rw [ha.only]; exact List.mem_cons_self, it, ha.here, Env.gate_go_guard ha.passes⟩

/-- Where the group lists each slot once, the item's own checks are those of every member of its wave. -/
theorem Alone.admits (hs : Table.sorted g.items = true) : Admits s g i := by
  intro p hm hslot
  have hk : p.1 = k := by simpa [ha.only] using hslot
  have hit : p.2 = it := Option.some_inj.1 ((Table.get?_of_mem hs (k := k) (hk ▸ hm)).symm.trans ha.here)
  rw [hk, hit]
  exact .inl ⟨ha.passes, ha.whole⟩

theorem Alone.participants : s.participants i = [s.envOf g k it] := by
  have henv : s.env? k = some (s.envOf g k it) := by simp [State.env?, ha.plain.group, ha.here]
  have hpasses : (s.envOf g k it).passes i g.badS = true := by simp [Env.passes, ha.passes, ha.whole]
  simp [State.participants, ha.plain.group, ha.only, ascending, ascending.insertNat, henv, hpasses]

/-- A tile-wide form of a lone item with an effect on its group: the item goes on. -/
theorem State.tileWave_alone (hs : Table.sorted g.items = true) {name : Nat} {t : Tile} (hh : Holds g name t) {sync : Bool}
    (hidle : sync = true → t.ops = []) {body : Env → Group → List Env → Tile → TileEffect} {F : Group → Group} (hF : g.SameWave (F g))
    (hbody : body (s.envOf g k it) g [s.envOf g k it] t = .done (s.modGroup s.wave.gid F)) :
    s.tileWave i name sync body = (s.modGroup s.wave.gid F).past g i := by
  have hadmits := ha.admits hs
  rw [State.tileWave_done ha.plain hadmits ha.someGuard hh hidle, State.mapWave_modGroup hF ha.plain hadmits]
  intro e es hes _
  rw [ha.participants] at hes
  cases hes
  exact hbody

end

/-- The wave's group after its members have gone on. -/
theorem State.group?_past {u : State} {h : Group} (hh : u.group? u.wave.gid = some h) (g : Group) (i : Instr) : (u.past g i).group? u.wave.gid =
    some { h with items := h.items.mapAll (fun k it =>
      if u.wave.slots.contains k then (u.envOf g k it).under i Env.nextPc (fun e => e.it) else it) } := by
  rw [State.past, State.after, State.group?_modGroup_self, hh]
  rfl

/-! ### A form that changes the elements of an Idle tile -/

/-- An item that waits for MSTAT may take flags into what it waits with (R229). -/
def Item.heardMstat (n : Nat) (f : BitVec 5) (it : Item) : Item :=
  match it.wait with
  | .mstat bound acc => if n < bound then { it with wait := .mstat bound (acc ||| f) } else it
  | _ => it

theorem Group.raiseMstat_eq (g : Group) (n : Nat) (f : BitVec 5) :
    g.raiseMstat n f = { g with mstat := g.mstat ||| f, items := g.items.mapAll (fun _ it => it.heardMstat n f) } := rfl

theorem Item.heardMstat_eq (n : Nat) (f : BitVec 5) (it : Item) : ∃ w, it.heardMstat n f = { it with wait := w } := by
  unfold Item.heardMstat
  split
  · split
    · exact ⟨_, rfl⟩
    · exact ⟨it.wait, rfl⟩
  · exact ⟨it.wait, rfl⟩

/-- The group with a tile changed, and its flags raised after every operation issued so far. -/
def Group.workTile (name : Nat) (f : Tile → Tile) (flags : BitVec 5) (g : Group) : Group :=
  Group.raiseMstat { g with tiles := Table.modify g.tiles name f } g.matrixIssue flags

theorem Group.workTile_sameWave (name : Nat) (f : Tile → Tile) (flags : BitVec 5) (g : Group) : g.SameWave (g.workTile name f flags) := by
  refine ⟨rfl, rfl, rfl, rfl, rfl, fun p hm => ?_⟩
  obtain ⟨q, hq, rfl⟩ := List.mem_map.1 hm
  obtain ⟨w, hw⟩ := Item.heardMstat_eq g.matrixIssue flags q.2
  exact ⟨q.2, hq, w, _, _, hw⟩

theorem State.modTile_raiseNow (s : State) (gid name : Nat) (f : Tile → Tile) (flags : BitVec 5) :
    (s.modTile gid name f).raiseNow gid flags = s.modGroup gid (Group.workTile name f flags) := State.modGroup_modGroup ..

/-- A lone item's form gives an Idle tile new elements and goes on; registers, scratchpad and memory are as before. -/
def ElementsChanged (s : State) (g : Group) (k : Nat) (it : Item) (i : Instr) (name : Nat) (new : Nat → Nat → W32) (int32 : Bool) : Prop :=
  ∃ u h t', exec i s = .next u ∧ u.memory = s.memory ∧ u.group? s.wave.gid = some h ∧ Table.get? h.tiles name = some t' ∧ t'.int32 = int32 ∧
    (∀ r n, r < 128 → n < 64 → t'.element r n = new r n) ∧ h.scratch = g.scratch ∧
    Table.get? h.items k = some ((s.envOf g k it).on i (s.envOf g k it).nextPc { it with wait := .none })

section
variable {s : State} {g : Group} {i : Instr} {k : Nat} {it : Item} (ha : Alone s g i k it) (hs : Table.sorted g.items = true)
include ha hs

theorem elementsChanged_of_tileWave {name : Nat} {t : Tile} (hh : Holds g name t) (hidle : t.ops = [])
    {body : Env → Group → List Env → Tile → TileEffect} (hexec : exec i s = .next (s.tileWave i name true body)) {new : Nat → Nat → W32}
    {int32 : Bool} (hbody : ∃ f flags,
      body (s.envOf g k it) g [s.envOf g k it] t = .done ((s.modTile s.wave.gid name f).raiseNow s.wave.gid flags) ∧ (f t).int32 = int32 ∧
        ∀ r n, r < 128 → n < 64 → (f t).element r n = new r n) :
    ElementsChanged s g k it i name new int32 := by
  obtain ⟨f, flags, hbody, hint, hnew⟩ := hbody
  rw [State.modTile_raiseNow] at hbody
  have hF := Group.workTile_sameWave name f flags g
  have hgroup : (s.modGroup s.wave.gid (Group.workTile name f flags)).group? s.wave.gid = some (g.workTile name f flags) := by
    rw [State.group?_modGroup_self, ha.plain.group]
    rfl
  obtain ⟨w, hw⟩ := Item.heardMstat_eq g.matrixIssue flags it
  have hitem : Table.get? (g.workTile name f flags).items k = some { it with wait := w } :=
    hw ▸ Table.get?_mapAll_some ha.here (fun _ it => it.heardMstat g.matrixIssue flags)
  have hwave := State.tileWave_alone ha hs hh (sync := true) (fun _ => hidle) hF hbody
  refine ⟨_, _, f t, hexec.trans (congrArg Host.Outcome.next hwave), rfl, State.group?_past hgroup g i, ?_, hint, hnew, rfl, ?_⟩
  · show Table.get? (Table.modify g.tiles name f) name = _
    rw [Table.get?_modify, if_pos rfl, hh.held]
    rfl
  · have hslot : s.wave.slots.contains k = true := by simp [ha.only]
    have hguard : it.guard (shapeOf i).form.g = true := Env.gate_go_guard ha.passes
    dsimp only
    rw [Table.get?_mapAll_some hitem]
    exact congrArg some ((if_pos hslot).trans (if_pos hguard))

end

/-! ### The scratchpad of a context that keeps no log -/

@[simp] theorem Env.of_readV (s : State) (g : Group) (gid k : Nat) (it : Item) (n : BitVec 7) : (Env.of s g gid k it).it.readV n = it.readV n := rfl
@[simp] theorem Env.of_gid (s : State) (g : Group) (gid k : Nat) (it : Item) : (Env.of s g gid k it).gid = gid := rfl

section
variable {s : State} {g : Group} {gid : Nat} (hg : s.group? gid = some g) (hoff : (s.hind g.ctx).mode = .off)
include hoff

theorem State.mayServeSpad_off (it : Item) : s.mayServeSpad g it = true := by
  unfold State.mayServeSpad
  split
  · simp [State.mayServe, State.mayServeAs, Hindcast.replaying, hoff]
  · rfl

include hg

theorem State.recordSpad_off (slot x : Nat) (write : Bool) : s.recordSpad gid slot x write = s := by
  cases hit : s.item? gid slot with
  | none => simp [State.recordSpad, hg, hit]
  | some it =>
    simp only [State.recordSpad, hg, hit]
    split
    · simp [State.recordAccess, State.recordAs, hoff]
    · rfl

theorem State.recordSpan_off {e : Env} (he : e.gid = gid) (x n : Nat) (write : Bool) : s.recordSpan e x n write = s :=
  foldl_eq_self fun j _ => by rw [he, State.recordSpad_off hg hoff]

end

theorem Group.poisonAt_none {g : Group} (h : g.spadPoison = []) (x n : Nat) : g.poisonAt x n = none := by
  simp [Group.poisonAt, h, Table.read, Table.get?]

/-- A byte of what is read of the scratchpad. -/
theorem getD_spadRead (g : Group) {x n j : Nat} (hj : j < n) : (g.spadRead x n).toArray.getD j 0 = Table.read 0 g.scratch (x + j) := by
  simp [Group.spadRead, upTo, Array.getD_eq_getD_getElem?, hj]

/-- Rows that lie in the scratchpad meet no trap (R238). -/
theorem RowsFit.rowsTrap_none {g : Group} {x stride rows bytes : Nat} (h : RowsFit g x stride rows bytes) (write : Bool) :
    rowsTrap g.scratchBytes x stride rows bytes write = none := by
  obtain ⟨⟨hx, hstride⟩, hinside, -⟩ := h
  have hrow : ∀ r < rows, x + r * stride + bytes ≤ g.scratchBytes := fun r hr => by
    have := Nat.mul_le_mul_right stride (Nat.le_sub_one_of_lt hr)
    omega
  have hnone : (upTo rows).find? (fun r => decide (g.scratchBytes < x + r * stride + bytes)) = none :=
    List.find?_eq_none.2 fun r hr => by simpa using hrow r (List.mem_range.1 hr)
  rw [rowsTrap, if_neg (not_not.2 hx), if_neg (not_not.2 hstride), hnone]
  rfl

/-! ### mfill and madd (R239) -/

/-- The word of the scratchpad that stands for element `n` of a row of words at `x`. -/
def Group.wordAt (g : Group) (x n : Nat) : W32 := BitVec.ofNat 32 (leNat (g.spadRead (x + 4 * n) 4))

/-- The same word, cut out of the 256 bytes of its row. -/
def Group.segmentWord (g : Group) (x n : Nat) : W32 :=
  BitVec.ofNat 32 (leNat ((upTo 4).map (fun j => (g.spadRead x 256).toArray.getD (4 * n + j) 0)))

theorem Group.segmentWord_eq (g : Group) (x : Nat) {n : Nat} (hn : n < 64) : g.segmentWord x n = g.wordAt x n := by
  refine congrArg (fun bs => BitVec.ofNat 32 (leNat bs)) (List.map_congr_left fun j hj => ?_)
  have hj4 : j < 4 := List.mem_range.1 hj
  rw [getD_spadRead g (by omega), Nat.add_assoc]

/-- One element changed by the word at its place, with its flags. -/
def fillStep (f : W32 → W32 → W32 × BitVec 5) (word : Nat → Nat → W32) (x : Array W32 × BitVec 5) (r n : Nat) : Array W32 × BitVec 5 :=
  let z := f (x.1.getD (64 * r + n) 0) (word r n)
  (x.1.setIfInBounds (64 * r + n) z.1, x.2 ||| z.2)

theorem fst_foldl_fillStep (f : W32 → W32 → W32 × BitVec 5) (word : Nat → Nat → W32) (rows : List Nat) (x : Array W32 × BitVec 5) :
    (rows.foldl (fun x r => (upTo 64).foldl (fun x n => fillStep f word x r n) x) x).1 =
      changedRows (fun r n z => (f z (word r n)).1) rows x.1 :=
  fst_foldl_rows (step := fillStep f word) (fun _ _ _ => rfl) rows x

section
variable {s : State} {g : Group} {i : Instr} {o : RowsForm} {k : Nat} {it : Item} {t : Tile} (ha : Alone s g i k it)
  (hs : Table.sorted g.items = true) (hoff : (s.hind g.ctx).mode = .off) (hh : Holds g o.d.toNat t) (hidle : t.ops = []) (htidy : t.Tidy)
  (hfit : RowsFit g (it.readV o.a).toNat (it.readV o.b).toNat (16 * (o.nrb1.toNat + 1)) 256)
include ha hs hoff hh hidle htidy hfit

/-- Each element of the rows is changed by the word read for it. -/
theorem fillRows_changes {f : Bool → W32 → W32 → W32 × BitVec 5} {reads : Bool} (hexec : exec i s = .next (fillRows i o f reads s)) :
    ElementsChanged s g k it i o.d.toNat (fun r n =>
      if 16 * o.rb0.toNat ≤ r ∧ r < 16 * o.rb0.toNat + 16 * (o.nrb1.toNat + 1) then
        (f t.int32 (t.element r n) (g.wordAt ((it.readV o.a).toNat + (r - 16 * o.rb0.toNat) * (it.readV o.b).toNat) n)).1
      else t.element r n) t.int32 := by
  obtain ⟨hcanonical, -, hbad, -⟩ := htidy
  have hpoison : ∀ place : Nat → Nat, (rowSpan o.rb0 o.nrb1).findSome? (fun r => g.poisonAt (place r) 256) = none := fun place =>
    List.findSome?_eq_none_iff.2 fun r _ => Group.poisonAt_none hfit.whole _ _
  have hrecord : ∀ place : Nat → Nat, (rowSpan o.rb0 o.nrb1).foldl (fun u r => u.recordSpan (s.envOf g k it) (place r) 256 false) s = s :=
    fun place => foldl_eq_self fun r _ => State.recordSpan_off ha.plain.group hoff rfl _ _ _
  rw [fillRows] at hexec
  refine elementsChanged_of_tileWave ha hs hh hidle hexec ?_
  simp only [Env.of_readV, Env.of_gid, length_rowSpan, hfit.rowsTrap_none, hpoison, hbad, State.mayServeSpad_off hoff, List.any_nil, Bool.and_false,
    Bool.not_true, Bool.false_eq_true, if_false, hrecord]
  refine ⟨_, _, rfl, rfl, fun r n hr hn => ?_⟩
  have hsorted := ((Table.canonical_iff 0 _).1 hcanonical).1
  have hfst := fst_foldl_fillStep (f t.int32) (fun r => g.segmentWord ((it.readV o.a).toNat + (r - 16 * o.rb0.toNat) * (it.readV o.b).toNat))
    (rowSpan o.rb0 o.nrb1) (denseElems t.elems, 0)
  simp only [fillStep, Group.segmentWord] at hfst
  simp only [Tile.element, hfst]
  rw [read_changedRows hsorted _ (nodup_rowSpan _ _) hr hn]
  refine if_congr mem_rowSpan ?_ rfl
  exact congrArg (fun y => (f t.int32 _ y).1) (g.segmentWord_eq _ hn)

end

theorem exec_mfill (o : RowsForm) (s : State) : exec (.mfill o) s = .next (fillRows (.mfill o) o (fun _ _ y => (y, 0)) false s) := rfl
theorem exec_madd (o : RowsForm) (s : State) : exec (.madd o) s = .next (fillRows (.madd o) o addElement true s) := rfl
theorem exec_mscale (o : Form) (s : State) : exec (.mscale o) s = execMscale o s := rfl

/-- mfill puts the word read for it in the place of each element of its rows. -/
theorem mfill_fills {s : State} {g : Group} {o : RowsForm} {k : Nat} {it : Item} {t : Tile} (ha : Alone s g (.mfill o) k it)
    (hs : Table.sorted g.items = true) (hoff : (s.hind g.ctx).mode = .off) (hh : Holds g o.d.toNat t) (hidle : t.ops = []) (htidy : t.Tidy)
    (hfit : RowsFit g (it.readV o.a).toNat (it.readV o.b).toNat (16 * (o.nrb1.toNat + 1)) 256) :
    ElementsChanged s g k it (.mfill o) o.d.toNat (fun r n => if 16 * o.rb0.toNat ≤ r ∧ r < 16 * o.rb0.toNat + 16 * (o.nrb1.toNat + 1) then
      g.wordAt ((it.readV o.a).toNat + (r - 16 * o.rb0.toNat) * (it.readV o.b).toNat) n else t.element r n) t.int32 :=
  fillRows_changes ha hs hoff hh hidle htidy hfit (exec_mfill o s)

/-- madd of an INT32 tile adds the word read for it to each element of its rows, modulo 2^32. -/
theorem madd_adds {s : State} {g : Group} {o : RowsForm} {k : Nat} {it : Item} {t : Tile} (ha : Alone s g (.madd o) k it)
    (hs : Table.sorted g.items = true) (hoff : (s.hind g.ctx).mode = .off) (hh : Holds g o.d.toNat t) (hidle : t.ops = []) (htidy : t.Tidy)
    (hfit : RowsFit g (it.readV o.a).toNat (it.readV o.b).toNat (16 * (o.nrb1.toNat + 1)) 256) (hint : t.int32 = true) :
    ElementsChanged s g k it (.madd o) o.d.toNat (fun r n => if 16 * o.rb0.toNat ≤ r ∧ r < 16 * o.rb0.toNat + 16 * (o.nrb1.toNat + 1) then
      t.element r n + g.wordAt ((it.readV o.a).toNat + (r - 16 * o.rb0.toNat) * (it.readV o.b).toNat) n else t.element r n) true := by
  have hchanges := fillRows_changes ha hs hoff hh hidle htidy hfit (exec_madd o s)
  rwa [hint] at hchanges

/-! ### mscale (R239) -/

/-- mscale of an INT32 tile multiplies each element and makes the tile FP32. -/
theorem mscale_scales {s : State} {g : Group} {o : Form} {k : Nat} {it : Item} {t : Tile} (ha : Alone s g (.mscale o) k it)
    (hs : Table.sorted g.items = true) (hh : Holds g o.d.toNat t) (hidle : t.ops = []) (htidy : t.Tidy) (hint : t.int32 = true) :
    ElementsChanged s g k it (.mscale o) o.d.toNat (fun r n => (scaleElement true (t.element r n) (it.readV o.a)).1) false := by
  obtain ⟨hcanonical, -, hbad, -⟩ := htidy
  refine elementsChanged_of_tileWave ha hs hh hidle (exec_mscale o s) ?_
  simp only [Env.of_readV, Env.of_gid, hbad, hint, List.isEmpty_nil, Bool.not_true, Bool.false_eq_true, if_false]
  refine ⟨_, _, rfl, rfl, fun r n hr hn => ?_⟩
  have hget := getD_denseElems ((Table.canonical_iff 0 _).1 hcanonical).1 (show 64 * r + n < 8192 by omega)
  simp only [Tile.element]
  rw [read_sparseElems (by simp), ← hget]
  have hsize : 64 * r + n < (denseElems t.elems).size := by rw [size_denseElems]; omega
  simp only [Array.getD_eq_getD_getElem?, Array.getElem?_map, Array.getElem?_eq_getElem hsize, Option.map_some, Option.getD_some]

/-! ### mdrains (R238, R258) -/

theorem Table.modify_self {α : Type} {t : Table α} {k : Nat} {a : α} (h : Table.get? t k = some a) : Table.modify t k (fun _ => a) = t := by
  induction t with
  | nil => rfl
  | cons p t ih =>
    obtain ⟨j, b⟩ := p
    by_cases hk : k = j
    · subst hk
      simp only [Table.get?, if_true, Option.some.injEq] at h
      simp [Table.modify, h]
    · simp only [Table.get?, if_neg hk] at h
      simp [Table.modify, hk, ih h]

theorem State.modGroup_self {s : State} {gid : Nat} {g : Group} (hg : s.group? gid = some g) : s.modGroup gid (fun _ => g) = s := by
  rw [State.modGroup, Table.modify_self hg]

theorem Item.heardMstat_zero (n : Nat) (it : Item) : it.heardMstat n 0 = it := by
  unfold Item.heardMstat
  split
  next bound acc hw =>
    split
    · rw [show acc ||| 0 = acc from BitVec.or_zero, ← hw]
    · rfl
  next => rfl

/-- No flags raise nothing. -/
theorem State.raiseNow_zero {s : State} {gid : Nat} {g : Group} (hg : s.group? gid = some g) : s.raiseNow gid 0 = s := by
  refine (State.modGroup_congr hg ?_).trans (State.modGroup_self hg)
  simp only [Group.raiseMstat_eq, Item.heardMstat_zero, Table.mapAll, List.map_id']
  rw [show g.mstat ||| 0 = g.mstat from BitVec.or_zero]

/-- A group, unguarded and in a context that keeps no log, no item of which waits for a granule. -/
structure State.Quiet (s : State) (gid : Nat) (g : Group) : Prop where
  group : s.group? gid = some g
  unguarded : g.guarded = none
  unlogged : (s.hind g.ctx).mode = .off
  still : ∀ y, g.NoWaiter y

/-- The group after bytes were written to its scratchpad from `x` on, with the full-empty bits of their granules set. -/
structure Group.Drained (g h : Group) (x : Nat) (bs : List W8) : Prop where
  same : ∃ sc fl po, h = { g with scratch := sc, full := fl, spadPoison := po }
  bytes : ∀ a, Table.read 0 h.scratch a = if x ≤ a ∧ a < x + bs.length then bs.getD (a - x) 0 else Table.read 0 g.scratch a
  bits : ∀ a, h.isFull a = if x ≤ a / 16 * 16 ∧ a / 16 * 16 < x + bs.length then true else g.isFull a

theorem Group.Drained.nil (g : Group) (x : Nat) : g.Drained g x [] :=
  ⟨⟨_, _, _, rfl⟩, fun a => (if_neg (by simp)).symm, fun a => (if_neg (by simp)).symm⟩

theorem Group.Drained.append {g h h' : Group} {x : Nat} {bs bs' : List W8} (h₁ : g.Drained h x bs) (h₂ : h.Drained h' (x + bs.length) bs') :
    g.Drained h' x (bs ++ bs') := by
  obtain ⟨⟨sc, fl, po, rfl⟩, hbytes, hbits⟩ := h₁
  obtain ⟨⟨sc', fl', po', rfl⟩, hbytes', hbits'⟩ := h₂
  refine ⟨⟨sc', fl', po', rfl⟩, fun a => ?_, fun a => ?_⟩
  · rw [hbytes', hbytes, List.length_append]
    by_cases hhigh : x + bs.length ≤ a ∧ a < x + bs.length + bs'.length
    · rw [if_pos hhigh, if_pos (by omega), List.getD_append_right _ _ _ _ (by omega), Nat.sub_sub]
    · rw [if_neg hhigh]
      by_cases hlow : x ≤ a ∧ a < x + bs.length
      · rw [if_pos hlow, if_pos (by omega), List.getD_append _ _ _ _ (by omega)]
      · rw [if_neg hlow, if_neg (by omega)]
  · rw [hbits', hbits, List.length_append]
    by_cases hhigh : x + bs.length ≤ a / 16 * 16 ∧ a / 16 * 16 < x + bs.length + bs'.length
    · rw [if_pos hhigh, if_pos (by omega)]
    · rw [if_neg hhigh]
      exact if_congr (by omega) rfl rfl

theorem read_foldl_write (bs : List W8) (x m : Nat) (t : Table W8) (a : Nat) :
    Table.read 0 ((bs.zip (List.range' m bs.length)).foldl (fun t p => Table.write 0 t (x + p.2) p.1) t) a =
      if x + m ≤ a ∧ a < x + m + bs.length then bs.getD (a - (x + m)) 0 else Table.read 0 t a := by
  induction bs generalizing m t with
  | nil => exact (if_neg (by simp)).symm
  | cons b bs ih =>
    rw [List.length_cons, List.range'_succ, List.zip_cons_cons, List.foldl_cons, ih, Table.read_write]
    by_cases ha : a = x + m
    · subst ha
      rw [if_neg (by omega), if_pos rfl, if_pos (by omega), Nat.sub_self]
      rfl
    · rw [if_neg ha]
      by_cases hin : x + (m + 1) ≤ a ∧ a < x + (m + 1) + bs.length
      · rw [if_pos hin, if_pos (by omega), show a - (x + m) = a - (x + (m + 1)) + 1 by omega, List.getD_cons_succ]
      · rw [if_neg hin, if_neg (by omega)]

theorem Group.drained_granule (g : Group) {x : Nat} (hx : x % 16 = 0) {bs : List W8} (hlen : bs.length = 16) :
    g.Drained ((g.spadWrite x bs).setFull x true) x bs := by
  refine ⟨⟨_, _, _, rfl⟩, fun a => ?_, fun a => ?_⟩
  · have h := read_foldl_write bs x 0 g.scratch a
    rw [← List.range_eq_range'] at h
    exact h
  · rw [Group.isFull, Group.setFull, Table.read_write]
    exact if_congr (by omega) rfl rfl

theorem Group.Drained.quiet {s : State} {gid : Nat} {g h : Group} {x : Nat} {bs : List W8} (hd : g.Drained h x bs) (hq : s.Quiet gid g) :
    (s.modGroup gid (fun _ => h)).Quiet gid h := by
  obtain ⟨⟨sc, fl, po, rfl⟩, -, -⟩ := hd
  exact ⟨by rw [State.group?_modGroup_self, hq.group]; rfl, hq.unguarded, hq.unlogged, hq.still⟩

theorem State.Quiet.granuleChanged {s : State} {gid : Nat} {g : Group} (hq : s.Quiet gid g) (x : Nat) : s.granuleChanged gid x = s := by
  have hwaiters : g.granuleWaiters x (g.isFull x) = [] := by
    simp only [Group.granuleWaiters]
    rw [List.filterMap_eq_nil_iff.2 fun p hp => ?_]
    · rfl
    · have hstill := hq.still x p hp
      cases hw : p.2.wait with
      | granuleFull off since o | granuleEmpty off since o =>
        rw [hw] at hstill
        simp [show ¬off / 16 = x / 16 from hstill]
      | _ => rfl
  simp [State.granuleChanged, hq.group, State.serveGranule, hwaiters]

/-- One granule of a form's bytes, with its bit (R258). -/
theorem State.Quiet.fillGranule {s : State} {gid : Nat} {g : Group} (hq : s.Quiet gid g) (slot : Nat) {x : Nat} (hx : x % 16 = 0) {bs : List W8}
    (hlen : bs.length = 16) :
    ((s.spadStore gid slot x bs).modGroup gid (fun g => g.setFull x true)).granuleChanged gid x =
      s.modGroup gid (fun _ => (g.spadWrite x bs).setFull x true) := by
  have hundo : s.undoScratch gid [x / 16] = s := by simp [State.undoScratch, hq.group, hq.unguarded]
  have hwritten : (s.modGroup gid (fun g => g.spadWrite x bs)).group? gid = some (g.spadWrite x bs) := by
    rw [State.group?_modGroup_self, hq.group]
    rfl
  have hrecord := State.recordSpad_off hwritten hq.unlogged slot x true
  have heffect : (s.modGroup gid (fun g => g.spadWrite x bs)).modGroup gid (fun g => g.setFull x true) =
      s.modGroup gid (fun _ => (g.spadWrite x bs).setFull x true) :=
    (State.modGroup_modGroup ..).trans (State.modGroup_congr hq.group rfl)
  rw [State.spadStore, hundo, hrecord, heffect, ((g.drained_granule hx hlen).quiet hq).granuleChanged]

/-- The granules of a form's bytes, from the `m`-th on. -/
theorem State.Quiet.fillGranules {e : Env} {x : Nat} (hx : x % 16 = 0) {q : Nat} {bs : List W8} (hlen : bs.length = 16 * q) :
    ∀ {s : State} {g : Group} {m fuel : Nat}, s.Quiet e.gid g → q ≤ fuel → ∃ h,
      ((piecesOf 16 fuel bs).zip (List.range' m fuel)).foldl (fun s p =>
        ((s.spadStore e.gid e.slot (x + 16 * p.2) p.1).modGroup e.gid (fun g => g.setFull (x + 16 * p.2) true)).granuleChanged e.gid
          (x + 16 * p.2)) s = s.modGroup e.gid (fun _ => h) ∧ g.Drained h (x + 16 * m) bs := by
  induction q generalizing bs with
  | zero =>
    intro s g m fuel hq _
    obtain rfl : bs = [] := List.length_eq_zero_iff.1 (by omega)
    have hpieces : piecesOf 16 fuel ([] : List W8) = [] := by cases fuel <;> rfl
    exact ⟨g, by rw [hpieces, State.modGroup_self hq.group]; rfl, .nil g _⟩
  | succ q ih =>
    intro s g m fuel hq hfuel
    obtain ⟨fuel, rfl⟩ : ∃ f, fuel = f + 1 := ⟨fuel - 1, by omega⟩
    have hne : bs.isEmpty = false := by
      rw [← Bool.not_eq_true, List.isEmpty_iff_length_eq_zero]
      omega
    have hfirst := g.drained_granule (x := x + 16 * m) (bs := bs.take 16) (by omega) (by rw [List.length_take]; omega)
    have hstep := hq.fillGranule e.slot (x := x + 16 * m) (bs := bs.take 16) (by omega) (by rw [List.length_take]; omega)
    obtain ⟨h, hfold, hdrained⟩ := ih (bs := bs.drop 16) (by rw [List.length_drop]; omega) (m := m + 1) (hfirst.quiet hq) (by omega : q ≤ fuel)
    refine ⟨h, ?_, ?_⟩
    · rw [piecesOf, hne, List.range'_succ]
      simp only [Bool.false_eq_true, if_false, List.zip_cons_cons, List.foldl_cons]
      rw [hstep, hfold, State.modGroup_modGroup]
    · have hplace : x + 16 * (m + 1) = x + 16 * m + (bs.take 16).length := by rw [List.length_take]; omega
      rw [hplace] at hdrained
      have := hfirst.append hdrained
      rwa [List.take_append_drop] at this

theorem State.Quiet.spadFill {s : State} {e : Env} {g : Group} (hq : s.Quiet e.gid g) {x : Nat} (hx : x % 16 = 0) {q : Nat} {bs : List W8}
    (hlen : bs.length = 16 * q) : ∃ h, s.spadFill e x bs = s.modGroup e.gid (fun _ => h) ∧ g.Drained h x bs := by
  obtain ⟨h, hfold, hdrained⟩ := State.Quiet.fillGranules (e := e) hx hlen (m := 0) (fuel := bs.length / 16 + 1) hq (by omega)
  rw [← List.range_eq_range'] at hfold
  exact ⟨h, hfold, hdrained⟩

/-- A byte lies in one of some rows of 256 bytes. -/
def Covers (start : Nat → Nat) (rows : List Nat) (a : Nat) : Prop := ∃ r ∈ rows, start r ≤ a ∧ a < start r + 256

/-- The group after rows of 256 bytes were written, each from `start` on, with the full-empty bits of their granules set. -/
structure Group.RowsDrained (g h : Group) (start : Nat → Nat) (bytes : Nat → List W8) (rows : List Nat) : Prop where
  same : ∃ sc fl po, h = { g with scratch := sc, full := fl, spadPoison := po }
  inside : ∀ r ∈ rows, ∀ j < 256, Table.read 0 h.scratch (start r + j) = (bytes r).getD j 0
  outside : ∀ a, ¬Covers start rows a → Table.read 0 h.scratch a = Table.read 0 g.scratch a
  filled : ∀ a, Covers start rows (a / 16 * 16) → h.isFull a = true
  kept : ∀ a, ¬Covers start rows (a / 16 * 16) → h.isFull a = g.isFull a

theorem covers_cons {start : Nat → Nat} {r : Nat} {rows : List Nat} {a : Nat} :
    Covers start (r :: rows) a ↔ (start r ≤ a ∧ a < start r + 256) ∨ Covers start rows a := by
  simp [Covers]

/-- Rows that begin at a granule cover whole granules. -/
theorem Covers.granule {start : Nat → Nat} {rows : List Nat} {a : Nat} (h : Covers start rows a) (haligned : ∀ r ∈ rows, start r % 16 = 0) :
    Covers start rows (a / 16 * 16) := by
  obtain ⟨r, hr, hlow, hhigh⟩ := h
  have := haligned r hr
  exact ⟨r, hr, by omega, by omega⟩

theorem Group.RowsDrained.cons {g h h' : Group} {start : Nat → Nat} {bytes : Nat → List W8} {r : Nat} {rows : List Nat}
    (hlen : (bytes r).length = 256) (hdisjoint : ∀ a, start r ≤ a → a < start r + 256 → ¬Covers start rows a)
    (h₁ : g.Drained h (start r) (bytes r)) (h₂ : h.RowsDrained h' start bytes rows) : g.RowsDrained h' start bytes (r :: rows) := by
  obtain ⟨⟨sc, fl, po, rfl⟩, hbytes, hbits⟩ := h₁
  obtain ⟨⟨sc', fl', po', rfl⟩, hinside, houtside, hfilled, hkept⟩ := h₂
  rw [hlen] at hbytes hbits
  refine ⟨⟨sc', fl', po', rfl⟩, fun q hq j hj => ?_, fun a ha => ?_, fun a ha => ?_, fun a ha => ?_⟩
  · rcases List.mem_cons.1 hq with rfl | hq
    · rw [houtside _ (hdisjoint _ (by omega) (by omega)), hbytes, if_pos (by omega), Nat.add_sub_cancel_left]
    · exact hinside q hq j hj
  · rw [covers_cons, not_or] at ha
    rw [houtside a ha.2, hbytes, if_neg ha.1]
  · by_cases hrest : Covers start rows (a / 16 * 16)
    · exact hfilled a hrest
    · rw [hkept a hrest, hbits, if_pos ((covers_cons.1 ha).resolve_right hrest)]
  · rw [covers_cons, not_or] at ha
    rw [hkept a ha.2, hbits, if_neg ha.1]

/-- Rows of 256 bytes, no two of which meet, are written one after another. -/
theorem State.Quiet.drainRows {e : Env} {start : Nat → Nat} {bytes : Nat → List W8} (hlen : ∀ r, (bytes r).length = 256) {rows : List Nat}
    (halign : ∀ r ∈ rows, start r % 16 = 0) (happart : rows.Pairwise (fun r q => start r + 256 ≤ start q)) : ∀ {s : State} {g : Group},
      s.Quiet e.gid g → ∃ h, rows.foldl (fun s r => (s.raiseNow e.gid 0).spadFill e (start r) (bytes r)) s = s.modGroup e.gid (fun _ => h) ∧
        g.RowsDrained h start bytes rows := by
  induction rows with
  | nil =>
    intro s g hq
    exact ⟨g, (State.modGroup_self hq.group).symm, ⟨⟨_, _, _, rfl⟩, by simp, fun _ _ => rfl, by simp [Covers], fun _ _ => rfl⟩⟩
  | cons r rows ih =>
    intro s g hq
    obtain ⟨hr, hrest⟩ := List.forall_mem_cons.1 halign
    obtain ⟨hfirst, happart⟩ := List.pairwise_cons.1 happart
    obtain ⟨h, hfill, hdrained⟩ := hq.spadFill hr (q := 16) (hlen r)
    obtain ⟨h', hfold, hrows⟩ := ih hrest happart (hdrained.quiet hq)
    refine ⟨h', ?_, .cons (hlen r) ?_ hdrained hrows⟩
    · rw [List.foldl_cons, State.raiseNow_zero hq.group, hfill, hfold, State.modGroup_modGroup]
    · rintro a - ha ⟨q, hq, hlow, -⟩
      have := hfirst q hq
      omega

/-- Pieces of one length in a row. -/
theorem length_flatMap_pieces {f : Nat → List W8} {w : Nat} (hf : ∀ n, (f n).length = w) (m : Nat) :
    ((List.range m).flatMap f).length = w * m := by
  induction m with
  | zero => rfl
  | succ m ih => rw [List.range_succ, List.flatMap_append, List.length_append, ih, List.flatMap_singleton, hf, Nat.mul_succ]

theorem getD_flatMap_pieces {f : Nat → List W8} {w : Nat} (hf : ∀ n, (f n).length = w) {m n j : Nat} (hn : n < m) (hj : j < w) :
    ((List.range m).flatMap f).getD (w * n + j) 0 = (f n).getD j 0 := by
  induction m with
  | zero => omega
  | succ m ih =>
    have hlen := length_flatMap_pieces hf m
    rw [List.range_succ, List.flatMap_append, List.flatMap_singleton]
    by_cases hnm : n < m
    · have hle : w * n + w ≤ w * m := Nat.mul_succ w n ▸ Nat.mul_le_mul_left w hnm
      rw [List.getD_append _ _ _ _ (by omega), ih hnm]
    · obtain rfl : n = m := by omega
      rw [List.getD_append_right _ _ _ _ (by omega), hlen, Nat.add_sub_cancel_left]

/-- The little-endian bytes of a row's 64 elements. -/
def rowBytes (x : Nat → W32) : List W8 := (upTo 64).flatMap (fun n => leBytes 4 (x n).toNat)

theorem length_rowBytes (x : Nat → W32) : (rowBytes x).length = 256 := length_flatMap_pieces (fun _ => length_leBytes 4 _) 64

theorem getD_rowBytes (x : Nat → W32) {n j : Nat} (hn : n < 64) (hj : j < 4) :
    (rowBytes x).getD (4 * n + j) 0 = (leBytes 4 (x n).toNat).getD j 0 := getD_flatMap_pieces (fun _ => length_leBytes 4 _) hn hj

/-- What four bytes of a drained row hold. -/
theorem Group.RowsDrained.leNat_word {g h : Group} {start : Nat → Nat} {x : Nat → Nat → W32} {rows : List Nat}
    (hd : g.RowsDrained h start (fun r => rowBytes (x r)) rows) {r n : Nat} (hr : r ∈ rows) (hn : n < 64) :
    leNat (h.spadRead (start r + 4 * n) 4) = (x r n).toNat := by
  have hbytes : h.spadRead (start r + 4 * n) 4 = leBytes 4 (x r n).toNat := by
    refine List.ext_getElem (by simp [Group.spadRead, upTo]) fun j hj hj' => ?_
    have hj4 : j < 4 := by simpa [Group.spadRead, upTo] using hj
    have hbyte := hd.inside r hr (4 * n + j) (by omega)
    rw [getD_rowBytes _ hn hj4] at hbyte
    simp only [Group.spadRead, upTo, List.getElem_map, List.getElem_range]
    rw [Nat.add_assoc, hbyte]
    exact List.getD_eq_getElem _ _ hj'
  rw [hbytes, leNat_leBytes, Nat.mod_eq_of_lt (by omega)]

theorem Tile.getD_denseElems_element {t : Tile} (ht : Table.canonical 0 t.elems = true) {r n : Nat} (hr : r < 128) (hn : n < 64) :
    (denseElems t.elems).getD (64 * r + n) 0 = t.element r n := getD_denseElems ((Table.canonical_iff 0 _).1 ht).1 (by omega)

/-- With OFMT 0 elements are written as they are, and raise nothing (R238). -/
theorem drainWords (x : Nat → W32) : ((upTo 64).map (fun n => drainElement 0 (x n))).foldl (fun f p => f ||| p.2) 0 = 0 ∧
    ((upTo 64).map (fun n => drainElement 0 (x n))).flatMap Prod.fst = rowBytes x := by
  refine ⟨foldl_eq_self fun p hp => ?_, by rw [List.flatMap_map]; rfl⟩
  obtain ⟨n, -, rfl⟩ := List.mem_map.1 hp
  exact BitVec.or_zero

theorem exec_mdrains (o : DrainForm) (s : State) : exec (.mdrains o) s = execMdrains o s := rfl

section
variable {s : State} {g : Group} {o : DrainForm} {k : Nat} {it : Item} {t : Tile}

/-- Where row `r` of an mdrains begins. -/
def drainStart (o : DrainForm) (it : Item) (r : Nat) : Nat := (it.readV o.b).toNat + (r - 16 * o.rb0.toNat) * (it.readV (o.b + 1)).toNat

theorem drainStart_aligned (h : (it.readV o.b).toNat % 16 = 0 ∧ (it.readV (o.b + 1)).toNat % 16 = 0) (r : Nat) : drainStart o it r % 16 = 0 := by
  rw [drainStart, Nat.add_mod, h.1, Nat.mul_mod, h.2]
  rfl

theorem drainStart_apart (h : 256 ≤ (it.readV (o.b + 1)).toNat) :
    (rowSpan o.rb0 o.nrb1).Pairwise (fun r q => drainStart o it r + 256 ≤ drainStart o it q) := by
  refine List.pairwise_map.2 (List.pairwise_lt_range.imp fun {j m} hjm => ?_)
  have hmul := Nat.mul_le_mul_right (it.readV (o.b + 1)).toNat (Nat.succ_le_of_lt hjm)
  rw [Nat.succ_mul] at hmul
  simp only [drainStart, Nat.add_sub_cancel_left]
  omega

/-- mdrains with OFMT 0 writes the elements of its rows. -/
theorem mdrains_writes (ha : Alone s g (.mdrains o) k it) (hs : Table.sorted g.items = true) (hoff : (s.hind g.ctx).mode = .off)
    (hh : Holds g o.a.toNat t) (hidle : t.ops = []) (htidy : t.Tidy) (hofmt : o.ofmt.toNat = 0)
    (hrows : 16 * o.rb0.toNat + 16 * (o.nrb1.toNat + 1) ≤ 128) (hstride : 256 ≤ (it.readV (o.b + 1)).toNat)
    (hfit : RowsFit g (it.readV o.b).toNat (it.readV (o.b + 1)).toNat (16 * (o.nrb1.toNat + 1)) 256) (hstill : ∀ y, g.NoWaiter y) :
    ∃ u h, exec (.mdrains o) s = .next u ∧ u.memory = s.memory ∧ u.group? s.wave.gid = some h ∧ h.tiles = g.tiles ∧
      (∀ r ∈ rowSpan o.rb0 o.nrb1, ∀ n < 64, leNat (h.spadRead (drainStart o it r + 4 * n) 4) = (t.element r n).toNat) ∧
      (∀ a, ¬Covers (drainStart o it) (rowSpan o.rb0 o.nrb1) a → Table.read 0 h.scratch a = Table.read 0 g.scratch a) ∧
      (∀ a, Covers (drainStart o it) (rowSpan o.rb0 o.nrb1) a → h.isFull a = true) ∧
      (∀ a, ¬Covers (drainStart o it) (rowSpan o.rb0 o.nrb1) (a / 16 * 16) → h.isFull a = g.isFull a) := by
  obtain ⟨hcanonical, -, hbad, -⟩ := htidy
  have hquiet : s.Quiet (s.envOf g k it).gid g := ⟨ha.plain.group, ha.plain.unguarded, hoff, hstill⟩
  obtain ⟨h, hfold, hdrained⟩ := hquiet.drainRows (bytes := fun r => rowBytes (fun n => (denseElems t.elems).getD (64 * r + n) 0))
    (fun r => length_rowBytes _) (fun r _ => drainStart_aligned hfit.aligned r) (drainStart_apart hstride)
  have hword := fun r (hr : r ∈ rowSpan o.rb0 o.nrb1) n (hn : n < 64) => hdrained.leNat_word hr hn
  obtain ⟨⟨sc, fl, po, rfl⟩, -, houtside, hfilled, hkept⟩ := hdrained
  have hexec : exec (.mdrains o) s = .next ((s.modGroup s.wave.gid (fun _ => { g with scratch := sc, full := fl, spadPoison := po })).past g
      (.mdrains o)) := by
    rw [exec_mdrains, execMdrains]
    have hwave : g.SameWave { g with scratch := sc, full := fl, spadPoison := po } :=
      ⟨rfl, rfl, rfl, rfl, rfl, fun p hm => ⟨p.2, hm, .refl _⟩⟩
    refine congrArg Host.Outcome.next (State.tileWave_alone ha hs hh (fun _ => hidle) hwave ?_)
    simp only [Env.of_readV, Env.of_gid, length_rowSpan, hofmt]
    rw [show 64 * drainBytes 0 = 256 from rfl, hfit.rowsTrap_none]
    simp only [drainFits, hbad, State.mayServeSpad_off hoff, drainWords, List.any_nil, beq_self_eq_true, Bool.true_or, Bool.not_true,
      Bool.false_eq_true, if_false]
    exact congrArg TileEffect.done hfold
  have hgroup : (s.modGroup s.wave.gid (fun _ => { g with scratch := sc, full := fl, spadPoison := po })).group? s.wave.gid =
      some { g with scratch := sc, full := fl, spadPoison := po } := by
    rw [State.group?_modGroup_self, ha.plain.group]
    rfl
  refine ⟨_, _, hexec, rfl, State.group?_past hgroup g (.mdrains o), rfl, fun r hr n hn => ?_, houtside,
    fun a ha => hfilled a (ha.granule fun r _ => drainStart_aligned hfit.aligned r), hkept⟩
  obtain ⟨-, hhigh⟩ := mem_rowSpan.1 hr
  rw [← Tile.getD_denseElems_element hcanonical (show r < 128 by omega) hn]
  exact hword r hr n hn

end

end Sys2Proof.Machine
end

section
/-! PROOFS. The matrix operations of a lone item (11 R232 to R236): where its group lists each slot once, each form queues its operation. -/

namespace Sys2Proof.Machine

/-! ### An operation joins its queue -/

/-- The group with an operation on tile `name` queued by the item in slot `k`. -/
def Group.queued (name k : Nat) (op : MatrixOp) (g : Group) : Group := { g with
  matrixIssue := g.matrixIssue + 1
  tiles := Table.modify g.tiles name (fun t => { t with ops := t.ops ++ [op] })
  items := Table.modify g.items k (fun it => { it with matrixCount := it.matrixCount + 1, view := max it.view it.rel }) }

theorem Group.queued_sameWave (name k : Nat) (op : MatrixOp) (g : Group) : g.SameWave (g.queued name k op) := by
  refine ⟨rfl, rfl, rfl, rfl, rfl, fun p hm => ?_⟩
  obtain hold | ⟨it, hit, rfl⟩ := Table.mem_modify hm
  · exact ⟨p.2, hold, .refl _⟩
  · exact ⟨it, hit, _, _, _, rfl⟩

theorem State.queueOp_alone (s : State) (gid name : Nat) (e : Env) (op : MatrixOp) :
    s.queueOp gid name [e] op = s.modGroup gid (Group.queued name e.slot op) := by
  simp only [State.queueOp, State.modTile, State.modItem, List.foldl_cons, List.foldl_nil, State.modGroup_modGroup]
  rfl

section
variable {s : State} {g : Group} {i : Instr} {k name : Nat} {it : Item} {t : Tile} (ha : Alone s g i k it) (hs : Table.sorted g.items = true)
  (hq : Queues g name t it)
include hq

theorem Queues.queueWaits (s : State) (gid k : Nat) : queueWaits [Env.of s g gid k it] t = false := by
  have hroom : ¬16 ≤ t.ops.length := Nat.not_le.2 hq.room
  have hbelow : it.matrixCount ≠ 63#6 := fun h => absurd hq.below (by rw [h]; decide)
  simp [Machine.queueWaits, Env.of, hroom, hbelow, Item.releaseWaits, hq.sent]

include ha hs

/-- An asynchronous form of a lone item queues its operation, and the item goes on. -/
theorem Queues.tileWave {body : Env → Group → List Env → Tile → TileEffect} {kind : Nat} {l : Layout} {c0 c1 : W32} {addr : W64}
    {table : List (Nat × W64)} (hbody : body (s.envOf g k it) g [s.envOf g k it] t =
      .done (s.queueOp s.wave.gid name [s.envOf g k it] (newOp g [s.envOf g k it] kind l c0 c1 addr table))) :
    s.tileWave i name false body = (s.queued name k (opOf g k kind l c0 c1 addr table)).past g i := by
  rw [State.queueOp_alone] at hbody
  exact State.tileWave_alone ha hs hq.holds (fun h => absurd h Bool.false_ne_true) (Group.queued_sameWave name k _ g) hbody

end

/-! ### The checks of the operands -/

theorem lowestBreach_none {limit x n : Nat} {inc : Int} (h : ∀ j : Nat, j < n → 0 ≤ (x : Int) + inc * j ∧ (x : Int) + inc * j + 16 ≤ limit)
    (hn : 0 < n) : lowestBreach limit x inc n = none := by
  obtain ⟨hfirst, hfirst'⟩ := h 0 hn
  obtain ⟨hlast, hlast'⟩ := h (n - 1) (by omega)
  rw [Nat.cast_zero, mul_zero, add_zero] at hfirst'
  rw [Nat.cast_sub hn, Nat.cast_one] at hlast hlast'
  simp only [lowestBreach]
  rw [if_neg (by omega), if_pos (by omega)]

theorem Inside.breach_none {g : Group} {l : Layout} {rows chunks n : Nat} {inc : Int} (h : Inside g l rows chunks inc n) (hn : 0 < n) :
    l.breach g.scratchBytes rows chunks inc n = none := by
  have hnone : (upTo rows).flatMap (fun r => (upTo chunks).filterMap (fun c => lowestBreach g.scratchBytes (l.chunk r c) inc n)) = [] := by
    refine List.flatMap_eq_nil_iff.2 fun r hr => List.filterMap_eq_nil_iff.2 fun c hc => ?_
    exact lowestBreach_none (fun j hj => h r c j (List.mem_range.1 hr) (List.mem_range.1 hc) hj) hn
  rw [Layout.breach, hnone]
  rfl

/-- The layout and control words of a loop on a tile pass the checks before its table and its rows (R234). -/
structure LoopGood (t : Tile) (l : Layout) (c0 c1 : W32) : Prop where
  layout : l.ok = true
  steps : 0 < ksteps c0
  reserved : field c1 31 29 = 0
  weights : ctlWfmt c1 ≤ 5
  pairing : ∃ order, stepOrder (ctlWfmt c1) l.afmt (ctlSp c1) = some (order, t.int32)

theorem LoopGood.loopTrap_none {t : Tile} {l : Layout} {c0 c1 : W32} (h : LoopGood t l c0 c1) (name : Nat) : loopTrap name t l c0 c1 = none := by
  obtain ⟨order, horder⟩ := h.pairing
  have hsteps : ksteps c0 ≠ 0 := Nat.ne_of_gt h.steps
  have hweights : ¬5 < ctlWfmt c1 := Nat.not_lt.2 h.weights
  simp [loopTrap, h.layout, h.reserved, hsteps, hweights, horder]

/-! ### The table of mloopg (R235) -/

/-- An entry of the table, as it lies in the scratchpad. -/
def entryBytes (p : Nat × W64) : List W8 := leBytes 8 p.1 ++ leBytes 8 p.2.toNat

theorem leAt_entryBytes_rows (p : Nat × W64) : leAt (entryBytes p) 0 2 = p.1 % 65536 := leNat_leBytes 2 p.1
theorem leAt_entryBytes_zero (p : Nat × W64) : leAt (entryBytes p) 2 6 = p.1 / 256 / 256 % 281474976710656 := leNat_leBytes 6 _
theorem leAt_entryBytes_addr (p : Nat × W64) : leAt (entryBytes p) 8 8 = p.2.toNat :=
  (leNat_leBytes 8 p.2.toNat).trans (Nat.mod_eq_of_lt p.2.isLt)

theorem leAt_leBytes_low (n : Nat) : leAt (leBytes 16 n) 0 2 = n % 65536 := leNat_leBytes 2 n
theorem leAt_leBytes_high (n : Nat) : leAt (leBytes 16 n) 2 14 = n / 256 / 256 % 256 ^ 14 := leNat_leBytes 14 _

/-- A table of mloopg in the scratchpad at `x`, as R235 wants it. -/
structure TableAt (g : Group) (x : Nat) (table : List (Nat × W64)) : Prop where
  aligned : x % 16 = 0
  inside : x + 16 + 16 * table.length ≤ g.scratchBytes
  whole : g.spadPoison = []
  some : 1 ≤ table.length
  few : table.length ≤ 128
  rows : (table.map Prod.fst).sum ≤ 128
  lines : ∀ p ∈ table, p.2.toNat % 128 = 0
  head : g.spadRead x 16 = leBytes 16 table.length
  entries : ∀ (j : Nat) (h : j < table.length), g.spadRead (x + 16 + 16 * j) 16 = entryBytes table[j]

section
variable {table : List (Nat × W64)} (hrow : ∀ p ∈ table, p.1 ≤ 128)
include hrow

theorem rows_entryBytes : (table.map entryBytes).map (fun b => leAt b 0 2) = table.map Prod.fst := by
  rw [List.map_map]
  exact List.map_congr_left fun p hp => (leAt_entryBytes_rows p).trans (Nat.mod_eq_of_lt (by have := hrow p hp; omega))

theorem reserved_entryBytes : (table.map entryBytes).any (fun b => leAt b 2 6 != 0) = false := by
  simp only [List.any_map, List.any_eq_false]
  intro p hp
  have := hrow p hp
  simp [leAt_entryBytes_zero]
  omega

/-- The entries read back as the table. -/
theorem read_entryBytes : (table.map entryBytes).map (fun b => (leAt b 0 2, BitVec.ofNat 64 (leAt b 8 8))) = table := by
  rw [List.map_map]
  refine (List.map_congr_left fun p hp => ?_).trans (List.map_id _)
  have := hrow p hp
  refine Prod.ext ((leAt_entryBytes_rows p).trans (Nat.mod_eq_of_lt (by omega))) ?_
  simp [leAt_entryBytes_addr]

end

theorem TableAt.row_le {g : Group} {x : Nat} {table : List (Nat × W64)} (h : TableAt g x table) : ∀ p ∈ table, p.1 ≤ 128 := fun _ hp =>
  (List.le_sum_of_mem (List.mem_map_of_mem hp)).trans h.rows

/-- The head of a table gives its length, and nothing else. -/
theorem TableAt.head_reads {g : Group} {x : Nat} {table : List (Nat × W64)} (h : TableAt g x table) :
    leAt (g.spadRead x 16) 0 2 = table.length ∧ leAt (g.spadRead x 16) 2 14 = 0 := by
  have hfew := h.few
  rw [h.head, leAt_leBytes_low, leAt_leBytes_high, show table.length / 256 / 256 = 0 by omega]
  exact ⟨Nat.mod_eq_of_lt (by omega), rfl⟩

theorem TableAt.loopTable {g : Group} {x : Nat} {table : List (Nat × W64)} (h : TableAt g x table) (name : Nat) :
    g.loopTable name x = .ok table := by
  obtain ⟨hcount, hrest⟩ := h.head_reads
  have hentries : (upTo table.length).map (fun j => g.spadRead (x + 16 + 16 * j) 16) = table.map entryBytes :=
    List.ext_getElem (by simp [upTo]) fun j _ hj => by simpa [upTo] using h.entries j (by simpa using hj)
  have hfew : (table.map Prod.fst).any (fun r => decide (128 < r)) = false := by
    simpa using fun r b hp => h.row_le _ hp
  have hsum : ¬128 < (table.map Prod.fst).sum := Nat.not_lt.2 h.rows
  have hlines : (table.map entryBytes).find? (fun b => leAt b 8 8 % 128 != 0) = none := by
    simpa [leAt_entryBytes_addr] using h.lines
  have hhead : ¬(table.length = 0 ∨ 128 < table.length ∨ 0 ≠ 0) := by
    have := h.some
    have := h.few
    omega
  have hfits := h.inside
  have hinside : ¬g.scratchBytes < x + 16 + 16 * table.length := by omega
  rw [Group.loopTable, if_neg (not_not.2 h.aligned), if_neg (by omega), Group.poisonAt_none h.whole]
  simp only [hcount, hrest, if_neg hhead, if_neg hinside, Group.poisonAt_none h.whole, hentries, rows_entryBytes h.row_le, hfew,
    reserved_entryBytes h.row_le, hsum, hlines, read_entryBytes h.row_le, decide_false, Bool.or_false, Bool.false_eq_true, if_false]

/-! ### The four forms -/

theorem exec_mloop (o : Form) (s : State) : exec (.mloop o) s = execMloop o s := rfl
theorem exec_mloopg (o : Form) (s : State) : exec (.mloopg o) s = execMloopg o s := rfl
theorem exec_mwlat (o : LatchForm) (s : State) : exec (.mwlat o) s = execMwlat o s := rfl
theorem exec_mstep (o : Form) (s : State) : exec (.mstep o) s = execMstep o s := rfl

@[simp] theorem Env.of_readV2 (s : State) (g : Group) (gid k : Nat) (it : Item) (n : BitVec 7) :
    (Env.of s g gid k it).it.readV2 n = it.readV2 n := rfl

section
variable {s : State} {g : Group} {o : Form} {k : Nat} {it : Item} {t : Tile} (hs : Table.sorted g.items = true)
include hs

section
variable (hq : Queues g o.d.toNat t it)
include hq

theorem mloop_queues (hgood : LoopGood t (layoutAt g o.a) (it.readV o.c) (it.readV (o.c + 1))) (ha : Alone s g (.mloop o) k it)
    (hline : (it.readV2 o.b).toNat % 128 = 0)
    (hinside : Inside g (layoutAt g o.a) ((layoutAt g o.a).nr + 1) (segmentChunks (layoutAt g o.a).afmt (ctlSp (it.readV (o.c + 1))))
      (ainc (it.readV o.c)) (ksteps (it.readV o.c))) :
    exec (.mloop o) s = .next ((s.queued o.d.toNat k (opOf g k 0 (layoutAt g o.a) (it.readV o.c) (it.readV (o.c + 1)) (it.readV2 o.b) [])).past g
      (.mloop o)) := by
  have hbreach := hinside.breach_none hgood.steps
  have htrap := hgood.loopTrap_none o.d.toNat
  rw [layoutAt, ← Layout.read] at hbreach htrap
  rw [exec_mloop, execMloop]
  refine congrArg Host.Outcome.next (hq.tileWave ha hs ?_)
  simp only [Env.of_readV, Env.of_readV2, Env.of_gid, hq.queueWaits, htrap, hline, hbreach, ne_eq, not_true_eq_false, Bool.false_eq_true, if_false]
  rfl

theorem mloopg_queues (hgood : LoopGood t (layoutAt g o.a) (it.readV o.c) (it.readV (o.c + 1))) (ha : Alone s g (.mloopg o) k it)
    (hoff : (s.hind g.ctx).mode = .off) {table : List (Nat × W64)} (htable : TableAt g (it.readV o.b).toNat table)
    (hinside : Inside g (layoutAt g o.a) (table.map Prod.fst).sum (segmentChunks (layoutAt g o.a).afmt (ctlSp (it.readV (o.c + 1))))
      (ainc (it.readV o.c)) (ksteps (it.readV o.c))) :
    exec (.mloopg o) s = .next ((s.queued o.d.toNat k (opOf g k 1 (layoutAt g o.a) (it.readV o.c) (it.readV (o.c + 1))
      ((it.readV o.b).zeroExtend 64) table)).past g (.mloopg o)) := by
  have hbreach := hinside.breach_none hgood.steps
  have htrap := hgood.loopTrap_none o.d.toNat
  rw [layoutAt, ← Layout.read] at hbreach htrap
  rw [exec_mloopg, execMloopg]
  refine congrArg Host.Outcome.next (hq.tileWave ha hs ?_)
  simp only [Env.of_readV, Env.of_gid, hq.queueWaits, State.mayServeSpad_off hoff, htrap, htable.loopTable, hbreach,
    State.recordSpan_off ha.plain.group hoff (e := s.envOf g k it) rfl, BitVec.ofNat_toNat, Bool.not_true, Bool.false_eq_true, if_false]
  rfl

theorem mstep_queues (ha : Alone s g (.mstep o) k it) (hidle : t.ops = []) {b : List W8} {fmt : BitVec 4} {sp : Bool}
    (hweights : t.weights = some (b, fmt, sp)) (hlayout : (layoutAt g o.a).ok = true)
    (horder : ∃ order, stepOrder fmt.toNat (layoutAt g o.a).afmt sp = some (order, t.int32))
    (hinside : Inside g (layoutAt g o.a) ((layoutAt g o.a).nr + 1) (segmentChunks (layoutAt g o.a).afmt sp) 0 1) :
    exec (.mstep o) s = .next ((s.queued o.d.toNat k (opOf g k 2 (layoutAt g o.a) 0 0 0 [])).past g (.mstep o)) := by
  obtain ⟨order, horder⟩ := horder
  have hbreach := hinside.breach_none Nat.one_pos
  have hlatched : t.latched = some (fmt.toNat, sp) := by simp [Tile.latched, hidle, hweights]
  rw [layoutAt, ← Layout.read] at hlayout horder hbreach
  rw [exec_mstep, execMstep]
  refine congrArg Host.Outcome.next (hq.tileWave ha hs ?_)
  simp only [Env.of_gid, hq.queueWaits, hlayout, hlatched, horder, hbreach, Option.map_some, ne_eq, not_true_eq_false, Bool.not_true,
    Bool.false_eq_true, if_false]
  rfl

end

theorem mwlat_queues {w : LatchForm} (hq : Queues g w.d.toNat t it) (ha : Alone s g (.mwlat w) k it) (hline : (it.readV2 w.a).toNat % 128 = 0)
    (hsparse : w.sp = true → w.wfmt.toNat < 4) :
    exec (.mwlat w) s = .next ((s.queued w.d.toNat k (opOf g k 3 ⟨0, 0, 0⟩ (BitVec.ofNat 32 (w.wfmt.toNat + (if w.sp then 16 else 0))) 0
      (it.readV2 w.a) [])).past g (.mwlat w)) := by
  have hformat : (w.sp && decide (4 ≤ w.wfmt.toNat)) = false := by simpa using hsparse
  have hsp : 16 * boolNat w.sp = if w.sp then 16 else 0 := by cases w.sp <;> rfl
  rw [exec_mwlat, execMwlat]
  refine congrArg Host.Outcome.next (hq.tileWave ha hs ?_)
  simp only [Env.of_readV2, Env.of_gid, hq.queueWaits, hformat, hline, hsp, ne_eq, not_true_eq_false, Bool.false_eq_true, if_false]

end

end Sys2Proof.Machine
end

section
/-! PROOFS. One step on INT8 rows with INT8 weights (11 R220, R222, R225, R228): its sums are sums of integers, and its check holds. -/

namespace Sys2Proof.Machine

/-! ### Integers among the exact values -/

/-- An integer as an exact value. -/
def Dy.ofInt (z : Int) : Dy := ⟨z, 0⟩

theorem Dy.ofInt_add (x y : Int) : (Dy.ofInt x).add (Dy.ofInt y) = Dy.ofInt (x + y) := by simp [Dy.add, Dy.at, Dy.ofInt, pow2]

theorem Dy.foldl_add_ofInt (zs : List Int) (x : Int) : (zs.map Dy.ofInt).foldl Dy.add (Dy.ofInt x) = Dy.ofInt (x + zs.sum) := by
  induction zs generalizing x with
  | nil => simp
  | cons z zs ih => rw [List.map_cons, List.foldl_cons, Dy.ofInt_add, ih, List.sum_cons, add_assoc]

theorem Dy.sum_ofInt (zs : List Int) : Dy.sum (zs.map Dy.ofInt) = Dy.ofInt zs.sum := by
  rw [Dy.sum, show (⟨0, 0⟩ : Dy) = Dy.ofInt 0 from rfl, Dy.foldl_add_ofInt, zero_add]

/-- An INT8 byte as an operand of a step. -/
def int8 (x : W8) : Flt := elementValue 3 x.toNat

/-- A byte is a finite number of exponent 0. -/
theorem int8_eq (x : W8) : int8 x = if x.toNat < 128 then .fin false x.toNat 0 else .fin true (256 - x.toNat) 0 := rfl

theorem toInt_eq_of_byte (x : W8) : x.toInt = if x.toNat < 128 then (x.toNat : Int) else -((256 - x.toNat : Nat) : Int) := by
  rw [BitVec.toInt]
  split <;> split <;> omega

theorem dy_int8 (x : W8) : (int8 x).dy = Dy.ofInt x.toInt := by
  rw [int8_eq, toInt_eq_of_byte]
  split <;> rfl

theorem exists_int8 (x : W8) : ∃ s m, int8 x = .fin s m 0 := by
  rw [int8_eq]
  split <;> exact ⟨_, _, rfl⟩

theorem finite_int8 (x : W8) : (int8 x).finite = true := by
  obtain ⟨s, m, h⟩ := exists_int8 x
  rw [h]
  rfl

/-- The product of two bytes. -/
theorem mulTerm_int8 (x y : W8) : ∃ p, mulTerm (int8 x) (int8 y) = .val p ∧ p.dy = Dy.ofInt (x.toInt * y.toInt) := by
  rw [int8_eq, int8_eq, toInt_eq_of_byte, toInt_eq_of_byte]
  split <;> split <;> exact ⟨_, rfl, by simp [Flt.sign, Flt.dy, Dy.ofInt]⟩

/-! ### Rows, columns and their terms -/

/-- A row of INT8 activations. -/
def byteRow (act : Nat → W8) : Array Flt := ((upTo 64).map (fun k => int8 (act k))).toArray

/-- A column of INT8 weights, with their K positions. -/
def byteCol (weight : Nat → W8) : Array (Flt × Nat) := ((upTo 64).map (fun k => (int8 (weight k), k))).toArray

/-- A tile of INT8 weights. -/
def byteWeights (weight : Nat → Nat → W8) : Weights := ⟨3, false, ((upTo 64).map (fun n => byteCol (fun k => weight k n))).toArray⟩

theorem byteWeights_col (weight : Nat → Nat → W8) {n : Nat} (hn : n < 64) :
    (byteWeights weight).cols.getD n #[] = byteCol (fun k => weight k n) := by
  simp [byteWeights, upTo, Array.getD_eq_getD_getElem?, hn]

/-- The product of a row and a column. -/
def dot (act weight : Nat → W8) : Int := ((upTo 64).map (fun k => (act k).toInt * (weight k).toInt)).sum

theorem finiteTerms_bytes (act weight : Nat → W8) : finiteTerms (termsOf (byteRow act) (byteCol weight)) =
    (upTo 64).map (fun k => Dy.ofInt ((act k).toInt * (weight k).toInt)) := by
  have hterm : ∀ k ∈ upTo 64, mulTerm ((byteRow act).getD k (.fin false 0 0)) (int8 (weight k)) = mulTerm (int8 (act k)) (int8 (weight k)) := by
    intro k hk
    have hk64 : k < 64 := List.mem_range.1 hk
    rw [byteRow, Array.getD_eq_getD_getElem?]
    simp [upTo, hk64]
  rw [finiteTerms, termsOf, byteCol, List.map_map, List.filterMap_map, ← List.filterMap_eq_map]
  refine List.filterMap_congr fun k hk => ?_
  obtain ⟨p, hp, hdy⟩ := mulTerm_int8 (act k) (weight k)
  simp only [Function.comp_apply, hterm k hk, hp, hdy]

theorem sum_finiteTerms (act weight : Nat → W8) : Dy.sum (finiteTerms (termsOf (byteRow act) (byteCol weight))) = Dy.ofInt (dot act weight) := by
  rw [finiteTerms_bytes, dot, ← Dy.sum_ofInt, List.map_map]
  rfl

/-- A step adds the product of the row and the column to an element, modulo 2^32. -/
theorem stepElement_bytes (act weight : Nat → W8) (x : W32) (skipped : Bool) :
    BitVec.ofNat 32 (stepElement .integer x.toNat (termsOf (byteRow act) (byteCol weight)) skipped).acc = x + BitVec.ofInt 32 (dot act weight) := by
  simp only [stepElement, sum_finiteTerms, Dy.ofInt, BitVec.ofNat_toNat, BitVec.setWidth_eq, BitVec.ofInt_add, BitVec.ofInt_toInt]

theorem stepValue_bytes (act weight : Nat → W8) :
    stepValue .integer (termsOf (byteRow act) (byteCol weight)) = Dy.ofInt (dot act weight) := sum_finiteTerms act weight

/-! ### The check of a row (R228) -/

theorem getElem?_foldl_modify {α : Type} (v : Nat → α → α) (m k : Nat) (a : Array α) :
    ((List.range m).foldl (fun a i => a.modify i (v i)) a)[k]? = if k < m then a[k]?.map (v k) else a[k]? := by
  induction m with
  | zero => rfl
  | succ m ih =>
    rw [List.range_succ, List.foldl_append, List.foldl_cons, List.foldl_nil, Array.getElem?_modify, ih]
    by_cases hmk : m = k
    · subst hmk
      simp
    · rw [if_neg hmk]
      exact if_congr (by omega) rfl rfl

/-- 64 integers as an array of exact values. -/
def intArray (z : Nat → Int) : Array Dy := ((upTo 64).map (fun k => Dy.ofInt (z k))).toArray

/-- A column adds its weights, each at its K position. -/
theorem addColumn (z : Nat → Int) (weight : Nat → W8) :
    (byteCol weight).foldl (fun a p => a.modify p.2 (fun x => x.add p.1.dy)) (intArray z) = intArray (fun k => z k + (weight k).toInt) := by
  refine Array.ext_getElem? fun k => ?_
  rw [← Array.foldl_toList, byteCol, List.foldl_map, upTo]
  dsimp only
  rw [getElem?_foldl_modify (fun i (x : Dy) => x.add (int8 (weight i)).dy)]
  by_cases hk : k < 64
  · simp [intArray, upTo, hk, dy_int8, Dy.ofInt_add]
  · simp [intArray, upTo, hk]

/-- The sums of the weights at each K position. -/
theorem sums_byteWeights (weight : Nat → Nat → W8) : (byteWeights weight).sums =
    some (intArray (fun k => ((upTo 64).map (fun n => (weight k n).toInt)).sum)) := by
  have hcols : ∀ (l : List Nat) (z : Nat → Int), (l.map (fun n => byteCol (fun k => weight k n))).foldl
      (fun a c => c.foldl (fun a p => a.modify p.2 (fun x => x.add p.1.dy)) a) (intArray z) =
        intArray (fun k => z k + (l.map (fun n => (weight k n).toInt)).sum) := by
    intro l
    induction l with
    | nil => intro z; simp
    | cons n l ih => intro z; rw [List.map_cons, List.foldl_cons, addColumn, ih]; simp [add_assoc]
  have hstart : ((upTo 64).map (fun _ => (⟨0, 0⟩ : Dy))).toArray = intArray (fun _ => 0) := rfl
  rw [Weights.sums]
  split
  next hinfinite =>
    simp only [byteWeights, byteCol, List.any_toArray, List.any_map, List.any_eq_true] at hinfinite
    obtain ⟨n, -, hn⟩ := hinfinite
    simp only [Function.comp_apply, List.any_toArray, List.any_map, List.any_eq_true] at hn
    obtain ⟨k, -, hk⟩ := hn
    obtain ⟨sign, m, hfin⟩ := exists_int8 (weight k n)
    simp [hfin] at hk
  next =>
    have hsum := hcols (upTo 64) (fun _ => 0)
    simp only [zero_add] at hsum
    simp only [byteWeights, Bool.false_eq_true, if_false, if_true, hstart]
    refine congrArg some ?_
    rw [← Array.foldl_toList]
    exact hsum

/-- A double sum in either order. -/
theorem sum_sum_comm (f : Nat → Nat → Int) (m n : Nat) :
    ((upTo m).map (fun i => ((upTo n).map (fun j => f i j)).sum)).sum = ((upTo n).map (fun j => ((upTo m).map (fun i => f i j)).sum)).sum :=
  Finset.sum_comm (s := Finset.range m) (t := Finset.range n) (f := f)

/-- The products of a row with all columns add up to its product with the sums of the weights (R228). -/
theorem sum_dot (act : Nat → W8) (weight : Nat → Nat → W8) : ((upTo 64).map (fun n => dot act (fun k => weight k n))).sum =
    ((upTo 64).map (fun k => (act k).toInt * ((upTo 64).map (fun n => (weight k n).toInt)).sum)).sum := by
  simp only [dot, ← List.sum_map_mul_left]
  exact sum_sum_comm (fun n k => (act k).toInt * (weight k n).toInt) 64 64

theorem rowCheck_bytes (act : Nat → W8) (weight : Nat → Nat → W8) (values : List Dy) : rowCheck (byteWeights weight).sums (byteRow act) values =
    some (Dy.sum values, Dy.ofInt ((upTo 64).map (fun n => dot act (fun k => weight k n))).sum) := by
  have hfinite : (byteRow act).all Flt.finite = true := by
    simp only [byteRow, List.all_toArray, List.all_map, List.all_eq_true]
    exact fun k _ => finite_int8 (act k)
  have hproducts : ((byteRow act).toList.zip (intArray (fun k => ((upTo 64).map (fun n => (weight k n).toInt)).sum)).toList).map
      (fun p => p.1.dy.mul p.2) = ((upTo 64).map (fun k => (act k).toInt * ((upTo 64).map (fun n => (weight k n).toInt)).sum)).map Dy.ofInt := by
    simp only [byteRow, intArray, List.zip_map', List.map_map]
    refine List.map_congr_left fun k _ => ?_
    simp [dy_int8, Dy.mul, Dy.ofInt]
  rw [sums_byteWeights, rowCheck, hfinite, sum_dot, ← Dy.sum_ofInt, ← hproducts]
  rfl

theorem mismatched_ofInt (absSums : Array Dy) (row : Array Flt) (z : Int) : mismatched .integer absSums row (Dy.ofInt z) (Dy.ofInt z) = false := by
  have hdiff : (Dy.ofInt z).add ⟨-(Dy.ofInt z).m, (Dy.ofInt z).e⟩ = Dy.ofInt 0 := (Dy.ofInt_add z (-z)).trans (congrArg Dy.ofInt (by omega))
  simp only [mismatched, hdiff]
  rfl

/-! ### A step on rows -/

/-- What a step does at element `n` of row `r`: the elements, the flags, and the values so far. -/
def elementStep (order : StepOrder) (w : Weights) (r : Nat) (row : Array Flt) (x : Array W32 × BitVec 5 × List Dy) (n : Nat) :
    Array W32 × BitVec 5 × List Dy :=
  let terms := termsOf row (w.cols.getD n #[])
  let a := stepElement order (x.1.getD (64 * r + n) 0).toNat terms (skippedBad w row (w.cols.getD n #[]))
  (x.1.setIfInBounds (64 * r + n) (BitVec.ofNat 32 a.acc), x.2.1 ||| a.flags, stepValue order terms :: x.2.2)

theorem stepRows_cons (order : StepOrder) (w : Weights) (sums : Option (Array Dy)) (p : Nat × Array Flt) (rows : List (Nat × Array Flt))
    (t : Stepped) : stepRows order w sums (p :: rows) t = stepRows order w sums rows (stepRows order w sums [p] t) := by
  simp only [stepRows, List.foldl_cons, List.foldl_nil]

theorem stepRows_single_elems (order : StepOrder) (w : Weights) (sums : Option (Array Dy)) (r : Nat) (row : Array Flt) (t : Stepped) :
    (stepRows order w sums [(r, row)] t).elems = ((upTo 64).foldl (elementStep order w r row) (t.elems, t.flags, [])).1 := by
  unfold stepRows
  generalize upTo 64 = l
  rfl

theorem stepRows_single_mismatch {order : StepOrder} {w : Weights} {sums : Option (Array Dy)} {r : Nat} {row : Array Flt} {t : Stepped} {y c : Dy}
    (h : rowCheck sums row ((upTo 64).foldl (elementStep order w r row) (t.elems, t.flags, [])).2.2 = some (y, c)) :
    (stepRows order w sums [(r, row)] t).mismatch = (t.mismatch || mismatched order w.absSums row y c) := by
  unfold stepRows
  generalize upTo 64 = l at h ⊢
  exact congrArg (fun check : Option (Dy × Dy) => t.mismatch ||
    (match check with | some (y, c) => mismatched order w.absSums row y c | none => false)) h

section
variable (act : Nat → W8) (weight : Nat → Nat → W8) (r : Nat)

theorem elementStep_bytes (x : Array W32 × BitVec 5 × List Dy) {n : Nat} (hn : n < 64) :
    (elementStep .integer (byteWeights weight) r (byteRow act) x n).1 =
        x.1.setIfInBounds (64 * r + n) (x.1.getD (64 * r + n) 0 + BitVec.ofInt 32 (dot act (fun k => weight k n))) ∧
      (elementStep .integer (byteWeights weight) r (byteRow act) x n).2.2 = Dy.ofInt (dot act (fun k => weight k n)) :: x.2.2 := by
  simp only [elementStep, byteWeights_col weight hn, stepElement_bytes, stepValue_bytes, and_self]

/-- The elements and the values of a row of bytes. -/
theorem foldl_elementStep_bytes (m : Nat) (hm : m ≤ 64) (x : Array W32 × BitVec 5 × List Dy) :
    ((List.range m).foldl (elementStep .integer (byteWeights weight) r (byteRow act)) x).1 =
        changedRow (fun n z => z + BitVec.ofInt 32 (dot act (fun k => weight k n))) r m x.1 ∧
      ((List.range m).foldl (elementStep .integer (byteWeights weight) r (byteRow act)) x).2.2 =
        ((List.range m).map (fun n => Dy.ofInt (dot act (fun k => weight k n)))).reverse ++ x.2.2 := by
  induction m with
  | zero => exact ⟨rfl, rfl⟩
  | succ m ih =>
    obtain ⟨helems, hvalues⟩ := ih (by omega)
    obtain ⟨hstep, hvalue⟩ := elementStep_bytes act weight r
      ((List.range m).foldl (elementStep .integer (byteWeights weight) r (byteRow act)) x) (show m < 64 by omega)
    rw [List.range_succ, List.foldl_append, List.foldl_cons, List.foldl_nil, hstep, hvalue, helems, hvalues]
    exact ⟨by simp only [changedRow, List.range_succ, List.foldl_append, List.foldl_cons, List.foldl_nil], by simp⟩

/-- A step of INT8 rows and weights changes each element of its row by the product of the row and the column, and the row's check holds. -/
theorem stepRows_single_bytes (t : Stepped) :
    (stepRows .integer (byteWeights weight) (byteWeights weight).sums [(r, byteRow act)] t).elems =
        changedRow (fun n z => z + BitVec.ofInt 32 (dot act (fun k => weight k n))) r 64 t.elems ∧
      (stepRows .integer (byteWeights weight) (byteWeights weight).sums [(r, byteRow act)] t).mismatch = t.mismatch := by
  obtain ⟨helems, hvalues⟩ := foldl_elementStep_bytes act weight r 64 le_rfl (t.elems, t.flags, [])
  refine ⟨(stepRows_single_elems ..).trans helems, ?_⟩
  have hsum : Dy.sum ((upTo 64).foldl (elementStep .integer (byteWeights weight) r (byteRow act)) (t.elems, t.flags, [])).2.2 =
      Dy.ofInt ((upTo 64).map (fun n => dot act (fun k => weight k n))).sum := by
    rw [upTo, hvalues, List.append_nil, ← List.sum_reverse, ← Dy.sum_ofInt, List.map_reverse, List.map_map]
    rfl
  rw [stepRows_single_mismatch (rowCheck_bytes act weight _), hsum, mismatched_ofInt, Bool.or_false]

end

/-- A step over rows of INT8 activations. -/
theorem stepRows_bytes (act : Nat → Nat → W8) (weight : Nat → Nat → W8) (rows : List Nat) (t : Stepped) :
    (stepRows .integer (byteWeights weight) (byteWeights weight).sums (rows.map (fun r => (r, byteRow (act r)))) t).elems =
        changedRows (fun r n z => z + BitVec.ofInt 32 (dot (act r) (fun k => weight k n))) rows t.elems ∧
      (stepRows .integer (byteWeights weight) (byteWeights weight).sums (rows.map (fun r => (r, byteRow (act r)))) t).mismatch = t.mismatch := by
  induction rows generalizing t with
  | nil => exact ⟨rfl, rfl⟩
  | cons r rows ih =>
    obtain ⟨helems, hmismatch⟩ := stepRows_single_bytes (act r) weight r t
    obtain ⟨ihelems, ihmismatch⟩ := ih (stepRows .integer (byteWeights weight) (byteWeights weight).sums [(r, byteRow (act r))] t)
    rw [List.map_cons, stepRows_cons, ihelems, ihmismatch, helems, hmismatch, changedRows_cons]
    exact ⟨rfl, rfl⟩

/-! ### MATRIX_STEP (R234 to R236) -/

theorem readWeights_bytes (b : List W8) : readWeights 3 false b = byteWeights (fun k n => b.getD (64 * k + n) 0) := by
  simp only [readWeights, byteWeights, byteCol, elementAt, int8]
  generalize upTo 64 = l
  simp

/-- The activations of row `r` in the scratchpad (R224). -/
def activation (g : Group) (l : Layout) (r k : Nat) : W8 := Table.read 0 g.scratch (l.chunk r (k / 16) + k % 16)

theorem readRow_bytes (g : Group) (l : Layout) (r : Nat) :
    readRow 3 false ((upTo 4).flatMap (fun c => g.spadRead (l.chunk r c) 16)) = byteRow (activation g l r) := by
  have hbyte : ∀ k ∈ upTo 64, ((upTo 4).flatMap (fun c => g.spadRead (l.chunk r c) 16)).getD k 0 = activation g l r k := by
    intro k hk
    have hk64 : k < 64 := List.mem_range.1 hk
    have hpiece := getD_flatMap_pieces (f := fun c => g.spadRead (l.chunk r c) 16) (w := 16) (fun _ => by simp [Group.spadRead, upTo])
      (show k / 16 < 4 by omega) (Nat.mod_lt k (by decide))
    rw [Nat.div_add_mod] at hpiece
    rw [upTo, hpiece]
    simp [Group.spadRead, upTo, activation, Nat.mod_lt]
  refine congrArg List.toArray (List.map_congr_left fun k hk => ?_)
  rw [if_neg (by decide), ← hbyte k hk]
  simp [elementAt, int8]

/-- The tile after a step of INT8 activations with its INT8 weights. -/
theorem applyPart_bytes {g : Group} {op : MatrixOp} {rows : List Nat} {t : Tile} {b : List W8} {flags : BitVec 5} (hkind : op.kind = 2)
    (hw : t.weights = some (b, 3, false)) (hfmt : (⟨op.layout0, op.layout1, op.layout2⟩ : Layout).afmt = 3) (htidy : t.Tidy)
    (hwhole : g.spadPoison = []) : ∃ t' flags', applyPart g op { rows := rows, addr := none } none t flags = (t', flags', none) ∧
      t'.nsteps = t.nsteps + 1 ∧ t'.weights = t.weights ∧ t'.elems = sparseElems (changedRows (fun r n z => z + BitVec.ofInt 32
        (dot (activation g ⟨op.layout0, op.layout1, op.layout2⟩ r) (fun k => b.getD (64 * k + n) 0))) rows (denseElems t.elems)) := by
  obtain ⟨-, -, hbad, hbadw⟩ := htidy
  have hstep : ¬(2 = 3) := by decide
  have hformat : (3 : BitVec 4).toNat = 3 := rfl
  have horder : stepOrder 3 3 false = some (.integer, true) := rfl
  have hpoison : ∀ at_ : Nat → Nat → Nat, rows.findSome? (fun r => (upTo 4).findSome? (fun c => g.poisonAt (at_ r c) 16)) = none := fun at_ =>
    List.findSome?_eq_none_iff.2 fun r _ => List.findSome?_eq_none_iff.2 fun c _ => Group.poisonAt_none hwhole _ _
  have hchunks : segmentChunks 3 false = 4 := rfl
  obtain ⟨helems, hmismatch⟩ := stepRows_bytes (activation g ⟨op.layout0, op.layout1, op.layout2⟩) (fun k n => b.getD (64 * k + n) 0) rows
    { elems := denseElems t.elems, csum := [], flags := flags, mismatch := false }
  simp only [applyPart, hkind, hw, hfmt, hstep, hformat, horder, hchunks, hpoison, hbad, hbadw, List.any_nil, Bool.or_false,
    Bool.false_eq_true, if_false, if_true, zero_mul, add_zero, Int.toNat_natCast, readRow_bytes,
    readWeights_bytes, hmismatch]
  refine ⟨_, _, rfl, rfl, rfl, ?_⟩
  dsimp only
  rw [helems]

theorem foldl_modItem_tiles {gid : Nat} {f : Nat × Nat → Item → Item} (l : List (Nat × Nat)) (s : State) {F : Group → Group}
    (hF : ∀ g, (F g).tiles = g.tiles) : ∃ F', l.foldl (fun s p => s.modItem gid p.2 (f p)) (s.modGroup gid F) = s.modGroup gid F' ∧
      ∀ g, (F' g).tiles = g.tiles := by
  induction l generalizing F with
  | nil => exact ⟨F, rfl, hF⟩
  | cons p l ih =>
    obtain ⟨F', hfold, hF'⟩ := ih (F := fun g => (F g).modItem p.2 (f p)) hF
    exact ⟨F', by rw [List.foldl_cons, State.modItem, State.modGroup_modGroup, hfold], hF'⟩

/-- Operations that retire leave the tiles. -/
theorem State.retireMatrix_eq {s : State} {gid : Nat} {g : Group} (hg : s.group? gid = some g) (ops : List MatrixOp) :
    ∃ F, s.retireMatrix gid ops = s.modGroup gid F ∧ ∀ g, (F g).tiles = g.tiles := by
  simp only [State.retireMatrix, hg]
  exact foldl_modItem_tiles _ s fun _ => rfl

theorem State.stepReads_off {s : State} {ctx : Nat} (h : (s.hind ctx).mode = .off) (op : MatrixOp) (sp : Bool) : s.stepReads ctx op sp = [] := by
  simp [State.stepReads, h]

theorem State.mayServeSpan_off {s : State} {ctx : Nat} (h : (s.hind ctx).mode = .off) (r : Nat) (party : W64) (n : Nat) :
    s.mayServeSpan ctx r party n = true := by
  simp [State.mayServeSpan, Hindcast.replaying, h]

section
variable {s : State} {gid name : Nat} {g : Group} {t : Tile} {op : MatrixOp} {rest : List MatrixOp} (hg : s.group? gid = some g)
include hg

/-- The state after the last K-step of an operation that leaves `t'` for its tile. -/
theorem State.finished_step {t' : Tile} (ht : Table.get? g.tiles name = some t) (flags : BitVec 5) : ∃ u h,
    ((((s.modTile gid name (fun _ => t')).modGroup gid (fun g => g.raiseMstat op.issue flags)).modTile gid name
      (fun t => { t with ops := rest })).retireMatrix gid [op]) = u ∧ u.memory = s.memory ∧ u.group? gid = some h ∧
      Table.get? h.tiles name = some { t' with ops := rest } := by
  simp only [State.modTile, State.modGroup_modGroup]
  have hmod : ∀ F : Group → Group, (s.modGroup gid F).group? gid = some (F g) := fun F => by rw [State.group?_modGroup_self, hg, Option.map_some]
  obtain ⟨F, hretire, htiles⟩ := State.retireMatrix_eq (hmod _) [op]
  rw [hretire, State.modGroup_modGroup]
  refine ⟨_, _, rfl, rfl, hmod _, ?_⟩
  rw [htiles]
  simp [Group.raiseMstat_eq, Table.get?_modify, ht]

/-- MATRIX_STEP on an mstep of INT8 activations and latched INT8 weights (R236). -/
theorem matrixStep_steps {b : List W8} (ht : Table.get? g.tiles name = some t) (hops : t.ops = op :: rest) (hkind : op.kind = 2)
    (hdone : op.done = 0) (hstalled : t.stalled = none) (hstop : g.stopAsked = false) (hfirst : g.opWaits name op = false)
    (hw : t.weights = some (b, 3, false)) (hfmt : (⟨op.layout0, op.layout1, op.layout2⟩ : Layout).afmt = 3) (htidy : t.Tidy)
    (hwhole : g.spadPoison = []) (hoff : (s.hind g.ctx).mode = .off) :
    ∃ u h t', exec (.matrixStep gid name) s = .next u ∧ u.memory = s.memory ∧ u.group? gid = some h ∧ Table.get? h.tiles name = some t' ∧
      t'.ops = rest ∧ t'.nsteps = t.nsteps + 1 ∧ t'.weights = t.weights ∧
      ∀ r n, r < 128 → n < 64 → t'.element r n = if r ≤ (⟨op.layout0, op.layout1, op.layout2⟩ : Layout).nr then
        t.element r n + BitVec.ofInt 32 (dot (activation g ⟨op.layout0, op.layout1, op.layout2⟩ r) (fun k => b.getD (64 * k + n) 0))
      else t.element r n := by
  obtain ⟨t', flags, hpart, hsteps, hweights, helems⟩ :=
    applyPart_bytes (rows := upTo ((⟨op.layout0, op.layout1, op.layout2⟩ : Layout).nr + 1)) (flags := 0) hkind hw hfmt htidy hwhole
  obtain ⟨u, h, hu, hmemory, hgroup, htile⟩ := State.finished_step (op := op) (rest := rest) (t' := t') hg ht flags
  have hreads := State.stepReads_off hoff op (t.stepSp op)
  have hreads' := State.stepReads_off (s := (s.modTile gid name (fun _ => t')).modGroup gid (fun g => g.raiseMstat op.issue flags)) hoff op
    (t.stepSp op)
  have hparts : opParts op = [{ rows := upTo ((⟨op.layout0, op.layout1, op.layout2⟩ : Layout).nr + 1), addr := none }] := by simp [opParts, hkind]
  have hone : opSteps op = 1 := by simp [opSteps, hkind]
  have hrun : s.performStep gid g name t op rest = u := by
    simp only [State.performStep, State.mayServeSpan_off hoff, hreads, hreads', hparts, State.fetchParts, State.runStep, List.zip_cons_cons,
      List.zip_nil_right, List.foldl_cons, List.foldl_nil, hpart, hone, hdone, zero_add, Bool.not_true, Bool.false_eq_true, if_false, if_true]
    exact hu
  refine ⟨u, h, { t' with ops := rest }, ?_, hmemory, hgroup, htile, rfl, hsteps, hweights, fun r n hr hn => ?_⟩
  · show Host.Outcome.next _ = _
    simp only [hg, ht, hops, hstalled, hstop, hfirst, hrun, Bool.or_self, Bool.false_eq_true, if_false]
  · simp only [Tile.element, helems]
    rw [read_changedRows ((Table.canonical_iff 0 _).1 htidy.1).1 _ (show (upTo _).Nodup from List.nodup_range) hr hn]
    exact if_congr (by simp [upTo]) rfl rfl

end

end Sys2Proof.Machine
end

section
/-! PROOFS. Where a group's table of items lists a slot twice, a tile-wide form ends for both entries (11 R232): O41 and O42 leave that table open. -/

namespace Sys2Proof.Machine

/-- An item in the trap handler that owes a trap. -/
def owingItem : Item := { tileItem with owed := some (illegal 0x0E 0), trapCause := 0x80000000 }

/-- A group whose table of items lists slot 0 twice: an item that passes every check, and one whose trap is fatal. -/
def twiceGroup : Group := { tileGroup (idleTile true) with items := [(0, tileItem), (0, owingItem)] }

/-- The wave of slot 0 of that group. -/
def twiceState : State := { bench 2 twiceGroup with wave := { gid := 0, pc := 0x1000, slots := [0], ilen := 2 } }

/-- Is the group still there after an instruction? -/
def keepsGroup (i : Instr) : Bool :=
  match exec i twiceState with
  | .next u => (u.group? 0).isSome
  | _ => false

/-- An mwlat of sparse INT8 weights. -/
def latchForm : LatchForm := { formOf 0 6 0 0 with wfmt := 3, sp := true }

theorem plain_twice : Plain twiceState twiceGroup where
  group := rfl
  single := rfl
  unguarded := rfl
  clear := by
    unfold Group.Clear
    decide

theorem alone_twice_mscale : Alone twiceState twiceGroup (.mscale (formOf 0 4 0 0)) 0 tileItem :=
  ⟨plain_twice, rfl, rfl, by decide +kernel, by decide +kernel⟩

theorem alone_twice_mwlat : Alone twiceState twiceGroup (.mwlat latchForm) 0 tileItem :=
  ⟨plain_twice, rfl, rfl, by decide +kernel, by decide +kernel⟩

theorem holds_twice : Holds twiceGroup 0 (idleTile true) := ⟨rfl, rfl, rfl⟩

/-- The fatal trap of slot 0's second entry ends the kernel, and its group with it (03 R67). -/
theorem not_keepsGroup_mscale : keepsGroup (.mscale (formOf 0 4 0 0)) = false := by decide +kernel
theorem not_keepsGroup_mwlat : keepsGroup (.mwlat latchForm) = false := by decide +kernel

theorem keepsGroup_of_exec {i : Instr} {u : State} {h : Group} (hexec : exec i twiceState = .next u) (hgroup : u.group? 0 = some h) :
    keepsGroup i = true := by
  simp only [keepsGroup, hexec, hgroup, Option.isSome_some]

/-- Refutes O41: a group that lists slot 0 twice, the second time with an item that owes a fatal trap. mscale ends for both entries, and no group is
left that could hold the tile. Where a group lists each slot once, the forms do what the statement says (mfill_fills, madd_adds, mscale_scales,
mdrains_writes). -/
theorem not_tileRows : ¬ Obligations.TileRows := by
  rintro ⟨hrows, -⟩
  have htidy : (idleTile true).Tidy := by
    unfold Tile.Tidy
    decide
  obtain ⟨-, hmscale⟩ := hrows twiceState twiceGroup { formOf 0 4 0 0 with rb0 := 0, nrb1 := 0 } (formOf 0 4 0 0) 0 tileItem (idleTile true) rfl rfl
    htidy
  obtain ⟨u, h, t, hexec, -, hgroup, -⟩ := hmscale holds_twice alone_twice_mscale rfl
  exact absurd (keepsGroup_of_exec hexec hgroup) (by rw [not_keepsGroup_mscale]; decide)

/-- Refutes O42: in the same group mwlat ends for both entries of slot 0, and the second one's trap removes the group. Where a group
lists each slot once, the four forms queue their operations (mloop_queues, mloopg_queues, mwlat_queues, mstep_queues); MATRIX_STEP does what the
statement says (matrixStep_steps). -/
theorem not_matrixOperations : ¬ Obligations.MatrixOperations := by
  rintro ⟨hforms, -⟩
  obtain ⟨-, hmwlat, -⟩ := hforms twiceState twiceGroup (formOf 0 4 0 0) latchForm 0 tileItem (idleTile true)
  have hexec := hmwlat ⟨holds_twice, by decide, by decide, rfl⟩ alone_twice_mwlat (by decide +kernel) (by decide +kernel)
  exact absurd (keepsGroup_of_exec hexec rfl) (by rw [not_keepsGroup_mwlat]; decide)

end Sys2Proof.Machine
end

section
/-! PROOFS. pf changes nothing but the PC (12 R273). -/

namespace Sys2Proof.Machine

/-- What each member of a plain wave becomes is all that a run over the wave changes, where it leaves no trap or error pending. -/
theorem State.mapRun_plain {s : State} {g : Group} (hp : Plain s g) (i : Instr) {run : Group → Env → Item} {f : Env → Item}
    (hf : ∀ p ∈ g.items, s.wave.slots.contains p.1 = true → run g (s.envOf g p.1 p.2) = f (s.envOf g p.1 p.2) ∧
      (f (s.envOf g p.1 p.2)).fatal = none ∧ (f (s.envOf g p.1 p.2)).consumed = none) : s.mapRun i run = s.after g f := by
  obtain ⟨hg, hd, hu, hc⟩ := hp
  have hitems : g.items.mapAll (fun k it => if s.wave.slots.contains k then run g (s.envOf g k it) else it) =
      g.items.mapAll (fun k it => if s.wave.slots.contains k then f (s.envOf g k it) else it) :=
    Table.mapAll_congr _ fun p hm => ite_congr rfl (fun hs => (hf p hm hs).1) fun _ => rfl
  have hafter : s.modGroup s.wave.gid (fun h => { h with items := h.items.mapAll (fun k it =>
      if s.wave.slots.contains k then run g (s.envOf g k it) else it) }) = s.after g f := by
    unfold State.after
    exact State.modGroup_congr hg (by rw [hitems])
  have hgroup : (s.after g f).group? s.wave.gid = some { g with items := g.items.mapAll (fun k it =>
      if s.wave.slots.contains k then f (s.envOf g k it) else it) } := by
    simp [State.after, hg]
  have hclear : Group.Clear { g with items := g.items.mapAll (fun k it => if s.wave.slots.contains k then f (s.envOf g k it) else it) } := by
    intro q hq
    obtain ⟨p, hm, rfl⟩ := List.mem_map.1 hq
    by_cases hs : s.wave.slots.contains p.1 = true
    · simpa only [if_pos hs] using (hf p hm hs).2
    · simpa only [if_neg hs] using hc p hm
  have hsettle := State.settle_of_clear hgroup hclear
  rw [← hafter] at hsettle ⊢
  simp only [State.mapRun, hg, hd, hu]
  exact hsettle

theorem exec_pf (o : PrefetchForm) (s : State) : exec (.pf o) s = execPf o s := rfl

/-- The environment of an item whose registers hold no error. -/
def Env.sound (e : Env) : Env := { e with it := { e.it with bad := [] } }

theorem Env.gate_sound (e : Env) (sh : Shape) (admitted : Bool) : e.sound.gate sh admitted = e.gate sh admitted := by
  have huses : checkUses e.sound.it sh.uses = checkUses e.it sh.uses := checkUses_congr (it := e.it) (it' := e.sound.it) rfl _
  simp only [Env.gate, huses]
  rfl

theorem poisonedName_sound (e : Env) (names : List RegName) : poisonedName e.sound.it [] names = none := by
  rw [poisonedName, Option.map_eq_none_iff, List.find?_eq_none]
  intro r _
  cases r <;> simp [Env.sound]

theorem Env.Passes.sound {e : Env} {i : Instr} {badS : List Nat} (h : e.Passes i badS) : e.sound.Passes i [] := by
  rw [Env.Passes, Env.gate_sound]
  exact h.imp (fun hgo => ⟨hgo.1, poisonedName_sound e _⟩) id

/-- Settles O30: pf runs as if no register held an error, and ends without an effect. -/
theorem prefetchDoesNothing : Obligations.PrefetchDoesNothing := by
  unfold Obligations.PrefetchDoesNothing
  intro s g o hp ha
  rw [exec_pf, execPf]
  refine congrArg Host.Outcome.next (State.mapRun_plain hp _ fun p hm hs => ⟨?_, ?_⟩)
  · show ({ (s.envOf g p.1 p.2).sound.runForm _ _ _ _ _ with bad := p.2.bad } : Item) = _
    rw [Env.runForm_of_passes (ha p hm hs).sound]
    by_cases hguard : (s.envOf g p.1 p.2).it.guard (shapeOf (.pf o)).form.g = true
    · rw [Env.under, if_pos hguard, if_pos (show (s.envOf g p.1 p.2).sound.it.guard _ = true from hguard)]; rfl
    · rw [Env.under, if_neg hguard, if_neg (show ¬ (s.envOf g p.1 p.2).sound.it.guard _ = true from hguard)]; rfl
  · simp only [Env.under]
    split <;> exact hp.clear p hm

end Sys2Proof.Machine
end

section
/-! PROOFS. The scratchpad forms of a lone item (12 R258, R269 to R272): loads, stores and their full-empty forms. -/

namespace Sys2Proof.Machine

/-! ### The registers of a load and a store (R271, R272) -/

theorem widthBytes_eq (w : Width) : widthBytes w = bytesOfWidth w := by cases w <;> rfl

theorem leNat_lt (bs : List W8) : leNat bs < 256 ^ bs.length := by
  induction bs with
  | nil => exact Nat.one_pos
  | cons b bs ih =>
    have hb := b.isLt
    rw [leNat, List.length_cons, Nat.pow_succ]
    omega

theorem signExtend_ofNat {n x : Nat} (hn : 0 < n) (hx : x < 2 ^ n) (m : Nat) :
    (BitVec.ofNat n x).signExtend m = if 2 ^ (n - 1) ≤ x then BitVec.ofInt m ((x : Int) - 2 ^ n) else BitVec.ofNat m x := by
  have hpow : 2 ^ n = 2 * 2 ^ (n - 1) := by rw [← Nat.pow_succ']; congr 1; omega
  rw [BitVec.signExtend, BitVec.toInt_eq_toNat_cond, BitVec.toNat_ofNat, Nat.mod_eq_of_lt hx]
  by_cases h : 2 ^ (n - 1) ≤ x
  · rw [if_neg (by omega), if_pos h]
    norm_cast
  · rw [if_pos (by omega), if_neg h]
    exact BitVec.ofInt_natCast ..

theorem extended_unsigned (bs : List W8) : extended false bs = BitVec.ofNat 32 (leNat bs) := by simp [extended]

theorem extended_signed {bs : List W8} (hpos : 0 < bs.length) :
    extended true bs = (BitVec.ofNat (8 * bs.length) (leNat bs)).signExtend 32 := by
  have hlt : leNat bs < 2 ^ (8 * bs.length) := by rw [Nat.pow_mul]; exact leNat_lt bs
  rw [signExtend_ofNat (by omega) hlt]
  simp [extended]

/-- A load's destination, by the number of its bytes, is that of its width. -/
theorem Item.putLoad_eq_loaded (it : Item) (d : BitVec 7) {w : Width} (sx : Bool) {bs : List W8} (hlen : bs.length = bytesOfWidth w) :
    it.putLoad d sx bs = it.loaded d w sx bs := by
  cases w with
  | b8 | b16 =>
    have hsigned := extended_signed (bs := bs) (by rw [hlen]; decide)
    rw [hlen] at hsigned
    cases sx <;> simp [Item.putLoad, Item.loaded, hlen, bytesOfWidth, extended_unsigned, hsigned]
  | b32 | b64 | b128 => simp [Item.putLoad, Item.loaded, hlen, bytesOfWidth, extended_unsigned]

theorem Item.takeStore_eq_stored (it : Item) (d : BitVec 7) (w : Width) : it.takeStore d (bytesOfWidth w) = it.stored d w := by
  cases w <;> rfl

@[simp] theorem Item.loaded_fatal (it : Item) (d : BitVec 7) (w : Width) (sx : Bool) (bs : List W8) : (it.loaded d w sx bs).fatal = it.fatal := by
  cases w <;> rfl
@[simp] theorem Item.loaded_consumed (it : Item) (d : BitVec 7) (w : Width) (sx : Bool) (bs : List W8) :
    (it.loaded d w sx bs).consumed = it.consumed := by cases w <;> rfl

/-! ### Accesses of the scratchpad that meet no trap (R269) -/

@[simp] theorem Group.length_spadRead (g : Group) (x n : Nat) : (g.spadRead x n).length = n := by simp [Group.spadRead, upTo]

theorem SpadReady.spadTrap {s : State} {g : Group} {ea : W64} {n : Nat} (h : SpadReady s g ea n) (write : Bool) : g.spadTrap ea n write = none := by
  have halign := (aligned_iff ea n).2 h.aligned
  have hin : ¬ g.scratchBytes < ea.toNat + n := by have := h.inside; omega
  simp [Group.spadTrap, halign, h.seated, hin]

theorem exec_ld (o : MemForm) (s : State) : exec (.ld o) s = execLd o s := rfl
theorem exec_st (o : MemForm) (s : State) : exec (.st o) s = execSt o s := rfl
theorem exec_ldfe (o : MemForm) (s : State) : exec (.ldfe o) s = execLdfe o s := rfl
theorem exec_stfe (o : MemForm) (s : State) : exec (.stfe o) s = execStfe o s := rfl

/-- An unguarded group keeps no undo granules. -/
theorem State.undoScratch_unguarded {s : State} {gid : Nat} {g : Group} (hg : s.group? gid = some g) (hu : g.guarded = none) (xs : List Nat) :
    s.undoScratch gid xs = s := by simp [State.undoScratch, hg, hu]

/-- In a plain group of a context that keeps no log a store to the scratchpad is its write. -/
theorem State.spadStore_plain {s : State} {gid : Nat} {g : Group} (hg : s.group? gid = some g) (hu : g.guarded = none)
    (hoff : (s.hind g.ctx).mode = .off) (slot x : Nat) (bs : List W8) :
    s.spadStore gid slot x bs = s.modGroup gid (fun g => g.spadWrite x bs) := by
  have hwritten : (s.modGroup gid (fun g => g.spadWrite x bs)).group? gid = some (g.spadWrite x bs) := by
    rw [State.group?_modGroup_self, hg]; rfl
  rw [State.spadStore, State.undoScratch_unguarded hg hu]
  exact State.recordSpad_off hwritten hoff slot x true

/-- Where no item waits for a granule, a change of its bit serves none. -/
theorem State.granuleChanged_of_noWaiter {s : State} {gid : Nat} {g : Group} (hg : s.group? gid = some g) {x : Nat} (hno : g.NoWaiter x) :
    s.granuleChanged gid x = s := by
  have hwaiters : g.granuleWaiters x (g.isFull x) = [] := by
    simp only [Group.granuleWaiters]
    rw [List.filterMap_eq_nil_iff.2 fun p hp => ?_]
    · rfl
    · have hstill := hno p hp
      cases hw : p.2.wait with
      | granuleFull off since o | granuleEmpty off since o =>
        rw [hw] at hstill
        simp [show ¬off / 16 = x / 16 from hstill]
      | _ => rfl
  simp [State.granuleChanged, hg, State.serveGranule, hwaiters]

theorem Group.NoWaiter.modItem {g : Group} {x : Nat} (h : g.NoWaiter x) (k : Nat) {it : Item} (hit : it.wait = .none) :
    (g.modItem k (fun _ => it)).NoWaiter x := by
  intro p hp
  rcases Table.mem_modify hp with hp | ⟨_, _, rfl⟩
  · exact h p hp
  · simp [hit]

/-! ### The forms -/

@[simp] theorem State.withGroup_some {s : State} {gid : Nat} {g : Group} (hg : s.group? gid = some g) (f : Group → State) : s.withGroup gid f = f g := by
  simp [State.withGroup, hg]

/-- The group after an ending of one of its items. -/
theorem State.group?_finish {s : State} {g : Group} (e : Env) (i : Instr) (end_ : Ending) (hg : s.group? e.gid = some g) :
    (e.finish i end_ s).group? e.gid = some (g.modItem e.slot (fun _ => e.close (shapeOf i) end_)) := by
  rw [Env.finish, State.group?_setItem, hg]
  rfl

theorem Env.address_effective (e : Env) (o : MemForm) : e.address o.m o.a o.b o.idx o.scale o.off = e.effective o := rfl

/-- What a load of the scratchpad gives an item, by the number of its bytes and by its width. -/
theorem putLoad_spadRead (it : Item) (o : MemForm) (g : Group) (x : Nat) :
    it.putLoad o.d o.sx (g.spadRead x (bytesOfWidth o.width)) = it.loaded o.d o.width o.sx (g.spadRead x (bytesOfWidth o.width)) :=
  it.putLoad_eq_loaded o.d o.sx (g.length_spadRead _ _)

/-- A bit cleared by an ldfe with .clr. -/
def Group.cleared (g : Group) (x : Nat) (clr : Bool) : Group := if clr then g.setFull x false else g

theorem Group.cleared_eq (g : Group) (x : Nat) (clr : Bool) : ∃ fl, g.cleared x clr = { g with full := fl } := by
  cases clr
  · exact ⟨g.full, rfl⟩
  · exact ⟨_, rfl⟩

theorem State.modGroup_cleared {s : State} {gid : Nat} {g : Group} (hg : s.group? gid = some g) (x : Nat) (clr : Bool) :
    (if clr then s.modGroup gid (fun g => g.setFull x false) else s) = s.modGroup gid (fun g => g.cleared x clr) := by
  cases clr
  · have hsame : s.modGroup gid (fun g => g) = s.modGroup gid (fun _ => g) := State.modGroup_congr hg rfl
    exact (hsame.trans (State.modGroup_self hg)).symm
  · rfl

section
variable {s : State} {g : Group} {o : MemForm} {k : Nat} {it : Item} {ea : W64} (hea : (s.envOf g k it).effective o = ea)
  (hr : SpadReady s g ea (bytesOfWidth o.width))
include hea hr

theorem ldfe_waits (ha : Alone s g (.ldfe o) k it) (hempty : g.isFull ea.toNat = false) :
    exec (.ldfe o) s = .next (s.setItem s.wave.gid k { it with wait := .granuleFull ea.toNat s.tick o }) := by
  have hg : s.group? (s.envOf g k it).gid = some g := ha.plain.group
  obtain ⟨hf, hc⟩ := ha.item_clear
  rw [exec_ldfe, execLdfe, State.commitWave_unguarded ha.plain]
  refine congrArg Host.Outcome.next (State.foldWave_finish ha (u := s) (end_ := .wait (s.envOf g k it).it (.granuleFull ea.toNat s.tick o)) ?_ hg rfl
    ha.plain.unguarded ha.plain.clear hf hc)
  simp only [State.withGroup_some hg, Env.address_effective, hea, widthBytes_eq, hr.spadTrap, State.mayServeSpad_off hr.unlogged, hempty, Bool.not_true,
    Bool.false_eq_true, if_false]

theorem stfe_waits (ha : Alone s g (.stfe o) k it) (hfull : g.isFull ea.toNat = true) :
    exec (.stfe o) s = .next (s.setItem s.wave.gid k { it with wait := .granuleEmpty ea.toNat s.tick o }) := by
  have hg : s.group? (s.envOf g k it).gid = some g := ha.plain.group
  obtain ⟨hf, hc⟩ := ha.item_clear
  rw [exec_stfe, execStfe, State.commitWave_unguarded ha.plain]
  refine congrArg Host.Outcome.next (State.foldWave_finish ha (u := s) (end_ := .wait (s.envOf g k it).it (.granuleEmpty ea.toNat s.tick o)) ?_ hg rfl
    ha.plain.unguarded ha.plain.clear hf hc)
  simp only [State.withGroup_some hg, Env.address_effective, hea, widthBytes_eq, hr.spadTrap, State.mayServeSpad_off hr.unlogged, hfull, Bool.not_true,
    Bool.false_eq_true, if_false, if_true]

theorem ldfe_loads (ha : Alone s g (.ldfe o) k it) (hfull : g.isFull ea.toNat = true) (hno : g.NoWaiter ea.toNat) :
    exec (.ldfe o) s = .next ((s.goesOn (.ldfe o) g k it (fun it => it.loaded o.d o.width o.sx (g.spadRead ea.toNat (bytesOfWidth o.width)))).modGroup
      s.wave.gid (fun g => if o.clr then g.setFull ea.toNat false else g)) := by
  have hg : s.group? (s.envOf g k it).gid = some g := ha.plain.group
  obtain ⟨hf, hc⟩ := ha.item_clear
  have hdone := State.group?_finish (s.envOf g k it) (.ldfe o)
    (.done ((s.envOf g k it).it.loaded o.d o.width o.sx (g.spadRead ea.toNat (bytesOfWidth o.width)))) hg
  have hclear := ha.plain.clear.modItem (it := (s.envOf g k it).close (shapeOf (.ldfe o)) (.done ((s.envOf g k it).it.loaded o.d o.width o.sx
    (g.spadRead ea.toNat (bytesOfWidth o.width))))) k ((Item.loaded_fatal ..).trans hf) ((Item.loaded_consumed ..).trans hc)
  obtain ⟨fl, hfl⟩ := Group.cleared_eq (g.modItem (s.envOf g k it).slot (fun _ => (s.envOf g k it).close (shapeOf (.ldfe o)) (.done ((s.envOf g k it).it.loaded o.d
    o.width o.sx (g.spadRead ea.toNat (bytesOfWidth o.width)))))) ea.toNat o.clr
  have hend : ((s.goesOn (.ldfe o) g k it (fun it => it.loaded o.d o.width o.sx (g.spadRead ea.toNat (bytesOfWidth o.width)))).modGroup
      s.wave.gid (fun g => g.cleared ea.toNat o.clr)).group? s.wave.gid = _ :=
    (State.group?_modGroup_self ..).trans (congrArg (Option.map _) hdone)
  rw [Option.map_some, hfl] at hend
  rw [exec_ldfe, execLdfe, State.commitWave_unguarded ha.plain]
  refine congrArg Host.Outcome.next (State.foldWave_alone ha ?_ ha.plain.single hend ha.plain.unguarded hclear)
  have hserve : s.serveLdfe (s.envOf g k it) g o ea = ((s.goesOn (.ldfe o) g k it (fun it =>
      it.loaded o.d o.width o.sx (g.spadRead ea.toNat (bytesOfWidth o.width)))).modGroup s.wave.gid (fun g => g.cleared ea.toNat o.clr)) := by
    simp only [State.serveLdfe, widthBytes_eq, hr.whole, putLoad_spadRead, Bool.false_eq_true, if_false,
      State.recordSpad_off hdone (show (s.hind g.ctx).mode = .off from hr.unlogged), State.undoScratch_unguarded hdone ha.plain.unguarded, State.modGroup_cleared hdone]
    rfl
  simp only [State.withGroup_some hg, Env.address_effective, hea, widthBytes_eq, hr.spadTrap, State.mayServeSpad_off hr.unlogged, hfull, Bool.not_true,
    Bool.false_eq_true, if_false, if_true, hserve]
  exact State.granuleChanged_of_noWaiter hend (hno.modItem k rfl)

theorem stfe_stores (ha : Alone s g (.stfe o) k it) (hempty : g.isFull ea.toNat = false) (hno : g.NoWaiter ea.toNat) :
    exec (.stfe o) s = .next ((s.modGroup s.wave.gid (fun g => (g.spadWrite ea.toNat (it.stored o.d o.width)).setFull ea.toNat true)).goesOn
      (.stfe o) g k it id) := by
  have hg : s.group? (s.envOf g k it).gid = some g := ha.plain.group
  obtain ⟨hf, hc⟩ := ha.item_clear
  have hwritten : (s.modGroup s.wave.gid (fun g => (g.spadWrite ea.toNat (it.stored o.d o.width)).setFull ea.toNat true)).group? s.wave.gid =
      some ((g.spadWrite ea.toNat (it.stored o.d o.width)).setFull ea.toNat true) := by
    rw [State.group?_modGroup_self, ha.plain.group]; rfl
  have hend := State.group?_finish (s.envOf g k it) (.stfe o) (.done (s.envOf g k it).it) hwritten
  rw [exec_stfe, execStfe, State.commitWave_unguarded ha.plain]
  refine congrArg Host.Outcome.next (State.foldWave_alone ha ?_ ha.plain.single hend ha.plain.unguarded (ha.plain.clear.modItem k hf hc))
  have hserve : s.serveStfe (s.envOf g k it) o ea = (s.modGroup s.wave.gid (fun g => (g.spadWrite ea.toNat (it.stored o.d o.width)).setFull
      ea.toNat true)).goesOn (.stfe o) g k it id := by
    simp only [State.serveStfe, widthBytes_eq, Item.takeStore_eq_stored, State.spadStore_plain hg ha.plain.unguarded hr.unlogged,
      State.modGroup_modGroup]
    rfl
  simp only [State.withGroup_some hg, Env.address_effective, hea, widthBytes_eq, hr.spadTrap, State.mayServeSpad_off hr.unlogged, hempty, Bool.not_true,
    Bool.false_eq_true, if_false, hserve]
  exact State.granuleChanged_of_noWaiter hend (hno.modItem k rfl)

variable (hm : 2 ≤ o.m.toNat)
include hm

theorem ld_scratch (ha : Alone s g (.ld o) k it) : exec (.ld o) s = .next (s.goesOn (.ld o) g k it (fun it =>
    it.loaded o.d o.width o.sx (g.spadRead ea.toNat (bytesOfWidth o.width)))) := by
  have hg : s.group? (s.envOf g k it).gid = some g := ha.plain.group
  obtain ⟨hf, hc⟩ := ha.item_clear
  rw [exec_ld, execLd]
  refine congrArg Host.Outcome.next (State.foldWave_finish ha (u := s) (end_ := .done ((s.envOf g k it).it.loaded o.d o.width o.sx
    (g.spadRead ea.toNat (bytesOfWidth o.width)))) ?_ hg rfl ha.plain.unguarded ha.plain.clear
    ((Item.loaded_fatal ..).trans hf) ((Item.loaded_consumed ..).trans hc))
  have hdone := State.group?_finish (s.envOf g k it) (.ld o)
    (.done ((s.envOf g k it).it.loaded o.d o.width o.sx (g.spadRead ea.toNat (bytesOfWidth o.width)))) hg
  rw [State.withGroup_some hg, if_neg (by omega), State.spadLoad]
  simp only [Env.address_effective, hea, widthBytes_eq, hr.spadTrap, State.mayServeSpad_off hr.unlogged, hr.whole, putLoad_spadRead, Bool.not_true,
    Bool.false_eq_true, if_false, State.recordSpad_off hdone (show (s.hind g.ctx).mode = .off from hr.unlogged)]

theorem st_scratch (ha : Alone s g (.st o) k it) : exec (.st o) s = .next ((s.modGroup s.wave.gid (fun g =>
    g.spadWrite ea.toNat (it.stored o.d o.width))).goesOn (.st o) g k it id) := by
  have hg : s.group? (s.envOf g k it).gid = some g := ha.plain.group
  obtain ⟨hf, hc⟩ := ha.item_clear
  rw [exec_st, execSt, State.commitWave_unguarded ha.plain]
  refine congrArg Host.Outcome.next (State.foldWave_finish ha (g' := g.spadWrite ea.toNat (it.stored o.d o.width))
    (end_ := .done (s.envOf g k it).it) ?_ (by rw [State.group?_modGroup_self, ha.plain.group]; rfl) rfl ha.plain.unguarded ha.plain.clear hf hc)
  rw [State.withGroup_some hg, if_neg (by omega), State.spadStoreForm]
  simp only [Env.address_effective, hea, widthBytes_eq, hr.spadTrap, State.mayServeSpad_off hr.unlogged, Bool.not_true, Bool.false_eq_true, if_false,
    State.spadStore_plain hg ha.plain.unguarded hr.unlogged, Item.takeStore_eq_stored]
  rfl

end

/-- Settles O24: each form of a lone item ends at once or waits, by its granule's bit. -/
theorem scratchForms : Obligations.ScratchForms := by
  unfold Obligations.ScratchForms
  intro s g o k it e ea n hm hr
  exact ⟨fun ha => ld_scratch rfl hr hm ha, fun ha => st_scratch rfl hr hm ha, fun ha hfull hno => ldfe_loads rfl hr ha hfull hno,
    fun ha hempty => ldfe_waits rfl hr ha hempty, fun ha hempty hno => stfe_stores rfl hr ha hempty hno, fun ha hfull => stfe_waits rfl hr ha hfull⟩

end Sys2Proof.Machine
end

section
/-! PROOFS. Atomics (12 R265, R274): the operation on bytes, and the scratchpad's atomics of a lone item. -/

namespace Sys2Proof.Machine

/-! ### The operations on words and on bytes (R274) -/

/-- The kind of an atomic's access by its operation; 9 is compare and swap. -/
def atomicKind (op : Nat) (uns : Bool) : AccessKind := if op = 9 then .cas else .atomic op uns

theorem ite_lt_eq_ite_le {α β : Type} [LinearOrder α] (f : β → α) (hf : Function.Injective f) (x y : β) :
    (if f x < f y then x else y) = (if f x ≤ f y then x else y) ∧ (if f x < f y then y else x) = (if f y ≤ f x then x else y) := by
  constructor
  · rcases lt_trichotomy (f x) (f y) with h | h | h
    · rw [if_pos h, if_pos h.le]
    · rw [hf h, ite_self, ite_self]
    · rw [if_neg h.le.not_gt, if_neg h.not_ge]
  · rw [← ite_not]
    exact if_congr not_lt rfl rfl

theorem atomicOp_eq {w : Nat} (uns : Bool) (old b c : BitVec w) (op : Nat) :
    atomicOp op uns old b c = (newWord op uns old b c, atomicFlags op old b) := by
  have hnat := ite_lt_eq_ite_le BitVec.toNat (fun _ _ => BitVec.eq_of_toNat_eq) old b
  have hint := ite_lt_eq_ite_le BitVec.toInt (fun _ _ => BitVec.eq_of_toInt_eq) old b
  match op with
  | 0 | 1 | 2 | 3 | 6 | 8 => rfl
  | 4 | 5 => cases uns <;> simp [atomicOp, newWord, atomicFlags, BitVec.ult, BitVec.slt, hnat, hint]
  | 7 => simp [atomicOp, newWord, atomicFlags, BitVec.slt]
  | n + 9 => simp [atomicOp, newWord, atomicFlags]

/-- Only compare and swap reads its third operand. -/
theorem newWord_c {w : Nat} {op : Nat} (hop : op < 9) (uns : Bool) (old b c c' : BitVec w) : newWord op uns old b c = newWord op uns old b c' := by
  interval_cases op <;> rfl

/-- The operation on the bytes of a word, with the operands that a form reads. -/
theorem atomicBytes_word (it : Item) (o : AtomForm) {op : Nat} (hop : op ≤ 9) (uns : Bool) {old : List W8} (hlen : old.length = 4) :
    atomicBytes (atomicKind op uns) old (it.operandBytes false (if atomicKind op uns = .cas then o.c else o.b)) (it.operandBytes false o.b) =
      (leBytes 4 (newWord op uns (BitVec.ofNat 32 (leNat old)) (it.readV o.b) (it.readV o.c)).toNat,
        atomicFlags op (BitVec.ofNat 32 (leNat old)) (it.readV o.b)) := by
  have hword : ∀ x : W32, BitVec.ofNat 32 (leNat (leBytes 4 x.toNat)) = x := fun x => by
    rw [leNat_leBytes, Nat.mod_eq_of_lt (show x.toNat < 256 ^ 4 from x.isLt), BitVec.ofNat_toNat, BitVec.setWidth_eq]
  rcases Nat.lt_or_eq_of_le hop with hlt | rfl
  · have hne : op ≠ 9 := by omega
    simp only [atomicKind, if_neg hne, atomicBytes, hlen, reduceCtorEq, if_false, Item.operandBytes, hword, atomicOp_eq]
    rw [newWord_c hlt uns _ _ _ (it.readV o.c)]
    rfl
  · simp only [atomicKind, atomicBytes, hlen, if_true, Bool.false_eq_true, Nat.reduceEqDiff, if_false, Item.operandBytes, hword, atomicOp_eq]
    rfl

/-! ### The scratchpad's atomics (R265) -/

theorem exec_spadAtomics (o : AtomForm) (s : State) : ∀ p ∈ spadAtomics o, p.2 ≤ 9 ∧
    exec p.1 s = .next (s.foldWave p.1 false (spadAtomic p.1 o (atomicKind p.2 o.uns))) := by
  intro p hp
  simp only [spadAtomics, List.mem_cons, List.not_mem_nil, or_false] at hp
  rcases hp with rfl | rfl | rfl | rfl | rfl | rfl | rfl | rfl | rfl | rfl <;> exact ⟨by dsimp only; omega, rfl⟩

/-- A scratchpad atomic of a lone item on an aligned word of its allocation. -/
theorem spadAtomic_alone {s : State} {g : Group} {i : Instr} {o : AtomForm} {k : Nat} {it : Item} {ea : W64} {op : Nat} (hop : op ≤ 9)
    (hea : (s.envOf g k it).address o.m o.a 0 false 0 o.off = ea) (hr : SpadReady s g ea 4) (ha : Alone s g i k it) {old : W32}
    (hold : BitVec.ofNat 32 (leNat (g.spadRead ea.toNat 4)) = old) :
    s.foldWave i false (spadAtomic i o (atomicKind op o.uns)) = (s.modGroup s.wave.gid (fun g =>
      g.spadWrite ea.toNat (leBytes 4 (newWord op o.uns old (it.readV o.b) (it.readV o.c)).toNat))).goesOn i g k it (fun jt =>
        { jt.writeV o.d old with fpstat := it.fpstat ||| atomicFlags op old (it.readV o.b) }) := by
  have hg : s.group? (s.envOf g k it).gid = some g := ha.plain.group
  obtain ⟨hf, hc⟩ := ha.item_clear
  refine State.foldWave_finish ha (g' := g.spadWrite ea.toNat (leBytes 4 (newWord op o.uns old (it.readV o.b) (it.readV o.c)).toNat))
    (end_ := .done { (s.envOf g k it).it.writeV o.d old with fpstat := it.fpstat ||| atomicFlags op old (it.readV o.b) }) ?_
    (by rw [State.group?_modGroup_self, ha.plain.group]; rfl) rfl ha.plain.unguarded ha.plain.clear hf hc
  have hload : (s.envOf g k it).it.putLoad o.d false (g.spadRead ea.toNat 4) = (s.envOf g k it).it.writeV o.d old := by
    simp [Item.putLoad, extended_unsigned, hold]
  have hbytes := atomicBytes_word (s.envOf g k it).it o hop o.uns (g.length_spadRead ea.toNat 4)
  simp only [spadAtomic, State.withGroup_some hg, hea, hr.spadTrap, State.mayServeSpad_off hr.unlogged, hr.whole, Bool.not_true,
    Bool.false_eq_true, if_false, hbytes, hload, State.spadStore_plain hg ha.plain.unguarded hr.unlogged, hold]
  rfl

/-- Settles O25: the ten forms are one body by their operation. -/
theorem scratchAtomics : Obligations.ScratchAtomics := by
  unfold Obligations.ScratchAtomics
  intro s g o k it e ea hm hr p hp ha old b
  obtain ⟨hop, hexec⟩ := exec_spadAtomics o s p hp
  rw [hexec, spadAtomic_alone hop rfl hr ha rfl]
  rfl

end Sys2Proof.Machine
end

section
/-! PROOFS. The traps of loads and stores (12 R269, R270; 04 R88). -/

namespace Sys2Proof.Machine

theorem log2Fuel_bytesOfWidth (w : Width) : log2Fuel 8 (bytesOfWidth w) = Nat.log2 (bytesOfWidth w) := by cases w <;> decide

theorem memTrap_eq (cause : Nat) (ea : W64) (spad : Bool) (w : Width) (write : Bool) : memTrap cause ea spad (bytesOfWidth w) write =
    { cause := cause, addr := ea, info := BitVec.ofNat 32 (512 * boolNat spad + 32 * Nat.log2 (bytesOfWidth w) + boolNat write) } := by
  rw [memTrap, memInfo, log2Fuel_bytesOfWidth]

/-- A lone item's form that traps as its body says puts the item in its handler. -/
theorem State.foldWave_trap {s : State} {g : Group} {i : Instr} {k : Nat} {it : Item} {h : W64} {body : Env → State → State} {t : Trap}
    (ha : Alone s g i k it) (hh : s.handlerOf g.kh = some h) (hin : it.inHandler = false) (hw : it.windows = [])
    (hbody : body (s.envOf g k it) s = (s.envOf g k it).finish i (.trap (s.envOf g k it).it t) s) :
    s.foldWave i false body = s.setItem s.wave.gid k ((s.envOf g k it).entered it h t) := by
  obtain ⟨hf, hc⟩ := ha.item_clear
  have hclose : (s.envOf g k it).close (shapeOf i) (.trap (s.envOf g k it).it t) = (s.envOf g k it).entered it h t :=
    Env.close_trap hw hh hin rfl
  have hfinish := State.foldWave_finish ha hbody ha.plain.group rfl ha.plain.unguarded ha.plain.clear (by rw [hclose]; exact hf)
    (by rw [hclose]; exact hc)
  rw [hfinish, hclose]

section
variable {s : State} {g : Group} {o : MemForm} {k : Nat} {it : Item} {h : W64} {ea : W64} {t : Trap} (hea : (s.envOf g k it).effective o = ea)
  (hh : s.handlerOf g.kh = some h) (hin : it.inHandler = false) (hw : it.windows = [])
include hea hh hin hw

theorem ld_spadTrap (hm : 2 ≤ o.m.toNat) (ha : Alone s g (.ld o) k it) (htrap : g.spadTrap ea (bytesOfWidth o.width) false = some t) :
    exec (.ld o) s = .next (s.setItem s.wave.gid k ((s.envOf g k it).entered it h t)) := by
  have hg : s.group? (s.envOf g k it).gid = some g := ha.plain.group
  rw [exec_ld, execLd, State.foldWave_trap ha hh hin hw]
  rw [State.withGroup_some hg, if_neg (by omega), State.spadLoad]
  simp only [Env.address_effective, hea, widthBytes_eq, htrap]

theorem st_spadTrap (hm : 2 ≤ o.m.toNat) (ha : Alone s g (.st o) k it) (htrap : g.spadTrap ea (bytesOfWidth o.width) true = some t) :
    exec (.st o) s = .next (s.setItem s.wave.gid k ((s.envOf g k it).entered it h t)) := by
  have hg : s.group? (s.envOf g k it).gid = some g := ha.plain.group
  rw [exec_st, execSt, State.commitWave_unguarded ha.plain, State.foldWave_trap ha hh hin hw]
  rw [State.withGroup_some hg, if_neg (by omega), State.spadStoreForm]
  simp only [Env.address_effective, hea, widthBytes_eq, htrap]

theorem ld_globalTrap (hm : o.m.toNat < 2) (ha : Alone s g (.ld o) k it) (htrap : s.reachGlobal g ea (bytesOfWidth o.width) false = .trap t) :
    exec (.ld o) s = .next (s.setItem s.wave.gid k ((s.envOf g k it).entered it h t)) := by
  have hg : s.group? (s.envOf g k it).gid = some g := ha.plain.group
  rw [exec_ld, execLd, State.foldWave_trap ha hh hin hw]
  rw [State.withGroup_some hg, if_pos hm, State.globalLoad]
  simp only [Env.address_effective, hea, widthBytes_eq, htrap]

theorem st_globalTrap (hm : o.m.toNat < 2) (ha : Alone s g (.st o) k it) (htrap : s.reachGlobal g ea (bytesOfWidth o.width) true = .trap t) :
    exec (.st o) s = .next (s.setItem s.wave.gid k ((s.envOf g k it).entered it h t)) := by
  have hg : s.group? (s.envOf g k it).gid = some g := ha.plain.group
  rw [exec_st, execSt, State.commitWave_unguarded ha.plain, State.foldWave_trap ha hh hin hw]
  rw [State.withGroup_some hg, if_pos hm, State.globalStore]
  simp only [Env.address_effective, hea, widthBytes_eq, htrap]

end

theorem Group.spadTrap_misaligned (g : Group) {ea : W64} {w : Width} (write : Bool) (hmis : ea.toNat % bytesOfWidth w ≠ 0) :
    g.spadTrap ea (bytesOfWidth w) write =
      some { cause := causeMisalign, addr := ea, info := BitVec.ofNat 32 (512 + 32 * Nat.log2 (bytesOfWidth w) + boolNat write) } := by
  have halign : aligned ea (bytesOfWidth w) = false := by simpa [aligned] using hmis
  simp [Group.spadTrap, halign, memTrap_eq, boolNat]

theorem Group.spadTrap_outside (g : Group) {ea : W64} {w : Width} (write : Bool) (halign : ea.toNat % bytesOfWidth w = 0)
    (hout : g.isLanding = true ∨ g.scratchBytes < ea.toNat + bytesOfWidth w) : g.spadTrap ea (bytesOfWidth w) write =
      some { cause := causeProt, addr := ea, info := BitVec.ofNat 32 (512 + 32 * Nat.log2 (bytesOfWidth w) + boolNat write) } := by
  have hout : (g.isLanding || decide (g.scratchBytes < ea.toNat + bytesOfWidth w)) = true := by simpa using hout
  simp [Group.spadTrap, (aligned_iff ea _).2 halign, hout, memTrap_eq, boolNat]

/-- An address for which the core's TLB holds the right translates. -/
theorem State.translate_of_tlb {s : State} {g : Group} {ea : W64} {write : Bool} {pa : Nat} (hcanon : canonicalVa ea = true)
    (hmap : ∃ t, s.tlb? g.core g.ctx ea = some t ∧ (if write then t.w else t.r) = true ∧ pa = t.addr + ea.toNat % 2 ^ t.logSize) :
    s.translate g.core g.ctx ea (boolNat write) = .ok pa := by
  obtain ⟨t, ht, hright, hpa⟩ := hmap
  have htlb : s.tlbFor g.core g.ctx ea = some t := by simp [State.tlbFor, ht]
  have hkind : kindGranted t.r t.w t.x (boolNat write) = true := by cases write <;> simpa [kindGranted, boolNat] using hright
  simp [State.translate, hcanon, htlb, hkind, hpa]

/-- What no region of a context grants is not granted, whatever the target (R88). -/
theorem State.granted_eq_false {s : State} {ctx pa n : Nat} {write : Bool} (h : ∀ r ∈ (s.context ctx).regions, r.grants pa n false write = false) :
    s.granted ctx pa n false write = false := by
  have hany : (s.context ctx).regions.any (fun r => r.grants pa n false write) = false := by
    rw [List.any_eq_false]
    intro r hr
    rw [h r hr]
    exact Bool.false_ne_true
  unfold State.granted
  split
  · rfl
  · simp only [hany, Bool.false_and]
  · exact hany

theorem State.reachGlobal_prot {s : State} {g : Group} {ea : W64} {w : Width} {write : Bool} {pa : Nat} (halign : ea.toNat % bytesOfWidth w = 0)
    (hcanon : canonicalVa ea = true)
    (hmap : ∃ t, s.tlb? g.core g.ctx ea = some t ∧ (if write then t.w else t.r) = true ∧ pa = t.addr + ea.toNat % 2 ^ t.logSize)
    (hdeny : ∀ r ∈ (s.context g.ctx).regions, r.grants pa (bytesOfWidth w) false write = false) : s.reachGlobal g ea (bytesOfWidth w) write =
      .trap { cause := causeProt, addr := ea, info := BitVec.ofNat 32 (32 * Nat.log2 (bytesOfWidth w) + boolNat write) } := by
  simp only [State.reachGlobal, (aligned_iff ea _).2 halign, State.translate_of_tlb hcanon hmap, State.granted_eq_false hdeny, memTrap_eq,
    Bool.not_true, Bool.false_eq_true, if_false]
  simp [boolNat]

/-- Settles O29: the checks of an access stand before its effect, and their trap puts the item in its handler. -/
theorem accessTraps : Obligations.AccessTraps := by
  unfold Obligations.AccessTraps
  constructor
  · intro s g o k it h e ea n info hm hh hin hw
    simp only [List.forall_mem_cons, List.not_mem_nil, false_imp_iff, implies_true, and_true]
    refine ⟨fun ha => ⟨fun hmis => ?_, fun hal hout => ?_⟩, fun ha => ⟨fun hmis => ?_, fun hal hout => ?_⟩⟩
    · exact ld_spadTrap (it := it) rfl hh hin hw hm ha (g.spadTrap_misaligned false hmis)
    · exact ld_spadTrap (it := it) rfl hh hin hw hm ha (g.spadTrap_outside false hal hout)
    · exact st_spadTrap (it := it) rfl hh hin hw hm ha (g.spadTrap_misaligned true hmis)
    · exact st_spadTrap (it := it) rfl hh hin hw hm ha (g.spadTrap_outside true hal hout)
  · intro s g o k it h pa e ea n hm hh hin hw halign hcanon
    simp only [List.forall_mem_cons, List.not_mem_nil, false_imp_iff, implies_true, and_true]
    refine ⟨fun ha hmap hdeny => ?_, fun ha hmap hdeny => ?_⟩
    · exact ld_globalTrap (it := it) rfl hh hin hw hm ha (State.reachGlobal_prot halign hcanon hmap hdeny)
    · exact st_globalTrap (it := it) rfl hh hin hw hm ha (State.reachGlobal_prot halign hcanon hmap hdeny)

end Sys2Proof.Machine
end

section
/-! PROOFS. Reads after writes of several bytes (12 R253, R254, R271, R272; 04 R87). -/

namespace Sys2Proof.Machine

/-- A byte is what was written last: in a line that is held under the write's tag, a write of another byte leaves it. -/
theorem Memory.byte_writeByte_ne (m : Memory) {tag a x : Nat} (b : W8) (hx : x ≠ a) (ht : m.tag (lineOf x) = tag) (k : Nat) :
    (m.writeByte tag a b).byte k x = m.byte k x := by
  by_cases hl : lineOf x = lineOf a
  · by_cases hk : tag = k
    · subst hk
      exact m.byte_writeByte_line b hx (hl ▸ ht)
    · have ht' : (m.writeByte tag a b).tag (lineOf x) = tag := by rw [Memory.tag_writeByte, if_pos hl]
      rw [Memory.byte, Memory.byte, if_neg (by rw [ht']; exact hk), if_neg (by rw [ht]; exact hk)]
  · exact m.byte_writeByte_other tag k b hl

/-- A line that is held under a tag stays so under writes with the tag. -/
theorem Memory.tag_writeByte_of_tag (m : Memory) {tag line : Nat} (a : Nat) (b : W8) (ht : m.tag line = tag) :
    (m.writeByte tag a b).tag line = tag := by
  rw [Memory.tag_writeByte, ht, ite_self]

/-- The writes of bytes `bs` at addresses from `a + n` on. -/
def Memory.writeFrom (m : Memory) (tag a n : Nat) (bs : List W8) : Memory :=
  (bs.zip (List.range' n bs.length)).foldl (fun m p => m.writeByte tag (a + p.2) p.1) m

theorem Memory.write_eq_writeFrom (m : Memory) (tag a : Nat) (bs : List W8) : m.write tag a bs = m.writeFrom tag a 0 bs := by
  rw [Memory.write, Memory.writeFrom, upTo, List.range_eq_range']

theorem Memory.writeFrom_cons (m : Memory) (tag a n : Nat) (b : W8) (bs : List W8) :
    m.writeFrom tag a n (b :: bs) = (m.writeByte tag (a + n) b).writeFrom tag a (n + 1) bs := by
  simp only [Memory.writeFrom, List.length_cons, List.range'_succ, List.zip_cons_cons, List.foldl_cons]

theorem Memory.byte_writeFrom_outside (tag a : Nat) {x : Nat} (k : Nat) (bs : List W8) : ∀ (m : Memory) (n : Nat),
    (x < a + n ∨ a + n + bs.length ≤ x) → m.tag (lineOf x) = tag → (m.writeFrom tag a n bs).byte k x = m.byte k x := by
  induction bs with
  | nil => intros; rfl
  | cons b bs ih =>
    intro m n hx ht
    rw [List.length_cons] at hx
    rw [Memory.writeFrom_cons, ih _ _ (by omega) (m.tag_writeByte_of_tag _ b ht), m.byte_writeByte_ne b (by omega) ht]

theorem Memory.byte_writeFrom_inside (tag a : Nat) {x : Nat} (bs : List W8) : ∀ (m : Memory) (n : Nat),
    a + n ≤ x → x < a + n + bs.length → (m.writeFrom tag a n bs).byte tag x = bs.getD (x - (a + n)) 0 := by
  induction bs with
  | nil => intro m n h1 h2; simp at h2; omega
  | cons b bs ih =>
    intro m n h1 h2
    rw [List.length_cons] at h2
    rw [Memory.writeFrom_cons]
    by_cases hx : x = a + n
    · subst hx
      rw [Memory.byte_writeFrom_outside _ _ _ _ _ _ (by omega) (by rw [Memory.tag_writeByte, if_pos rfl]), Memory.byte_writeByte_self, Nat.sub_self]
      rfl
    · rw [ih _ _ (by omega) (by omega), show x - (a + n) = x - (a + (n + 1)) + 1 by omega, List.getD_cons_succ]

theorem Memory.byte_write_inside (m : Memory) (tag : Nat) {a x : Nat} {bs : List W8} (h1 : a ≤ x) (h2 : x < a + bs.length) :
    (m.write tag a bs).byte tag x = bs.getD (x - a) 0 := by
  rw [Memory.write_eq_writeFrom]
  exact Memory.byte_writeFrom_inside tag a bs m 0 h1 h2

theorem Memory.byte_write_outside (m : Memory) {tag a x : Nat} {bs : List W8} (hx : x < a ∨ a + bs.length ≤ x) (ht : m.tag (lineOf x) = tag)
    (k : Nat) : (m.write tag a bs).byte k x = m.byte k x := by
  rw [Memory.write_eq_writeFrom]
  exact Memory.byte_writeFrom_outside tag a k bs m 0 hx ht

/-- A byte of the scratchpad after a write. -/
theorem Group.read_spadWrite (g : Group) (x : Nat) (bs : List W8) (a : Nat) :
    Table.read 0 (g.spadWrite x bs).scratch a = if x ≤ a ∧ a < x + bs.length then bs.getD (a - x) 0 else Table.read 0 g.scratch a := by
  rw [Group.spadWrite, upTo, List.range_eq_range']
  exact read_foldl_write bs x 0 g.scratch a

/-- Settles O31: byte by byte, a later byte of the same write never disturbs an earlier one. -/
theorem readAfterWrite : Obligations.ReadAfterWrite := by
  unfold Obligations.ReadAfterWrite
  refine ⟨fun g x bs a => ⟨?_, rfl⟩, fun m tag a bs x => ⟨m.byte_write_inside tag, fun hl k => ?_, m.byte_write_outside⟩⟩
  · rw [← g.read_spadWrite x bs a]
    rfl
  · exact m.byte_write_other tag k a bs fun j hj heq => hl j hj heq.symm

end Sys2Proof.Machine
end

section
/-! PROOFS. Token traffic, persistent requests and leases (12 R261; 13 R283 to R285). -/

namespace Sys2Proof.Machine

/-! ### The tokens of a line (R284) -/

theorem homeSlice_lt (pa : Nat) : homeSlice pa < 256 := by
  have hmod : ∀ n : Nat, n % 256 < 2 ^ 8 := fun n => Nat.mod_lt _ (by decide)
  unfold homeSlice
  split
  · omega
  · exact Nat.xor_lt_two_pow (Nat.xor_lt_two_pow (Nat.xor_lt_two_pow (hmod _) (hmod _)) (hmod _)) (hmod _)

theorem homeSlice_mem (pa : Nat) : homeSlice pa ∈ slicesOf pa := by
  have hlt := homeSlice_lt pa
  refine List.mem_map.2 ⟨homeSlice pa / 64, List.mem_range.2 (by omega), ?_⟩
  rw [servingSlice]
  omega

theorem slicesOf_nodup (pa : Nat) : (slicesOf pa).Nodup := by
  refine List.Nodup.map_on (fun a _ b _ h => ?_) List.nodup_range
  simp only [servingSlice] at h
  omega

/-- The plain tokens that a slice lists for a line. -/
def State.listed (s : State) (line q : Nat) : Nat := ((Table.get? (s.l2Of q) line).map L2Line.plain).getD 0

/-- The plain tokens that all slices list for a line. -/
def State.allListed (s : State) (line : Nat) : Nat := ((slicesOf (128 * line)).map (s.listed line)).sum

theorem lineOf_mul (line : Nat) : lineOf (128 * line) = line := by
  rw [lineOf]
  omega

theorem sum_map_change {l : List Nat} (hl : l.Nodup) {a : Nat} (ha : a ∈ l) {f h : Nat → Nat} (hf : ∀ q, q ≠ a → f q = h q) :
    (l.map f).sum + h a = (l.map h).sum + f a := by
  have hrest : (l.erase a).map f = (l.erase a).map h := List.map_congr_left fun q hq => hf q (hl.mem_erase_iff.1 hq).1
  rw [← List.sum_map_erase f ha, ← List.sum_map_erase h ha, hrest]
  omega

theorem State.l2At_of_listed {s : State} {line q : Nat} {l : L2Line} (h : Table.get? (s.l2Of q) line = some l) :
    s.l2At q (128 * line) = l := by simp [State.l2At, lineOf_mul, h]

/-- A slice holds the tokens it lists; absent from its home, a line holds there every token that no slice lists. -/
theorem State.l2At_plain (s : State) (line q : Nat) : (s.l2At q (128 * line)).plain = s.listed line q +
    if q = homeSlice (128 * line) ∧ Table.get? (s.l2Of q) line = none then 4 - s.allListed line else 0 := by
  cases h : Table.get? (s.l2Of q) line with
  | some l => simp [State.l2At_of_listed h, State.listed, h]
  | none =>
    have hsum : ∀ l : List Nat, ((l.filterMap (fun r => if r = q then none else Table.get? (s.l2Of r) line)).map L2Line.plain).sum =
        (l.map (s.listed line)).sum := by
      intro l
      induction l with
      | nil => rfl
      | cons r l ih =>
        rw [List.filterMap_cons, List.map_cons, List.sum_cons, ← ih, State.listed]
        by_cases hr : r = q
        · rw [if_pos hr, hr, h]; simp
        · rw [if_neg hr]
          cases Table.get? (s.l2Of r) line <;> simp
    by_cases hq : q = homeSlice (128 * line)
    · simp [State.l2At, lineOf_mul, h, ← hq, hsum, State.allListed, State.listed]
    · simp [State.l2At, lineOf_mul, h, hq, State.listed]

/-- The tokens of a line are those listed, with what its home holds unlisted. -/
theorem State.plainTokens_eq (s : State) (line : Nat) : s.plainTokens line = s.allListed line +
    if Table.get? (s.l2Of (homeSlice (128 * line))) line = none then 4 - s.allListed line else 0 := by
  have hchange := sum_map_change (slicesOf_nodup (128 * line)) (homeSlice_mem (128 * line)) (f := fun q => (s.l2At q (128 * line)).plain)
    (h := s.listed line) fun q hq => by simp [s.l2At_plain line q, hq]
  simp only [s.l2At_plain line (homeSlice (128 * line)), true_and] at hchange
  rw [State.plainTokens, State.allListed]
  rw [State.allListed] at hchange
  omega

/-! ### Lines set and dropped -/

theorem State.l2Of_setL2 (s : State) (q line r : Nat) (l : L2Line) :
    (s.setL2 q line l).l2Of r = if r = q then Table.put (s.l2Of q) line l else s.l2Of r := by
  simp only [State.l2Of, State.setL2, Table.read, Table.get?_put]
  split <;> rfl

theorem State.get?_setL2 (s : State) (q line r : Nat) (l : L2Line) :
    Table.get? ((s.setL2 q line l).l2Of r) line = if r = q then some l else Table.get? (s.l2Of r) line := by
  rw [State.l2Of_setL2]
  split
  · exact Table.get?_put_self ..
  · rfl

theorem State.get?_dropL2 (s : State) (q line r : Nat) :
    Table.get? ((s.dropL2 q line).l2Of r) line = if r = q then none else Table.get? (s.l2Of r) line := by
  cases h : Table.get? (s.l2Of q) line with
  | none =>
    simp only [State.dropL2, h]
    by_cases hr : r = q
    · rw [if_pos hr, hr, h]
    · rw [if_neg hr]
  | some l =>
    simp only [State.dropL2, h]
    simp only [State.l2Of, Table.read, Table.get?_put]
    by_cases hr : r = q
    · simp [hr, Table.get?_erase]
    · rw [if_neg hr, if_neg hr]

theorem State.allListed_setL2 (s : State) {q line : Nat} (l : L2Line) (hq : q ∈ slicesOf (128 * line)) :
    (s.setL2 q line l).allListed line + s.listed line q = s.allListed line + l.plain := by
  have hchange := sum_map_change (slicesOf_nodup (128 * line)) hq (f := (s.setL2 q line l).listed line) (h := s.listed line) fun r hr => by
    simp [State.listed, State.get?_setL2, hr]
  rwa [show (s.setL2 q line l).listed line q = l.plain by simp [State.listed, State.get?_setL2]] at hchange

theorem State.allListed_dropL2 (s : State) {q line : Nat} (hq : q ∈ slicesOf (128 * line)) :
    (s.dropL2 q line).allListed line + s.listed line q = s.allListed line := by
  have hchange := sum_map_change (slicesOf_nodup (128 * line)) hq (f := (s.dropL2 q line).listed line) (h := s.listed line) fun r hr => by
    simp [State.listed, State.get?_dropL2, hr]
  rwa [show (s.dropL2 q line).listed line q = 0 by simp [State.listed, State.get?_dropL2]] at hchange

@[simp] theorem State.dropL2_memory (s : State) (q line : Nat) : (s.dropL2 q line).memory = s.memory := by
  unfold State.dropL2
  split <;> rfl

/-- A slice that lists no plain token of a line may drop it. -/
theorem State.plainTokens_dropL2 {s : State} {q line : Nat} {l : L2Line} (hq : q ∈ slicesOf (128 * line))
    (hl : Table.get? (s.l2Of q) line = some l) (hplain : l.plain = 0) (hfour : s.plainTokens line = 4) :
    (s.dropL2 q line).plainTokens line = 4 ∧ ((s.dropL2 q line).l2At q (128 * line)).plain = 0 := by
  have hall := s.allListed_dropL2 hq
  have hlisted : s.listed line q = 0 := by simp [State.listed, hl, hplain]
  have hdropped : (s.dropL2 q line).listed line q = 0 := by simp [State.listed, State.get?_dropL2]
  rw [State.plainTokens_eq] at hfour ⊢
  rw [State.l2At_plain, hdropped]
  rw [State.get?_dropL2, State.get?_dropL2]
  by_cases hhome : q = homeSlice (128 * line)
  · rw [← hhome] at hfour ⊢
    simp only [hl, reduceCtorEq, if_false, if_true] at hfour ⊢
    simp only [and_self, if_true]
    omega
  · simp only [hhome, Ne.symm hhome, if_false, false_and]
    split at hfour <;> simp_all

/-! ### A transfer (R284) -/

theorem exec_tokenTransfer (m : TokenMove) (s : State) : exec (.tokenTransfer m) s = .next (s.moveTokens m) := rfl

/-- What the source keeps and what the destination has after a transfer. -/
def lineLeft (m : TokenMove) (a : L2Line) : L2Line :=
  { a with
    plain := a.plain - m.plain
    owner := a.owner && !m.owner
    dirty := a.dirty && !m.owner }
def lineCome (m : TokenMove) (a b : L2Line) : L2Line :=
  { b with
    key := if b.tokens = 0 then a.key else b.key
    plain := b.plain + m.plain
    owner := b.owner || m.owner
    dirty := b.dirty || (m.owner && a.dirty)
    wts := if b.tokens = 0 ∨ m.owner then a.wts else b.wts
    lease := if b.tokens = 0 then a.lease else max b.lease a.lease }

/-- A transfer that may happen sets the line at both ends, and the source may drop what holds no token. -/
theorem State.moveTokens_of_mayMove {s : State} {m : TokenMove} (h : s.mayMove m = true) :
    let v := ((s.recall m.line none).setL2 m.dst m.line (lineCome m (s.l2At m.src (128 * m.line)) (s.l2At m.dst (128 * m.line)))).setL2 m.src m.line
      (lineLeft m (s.l2At m.src (128 * m.line)))
    s.moveTokens m = v ∨ s.moveTokens m = v.dropL2 m.src m.line ∧ (lineLeft m (s.l2At m.src (128 * m.line))).plain = 0 := by
  intro v
  have hmove : s.moveTokens m = if (lineLeft m (s.l2At m.src (128 * m.line))).tokens = 0 && !((s.recall m.line none).setL2 m.dst m.line
      (lineCome m (s.l2At m.src (128 * m.line)) (s.l2At m.dst (128 * m.line)))).isCxl (128 * m.line) then v.dropL2 m.src m.line else v := by
    rw [State.moveTokens, if_pos h]
    rfl
  rw [hmove]
  split
  next hempty =>
    obtain ⟨htokens, -⟩ := Bool.and_eq_true_iff.1 hempty
    rw [decide_eq_true_eq, L2Line.tokens] at htokens
    exact .inr ⟨rfl, by omega⟩
  next => exact .inl rfl

theorem tokenTransfer_moves {s : State} {m : TokenMove} (h : s.mayMove m = true) (hfour : s.plainTokens m.line = 4) :
    (s.moveTokens m).memory = s.memory ∧ (s.moveTokens m).plainTokens m.line = 4 ∧
      (s.moveTokens m).l2At m.dst (128 * m.line) = lineCome m (s.l2At m.src (128 * m.line)) (s.l2At m.dst (128 * m.line)) ∧
      ((s.moveTokens m).l2At m.src (128 * m.line)).plain = (s.l2At m.src (128 * m.line)).plain - m.plain := by
  obtain ⟨hsrc, hdst, hne, hle⟩ : m.src ∈ slicesOf (128 * m.line) ∧ m.dst ∈ slicesOf (128 * m.line) ∧ m.src ≠ m.dst ∧
      m.plain ≤ (s.l2At m.src (128 * m.line)).plain := by
    simp only [State.mayMove, Bool.and_eq_true, List.contains_iff_mem, bne_iff_ne, ne_eq, decide_eq_true_eq] at h
    tauto
  have hcame : ∀ a b : L2Line, (lineCome m a b).plain = b.plain + m.plain := fun _ _ => rfl
  have hleft : ∀ a : L2Line, (lineLeft m a).plain = a.plain - m.plain := fun _ => rfl
  have hcases := State.moveTokens_of_mayMove h
  dsimp only at hcases
  set a := s.l2At m.src (128 * m.line) with ha
  set b := s.l2At m.dst (128 * m.line) with hb
  set u := (s.recall m.line none).setL2 m.dst m.line (lineCome m a b) with hu
  set v := u.setL2 m.src m.line (lineLeft m a) with hv
  have hutab : ∀ r, Table.get? (u.l2Of r) m.line = if r = m.dst then some (lineCome m a b) else Table.get? (s.l2Of r) m.line := fun r =>
    State.get?_setL2 ..
  have hvtab : ∀ r, Table.get? (v.l2Of r) m.line = if r = m.src then some (lineLeft m a) else Table.get? (u.l2Of r) m.line := fun r =>
    State.get?_setL2 ..
  have hvdst : Table.get? (v.l2Of m.dst) m.line = some (lineCome m a b) := by rw [hvtab, if_neg hne.symm, hutab, if_pos rfl]
  have hvsrc : Table.get? (v.l2Of m.src) m.line = some (lineLeft m a) := by rw [hvtab, if_pos rfl]
  have hvfour : v.plainTokens m.line = 4 := by
    have hplainA := s.l2At_plain m.line m.src
    have hplainB := s.l2At_plain m.line m.dst
    have hallU : u.allListed m.line + s.listed m.line m.dst = s.allListed m.line + (lineCome m a b).plain := State.allListed_setL2 _ _ hdst
    have hallV : v.allListed m.line + u.listed m.line m.src = u.allListed m.line + (lineLeft m a).plain := State.allListed_setL2 _ _ hsrc
    have hlistedU : u.listed m.line m.src = s.listed m.line m.src := by rw [State.listed, hutab, if_neg hne]; rfl
    have hhome : Table.get? (v.l2Of (homeSlice (128 * m.line))) m.line = if homeSlice (128 * m.line) = m.src then some (lineLeft m a) else
        if homeSlice (128 * m.line) = m.dst then some (lineCome m a b) else Table.get? (s.l2Of (homeSlice (128 * m.line))) m.line := by
      rw [hvtab, hutab]
    rw [State.plainTokens_eq] at hfour ⊢
    rw [hhome]
    rw [← ha] at hplainA
    rw [← hb] at hplainB
    rw [hcame] at hallU
    rw [hleft] at hallV
    by_cases hs : m.src = homeSlice (128 * m.line)
    · have hd : m.dst ≠ homeSlice (128 * m.line) := fun hd => hne (hs.trans hd.symm)
      simp only [← hs, true_and, hne.symm, false_and, if_true, if_false, reduceCtorEq] at *
      omega
    · by_cases hd : m.dst = homeSlice (128 * m.line)
      · simp only [← hd, true_and, hne, hne.symm, false_and, if_true, if_false, reduceCtorEq] at *
        omega
      · by_cases hn : Table.get? (s.l2Of (homeSlice (128 * m.line))) m.line = none <;>
          simp only [hs, hd, Ne.symm hs, Ne.symm hd, hn, false_and, if_true, if_false] at * <;> omega
  rcases hcases with hmove | ⟨hmove, hempty⟩
  · rw [hmove]
    exact ⟨rfl, hvfour, State.l2At_of_listed hvdst, by rw [State.l2At_of_listed hvsrc, hleft]⟩
  · obtain ⟨hfour', hplain'⟩ := State.plainTokens_dropL2 hsrc hvsrc hempty hvfour
    rw [hmove]
    refine ⟨State.dropL2_memory .., hfour', State.l2At_of_listed ?_, by rw [hplain', ← hempty, hleft]⟩
    rw [State.get?_dropL2, if_neg hne.symm, hvdst]

/-! ### Requests, the halo token and leases -/

theorem exec_persistentRequest (slice line : Nat) (w : Bool) (s : State) :
    exec (.persistentRequest slice line w) s = execPersistentRequest slice line w s := rfl
theorem exec_arbiterGrantVisit (s : State) : exec .arbiterGrantVisit s = execArbiterGrantVisit s := rfl

theorem persistentRequest_files {s : State} {slice line : Nat} {w : Bool} (hwants : s.wantsLine slice line = true)
    (hneeds : s.neededMove slice (128 * line) w ≠ none) (hp : (slice, line, w) ∉ s.persistent) (ha : (slice, line, w) ∉ s.active) :
    exec (.persistentRequest slice line w) s = .next { s with persistent := s.persistent ++ [(slice, line, w)] } := by
  have hneeds' : (s.neededMove slice (128 * line) w).isNone = false := by rwa [Option.isNone_eq_false_iff, Option.isSome_iff_ne_none]
  simp [exec_persistentRequest, execPersistentRequest, hwants, hneeds', hp, ha]

theorem persistentRequest_idle {s : State} {slice line : Nat} {w : Bool}
    (h : s.wantsLine slice line = false ∨ (slice, line, w) ∈ s.persistent ∨ (slice, line, w) ∈ s.active) :
    exec (.persistentRequest slice line w) s = .next s := by
  rw [exec_persistentRequest, execPersistentRequest, if_pos]
  rcases h with h | h | h <;> simp [h]

theorem arbiterGrantVisit_activates {s : State} {r : Nat × Nat × Bool} {before after : List (Nat × Nat × Bool)}
    (hp : s.persistent = before ++ r :: after) (hr : r.1 / 64 = s.grantAt) (hbefore : ∀ p ∈ before, p.1 / 64 ≠ s.grantAt) :
    exec .arbiterGrantVisit s = .next { s with
      persistent := before ++ after
      active := s.active ++ [r]
      grantAt := (s.grantAt + 1) % 4 } := by
  have hnone : before.find? (fun p => p.1 / 64 == s.grantAt) = none := List.find?_eq_none.2 fun p hp => by simpa using hbefore p hp
  have hfind : s.persistent.find? (fun p => p.1 / 64 == s.grantAt) = some r := by simp [hp, List.find?_append, hnone, hr]
  have herase : s.persistent.erase r = before ++ after := by
    rw [hp, List.erase_append_right _ fun hmem => hbefore r hmem hr, List.erase_cons_head]
  simp only [exec_arbiterGrantVisit, execArbiterGrantVisit, hfind, herase]

theorem arbiterGrantVisit_passes {s : State} (h : ∀ p ∈ s.persistent, p.1 / 64 ≠ s.grantAt) :
    exec .arbiterGrantVisit s = .next { s with grantAt := (s.grantAt + 1) % 4 } := by
  have hfind : s.persistent.find? (fun p => p.1 / 64 == s.grantAt) = none := List.find?_eq_none.2 fun p hp => by simpa using h p hp
  simp only [exec_arbiterGrantVisit, execArbiterGrantVisit, hfind]

theorem haloTokenPass_advances {s : State} {slice : Nat} (h : slice < 256) : ∃ u, exec (.haloTokenPass slice) s = .next u ∧
    { u with halo := s.halo } = s ∧ Table.read 0 u.halo slice = (Table.read 0 s.halo slice + 1) % 33 ∧
    ∀ q, q ≠ slice → Table.read 0 u.halo q = Table.read 0 s.halo q :=
  ⟨_, congrArg Host.Outcome.next (if_neg (by omega)), rfl, Table.read_write_self .., fun q hq => (Table.read_write ..).trans (if_neg hq)⟩

theorem State.l1Of_modL1 (s : State) (c q : Nat) (f : Table L1Line → Table L1Line) :
    (s.modL1 c f).l1Of q = if q = c then f (s.l1Of c) else s.l1Of q := Table.read_write ..

theorem leaseExpiry_drops (s : State) (cluster line : Nat) : ∃ u, exec (.leaseExpiry cluster line) s = .next u ∧ { u with l1 := s.l1 } = s ∧
    u.l1Of cluster = (s.l1Of cluster).filter (fun p => p.1 != line || p.2.state != .valid) ∧ ∀ q, q ≠ cluster → u.l1Of q = s.l1Of q :=
  ⟨_, rfl, rfl, (s.l1Of_modL1 ..).trans (if_pos rfl), fun _ hq => (s.l1Of_modL1 ..).trans (if_neg hq)⟩

end Sys2Proof.Machine
end

section
/-! PROOFS. What issue does without a form: traps of a fetch, deferred traps, starvation (03 R64 to R67; 08 R159, R163, R170). -/

namespace Sys2Proof.Machine

/-- Some members of a group are in their handler, and nothing else changes, where none of those has an open window or is in its handler. -/
theorem State.settle_traps {s : State} {gid : Nat} {g : Group} (hg : s.group? gid = some g) (hc : g.Clear) {f : Nat → Item → Item}
    (hf : ∀ p ∈ g.items, (f p.1 p.2).fatal = p.2.fatal ∧ (f p.1 p.2).consumed = p.2.consumed) :
    (s.modGroup gid (fun g => { g with items := g.items.mapAll f })).settle gid = s.modGroup gid (fun g => { g with items := g.items.mapAll f }) := by
  refine State.settle_of_clear (g := { g with items := g.items.mapAll f }) (by rw [State.group?_modGroup_self, hg]; rfl) fun q hq => ?_
  obtain ⟨p, hp, rfl⟩ := List.mem_map.1 hq
  obtain ⟨hfatal, hconsumed⟩ := hf p hp
  exact ⟨hfatal.trans (hc p hp).1, hconsumed.trans (hc p hp).2⟩

theorem Item.leading_of_no_window {it : Item} (h : it.windows = []) : it.leading = false := by simp [Item.leading, h]

theorem Item.takeTrap_of_handler {it : Item} (hin : it.inHandler = false) (h : W64) (now ilen : Nat) (t : Trap) : it.takeTrap (some h) now ilen t =
    { it with
      trapCause := trapCauseWord ilen t.cause
      trapPc := it.pc
      trapAddr := t.addr
      trapInfo := t.info
      pc := h
      joined := 4096 * now
      windows := []
      wait := .none
      issued := false
      owed := none
      got := none } := by
  simp [Item.takeTrap, hin]

/-- The trap that an item takes in its handler is the one that `entered` writes. -/
theorem Env.takeTrap_eq_entered (e : Env) {it : Item} (hin : it.inHandler = false) (hpc : it.pc = e.it.pc) (h : W64) (t : Trap) :
    it.takeTrap (some h) e.now e.ilen t = e.entered it h t := by
  rw [Item.takeTrap_of_handler hin, Env.entered, trapCauseWord, hpc]

/-! ### Encodings that fail decoding (R66, R67) -/

theorem exec_illegalEncoding (bad : Illegal) (s : State) : exec (.illegalEncoding bad) s = .next (s.illegalWave bad) := rfl

theorem illegalEncoding_traps {s : State} {g : Group} {h : W64} {bad : Illegal} (hp : Plain s g) (hh : s.handlerOf g.kh = some h)
    (hilen : bad.ilen = s.wave.ilen) (hmem : ∀ p ∈ g.items, s.wave.slots.contains p.1 = true → p.2.windows = [] ∧ p.2.inHandler = false) :
    exec (.illegalEncoding bad) s = .next (s.after g (fun e => e.entered e.it h
      { cause := 1, addr := 0, info := BitVec.ofNat 32 (256 * bad.field + bad.reason) })) := by
  have hmember : ∀ p ∈ g.items, s.wave.slots.contains p.1 = true →
      (if (s.envOf g p.1 p.2).it.leading then { p.2 with wait := .earlier } else
        (s.envOf g p.1 p.2).it.takeTrap (s.envOf g p.1 p.2).handler (s.envOf g p.1 p.2).now bad.ilen (illegal bad.reason bad.field)) =
      (s.envOf g p.1 p.2).entered (s.envOf g p.1 p.2).it h { cause := 1, addr := 0, info := BitVec.ofNat 32 (256 * bad.field + bad.reason) } := by
    intro p hm hs
    obtain ⟨hw, hin⟩ := hmem p hm hs
    have hlead : (s.envOf g p.1 p.2).it.leading = false := Item.leading_of_no_window hw
    rw [hlead, hilen, show (s.envOf g p.1 p.2).handler = some h from hh]
    exact (s.envOf g p.1 p.2).takeTrap_eq_entered hin rfl h _
  have hitems : g.items.mapAll (fun k it => if s.wave.slots.contains k then (if (s.envOf g k it).it.leading then { it with wait := .earlier } else
        (s.envOf g k it).it.takeTrap (s.envOf g k it).handler (s.envOf g k it).now bad.ilen (illegal bad.reason bad.field)) else it) =
      g.items.mapAll (fun k it => if s.wave.slots.contains k then (s.envOf g k it).entered (s.envOf g k it).it h
        { cause := 1, addr := 0, info := BitVec.ofNat 32 (256 * bad.field + bad.reason) } else it) :=
    Table.mapAll_congr _ fun p hm => ite_congr rfl (hmember p hm) fun _ => rfl
  rw [exec_illegalEncoding, State.after, ← State.settle_traps hp.group hp.clear fun p _ => by split <;> exact ⟨rfl, rfl⟩]
  simp only [State.illegalWave, hp.group]
  exact congrArg (fun u => Host.Outcome.next (State.settle u s.wave.gid)) (State.modGroup_congr hp.group (by rw [hitems]))

/-! ### Deferred traps (R64) -/

section
variable {s : State} {gid slot : Nat} {g : Group} {it : Item} (hg : s.group? gid = some g) (hit : Table.get? g.items slot = some it)
include hg hit

theorem exec_lavio {d fld n : Nat} (hw : it.wait = .lavio d fld n) : exec (.lavio gid slot) s = .next (if it.leading then s else
    (s.setItem gid slot (it.takeTrap (s.handlerOf g.kh) s.tick n (lavioTrap d fld))).settle gid) := by
  show execLavio gid slot s = _
  simp only [execLavio, hg, State.item?_of_group hg hit, hw]

theorem lavio_traps {d fld n : Nat} {h : W64} (hc : g.Clear) (hw : it.wait = .lavio d fld n) (hlead : it.leading = false)
    (hh : s.handlerOf g.kh = some h) (hin : it.inHandler = false) : exec (.lavio gid slot) s = .next (s.setItem gid slot
      ({ Env.of s g gid slot it with ilen := n }.entered it h { cause := 3, addr := 0, info := BitVec.ofNat 32 (d % 16 + 16 * fld) })) := by
  obtain ⟨hf, hcons⟩ := hc (slot, it) (Table.get?_some_mem hit)
  have htrap : it.takeTrap (some h) s.tick n (lavioTrap d fld) = { Env.of s g gid slot it with ilen := n }.entered it h (lavioTrap d fld) :=
    Env.takeTrap_eq_entered { Env.of s g gid slot it with ilen := n } hin rfl h _
  rw [exec_lavio hg hit hw, hlead, hh, htrap]
  set jt := { Env.of s g gid slot it with ilen := n }.entered it h (lavioTrap d fld)
  refine congrArg Host.Outcome.next (State.settle_of_clear (g := g.modItem slot (fun _ => jt)) ?_ (hc.modItem slot (it := jt) hf hcons))
  rw [State.group?_setItem, hg]
  rfl

/-! ### Starvation and yield (R159, R163) -/

theorem exec_starvation : exec (.starvation gid slot) s = .next (if it.starved || !s.fullyReady gid g slot it then s
    else s.setItem gid slot { it with
      starved := true
      aged := s.tick }) := by
  show execStarvation gid slot s = _
  simp only [execStarvation, hg, State.item?_of_group hg hit]

theorem yieldExpiry_readies : ∃ u, exec (.yieldExpiry gid slot) s = .next u ∧ u.memory = s.memory ∧
    u.item? gid slot = some { it with aside := none } :=
  ⟨_, rfl, rfl, by rw [State.item?_modItem, if_pos rfl, State.item?_of_group hg hit]; rfl⟩

end

/-! ### Deadlocked windows (R170) -/

theorem exec_crossLaneDeadlock (gid window : Nat) (s : State) : exec (.crossLaneDeadlock gid window) s = .next (if s.deadlocked gid window then
    s.fetchTraps gid ((upTo 2048).filter (fun k => windowOf k == window)) (fun _ => barrierTrap 0x40 0 0) 2 else s) := rfl

/-- The slots that a deadlock of a window traps. -/
theorem contains_windowSlots {k window : Nat} (hk : k < 2048) :
    ((upTo 2048).filter (fun k => windowOf k == window)).contains k = decide (k / 32 = window) := by
  rw [Bool.eq_iff_iff, List.contains_iff_mem, List.mem_filter, decide_eq_true_eq, beq_iff_eq]
  exact ⟨fun h => h.2, fun h => ⟨List.mem_range.2 hk, h⟩⟩

/-- An item of a deadlocked window in its handler, and any other item. -/
def Item.deadlockTrap (s : State) (h : W64) (window k : Nat) (it : Item) : Item :=
  if k / 32 = window then it.takeTrap (some h) s.tick 2 (barrierTrap 0x40 0 0) else it

theorem fetchTraps_deadlock {s : State} {gid window : Nat} {g : Group} {h : W64} (hg : s.group? gid = some g) (hc : g.Clear)
    (hh : s.handlerOf g.kh = some h) (hslots : ∀ p ∈ g.items, p.1 < 2048)
    (hmem : ∀ p ∈ g.items, p.1 / 32 = window → p.2.windows = [] ∧ p.2.inHandler = false) :
    s.fetchTraps gid ((upTo 2048).filter (fun k => windowOf k == window)) (fun _ => barrierTrap 0x40 0 0) 2 =
      s.modGroup gid (fun g => { g with items := g.items.mapAll (Item.deadlockTrap s h window) }) := by
  have hitems : g.items.mapAll (fun k it => if ((upTo 2048).filter (fun k => windowOf k == window)).contains k then
        (if it.leading then { it with wait := .earlier } else it.takeTrap (some h) s.tick 2 (barrierTrap 0x40 0 0)) else it) =
      g.items.mapAll (Item.deadlockTrap s h window) := by
    refine Table.mapAll_congr _ fun p hp => ?_
    rw [contains_windowSlots (hslots p hp), Item.deadlockTrap]
    by_cases hk : p.1 / 32 = window
    · have hlead := Item.leading_of_no_window (hmem p hp hk).1
      simp [hk, hlead]
    · simp [hk]
  rw [← State.settle_traps hg hc fun p hp => ?_]
  · simp only [State.fetchTraps, hg, hh]
    exact congrArg (State.settle · gid) (State.modGroup_congr hg (by rw [hitems]))
  · rw [Item.deadlockTrap]
    split
    next hk => rw [Item.takeTrap_of_handler (hmem p hp hk).2]; exact ⟨rfl, rfl⟩
    next => exact ⟨rfl, rfl⟩

theorem crossLaneDeadlock_traps {s : State} {gid window : Nat} {g : Group} {h : W64} (hg : s.group? gid = some g) (hc : g.Clear)
    (hh : s.handlerOf g.kh = some h) (hslots : ∀ p ∈ g.items, p.1 < 2048) (hdead : s.deadlocked gid window = true)
    (hmem : ∀ p ∈ g.items, p.1 / 32 = window → p.2.windows = [] ∧ p.2.inHandler = false) :
    ∃ u, exec (.crossLaneDeadlock gid window) s = .next u ∧ u.memory = s.memory ∧
      ∀ k it, Table.get? g.items k = some it → ∃ it', u.item? gid k = some it' ∧ it'.v = it.v ∧ it'.p = it.p ∧
        (k / 32 ≠ window → it' = it) ∧
        (k / 32 = window → it'.pc = h ∧ it'.trapPc = it.pc ∧ it'.trapCause = 0x80000211 ∧ it'.trapInfo = 0x40) := by
  rw [exec_crossLaneDeadlock, if_pos hdead, fetchTraps_deadlock hg hc hh hslots hmem]
  refine ⟨_, rfl, rfl, fun k it hit => ⟨Item.deadlockTrap s h window k it, ?_, ?_⟩⟩
  · refine State.item?_of_group (g := { g with items := g.items.mapAll (Item.deadlockTrap s h window) }) ?_ (Table.get?_mapAll_some hit _)
    rw [State.group?_modGroup_self, hg]
    rfl
  · rw [Item.deadlockTrap]
    by_cases hk : k / 32 = window
    · rw [if_pos hk, Item.takeTrap_of_handler (hmem (k, it) (Table.get?_some_mem hit) hk).2]
      exact ⟨rfl, rfl, fun hne => absurd hk hne, fun _ => ⟨rfl, rfl, rfl, rfl⟩⟩
    · rw [if_neg hk]
      exact ⟨rfl, rfl, fun _ => rfl, fun heq => absurd heq hk⟩

/-- Settles O58: the tokens of a line by what its slices list, and each event of issue by its meaning. -/
theorem coherenceAndIssue : Obligations.CoherenceAndIssue := by
  unfold Obligations.CoherenceAndIssue
  refine ⟨⟨fun s m => ⟨fun h => ?_, fun h hfour => ?_⟩, fun s slice line w => ⟨persistentRequest_files, persistentRequest_idle⟩,
    fun s r before after => arbiterGrantVisit_activates, fun s => arbiterGrantVisit_passes, fun s slice => haloTokenPass_advances,
    leaseExpiry_drops⟩, fun s g h bad => illegalEncoding_traps, fun s gid slot d fld n g it h hg hc hit hw => ⟨fun hlead => ?_, ?_⟩,
    fun s gid slot g it hg hit => ⟨fun hs hready => ?_, fun hready => ?_, yieldExpiry_readies hg hit⟩,
    fun s gid window g h hg hc hh hslots => ⟨fun hdead => ?_, crossLaneDeadlock_traps hg hc hh hslots⟩⟩
  · rw [exec_tokenTransfer, State.moveTokens, if_neg (by simp [h])]
  · obtain ⟨hmemory, htokens, hdst, hsrc⟩ := tokenTransfer_moves h hfour
    refine ⟨_, exec_tokenTransfer m s, hmemory, htokens, ?_⟩
    rw [hdst]
    exact ⟨rfl, rfl, rfl, rfl, hsrc⟩
  · rw [exec_lavio hg hit hw, if_pos hlead]
  · exact fun hlead hh hin => lavio_traps hg hit hc hw hlead hh hin
  · rw [exec_starvation hg hit, if_neg (by simp [hs, hready])]
  · rw [exec_starvation hg hit, if_pos (by simp [hready])]
  · rw [exec_crossLaneDeadlock, if_neg (by simp [hdead])]

end Sys2Proof.Machine
end

section
/-! PROOFS. What serving a global access does beside its effect (12 R259 to R265; 13 R281 to R289): fences, caches, budgets and logs. -/

namespace Sys2Proof.Machine

/-! ### Fences (R282, R288, R296) -/

theorem Table.modify_id {α : Type} (t : Table α) (k : Nat) : Table.modify t k (fun a => a) = t := by
  induction t with
  | nil => rfl
  | cons p t ih =>
    obtain ⟨j, b⟩ := p
    by_cases hk : k = j <;> simp [Table.modify, hk, ih]

theorem Table.get?_filter_of_none {α : Type} {t : Table α} {k : Nat} (h : Table.get? t k = none) (q : Nat × α → Bool) :
    Table.get? (t.filter q) k = none := by
  induction t with
  | nil => rfl
  | cons p t ih =>
    obtain ⟨j, a⟩ := p
    by_cases hk : k = j
    · simp [Table.get?, hk] at h
    · rw [Table.get?, if_neg hk] at h
      rw [List.filter_cons]
      split
      · rw [Table.get?, if_neg hk, ih h]
      · exact ih h

theorem State.modItem_id (s : State) (gid k : Nat) : s.modItem gid k (fun it => it) = s := by
  have hgroup : (fun g : Group => g.modItem k (fun it => it)) = fun g => g := by
    funext g
    rw [Group.modItem, Table.modify_id]
  rw [State.modItem, hgroup, State.modGroup, Table.modify_id]

/-- A fence has changed the item's VIEW, the sequencers' stamps, and taken copies from the L1s. -/
def State.Fenced (s t : State) (gid k : Nat) : Prop :=
  ∃ (view : Item → Nat) (l1 : Table (Table L1Line)) (stamps : Table Nat), t = { s.modItem gid k (fun it => { it with view := view it }) with l1 := l1, scStamps := stamps } ∧
    ∀ c line, Table.get? (s.l1Of c) line = none → Table.get? (t.l1Of c) line = none

theorem State.Fenced.refl (s : State) (gid k : Nat) : s.Fenced s gid k :=
  ⟨Item.view, s.l1, s.scStamps, by rw [State.modItem_id s gid k], fun _ _ h => h⟩

theorem State.Fenced.trans {s t u : State} {gid k : Nat} (h₁ : s.Fenced t gid k) (h₂ : t.Fenced u gid k) : s.Fenced u gid k := by
  obtain ⟨v, l1, sc, ht, hl⟩ := h₁
  obtain ⟨v', l1', sc', hu, hl'⟩ := h₂
  refine ⟨fun it => v' { it with view := v it }, l1', sc', ?_, fun c line h => hl' c line (hl c line h)⟩
  have hcompose := State.modItem_modItem s gid k (fun it => { it with view := v it }) (fun it => { it with view := v' it })
  rw [hu, ht]
  exact congrArg (fun x : State => { x with l1 := l1', scStamps := sc' }) hcompose

theorem State.fenced_view (s : State) (gid k : Nat) (view : Item → Nat) : s.Fenced (s.modItem gid k (fun it => { it with view := view it })) gid k :=
  ⟨view, s.l1, s.scStamps, rfl, fun _ _ h => h⟩

theorem State.fenced_filter (s : State) (gid k c : Nat) (q : Nat × L1Line → Bool) : s.Fenced (s.modL1 c (fun t => t.filter q)) gid k := by
  refine ⟨Item.view, _, s.scStamps, by rw [State.modItem_id s gid k]; rfl, fun r line h => ?_⟩
  rw [State.l1Of_modL1]
  split
  next hr => subst hr; exact Table.get?_filter_of_none h q
  next => exact h

theorem State.Fenced.ite {s t : State} {gid k : Nat} {c : Prop} [Decidable c] {f : State → State} (h : s.Fenced t gid k)
    (hf : ∀ t : State, t.Fenced (f t) gid k) : s.Fenced (if c then f t else t) gid k := by
  split
  · exact h.trans (hf t)
  · exact h

theorem State.acquireAt_fenced (s : State) (gid k : Nat) (sc : Scope) : s.Fenced (s.acquireAt gid k sc) gid k := by
  unfold State.acquireAt
  split
  · split
    next g it _ _ =>
      have hview := s.fenced_view gid k (fun _ => max it.view it.seen)
      have hleases := hview.trans (State.fenced_filter _ gid k (clusterOf g.core) (fun p => p.2.state != .valid || decide (max it.view it.seen ≤ p.2.lend)))
      exact hleases.ite (f := fun t => t.dropKeyLines (clusterOf g.core) (s.context g.ctx).key) fun t => t.fenced_filter gid k _ _
    · exact .refl ..
  · exact .refl ..

theorem State.sequence_fenced (s : State) (gid k : Nat) (sc : Scope) : s.Fenced (s.sequence gid k sc) gid k := by
  unfold State.sequence
  split
  · exact ⟨fun _ => _, s.l1, _, rfl, fun _ _ h => h⟩
  · exact .refl ..

theorem State.release_fenced (s : State) (gid k : Nat) (sc : Scope) : s.Fenced (s.modItem gid k (fun it => it.release sc)) gid k := by
  have hview : ∀ it : Item, it.release sc = { it with view := if scopeWide sc then max it.view it.rel else it.view } := fun it => by
    unfold Item.release
    split <;> rfl
  rw [funext hview]
  exact s.fenced_view gid k _

theorem State.fence_fenced (s : State) (gid k : Nat) (acq rel sc : Bool) (scope : Scope) : s.Fenced (s.fence gid k acq rel sc scope) gid k := by
  unfold State.fence
  have hrel := (State.Fenced.refl s gid k).ite (c := (rel || sc) = true) fun s => s.release_fenced gid k scope
  have hseq := hrel.ite (c := sc = true) fun s => s.sequence_fenced gid k scope
  exact hseq.ite (f := fun s => s.acquireAt gid k scope) fun s => s.acquireAt_fenced gid k scope

theorem State.orderBefore_fenced (s : State) (e : Env) (ord : Order) (sc : Scope) : s.Fenced (s.orderBefore e ord sc) e.gid e.slot := by
  cases ord with
  | release | acqRel => exact s.fence_fenced e.gid e.slot false true false sc
  | sc => exact s.fence_fenced e.gid e.slot true true true sc
  | _ => exact .refl s e.gid e.slot

theorem State.orderAfter_fenced (s : State) (gid k : Nat) (ord : Order) (sc : Scope) : s.Fenced (s.orderAfter gid k ord sc) gid k := by
  cases ord with
  | acquire | acqRel | sc => exact s.acquireAt_fenced gid k sc
  | _ => exact .refl s gid k

end Sys2Proof.Machine
end

section
/-! PROOFS. How a slice serves a line of HBM4 (12 R260, R275; 13 R281): its caches and budgets apart, a read changes nothing. -/

namespace Sys2Proof.Machine

/-! ### Caches, budgets and requests for tokens -/

/-- Only lines in the caches, budgets and requests for tokens have changed. -/
def State.Cached (s t : State) : Prop := ∃ (l1 : Table (Table L1Line)) (l2 : Table (Table L2Line)) (floors : Table Nat) (buckets : Table Int)
  (active persistent : List (Nat × Nat × Bool)),
  t = { s with l1 := l1, l2 := l2, floors := floors, buckets := buckets, active := active, persistent := persistent }

theorem State.Cached.refl (s : State) : s.Cached s := ⟨_, _, _, _, _, _, rfl⟩

theorem State.Cached.trans {s t u : State} (h₁ : s.Cached t) (h₂ : t.Cached u) : s.Cached u := by
  obtain ⟨l1, l2, fl, bu, ac, pe, rfl⟩ := h₁
  obtain ⟨l1', l2', fl', bu', ac', pe', rfl⟩ := h₂
  exact ⟨l1', l2', fl', bu', ac', pe', rfl⟩

theorem State.Cached.ite {s t u : State} {c : Prop} [Decidable c] (ht : s.Cached t) (hu : s.Cached u) : s.Cached (if c then t else u) := by
  split
  · exact ht
  · exact hu

theorem State.cached_charge (s : State) (source ctx cls n : Nat) : s.Cached (s.charge source ctx cls n) := by
  unfold State.charge
  split
  · exact .refl s
  · exact ⟨_, _, _, _, _, _, rfl⟩

theorem State.cached_deactivate (s : State) (slice line : Nat) : s.Cached (s.deactivate slice line) := ⟨_, _, _, _, _, _, rfl⟩
theorem State.cached_setL2 (s : State) (slice line : Nat) (l : L2Line) : s.Cached (s.setL2 slice line l) := ⟨_, _, _, _, _, _, rfl⟩
theorem State.cached_modL1 (s : State) (c : Nat) (f : Table L1Line → Table L1Line) : s.Cached (s.modL1 c f) := ⟨_, _, _, _, _, _, rfl⟩

theorem State.cached_dropL2 (s : State) (slice line : Nat) : s.Cached (s.dropL2 slice line) := by
  unfold State.dropL2
  split
  · exact .refl s
  · exact ⟨_, _, _, _, _, _, rfl⟩

theorem State.cached_fillCopy (s : State) (slice : Nat) (a : Access) (st : L1State) (wts lend : Nat) : s.Cached (s.fillCopy slice a st wts lend) :=
  .ite (.refl s) (s.cached_modL1 _ _)

/-! ### A context that keeps no log -/

section
variable {s : State} {ctx : Nat} (hoff : (s.hind ctx).mode = .off)
include hoff

theorem State.replaying_off : (s.hind ctx).replaying = false := by simp [Hindcast.replaying, hoff]

theorem State.mayServe_off (r : Nat) (party : W64) : s.mayServe ctx r party = true := by
  simp [State.mayServe, State.mayServeAs, State.replaying_off hoff]

theorem State.recordAccess_off (r granule : Nat) (party : W64) (tag : W16) (write : Bool) : s.recordAccess ctx r granule party tag write = s := by
  simp [State.recordAccess, State.recordAs, hoff]

theorem State.recorderStalls_off (r : Nat) : s.recorderStalls ctx r = false := by simp [State.recorderStalls, hoff]

theorem State.loggedValue_off (r src : Nat) (party value detail : W64) : s.loggedValue ctx r src party value detail = (value, s) := by
  simp [State.loggedValue, hoff]

theorem State.trapLogged_off (core cause : Nat) (party : W64) : s.trapLogged ctx core cause party = false := by
  simp [State.trapLogged, State.loggedTrap, State.replaying_off hoff]

end

/-! ### Lines of HBM4 -/

section
variable {s : State} {pa : Nat} (hbm : s.target? pa = some .hbm)
include hbm

theorem State.isCxl_hbm : s.isCxl pa = false := by simp [State.isCxl, hbm]
theorem State.tagAt_hbm (key : Nat) : s.tagAt pa key = s.keyTag key := by simp [State.tagAt, hbm]
theorem State.placeBytes_hbm (l : L2Line) (n key : Nat) : s.placeBytes l pa n key = s.memory.read (s.keyTag key) pa n := by
  simp [State.placeBytes, State.isCxl_hbm hbm, State.tagAt_hbm hbm]

/-- Only caches change when a line is brought under a key. -/
theorem State.underKey_hbm (slice tag : Nat) : s.Cached (s.underKey slice pa tag).1 := by
  simp only [State.underKey, State.isCxl_hbm hbm, Bool.false_eq_true, if_false]
  split
  · exact .refl s
  · exact (s.cached_dropL2 slice (lineOf pa)).trans (State.cached_setL2 ..)

/-- A slice that holds a token of a line without an error serves a read with the bytes of memory. -/
theorem State.readAt_hbm (slice n key : Nat) (view : Option Nat) (htokens : (s.l2At slice pa).tokens ≠ 0) (hclean : s.memory.poisoned (lineOf pa) = false) :
    ∃ v wts lend, s.readAt slice pa n key view = .served v (s.memory.read (s.keyTag key) pa n) wts lend ∧ s.Cached v := by
  have hcached := State.underKey_hbm hbm slice (s.tagAt pa key)
  obtain ⟨v, hv⟩ : ∃ v, (s.underKey slice pa (s.tagAt pa key)).1 = v := ⟨_, rfl⟩
  rw [hv] at hcached
  have hmem : v.memory = s.memory := by obtain ⟨_, _, _, _, _, _, rfl⟩ := hcached; rfl
  have hbytes : ∀ l, v.placeBytes l pa n key = s.memory.read (s.keyTag key) pa n := fun l => by
    obtain ⟨_, _, _, _, _, _, rfl⟩ := hcached
    exact State.placeBytes_hbm hbm l n key
  simp only [State.readAt, hbm, State.isCxl_hbm hbm, htokens, hv, hmem, hclean, hbytes, Bool.false_eq_true, if_false]
  exact ⟨_, _, _, rfl, hcached.trans (State.cached_setL2 ..)⟩

end

end Sys2Proof.Machine
end

section
/-! PROOFS. The way of a lone item's global access (12 R269 to R274; 13 R281): it is sent, served at its place, and returns. -/

namespace Sys2Proof.Machine

/-! ### Items that only move on -/

theorem Item.Rest.refl (it : Item) : it.Rest it := by unfold Item.Rest; exact ⟨rfl, rfl, rfl, rfl, rfl, rfl, rfl, rfl, rfl, rfl, rfl, rfl, rfl, rfl, rfl,
  rfl, rfl, rfl, rfl, rfl, rfl, rfl, rfl⟩

theorem Item.Rest.trans {a b c : Item} (h₁ : a.Rest b) (h₂ : b.Rest c) : a.Rest c := by
  unfold Item.Rest at *
  simp_all

/-- A load's registers are its only change. -/
theorem Item.putLoad_rest (it : Item) (d : BitVec 7) (sx : Bool) (bs : List W8) : (it.putLoad d sx bs).Rest it := by
  unfold Item.putLoad
  split
  · exact .refl it
  · split <;> exact .refl it

theorem Item.writeV_v {a b : Item} (h : a.v = b.v) (d : BitVec 7) (x : W32) : (a.writeV d x).v = (b.writeV d x).v := by
  simp only [Item.writeV, h]

theorem Item.writeV2_v {a b : Item} (h : a.v = b.v) (d : BitVec 7) (x : W64) : (a.writeV2 d x).v = (b.writeV2 d x).v :=
  Item.writeV_v (Item.writeV_v h d _) _ _

theorem Item.putLoad_v {a b : Item} (h : a.v = b.v) (d : BitVec 7) (sx : Bool) (bs : List W8) : (a.putLoad d sx bs).v = (b.putLoad d sx bs).v := by
  unfold Item.putLoad
  split
  · exact Item.writeV_v h _ _
  · split
    · exact Item.writeV2_v h _ _
    · exact Item.writeV2_v (Item.writeV2_v h _ _) _ _

theorem Item.putLoad_fpstat (it : Item) (d : BitVec 7) (sx : Bool) (bs : List W8) : (it.putLoad d sx bs).fpstat = it.fpstat := by
  unfold Item.putLoad
  split
  · rfl
  · split <;> rfl

theorem Item.putLoad_pc (it : Item) (d : BitVec 7) (sx : Bool) (bs : List W8) : (it.putLoad d sx bs).pc = it.pc := by
  unfold Item.putLoad
  split
  · rfl
  · split <;> rfl

theorem Item.putLoad_wait (it : Item) (d : BitVec 7) (sx : Bool) (bs : List W8) : (it.putLoad d sx bs).wait = it.wait := by
  unfold Item.putLoad
  split
  · rfl
  · split <;> rfl

/-- An item whose access `id` is on its way: it waits for it, or has gone on as its leader (R65). -/
structure Item.Sent (jt it : Item) (id : Nat) : Prop where
  rest : jt.Rest it
  regs : jt.v = it.v
  flags : jt.fpstat = it.fpstat
  onWay : (jt.wait = .access id ∧ jt.pc = it.pc) ∨ (jt.wait = .none ∧ jt.pc = it.pc + 8 ∧ jt.windows.any (fun w => w.access == some id) = true)

/-- An item to which an access has returned. -/
structure Item.Got (jt it : Item) (d : BitVec 7) (sx : Bool) (r : Returned) : Prop where
  rest : jt.Rest it
  regs : jt.v = (it.putLoad d sx r.data).v
  flags : jt.fpstat = it.fpstat ||| r.flags
  pc : jt.pc = it.pc + 8
  wait : jt.wait = .none

/-! ### The state of one item's access -/

/-- Item `k` of the wave's group has become `jt` and has sent an access; L1s, stamps and budgets may differ. -/
def State.Sends (s t : State) (k : Nat) (jt : Item) (a : Access) : Prop :=
  ∃ (l1 : Table (Table L1Line)) (stamps : Table Nat) (buckets : Table Int), t = { s.setItem s.wave.gid k jt with
    l1 := l1
    scStamps := stamps
    buckets := buckets
    accesses := [(s.nextId, a)]
    nextId := s.nextId + 1 }

/-- Item `k` of group `gid` is the one whose registers may differ. -/
theorem onlyItem_of_groups {s u : State} {gid k : Nat} {g : Group} {it : Item} (hg : s.group? gid = some g)
    (hgroups : u.groups = (s.setItem gid k it).groups) (hcontexts : u.contexts = s.contexts) : OnlyItem s u gid k := by
  have hgroup : ∀ m, u.group? m = (s.setItem gid k it).group? m := fun m => by rw [State.group?, State.group?, hgroups]
  refine ⟨fun m hm => ?_, ⟨g, g.modItem k (fun _ => it), hg, ?_, rfl, fun j hj => ?_⟩, hcontexts⟩
  · rw [hgroup]
    exact State.group?_modGroup_ne s _ hm
  · rw [hgroup, State.group?_setItem, hg]
    rfl
  · rw [Group.modItem, Table.get?_modify, if_neg hj]

theorem item?_of_groups {s u : State} {gid k : Nat} {g : Group} {it jt : Item} (hg : s.group? gid = some g) (hit : Table.get? g.items k = some it)
    (hgroups : u.groups = (s.setItem gid k jt).groups) : u.item? gid k = some jt := by
  have hitem : u.item? gid k = (s.setItem gid k jt).item? gid k := by simp only [State.item?, State.group?, hgroups]
  rw [hitem, State.setItem, State.item?_modItem, if_pos rfl, State.item?_of_group hg hit]
  rfl

/-! ### Issue -/

/-- A state in which an access may be sent: its fence is over and its charge is taken. -/
def State.Begun (s t : State) (k : Nat) : Prop :=
  ∃ (view : Item → Nat) (l1 : Table (Table L1Line)) (stamps : Table Nat) (buckets : Table Int),
    t = { s.modItem s.wave.gid k (fun it => { it with view := view it }) with l1 := l1, scStamps := stamps, buckets := buckets }

theorem State.Fenced.begun {s t : State} {k : Nat} (h : s.Fenced t s.wave.gid k) : s.Begun t k := by
  obtain ⟨v, l1, sc, rfl, -⟩ := h
  exact ⟨v, l1, sc, _, rfl⟩

/-- A change of the item is all that such a state shows of it afterwards. -/
theorem State.Begun.setItem {s t : State} {k : Nat} (hb : s.Begun t k) (jt : Item) : t.setItem s.wave.gid k jt = { s.setItem s.wave.gid k jt with
    l1 := t.l1
    scStamps := t.scStamps
    buckets := t.buckets } := by
  obtain ⟨v, l1, sc, bu, rfl⟩ := hb
  have hset : (s.modItem s.wave.gid k (fun it => { it with view := v it })).setItem s.wave.gid k jt = s.setItem s.wave.gid k jt :=
    State.modItem_modItem ..
  exact congrArg (fun x : State => { x with l1 := l1, scStamps := sc, buckets := bu }) hset

theorem State.Begun.accesses {s t : State} {k : Nat} (hb : s.Begun t k) : t.accesses = s.accesses ∧ t.nextId = s.nextId := by
  obtain ⟨v, l1, sc, bu, rfl⟩ := hb
  exact ⟨rfl, rfl⟩

/-- Where no access is in flight, one that is added is the only one. -/
theorem State.Begun.addAccess {s t : State} {k : Nat} (hb : s.Begun t k) (hquiet : s.accesses = []) (jt : Item) (a : Access) :
    s.Sends ((t.setItem s.wave.gid k jt).addAccess a) k jt a := by
  obtain ⟨haccesses, hid⟩ := hb.accesses
  refine ⟨t.l1, t.scStamps, t.buckets, ?_⟩
  rw [hb.setItem jt]
  simp only [State.addAccess, State.fresh]
  rw [show (s.setItem s.wave.gid k jt).accesses = [] from hquiet]
  rfl

/-- The environment of an item that sees otherwise. -/
def Env.seeing (e : Env) (view : Nat) : Env := { e with it := { e.it with view := view } }

/-- After a fence an item's environment has another VIEW. -/
theorem State.Begun.refresh {s t : State} {g : Group} {k : Nat} {it : Item} (hg : s.group? s.wave.gid = some g)
    (hit : Table.get? g.items k = some it) (hb : s.Begun t k) : ∃ view, (s.envOf g k it).refresh t = (s.envOf g k it).seeing view := by
  obtain ⟨v, l1, sc, bu, ht⟩ := hb
  have hitem : t.item? (s.envOf g k it).gid (s.envOf g k it).slot = some { it with view := v it } := by
    have hmod := State.item?_modItem s s.wave.gid k k (fun it => { it with view := v it })
    rw [if_pos rfl, State.item?_of_group hg hit] at hmod
    rw [ht]
    exact hmod
  exact ⟨v it, by simp only [Env.refresh, hitem]; rfl⟩

theorem Env.nextPc_of_ilen {s : State} (hilen : s.wave.ilen = 2) (g : Group) (k : Nat) (it : Item) : (s.envOf g k it).nextPc = it.pc + 8 := by
  simp only [Env.nextPc, State.envOf, Env.of, hilen]
  rfl

/-- An access that an item sends: it waits for it, or goes on as its leader. -/
theorem State.issueAccess_sends {s t : State} {g : Group} {k : Nat} {it : Item} (hb : s.Begun t k) (hilen : s.wave.ilen = 2)
    (hquiet : s.accesses = []) (view : Nat) (i : Instr) (a : Access) :
    ∃ jt b, s.Sends (t.issueAccess ((s.envOf g k it).seeing view) i a) k jt { a with before := b } ∧ jt.Sent it s.nextId ∧
      jt.fatal = it.fatal ∧ jt.consumed = it.consumed := by
  have hid := hb.accesses.2
  by_cases hwait : a.la = 0 ∨ a.ord ≠ .relaxed
  · refine ⟨{ it with wait := .access s.nextId, view := view }, a.before, ?_, ⟨.refl it, rfl, rfl, .inl ⟨rfl, rfl⟩⟩, rfl, rfl⟩
    have hsends := hb.addAccess hquiet { it with wait := .access s.nextId, view := view } a
    rw [State.issueAccess, if_pos hwait, hid]
    exact hsends
  · let jt : Item := ((s.envOf g k it).seeing view).it.complete s.tick a.la a.reads a.writes (some s.nextId) (s.envOf g k it).nextPc
    refine ⟨jt, some { it with wait := .none, view := view }, ?_, ⟨.refl it, rfl, rfl, .inr ⟨rfl, Env.nextPc_of_ilen hilen g k it, ?_⟩⟩, rfl, rfl⟩
    · have hsends := hb.addAccess hquiet jt { a with before := some { it with wait := .none, view := view } }
      rw [State.issueAccess, if_neg hwait, hid]
      exact hsends
    · simp [jt, Item.complete, List.any_append]

end Sys2Proof.Machine
end

section
/-! PROOFS. Global loads, stores and atomics of a lone item (12 R265, R269 to R274; 13 R281). -/

namespace Sys2Proof.Machine

/-! ### The return of a load or an atomic (R271, R274) -/

theorem Item.Sent.awaits {jt it : Item} {id : Nat} (h : jt.Sent it id) : jt.awaits id = true := by
  rcases h.onWay with ⟨hw, -⟩ | ⟨-, -, hw⟩ <;> simp [Item.awaits, hw]

/-- What an item is given by an access that returns. -/
def Item.given (jt : Item) (id : Nat) (a : Access) (r : Returned) : Item := (jt.receive a r).closeWindow id

theorem Item.given_rest (jt : Item) (id : Nat) (a : Access) (r : Returned) : (jt.given id a r).Rest jt :=
  Item.Rest.trans (b := jt.putLoad a.dest a.signed r.data) (.refl _) (jt.putLoad_rest ..)

theorem Item.given_v (jt : Item) (id : Nat) (a : Access) (r : Returned) : (jt.given id a r).v = (jt.putLoad a.dest a.signed r.data).v := rfl
theorem Item.given_fpstat (jt : Item) (id : Nat) (a : Access) (r : Returned) : (jt.given id a r).fpstat = jt.fpstat ||| r.flags := by
  show (jt.putLoad a.dest a.signed r.data).fpstat ||| r.flags = _
  rw [Item.putLoad_fpstat]
theorem Item.given_pc (jt : Item) (id : Nat) (a : Access) (r : Returned) : (jt.given id a r).pc = jt.pc := jt.putLoad_pc ..
theorem Item.given_wait (jt : Item) (id : Nat) (a : Access) (r : Returned) : (jt.given id a r).wait = jt.wait := jt.putLoad_wait ..

/-- An item that an access was on its way for has got what it returns. -/
theorem Item.Sent.got {jt it x : Item} {id : Nat} {a : Access} {r : Returned} (h : jt.Sent it id) (hrest : x.Rest jt)
    (hv : x.v = (jt.given id a r).v) (hfp : x.fpstat = (jt.given id a r).fpstat) (hpc : x.pc = it.pc + 8) (hwait : x.wait = .none) :
    x.Got it a.dest a.signed r := by
  refine ⟨hrest.trans h.rest, ?_, ?_, hpc, hwait⟩
  · rw [hv, Item.given_v, Item.putLoad_v h.regs]
  · rw [hfp, Item.given_fpstat, h.flags]

/-- The item of an access and what its return leaves: the item changed, L1s and stamps. -/
def State.Gives (v u : State) (gid k : Nat) (x : Item) : Prop :=
  u.groups = (v.setItem gid k x).groups ∧ u.memory = v.memory ∧ u.contexts = v.contexts

/-- The end of an instruction that waited for its access, with the acquire of its order. -/
theorem State.Fenced.gives {v u : State} {gid k : Nat} {x : Item} (h : (v.setItem gid k x).Fenced u gid k) :
    ∃ view, v.Gives u gid k { x with view := view } := by
  obtain ⟨view, l1, sc, rfl, -⟩ := h
  have hset : ((v.setItem gid k x).modItem gid k (fun it => { it with view := view it })) = v.setItem gid k { x with view := view x } :=
    State.modItem_modItem ..
  refine ⟨view x, ?_, rfl, rfl⟩
  show ((v.setItem gid k x).modItem gid k (fun it => { it with view := view it })).groups = _
  rw [hset]

/-- An unguarded group makes no checkpoint. -/
theorem State.commit_unguarded {s : State} {gid : Nat} {g : Group} (hg : s.group? gid = some g) (hu : g.guarded = none) (slot : Nat) :
    s.commit gid slot = s := by simp [State.commit, hg, hu]

theorem State.Gives.set (v : State) (gid k : Nat) (x : Item) : v.Gives (v.setItem gid k x) gid k x := ⟨rfl, rfl, rfl⟩

theorem State.Gives.group? {v u : State} {gid k : Nat} {x : Item} {g : Group} (h : v.Gives u gid k x) (hg : v.group? gid = some g) :
    u.group? gid = some (g.modItem k (fun _ => x)) := by
  have hset := State.group?_setItem v gid k x
  rw [hg] at hset
  rw [State.group?, h.1]
  exact hset

theorem State.modItem_eq_setItem {s : State} {gid k : Nat} {g : Group} {it : Item} (hg : s.group? gid = some g)
    (hit : Table.get? g.items k = some it) (f : Item → Item) : s.modItem gid k f = s.setItem gid k (f it) := by
  have hitems : Table.modify g.items k f = Table.modify g.items k (fun _ => f it) := Table.modify_congr hit rfl
  exact State.modGroup_congr hg (by rw [Group.modItem, Group.modItem, hitems])

/-- The state in which an item has been given what its access returns: it completes the form, or goes on as the leader it was. -/
def State.returned (v : State) (id : Nat) (a : Access) (r : Returned) (jt : Item) : State :=
  if jt.wait = .access id then
    (v.setItem a.gid a.slot ((jt.given id a r).complete v.tick a.la a.reads a.writes none (jt.pc + 8))).orderAfter a.gid a.slot a.ord a.scope
  else v.modItem a.gid a.slot (fun x => x.given id a r)

section
variable {v : State} {g : Group} {it jt : Item} {id : Nat} {a : Access} {r : Returned} (hg : v.group? a.gid = some g)
  (hjt : Table.get? g.items a.slot = some jt) (hs : jt.Sent it id)
include hg hjt hs

theorem State.returned_got : ∃ x, x.Got it a.dest a.signed r ∧ v.Gives (v.returned id a r jt) a.gid a.slot x := by
  rcases hs.onWay with ⟨hwait, hpc⟩ | ⟨hwait, hpc, -⟩
  · obtain ⟨y, hy⟩ : ∃ y, (jt.given id a r).complete v.tick a.la a.reads a.writes none (jt.pc + 8) = y := ⟨_, rfl⟩
    obtain ⟨view, hgives⟩ := (State.orderAfter_fenced (v.setItem a.gid a.slot y) a.gid a.slot a.ord a.scope).gives
    have hgot : ({ y with view := view } : Item).Got it a.dest a.signed r := by
      rw [← hy]
      exact hs.got (jt.given_rest id a r) rfl rfl (congrArg (· + 8) hpc) rfl
    rw [State.returned, if_pos hwait, hy]
    exact ⟨_, hgot, hgives⟩
  · have hgot : (jt.given id a r).Got it a.dest a.signed r :=
      hs.got (jt.given_rest id a r) rfl rfl ((jt.given_pc id a r).trans hpc) ((jt.given_wait id a r).trans hwait)
    have hset := State.modItem_eq_setItem hg hjt (fun x => x.given id a r)
    rw [State.returned, if_neg (by rw [hwait]; exact Wait.noConfusion), hset]
    exact ⟨_, hgot, .set v _ _ _⟩

end

/-- The accesses that an item issued after a leader keep it with the leader's result in it (R65). -/
def State.keepGiven (w : State) (id : Nat) (a : Access) (r : Returned) : State :=
  { w with accesses := w.accesses.mapAll (fun _ b =>
      if b.gid = a.gid ∧ b.slot = a.slot then { b with before := b.before.map (fun x => x.given id a r) } else b) }

/-- A load or an atomic that returns to its item in an unguarded group changes the item, and L1s. -/
theorem State.deliver_got {v : State} {g : Group} {it jt : Item} {id : Nat} {a : Access} {r : Returned} (hg : v.group? a.gid = some g)
    (hjt : Table.get? g.items a.slot = some jt) (hsingle : v.duplex g = false) (hu : g.guarded = none) (hs : jt.Sent it id) :
    ∃ x, x.Got it a.dest a.signed r ∧ v.Gives (v.deliver id a r) a.gid a.slot x := by
  obtain ⟨v', hv'⟩ : ∃ v' : State, { v with accesses := Table.erase v.accesses id } = v' := ⟨_, rfl⟩
  have hg' : v'.group? a.gid = some g := by rw [← hv']; exact hg
  have hsingle' : v'.duplex g = false := by rw [← hv']; exact hsingle
  have hitem' := State.item?_of_group hg' hjt
  have hheld : g.withHeld a.pa r.data = r.data := by simp [Group.withHeld, hu]
  obtain ⟨x, hgot, hgives⟩ := State.returned_got hg' hjt hs (r := r)
  have hkept : v'.Gives ((v'.returned id a r jt).keepGiven id a r) a.gid a.slot x := hgives
  have hcommit := State.commit_unguarded (hkept.group? hg') hu a.slot
  have hdeliver : v.deliver id a r = (v'.returned id a r jt).keepGiven id a r := by
    have htick : v'.tick = v.tick := by rw [← hv']
    have hend : v.deliver id a r = match a.kind with
        | .atomic _ _ => ((v'.returned id a r jt).keepGiven id a r).commit a.gid a.slot
        | .cas => ((v'.returned id a r jt).keepGiven id a r).commit a.gid a.slot
        | _ => (v'.returned id a r jt).keepGiven id a r := by
      simp only [State.deliver, hv', hg', hitem', hs.awaits, hheld, hsingle', Bool.not_true, Bool.false_eq_true, if_false]
      rw [← htick]
      rfl
    rw [hend]
    split
    · exact hcommit
    · exact hcommit
    · rfl
  rw [hdeliver]
  refine ⟨x, hgot, ?_⟩
  rw [← hv'] at hkept ⊢
  exact hkept

end Sys2Proof.Machine
end

section
/-! PROOFS. Global loads of a lone item (12 R269, R271; 13 R281). -/

namespace Sys2Proof.Machine

/-- An access for a line of HBM4 that its slice can serve at once: it holds every token and no pin, no error and no copy stand in the way, the budget
is there, and the context keeps no log. -/
structure Access.AtHand (a : Access) (t : State) : Prop where
  hbm : t.target? a.pa = some .hbm
  budget : t.mayCharge a.core a.ctx (t.coreClass a.core a.pa) = true
  tokens : (t.l2At (servingSlice (dieOfCore a.core) a.pa) a.pa).tokens = 5
  clean : t.memory.poisoned (lineOf a.pa) = false
  uncached : Table.get? (t.l1Of (clusterOf a.core)) (lineOf a.pa) = none
  unlogged : (t.hind a.ctx).mode = .off

/-- A load of a line at hand is served with the bytes of memory; only caches and budgets change before it returns. -/
theorem State.serveLoad_hbm {t : State} {id : Nat} {a : Access} (h : a.AtHand t) : ∃ v wts, t.Cached v ∧
    t.serveLoad id a = v.deliver id a { data := t.memory.read (t.keyTag a.key) a.pa a.bytes, wts := wts, stamp := 0, flags := 0 } := by
  obtain ⟨v, wts, lend, hread, hcached⟩ := State.readAt_hbm h.hbm (servingSlice (dieOfCore a.core) a.pa) a.bytes a.key
    (if a.kind = .uniform then none else some a.view) (by rw [h.tokens]; decide) h.clean
  have hoff : ∀ {w : State}, t.Cached w → (w.hind a.ctx).mode = .off := fun hw => by
    obtain ⟨_, _, _, _, _, _, rfl⟩ := hw
    exact h.unlogged
  have hfill : t.loggedFill a = false := by simp [State.loggedFill, State.replaying_off h.unlogged]
  have hbefore := (hcached.trans (v.cached_charge a.core a.ctx (t.coreClass a.core a.pa) a.bytes)).trans
    (State.cached_deactivate _ (servingSlice (dieOfCore a.core) a.pa) (lineOf a.pa))
  have hfilled := hbefore.trans (State.cached_fillCopy _ (servingSlice (dieOfCore a.core) a.pa) a (if a.kind = .uniform then .uniform else .valid) wts lend)
  refine ⟨_, wts, hfilled, ?_⟩
  simp only [State.serveLoad, h.hbm, hfill, h.uncached, h.budget, hread, State.recorderStalls_off h.unlogged, State.mayServe_off h.unlogged,
    State.replaying_off h.unlogged, State.recordAccess_off (hoff hbefore), State.recordAccess_off (hoff hfilled),
    State.loggedValue_off (hoff hfilled), Bool.not_false, Bool.not_true, Bool.and_false, Bool.or_false, Bool.false_eq_true, if_false,
    ite_self]

theorem exec_memoryAccessServed (id : Nat) (s : State) : exec (.memoryAccessServed id) s = execMemoryAccessServed id s := rfl

/-- Where one load is in flight, in a context that keeps no log, it is the next to be served. -/
theorem memoryAccessServed_load {t : State} {id : Nat} {a : Access} (hone : t.accesses = [(id, a)]) (hoff : (t.hind a.ctx).mode = .off)
    (hkind : a.kind = .load ∨ a.kind = .uniform) : exec (.memoryAccessServed id) t = .next (t.serveLoad id a) := by
  have hget : Table.get? t.accesses id = some a := by simp [hone, Table.get?]
  have hfirst : t.firstInLine id a = true := by simp [State.firstInLine, hone]
  simp only [exec_memoryAccessServed, execMemoryAccessServed, hget, hfirst, State.trapLogged_off hoff, Bool.not_true, Bool.false_and, Bool.false_eq_true,
    if_false]
  rcases hkind with h | h <;> simp only [h]

theorem State.issueAccess_l1 (t : State) (e : Env) (i : Instr) (a : Access) : (t.issueAccess e i a).l1 = t.l1 := by
  unfold State.issueAccess
  split <;> rfl
theorem State.issueAccess_buckets (t : State) (e : Env) (i : Instr) (a : Access) : (t.issueAccess e i a).buckets = t.buckets := by
  unfold State.issueAccess
  split <;> rfl

theorem Env.orderWaits_none {e : Env} (h : e.it.storesOut = []) (ord : Order) (sc : Scope) : e.orderWaits ord sc = false := by
  cases ord <;> simp [Env.orderWaits, Item.releaseWaits, h]

/-- The access of a load of the item in slot `k` to `pa`. -/
structure Access.LoadOf (a : Access) (s : State) (g : Group) (o : MemForm) (k pa : Nat) : Prop where
  gid : a.gid = s.wave.gid
  slot : a.slot = k
  ctx : a.ctx = g.ctx
  core : a.core = g.core
  pa : a.pa = pa
  key : a.key = (s.context g.ctx).key
  bytes : a.bytes = bytesOfWidth o.width
  dest : a.dest = o.d
  signed : a.signed = o.sx
  kind : a.kind = .load ∨ a.kind = .uniform

theorem State.coreClass_lt (s : State) (core pa : Nat) : s.coreClass core pa < 4 := by
  unfold State.coreClass
  split
  · decide
  · split <;> decide

section
variable {s : State} {g : Group} {o : MemForm} {k pa : Nat} {it : Item} (hg : s.group? s.wave.gid = some g) (hit : Table.get? g.items k = some it)
  (hilen : s.wave.ilen = 2) (hstores : it.storesOut = [])
  (hr : Reachable s g ((s.envOf g k it).effective o) (bytesOfWidth o.width) pa (sliceFor g pa) false)
include hg hit hilen hstores hr

/-- A load of a reachable address sends its access. -/
theorem State.globalLoad_sends {i : Instr} (hd : (shapeOf i).form.d = o.d) {kind : AccessKind} (hkind : kind = .load ∨ kind = .uniform) :
    ∃ jt a, s.Sends (s.globalLoad (s.envOf g k it) g i o kind) k jt a ∧ a.LoadOf s g o k pa ∧ jt.Sent it s.nextId ∧
      jt.fatal = it.fatal ∧ jt.consumed = it.consumed ∧ a.AtHand (s.globalLoad (s.envOf g k it) g i o kind) := by
  have hfenced := s.orderBefore_fenced (s.envOf g k it) o.ord o.scope
  obtain ⟨w, hw⟩ : ∃ w, s.orderBefore (s.envOf g k it) o.ord o.scope = w := ⟨_, rfl⟩
  rw [hw] at hfenced
  have hbegun : s.Begun w k := State.Fenced.begun hfenced
  obtain ⟨view, hview⟩ := hbegun.refresh hg hit
  have hload : s.globalLoad (s.envOf g k it) g i o kind = w.issueAccess ((s.envOf g k it).seeing view) i
      { w.newAccess ((s.envOf g k it).seeing view) g i kind ((s.envOf g k it).effective o) pa (bytesOfWidth o.width) with
        signed := o.sx
        ord := o.ord
        scope := o.scope } := by
    have hwaits : (s.envOf g k it).orderWaits o.ord o.scope = false := Env.orderWaits_none hstores ..
    simp only [State.globalLoad, Env.address_effective, widthBytes_eq, State.reachGlobal_of_reachable hr, hwaits, Bool.false_eq_true, if_false, hw, hview]
  obtain ⟨a, ha⟩ : ∃ a, { w.newAccess ((s.envOf g k it).seeing view) g i kind ((s.envOf g k it).effective o) pa (bytesOfWidth o.width) with
      signed := o.sx
      ord := o.ord
      scope := o.scope } = a := ⟨_, rfl⟩
  rw [ha] at hload
  obtain ⟨jt, b, hsends, hsent, hf, hc⟩ := State.issueAccess_sends hbegun hilen hr.quiet view i a
  have hl1 := w.issueAccess_l1 ((s.envOf g k it).seeing view) i a
  have hbuckets := w.issueAccess_buckets ((s.envOf g k it).seeing view) i a
  obtain ⟨_, l1, stamps, hfence, hcopies⟩ := hfenced
  have hof : Access.LoadOf { a with before := b } s g o k pa := by
    subst ha hfence
    exact ⟨rfl, rfl, rfl, rfl, rfl, rfl, rfl, hd, rfl, hkind⟩
  rw [← hload] at hsends hl1 hbuckets
  generalize s.globalLoad (s.envOf g k it) g i o kind = t at *
  generalize ({ a with before := b } : Access) = a' at *
  refine ⟨jt, a', hsends, hof, hsent, hf, hc, ?_⟩
  have huncached : Table.get? (t.l1Of (clusterOf g.core)) (lineOf pa) = none := by
    rw [State.l1Of, hl1]
    exact hcopies _ _ hr.uncached
  have hbudget : t.buckets = s.buckets := by rw [hbuckets, hfence]; rfl
  have hcharge := hr.budget _ (s.coreClass_lt g.core pa)
  obtain ⟨l1', stamps', buckets', rfl⟩ := hsends
  subst hbudget
  refine ⟨?_, ?_, ?_, ?_, ?_, ?_⟩ <;> simp only [hof.pa, hof.core, hof.ctx]
  · exact hr.hbm
  · exact hcharge
  · exact hr.tokens
  · exact hr.clean
  · exact huncached
  · exact hr.unlogged

/-- A load of a lone item leaves it with its access on the way. -/
theorem State.foldWave_globalLoad {i : Instr} (hd : (shapeOf i).form.d = o.d) {kind : AccessKind} (hkind : kind = .load ∨ kind = .uniform)
    (ha : Alone s g i k it) {body : Env → State → State} (hbody : body (s.envOf g k it) s = s.globalLoad (s.envOf g k it) g i o kind) :
    ∃ t jt a, s.foldWave i false body = t ∧ s.Sends t k jt a ∧ a.LoadOf s g o k pa ∧ jt.Sent it s.nextId ∧ a.AtHand t := by
  obtain ⟨jt, a, hsends, hof, hsent, hf, hc, hat⟩ := State.globalLoad_sends hg hit hilen hstores hr hd hkind
  obtain ⟨hf', hc'⟩ := ha.item_clear
  refine ⟨_, jt, a, State.foldWave_alone (g' := g.modItem k (fun _ => jt)) ha hbody ?_ ?_ ha.plain.unguarded
    (ha.plain.clear.modItem k (hf.trans hf') (hc.trans hc')), hsends, hof, hsent, hat⟩
  · obtain ⟨_, _, _, hsends⟩ := hsends
    rw [hsends]
    exact ha.plain.single
  · obtain ⟨_, _, _, hsends⟩ := hsends
    have hset := State.group?_setItem s s.wave.gid k jt
    rw [hg] at hset
    rw [hsends]
    exact hset

omit hilen hstores hr in
/-- The access served, the item has what the line held. -/
theorem State.load_served {t : State} {jt : Item} {a : Access} (hsends : s.Sends t k jt a) (hof : a.LoadOf s g o k pa) (hsent : jt.Sent it s.nextId)
    (hat : a.AtHand t) (hsingle : s.duplex g = false) (hu : g.guarded = none) :
    ∃ u x wts, exec (.memoryAccessServed s.nextId) t = .next u ∧ s.Gives u s.wave.gid k x ∧
      x.Got it o.d o.sx { data := s.memory.read (s.keyTag (s.context g.ctx).key) pa (bytesOfWidth o.width), wts := wts, stamp := 0, flags := 0 } := by
  obtain ⟨v, wts, hcached, hserve⟩ := State.serveLoad_hbm (id := s.nextId) hat
  have hone : t.accesses = [(s.nextId, a)] := by obtain ⟨_, _, _, rfl⟩ := hsends; rfl
  have hexec := memoryAccessServed_load hone hat.unlogged hof.kind
  have hread : t.memory.read (t.keyTag a.key) a.pa a.bytes = s.memory.read (s.keyTag (s.context g.ctx).key) pa (bytesOfWidth o.width) := by
    obtain ⟨_, _, _, rfl⟩ := hsends
    rw [hof.key, hof.pa, hof.bytes]
    rfl
  rw [hread] at hserve
  have hv : v.groups = (s.setItem s.wave.gid k jt).groups ∧ v.memory = s.memory ∧ v.contexts = s.contexts ∧ v.kernels = s.kernels := by
    obtain ⟨_, _, _, rfl⟩ := hsends
    obtain ⟨_, _, _, _, _, _, rfl⟩ := hcached
    exact ⟨rfl, rfl, rfl, rfl⟩
  obtain ⟨hgroups, hmemory, hcontexts, hkernels⟩ := hv
  have hgroup : v.group? a.gid = some (g.modItem k (fun _ => jt)) := by
    have hset := State.group?_setItem s s.wave.gid k jt
    rw [hg] at hset
    rw [hof.gid, State.group?, hgroups]
    exact hset
  have hjt : Table.get? (g.modItem k (fun _ => jt)).items a.slot = some jt := by
    rw [hof.slot, Group.modItem, Table.get?_modify, if_pos rfl, hit]
    rfl
  obtain ⟨x, hgot, hgives⟩ := State.deliver_got hgroup hjt ((State.duplex_congr hkernels g).trans hsingle) hu hsent
    (r := { data := s.memory.read (s.keyTag (s.context g.ctx).key) pa (bytesOfWidth o.width), wts := wts, stamp := 0, flags := 0 })
  obtain ⟨hg', hm', hc'⟩ := hgives
  rw [hof.dest, hof.signed] at hgot
  refine ⟨_, x, wts, hexec.trans (congrArg _ hserve), ⟨?_, hm'.trans hmemory, hc'.trans hcontexts⟩, hgot⟩
  have htwice : (s.setItem s.wave.gid k jt).setItem s.wave.gid k x = s.setItem s.wave.gid k x := State.modItem_modItem ..
  rw [hg', hof.gid, hof.slot, ← htwice]
  simp only [State.setItem, State.modItem, State.modGroup] at hgroups ⊢
  rw [hgroups]

omit hg in
/-- A load of a lone item is sent, and served it gives the item what the line held. -/
theorem globalLoad_alone {i : Instr} (hd : (shapeOf i).form.d = o.d) {kind : AccessKind} (hkind : kind = .load ∨ kind = .uniform)
    (ha : Alone s g i k it) {body : Env → State → State} (hbody : body (s.envOf g k it) s = s.globalLoad (s.envOf g k it) g i o kind)
    (hexec : exec i s = .next (s.foldWave i false body)) :
    ∃ t u, exec i s = .next t ∧ exec (.memoryAccessServed s.nextId) t = .next u ∧ u.memory = s.memory ∧ OnlyItem s u s.wave.gid k ∧
      ∃ it', u.item? s.wave.gid k = some it' ∧ it'.pc = it.pc + 8 ∧ it'.wait = .none ∧ it'.fpstat = it.fpstat ∧ it'.Rest it ∧
        it'.v = (it.loaded o.d o.width o.sx (s.memory.read (s.keyTag (s.context g.ctx).key) pa (bytesOfWidth o.width))).v := by
  obtain ⟨t, jt, a, ht, hsends, hof, hsent, hat⟩ := State.foldWave_globalLoad ha.plain.group hit hilen hstores hr hd hkind ha hbody
  obtain ⟨u, x, wts, hu, ⟨hgroups, hmemory, hcontexts⟩, hgot⟩ :=
    State.load_served ha.plain.group hit hsends hof hsent hat ha.plain.single ha.plain.unguarded
  refine ⟨t, u, hexec.trans (congrArg _ ht), hu, hmemory, onlyItem_of_groups ha.plain.group hgroups hcontexts, x,
    item?_of_groups ha.plain.group hit hgroups, hgot.pc, hgot.wait, by simpa using hgot.flags, hgot.rest, ?_⟩
  rw [hgot.regs, Item.putLoad_eq_loaded]
  exact Memory.length_read ..

end

theorem exec_ldu (o : MemForm) (s : State) : exec (.ldu o) s = execLdu o s := rfl

/-- Settles O26: the two forms differ in the state of the copy that the L1 takes. -/
theorem globalLoads : Obligations.GlobalLoads := by
  unfold Obligations.GlobalLoads
  intro s g o k it pa ea n hm hilen hstores hw hr
  simp only [List.forall_mem_cons, List.not_mem_nil, false_imp_iff, implies_true, and_true]
  refine ⟨fun ha => ?_, fun ha => ?_⟩
  · refine globalLoad_alone ha.here hilen hstores hr rfl (.inl rfl) ha ?_ (exec_ld o s)
    have hg : s.group? (s.envOf g k it).gid = some g := ha.plain.group
    rw [State.withGroup_some hg, if_pos hm]
  · refine globalLoad_alone ha.here hilen hstores hr rfl (.inr rfl) ha ?_ (exec_ldu o s)
    have hg : s.group? (s.envOf g k it).gid = some g := ha.plain.group
    rw [State.withGroup_some hg]

end Sys2Proof.Machine
end

section
/-! PROOFS. Global stores and atomics across a line (12 R253, R269): a mapping whose address is no multiple of its page's bytes lets an aligned access
reach into the next line, which is held under another key and loses its bytes. -/

namespace Sys2Proof.Machine

/-- The small machine with its address space mapped to 127 and on; the line at 128 is held under tag 1, with `b` at 135. -/
def crossState (b : W8) : State :=
  { bench 2 (memGroup 0) with
    memory := { bytes := (135, b) :: benchBytes, tags := [(1, 1)], poison := [] }
    tlbs := [(0, { unit := 0, ctx := 1, base := 0, logSize := 21, addr := 127, r := true, w := true, x := true })] }

theorem alone_cross (b : W8) (i : Instr)
    (hp : ((bench 2 (memGroup 0)).envOf (memGroup 0) 0 (memItem 0)).gate (shapeOf i) (admitted i) = .go ∧
      (shapeOf i).poisoned ((bench 2 (memGroup 0)).envOf (memGroup 0) 0 (memItem 0)).it (memGroup 0).badS = none) :
    Alone (crossState b) (memGroup 0) i 0 (memItem 0) :=
  alone_at _ _ _ (memItem 0) rfl rfl rfl rfl ⟨rfl, rfl⟩ rfl hp

theorem charge_cross (b : W8) (src c : Nat) (h : c < 4) : (crossState b).mayCharge src 1 c = true := charge_bench 2 (memGroup 0) src c h

/-- The access at 0 of the item reaches 127. -/
theorem reach_cross (b : W8) {ea : W64} {slice : Nat} (hea : ea = 0) (hslice : slice = servingSlice 0 127) :
    Reachable (crossState b) (memGroup 0) ea 4 127 slice true := by
  subst hea hslice
  have hheld : 0 = (bench 2 (memGroup 0)).keyTag ((bench 2 (memGroup 0)).context 1).key := by decide +kernel
  exact ⟨by decide, by decide, ⟨_, rfl, rfl, by decide⟩, by rfl, by rfl, charge_cross b _, rfl, by rfl, by rfl, by rfl, by rfl, hheld, by rfl, rfl⟩

/-- The tag of the line at 128 after a form and the service of its access. -/
def crossedTag (i : Instr) (b : W8) : Nat :=
  match exec i (crossState b) with
  | .next t =>
    match exec (.memoryAccessServed 5) t with
    | .next u => u.memory.tag 1
    | _ => 1
  | _ => 1

/-- The byte that the line at 128 held under tag 1 is not read any more, whichever it was, once the line is held under tag 0. -/
theorem byte_crossed {i : Instr} (htag : ∀ b ∈ ([0, 1] : List W8), crossedTag i b = 0) :
    ∃ b : W8, ∀ t u, exec i (crossState b) = .next t → exec (.memoryAccessServed 5) t = .next u →
      u.memory.byte 1 135 ≠ (crossState b).memory.byte 1 135 := by
  have hafter : ∀ b ∈ ([0, 1] : List W8), ∀ t u, exec i (crossState b) = .next t → exec (.memoryAccessServed 5) t = .next u →
      u.memory.byte 1 135 = Config.staleByte 1 135 := fun b hb t u ht hu => by
    have htag : u.memory.tag 1 = 0 := by simpa only [crossedTag, ht, hu] using htag b hb
    rw [Memory.byte, if_neg]
    rw [show lineOf 135 = 1 from rfl, htag]
    decide
  have hbefore : ∀ b : W8, (crossState b).memory.byte 1 135 = b := fun _ => rfl
  by_cases hstale : Config.staleByte 1 135 = 0
  · refine ⟨1, fun t u ht hu => ?_⟩
    rw [hafter 1 (by decide) t u ht hu, hbefore, hstale]
    decide
  · refine ⟨0, fun t u ht hu => ?_⟩
    rw [hafter 0 (by decide) t u ht hu, hbefore]
    exact hstale

/-- Refutes O27: the store of a word at 127 brings the line at 128 under its own key, and the bytes of that line that it does not write are lost. -/
theorem not_globalStores : ¬ Obligations.GlobalStores := by
  unfold Obligations.GlobalStores
  intro h
  obtain ⟨b, hb⟩ := byte_crossed (i := .st (plainLoad 4 6 0)) (by decide +kernel)
  obtain ⟨t, u, ht, hu, -, -, -, -, -, hframe⟩ := h (crossState b) (memGroup 0) (plainLoad 4 6 0) 0 (memItem 0) 127 (by decide) rfl rfl rfl
    (reach_cross b (show ((bench 2 (memGroup 0)).envOf (memGroup 0) 0 (memItem 0)).effective (plainLoad 4 6 0) = 0 by decide +kernel) rfl)
    (alone_cross b _ (by decide +kernel))
  exact hb t u ht hu (hframe 135 (.inr (by decide)) 1)

/-- Refutes O28: so does an exchange of a word at 127. -/
theorem not_globalAtomics : ¬ Obligations.GlobalAtomics := by
  unfold Obligations.GlobalAtomics
  intro h
  obtain ⟨b, hb⟩ := byte_crossed (i := .atomXchg (plainAtom 4 6 8 10 0)) (by decide +kernel)
  obtain ⟨t, u, ht, hu, -, hframe, -⟩ := h (crossState b) (memGroup 0) (plainAtom 4 6 8 10 0) 0 (memItem 0) 127 (by decide) rfl rfl rfl
    (reach_cross b (show ((bench 2 (memGroup 0)).envOf (memGroup 0) 0 (memItem 0)).address 0 6 0 false 0 0 = 0 by decide +kernel) rfl)
    (.atomXchg (plainAtom 4 6 8 10 0), 6) (by decide) (alone_cross b _ (by decide +kernel)) (fun h => absurd h (by decide))
  exact hb t u ht hu (hframe 135 (.inr (by decide)) 1)

end Sys2Proof.Machine
end

section
/-! PROOFS. What leaves physical memory alone: for every operation on the state that writes none of it, in the order of the definitions. -/

namespace Sys2Proof.Machine

/-! ### Folds -/

theorem State.foldl_keeps {α : Type} {P : Memory → Prop} {f : State → α → State} (hf : ∀ s a, P s.memory → P (f s a).memory) (l : List α) {s : State}
    (h : P s.memory) : P (l.foldl f s).memory := by
  induction l generalizing s with
  | nil => exact h
  | cons a l ih => exact ih (hf s a h)

@[simp] theorem State.foldl_memory {α : Type} {f : State → α → State} (hf : ∀ s a, (f s a).memory = s.memory) (l : List α) (s : State) :
    (l.foldl f s).memory = s.memory :=
  State.foldl_keeps (P := (· = s.memory)) (fun t a ht => (hf t a).trans ht) l rfl

@[simp] theorem State.ite_memory (c : Prop) [Decidable c] (a b : State) : (if c then a else b).memory = if c then a.memory else b.memory :=
  apply_ite ..

/-! ### Ops -/

@[simp] theorem State.setQueues_memory (s : State) (ctx : Nat) (was_ now_ : QueueState) : (s.setQueues ctx was_ now_).memory = s.memory := rfl
@[simp] theorem State.fresh_memory (s : State) : s.fresh.memory = s.memory := rfl

/-! ### Order -/

@[simp] theorem State.modL1_memory (s : State) (cluster : Nat) (f : Table L1Line → Table L1Line) : (s.modL1 cluster f).memory = s.memory := rfl
@[simp] theorem State.dropKeyLines_memory (s : State) (cluster key : Nat) : (s.dropKeyLines cluster key).memory = s.memory := rfl
@[simp] theorem State.dropKeyEverywhere_memory (s : State) (key : Nat) : (s.dropKeyEverywhere key).memory = s.memory := rfl
@[simp] theorem State.dropLeases_memory (s : State) (cluster view : Nat) : (s.dropLeases cluster view).memory = s.memory := rfl

@[simp] theorem State.acquireAt_memory (s : State) (gid slot : Nat) (sc : Scope) : (s.acquireAt gid slot sc).memory = s.memory := by
  unfold State.acquireAt
  (repeat' split) <;> rfl

@[simp] theorem State.sequence_memory (s : State) (gid slot : Nat) (sc : Scope) : (s.sequence gid slot sc).memory = s.memory := by
  unfold State.sequence
  split <;> rfl

@[simp] theorem State.fence_memory (s : State) (gid slot : Nat) (acq rel sc : Bool) (scope : Scope) :
    (s.fence gid slot acq rel sc scope).memory = s.memory := by
  simp [State.fence]

/-! ### Fabric -/

@[simp] theorem State.modLink_memory (s : State) (l : Nat) (f : Link → Link) : (s.modLink l f).memory = s.memory := rfl
@[simp] theorem State.transmit_memory (s : State) (l : Nat) : (s.transmit l).memory = s.memory := rfl

@[simp] theorem State.sendPacket_memory (s : State) (typ dst ctx : Nat) (c : Config.PacketContent) :
    (s.sendPacket typ dst ctx c).1.memory = s.memory := by
  unfold State.sendPacket
  (repeat' split) <;> rfl

@[simp] theorem State.sendGang_memory (s : State) (kind n rank dst ctx : Nat) : (s.sendGang kind n rank dst ctx).memory = s.memory := by
  simp [State.sendGang]

/-! ### Hind -/

@[simp] theorem State.modHind_memory (s : State) (ctx : Nat) (f : Hindcast → Hindcast) : (s.modHind ctx f).memory = s.memory := rfl
@[simp] theorem State.closeChunk_memory (s : State) (ctx r flags : Nat) : (s.closeChunk ctx r flags).memory = s.memory := rfl

@[simp] theorem State.logEntry_memory (s : State) (ctx r : Nat) (e : HcEntry) : (s.logEntry ctx r e).memory = s.memory := by
  unfold State.logEntry
  split <;> rfl

@[simp] theorem State.useLogged_memory (s : State) (ctx r : Nat) (q : HcEntry → Bool) : (s.useLogged ctx r q).memory = s.memory := rfl

@[simp] theorem State.endReplay_memory (s : State) (ctx result : Nat) : (s.endReplay ctx result).memory = s.memory := by
  simp [State.endReplay]

@[simp] theorem State.recordAs_memory (s : State) (ctx r granule : Nat) (me : Party) (write : Bool) :
    (s.recordAs ctx r granule me write).memory = s.memory := by
  simp [State.recordAs]

@[simp] theorem State.recordAccess_memory (s : State) (ctx r granule : Nat) (party : W64) (tag : W16) (write : Bool) :
    (s.recordAccess ctx r granule party tag write).memory = s.memory := by
  simp [State.recordAccess]

@[simp] theorem State.loggedValue_memory (s : State) (ctx r src : Nat) (party value detail : W64) :
    (s.loggedValue ctx r src party value detail).2.memory = s.memory := by
  simp only [State.loggedValue]
  (repeat' split) <;> simp [*]

@[simp] theorem State.loggedItemValue_memory (s : State) (gid slot src : Nat) (value detail : W64) :
    (s.loggedItemValue gid slot src value detail).2.memory = s.memory := by
  unfold State.loggedItemValue
  (repeat' split) <;> simp

@[simp] theorem State.countInstruction_memory (s : State) (ctx core : Nat) (party : W64) : (s.countInstruction ctx core party).memory = s.memory := by
  unfold State.countInstruction
  split <;> rfl

@[simp] theorem State.logStore_memory (s : State) (ctx core stage ix va : Nat) (data : List W8) :
    (s.logStore ctx core stage ix va data).memory = s.memory := by
  unfold State.logStore
  split <;> rfl

@[simp] theorem State.logTrap_memory (s : State) (ctx core cause : Nat) (party : W64) (detail : List W8) :
    (s.logTrap ctx core cause party detail).memory = s.memory := by
  simp [State.logTrap]

/-! ### Ends -/

@[simp] theorem State.contextError_memory (s : State) (r : ErrorRecord) : (s.contextError r).memory = s.memory := rfl

@[simp] theorem State.deviceError_memory (s : State) (cause loc info die unit : Nat) :
    (s.deviceError cause loc info die unit).memory = s.memory := rfl

@[simp] theorem State.dropGroup_memory (s : State) (gid : Nat) : (s.dropGroup gid).memory = s.memory := rfl

@[simp] theorem State.killGroups_memory (s : State) (q : Group → Bool) : (s.killGroups q).memory = s.memory :=
  State.foldl_memory (fun s gid => s.dropGroup_memory gid) ..

@[simp] theorem State.contextFault_memory (s : State) (ctx : Nat) : (s.contextFault ctx).memory = s.memory := by
  unfold State.contextFault
  split <;> rfl

@[simp] theorem State.tellRank_memory (s : State) (ctx rank kind n : Nat) : (s.tellRank ctx rank kind n).memory = s.memory := by
  unfold State.tellRank
  (repeat' split) <;> simp

@[simp] theorem State.keepAborted_memory (s : State) (ctx n : Nat) : (s.keepAborted ctx n).memory = s.memory := rfl

@[simp] theorem State.performEnd_memory (s : State) (kh : Nat) (st : KernelState) : (s.performEnd kh st).memory = s.memory := by
  unfold State.performEnd
  split <;> simp

@[simp] theorem State.gangAborted_memory (s : State) (kh : Nat) : (s.gangAborted kh).memory = s.memory := by
  unfold State.gangAborted
  split <;> simp

@[simp] theorem State.abortGang_memory (s : State) (n : Nat) : (s.abortGang n).memory = s.memory := by
  unfold State.abortGang
  split <;> simp

@[simp] theorem State.kernelFaulted_memory (s : State) (kh : Nat) : (s.kernelFaulted kh).memory = s.memory := by
  unfold State.kernelFaulted
  split <;> simp

@[simp] theorem State.trapFault_memory (s : State) (g : Group) (it : Item) (t : Trap) : (s.trapFault g it t).memory = s.memory := by
  unfold State.trapFault
  split <;> simp

@[simp] theorem State.chargeError_memory (s : State) (kh : Nat) (who : Nat) (cause : Nat) : (s.chargeError kh who cause).memory = s.memory := by
  unfold State.chargeError
  split <;> simp

@[simp] theorem State.updateCopy_memory (s : State) (cluster pa key : Nat) (bs : List W8) : (s.updateCopy cluster pa key bs).memory = s.memory := rfl

@[simp] theorem State.sendHeld_memory (s : State) (gid : Nat) (g : Group) (h : HeldStore) : (s.sendHeld gid g h).memory = s.memory := by
  simp [State.sendHeld]

@[simp] theorem State.killGuarded_memory (s : State) (gid : Nat) (cause slot : Nat) : (s.killGuarded gid cause slot).memory = s.memory := by
  unfold State.killGuarded
  (repeat' split) <;> simp

@[simp] theorem State.rollback_memory (s : State) (gid cause slot : Nat) : (s.rollback gid cause slot).memory = s.memory := by
  unfold State.rollback
  (repeat' split) <;> simp

@[simp] theorem State.checkpoint_memory (s : State) (gid slot : Nat) : (s.checkpoint gid slot).memory = s.memory := by
  unfold State.checkpoint
  (repeat' split) <;> simp

@[simp] theorem State.unrecoverable_memory (s : State) (gid : Nat) : (s.unrecoverable gid).memory = s.memory := by
  unfold State.unrecoverable
  (repeat' split) <;> simp

@[simp] theorem State.undoRegisters_memory (s : State) (gid : Nat) (ws : List (Nat × RegName)) : (s.undoRegisters gid ws).memory = s.memory := by
  unfold State.undoRegisters
  (repeat' split) <;> simp

@[simp] theorem State.undoScratch_memory (s : State) (gid : Nat) (granules : List Nat) : (s.undoScratch gid granules).memory = s.memory := by
  unfold State.undoScratch
  (repeat' split) <;> simp

@[simp] theorem State.settle_memory (s : State) (gid : Nat) : (s.settle gid).memory = s.memory := by
  unfold State.settle
  (repeat' split) <;> simp

/-! ### Rings -/

@[simp] theorem State.sendRank_memory (s : State) (typ ctx dev : Nat) (c : Config.PacketContent) :
    (s.sendRank typ ctx dev c).1.memory = s.memory := by
  unfold State.sendRank
  (repeat' split) <;> simp

@[simp] theorem State.sendGangPeers_memory (s : State) (typ : Nat) (k : Kernel) (c : Config.PacketContent) :
    (s.sendGangPeers typ k c).memory = s.memory := by
  simp [State.sendGangPeers]

@[simp] theorem State.closeStaging_memory (s : State) (g : Group) (k : Kernel) (q : Nat) (st : Staging) :
    (s.closeStaging g k q st).memory = s.memory := by
  unfold State.closeStaging
  split <;> rfl

@[simp] theorem State.tellClosed_memory (s : State) (kh stage : Nat) (gangix : W32) (gangrank : BitVec 11) (ch : Nat) :
    (s.tellClosed kh stage gangix gangrank ch).memory = s.memory := by
  unfold State.tellClosed
  (repeat' split) <;> simp

@[simp] theorem State.leaveGang_memory (s : State) (g : Group) : (s.leaveGang g).memory = s.memory := by
  unfold State.leaveGang
  split <;> simp

/-! ### Group -/

@[simp] theorem State.enterItems_memory (s : State) (gid : Nat) (k : Kernel) (first : Bool) (l : List (Nat × Nat)) :
    (s.enterItems gid k first l).memory = s.memory := by
  induction l generalizing s with
  | nil => rfl
  | cons p l ih =>
    unfold State.enterItems
    split
    · rfl
    · simp [ih]

@[simp] theorem State.logClosure_memory (s : State) (gid bar closed : Nat) : (s.logClosure gid bar closed).memory = s.memory := by
  unfold State.logClosure
  split <;> simp

@[simp] theorem State.drawFor_memory (s : State) (gid n : Nat) : (s.drawFor gid n).2.memory = s.memory := by
  simp only [State.drawFor]
  (repeat' split) <;> simp [*]

@[simp] theorem State.retireGroup_memory (s : State) (gid : Nat) : (s.retireGroup gid).memory = s.memory := by
  unfold State.retireGroup
  split <;> simp

@[simp] theorem State.closeRefill_memory (s : State) (gid : Nat) : (s.closeRefill gid).memory = s.memory := by
  simp only [State.closeRefill]
  (repeat' split) <;> simp [*]

@[simp] theorem State.refillTest_memory (s : State) (gid n : Nat) : (s.refillTest gid n).memory = s.memory := by
  induction n generalizing s with
  | zero => rfl
  | succ n ih =>
    unfold State.refillTest
    split
    · rfl
    · simp [ih]

@[simp] theorem State.refillUnguarded_memory (s : State) (gid : Nat) : (s.refillUnguarded gid).memory = s.memory := by
  unfold State.refillUnguarded
  split <;> simp

@[simp] theorem State.commit_memory (s : State) (gid slot : Nat) : (s.commit gid slot).memory = s.memory := by
  unfold State.commit
  split <;> simp

theorem State.barrierTest_memory {reduce : RedKind → List W64 → W64 × BitVec 6} {give : Giver} (hgive : ∀ t gid k, (give t gid k).memory = t.memory)
    (gid slot k n : Nat) (s : State) : (State.barrierTest reduce give gid slot k n s).memory = s.memory := by
  induction n generalizing s with
  | zero => rfl
  | succ n ih =>
    unfold State.barrierTest
    split
    · rfl
    · split <;> simp [ih, hgive]

theorem State.barrierTests_memory {reduce : RedKind → List W64 → W64 × BitVec 6} {give : Giver} (hgive : ∀ t gid k, (give t gid k).memory = t.memory)
    (s : State) (gid slot : Nat) : (s.barrierTests reduce give gid slot).memory = s.memory :=
  State.foldl_memory (fun s k => State.barrierTest_memory hgive gid slot k _ s) ..

/-! ### Wave -/

@[simp] theorem State.undoWave_memory (s : State) (gid : Nat) (sh : Shape) : (s.undoWave gid sh).memory = s.memory := by
  simp [State.undoWave]

@[simp] theorem State.mapRun_memory (s : State) (i : Instr) (run : Group → Env → Item) : (s.mapRun i run).memory = s.memory := by
  unfold State.mapRun
  split <;> simp

@[simp] theorem State.mapWave_memory (s : State) (i : Instr) (body : Env → Ending) : (s.mapWave i body).memory = s.memory := by
  simp [State.mapWave]

@[simp] theorem Env.finish_memory (e : Env) (i : Instr) (end_ : Ending) (s : State) : (e.finish i end_ s).memory = s.memory := rfl
@[simp] theorem Env.await_memory (e : Env) (i : Instr) (w : Wait) (s : State) : (e.await i w s).memory = s.memory := rfl

theorem State.stepItem_keeps {P : Memory → Prop} {body : Env → State → State} (hbody : ∀ e s, P s.memory → P (body e s).memory) (i : Instr)
    (priv : Bool) {s : State} (h : P s.memory) (slot : Nat) : P (State.stepItem i priv body s slot).memory := by
  have hran : ∀ e, P (body e s).memory := fun e => hbody e s h
  simp only [State.stepItem]
  (repeat' split) <;> simp [h, hran]

theorem State.foldWave_keeps {P : Memory → Prop} {body : Env → State → State} (hbody : ∀ e s, P s.memory → P (body e s).memory) (i : Instr)
    (priv : Bool) {s : State} (h : P s.memory) : P (s.foldWave i priv body).memory := by
  simp only [State.foldWave, State.settle_memory, State.undoWave_memory]
  exact State.foldl_keeps (P := P) (fun s k hs => State.stepItem_keeps hbody i priv hs k) _ h

theorem State.foldWave_memory {body : Env → State → State} (hbody : ∀ e s, (body e s).memory = s.memory) (s : State) (i : Instr) (priv : Bool) :
    (s.foldWave i priv body).memory = s.memory :=
  State.foldWave_keeps (P := (· = s.memory)) (fun e t ht => (hbody e t).trans ht) i priv rfl

theorem State.around_keeps {P : Memory → Prop} {f : State → State} (hf : ∀ s, P s.memory → P (f s).memory) {s : State} (h : P s.memory) (i : Instr) :
    P (s.around i f).memory := by
  have hnow := hf s h
  have hopened := hf (s.checkpoint s.wave.gid (s.wave.slots.headD 0)) (by simpa using h)
  simp only [State.around]
  (repeat' split) <;> (try rw [State.commit_memory]) <;> assumption

theorem State.commitWave_keeps {P : Memory → Prop} {body : Env → State → State} (hbody : ∀ e s, P s.memory → P (body e s).memory) (i : Instr)
    (priv : Bool) {s : State} (h : P s.memory) : P (s.commitWave i priv body).memory :=
  State.around_keeps (P := P) (fun _ ht => State.foldWave_keeps hbody i priv ht) h i

theorem State.commitWave_memory {body : Env → State → State} (hbody : ∀ e s, (body e s).memory = s.memory) (s : State) (i : Instr) (priv : Bool) :
    (s.commitWave i priv body).memory = s.memory :=
  State.commitWave_keeps (P := (· = s.memory)) (fun e t ht => (hbody e t).trans ht) i priv rfl

@[simp] theorem State.illegalWave_memory (s : State) (bad : Illegal) : (s.illegalWave bad).memory = s.memory := by
  unfold State.illegalWave
  split <;> simp

/-! ### Flags -/

@[simp] theorem State.writeScalar_memory (s : State) (d : BitVec 7) (x : Dest) : (s.writeScalar d x).memory = s.memory := rfl

@[simp] theorem State.scalarWave_memory (s : State) (i : Instr) (o : Form) (f : Env → Out) : (s.scalarWave i o f).memory = s.memory := by
  unfold State.scalarWave
  split <;> simp

@[simp] theorem State.arith_memory (s : State) (i : Instr) (o : Form) (f : Env → Out) : (s.arith i o f).memory = s.memory := by
  simp [State.arith]

/-! ### Control -/

@[simp] theorem State.giveResults_memory (s : State) (gid k : Nat) : (s.giveResults gid k).memory = s.memory := by
  unfold State.giveResults
  split
  · rfl
  · refine State.foldl_memory (fun s p => ?_) ..
    split
    · split <;> rfl
    · rfl

@[simp] theorem State.groupTests_memory (s : State) (gid slot : Nat) : (s.groupTests gid slot).memory = s.memory := by
  simp [State.groupTests, State.barrierTests_memory State.giveResults_memory]

@[simp] theorem State.endItem_memory (s : State) (gid slot : Nat) : (s.endItem gid slot).memory = s.memory := by
  unfold State.endItem
  split <;> simp

@[simp] theorem State.deliverDeferred_memory (s : State) (i : Instr) (e : Env) (name : Nat) (f : TileError) :
    (s.deliverDeferred i e name f).memory = s.memory := by
  simp only [State.deliverDeferred]
  (repeat' split) <;> simp [*]

/-! ### Memory -/

@[simp] theorem State.modPort_memory (s : State) (p : Nat) (f : Port → Port) : (s.modPort p f).memory = s.memory := rfl
@[simp] theorem State.dropTlb_memory (s : State) (unit ctx : Nat) (ea : W64) : (s.dropTlb unit ctx ea).memory = s.memory := rfl
@[simp] theorem State.fillTlb_memory (s : State) (unit ctx : Nat) (ea : W64) (l : Leaf) : (s.fillTlb unit ctx ea l).memory = s.memory := rfl

@[simp] theorem State.startWalk_memory (s : State) (core ctx : Nat) (ea : W64) (kind : Nat) : (s.startWalk core ctx ea kind).memory = s.memory := by
  unfold State.startWalk
  split <;> rfl

theorem State.translate_miss {s t : State} {core ctx : Nat} {ea : W64} {kind : Nat} (h : s.translate core ctx ea kind = .miss t) :
    t.memory = s.memory := by
  unfold State.translate at h
  grind [State.startWalk_memory, State.dropTlb_memory]

@[simp] theorem State.postFault_memory (s : State) (ctx : Nat) (ea : W64) (reason level kind : Nat) (engine : Bool) :
    (s.postFault ctx ea reason level kind engine).memory = s.memory := by
  unfold State.postFault
  split <;> rfl

@[simp] theorem State.notePoisonedEntry_memory (s : State) (bad : Option Nat) : (s.notePoisonedEntry bad).memory = s.memory := by
  unfold State.notePoisonedEntry
  split <;> rfl

/-- The state in which a translation of an engine ends. -/
def EngineTranslated.state : EngineTranslated → State
  | .ok _ s => s
  | .fail _ _ s => s
  | .wait s => s

@[simp] theorem State.engineTranslate_memory (s : State) (die ctx : Nat) (ea : W64) (kind : Nat) (engine : Bool) :
    (s.engineTranslate die ctx ea kind engine).state.memory = s.memory := by
  have hwalk : ∀ t : State, (State.engineTranslate.walkNow die ctx ea kind engine t).state.memory = t.memory := fun t => by
    unfold State.engineTranslate.walkNow
    (repeat' split) <;> simp [EngineTranslated.state]
  unfold State.engineTranslate
  split
  · rfl
  · split
    · split
      · rfl
      · exact (hwalk _).trans (s.dropTlb_memory ..)
    · exact hwalk s

/-! ### Lines -/

@[simp] theorem State.charge_memory (s : State) (source ctx cls bytes : Nat) : (s.charge source ctx cls bytes).memory = s.memory := by
  unfold State.charge
  split <;> rfl

@[simp] theorem State.throttle_memory (s : State) (gid : Nat) : (s.throttle gid).memory = s.memory := rfl
@[simp] theorem State.setL2_memory (s : State) (slice line : Nat) (l : L2Line) : (s.setL2 slice line l).memory = s.memory := rfl

@[simp] theorem State.portSends_memory (s : State) (kind half : Nat) (ctx : Option Nat) : (s.portSends kind half ctx).memory = s.memory := rfl
@[simp] theorem State.cxlRequest_memory (s : State) (pa kind : Nat) : (s.cxlRequest pa kind).memory = s.memory := by simp [State.cxlRequest]

theorem State.cxlHeld_no {s t : State} {pa n : Nat} {write fill : Bool} {l : L2Line} (h : s.cxlHeld pa n write fill l = .no t) :
    t.memory = s.memory := by
  have hasked : ∀ (f : Nat → Nat) (g : Nat → Nat) (l : List Nat), (l.foldl (fun s h => s.cxlRequest (f h) (g h)) s).memory = s.memory :=
    fun f g l => State.foldl_memory (fun s h => s.cxlRequest_memory (f h) (g h)) l s
  unfold State.cxlHeld at h
  obtain ⟨-, h⟩ | ⟨-, h⟩ := ite_eq_iff.1 h
  · cases h
  · obtain ⟨-, h⟩ | ⟨-, h⟩ := ite_eq_iff.1 h
    · cases h
      exact hasked ..
    · cases h

@[simp] theorem State.recall_memory (s : State) (line : Nat) (keep : Option Nat) : (s.recall line keep).memory = s.memory := rfl
@[simp] theorem State.stampCopy_memory (s : State) (cluster pa key wts : Nat) : (s.stampCopy cluster pa key wts).memory = s.memory := rfl

@[simp] theorem State.noteCodeStore_memory (s before : State) (gid : Nat) (va : W64) (pa n key : Nat) :
    (s.noteCodeStore before gid va pa n key).memory = s.memory := by
  unfold State.noteCodeStore
  (repeat' split) <;> rfl

@[simp] theorem State.deactivate_memory (s : State) (slice line : Nat) : (s.deactivate slice line).memory = s.memory := rfl
@[simp] theorem State.moveTokens_memory (s : State) (m : TokenMove) : (s.moveTokens m).memory = s.memory := by simp [State.moveTokens]

@[simp] theorem State.bringTokens_memory (slice pa : Nat) (write : Bool) (n : Nat) (s : State) :
    (State.bringTokens slice pa write n s).memory = s.memory := by
  induction n generalizing s with
  | zero => rfl
  | succ n ih =>
    unfold State.bringTokens
    split
    · rfl
    · simp [ih]

/-! ### Scratch -/

@[simp] theorem State.recordSpad_memory (s : State) (gid slot x : Nat) (write : Bool) : (s.recordSpad gid slot x write).memory = s.memory := by
  unfold State.recordSpad
  (repeat' split) <;> simp

@[simp] theorem State.spadStore_memory (s : State) (gid slot x : Nat) (bs : List W8) : (s.spadStore gid slot x bs).memory = s.memory := by
  simp [State.spadStore]

@[simp] theorem State.serveLdfe_memory (s : State) (e : Env) (g : Group) (o : MemForm) (ea : W64) : (s.serveLdfe e g o ea).memory = s.memory := by
  simp [State.serveLdfe]

@[simp] theorem State.serveStfe_memory (s : State) (e : Env) (o : MemForm) (ea : W64) : (s.serveStfe e o ea).memory = s.memory := by
  simp [State.serveStfe]

@[simp] theorem State.serveGranule_memory (s : State) (gid x n : Nat) : (s.serveGranule gid x n).memory = s.memory := by
  induction n generalizing s with
  | zero => rfl
  | succ n ih =>
    simp only [State.serveGranule]
    (repeat' split) <;> simp [ih]

@[simp] theorem State.granuleChanged_memory (s : State) (gid x : Nat) : (s.granuleChanged gid x).memory = s.memory := by
  unfold State.granuleChanged
  split <;> simp

/-! ### Loads -/

theorem State.reachGlobal_wait {s t : State} {g : Group} {ea : W64} {n : Nat} {write : Bool} {w : Wait} (h : s.reachGlobal g ea n write = .wait w t) :
    t.memory = s.memory := by
  unfold State.reachGlobal at h
  grind [State.translate_miss]

@[simp] theorem State.addAccess_memory (s : State) (a : Access) : (s.addAccess a).memory = s.memory := rfl

@[simp] theorem State.issueAccess_memory (s : State) (e : Env) (i : Instr) (a : Access) : (s.issueAccess e i a).memory = s.memory := by
  unfold State.issueAccess
  split <;> rfl

@[simp] theorem State.orderBefore_memory (s : State) (e : Env) (ord : Order) (sc : Scope) : (s.orderBefore e ord sc).memory = s.memory := by
  unfold State.orderBefore
  split <;> simp

@[simp] theorem State.orderAfter_memory (s : State) (gid slot : Nat) (ord : Order) (sc : Scope) :
    (s.orderAfter gid slot ord sc).memory = s.memory := by
  unfold State.orderAfter
  split <;> simp

@[simp] theorem State.globalLoad_memory (s : State) (e : Env) (g : Group) (i : Instr) (o : MemForm) (kind : AccessKind) :
    (s.globalLoad e g i o kind).memory = s.memory := by
  simp only [State.globalLoad]
  split
  · simp
  · next h => simp [State.reachGlobal_wait h]
  · simp

@[simp] theorem State.spadLoad_memory (s : State) (e : Env) (g : Group) (i : Instr) (o : MemForm) : (s.spadLoad e g i o).memory = s.memory := by
  simp only [State.spadLoad]
  (repeat' split) <;> simp [*]

theorem State.withGroup_memory {s : State} {f : Group → State} (hf : ∀ g, (f g).memory = s.memory) (gid : Nat) : (s.withGroup gid f).memory = s.memory := by
  unfold State.withGroup
  split
  · exact hf _
  · rfl

@[simp] theorem State.logItemStore_memory (s : State) (a : Access) : (s.logItemStore a).memory = s.memory := by simp [State.logItemStore]

@[simp] theorem State.holdOrSend_memory (s : State) (e : Env) (g : Group) (a : Access) : (s.holdOrSend e g a).memory = s.memory := by
  unfold State.holdOrSend
  split <;> simp

@[simp] theorem State.globalStore_memory (s : State) (e : Env) (g : Group) (i : Instr) (o : MemForm) : (s.globalStore e g i o).memory = s.memory := by
  simp only [State.globalStore]
  split
  · simp
  · next h => simp [State.reachGlobal_wait h]
  · simp

@[simp] theorem State.spadStoreForm_memory (s : State) (e : Env) (g : Group) (i : Instr) (o : MemForm) :
    (s.spadStoreForm e g i o).memory = s.memory := by
  simp only [State.spadStoreForm]
  (repeat' split) <;> simp [*]

@[simp] theorem State.deliver_memory (s : State) (id : Nat) (a : Access) (r : Returned) : (s.deliver id a r).memory = s.memory := by
  simp only [State.deliver]
  (repeat' split) <;> simp [*]

@[simp] theorem State.accessTraps_memory (s : State) (id : Nat) (a : Access) : (s.accessTraps id a).memory = s.memory := by
  unfold State.accessTraps
  (repeat' split) <;> simp

@[simp] theorem State.stampStore_memory (s : State) (id : Nat) (a : Access) (wts : Nat) : (s.stampStore id a wts).memory = s.memory := rfl

@[simp] theorem State.fillCopy_memory (s : State) (slice : Nat) (a : Access) (st : L1State) (wts lend : Nat) :
    (s.fillCopy slice a st wts lend).memory = s.memory := by
  simp [State.fillCopy]

/-! ### Fences -/

@[simp] theorem fenceForm_memory (i : Instr) (acq rel sc : Bool) (scope : Scope) (e : Env) (s : State) :
    (fenceForm i acq rel sc scope e s).memory = s.memory := by
  simp [fenceForm]

/-! ### Barriers -/

@[simp] theorem Env.arrives_memory (e : Env) (k : Nat) (s : State) : (e.arrives k s).2.memory = s.memory := by simp [Env.arrives]

theorem State.barrierWave_memory {body : Env → State → State} (hbody : ∀ e s, (body e s).memory = s.memory) (s : State) (i : Instr) :
    (s.barrierWave i body).memory = s.memory := by
  rw [State.barrierWave, State.groupTests_memory, State.foldWave_memory hbody]

@[simp] theorem barArrival_memory (i : Instr) (k : Nat) (sync : Bool) (e : Env) (s : State) : (barArrival i k sync e s).memory = s.memory := by
  simp only [barArrival]
  (repeat' split) <;> simp [*]

theorem abarForm_memory {body : Env → Group → W64 → State → State} (hbody : ∀ e g x s, (body e g x s).memory = s.memory) (i : Instr) (o : Form)
    (write reads : Bool) (e : Env) (s : State) : (abarForm i o write reads body e s).memory = s.memory := by
  refine State.withGroup_memory (fun g => ?_) _
  dsimp only
  (repeat' split) <;> simp [hbody]

@[simp] theorem State.endWaitv_memory (s : State) (e : Env) (o : WaitvForm) (v : Bool) : (s.endWaitv e o v).memory = s.memory := by
  simp [State.endWaitv]

@[simp] theorem State.wakeItem_memory (s : State) (gid slot : Nat) : (s.wakeItem gid slot).memory = s.memory := rfl

@[simp] theorem wakeForm_memory (i : Instr) (o : ScopeForm) (all : Bool) (e : Env) (s : State) : (wakeForm i o all e s).memory = s.memory := by
  have hwoken : ∀ (l : List Monitor) (t : State), (l.foldl (fun s m => s.wakeItem m.gid m.slot) t).memory = t.memory :=
    State.foldl_memory fun s m => s.wakeItem_memory m.gid m.slot
  refine State.withGroup_memory (fun g => ?_) _
  split
  · simp
  · next h => simp [State.reachGlobal_wait h]
  · simp [hwoken]

/-! ### Atomics -/

@[simp] theorem globalAtomic_memory (i : Instr) (o : AtomForm) (kind : AccessKind) (e : Env) (s : State) :
    (globalAtomic i o kind e s).memory = s.memory := by
  refine State.withGroup_memory (fun g => ?_) _
  grind [State.reachGlobal_wait, Env.finish_memory, State.throttle_memory, State.charge_memory, State.orderBefore_memory, State.issueAccess_memory]

@[simp] theorem spadAtomic_memory (i : Instr) (o : AtomForm) (kind : AccessKind) (e : Env) (s : State) :
    (spadAtomic i o kind e s).memory = s.memory := by
  refine State.withGroup_memory (fun g => ?_) _
  dsimp only
  (repeat' split) <;> simp

/-! ### Pages -/

@[simp] theorem State.resolveFault_memory (s : State) (id : Nat) (f : PageFault) (fail : Bool) : (s.resolveFault id f fail).memory = s.memory := rfl
@[simp] theorem State.invalidate_memory (s : State) (ctx : Nat) (sp : Span) : (s.invalidate ctx sp).memory = s.memory := rfl

@[simp] theorem Env.giveStatus_memory (e : Env) (i : Instr) (d : BitVec 7) (st : Nat) (s : State) : (e.giveStatus i d st s).memory = s.memory := by
  simp [Env.giveStatus]

@[simp] theorem invalidateForm_memory (i : Instr) (o : Form) (sp : Env → Span) (e : Env) (s : State) : (invalidateForm i o sp e s).memory = s.memory := by
  refine State.withGroup_memory (fun g => ?_) _
  simp

/-- The state in which work on a stack ends. -/
def StackWork.state {α : Type} : StackWork α → State
  | .ok _ s => s
  | .trap _ s => s
  | .park _ _ s => s
  | .notYet s => s

@[simp] theorem State.stackReach_memory (s : State) (g : Group) (va : W64) (kind : Nat) : (s.stackReach g va kind).state.memory = s.memory := by
  have hreach := s.engineTranslate_memory (dieOfCore g.core) g.ctx va kind false
  unfold State.stackReach
  split <;> rename_i h <;> rw [h] at hreach
  · exact hreach
  · exact hreach
  · split <;> exact hreach

@[simp] theorem State.holdWord_memory (s : State) (gid : Nat) (h : HeldStore) : (s.holdWord gid h).memory = s.memory := by
  unfold State.holdWord
  (repeat' split) <;> simp

@[simp] theorem State.reachEach_memory (s : State) (g : Group) (l : List W64) : (s.reachEach g l).state.memory = s.memory := by
  induction l generalizing s with
  | nil => rfl
  | cons va l ih =>
    have hreach := s.stackReach_memory g va 1
    unfold State.reachEach
    split <;> rename_i h <;> rw [h] at hreach
    · exact hreach
    · exact hreach
    · exact hreach
    · next pa t =>
      have hrest := (ih t).trans hreach
      split
      next h => rw [h] at hrest; exact hrest
      next => exact hrest

/-! ### Issue -/

theorem State.fetchWord_miss {s t : State} {g : Group} {va va' : W64} (h : s.fetchWord g va = .miss va' t) : t.memory = s.memory := by
  unfold State.fetchWord at h
  grind [State.translate_miss, State.cxlRequest_memory]

theorem State.fetch_miss {s t : State} {g : Group} {pc va : W64} (h : s.fetch g pc = .miss va t) : t.memory = s.memory := by
  unfold State.fetch at h
  grind [State.fetchWord_miss]

@[simp] theorem State.fetchTraps_memory (s : State) (gid : Nat) (slots : List Nat) (t : Item → Trap) (ilen : Nat) :
    (s.fetchTraps gid slots t ilen).memory = s.memory := by
  unfold State.fetchTraps
  split <;> simp

@[simp] theorem State.logShared_memory (before s : State) (w : Wave) (i : Instr) : (before.logShared s w i).memory = s.memory := by
  unfold State.logShared
  (repeat' split) <;> simp

/-- The state of an issue port that has found something else to do than to issue. -/
def Issue.state (s : State) : Issue → State
  | .moved t => t
  | _ => s

@[simp] theorem State.tryPc_memory (s : State) (gid : Nat) (g : Group) (items : List (Nat × Item)) (starved : Option Nat) (pc : W64) :
    ((s.tryPc gid g items starved pc).state s).memory = s.memory := by
  simp only [State.tryPc]
  split
  · simp [Issue.state]
  · split
    · simp [Issue.state]
    · next h => split <;> simp [Issue.state, State.fetch_miss h]
    · split <;> rfl

@[simp] theorem State.tryPcs_memory (s : State) (gid : Nat) (g : Group) (items : List (Nat × Item)) (pcs : List W64) :
    ((s.tryPcs gid g items pcs).state s).memory = s.memory := by
  induction pcs with
  | nil => rfl
  | cons pc pcs ih =>
    unfold State.tryPcs
    split
    · exact ih
    · exact s.tryPc_memory gid g items none pc

@[simp] theorem State.tryGroup_memory (s : State) (again : Option (Nat × Nat × Item)) (gid : Nat) (g : Group) :
    ((s.tryGroup again gid g).state s).memory = s.memory := s.tryPcs_memory ..

@[simp] theorem State.tryGroups_memory (s : State) (again : Option (Nat × Nat × Item)) (l : List (Nat × Group)) :
    ((s.tryGroups again l).state s).memory = s.memory := by
  induction l with
  | nil => rfl
  | cons p l ih =>
    unfold State.tryGroups
    split
    · exact ih
    · exact s.tryGroup_memory again p.1 p.2

@[simp] theorem State.tryAgain_memory (s : State) (again : Option (Nat × Nat × Item)) : ((s.tryAgain again).state s).memory = s.memory := by
  unfold State.tryAgain
  split
  · rfl
  · split
    · exact s.tryPc_memory ..
    · rfl

@[simp] theorem State.tryAtCut_memory (s : State) (order : List (Nat × Group)) : ((s.tryAtCut order).state s).memory = s.memory := by
  simp only [State.tryAtCut]
  split
  · split
    · exact s.tryPc_memory ..
    · rfl
  · rfl

@[simp] theorem State.tryCore_memory (s : State) (core : Nat) : ((s.tryCore core).state s).memory = s.memory := by
  simp only [State.tryCore]
  (repeat' split) <;> simp

@[simp] theorem State.tryCores_memory (s : State) (cores : List Nat) : ((s.tryCores cores).state s).memory = s.memory := by
  induction cores with
  | nil => rfl
  | cons c cores ih =>
    unfold State.tryCores
    split
    · exact ih
    · exact s.tryCore_memory c

@[simp] theorem State.beginWave_memory (s : State) (w : Wave) : (s.beginWave w).memory = s.memory := by
  unfold State.beginWave
  split <;> rfl

@[simp] theorem State.dropStarved_memory (s : State) : s.dropStarved.memory = s.memory :=
  State.foldl_memory (fun s _ => s.modItem_memory ..) ..

@[simp] theorem State.accountItem_memory (s : State) (g : Group) (before after : Item) : (s.accountItem g before after).memory = s.memory := by
  simp [State.accountItem]

@[simp] theorem State.accountGroup_memory (s : State) (before after : Group) : (s.accountGroup before after).memory = s.memory := by
  unfold State.accountGroup
  split
  · rfl
  · refine State.foldl_memory (fun s p => ?_) ..
    split <;> simp

@[simp] theorem State.account_memory (before s : State) : (before.account s).memory = s.memory := by
  refine State.foldl_memory (fun t p => ?_) ..
  split <;> simp

@[simp] theorem State.accountGone_memory (before s : State) (w : Wave) (i : Except Illegal Instr) : (before.accountGone s w i).memory = s.memory := by
  have hcounted : ∀ g : Group, (w.slots.foldl (fun t k => match Table.get? g.items k, (s.group? w.gid).bind (fun g => Table.get? g.items k) with
      | some it, none => t.countInstruction g.ctx g.core (before.partyOfItem g it)
      | _, _ => t) s).memory = s.memory := fun g => State.foldl_memory (fun t k => by split <;> simp) ..
  simp only [State.accountGone]
  cases before.group? w.gid with
  | none => rfl
  | some g =>
    rw [State.ite_memory, ite_eq_right_iff]
    exact fun _ => hcounted g

@[simp] theorem State.endStep_memory (before s : State) : (before.endStep s).memory = s.memory := by simp [State.endStep]

/-! ### Csr -/

@[simp] theorem State.csrWrite_memory (s : State) (gid ctx num : Nat) (x : W64) : (s.csrWrite gid ctx num x).memory = s.memory := by
  unfold State.csrWrite
  split <;> rfl

@[simp] theorem csrForm_memory (i : Instr) (op : CsrOp) (o : CsrForm) (was : State) (e : Env) (s : State) :
    (csrForm i op o was e s).memory = s.memory := by
  refine State.withGroup_memory (fun g => ?_) _
  grind [Env.finish_memory, State.loggedItemValue_memory, State.csrWrite_memory]

@[simp] theorem State.advanceCycle_memory (s : State) (num : Nat) : (s.advanceCycle num).memory = s.memory := by
  unfold State.advanceCycle
  split <;> simp

/-! ### Firmware -/

@[simp] theorem State.eraseKernel_memory (s : State) (kh : Nat) : (s.eraseKernel kh).memory = s.memory := by
  unfold State.eraseKernel
  split <;> simp

@[simp] theorem State.releaseHandle_memory (s : State) (kh : Nat) : (s.releaseHandle kh).memory = s.memory := by
  unfold State.releaseHandle
  split <;> simp

@[simp] theorem State.nameKernel_memory (s : State) (ctx kh kseq lq : Nat) : (s.nameKernel ctx kh kseq lq).memory = s.memory := by
  simp [State.nameKernel]

@[simp] theorem State.numberKernel_memory (s : State) (ctx kh lq : Nat) : (s.numberKernel ctx kh lq).memory = s.memory := by
  simp [State.numberKernel]

@[simp] theorem State.addKernel_memory (s : State) (kh : Nat) (k : Kernel) (lq : Nat) : (s.addKernel kh k lq).memory = s.memory := by
  simp [State.addKernel]

@[simp] theorem State.endUpdate_memory (s : State) (id : Nat) (u : CompletionUpdate) : (s.endUpdate id u).memory = s.memory := by
  unfold State.endUpdate
  split <;> simp

@[simp] theorem State.setLastErr_memory (s : State) (queue : Option Nat) (code : Nat) : (s.setLastErr queue code).memory = s.memory := by
  unfold State.setLastErr
  split <;> rfl

/-! ### Commands -/

@[simp] theorem State.acceptCommand_memory (s : State) : s.acceptCommand.memory = s.memory := rfl
@[simp] theorem State.answerSlot_memory (s : State) (slot code : Nat) : (s.answerSlot slot code).memory = s.memory := rfl

@[simp] theorem State.answer_memory (s : State) (a : Asker) (st : Nat) : (s.answer a st).memory = s.memory := by
  unfold State.answer
  split <;> rfl

theorem State.runCommand_memory {f : List W8 → State → State × Nat} (hf : ∀ c s, (f c s).1.memory = s.memory) (s : State) (opc : Nat)
    (q : List W8 → Bool) : (s.runCommand opc q f).memory = s.memory := by
  simp only [State.runCommand]
  (repeat' split) <;> simp [hf]

theorem State.contextCommand_memory {f : Nat → List W8 → State → State × Nat} (hf : ∀ ctx c s, (f ctx c s).1.memory = s.memory) (s : State)
    (opc : Nat) (area addr : Bool) : (s.contextCommand opc area addr f).memory = s.memory := by
  refine State.runCommand_memory (fun c s => ?_) ..
  grind

@[simp] theorem State.enableQueues_memory (s : State) (ctx : Nat) : (s.enableQueues ctx).memory = s.memory := rfl
@[simp] theorem State.bindKey_memory (s : State) (k : Nat) : (s.bindKey k).memory = s.memory := rfl
@[simp] theorem State.fillBudgets_memory (s : State) (ctx : Nat) : (s.fillBudgets ctx).memory = s.memory := rfl

/-! ### Queues -/

@[simp] theorem State.refuseHead_memory (s : State) (n : Nat) (q : LaunchQueue) (code : Nat) (crec : W64) :
    (s.refuseHead n q code crec).memory = s.memory := by
  unfold State.refuseHead
  split <;> rfl

@[simp] theorem State.openGang_memory (s : State) (kh : Nat) (r : LaunchRecord) (d : Descriptor) (ctx n : Nat) :
    (s.openGang kh r d ctx n).memory = s.memory := by
  simp only [State.openGang]
  split
  · simp
  · refine (State.foldl_memory (fun s rank => ?_) _ _).trans rfl
    split
    · split <;> simp
    · rfl

@[simp] theorem State.takeHead_memory (s : State) (n : Nat) (q : LaunchQueue) (r : LaunchRecord) (d : Descriptor) (kh : Nat) :
    (s.takeHead n q r d kh).memory = s.memory := by
  simp [State.takeHead]

/-! ### Loader -/

@[simp] theorem State.revoke_memory (s : State) (seat seq : Nat) : (s.revoke seat seq).memory = s.memory := by simp [State.revoke]

@[simp] theorem State.startGang_memory (s : State) (g : Group) : (s.startGang g).memory = s.memory := by
  unfold State.startGang
  split <;> rfl

@[simp] theorem State.exhausted_memory (s : State) (x : Nat) (b : BindEntry) : (s.exhausted x b).memory = s.memory := by
  simp only [State.exhausted]
  (repeat' split) <;> simp [*]

/-! ### Chunks -/

@[simp] theorem State.closeAll_memory (s : State) (ctx flags : Nat) : (s.closeAll ctx flags).memory = s.memory :=
  State.foldl_memory (fun s _ => s.closeChunk_memory ..) ..

@[simp] theorem State.stopRecording_memory (s : State) (ctx : Nat) : (s.stopRecording ctx).memory = s.memory := by
  simp [State.stopRecording]

@[simp] theorem State.followHandles_memory (s : State) (ctx : Nat) : (s.followHandles ctx).memory = s.memory := rfl
@[simp] theorem State.nextSegment_memory (s : State) (ctx : Nat) : (s.nextSegment ctx).memory = s.memory := rfl

@[simp] theorem State.endReplayChunk_memory (s : State) (ctx r : Nat) (mark : HcEntry) : (s.endReplayChunk ctx r mark).memory = s.memory := by
  simp [State.endReplayChunk]

theorem State.hcCommand_memory {f : Nat → List W8 → State → State × Nat} (hf : ∀ ctx c s, (f ctx c s).1.memory = s.memory) (s : State)
    (action : Nat) : (s.hcCommand action f).memory = s.memory := by
  refine State.runCommand_memory (fun c s => ?_) ..
  grind

@[simp] theorem State.resumeInPlace_memory (s : State) (ctx : Nat) : (s.resumeInPlace ctx).memory = s.memory := by
  simp [State.resumeInPlace]

@[simp] theorem State.startReplay_memory (s : State) (mode : HcMode) (ctx : Nat) (c : List W8) : (s.startReplay mode ctx c).1.memory = s.memory := by
  unfold State.startReplay
  split <;> rfl

@[simp] theorem hcmarkItem_memory (o : ImmForm) (e : Env) (s : State) : (hcmarkItem o e s).memory = s.memory := by
  refine State.withGroup_memory (fun g => ?_) _
  grind [Env.finish_memory, State.useLogged_memory, State.endReplay_memory, State.logEntry_memory]

@[simp] theorem State.flushWave_memory (s : State) (i : Instr) : (s.flushWave i).1.memory = s.memory := by
  simp only [State.flushWave]
  (repeat' split) <;> simp [*]

/-! ### Channels -/

@[simp] theorem State.landSlot_memory (s : State) (gid : Nat) (k : Kernel) (ch : Nat) (words : List W32) (stamp : Nat) (far : Bool) :
    (s.landSlot gid k ch words stamp far).memory = s.memory := by
  unfold State.landSlot
  split <;> simp

@[simp] theorem State.chargeInject_memory (s : State) (die ctx bytes : Nat) : (s.chargeInject die ctx bytes).memory = s.memory := rfl

theorem State.deliverSlot_memory {s t : State} {x : Sender} (h : s.deliverSlot x = some t) : t.memory = s.memory := by
  simp only [State.deliverSlot] at h
  grind [State.sendRank_memory, State.chargeInject_memory, State.landSlot_memory, State.modKernel_memory, State.useLogged_memory, State.logEntry_memory]

@[simp] theorem State.tellDone_memory (s : State) (gid ch : Nat) : (s.tellDone gid ch).memory = s.memory := by
  unfold State.tellDone
  split <;> simp

theorem State.tryOutcome_memory {s t : State} {e : Env} {g : Group} {now b : Bool} (h : s.tryOutcome e g now = some (b, t)) : t.memory = s.memory := by
  simp only [State.tryOutcome] at h
  grind [State.loggedItemValue_memory, State.endReplay_memory]

theorem queueForm_memory {body : Env → Group → Kernel → Binding → State → State} (hbody : ∀ e g k b s, (body e g k b s).memory = s.memory) (i : Instr)
    (q : BitVec 7) (kinds : List Nat) (e : Env) (s : State) : (queueForm i q kinds body e s).memory = s.memory := by
  refine State.withGroup_memory (fun g => ?_) _
  (repeat' split) <;> simp [hbody]

@[simp] theorem State.storePush_memory (s : State) (gid q : Nat) (st : Staging) : (s.storePush gid q st).memory = s.memory := rfl

@[simp] theorem State.freeSlot_memory (s : State) (g : Group) (k : Kernel) (ch : Nat) : (s.freeSlot g k ch).memory = s.memory := by
  simp [State.freeSlot]

@[simp] theorem State.popRing_memory (s : State) (i : Instr) (e : Env) (g : Group) (k : Kernel) (ch : Nat) (it : Item → Item) (d : BitVec 7) :
    (s.popRing i e g k ch it d).memory = s.memory := by
  simp [State.popRing]

@[simp] theorem popPort_memory (i : Instr) (e : Env) (q : Nat) (it : Item → Item) (d : BitVec 7) (s : State) :
    (popPort i e q it d s).memory = s.memory := by
  unfold popPort
  (repeat' split) <;> rfl

/-! ### Engines -/

@[simp] theorem State.handCommand_memory (s : State) (i : Instr) (e : Env) (g : Group) (b : Binding) (q : Nat) (w indices : List W32)
    (chunks : Nat) : (s.handCommand i e g b q w indices chunks).memory = s.memory := rfl

@[simp] theorem xferItem_memory (o : Form) (e : Env) (g : Group) (k : Kernel) (b : Binding) (s : State) :
    (xferItem o e g k b s).memory = s.memory := by
  simp only [xferItem]
  (repeat' split) <;> simp [*]

@[simp] theorem xgatherItem_memory (o : Form) (e : Env) (g : Group) (k : Kernel) (b : Binding) (s : State) :
    (xgatherItem o e g k b s).memory = s.memory := by
  simp only [xgatherItem]
  (repeat' split) <;> simp [*]

@[simp] theorem State.retireCommands_memory (gid slot : Nat) (gather : Bool) (n : Nat) (s : State) :
    (State.retireCommands gid slot gather n s).memory = s.memory := by
  induction n generalizing s with
  | zero => rfl
  | succ n ih =>
    unfold State.retireCommands
    split
    · rfl
    · simp [ih]

@[simp] theorem State.endChunk_memory (s : State) (id j code : Nat) : (s.endChunk id j code).memory = s.memory := by
  unfold State.endChunk
  split <;> simp

/-- The state in which the accesses of a chunk have been translated. -/
def ChunkReach.state : ChunkReach → State
  | .ok _ s => s
  | .fail _ s => s
  | .wait _ s => s

@[simp] theorem State.reachChunk_memory (s : State) (die ctx : Nat) (l : List ChunkAccess) : (s.reachChunk die ctx l).state.memory = s.memory := by
  induction l generalizing s with
  | nil => rfl
  | cons a l ih =>
    have hfirst := s.engineTranslate_memory die ctx a.va (boolNat a.write) true
    unfold State.reachChunk
    split <;> rename_i h <;> rw [h] at hfirst
    · exact hfirst
    · next t =>
      have hrest := (ih t).trans hfirst
      split <;> rename_i h <;> rw [h] at hrest <;> exact hrest
    · next pa t =>
      have hrest := (ih t).trans hfirst
      simp only
      split <;> rename_i h <;> rw [h] at hrest
      · exact hrest
      · exact hrest
      · split <;> exact hrest

theorem State.engineCredit_memory {s t : State} {gid bar bytes stamp : Nat} (h : s.engineCredit gid bar bytes stamp = some t) : t.memory = s.memory := by
  unfold State.engineCredit at h
  split at h
  · cases h
  · split at h
    · cases h
    · cases h
      rfl

@[simp] theorem State.landPiece_memory (s : State) (l : Landing) (x : Nat × Nat × Nat) : (s.landPiece l x).1.memory = s.memory := by
  simp only [State.landPiece]
  split
  · rfl
  · split
    · simp
    · split
      · next h => simp [State.engineCredit_memory h]
      · rfl

theorem landings_memory {α : Type} {f : State × Landing → α → State × Landing} (hf : ∀ r x, (f r x).1.memory = r.1.memory) (l : List α)
    (r : State × Landing) : (l.foldl f r).1.memory = r.1.memory := by
  induction l generalizing r with
  | nil => rfl
  | cons x l ih => rw [List.foldl_cons, ih, hf]

@[simp] theorem State.landRest_memory (s : State) (l : Landing) : (s.landRest l).1.memory = s.memory := by
  refine landings_memory (fun r x => ?_) ..
  split <;> simp

@[simp] theorem State.landOne_memory (s : State) (l : Landing) (n : Nat) : (s.landOne l n).1.memory = s.memory := by
  simp only [State.landOne]
  (repeat' split) <;> simp [*]

@[simp] theorem State.chargeCopy_memory (s : State) (die engine ctx bytes : Nat) (away : Bool) :
    (s.chargeCopy die engine ctx bytes away).memory = s.memory := by
  unfold State.chargeCopy
  split <;> rfl

@[simp] theorem State.sendChunk_memory (s : State) (id j : Nat) (g : Group) (k : Kernel) (ch : Chunk) (l : Landing) :
    (s.sendChunk id j g k ch l).1.memory = s.memory := by
  have hsent : ∀ (ms : List Nat) (r : State × Nat × Bool), (ms.foldl (fun (r : State × Nat × Bool) m =>
      let (s, ok) := r.1.sendRank 3 g.ctx ch.dev (chunkPacket id j g k ch l (ch.dev * k.desc.gangGroups + m) false)
      (s, r.2.1 + boolNat ok, r.2.2 || !ok)) r).1.memory = r.1.memory := fun ms => by
    induction ms with
    | nil => intro; rfl
    | cons m ms ih =>
      intro r
      rw [List.foldl_cons, ih]
      exact r.1.sendRank_memory ..
  exact hsent ..

@[simp] theorem State.goOnLanding_memory (s : State) (id j : Nat) (r : State × Landing) : (s.goOnLanding id j r).memory = r.1.memory := by
  unfold State.goOnLanding
  split <;> simp

@[simp] theorem State.failChunk_memory (s : State) (id chunk code : Nat) : (s.failChunk id chunk code).memory = s.memory := by
  unfold State.failChunk
  (repeat' split) <;> simp

@[simp] theorem State.resolve_memory (s : State) (id : Nat) (f : PageFault) (fail : Bool) : (s.resolve id f fail).memory = s.memory := by
  simp [State.resolve]

/-! ### Collect -/

@[simp] theorem State.modJoin_memory (s : State) (kh stage : Nat) (gangix : W32) (n : Nat) (f : Join → Join) :
    (s.modJoin kh stage gangix n f).memory = s.memory := by
  unfold State.modJoin
  split <;> rfl

@[simp] theorem collItem_memory (i : Instr) (sub : Nat) (o : Form) (e : Env) (g : Group) (k : Kernel) (b : Binding) (s : State) :
    (collItem i sub o e g k b s).memory = s.memory := by
  simp only [collItem]
  (repeat' split) <;> simp [*]

@[simp] theorem State.recordContribution_memory (s : State) (k : Kernel) (j : Join) (m : CollMember) :
    (s.recordContribution k j m).memory = s.memory := by
  unfold State.recordContribution
  split <;> simp

@[simp] theorem State.shareContribution_memory (s : State) (k : Kernel) (j : Join) (m : CollMember) (x : List W8 × List Nat) :
    (s.shareContribution k j m x).memory = s.memory := by
  simp [State.shareContribution]

@[simp] theorem State.retireCollectives_memory (gid slot n : Nat) (s : State) : (State.retireCollectives gid slot n s).memory = s.memory := by
  induction n generalizing s with
  | zero => rfl
  | succ n ih =>
    unfold State.retireCollectives
    split
    · rfl
    · simp [ih]

@[simp] theorem State.endCollChunk_memory (s : State) (id rank chunk code : Nat) (flags : BitVec 5) :
    (s.endCollChunk id rank chunk code flags).memory = s.memory := by
  unfold State.endCollChunk
  (repeat' split) <;> simp

@[simp] theorem State.dropShares_memory (s : State) : s.dropShares.memory = s.memory := rfl

@[simp] theorem State.goOnCollective_memory (s : State) (join member chunk : Nat) (r : State × Landing) :
    (s.goOnCollective join member chunk r).memory = r.1.memory := by
  unfold State.goOnCollective
  split <;> simp

theorem State.formCollective_memory {s : State} {j : Join} {m : CollMember} {k : Kernel} {chunk : Nat} {r : State × Landing}
    (h : s.formCollective j m k chunk = some r) : r.1.memory = s.memory := by
  unfold State.formCollective at h
  extract_lets at h
  split at h
  · cases h
    rfl
  · split at h
    · cases h
    · split at h
      · split at h
        · cases h
          rfl
        · cases h
      · cases h
        exact State.charge_memory ..

@[simp] theorem State.refillBuckets_memory (s : State) (source ctx : Nat) : (s.refillBuckets source ctx).memory = s.memory := rfl

/-! ### Gangs -/

@[simp] theorem State.onCommit_memory (s : State) (m : GangMsg) : (s.onCommit m).memory = s.memory := by
  unfold State.onCommit
  split <;> simp

@[simp] theorem State.onAbort_memory (s : State) (m : GangMsg) : (s.onAbort m).memory = s.memory := by
  unfold State.onAbort
  split <;> simp

@[simp] theorem State.onAck_memory (s : State) (m : GangMsg) : (s.onAck m).memory = s.memory := by
  unfold State.onAck
  split <;> simp

@[simp] theorem State.onFail_memory (s : State) (m : GangMsg) : (s.onFail m).memory = s.memory := by simp [State.onFail]

@[simp] theorem State.onDone_memory (s : State) (m : GangMsg) : (s.onDone m).memory = s.memory := by
  unfold State.onDone
  split <;> rfl

@[simp] theorem State.checkPaths_memory (s : State) : s.checkPaths.memory = s.memory := by simp [State.checkPaths]

@[simp] theorem State.adoptGang_memory (s : State) (ctx kh n : Nat) : (s.adoptGang ctx kh n).memory = s.memory := by
  unfold State.adoptGang
  split <;> rfl

@[simp] theorem State.gangRefused_memory (s : State) (ctx kh : Nat) (k : Kernel) : (s.gangRefused ctx kh k).memory = s.memory := by
  simp [State.gangRefused]

@[simp] theorem State.leaveRefusedGang_memory (s : State) (ctx : Nat) (k : Kernel) : (s.leaveRefusedGang ctx k).memory = s.memory := by
  simp [State.leaveRefusedGang]

@[simp] theorem State.onQuery_memory (s : State) (m : GangMsg) : (s.onQuery m).memory = s.memory := by simp [State.onQuery]

@[simp] theorem State.onAnswer_memory (s : State) (m : GangMsg) (live : Bool) : (s.onAnswer m live).memory = s.memory := by
  unfold State.onAnswer
  split <;> simp

/-! ### Deliver -/

@[simp] theorem State.slotFreed_memory (s : State) (kh stage rank : Nat) (k : Kernel) (gid : Option Nat) (ch : Nat) :
    (s.slotFreed kh stage rank k gid ch).memory = s.memory := by
  unfold State.slotFreed
  (repeat' split) <;> rfl

@[simp] theorem State.takeChunk_memory (s : State) (ctx n id j stage rank sender x : Nat) (bytes : List W8) (bad : List Nat) (full : Bool) (bar : Nat)
    (sum : W64) (again : Bool) : (s.takeChunk ctx n id j stage rank sender x bytes bad full bar sum again).memory = s.memory := by
  simp only [State.takeChunk]
  split
  · simp
  · split
    · simp
    · rw [State.sendRank_memory]
      exact landings_memory (fun r p => r.1.landPiece_memory r.2 p) ..
  · rfl

@[simp] theorem State.resendChunk_memory (s : State) (ctx id j rank : Nat) : (s.resendChunk ctx id j rank).memory = s.memory := by
  simp only [State.resendChunk]
  (repeat' split) <;> simp [*]

@[simp] theorem State.takeShare_memory (s : State) (ctx n stage cn rank offset : Nat) (piece : Piece) (sum : W64) (again : Bool) :
    (s.takeShare ctx n stage cn rank offset piece sum again).memory = s.memory := by
  unfold State.takeShare
  split <;> simp

@[simp] theorem State.shareOnceMore_memory (s : State) (ctx n stage cn rank offset asker : Nat) :
    (s.shareOnceMore ctx n stage cn rank offset asker).memory = s.memory := by
  unfold State.shareOnceMore
  (repeat' split) <;> simp

/-! ### Links -/

@[simp] theorem State.packetDropped_memory (s : State) (h : Header) (payload : List W8) : (s.packetDropped h payload).memory = s.memory := by
  unfold State.packetDropped
  (repeat' split) <;> simp

@[simp] theorem State.resend_memory (s : State) (l : Nat) (h : Header) (payload : List W8) : (s.resend l h payload).memory = s.memory := by
  unfold State.resend
  split <;> simp

@[simp] theorem State.dropRoutes_memory (s : State) (l : Nat) : (s.dropRoutes l).memory = s.memory := rfl
@[simp] theorem State.dropAway_memory (s : State) : s.dropAway.memory = s.memory := by simp [State.dropAway]
@[simp] theorem State.rerouteHeld_memory (s : State) (l : Nat) : (s.rerouteHeld l).memory = s.memory := by simp [State.rerouteHeld]
@[simp] theorem State.isolateLink_memory (s : State) (l : Nat) : (s.isolateLink l).memory = s.memory := by simp [State.isolateLink]
@[simp] theorem State.retrainLink_memory (s : State) (l : Nat) (since : Option Nat) : (s.retrainLink l since).memory = s.memory := rfl

@[simp] theorem State.exceed_memory (s : State) (l : Nat) : (s.exceed l).memory = s.memory := by
  unfold State.exceed
  (repeat' split) <;> simp

@[simp] theorem State.startLink_memory (s : State) (l : Nat) : (s.startLink l).memory = s.memory := by simp [State.startLink]

@[simp] theorem State.enableLink_memory (s : State) (l : Nat) (c : List W8) : (s.enableLink l c).1.memory = s.memory := by
  unfold State.enableLink
  split <;> simp

@[simp] theorem State.recoverLink_memory (s : State) (l : Nat) (c : List W8) : (s.recoverLink l c).1.memory = s.memory := by
  unfold State.recoverLink
  split <;> simp

@[simp] theorem State.disableLink_memory (s : State) (l : Nat) (c : List W8) : (s.disableLink l c).1.memory = s.memory := by
  unfold State.disableLink
  split <;> simp

/-! ### Ports -/

@[simp] theorem State.closeWindow_memory (s : State) (b : Nat) : (s.closeWindow b).memory = s.memory := by simp [State.closeWindow]
@[simp] theorem State.portError_memory (s : State) (b reason : Nat) : (s.portError b reason).memory = s.memory := rfl
@[simp] theorem State.endDisable_memory (s : State) (b : Nat) : (s.endDisable b).memory = s.memory := by simp [State.endDisable]

@[simp] theorem State.isolatePort_memory (s : State) (b reason timeouts : Nat) : (s.isolatePort b reason timeouts).memory = s.memory := by
  simp [State.isolatePort]

@[simp] theorem State.enablePort_memory (s : State) (b : Nat) : (s.enablePort b).1.memory = s.memory := by
  unfold State.enablePort
  split <;> rfl

@[simp] theorem State.recoverPort_memory (s : State) (b : Nat) : (s.recoverPort b).1.memory = s.memory := by
  unfold State.recoverPort
  split <;> rfl

@[simp] theorem State.takeResponse_memory (s : State) (b request : Nat) (r : PortRequest) (a : CxlAnswer) :
    (s.takeResponse b request r a).memory = s.memory := by
  simp [State.takeResponse]

@[simp] theorem State.answerPort_memory (s : State) (port status : Nat) (data : List W8) : (s.answerPort port status data).memory = s.memory := rfl

@[simp] theorem State.snoop_memory (s : State) (port half : Nat) (f : Nat → Nat) (dirty clean gone : Nat) :
    (s.snoop port half f dirty clean gone).memory = s.memory := by
  simp only [State.snoop]
  (repeat' split) <;> simp [*]

/-! ### Device -/

@[simp] theorem State.rejectWrite_memory (s : State) : s.rejectWrite.memory = s.memory := rfl

@[simp] theorem State.writeStarred_memory (s : State) (ok : Bool) (d : DeviceBlock) : (s.writeStarred ok d).memory = s.memory := by
  unfold State.writeStarred
  split <;> rfl

@[simp] theorem State.writeField_memory (s : State) (ok : Bool) (d : DeviceBlock) : (s.writeField ok d).memory = s.memory := by
  unfold State.writeField
  split <;> rfl

@[simp] theorem State.writeFrHead_memory (s : State) (x : Nat) : (s.writeFrHead x).memory = s.memory := by simp [State.writeFrHead]

@[simp] theorem State.writeTail_memory (s : State) (x : Nat) : (s.writeTail x).memory = s.memory := by
  unfold State.writeTail
  split <;> rfl

@[simp] theorem State.readWindow_memory (s : State) (offset n : Nat) : (s.readWindow offset n).memory = s.memory := by
  unfold State.readWindow
  split <;> rfl

@[simp] theorem State.countUncorrected_memory (s : State) (array : Nat) : (s.countUncorrected array).memory = s.memory := rfl
@[simp] theorem State.killEverything_memory (s : State) : s.killEverything.memory = s.memory := by simp [State.killEverything]

/-! ### MatrixForms -/

@[simp] theorem State.modTile_memory (s : State) (gid name : Nat) (f : Tile → Tile) : (s.modTile gid name f).memory = s.memory := rfl
@[simp] theorem State.raiseNow_memory (s : State) (gid : Nat) (f : BitVec 5) : (s.raiseNow gid f).memory = s.memory := rfl

@[simp] theorem State.meetFailed_memory (s : State) (i : Instr) (name reason : Nat) (f : TileError) : (s.meetFailed i name reason f).memory = s.memory := by
  refine State.foldWave_memory (fun e s => ?_) ..
  split <;> simp

@[simp] theorem State.tileTrap_memory (s : State) (i : Instr) (guarded : Bool) (t : Trap) : (s.tileTrap i guarded t).memory = s.memory := by
  simp [State.tileTrap]

theorem State.tileWave_memory {s : State} {body : Env → Group → List Env → Tile → TileEffect}
    (hbody : ∀ e g es t u, body e g es t = .done u → u.memory = s.memory) (i : Instr) (name : Nat) (sync : Bool) :
    (s.tileWave i name sync body).memory = s.memory := by
  refine State.around_keeps (P := (· = s.memory)) (fun s' hs' => ?_) rfl i
  dsimp only
  (repeat' split) <;> try simpa using hs'
  next h => simpa using hbody _ _ _ _ _ h

@[simp] theorem State.tileItems_memory (s : State) (i : Instr) (name : Nat) (body : Env → Tile → Ending) :
    (s.tileItems i name body).memory = s.memory := by
  refine State.foldWave_memory (fun e s => State.withGroup_memory (fun g => ?_) _) ..
  (repeat' split) <;> simp

@[simp] theorem State.queueOp_memory (s : State) (gid name : Nat) (ps : List Env) (op : MatrixOp) : (s.queueOp gid name ps op).memory = s.memory :=
  State.foldl_memory (fun s _ => s.modItem_memory ..) ..

@[simp] theorem State.recordSpan_memory (s : State) (e : Env) (x n : Nat) (write : Bool) : (s.recordSpan e x n write).memory = s.memory := by
  simp [State.recordSpan]

@[simp] theorem State.spadFill_memory (s : State) (e : Env) (x : Nat) (bs : List W8) : (s.spadFill e x bs).memory = s.memory := by
  simp [State.spadFill]

@[simp] theorem fillRows_memory (i : Instr) (o : RowsForm) (f : Bool → W32 → W32 → W32 × BitVec 5) (reads : Bool) (s : State) :
    (fillRows i o f reads s).memory = s.memory := by
  refine State.tileWave_memory (fun e g es t u h => ?_) ..
  dsimp only at h
  repeat' split at h
  all_goals cases h
  rw [State.raiseNow_memory, State.modTile_memory]
  exact State.foldl_memory (fun s r => s.recordSpan_memory ..) ..

@[simp] theorem State.retireMatrix_memory (s : State) (gid : Nat) (ops : List MatrixOp) : (s.retireMatrix gid ops).memory = s.memory := by
  unfold State.retireMatrix
  split
  · rfl
  · exact State.foldl_memory (fun s _ => s.modItem_memory ..) ..

@[simp] theorem State.failTile_memory (s : State) (gid name : Nat) (op : MatrixOp) (rest : List MatrixOp) (cause reason : Nat) (addr : W64) :
    (s.failTile gid name op rest cause reason addr).memory = s.memory := by
  simp [State.failTile]

@[simp] theorem State.runStep_memory (s : State) (gid : Nat) (g : Group) (name : Nat) (t : Tile) (op : MatrixOp) (rest : List MatrixOp)
    (images : List (Option (List W8))) (stop : Option (Nat × W64)) : (s.runStep gid g name t op rest images stop).memory = s.memory := by
  unfold State.runStep
  (repeat' split) <;> simp

/-! ### Acts -/

@[simp] theorem State.countCorrected_memory (s : State) (array : Nat) : (s.countCorrected array).memory = s.memory := rfl

@[simp] theorem State.dropCopy_memory (s : State) (cluster line : Nat) (parity : Bool) : (s.dropCopy cluster line parity).memory = s.memory := by
  simp [State.dropCopy]

@[simp] theorem State.cleanEvict_memory (s : State) (line : Nat) (l : L2Line) : (s.cleanEvict line l).memory = s.memory := by
  simp [State.cleanEvict]

@[simp] theorem State.upset_memory (s : State) (n : Upset) : (s.upset n).memory = s.memory := by
  unfold State.upset
  (repeat' split) <;> simp

/-! ### Suspend -/

@[simp] theorem State.beginSave_memory (s : State) (ctx : Nat) (a : Asker) (area : W64) (size via : Nat) :
    (s.beginSave ctx a area size via).memory = s.memory := by
  simp [State.beginSave]

@[simp] theorem State.chargeMarred_memory (s : State) (ctx : Nat) : (s.chargeMarred ctx).memory = s.memory := by simp [State.chargeMarred]
@[simp] theorem State.keep_memory (s : State) (ctx : Nat) : (s.keep ctx).memory = s.memory := rfl
@[simp] theorem State.clearSaved_memory (s : State) (ctx : Nat) : (s.clearSaved ctx).memory = s.memory := rfl
@[simp] theorem State.recordSave_memory (s : State) (ctx : Nat) : (s.recordSave ctx).memory = s.memory := by simp [State.recordSave]

@[simp] theorem State.abandonSave_memory (s : State) (id : Nat) (p : Pending) : (s.abandonSave id p).memory = s.memory := by
  simp [State.abandonSave]

@[simp] theorem State.finishSave_memory (s : State) (id : Nat) (p : Pending) (image : List W8) : (s.finishSave id p image).memory = s.memory := by
  simp [State.finishSave]

/-! ### Restore -/

@[simp] theorem State.rejoinGang_memory (s : State) (ctx kh : Nat) (k : Kernel) : (s.rejoinGang ctx kh k).memory = s.memory := by
  simp only [State.rejoinGang]
  (repeat' split) <;> simp [*]

@[simp] theorem State.restoreKernel_memory (s : State) (ctx krec : Nat) (first : Bool) (b : List W8) (d : Except Nat Descriptor) :
    (s.restoreKernel ctx krec first b d).1.memory = s.memory := by
  unfold State.restoreKernel
  (repeat' split) <;> simp

@[simp] theorem State.restoreKernels_memory (s : State) (ctx : Nat) (first : Bool) (l : List (Nat × List W8 × Except Nat Descriptor)) :
    (s.restoreKernels ctx first l).1.memory = s.memory := by
  induction l generalizing s with
  | nil => rfl
  | cons p l ih =>
    unfold State.restoreKernels
    split <;> simp [ih]

@[simp] theorem State.restoreLanding_memory (s : State) (kh : Nat) (k : Kernel) (b : List W8) : (s.restoreLanding kh k b).memory = s.memory := by
  simp only [State.restoreLanding]
  (repeat' split) <;> simp [*]

@[simp] theorem State.restoreGroups_memory (s : State) (ctx : Nat) (p : ParsedImage) (ds : List (Except Nat Descriptor)) (khs : List (Nat × Nat)) :
    (s.restoreGroups ctx p ds khs).memory = s.memory := by
  refine State.foldl_memory (fun s x => ?_) ..
  grind [State.restoreLanding_memory]

@[simp] theorem State.unpark_memory (s : State) (ctx : Nat) (digest : List W8) (khs : List (Nat × Nat)) :
    (s.unpark ctx digest khs).memory = s.memory := rfl

@[simp] theorem State.seatItems_memory (s : State) (gid core : Nat) (items : Table Item) : (s.seatItems gid core items).memory = s.memory :=
  State.foldl_memory (fun s _ => s.modGroup_memory ..) ..

@[simp] theorem State.requeue_memory (s : State) (gid : Nat) (k : Kernel) (cs : List (List W8)) (c : List W8) :
    (s.requeue gid k cs c).memory = s.memory := by
  simp only [State.requeue]
  (repeat' split) <;> simp [*]

/-! ### Contexts -/

@[simp] theorem State.awaitResume_memory (s : State) (ctx : Nat) (a : Asker) (area : W64) (size via : Nat) :
    (s.awaitResume ctx a area size via).memory = s.memory := rfl

@[simp] theorem State.sendAllHeld_memory (s : State) (ctx : Nat) : (s.sendAllHeld ctx).memory = s.memory := by simp [State.sendAllHeld]
@[simp] theorem State.stopContext_memory (s : State) (ctx : Nat) : (s.stopContext ctx).memory = s.memory := by simp [State.stopContext]
@[simp] theorem State.endSaves_memory (s : State) (ctx : Nat) : (s.endSaves ctx).memory = s.memory := by simp [State.endSaves]

@[simp] theorem State.beginKill_memory (s : State) (ctx : Nat) (a : Asker) : (s.beginKill ctx a).memory = s.memory := by
  simp [State.beginKill]

@[simp] theorem State.sweepKey_memory (s : State) (key : Nat) : (s.sweepKey key).memory = s.memory := by simp [State.sweepKey]

/-- The state that an event raised in a context leaves. -/
def Raised.state : Raised → State
  | .ended _ s => s
  | .waits _ s => s

@[simp] theorem State.raiseSave_memory (s : State) (e : Env) (ctx t : Nat) (area : W64) (size : Nat) :
    (s.raiseSave e ctx t area size).state.memory = s.memory := by
  unfold State.raiseSave
  (repeat' split) <;> simp [Raised.state]

@[simp] theorem State.raiseKill_memory (s : State) (e : Env) (t : Nat) : (s.raiseKill e t).state.memory = s.memory := by
  simp [State.raiseKill, Raised.state]

theorem contextForm_memory {raise : Env → Nat → Nat → W64 → Nat → State → Raised} (hraise : ∀ e c t a n s, (raise e c t a n s).state.memory = s.memory)
    (i : Instr) (o : Form) (area : Option Nat) (e : Env) (s : State) : (contextForm i o area raise e s).memory = s.memory := by
  refine State.withGroup_memory (fun g => ?_) _
  grind [Env.finish_memory, Env.await_memory, Env.giveStatus_memory, Raised.state]

/-! ### CrossLane -/

@[simp] theorem State.shuffle_memory (s : State) (i : Instr) (o : ShuffleForm) (kind : Shuffle) : (s.shuffle i o kind).memory = s.memory := by
  simp [State.shuffle]

end Sys2Proof.Machine
end

section
/-! PROOFS. What writes physical memory keeps its canonical form (12 R250, R253, R276): lines,
accesses, stacks, and what firmware reads and writes. -/

namespace Sys2Proof.Machine

/-- A state whose memory is that of a canonical one is canonical. -/
theorem State.Inv.congr {s t : State} (h : s.Inv) (hm : t.memory = s.memory) : t.Inv := by
  unfold State.Inv
  rw [hm]
  exact h

theorem State.Inv.ite {c : Prop} [Decidable c] {a b : State} (ha : a.Inv) (hb : b.Inv) : (if c then a else b).Inv := by
  split
  · exact ha
  · exact hb

theorem State.Inv.of_fst {α : Type} {p : State × α} {t : State} {x : α} (e : p = (t, x)) (h : p.1.Inv) : t.Inv := by
  rwa [e] at h

theorem State.Inv.fst_ite {α : Type} {c : Prop} [Decidable c] {a b : State × α} (ha : a.1.Inv) (hb : b.1.Inv) : (if c then a else b).1.Inv := by
  split
  · exact ha
  · exact hb

theorem State.foldl_inv {α : Type} {f : State → α → State} (hf : ∀ s a, s.Inv → (f s a).Inv) (l : List α)
    {s : State} (h : s.Inv) : (l.foldl f s).Inv :=
  State.foldl_keeps (P := fun m => m.wf = true) hf l h

theorem State.foldl_fst_inv {α β : Type} {f : State × β → α → State × β} (hf : ∀ r a, r.1.Inv → (f r a).1.Inv) (l : List α) :
    ∀ {r : State × β}, r.1.Inv → (l.foldl f r).1.Inv := by
  induction l with
  | nil => exact fun h => h
  | cons a l ih => exact fun h => ih (hf _ a h)

theorem State.withGroup_inv {s : State} {f : Group → State} (h : s.Inv) (hf : ∀ g, (f g).Inv) (gid : Nat) : (s.withGroup gid f).Inv := by
  unfold State.withGroup
  split
  · exact hf _
  · exact h

theorem State.foldWave_inv {body : Env → State → State} (hbody : ∀ e s, s.Inv → (body e s).Inv) (i : Instr) (priv : Bool)
    {s : State} (h : s.Inv) : (s.foldWave i priv body).Inv :=
  State.foldWave_keeps (P := fun m => m.wf = true) hbody i priv h

theorem State.commitWave_inv {body : Env → State → State} (hbody : ∀ e s, s.Inv → (body e s).Inv) (i : Instr) (priv : Bool)
    {s : State} (h : s.Inv) : (s.commitWave i priv body).Inv :=
  State.commitWave_keeps (P := fun m => m.wf = true) hbody i priv h

/-! ### Lines -/

theorem State.physWrite_inv {s : State} (h : s.Inv) (a : Nat) (bs : List W8) : (s.physWrite a bs).Inv := Memory.write_wf h 0 a bs

theorem State.writeBackHalf_inv {s : State} (h : s.Inv) (pa : Nat) (l : L2Line) (n : Nat) : (s.writeBackHalf pa l n).Inv := by
  have hwritten : ∀ a bs b, ((s.memory.write l.key a bs).setPoison (lineOf pa) b).wf = true := fun a bs b =>
    Memory.setPoison_wf (Memory.write_wf h l.key a bs) (lineOf pa) b
  have hkept : s.memory.wf = true := h
  unfold State.writeBackHalf State.Inv
  split
  · dsimp only
    (repeat' split) <;> simp [hkept, hwritten]
  · exact h

theorem State.writeBackCxl_inv {s : State} (h : s.Inv) (pa : Nat) (l : L2Line) : (s.writeBackCxl pa l).Inv :=
  State.writeBackHalf_inv (State.writeBackHalf_inv h pa l 0) pa l 1

theorem State.underKey_inv {s : State} (h : s.Inv) (slice pa tag : Nat) : (s.underKey slice pa tag).1.Inv := by
  have hback := State.writeBackCxl_inv h pa (s.l2At slice pa)
  simp only [State.underKey]
  (repeat' split)
  · exact h
  · exact hback.congr (by simp)
  · exact h.congr (by simp)

/-- The state that a try to serve leaves. -/
def Service.state : Service → State
  | .notYet s => s
  | .served s _ _ _ => s
  | .poisoned s => s

theorem State.readAt_inv {s : State} (h : s.Inv) (slice pa n key : Nat) (view : Option Nat) : (s.readAt slice pa n key view).state.Inv := by
  have hkey := fun slice => State.underKey_inv h slice pa (s.tagAt pa key)
  simp only [State.readAt]
  split
  · exact h
  · split <;> exact h
  · split
    · exact h
    · split
      · split
        · exact hkey _
        · next hno => exact (hkey _).congr (State.cxlHeld_no hno)
        · (repeat' split) <;> exact hkey _
      · (repeat' split) <;> exact hkey _

theorem State.writeAt_inv {s : State} (h : s.Inv) (slice pa key : Nat) (bs : List W8) (view : Nat) : (s.writeAt slice pa key bs view).state.Inv := by
  have hkey := fun slice => State.underKey_inv h slice pa (s.tagAt pa key)
  simp only [State.writeAt]
  split
  · exact h
  · split
    · exact h
    · exact Memory.store_wf h 0 pa bs
    · split
      · exact h
      · split
        · split
          · exact hkey _
          · next hno => exact (hkey _).congr (State.cxlHeld_no hno)
          · exact hkey _
        · exact Memory.store_wf (hkey _) ..

theorem State.wordAt_inv {s : State} (h : s.Inv) (pa key : Nat) : (s.wordAt pa key).state.Inv := by
  have hkey := State.underKey_inv h (homeSlice pa) pa (s.tagAt pa key)
  simp only [State.wordAt]
  split
  · split
    · exact hkey
    · next hno => exact hkey.congr (State.cxlHeld_no hno)
    · split <;> exact hkey
  · split <;> exact h
  · split <;> exact h
  · exact h

theorem State.poisonLine_inv {s : State} (h : s.Inv) (pa : Nat) : (s.poisonLine pa).Inv := by
  unfold State.poisonLine
  split
  · exact h
  · exact Memory.setPoison_wf h (lineOf pa) true

/-! ### Accesses of items -/

theorem State.serveLoad_inv {s : State} (h : s.Inv) (id : Nat) (a : Access) : (s.serveLoad id a).Inv := by
  have hread := State.readAt_inv h (servingSlice (dieOfCore a.core) a.pa) a.pa a.bytes a.key (if a.kind = .uniform then none else some a.view)
  unfold State.serveLoad
  extract_lets +onlyGivenNames cluster tag near refill hit
  clear_value near refill
  cases hit with
  | some l => exact .ite h (h.congr (by simp))
  | none =>
    refine .ite (h.congr (by simp)) (.ite h ?_)
    dsimp only
    cases hr : s.readAt _ _ _ _ _ with
    | notYet t => rwa [hr] at hread
    | poisoned t =>
      rw [hr] at hread
      exact .ite (hread.congr (by simp [Service.state])) hread
    | served t data wts lend =>
      rw [hr] at hread
      exact hread.congr (by simp [Service.state])

theorem State.serveStore_inv {s : State} (h : s.Inv) (id : Nat) (a : Access) : (s.serveStore id a).Inv := by
  have hwrite := State.writeAt_inv h (servingSlice (dieOfCore a.core) a.pa) a.pa a.key a.data a.view
  unfold State.serveStore
  refine .ite h ?_
  dsimp only
  cases hr : s.writeAt _ _ _ _ _ with
  | notYet t => rwa [hr] at hwrite
  | poisoned t => rwa [hr] at hwrite
  | served t data wts lend =>
    rw [hr] at hwrite
    exact hwrite.congr (by simp [Service.state])

theorem State.serveAtomic_inv {s : State} (h : s.Inv) (id : Nat) (a : Access) : (s.serveAtomic id a).Inv := by
  unfold State.serveAtomic
  obtain ⟨slice, inL1⟩ := s.atomicPlace a
  have hread := State.readAt_inv h slice a.pa a.bytes a.key none
  refine .ite h ?_
  dsimp only
  split
  · next hno =>
    split at hno
    · exact h.congr (State.cxlHeld_no hno)
    · cases hno
  · exact .ite (h.congr (by simp)) h
  · cases hr : s.readAt _ _ _ _ _ with
    | notYet t => rwa [hr] at hread
    | poisoned t =>
      rw [hr] at hread
      exact .ite (hread.congr (by simp [Service.state])) hread
    | served t old wts lend =>
      rw [hr] at hread
      have hwrite := State.writeAt_inv hread slice a.pa a.key (atomicBytes a.kind old a.data a.compare).1 a.view
      dsimp only
      cases hw : t.writeAt _ _ _ _ _ with
      | notYet u => rwa [Service.state, hw] at hwrite
      | poisoned u => rwa [Service.state, hw] at hwrite
      | served u _ stamp _ =>
        rw [Service.state, hw] at hwrite
        exact hwrite.congr (by simp [Service.state])

theorem State.finishAccess_inv {s : State} (h : s.Inv) (id : Nat) (a : Access) : (s.finishAccess id a).Inv := by
  unfold State.finishAccess
  refine .ite h ?_
  dsimp only
  split
  · exact h
  · exact h
  · exact Memory.store_wf h ..
  · exact Memory.store_wf h ..

theorem State.waitvRead_inv {s : State} (h : s.Inv) (e : Env) (g : Group) (o : WaitvForm) (ea : W64) (pa : Nat) (again last : Bool) :
    (s.waitvRead e g o ea pa again last).Inv := by
  have hword := State.wordAt_inv h pa (s.context g.ctx).key
  unfold State.waitvRead
  extract_lets +onlyGivenNames i key cls hind r party n logged sleep
  clear_value logged n
  refine .ite h (.ite (h.congr (by simp)) (.ite h ?_))
  cases hr : s.wordAt pa key with
  | notYet t => rwa [hr] at hword
  | poisoned t => rwa [hr] at hword
  | served t bs wts lend =>
    rw [hr] at hword
    dsimp only
    split
    · cases logged with
      | some x => exact hword.congr (by simp [Service.state])
      | none => exact hword.congr (by simp [Service.state])
    · exact .ite (hword.congr (by simp [Service.state])) (.ite (hword.congr (by simp [Service.state])) (hword.congr (by simp [Service.state])))

/-! ### Stacks of items -/

theorem StackWork.inv_of_ok {α : Type} {r : StackWork α} {x : α} {t : State} (hr : r = .ok x t) (h : r.state.Inv) : t.Inv := by
  rwa [hr] at h

theorem State.stackWrite_inv (g : Group) (it : Item) (counted : Bool) (l : List (W64 × W32)) :
    ∀ {s : State}, s.Inv → (s.stackWrite g it counted l).state.Inv := by
  induction l with
  | nil => exact fun h => h
  | cons w rest ih =>
    intro s h
    have hreach := h.congr (State.stackReach_memory s g w.1 1)
    unfold State.stackWrite
    cases hr : s.stackReach g w.1 1 with
    | trap _ t => rwa [hr] at hreach
    | park _ _ t => rwa [hr] at hreach
    | notYet t => rwa [hr] at hreach
    | ok pa t =>
      rw [hr] at hreach
      dsimp only
      split
      · exact hreach
      · have hwrite := State.writeAt_inv (State.Inv.congr hreach (State.bringTokens_memory (servingSlice (dieOfCore g.core) pa) pa true 4 t))
          (servingSlice (dieOfCore g.core) pa) pa (t.context g.ctx).key (leBytes 4 w.2.toNat) it.view
        split <;> rename_i hw <;> rw [hw] at hwrite
        · exact hwrite
        · exact hwrite
        · exact ih (hwrite.congr (by simp [Service.state]))

theorem State.stackRead_inv (g : Group) (it : Item) (counted : Bool) (l : List W64) :
    ∀ {s : State}, s.Inv → (s.stackRead g it counted l).state.Inv := by
  induction l with
  | nil => exact fun h => h
  | cons va rest ih =>
    intro s h
    have hreach := h.congr (State.stackReach_memory s g va 0)
    unfold State.stackRead
    cases hr : s.stackReach g va 0 with
    | trap _ t => rwa [hr] at hreach
    | park _ _ t => rwa [hr] at hreach
    | notYet t => rwa [hr] at hreach
    | ok pa t =>
      rw [hr] at hreach
      dsimp only
      split
      · exact hreach
      · have hread := State.readAt_inv (State.Inv.congr hreach (State.bringTokens_memory (servingSlice (dieOfCore g.core) pa) pa false 4 t))
          (servingSlice (dieOfCore g.core) pa) pa 4 (t.context g.ctx).key none
        split <;> rename_i hw <;> rw [hw] at hread
        · exact hread
        · exact hread
        · next u bs wts lend =>
          have hrest := fun {v : State} (hv : v.memory = u.memory) => ih (State.Inv.congr hread hv)
          split
          · next hx => exact StackWork.inv_of_ok hx (hrest (by simp))
          · exact hrest (by simp)

theorem State.spillWords_inv {s : State} (h : s.Inv) (g : Group) (e : Env) (ws : List (W64 × W32)) : (s.spillWords g e ws).state.Inv := by
  have hreach := h.congr (State.reachEach_memory s g (ws.map Prod.fst))
  unfold State.spillWords
  split
  · exact State.stackWrite_inv g e.it true ws h
  · split <;> rename_i hr <;> rw [hr] at hreach
    · exact hreach.congr (State.foldl_memory (fun s _ => s.holdWord_memory _ _) _ _)
    · exact hreach
    · exact hreach
    · exact hreach

theorem State.spillFor_inv {s : State} (h : s.Inv) (g : Group) (e : Env) (need : Nat) : (s.spillFor g e need).state.Inv :=
  State.spillWords_inv h ..

theorem State.fillFor_inv {s : State} (h : s.Inv) (g : Group) (e : Env) : (s.fillFor g e).state.Inv := by
  unfold State.fillFor
  grind [StackWork.state, State.stackRead_inv]

theorem State.readEach_inv (g : Group) (it : Item) (l : List W64) : ∀ {s : State}, s.Inv → (s.readEach g it l).state.Inv := by
  induction l with
  | nil => exact fun h => h
  | cons va rest ih =>
    intro s h
    unfold State.readEach
    grind [StackWork.state, State.stackRead_inv]

theorem State.fillFrame_inv {s : State} (h : s.Inv) (gid slot : Nat) (g : Group) (it : Item) : (s.fillFrame gid slot g it).Inv := by
  have hread := State.readEach_inv g it ((upTo it.frame.toNat).map (fun j => it.stack + BitVec.ofNat 64 (4 * j))) h
  unfold State.fillFrame
  grind [State.Inv, StackWork.state, State.modItem_memory]

theorem State.saveStack_inv {s : State} (h : s.Inv) (g : Group) (it : Item) (counted : Bool) : (s.saveStack g it counted).state.Inv := by
  unfold State.saveStack
  grind [StackWork.state, State.stackWrite_inv]

theorem State.migrate_inv {s : State} (h : s.Inv) (e : Env) (g : Group) (o : Form) (va : W64) (pa : Nat) : (s.migrate e g o va pa).Inv := by
  have hsave := State.saveStack_inv h g e.it true
  unfold State.migrate
  grind [State.Inv, StackWork.state, Env.finish_memory, State.fence_memory, State.fresh_memory, State.noteEvent_memory, State.modGroup_memory]

/-! ### Firmware's reads and writes -/

/-- A read by firmware leaves only canonical states. -/
def FirmRead.Inv : FirmRead → Prop
  | .bytes _ s => s.Inv
  | .nomap => True
  | .poisoned => True
  | .notYet s => s.Inv

/-- A write by firmware leaves only canonical states. -/
def FirmWrite.Inv : FirmWrite → Prop
  | .done s => s.Inv
  | .denied => True
  | .poisoned => True
  | .notYet s => s.Inv

theorem State.firmPieces_inv (ctx : Nat) (l : List (W64 × Nat)) : ∀ {s : State}, s.Inv → (s.firmPieces ctx l).Inv := by
  induction l with
  | nil => exact fun h => h
  | cons w rest ih =>
    intro s h
    unfold State.firmPieces
    split
    · trivial
    · next pa hpa =>
      have hread := State.readAt_inv (h.congr (State.bringTokens_memory (homeSlice pa) pa false 4 s)) (homeSlice pa) pa w.2 (s.context ctx).key none
      split <;> rename_i hr <;> rw [hr] at hread
      · exact hread
      · trivial
      · next t bs _ _ =>
        have hrest := ih hread
        split
        · next hx => rwa [Service.state, hx] at hrest
        · exact hrest

theorem State.firmRead_inv {s : State} (h : s.Inv) (ctx : Nat) (va : W64) (n : Nat) : (s.firmRead ctx va n).Inv := by
  unfold State.firmRead
  split
  · exact State.firmPieces_inv ctx _ h
  · trivial

theorem State.firmStore_inv {s : State} (h : s.Inv) (ctx : Nat) (va : W64) (bs : List W8) : (s.firmStore ctx va bs).Inv := by
  unfold State.firmStore
  split
  · trivial
  · next pa hpa =>
    have hwrite := State.writeAt_inv (h.congr (State.bringTokens_memory (homeSlice pa) pa true 4 s)) (homeSlice pa) pa
      ((State.bringTokens (homeSlice pa) pa true 4 s).context ctx).key bs 0
    dsimp only
    split <;> rename_i hr <;> rw [hr] at hwrite
    · exact hwrite
    · trivial
    · exact State.Inv.congr hwrite (by simp [Service.state])

theorem State.firmWritePieces_inv (ctx : Nat) (l : List (W64 × List W8)) : ∀ {s : State}, s.Inv → (s.firmWritePieces ctx l).Inv := by
  induction l with
  | nil => exact fun h => h
  | cons w rest ih =>
    intro s h
    have hstore := State.firmStore_inv h ctx w.1 w.2
    unfold State.firmWritePieces
    split
    · next hr =>
      rw [hr] at hstore
      exact ih hstore
    · exact hstore

theorem State.firmWrite_inv {s : State} (h : s.Inv) (ctx : Nat) (va : W64) (bs : List W8) : (s.firmWrite ctx va bs).Inv := by
  unfold State.firmWrite
  split
  · exact State.firmWritePieces_inv ctx _ h
  · trivial

theorem State.firmAdd_inv {s : State} (h : s.Inv) (ctx : Nat) (party va : W64) : (s.firmAdd ctx party va).Inv := by
  have hread := State.firmRead_inv h ctx va 8
  unfold State.firmAdd
  split
  · trivial
  · dsimp only
    split
    · exact h
    · split <;> rename_i hr <;> rw [hr] at hread
      · trivial
      · trivial
      · exact hread
      · next bs t =>
        have hstore := State.firmStore_inv hread ctx va (leBytes 8 (leNat bs + 1))
        split
        · next hw =>
          rw [hw] at hstore
          exact State.Inv.congr hstore (by simp)
        · exact hstore

/-- A descriptor's read leaves only canonical states. -/
def DescRead.Inv : DescRead → Prop
  | .ok _ s => s.Inv
  | .refused _ => True
  | .notYet s => s.Inv

theorem State.readDescriptor_inv {s : State} (h : s.Inv) (ctx : Nat) (va : W64) : (s.readDescriptor ctx va).Inv := by
  have hread := State.firmRead_inv h ctx va 512
  unfold State.readDescriptor
  split <;> rename_i hr <;> rw [hr] at hread
  · trivial
  · trivial
  · exact hread
  · next bs t =>
    have hword := State.firmRead_inv hread ctx (va + word64 bs 0x28) 8
    split
    · trivial
    · split <;> rename_i hw <;> rw [hw] at hword
      · trivial
      · trivial
      · exact hword
      · split
        · exact hword
        · trivial

/-! ### Hindcast's ring -/

theorem State.writeChunk_inv {s : State} (h : s.Inv) (ctx : Nat) (c : ChunkRecord) : (s.writeChunk ctx c).Inv := by
  unfold State.writeChunk
  extract_lets +onlyGivenNames x hc size c bs
  cases hc.place size bs.length with
  | mk pad tail =>
    dsimp only
    refine State.Inv.congr (State.physWrite_inv (.ite h (State.physWrite_inv h ..)) ..) (State.modHind_memory ..)

theorem State.spill_inv {s : State} (h : s.Inv) (ctx : Nat) : (State.spill ctx s).Inv := by
  unfold State.spill
  dsimp only
  split
  · exact h
  · exact .ite (State.writeChunk_inv h ..) (.ite (h.congr (by simp)) h)

theorem State.beginSegment_inv {s : State} (h : s.Inv) (ctx : Nat) : (s.beginSegment ctx).Inv :=
  State.Inv.congr (.ite (State.foldl_inv (fun _ _ ht => State.spill_inv ht ctx) _ h) h) (State.modHind_memory ..)

/-! ### Launches -/

/-- The state in which an item's read ends. -/
def ItemRead.state : ItemRead → State
  | .bytes _ s => s
  | .trap _ s => s
  | .wait _ s => s

theorem ItemRead.inv_of_bytes {r : ItemRead} {bs : List W8} {t : State} (hr : r = .bytes bs t) (h : r.state.Inv) : t.Inv := by
  rwa [hr] at h

theorem State.itemRead_inv (g : Group) (it : Item) (l : List (W64 × Nat)) : ∀ {s : State}, s.Inv → (s.itemRead g it l).state.Inv := by
  induction l with
  | nil => exact fun h => h
  | cons w rest ih =>
    intro s h
    unfold State.itemRead
    split
    · exact h
    · next hmiss => exact h.congr (State.translate_miss hmiss)
    · next pa hpa =>
      dsimp only
      split
      · exact h
      · split
        · exact h
        · have hread := State.readAt_inv (h.congr (State.bringTokens_memory (servingSlice (dieOfCore g.core) pa) pa false 4 s))
            (servingSlice (dieOfCore g.core) pa) pa w.2 (s.context g.ctx).key none
          split <;> rename_i hr <;> rw [hr] at hread
          · exact hread
          · exact hread
          · next u bs wts lend =>
            have hrest := fun {v : State} (hv : v.memory = u.memory) => ih (State.Inv.congr hread hv)
            split
            · next hx => exact ItemRead.inv_of_bytes hx (hrest (by simp))
            · exact hrest (by simp)

theorem State.launchAppend_inv {s : State} (h : s.Inv) (ctx n : Nat) (q : LaunchQueue) (rec_ : List W8) : (s.launchAppend ctx n q rec_).Inv := by
  have hwrite := State.firmWrite_inv h ctx (q.slotVa q.tail) rec_
  unfold State.launchAppend
  split
  · next hr =>
    rw [hr] at hwrite
    exact hwrite
  · exact hwrite

/-- A read of dependences leaves only canonical states. -/
def DepRead.Inv : DepRead → Prop
  | .words _ s => s.Inv
  | .refused _ => True
  | .notYet s => s.Inv

theorem State.readDeps_inv (ctx : Nat) (l : List (W64 × Nat)) : ∀ {s : State}, s.Inv → (s.readDeps ctx l).Inv := by
  induction l with
  | nil => exact fun h => h
  | cons w rest ih =>
    intro s h
    have hread := State.firmRead_inv h ctx w.1 16
    unfold State.readDeps
    split <;> rename_i hr <;> rw [hr] at hread
    · trivial
    · have hrest := ih h
      split
      · trivial
      · next hx => rwa [hx] at hrest
      · trivial
    · exact hread
    · have hrest := ih hread
      split
      · next hx => rwa [hx] at hrest
      · exact hrest

/-- The state in which the look at a queue's head ends. -/
def Head.state : Head → State
  | .refused _ _ s => s
  | .waiting s => s
  | .ready _ _ s => s
  | .notYet s => s

theorem State.headDeps_inv {s : State} (h : s.Inv) (ctx : Nat) (r : LaunchRecord) (d : Descriptor) : (s.headDeps ctx r d).state.Inv := by
  have hdeps := State.readDeps_inv ctx r.deps h
  unfold State.headDeps
  split <;> rename_i hr <;> rw [hr] at hdeps
  · exact h
  · exact hdeps
  · (repeat' split) <;> exact hdeps

theorem State.readHead_inv {s : State} (h : s.Inv) (q : LaunchQueue) : (s.readHead q).state.Inv := by
  have hread := State.firmRead_inv h q.owner (q.slotVa q.head) 256
  unfold State.readHead
  split <;> rename_i hr <;> rw [hr] at hread
  · exact h
  · exact h
  · exact hread
  · next bs t =>
    have hdesc := State.readDescriptor_inv hread q.owner (parseRecord bs).desc
    dsimp only
    split
    · exact hread
    · split <;> rename_i hd <;> rw [hd] at hdesc
      · exact hread
      · exact hdesc
      · exact State.headDeps_inv hdesc ..

theorem State.examine_inv (l : List Nat) : ∀ {s : State}, s.Inv → (s.examine l).1.Inv := by
  induction l with
  | nil => exact fun h => h
  | cons n rest ih =>
    intro s h
    have hhead := State.readHead_inv h (Table.read LaunchQueue.empty s.queues n)
    unfold State.examine
    dsimp only
    split
    · exact ih h
    · split <;> rename_i hr <;> rw [hr] at hhead
      · exact ih (hhead.congr (State.refuseHead_memory ..))
      · exact ih hhead
      · exact ih hhead
      · exact ih hhead

end Sys2Proof.Machine
end

section
/-! PROOFS. What writes physical memory keeps its canonical form: launches, the copy engines' chunks, and what arrives from
another device. -/

namespace Sys2Proof.Machine

/-! ### Launches -/

theorem launchForm_inv (o : Form) (e : Env) {s : State} (h : s.Inv) : (launchForm o e s).Inv := by
  refine State.withGroup_inv h (fun g => .ite (h.congr (by simp)) (.ite (h.congr (by simp)) ?_)) _
  dsimp only
  have hfence : (s.fence e.gid e.slot false true false .dev).Inv := h.congr (by simp)
  generalize s.fence e.gid e.slot false true false .dev = u at hfence ⊢
  generalize e.refresh u = e
  refine .ite (hfence.congr (by simp)) (.ite (hfence.congr (by simp)) ?_)
  have hread := State.itemRead_inv g e.it (piecesAt (e.it.readV2 o.a) 256) hfence
  cases hr : u.itemRead g e.it (piecesAt (e.it.readV2 o.a) 256) with
  | trap x t => rwa [hr] at hread
  | wait w t =>
    rw [hr] at hread
    exact State.Inv.congr hread (by simp [ItemRead.state])
  | bytes rec_ t =>
    rw [hr] at hread
    have hlogged := fun src value detail => State.Inv.congr hread (State.loggedItemValue_memory t e.gid e.slot src value detail)
    dsimp only
    obtain ⟨st, place⟩ := t.launchStatus g.ctx (e.it.readV o.b).toNat rec_
    cases place with
    | none => exact hlogged _ _ _
    | some place =>
      obtain ⟨n, q⟩ := place
      dsimp only
      refine .ite (.ite (State.Inv.congr hread (by simp [ItemRead.state])) ?_) (hlogged _ _ _)
      have happend := State.launchAppend_inv (hlogged 3 (BitVec.ofNat 64 st) q.tail) g.ctx n q rec_
      split <;> rename_i hw
      · rwa [hw] at happend
      · exact State.Inv.congr hread (by simp [ItemRead.state])
      · exact hlogged _ _ _

/-! ### Chunks of the engines -/

theorem State.lineReady_inv {s : State} (h : s.Inv) (die ctx pa n : Nat) (write : Bool) : (s.lineReady die ctx pa n write).1.Inv := by
  have hbring := h.congr (State.bringTokens_memory (servingSlice die pa) pa write 4 s)
  unfold State.lineReady
  split
  · exact h
  · exact h
  · dsimp only
    generalize State.bringTokens (servingSlice die pa) pa write 4 s = u at hbring ⊢
    have hkey := State.underKey_inv hbring (homeSlice pa) pa (u.tagAt pa (u.context ctx).key)
    generalize u.underKey (homeSlice pa) pa (u.tagAt pa (u.context ctx).key) = r at hkey ⊢
    obtain ⟨t, l⟩ := r
    refine .fst_ite hbring ?_
    split
    · dsimp only
      split
      · exact hkey
      · exact hkey
      · next hno => exact hkey.congr (State.cxlHeld_no hno)
    · exact hbring

theorem State.linesReady_inv {s : State} (h : s.Inv) (die ctx : Nat) (as : List (ChunkAccess × Nat)) : (s.linesReady die ctx as).1.Inv :=
  State.foldl_fst_inv (fun _ a hr => State.lineReady_inv hr die ctx a.2 a.1.bytes a.1.write) as h

theorem State.readChunk_inv (die ctx : Nat) (party : Nat → Party) (l : List (ChunkAccess × Nat)) :
    ∀ {s : State} (n : Nat), s.Inv → (s.readChunk die ctx party n l).1.Inv := by
  induction l with
  | nil => exact fun _ h => h
  | cons w rest ih =>
    intro s n h
    have hread := State.readAt_inv h (servingSlice die w.2) w.2 w.1.bytes (s.context ctx).key none
    unfold State.readChunk
    dsimp only
    cases hr : s.readAt _ _ _ _ _ <;> rw [hr] at hread <;> exact ih (n + 1) (State.Inv.congr hread (State.recordAs_memory ..))

theorem State.writeChunkLines_inv (die ctx floor : Nat) (party : Nat → Party) (l : List (ChunkAccess × Nat)) :
    ∀ {s : State} (n : Nat) (bs : List W8) (bad : List Nat), s.Inv → (s.writeChunkLines die ctx floor party n l bs bad).1.Inv := by
  induction l with
  | nil => exact fun _ _ _ h => h
  | cons w rest ih =>
    intro s n bs bad h
    obtain ⟨a, pa⟩ := w
    have hwrite := State.writeAt_inv h (servingSlice die pa) pa (s.context ctx).key (bs.take a.bytes) floor
    unfold State.writeChunkLines
    extract_lets +onlyGivenNames slice words dead
    clear_value dead
    have hlanded : ∀ {t : State} (q : Prop) [Decidable q], t.Inv → (if q then t.poisonLine pa else t).Inv :=
      fun q _ ht => .ite (State.poisonLine_inv ht pa) ht
    cases hr : s.writeAt _ _ _ _ _ <;> rw [hr] at hwrite <;>
      exact ih (n + 1) _ _ (State.Inv.congr (hlanded _ hwrite) ((State.recordAs_memory ..).trans (State.recall_memory ..)))

theorem State.performChunk_inv {s : State} (h : s.Inv) (id j : Nat) (c : Command) (g : Group) (k : Kernel) (ch : Chunk) (away : Bool)
    (pas : List Nat) : (s.performChunk id j c g k ch away pas).Inv := by
  unfold State.performChunk
  extract_lets +onlyGivenNames party die
  split
  next t d hd =>
  have ht : t.Inv := by
    split at hd
    · exact .of_fst hd (h.congr (State.foldl_memory (fun s _ => s.recordAs_memory ..) _ _))
    · exact .of_fst hd (State.readChunk_inv die c.ctx party _ 0 h)
  extract_lets +onlyGivenNames nr
  have hwrite := State.writeChunkLines_inv die c.ctx c.floor party (ch.writes.zip (pas.drop ch.reads.length)) nr d.bytes d.bad ht
  generalize State.writeChunkLines t die c.ctx c.floor party nr (ch.writes.zip (pas.drop ch.reads.length)) d.bytes d.bad = r at hwrite ⊢
  obtain ⟨u, stamp, dropped⟩ := r
  dsimp only at hwrite ⊢
  exact .ite (.ite (hwrite.congr ((State.endChunk_memory ..).trans (State.sendChunk_memory ..))) (hwrite.congr (State.sendChunk_memory ..))) hwrite

theorem State.beginChunk_inv {s : State} (h : s.Inv) (command chunk : Nat) (c : Command) (g : Group) (k : Kernel) :
    (s.beginChunk command chunk c g k).Inv := by
  unfold State.beginChunk
  generalize State.chunkOf c g chunk = p
  obtain ⟨ch, away⟩ := p
  dsimp only
  refine .ite (h.congr (by simp)) (.ite h ?_)
  have hreach := h.congr (State.reachChunk_memory s c.die c.ctx (ch.reads ++ ch.writes))
  split <;> rename_i hr <;> rw [hr] at hreach
  · exact .ite (State.Inv.congr hreach (by simp [ChunkReach.state])) hreach
  · exact State.Inv.congr hreach (by simp [ChunkReach.state])
  · next pas t =>
    refine .ite hreach ?_
    have hready := State.linesReady_inv hreach c.die c.ctx ((ch.reads ++ ch.writes).zip pas)
    exact .ite hready (State.performChunk_inv (State.Inv.congr hready (by simp [ChunkReach.state])) ..)

theorem State.chunkBegun_inv {s : State} (h : s.Inv) (command chunk : Nat) : (s.chunkBegun command chunk).Inv := by
  unfold State.chunkBegun
  split
  · exact h
  · refine .ite h ?_
    split
    · exact State.beginChunk_inv h ..
    · exact h

theorem State.landGranule_inv {s : State} (h : s.Inv) (command chunk n : Nat) : (s.landGranule command chunk n).Inv := by
  have hbegun := State.chunkBegun_inv h command chunk
  unfold State.landGranule
  dsimp only
  split
  · exact hbegun.congr (by simp)
  · exact hbegun

/-! ### Packets -/

theorem State.onReserve_inv {s : State} (h : s.Inv) (m : ReserveMsg) : (s.onReserve m).Inv := by
  have hdesc := State.readDescriptor_inv h m.ctx m.desc
  unfold State.onReserve
  extract_lets +onlyGivenNames c answer
  have hanswer : ∀ t kind, t.Inv → (answer t kind).Inv := by
    intro t kind ht
    refine .ite ht ?_
    split
    · exact ht.congr (by simp)
    · exact ht
  refine .ite (hanswer s 2 h) ?_
  split
  · next hd _ _ =>
    rw [hd] at hdesc
    exact hanswer _ 1 (State.Inv.congr hdesc (by simp))
  · next hd =>
    rw [hd] at hdesc
    exact hdesc
  · exact hanswer s 2 h

theorem State.takeContent_inv {s : State} (h : s.Inv) (ctx : Nat) (c : Config.PacketContent) : (s.takeContent ctx c).Inv := by
  cases c with
  | reserve n toexp desc prio tag smask sval peers => exact State.onReserve_inv h _
  | credit n stage rank bar bytes =>
    simp only [State.takeContent]
    split
    · exact h.congr (landings_memory (fun r x => r.1.landPiece_memory r.2 x) _ _)
    · exact h
  | other => exact h
  | _ =>
    refine h.congr ?_
    simp only [State.takeContent]
    (repeat' split) <;> simp

theorem State.admitPacket_inv {s : State} (h : s.Inv) (p : HeldPacket) : (s.admitPacket p).Inv :=
  State.takeContent_inv (h.congr (State.foldl_memory (fun s _ => s.logEntry_memory ..) _ _)) ..

theorem State.packetArrives_inv {s : State} (h : s.Inv) (p : HeldPacket) : (s.packetArrives p).Inv :=
  .ite h (.ite (h.congr (State.modContext_memory ..)) (State.admitPacket_inv h p))

theorem State.replayArrival_inv {s : State} (h : s.Inv) (l : Nat) : (s.replayArrival l).Inv := by
  unfold State.replayArrival
  split
  · exact State.takeContent_inv (h.congr (State.modHind_memory ..)) ..
  · exact h

theorem State.linkDelivers_inv {s : State} (h : s.Inv) (l : Nat) : (s.linkDelivers l).Inv := by
  unfold State.linkDelivers
  split
  · exact State.admitPacket_inv (h.congr (State.modContext_memory ..)) _
  · exact State.replayArrival_inv h l

theorem State.packetReceived_inv {s : State} (h : s.Inv) (l : Nat) (hd : Header) (p : HeldPacket) : (s.packetReceived l hd p).Inv := by
  unfold State.packetReceived
  extract_lets +onlyGivenNames c seen
  refine .ite (h.congr (by simp)) (.ite h (.ite h (.ite (h.congr (by simp)) (.ite h (State.packetArrives_inv ?_ p)))))
  exact h

theorem State.flitAccepted_inv {s : State} (h : s.Inv) (l : Nat) (hd : Header) (bytes : List W8) : (s.flitAccepted l hd bytes).Inv := by
  unfold State.flitAccepted
  extract_lets +onlyGivenNames t
  have ht : t.Inv := h.congr (State.modLink_memory ..)
  refine .ite (ht.congr (by simp)) (.ite (.ite (ht.congr (by simp)) (ht.congr (by simp))) (.ite ht ?_))
  dsimp only
  split
  · exact State.packetReceived_inv (ht.congr (State.modLink_memory ..)) ..
  · exact ht.congr (State.modLink_memory ..)

end Sys2Proof.Machine
end

section
/-! PROOFS. What writes physical memory keeps its canonical form: the host's accesses, the matrix engine's images, and what
the L2 writes back. -/

namespace Sys2Proof.Machine

/-! ### The host's accesses -/

theorem State.writeBackWindow_inv {s : State} (h : s.Inv) (b : Nat) : (s.writeBackWindow b).Inv := by
  refine State.foldl_inv (fun t line ht => State.foldl_inv (fun u q hu => ?_) _ ht) _ h
  split
  · exact State.Inv.congr (State.writeBackCxl_inv hu _ _) (State.setL2_memory ..)
  · exact hu

theorem State.serveHost_inv {s : State} (h : s.Inv) (port : Nat) (a : HostAccess) : (s.serveHost port a).1.Inv := by
  unfold State.serveHost
  split
  · exact h.congr (State.answerPort_memory ..)
  · next pa hpa =>
    extract_lets +onlyGivenNames key t
    have ht : t.Inv := h.congr (State.bringTokens_memory ..)
    have hserved : (if a.write then t.writeAt (homeSlice pa) pa key a.data 0 else t.readAt (homeSlice pa) pa a.bytes key none).state.Inv := by
      split
      · exact State.writeAt_inv ht ..
      · exact State.readAt_inv ht ..
    split <;> rename_i hr <;> rw [hr] at hserved
    · next u data _ _ =>
      have hu : (if a.write then u.recall (lineOf pa) none else u).Inv := .ite (hserved.congr (State.recall_memory ..)) hserved
      exact State.Inv.congr (.ite (State.poisonLine_inv hu pa) hu) (State.answerPort_memory ..)
    · exact State.Inv.congr hserved (State.answerPort_memory ..)
    · exact hserved

theorem State.hostGoesOn_inv {s : State} (h : s.Inv) (port : Nat) : (s.hostGoesOn port).Inv := by
  unfold State.hostGoesOn
  split
  · exact h
  · next a rest _ =>
    have hserved := State.serveHost_inv h port a
    exact .ite (hserved.congr (State.modPort_memory ..)) hserved

theorem State.hostArrives_inv {s : State} (h : s.Inv) (port : Nat) (a : HostAccess) : (s.hostArrives port a).Inv := by
  have hserved := State.serveHost_inv h port a
  exact .ite h (.ite (.ite hserved (hserved.congr (State.modPort_memory ..))) (h.congr (State.modPort_memory ..)))

/-! ### The management window -/

theorem State.writeNearCfg_inv {s : State} (h : s.Inv) (x : W16) : (s.writeNearCfg x).Inv :=
  .ite (Memory.wf_filter h _ _) (h.congr (by simp))

theorem State.writeBlock_inv {s : State} (h : s.Inv) (offset n x : Nat) : (s.writeBlock offset n x).Inv := by
  unfold State.writeBlock
  dsimp only
  split
  case h_2 => exact State.writeNearCfg_inv h _
  all_goals exact h.congr (by simp)

/-! ### The matrix engine's images -/

/-- The state in which the fetch of an image ends. -/
def Fetching.state : Fetching → State
  | .ok _ s => s
  | .notYet s => s
  | .fail _ _ s => s
  | .stall _ s => s

theorem Fetching.inv_of_ok {r : Fetching} {bs : List W8} {t : State} (hr : r = .ok bs t) (h : r.state.Inv) : t.Inv := by
  rwa [hr] at h

theorem State.fetchLines_inv (g : Group) (party : W64) (n : Nat) : ∀ {s : State} (va : W64), s.Inv → (s.fetchLines g party va n).state.Inv := by
  induction n with
  | zero => exact fun _ h => h
  | succ n ih =>
    intro s va h
    have hreach := h.congr (State.engineTranslate_memory s (dieOfCore g.core) g.ctx va 0 false)
    unfold State.fetchLines
    split <;> rename_i hr <;> rw [hr] at hreach
    · exact hreach
    · exact hreach
    · next pa t =>
      dsimp only
      split
      · exact hreach
      · split
        · exact hreach
        · have hread := State.readAt_inv (State.Inv.congr hreach (State.bringTokens_memory (homeSlice pa) pa false 4 t)) (homeSlice pa) pa 128
            (t.context g.ctx).key none
          split <;> rename_i hw <;> rw [hw] at hread
          · exact hread
          · exact hread
          · next u bs wts lend =>
            have hrest := fun {v : State} (hv : v.memory = u.memory) => ih (va + 128) (State.Inv.congr hread hv)
            have hnoted : ((upTo 8).foldl (fun s j => s.recordAccess g.ctx (t.placeRecorder (homeSlice pa) pa) (pa / 16 + j) party 0 false)
                ((u.charge g.core g.ctx (t.coreClass g.core pa) 128).deactivate (homeSlice pa) (lineOf pa))).memory = u.memory :=
              (State.foldl_memory (fun s _ => s.recordAccess_memory ..) _ _).trans (by simp)
            split
            · next hx => exact Fetching.inv_of_ok hx (hrest hnoted)
            · exact hrest hnoted

theorem State.fetchImage_inv {s : State} (h : s.Inv) (gid : Nat) (g : Group) (op : MatrixOp) (fmt : Nat) (sp : Bool) (va : W64) :
    (s.fetchImage gid g op fmt sp va).state.Inv := by
  have hreach := h.congr (State.engineTranslate_memory s (dieOfCore g.core) g.ctx va 0 false)
  unfold State.fetchImage
  split <;> rename_i hr <;> rw [hr] at hreach
  · next pa t =>
    have hlines := fun n => State.fetchLines_inv g (t.opParty g op) n va hreach
    split
    · exact State.Inv.congr hreach (State.throttle_memory ..)
    · split
      · next hx =>
        have ht := Fetching.inv_of_ok hx (hlines _)
        split <;> exact ht
      · exact hlines _
  · exact hreach
  · exact hreach

theorem State.fetchParts_inv (gid : Nat) (g : Group) (op : MatrixOp) (l : List Part) : ∀ {s : State}, s.Inv → (s.fetchParts gid g op l).1.Inv := by
  induction l with
  | nil => exact fun h => h
  | cons p ps ih =>
    intro s h
    unfold State.fetchParts
    split
    · exact ih h
    · next va _ =>
      have himage := State.fetchImage_inv h gid g op (opFormat op).1 (opFormat op).2 va
      split <;> rename_i hr <;> rw [hr] at himage
      · exact himage
      · exact himage
      · exact himage
      · exact ih himage

theorem State.performStep_inv {s : State} (h : s.Inv) (gid : Nat) (g : Group) (name : Nat) (t : Tile) (op : MatrixOp) (rest : List MatrixOp) :
    (s.performStep gid g name t op rest).Inv := by
  have hparts := State.fetchParts_inv gid g op (opParts op) h
  unfold State.performStep
  refine .ite h ?_
  dsimp only
  split
  · exact hparts
  · exact hparts.congr (State.modTile_memory ..)
  · exact hparts.congr (State.runStep_memory ..)
  · exact hparts.congr (State.runStep_memory ..)

theorem State.writeBackLine_inv {s : State} (h : s.Inv) (slice line : Nat) (evict : Bool) : (s.writeBackLine slice line evict).Inv := by
  unfold State.writeBackLine
  dsimp only
  split
  · exact h
  · next l _ =>
    have hback := State.writeBackCxl_inv h (128 * line) l
    exact .ite h (.ite (.ite h (.ite (hback.congr (by simp)) (hback.congr (by simp)))) (.ite (.ite (h.congr (by simp)) (h.congr (by simp)))
      (.ite (h.congr (by simp)) h)))

end Sys2Proof.Machine
end

section
/-! PROOFS. What writes physical memory keeps its canonical form: suspend and resume, keys, and what lands at a reset. -/

namespace Sys2Proof.Machine

/-! ### Suspended contexts -/

theorem State.writeEach_inv (g : Group) (it : Item) (l : List (W64 × W32)) : ∀ {s : State}, s.Inv → (s.writeEach g it l).state.Inv := by
  induction l with
  | nil => exact fun h => h
  | cons w rest ih =>
    intro s h
    have hwrite := State.stackWrite_inv g it false [(w.1, w.2)] h
    unfold State.writeEach
    extract_lets +onlyGivenNames go
    have hgo : ∀ t bad, t.Inv → (go t bad).state.Inv := by
      intro t bad ht
      have hrest := ih ht
      dsimp only [go]
      split
      · next hx => exact StackWork.inv_of_ok hx hrest
      · exact hrest
    split <;> rename_i hr <;> rw [hr] at hwrite
    · exact hgo _ _ hwrite
    · exact hgo _ _ hwrite
    · exact hwrite
    · exact hwrite

theorem State.saveItem_inv {s : State} (h : s.Inv) (gid slot : Nat) : (s.saveItem gid slot).1.Inv := by
  unfold State.saveItem
  split
  · next g it _ _ =>
    extract_lets +onlyGivenNames words unwind fails area
    refine .fst_ite h (.fst_ite h ?_)
    have hwrite := State.writeEach_inv g it words h
    split <;> rename_i hr <;> rw [hr] at hwrite <;> exact hwrite
  · exact h

theorem State.saveStacks_inv {s : State} (h : s.Inv) (ctx : Nat) : (s.saveStacks ctx).1.Inv :=
  State.foldl_fst_inv (fun _ q hr => .fst_ite (State.saveItem_inv hr q.1 q.2) hr) _ h

theorem State.putImage_inv {s : State} (h : s.Inv) (p : Pending) (bs : List W8) : (s.putImage p bs).Inv := by
  unfold State.putImage
  split
  · exact State.firmWrite_inv h ..
  · exact State.physWrite_inv h ..

/-- The state in which the reads of descriptors end. -/
def Descriptors.state : Descriptors → State
  | .notYet s => s
  | .read _ s => s

/-- The state in which a resume ends. -/
def Resumed.state : Resumed → State
  | .notYet s => s
  | .done s _ => s

theorem Descriptors.inv_of_read {r : Descriptors} {ds : List (Except Nat Descriptor)} {t : State} (hr : r = .read ds t)
    (h : r.state.Inv) : t.Inv := by
  rwa [hr] at h

theorem State.readDescriptors_inv (ctx : Nat) (l : List (List W8)) : ∀ {s : State}, s.Inv → (s.readDescriptors ctx l).state.Inv := by
  induction l with
  | nil => exact fun h => h
  | cons b bs ih =>
    intro s h
    have hdesc := State.readDescriptor_inv h ctx (word64 b 0)
    unfold State.readDescriptors
    split <;> rename_i hr <;> rw [hr] at hdesc
    · exact hdesc
    · have hrest := ih h
      split
      · next hx => exact Descriptors.inv_of_read hx hrest
      · exact hrest
    · have hrest := ih hdesc
      split
      · next hx => exact Descriptors.inv_of_read hx hrest
      · exact hrest

theorem State.resumeImage_inv {s : State} (h : s.Inv) (ctx : Nat) (b : List W8) : (s.resumeImage ctx b).state.Inv := by
  unfold State.resumeImage
  split
  · exact h
  · next p hp =>
    split
    · exact h
    · have hread := State.readDescriptors_inv ctx p.kernels h
      split <;> rename_i hr <;> rw [hr] at hread
      · exact hread
      · next ds t =>
        split
        · exact hread
        · split
          · exact hread
          · have hbegun := State.beginSegment_inv (State.Inv.congr hread (State.modContext_memory t ctx (fun c => { c with state := .active }))) ctx
            dsimp only
            refine State.Inv.congr hbegun ((State.restoreGroups_memory ..).trans ((State.unpark_memory ..).trans
              ((State.foldl_memory (fun u x => ?_) _ _).trans ((State.restoreKernels_memory ..).trans (State.foldl_memory (fun u q => ?_) _ _)))))
            · split <;> rfl
            · split <;> rfl

theorem State.readArea_inv {s : State} (h : s.Inv) (a : Asker) (via : Nat) (area : W64) (n : Nat) : (s.readArea a via area n).Inv := by
  unfold State.readArea
  split
  · exact State.firmRead_inv h ..
  · split
    · exact h
    · trivial

theorem State.resume_inv {s : State} (h : s.Inv) (ctx : Nat) (a : Asker) (via : Nat) (area : W64) (size : Nat) :
    (s.resume ctx a via area size).state.Inv := by
  unfold State.resume
  split
  · exact h
  · have hhead := State.readArea_inv h a via area 128
    split <;> rename_i hr <;> rw [hr] at hhead
    · exact hhead
    · exact h
    · exact h
    · next bs t =>
      dsimp only
      split
      · exact hhead
      · split
        · exact hhead
        · have hall := State.readArea_inv hhead a via area (leAt bs 0x10 8)
          split <;> rename_i hw <;> rw [hw] at hall
          · exact hall
          · exact hhead
          · exact hhead
          · split
            · exact hall
            · exact State.resumeImage_inv hall ..

theorem State.continueResume_inv {s : State} (h : s.Inv) : s.continueResume.Inv := by
  unfold State.continueResume
  split
  · exact h
  · next id p _ =>
    have hresume := State.resume_inv h p.ctx p.asker p.via p.area p.size
    split <;> rename_i hr <;> rw [hr] at hresume
    · exact hresume
    · exact State.Inv.congr hresume (State.answer_memory ..)

/-! ### Keys -/

theorem State.zeroNear_inv {s : State} (h : s.Inv) (regions : List Region) : (s.zeroNear regions).Inv := Memory.wf_filter h _ _

theorem State.rekeyContext_inv {s : State} (h : s.Inv) (ctx : Nat) : (s.rekeyContext ctx).1.Inv := by
  unfold State.rekeyContext
  refine .fst_ite h ?_
  split
  · exact h
  · next k _ =>
    have hzero := State.zeroNear_inv (h.congr ((State.bindKey_memory _ k).trans (State.sweepKey_memory s (s.context ctx).key))) (s.context ctx).regions
    exact hzero

theorem State.raiseLoad_inv {s : State} (h : s.Inv) (e : Env) (ctx t : Nat) (area : W64) (size : Nat) :
    (s.raiseLoad e ctx t area size).state.Inv := by
  have hresume := State.resume_inv h t (.item e.gid e.slot) ctx area size
  unfold State.raiseLoad
  split
  · exact h
  · split
    · exact h
    · split
      · exact h
      · split <;> rename_i hr <;> rw [hr] at hresume
        · exact State.Inv.congr hresume (State.awaitResume_memory ..)
        · exact hresume

theorem State.raiseRekey_inv {s : State} (h : s.Inv) (t : Nat) : (s.raiseRekey t).state.Inv := by
  unfold State.raiseRekey
  split
  · exact h
  · exact State.rekeyContext_inv h t

/-! ### Resets -/

theorem State.finishChunk_inv {s : State} (h : s.Inv) (id j : Nat) (c : Command) : (s.finishChunk id j c).Inv := by
  unfold State.finishChunk
  split
  · next g k _ _ =>
    dsimp only
    have hreach := h.congr (State.reachChunk_memory s c.die c.ctx ((State.chunkOf c g j).1.reads ++ (State.chunkOf c g j).1.writes))
    split
    · next hr =>
      rw [hr] at hreach
      refine State.foldl_inv (fun t p ht => .ite ?_ ht) _ hreach
      exact Memory.store_wf ht _ _ _
    · exact h
  · exact h

theorem State.finishLines_inv {s : State} (h : s.Inv) : s.finishLines.Inv :=
  State.foldl_inv (fun _ _ ht => State.foldl_inv (fun _ _ hu => .ite (State.writeBackCxl_inv hu _ _) hu) _ ht) _ h

theorem State.settleWrites_inv {s : State} (h : s.Inv) : s.settleWrites.Inv :=
  State.finishLines_inv (State.foldl_inv (fun _ _ ht => State.foldl_inv (fun _ _ hu => State.finishChunk_inv hu _ _ _) _ ht) _
    (State.foldl_inv (fun _ _ ht => State.finishAccess_inv ht _ _) _ h))

theorem State.coldReset_inv (s : State) (cause : Nat) : (s.coldReset cause).Inv := Memory.zero_wf

theorem State.warmReset_inv {s : State} (h : s.Inv) (cause : Nat) : (s.warmReset cause).Inv := State.settleWrites_inv h

end Sys2Proof.Machine
end

section
/-! PROOFS. What an instruction of the opcode table leaves of physical memory's canonical form (12 R250): the forms whose meaning is their own. -/

namespace Sys2Proof.Machine

/-- The state an outcome goes on with is canonical. -/
def Canonical : Host.Outcome State Fault Refusal → Prop
  | .next t => t.Inv
  | .fault _ => True
  | .refused _ => True

/-- A meaning that leaves memory alone keeps the canonical form. -/
theorem State.Inv.canonical {s t : State} (h : s.Inv) (hm : t.memory = s.memory) : Canonical (.next t) := h.congr hm

section
variable {s : State} (h : s.Inv)
include h

/-! ### Waves -/

theorem execExit_canonical (o : Form) : Canonical (execExit o s) := by
  refine h.canonical ((State.groupTests_memory ..).trans (State.commitWave_memory (fun e u => ?_) ..))
  (repeat' split) <;> simp

theorem execRfpt_canonical (o : Form) : Canonical (execRfpt o s) := by
  refine h.canonical ((State.groupTests_memory ..).trans (State.foldWave_memory (fun e u => ?_) ..))
  dsimp only
  (repeat' split) <;> simp

theorem execMigr_canonical (o : Form) : Canonical (execMigr o s) := by
  refine State.Inv.congr (State.foldWave_inv (fun e u hu => State.withGroup_inv hu (fun g => ?_) _) _ _ h) (State.groupTests_memory ..)
  refine .ite (hu.congr (by simp)) (.ite (hu.congr (by simp)) (.ite (hu.congr (by simp)) ?_))
  split
  · exact hu.congr (by simp)
  · next hwait => exact hu.congr ((Env.finish_memory ..).trans (State.reachGlobal_wait hwait))
  · exact State.migrate_inv hu ..

theorem execLdfe_canonical (o : MemForm) : Canonical (execLdfe o s) := by
  refine h.canonical (State.commitWave_memory (fun e u => State.withGroup_memory (fun g => ?_) _) ..)
  dsimp only
  (repeat' split) <;> simp

theorem execStfe_canonical (o : MemForm) : Canonical (execStfe o s) := by
  refine h.canonical (State.commitWave_memory (fun e u => State.withGroup_memory (fun g => ?_) _) ..)
  dsimp only
  (repeat' split) <;> simp

theorem execLd_canonical (o : MemForm) : Canonical (execLd o s) := by
  refine h.canonical (State.foldWave_memory (fun e u => State.withGroup_memory (fun g => ?_) _) ..)
  split <;> simp

theorem execSt_canonical (o : MemForm) : Canonical (execSt o s) := by
  refine h.canonical (State.commitWave_memory (fun e u => State.withGroup_memory (fun g => ?_) _) ..)
  split <;> simp

theorem execLdu_canonical (o : MemForm) : Canonical (execLdu o s) :=
  h.canonical (State.foldWave_memory (fun _ _ => State.withGroup_memory (fun _ => State.globalLoad_memory ..) _) ..)

/-! ### Barriers and waits -/

theorem execBarWait_canonical (o : BarForm) : Canonical (execBarWait o s) := by
  refine h.canonical (State.barrierWave_memory (fun e u => ?_) ..)
  split <;> simp

theorem execBarDrop_canonical (o : BarForm) : Canonical (execBarDrop o s) := by
  refine h.canonical (State.barrierWave_memory (fun e u => ?_) ..)
  dsimp only
  split <;> simp

theorem execBarRed_canonical (o : BarRedForm) : Canonical (execBarRed o s) := by
  refine h.canonical (State.barrierWave_memory (fun e u => ?_) ..)
  dsimp only
  (repeat' split) <;> simp

theorem execAbarInit_canonical (o : Form) : Canonical (execAbarInit o s) := by
  refine h.canonical (State.foldWave_memory (abarForm_memory (fun e g x u => ?_) _ _ _ _) ..)
  dsimp only
  split <;> simp

theorem execAbarArrive_canonical (o : Form) : Canonical (execAbarArrive o s) := by
  refine h.canonical (State.foldWave_memory (abarForm_memory (fun e g x u => ?_) _ _ _ _) ..)
  split <;> simp

theorem execAbarWait_canonical (o : Form) : Canonical (execAbarWait o s) := by
  refine h.canonical (State.foldWave_memory (abarForm_memory (fun e g x u => ?_) _ _ _ _) ..)
  dsimp only
  split <;> simp

theorem execWaitv_canonical (o : WaitvForm) : Canonical (execWaitv o s) := by
  refine State.commitWave_inv (fun e u hu => State.withGroup_inv hu (fun g => ?_) _) _ _ h
  dsimp only
  split
  · exact hu.congr (by simp)
  · next hwait => exact hu.congr ((Env.finish_memory ..).trans (State.reachGlobal_wait hwait))
  · split
    · exact State.waitvRead_inv hu ..
    · exact State.waitvRead_inv hu ..
    · exact .ite (hu.congr (by simp)) (State.waitvRead_inv (hu.congr (State.orderBefore_memory ..)) ..)

theorem execWaitc_canonical (o : WaitcForm) : Canonical (execWaitc o s) := by
  refine State.commitWave_inv (fun e u hu => State.withGroup_inv hu (fun g => .ite (hu.congr (Env.finish_memory ..)) ?_) _) _ _ h
  split
  · exact hu.congr (State.deliverDeferred_memory ..)
  · exact hu.congr ((Env.finish_memory ..).trans (by simp))

/-! ### Tiles -/

theorem execMacq_canonical (o : MacqForm) : Canonical (execMacq o s) := by
  refine State.around_keeps (P := fun m => m.wf = true) (fun u hu => ?_) h _
  refine State.Inv.congr hu ?_
  split
  · rfl
  · split
    · simp
    · simp
    · dsimp only
      (repeat' split) <;> simp

theorem execMloop_canonical (o : Form) : Canonical (execMloop o s) := by
  refine h.canonical (State.tileWave_memory (fun e g es t u hu => ?_) ..)
  grind [State.queueOp_memory]

theorem execMloopg_canonical (o : Form) : Canonical (execMloopg o s) := by
  refine h.canonical (State.tileWave_memory (fun e g es t u hu => ?_) ..)
  grind [State.queueOp_memory, State.recordSpan_memory]

theorem execMwlat_canonical (o : LatchForm) : Canonical (execMwlat o s) := by
  refine h.canonical (State.tileWave_memory (fun e g es t u hu => ?_) ..)
  grind [State.queueOp_memory]

theorem execMstep_canonical (o : Form) : Canonical (execMstep o s) := by
  refine h.canonical (State.tileWave_memory (fun e g es t u hu => ?_) ..)
  grind [State.queueOp_memory]

theorem execMrel_canonical (o : Form) : Canonical (execMrel o s) := by
  refine h.canonical (State.tileWave_memory (fun e g es t u hu => ?_) ..)
  cases hu
  rfl

theorem execMzero_canonical (o : Form) : Canonical (execMzero o s) := by
  refine h.canonical (State.tileWave_memory (fun e g es t u hu => ?_) ..)
  cases hu
  rfl

theorem execMscale_canonical (o : Form) : Canonical (execMscale o s) := by
  refine h.canonical (State.tileWave_memory (fun e g es t u hu => ?_) ..)
  dsimp only at hu
  split at hu
  · cases hu
  · cases hu
    rfl

theorem execMdrains_canonical (o : DrainForm) : Canonical (execMdrains o s) := by
  refine h.canonical (State.tileWave_memory (fun e g es t u hu => ?_) ..)
  dsimp only at hu
  split at hu
  · cases hu
  · split at hu
    · cases hu
    · split at hu
      · cases hu
      · split at hu
        · cases hu
        · cases hu
          exact State.foldl_memory (fun s r => (State.spadFill_memory ..).trans (State.raiseNow_memory ..)) _ _

/-! ### Queues and channels -/

theorem execChclose_canonical (o : Form) : Canonical (execChclose o s) := by
  refine h.canonical (State.commitWave_memory (queueForm_memory (fun e g k b u => ?_) _ _ _) ..)
  dsimp only
  (repeat' split) <;> simp

theorem execChavail_canonical (o : Form) : Canonical (execChavail o s) := by
  refine h.canonical (State.commitWave_memory (queueForm_memory (fun e g k b u => ?_) _ _ _) ..)
  simp

theorem execQpush_canonical (o : Form) : Canonical (execQpush o s) := by
  refine h.canonical (State.commitWave_memory (queueForm_memory (fun e g k b u => ?_) _ _ _) ..)
  (repeat' split) <;> simp

theorem execQpop_canonical (o : Form) : Canonical (execQpop o s) := by
  refine h.canonical (State.commitWave_memory (queueForm_memory (fun e g k b u => ?_) _ _ _) ..)
  (repeat' split) <;> simp

theorem execQtrypop_canonical (o : Form) : Canonical (execQtrypop o s) := by
  refine h.canonical (State.commitWave_memory (queueForm_memory (fun e g k b u => ?_) _ _ _) ..)
  dsimp only
  split
  · simp
  · next ok t ht => 
    have ht := State.tryOutcome_memory ht
    (repeat' split) <;> simp [ht]

theorem execQtrypush_canonical (o : Form) : Canonical (execQtrypush o s) := by
  refine h.canonical (State.commitWave_memory (queueForm_memory (fun e g k b u => ?_) _ _ _) ..)
  grind [Env.finish_memory, State.storePush_memory, State.tryOutcome_memory]

/-! ### The system forms -/

theorem execLaunch_canonical (o : Form) : Canonical (execLaunch o s) := State.commitWave_inv (fun e _ hu => launchForm_inv o e hu) _ _ h

theorem contextForm_inv {raise : Env → Nat → Nat → W64 → Nat → State → Raised} (hraise : ∀ e c t a n u, u.Inv → (raise e c t a n u).state.Inv)
    (i : Instr) (o : Form) (area : Option Nat) (e : Env) : (contextForm i o area raise e s).Inv := by
  refine State.withGroup_inv h (fun g => ?_) _
  split
  · exact h.congr (by simp)
  · refine .ite (h.congr (by simp)) (.ite (h.congr (by simp)) ?_)
    refine .ite (h.congr (by simp)) (.ite (h.congr (by simp)) (.ite (h.congr (by simp)) (.ite (h.congr (by simp)) ?_)))
    have hraised := hraise e g.ctx (e.it.readV o.a).toNat (if area.isSome then e.it.readV2 o.b else 0) (2 ^ area.getD 0) s h
    split <;> rename_i hr <;> rw [hr] at hraised
    · exact State.Inv.congr hraised (Env.giveStatus_memory ..)
    · exact hraised

theorem execCtxload_canonical (o : SizeForm) : Canonical (execCtxload o s) :=
  State.commitWave_inv (fun e _ hu => contextForm_inv hu (fun _ _ _ _ _ _ hv => State.raiseLoad_inv hv ..) _ _ _ e) _ _ h

theorem execKretire_canonical (o : Form) : Canonical (execKretire o s) :=
  State.commitWave_inv (fun e _ hu => contextForm_inv hu (fun _ _ _ _ _ _ hv => State.raiseRekey_inv hv _) _ _ _ e) _ _ h

theorem execPgprobe_canonical (o : Form) : Canonical (execPgprobe o s) := by
  refine h.canonical (State.commitWave_memory (fun e u => State.withGroup_memory (fun g => ?_) _) ..)
  dsimp only
  split <;> simp

theorem execHcflush_canonical (o : Form) : Canonical (execHcflush o s) := by
  refine h.canonical ((State.commitWave_memory (fun e u => State.withGroup_memory (fun g => ?_) _) ..).trans (State.flushWave_memory ..))
  split
  · simp
  · split <;> simp

theorem execHcstop_canonical (o : ImmForm) : Canonical (execHcstop o s) := by
  refine h.canonical ?_
  split
  · rfl
  · dsimp only
    split
    · simp
    · refine State.commitWave_memory (fun e u => State.withGroup_memory (fun g => ?_) _) ..
      split <;> simp

theorem execHcread_canonical (o : SelForm) : Canonical (execHcread o s) := by
  refine h.canonical (State.foldWave_memory (fun e u => State.withGroup_memory (fun g => ?_) _) ..)
  simp

end

end Sys2Proof.Machine
end

section
/-! PROOFS. What a step of the machine's own leaves of physical memory's canonical form (12 R250): commands of the ring, and the events. -/

namespace Sys2Proof.Machine

section
variable {s : State} (h : s.Inv)
include h

/-! ### Commands of the ring -/

theorem State.runCommand_inv {f : List W8 → State → State × Nat} (hf : ∀ c t, t.Inv → (f c t).1.Inv) (opc : Nat) (q : List W8 → Bool) :
    (s.runCommand opc q f).Inv := by
  unfold State.runCommand
  split
  · exact .ite (State.Inv.congr (hf _ _ (h.congr (State.acceptCommand_memory s))) (State.answerSlot_memory ..)) h
  · exact h

theorem State.contextCommand_inv {f : Nat → List W8 → State → State × Nat} (hf : ∀ ctx c t, t.Inv → (f ctx c t).1.Inv) (opc : Nat) (area addr : Bool) :
    (s.contextCommand opc area addr f).Inv :=
  State.runCommand_inv h (fun _ _ ht => .fst_ite (hf _ _ _ ht) ht) ..

theorem State.resetCommand_inv {f : State → State} (hf : (f s).Inv) (opc : Nat) : (s.resetCommand opc f).Inv := by
  unfold State.resetCommand
  split
  · exact h
  · exact .ite h (.ite (h.congr (by simp)) (.ite h hf))

theorem execAlloc_canonical : Canonical (execAlloc s) := by
  refine State.contextCommand_inv h (fun ctx c t ht => ?_) ..
  exact .fst_ite (ht.congr (State.modContext_memory ..)) ht

theorem execConfig_canonical : Canonical (execConfig s) := by
  refine h.canonical (State.contextCommand_memory (fun ctx c t => ?_) ..)
  split
  · rfl
  · dsimp only
    split
    · rfl
    · split
      · rfl
      · simp

theorem execStart_canonical : Canonical (execStart s) := by
  refine State.contextCommand_inv h (fun ctx c t ht => ?_) ..
  split
  · exact ht
  · exact State.Inv.congr (State.beginSegment_inv (ht.congr (State.modContext_memory ..)) ctx) (State.enableQueues_memory ..)

theorem execSuspend_canonical : Canonical (execSuspend s) := by
  refine h.canonical ?_
  dsimp only
  (repeat' split) <;> simp

theorem execResume_canonical : Canonical (execResume s) := by
  have hgo := State.continueResume_inv h
  unfold execResume
  split
  · exact hgo
  · next slot c _ =>
    refine State.Inv.ite hgo (.ite (h.congr (by simp)) ?_)
    split
    · exact h.congr (by simp)
    · have hresume := State.resume_inv h (commandCtx c) (.ring slot) 0 (word64 c 8) (leAt c 0x10 8)
      split <;> rename_i hr <;> rw [hr] at hresume
      · exact State.Inv.congr hresume (by simp [Resumed.state])
      · exact State.Inv.congr hresume (by simp [Resumed.state])

theorem execClear_canonical : Canonical (execClear s) := by
  refine h.canonical (State.contextCommand_memory (fun ctx c t => ?_) ..)
  split <;> simp

theorem execKill_canonical : Canonical (execKill s) := by
  refine h.canonical ?_
  dsimp only
  (repeat' split) <;> simp

theorem execRekey_canonical : Canonical (execRekey s) :=
  State.contextCommand_inv h (fun ctx _ _ ht => .fst_ite ht (State.rekeyContext_inv ht ctx)) ..

theorem execUnknownCommand_canonical : Canonical (execUnknownCommand s) := by
  refine h.canonical ?_
  (repeat' split) <;> simp

theorem execAssign_canonical : Canonical (execAssign s) := by
  refine h.canonical (State.runCommand_memory (fun c t => ?_) ..)
  dsimp only
  (repeat' split) <;> rfl

theorem execRelease_canonical : Canonical (execRelease s) := by
  refine h.canonical (State.runCommand_memory (fun c t => ?_) ..)
  dsimp only
  (repeat' split) <;> rfl

theorem execPeers_canonical : Canonical (execPeers s) := by
  refine h.canonical (State.runCommand_memory (fun c t => ?_) ..)
  dsimp only
  (repeat' split) <;> rfl

theorem execInvalidate_canonical : Canonical (execInvalidate s) := by
  refine h.canonical ?_
  dsimp only
  split
  · rfl
  · (repeat' split) <;> simp

theorem execResolve_canonical : Canonical (execResolve s) := by
  refine h.canonical (State.runCommand_memory (fun c t => ?_) ..)
  dsimp only
  (repeat' split) <;> simp

theorem execLinkEnable_canonical : Canonical (execLinkEnable s) := by
  refine h.canonical (State.runCommand_memory (fun c t => ?_) ..)
  (repeat' split) <;> simp

theorem execLinkDisable_canonical : Canonical (execLinkDisable s) := by
  unfold execLinkDisable
  split
  · exact h
  · next slot c _ =>
    refine State.Inv.ite h ?_
    dsimp only
    refine .ite (h.congr (by simp)) (.ite (h.congr (by simp)) (.ite (h.congr (by simp)) ?_))
    have hheld : ∀ {t : State} {q : Prop} [Decidable q] (b : Nat), t.memory = s.memory → (if q then t.writeBackWindow b else t).Inv := fun b ht =>
      .ite (State.writeBackWindow_inv (h.congr ht) b) (h.congr ht)
    refine .ite (State.Inv.congr ?_ (State.modPort_memory ..)) (State.Inv.congr ?_ (State.endDisable_memory ..))
    · exact hheld _ rfl
    · exact hheld _ rfl

theorem execLinkRecover_canonical : Canonical (execLinkRecover s) := by
  refine h.canonical (State.runCommand_memory (fun c t => ?_) ..)
  (repeat' split) <;> simp

theorem execPortcfg_canonical : Canonical (execPortcfg s) := by
  refine h.canonical (State.runCommand_memory (fun c t => ?_) ..)
  dsimp only
  (repeat' split) <;> rfl

theorem execHcRecord_canonical : Canonical (execHcRecord s) := by
  refine h.canonical (State.hcCommand_memory (fun ctx c t => ?_) ..)
  split <;> simp

theorem execHcStop_canonical : Canonical (execHcStop s) := by
  refine h.canonical (State.hcCommand_memory (fun ctx c t => ?_) ..)
  (repeat' split) <;> simp

theorem execHcRelease_canonical : Canonical (execHcRelease s) := by
  refine h.canonical (State.hcCommand_memory (fun ctx c t => ?_) ..)
  dsimp only
  split <;> simp

theorem execErrack_canonical : Canonical (execErrack s) := by
  refine h.canonical (State.runCommand_memory (fun c t => ?_) ..)
  dsimp only
  (repeat' split) <;> rfl

theorem execAttest_canonical : Canonical (execAttest s) := by
  refine State.runCommand_inv h (fun c t ht => ?_) ..
  exact .fst_ite ht (.fst_ite ht (.fst_ite ht (.fst_ite ht (.fst_ite ht (State.physWrite_inv ht ..)))))

theorem execColdreset_canonical : Canonical (execColdreset s) :=
  State.resetCommand_inv h (f := fun t => t.coldReset 1) (State.coldReset_inv s 1) _

theorem execWarmreset_canonical : Canonical (execWarmreset s) :=
  State.Inv.ite (State.warmReset_inv h 3) (State.resetCommand_inv h (f := fun t => t.warmReset 2) (State.warmReset_inv h 2) _)

/-! ### The host -/

theorem execQueueDoorbell_canonical (queue : Nat) (tail : W64) : Canonical (execQueueDoorbell queue tail s) := by
  unfold execQueueDoorbell
  dsimp only
  refine h.canonical ?_
  split
  · rfl
  · split <;> rfl

theorem execNearcfgWrite_canonical (x : W16) : Canonical (execNearcfgWrite x s) := State.Inv.ite (State.writeNearCfg_inv h x) h

theorem execFrheadWrite_canonical (x : W64) : Canonical (execFrheadWrite x s) := State.Inv.ite (h.congr (State.writeFrHead_memory ..)) h

theorem execZhevportPhysicalWrite_canonical (addr : Nat) (bytes : List W8) : Canonical (execZhevportPhysicalWrite addr bytes s) :=
  State.Inv.ite (State.physWrite_inv h ..) h

theorem execMgmtWindowWrite_canonical (offset : Nat) (bytes : List W8) : Canonical (execMgmtWindowWrite offset bytes s) := by
  refine State.Inv.ite h (.ite (State.writeBlock_inv h ..) (.ite (h.congr (State.writeTail_memory ..)) (.ite ?_
    (.ite h (h.congr (State.rejectWrite_memory s))))))
  refine h.congr (State.foldl_memory (fun t p => ?_) _ _)
  rfl

theorem execBootImage_canonical : Canonical (execBootImage s) := by
  refine h.canonical ?_
  dsimp only
  (repeat' split) <;> rfl

theorem State.zhevPerforms_canonical (r : Config.ZhevRequest) : Canonical (s.zhevPerforms r) := by
  cases r with
  | windowWrite offset bytes =>
    dsimp only [State.zhevPerforms]
    split
    · exact execQueueDoorbell_canonical h ..
    · exact execMgmtWindowWrite_canonical h ..
  | windowRead offset n => exact h.canonical (State.readWindow_memory ..)
  | physicalWrite addr bytes => exact execZhevportPhysicalWrite_canonical h ..
  | other => exact h

theorem State.zhevFlit_canonical (flit : List W8) : Canonical (s.zhevFlit flit) := by
  unfold State.zhevFlit
  extract_lets +onlyGivenNames bytes nak line go
  have hgo : ∀ hd, Canonical (go hd) := by
    intro hd
    dsimp only [go]
    split
    · exact h
    · split
      · exact h
      · split
        · exact h
        · split
          · exact h
          · split
            · refine State.zhevPerforms_canonical ?_ _
              exact h
            · exact h
  split
  · exact h
  · split
    · exact h
    · exact hgo _
    · exact hgo _

/-! ### Kernels, groups and items -/

theorem execLavio_canonical (gid slot : Nat) : Canonical (execLavio gid slot s) := by
  refine h.canonical ?_
  (repeat' split) <;> simp

theorem execBindingPass_canonical : Canonical (execBindingPass s) := by
  have hexamine := State.examine_inv s.queueOrder h
  refine State.Inv.ite h (.ite hexamine ?_)
  split
  · exact hexamine.congr (State.takeHead_memory ..)
  · exact hexamine

theorem execBindSeat_canonical (bind : BindChoice) : Canonical (execBindSeat bind s) := by
  refine h.canonical ?_
  split
  · rfl
  · dsimp only
    split
    · rfl
    · refine (State.modKernel_memory ..).trans (State.foldl_memory (fun t p => ?_) _ _)
      split <;> simp

theorem execLoaderLoad_canonical (core seat : Nat) : Canonical (execLoaderLoad core seat s) := by
  refine h.canonical ?_
  dsimp only
  (repeat' split) <;> simp

theorem execGroupLoadFinished_canonical (core seat : Nat) : Canonical (execGroupLoadFinished core seat s) := by
  refine h.canonical ?_
  (repeat' split) <;> simp

theorem execKernelDone_canonical (kh : Nat) : Canonical (execKernelDone kh s) := by
  refine h.canonical ?_
  (repeat' split) <;> simp

theorem execCompletionRecordUpdate_canonical (update : Nat) : Canonical (execCompletionRecordUpdate update s) := by
  unfold execCompletionRecordUpdate
  split
  · exact h
  · next u _ =>
    refine State.Inv.ite h (.ite (h.congr (by simp)) ?_)
    extract_lets +onlyGivenNames party first
    have hfirst : first.Inv := by
      dsimp only [first]
      split
      · exact State.firmAdd_inv h ..
      · exact h
    clear_value first
    cases first with
    | denied => exact h.congr (by simp)
    | poisoned => exact h.congr (by simp)
    | notYet t => exact hfirst
    | done t =>
      have hsecond := State.firmAdd_inv hfirst u.ctx party u.crec
      dsimp only
      split <;> rename_i hw <;> rw [hw] at hsecond
      · exact State.Inv.congr hfirst (by simp)
      · exact State.Inv.congr hfirst (by simp)
      · exact h
      · exact State.Inv.congr hsecond (State.endUpdate_memory ..)

theorem execGangTimeout_canonical (n : Nat) : Canonical (execGangTimeout n s) := by
  refine h.canonical ?_
  (repeat' split) <;> simp

theorem execGangMemberTimeout_canonical (kh : Nat) : Canonical (execGangMemberTimeout kh s) := by
  refine h.canonical ?_
  (repeat' split) <;> simp

theorem execLanding_canonical (package core : Nat) : Canonical (execLanding package core s) := by
  refine h.canonical ?_
  dsimp only
  split
  · rfl
  · split
    · rfl
    · split
      · rfl
      · split <;> simp

theorem execSuspendImageWrite_canonical (ctx : Nat) : Canonical (execSuspendImageWrite ctx s) := by
  have hsave := State.saveStacks_inv h ctx
  unfold execSuspendImageWrite
  split
  · exact h
  · next id p _ =>
    refine State.Inv.ite h ?_
    dsimp only
    refine .ite hsave ?_
    have hmarred : ((s.saveStacks ctx).1.chargeMarred ctx).Inv := hsave.congr (State.chargeMarred_memory ..)
    refine .ite (hmarred.congr (State.abandonSave_memory ..)) ?_
    have hput := State.putImage_inv hmarred p (((s.saveStacks ctx).1.chargeMarred ctx).contextImage ctx)
    split <;> rename_i hr
    · rw [hr] at hput
      exact State.Inv.congr hput (State.finishSave_memory ..)
    · rw [hr] at hput
      exact hput
    · exact hmarred.congr ((State.answer_memory ..).trans (State.resumeInPlace_memory ..))

theorem execGroupRestore_canonical (core seat image : Nat) : Canonical (execGroupRestore core seat image s) := by
  refine h.canonical ?_
  dsimp only
  split
  · rfl
  · split
    · rfl
    · split
      · rfl
      · simp only [State.ite_memory, State.modKernel_memory, State.modGroup_memory, ite_self]
        refine (State.foldl_memory (fun t c => State.requeue_memory ..) _ _).trans ?_
        simp

theorem execTeardownDrained_canonical (ctx : Nat) : Canonical (execTeardownDrained ctx s) := by
  refine h.canonical ?_
  dsimp only
  (repeat' split) <;> rfl

theorem execSwept_canonical (ctx : Nat) : Canonical (execSwept ctx s) := by
  refine State.Inv.ite h ?_
  dsimp only
  have hswept : (if (s.context ctx).key = 0 then s else s.sweepKey (s.context ctx).key).Inv := .ite h (h.congr (State.sweepKey_memory ..))
  refine State.foldl_inv (fun t p ht => ?_) _ ?_
  · exact State.Inv.congr ht (State.answer_memory ..)
  · exact State.Inv.congr (State.zeroNear_inv hswept (s.context ctx).regions) rfl

theorem execStarvation_canonical (gid slot : Nat) : Canonical (execStarvation gid slot s) := by
  refine h.canonical ?_
  (repeat' split) <;> simp

theorem execSpillFillDone_canonical (core : Nat) : Canonical (execSpillFillDone core s) := by
  unfold execSpillFillDone
  split
  · exact h
  · next gid slot _ =>
    split
    · next g it _ _ =>
      extract_lets +onlyGivenNames env e wake
      have hwake : ∀ t f, t.Inv → (wake t f).Inv := fun t f ht => ht.congr (State.modItem_memory ..)
      refine State.Inv.ite (hwake _ _ h) ?_
      split
      · next need _ _ _ =>
        have hspill := State.spillFor_inv h g e need
        split <;> rename_i hr <;> rw [hr] at hspill
        · exact hwake _ _ hspill
        · exact hspill
        · exact hwake _ _ hspill
        · exact hspill
      · have hfill := State.fillFor_inv h g e
        split <;> rename_i hr <;> rw [hr] at hfill
        · exact hwake _ _ hfill
        · exact hfill
        · exact hwake _ _ hfill
        · exact hfill
      · exact State.fillFrame_inv h ..
      · exact h
    · exact h

theorem execCrossLaneDeadlock_canonical (gid window : Nat) : Canonical (execCrossLaneDeadlock gid window s) :=
  State.Inv.ite (h.congr (State.fetchTraps_memory ..)) h

/-! ### Engines and memory -/

theorem execMatrixStep_canonical (gid name : Nat) : Canonical (execMatrixStep gid name s) := by
  unfold execMatrixStep
  split
  · exact h
  · split
    · exact h
    · split
      · exact h
      · exact h.congr (State.failTile_memory ..)
      · exact h
      · exact State.Inv.ite h (State.performStep_inv h ..)

theorem execMemoryAccessServed_canonical (id : Nat) : Canonical (execMemoryAccessServed id s) := by
  unfold execMemoryAccessServed
  split
  · exact h
  · refine State.Inv.ite h (.ite (.ite (h.congr (State.accessTraps_memory ..)) h) ?_)
    split
    · exact State.serveLoad_inv h ..
    · exact State.serveLoad_inv h ..
    · exact State.serveStore_inv h ..
    · exact State.serveAtomic_inv h ..
    · exact State.serveAtomic_inv h ..

theorem execPersistentRequest_canonical (slice line : Nat) (write : Bool) : Canonical (execPersistentRequest slice line write s) := State.Inv.ite h h

theorem execArbiterGrantVisit_canonical : Canonical (execArbiterGrantVisit s) := by
  refine h.canonical ?_
  split <;> rfl

theorem execHaloTokenPass_canonical (slice : Nat) : Canonical (execHaloTokenPass slice s) := State.Inv.ite h h

theorem execWaitvTimeout_canonical (gid slot : Nat) : Canonical (execWaitvTimeout gid slot s) := by
  refine h.canonical ?_
  (repeat' split) <;> simp

theorem execEngineChunk_canonical (command chunk : Nat) : Canonical (execEngineChunk command chunk s) := by
  have hbegun := State.chunkBegun_inv h command chunk
  unfold execEngineChunk
  dsimp only
  split
  · exact State.Inv.congr hbegun (by simp)
  · exact hbegun

theorem execChannelSlotDeliver_canonical (gid queue : Nat) : Canonical (execChannelSlotDeliver gid queue s) := by
  refine h.canonical ?_
  dsimp only
  split
  · split
    · rfl
    · split
      · rfl
      · split
        · rfl
        · next hd =>
          have hd := State.deliverSlot_memory hd
          exact (State.tellDone_memory ..).trans hd
  · split
    · rfl
    · split
      · rfl
      · split
        · rfl
        · next hd =>
          have hd := State.deliverSlot_memory hd
          exact (State.tellClosed_memory ..).trans hd

theorem execCollectiveJoin_canonical (join : Nat) : Canonical (execCollectiveJoin join s) := by
  unfold execCollectiveJoin
  split
  · exact h
  · split
    · exact h
    · refine State.Inv.ite h (.ite (.ite h h) (.ite h (.ite h (.ite h ?_))))
      refine h.congr (State.foldl_memory (fun t x => ?_) _ _)
      dsimp only
      split <;> simp

theorem execCollectiveChunk_canonical (join member chunk : Nat) : Canonical (execCollectiveChunk join member chunk s) := by
  refine h.canonical ?_
  split
  · rfl
  · split
    · split
      · rfl
      · split
        · simp
        · split
          · next hc => simpa using State.formCollective_memory hc
          · rfl
    · rfl

theorem execIsobarPeriod_canonical (regulator : Regulator) (ctx : Nat) : Canonical (execIsobarPeriod regulator ctx s) := by
  cases regulator <;> exact h.canonical rfl

theorem execPageWalk_canonical (id : Nat) : Canonical (execPageWalk id s) := by
  refine h.canonical ?_
  dsimp only
  split
  · rfl
  · split
    · rfl
    · split
      · simp
      · rw [State.mapWaiting_memory]
        split <;> simp

theorem execFaultRecordAppend_canonical : Canonical (execFaultRecordAppend s) := by
  unfold execFaultRecordAppend
  split
  · exact h
  · next id f _ =>
    refine State.Inv.ite h ?_
    dsimp only
    have hwritten := State.physWrite_inv h (s.dev.frBase + 32 * (s.dev.frTail % 2 ^ s.dev.frLog)) (faultRecord f s.nextFid)
    generalize s.physWrite (s.dev.frBase + 32 * (s.dev.frTail % 2 ^ s.dev.frLog)) (faultRecord f s.nextFid) = t at hwritten ⊢
    exact hwritten

/-! ### Links and ports -/

theorem execFlitReceive_canonical (link : Nat) (flit : List W8) : Canonical (execFlitReceive link flit s) := by
  have hgo : ∀ (t : State) (hd : Header) (bytes : List W8), t.Inv → (execFlitReceive.go t link hd bytes).Inv := fun t hd bytes ht =>
    .ite (.ite ht (ht.congr (State.modLink_memory ..))) (.ite ht (.ite (ht.congr (State.modLink_memory ..)) (State.flitAccepted_inv ht ..)))
  refine State.Inv.ite h (.ite (State.linkDelivers_inv h link) (.ite h ?_))
  dsimp only
  split
  · exact .ite h (h.congr (State.modLink_memory ..))
  · exact hgo _ _ _ h
  · exact hgo _ _ _ (h.congr (State.modLink_memory ..))

theorem execRetryPeriod_canonical (link : Nat) : Canonical (execRetryPeriod link s) :=
  State.Inv.ite h (State.Inv.congr (.ite (h.congr (State.exceed_memory ..)) h) (State.modLink_memory ..))

theorem execLinkTrained_canonical (link : Nat) (found : Training) : Canonical (execLinkTrained link found s) := by
  refine h.canonical ?_
  dsimp only
  (repeat' split) <;> simp

theorem execLinkTrainTimeout_canonical (link : Nat) : Canonical (execLinkTrainTimeout link s) := State.Inv.ite h (h.congr (State.isolateLink_memory ..))

theorem execLinkSilence_canonical (link : Nat) : Canonical (execLinkSilence link s) := State.Inv.ite h (h.congr (State.retrainLink_memory ..))

theorem execDisableFlushTimeout_canonical (link : Nat) : Canonical (execDisableFlushTimeout link s) :=
  State.Inv.ite h (h.congr (State.rerouteHeld_memory ..))

theorem execZhevportTrained_canonical (good : Bool) : Canonical (execZhevportTrained good s) := State.Inv.ite h (State.Inv.ite h (State.Inv.ite h h))

theorem execZhevportIsolationExpiry_canonical : Canonical (execZhevportIsolationExpiry s) := State.Inv.ite h h

theorem execCxlTrained_canonical (port : Nat) (found : CxlTraining) : Canonical (execCxlTrained port found s) :=
  State.Inv.ite h (h.congr (State.modPort_memory ..))

theorem execCxlTrainTimeout_canonical (port : Nat) : Canonical (execCxlTrainTimeout port s) := State.Inv.ite h (h.congr (State.isolatePort_memory ..))

theorem execCxlRequestTimeout_canonical (port request : Nat) : Canonical (execCxlRequestTimeout port request s) :=
  State.Inv.ite h (h.congr (State.isolatePort_memory ..))

theorem execCxlLinkDown_canonical (port : Nat) : Canonical (execCxlLinkDown port s) := State.Inv.ite h (h.congr (State.isolatePort_memory ..))

theorem execCxlResponse_canonical (port request : Nat) (answer : CxlAnswer) : Canonical (execCxlResponse port request answer s) := by
  refine h.canonical ?_
  dsimp only
  split
  · rfl
  · split
    · split <;> simp
    · split
      · rfl
      · split
        · split
          · rfl
          · exact (State.takeResponse_memory ..).trans (State.foldl_memory (fun s _ => s.logEntry_memory ..) _ _)
        · simp

theorem execCxlIoRequest_canonical (port : Nat) (request : IoRequest) : Canonical (execCxlIoRequest port request s) := by
  refine h.canonical ?_
  (repeat' split) <;> simp

/-! ### Recorders, errors and power -/

theorem execChunkClose_canonical (ctx recorder : Nat) : Canonical (execChunkClose ctx recorder s) := by
  refine h.canonical ?_
  dsimp only
  (repeat' split) <;> simp

theorem execScrub_canonical (line array : Nat) : Canonical (execScrub line array s) :=
  State.Inv.ite h (State.Inv.congr (State.poisonLine_inv h (128 * line)) ((State.countUncorrected_memory ..).trans (State.deviceError_memory ..)))

theorem execFatalError_canonical : Canonical (execFatalError s) :=
  h.canonical ((State.killEverything_memory _).trans (State.deviceError_memory ..))

theorem execPowerPeriod_canonical (die power : Nat) : Canonical (execPowerPeriod die power s) := State.Inv.ite h h

theorem execRailOvercurrent_canonical (die current : Nat) : Canonical (execRailOvercurrent die current s) := State.Inv.ite h h

theorem execThermalThrottle_canonical (die : Nat) : Canonical (execThermalThrottle die s) := State.Inv.ite h h

theorem execThermalTrip_canonical (die : Nat) : Canonical (execThermalTrip die s) :=
  State.Inv.ite h (State.warmReset_inv (h.congr (State.deviceError_memory ..)) 4)

end

end Sys2Proof.Machine
end

section
/-! PROOFS. Every step keeps physical memory in its canonical form (O60): every meaning does, so the waves, the
events and the steps that are due do. -/

namespace Sys2Proof.Machine

/-- Every meaning keeps the canonical form. -/
theorem exec_canonical (i : Instr) {s : State} (h : s.Inv) : Canonical (exec i s) := by
  cases i with
  | iadd o | isub o | imul o | and o | or o | xor o | shl o | shr o | sar o | imin o | imax o | umin o | umax o | iaddsat o | isubsat o | iaddi o
  | andi o | ori o | xori o | shli o | shri o | sari o | icmp o | imulhi o | umulhi o | idiv o | udiv o | irem o | urem o | popc o | clz o
  | brev o | bfe o | bfes o | bfi o | sel o | imad o | addc o | subb o | iadd64 o | isub64 o | shl64 o | shr64 o | sar64 o | lea o | mov o
  | movi o | movl o | fadd o | fsub o | fmul o | fmin o | fmax o | fdiv o | fsqrt o | fma o | fms o | fnma o | fnms o | fcmp o | fclass o
  | fneg o | fabs o | fsgnj o | fsgnjn o | fsgnjx o | fexp2 o | flog2 o | fsin o | fcos o | frcp o | frsq o | fcvt o | fcvti o | icvtf o
  | frint o | fcvtil o | icvtfl o | f8pack o | f8unpack o | f16pack o | f16unpack o | xe3m2 o | xe2m3 o | xint4 o | mxq o | mxdq o | mxscale o
  | fsplit o | fjoin o | fdot2 o | fdot4 o | faddl o | fmull o | fmal o | fscale o | fgetexp o | fgetman o | fminnm o | fmaxnm o =>
    exact h.canonical (State.arith_memory ..)
  | bra o | brx o | jmpl o | call o | callx o | calll o | ret o | nop o | brk o | vall o | vany o | ballot o | matchLanes o | wscan o | wred o
  | wfred o | barTest o | hret o | hskip o => exact h.canonical (State.mapWave_memory ..)
  | exit o => exact execExit_canonical h o
  | rfpt o => exact execRfpt_canonical h o
  | migr o => exact execMigr_canonical h o
  | shfli o | shflu o | shfld o | shflx o => exact h.canonical (State.shuffle_memory ..)
  | ld o => exact execLd_canonical h o
  | st o => exact execSt_canonical h o
  | ldu o => exact execLdu_canonical h o
  | ldfe o => exact execLdfe_canonical h o
  | stfe o => exact execStfe_canonical h o
  | atomAdd o | atomAnd o | atomOr o | atomXor o | atomMin o | atomMax o | atomXchg o | atomDecp o | atomFadd o | acas o =>
    exact h.canonical (State.commitWave_memory (globalAtomic_memory _ _ _) ..)
  | satomAdd o | satomAnd o | satomOr o | satomXor o | satomMin o | satomMax o | satomXchg o | satomDecp o | satomFadd o | scas o =>
    exact h.canonical (State.foldWave_memory (spadAtomic_memory _ _ _) ..)
  | fenceAcq o | fenceRel o | fenceAr o | fenceSc o => exact h.canonical (State.commitWave_memory (fenceForm_memory _ _ _ _ _) ..)
  | barWait o => exact execBarWait_canonical h o
  | barDrop o => exact execBarDrop_canonical h o
  | barRed o => exact execBarRed_canonical h o
  | abarInit o => exact execAbarInit_canonical h o
  | abarArrive o => exact execAbarArrive_canonical h o
  | abarWait o => exact execAbarWait_canonical h o
  | waitv o => exact execWaitv_canonical h o
  | wake1 o | wakeall o => exact h.canonical (State.commitWave_memory (wakeForm_memory _ _ _) ..)
  | waitc o => exact execWaitc_canonical h o
  | macq o => exact execMacq_canonical h o
  | mrel o => exact execMrel_canonical h o
  | mzero o => exact execMzero_canonical h o
  | mloop o => exact execMloop_canonical h o
  | mloopg o => exact execMloopg_canonical h o
  | mdrain o | mmeta o | mcsum o => exact h.canonical (State.tileItems_memory ..)
  | mdrains o => exact execMdrains_canonical h o
  | mwlat o => exact execMwlat_canonical h o
  | mstep o => exact execMstep_canonical h o
  | mfill o | madd o => exact h.canonical (fillRows_memory ..)
  | mscale o => exact execMscale_canonical h o
  | xfer o => exact h.canonical (State.commitWave_memory (queueForm_memory (xferItem_memory _) _ _ _) ..)
  | xgather o => exact h.canonical (State.commitWave_memory (queueForm_memory (xgatherItem_memory _) _ _ _) ..)
  | cred o | callred o | credsc o | callg o => exact h.canonical (State.commitWave_memory (queueForm_memory (collItem_memory _ _ _) _ _ _) ..)
  | chclose o => exact execChclose_canonical h o
  | chavail o => exact execChavail_canonical h o
  | qpush o => exact execQpush_canonical h o
  | qpop o => exact execQpop_canonical h o
  | qtrypop o => exact execQtrypop_canonical h o
  | qtrypush o => exact execQtrypush_canonical h o
  | csrw o | csrs o | csrc o => exact h.canonical (State.foldWave_memory (csrForm_memory _ _ _ _) ..)
  | launch o => exact execLaunch_canonical h o
  | ctxsave o => exact h.canonical (State.commitWave_memory (contextForm_memory (fun _ _ _ _ _ t => t.raiseSave_memory ..) _ _ _) ..)
  | ctxkill o => exact h.canonical (State.commitWave_memory (contextForm_memory (fun _ _ _ _ _ t => t.raiseKill_memory ..) _ _ _) ..)
  | ctxload o => exact execCtxload_canonical h o
  | kretire o => exact execKretire_canonical h o
  | tlbinv o | tlbinvall o => exact h.canonical (State.commitWave_memory (invalidateForm_memory _ _ _) ..)
  | pgprobe o => exact execPgprobe_canonical h o
  | hcmark o => exact h.canonical (State.foldWave_memory (hcmarkItem_memory _) ..)
  | hcflush o => exact execHcflush_canonical h o
  | hcstop o => exact execHcstop_canonical h o
  | hcread o => exact execHcread_canonical h o
  | lavio gid slot => exact execLavio_canonical h gid slot
  | alloc => exact execAlloc_canonical h
  | config => exact execConfig_canonical h
  | start => exact execStart_canonical h
  | suspend => exact execSuspend_canonical h
  | resume => exact execResume_canonical h
  | clear => exact execClear_canonical h
  | kill => exact execKill_canonical h
  | rekey => exact execRekey_canonical h
  | unknownCommand => exact execUnknownCommand_canonical h
  | assign => exact execAssign_canonical h
  | release => exact execRelease_canonical h
  | peers => exact execPeers_canonical h
  | invalidate => exact execInvalidate_canonical h
  | resolve => exact execResolve_canonical h
  | linkEnable => exact execLinkEnable_canonical h
  | linkDisable => exact execLinkDisable_canonical h
  | linkRecover => exact execLinkRecover_canonical h
  | portcfg => exact execPortcfg_canonical h
  | hcRecord => exact execHcRecord_canonical h
  | hcStop => exact execHcStop_canonical h
  | hcRelease => exact execHcRelease_canonical h
  | errack => exact execErrack_canonical h
  | attest => exact execAttest_canonical h
  | coldreset => exact execColdreset_canonical h
  | warmreset => exact execWarmreset_canonical h
  | queueDoorbell queue tail => exact execQueueDoorbell_canonical h queue tail
  | nearcfgWrite value => exact execNearcfgWrite_canonical h value
  | frheadWrite value => exact execFrheadWrite_canonical h value
  | zhevportPhysicalWrite addr bytes => exact execZhevportPhysicalWrite_canonical h addr bytes
  | mgmtWindowWrite offset bytes => exact execMgmtWindowWrite_canonical h offset bytes
  | bootImage => exact execBootImage_canonical h
  | bindingPass => exact execBindingPass_canonical h
  | bindSeat bind => exact execBindSeat_canonical h bind
  | loaderLoad core seat => exact execLoaderLoad_canonical h core seat
  | groupLoadFinished core seat => exact execGroupLoadFinished_canonical h core seat
  | kernelDone kh => exact execKernelDone_canonical h kh
  | completionRecordUpdate update => exact execCompletionRecordUpdate_canonical h update
  | gangTimeout n => exact execGangTimeout_canonical h n
  | gangMemberTimeout kh => exact execGangMemberTimeout_canonical h kh
  | landing package core => exact execLanding_canonical h package core
  | suspendImageWrite ctx => exact execSuspendImageWrite_canonical h ctx
  | groupRestore core seat image => exact execGroupRestore_canonical h core seat image
  | teardownDrained ctx => exact execTeardownDrained_canonical h ctx
  | swept ctx => exact execSwept_canonical h ctx
  | starvation gid slot => exact execStarvation_canonical h gid slot
  | spillFillDone core => exact execSpillFillDone_canonical h core
  | crossLaneDeadlock gid window => exact execCrossLaneDeadlock_canonical h gid window
  | matrixStep gid tile => exact execMatrixStep_canonical h gid tile
  | memoryAccessServed access => exact execMemoryAccessServed_canonical h access
  | persistentRequest slice line write => exact execPersistentRequest_canonical h slice line write
  | arbiterGrantVisit => exact execArbiterGrantVisit_canonical h
  | haloTokenPass slice => exact execHaloTokenPass_canonical h slice
  | waitvTimeout gid slot => exact execWaitvTimeout_canonical h gid slot
  | engineChunk command chunk => exact execEngineChunk_canonical h command chunk
  | channelSlotDeliver gid queue => exact execChannelSlotDeliver_canonical h gid queue
  | collectiveJoin join => exact execCollectiveJoin_canonical h join
  | collectiveChunk join member chunk => exact execCollectiveChunk_canonical h join member chunk
  | isobarPeriod regulator ctx => exact execIsobarPeriod_canonical h regulator ctx
  | pageWalk walk => exact execPageWalk_canonical h walk
  | faultRecordAppend => exact execFaultRecordAppend_canonical h
  | flitReceive link flit => exact execFlitReceive_canonical h link flit
  | retryPeriod link => exact execRetryPeriod_canonical h link
  | linkTrained link found => exact execLinkTrained_canonical h link found
  | linkTrainTimeout link => exact execLinkTrainTimeout_canonical h link
  | linkSilence link => exact execLinkSilence_canonical h link
  | disableFlushTimeout link => exact execDisableFlushTimeout_canonical h link
  | zhevportTrained good => exact execZhevportTrained_canonical h good
  | zhevportIsolationExpiry => exact execZhevportIsolationExpiry_canonical h
  | cxlTrained port found => exact execCxlTrained_canonical h port found
  | cxlTrainTimeout port => exact execCxlTrainTimeout_canonical h port
  | cxlRequestTimeout port request => exact execCxlRequestTimeout_canonical h port request
  | cxlLinkDown port => exact execCxlLinkDown_canonical h port
  | cxlResponse port request answer => exact execCxlResponse_canonical h port request answer
  | chunkClose ctx recorder => exact execChunkClose_canonical h ctx recorder
  | scrub line array => exact execScrub_canonical h line array
  | fatalError => exact execFatalError_canonical h
  | powerPeriod die power => exact execPowerPeriod_canonical h die power
  | railOvercurrent die current => exact execRailOvercurrent_canonical h die current
  | thermalThrottle die => exact execThermalThrottle_canonical h die
  | thermalTrip die => exact execThermalTrip_canonical h die
  | cxlIoRequest port request => exact execCxlIoRequest_canonical h port request
  | yield o => exact h.canonical ((State.modGroup_memory ..).trans (State.mapWave_memory ..))
  | pf o => exact h.canonical (State.mapRun_memory ..)
  | barArrive o | barSync o => exact h.canonical (State.barrierWave_memory (barArrival_memory _ _ _) ..)
  | csrr o => exact h.canonical ((State.foldWave_memory (csrForm_memory _ _ _ _) ..).trans (State.advanceCycle_memory ..))
  | illegalEncoding bad => exact h.canonical (State.illegalWave_memory ..)
  | hcReplay | hcVerify => exact h.canonical (State.hcCommand_memory (fun _ _ t => t.startReplay_memory ..) ..)
  | powerOn => exact State.coldReset_inv s 0
  | gangReserve msg => exact State.onReserve_inv h msg
  | gangAck msg => exact h.canonical (State.onAck_memory ..)
  | gangRefuse msg | gangFail msg => exact h.canonical (State.onFail_memory ..)
  | gangCommit msg => exact h.canonical (State.onCommit_memory ..)
  | gangAbort msg => exact h.canonical (State.onAbort_memory ..)
  | gangDone msg => exact h.canonical (State.onDone_memory ..)
  | yieldExpiry gid slot | waitvPoll gid slot => exact h.canonical (State.modItem_memory ..)
  | tokenTransfer move => exact h.canonical (State.moveTokens_memory ..)
  | leaseExpiry cluster line => exact h.canonical (State.modL1_memory ..)
  | snpinv port half | snpdata port half | snpcur port half => exact h.canonical (State.snoop_memory ..)
  | hostMemRead port offset bytes | hostMemWrite port offset data poison => exact State.hostArrives_inv h ..
  | chunkSpill ctx => exact State.spill_inv h ctx
  | telemetryRefresh sensors | peakampsRead | thermalRecovery die => exact h
  | gangQuery msg => exact h.canonical (State.onQuery_memory ..)
  | gangQueryAnswer msg live => exact h.canonical (State.onAnswer_memory ..)

/-! ### The steps that are due -/

/-- Does a step that is due keep the canonical form? -/
def DueStep.Keeps (f : DueStep) : Prop := ∀ ⦃s : State⦄, s.Inv → Canonical (f s)

/-- Do all steps of a list keep the canonical form? -/
def AllKeep (l : List DueStep) : Prop := ∀ f ∈ l, f.Keeps

theorem exec_keeps (i : Instr) : DueStep.Keeps (exec i) := fun _ h => exec_canonical i h

theorem AllKeep.nil : AllKeep [] := fun _ hf => absurd hf List.not_mem_nil

theorem AllKeep.cons {f : DueStep} {l : List DueStep} (hf : f.Keeps) (hl : AllKeep l) : AllKeep (f :: l) := by
  intro g hg
  rcases List.mem_cons.1 hg with rfl | hg
  · exact hf
  · exact hl g hg

theorem AllKeep.single {f : DueStep} (hf : f.Keeps) : AllKeep [f] := .cons hf .nil

theorem AllKeep.append {l m : List DueStep} (hl : AllKeep l) (hm : AllKeep m) : AllKeep (l ++ m) := by
  intro f hf
  rcases List.mem_append.1 hf with hf | hf
  · exact hl f hf
  · exact hm f hf

theorem AllKeep.map {α : Type} {g : α → DueStep} (hg : ∀ a, (g a).Keeps) (l : List α) : AllKeep (l.map g) := by
  intro f hf
  obtain ⟨a, _, rfl⟩ := List.mem_map.1 hf
  exact hg a

theorem AllKeep.flatMap {α : Type} {g : α → List DueStep} (hg : ∀ a, AllKeep (g a)) (l : List α) : AllKeep (l.flatMap g) := by
  intro f hf
  obtain ⟨a, _, hf⟩ := List.mem_flatMap.1 hf
  exact hg a f hf

theorem AllKeep.filterMap {α : Type} {g : α → Option DueStep} (hg : ∀ a f, g a = some f → f.Keeps) (l : List α) :
    AllKeep (l.filterMap g) := by
  intro f hf
  obtain ⟨a, _, hf⟩ := List.mem_filterMap.1 hf
  exact hg a f hf

theorem AllKeep.ite {c : Prop} [Decidable c] {l m : List DueStep} (hl : AllKeep l) (hm : AllKeep m) : AllKeep (if c then l else m) := by
  split
  · exact hl
  · exact hm

theorem State.dueAccesses_keep (s : State) : AllKeep s.dueAccesses := by
  refine .append (.flatMap (fun p => ?_) _) (.ite .nil (.single (exec_keeps .arbiterGrantVisit)))
  refine .append ?_ (.single (exec_keeps (.memoryAccessServed p.1)))
  split
  · next m _ => exact .single (exec_keeps (.tokenTransfer m))
  · exact .nil

theorem State.dueTranslation_keep (s : State) : AllKeep s.dueTranslation := by
  refine .append (.append (.map (fun p => ?_) _) (.ite (.single (exec_keeps .faultRecordAppend)) .nil)) (.map (fun p => ?_) _)
  · exact exec_keeps (.pageWalk p.1)
  · exact exec_keeps (.spillFillDone p.2.core)

theorem State.dueTraps_keep (s : State) : AllKeep s.dueTraps := by
  refine .append (.flatMap (fun p => .append (.filterMap (fun q f hf => ?_) _) (.map (fun w => ?_) _)) _) (.map (fun p => ?_) _)
  · split at hf
    · split at hf
      · cases hf
      · cases hf
        exact exec_keeps (.lavio p.1 q.1)
    · cases hf
  · exact exec_keeps (.crossLaneDeadlock p.1 w)
  · exact exec_keeps (.starvation p.1 p.2)

theorem State.dueEngines_keep (s : State) : AllKeep s.dueEngines := by
  refine .append (.append (.append (.flatMap (fun p => .append (.map (fun x => ?_) _) (.map (fun x => ?_) _)) _) (.map (fun p => ?_) _))
    (.flatMap (fun p => .map (fun c => ?_) _) _)) (.flatMap (fun p => .ite (.flatMap (fun m => .map (fun c => ?_) _) _) (.single ?_)) _)
  · exact exec_keeps (.matrixStep p.1 x.1)
  · exact exec_keeps (.channelSlotDeliver p.1 x.1)
  · exact exec_keeps (.channelSlotDeliver p.1 0)
  · exact exec_keeps (.engineChunk p.1 c)
  · exact exec_keeps (.collectiveChunk p.1 m.1 c)
  · exact exec_keeps (.collectiveJoin p.1)

theorem State.dueLoading_keep (s : State) : AllKeep s.dueLoading := by
  refine .append (.append (.append (.append (.append (.append (.append (.ite (.single (exec_keeps .bindingPass)) .nil)
    (.filterMap (fun p f hf => ?_) _)) (.map (fun p => ?_) _)) (.filterMap (fun p f hf => ?_) _)) (.filterMap (fun p f hf => ?_) _))
    (.filterMap (fun p f hf => ?_) _)) (.map (fun p => ?_) _)) (.map (fun p => ?_) _)
  · obtain ⟨b, _, rfl⟩ := Option.map_eq_some_iff.1 hf
    exact exec_keeps (.bindSeat b)
  · exact exec_keeps (.loaderLoad (p.1 / 4) (p.1 % 4))
  · split at hf
    · next c k _ =>
      split at hf
      · cases hf
        exact exec_keeps (.groupLoadFinished c k)
      · cases hf
    · cases hf
  · obtain ⟨c, _, rfl⟩ := Option.map_eq_some_iff.1 hf
    exact exec_keeps (.landing p.1 c)
  · obtain ⟨x, _, rfl⟩ := Option.map_eq_some_iff.1 hf
    exact exec_keeps (.groupRestore (x / 4) (x % 4) p.1)
  · exact exec_keeps (.kernelDone p.1)
  · exact exec_keeps (.completionRecordUpdate p.1)

theorem State.dueContexts_keep (s : State) : AllKeep s.dueContexts := by
  refine .append (.append (.append (.map (fun p => ?_) _) (.map (fun _ => exec_keeps .resume) _)) (.flatMap (fun p => ?_) _))
    (.ite (.map (fun l => exec_keeps (.flitReceive l [])) _) .nil)
  · exact exec_keeps (.suspendImageWrite p.2.ctx)
  · refine .append (.append (.ite (.single ?_) .nil) (.ite .nil (.single (exec_keeps (.chunkSpill p.1))))) ?_
    · split
      · exact exec_keeps (.swept p.1)
      · exact exec_keeps (.teardownDrained p.1)
    · split
      · exact .nil
      · refine .map (fun r => ?_) _
        exact exec_keeps (.chunkClose p.1 r.1)
      · refine .cons (exec_keeps (.chunkClose p.1 0)) (.filterMap (fun r f hf => ?_) _)
        obtain ⟨_, _, rfl⟩ := Option.map_eq_some_iff.1 hf
        exact exec_keeps (.chunkClose p.1 r)

theorem State.dueHosts_keep (s : State) : AllKeep s.dueHosts := by
  refine .map (fun p t ht => ?_) _
  exact State.hostGoesOn_inv ht p.1

theorem commandStep_keeps (c : List W8) : (commandStep c).Keeps := by
  unfold commandStep
  split
  · exact exec_keeps .alloc
  · exact exec_keeps .config
  · exact exec_keeps .start
  · exact exec_keeps .suspend
  · exact exec_keeps .resume
  · exact exec_keeps .clear
  · exact exec_keeps .kill
  · exact exec_keeps .rekey
  · exact exec_keeps .assign
  · exact exec_keeps .release
  · exact exec_keeps .peers
  · exact exec_keeps .invalidate
  · exact exec_keeps .resolve
  · exact exec_keeps .linkEnable
  · exact exec_keeps .linkDisable
  · exact exec_keeps .linkRecover
  · exact exec_keeps .portcfg
  · exact exec_keeps .hcRecord
  · exact exec_keeps .hcStop
  · exact exec_keeps .hcReplay
  · exact exec_keeps .hcVerify
  · exact exec_keeps .hcRelease
  · exact exec_keeps .errack
  · exact exec_keeps .attest
  · exact exec_keeps .coldreset
  · exact exec_keeps .warmreset
  · exact exec_keeps .unknownCommand

theorem State.dueCommands_keep (s : State) : AllKeep s.dueCommands := by
  refine .append ?_ (.ite (.single (exec_keeps .warmreset)) .nil)
  split
  · exact .single (commandStep_keeps _)
  · exact .nil

theorem State.due_keep (s : State) : AllKeep s.due :=
  .append (.append (.append (.append (.append (.append (.append s.dueAccesses_keep s.dueTranslation_keep) s.dueTraps_keep) s.dueEngines_keep)
    s.dueLoading_keep) s.dueContexts_keep) s.dueHosts_keep) s.dueCommands_keep

theorem State.dueStep_keeps {s : State} {f : DueStep} (hf : s.dueStep = some f) : f.Keeps := s.due_keep f (List.mem_of_getElem? hf)

/-! ### Steps -/

theorem conclude_canonical (before : State) {o : Host.Outcome State Fault Refusal} (h : Canonical o) : Canonical (conclude before o) := by
  cases o with
  | next t => exact State.Inv.congr h (State.endStep_memory before t)
  | fault _ => trivial
  | refused _ => trivial

theorem runWave_canonical {s : State} (h : s.Inv) (w : Wave) (i : Except Illegal Instr) : Canonical (runWave s w i) := by
  have hbegun : (s.beginWave w).Inv := h.congr (State.beginWave_memory s w)
  cases i with
  | error bad => exact conclude_canonical s (exec_canonical (.illegalEncoding bad) hbegun)
  | ok i =>
    have hexec := exec_canonical i hbegun
    dsimp only [runWave]
    cases hr : exec i (s.beginWave w) with
    | next t =>
      rw [hr] at hexec
      refine conclude_canonical s ?_
      exact State.Inv.congr hexec ((State.logShared_memory ..).trans (State.accountGone_memory ..))
    | fault _ => trivial
    | refused _ => trivial

theorem runIssue_canonical {s : State} (h : s.Inv) {r : Issue} (hr : (r.state s).memory = s.memory) : Canonical (runIssue s r) := by
  cases r with
  | none => exact conclude_canonical s (h.canonical rfl)
  | moved t => exact conclude_canonical s (h.canonical hr)
  | run w i => exact runWave_canonical h w i

theorem runEvent_canonical {s : State} (h : s.Inv) (i : Instr) : Canonical (runEvent s i) := by
  unfold runEvent
  split
  · trivial
  · exact conclude_canonical s (exec_canonical i h)

theorem State.act_canonical {s : State} (h : s.Inv) (a : Act) : Canonical (s.act a) := by
  cases a with
  | revoke seat seq => exact h.canonical (State.revoke_memory ..)
  | landGranule command chunk n => exact State.landGranule_inv h ..
  | dropCopy cluster line parity => exact h.canonical (State.dropCopy_memory ..)
  | writeBack slice line evict => exact State.writeBackLine_inv h ..
  | corrected array => exact h.canonical (State.countCorrected_memory ..)
  | upset u => exact h.canonical (State.upset_memory ..)
  | transmit link => exact State.Inv.ite (h.congr (State.transmit_memory ..)) h
  | readWindow offset bytes => exact h.canonical (State.readWindow_memory ..)
  | zhevFlit flit => exact State.zhevFlit_canonical h flit

theorem step_canonical {s : State} (h : s.Inv) : Canonical (step s) := by
  have hcores := runIssue_canonical h (s.tryCores_memory s.busyCores)
  have hdue : ∀ f, s.dueStep = some f → Canonical (conclude s (f s)) := fun f hf => conclude_canonical s (State.dueStep_keeps hf h)
  unfold step
  split
  · refine runEvent_canonical ?_ _
    exact h
  · refine runIssue_canonical ?_ (State.tryCore_memory ..)
    exact h
  · refine conclude_canonical _ (State.act_canonical ?_ _)
    exact h
  · split
    · split
      · next hf => exact hdue _ hf
      · exact hcores
    · split
      · next hf => exact hdue _ hf
      · exact hcores

/-- Settles O60: memory changes by writes, marks of poison and the removal of whole ranges only, and each keeps the canonical form. -/
theorem stepKeepsMemory : Obligations.StepKeepsMemory := by
  intro s t h hstep
  have hnext := step_canonical h
  rwa [hstep] at hnext

end Sys2Proof.Machine
end
